-- ==== Sys2Proof/Word.lean ====
section
/-! DEFINITION. The word types of the TV24: bytes, 32- and 64-bit words, lane masks (R3, R194). -/

namespace Sys2Proof

/-- One byte of memory. -/
abbrev Byte := BitVec 8
/-- A parcel, a vector register of one thread, a tile configuration (R23, R194). -/
abbrev W32 := BitVec 32
/-- A scalar register, a virtual address, a future handle (R194, R74, R364). -/
abbrev W64 := BitVec 64
/-- A mask with one bit for each of the 64 lanes (R9, R194). -/
abbrev Lanes := BitVec 64
/-- A register number as it stands in an operand field (R28). -/
abbrev RegNo := BitVec 8

end Sys2Proof
end

