-- ==== Sys2Proof/Machine/Types.lean ====
section
/-! DEFINITION. The operand vocabulary of the instruction word: element types, rounding, the header, the T byte,
the X1 word, the copy and store extension words, and the agents that issue (R27 to R34, R164, R250, R299). -/

namespace Sys2Proof

/-- Element types, in the order of their TY codes (R29). -/
inductive Ty where
  | b32 | n32 | i64 | n64 | f32 | f16 | bf16 | e4m3 | e5m2 | e3m2 | e2m3 | e2m1 | i8 | n8 | tern | f64
  deriving DecidableEq, Repr

/-- The type a TY code names (R29). -/
def Ty.ofCode (c : BitVec 4) : Ty :=
  match c.toNat with
  | 0 => .b32 | 1 => .n32 | 2 => .i64 | 3 => .n64 | 4 => .f32 | 5 => .f16 | 6 => .bf16 | 7 => .e4m3
  | 8 => .e5m2 | 9 => .e3m2 | 10 => .e2m3 | 11 => .e2m1 | 12 => .i8 | 13 => .n8 | 14 => .tern | _ => .f64

/-- The TY code of a type (R29). -/
def Ty.code : Ty → BitVec 4
  | .b32 => 0 | .n32 => 1 | .i64 => 2 | .n64 => 3 | .f32 => 4 | .f16 => 5 | .bf16 => 6 | .e4m3 => 7
  | .e5m2 => 8 | .e3m2 => 9 | .e2m3 => 10 | .e2m1 => 11 | .i8 => 12 | .n8 => 13 | .tern => 14 | .f64 => 15

/-- Bits of one element (R171, R175, R177). -/
def Ty.bits : Ty → Nat
  | .b32 | .n32 | .f32 => 32
  | .i64 | .n64 | .f64 => 64
  | .f16 | .bf16 => 16
  | .e4m3 | .e5m2 | .i8 | .n8 => 8
  | .e3m2 | .e2m3 => 6
  | .e2m1 => 4
  | .tern => 2

/-- The type is a floating-point type (R171). -/
def Ty.isFp : Ty → Bool
  | .f32 | .f16 | .bf16 | .e4m3 | .e5m2 | .e3m2 | .e2m3 | .e2m1 | .f64 => true
  | _ => false

/-- The type is signed two's complement where it is an integer (R177). -/
def Ty.signed : Ty → Bool
  | .b32 | .i64 | .i8 => true
  | _ => false

/-- A 64-bit type, whose vector operands are even and odd pairs (R28, R189, R214). -/
def Ty.is64 (t : Ty) : Bool := t.bits == 64

/-- Elements of a packed group (R176, R191). -/
def Ty.groupK : Ty → Nat
  | .f16 | .bf16 => 2
  | .e4m3 | .e5m2 | .i8 | .n8 => 4
  | .e3m2 | .e2m3 | .tern => 16
  | .e2m1 => 8
  | _ => 1

/-- Registers of a packed group (R176, R191). -/
def Ty.groupM : Ty → Nat
  | .e3m2 | .e2m3 => 3
  | _ => 1

/-- The SZ code that a global atomic's type implies (R281). -/
def Ty.sz (t : Ty) : BitVec 3 := if t.is64 then 3 else 2

/-- The packed types of f.pack and f.unpack (R189). -/
def packTys : List Ty := [.f16, .bf16, .e5m2, .e4m3, .e3m2, .e2m3, .e2m1, .i8, .n8, .tern]

/-- Rounding modes, in the order of their RND codes (R29, R178). -/
inductive Rnd where
  | rn | rz | rp | rm
  deriving DecidableEq, Repr

/-- The mode an RND code names (R29). -/
def Rnd.ofCode (c : BitVec 2) : Rnd :=
  match c.toNat with
  | 0 => .rn | 1 => .rz | 2 => .rp | _ => .rm

/-- The RND code of a mode (R29). -/
def Rnd.code : Rnd → BitVec 2
  | .rn => 0 | .rz => 1 | .rp => 2 | .rm => 3

/-- The common header less LEN, CLS, OP, SUB and I (R27). -/
structure Hdr where
  pk : Bool
  md : Bool
  kn : Bool
  kp : BitVec 4
  deriving DecidableEq, Repr

/-- KN must be 0 when MD = 1 (R38). -/
def Hdr.ok (h : Hdr) : Bool := !(h.md && h.kn)

/-- The T byte of a typed operation (R29). -/
structure TField where
  ty : Ty
  rnd : Rnd
  sr : Bool
  sat : Bool
  deriving DecidableEq, Repr

/-- The T byte read as type and rounding (R29). -/
def TField.ofByte (t : BitVec 8) : TField :=
  { ty := .ofCode (t.extractLsb' 0 4), rnd := .ofCode (t.extractLsb' 4 2), sr := t.getLsbD 6, sat := t.getLsbD 7 }

/-- The T byte of a type and rounding (R29). -/
def TField.byte (t : TField) : BitVec 8 :=
  BitVec.ofBool t.sat ++ BitVec.ofBool t.sr ++ t.rnd.code ++ t.ty.code

/-- No RND, SR or SAT: what an entry that honours none requires (R30). -/
def TField.plain (t : TField) : Bool := t.rnd == .rn && !t.sr && !t.sat
/-- SAT only (R30, R214). -/
def TField.satOnly (t : TField) : Bool := t.rnd == .rn && !t.sr
/-- RND and SAT, no SR (R30, R220). -/
def TField.noSr (t : TField) : Bool := !t.sr
/-- RND, SR and SAT are honoured, and SR requires RND = rn (R30). -/
def TField.rndOk (t : TField) : Bool := !t.sr || t.rnd == .rn
/-- The type is one of those the entry accepts (R29). -/
def TField.tyIn (t : TField) (l : List Ty) : Bool := l.contains t.ty

/-- The second operand: register B, or IMM16 with I = 1 (R31, R206, R214). -/
inductive Src where
  | reg (r : RegNo)
  | imm (v : BitVec 16)
  deriving DecidableEq, Repr

/-- A scalar register number (R28). -/
def sOk (r : RegNo) : Bool := decide (r.toNat < 64)
/-- A mask register number (R28). -/
def kOk (r : RegNo) : Bool := decide (r.toNat < 16)
/-- A tile or tile-configuration number (R28). -/
def tOk (r : RegNo) : Bool := decide (r.toNat < 8)
/-- An accumulator slot number (R28). -/
def aOk (r : RegNo) : Bool := decide (r.toNat < 32)
/-- A stoker queue number (R28). -/
def qOk (r : RegNo) : Bool := decide (r.toNat < 4)
/-- A scope code (R13, R15). -/
def scOk (c : BitVec 3) : Bool := c != 7
/-- An access size code, b8 to b128 (R34). -/
def szOk (c : BitVec 3) : Bool := decide (c.toNat < 5)
/-- A register group for an access size: b64 even, b128 a multiple of 4 (R147, R281). -/
def grp (sz : BitVec 3) (r : RegNo) : Bool :=
  (sz != 3 || r.toNat % 2 == 0) && (sz != 4 || r.toNat % 4 == 0)
/-- A group of n registers does not pass v255 (R189, R250). -/
def fits (r : RegNo) (n : Nat) : Bool := decide (r.toNat + n ≤ 256)
/-- An OPR code the entry accepts: 0 to 5, or 6 with exch; no bitwise operation on a floating type (R147, R226, R281). -/
def oprOk (o : BitVec 3) (ty : Ty) (exch : Bool) : Bool :=
  (decide (o.toNat < 6) || (exch && o == 6)) && !(ty.isFp && decide (3 ≤ o.toNat) && decide (o.toNat ≤ 5))
/-- An even register where the type is 64 bits wide (R28). -/
def Ty.pr (ty : Ty) (r : RegNo) : Bool := !ty.is64 || r.toNat % 2 == 0
/-- An even register where the T byte's type is 64 bits wide (R28). -/
def TField.pr (t : TField) (r : RegNo) : Bool := t.ty.pr r
/-- The same for a register operand in the src position (R214). -/
def TField.prSrc (t : TField) : Src → Bool
  | .reg r => t.pr r
  | .imm _ => true
/-- A scalar register in the src position (R206). -/
def Src.sOk : Src → Bool
  | .reg r => Sys2Proof.sOk r
  | .imm _ => true
/-- An immediate entry number is at most n (R189, R250). -/
def Src.immLe (n : Nat) : Src → Bool
  | .reg _ => true
  | .imm v => decide (v.toNat ≤ n)
/-- The width-relative immediate of x.shfl is w/2 to w/16 (R228). -/
def Src.shflOk : Src → Bool
  | .reg _ => true
  | .imm v => !v.getLsbD 15 || (decide (1 ≤ (v.extractLsb' 0 4).toNat) && decide ((v.extractLsb' 0 4).toNat ≤ 4))

/-- The fields of X1 in g-class and 128-bit a-class instructions (R33, R152). -/
structure X1F where
  sx : Bool
  vadr : Bool
  sz : BitVec 3
  ch : BitVec 2
  ord : BitVec 2
  sc : BitVec 3
  deriving DecidableEq, Repr

/-- X1 read as its fields (R33). -/
def X1F.ofWord (x : BitVec 32) : X1F :=
  { sx := x.getLsbD 11, vadr := x.getLsbD 10, sz := x.extractLsb' 7 3, ch := x.extractLsb' 5 2,
    ord := x.extractLsb' 3 2, sc := x.extractLsb' 0 3 }
/-- The X1 word of its fields (R33). -/
def X1F.word (x : X1F) : BitVec 32 :=
  (0 : BitVec 20) ++ BitVec.ofBool x.sx ++ BitVec.ofBool x.vadr ++ x.sz ++ x.ch ++ x.ord ++ x.sc
/-- The scope is not 7 (R15, R34). -/
def X1F.scOk (x : X1F) : Bool := Sys2Proof.scOk x.sc
/-- A base register: a scalar, or with VADR = 1 an even vector register (R28, R33). -/
def X1F.base (x : X1F) (a : RegNo) : Bool := if x.vadr then a.toNat % 2 == 0 else Sys2Proof.sOk a

/-- X1 of the copy commands (R164). -/
structure CopyX where
  bar : Bool
  swz : BitVec 3
  sc : BitVec 3
  ch : BitVec 2
  sls : Bool
  dls : Bool
  deriving DecidableEq, Repr

/-- X1 of a copy command read as its fields (R164). -/
def CopyX.ofWord (x : BitVec 32) : CopyX :=
  { bar := x.getLsbD 14, swz := x.extractLsb' 11 3, sc := x.extractLsb' 8 3, ch := x.extractLsb' 6 2,
    sls := x.getLsbD 1, dls := x.getLsbD 0 }
/-- The X1 word of a copy command (R164). -/
def CopyX.word (x : CopyX) : BitVec 32 :=
  (0 : BitVec 17) ++ BitVec.ofBool x.bar ++ x.swz ++ x.sc ++ x.ch ++ (0 : BitVec 4) ++ BitVec.ofBool x.sls ++ BitVec.ofBool x.dls

/-- X0 and X1 of m.cvst (R250). -/
structure CvstX where
  rows : BitVec 8
  cols : BitVec 8
  esc : BitVec 8
  ch : BitVec 2
  swz : BitVec 3
  sc : BitVec 3
  amen : Bool
  amx : BitVec 6
  deriving DecidableEq, Repr

/-- X0 and X1 of m.cvst read as fields (R250). -/
def CvstX.ofWords (x0 x1 : BitVec 32) : CvstX :=
  { rows := x0.extractLsb' 0 8, cols := x0.extractLsb' 8 8, esc := x0.extractLsb' 16 8, ch := x1.extractLsb' 13 2,
    swz := x1.extractLsb' 10 3, sc := x1.extractLsb' 7 3, amen := x1.getLsbD 6, amx := x1.extractLsb' 0 6 }
/-- X0 of m.cvst (R250). -/
def CvstX.x0 (x : CvstX) : BitVec 32 := (0 : BitVec 8) ++ x.esc ++ x.cols ++ x.rows
/-- X1 of m.cvst (R250). -/
def CvstX.x1 (x : CvstX) : BitVec 32 :=
  (0 : BitVec 17) ++ x.ch ++ x.swz ++ x.sc ++ BitVec.ofBool x.amen ++ x.amx

/-- X0 and X1 of e.rksave and e.rkrest (R264). -/
structure RkX where
  icnt : BitVec 5
  isl : BitVec 5
  f : BitVec 5
  sc : BitVec 3
  deriving DecidableEq, Repr

/-- X0 and X1 of a checkpoint operation read as fields (R264). -/
def RkX.ofWords (x0 x1 : BitVec 32) : RkX :=
  { icnt := x0.extractLsb' 13 5, isl := x0.extractLsb' 8 5, f := x0.extractLsb' 0 5, sc := x1.extractLsb' 0 3 }
/-- X0 of a checkpoint operation (R264). -/
def RkX.x0 (x : RkX) : BitVec 32 := (0 : BitVec 14) ++ x.icnt ++ x.isl ++ (0 : BitVec 3) ++ x.f
/-- X1 of a checkpoint operation (R264). -/
def RkX.x1 (x : RkX) : BitVec 32 := (0 : BitVec 29) ++ x.sc

/-- Special registers that s.wrsr may name: the rw codes of R197. -/
def srWritable (c : RegNo) : Bool :=
  (decide (8 ≤ c.toNat) && decide (c.toNat ≤ 15)) || c == 0x11 || c == 0x12 || c == 0x16 || c == 0x17
/-- Privileged register codes that R398 lists. -/
def prKnown (c : RegNo) : Bool :=
  decide (c.toNat ≤ 9) || (decide (0x10 ≤ c.toNat) && decide (c.toNat ≤ 0x17))

/-- Who issues an instruction: slot 0 to 15 a wave, 16 to 19 a spare context, 20 to 23 a stoker of a core; or the
hearth wave of a die (R7, R299, R392, R397). -/
inductive Agent where
  | slot (core : Nat) (n : Nat)
  | hearth (die : Nat)
  deriving DecidableEq, Repr

/-- Where an error was found: the array code, unit, bank and offset of R395. -/
structure EccSite where
  array : BitVec 4
  unit : BitVec 6
  bank : BitVec 5
  offset : BitVec 49
  deriving DecidableEq, Repr

/-- What met an uncorrectable error (R118, R119): a clean or a dirty L1 line, a clean or a dirty LLC copy, a home line, the load
result of an agent that reads one, a local-store, tile or slot reader, an engine operation, or a copy that reads the local store. -/
inductive EccTarget where
  | cleanL1 (core line : Nat)
  | dirtyL1 (core line : Nat)
  | cleanCopy (die line : Nat)
  | dirtyCopy (die line : Nat)
  | poisonHome (line : Nat)
  | load (a : Agent) (id : Nat) (lanes : Lanes)
  | reader (a : Agent)
  | task (quad id : Nat)
  | copy (quad id : Nat)
  deriving DecidableEq, Repr

/-- An access that arrives over a Larlan link (R317): a load, a store or put of bytes at a virtual address. -/
inductive RemoteAccess where
  | load (va n : Nat)
  | store (va : Nat) (bytes : List (BitVec 8))
  deriving DecidableEq, Repr

/-- What the bring-up steps find (R446): the masks of dies whose hearth has read the installed image whole, and whose die edges, HBM
and SRAM die pass. -/
structure StartTests where
  image : BitVec 24
  edges : BitVec 24
  hbm : BitVec 24
  sram : BitVec 24
  deriving DecidableEq, Repr

/-- A restart of a partition that ends, with what steps 2 to 4 of it find (R446, R449). -/
structure PartTests where
  part : Nat
  tests : StartTests
  deriving DecidableEq, Repr

/-- What the host writes to BAR0 in one access: four bytes or eight (R438, R441). -/
inductive HostWord where
  | four (v : BitVec 32)
  | eight (v : BitVec 64)
  deriving DecidableEq, Repr

/-- The low four bytes of a host write. -/
def HostWord.low : HostWord → BitVec 32
  | .four v => v
  | .eight v => v.extractLsb' 0 32

end Sys2Proof
end

