-- ==== Sys2Proof/Machine/Bits.lean ====
section
/-! DEFINITION. Byte order, sign extension and bit fields (R3, R31), and counting over bit masks. -/

namespace Sys2Proof

/-- The n low bytes of v, least significant first (R3). -/
def leBytes : Nat → Nat → List Byte
  | 0, _ => []
  | n + 1, v => BitVec.ofNat 8 v :: leBytes n (v / 256)

/-- The number whose bytes are l, least significant first (R3). -/
def ofLe : List Byte → Nat
  | [] => 0
  | b :: l => b.toNat + 256 * ofLe l

/-- Bits [lo + n - 1 : lo] of a number. -/
def bits (v lo n : Nat) : Nat := (v >>> lo) % 2 ^ n

/-- Bit i of a number. -/
def bit (v i : Nat) : Bool := v.testBit i

/-- A number's low n bits read as two's complement. -/
def toSigned (n v : Nat) : Int := if (v % 2 ^ n) < 2 ^ (n - 1) then ((v % 2 ^ n : Nat) : Int) else ((v % 2 ^ n : Nat) : Int) - 2 ^ n

/-- A 32-bit displacement or immediate, sign-extended to 64 bits (R31 to R33). -/
def sx64 (d : BitVec 32) : W64 := d.signExtend 64

/-- Leading zeros in the low n bits of v. -/
def clz : Nat → Nat → Nat
  | 0, _ => 0
  | n + 1, v => if v.testBit n then 0 else 1 + clz n v

/-- One bits among the low n bits of v. -/
def popc : Nat → Nat → Nat
  | 0, _ => 0
  | n + 1, v => (if v.testBit n then 1 else 0) + popc n v

/-- The numbers below n whose bit is set in v, in increasing order. -/
def onesBelow (v n : Nat) : List Nat := (List.range n).filter (fun i => v.testBit i)

/-- The lanes of a mask in increasing order (R9). -/
def Lanes.list (m : Lanes) : List Nat := onesBelow m.toNat 64

/-- The mask with the lanes of a list. -/
def lanesOf (l : List Nat) : Lanes := l.foldl (fun m i => m ||| (1#64 <<< i)) 0

/-- The lowest number below n whose bit is set in v. -/
def lowest (v n : Nat) : Option Nat := (onesBelow v n).head?

/-- Count of trailing one bits of v, looking at n bits (R268). -/
def trailingOnes : Nat → Nat → Nat
  | 0, _ => 0
  | n + 1, v => if v.testBit 0 then 1 + trailingOnes n (v / 2) else 0

/-- Rounding up of a quotient. -/
def ceilDiv (a b : Nat) : Nat := (a + b - 1) / b

/-- Replace bits [lo + n - 1 : lo] of v by x. -/
def setBits (v lo n x : Nat) : Nat := v - (bits v lo n) * 2 ^ lo + (x % 2 ^ n) * 2 ^ lo

end Sys2Proof
end

