-- ==== Sys2Proof/Config.lean ====
section
/-! DEFINITION. The free values: what the manual leaves open and nothing here can evaluate, and the fixed sizes of the
part (R7, R9, R111, R123). -/

namespace Sys2Proof.Config

/-- A free choice for each tick and key: which value a read of a pending register yields (R200), and which of the two
values R86 allows a stale load yields (log 5, 6). -/
opaque freeBit : Nat → Nat → Bool

/-- Bytes of a context image after its header: laid out as the part requires (R403, log 21). -/
opaque imageByte : Nat → Nat → Byte

/-- What reads of a block outside the live mask hold after a switch: old contents or zero (R371, log 22). -/
opaque keepDead : Nat → Nat → Bool

/-- The bank and the way in which an error stands that a later read of a poisoned line reports: the manual gives no rule (R119, R395;
log 41). -/
opaque eccPlace : Nat → Nat → Nat

/-- SHA3-512, ML-DSA-87 signing and verification, ML-KEM-1024 secrets: named by the manual and defined elsewhere
(R443, R446, R450; log 23). -/
opaque sha3 : List Byte → List Byte
opaque sign : List Byte → List Byte
opaque linkSecret : Nat → Nat → Nat
/-- The bytes of the image that stands installed after the start: the manual gives none of them (R446; log 23). -/
opaque factoryBytes : List Byte
/-- That image, of at most 256 MiB (R441). -/
def factoryImage : List Byte := factoryBytes.take 268435456
/-- Of the images but that one, those that verify (R441, R446; log 23). -/
opaque verifiesOther : List Byte → Bool
/-- Which images verify (R441, R446): the one that the module has started with does, and of the others nothing is known. -/
def verifies (image : List Byte) : Bool := image = factoryImage || verifiesOther image
/-- AES-256-GCM: the ciphertext and the tag of a group under a key and a nonce (R442; log 23). -/
opaque gcm : List Byte → Nat → List Byte → List Byte

/-- The port over which an access to another module goes, and the bytes of its group: the manual gives no rule for either (R442; log 124). -/
opaque linkPort : Nat → Nat → Nat
opaque linkBytes : Nat → List Byte
/-- How many of the groups that a port has sent the peer has acknowledged when the port loses lanes: the manual gives no rule (R443; log 124). -/
opaque linkAcked : Nat → Nat → Nat

/-- What the steps of a start that does not end have found by die, for each step, and how far it has come: the manual gives no rule for
either (R446; log 85). -/
opaque found : Nat → Nat → BitVec 24
opaque startStage : Nat → Nat

/-- The partition configuration that a request of the driver's firmware interface names, if it names one: the manual leaves that
interface to the driver (R441, R445; log 36). -/
opaque partConfig : Nat → BitVec 64 → List Byte → Option (List (BitVec 24))

/-- W, threads of a wave (R9). -/
def waveW : Nat := 64
/-- Dies of the module (R6). -/
def dies : Nat := 24
/-- Cores of a die (R7). -/
def coresPerDie : Nat := 64
/-- Wave slots of a core (R7). -/
def slots : Nat := 16
/-- Vector registers of a core for each lane id (R194). -/
def vregsPerCore : Nat := 1024
/-- Entries of a future table (R7, R365). -/
def futures : Nat := 256
/-- Entries of a reservation table (R7, R242). -/
def tasks : Nat := 64
/-- Group records of a die's queue (R359). -/
def queue : Nat := 256
/-- Range scoreboard entries of a core (R169). -/
def scoreboard : Nat := 32
/-- Parked waiters of a slice (R296). -/
def waiters : Nat := 64
/-- Requests that a die's hold buffer takes (R95). -/
def holds : Nat := 4096

end Sys2Proof.Config
end

