-- ==== Sys2Proof/Machine/Map.lean ====
section
/-! DEFINITION. Sparse maps as lists of (key, value) in one canonical form: keys strictly rising and, for a map with a
default, no entry that holds it. Memory, register files and tables are such maps. -/

namespace Sys2Proof

/-- A sparse map from numbers. -/
abbrev AMap (β : Type) := List (Nat × β)

/-- The entry of a key. -/
def AMap.find {β : Type} : AMap β → Nat → Option β
  | [], _ => none
  | (k, v) :: m, j => if j = k then some v else AMap.find m j

/-- Put an entry, keeping the keys rising. -/
def AMap.put {β : Type} : AMap β → Nat → β → AMap β
  | [], j, x => [(j, x)]
  | (k, v) :: m, j, x =>
    if j < k then (j, x) :: (k, v) :: m else if j = k then (j, x) :: m else (k, v) :: AMap.put m j x

/-- Remove an entry. -/
def AMap.del {β : Type} : AMap β → Nat → AMap β
  | [], _ => []
  | (k, v) :: m, j => if j = k then AMap.del m j else (k, v) :: AMap.del m j

/-- The value of a key, the default d where there is no entry. -/
def AMap.get {β : Type} (d : β) (m : AMap β) (k : Nat) : β := (m.find k).getD d

/-- Set a key's value; setting the default removes the entry. -/
def AMap.set {β : Type} [DecidableEq β] (d : β) (m : AMap β) (k : Nat) (v : β) : AMap β :=
  if v = d then m.del k else m.put k v

/-- Keys rise strictly from lo on. -/
def AMap.rising {β : Type} : Nat → AMap β → Bool
  | _, [] => true
  | lo, (k, _) :: m => decide (lo ≤ k) && AMap.rising (k + 1) m

/-- The canonical form of a map with default d. -/
def AMap.wf {β : Type} [DecidableEq β] (d : β) (m : AMap β) : Bool :=
  AMap.rising 0 m && m.all (fun e => decide (e.2 ≠ d))

end Sys2Proof
end

