-- ==== Sys2Proof/Syntax.lean ====
section
/-! DEFINITION. The abstract syntax: one constructor for each row of the opcode table, the instructions first and then
the events by which the other agents of the module act (R39, R40, 95_what_each_step_holds.md). `h` is the header of
R27; the other arguments are the operand fields that the instruction's entry uses. -/

namespace Sys2Proof

/-- One step of the TV24: an instruction of R40, PAD4, or an event of the opcode table. -/
inductive Instr where
  /-- PAD4 (R25). -/
  | pad4
  /-- s.mov (R207). -/
  | sMov (h : Hdr) (d : RegNo) (a : RegNo)
  /-- s.movi (R209). -/
  | sMovi (h : Hdr) (sub : BitVec 2) (d : RegNo) (imm : BitVec 32)
  /-- s.add (R207). -/
  | sAdd (h : Hdr) (d : RegNo) (a : RegNo) (src : Src)
  /-- s.sub (R207). -/
  | sSub (h : Hdr) (d : RegNo) (a : RegNo) (src : Src)
  /-- s.mul (R207). -/
  | sMul (h : Hdr) (sub : BitVec 2) (d : RegNo) (a : RegNo) (src : Src)
  /-- s.div (R208). -/
  | sDiv (h : Hdr) (sub : BitVec 2) (d : RegNo) (a : RegNo) (src : Src)
  /-- s.and (R207). -/
  | sAnd (h : Hdr) (d : RegNo) (a : RegNo) (src : Src)
  /-- s.or (R207). -/
  | sOr (h : Hdr) (d : RegNo) (a : RegNo) (src : Src)
  /-- s.xor (R207). -/
  | sXor (h : Hdr) (d : RegNo) (a : RegNo) (src : Src)
  /-- s.shl (R207). -/
  | sShl (h : Hdr) (d : RegNo) (a : RegNo) (src : Src)
  /-- s.shr (R207). -/
  | sShr (h : Hdr) (d : RegNo) (a : RegNo) (src : Src)
  /-- s.sra (R207). -/
  | sSra (h : Hdr) (d : RegNo) (a : RegNo) (src : Src)
  /-- s.min (R207). -/
  | sMin (h : Hdr) (sub : BitVec 2) (d : RegNo) (a : RegNo) (src : Src)
  /-- s.max (R207). -/
  | sMax (h : Hdr) (sub : BitVec 2) (d : RegNo) (a : RegNo) (src : Src)
  /-- s.cmp (R207). -/
  | sCmp (h : Hdr) (cond : BitVec 4) (d : RegNo) (a : RegNo) (src : Src)
  /-- s.sel (R207). -/
  | sSel (h : Hdr) (d : RegNo) (a : RegNo) (b : RegNo) (c : RegNo)
  /-- s.clz (R207). -/
  | sClz (h : Hdr) (sub : BitVec 2) (d : RegNo) (a : RegNo)
  /-- s.popc (R207). -/
  | sPopc (h : Hdr) (sub : BitVec 2) (d : RegNo) (a : RegNo)
  /-- s.bfx (R210). -/
  | sBfx (h : Hdr) (sub : BitVec 2) (d : RegNo) (a : RegNo) (src : Src)
  /-- s.lea (R210). -/
  | sLea (h : Hdr) (d : RegNo) (a : RegNo) (b : RegNo) (sh : BitVec 6) (imm : BitVec 32)
  /-- s.rdsr (R211). -/
  | sRdsr (h : Hdr) (d : RegNo) (a : RegNo)
  /-- s.wrsr (R211). -/
  | sWrsr (h : Hdr) (d : RegNo) (a : RegNo)
  /-- s.movc (R212). -/
  | sMovc (h : Hdr) (sub : BitVec 2) (d : RegNo) (a : RegNo)
  /-- s.rdk (R213). -/
  | sRdk (h : Hdr) (d : RegNo) (a : RegNo)
  /-- s.wrk (R213). -/
  | sWrk (h : Hdr) (d : RegNo) (a : RegNo)
  /-- b.nop (R349). -/
  | bNop (h : Hdr)
  /-- b.jmp (R338). -/
  | bJmp (h : Hdr) (sub : BitVec 2) (a : RegNo) (imm : BitVec 32)
  /-- b.br (R338). -/
  | bBr (h : Hdr) (sub : BitVec 2) (a : RegNo) (imm : BitVec 32)
  /-- b.brk (R338). -/
  | bBrk (h : Hdr) (sub : BitVec 2) (a : RegNo) (imm : BitVec 32)
  /-- b.call (R338). -/
  | bCall (h : Hdr) (sub : BitVec 2) (d : RegNo) (a : RegNo) (imm : BitVec 32)
  /-- b.ret (R338). -/
  | bRet (h : Hdr) (a : RegNo)
  /-- b.split (R339). -/
  | bSplit (h : Hdr) (a : RegNo) (x0 : BitVec 32) (x1 : BitVec 32)
  /-- b.join (R340). -/
  | bJoin (h : Hdr)
  /-- b.exit (R342). -/
  | bExit (h : Hdr)
  /-- b.meld (R344). -/
  | bMeld (h : Hdr) (a : RegNo) (b : RegNo) (base : BitVec 3)
  /-- b.unmeld (R345). -/
  | bUnmeld (h : Hdr)
  /-- b.mtab (R348). -/
  | bMtab (h : Hdr) (sub : BitVec 2) (a : RegNo) (imm : BitVec 32)
  /-- b.wcnt (R349). -/
  | bWcnt (h : Hdr) (ldc : BitVec 6) (stc : BitVec 6) (xc : BitVec 6) (ec : BitVec 6)
  /-- b.trap (R350). -/
  | bTrap (h : Hdr) (code : BitVec 8)
  /-- b.tret (R350). -/
  | bTret (h : Hdr)
  /-- b.dbg (R351). -/
  | bDbg (h : Hdr) (code : BitVec 8)
  /-- v.mov (R215). -/
  | vMov (h : Hdr) (t : TField) (d : RegNo) (a : RegNo)
  /-- v.movs (R215). -/
  | vMovs (h : Hdr) (t : TField) (d : RegNo) (a : RegNo)
  /-- v.movi (R215). -/
  | vMovi (h : Hdr) (t : TField) (d : RegNo) (imm : BitVec 32)
  /-- v.add (R215). -/
  | vAdd (h : Hdr) (t : TField) (d : RegNo) (a : RegNo) (src : Src)
  /-- v.sub (R215). -/
  | vSub (h : Hdr) (t : TField) (d : RegNo) (a : RegNo) (src : Src)
  /-- v.mul (R215). -/
  | vMul (h : Hdr) (sub : BitVec 2) (t : TField) (d : RegNo) (a : RegNo) (src : Src)
  /-- v.mad (R215). -/
  | vMad (h : Hdr) (t : TField) (d : RegNo) (a : RegNo) (b : RegNo) (c : RegNo)
  /-- v.and (R215). -/
  | vAnd (h : Hdr) (t : TField) (d : RegNo) (a : RegNo) (src : Src)
  /-- v.or (R215). -/
  | vOr (h : Hdr) (t : TField) (d : RegNo) (a : RegNo) (src : Src)
  /-- v.xor (R215). -/
  | vXor (h : Hdr) (t : TField) (d : RegNo) (a : RegNo) (src : Src)
  /-- v.shl (R215). -/
  | vShl (h : Hdr) (t : TField) (d : RegNo) (a : RegNo) (src : Src)
  /-- v.shr (R215). -/
  | vShr (h : Hdr) (t : TField) (d : RegNo) (a : RegNo) (src : Src)
  /-- v.sra (R215). -/
  | vSra (h : Hdr) (t : TField) (d : RegNo) (a : RegNo) (src : Src)
  /-- v.min (R215). -/
  | vMin (h : Hdr) (t : TField) (d : RegNo) (a : RegNo) (src : Src)
  /-- v.max (R215). -/
  | vMax (h : Hdr) (t : TField) (d : RegNo) (a : RegNo) (src : Src)
  /-- v.abs (R215). -/
  | vAbs (h : Hdr) (t : TField) (d : RegNo) (a : RegNo)
  /-- v.cmp (R216). -/
  | vCmp (h : Hdr) (sub : BitVec 2) (t : TField) (d : RegNo) (a : RegNo) (b : RegNo) (cond : BitVec 4)
  /-- v.sel (R216). -/
  | vSel (h : Hdr) (t : TField) (d : RegNo) (a : RegNo) (b : RegNo) (c : RegNo)
  /-- v.clz (R215). -/
  | vClz (h : Hdr) (t : TField) (d : RegNo) (a : RegNo)
  /-- v.popc (R215). -/
  | vPopc (h : Hdr) (t : TField) (d : RegNo) (a : RegNo)
  /-- v.bfx (R215). -/
  | vBfx (h : Hdr) (sub : BitVec 2) (t : TField) (d : RegNo) (a : RegNo) (src : Src)
  /-- v.dot4 (R217). -/
  | vDot4 (h : Hdr) (sub : BitVec 2) (t : TField) (d : RegNo) (a : RegNo) (b : RegNo) (c : RegNo)
  /-- v.lid (R218). -/
  | vLid (h : Hdr) (sub : BitVec 2) (d : RegNo)
  /-- v.rand (R218). -/
  | vRand (h : Hdr) (d : RegNo)
  /-- v.rdflag (R219). -/
  | vRdflag (h : Hdr) (d : RegNo)
  /-- v.clrflag (R219). -/
  | vClrflag (h : Hdr) (src : Src)
  /-- f.add (R221). -/
  | fAdd (h : Hdr) (t : TField) (d : RegNo) (a : RegNo) (b : RegNo)
  /-- f.sub (R221). -/
  | fSub (h : Hdr) (t : TField) (d : RegNo) (a : RegNo) (b : RegNo)
  /-- f.mul (R221). -/
  | fMul (h : Hdr) (t : TField) (d : RegNo) (a : RegNo) (b : RegNo)
  /-- f.fma (R221). -/
  | fFma (h : Hdr) (t : TField) (d : RegNo) (a : RegNo) (b : RegNo) (c : RegNo)
  /-- f.min (R222). -/
  | fMin (h : Hdr) (sub : BitVec 2) (t : TField) (d : RegNo) (a : RegNo) (b : RegNo)
  /-- f.max (R222). -/
  | fMax (h : Hdr) (sub : BitVec 2) (t : TField) (d : RegNo) (a : RegNo) (b : RegNo)
  /-- f.cmp (R223). -/
  | fCmp (h : Hdr) (sub : BitVec 2) (t : TField) (d : RegNo) (a : RegNo) (b : RegNo) (cond : BitVec 4)
  /-- f.cls (R224). -/
  | fCls (h : Hdr) (t : TField) (d : RegNo) (a : RegNo)
  /-- f.rcp (R225). -/
  | fRcp (h : Hdr) (t : TField) (d : RegNo) (a : RegNo)
  /-- f.rsq (R225). -/
  | fRsq (h : Hdr) (t : TField) (d : RegNo) (a : RegNo)
  /-- f.sqrt (R221). -/
  | fSqrt (h : Hdr) (t : TField) (d : RegNo) (a : RegNo)
  /-- f.div (R221). -/
  | fDiv (h : Hdr) (t : TField) (d : RegNo) (a : RegNo) (b : RegNo)
  /-- f.exp2 (R225). -/
  | fExp2 (h : Hdr) (t : TField) (d : RegNo) (a : RegNo)
  /-- f.log2 (R225). -/
  | fLog2 (h : Hdr) (t : TField) (d : RegNo) (a : RegNo)
  /-- f.sin (R225). -/
  | fSin (h : Hdr) (t : TField) (d : RegNo) (a : RegNo)
  /-- f.cos (R225). -/
  | fCos (h : Hdr) (t : TField) (d : RegNo) (a : RegNo)
  /-- f.cvt (R190). -/
  | fCvt (h : Hdr) (t : TField) (d : RegNo) (a : RegNo) (sty : Ty)
  /-- f.pack (R191). -/
  | fPack (h : Hdr) (t : TField) (d : RegNo) (a : RegNo) (sty : Ty) (esc : BitVec 8)
  /-- f.unpack (R191). -/
  | fUnpack (h : Hdr) (t : TField) (d : RegNo) (a : RegNo) (sty : Ty) (esc : BitVec 8)
  /-- f.amax (R193). -/
  | fAmax (h : Hdr) (t : TField) (a : RegNo) (src : Src)
  /-- x.shfl (R228). -/
  | xShfl (h : Hdr) (sub : BitVec 2) (t : TField) (d : RegNo) (a : RegNo) (src : Src)
  /-- x.bcast (R229). -/
  | xBcast (h : Hdr) (t : TField) (d : RegNo) (a : RegNo) (src : Src)
  /-- x.vote (R230). -/
  | xVote (h : Hdr) (sub : BitVec 2) (d : RegNo) (a : RegNo)
  /-- x.red (R231). -/
  | xRed (h : Hdr) (t : TField) (d : RegNo) (a : RegNo) (opr : BitVec 3)
  /-- x.scan (R231). -/
  | xScan (h : Hdr) (sub : BitVec 2) (t : TField) (d : RegNo) (a : RegNo) (opr : BitVec 3)
  /-- x.prmt (R232). -/
  | xPrmt (h : Hdr) (d : RegNo) (a : RegNo) (b : RegNo) (c : RegNo)
  /-- x.rdlane (R229). -/
  | xRdlane (h : Hdr) (t : TField) (d : RegNo) (a : RegNo) (src : Src)
  /-- x.wrlane (R229). -/
  | xWrlane (h : Hdr) (t : TField) (d : RegNo) (a : RegNo) (src : Src)
  /-- x.cnt (R230). -/
  | xCnt (h : Hdr) (d : RegNo) (a : RegNo)
  /-- x.first (R230). -/
  | xFirst (h : Hdr) (d : RegNo) (a : RegNo)
  /-- l.ld (R148). -/
  | lLd (h : Hdr) (vadr : Bool) (sx : Bool) (d : RegNo) (a : RegNo) (sz : BitVec 3) (imm : BitVec 32)
  /-- l.st (R148). -/
  | lSt (h : Hdr) (vadr : Bool) (a : RegNo) (b : RegNo) (sz : BitVec 3) (imm : BitVec 32)
  /-- l.ldt (R150). -/
  | lLdt (h : Hdr) (d : RegNo) (a : RegNo) (b : RegNo) (imm : BitVec 32)
  /-- l.stt (R150). -/
  | lStt (h : Hdr) (d : RegNo) (a : RegNo) (b : RegNo) (imm : BitVec 32)
  /-- l.atom (R148). -/
  | lAtom (h : Hdr) (vadr : Bool) (t : TField) (d : RegNo) (a : RegNo) (b : RegNo) (opr : BitVec 3) (imm : BitVec 32)
  /-- l.cas (R148). -/
  | lCas (h : Hdr) (vadr : Bool) (t : TField) (d : RegNo) (a : RegNo) (b : RegNo) (c : RegNo) (imm : BitVec 32)
  /-- l.fill (R148). -/
  | lFill (h : Hdr) (vadr : Bool) (a : RegNo) (b : RegNo) (c : RegNo) (imm : BitVec 32)
  /-- l.swz (R149). -/
  | lSwz (h : Hdr) (vadr : Bool) (a : RegNo) (tag : BitVec 3) (imm : BitVec 32)
  /-- g.ld (R153). -/
  | gLd (h : Hdr) (d : RegNo) (a : RegNo) (x0 : BitVec 32) (x1 : X1F)
  /-- g.st (R153). -/
  | gSt (h : Hdr) (a : RegNo) (b : RegNo) (x0 : BitVec 32) (x1 : X1F)
  /-- g.ldt (R156). -/
  | gLdt (h : Hdr) (d : RegNo) (a : RegNo) (b : RegNo) (x0 : BitVec 32) (x1 : X1F)
  /-- g.stt (R156). -/
  | gStt (h : Hdr) (d : RegNo) (a : RegNo) (b : RegNo) (x0 : BitVec 32) (x1 : X1F)
  /-- g.pf (R155). -/
  | gPf (h : Hdr) (a : RegNo) (x0 : BitVec 32) (x1 : X1F)
  /-- g.ldnf (R154). -/
  | gLdnf (h : Hdr) (d : RegNo) (a : RegNo) (c : RegNo) (x0 : BitVec 32) (x1 : X1F)
  /-- a.rmw (R282). -/
  | aRmw (h : Hdr) (t : TField) (d : RegNo) (a : RegNo) (b : RegNo) (opr : BitVec 3) (x0 : BitVec 32) (x1 : X1F)
  /-- a.cas (R284). -/
  | aCas (h : Hdr) (d : RegNo) (a : RegNo) (b : RegNo) (c : RegNo) (x0 : BitVec 32) (x1 : X1F)
  /-- a.red (R282). -/
  | aRed (h : Hdr) (t : TField) (a : RegNo) (b : RegNo) (opr : BitVec 3) (x0 : BitVec 32) (x1 : X1F)
  /-- a.ldacq (R287). -/
  | aLdacq (h : Hdr) (d : RegNo) (a : RegNo) (x0 : BitVec 32) (x1 : X1F)
  /-- a.strel (R288). -/
  | aStrel (h : Hdr) (a : RegNo) (b : RegNo) (x0 : BitVec 32) (x1 : X1F)
  /-- a.fence (R290). -/
  | aFence (h : Hdr) (sub : BitVec 2) (sc : BitVec 3)
  /-- a.bar.init (R163). -/
  | aBarInit (h : Hdr) (a : RegNo) (b : RegNo) (imm : BitVec 32)
  /-- a.bar.arrive (R163). -/
  | aBarArrive (h : Hdr) (sub : BitVec 2) (d : RegNo) (a : RegNo) (b : RegNo) (imm : BitVec 32)
  /-- a.bar.wait (R163). -/
  | aBarWait (h : Hdr) (a : RegNo) (b : RegNo) (imm : BitVec 32)
  /-- a.bar.sync (R163). -/
  | aBarSync (h : Hdr) (d : RegNo) (a : RegNo) (imm : BitVec 32)
  /-- a.bar.expect (R163). -/
  | aBarExpect (h : Hdr) (sub : BitVec 2) (a : RegNo) (b : RegNo) (imm : BitVec 32)
  /-- a.bar.test (R163). -/
  | aBarTest (h : Hdr) (d : RegNo) (a : RegNo) (b : RegNo) (imm : BitVec 32)
  /-- a.tkt.take (R293). -/
  | aTktTake (h : Hdr) (d : RegNo) (a : RegNo) (x0 : BitVec 32) (x1 : X1F)
  /-- a.tkt.wait (R294). -/
  | aTktWait (h : Hdr) (a : RegNo) (b : RegNo) (x0 : BitVec 32) (x1 : X1F)
  /-- a.tkt.serve (R295). -/
  | aTktServe (h : Hdr) (a : RegNo) (src : Src) (x0 : BitVec 32) (x1 : X1F)
  /-- a.watch (R297). -/
  | aWatch (h : Hdr) (d : RegNo) (a : RegNo) (b : RegNo) (x0 : BitVec 32) (x1 : X1F)
  /-- m.mma (R251). -/
  | mMma (h : Hdr) (sub : BitVec 2) (d : RegNo) (a : RegNo) (b : RegNo) (c : RegNo) (zero : Bool) (scl : Bool) (bsc : BitVec 3) (asc : BitVec 3) (x0 : BitVec 32) (prio : BitVec 2) (sc : BitVec 3) (bar : Bool)
  /-- m.mmt (R251). -/
  | mMmt (h : Hdr) (sub : BitVec 2) (d : RegNo) (a : RegNo) (b : RegNo) (c : RegNo) (zero : Bool) (x0 : BitVec 32) (prio : BitVec 2) (sc : BitVec 3) (bar : Bool)
  /-- m.enq (R252). -/
  | mEnq (h : Hdr) (sub : BitVec 2) (d : RegNo) (a : RegNo)
  /-- m.zero (R253). -/
  | mZero (h : Hdr) (d : RegNo) (a : RegNo)
  /-- m.ldacc (R254). -/
  | mLdacc (h : Hdr) (sub : BitVec 2) (d : RegNo) (a : RegNo) (b : RegNo) (c : RegNo) (row : BitVec 7) (col : BitVec 7) (shp : BitVec 3)
  /-- m.stacc (R254). -/
  | mStacc (h : Hdr) (sub : BitVec 2) (d : RegNo) (a : RegNo) (b : RegNo) (c : RegNo) (row : BitVec 7) (col : BitVec 7) (shp : BitVec 3)
  /-- m.cvst (R255). -/
  | mCvst (h : Hdr) (sub : BitVec 2) (t : TField) (d : RegNo) (a : RegNo) (b : RegNo) (c : RegNo) (cv : CvstX)
  /-- m.rstat (R256). -/
  | mRstat (h : Hdr) (d : RegNo) (a : RegNo) (rows : BitVec 8) (cols : BitVec 8)
  /-- m.amax (R257). -/
  | mAmax (h : Hdr) (sub : BitVec 2) (d : RegNo) (src : Src)
  /-- m.resv (R258). -/
  | mResv (h : Hdr) (d : RegNo) (a : RegNo)
  /-- q.spawn (R380). -/
  | qSpawn (h : Hdr) (sub : BitVec 2) (d : RegNo) (a : RegNo) (x0 : BitVec 32)
  /-- q.launch (R380). -/
  | qLaunch (h : Hdr) (sub : BitVec 2) (d : RegNo) (a : RegNo) (x0 : BitVec 32)
  /-- q.fwait (R381). -/
  | qFwait (h : Hdr) (sub : BitVec 2) (d : RegNo) (a : RegNo) (sc : BitVec 3)
  /-- q.ftest (R381). -/
  | qFtest (h : Hdr) (sub : BitVec 2) (d : RegNo) (a : RegNo)
  /-- q.fcancel (R382). -/
  | qFcancel (h : Hdr) (sub : BitVec 2) (d : RegNo) (a : RegNo)
  /-- q.fmov (R383). -/
  | qFmov (h : Hdr) (sub : BitVec 2) (d : RegNo) (a : RegNo) (b : RegNo) (imm : BitVec 32)
  /-- q.claim (R373). -/
  | qClaim (h : Hdr) (d : RegNo) (src : Src)
  /-- q.give (R374). -/
  | qGive (h : Hdr) (src : Src)
  /-- q.live (R384). -/
  | qLive (h : Hdr) (imm : BitVec 32)
  /-- q.yield (R384). -/
  | qYield (h : Hdr)
  /-- q.sleep (R384). -/
  | qSleep (h : Hdr) (src : Src)
  /-- e.copy (R165). -/
  | eCopy (h : Hdr) (d : RegNo) (a : RegNo) (b : RegNo) (c : RegNo) (x0 : BitVec 32) (x : CopyX)
  /-- e.copy2 (R165). -/
  | eCopy2 (h : Hdr) (d : RegNo) (a : RegNo) (b : RegNo) (c : RegNo) (x0 : BitVec 32) (x : CopyX)
  /-- e.gath (R165). -/
  | eGath (h : Hdr) (d : RegNo) (a : RegNo) (b : RegNo) (c : RegNo) (x0 : BitVec 32) (x : CopyX)
  /-- e.scat (R165). -/
  | eScat (h : Hdr) (d : RegNo) (a : RegNo) (b : RegNo) (c : RegNo) (x0 : BitVec 32) (x : CopyX)
  /-- e.fill (R165). -/
  | eFill (h : Hdr) (d : RegNo) (a : RegNo) (b : RegNo) (c : RegNo) (x0 : BitVec 32) (x : CopyX)
  /-- e.bcast (R165). -/
  | eBcast (h : Hdr) (d : RegNo) (a : RegNo) (b : RegNo) (c : RegNo) (x0 : BitVec 32) (x : CopyX)
  /-- e.rkinit (R267). -/
  | eRkinit (h : Hdr) (sub : BitVec 2) (d : RegNo) (a : RegNo) (rick : BitVec 2) (prio : BitVec 2) (fst : BitVec 5)
  /-- e.rkstep (R268). -/
  | eRkstep (h : Hdr) (sub : BitVec 2) (d : RegNo) (b : RegNo) (rick : BitVec 2) (prio : BitVec 2) (imm : BitVec 32)
  /-- e.rkread (R269). -/
  | eRkread (h : Hdr) (sub : BitVec 2) (d : RegNo) (a : RegNo) (rick : BitVec 2) (prio : BitVec 2) (mask : BitVec 16)
  /-- e.rkld (R270). -/
  | eRkld (h : Hdr) (d : RegNo) (a : RegNo) (rick : BitVec 2) (prio : BitVec 2) (rung : BitVec 4)
  /-- e.rkst (R270). -/
  | eRkst (h : Hdr) (d : RegNo) (a : RegNo) (rick : BitVec 2) (prio : BitVec 2) (rung : BitVec 4)
  /-- e.rksave (R272). -/
  | eRksave (h : Hdr) (sub : BitVec 2) (d : RegNo) (a : RegNo) (rick : BitVec 2) (prio : BitVec 2) (rx : RkX)
  /-- e.rkrest (R273). -/
  | eRkrest (h : Hdr) (sub : BitVec 2) (d : RegNo) (a : RegNo) (rick : BitVec 2) (prio : BitVec 2) (rx : RkX)
  /-- e.rkstat (R275). -/
  | eRkstat (h : Hdr) (d : RegNo) (rick : BitVec 2) (prio : BitVec 2)
  /-- kv.bind (R413). -/
  | kvBind (h : Hdr) (d : RegNo) (a : RegNo) (b : RegNo) (x0 : BitVec 32)
  /-- kv.bind.sub=unbind (R434). -/
  | kvUnbind (h : Hdr) (d : RegNo)
  /-- kv.pop (R417). -/
  | kvPop (h : Hdr) (d : RegNo) (a : RegNo)
  /-- kv.ack (R418). -/
  | kvAck (h : Hdr) (a : RegNo)
  /-- kv.ack.sub=fut (R418). -/
  | kvAckFut (h : Hdr) (a : RegNo) (b : RegNo)
  /-- kv.cur (R420). -/
  | kvCur (h : Hdr) (d : RegNo) (a : RegNo)
  /-- kv.app (R425). -/
  | kvApp (h : Hdr) (d : RegNo) (a : RegNo) (b : RegNo) (sc : BitVec 3)
  /-- kv.find (R429). -/
  | kvFind (h : Hdr) (d : RegNo) (a : RegNo) (b : RegNo)
  /-- kv.ins (R429). -/
  | kvIns (h : Hdr) (d : RegNo) (a : RegNo) (b : RegNo) (c : RegNo)
  /-- kv.rel (R429). -/
  | kvRel (h : Hdr) (d : RegNo) (a : RegNo) (b : RegNo)
  /-- kv.trunc (R426). -/
  | kvTrunc (h : Hdr) (d : RegNo) (a : RegNo) (b : RegNo) (sc : BitVec 3)
  /-- kv.rope (R431). -/
  | kvRope (h : Hdr) (d : RegNo) (a : RegNo) (b : RegNo) (c : RegNo) (p : BitVec 8)
  /-- kv.rpset (R430). -/
  | kvRpset (h : Hdr) (a : RegNo) (imm : BitVec 32)
  /-- kv.push (R416). -/
  | kvPush (h : Hdr) (a : RegNo) (b : RegNo)
  /-- kv.push.sub=end (R420). -/
  | kvPushEnd (h : Hdr) (a : RegNo)
  /-- kv.push.sub=stop (R420). -/
  | kvPushStop (h : Hdr)
  /-- c.anew (R82). -/
  | cAnew (h : Hdr) (d : RegNo) (a : RegNo) (quota : BitVec 9) (zf : Bool) (swm : Bool) (typ : BitVec 2)
  /-- c.seal (R84). -/
  | cSeal (h : Hdr) (d : RegNo) (a : RegNo)
  /-- c.drop (R86). -/
  | cDrop (h : Hdr) (d : RegNo) (a : RegNo)
  /-- c.aq (R91). -/
  | cAq (h : Hdr) (sub : BitVec 2) (d : RegNo) (a : RegNo)
  /-- c.wbr (R121). -/
  | cWbr (h : Hdr) (d : RegNo) (a : RegNo) (b : RegNo)
  /-- c.invr (R121). -/
  | cInvr (h : Hdr) (d : RegNo) (a : RegNo) (b : RegNo)
  /-- c.ctnew (R131). -/
  | cCtnew (h : Hdr) (d : RegNo) (a : RegNo) (id : BitVec 16)
  /-- c.ctenr (R132). -/
  | cCtenr (h : Hdr) (sub : BitVec 2) (d : RegNo) (a : RegNo) (b : RegNo) (node : BitVec 16)
  /-- c.ctenr.sub=withdraw (R132). -/
  | cCtenrWithdraw (h : Hdr) (d : RegNo) (a : RegNo) (b : RegNo)
  /-- c.ctpar (R129). -/
  | cCtpar (h : Hdr) (d : RegNo) (a : RegNo) (b : RegNo)
  /-- c.ctrd (R133). -/
  | cCtrd (h : Hdr) (d : RegNo) (a : RegNo)
  /-- c.settle (R127). -/
  | cSettle (h : Hdr) (d : RegNo) (a : RegNo)
  /-- c.ctdel (R131). -/
  | cCtdel (h : Hdr) (d : RegNo) (a : RegNo)
  /-- y.rdpr (R400). -/
  | yRdpr (h : Hdr) (d : RegNo) (a : RegNo)
  /-- y.wrpr (R398). -/
  | yWrpr (h : Hdr) (d : RegNo) (a : RegNo)
  /-- y.map (R103). -/
  | yMap (h : Hdr) (d : RegNo) (a : RegNo) (b : RegNo) (size : BitVec 4) (w : Bool) (als : Bool)
  /-- y.map.sub=1 (R103). -/
  | yMapFilter (h : Hdr) (d : RegNo) (a : RegNo) (b : RegNo) (x0 : BitVec 32) (idx : BitVec 5)
  /-- y.unmap (R103). -/
  | yUnmap (h : Hdr) (d : RegNo) (a : RegNo) (size : BitVec 4)
  /-- y.unmap.sub=1 (R103). -/
  | yUnmapFilter (h : Hdr) (d : RegNo) (idx : BitVec 5)
  /-- y.xinv.sub=inval (R103). -/
  | yXinvInval (h : Hdr) (d : RegNo) (a : RegNo) (b : RegNo)
  /-- y.xinv.sub=replay (R96). -/
  | yXinvReplay (h : Hdr) (d : RegNo) (a : RegNo) (b : RegNo)
  /-- y.xinv.sub=fail (R97). -/
  | yXinvFail (h : Hdr) (d : RegNo) (a : RegNo) (b : RegNo) (prot : Bool)
  /-- y.regn (R102). -/
  | yRegn (h : Hdr) (d : RegNo) (a : RegNo) (b : RegNo)
  /-- y.win (R401). -/
  | yWinRead (h : Hdr) (d : RegNo) (imm : BitVec 32)
  /-- y.win.wr (R401). -/
  | yWinWrite (h : Hdr) (b : RegNo) (imm : BitVec 32)
  /-- y.win.stop (R401). -/
  | yWinStop (h : Hdr)
  /-- y.ctxs (R403). -/
  | yCtxs (h : Hdr) (sub : BitVec 2) (d : RegNo) (a : RegNo) (imm : BitVec 32)
  /-- y.ctxl (R404). -/
  | yCtxl (h : Hdr) (sub : BitVec 2) (d : RegNo) (a : RegNo) (imm : BitVec 32)
  /-- y.eret (R402). -/
  | yEretResume (h : Hdr)
  /-- y.eret.step (R402). -/
  | yEretStep (h : Hdr)
  /-- y.eret.kill (R402). -/
  | yEretKillThreads (h : Hdr) (b : RegNo)
  /-- y.eret.sub=11 (R402). -/
  | yEretKillTeam (h : Hdr)
  /-- y.idle (R405). -/
  | yIdle (h : Hdr) (d : RegNo) (b : RegNo)
  /-- RESULT_RETURN (R202): A long-latency result is written and its counter falls. -/
  | resultReturn (a : Agent) (id : Nat)
  /-- FAULT_RECORD_POST (R390): A stopped wave's fault record is posted once its outstanding work has settled. -/
  | faultRecordPost (a : Agent)
  /-- BREAKPOINT_HIT (R399): A wave or stoker about to issue at an enabled breakpoint address stops with BREAK. -/
  | breakpointHit (a : Agent) (no : Nat)
  /-- WAVE_RETIRE (R16): A wave retires once its threads have ended and its stores are accepted. -/
  | waveRetire (a : Agent)
  /-- TEAM_RELEASE (R17): A team releases its footprint when its waves, engine work and spawned tasks are done. -/
  | teamRelease (team : Nat)
  /-- GROUP_COMPLETE (R363): The retired-team counter reaches the group size: publish, write the signal, resolve the future. -/
  | groupComplete (group : Nat)
  /-- GANG_PLACEMENT (R359): The scheduler places the next gang of a queued group on cores where it fits. -/
  | gangPlacement (die group : Nat) (cores : List Nat)
  /-- CLAIM_GRANT (R373): The head claim is granted when free registers suffice. -/
  | claimGrant (team : Nat)
  /-- CLAIM_FAIL (R375): With every live wave parked in q.claim, the largest claim fails with 0. -/
  | claimFail (team : Nat)
  /-- SLEEP_EXPIRY (R384): A q.sleep park ends after its count. -/
  | sleepExpiry (a : Agent)
  /-- ARENA_MASTER_REQUEST (R78): The arena master handles a c.anew, c.seal or c.drop request. -/
  | arenaMasterRequest (part : Nat) (id : Nat)
  /-- ARENA_BROADCAST_APPLY (R77): A core applies an arena-master broadcast to its attribute table. -/
  | arenaBroadcastApply (core : Nat)
  /-- DRAIN_WATERMARK (R87): The drain watermark passes; a drop's id becomes FREE or a seal proceeds. -/
  | drainWatermark (part aid : Nat)
  /-- SEAL_COMPLETE (R84): The master sets SEALED and the seal future resolves once cores apply it. -/
  | sealComplete (part aid : Nat)
  /-- TRANSLATION_WALK (R95): A table walk at the home controller completes for a request. -/
  | translationWalk (req : Nat)
  /-- HOME_SLICE_OPERATION (R278): A load, write-back, masked write, atomic or ticket operation is applied at its home slice. -/
  | homeSliceOperation (req : Nat)
  /-- L1_FILL (R108): A missing line returns and fills its invalid bytes in the L1. -/
  | l1Fill (req : Nat)
  /-- ROLL_UP_DELTA_APPLY (R126): The change-tree agent adds a delta to a node and its ancestors. -/
  | rollUpDeltaApply (part slice : Nat)
  /-- TICKET_WAITER_RETRY (R296): A waiter with no slice entry re-reads its object after back-off. -/
  | ticketWaiterRetry (a : Agent)
  /-- AMAX_UPDATE_APPLY (R193): The amax table applies a posted update in one step. -/
  | amaxUpdateApply (quad id : Nat)
  /-- BARRIER_HALF_COMPLETE (R162): A REMOTE object receives its partner's half-complete message. -/
  | barrierHalfComplete (team off : Nat)
  /-- COPY_BYTES_LAND (R167): Copy bytes perform at their destination and are subtracted from the barrier object. -/
  | copyBytesLand (copy row col n : Nat)
  /-- COPY_COMPLETE (R168): Every byte of a copy has performed and its future resolves. -/
  | copyComplete (copy : Nat)
  /-- SCOREBOARD_ENTRY_FREE (R169): A range scoreboard entry frees when its last access performs. -/
  | scoreboardEntryFree (core id : Nat)
  /-- TILE_PASS_GRANT (R243): The arbiter grants a pass to the eligible task of highest effective priority. -/
  | tilePassGrant (quad task : Nat)
  /-- TILE_PASS_COMPLETE (R237): A granted pass finishes after its engine time. -/
  | tilePassComplete (quad task : Nat)
  /-- TILE_TASK_COMPLETE (R244): A tile task's writes perform, it arrives at its barrier and its future resolves. -/
  | tileTaskComplete (quad task : Nat)
  /-- RICK_OPERATION_COMPLETE (R262): A rick operation completes and its effects take place together. -/
  | rickOperationComplete (quad task : Nat)
  /-- CHANGE_TREE_AGENT_REQUEST (R129): The change-tree agent takes a c.ctnew, c.ctpar, c.ctdel or c.ctrd request and acts on it as one step between deltas. -/
  | changeTreeAgentRequest (part id : Nat)
  /-- ENROLLMENT_APPLIED (R132): A die applies an enrollment or withdrawal; when every die has applied it (and, for withdrawal, its queued bumps), the c.ctenr future resolves. -/
  | enrollmentApplied (part die : Nat)
  /-- REMAP_FILTER_APPLY (R105): A core applies a remap-filter install or removal, and the filter future resolves once every core has applied it and rewritten accesses have retired. -/
  | remapFilterApply (core : Nat)
  /-- TRANSLATION_CACHE_INVALIDATION (R105): No translation cache holds the old entry and every request translated under it has retired, so y.unmap or y.xinv.sub=inval resolves. -/
  | translationCacheInvalidation (part id : Nat)
  /-- ECC_CORRECTED (R118): A corrected error is fixed, counted and logged. -/
  | eccCorrected (die : Nat) (site : EccSite)
  /-- BANK_MARK_FAILED (R118): A bank with more than 64 corrections in 2^24 clk is marked failed. -/
  | bankMarkFailed (die : Nat) (site : EccSite)
  /-- ECC_UNCORRECTABLE (R119): An uncorrectable error poisons the line or faults the reader. -/
  | eccUncorrectable (die : Nat) (site : EccSite) (target : EccTarget)
  /-- HOST_BAR2_READ (R439): A host read through a BAR2 aperture reads the home copy. -/
  | hostBar2Read (off n : Nat)
  /-- HOST_BAR2_WRITE (R439): A host write through a BAR2 aperture performs at the home as a masked write. -/
  | hostBar2Write (off : Nat) (bytes : List (BitVec 8))
  /-- BAR0_WRITE (R438): A host write to a BAR0 register with no behaviour of its own, such as an aperture descriptor. -/
  | bar0Write (off : Nat) (v : HostWord)
  /-- RESTART_MODULE (R449): RESTART with MODULE = 1 restarts all dies, warm or cold. -/
  | restartModule (warm : Bool)
  /-- RESTART_PARTITION (R449): RESTART with MODULE = 0 restarts one partition's dies. -/
  | restartPartition (found : PartTests)
  /-- MBOX_ATTESTATION (R450): Mailbox request 0x41 returns a signed attestation report. -/
  | mboxAttestation
  /-- MBOX_IMAGE_CHUNK (R441): Mailbox request 0x51 places a firmware image chunk. -/
  | mboxImageChunk
  /-- MBOX_IMAGE_COMMIT (R441): Mailbox request 0x52 verifies and installs a firmware image. -/
  | mboxImageCommit
  /-- MBOX_FIRMWARE_REQUEST (R441): Another mailbox code goes to the driver firmware interface, refused in kindling mode. -/
  | mboxFirmwareRequest (die : Nat) (reply : List (BitVec 8)) (refuse : Bool)
  /-- LARLAN_PORT_TRAIN (R443): A port trains and agrees keys with its peer. -/
  | larlanPortTrain (port : Nat)
  /-- LARLAN_LANE_LOSS (R443): Lane or training loss holds traffic, retrains and resends unacknowledged groups. -/
  | larlanLaneLoss (port : Nat)
  /-- LARLAN_KEY_EXPIRY (R443): A port retrains with a fresh key before its group counter reaches 2^48. -/
  | larlanKeyExpiry (port : Nat)
  /-- LINK (R444): A tag that does not verify stops the whole partition and marks it DOWN. -/
  | link (port : Nat)
  /-- LARLAN_REMOTE_ACCESS (R317): A load, store or put arriving over a Larlan link performs at its home. -/
  | larlanRemoteAccess (port : Nat) (acc : RemoteAccess)
  /-- MODULE_START (R446): All hearths boot, verify, train, test and bring partitions to READY. -/
  | moduleStart (tests : StartTests)
  /-- WATCHDOG_EXPIRY (R446): READY not set within 10 s fails the start. -/
  | watchdogExpiry
  /-- BRINGUP_OVERTEMP (R446): A die above 105 °C during bring-up fails the start. -/
  | bringupOvertemp (die : Nat)
  /-- THERMAL_THROTTLE (R451): A die above 95 °C has its clk lowered in steps. -/
  | thermalThrottle (die : Nat)
  /-- THERMAL_POWER_OFF (R451): A die at 110 °C powers the module off. -/
  | thermalPowerOff (die : Nat)
  /-- POWER_LOSS (R448): Power is lost: all module state is lost except FAILS in die 0's non-volatile store, and the next power-up is a module start. -/
  | powerLoss
  /-- L1_EVICTION (R109): The L1 evicts a line, sending a masked write-back of its dirty bytes. -/
  | l1Eviction (core line : Nat)
  /-- SLICE_EVICTION (R113): A slice evicts a line, writing dirty bytes to HBM or the home. -/
  | sliceEviction (die line : Nat)
  /-- RECORD_BLOCKING (R360): A group record that has waited 2^18 clk becomes blocking. -/
  | recordBlocking (die group : Nat)
  /-- WAVE_SWITCH_OUT (R369): A wave parked 1,024 clk on a future is saved to its context arena and a queued team placed. -/
  | waveSwitchOut (a : Agent) (group : Nat) (spares : List Nat)
  /-- PR_FAULTQ_WRITE (R391): Writing pr.FAULTQ sets the fault ring and posts held records. -/
  | prFaultqWrite (die : Nat) (v : BitVec 64)
  /-- PR_FQCONS_WRITE (R391): Advancing pr.FQCONS frees ring space so held records post. -/
  | prFqconsWrite (die : Nat) (v : BitVec 64)
  /-- IDLE_TIME_LIMIT (R405): The sB clk time limit of y.idle passes, and the hearth wave resumes with the time bit set. -/
  | idleTimeLimit (die : Nat)
  /-- ZERO_FILL_PAGE_DONE (R83): Background zeroing of a zero-fill page completes. -/
  | zeroFillPageDone (part page : Nat)
  /-- ASH_SWEEP_PASS (R89): A sweep pass finishes on every die and SWEEPS counts fall. -/
  | ashSweepPass (part : Nat)
  /-- WAVE_SWITCH_RESUME (R371): A switched-out wave's registers are reloaded and it resumes. -/
  | waveSwitchResume (a : Agent)
  /-- REGION_DRAIN_SIGNAL (R102): The old home signals drain and the new home serves held requests. -/
  | regionDrainSignal (part idx : Nat)
  deriving DecidableEq, Repr

end Sys2Proof
end

