-- ==== Sys2Proof/Machine/State.lean ====
section
/-! DEFINITION. The state of the module: waves, teams, cores, quads, dies, partitions, memory and what is in flight, all
as plain data; and the state after the start that R446 describes. -/

namespace Sys2Proof.Machine

/-- Memory by physical address (R94): a list of bytes in canonical form. An address that is not listed reads zero
(log 1). -/
abbrev Memory := List Host.Cell

/-- The state of a split record (R332). -/
inductive FragSt where
  | free | ready | parked | hold
  deriving DecidableEq, Repr

/-- A split record (R332), with the time at which its split created it (R334). -/
structure SplitRec where
  st : FragSt
  bsel : BitVec 3
  meld : Bool
  rj : Nat
  pc : W64
  mask : Lanes
  age : Nat
  deriving DecidableEq, Repr

/-- The tag of a register that is a future site (R365): the entry's quad and slot, its sequence number, the scope of the
operation, and, once resolved, the flags and the stale mark that a wait merges (R184, R86). -/
structure Tag where
  quad : Nat
  slot : Nat
  seq : Nat
  sc : BitVec 3
  resolved : Bool
  flags : BitVec 5
  stale : Bool
  deriving DecidableEq, Repr

/-- The counter that an outstanding result holds up (R202). -/
inductive Ctr where
  | ldc | stc | xc | ec | none
  deriving DecidableEq, Repr

/-- A register: scalar, mask, or one lane's vector register. -/
inductive Reg where
  | s (n : Nat)
  | k (n : Nat)
  | v (n lane : Nat)
  deriving DecidableEq, Repr

/-- One register write of an outstanding result; no value yet while its access is in flight. -/
structure RegWrite where
  reg : Reg
  val : Option Nat
  deriving DecidableEq, Repr

/-- What trap-safe results need at their return (R204, R386): the fragment, the instruction's length and D field. -/
structure TrapInfo where
  frag : Nat
  len : Nat
  d : Nat
  deriving DecidableEq, Repr

/-- A failed access of an outstanding result or store (R97): its code, threads and address, whether it is precise (R394), and whether
the instruction stood in a melded region (R392). -/
structure Failure where
  code : Nat
  lanes : Lanes
  addr : Nat
  prec : Bool
  meld : Bool
  deriving DecidableEq, Repr

/-- An outstanding result (R199, R202): its counter, its register writes, the requests it waits for, the acquire it ends
with, the flags its return raises, the tile or rope table it fills, the lanes of a g.ldnf that failed so far, whether it was issued
in a melded region (R392), and whether a g.st takes its value before it returns (R407). -/
structure Pend where
  id : Nat
  ctr : Ctr
  pc : W64
  writes : List RegWrite
  reqs : List Nat
  acq : Option (BitVec 3)
  flags : AMap (BitVec 5)
  trap : Option TrapInfo
  fail : Option Failure
  tile : Option (Nat × AMap Byte)
  rope : Option (BitVec 2048)
  bcast : Option Nat
  nf : Option Lanes
  meld : Bool
  fwd : Bool
  deriving DecidableEq, Repr

/-- Why an agent issues nothing (R36, R203, R290, R163, R366, R294, R297, R373, R384, R417, R405); `again`: it waits before it issues
the instruction at its PC again (R160, R289, R366); so do `post`, for an entry of the reservation table (R242), and `board`, for the
scoreboard to take the ranges of a copy (R170). -/
inductive Park where
  | none
  | wcnt (ldc stc xc ec : Nat)
  | fence (reqs : List Nat) (acq : Option (BitVec 3))
  | again (reqs : List Nat) (acq : Option (BitVec 3))
  | bar (team off token : Nat)
  | fut (reg : Nat)
  | waiter (id : Nat)
  | claim (target d : Nat)
  | sleep (until_ : Nat)
  | pop (q d no : Nat)
  | idle (start limit d : Nat)
  | post
  | board (ranges : List (Nat × List (Nat × Nat × Nat)))
  deriving DecidableEq, Repr

/-- A stop of the whole wave by a system fault (R390, R392 to R394). -/
structure Stop where
  code : Nat
  prec : Bool
  addr : Nat
  mask : Lanes
  pc : W64
  meld : Bool
  posted : Bool
  silent : Bool
  deriving DecidableEq, Repr

/-- The guard latch (R142): window offset, bank and PC of the first touch. -/
structure Guard where
  off : Nat
  bank : Nat
  pc : W64
  deriving DecidableEq, Repr

/-- The context of an agent that issues: a wave, a stoker or a hearth wave (R194, R197, R332, R347, R348, R365, R384,
R413, R430). `skipBkpt`: the fragments whose next issue meets no breakpoint (R399); `saveGen`: the generation under which its blocks
were saved (R370); `turnAge`: its place among its equals once q.yield has reset it (R377); `waits`: how often the wave has issued since
a fragment last did (R336); `passed`: how often its slot has issued while it was ready (R377); `heldClamp` and `heldStale`: KVCLAMP and
STALE as work that ended while the wave was stopped has left them (R73, R390); `broken`: its records failed the check of
its last resume, and its next issue gives HANDLE (R343, R402). -/
structure Ctx where
  team : Nat
  widx : Nat
  role : Nat
  priv : Bool
  s : AMap W64
  k : AMap W64
  v : AMap W32
  flags : AMap (BitVec 5)
  paths : BitVec 128
  mtab : BitVec 1024
  rope : BitVec 2048
  tags : AMap Tag
  split : AMap SplitRec
  age : Nat
  exited : Lanes
  nreg : Nat
  live : BitVec 32
  ldc : Nat
  stc : Nat
  xc : Nat
  ec : Nat
  pend : List Pend
  sfail : List (W64 × Failure)
  fpen : BitVec 5
  rmode : BitVec 3
  utvec : W64
  utpc : W64
  utnext : W64
  utlanes : W64
  utcause : BitVec 5
  utdst : BitVec 8
  utact : Bool
  utfrag : Nat
  rngkey : W64
  rngctr : W64
  stale : Bool
  kvclamp : Bool
  guard : Option Guard
  park : Park
  pk : Bool
  frag : Nat
  stop : Option Stop
  lastCode : Nat
  held : List (Nat × W64)
  heldClamp : Bool
  heldStale : Bool
  out : Option Nat
  single : Bool
  skipBkpt : List Nat
  turnAge : Nat
  parkedAt : Nat
  saveGen : Nat
  waits : AMap Nat
  passed : Nat
  broken : Bool
  deriving DecidableEq, Repr

/-- A footprint record (R56, R57). -/
structure Foot where
  entry : Nat
  waves : Nat
  threads : Nat
  regs : Nat
  ceil : Nat
  tiles : Nat
  acc : Nat
  lsbytes : Nat
  gang : Nat
  ricks : Nat
  roles : List (Nat × Nat)
  imgoff : Nat
  imglen : Nat
  guardoff : Nat
  swzoff : Nat
  deriving DecidableEq, Repr

/-- A bound rick (R259): rungs, first slot, shape, gains and weights as f32, and the step counter. -/
structure Rick where
  r : Nat
  f : Nat
  rows : Nat
  cols : Nat
  g : List W32
  w : List W32
  n : Nat
  deriving DecidableEq, Repr

/-- A placed team (R134, R194, R233, R236, R259, R258, R372): its place, the priority with which and the order in which it was placed
(R377), window, the offsets that barrier instructions have
named, half-completes (R162), tiles, slots, ricks, claim queue and reservation. -/
structure Team where
  group : Nat
  teamId : Nat
  x : Nat
  y : Nat
  z : Nat
  foot : Foot
  footBytes : List Byte
  core : Nat
  base : Nat
  depth : Nat
  prio : Nat
  placed : Nat
  priv : Bool
  win : AMap Byte
  guards : List Nat
  swz : AMap Nat
  objs : List Nat
  half : List Nat
  tiles : AMap Byte
  tcfg : AMap W32
  slots : AMap Byte
  ricks : AMap Rick
  waves : List Nat
  retired : List Nat
  claims : List Nat
  resv : Nat
  gang : List Nat
  stoker : Option Nat
  dead : Option Nat
  deriving DecidableEq, Repr

/-- A group record and its progress (R356, R359, R360, R363). -/
structure Group where
  part : Nat
  die : Nat
  gx : Nat
  gy : Nat
  gz : Nat
  foot : Foot
  footBytes : List Byte
  code : Nat
  prio : Nat
  sc : BitVec 3
  pin : Option Nat
  ctxa : Nat
  sigaddr : Nat
  sigval : W64
  args : W64
  rngkey : W64
  depth : Nat
  parent : Option Nat
  kind : Nat
  next : Nat
  retired : Nat
  worst : Option (Nat × Nat)
  cut : Bool
  fut : Option (Nat × Nat)
  since : Nat
  blocking : Bool
  queued : Bool
  deriving DecidableEq, Repr

/-- Who wrote (R97, R393): the agent and its team, its PC, the threads, and whether it stood in a melded region. -/
structure Who where
  a : Agent
  team : Nat
  pc : W64
  lanes : Lanes
  meld : Bool
  deriving DecidableEq, Repr

/-- A future's site (R365): a register, or a word in memory with who made it one. -/
inductive Site where
  | reg (a : Agent) (r : Nat)
  | mem (part va : Nat) (who : Who)
  deriving DecidableEq, Repr

/-- A pending entry of a future table (R364, R365): the team whose wave took it, the sequence number, the kind, the scope, the sites, the
operation's id, its flags, and the stoker entries bound to it (R418). -/
structure Fut where
  team : Nat
  seq : Nat
  kind : Nat
  sc : BitVec 3
  sites : List Site
  op : Nat
  flags : BitVec 5
  stale : Bool
  acks : List (Agent × Nat × Nat)
  deriving DecidableEq, Repr

/-- A matrix operand of a task (R248): in a tile, the local store or global memory. -/
inductive Opnd where
  | tile (t : Nat)
  | ls (addr stride swz : Nat)
  | global (va stride : Nat)
  deriving DecidableEq, Repr

/-- What a tile task or rick operation does (R251 to R256, R267 to R273); of a rick's image, how far it may reach before a check of R265 stops it,
and the code that it then has. -/
inductive TaskOp where
  | mm (mmt ta tb zero : Bool) (tya tyb : Ty) (acc m n k : Nat) (a b : Opnd)
      (scales : Option (Opnd × Opnd))
  | zero (a : Nat)
  | ldacc (a row col rows cols : Nat) (src : Opnd)
  | stacc (a row col rows cols : Nat) (dst : Opnd)
  | cvst (a : Nat) (dls tr : Bool) (t : TField) (dst stride : Nat) (cv : CvstX) (key ctr : W64)
  | rstat (a rows cols : Nat) (pend : Nat) (d : Nat) (lanes : Lanes)
  | rkinit (rick f : Nat) (rec : List Byte)
  | rkstep (rick : Nat) (sub : Nat) (slot addr : Nat) (val : W32)
  | rkread (rick a : Nat) (add : Bool) (mask : Nat)
  | rkld (rick a rung : Nat)
  | rkst (rick a rung : Nat)
  | rksave (rick sub addr isl icnt : Nat) (bad : Option (Nat × Nat))
  | rkrest (rick sub addr isl icnt f : Nat) (bad : Option (Nat × Nat))
  | rkstat (rick pend d : Nat)
  deriving DecidableEq, Repr

/-- A task in the reservation table (R242, R243, R261): who posted it, its priority, scope, barrier object, slots and
tiles, its progress along K, whether a pass is granted, the futures it awaits by quad, slot and SEQ (R249), the page that holds its stream (R247),
whether a y.map has let it go and it has not been translated again yet (R105), and the generations under which it accesses the arenas that it names (R77). -/
structure Task where
  id : Nat
  agent : Agent
  team : Nat
  op : TaskOp
  prio : Nat
  sc : BitVec 3
  since : Nat
  aged : Nat
  bar : Option Nat
  fut : Option (Nat × Nat)
  slots : List Nat
  tiles : List Nat
  k : Nat
  granted : Bool
  cancel : Bool
  flags : BitVec 5
  stale : Bool
  fail : Option Nat
  done : Bool
  wait : List (Nat × Nat × Nat)
  held : Option Nat
  again : Bool
  gens : AMap Nat
  pc : W64
  deriving DecidableEq, Repr

/-- A copy command (R165): rows of source and destination, an index list, the parts that have not landed, and whether a y.map has let it go and
it has not been translated again yet (R105). -/
structure Copy where
  id : Nat
  agent : Agent
  team : Nat
  core : Nat
  kind : Nat
  sls : Bool
  dls : Bool
  src : Nat
  dst : Nat
  sstride : Nat
  dstride : Nat
  rowbytes : Nat
  idx : Option Nat
  pattern : W32
  members : List Nat
  bar : Option Nat
  swz : Nat
  sc : BitVec 3
  left : List (Nat × Nat × Nat)
  cancel : Bool
  fail : Option Nat
  held : Option Nat
  again : Bool
  fut : Option (Nat × Nat)
  stale : Bool
  sgen : Nat
  dgen : Nat
  pc : W64
  carry : List (Nat × Nat × Byte)
  deriving DecidableEq, Repr

/-- A quad: futures, sequence counter, amax table and its updates on their way, tasks, the granted engine and rick unit,
copies (R7, R192, R242, R261, R364). -/
structure Quad where
  futs : AMap Fut
  seq : Nat
  amax : AMap W32
  amaxQ : List (Nat × Agent × Nat × Nat × W32)
  tasks : List Task
  engine : Option Nat
  rickUnit : Option Nat
  copies : List Copy
  deriving DecidableEq, Repr

/-- An L1 line (R106): its partition-wide line number VA[55:7], generation, masks, data, keep bit, poison (R119), and who stored last; the list that
holds the lines stands in order of use, most recent first. -/
structure L1Line where
  line : Nat
  gen : Nat
  valid : BitVec 128
  dirty : BitVec 128
  data : BitVec 1024
  keep : Bool
  poison : Bool
  last : Option Who
  deriving DecidableEq, Repr

/-- A line of an LLC slice (R111, R112, R119): the die, whether that die is the line's home, masks, hit count, hot copy,
poison, and whose bytes were written back into it last (R97). -/
structure LlcLine where
  die : Nat
  part : Nat
  line : Nat
  gen : Nat
  home : Bool
  dirty : BitVec 128
  data : BitVec 1024
  hits : Nat
  hot : Bool
  poison : Bool
  last : Option Who
  deriving DecidableEq, Repr

/-- A combining buffer of WC stores (R79), with who stored last. -/
structure WcBuf where
  who : Who
  line : Nat
  gen : Nat
  mask : BitVec 128
  data : BitVec 1024
  deriving DecidableEq, Repr

/-- An entry of a core's attribute table (R77). -/
structure Attr where
  state : Nat
  gen : Nat
  typ : Nat
  swm : Bool
  sealp : Bool
  deriving DecidableEq, Repr

/-- A remap-filter entry (R98): alias page, canonical page, pages. -/
structure Filter where
  al : Nat
  canon : Nat
  len : Nat
  deriving DecidableEq, Repr

/-- A range scoreboard entry (R169): the copy it belongs to, byte bounds in a team's window, and the swizzle under which the copy finds
those bytes (R144). -/
structure Board where
  id : Nat
  copy : Nat
  team : Nat
  lo : Nat
  hi : Nat
  swz : Nat
  deriving DecidableEq, Repr

/-- A core (R77, R79, R98, R106, R169). -/
structure Core where
  attr : AMap Attr
  filters : AMap Filter
  l1 : List L1Line
  wc : List WcBuf
  board : List Board
  deriving DecidableEq, Repr

/-- A fault-queue entry of 32 bytes, or an extension entry (R392). -/
abbrev FaultRec := List Byte

/-- A cached translation (R95): page base and size code with the leaf entry. -/
structure TlbEnt where
  part : Nat
  va : Nat
  size : Nat
  ent : W64
  deriving DecidableEq, Repr

/-- A prefix-table entry (R428). -/
structure Prefix where
  part : Nat
  tag : BitVec 128
  pool : Nat
  page : Nat
  count : Nat
  deriving DecidableEq, Repr

/-- A hearth mailbox (R441). -/
structure Mbox where
  cmd : Nat
  tag : W32
  arg : W64
  len : Nat
  status : Nat
  rlen : Nat
  data : AMap Byte
  deriving DecidableEq, Repr

/-- A die: its clock, fault queue registers, breakpoints, window register, private local store, translation cache,
prefix table, mailbox, boot record parts, throttle steps and bank marks (R391, R395, R397 to R399, R428, R441, R446,
R451, R118): for each bank, the times of its corrections. -/
structure Die where
  clk : Nat
  faultq : W64
  fqprod : W64
  fqcons : W32
  window : W64
  bkpt : AMap W64
  bootrec : W64
  hls : AMap Byte
  tlb : List TlbEnt
  prefixes : List Prefix
  mbox : Mbox
  mboxRing : Bool
  live : Bool
  sram : Bool
  throttle : Nat
  marks : List (Nat × Nat × Nat)
  corrections : AMap (List Nat)
  deriving DecidableEq, Repr

/-- A master entry of the arena table (R76). -/
structure Arena where
  state : Nat
  gen : Nat
  typ : Nat
  swm : Bool
  zf : Bool
  parent : Nat
  quota : Nat
  sweeps : Nat
  sealp : Bool
  deriving DecidableEq, Repr

/-- A request to the arena master on its way (R78): anew, seal or drop. -/
structure MasterReq where
  id : Nat
  agent : Agent
  op : Nat
  aid : Nat
  arg : Nat
  x1 : Nat
  pend : Nat
  fut : Option (Nat × Nat)
  deriving DecidableEq, Repr

/-- A broadcast of the arena master (R77) with the cores that have not applied it. -/
structure Bcast where
  no : Nat
  aid : Nat
  attr : Attr
  waiting : List Nat
  deriving DecidableEq, Repr

/-- A drain in progress (R84, R87): a seal's or a drop's, with the futures that it resolves and the broadcast it waits
for. -/
structure Drain where
  aid : Nat
  isSeal : Bool
  gen : Nat
  bno : Nat
  stage : Nat
  futs : List (Nat × Nat)
  deriving DecidableEq, Repr

/-- A region-table entry (R100). -/
structure Region where
  base : Nat
  len : Nat
  gran : Nat
  kind : Nat
  ver : Nat
  dies : BitVec 24
  mfirst : Nat
  mcount : Nat
  deriving DecidableEq, Repr

/-- A y.map on its way to its end (R105): the requests that it let go, which are translated again before its future resolves. -/
structure MapReq where
  id : Nat
  reqs : List Nat
  fut : Option (Nat × Nat)
  deriving DecidableEq, Repr

/-- A region rewrite whose old home drains (R102). -/
structure Rewrite where
  idx : Nat
  old : Region
  fut : Option (Nat × Nat)
  deriving DecidableEq, Repr

/-- A change-tree node (R123): count and parent. -/
structure Node where
  count : BitVec 48
  parent : Nat
  deriving DecidableEq, Repr

/-- An enrollment of change blocks (R124, R132): its base, what the remap filter makes of its range (R98: where each piece stands, its bytes,
where it begins in the range), with the dies that have not applied it and, for a withdrawal, its future. -/
structure Enroll where
  id : Nat
  base : Nat
  blocks : Nat
  parts : List (Nat × Nat × Nat)
  node : Nat
  consec : Bool
  waiting : List Nat
  removing : Bool
  fut : Option (Nat × Nat)
  deriving DecidableEq, Repr

/-- An item of a slice's roll-up queue (R126, R127): a bump of a node, or a settle's marker. -/
inductive Roll where
  | bump (node : Nat) (n : Nat)
  | marker (settle : Nat)
  deriving DecidableEq, Repr

/-- A settle in progress (R127). -/
structure Settle where
  id : Nat
  left : Nat
  status : Nat
  fut : Option (Nat × Nat)
  deriving DecidableEq, Repr

/-- A request to the change-tree agent (R129, R131, R133). -/
structure TreeReq where
  id : Nat
  agent : Agent
  op : Nat
  x : Nat
  y : Nat
  pend : Nat
  deriving DecidableEq, Repr

/-- A remap-filter change on its way to the cores (R103, R105). -/
structure FilterReq where
  id : Nat
  idx : Nat
  entry : Option Filter
  waiting : List Nat
  fut : Option (Nat × Nat)
  deriving DecidableEq, Repr

/-- An invalidation of translation caches on its way (R105). -/
structure InvalReq where
  id : Nat
  lo : Nat
  len : Nat
  fut : Option (Nat × Nat)
  deriving DecidableEq, Repr

/-- A partition (R76, R93, R100, R123, R124, R354, R398, R445). -/
structure Part where
  live : BitVec 24
  ready : Bool
  down : Bool
  arenas : AMap Arena
  masterQ : List MasterReq
  bcasts : List Bcast
  bno : Nat
  drains : List Drain
  zfLines : List Nat
  zfPages : List Nat
  regions : AMap Region
  rewrites : List Rewrite
  nodes : AMap Node
  enrolls : List Enroll
  rolls : AMap (List Roll)
  settles : List Settle
  treeQ : List TreeReq
  filterQ : List FilterReq
  invalQ : List InvalReq
  maps : List MapReq
  ptbase : W64
  arenatab : W64
  regiontab : W64
  rootpc : W64
  deriving DecidableEq, Repr

/-- What a request does at its home (R278, R287, R291, R297, R427): a load, which fills its L1 line, with the bytes its
core held at issue; a read at the home alone; a prefetch; a masked write; an atomic; a ticket operation, a watch or a
wait on a future word; a KV page operation; a fetch. -/
inductive ReqOp where
  | load (ch : Nat) (known : AMap Byte)
  | read (known : AMap Byte)
  | prefetch (ch : Nat)
  | write (mask : BitVec 128) (data : BitVec 1024)
  | rmw (op : BitVec 3) (ty : Ty) (x : Nat) (back : Bool)
  | cas (cmp new : Nat)
  | take
  | serve (inc : Nat)
  | ticket (t : Nat) (sc : BitVec 3)
  | watch (exp : Nat) (sc : BitVec 3) (d : Nat)
  | status (sc : BitVec 3) (d : Nat)
  | kvapp (src team : Nat) (fut : Option (Nat × Nat)) (lanes : Lanes)
  | kvtrunc (n : Nat) (fut : Option (Nat × Nat))
  | kvfind (tag : Nat) (d : Nat)
  | kvins (tag page : Nat) (d : Nat)
  | kvrel (tag : Nat) (d : Nat)
  | fetch
  deriving DecidableEq, Repr

/-- A request on its way to a home or back (R107, R278, R279): its source (the agent, its team, the core), address (canonical, 56 bits), size, generation
and region version, what must have performed before it, the outstanding result it serves and the lane, whether a failure
is reported in a mask (R154), sign extension, the address at which a translation episode holds it (R96), the line that came back,
whether its line may still enter the L1, its arena's type, for records the PC, the threads and whether they stood in a melded
region, and for a write-back the poison of its line (R119) and whether the die's copy of a software-managed line takes it (R109, R114). -/
structure Req where
  id : Nat
  agent : Agent
  team : Nat
  core : Nat
  part : Nat
  va : Nat
  n : Nat
  gen : Nat
  ver : Nat
  op : ReqOp
  after : List Nat
  pend : Option Nat
  lane : Nat
  nf : Bool
  sx : Bool
  held : Option Nat
  failed : Option Nat
  back : Option (BitVec 1024)
  alloc : Bool
  typ : Nat
  pc : W64
  mask : Lanes
  meld : Bool
  poison : Bool
  copy : Bool
  deriving DecidableEq, Repr

/-- A c.wbr or c.invr in progress (R121): its range, from and to where the remap filter places it (R98), the write-backs it waits for, whether the
die's copies have written back and its invalidations have taken place, and its future. -/
structure RangeOp where
  id : Nat
  agent : Agent
  core : Nat
  part : Nat
  parts : List (Nat × Nat)
  gen : Nat
  inval : Bool
  dropped : Bool
  reqs : List Nat
  fut : Option (Nat × Nat)
  deriving DecidableEq, Repr

/-- A waiter at a slice (R294, R296, R297, R381): a ticket, a watched word, or a future word. -/
structure Waiter where
  id : Nat
  agent : Agent
  part : Nat
  va : Nat
  n : Nat
  gen : Nat
  op : ReqOp
  inSlice : Bool
  len : Nat
  deriving DecidableEq, Repr

/-- An entry of a stoker queue (R416): its value and owner: offered, taken by a wave, or bound to a future. -/
inductive Owner where
  | offered
  | wave (a : Agent)
  | fut (quad slot : Nat)
  deriving DecidableEq, Repr

/-- A stoker queue (R416, R420): entries that are offered or taken, the next number, and the END mark. -/
structure SQueue where
  ents : List (Nat × W64 × Owner)
  next : BitVec 32
  fin : Bool
  deriving DecidableEq, Repr

/-- A stoker's binding (R413, R434). -/
structure Stoker where
  team : Nat
  running : Bool
  queues : AMap SQueue
  deriving DecidableEq, Repr

/-- A translation episode (R96): its page, its code, its record (with an extension entry where it has one, R392), and whether the record is
posted. -/
structure Episode where
  part : Nat
  die : Nat
  page : Nat
  bytes : Nat
  code : Nat
  record : List FaultRec
  posted : Bool
  deriving DecidableEq, Repr

/-- A save that y.ctxs has begun, or a restore that y.ctxl has (R403, R404): the hearth, the partition, the teams, the members that the
header counts, where the image stands and under which generation, for a restore the core and whether it is placed stopped, and the
future. -/
structure SaveOp where
  id : Nat
  agent : Agent
  part : Nat
  keys : List Nat
  members : Nat
  gen : Nat
  va : Nat
  restore : Option (Nat × Bool)
  deps : Option (List Nat)
  fut : Option (Nat × Nat)
  deriving DecidableEq, Repr

/-- What an image that has been restored held (R404): the teams, the contexts of their agents, which share the futures of the restored
team, their stokers, tasks and copies. -/
structure Snap where
  teams : List (Nat × Team)
  ctxs : List (Agent × Ctx)
  stokers : List (Nat × Stoker)
  tasks : List (Nat × Task)
  copies : List (Nat × Copy)
  deriving DecidableEq, Repr

/-- What y.ctxs saves of teams beside their contexts and futures, which keep standing under agents and quads of no core (R368, R378,
R403): the keys of the teams, the tasks and copies that they have posted by quad, and once it has been restored what it held. -/
structure Saved where
  id : Nat
  teams : List Nat
  tasks : List (Nat × Task)
  copies : List (Nat × Copy)
  snap : Option Snap
  deriving DecidableEq, Repr

/-- A Larlan port (R442, R443): whether it is trained, how often it has agreed keys, the two keys in use, the groups that it has
received and sent under them, those sent, before encryption, those that it sends again once it has trained anew, and the groups that it has
sent, as they stand on the link. -/
structure Port where
  trained : Bool
  epoch : Nat
  sendKey : List Byte
  recvKey : List Byte
  count : Nat
  sent : Nat
  plain : List (List Byte)
  again : List (List Byte)
  replies : List (List Byte)
  deriving DecidableEq, Repr

/-- The host side and what survives starts (R437, R438, R441, R445, R446, R448, R450): apertures, the installed and the pending firmware
image, the one that runs, FAILS, kindling, whether a start has ended and whether it has set READY, the configuration for the next start
(masks of dies) and the current one, what host reads through BAR2 answered, and the MSI-X vectors raised. -/
structure HostSide where
  aper : AMap W64
  image : List Byte
  chunk : AMap Byte
  runs : List Byte
  fails : Nat
  kindle : Bool
  on : Bool
  up : Bool
  config : List (BitVec 24)
  current : List (BitVec 24)
  reads : List (Nat × List Byte)
  msix : List Nat
  deriving DecidableEq, Repr

/-- Who moves next (the model's own): an agent's fragment issues, an event happens, a save or restore that y.ctxs or y.ctxl has begun
goes on (R403, R404), or a die's clock runs on. -/
inductive Turn where
  | issue (a : Agent) (frag : Nat)
  | event (e : Instr)
  | save (id : Nat)
  | time (die n : Nat)
  deriving DecidableEq, Repr

/-- The state of the module. -/
structure State where
  mem : Memory
  llc : List LlcLine
  ctxs : AMap Ctx
  teams : AMap Team
  groups : AMap Group
  cores : AMap Core
  quads : AMap Quad
  dies : AMap Die
  parts : AMap Part
  dieParts : AMap Nat
  stokers : AMap Stoker
  poison : List Nat
  reqs : List Req
  ranges : List RangeOp
  waiters : List Waiter
  episodes : List Episode
  saves : List SaveOp
  saved : List Saved
  ports : AMap Port
  host : HostSide
  uid : Nat
  tick : Nat
  cur : Agent
  frag : Nat
  turns : List Turn
  deriving DecidableEq, Repr

/-- Why the machine stops outside what its own faults describe. `physAbsent`: raised by accesses whose page maps to a
frame of a die number above 23, which no module has (R94); safe. -/
inductive Fault where
  | physAbsent
  deriving DecidableEq, Repr

/-- Why an instruction has no meaning. `notModelled`: raised by the arms of exec that have no meaning yet; safe. -/
inductive Refusal where
  | notModelled (mnemonic : String)
  deriving DecidableEq, Repr

/-- The key of an agent's context. -/
def ctxKey : Agent → Nat
  | .slot c n => 24 * c + n
  | .hearth d => 36864 + d

/-- Identity rename table: entry i of every row holds i (R348). -/
def idTable : BitVec 1024 :=
  BitVec.ofNat 1024 ((List.range 128).foldr (fun i acc => i % 32 + 256 * acc) 0)

/-- Rope table at wave start: THETA zero, SCALE 1.0 (R430). -/
def ropeInit : BitVec 2048 :=
  BitVec.ofNat 2048 (2 ^ 1024 * (List.range 32).foldr (fun _ acc => 0x3F800000 + 2 ^ 32 * acc) 0)

/-- A context before anything runs on it: the reset values of R197, R233, R332, R347, R348, R430. -/
def Ctx.init : Ctx :=
  { team := 0, widx := 0, role := 0, priv := false, s := [], k := [], v := [], flags := [], paths := 0, mtab := idTable,
    rope := ropeInit, tags := [], split := [], age := 0, exited := 0, nreg := 8, live := BitVec.allOnes 32, ldc := 0,
    stc := 0, xc := 0, ec := 0, pend := [], sfail := [], fpen := 0, rmode := 0, utvec := 0, utpc := 0, utnext := 0,
    utlanes := 0, utcause := 0, utdst := 0, utact := false, utfrag := 0, rngkey := 0, rngctr := 0, stale := false,
    kvclamp := false, guard := none, park := .none, pk := false, frag := 0, stop := none, lastCode := 0, held := [], heldClamp := false, heldStale := false, out := none,
    single := false, skipBkpt := [], turnAge := 0, parkedAt := 0, saveGen := 0, waits := [], passed := 0, broken := false }

/-- The split table at wave start: record 0 READY (R333). -/
def splitInit (pc : W64) (mask : Lanes) : AMap SplitRec :=
  [(0, { st := .ready, bsel := 0, meld := false, rj := 15, pc := pc, mask := mask, age := 0 })]

/-- The lanes 0 to n − 1. -/
def firstLanes (n : Nat) : Lanes := BitVec.ofNat 64 (2 ^ n - 1)

/-- A core with nothing in it. -/
def Core.init : Core := { attr := [], filters := [], l1 := [], wc := [], board := [] }
/-- A quad with nothing in it; SEQ starts at 0 (R364). -/
def Quad.init : Quad :=
  { futs := [], seq := 0, amax := [], amaxQ := [], tasks := [], engine := none, rickUnit := none, copies := [] }
/-- An idle mailbox (R441). -/
def Mbox.init : Mbox := { cmd := 0, tag := 0, arg := 0, len := 0, status := 0, rlen := 0, data := [] }
/-- The boot record of a ready module: STAGE 6, READY, all dies live (R446). -/
def bootReady (live : BitVec 24) : W64 := BitVec.ofNat 64 (live.toNat * 2 ^ 32 + 6 * 2 ^ 8 + 1)
/-- A die after the start (R398, R446). -/
def Die.init : Die :=
  { clk := 0, faultq := 0, fqprod := 0, fqcons := 0, window := 0, bkpt := [], bootrec := bootReady (BitVec.allOnes 24),
    hls := [], tlb := [], prefixes := [], mbox := Mbox.init, mboxRing := false, live := true, sram := true, throttle := 0,
    marks := [], corrections := [] }
/-- A free arena entry as it stands at reset (R76). -/
def Arena.init (id : Nat) : Arena :=
  { state := if id = 1 then 1 else 0, gen := 0, typ := 0, swm := false, zf := false, parent := if id ≤ 1 then 0 else 1,
    quota := 256, sweeps := 0, sealp := false }
/-- An attribute entry as it stands at reset (R76, R77). -/
def Attr.init (id : Nat) : Attr := { state := if id = 1 then 1 else 0, gen := 0, typ := 0, swm := false, sealp := false }
/-- The footprint of the root task: one wave of one thread (R354). -/
def rootFoot : Foot :=
  { entry := 0, waves := 1, threads := 1, regs := 64, ceil := 64, tiles := 0, acc := 0, lsbytes := 256, gang := 1,
    ricks := 0, roles := [], imgoff := 0, imglen := 0, guardoff := 0xFFFFFFFF, swzoff := 0xFFFFFFFF }
/-- The root task's team (R354). -/
def rootTeam (core : Nat) : Team :=
  { group := 0, teamId := 0, x := 0, y := 0, z := 0, foot := rootFoot, footBytes := [], core := core, base := 0, depth := 0, prio := 0,
    placed := 0, priv := true, win := [], guards := [], swz := [], objs := [], half := [], tiles := [], tcfg := [], slots := [], ricks := [],
    waves := [0], retired := [], claims := [], resv := 0, gang := [], stoker := none, dead := none }

/-- VA of arena 1 (R447). -/
def rootVa : Nat := 0x0000100000000000
/-- The root task's entry (log 2): inside the range that R447 maps. -/
def rootEntry : W64 := 0x0000100000010000
/-- Where the translation table of the first partition stands in die 0's HBM (log 3). -/
def rootTable : Nat := 0x40000000

/-- An 8-byte little-endian word as memory cells, its zero bytes left out. -/
def wordCells (addr v : Nat) : Memory :=
  ((List.range 8).map (fun i => (addr + i, BitVec.ofNat 8 (v >>> (8 * i))))).filter (fun c => c.2 ≠ 0)

/-- The translation table of R447: a pointer at level 0 and one at level 1, and 32 leaves of 64 KiB at level 2, each with
V and W, the range's offsets being the frame's offsets (R93, R94; log 3). -/
def tableCells (table die : Nat) : Memory :=
  let dieBits := die * 2 ^ 37
  let l1 := table + 0x4000000
  let l2 := table + 0x4001000
  wordCells (dieBits + table + 8 * 2048) (15 * 2 ^ 60 + dieBits + l1 + 1)
    ++ wordCells (dieBits + l1) (15 * 2 ^ 60 + dieBits + l2 + 1)
    ++ (List.range 32).flatMap (fun j => wordCells (dieBits + l2 + 8 * j) (2 ^ 60 + dieBits + 0x10000 * j + 3))

/-- Region entry 0 of a partition (R447). -/
def rootRegion (die : Nat) : Region :=
  { base := rootVa, len := 0x200000, gran := 0, kind := 0, ver := 0, dies := BitVec.ofNat 24 (2 ^ die), mfirst := 0,
    mcount := 0 }

/-- The root state of a partition whose lowest live die is d (R447). -/
def Part.init (live : BitVec 24) (d : Nat) : Part :=
  { live := live, ready := true, down := false, arenas := [(1, Arena.init 1)], masterQ := [], bcasts := [], bno := 0,
    drains := [], zfLines := [], zfPages := [], regions := [(0, rootRegion d)], rewrites := [], nodes := [], enrolls := [],
    rolls := [], settles := [], treeQ := [], filterQ := [], invalQ := [], maps := [],
    ptbase := BitVec.ofNat 64 (d * 2 ^ 37 + rootTable), arenatab := 0, regiontab := 0, rootpc := rootEntry }

/-- The root task of a partition at its start (R354, R358, R447). -/
def rootCtx (team part : Nat) (live : BitVec 24) : Ctx :=
  { Ctx.init with
    team := team, priv := true, nreg := 64
    s := ([(0, BitVec.ofNat 64 part), (1, live.zeroExtend 64), (2, BitVec.ofNat 64 rootVa)] : AMap W64).filter (fun e => e.2 ≠ 0)
    split := splitInit rootEntry 1, exited := ~~~1 }

/-- The entry of every hearth wave (log 2): in the range that R447 maps, above the root task's. -/
def hearthEntry : W64 := 0x0000100000018000
/-- The hearth wave of a die at its start (R397; its entry is log 2). -/
def hearthCtx : Ctx :=
  { Ctx.init with priv := true, nreg := 256, split := splitInit hearthEntry (BitVec.allOnes 64) }

/-- The module after the start of R446: one partition of 24 dies, its root state (R447), its root task, the hearth waves,
and nothing in flight. -/
def State.reset : State :=
  { mem := tableCells rootTable 0, llc := []
    ctxs := (0, rootCtx 1 0 (BitVec.allOnes 24)) :: (List.range 24).map (fun d => (36864 + d, hearthCtx))
    teams := [(1, rootTeam 0)], groups := [], cores := [], quads := []
    dies := (List.range 24).map (fun d => (d, Die.init))
    parts := [(0, Part.init (BitVec.allOnes 24) 0)]
    dieParts := (List.range 24).map (fun d => (d, 0))
    stokers := [], poison := [], reqs := [], ranges := [], waiters := [], episodes := [], saves := [], saved := [], ports := []
    host := { aper := [], image := Config.factoryImage, chunk := [], runs := Config.factoryImage, fails := 0, kindle := false, on := true,
              up := true, config := [BitVec.allOnes 24], current := [BitVec.allOnes 24], reads := [], msix := [] }
    uid := 2, tick := 0, cur := .slot 0 0, frag := 0, turns := [] }

end Sys2Proof.Machine
end

