-- ==== Sys2Proof/Machine/Access.lean ====
section
/-! DEFINITION. Access to the parts of the state: where an agent, a core, a quad, a die and a partition stand, register
reads and writes (R194, R196), and bytes of memory. -/

namespace Sys2Proof.Machine

/-- The key of an agent's core for its L1 and tables: the module-wide core number, and 1536 + d for the hearth core of
die d (R7, R397). What the slices of die d send by themselves stands under 1600 + d. -/
def coreOf : Agent → Nat
  | .slot c _ => c
  | .hearth d => 1536 + d
/-- The die of a core key. -/
def dieOfCore (c : Nat) : Nat := if c < 1536 then c / 64 else (c - 1536) % 64
/-- The die of an agent. -/
def dieOf (a : Agent) : Nat := dieOfCore (coreOf a)
/-- The quad key of an agent: die × 16 + quad (R7). A hearth core's work with futures stands in quad 0 of its die's
tables, and its f.amax updates that quad's table (log 7). -/
def quadOf : Agent → Nat
  | .slot c _ => c / 4
  | .hearth d => 16 * d
/-- The agent is a wave on a hearth core (R397). -/
def isHearth : Agent → Bool
  | .hearth _ => true
  | .slot .. => false
/-- The agent is a stoker (R392, R413). -/
def isStoker : Agent → Bool
  | .hearth _ => false
  | .slot _ n => decide (20 ≤ n)

/-- The context of an agent. -/
def State.ctx? (s : State) (a : Agent) : Option Ctx := s.ctxs.find (ctxKey a)
/-- Replace an agent's context. -/
def State.setCtx (s : State) (a : Agent) (c : Ctx) : State := { s with ctxs := s.ctxs.put (ctxKey a) c }
/-- Change an agent's context, where there is one. -/
def State.mapCtx (s : State) (a : Agent) (f : Ctx → Ctx) : State :=
  match s.ctx? a with
  | some c => s.setCtx a (f c)
  | none => s

/-- A core. -/
def State.core (s : State) (c : Nat) : Core := s.cores.get Core.init c
/-- Change a core. -/
def State.mapCore (s : State) (c : Nat) (f : Core → Core) : State :=
  { s with cores := s.cores.set Core.init c (f (s.core c)) }
/-- A quad. -/
def State.quad (s : State) (q : Nat) : Quad := s.quads.get Quad.init q
/-- Change a quad. -/
def State.mapQuad (s : State) (q : Nat) (f : Quad → Quad) : State :=
  { s with quads := s.quads.set Quad.init q (f (s.quad q)) }
/-- A die. -/
def State.die (s : State) (d : Nat) : Die := (s.dies.find d).getD Die.init
/-- Change a die. -/
def State.mapDie (s : State) (d : Nat) (f : Die → Die) : State := { s with dies := s.dies.put d (f (s.die d)) }
/-- The partition of a die (R445). -/
def State.partOf (s : State) (d : Nat) : Nat := s.dieParts.get 0 d
/-- A partition. -/
def State.part (s : State) (p : Nat) : Part := (s.parts.find p).getD (Part.init 0 0)
/-- Change a partition. -/
def State.mapPart (s : State) (p : Nat) (f : Part → Part) : State := { s with parts := s.parts.put p (f (s.part p)) }
/-- The partition of an agent. -/
def State.agentPart (s : State) (a : Agent) : Nat := s.partOf (dieOf a)
/-- The partition of a core key. -/
def State.corePart (s : State) (c : Nat) : Nat := s.partOf (dieOfCore c)
/-- A team. -/
def State.team? (s : State) (t : Nat) : Option Team := s.teams.find t
/-- Change a team, where there is one. -/
def State.mapTeam (s : State) (t : Nat) (f : Team → Team) : State :=
  match s.teams.find t with
  | some x => { s with teams := s.teams.put t (f x) }
  | none => s
/-- Change a group, where there is one. -/
def State.mapGroup (s : State) (g : Nat) (f : Group → Group) : State :=
  match s.groups.find g with
  | some x => { s with groups := s.groups.put g (f x) }
  | none => s
/-- The live dies of a partition, in increasing order (R445). -/
def State.liveDies (s : State) (p : Nat) : List Nat := onesBelow (s.part p).live.toNat 24
/-- A fresh number, and the state that has given it out. -/
def State.fresh (s : State) : Nat × State := (s.uid, { s with uid := s.uid + 1 })
/-- The clock of a die (R2, R22). -/
def State.clk (s : State) (d : Nat) : Nat := (s.die d).clk

/-- A scalar register; s63 reads zero (R194). -/
def Ctx.sget (c : Ctx) (n : Nat) : W64 := if n = 63 then 0 else AMap.get 0 c.s n
/-- Write a scalar register; writes to s63 are discarded (R196). -/
def Ctx.sset (c : Ctx) (n : Nat) (v : W64) : Ctx := if n = 63 then c else { c with s := AMap.set 0 c.s n v }
/-- A mask register; k0 reads all ones (R194). -/
def Ctx.kget (c : Ctx) (n : Nat) : Lanes := if n = 0 then BitVec.allOnes 64 else AMap.get 0 c.k n
/-- Write a mask register; writes to k0 are discarded (R196). -/
def Ctx.kset (c : Ctx) (n : Nat) (v : Lanes) : Ctx := if n = 0 then c else { c with k := AMap.set 0 c.k n v }
/-- A vector register of a lane (R194). -/
def Ctx.vget (c : Ctx) (n lane : Nat) : W32 := AMap.get 0 c.v (64 * n + lane)
/-- Write a vector register of a lane. -/
def Ctx.vset (c : Ctx) (n lane : Nat) (v : W32) : Ctx := { c with v := AMap.set 0 c.v (64 * n + lane) v }
/-- The sticky flags of a lane: NV, DZ, OF, UF, NX in bits 4 to 0 (R184). -/
def Ctx.flag (c : Ctx) (lane : Nat) : BitVec 5 := AMap.get 0 c.flags lane
/-- Raise sticky flags of a lane. -/
def Ctx.raiseFlags (c : Ctx) (lane : Nat) (f : BitVec 5) : Ctx :=
  { c with flags := AMap.set 0 c.flags lane (c.flag lane ||| f) }
/-- The path id of a lane (R347). -/
def Ctx.path (c : Ctx) (lane : Nat) : Nat := bits c.paths.toNat (2 * lane) 2
/-- Write a register of any file. -/
def Ctx.regSet (c : Ctx) (r : Reg) (v : Nat) : Ctx :=
  match r with
  | .s n => c.sset n (BitVec.ofNat 64 v)
  | .k n => c.kset n (BitVec.ofNat 64 v)
  | .v n lane => c.vset n lane (BitVec.ofNat 32 v)
/-- A split record (R332); a record that is not listed is FREE. -/
def Ctx.rec? (c : Ctx) (i : Nat) : Option SplitRec := c.split.find i

/-- A wave that has retired while loads into its team's tiles are on their way (R16, R235): it holds no registers, and
none is live. -/
def Ctx.gone (c : Ctx) : Bool := c.nreg == 0 && c.live == 0

/-- A byte of memory at a physical address (log 1: an address that nothing has written reads zero). -/
def Memory.get (m : Memory) (a : Nat) : Byte := AMap.get 0 m a
/-- Write a byte of memory; the list keeps its canonical form. -/
def Memory.set (m : Memory) (a : Nat) (b : Byte) : Memory := AMap.set 0 m a b
/-- The canonical form of a memory. -/
def Memory.wf (m : Memory) : Bool := AMap.wf (0 : Byte) m
/-- n bytes from an address on. -/
def Memory.read (m : Memory) (a n : Nat) : List Byte := (List.range n).map (fun i => m.get (a + i))
/-- Write bytes from an address on. -/
def Memory.write : Memory → Nat → List Byte → Memory
  | m, _, [] => m
  | m, a, b :: l => Memory.write (m.set a b) (a + 1) l

/-- Bytes of a sparse byte map that reads zero where nothing stands. -/
def bytesAt (m : AMap Byte) (a n : Nat) : List Byte := (List.range n).map (fun i => AMap.get 0 m (a + i))
/-- Write bytes into a sparse byte map. -/
def putBytes : AMap Byte → Nat → List Byte → AMap Byte
  | m, _, [] => m
  | m, a, b :: l => putBytes (AMap.set 0 m a b) (a + 1) l

end Sys2Proof.Machine
end

