-- ==== Sys2Proof/Machine/Lines.lean ====
section
/-! DEFINITION. Lines of 128 bytes with byte masks (R106, R116), as bit vectors with byte i in bits 8i + 7 to 8i. -/

namespace Sys2Proof.Machine

/-- A byte of a line. -/
def lineByte (d : BitVec 1024) (i : Nat) : Byte := d.extractLsb' (8 * i) 8
/-- n bytes of a line from byte i on. -/
def lineBytes (d : BitVec 1024) (i n : Nat) : List Byte := (List.range n).map (fun j => lineByte d (i + j))
/-- The 1024-bit mask of a byte mask. -/
def wideMask (m : BitVec 128) : BitVec 1024 :=
  BitVec.ofNat 1024 ((onesBelow m.toNat 128).foldl (fun acc i => acc + 255 * 2 ^ (8 * i)) 0)
/-- Merge the masked bytes of a write into a line (R116). -/
def mergeLine (old : BitVec 1024) (m : BitVec 128) (new : BitVec 1024) : BitVec 1024 :=
  let w := wideMask m
  (old &&& ~~~w) ||| (new &&& w)
/-- The byte mask of n bytes from byte i on. -/
def maskOf (i n : Nat) : BitVec 128 := BitVec.ofNat 128 ((2 ^ n - 1) * 2 ^ i)
/-- Bytes placed in a line from byte i on, the rest zero. -/
def placeBytes (i : Nat) (l : List Byte) : BitVec 1024 := BitVec.ofNat 1024 (ofLe l * 2 ^ (8 * i))
/-- The line whose bytes are a list. -/
def lineOf (l : List Byte) : BitVec 1024 := BitVec.ofNat 1024 (ofLe l)

/-! ## Virtual addresses (R74) -/

/-- VA without its TAG (R74). -/
def vaOf (a : W64) : Nat := a.toNat % 2 ^ 56
/-- Arena id of an address (R74). -/
def arenaOf (va : Nat) : Nat := bits va 44 12
/-- Offset of an address in its arena (R74). -/
def offOf (va : Nat) : Nat := bits va 0 44
/-- Line number of an address: VA[55:7] (R106). -/
def lineNo (va : Nat) : Nat := va / 128 % 2 ^ 49
/-- Arena id of a line number. -/
def lineArena (l : Nat) : Nat := arenaOf (l * 128)
/-- The home slice within a die: VA[10:7] ⊕ VA[14:11] ⊕ VA[18:15] (R101). -/
def sliceOf (va : Nat) : Nat := bits va 7 4 ^^^ bits va 11 4 ^^^ bits va 15 4

end Sys2Proof.Machine
end

