-- ==== Sys2Proof/Machine/Ops.lean ====
section
/-! DEFINITION. The operations every instruction shares: the checks at issue (R41, R42, R195, R200, R201, R346, R366), the
retirement of an instruction (R36, R37), outstanding results and their counters (R199 to R204), taking a system fault
(R390), taking a user trap and returning from it (R350, R386, R387). -/

namespace Sys2Proof.Machine

/-! Fault codes (R394). -/
namespace Code
def iil : Nat := 0x01
def priv : Nat := 0x02
def align : Nat := 0x03
def xlate : Nat := 0x04
def prot : Nat := 0x05
def arenaDead : Nat := 0x06
def arenaSealed : Nat := 0x07
def synonym : Nat := 0x08
def lsRange : Nat := 0x09
def guardTouch : Nat := 0x0A
def swz : Nat := 0x0B
def tileShape : Nat := 0x0C
def claim : Nat := 0x0D
def handle : Nat := 0x0E
def nest : Nat := 0x0F
def stoker : Nat := 0x10
def ecc : Nat := 0x11
def brk : Nat := 0x12
def utNest : Nat := 0x13
def link : Nat := 0x14
end Code

/-! Statuses of a future handle (R364). -/
namespace Status
def pending : Nat := 0
def done : Nat := 1
def faulted : Nat := 2
def cancelled : Nat := 3
def busy : Nat := 4
def full : Nat := 5
def empty : Nat := 6
end Status

/-- What an instruction sees at issue: its agent, the agent's context, the issuing fragment, the passing threads, its
header, its length, and the tick that free choices take (R200). -/
structure Iss where
  a : Agent
  c : Ctx
  fid : Nat
  fr : SplitRec
  p : Lanes
  h : Hdr
  len : Nat
  tick : Nat
  deriving DecidableEq, Repr

/-- The PC of the instruction. -/
def Iss.pc (is : Iss) : W64 := is.fr.pc
/-- The instruction as the one that makes an access for threads l (R97, R393). -/
def Iss.who (is : Iss) (l : Lanes) : Who := { a := is.a, team := is.c.team, pc := is.fr.pc, lanes := l, meld := is.fr.meld }

/-- Where an instruction goes instead of taking its effect: the wave stops, stops for a failed load whose target it reads
(R97), waits at issue, waits for a translation that its fetch or its record lacks (R96), with or without the other fragments of the wave
(R348), parks before it issues, or waits for a release at a scope and then issues again (R160, R289); or it drains the combining buffers and
the lines that its read overlaps, and then issues again (R79, R109). -/
inductive Exc where
  | drain (va n : Nat)
  | stop (st : Stop)
  | failed (id : Nat)
  | stall
  | hold (va code : Nat) (soft : Bool)
  | holdWave (va code : Nat)
  | park (p : Park)
  | release (sc : Nat)
  deriving DecidableEq, Repr

/-- The result of an operation that may not complete. -/
abbrev Res := Except Exc

/-- A precise system fault of the instruction at issue (R390, R392): code, address and threads. -/
def Iss.fault (is : Iss) (code addr : Nat) (mask : Lanes) : Exc :=
  .stop { code := code, prec := true, addr := addr, mask := mask, pc := is.pc, meld := is.fr.meld, posted := false,
          silent := false }
/-- The same with the fragment's mask (R393). -/
def Iss.fault0 (is : Iss) (code : Nat) : Exc := is.fault code 0 is.fr.mask

/-- An instruction before whose end no other of the wave issues: a wait for a translation holds every fragment (R348). -/
def wholeWave {α : Type} : Res α → Res α
  | .error (.hold va code _) => .error (.holdWave va code)
  | r => r

/-- Raise a fault unless a condition holds. -/
def require (b : Bool) (e : Exc) : Res Unit := if b then .ok () else .error e

/-! ## Reading registers at issue (R199, R200) -/

/-- The agent of a context's key. -/
def agentOfKey (k : Nat) : Agent :=
  if 36864 ≤ k && k < 36888 then .hearth (k - 36864) else .slot (k / 24) (k % 24)

/-- The value that an outstanding result has for a register, once known; s63 and k0 take none (R194, R196). -/
def Ctx.pendVal (c : Ctx) (r : Reg) : Option Nat :=
  if r = .s 63 || r = .k 0 then none else c.pend.findSome? (fun p => p.writes.findSome? (fun w => if w.reg = r then w.val else none))

/-- A register has an outstanding long-latency write (R201); a load that has failed writes nothing (R97). -/
def Ctx.outstanding (c : Ctx) (r : Reg) : Bool := c.pend.any (fun p => p.fail.isNone && p.writes.any (fun w => w.reg = r))

/-- A key for the free choice of R200: one for each scalar register, each bit of a mask register and each vector register
of a thread. -/
def readKey : Reg → Nat
  | .s n => n
  | .k n => 64 * (n + 1)
  | .v n lane => 2048 + 64 * n + lane

/-- A scalar register as an instruction reads it: the value before an outstanding write, or freely the written one. -/
def Ctx.readS (c : Ctx) (tick n : Nat) : W64 :=
  match c.pendVal (.s n) with
  | some v => if Config.freeBit tick (readKey (.s n)) then BitVec.ofNat 64 v else c.sget n
  | none => c.sget n

/-- A mask register as an instruction reads it, each bit free on its own while a write is outstanding. -/
def Ctx.readK (c : Ctx) (tick n : Nat) : Lanes :=
  match c.pendVal (.k n) with
  | some v =>
    let ch := lanesOf ((List.range 64).filter (fun i => Config.freeBit tick (readKey (.k n) + i)))
    (c.kget n &&& ~~~ch) ||| (BitVec.ofNat 64 v &&& ch)
  | none => c.kget n

/-- A physical vector register of a lane as an instruction reads it. -/
def Ctx.readV (c : Ctx) (tick n lane : Nat) : W32 :=
  match c.pendVal (.v n lane) with
  | some v => if Config.freeBit tick (readKey (.v n lane)) then BitVec.ofNat 32 v else c.vget n lane
  | none => c.vget n lane

/-- The physical register that a field value names in a lane: renamed below 32 where MD = 1 (R38, R346). DESIGN CHOICE (log 146): a number that
a group derives from a field of 0–31 and that is 32 or more has no entry in the table, and passes unchanged. -/
def Ctx.phys (c : Ctx) (md : Bool) (bsel : BitVec 3) (r lane : Nat) : Nat :=
  if md && r < 32 then bits c.mtab.toNat (8 * (32 * c.path lane + r)) 8 + 32 * bsel.toNat else r

/-- A scalar source. -/
def Iss.s (is : Iss) (r : RegNo) : W64 := is.c.readS is.tick r.toNat
/-- A mask source; a stoker's masks are those of R413. -/
def Iss.k (is : Iss) (r : RegNo) : Lanes :=
  if isStoker is.a then (if r = 0 then 1 else 0) else is.c.readK is.tick r.toNat
/-- The physical number of a vector register field plus an offset in a lane. -/
def Iss.phys (is : Iss) (r : Nat) (lane : Nat) : Nat := is.c.phys is.h.md is.fr.bsel r lane
/-- A vector source of a lane, renamed with that lane's path (R346). -/
def Iss.v (is : Iss) (r : RegNo) (lane : Nat) : W32 := is.c.readV is.tick (is.phys r.toNat lane) lane
/-- The j-th register of a vector group of a lane. -/
def Iss.vj (is : Iss) (r : RegNo) (j lane : Nat) : W32 := is.c.readV is.tick (is.phys (r.toNat + j) lane) lane
/-- A vector operand of an element width: a register, or an even and odd pair with the low half in the even one (R194). -/
def Iss.vw (is : Iss) (wide : Bool) (r : RegNo) (lane : Nat) : Nat :=
  (is.v r lane).toNat + if wide then 2 ^ 32 * (is.vj r 1 lane).toNat else 0

/-! ## The checks at issue -/

/-- A use of a register by an instruction: scalar, handle (read without parking, R366), mask, vector group of n, vector
group read across lanes (R346), and the destination of a load: an aligned vector group of n of a wave, a scalar register of a stoker
(R28, R281, R414). -/
inductive Use where
  | g (r : RegNo) (n : Nat)
  | s (r : RegNo)
  | h (r : RegNo)
  | k (r : RegNo)
  | v (r : RegNo) (n : Nat)
  | x (r : RegNo) (n : Nat)
  deriving DecidableEq, Repr

/-- The registers that an instruction reads and writes. -/
structure Uses where
  rd : List Use
  wr : List Use
  deriving DecidableEq, Repr

/-- Who may issue an instruction: class y, by stokers (R414), by hearth waves, only by them (R397); refused inside a
melded region whatever MD (R38); and whether it has an effect when no thread passes (R37, R227). -/
structure Perm where
  y : Bool
  stoker : Bool
  hearth : Bool
  hearthOnly : Bool
  noMeld : Bool
  onEmpty : Bool
  deriving DecidableEq, Repr

/-- An instruction that waves and hearth waves issue. -/
def Perm.wave : Perm := { y := false, stoker := false, hearth := true, hearthOnly := false, noMeld := false, onEmpty := false }
/-- An instruction that waves, hearth waves and stokers issue (R414). -/
def Perm.all : Perm := { Perm.wave with stoker := true }
/-- An instruction that a hearth core lacks (R397). -/
def Perm.core : Perm := { Perm.wave with hearth := false }
/-- An instruction of a stoker that a hearth core lacks. -/
def Perm.coreAll : Perm := { Perm.all with hearth := false }
/-- A y-class instruction of privileged waves (R39, R396). -/
def Perm.priv : Perm := { Perm.wave with y := true }
/-- A y-class instruction of hearth waves (R397). -/
def Perm.hearthOnly' : Perm := { Perm.priv with hearthOnly := true }

/-- The READY fragment with the lowest record id, in a handler the trapping one alone, from which a single step issues (R350, R402). -/
def Ctx.firstReady (c : Ctx) : Option Nat :=
  (c.split.find? (fun e => e.2.st == .ready && (!c.utact || e.1 == c.utfrag))).map (·.1)

/-- The agent may issue from the fragment: it is not stopped, switched out, parked or waiting for PK or a trap-safe result,
and the fragment is READY and, in a handler, the trapping one, or in a single step the first (R36, R203, R204, R336, R350, R366,
R390, R402). -/
def Ctx.canIssue (c : Ctx) (fid : Nat) : Bool :=
  c.stop.isNone && (!c.single || c.firstReady == some fid) && c.out.isNone && c.park == .none && (!c.pk || (c.ldc == 0 && c.xc == 0 && c.ec == 0))
    && (!c.utact || c.utfrag == fid) && c.pend.all (fun p => p.trap.isNone)
    && (match c.rec? fid with | some r => r.st == .ready | none => false)

/-- The threads that pass: the path-enable mask with MD = 1, else the predicate (R37, R38). -/
def Ctx.passing (c : Ctx) (stk : Bool) (tick : Nat) (h : Hdr) (fr : SplitRec) : Lanes :=
  if h.md then lanesOf (fr.mask.list.filter (fun i => h.kp.getLsbD (c.path i)))
  else
    let k := if stk then (if h.kp = 0 then 1 else 0) else c.readK tick h.kp.toNat
    fr.mask &&& (if h.kn then ~~~k else k)

/-- A stoker that kv.push or y.eret has ended issues nothing until the next kv.bind; waves are not stokers (R402, R415, R420). -/
def State.bound (s : State) (a : Agent) (c : Ctx) : Bool :=
  !isStoker a || ((((s.team? c.team).bind (·.stoker)).bind s.stokers.find).map (·.running)).getD false

/-- The view of the instruction that the current agent issues from the current fragment, where it may issue. -/
def State.iss? (s : State) (h : Hdr) (len : Nat) : Option Iss :=
  match s.ctx? s.cur with
  | none => none
  | some c =>
    match c.rec? s.frag with
    | none => none
    | some fr =>
      if c.canIssue s.frag && s.bound s.cur c then
        some { a := s.cur, c := c, fid := s.frag, fr := fr, p := c.passing (isStoker s.cur) s.tick h fr, h := h, len := len,
               tick := s.tick }
      else none

/-- A vector group names no register at or above NREG, after renaming, in the lanes l that R346 names (R195). -/
def Iss.vInRange (is : Iss) (l : List Nat) (r : RegNo) (n : Nat) : Bool :=
  if is.h.md then l.all (fun i => (List.range n).all (fun j => is.phys (r.toNat + j) i < is.c.nreg))
  else r.toNat + n ≤ is.c.nreg

/-- A use names registers that its file has: a vector group below NREG (R195), a load's destination aligned, or a scalar register where
a stoker loads (R28, R414). A stoker has no vector registers: an instruction that names one faults STOKER there. -/
def Iss.inRange (is : Iss) : Use → Bool
  | .v r n => isStoker is.a || is.vInRange is.fr.mask.list r n
  | .x r n => isStoker is.a || is.vInRange (List.range 64) r n
  | .g r n => if isStoker is.a then decide (r.toNat < 64) else r.toNat % n == 0 && is.vInRange is.fr.mask.list r n
  | _ => true

/-- A group of a vector register in passing threads has an outstanding long-latency write. -/
def Iss.vWaits (is : Iss) (r : RegNo) (n : Nat) : Bool :=
  !is.c.pend.isEmpty && is.p.list.any (fun i => (List.range n).any (fun j => is.c.outstanding (.v (is.phys (r.toNat + j) i) i)))

/-- A written register has an outstanding long-latency write in a passing thread (R201). -/
def Iss.writeWaits (is : Iss) : Use → Bool
  | .s r | .h r => is.c.outstanding (.s r.toNat)
  | .k r => is.c.outstanding (.k r.toNat)
  | .v r n | .x r n => is.vWaits r n
  | .g r n => if isStoker is.a then is.c.outstanding (.s r.toNat) else is.vWaits r n

/-- The scalar register of a read that is tagged with a PENDING future (R366). -/
def Iss.tagged (is : Iss) : Use → Option Nat
  | .s r =>
    match is.c.tags.find r.toNat with
    | some t => if t.resolved then none else some r.toNat
    | none => none
  | _ => none

/-- The registers of a use in the lanes where it reads: passing threads, or every lane for a cross-lane source. -/
def Iss.useRegs (is : Iss) : Use → List Reg
  | .s r | .h r => [.s r.toNat]
  | .k r => [.k r.toNat]
  | .v r n | .g r n => is.p.list.flatMap (fun i => (List.range n).map (fun j => .v (is.phys (r.toNat + j) i) i))
  | .x r n => (List.range 64).flatMap (fun i => (List.range n).map (fun j => .v (is.phys (r.toNat + j) i) i))

/-- The failed load whose target a read names (R97). -/
def Iss.failedRead (is : Iss) (u : Use) : Option Nat :=
  (is.c.pend.find? (fun p => p.fail.isSome && (is.useRegs u).any (fun r => p.writes.any (fun w => w.reg = r)))).map (·.id)

/-- Checks 7 and 8 of R41 and the register checks, in that order; then, where the instruction has an effect, what its agent may not
execute (R397, R414), the stop of R97 and the waits of R366 and R201. An instruction that no thread passes faults with the checks of
R41 alone (R37). -/
def Iss.check (is : Iss) (pm : Perm) (u : Uses) : Res Unit := do
  require (!pm.y || is.c.priv) (is.fault0 Code.priv)
  require (!is.h.md || is.fr.meld) (is.fault0 Code.iil)
  require (!pm.noMeld || !is.fr.meld) (is.fault0 Code.iil)
  require ((u.rd ++ u.wr).all is.inRange) (is.fault0 Code.iil)
  if is.p ≠ 0 || pm.onEmpty then
    require (!pm.hearthOnly || isHearth is.a) (is.fault0 Code.priv)
    require (pm.stoker || !isStoker is.a) (is.fault0 Code.stoker)
    require (pm.hearth || !isHearth is.a) (is.fault0 Code.iil)
    match u.rd.findSome? is.failedRead with
    | some id => throw (.failed id)
    | none => pure ()
    match u.rd.findSome? is.tagged with
    | some r => throw (.park (.fut r))
    | none => require (!u.wr.any is.writeWaits) .stall
  else pure ()

/-- A counter of a context. -/
def Ctx.ctr (c : Ctx) : Ctr → Nat
  | .ldc => c.ldc
  | .stc => c.stc
  | .xc => c.xc
  | .ec => c.ec
  | .none => 0
/-- Change a counter. -/
def Ctx.setCtr (c : Ctx) (k : Ctr) (n : Nat) : Ctx :=
  match k with
  | .ldc => { c with ldc := n }
  | .stc => { c with stc := n }
  | .xc => { c with xc := n }
  | .ec => { c with ec := n }
  | .none => c
/-! ## Retirement -/

/-- Set a fragment's PC; a PC has 56 bits (R74, R332). -/
def Ctx.setPc (c : Ctx) (fid : Nat) (pc : W64) : Ctx :=
  match c.rec? fid with
  | some r => { c with split := c.split.put fid { r with pc := pc &&& 0x00FFFFFFFFFFFFFF } }
  | none => c

/-- The stop of a single step once its instruction has issued (R402). -/
def Ctx.stepDone (c : Ctx) (fid : Nat) : Ctx :=
  if c.single && c.park == .none && c.stop.isNone then
    let fr := (c.rec? fid).getD { st := .free, bsel := 0, meld := false, rj := 15, pc := 0, mask := 0, age := 0 }
    { c with single := false, lastCode := Code.brk, stop :=
        (some { code := Code.brk, prec := false, addr := 0x110, mask := fr.mask, pc := fr.pc, meld := fr.meld,
                posted := false, silent := false }) }
  else c

/-- The fragment's PC moves past the instruction. -/
def State.advance (s : State) (is : Iss) : State := s.mapCtx is.a (fun c => c.setPc is.fid (is.pc + BitVec.ofNat 64 is.len))

/-- How often the agent has issued since each other READY fragment last did (R336). -/
def Ctx.countWaits (c : Ctx) (fid : Nat) : AMap Nat :=
  (c.split.filter (fun e => e.2.st = .ready && e.1 ≠ fid)).map (fun e => (e.1, c.waits.get 0 e.1 + 1))

/-- What follows every issue: PK (R36, R203), the counts of R336 and R377, the end of a breakpoint's skip (R399) and of a single step
(R402). -/
def State.afterIssue (s : State) (is : Iss) : State :=
  s.mapCtx is.a (fun c => Ctx.stepDone { c with
    pk := is.h.pk, skipBkpt := c.skipBkpt.filter (· ≠ is.fid), waits := c.countWaits is.fid, passed := 0 } is.fid)

/-- The wait is q.fwait's on a word in memory. -/
def ReqOp.isStatus : ReqOp → Bool
  | .status .. => true
  | _ => false
/-- The agent waits in q.fwait on a word in memory (R381). -/
def State.onStatus (s : State) (c : Ctx) : Bool :=
  match c.park with
  | .waiter i => s.waiters.any (fun w => w.id = i && w.op.isStatus) || s.reqs.any (fun r => r.id = i && r.op.isStatus)
  | _ => false
/-- A wave that stops while it waits for a slice, a claim or a queue gives the wait up, and issues that instruction again when
it resumes (R390: its registers do not change; log 25); the result of a q.fwait on a word is outstanding no longer (R379). -/
def Ctx.giveUp (c : Ctx) (status : Bool) : Ctx :=
  match c.park with
  | .waiter _ | .claim .. | .pop .. => { c with park := .none, ec := if status then c.ec - 1 else c.ec }
  | _ => c

/-- The agent stops with a system fault; every fragment stands as it is (R343, R390). Raising GUARD for a latched touch
clears the latch (R143). -/
def State.stopWave (s : State) (a : Agent) (st : Stop) : State :=
  let status := (s.ctx? a).any s.onStatus
  let s := { s with waiters := s.waiters.filter (fun w => w.agent ≠ a) }
  let s := match s.ctx? a with
    | some c => s.mapTeam c.team (fun t => { t with claims := t.claims.filter (· ≠ c.widx) })
    | none => s
  s.mapCtx a (fun c =>
    let c := c.giveUp status
    { c with stop := some st, lastCode := st.code, single := false,
             guard := if st.code = Code.guardTouch && !st.prec then none else c.guard })

/-- The agent parks with the issuing fragment, remembering when (R369). -/
def State.parkAgent (s : State) (is : Iss) (p : Park) : State :=
  let t := s.clk (dieOf is.a)
  s.mapCtx is.a (fun c => { c with park := p, parkedAt := t, frag := is.fid })

/-- The stop of a wave for a failed load: its record names the load's PC and the threads that failed, and the result is
no longer outstanding (R97, R393). -/
def State.stopFailed (s : State) (a : Agent) (id : Nat) : State :=
  match s.ctx? a with
  | none => s
  | some c =>
    match c.pend.find? (fun p => p.id = id) with
    | none => s
    | some p =>
      let f := p.fail.getD { code := Code.xlate, lanes := 0, addr := 0, prec := false, meld := p.meld }
      (s.setCtx a { c.setCtr p.ctr (c.ctr p.ctr - 1) with pend := c.pend.filter (fun q => q.id ≠ id) }).stopWave a
        { code := f.code, prec := f.prec, addr := f.addr, mask := f.lanes, pc := p.pc, meld := f.meld, posted := false,
          silent := false }

/-! ## Futures' tags (R365) -/

/-- Remove a register site from the future that its tag names. -/
def State.dropSite (s : State) (a : Agent) (r : Nat) (t : Tag) : State :=
  if t.resolved then s
  else s.mapQuad t.quad (fun q =>
    match q.futs.find t.slot with
    | some f =>
      if f.seq = t.seq then { q with futs := q.futs.put t.slot { f with sites := f.sites.filter (· ≠ .reg a r) } } else q
    | none => q)

/-- Writing a tagged register clears the tag and, while the future is pending, removes the site (R365). -/
def State.clearTag (s : State) (a : Agent) (r : Nat) : State :=
  match s.ctx? a with
  | none => s
  | some c =>
    match c.tags.find r with
    | none => s
    | some t => (s.setCtx a { c with tags := c.tags.del r }).dropSite a r t

/-! ## Writing registers -/

/-- Write a scalar register, clearing its tag (R196, R365). -/
def State.wrS (s : State) (is : Iss) (d : RegNo) (v : W64) : State :=
  (s.clearTag is.a d.toNat).mapCtx is.a (fun c => c.sset d.toNat v)
/-- Write a mask register as a whole; a stoker's mask registers ignore writes (R196, R413). -/
def State.wrK (s : State) (is : Iss) (d : RegNo) (v : Lanes) : State :=
  if isStoker is.a then s else s.mapCtx is.a (fun c => c.kset d.toNat v)
/-- Write registers of threads: physical number, lane and value. -/
def Ctx.wrVs (c : Ctx) (l : List (Nat × Nat × W32)) : Ctx := l.foldl (fun c e => c.vset e.1 e.2.1 e.2.2) c
/-- The register writes of an element operand: one register, or an even and odd pair (R194, R214). -/
def Iss.vWrites (is : Iss) (wide : Bool) (d : RegNo) (vals : List (Nat × Nat)) : List (Nat × Nat × W32) :=
  vals.flatMap (fun e => (is.phys d.toNat e.1, e.1, BitVec.ofNat 32 e.2) ::
    if wide then [(is.phys (d.toNat + 1) e.1, e.1, BitVec.ofNat 32 (e.2 / 2 ^ 32))] else [])
/-- Write an element to vector registers of lanes: pairs of lane and value. -/
def State.wrV (s : State) (is : Iss) (wide : Bool) (d : RegNo) (vals : List (Nat × Nat)) : State :=
  s.mapCtx is.a (fun c => c.wrVs (is.vWrites wide d vals))

/-! ## Outstanding results and counters (R199, R202) -/

/-- An instruction that would raise a counter above 63 waits at issue (R202). -/
def Iss.room (is : Iss) (k : Ctr) : Res Unit := require (is.c.ctr k < 63) .stall

/-- An outstanding result with nothing in it. -/
def Pend.blank (id : Nat) (k : Ctr) (is : Iss) : Pend :=
  { id := id, ctr := k, pc := is.pc, meld := is.fr.meld, writes := [], reqs := [], acq := none, flags := [], trap := none, fail := none,
    tile := none, rope := none, bcast := none, nf := none, fwd := false }

/-- Clear the tags of the scalar registers that an outstanding result will write (R365). -/
def State.clearTags (s : State) (a : Agent) (l : List RegWrite) : State :=
  l.foldl (fun s w => match w.reg with | .s n => s.clearTag a n | _ => s) s

/-- Enter an outstanding result: its counter rises by 1 (R202). -/
def State.addPend (s : State) (a : Agent) (p : Pend) : State :=
  (s.clearTags a p.writes).mapCtx a (fun c =>
    let c := c.setCtr p.ctr (c.ctr p.ctr + 1)
    { c with pend := c.pend ++ [p] })

/-- An outstanding scalar result of known value (R199): the counter has room, and the result is entered. -/
def State.pendS (s : State) (is : Iss) (k : Ctr) (d : RegNo) (v : W64) : Res State := do
  is.room k
  let (id, s) := s.fresh
  pure (s.addPend is.a { Pend.blank id k is with writes := [{ reg := .s d.toNat, val := some v.toNat }] })

/-- An outstanding vector result of known values. -/
def State.pendV (s : State) (is : Iss) (k : Ctr) (wide : Bool) (d : RegNo) (vals : List (Nat × Nat)) : Res State := do
  is.room k
  let (id, s) := s.fresh
  pure (s.addPend is.a { Pend.blank id k is with
    writes := (is.vWrites wide d vals).map (fun e => { reg := .v e.1 e.2.1, val := some e.2.2.toNat }) })

/-! ## User traps (R350, R385 to R388) -/

/-- Taking a user trap, as one step: the records, UTACT, and the fragment's PC at the handler; with UTACT already 1 it is
the system fault UT_NEST, precise for b.trap (R388). -/
def State.userTrap (s : State) (a : Agent) (fid : Nat) (pc next : W64) (lanes : Lanes) (cause : BitVec 5) (dst : BitVec 8)
    (precise : Bool) : State :=
  match s.ctx? a with
  | none => s
  | some c =>
    if c.utact then
      let fr := (c.rec? fid).getD { st := .free, bsel := 0, meld := false, rj := 15, pc := 0, mask := 0, age := 0 }
      s.stopWave a { code := Code.utNest, prec := precise, addr := 0, mask := fr.mask, pc := pc, meld := fr.meld,
                     posted := false, silent := false }
    else
      s.setCtx a (Ctx.setPc { c with utpc := pc, utnext := next, utlanes := lanes, utcause := cause, utdst := dst,
                                     utact := true, utfrag := fid } fid c.utvec)

/-- The return from a user trap: UTACT falls and the trapping fragment resumes at UTNEXT (R350, R387). -/
def State.trapReturn (s : State) (a : Agent) : State :=
  s.mapCtx a (fun c => Ctx.setPc { c with utact := false } c.utfrag c.utnext)

end Sys2Proof.Machine
end

