-- ==== Sys2Proof/Machine/Operands.lean ====
section
/-! DEFINITION. The operand forms: src as a register or a sign- or zero-extended immediate (R31, R206, R214), special
registers (R197), and the effective addresses of R33. -/

namespace Sys2Proof.Machine

/-- The uses of a scalar src operand. -/
def srcUseS : Src → List Use
  | .reg r => [.s r]
  | .imm _ => []
/-- The uses of a vector src operand of n registers. -/
def srcUseV (n : Nat) : Src → List Use
  | .reg r => [.v r n]
  | .imm _ => []
/-- A scalar src operand: sB, or IMM16 sign-extended to 64 bits (R206). -/
def Iss.srcS (is : Iss) : Src → W64
  | .reg r => is.s r
  | .imm v => v.signExtend 64
/-- A scalar src operand: sB, or IMM16 zero-extended (R379). -/
def Iss.srcZ (is : Iss) : Src → W64
  | .reg r => is.s r
  | .imm v => v.zeroExtend 64
/-- A vector src operand of a lane: vB, or IMM16 sign-extended to the width (R214). -/
def Iss.srcV (is : Iss) (wide : Bool) (lane : Nat) : Src → Nat
  | .reg r => is.vw wide r lane
  | .imm v => if wide then (v.signExtend 64).toNat else (v.signExtend 32).toNat

/-- The effective address of an uniform base: sA plus the displacement (R33). -/
def Iss.addrS (is : Iss) (a : RegNo) (disp : BitVec 32) : W64 := is.s a + sx64 disp
/-- The effective address of a lane: sA or the pair at vA, plus the displacement (R33). -/
def Iss.addr (is : Iss) (vadr : Bool) (a : RegNo) (disp : BitVec 32) (lane : Nat) : W64 :=
  (if vadr then BitVec.ofNat 64 (is.vw true a lane) else is.s a) + sx64 disp
/-- The uses of a base register (R33). -/
def baseUse (vadr : Bool) (a : RegNo) : Use := if vadr then .v a 2 else .s a

/-- The team of an agent. -/
def State.teamOf (s : State) (c : Ctx) : Option Team := s.teams.find c.team

/-- A group's dimensions; the root task's are 1 (R354). -/
def State.dims (s : State) (t : Team) : Nat × Nat × Nat :=
  match s.groups.find t.group with
  | some g => (g.gx, g.gy, g.gz)
  | none => (1, 1, 1)

/-- The OR of the sticky flags of the threads that have not exited (R197). -/
def Ctx.flagsOr (c : Ctx) : BitVec 5 := (~~~c.exited).list.foldl (fun f i => f ||| c.flag i) 0

/-- Bits 55 to 2 of an address register (R197). -/
def pcBits (v : W64) : W64 := v &&& 0x00FFFFFFFFFFFFFC

/-- LSCAP: the local store's bytes, with or without the SRAM die (R139). -/
def lscap (sram : Bool) : Nat := if sram then 524288 else 262144
/-- LLCCAP: the die's LLC bytes, with or without the SRAM die (R111). -/
def llccap (sram : Bool) : Nat := if sram then 402653184 else 16777216

/-- A special register as it reads (R197); ignored bits read as zero. A stoker has only CYC (R414). -/
def State.readSr (s : State) (a : Agent) (c : Ctx) (code : Nat) : W64 :=
  let d := dieOf a
  if isStoker a && code ≠ 0x15 then 0 else
  let grid : Option (Team × Nat × Nat × Nat) := (s.teamOf c).map (fun t => (t, s.dims t))
  match code with
  | 0x00 => 64
  | 0x01 => BitVec.ofNat 64 c.widx
  | 0x02 => BitVec.ofNat 64 (match grid with | some (t, _) => t.teamId | none => 0)
  | 0x03 => BitVec.ofNat 64 (match grid with | some (t, gx, _, _) => gx * 2 ^ 32 + t.x | none => 0)
  | 0x04 => BitVec.ofNat 64 (match grid with | some (t, _, gy, _) => gy * 2 ^ 32 + t.y | none => 0)
  | 0x05 => BitVec.ofNat 64 (match grid with | some (t, _, _, gz) => gz * 2 ^ 32 + t.z | none => 0)
  | 0x06 => BitVec.ofNat 64 c.role
  | 0x07 => c.flagsOr.zeroExtend 64
  | 0x08 => c.fpen.zeroExtend 64
  | 0x09 => c.rmode.zeroExtend 64
  | 0x0A => c.utvec
  | 0x0B => c.utpc
  | 0x0C => c.utnext
  | 0x0D => c.utlanes
  | 0x0E => c.utcause.zeroExtend 64
  | 0x0F => c.utdst.zeroExtend 64
  | 0x10 => (BitVec.ofBool c.utact).zeroExtend 64
  | 0x11 => c.rngkey
  | 0x12 => c.rngctr
  | 0x13 => BitVec.ofNat 64 (lscap (s.die d).sram)
  | 0x14 => BitVec.ofNat 64 (llccap (s.die d).sram)
  | 0x15 => BitVec.ofNat 64 (s.clk d)
  | 0x16 => (BitVec.ofBool c.stale).zeroExtend 64
  | 0x17 => (BitVec.ofBool c.kvclamp).zeroExtend 64
  | _ => 0

/-- Write the defined bits of a writable special register; other codes keep the context (R197, R211). STALE and KVCLAMP
are cleared by writing 0 and take the written bit (R197). -/
def Ctx.writeSr (c : Ctx) (code : Nat) (v : W64) : Ctx :=
  match code with
  | 0x08 => { c with fpen := v.extractLsb' 0 5 }
  | 0x09 => { c with rmode := v.extractLsb' 0 3 }
  | 0x0A => { c with utvec := pcBits v }
  | 0x0B => { c with utpc := pcBits v }
  | 0x0C => { c with utnext := pcBits v }
  | 0x0D => { c with utlanes := v }
  | 0x0E => { c with utcause := v.extractLsb' 0 5 }
  | 0x0F => { c with utdst := v.extractLsb' 0 8 }
  | 0x11 => { c with rngkey := v }
  | 0x12 => { c with rngctr := v }
  | 0x16 => { c with stale := v.getLsbD 0 }
  | 0x17 => { c with kvclamp := v.getLsbD 0 }
  | _ => c

end Sys2Proof.Machine
end

