-- ==== Sys2Proof/Machine/Address.lean ====
section
/-! DEFINITION. Address generation and the checks at issue: the remap filter (R98), the region table and homes (R100,
R101), the attribute table and the checks of R80. -/

namespace Sys2Proof.Machine

/-! Arena states and memory types (R76). -/
namespace Arn
def free : Nat := 0
def live : Nat := 1
def sealed : Nat := 2
def draining : Nat := 3
def typN : Nat := 0
def typWC : Nat := 1
def typDEV : Nat := 2
def typSO : Nat := 3
end Arn

/-- An entry of a core's attribute table (R77). -/
def State.attr (s : State) (core aid : Nat) : Attr := ((s.core core).attr.find aid).getD (Attr.init aid)
/-- A master entry of the arena table (R76). -/
def Part.arena (p : Part) (aid : Nat) : Arena := (p.arenas.find aid).getD (Arena.init aid)
/-- Change a master entry. -/
def Part.setArena (p : Part) (aid : Nat) (a : Arena) : Part := { p with arenas := p.arenas.put aid a }

/-- The canonical address: the remap filter's rewrite of an alias (R98). -/
def canonical (fs : AMap Filter) (va : Nat) : Nat :=
  match fs.find? (fun f => f.2.al ≤ va / 4096 && va / 4096 < f.2.al + f.2.len) with
  | some (_, f) => (f.canon + (va / 4096 - f.al)) * 4096 + va % 4096
  | none => va

/-- Intervals, cut at an address. -/
def cutAt (l : List (Nat × Nat)) (x : Nat) : List (Nat × Nat) :=
  l.flatMap (fun e => if e.1 < x && x < e.1 + e.2 then [(e.1, x - e.1), (x, e.1 + e.2 - x)] else [e])

/-- The pieces of [va, va + n) that the remap filter rewrites alike: where each stands, its bytes, and where it begins in the range (R98). -/
def canonPieces (fs : AMap Filter) (va n : Nat) : List (Nat × Nat × Nat) :=
  ((fs.flatMap (fun f => [f.2.al * 4096, (f.2.al + f.2.len) * 4096])).foldl cutAt [(va, n)]).map (fun e => (canonical fs e.1, e.2, e.1 - va))

/-- A home: host memory, or the unit module × 32 + die; this module is module 0 of its pod (log 10). -/
structure Home where
  host : Bool
  unit : Nat
  deriving DecidableEq, Repr

/-- The region entry that holds an address (R100, R101). -/
def Part.region? (p : Part) (va : Nat) : Option (Nat × Region) :=
  p.regions.find? (fun e => e.2.kind < 3 && decide (e.2.base ≤ va) && decide (va < e.2.base + e.2.len))

/-- An address lies in a region entry. -/
def Region.holds (r : Region) (va : Nat) : Bool := r.kind < 3 && decide (r.base ≤ va) && decide (va < r.base + r.len)
/-- The region entry that holds an address has been rewritten, and the old home has not signalled that it has drained: an access that leaves now
carries the new version, and waits (R102; log 160). -/
def State.rewriting (s : State) (part va : Nat) : Bool :=
  let p := s.part part
  p.rewrites.any (fun w => (p.regions.find w.idx).any (·.holds va))

/-- The home that a region entry gives an address (R101). -/
def Region.home (r : Region) (va : Nat) : Home :=
  let g := (va - r.base) / 2 ^ (12 + r.gran)
  match r.kind with
  | 0 =>
    let l := onesBelow r.dies.toNat 24
    { host := false, unit := l.getD (g % max 1 l.length) 0 }
  | 1 =>
    let n := if r.mcount = 0 then 1024 else r.mcount
    { host := false, unit := (r.mfirst + g % n) * 32 + (lowest r.dies.toNat 24).getD 0 }
  | _ => { host := true, unit := 0 }

/-- Where an access goes: its canonical address, its home, the region entry's version, and the attributes read (R77, R98,
R101, R102). -/
structure Route where
  va : Nat
  home : Home
  ver : Nat
  attr : Attr
  deriving DecidableEq, Repr

/-- The order of R80's checks on an id and its attributes: dead, then sealed for writes, then type for atomics. -/
def checkAttr (aid : Nat) (at' : Attr) (write atom : Bool) : Option Nat :=
  if aid = 0 || at'.state == Arn.free || at'.state == Arn.draining then some Code.arenaDead
  else if write && (at'.state == Arn.sealed || at'.sealp) then some Code.arenaSealed
  else if atom && at'.typ != Arn.typN then some Code.prot
  else none

/-- Address generation and the checks at issue of an access (R98, R101, R80): XLATE for an address in no region entry, the
codes of R80, and PROT for an N arena homed on the host. -/
def State.route (s : State) (core part va : Nat) (write atom : Bool) : Except Nat Route :=
  let v := canonical (s.core core).filters va
  match (s.part part).region? v with
  | none => .error Code.xlate
  | some (_, r) =>
    let aid := arenaOf v
    let at' := s.attr core aid
    match checkAttr aid at' write atom with
    | some c => .error c
    | none =>
      let hm := r.home v
      if hm.host && at'.typ == Arn.typN then .error Code.prot
      else .ok { va := v, home := hm, ver := r.ver, attr := at' }

/-- The order in which an instruction reports the codes of several threads: XLATE, ARENA_DEAD, ARENA_SEALED, PROT (log 11). -/
def codeOrder : List Nat := [Code.xlate, Code.arenaDead, Code.arenaSealed, Code.prot]

/-- Lanes, addresses and an Except of each: the lanes that fail with a code. -/
def failing (l : List (Nat × Nat × Except Nat Route)) (code : Nat) : List (Nat × Nat) :=
  l.filterMap (fun e => match e.2.2 with | .error c => if c = code then some (e.1, e.2.1) else none | .ok _ => none)

/-- The lanes whose address is not a multiple of n, or ALIGN: precise, with the offending threads and the address of the
lowest (R148, R153). -/
def Iss.aligned (is : Iss) (n : Nat) (l : List (Nat × Nat)) : Res Unit :=
  match l.filter (fun e => e.2 % n ≠ 0) with
  | [] => .ok ()
  | (e :: es) => .error (is.fault Code.align e.2 (lanesOf ((e :: es).map (·.1))))

/-- The routes of all passing threads, or the first failing check's fault (R80, R101, R153). -/
def Iss.routes (is : Iss) (s : State) (n : Nat) (write atom : Bool) (l : List (Nat × Nat)) : Res (List (Nat × Route)) := do
  is.aligned n l
  let core := coreOf is.a
  let part := s.agentPart is.a
  let rs := l.map (fun e => (e.1, e.2, s.route core part e.2 write atom))
  match codeOrder.findSome? (fun c => match failing rs c with | [] => none | x :: xs => some (c, x, x :: xs)) with
  | some (c, x, xs) => .error (is.fault c x.2 (lanesOf (xs.map (·.1))))
  | none => pure (rs.filterMap (fun e => match e.2.2 with | .ok r => some (e.1, r) | .error _ => none))

/-- Routes of the addresses of an uniform instruction: the first failing check faults with the passing threads (R80, R101). -/
def Iss.routesU (is : Iss) (s : State) (write atom : Bool) (l : List Nat) : Res (List Route) :=
  let core := coreOf is.a
  let part := s.agentPart is.a
  l.foldlM (fun acc va =>
    match s.route core part va write atom with
    | .ok r => .ok (acc ++ [r])
    | .error c => .error (is.fault c va is.p)) []

end Sys2Proof.Machine
end

