-- ==== Sys2Proof/Machine/Xlate.lean ====
section
/-! DEFINITION. Translation at the home (R93 to R99), fault records and the hearth's ring (R391 to R395), and translation
episodes (R96). -/

namespace Sys2Proof.Machine

/-- A level of the table: the low bit of its index, the width of the index, and its leaf SIZE codes with the replicas of
each (R93). -/
structure Level where
  lo : Nat
  width : Nat
  leaves : List (Nat × Nat)

/-- The four levels (R93). -/
def levels : List Level :=
  [{ lo := 33, width := 23, leaves := [(5, 1), (6, 8)] }, { lo := 25, width := 8, leaves := [(3, 1), (4, 16)] },
   { lo := 16, width := 9, leaves := [(1, 1), (2, 32)] }, { lo := 12, width := 4, leaves := [(0, 1)] }]

/-- log2 of the bytes of a page of a SIZE code (R93, R94). -/
def pageBits (size : Nat) : Nat := [12, 16, 21, 25, 29, 33, 36].getD size 12
/-- The level that holds leaves of a SIZE code (R93). -/
def levelOf (size : Nat) : Nat := [3, 2, 2, 1, 1, 0, 0].getD size 3
/-- Replicas of a leaf of a SIZE code (R93). -/
def replicas (size : Nat) : Nat := [1, 1, 32, 1, 16, 1, 8].getD size 1

/-- An 8-byte entry of a table (R94). -/
def readEntry (m : Memory) (pa : Nat) : Nat := ofLe (m.read pa 8)
/-- FRAME of an entry as an address (R94). -/
def entryFrame (e : Nat) : Nat := bits e 12 41 * 4096
/-- SIZE of an entry (R94). -/
def entrySize (e : Nat) : Nat := bits e 60 4
/-- V, W and ALIAS of an entry (R94). -/
def entryV (e : Nat) : Bool := e.testBit 0
def entryW (e : Nat) : Bool := e.testBit 1
def entryAlias (e : Nat) : Bool := e.testBit 2

/-- The bits of an entry that mean something: [11:3] are ignored (R94). -/
def entryBits (e : Nat) : Nat := e - 8 * bits e 3 9

/-- A frame in the HBM of a die of this module that is not of the partition: no access of the partition reaches it (R94, R445; log 133). -/
def Part.foreign (p : Part) (pa : Nat) : Bool :=
  !pa.testBit 52 && bits pa 42 10 = 0 && decide (bits pa 37 5 < 24) && !p.live.getLsbD (bits pa 37 5)

/-- The entry of an index in a table of a level is a valid leaf (R94): V, no must-be-zero bit, a SIZE of the level, and a run of replicas
that agree. -/
def leafAt (m : Memory) (l : Level) (base idx : Nat) : Bool :=
  let e := readEntry m (base + 8 * idx)
  entryV e && bits e 53 7 = 0 && (match l.leaves.find? (fun x => x.1 = entrySize e) with
    | none => false
    | some (_, n) => (List.range n).all (fun k => entryBits (readEntry m (base + 8 * (idx - idx % n + k))) = entryBits e))

/-- The entry of an index is a valid pointer: V, no must-be-zero bit, SIZE 15, and not at the last level (R94). -/
def pointerAt (m : Memory) (last : Bool) (base idx : Nat) : Bool :=
  let e := readEntry m (base + 8 * idx)
  entryV e && bits e 53 7 = 0 && entrySize e = 15 && !last

/-- The walk of a partition's table (R93, R94): the leaf entry of an address, or none where the walk finds an entry invalid, or a frame that is
foreign to the partition. -/
def walk (p : Part) (m : Memory) : List Level → Nat → Nat → Option Nat
  | [], _, _ => none
  | l :: ls, base, va =>
    let idx := bits va l.lo l.width
    let e := readEntry m (base + 8 * idx)
    if p.foreign (entryFrame e) then none
    else if pointerAt m ls.isEmpty base idx then walk p m ls (entryFrame e) va
    else if leafAt m l base idx then some e
    else none

/-- The physical address that a leaf gives (R94). DESIGN CHOICE (log 131): a FRAME that is not a multiple of the page size is rounded down
to one. -/
def leafPa (e va : Nat) : Nat :=
  let p := 2 ^ pageBits (entrySize e)
  entryFrame e / p * p + va % p

/-- A translation cache's answer: an address, a miss, or a denial by W = 0 or ALIAS = 1 (R94, R95, R99). -/
inductive Xl where
  | hit (pa : Nat)
  | miss
  | denied (code : Nat)
  deriving DecidableEq, Repr

/-- The entry of a translation cache that covers an address. -/
def tlbFind (l : List TlbEnt) (part va : Nat) : Option TlbEnt :=
  l.find? (fun t => t.part = part && va / 2 ^ pageBits t.size = t.va / 2 ^ pageBits t.size)

/-- Whether a leaf allows an access: SYNONYM through an alias leaf, PROT for a write through W = 0 (R94, R99). -/
def leafAllows (e : Nat) (write : Bool) : Option Nat :=
  if entryAlias e then some Code.synonym else if write && !entryW e then some Code.prot else none

/-- The translation cache of a home (R95). -/
def State.xlate (s : State) (unit part va : Nat) (write : Bool) : Xl :=
  match tlbFind (s.die unit).tlb part va with
  | none => .miss
  | some t =>
    match leafAllows t.ent.toNat write with
    | some c => .denied c
    | none => .hit (leafPa t.ent.toNat va)

/-- The episode that holds requests for an address (R96). -/
def State.episode? (s : State) (part va : Nat) : Option Episode :=
  s.episodes.find? (fun e => e.part = part && decide (e.page ≤ va) && decide (va < e.page + e.bytes))

/-- The walk for an address in a partition (R93). -/
def State.walkVa (s : State) (part va : Nat) : Option Nat := walk (s.part part) s.mem levels (s.part part).ptbase.toNat va

/-- The result of a walk with the access's rights: an address or a code; an episode holds every access to its page, with its code
(R94, R96, R99). -/
def State.walkFor (s : State) (part va : Nat) (write : Bool) : Except Nat Nat :=
  match s.episode? part va with
  | some e => .error e.code
  | none =>
    match s.walkVa part va with
    | none => .error Code.xlate
    | some e =>
      match leafAllows e write with
      | some c => .error c
      | none => .ok (leafPa e va)

/-- Capacity of a translation cache (R95). -/
def tlbCap : Nat := 16384

/-- Enter a leaf in a home's translation cache; the oldest entry leaves a full cache (R95). -/
def State.tlbFill (s : State) (unit part va e : Nat) : State :=
  let t : TlbEnt := { part := part, va := va - va % 2 ^ pageBits (entrySize e), size := entrySize e, ent := BitVec.ofNat 64 e }
  s.mapDie unit (fun d => { d with tlb := (t :: d.tlb.filter (· ≠ t)).take tlbCap })

/-! ## Fault records (R392, R395) -/

/-- The fields of a queue entry (R392). -/
structure RecF where
  pc : W64
  addr : Nat
  mask : Lanes
  teamid : Nat
  die : Nat
  quad : Nat
  core : Nat
  slot : Nat
  corr : Bool
  kind : Nat
  eng : Bool
  prec : Bool
  meld : Bool
  ext : Bool
  code : Nat

/-- A flag as a number. -/
def b2n (b : Bool) : Nat := if b then 1 else 0

/-- The 32 bytes of a queue entry (R392). -/
def RecF.bytes (r : RecF) : FaultRec :=
  leBytes 32 (2 ^ 192 * bits r.pc.toNat 2 54 + 2 ^ 128 * (r.addr % 2 ^ 64) + 2 ^ 64 * r.mask.toNat
    + 2 ^ 32 * (r.teamid % 2 ^ 32) + 2 ^ 27 * (r.die % 32) + 2 ^ 23 * (r.quad % 16) + 2 ^ 21 * (r.core % 4)
    + 2 ^ 16 * (r.slot % 32) + 2 ^ 14 * b2n r.corr + 2 ^ 12 * (r.kind % 4) + 2 ^ 11 * b2n r.eng + 2 ^ 10 * b2n r.prec
    + 2 ^ 9 * b2n r.meld + 2 ^ 8 * b2n r.ext + r.code % 256)

/-- Quad, core and SLOT of an agent in a record (R392). -/
def agentPlace : Agent → Nat × Nat × Nat
  | .slot c n => (c / 4 % 16, c % 4, n)
  | .hearth _ => (0, 0, 31)

/-- sr.TEAMID of an agent, or 0 (R392). -/
def State.teamIdOf (s : State) (a : Agent) : Nat :=
  match (s.ctx? a).bind (fun c => s.teamOf c) with
  | some t => t.teamId
  | none => 0

/-- The path ids of a context as an extension entry (R392). -/
def Ctx.extension (c : Ctx) : FaultRec := leBytes 16 c.paths.toNat ++ List.replicate 16 0

/-- A record about an agent (R392). -/
def State.recordOf (s : State) (a : Agent) (pc : W64) (addr : Nat) (mask : Lanes) (kind : Nat) (eng prec meld : Bool)
    (code : Nat) : RecF :=
  let (q, c, n) := agentPlace a
  { pc := pc, addr := addr, mask := mask, teamid := s.teamIdOf a, die := dieOf a, quad := q, core := c, slot := n,
    corr := false, kind := kind, eng := eng, prec := prec, meld := meld, ext := meld, code := code }

/-- The entries of a stopped agent's record: the record, and the path ids of a melded region (R392). -/
def State.stopEntries (s : State) (a : Agent) (c : Ctx) (st : Stop) : List FaultRec :=
  RecF.bytes (s.recordOf a st.pc st.addr st.mask 0 false st.prec st.meld st.code) :: (if st.meld then [c.extension] else [])

/-- N of a ring: 2^LOG2N, or none while LOG2N lies outside 4 to 12 (R391, R398). -/
def Die.ringN (d : Die) : Option Nat :=
  let l := bits d.faultq.toNat 32 4
  if 4 ≤ l && l ≤ 12 then some (2 ^ l) else none
/-- FQPROD's count of entries (R398). -/
def Die.prod (d : Die) : Nat := bits d.fqprod.toNat 0 32
/-- Entries that the ring can still take (R391). -/
def Die.ringRoom (d : Die) : Nat :=
  match d.ringN with
  | some n => n - (d.prod + 2 ^ 32 - d.fqcons.toNat) % 2 ^ 32
  | none => 0
/-- Write one entry and advance FQPROD (R391). -/
def Die.ringPut (d : Die) (r : FaultRec) : Die :=
  match d.ringN with
  | none => d
  | some n =>
    let base := bits d.faultq.toNat 0 32
    { d with hls := putBytes d.hls (base + 32 * (d.prod % n)) r
             fqprod := BitVec.ofNat 64 (setBits d.fqprod.toNat 0 32 (d.prod + 1)) }
/-- Post records together, where the ring has room for them (R391, R392). -/
def Die.post (d : Die) (rs : List FaultRec) : Option Die :=
  if rs.length ≤ d.ringRoom then some (rs.foldl Die.ringPut d) else none
/-- Post an error record; a full ring drops it and counts it in OVF (R391). -/
def Die.postError (d : Die) (r : FaultRec) : Die :=
  match d.post [r] with
  | some d' => d'
  | none => { d with fqprod := BitVec.ofNat 64 (setBits d.fqprod.toNat 32 32 (bits d.fqprod.toNat 32 32 + 1)) }

/-- ADDR of an error record (R395). -/
def eccAddr (array unit bank offset : Nat) : Nat :=
  2 ^ 60 * (array % 16) + 2 ^ 54 * (unit % 64) + 2 ^ 49 * (bank % 32) + offset % 2 ^ 49
/-- An error record (R395). -/
def errorRec (die addr : Nat) (corr : Bool) (code : Nat) : FaultRec :=
  RecF.bytes { pc := 0, addr := addr, mask := 0, teamid := 0, die := die, quad := 0, core := 0, slot := 31, corr := corr,
               kind := 2, eng := false, prec := false, meld := false, ext := false, code := code }
/-- Post an error record on a die. -/
def State.postError (s : State) (die : Nat) (r : FaultRec) : State := s.mapDie die (fun d => d.postError r)

/-! ## Episodes (R96) -/

/-- The page that a walk of an address ended on: its base and bytes; where no leaf stands, the 4 KiB page (log 12). -/
def State.pageOf (s : State) (part va : Nat) : Nat × Nat :=
  match s.walkVa part va with
  | some e => let p := 2 ^ pageBits (entrySize e); (va - va % p, p)
  | none => (va - va % 4096, 4096)

/-- Post the records of episodes of a die that are not posted yet, in order, while the ring has room (R391). -/
def postEpisodes (die : Nat) : List Episode → Die → List Episode × Die
  | [], d => ([], d)
  | e :: es, d =>
    if e.die = die && !e.posted then
      match d.post e.record with
      | some d' => let (r, d'') := postEpisodes die es d'; ({ e with posted := true } :: r, d'')
      | none => (e :: es, d)
    else let (r, d') := postEpisodes die es d; (e :: r, d')
/-- Records of a die wait for room in its ring. -/
def State.recordsWait (s : State) (die : Nat) : Bool := s.episodes.any (fun e => e.die = die && !e.posted)
/-- Post what a die's episodes hold back. -/
def State.flushEpisodes (s : State) (die : Nat) : State :=
  let (es, d) := postEpisodes die s.episodes (s.die die)
  { s with episodes := es.filter (fun e => !e.posted || e.bytes ≠ 0) }.mapDie die (fun _ => d)

/-- A record that waits for the ring beside whatever it is about (R391): an episode of no bytes, which holds nothing and is over once its
entries are posted. -/
def State.noteRecord (s : State) (die : Nat) (r : List FaultRec) : State :=
  let e : Episode := { part := 0, die := die, page := 0, bytes := 0, code := 0, record := r, posted := false }
  { s with episodes := s.episodes ++ [e] }.flushEpisodes die

/-- A wave stands stopped and its outstanding work has returned or failed (R390). -/
def Ctx.settled (c : Ctx) : Bool := c.stop.isSome && c.pend.all (fun p => p.fail.isSome && p.reqs.isEmpty)

/-- The record that a stopped agent has still to post waits on its own, since the agent goes on or ends without it (R391). -/
def State.keepRecord (s : State) (a : Agent) : State :=
  match s.ctx? a with
  | none => s
  | some c =>
    match c.stop with
    | none => s
    | some st => if st.posted || st.silent then s else s.noteRecord (dieOf a) (s.stopEntries a c st)

/-- A record that a stopped agent has still to post stays behind with its die (R391). -/
def State.leaveRecord (s : State) (a : Agent) : State :=
  (s.keepRecord a).mapCtx a (fun c => { c with stop := c.stop.map (fun t => { t with posted := true }) })

/-- The agent of a record's fields. -/
def RecF.agent (r : RecF) : Agent := if r.slot = 31 then .hearth r.die else .slot (64 * r.die + 4 * r.quad + r.core) r.slot

/-- Before a later record of an agent: the one of a stop whose work has settled, which has only had no room (R331, R391). -/
def State.stopFirst (s : State) (a : Agent) : State := if (s.ctx? a).any Ctx.settled then s.leaveRecord a else s

/-- An episode of n bytes from a page on, with its record. -/
def State.addEpisode (s : State) (die part page n code : Nat) (r : RecF) : State :=
  let s := s.stopFirst r.agent
  let e : Episode := { part := part, die := die, page := page, bytes := n, code := code,
                       record := [RecF.bytes { r with kind := 1, addr := page, prec := false, meld := false, ext := false, code := code }],
                       posted := false }
  { s with episodes := s.episodes ++ [e] }.flushEpisodes die

/-- Begin an episode for the page of an address, unless one is there: one record a page (R96). -/
def State.beginEpisode (s : State) (die part va : Nat) (code : Nat) (r : RecF) : State :=
  match s.episode? part va with
  | some _ => s
  | none => let (page, n) := s.pageOf part va; s.addEpisode die part page n code r

/-- The record of a SYNONYM that stops no wave (R99). -/
def State.noteSynonym (s : State) (die part va : Nat) (r : RecF) : State := s.addEpisode die part va 0 Code.synonym r

end Sys2Proof.Machine
end

