-- ==== Sys2Proof/Machine/Caches.lean ====
section
/-! DEFINITION. The caches: HBM and zero-fill pages (R83), the LLC slices with their quotas (R92, R111 to R114), requests on
their way (R107, R278), and the L1s (R106 to R110). -/

namespace Sys2Proof.Machine

/-! ## HBM -/

/-- A line of a zero-fill arena that is neither zeroed nor written under the current generation (R83). -/
def Part.hidden (p : Part) (line : Nat) : Bool :=
  (p.arena (lineArena line)).zf && !p.zfLines.contains line && !p.zfPages.contains (line / 32)

/-- A line in memory at the physical address of its first byte, as a read of unwritten zero-fill lines sees it (R83). -/
def State.hbmLine (s : State) (part line pa : Nat) : BitVec 1024 :=
  if (s.part part).hidden line then 0 else lineOf (s.mem.read pa 128)

/-- Write masked bytes of a line at a physical address. -/
def maskWrite (m : Memory) (pa : Nat) (mask : BitVec 128) (data : BitVec 1024) : Memory :=
  (onesBelow mask.toNat 128).foldl (fun m i => m.set (pa + i) (lineByte data i)) m

/-- A masked write of a line in memory; into an unwritten zero-fill line it merges into zeros (R83, R116). -/
def State.hbmWrite (s : State) (part line pa : Nat) (mask : BitVec 128) (data : BitVec 1024) : State :=
  if (s.part part).hidden line then
    { s with mem := maskWrite s.mem pa (BitVec.allOnes 128) (mergeLine 0 mask data) }.mapPart part (fun p =>
      { p with zfLines := line :: p.zfLines })
  else { s with mem := maskWrite s.mem pa mask data }

/-! ## Requests -/

/-- What the slices of a die send by themselves: write-backs of the copies they hold (R113). -/
def sliceWho (die : Nat) : Who := { a := .hearth die, team := 0, pc := 0, lanes := 0, meld := false }
/-- The key under which they send it. -/
def sliceCore (die : Nat) : Nat := 1600 + die

/-- Requests that write (R116). -/
def ReqOp.isWrite : ReqOp → Bool
  | .write .. | .rmw .. | .cas .. | .take | .serve _ => true
  | .kvapp .. | .kvtrunc .. | .kvins .. | .kvrel .. => true
  | _ => false

/-- A die's cores or slices have sent a request on a line. -/
def Req.onLine (r : Req) (die part line : Nat) : Bool :=
  dieOfCore r.core = die && r.part = part && lineNo r.va = line && r.op ≠ .fetch

/-- The requests on one line that are still on their way from a core or from the slices of its die, which held the core's stores
before: what keeps the order of R278, R306 and R310. -/
def State.sameLine (s : State) (core part line : Nat) : List Nat :=
  (s.reqs.filter (fun r => (r.core = core || r.core = sliceCore (dieOfCore core)) && r.part = part && lineNo r.va = line)).map (·.id)

/-- A request with an id, after the core's earlier requests on its line and whatever else it must follow. -/
def State.send (s : State) (r : Req) (after : List Nat) : State :=
  let r := { r with id := s.uid, after := after ++ s.sameLine r.core r.part (lineNo r.va) }
  { s with uid := s.uid + 1, reqs := s.reqs ++ [r] }

/-- A request with nothing but its source and address. -/
def Req.blank (w : Who) (core part va n gen ver typ : Nat) (op : ReqOp) : Req :=
  { id := 0, agent := w.a, team := w.team, core := core, part := part, va := va, n := n, gen := gen, ver := ver, op := op, after := [],
    pend := none, lane := 0, nf := false, sx := false, held := none, failed := none, back := none, alloc := true,
    typ := typ, pc := w.pc, mask := w.lanes, meld := w.meld, poison := false, copy := false }

/-- The version of the region entry that holds an address. -/
def State.verOf (s : State) (part va : Nat) : Nat := ((s.part part).region? va).elim 0 (fun e => e.2.ver)
/-- The home of an address, where a region entry holds it (R101). -/
def State.homeOf (s : State) (part va : Nat) : Option Home := ((s.part part).region? va).map (fun e => e.2.home va)

/-! ## LLC slices -/

/-- The line of a die's slice with an address and a generation (R107, R111). -/
def State.llcFind (s : State) (unit part line gen : Nat) : Option LlcLine :=
  s.llc.find? (fun l => l.die = unit && l.part = part && l.line = line && l.gen = gen)
/-- The line is the given one. -/
def LlcLine.same (l k : LlcLine) : Bool := l.die == k.die && l.part == k.part && l.line == k.line && l.gen == k.gen
/-- Put a line first, the place of the most recent use. -/
def State.llcPut (s : State) (l : LlcLine) : State := { s with llc := l :: s.llc.filter (fun k => !k.same l) }
/-- Remove a line. -/
def State.llcDel (s : State) (l : LlcLine) : State := { s with llc := s.llc.filter (fun k => !k.same l) }

/-- The set of a line in a slice's array of n sets (R111; the index bits above the slice's are log 13). -/
def sliceSet (n line : Nat) : Nat × Nat := (sliceOf (line * 128), (line / 16) % n)

/-- The hot array makes room for a copy of a line: its least recently used copy of the set merges down into the data array's, which keeps
one content here, and its hit count is cleared (R112). -/
def State.hotRoom (s : State) (l : LlcLine) : State :=
  let inSet := s.llc.filter (fun k => k.hot && k.die = l.die && sliceSet 1024 k.line == sliceSet 1024 l.line)
  match (if inSet.length < 8 then none else inSet.getLast?) with
  | none => s
  | some v => { s with llc := s.llc.map (fun k => if k.same v then { k with hot := false, hits := 0 } else k) }

/-- A hit of a line: it becomes the most recently used, the count rises, and the fourth hit makes the hot copy, where the die has its
SRAM die (R112). -/
def State.llcHit (s : State) (l : LlcLine) : State :=
  if !(s.die l.die).sram || l.hot then s.llcPut l
  else if l.hits < 3 then s.llcPut { l with hits := l.hits + 1 }
  else (s.hotRoom l).llcPut { l with hits := 0, hot := true }

/-- An arena and its ancestors (R82, R92). -/
def ancestors (p : Part) : Nat → Nat → List Nat
  | 0, _ => []
  | k + 1, aid => if aid = 0 then [] else aid :: ancestors p k (p.arena aid).parent
/-- An arena and its ancestors, up to the root. -/
def Part.chain (p : Part) (aid : Nat) : List Nat := ancestors p 17 aid

/-- LLC lines of a die that count against an arena: its own and its descendants' (R92). -/
def State.llcCount (s : State) (unit part aid : Nat) : Nat :=
  (s.llc.filter (fun l => l.die = unit && l.part = part && ((s.part part).chain (lineArena l.line)).contains aid)).length
/-- The limit of an arena on a die (R92). -/
def State.llcLimit (s : State) (unit part aid : Nat) : Nat :=
  ((s.part part).arena aid).quota * (if (s.die unit).sram then 12288 else 512)

/-- The set of a line in its slice (R111, R112). -/
def llcSet (sram : Bool) (line : Nat) : Nat × Nat := sliceSet (if sram then 8192 else 1024) line
/-- Ways of a set (R111, R112). -/
def llcWays (sram : Bool) : Nat := if sram then 24 else 8

/-- The line's generation is not its arena's current one. -/
def State.llcStale (s : State) (l : LlcLine) : Bool := l.gen != ((s.part l.part).arena (lineArena l.line)).gen

/-- The write-back of a dirty copy to its home, as a write of who stored last, with its poison. The copy took its bytes before whatever the
die's cores have sent to the line and what has not acted yet, which follows it (R113, R119, R121, R278: no older byte arrives after a newer one; log 158). -/
def State.sendCopy (s : State) (l : LlcLine) : State :=
  if l.dirty = 0 then s
  else
    let va := l.line * 128
    let follow (r : Req) : Req := if r.onLine l.die l.part l.line && r.core ≠ sliceCore l.die then { r with after := r.after ++ [s.uid] } else r
    ({ s with reqs := s.reqs.map follow } : State).send
      { Req.blank (l.last.getD (sliceWho l.die)) (sliceCore l.die) l.part va 128 l.gen (s.verOf l.part va) Arn.typN (.write l.dirty l.data) with
        poison := l.poison } []

/-- The copy of a line that a die holds of which it is not the home (R114). -/
def State.copyOf (s : State) (die part line gen : Nat) : Option LlcLine := (s.llcFind die part line gen).filter (fun k => !k.home)
/-- It goes home before what a core sends past it (R277, R278). -/
def State.copyOut (s : State) (die part line gen : Nat) : State :=
  match s.copyOf die part line gen with
  | some k => (s.llcDel k).sendCopy k
  | none => s

/-- A line can leave its slice: it is dropped, or its page is mapped, or it goes back to its home (R113; log 14). -/
def State.llcCanGo (s : State) (l : LlcLine) : Bool :=
  s.llcStale l || (l.dirty = 0 && !l.poison) || !l.home || (s.walkVa l.part (l.line * 128)).isSome

/-- The victim among lines that stand in order of use, most recent first: a stale one, else the least recently used one that can leave
(R113). -/
def State.llcVictim (s : State) (l : List LlcLine) : Option LlcLine :=
  match l.find? (fun k => s.llcStale k) with
  | some v => some v
  | none => (l.filter s.llcCanGo).getLast?

/-- Evict a line from a slice (R113): stale lines and clean copies are dropped, a dirty home line goes to HBM with its poison
(R119), a dirty SWM copy is written back to its home with its poison. A line whose page is unmapped stays (log 14). -/
def State.llcEvict (s : State) (l : LlcLine) : State :=
  if s.llcStale l || (l.dirty = 0 && !l.poison) then s.llcDel l
  else if l.home then
    match s.walkVa l.part (l.line * 128) with
    | none => s
    | some e =>
      let pa := leafPa e (l.line * 128)
      let s := (s.llcDel l).hbmWrite l.part l.line pa l.dirty l.data
      if l.poison then { s with poison := (pa / 128) :: s.poison.filter (· ≠ pa / 128) } else s
  else (s.llcDel l).sendCopy l

/-- Room for a line in its set: the state with a victim evicted, or none where the line is not allocated. At a quota's limit the victim
is one of the limiting arena's and its descendants' lines (R92), a stale one before the others (R113; log 110); a line that cannot leave
is no victim. -/
def State.llcRoom (s : State) (unit part line : Nat) : Option State :=
  let sram := (s.die unit).sram
  let inSet := s.llc.filter (fun l => l.die = unit && llcSet sram l.line == llcSet sram line)
  let p := s.part part
  match (p.chain (lineArena line)).find? (fun a => s.llcLimit unit part a ≤ s.llcCount unit part a) with
  | some a =>
    (s.llcVictim (inSet.filter (fun l => l.part = part && (p.chain (lineArena l.line)).contains a))).map s.llcEvict
  | none => if inSet.length < llcWays sram then some s else (s.llcVictim inSet).map s.llcEvict

/-- A line of the home die: its slice's, or memory's; and whether it is poisoned (R114, R119). -/
def State.homeLine (s : State) (unit part line gen pa : Nat) : BitVec 1024 × Bool :=
  match s.llcFind unit part line gen with
  | some l => (l.data, l.poison)
  | none => (s.hbmLine part line pa, s.poison.contains (pa / 128))

/-- The line's arena is of type N: other types are never cached (R79, R114). -/
def State.cached (s : State) (part line : Nat) : Bool := ((s.part part).arena (lineArena line)).typ == 0

/-- A use of a line at its home allocates it there (R114), or counts a hit (R112). -/
def State.homeTouch (s : State) (unit part line gen pa : Nat) : State :=
  match s.llcFind unit part line gen with
  | some l => s.llcHit l
  | none =>
    match (if s.cached part line then s.llcRoom unit part line else none) with
    | none => s
    | some s' =>
      let (d, psn) := s'.homeLine unit part line gen pa
      s'.llcPut { die := unit, part := part, line := line, gen := gen, home := true, dirty := 0, data := d, hits := 0,
                  hot := false, poison := psn, last := none }

/-- A masked write at the home: into the slice's line, or into memory where the slice does not hold it; a write of all 128
bytes clears the poison (R116, R119). -/
def State.homeMerge (s : State) (unit part line gen pa : Nat) (mask : BitVec 128) (data : BitVec 1024) : State :=
  let clear := mask == BitVec.allOnes 128
  let s := if clear then { s with poison := s.poison.filter (· ≠ pa / 128) } else s
  match s.llcFind unit part line gen with
  | some l => s.llcPut { l with dirty := l.dirty ||| mask, data := mergeLine l.data mask data, poison := l.poison && !clear }
  | none => s.hbmWrite part line pa mask data

/-! ## L1 -/

/-- A line hits when its tag and its generation match (R107). -/
def Core.l1Find (c : Core) (line gen : Nat) : Option L1Line := c.l1.find? (fun l => l.line = line && l.gen = gen)
/-- The set of a line: VA[14:7] (R106). -/
def l1Set (line : Nat) : Nat := line % 256

/-- Put a line first or, for a stream, last in the order of use (R108). -/
def Core.l1Put (c : Core) (l : L1Line) (stream : Bool) : Core :=
  let rest := c.l1.filter (fun k => !(k.line = l.line && k.gen = l.gen))
  { c with l1 := if stream then rest ++ [l] else l :: rest }
/-- Change a line in its place. -/
def Core.l1Map (c : Core) (f : L1Line → L1Line) : Core := { c with l1 := c.l1.map f }

/-- A line takes the poison of what is written back into it (R119). -/
def State.homePoison (s : State) (unit part line gen pa : Nat) : State :=
  match s.llcFind unit part line gen with
  | some l => s.llcPut { l with poison := true }
  | none => { s with poison := (pa / 128) :: s.poison.filter (· ≠ pa / 128) }

/-- Write back the dirty bytes of an L1 line with its poison (R109, R119): a masked write to the home, or where it finds one into the die's copy
of an SWM line; nothing of a line whose generation is not current (R86). -/
def State.writeBack (s : State) (core : Nat) (l : L1Line) (after : List Nat) : State :=
  let part := s.corePart core
  let at' := s.attr core (lineArena l.line)
  if l.dirty = 0 || l.gen ≠ at'.gen then s
  else
    let va := l.line * 128
    s.send { Req.blank (l.last.getD (sliceWho (dieOfCore core))) core part va 128 l.gen (s.verOf part va) Arn.typN (.write l.dirty l.data) with
      poison := l.poison, copy := at'.swm } after

/-- A write-back reaches the die's copy of its line (R109, R114, R119). -/
def State.copyMerge (s : State) (r : Req) (k : LlcLine) : State :=
  match r.op with
  | .write mask data =>
    s.llcPut { k with dirty := k.dirty ||| mask, data := mergeLine k.data mask data,
                      poison := r.poison || (k.poison && mask != BitVec.allOnes 128)
                      last := some { a := r.agent, team := r.team, pc := r.pc, lanes := r.mask, meld := r.meld } }
  | _ => s

/-- Keep requests that are on their way for lines of a core from entering its L1 (R314: no value older than the refresh). -/
def State.noFill (s : State) (core : Nat) (p : Nat → Bool) : State :=
  { s with reqs := s.reqs.map (fun r => if r.core = core && p (lineNo r.va) then { r with alloc := false } else r) }

/-- Evict a line from an L1 (R109). -/
def State.l1Evict (s : State) (core : Nat) (l : L1Line) : State :=
  ((s.mapCore core (fun c => { c with l1 := c.l1.filter (fun k => !(k.line = l.line && k.gen = l.gen)) })).writeBack core l []
    ).noFill core (fun k => k == l.line)

/-- Bytes of a line that are valid and not dirty. -/
def L1Line.clean (l : L1Line) : BitVec 128 := l.valid &&& ~~~l.dirty
/-- n bytes of a line from byte i on all stand in a mask. -/
def allIn (m : BitVec 128) (i n : Nat) : Bool := (List.range n).all (fun j => m.getLsbD (i + j))
/-- A line holds clean bytes, but not all bytes. -/
def L1Line.mixed (l : L1Line) : Bool := l.clean ≠ 0 && l.valid ≠ BitVec.allOnes 128
/-- A line that a request is to fill, and that holds clean bytes but not all, leaves the L1 first, as any line may at any moment (R109): a line
of the L1 has its clean bytes from one read of its home (R307, R314; log 130). -/
def State.l1Clear (s : State) (core line gen : Nat) : State :=
  match (s.core core).l1Find line gen with
  | some l => if l.mixed then s.l1Evict core l else s
  | none => s

/-- The victim of a full set: a stale line first, then the least recently used line without a keep bit, then, where all are
kept, the oldest (R107, R108). -/
def State.l1Victim (s : State) (core line : Nat) : Option L1Line :=
  let inSet := (s.core core).l1.filter (fun l => l1Set l.line = l1Set line)
  if inSet.length < 8 then none
  else
    match inSet.find? (fun l => l.gen ≠ (s.attr core (lineArena l.line)).gen) with
    | some v => some v
    | none =>
      match (inSet.filter (fun l => !l.keep)).getLast? with
      | some v => some v
      | none => inSet.getLast?

/-- Make room in the set of a line. -/
def State.l1Room (s : State) (core line : Nat) : State :=
  match s.l1Victim core line with
  | some v => s.l1Evict core v
  | none => s

/-- CH codes (R34). -/
def chStream : Nat := 1
def chKeep : Nat := 2
def chNol1 : Nat := 3

/-- Bytes stored into an L1 line: valid and dirty; a miss allocates without fetching (R108). -/
def State.l1Store (s : State) (core line gen ch : Nat) (mask : BitVec 128) (data : BitVec 1024)
    (who : Who) : State :=
  match (s.core core).l1Find line gen with
  | some l =>
    let l' : L1Line := { l with valid := l.valid ||| mask, dirty := l.dirty ||| mask, data := mergeLine l.data mask data,
                                keep := l.keep || ch == chKeep, last := some who }
    s.mapCore core (fun c => c.l1Put l' false)
  | none =>
    let l' : L1Line := { line := line, gen := gen, valid := mask, dirty := mask, data := mergeLine 0 mask data,
                         keep := ch == chKeep, poison := false, last := some who }
    (s.l1Room core line).mapCore core (fun c => c.l1Put l' (ch == chStream))

/-- A line that came back fills the bytes that are not valid (R108). -/
def State.l1FillLine (s : State) (core line gen ch : Nat) (data : BitVec 1024) : State :=
  match (s.core core).l1Find line gen with
  | some l =>
    let l' : L1Line := { l with valid := BitVec.allOnes 128, data := mergeLine data l.valid l.data,
                                keep := l.keep || ch == chKeep }
    s.mapCore core (fun c => c.l1Put l' false)
  | none =>
    let l' : L1Line := { line := line, gen := gen, valid := BitVec.allOnes 128, dirty := 0, data := data,
                         keep := ch == chKeep, poison := false, last := none }
    (s.l1Room core line).mapCore core (fun c => c.l1Put l' (ch == chStream))

/-- Lines of a core that a release publishes and an acquire refreshes: N arenas with SWM = 0, for an acquire not SEALED
(R110). -/
def State.phaseLine (s : State) (core line : Nat) (acquire : Bool) : Bool :=
  let at' := s.attr core (lineArena line)
  at'.typ == Arn.typN && !at'.swm && !(acquire && at'.state == Arn.sealed)

/-- Refresh at an acquire of scope quad or wider: every valid byte that is not dirty becomes invalid (R110, R313). -/
def State.refresh (s : State) (core : Nat) : State :=
  let keepLine (l : L1Line) : L1Line := if s.phaseLine core l.line true then { l with valid := l.valid &&& l.dirty } else l
  (s.mapCore core (fun c => { c with l1 := (c.l1.map keepLine).filter (fun l => l.valid != 0) })).noFill core
    (fun line => s.phaseLine core line true)

/-- SC resolved at issue: gang is quad for a one-quad gang and mod for a two-quad gang (R14). -/
def State.scope (s : State) (a : Agent) (sc : BitVec 3) : Nat :=
  if sc = 6 then
    match (s.ctx? a).bind (fun c => s.teamOf c) with
    | some t => if 4 < t.foot.gang then 3 else 1
    | none => 1
  else sc.toNat

/-- Perform an acquire at a scope: the L1 work of R110. -/
def State.acquire (s : State) (a : Agent) (sc : Nat) : State := if 1 ≤ sc then s.refresh (coreOf a) else s

/-- Write back the dirty bytes of lines of an L1 and mark them clean (R110, R312); no line that comes back from before fills them (R304, R310). -/
def State.publishLines (s : State) (core : Nat) (p : Nat → Bool) : State :=
  let ls := (s.core core).l1.filter (fun l => l.dirty != 0 && p l.line)
  let s := ls.foldl (fun s l => s.writeBack core l []) s
  (s.mapCore core (fun c => c.l1Map (fun l => if p l.line then { l with dirty := 0 } else l))).noFill core (fun k => ls.any (fun l => l.line == k))

/-- Drain combining buffers of a core as masked writes of the waves that filled them (R79, R97). -/
def State.drainWc (s : State) (core : Nat) (p : Nat → Bool) : State :=
  let bs := (s.core core).wc.filter (fun b => p b.line)
  let part := s.corePart core
  let s := bs.foldl (fun s b =>
    let va := b.line * 128
    s.send (Req.blank b.who core part va 128 b.gen (s.verOf part va) Arn.typWC (.write b.mask b.data)) []) s
  s.mapCore core (fun c => { c with wc := c.wc.filter (fun b => !p b.line) })

/-- Requests that read a value for their wave, atomics that return one among them (R282, R303). -/
def ReqOp.reads : ReqOp → Bool
  | .write .. | .serve _ | .prefetch _ | .fetch => false
  | .rmw _ _ _ back => back
  | _ => true

/-- Start a release at a scope (R289): publish at quad or wider, drain the combining buffers; the requests and range
operations that must have performed before the release performs (R122, R289, R312); a combining buffer may hold the wave's stores
whoever filled it last. -/
def State.release (s : State) (a : Agent) (sc : Nat) : State × List Nat :=
  let core := coreOf a
  let s := if 1 ≤ sc then s.publishLines core (fun line => s.phaseLine core line false) else s
  let s := s.drainWc core (fun _ => true)
  let own := s.reqs.filter (fun r => r.op.isWrite && (r.agent == a || ((1 ≤ sc || r.typ == Arn.typWC) && r.core == core)))
  let rg := s.ranges.filter (fun r => r.agent == a)
  (s, own.map (·.id) ++ rg.map (·.id))

/-- Something a release waits for is still on its way. -/
def State.pendingDeps (s : State) (l : List Nat) : Bool :=
  l.any (fun i => s.reqs.any (fun r => r.id = i && r.back.isNone) || s.ranges.any (fun r => r.id = i))

end Sys2Proof.Machine
end

