-- ==== Sys2Proof/Machine/Issue.lean ====
section
/-! DEFINITION. Issue: where an instruction goes instead of its effect, and the forms that every meaning takes (R36, R37, R41,
R96, R97). -/

namespace Sys2Proof.Machine

/-- A fetch or a record read of an agent waits for the translation of its page (R96, R389): a request that stands for it. A
failure stops the agent, or for kind 1 stays for the instruction to find (R357); for kind 2 the wave's other fragments wait with it (R348). -/
def State.holdFetch (s : State) (w : Who) (va code kind : Nat) : State :=
  if s.reqs.any (fun r => r.agent = w.a && r.core = coreOf w.a && r.op = .fetch && r.va = va) then s
  else
    let r := { Req.blank w (coreOf w.a) (s.agentPart w.a) va code 0 0 0 .fetch with
      id := s.uid, lane := kind, alloc := false }
    { s with uid := s.uid + 1, reqs := s.reqs ++ [r] }

/-- An agent that goes elsewhere than to its effect. -/
def State.except (s : State) (is : Iss) : Exc → State
  | .stop st => s.stopWave is.a st
  | .failed id => s.stopFailed is.a id
  | .stall => s
  | .hold va code soft => s.holdFetch (is.who is.fr.mask) va code (if soft then 1 else 0)
  | .holdWave va code => s.holdFetch (is.who is.fr.mask) va code 2
  | .park p => s.parkAgent is p
  | .release sc =>
    let (s, deps) := s.release is.a sc
    s.parkAgent is (.again deps none)
  | .drain va n =>
    let core := coreOf is.a
    let mine (line : Nat) : Bool := va / 128 ≤ line && line ≤ (va + n - 1) / 128
    ((s.core core).l1.filter (fun l => mine l.line && l.mixed)).foldl (fun s l => s.l1Evict core l) (s.drainWc core mine)

/-- An instruction whose body sets the fragment's PC itself: the checks, nothing where no thread passes and the entry names
no effect for that case, and the body. -/
def issueRaw (pm : Perm) (h : Hdr) (len : Nat) (u : Uses) (s : State) (body : Iss → State → Res State) :
    Host.Outcome State Fault Refusal :=
  match s.iss? h len with
  | none => .next s
  | some is =>
    match is.check pm u with
    | .error e => .next (s.except is e)
    | .ok () =>
      if is.p = 0 && !pm.onEmpty then .next ((s.advance is).afterIssue is)
      else
        match body is s with
        | .error e => .next (s.except is e)
        | .ok s' => .next (s'.afterIssue is)

/-- An instruction that moves on to the next one. -/
def issue (pm : Perm) (h : Hdr) (len : Nat) (u : Uses) (s : State) (body : Iss → State → Res State) :
    Host.Outcome State Fault Refusal :=
  issueRaw pm h len u s (fun is s => do
    let s' ← body is s
    pure (s'.advance is))

/-- The outcome of an event: the next state, or no step where the event is not enabled. -/
def event (s : State) (r : Option State) : Host.Outcome State Fault Refusal := .next (r.getD s)

/-- An instruction that performs a release at a scope before its effect waits until all that the release waits for has
performed, and then issues again (R160, R289). -/
def State.needRelease (s : State) (is : Iss) (sc : Nat) : Res Unit :=
  let (s', deps) := s.release is.a sc
  require (!s'.pendingDeps deps) (.release sc)

end Sys2Proof.Machine
end

