-- ==== Sys2Proof/Machine/Scalar.lean ====
section
/-! DEFINITION. The s class: uniform scalar instructions (R206 to R213). -/

namespace Sys2Proof.Machine

/-- A scalar result of scalar sources: what most of the class shares (R206). -/
def scalarOp (h : Hdr) (len : Nat) (rd : List Use) (d : RegNo) (s : State) (f : Iss → W64) :
    Host.Outcome State Fault Refusal :=
  issue .all h len { rd := rd, wr := [.s d] } s (fun is s => pure (s.wrS is d (f is)))

/-- The two-operand form sD, sA, src. -/
def scalarBin (h : Hdr) (d a : RegNo) (src : Src) (s : State) (f : W64 → W64 → W64) : Host.Outcome State Fault Refusal :=
  scalarOp h 8 (.s a :: srcUseS src) d s (fun is => f (is.s a) (is.srcS src))

/-- The high half of a signed product (R207). -/
def mulHs (x y : W64) : W64 := BitVec.ofInt 64 ((x.toInt * y.toInt) / 2 ^ 64)
/-- The high half of an unsigned product (R207). -/
def mulHu (x y : W64) : W64 := BitVec.ofNat 64 (x.toNat * y.toNat / 2 ^ 64)

/-- s.div by SUB: quotient or remainder, signed or unsigned, with the cases of R208. -/
def divide (sub : BitVec 2) (x y : W64) : W64 :=
  match sub.toNat with
  | 0 => if y = 0 then BitVec.allOnes 64 else BitVec.ofInt 64 (x.toInt.tdiv y.toInt)
  | 1 => if y = 0 then BitVec.allOnes 64 else BitVec.ofNat 64 (x.toNat / y.toNat)
  | 2 => if y = 0 then x else BitVec.ofInt 64 (x.toInt.tmod y.toInt)
  | _ => if y = 0 then x else BitVec.ofNat 64 (x.toNat % y.toNat)

/-- The conditions of s.cmp (R207). -/
def condS (c : BitVec 4) (x y : W64) : Bool :=
  match c.toNat with
  | 0 => x == y
  | 1 => x != y
  | 2 => x.slt y
  | 3 => x.sle y
  | 4 => y.slt x
  | 5 => y.sle x
  | 6 => x.ult y
  | 7 => x.ule y
  | 8 => y.ult x
  | _ => y.ule x

/-- The field of l bits at position p of a value of n bits, bits beyond it zero; sign-extended where asked (R210). -/
def bitField (n : Nat) (signed : Bool) (v p l : Nat) : Nat :=
  let f := bits (v % 2 ^ n) p l
  if signed && f.testBit (l - 1) then 2 ^ n - 2 ^ l + f else f

/-- A context update of the issuing agent. -/
def State.upd (s : State) (is : Iss) (f : Ctx → Ctx) : State := s.mapCtx is.a f

/-- s.mov (R207). -/
def execSMov (h : Hdr) (d a : RegNo) (s : State) := scalarOp h 8 [.s a] d s (fun is => is.s a)

/-- s.movi: sx, zx, or hi with the low half kept (R209). -/
def execSMovi (h : Hdr) (sub : BitVec 2) (d : RegNo) (imm : BitVec 32) (s : State) :=
  scalarOp h 12 (if sub = 2 then [.s d] else []) d s (fun is =>
    match sub.toNat with
    | 0 => imm.signExtend 64
    | 1 => imm.zeroExtend 64
    | _ => imm ++ (is.s d).extractLsb' 0 32)

/-- s.add (R207). -/
def execSAdd (h : Hdr) (d a : RegNo) (src : Src) (s : State) := scalarBin h d a src s (· + ·)
/-- s.sub (R207). -/
def execSSub (h : Hdr) (d a : RegNo) (src : Src) (s : State) := scalarBin h d a src s (· - ·)
/-- s.mul: lo, hs or hu (R207). -/
def execSMul (h : Hdr) (sub : BitVec 2) (d a : RegNo) (src : Src) (s : State) :=
  scalarBin h d a src s (fun x y => match sub.toNat with | 0 => x * y | 1 => mulHs x y | _ => mulHu x y)
/-- s.div (R208). -/
def execSDiv (h : Hdr) (sub : BitVec 2) (d a : RegNo) (src : Src) (s : State) := scalarBin h d a src s (divide sub)
/-- s.and (R207). -/
def execSAnd (h : Hdr) (d a : RegNo) (src : Src) (s : State) := scalarBin h d a src s (· &&& ·)
/-- s.or (R207). -/
def execSOr (h : Hdr) (d a : RegNo) (src : Src) (s : State) := scalarBin h d a src s (· ||| ·)
/-- s.xor (R207). -/
def execSXor (h : Hdr) (d a : RegNo) (src : Src) (s : State) := scalarBin h d a src s (· ^^^ ·)
/-- s.shl by src[5:0] (R207). -/
def execSShl (h : Hdr) (d a : RegNo) (src : Src) (s : State) :=
  scalarBin h d a src s (fun x y => x <<< (y.extractLsb' 0 6).toNat)
/-- s.shr by src[5:0], filling with zeros (R207). -/
def execSShr (h : Hdr) (d a : RegNo) (src : Src) (s : State) :=
  scalarBin h d a src s (fun x y => x >>> (y.extractLsb' 0 6).toNat)
/-- s.sra by src[5:0], filling with the sign (R207). -/
def execSSra (h : Hdr) (d a : RegNo) (src : Src) (s : State) :=
  scalarBin h d a src s (fun x y => x.sshiftRight (y.extractLsb' 0 6).toNat)
/-- s.min, signed or unsigned (R207). -/
def execSMin (h : Hdr) (sub : BitVec 2) (d a : RegNo) (src : Src) (s : State) :=
  scalarBin h d a src s (fun x y => if (if sub = 0 then x.sle y else x.ule y) then x else y)
/-- s.max, signed or unsigned (R207). -/
def execSMax (h : Hdr) (sub : BitVec 2) (d a : RegNo) (src : Src) (s : State) :=
  scalarBin h d a src s (fun x y => if (if sub = 0 then x.sle y else x.ule y) then y else x)
/-- s.cmp (R207). -/
def execSCmp (h : Hdr) (cond : BitVec 4) (d a : RegNo) (src : Src) (s : State) :=
  scalarBin h d a src s (fun x y => (BitVec.ofBool (condS cond x y)).zeroExtend 64)
/-- s.sel (R207). -/
def execSSel (h : Hdr) (d a b c : RegNo) (s : State) :=
  scalarOp h 8 [.s a, .s b, .s c] d s (fun is => if is.s c ≠ 0 then is.s a else is.s b)
/-- s.clz of 64 bits, or of the low 32 (R207). -/
def execSClz (h : Hdr) (sub : BitVec 2) (d a : RegNo) (s : State) :=
  scalarOp h 8 [.s a] d s (fun is => BitVec.ofNat 64 (clz (if sub = 0 then 64 else 32) (is.s a).toNat))
/-- s.popc of 64 bits, or of the low 32 (R207). -/
def execSPopc (h : Hdr) (sub : BitVec 2) (d a : RegNo) (s : State) :=
  scalarOp h 8 [.s a] d s (fun is => BitVec.ofNat 64 (popc (if sub = 0 then 64 else 32) (is.s a).toNat))
/-- s.bfx: the field F of src (R210). -/
def execSBfx (h : Hdr) (sub : BitVec 2) (d a : RegNo) (src : Src) (s : State) :=
  scalarBin h d a src s (fun x f =>
    BitVec.ofNat 64 (bitField 64 (sub = 1) x.toNat (bits f.toNat 0 6) (bits f.toNat 8 6 + 1)))
/-- s.lea (R210). -/
def execSLea (h : Hdr) (d a b : RegNo) (sh : BitVec 6) (imm : BitVec 32) (s : State) :=
  scalarOp h 12 [.s a, .s b] d s (fun is => is.s a + (is.s b <<< sh.toNat) + sx64 imm)
/-- s.rdsr (R211). -/
def execSRdsr (h : Hdr) (d a : RegNo) (s : State) :=
  issue .all h 8 { rd := [], wr := [.s d] } s (fun is s => pure (s.wrS is d (s.readSr is.a is.c a.toNat)))
/-- s.wrsr; no effect in a stoker (R211, R414). -/
def execSWrsr (h : Hdr) (d a : RegNo) (s : State) :=
  issue .all h 8 { rd := [.s a], wr := [] } s (fun is s =>
    pure (if isStoker is.a then s else s.upd is (fun c => c.writeSr d.toNat (is.s a))))
/-- s.movc: a tile configuration written, bits 31 to 23 stored as zero, or read; TILE_SHAPE at or above the team's TILES
(R212). -/
def execSMovc (h : Hdr) (sub : BitVec 2) (d a : RegNo) (s : State) :=
  let t := (if sub = 0 then d else a).toNat
  issue .wave h 8 (if sub = 0 then { rd := [.s a], wr := [] } else { rd := [], wr := [.s d] }) s (fun is s =>
    match s.teamOf is.c with
    | none => .error (is.fault0 Code.tileShape)
    | some tm =>
      if t < tm.foot.tiles then
        if sub = 0 then
          pure (s.mapTeam is.c.team (fun m =>
            { m with tcfg := AMap.set 0 m.tcfg t (((is.s a).extractLsb' 0 32) &&& 0x007FFFFF) }))
        else pure (s.wrS is d ((AMap.get 0 tm.tcfg t).zeroExtend 64))
      else .error (is.fault0 Code.tileShape))
/-- s.rdk (R207, R213). -/
def execSRdk (h : Hdr) (d a : RegNo) (s : State) := scalarOp h 8 [.k a] d s (fun is => is.k a)
/-- s.wrk: the whole mask register (R213). -/
def execSWrk (h : Hdr) (d a : RegNo) (s : State) :=
  issue .all h 8 { rd := [.s a], wr := [.k d] } s (fun is s => pure (s.wrK is d (is.s a)))

/-- PAD4: fetch steps over it; no issue slot, no state but the PC (R25). -/
def execPad4 (s : State) : Host.Outcome State Fault Refusal :=
  .next (s.mapCtx s.cur (fun c =>
    match c.rec? s.frag with
    | some r => c.setPc s.frag (r.pc + 4)
    | none => c))

end Sys2Proof.Machine
end

