-- ==== Sys2Proof/Machine/Split.lean ====
section
/-! DEFINITION. The split table and its spill area (R332 to R335), rejoining (R340, R341) and the ending of threads (R16,
R342). -/

namespace Sys2Proof.Machine

/-- A FREE record. -/
def SplitRec.free : SplitRec := { st := .free, bsel := 0, meld := false, rj := 15, pc := 0, mask := 0, age := 0 }

/-- STATE codes (R332). -/
def FragSt.code : FragSt → Nat
  | .free => 0 | .ready => 1 | .parked => 2 | .hold => 3
/-- The state of a code (R332). -/
def FragSt.ofCode (n : Nat) : FragSt :=
  match n % 4 with
  | 0 => .free | 1 => .ready | 2 => .parked | _ => .hold

/-- The 128 bits of a record (R332). -/
def SplitRec.word (r : SplitRec) : Nat :=
  r.mask.toNat + 2 ^ 64 * (bits r.pc.toNat 2 54) + 2 ^ 118 * (r.rj % 16) + (if r.meld then 2 ^ 122 else 0)
    + 2 ^ 123 * r.bsel.toNat + 2 ^ 126 * r.st.code
/-- The record of 128 bits, with an age (R332). -/
def SplitRec.ofWord (w age : Nat) : SplitRec :=
  { st := .ofCode (bits w 126 2), bsel := BitVec.ofNat 3 (bits w 123 3), meld := w.testBit 122, rj := bits w 118 4,
    pc := BitVec.ofNat 64 (4 * bits w 64 54), mask := BitVec.ofNat 64 (bits w 0 64), age := age }

/-- The window offset of a wave's spill slot for record id 8 to 14 (R58, R332). -/
def spillOff (t : Team) (widx id : Nat) : Nat := t.foot.lsbytes - 256 * (t.foot.waves - widx) + 16 * (id - 8)

/-- The records with the spilled ones as the spill area's bytes have them (R332, R335). A hearth wave has no window; its
spilled records stand in its context (log 8). -/
def State.recs (s : State) (c : Ctx) : AMap SplitRec :=
  match s.teamOf c with
  | none => c.split
  | some t => c.split.map (fun e =>
      if e.1 < 8 then e else (e.1, SplitRec.ofWord (ofLe (bytesAt t.win (spillOff t c.widx e.1) 16)) e.2.age))

/-- Put the records back: the table without its FREE records, and the spilled ones into the spill area's bytes, whatever STATE those
hold; the context of a wave with a window keeps of a spilled record only that it stands there, so it never issues from one (R335). A record that is gone keeps neither its skip of a breakpoint (R399) nor its count of issues (R336). -/
def State.putRecs (s : State) (a : Agent) (m : AMap SplitRec) : State :=
  let m : AMap SplitRec := m.filter (fun e => 8 ≤ e.1 || e.2.st ≠ .free)
  match s.ctx? a with
  | none => s
  | some c =>
    let mark (e : Nat × SplitRec) : Nat × SplitRec := if 8 ≤ e.1 && (s.teamOf c).isSome then (e.1, { e.2 with st := .hold }) else e
    let s := s.setCtx a { c with split := m.map mark, skipBkpt := c.skipBkpt.filter (fun i => (m.find i).isSome)
                                 waits := c.waits.filter (fun e => (m.find e.1).isSome) }
    if m.all (fun e => e.1 < 8) then s
    else s.mapTeam c.team (fun t =>
      let sp := m.filter (fun e => 8 ≤ e.1)
      { t with win := sp.foldl (fun w e => putBytes w (spillOff t c.widx e.1) (leBytes 16 e.2.word)) t.win })

/-- A spilled record that a reload finds broken: its STATE is not HOLD or its RJ names a FREE record (R335). -/
def brokenSpill (m : AMap SplitRec) (id : Nat) : Bool :=
  match m.find id with
  | some r => decide (8 ≤ id) && (r.st != .hold || !(r.rj == 15 || ((m.find r.rj).map (·.st)).getD .free != .free))
  | none => false

/-- Records that are fragments: READY or PARKED. -/
def SplitRec.isFrag (r : SplitRec) : Bool := r.st == .ready || r.st == .parked
/-- A record of the table that is a fragment; a spilled one is none (R334, R335). -/
def tableFrag (e : Nat × SplitRec) : Bool := decide (e.1 < 8) && e.2.isFrag
/-- Fragments of a wave (R334). -/
def fragCount (m : AMap SplitRec) : Nat := (m.filter tableFrag).length
/-- A record is free: one of the table by its STATE (R332), a spill slot where no spilled record stands. -/
def isFree (m : AMap SplitRec) (i : Nat) : Bool :=
  match m.find i with
  | none => true
  | some r => decide (i < 8) && r.st == .free
/-- The lowest free id in a range. -/
def freeRec (m : AMap SplitRec) (lo hi : Nat) : Option Nat :=
  ((List.range hi).filter (fun i => lo ≤ i && isFree m i)).head?
/-- Renumber a record everywhere (R334). -/
def renumber (m : AMap SplitRec) (i j : Nat) : AMap SplitRec :=
  match m.find i with
  | none => m
  | some r => ((m.del i).put j r).map (fun e => (e.1, if e.2.rj = i then { e.2 with rj := j } else e.2))

/-- The oldest HOLD record of the table. -/
def oldestHold (m : AMap SplitRec) : Option Nat :=
  (m.filter (fun e => e.1 < 8 && e.2.st = .hold)).foldl (fun best e =>
    match best with
    | none => some (e.1, e.2.age)
    | some (i, g) => if e.2.age < g then some (e.1, e.2.age) else some (i, g)) (none : Option (Nat × Nat)) |>.map (·.1)

/-- Move the oldest HOLD record of the table into the lowest free spill slot (R334); where the record r then stands. -/
def spillOldest (m : AMap SplitRec) (r : Nat) : AMap SplitRec × Nat :=
  match oldestHold m, freeRec m 8 15 with
  | some i, some j => (renumber m i j, if r = i then j else r)
  | _, _ => (m, r)

/-- Spill HOLD records, oldest first, until n table records are free (R334); where the record r then stands. -/
def makeRoom (n : Nat) : Nat → AMap SplitRec → Nat → AMap SplitRec × Nat
  | 0, m, r => (m, r)
  | k + 1, m, r =>
    if ((List.range 8).filter (isFree m)).length < n then (let x := spillOldest m r; makeRoom n k x.1 x.2) else (m, r)

/-- The fragment's split into two, bound to a new HOLD record (R339). -/
def splitRecs (m : AMap SplitRec) (fid : Nat) (fr : SplitRec) (age : Nat) (t : Lanes) (tpc npc jpc : W64) : AMap SplitRec :=
  let m := m.put fid { st := .hold, bsel := 0, meld := false, rj := fr.rj, pc := jpc &&& 0x00FFFFFFFFFFFFFF, mask := fr.mask, age := age }
  let (m, r) := makeRoom 2 9 m fid
  let frag (mask : Lanes) (pc : W64) : SplitRec :=
    { st := .ready, bsel := 0, meld := false, rj := r, pc := pc &&& 0x00FFFFFFFFFFFFFF, mask := mask, age := age }
  match freeRec m 0 8 with
  | none => m
  | some i =>
    let m := m.put i (frag t tpc)
    match freeRec m 0 8 with
    | none => m
    | some j => m.put j (frag (fr.mask &&& ~~~t) npc)

/-- A PARKED fragment bound to a record. -/
def parkedOn (r : Nat) (e : Nat × SplitRec) : Bool := decide (e.1 < 8) && e.2.st == .parked && e.2.rj == r

/-- One rejoin record that a resolve may act on, a spilled one whatever STATE its bytes hold: every live thread of it stands in a PARKED
fragment bound to it (R335, R341). -/
def resolvable (m : AMap SplitRec) (exited : Lanes) (r : Nat) (h : SplitRec) : Bool :=
  let parked := (m.filter (parkedOn r)).foldl (fun k e => k ||| e.2.mask) (0 : Lanes)
  (8 ≤ r || h.st == .hold) && (h.mask &&& ~~~exited &&& ~~~parked) == 0

/-- Resolve one HOLD record (R341): its parked fragments are freed, and it becomes the merged fragment in the table, or is
freed where no thread lives. -/
def resolveOne (m : AMap SplitRec) (exited : Lanes) (r : Nat) (h : SplitRec) : AMap SplitRec :=
  let m : AMap SplitRec := m.filter (fun e => !parkedOn r e)
  let live := h.mask &&& ~~~exited
  if live = 0 then m.del r
  else
    let m := m.put r { st := .ready, bsel := 0, meld := false, rj := h.rj, pc := (h.pc + 8) &&& 0x00FFFFFFFFFFFFFF,
                       mask := live, age := h.age }
    if r < 8 then m
    else
      let m := (makeRoom 1 2 m r).1
      match freeRec m 0 8 with
      | some j => renumber m r j
      | none => m

/-- resolve_joins (R341), until nothing changes: each round removes a record, so the fuel is the number of records. A spilled record
that stood broken before is reported and stays; one whose parent an earlier round has freed is not broken. -/
def resolveRounds (bad : List Nat) : Nat → AMap SplitRec → Lanes → AMap SplitRec × Option Nat
  | 0, m, _ => (m, none)
  | k + 1, m, ex =>
    match m.find? (fun e => resolvable m ex e.1 e.2) with
    | none => (m, none)
    | some (r, h) => if bad.contains r then (m, some r) else resolveRounds bad k (resolveOne m ex r h) ex

/-- The spilled records that a reload would find broken (R335). -/
def brokenSpills (m : AMap SplitRec) : List Nat := (m.map (·.1)).filter (brokenSpill m)

/-- resolve_joins (R341) of a wave's records. -/
def resolveJoins (fuel : Nat) (m : AMap SplitRec) (ex : Lanes) : AMap SplitRec × Option Nat :=
  resolveRounds (brokenSpills m) fuel m ex

/-- Threads end (R16, R342): they leave every fragment and every rejoin mask, and joins are resolved. -/
def endThreadsRecs (m : AMap SplitRec) (ex : Lanes) : AMap SplitRec × Option Nat :=
  let m := m.map (fun e => (e.1, { e.2 with mask := e.2.mask &&& ~~~ex }))
  resolveRounds (brokenSpills m) 16 (m.filter (fun e => !(tableFrag e && e.2.mask = 0))) ex

/-- The records keep R333: every READY and PARKED record has threads, they are disjoint, and together they hold the
threads that have not exited. -/
def recsOk (m : AMap SplitRec) (exited : Lanes) : Bool :=
  let frs := m.filter tableFrag
  let union := frs.foldl (fun k e => k ||| e.2.mask) (0 : Lanes)
  let total := frs.foldl (fun n e => n + popc 64 e.2.mask.toNat) 0
  union == ~~~exited && total == popc 64 union.toNat && frs.all (fun e => e.2.mask ≠ 0)

/-- Release of what a wave holds of the queue of its team's stoker once its last thread has ended: entries it has taken
and not bound are offered again (R419). -/
def reoffer (q : SQueue) (a : Agent) : SQueue :=
  { q with ents := q.ents.map (fun e => (e.1, e.2.1, if e.2.2 = .wave a then .offered else e.2.2)) }

/-- Change the queues of a stoker. -/
def State.mapStoker (s : State) (k : Nat) (f : Stoker → Stoker) : State :=
  match s.stokers.find k with
  | some x => { s with stokers := s.stokers.put k (f x) }
  | none => s

/-- Entries that an agent holds in the queues of its team's stoker are offered again (R419). -/
def State.reofferAll (s : State) (a : Agent) (team : Nat) : State :=
  match (s.teams.find team).bind (·.stoker) with
  | some k => s.mapStoker k (fun x => { x with queues := x.queues.map (fun e => (e.1, reoffer e.2 a)) })
  | none => s

/-- End threads of an agent (R16, R342): by b.exit or by a kill. A spilled record that a kill finds broken stays as it is, and the wave, which
the kill leaves stopped, finds it at its resume (R335, R343). -/
def State.endThreads (s : State) (a : Agent) (ts : Lanes) : State :=
  match s.ctx? a with
  | none => s
  | some c =>
    let ex := c.exited ||| ts
    let m := (endThreadsRecs (s.recs c) ex).1
    let s := (s.setCtx a { c with exited := ex }).putRecs a m
    if ex = BitVec.allOnes 64 then s.reofferAll a c.team else s

end Sys2Proof.Machine
end

