-- ==== Sys2Proof/Machine/Branch.lean ====
section
/-! DEFINITION. The b class but for b.mtab: uniform branches, splits and joins, melded regions, waits and traps (R337 to
R351). -/

namespace Sys2Proof.Machine

/-- A branch to a target, or ALIGN on the branch itself with the target as the address (R26). -/
def State.branchTo (s : State) (is : Iss) (target : W64) : Res State := do
  require (bits target.toNat 0 2 = 0) (is.fault Code.align (target.toNat % 2 ^ 56) is.fr.mask)
  pure (s.mapCtx is.a (fun c => c.setPc is.fid target))

/-- A branch's target: PC + DISP32, or sA + IMM32 (R32, R337). -/
def Iss.target (is : Iss) (reg : Bool) (a : RegNo) (imm : BitVec 32) : W64 :=
  (if reg then is.s a else is.pc) + sx64 imm

/-- b.nop (R349). -/
def execBNop (h : Hdr) (s : State) := issue .all h 8 { rd := [], wr := [] } s (fun _ s => pure s)

/-- b.jmp (R338). -/
def execBJmp (h : Hdr) (sub : BitVec 2) (a : RegNo) (imm : BitVec 32) (s : State) :=
  issueRaw .all h 12 { rd := if sub = 1 then [.s a] else [], wr := [] } s (fun is s => s.branchTo is (is.target (sub = 1) a imm))

/-- The condition of b.br (R338). -/
def condBr (sub : BitVec 2) (v : W64) : Bool :=
  match sub.toNat with
  | 0 => v != 0
  | 1 => v == 0
  | 2 => v.msb
  | _ => !v.msb

/-- b.br (R338). -/
def execBBr (h : Hdr) (sub : BitVec 2) (a : RegNo) (imm : BitVec 32) (s : State) :=
  issueRaw .all h 12 { rd := [.s a], wr := [] } s (fun is s =>
    if condBr sub (is.s a) then s.branchTo is (is.target false a imm) else pure (s.advance is))

/-- The condition of b.brk over the passing threads (R338). -/
def condBrk (sub : BitVec 2) (p k : Lanes) : Bool :=
  match sub.toNat with
  | 0 => p &&& k != 0
  | 1 => p &&& ~~~k == 0
  | _ => p &&& k == 0

/-- b.brk (R338). -/
def execBBrk (h : Hdr) (sub : BitVec 2) (a : RegNo) (imm : BitVec 32) (s : State) :=
  issueRaw .all h 12 { rd := [.k a], wr := [] } s (fun is s =>
    if condBrk sub is.p (is.k a) then s.branchTo is (is.target false a imm) else pure (s.advance is))

/-- b.call: the link is written only when the branch is taken without ALIGN (R26, R338). -/
def execBCall (h : Hdr) (sub : BitVec 2) (d a : RegNo) (imm : BitVec 32) (s : State) :=
  issueRaw .all h 12 { rd := if sub = 1 then [.s a] else [], wr := [.s d] } s (fun is s => do
    let s' ← s.branchTo is (is.target (sub = 1) a imm)
    pure (s'.wrS is d (is.pc + 12)))

/-- b.ret (R338). -/
def execBRet (h : Hdr) (a : RegNo) (s : State) :=
  issueRaw .all h 8 { rd := [.s a], wr := [] } s (fun is s => s.branchTo is (is.s a))

/-- b.split (R339); IIL in a melded region (R38) and in a user-trap handler (R387). -/
def execBSplit (h : Hdr) (a : RegNo) (x0 x1 : BitVec 32) (s : State) :=
  issueRaw { Perm.wave with noMeld := true } h 16 { rd := [.k a], wr := [] } s (fun is s => do
    require (!is.c.utact) (is.fault0 Code.iil)
    let m := is.fr.mask
    let t := is.p &&& is.k a
    if t = 0 then pure (s.advance is)
    else if m &&& ~~~t = 0 then s.branchTo is (is.pc + sx64 x0)
    else
      let tpc := is.pc + sx64 x0
      let jpc := is.pc + sx64 x1
      let rs := s.recs is.c
      require (fragCount rs < 8) (is.fault0 Code.nest)
      require (bits tpc.toNat 0 2 = 0) (is.fault Code.align (tpc.toNat % 2 ^ 56) m)
      require (bits jpc.toNat 0 2 = 0) (is.fault Code.align (jpc.toNat % 2 ^ 56) m)
      let s := s.mapCtx is.a (fun c => { c with age := c.age + 1 })
      pure (s.putRecs is.a (splitRecs rs is.fid is.fr (is.c.age + 1) t tpc (is.pc + 16) jpc)))

/-- HANDLE at the instruction that reloads a broken spilled record, with the spill address (R335, R394). -/
def State.spillFault (s : State) (is : Iss) (r : Nat) : Exc :=
  is.fault Code.handle (match s.teamOf is.c with | some t => spillOff t is.c.widx r | none => 0) is.fr.mask

/-- b.join (R340, R341). A rejoin record that is spilled and broken faults HANDLE before its JPC is compared (R335, log 142). -/
def execBJoin (h : Hdr) (s : State) :=
  issueRaw { Perm.wave with noMeld := true } h 8 { rd := [], wr := [] } s (fun is s => do
    let rs := s.recs is.c
    let r := is.fr.rj
    require (!brokenSpill rs r) (s.spillFault is r)
    match rs.find r with
    | none => pure (s.advance is)
    | some hold =>
      if r = 15 || hold.st != .hold || hold.pc != is.pc then pure (s.advance is)
      else
        let rs := rs.put is.fid { is.fr with st := .parked, pc := (is.pc + 8) &&& 0x00FFFFFFFFFFFFFF }
        match resolveJoins 16 rs is.c.exited with
        | (_, some b) => .error (s.spillFault is b)
        | (m, none) => pure (s.putRecs is.a m))

/-- GUARD for a latched touch: PC names the touch, and ADDR gives its bank and window offset (R143, R392, R394). -/
def Iss.guardFault (is : Iss) (g : Guard) : Exc :=
  .stop { code := Code.guardTouch, prec := false, addr := g.bank * 2 ^ 32 + g.off, mask := is.fr.mask, pc := g.pc,
          meld := is.fr.meld, posted := false, silent := false }

/-- b.exit; GUARD instead at the wave's last exit when its latch is set (R342, R143). -/
def execBExit (h : Hdr) (s : State) :=
  issueRaw .wave h 8 { rd := [], wr := [] } s (fun is s => do
    let ex := is.c.exited ||| is.p
    match is.c.guard with
    | some g => require (ex ≠ BitVec.allOnes 64) (is.guardFault g)
    | none => pure ()
    match (endThreadsRecs (s.recs is.c) ex).2 with
    | some b => .error (s.spillFault is b)
    | none => pure ((s.advance is).endThreads is.a is.p))

/-- The path ids after b.meld: 2 × kA[i] + kB[i] for the active threads (R344). -/
def meldPaths (old : BitVec 128) (mask ka kb : Lanes) : BitVec 128 :=
  mask.list.foldl (fun p i =>
    BitVec.ofNat 128 (setBits p.toNat (2 * i) 2 ((if ka.getLsbD i then 2 else 0) + (if kb.getLsbD i then 1 else 0)))) old

/-- b.meld (R344). -/
def execBMeld (h : Hdr) (a b : RegNo) (base : BitVec 3) (s : State) :=
  issue { Perm.wave with noMeld := true } h 12 { rd := [.k a, .k b], wr := [] } s (fun is s =>
    pure (s.upd is (fun c =>
      { c with paths := meldPaths c.paths is.fr.mask (is.k a) (is.k b)
               split := c.split.put is.fid { is.fr with meld := true, bsel := base } })))

/-- b.unmeld; IIL outside a region (R345). -/
def execBUnmeld (h : Hdr) (s : State) :=
  issue .all h 8 { rd := [], wr := [] } s (fun is s => do
    require is.fr.meld (is.fault0 Code.iil)
    pure (s.upd is (fun c => { c with split := c.split.put is.fid { is.fr with meld := false } })))

/-- b.wcnt: park until each counter is at or below its limit (R349). -/
def execBWcnt (h : Hdr) (ldc stc xc ec : BitVec 6) (s : State) :=
  issue .all h 8 { rd := [], wr := [] } s (fun is s =>
    let c := is.c
    if c.ldc ≤ ldc.toNat && c.stc ≤ stc.toNat && c.xc ≤ xc.toNat && c.ec ≤ ec.toNat then pure s
    else pure (s.parkAgent is (.wcnt ldc.toNat stc.toNat xc.toNat ec.toNat)))

/-- b.trap (R350). -/
def execBTrap (h : Hdr) (code : BitVec 8) (s : State) :=
  issueRaw .wave h 8 { rd := [], wr := [] } s (fun is s =>
    pure (s.userTrap is.a is.fid is.pc (is.pc + 8) is.p 0 code true))

/-- b.tret; IIL with UTACT = 0 (R350, R387). -/
def execBTret (h : Hdr) (s : State) :=
  issueRaw .all h 8 { rd := [], wr := [] } s (fun is s => do
    require is.c.utact (is.fault0 Code.iil)
    pure (s.trapReturn is.a))

/-- b.dbg: BREAK with CODE; the fragment's PC lies beyond it (R351, R394). -/
def execBDbg (h : Hdr) (code : BitVec 8) (s : State) :=
  issue .all h 8 { rd := [], wr := [] } s (fun is s =>
    pure (s.stopWave is.a { code := Code.brk, prec := false, addr := code.toNat, mask := is.fr.mask, pc := is.pc,
                            meld := is.fr.meld, posted := false, silent := false }))

end Sys2Proof.Machine
end

