-- ==== Sys2Proof/Machine/Ranges.lean ====
section
/-! DEFINITION. Integers of the element types: signedness, range, clamping and wrapping (R177, R190, R215). -/

namespace Sys2Proof

/-- Registers of an element of a type: two for a 64-bit type (R28). -/
def Ty.regs (t : Ty) : Nat := if t.is64 then 2 else 1
/-- A value's integer under a type's signedness and width (R177, R215). -/
def Ty.intOf (t : Ty) (v : Nat) : Int := if t.signed then toSigned t.bits v else ((v % 2 ^ t.bits : Nat) : Int)
/-- Smallest integer of a type (R215). -/
def Ty.lo (t : Ty) : Int := if t.signed then -(2 : Int) ^ (t.bits - 1) else 0
/-- Largest integer of a type (R215). -/
def Ty.hi (t : Ty) : Int := if t.signed then (2 : Int) ^ (t.bits - 1) - 1 else (2 : Int) ^ t.bits - 1
/-- An integer clamped to the range of a type (R215). -/
def Ty.clamp (t : Ty) (x : Int) : Int := max t.lo (min t.hi x)
/-- An integer modulo 2 to the type's width. -/
def Ty.wrap (t : Ty) (x : Int) : Nat := (x % (2 : Int) ^ t.bits).toNat
/-- The code of an exact integer result: clamped with SAT, else modulo (R215). -/
def Ty.intCode (t : Ty) (sat : Bool) (x : Int) : Nat := t.wrap (if sat then t.clamp x else x)

end Sys2Proof
end

