-- ==== Sys2Proof/Machine/Flags.lean ====
section
/-! DEFINITION. Number formats, rounding and the sticky flags: every code's value (R171 to R177), rounding by RND and by the
stochastic rule (R178, R182), the edges of a type and the flags (R179 to R181, R184), and exact arithmetic on values. -/

namespace Sys2Proof

/-! The five flags in the layout of R184. -/
namespace Flag
def nv : BitVec 5 := 16
def dz : BitVec 5 := 8
def ovf : BitVec 5 := 4
def unf : BitVec 5 := 2
def nx : BitVec 5 := 1
end Flag

/-- The layout of a floating-point type: exponent and mantissa bits, bias, whether it has infinities, its largest finite
magnitude as a code, and its canonical NaN code where it has one (R171, R181). -/
structure Fmt where
  eb : Nat
  mb : Nat
  bias : Nat
  inf : Bool
  maxCode : Nat
  nan : Option Nat
  deriving DecidableEq, Repr

/-- The layout of each floating-point type (R171, R181); for other types that of f32, which nothing uses. -/
def Ty.fmt : Ty → Fmt
  | .f64 => { eb := 11, mb := 52, bias := 1023, inf := true, maxCode := 0x7FEFFFFFFFFFFFFF, nan := some 0x7FF8000000000000 }
  | .f16 => { eb := 5, mb := 10, bias := 15, inf := true, maxCode := 0x7BFF, nan := some 0x7E00 }
  | .bf16 => { eb := 8, mb := 7, bias := 127, inf := true, maxCode := 0x7F7F, nan := some 0x7FC0 }
  | .e5m2 => { eb := 5, mb := 2, bias := 15, inf := true, maxCode := 0x7B, nan := some 0x7E }
  | .e4m3 => { eb := 4, mb := 3, bias := 7, inf := false, maxCode := 0x7E, nan := some 0x7F }
  | .e3m2 => { eb := 3, mb := 2, bias := 3, inf := false, maxCode := 0x1F, nan := none }
  | .e2m3 => { eb := 2, mb := 3, bias := 1, inf := false, maxCode := 0x1F, nan := none }
  | .e2m1 => { eb := 2, mb := 1, bias := 1, inf := false, maxCode := 0x7, nan := none }
  | _ => { eb := 8, mb := 23, bias := 127, inf := true, maxCode := 0x7F7FFFFF, nan := some 0x7FC00000 }

/-- A value of a floating-point type: a NaN, an infinity, or (−1)^neg × m × 2^e. -/
inductive Val where
  | nan (signalling : Bool)
  | inf (neg : Bool)
  | fin (neg : Bool) (m : Nat) (e : Int)
  deriving DecidableEq, Repr

/-- The value of a code (R172, R173). -/
def Fmt.decode (f : Fmt) (code : Nat) : Val :=
  let w := f.eb + f.mb
  let neg := code.testBit w
  let mag := code % 2 ^ w
  let e := mag / 2 ^ f.mb
  let m := mag % 2 ^ f.mb
  if f.inf && e == 2 ^ f.eb - 1 then (if m = 0 then .inf neg else .nan (!m.testBit (f.mb - 1)))
  else if f.nan == some mag then .nan false
  else if e = 0 then .fin neg m (1 - f.bias - f.mb)
  else .fin neg (2 ^ f.mb + m) ((e : Int) - f.bias - f.mb)

/-- The integer of an element code of an integer type; the reserved tern code reads as 0 (R175, R177). -/
def Ty.intOfCode (t : Ty) (code : Nat) : Int :=
  match t with
  | .tern => match code % 4 with | 1 => 1 | 3 => -1 | _ => 0
  | _ => t.intOf code

/-- The value of a code of any type: an integer is exact. -/
def Ty.val (t : Ty) (code : Nat) : Val :=
  if t.isFp then t.fmt.decode (code % 2 ^ t.bits)
  else let x := t.intOfCode code; .fin (x < 0) x.natAbs 0

/-- How a result is rounded: RND, SAT, and with SR = 1 the generator's value (R178, R179, R182). -/
structure Round where
  rnd : Rnd
  sat : Bool
  rv : Option Nat
  deriving DecidableEq, Repr

/-- Nearest-even without saturation. -/
def Round.rne : Round := { rnd := .rn, sat := false, rv := none }

/-- Bits needed for a number; 0 for 0. -/
def bitLen (n : Nat) : Nat := if n = 0 then 0 else n.log2 + 1

/-- A magnitude m × 2^e, with a sticky part in (0, 1) × 2^e, in units of 2^q: the whole units, and whether the rounding goes
up and is inexact (R178, R182). -/
def roundUnits (r : Round) (neg : Bool) (m : Nat) (e : Int) (sticky : Bool) (q : Int) : Nat × Bool × Bool :=
  if q ≤ e then
    let i := m * 2 ^ (e - q).toNat
    (i, sticky && (match r.rnd with | .rp => !neg | .rm => neg | _ => false) && r.rv.isNone, sticky)
  else
    let sh := min (q - e).toNat (bitLen m + 40)
    let i := m / 2 ^ sh
    let rem := m % 2 ^ sh
    let inexact := sticky || rem != 0
    let up :=
      match r.rv with
      | some rv => decide (2 ^ 32 * 2 ^ sh ≤ 2 ^ 32 * rem + rv * 2 ^ sh)
      | none =>
        match r.rnd with
        | .rn => decide (2 ^ sh < 2 * rem) || (2 * rem == 2 ^ sh && (sticky || i % 2 == 1))
        | .rz => false
        | .rp => !neg && inexact
        | .rm => neg && inexact
    (i, up && inexact, inexact)

/-- The code of a sign and a magnitude code. -/
def Fmt.signed (f : Fmt) (neg : Bool) (mag : Nat) : Nat := mag + if neg then 2 ^ (f.eb + f.mb) else 0
/-- The magnitude code of infinity, or of the largest value where the type has none. -/
def Fmt.infMag (f : Fmt) : Nat := if f.inf then f.maxCode + 1 else f.maxCode

/-- An infinite result: ±∞, or ±max with SAT; ±max in a type without infinities (R179). -/
def Fmt.roundInf (f : Fmt) (r : Round) (neg : Bool) : Nat × BitVec 5 :=
  if f.inf then (f.signed neg (if r.sat then f.maxCode else f.infMag), 0)
  else (f.signed neg f.maxCode, Flag.ovf ||| Flag.nx)
/-- A NaN result: the canonical NaN, or +0 with NV in a type without NaN (R179, R181). -/
def Fmt.roundNan (f : Fmt) (signalling : Bool) : Nat × BitVec 5 :=
  match f.nan with
  | some c => (c, if signalling then Flag.nv else 0)
  | none => (0, Flag.nv)

/-- A finite result m × 2^e (with a sticky part) rounded once into a type, with its flags (R178 to R182). -/
def Fmt.roundFin (f : Fmt) (r : Round) (neg : Bool) (m : Nat) (e : Int) (sticky : Bool) : Nat × BitVec 5 :=
  if m = 0 then (f.signed neg 0, 0)
  else
    let l : Int := e + bitLen m - 1
    let emin : Int := 1 - f.bias
    let q := max l emin - f.mb
    let (i, up, inexact) := roundUnits r neg m e sticky q
    let base := (q - (emin - f.mb)).toNat * 2 ^ f.mb
    let mag := base + i + if up then 1 else 0
    let nx := if inexact then Flag.nx else 0
    if !f.inf && (f.maxCode < base + i || (base + i == f.maxCode && inexact)) then
      (f.signed neg f.maxCode, Flag.ovf ||| Flag.nx)
    else if f.maxCode < mag then
      let toInf := !r.sat && (r.rv.isSome || (match r.rnd with | .rn => true | .rz => false | .rp => !neg | .rm => neg))
      (f.signed neg (if toInf then f.infMag else f.maxCode), Flag.ovf ||| Flag.nx)
    else
      let tiny := inexact && decide (l < emin) &&
        (let (j, up', _) := roundUnits r neg m e sticky (l - f.mb)
         !(l + 1 == emin && j + (if up' then 1 else 0) == 2 ^ (f.mb + 1)))
      (f.signed neg mag, nx ||| if tiny then Flag.unf else 0)

/-- A value rounded into a floating-point type (R179). -/
def Fmt.roundVal (f : Fmt) (r : Round) : Val → Nat × BitVec 5
  | .nan s => f.roundNan s
  | .inf neg => f.roundInf r neg
  | .fin neg m e => f.roundFin r neg m e false

/-! ## Exact arithmetic -/

/-- The integer of a signed magnitude. -/
def signedNat (neg : Bool) (m : Nat) : Int := if neg then -(m : Int) else m
/-- A zero sum: negative where both operands are, or, for operands of opposite sign, under rm (IEEE 754, R221). -/
def zeroSign (rnd : Rnd) (n1 n2 : Bool) : Bool := if n1 == n2 then n1 else rnd == .rm

/-- The exact sum of finite values; the sign of a zero sum follows the rounding. -/
def addFin (rnd : Rnd) (n1 : Bool) (m1 : Nat) (e1 : Int) (n2 : Bool) (m2 : Nat) (e2 : Int) : Val :=
  if m1 = 0 && m2 = 0 then .fin (zeroSign rnd n1 n2) 0 0
  else if m1 = 0 then .fin n2 m2 e2
  else if m2 = 0 then .fin n1 m1 e1
  else
    let e := min e1 e2
    let x := signedNat n1 (m1 * 2 ^ (e1 - e).toNat) + signedNat n2 (m2 * 2 ^ (e2 - e).toNat)
    if x = 0 then .fin (rnd == .rm) 0 0 else .fin (x < 0) x.natAbs e

/-- The flag that a signalling NaN among operands raises (R181). -/
def sNan (l : List Val) : BitVec 5 := if l.any (fun v => v == .nan true) then Flag.nv else 0

/-- The exact sum, with the flags of invalid operands. -/
def Val.add (rnd : Rnd) (x y : Val) : Val × BitVec 5 :=
  match x, y with
  | .nan _, _ | _, .nan _ => (.nan false, sNan [x, y])
  | .inf a, .inf b => if a == b then (.inf a, 0) else (.nan false, Flag.nv)
  | .inf a, _ => (.inf a, 0)
  | _, .inf b => (.inf b, 0)
  | .fin n1 m1 e1, .fin n2 m2 e2 => (addFin rnd n1 m1 e1 n2 m2 e2, 0)

/-- The negated value. -/
def Val.neg : Val → Val
  | .nan s => .nan s
  | .inf n => .inf (!n)
  | .fin n m e => .fin (!n) m e

/-- The exact product, with the flags of invalid operands. -/
def Val.mul (x y : Val) : Val × BitVec 5 :=
  match x, y with
  | .nan _, _ | _, .nan _ => (.nan false, sNan [x, y])
  | .inf a, .inf b => (.inf (a != b), 0)
  | .inf a, .fin b m _ | .fin b m _, .inf a => if m = 0 then (.nan false, Flag.nv) else (.inf (a != b), 0)
  | .fin n1 m1 e1, .fin n2 m2 e2 => (.fin (n1 != n2) (m1 * m2) (e1 + e2), 0)

/-- x × y + z exactly; 0 × ∞ raises NV whatever z is (R221). -/
def Val.fma (rnd : Rnd) (x y z : Val) : Val × BitVec 5 :=
  let (p, f) := x.mul y
  let (r, g) := p.add rnd z
  (r, f ||| g ||| sNan [z])

/-- A value scaled by 2^k exactly. -/
def Val.scale (k : Int) : Val → Val
  | .fin n m e => .fin n m (e + k)
  | v => v

/-- The order of values that are no NaN, with −0 below +0 where asked: below, or not. -/
def Val.lt (zeros : Bool) (x y : Val) : Bool :=
  match x, y with
  | .nan _, _ | _, .nan _ => false
  | .inf a, .inf b => a && !b
  | .inf a, _ => a
  | _, .inf b => !b
  | .fin n1 m1 e1, .fin n2 m2 e2 =>
    if m1 = 0 && m2 = 0 then zeros && n1 && !n2
    else
      let e := min e1 e2
      decide (signedNat n1 (m1 * 2 ^ (e1 - e).toNat) < signedNat n2 (m2 * 2 ^ (e2 - e).toNat))
/-- The value is a NaN. -/
def Val.isNan : Val → Bool
  | .nan _ => true
  | _ => false

/-- The integer part of a square root, by bits: the root of n below 2^(2k). -/
def isqrtBits : Nat → Nat → Nat → Nat
  | 0, _, r => r
  | k + 1, n, r => let t := r + 2 ^ k; isqrtBits k n (if t * t ≤ n then t else r)
/-- The integer part of a square root. -/
def isqrt (n : Nat) : Nat := isqrtBits (bitLen n / 2 + 1) n 0

/-- A quotient of positive numbers to many bits: the number, its exponent, and whether a rest is left. -/
def quotient (m1 : Nat) (e1 : Int) (m2 : Nat) (e2 : Int) : Nat × Int × Bool :=
  let k := bitLen m2 + 130
  let n := m1 * 2 ^ k
  (n / m2, e1 - e2 - k, n % m2 != 0)
/-- A square root to many bits. -/
def squareRoot (m : Nat) (e : Int) : Nat × Int × Bool :=
  let k : Nat := 300 + if (e % 2) = 0 then 0 else 1
  let n := m * 2 ^ k
  let r := isqrt n
  (r, (e - k) / 2, r * r != n)
/-- A reciprocal square root to many bits. -/
def recipSqrt (m : Nat) (e : Int) : Nat × Int × Bool :=
  let k : Nat := 400 + if (e % 2) = 0 then 0 else 1
  let n := 2 ^ k
  let r := isqrt (n / m)
  (r, (-e - k) / 2, r * r * m != n)

/-! ## Comparisons, minimum and maximum, class (R222 to R224) -/

/-- f.min and f.max: −0 below +0; num takes the other operand of a NaN, nan the canonical NaN (R222). -/
def Fmt.minMax (f : Fmt) (isMax nanForm : Bool) (cx cy : Nat) : Nat × BitVec 5 :=
  let x := f.decode cx
  let y := f.decode cy
  let fl := sNan [x, y]
  if x.isNan && y.isNan then (f.nan.getD 0, fl)
  else if x.isNan then (if nanForm then f.nan.getD 0 else cy, fl)
  else if y.isNan then (if nanForm then f.nan.getD 0 else cx, fl)
  else if isMax then (if x.lt true y then cy else cx, fl)
  else (if y.lt true x then cy else cx, fl)

/-- f.cmp: whether the condition holds, and NV (R223). -/
def Fmt.cmp (f : Fmt) (cond : Nat) (cx cy : Nat) : Bool × BitVec 5 :=
  let x := f.decode cx
  let y := f.decode cy
  let un := x.isNan || y.isNan
  let lt := x.lt false y
  let gt := y.lt false x
  let r :=
    match cond with
    | 0 => !un && !lt && !gt
    | 1 => un || lt || gt
    | 2 => lt
    | 3 => !un && !gt
    | 4 => gt
    | 5 => !un && !lt
    | 6 => un
    | _ => !un
  (r, if 2 ≤ cond && cond ≤ 5 then (if un then Flag.nv else 0) else sNan [x, y])

/-- f.cls: the one-hot class (R224). -/
def Fmt.cls (f : Fmt) (code : Nat) : Nat :=
  match f.decode code with
  | .nan s => if s then 1 else 2
  | .inf n => if n then 4 else 512
  | .fin n m _ =>
    let normal := decide (2 ^ f.mb ≤ code % 2 ^ (f.eb + f.mb))
    if m = 0 then (if n then 32 else 64)
    else if normal then (if n then 8 else 256)
    else if n then 16 else 128

/-! ## Conversions (R190) -/

/-- A magnitude rounded to an integer under RND, and whether it is inexact. -/
def toIntRound (rnd : Rnd) (neg : Bool) (m : Nat) (e : Int) : Int × Bool :=
  let (i, up, inexact) := roundUnits { rnd := rnd, sat := false, rv := none } neg m e false 0
  (signedNat neg (i + if up then 1 else 0), inexact)

/-- The code of a tern value −1, 0 or 1 (R175). -/
def ternCode (x : Int) : Nat := if x = 1 then 1 else if x = -1 then 3 else 0

/-- A real converted to an integer type: NaN gives 0, what is out of range the nearest end, both with NV (R190). -/
def realToInt (t : Ty) (rnd : Rnd) : Val → Nat × BitVec 5
  | .nan _ => (0, Flag.nv)
  | .inf neg => (t.wrap (if neg then t.lo else t.hi), Flag.nv)
  | .fin neg m e =>
    if m ≠ 0 && bitLen m + e > 70 then (t.wrap (if neg then t.lo else t.hi), Flag.nv)
    else
      let (x, inexact) := toIntRound rnd neg m e
      if x < t.lo then (t.wrap t.lo, Flag.nv)
      else if t.hi < x then (t.wrap t.hi, Flag.nv)
      else (t.wrap x, if inexact then Flag.nx else 0)

/-- A real converted to tern (R190). -/
def realToTern (rnd : Rnd) : Val → Nat × BitVec 5
  | .nan _ => (0, Flag.nv)
  | .inf neg => (ternCode (if neg then -1 else 1), Flag.ovf ||| Flag.nx)
  | .fin neg m e =>
    if m ≠ 0 && bitLen m + e > 70 then (ternCode (if neg then -1 else 1), Flag.ovf ||| Flag.nx)
    else
      let (x, inexact) := toIntRound rnd neg m e
      if x < -1 then (ternCode (-1), Flag.ovf ||| Flag.nx)
      else if 1 < x then (ternCode 1, Flag.ovf ||| Flag.nx)
      else (ternCode x, if inexact then Flag.nx else 0)

/-- convert(x, TY) of R190 for a source code; esc scales exactly, and then an integer source counts as a real (R191). -/
def convert (src dst : Ty) (r : Round) (esc : Int) (code : Nat) : Nat × BitVec 5 :=
  let v := (src.val code).scale esc
  if dst.isFp then dst.fmt.roundVal r v
  else if src.isFp || esc ≠ 0 then (if dst = .tern then realToTern r.rnd v else realToInt dst r.rnd v)
  else
    let x := src.intOfCode code
    if dst = .tern then (ternCode (max (-1) (min 1 x)), 0)
    else (dst.intCode r.sat x, 0)

end Sys2Proof
end

