-- ==== Sys2Proof/Machine/Transcend.lean ====
section
/-! DEFINITION. The functions of R225: each result is the exact mathematical value rounded once. Reciprocal and roots are
exact with a rest; 2^x, log2 x, sin πx and cos πx are computed to 384 fractional bits and rounded once (log 9: that no
result of f32 lies so near to a rounding boundary that these bits do not settle it is UNVERIFIED). -/

namespace Sys2Proof

/-- Fractional bits of the fixed-point computations. -/
def fxBits : Nat := 384
/-- 1.0 in fixed point. -/
def fxOne : Nat := 2 ^ 384
/-- π to 384 fractional bits. -/
def fxPi : Nat := 0x3243f6a8885a308d313198a2e03707344a4093822299f31d0082efa98ec4e6c89452821e638d01377be5466cf34e90c6c
/-- ln 2 to 384 fractional bits. -/
def fxLn2 : Nat := 0xb17217f7d1cf79abc9e3b39803f2f6af40f343267298b62d8a0d175b8baafa2be7b876206debac98559552fb4afa1b10

/-- A product in fixed point. -/
def fxMul (x y : Nat) : Nat := x * y / fxOne

/-- The sum of x^k / k! from a term on: k the index of the term, t its value. -/
def expTerms : Nat → Nat → Nat → Nat → Nat
  | 0, _, _, _ => 0
  | n + 1, x, k, t => t + expTerms n x (k + 1) (fxMul t x / (k + 1))
/-- e^x for 0 ≤ x < 1. -/
def fxExp (x : Nat) : Nat := expTerms 110 x 0 fxOne

/-- The terms of the sine or cosine series from a term on, with alternating signs: k the index of the term. -/
def trigTerms : Nat → Nat → Nat → Nat → Int
  | 0, _, _, _ => 0
  | n + 1, x2, k, t => (t : Int) - trigTerms n x2 (k + 2) (fxMul t x2 / ((k + 1) * (k + 2)))
/-- sin θ for 0 ≤ θ < 1. -/
def fxSin (x : Nat) : Nat := (trigTerms 60 (fxMul x x) 1 x).toNat
/-- cos θ for 0 ≤ θ < 1. -/
def fxCos (x : Nat) : Nat := (trigTerms 60 (fxMul x x) 0 fxOne).toNat

/-- The terms of atanh t: k the odd index. -/
def atanhTerms : Nat → Nat → Nat → Nat → Nat
  | 0, _, _, _ => 0
  | n + 1, t2, k, p => p / k + atanhTerms n t2 (k + 2) (fxMul p t2)
/-- ln y for 1 ≤ y < 2. -/
def fxLn (y : Nat) : Nat :=
  let t := (y - fxOne) * fxOne / (y + fxOne)
  2 * atanhTerms 130 (fxMul t t) 1 t

/-- m × 2^e in fixed point, where −e is at most 384. -/
def fxOf (m : Nat) (e : Int) : Nat := if e < 0 then m * 2 ^ (fxBits - (-e).toNat) else m * 2 ^ (fxBits + e.toNat)

/-- 2^x for a finite x, rounded once (R225). -/
def exp2Fin (f : Fmt) (r : Round) (neg : Bool) (m : Nat) (e : Int) : Nat × BitVec 5 :=
  if m = 0 then f.roundFin r false 1 0 false
  else if bitLen m + e > 10 then
    -- beyond every exponent of the type: far above its range, or far below it
    f.roundFin r false 1 (if neg then -400 else 400) true
  else
    let x := fxOf m e
    let fl := x / fxOne
    let fr := x % fxOne
    let n : Int := if neg then (if fr = 0 then -(fl : Int) else -(fl : Int) - 1) else fl
    let fr := if neg && fr != 0 then fxOne - fr else fr
    if fr = 0 then f.roundFin r false 1 n false
    else f.roundFin r false (fxExp (fxMul fr fxLn2)) (n - fxBits) true

/-- log₂ x for a finite x > 0, rounded once (R225). -/
def log2Fin (f : Fmt) (r : Round) (m : Nat) (e : Int) : Nat × BitVec 5 :=
  let l : Int := e + bitLen m - 1
  let y := m * 2 ^ (fxBits - (bitLen m - 1))
  if y = fxOne then f.roundFin r (l < 0) l.natAbs 0 false
  else
    let v : Int := l * fxOne + (fxLn y * fxOne / fxLn2 : Nat)
    f.roundFin r (v < 0) v.natAbs (-(fxBits : Int)) true

/-- sin πa for 0 ≤ a < 2 in fixed point, rounded once; the zeros and ±1 are exact (R225). -/
def sinTurn (f : Fmt) (r : Round) (flip : Bool) (a : Nat) : Nat × BitVec 5 :=
  let neg := decide (fxOne ≤ a) != flip
  let b := a % fxOne
  let b := if 2 * b ≤ fxOne then b else fxOne - b
  if 2 * b = fxOne then f.roundFin r neg 1 0 false
  else if 4 * b ≤ fxOne then f.roundFin r neg (fxSin (fxMul b fxPi)) (-(fxBits : Int)) true
  else f.roundFin r neg (fxCos (fxMul (fxOne / 2 - b) fxPi)) (-(fxBits : Int)) true

/-- sin πx for a finite x: an integer gives a zero with the sign of x (R225). -/
def sinFin (f : Fmt) (r : Round) (neg : Bool) (m : Nat) (e : Int) : Nat × BitVec 5 :=
  if m = 0 || 0 ≤ e then (f.signed neg 0, 0)
  else
    let a := fxOf m e % (2 * fxOne)
    if a % fxOne = 0 then (f.signed neg 0, 0) else sinTurn f r neg a

/-- cos πx for a finite x: (−1)^n for an integer n, +0 for n + ½ (R225). -/
def cosFin (f : Fmt) (r : Round) (m : Nat) (e : Int) : Nat × BitVec 5 :=
  let a := if m = 0 then 0 else if 1 ≤ e then 0 else fxOf m e % (2 * fxOne)
  let c := (a + fxOne / 2) % (2 * fxOne)
  if c % fxOne = 0 then (f.signed false 0, 0) else sinTurn f r false c

/-- The functions of R225 with one operand, and f.sqrt (R221). -/
inductive Fn where
  | rcp | rsq | sqrt | exp2 | log2 | sin | cos
  deriving DecidableEq, Repr

/-- An infinity that an operation delivers from finite operands or an infinite one: ±max with SAT (R221). -/
def Fmt.infinity (f : Fmt) (r : Round) (neg : Bool) : Nat := (f.roundInf r neg).1

/-- A function of R225 on a code, rounded once, with its flags; the special operands as the table gives them. -/
def Fn.apply (fn : Fn) (f : Fmt) (r : Round) (code : Nat) : Nat × BitVec 5 :=
  let x := f.decode code
  let bad : Nat × BitVec 5 := (f.nan.getD 0, Flag.nv)
  match x with
  | .nan s => f.roundNan s
  | .inf neg =>
    match fn with
    | .rcp => (f.signed neg 0, 0)
    | .rsq => if neg then bad else (f.signed false 0, 0)
    | .sqrt => if neg then bad else (f.infinity r false, 0)
    | .exp2 => if neg then (f.signed false 0, 0) else (f.infinity r false, 0)
    | .log2 => if neg then bad else (f.infinity r false, 0)
    | .sin | .cos => bad
  | .fin neg m e =>
    match fn with
    | .rcp =>
      if m = 0 then (f.infinity r neg, Flag.dz)
      else let (q, k, st) := quotient 1 0 m e; f.roundFin r neg q k st
    | .rsq =>
      if m = 0 then (f.infinity r neg, Flag.dz)
      else if neg then bad
      else let (q, k, st) := recipSqrt m e; f.roundFin r false q k st
    | .sqrt =>
      if m = 0 then (code, 0)
      else if neg then bad
      else let (q, k, st) := squareRoot m e; f.roundFin r false q k st
    | .exp2 => exp2Fin f r neg m e
    | .log2 =>
      if m = 0 then (f.infinity r true, Flag.dz)
      else if neg then bad
      else log2Fin f r m e
    | .sin => sinFin f r neg m e
    | .cos => cosFin f r m e

/-- f.div (R221, R225). -/
def Fmt.div (f : Fmt) (r : Round) (cx cy : Nat) : Nat × BitVec 5 :=
  match f.decode cx, f.decode cy with
  | .nan a, .nan b => f.roundNan (a || b)
  | .nan a, _ => f.roundNan a
  | _, .nan b => f.roundNan b
  | .inf _, .inf _ => (f.nan.getD 0, Flag.nv)
  | .inf a, .fin b _ _ => (f.infinity r (a != b), 0)
  | .fin a _ _, .inf b => (f.signed (a != b) 0, 0)
  | .fin a m1 e1, .fin b m2 e2 =>
    if m2 = 0 then (if m1 = 0 then (f.nan.getD 0, Flag.nv) else (f.infinity r (a != b), Flag.dz))
    else if m1 = 0 then (f.signed (a != b) 0, 0)
    else let (q, k, st) := quotient m1 e1 m2 e2; f.roundFin r (a != b) q k st

end Sys2Proof
end

