-- ==== Sys2Proof/Machine/Vector.lean ====
section
/-! DEFINITION. The v class: per-thread integer instructions (R214 to R219), and the counter-based generator (R183). -/

namespace Sys2Proof.Machine

/-- A per-thread result: vD of each passing thread (R205, R214). -/
def vectorOp (h : Hdr) (len : Nat) (wide : Bool) (rd : List Use) (d : RegNo) (s : State) (f : Iss → Nat → Nat) :
    Host.Outcome State Fault Refusal :=
  issue .wave h len { rd := rd, wr := [.v d (if wide then 2 else 1)] } s (fun is s =>
    pure (s.wrV is wide d (is.p.list.map (fun i => (i, f is i)))))

/-- The form vD, vA, src. -/
def vectorBin (h : Hdr) (t : TField) (d a : RegNo) (src : Src) (s : State) (f : Nat → Nat → Nat) :
    Host.Outcome State Fault Refusal :=
  let n := t.ty.regs
  vectorOp h 8 t.ty.is64 (.v a n :: srcUseV n src) d s (fun is i => f (is.vw t.ty.is64 a i) (is.srcV t.ty.is64 i src))

/-- The form vD, vA. -/
def vectorUn (h : Hdr) (t : TField) (d a : RegNo) (s : State) (f : Nat → Nat) : Host.Outcome State Fault Refusal :=
  vectorOp h 8 t.ty.is64 [.v a t.ty.regs] d s (fun is i => f (is.vw t.ty.is64 a i))

/-- The form with an exact integer result (R215). -/
def vectorExact (h : Hdr) (t : TField) (d a : RegNo) (src : Src) (s : State) (f : Int → Int → Int) :
    Host.Outcome State Fault Refusal :=
  vectorBin h t d a src s (fun x y => t.ty.intCode t.sat (f (t.ty.intOf x) (t.ty.intOf y)))

/-- v.mov (R215). -/
def execVMov (h : Hdr) (t : TField) (d a : RegNo) (s : State) := vectorUn h t d a s id
/-- v.movs (R215). -/
def execVMovs (h : Hdr) (t : TField) (d a : RegNo) (s : State) :=
  vectorOp h 8 t.ty.is64 [.s a] d s (fun is _ => (is.s a).toNat % 2 ^ t.ty.bits)
/-- v.movi (R215). -/
def execVMovi (h : Hdr) (_t : TField) (d : RegNo) (imm : BitVec 32) (s : State) :=
  vectorOp h 12 false [] d s (fun _ _ => imm.toNat)
/-- v.add (R215). -/
def execVAdd (h : Hdr) (t : TField) (d a : RegNo) (src : Src) (s : State) := vectorExact h t d a src s (· + ·)
/-- v.sub (R215). -/
def execVSub (h : Hdr) (t : TField) (d a : RegNo) (src : Src) (s : State) := vectorExact h t d a src s (· - ·)
/-- v.mul: lo, or the high half (R215). -/
def execVMul (h : Hdr) (sub : BitVec 2) (t : TField) (d a : RegNo) (src : Src) (s : State) :=
  if sub = 0 then vectorExact h t d a src s (· * ·)
  else vectorBin h t d a src s (fun x y => t.ty.wrap (t.ty.intOf x * t.ty.intOf y / 2 ^ 32))
/-- v.mad (R215). -/
def execVMad (h : Hdr) (t : TField) (d a b c : RegNo) (s : State) :=
  let n := t.ty.regs
  let w := t.ty.is64
  vectorOp h 8 w [.v a n, .v b n, .v c n] d s (fun is i =>
    t.ty.intCode t.sat (t.ty.intOf (is.vw w a i) * t.ty.intOf (is.vw w b i) + t.ty.intOf (is.vw w c i)))
/-- v.and (R215). -/
def execVAnd (h : Hdr) (t : TField) (d a : RegNo) (src : Src) (s : State) := vectorBin h t d a src s (· &&& ·)
/-- v.or (R215). -/
def execVOr (h : Hdr) (t : TField) (d a : RegNo) (src : Src) (s : State) := vectorBin h t d a src s (· ||| ·)
/-- v.xor (R215). -/
def execVXor (h : Hdr) (t : TField) (d a : RegNo) (src : Src) (s : State) := vectorBin h t d a src s (· ^^^ ·)
/-- The amount of a vector shift: the low 5 bits, or 6 for i64 (R215). -/
def shiftAmount (t : TField) (y : Nat) : Nat := y % t.ty.bits
/-- v.shl (R215). -/
def execVShl (h : Hdr) (t : TField) (d a : RegNo) (src : Src) (s : State) :=
  vectorBin h t d a src s (fun x y => (x <<< shiftAmount t y) % 2 ^ t.ty.bits)
/-- v.shr (R215). -/
def execVShr (h : Hdr) (t : TField) (d a : RegNo) (src : Src) (s : State) :=
  vectorBin h t d a src s (fun x y => x >>> shiftAmount t y)
/-- v.sra (R215). -/
def execVSra (h : Hdr) (t : TField) (d a : RegNo) (src : Src) (s : State) :=
  vectorBin h t d a src s (fun x y => t.ty.wrap (toSigned t.ty.bits x / 2 ^ shiftAmount t y))
/-- v.min (R215). -/
def execVMin (h : Hdr) (t : TField) (d a : RegNo) (src : Src) (s : State) :=
  vectorBin h t d a src s (fun x y => if t.ty.intOf x ≤ t.ty.intOf y then x else y)
/-- v.max (R215). -/
def execVMax (h : Hdr) (t : TField) (d a : RegNo) (src : Src) (s : State) :=
  vectorBin h t d a src s (fun x y => if t.ty.intOf x ≤ t.ty.intOf y then y else x)
/-- v.abs: the most negative value gives itself, or with SAT the largest (R215). -/
def execVAbs (h : Hdr) (t : TField) (d a : RegNo) (s : State) :=
  vectorUn h t d a s (fun x => t.ty.intCode t.sat (t.ty.intOf x).natAbs)

/-- The conditions of v.cmp (R216). -/
def condV (cond : BitVec 4) (x y : Int) : Bool :=
  match cond.toNat with
  | 0 => x == y
  | 1 => x != y
  | 2 => x < y
  | 3 => x ≤ y
  | 4 => y < x
  | _ => y ≤ x

/-- kD after a compare: the passing threads' bits, the others zero or kept (R216). -/
def cmpMask (sub : BitVec 2) (old p hits : Lanes) : Lanes := if sub = 0 then hits else (old &&& ~~~p) ||| hits

/-- v.cmp (R216). -/
def execVCmp (h : Hdr) (sub : BitVec 2) (t : TField) (d a b : RegNo) (cond : BitVec 4) (s : State) :=
  let n := t.ty.regs
  let w := t.ty.is64
  issue .wave h 8 { rd := [.v a n, .v b n], wr := [.k d] } s (fun is s =>
    let hits := lanesOf (is.p.list.filter (fun i => condV cond (t.ty.intOf (is.vw w a i)) (t.ty.intOf (is.vw w b i))))
    pure (s.wrK is d (cmpMask sub (is.c.kget d.toNat) is.p hits)))
/-- v.sel (R216). -/
def execVSel (h : Hdr) (t : TField) (d a b c : RegNo) (s : State) :=
  let n := t.ty.regs
  let w := t.ty.is64
  vectorOp h 8 w [.v a n, .v b n, .k c] d s (fun is i => if (is.k c).getLsbD i then is.vw w a i else is.vw w b i)
/-- v.clz (R215). -/
def execVClz (h : Hdr) (t : TField) (d a : RegNo) (s : State) := vectorUn h t d a s (clz 32)
/-- v.popc (R215). -/
def execVPopc (h : Hdr) (t : TField) (d a : RegNo) (s : State) := vectorUn h t d a s (popc 32)
/-- v.bfx on 32 bits: position F[4:0], length F[12:8] + 1 (R215). -/
def execVBfx (h : Hdr) (sub : BitVec 2) (t : TField) (d a : RegNo) (src : Src) (s : State) :=
  vectorBin h t d a src s (fun x f => bitField 32 (sub = 1) x (bits f 0 5) (bits f 8 5 + 1))

/-- A byte of a word as an integer. -/
def byteInt (signed : Bool) (v j : Nat) : Int :=
  let b := bits v (8 * j) 8
  if signed then toSigned 8 b else (b : Int)

/-- v.dot4 (R217). -/
def execVDot4 (h : Hdr) (sub : BitVec 2) (t : TField) (d a b c : RegNo) (s : State) :=
  vectorOp h 8 false [.v a 1, .v b 1, .v c 1] d s (fun is i =>
    let x := (is.v a i).toNat
    let y := (is.v b i).toNat
    let dot := ((List.range 4).map (fun j => byteInt (sub.getLsbD 0) x j * byteInt (sub.getLsbD 1) y j)).sum
    Ty.intCode .b32 t.sat ((is.v c i).toInt + dot))
/-- v.lid: the lane id, or the lane id within the team (R218). -/
def execVLid (h : Hdr) (sub : BitVec 2) (d : RegNo) (s : State) :=
  vectorOp h 8 false [] d s (fun is i => if sub = 0 then i else i + 64 * is.c.widx)

/-- rand32 of R183: the value for a key, a counter and a lane. -/
def rand32 (key ctr : W64) (lane : Nat) : W32 :=
  let x := key + ctr * 0x9E3779B97F4A7C15 + BitVec.ofNat 64 lane * 0xD1B54A32D192ED03
  let z := (x ^^^ (x >>> 30)) * 0xBF58476D1CE4E5B9
  let z := (z ^^^ (z >>> 27)) * 0x94D049BB133111EB
  (z ^^^ (z >>> 31)).extractLsb' 0 32

/-- v.rand; RNGCTR advances once where a thread passes (R218). -/
def execVRand (h : Hdr) (d : RegNo) (s : State) :=
  issue .wave h 8 { rd := [], wr := [.v d 1] } s (fun is s =>
    let s := s.wrV is false d (is.p.list.map (fun i => (i, (rand32 is.c.rngkey is.c.rngctr i).toNat)))
    pure (s.upd is (fun c => { c with rngctr := is.c.rngctr + 1 })))
/-- v.rdflag (R219). -/
def execVRdflag (h : Hdr) (d : RegNo) (s : State) :=
  vectorOp h 8 false [] d s (fun is i => (is.c.flag i).toNat)
/-- v.clrflag: flags selected by IMM16[4:0] or the thread's vB[4:0] fall (R219). -/
def execVClrflag (h : Hdr) (src : Src) (s : State) :=
  issue .wave h 8 { rd := srcUseV 1 src, wr := [] } s (fun is s =>
    pure (s.upd is (fun c => is.p.list.foldl (fun c i =>
      { c with flags := AMap.set 0 c.flags i (c.flag i &&& ~~~(BitVec.ofNat 5 (is.srcV false i src))) }) c)))

end Sys2Proof.Machine
end

