-- ==== Sys2Proof/Machine/Float.lean ====
section
/-! DEFINITION. The f class: per-thread floating-point arithmetic (R220 to R225), the conversions (R189 to R191) and f.amax
(R193). -/

namespace Sys2Proof.Machine

/-- How an instruction's element j of a lane is rounded: RND, or DRND with DYN = 1 and SR = 0, or the generator's value at
counter C + j (R182, R183, R198). -/
def Iss.round (is : Iss) (t : TField) (lane j : Nat) : Round :=
  let dyn := !t.sr && is.c.rmode.getLsbD 2
  { rnd := if dyn then .ofCode (is.c.rmode.extractLsb' 0 2) else t.rnd, sat := t.sat,
    rv := if t.sr then some (rand32 is.c.rngkey (is.c.rngctr + BitVec.ofNat 64 j) lane).toNat else none }

/-- The element codes of an operand: two of f16 and bf16, else one (R220). -/
def elems (ty : Ty) (v : Nat) : List Nat := if ty.bits = 16 then [bits v 0 16, bits v 16 16] else [v]
/-- The operand of element codes (R220). -/
def joinElems (ty : Ty) (l : List Nat) : Nat := l.foldr (fun x acc => x % 2 ^ ty.bits + 2 ^ ty.bits * acc) 0

/-- The flags of a list of results, together. -/
def orFlags (l : List (Nat × BitVec 5)) : BitVec 5 := l.foldl (fun f e => f ||| e.2) 0

/-- Raise sticky flags in lanes (R184). -/
def Ctx.raiseAll (c : Ctx) (fl : List (Nat × BitVec 5)) : Ctx := fl.foldl (fun c e => c.raiseFlags e.1 e.2) c
/-- The lanes whose flags are enabled, and the OR of those flags (R386). -/
def enabled (fpen : BitVec 5) (fl : List (Nat × BitVec 5)) : Lanes × BitVec 5 :=
  let hit := fl.filter (fun e => e.2 &&& fpen != 0)
  (lanesOf (hit.map (·.1)), hit.foldl (fun f e => f ||| (e.2 &&& fpen)) 0)

/-- Completion of an f-class instruction: flags, the next PC, and a user trap where an enabled flag was raised (R385,
R386). -/
def State.finishFloat (s : State) (is : Iss) (dst : BitVec 8) (fl : List (Nat × BitVec 5)) : State :=
  let s := (s.upd is (fun c => c.raiseAll fl)).advance is
  let (lanes, cause) := enabled is.c.fpen fl
  if lanes = 0 then s else s.userTrap is.a is.fid is.pc (is.pc + BitVec.ofNat 64 is.len) lanes cause dst false

/-- RNGCTR advances by the number of values that each thread rounds stochastically (R183). -/
def State.stepRng (s : State) (is : Iss) (t : TField) (k : Nat) : State :=
  if t.sr then s.upd is (fun c => { c with rngctr := is.c.rngctr + BitVec.ofNat 64 k }) else s

/-- An element-wise result of one to three operands: the elements computed apart, their flags together (R220). -/
def floatOp (h : Hdr) (t : TField) (d : RegNo) (srcs : List RegNo) (s : State)
    (f : Round → List Nat → Nat × BitVec 5) : Host.Outcome State Fault Refusal :=
  let n := t.ty.regs
  let w := t.ty.is64
  issueRaw .wave h 8 { rd := srcs.map (fun r => .v r n), wr := [.v d n] } s (fun is s =>
    let res := is.p.list.map (fun i =>
      let ops := srcs.map (fun r => elems t.ty (is.vw w r i))
      let k := if t.ty.bits = 16 then 2 else 1
      let rs := (List.range k).map (fun j => f (is.round t i j) (ops.map (fun l => l.getD j 0)))
      (i, joinElems t.ty (rs.map (·.1)), orFlags rs))
    let s := (s.wrV is w d (res.map (fun e => (e.1, e.2.1)))).stepRng is t (if t.ty.bits = 16 then 2 else 1)
    pure (s.finishFloat is d (res.map (fun e => (e.1, e.2.2)))))

/-- A value operation with two operands rounded once into the type (R221). -/
def floatBin (h : Hdr) (t : TField) (d a b : RegNo) (s : State) (f : Rnd → Val → Val → Val × BitVec 5) :
    Host.Outcome State Fault Refusal :=
  floatOp h t d [a, b] s (fun r l =>
    let fm := t.ty.fmt
    let (v, fl) := f r.rnd (fm.decode (l.getD 0 0)) (fm.decode (l.getD 1 0))
    let (c, fl') := fm.roundVal r v
    (c, fl ||| fl'))

/-- f.add (R221). -/
def execFAdd (h : Hdr) (t : TField) (d a b : RegNo) (s : State) := floatBin h t d a b s Val.add
/-- f.sub (R221). -/
def execFSub (h : Hdr) (t : TField) (d a b : RegNo) (s : State) := floatBin h t d a b s (fun r x y => x.add r y.neg)
/-- f.mul (R221). -/
def execFMul (h : Hdr) (t : TField) (d a b : RegNo) (s : State) := floatBin h t d a b s (fun _ x y => x.mul y)
/-- f.fma (R221). -/
def execFFma (h : Hdr) (t : TField) (d a b c : RegNo) (s : State) :=
  floatOp h t d [a, b, c] s (fun r l =>
    let fm := t.ty.fmt
    let (v, fl) := Val.fma r.rnd (fm.decode (l.getD 0 0)) (fm.decode (l.getD 1 0)) (fm.decode (l.getD 2 0))
    let (x, fl') := fm.roundVal r v
    (x, fl ||| fl'))
/-- f.min (R222). -/
def execFMin (h : Hdr) (sub : BitVec 2) (t : TField) (d a b : RegNo) (s : State) :=
  floatOp h t d [a, b] s (fun _ l => t.ty.fmt.minMax false (sub = 1) (l.getD 0 0) (l.getD 1 0))
/-- f.max (R222). -/
def execFMax (h : Hdr) (sub : BitVec 2) (t : TField) (d a b : RegNo) (s : State) :=
  floatOp h t d [a, b] s (fun _ l => t.ty.fmt.minMax true (sub = 1) (l.getD 0 0) (l.getD 1 0))
/-- f.cmp (R223). -/
def execFCmp (h : Hdr) (sub : BitVec 2) (t : TField) (d a b : RegNo) (cond : BitVec 4) (s : State) :=
  let n := t.ty.regs
  let w := t.ty.is64
  issueRaw .wave h 8 { rd := [.v a n, .v b n], wr := [.k d] } s (fun is s =>
    let res := is.p.list.map (fun i => (i, t.ty.fmt.cmp cond.toNat (is.vw w a i) (is.vw w b i)))
    let hits := lanesOf ((res.filter (fun e => e.2.1)).map (·.1))
    let s := s.wrK is d (cmpMask sub (is.c.kget d.toNat) is.p hits)
    pure (s.finishFloat is d (res.map (fun e => (e.1, e.2.2)))))
/-- f.cls: one register, no flag (R224). -/
def execFCls (h : Hdr) (t : TField) (d a : RegNo) (s : State) :=
  vectorOp h 8 false [.v a t.ty.regs] d s (fun is i => t.ty.fmt.cls (is.vw t.ty.is64 a i))

/-- A long-latency function of R225: the result is outstanding in XC; with any trap enabled it issues trap-safe and its flags
rise as it completes (R204, R386), else they rise at issue (R407; DEDUCED, log 127). -/
def floatLong (h : Hdr) (t : TField) (d : RegNo) (srcs : List RegNo) (s : State)
    (f : Round → List Nat → Nat × BitVec 5) : Host.Outcome State Fault Refusal :=
  let n := t.ty.regs
  let w := t.ty.is64
  issue .wave h 8 { rd := srcs.map (fun r => .v r n), wr := [.v d n] } s (fun is s => do
    is.room .xc
    let res := is.p.list.map (fun i => (i, f (is.round t i 0) (srcs.map (fun r => is.vw w r i))))
    let fl := res.map (fun e => (e.1, e.2.2))
    let (id, s) := s.fresh
    let s := if is.c.fpen = 0 then s.upd is (·.raiseAll fl) else s
    pure (s.addPend is.a { Pend.blank id .xc is with
      writes := (is.vWrites w d (res.map (fun e => (e.1, e.2.1)))).map (fun e => { reg := .v e.1 e.2.1, val := some e.2.2.toNat })
      flags := if is.c.fpen = 0 then [] else fl
      fwd := true
      trap := if is.c.fpen = 0 then none else some { frag := is.fid, len := is.len, d := d.toNat } }))

/-- A function of one operand. -/
def floatFn (h : Hdr) (t : TField) (d a : RegNo) (s : State) (fn : Fn) : Host.Outcome State Fault Refusal :=
  floatLong h t d [a] s (fun r l => fn.apply t.ty.fmt r (l.getD 0 0))

/-- f.rcp (R225). -/
def execFRcp (h : Hdr) (t : TField) (d a : RegNo) (s : State) := floatFn h t d a s .rcp
/-- f.rsq (R225). -/
def execFRsq (h : Hdr) (t : TField) (d a : RegNo) (s : State) := floatFn h t d a s .rsq
/-- f.sqrt (R221, R225). -/
def execFSqrt (h : Hdr) (t : TField) (d a : RegNo) (s : State) := floatFn h t d a s .sqrt
/-- f.div (R221, R225). -/
def execFDiv (h : Hdr) (t : TField) (d a b : RegNo) (s : State) :=
  floatLong h t d [a, b] s (fun r l => t.ty.fmt.div r (l.getD 0 0) (l.getD 1 0))
/-- f.exp2 (R225). -/
def execFExp2 (h : Hdr) (t : TField) (d a : RegNo) (s : State) := floatFn h t d a s .exp2
/-- f.log2 (R225). -/
def execFLog2 (h : Hdr) (t : TField) (d a : RegNo) (s : State) := floatFn h t d a s .log2
/-- f.sin (R225). -/
def execFSin (h : Hdr) (t : TField) (d a : RegNo) (s : State) := floatFn h t d a s .sin
/-- f.cos (R225). -/
def execFCos (h : Hdr) (t : TField) (d a : RegNo) (s : State) := floatFn h t d a s .cos

/-- A converted code as its register holds it: i8 sign-extended, other narrow results zero-extended (R190). -/
def widen (ty : Ty) (code : Nat) : Nat := if ty = .i8 then Ty.wrap .b32 (toSigned 8 code) else code

/-- f.cvt (R190). -/
def execFCvt (h : Hdr) (t : TField) (d a : RegNo) (sty : Ty) (s : State) :=
  issueRaw .wave h 8 { rd := [.v a sty.regs], wr := [.v d t.ty.regs] } s (fun is s =>
    let res := is.p.list.map (fun i => (i, convert sty t.ty (is.round t i 0) 0 (is.vw sty.is64 a i % 2 ^ sty.bits)))
    let s := (s.wrV is t.ty.is64 d (res.map (fun e => (e.1, widen t.ty e.2.1)))).stepRng is t 1
    pure (s.finishFloat is d (res.map (fun e => (e.1, e.2.2)))))

/-- The bits of a packed group in m consecutive registers of a lane, lowest register first (R176). -/
def Iss.group (is : Iss) (a : RegNo) (m lane : Nat) : Nat :=
  (List.range m).foldr (fun j acc => (is.vj a j lane).toNat + 2 ^ 32 * acc) 0
/-- Writes of a number to m consecutive registers of a lane. -/
def Iss.groupWrites (is : Iss) (d : RegNo) (m lane v : Nat) : List (Nat × Nat × W32) :=
  (List.range m).map (fun j => (is.phys (d.toNat + j) lane, lane, BitVec.ofNat 32 (bits v (32 * j) 32)))

/-- f.pack: k values into m registers, all sources read first (R191). -/
def execFPack (h : Hdr) (t : TField) (d a : RegNo) (sty : Ty) (esc : BitVec 8) (s : State) :=
  let k := t.ty.groupK
  let m := t.ty.groupM
  let w := t.ty.bits
  issueRaw .wave h 12 { rd := [.v a k], wr := [.v d m] } s (fun is s =>
    let res := is.p.list.map (fun i =>
      let es := (List.range k).map (fun j =>
        convert sty t.ty (is.round t i j) esc.toInt ((is.vj a j i).toNat % 2 ^ sty.bits))
      (i, es.foldr (fun e acc => e.1 % 2 ^ w + 2 ^ w * acc) 0, orFlags es))
    let s := (s.upd is (fun c => c.wrVs (res.flatMap (fun e => is.groupWrites d m e.1 e.2.1)))).stepRng is t k
    pure (s.finishFloat is d (res.map (fun e => (e.1, e.2.2)))))

/-- f.unpack: k values from m registers, all sources read first (R191). -/
def execFUnpack (h : Hdr) (t : TField) (d a : RegNo) (sty : Ty) (esc : BitVec 8) (s : State) :=
  let k := sty.groupK
  let m := sty.groupM
  let w := sty.bits
  issueRaw .wave h 12 { rd := [.v a m], wr := [.v d k] } s (fun is s =>
    let res := is.p.list.map (fun i =>
      let g := is.group a m i
      let es := (List.range k).map (fun j => convert sty t.ty (is.round t i j) esc.toInt (bits g (w * j) w))
      (i, es))
    let writes := res.flatMap (fun e => (List.range k).map (fun j =>
      (is.phys (d.toNat + j) e.1, e.1, BitVec.ofNat 32 (e.2.getD j (0, 0)).1)))
    let s := (s.upd is (fun c => c.wrVs writes)).stepRng is t k
    pure (s.finishFloat is d (res.map (fun e => (e.1, orFlags e.2)))))

/-- An amax contribution of one element code: NAN in bit 31, or the magnitude as the bits of a non-negative f32 (R192,
R193). -/
def amaxOf (ty : Ty) (code : Nat) : Nat :=
  match ty.fmt.decode code with
  | .nan _ => 2 ^ 31
  | .inf _ => 0x7F800000
  | .fin _ m e => (Fmt.roundFin (Ty.fmt .f32) .rne false m e false).1
/-- Two amax words together: NAN in either, and the larger magnitude (R193). -/
def amaxJoin (x y : W32) : W32 :=
  let n := (x ||| y) &&& 0x80000000
  let a := x &&& 0x7FFFFFFF
  let b := y &&& 0x7FFFFFFF
  n ||| (if a.ult b then b else a)

/-- The entry number of an amax operand: IMM16, or sB[5:0] (R189, R257). -/
def Iss.amaxEntry (is : Iss) : Src → Nat
  | .imm v => v.toNat
  | .reg r => bits (is.s r).toNat 0 6

/-- f.amax: the update is on its way to the table, counted in EC until it is applied (R193). -/
def execFAmax (h : Hdr) (t : TField) (a : RegNo) (src : Src) (s : State) :=
  issue .wave h 8 { rd := .v a t.ty.regs :: srcUseS src, wr := [] } s (fun is s => do
    is.room .ec
    let w := is.p.list.foldl (fun acc i => (elems t.ty (is.v a i).toNat).foldl (fun acc x =>
      amaxJoin acc (BitVec.ofNat 32 (amaxOf t.ty x))) acc) (0 : W32)
    let (id, s) := s.fresh
    let s := s.addPend is.a (Pend.blank id .ec is)
    pure (s.mapQuad (quadOf is.a) (fun q => { q with amaxQ := q.amaxQ ++ [(id, is.a, id, is.amaxEntry src, w)] })))

end Sys2Proof.Machine
end

