-- ==== Sys2Proof/Machine/Cross.lean ====
section
/-! DEFINITION. The x class: cross-lane instructions, all long-latency and counted in XC (R226 to R232), and the log-step
order of reductions (R188). -/

namespace Sys2Proof.Machine

/-- A combine of x.red and x.scan by OPR on element codes, with the flags of a floating combine (R188, R231). -/
def combine (ty : Ty) (opr : BitVec 3) (x y : Nat) : Nat × BitVec 5 :=
  if ty.isFp then
    let f := ty.fmt
    match opr.toNat with
    | 0 =>
      let (v, fl) := Val.add .rn (f.decode x) (f.decode y)
      let (c, fl') := f.roundVal .rne v
      (c, fl ||| fl')
    | 1 => f.minMax false false x y
    | _ => f.minMax true false x y
  else
    match opr.toNat with
    | 0 => ((x + y) % 2 ^ ty.bits, 0)
    | 1 => (if ty.intOf x ≤ ty.intOf y then x else y, 0)
    | 2 => (if ty.intOf x ≤ ty.intOf y then y else x, 0)
    | 3 => (x &&& y, 0)
    | 4 => (x ||| y, 0)
    | _ => (x ^^^ y, 0)

/-- The identity of a combine (R188). -/
def identity (ty : Ty) (opr : BitVec 3) : Nat :=
  match opr.toNat with
  | 1 => if ty.isFp then ty.fmt.infMag else ty.wrap ty.hi
  | 2 => if ty.isFp then ty.fmt.signed true ty.fmt.infMag else ty.wrap ty.lo
  | 3 => 2 ^ ty.bits - 1
  | _ => 0

/-- One step of the log-step reduction: neighbours combined in pairs (R188). -/
def redPairs (ty : Ty) (opr : BitVec 3) : List Nat → List Nat × BitVec 5
  | x :: y :: l =>
    let (c, f) := combine ty opr x y
    let (r, g) := redPairs ty opr l
    (c :: r, f ||| g)
  | l => (l, 0)
/-- The log-step reduction of a list of 2^k values, with the flags of its combines (R188). -/
def reduce (ty : Ty) (opr : BitVec 3) : Nat → List Nat → BitVec 5 → Nat × BitVec 5
  | 0, l, f => (l.headD 0, f)
  | k + 1, l, f => let (r, g) := redPairs ty opr l; reduce ty opr k r (f ||| g)

/-- One step of the scan at distance 2^s: every value from 2^s on combined with the one 2^s before it, all read before
any is written (R231). -/
def scanStep (ty : Ty) (opr : BitVec 3) (s : Nat) (l : List Nat) : List Nat × BitVec 5 :=
  let dlt := 2 ^ s
  let r := (l.zip (List.replicate dlt 0 ++ l)).zipIdx.map (fun e =>
    if e.2 < dlt then (e.1.1, (0 : BitVec 5)) else combine ty opr e.1.2 e.1.1)
  (r.map (·.1), orFlags r)
/-- The scan over the steps of a list, with its flags. -/
def scanAll (ty : Ty) (opr : BitVec 3) : List Nat → List Nat → BitVec 5 → List Nat × BitVec 5
  | [], l, f => (l, f)
  | s :: ss, l, f => let (r, g) := scanStep ty opr s l; scanAll ty opr ss r (f ||| g)

/-- The values of the 64 lanes for a combine: a passing lane's operand, else the identity (R188, R231). -/
def Iss.laneVals (is : Iss) (ty : Ty) (opr : BitVec 3) (a : RegNo) : List Nat :=
  (List.range 64).map (fun i => if is.p.getLsbD i then is.vw ty.is64 a i else identity ty opr)

/-- The source lane of x.shfl, or none where it is out of range (R228). -/
def shflLane (sub : BitVec 2) (i o : Nat) : Option Nat :=
  match sub.toNat with
  | 0 => some (o % 64)
  | 1 => if o ≤ i then some (i - o) else none
  | 2 => if i + o < 64 then some (i + o) else none
  | _ => if i ^^^ o < 64 then some (i ^^^ o) else none

/-- The offset or index of x.shfl: vB, IMM16[14:0], or W >> IMM16[3:0] (R228). -/
def Iss.shflOff (is : Iss) (lane : Nat) : Src → Nat
  | .reg r => (is.v r lane).toNat
  | .imm v => if v.getLsbD 15 then 64 >>> bits v.toNat 0 4 else bits v.toNat 0 15

/-- x.shfl (R228). -/
def execXShfl (h : Hdr) (sub : BitVec 2) (t : TField) (d a : RegNo) (src : Src) (s : State) :=
  let n := t.ty.regs
  let w := t.ty.is64
  issue .wave h 8 { rd := .x a n :: srcUseV n src, wr := [.v d n] } s (fun is s =>
    s.pendV is .xc w d (is.p.list.map (fun i => (i, is.vw w a ((shflLane sub i (is.shflOff i src)).getD i)))))
/-- x.bcast (R229). -/
def execXBcast (h : Hdr) (t : TField) (d a : RegNo) (src : Src) (s : State) :=
  let n := t.ty.regs
  let w := t.ty.is64
  issue .wave h 8 { rd := .x a n :: srcUseS src, wr := [.v d n] } s (fun is s =>
    s.pendV is .xc w d (is.p.list.map (fun i => (i, is.vw w a ((is.srcS src).toNat % 64)))))

/-- The result of x.vote over the passing threads (R230). -/
def voteResult (sub : BitVec 2) (p k : Lanes) : W64 :=
  match sub.toNat with
  | 0 => p &&& k
  | 1 => if p &&& k = 0 then 0 else 1
  | 2 => if p &&& ~~~k = 0 then 1 else 0
  | _ => if p &&& k = 0 || p &&& ~~~k = 0 then 1 else 0

/-- A scalar result of a mask over the passing threads, also for the empty set (R230). -/
def crossMask (h : Hdr) (d a : RegNo) (s : State) (f : Lanes → Lanes → W64) : Host.Outcome State Fault Refusal :=
  issue { Perm.wave with onEmpty := true } h 8 { rd := [.k a], wr := [.s d] } s (fun is s =>
    s.pendS is .xc d (f is.p (is.k a)))

/-- x.vote (R230). -/
def execXVote (h : Hdr) (sub : BitVec 2) (d a : RegNo) (s : State) := crossMask h d a s (voteResult sub)
/-- x.cnt (R230). -/
def execXCnt (h : Hdr) (d a : RegNo) (s : State) :=
  crossMask h d a s (fun p k => BitVec.ofNat 64 (popc 64 (p &&& k).toNat))
/-- x.first (R230). -/
def execXFirst (h : Hdr) (d a : RegNo) (s : State) :=
  crossMask h d a s (fun p k =>
    match lowest (p &&& k).toNat 64 with
    | some i => BitVec.ofNat 64 i
    | none => BitVec.allOnes 64)

/-- A reduction's value as the scalar register holds it (R231). -/
def redScalar (ty : Ty) (v : Nat) : W64 :=
  if ty = .b32 then (BitVec.ofNat 32 v).signExtend 64 else BitVec.ofNat 64 (v % 2 ^ ty.bits)

/-- x.red (R231). -/
def execXRed (h : Hdr) (t : TField) (d a : RegNo) (opr : BitVec 3) (s : State) :=
  issue { Perm.wave with onEmpty := true } h 8 { rd := [.x a t.ty.regs], wr := [.s d] } s (fun is s => do
    is.room .xc
    let (v, fl) := reduce t.ty opr 6 (is.laneVals t.ty opr a) 0
    let (id, s) := s.fresh
    pure (s.addPend is.a { Pend.blank id .xc is with
      writes := [{ reg := .s d.toNat, val := some (redScalar t.ty v).toNat }]
      flags := if fl = 0 then [] else is.p.list.map (fun i => (i, fl)) }))
/-- x.scan (R231). -/
def execXScan (h : Hdr) (sub : BitVec 2) (t : TField) (d a : RegNo) (opr : BitVec 3) (s : State) :=
  let n := t.ty.regs
  let w := t.ty.is64
  issue .wave h 8 { rd := [.x a n], wr := [.v d n] } s (fun is s => do
    is.room .xc
    let (l, fl) := scanAll t.ty opr (List.range 6) (is.laneVals t.ty opr a) 0
    let vals := is.p.list.map (fun i =>
      (i, if sub = 0 then l.getD i 0 else if i = 0 then identity t.ty opr else l.getD (i - 1) 0))
    let (id, s) := s.fresh
    pure (s.addPend is.a { Pend.blank id .xc is with
      writes := (is.vWrites w d vals).map (fun e => { reg := .v e.1 e.2.1, val := some e.2.2.toNat })
      flags := if fl = 0 then [] else is.p.list.map (fun i => (i, fl)) }))

/-- The bytes that x.prmt selects (R232). -/
def permute (va vb vc : W32) : W32 :=
  let src := va.toNat + 2 ^ 32 * vb.toNat
  BitVec.ofNat 32 ((List.range 4).foldr (fun j acc =>
    let c := bits vc.toNat (4 * j) 4
    let b := bits src (8 * (c % 8)) 8
    (if 8 ≤ c then (if b.testBit 7 then 0xFF else 0) else b) + 256 * acc) 0)

/-- x.prmt (R232). -/
def execXPrmt (h : Hdr) (d a b c : RegNo) (s : State) :=
  issue .wave h 8 { rd := [.v a 1, .v b 1, .v c 1], wr := [.v d 1] } s (fun is s =>
    s.pendV is .xc false d (is.p.list.map (fun i => (i, (permute (is.v a i) (is.v b i) (is.v c i)).toNat))))
/-- x.rdlane (R229). -/
def execXRdlane (h : Hdr) (t : TField) (d a : RegNo) (src : Src) (s : State) :=
  issue .wave h 8 { rd := .x a t.ty.regs :: srcUseS src, wr := [.s d] } s (fun is s =>
    s.pendS is .xc d (BitVec.ofNat 64 (is.vw t.ty.is64 a ((is.srcS src).toNat % 64))))
/-- x.wrlane: lane L's register, only if lane L passes (R229). -/
def execXWrlane (h : Hdr) (t : TField) (d a : RegNo) (src : Src) (s : State) :=
  issue .wave h 8 { rd := .s a :: srcUseS src, wr := [.v d t.ty.regs] } s (fun is s =>
    let l := (is.srcS src).toNat % 64
    s.pendV is .xc t.ty.is64 d (if is.p.getLsbD l then [(l, (is.s a).toNat % 2 ^ t.ty.bits)] else []))

end Sys2Proof.Machine
end

