-- ==== Sys2Proof/Machine/Futures.lean ====
section
/-! DEFINITION. Future handles and tables (R364, R365), the resolution of a future (R366, R367), outstanding results that
wait for requests (R202), and failed accesses (R97). -/

namespace Sys2Proof.Machine

/-! KIND codes of a handle (R364). -/
namespace Kind
def copy : Nat := 0
def task : Nat := 1
def rick : Nat := 2
def spawn : Nat := 3
def launch : Nat := 4
def arena : Nat := 5
def tree : Nat := 6
def range : Nat := 7
def kv : Nat := 8
def priv : Nat := 9
end Kind

/-- A pending handle (R364): the key of a quad is die × 16 + quad. -/
def pendingHandle (seq quad kind slot : Nat) : W64 :=
  BitVec.ofNat 64 (2 ^ 32 * (seq % 2 ^ 32) + 2 ^ 24 * (quad % 16) + 2 ^ 16 * (kind % 256) + 2 ^ 8 * (quad / 16 % 32) + slot % 256)
/-- A resolved handle (R364). -/
def resolvedHandle (seq quad kind status code : Nat) : W64 :=
  BitVec.ofNat 64 (2 ^ 32 * (seq % 2 ^ 32) + 2 ^ 28 * (status % 16) + 2 ^ 24 * (quad % 16) + 2 ^ 16 * (kind % 256)
    + (if status = Status.faulted then code % 256 else 0))
/-- STATUS of a handle (R364). -/
def handleStatus (h : W64) : Nat := bits h.toNat 28 4

/-- The lowest free entry of a future table; the part's choice among free entries (log 24). -/
def Quad.freeFut (q : Quad) : Option Nat := ((List.range Config.futures).find? (fun i => (q.futs.find i).isNone))

/-- Take an entry for an operation of the issuing wave, with the destination register as its first site, and write the pending
handle; the wave waits at issue while no entry is free (R365). -/
def State.takeFut (s : State) (is : Iss) (d : RegNo) (kind : Nat) (sc : Nat) (op : Nat) : Res (State × Nat × Nat) := do
  is.room .ec
  let q := quadOf is.a
  match (s.quad q).freeFut with
  | none => .error .stall
  | some k =>
    let seq := (s.quad q).seq
    let r := d.toNat
    let f : Fut := { team := is.c.team, seq := seq, kind := kind, sc := BitVec.ofNat 3 sc, sites := if r = 63 then [] else [.reg is.a r], op := op,
                     flags := 0, stale := false, acks := [] }
    let s := (s.clearTag is.a r).mapQuad q (fun x => { x with futs := x.futs.put k f, seq := (x.seq + 1) % 2 ^ 32 })
    let t : Tag := { quad := q, slot := k, seq := seq, sc := BitVec.ofNat 3 sc, resolved := false, flags := 0, stale := false }
    let s := s.mapCtx is.a (fun c => if r = 63 then c else
      { c.sset r (pendingHandle seq q kind k) with tags := c.tags.put r t })
    pure (s, q, k)

/-- The end of a wait on a future: the flags and the stale mark of its operation are merged (R184, R86). -/
def Ctx.mergeWait (c : Ctx) (t : Tag) : Ctx :=
  let lanes : Lanes := ((c.rec? c.frag).map (·.mask)).getD 0
  let c := lanes.list.foldl (fun c i => c.raiseFlags i t.flags) c
  { c with stale := c.stale || t.stale }

/-- A register site takes its resolved handle; a wave that is parked on it resumes with an acquire at the operation's SC, in
the instruction it parked before (R366, R367). -/
def Ctx.siteWrite (c : Ctx) (r : Nat) (h : W64) : Ctx :=
  match c.tags.find r with
  | none => c
  | some t =>
    if t.resolved then c
    else
      let t' : Tag := { t with resolved := true }
      let c : Ctx := { c.sset r h with tags := c.tags.put r t' }
      if c.park = .fut r then { c.mergeWait t' with park := .again [] (some t.sc) } else c

/-- The resolution of a register site: held while its wave is stopped (R390). -/
def Ctx.resolveSite (c : Ctx) (r : Nat) (seq quad slot : Nat) (h : W64) (flags : BitVec 5) (stale : Bool) : Ctx :=
  match c.tags.find r with
  | none => c
  | some t =>
    if t.resolved || t.seq ≠ seq || t.quad ≠ quad || t.slot ≠ slot then c
    else
      let t' : Tag := { t with flags := flags, stale := stale }
      let c : Ctx := { c with tags := c.tags.put r t' }
      if c.stop.isSome then { c with held := c.held ++ [(r, h)] } else c.siteWrite r h

/-- What was held of a wave that resumes is written: handles, KVCLAMP and STALE (R73, R390). -/
def Ctx.writeHeld (c : Ctx) : Ctx :=
  c.held.foldl (fun c e => c.siteWrite e.1 e.2)
    { c with held := [], kvclamp := c.kvclamp || c.heldClamp, heldClamp := false, stale := c.stale || c.heldStale, heldStale := false }

/-- A clamped element sets the wave's KVCLAMP, held while the wave is stopped (R390, R424). -/
def Ctx.setClamp (c : Ctx) : Ctx := if c.stop.isSome then { c with heldClamp := true } else { c with kvclamp := true }

/-- A memory site: its address, and above bit 56 the generation that the write carries, of an instruction. -/
def memSite (part va gen : Nat) (w : Who) : Site := .mem part (va + 2 ^ 56 * gen) w

/-- The write of a resolved handle to a memory site: a masked write of 8 bytes after every write to the line that is on its
way (R367, R383), which is one of the q.fmov that made the site (R97). -/
def State.sendSite (s : State) (quad part x : Nat) (w : Who) (h : W64) : State :=
  let va := x % 2 ^ 56
  let die := quad % 384 / 16
  let off := va % 128
  let before := (s.reqs.filter (fun r => r.part = part && lineNo r.va = lineNo va && r.op.isWrite)).map (·.id)
  s.send (Req.blank w (1536 + die) part (va - off) 128 (x / 2 ^ 56) (s.verOf part va) Arn.typN
    (.write (maskOf off 8) (placeBytes off (leBytes 8 h.toNat)))) before

/-- The fate of a stoker queue's entry bound to a future: acked when it resolves DONE, else offered again (R418, R419). -/
def SQueue.unbind (q : SQueue) (n : Nat) (done : Bool) : SQueue :=
  if done then { q with ents := q.ents.filter (·.1 ≠ n) }
  else { q with ents := q.ents.map (fun e => if e.1 = n then (e.1, e.2.1, .offered) else e) }

/-- The stoker's key of its agent: core × 4 + index. -/
def stokerKey : Agent → Nat
  | .slot c n => 4 * c + (n - 20)
  | .hearth _ => 0

/-- A task that awaits a future hears of its end: anything but DONE cancels it (R249). -/
def Task.hear (t : Task) (h : Nat × Nat × Nat) (ok : Bool) : Task :=
  if t.wait.contains h then { t with wait := t.wait.filter (· ≠ h), cancel := t.cancel || !ok } else t

/-- Every task hears of the end of a future, the saved ones too. -/
def State.hearTasks (s : State) (h : Nat × Nat × Nat) (ok : Bool) : State :=
  let hear (e : Nat × Task) : Nat × Task := (e.1, e.2.hear h ok)
  { s with quads := s.quads.map (fun e => (e.1, { e.2 with tasks := e.2.tasks.map (fun t => t.hear h ok) }))
           saved := s.saved.map (fun v => { v with
             tasks := v.tasks.map hear, snap := v.snap.map (fun n => { n with tasks := n.tasks.map hear }) }) }

/-- The registers of a context that are sites of a future resolve. -/
def Ctx.hearFut (c : Ctx) (x : Nat × Nat × Nat) (h : W64) (flags : BitVec 5) (stale : Bool) : Ctx :=
  c.tags.foldl (fun c e => c.resolveSite e.1 x.2.2 x.1 x.2.1 h flags stale) c
/-- What images that have been restored hold hears of the end of a future that it shares (R404). -/
def State.hearImages (s : State) (x : Nat × Nat × Nat) (h : W64) (flags : BitVec 5) (stale : Bool) : State :=
  { s with saved := s.saved.map (fun v => { v with
      snap := v.snap.map (fun n => { n with ctxs := n.ctxs.map (fun e => (e.1, e.2.hearFut x h flags stale)) }) }) }

/-- Resolve a future (R367): every register site, every memory site, the stoker entries bound to it, the
entry's freeing, and the tasks that await it. -/
def State.resolve (s : State) (ft : Option (Nat × Nat)) (status code : Nat) (flags : BitVec 5) (stale : Bool) : State :=
  match ft with
  | none => s
  | some (q, k) =>
    match (s.quad q).futs.find k with
    | none => s
    | some f =>
      let h := resolvedHandle f.seq q f.kind status code
      let s := f.sites.foldl (fun s x =>
        match x with
        | .reg a r => s.mapCtx a (fun c => c.resolveSite r f.seq q k h flags stale)
        | .mem part va w => s.sendSite q part va w h) s
      let s := f.acks.foldl (fun s (a, sq, n) => s.mapStoker (stokerKey a) (fun x =>
        { x with queues := x.queues.put sq (((x.queues.find sq).getD { ents := [], next := 0, fin := false }).unbind n
          (status == Status.done)) })) s
      ((s.mapQuad q (fun x => { x with futs := x.futs.del k })).hearTasks (q, k, f.seq) (status == Status.done)).hearImages
        (q, k, f.seq) h flags stale

/-- Resolve without flags. -/
def State.resolve0 (s : State) (ft : Option (Nat × Nat)) (status code : Nat) : State := s.resolve ft status code 0 false

/-- An instruction whose future resolves at once. -/
def State.instantFut (s : State) (is : Iss) (d : RegNo) (kind sc status code : Nat) : Res State := do
  let (s, q, k) ← s.takeFut is d kind sc 0
  pure (s.resolve0 (some (q, k)) status code)

/-! ## Outstanding results and requests -/

/-- Change an outstanding result of an agent. -/
def State.mapPend (s : State) (a : Agent) (id : Nat) (f : Pend → Pend) : State :=
  s.mapCtx a (fun c => { c with pend := c.pend.map (fun p => if p.id = id then f p else p) })

/-- A value of n bytes as its register takes it: extended to 32 bits, or to 64 for a stoker's scalar (R148, R414). -/
def extend (n : Nat) (sx : Bool) (width v : Nat) : Nat :=
  if sx && 8 * n < width && v.testBit (8 * n - 1) then v + (2 ^ width - 2 ^ (8 * n)) else v

/-- Give the registers of a lane of a result their values: the j-th takes 32 bits from bit 32j on; a scalar takes 64. -/
def fillLane (lane n : Nat) (sx : Bool) (v : Nat) : Nat → List RegWrite → List RegWrite
  | _, [] => []
  | j, w :: ws =>
    match w.reg with
    | .s _ => { w with val := some (extend n sx 64 v % 2 ^ 64) } :: fillLane lane n sx v j ws
    | .k _ => w :: fillLane lane n sx v j ws
    | .v _ l =>
      if l = lane then { w with val := some (bits (extend n sx 32 v) (32 * j) 32) } :: fillLane lane n sx v (j + 1) ws
      else w :: fillLane lane n sx v j ws

/-- A request is over: it leaves the list and the result it serves; the mask of a g.ldnf is known once its last is over. -/
def State.dropReq (s : State) (r : Req) : State :=
  let s := { s with reqs := s.reqs.filter (fun x => x.id ≠ r.id) }
  match r.pend with
  | none => s
  | some id => s.mapPend r.agent id (fun p =>
      let p := { p with reqs := p.reqs.filter (· ≠ r.id) }
      match p.nf with
      | some m => if p.reqs.isEmpty then
          { p with writes := p.writes.map (fun w => match w.reg with | .k _ => { w with val := some m.toNat } | _ => w) } else p
      | none => p)

/-- Put bytes into a sparse map, the zero ones too. -/
def putAll : AMap Byte → Nat → List Byte → AMap Byte
  | m, _, [] => m
  | m, a, b :: l => putAll (AMap.put m a b) (a + 1) l

/-- A request's value reaches its lane of its result: of a vector or scalar register, of a tile or of a rope table. -/
def Pend.fill (p : Pend) (lane n : Nat) (sx : Bool) (l : List Byte) : Pend :=
  match p.tile with
  | some (t, m) => { p with tile := some (t, putAll m lane l) }
  | none =>
    match p.rope with
    | some w => { p with rope := some (BitVec.ofNat 2048 (setBits w.toNat (8 * lane) (8 * n) (ofLe l))) }
    | none => { p with writes := fillLane lane n sx (ofLe l) 0 p.writes }

/-- Complete a request with the bytes it returns. -/
def State.complete (s : State) (r : Req) (l : List Byte) : State :=
  let s := match r.pend with
    | none => s
    | some id => s.mapPend r.agent id (fun p => p.fill r.lane r.n r.sx l)
  s.dropReq r

/-- The threads whose access a request is: its lane where the result is a thread's register, else those of its instruction (R393). -/
def Pend.threads (p : Pend) (r : Req) : Lanes :=
  if p.writes.any (fun w => match w.reg with | .v _ l => l = r.lane | _ => false) then lanesOf [r.lane] else r.mask

/-- The failure of a request: precise for the codes of R394 that are, and not for those that come under R97. -/
def Req.failure (r : Req) (code addr : Nat) (lanes : Lanes) : Failure :=
  { code := code, lanes := lanes, addr := addr, prec := [Code.handle, Code.arenaDead, Code.arenaSealed].contains code, meld := r.meld }

/-- A result fails with a request: failures of one result are reported together, with the first code and address and all the threads
(R97, R393). -/
def Pend.failWith (p : Pend) (r : Req) (code addr : Nat) : Pend :=
  let f := r.failure code addr (p.threads r)
  { p with fail := some (match p.fail with | none => f | some x => { x with lanes := x.lanes ||| f.lanes }) }

/-- The stop of an agent for a failure of the instruction at pc (R97, R392, R394). -/
def State.stopFor (s : State) (a : Agent) (pc : W64) (f : Failure) : State :=
  s.stopWave a { code := f.code, prec := f.prec, addr := f.addr, mask := f.lanes, pc := pc, meld := f.meld, posted := false,
                 silent := false }

/-- The wait of an operation ends: the result of q.fwait on a word is outstanding no longer (R202, R379). -/
def Ctx.endWait (c : Ctx) (op : ReqOp) : Ctx :=
  match op with
  | .status .. => { c with ec := c.ec - 1 }
  | _ => c

/-- What R97 counts as stores, atomics and reductions. -/
def ReqOp.stores : ReqOp → Bool
  | .write .. | .rmw .. | .cas .. | .take | .serve _ => true
  | _ => false

/-- A write, an atomic among them, that has failed gives its result nothing: the registers that it would have written keep what they hold
(R97). -/
def Pend.skip (p : Pend) (r : Req) : Pend :=
  { p with writes := p.writes.filter (fun w => match w.reg with | .v _ l => l ≠ r.lane | _ => false) }

/-- A failed request (R97, R154): a g.ldnf's lane reads zero and is marked; a load writes nothing and its failure stops the
wave later; a store or an atomic has no effect and its wave, where it is still there, stops at its next park point; a fetch stops the
agent. -/
def State.failReq (s : State) (r : Req) (code addr : Nat) : State :=
  match r.op with
  | .fetch =>
    if r.lane = 1 then { s with reqs := s.reqs.map (fun x => if x.id = r.id then { x with failed := some code } else x) }
    else (s.dropReq r).stopFor r.agent r.pc { r.failure code addr r.mask with prec := true }
  | .prefetch _ => s.dropReq r
  | .kvapp _ _ fut _ | .kvtrunc _ fut => (s.dropReq r).resolve0 fut Status.faulted code
  | _ =>
    if r.nf && code ≠ Code.ecc then
      let s := match r.pend with
        | none => s
        | some id => s.mapPend r.agent id (fun p => { p with nf := p.nf.map (· ||| lanesOf [r.lane]) })
      s.complete r (List.replicate r.n 0)
    else
      let s := match r.pend, r.op.stores with
        | some id, false => s.mapPend r.agent id (fun p => p.failWith r code addr)
        | _, _ => (match r.pend with | some id => s.mapPend r.agent id (fun p => p.skip r) | none => s).mapCtx r.agent (fun c =>
            if c.team ≠ r.team then c else
            let c : Ctx := { c with sfail := c.sfail ++ [(r.pc, r.failure code addr r.mask)] }
            if c.park = Park.waiter r.id then { c.endWait r.op with park := .again [] none } else c)
      s.dropReq r

/-- A load or a ticket operation that is stale sets the wave's STALE (R86, R298), held while the wave stands stopped with nothing outstanding
(R73, R390). -/
def Ctx.setStale (c : Ctx) : Ctx := if c.settled then { c with heldStale := true } else { c with stale := true }
/-- It does so in its context. -/
def State.setStale (s : State) (a : Agent) : State := s.mapCtx a Ctx.setStale

/-- A result that waits for requests. -/
def Pend.awaiting (id : Nat) (k : Ctr) (is : Iss) (ws : List Reg) (reqs : List Nat) : Pend :=
  { Pend.blank id k is with writes := ws.map (fun r => { reg := r, val := none }), reqs := reqs }

end Sys2Proof.Machine
end

