-- ==== Sys2Proof/Machine/Link.lean ====
section
/-! DEFINITION. The Larlan ports (R442, R443): the groups that they carry, and the port over which an access to another module goes. -/

namespace Sys2Proof.Machine

/-- A list cut or filled with zeros to n bytes. -/
def fixLen (n : Nat) (l : List Byte) : List Byte := l.take n ++ List.replicate (n - l.length) 0

/-- The die of a port (R442). -/
def portDie (p : Nat) : Nat := if p ≤ 8 then p + 1 else p + 4

/-- A port before it has trained. -/
def Port.init : Port := { trained := false, epoch := 0, sendKey := [], recvKey := [], count := 0, sent := 0, plain := [], again := [], replies := [] }
/-- A port. -/
def State.port (s : State) (p : Nat) : Port := (s.ports.find p).getD Port.init

/-- A port that is there, on a live die of a module that has started (R442). -/
def State.portLive (s : State) (p : Nat) : Bool := decide (p < 18) && s.host.on && s.host.up && (s.die (portDie p)).live

/-- Bytes of a flit, and flits of a group (R442). -/
def flitBytes : Nat := 256
def groupFlits : Nat := 4
/-- Bytes of a group. -/
def groupBytes : Nat := flitBytes * groupFlits

/-- The groups that carry n bytes: as many as hold them, and at least one (R442; log 124). -/
def groupsFor (n : Nat) : Nat := max 1 (ceilDiv n groupBytes)
/-- The nonce of a group: bits [95:64] name the port and the direction, and bits [63:0] count the direction's groups (R442; log 124). -/
def nonce (p : Nat) (out : Bool) (count : Nat) : Nat := 2 ^ 64 * (2 * p + b2n out) + count % 2 ^ 64

/-- A port sends a group: encrypted with its tag under the key and the count of the sending direction; it is kept for as long as the peer may
not have acknowledged it (R442, R443). -/
def Port.sendGroup (x : Port) (p : Nat) (g : List Byte) : Port :=
  { x with replies := x.replies ++ [Config.gcm x.sendKey (nonce p true x.sent) g], sent := x.sent + 1, plain := x.plain ++ [g] }

/-- A port sends bytes: four flits a group, the last filled with zeros (R442). -/
def Port.send (x : Port) (p : Nat) (l : List Byte) : Port :=
  (List.range (groupsFor l.length)).foldl (fun (x : Port) i =>
    x.sendGroup p (fixLen groupBytes ((l.drop (groupBytes * i)).take groupBytes))) x

/-- The ports of a partition that are open for an access to another module: trained, and with room in their counts before they train again
(R442, R443). -/
def State.openPorts (s : State) (part : Nat) : List Nat :=
  (List.range 18).filter (fun p => s.portLive p && (s.port p).trained && s.dieParts.find (portDie p) == some part
    && decide ((s.port p).sent + 1 < 2 ^ 48) && decide ((s.port p).count + 1 < 2 ^ 48))

/-- An access of the device to a line of another module goes over an open port, in one group, and what it reads comes back in one; with none
open it waits (R101, R442; log 124). The port and the bytes of the group are free: the manual gives neither. -/
def State.overLink (s : State) (part unit : Nat) (reads : Bool) : Option State :=
  if unit < 32 then some s
  else
    match s.openPorts part with
    | [] => none
    | p0 :: l =>
      let p := (p0 :: l).getD (Config.linkPort s.tick unit % (l.length + 1)) p0
      let x := (s.port p).send p (fixLen groupBytes (Config.linkBytes s.tick))
      some { s with ports := s.ports.put p { x with count := x.count + b2n reads } }

end Sys2Proof.Machine
end

