-- ==== Sys2Proof/Machine/Home.lean ====
section
/-! DEFINITION. The home slice (R276 to R279): reads and masked writes with the bumps they make (R125, R126) and the waiters
they wake (R294 to R297, R381), atomics (R282 to R284), and where a miss reads (R114). -/

namespace Sys2Proof.Machine

/-! ## Bumps (R125, R126)

DESIGN CHOICE (log 112): a write that a.tkt.take, a.tkt.serve or a.strel performs at a home bumps an enrolled block as an atomic or a
store does, though the table of R125 does not name these instructions. -/

/-- The enrollment is in effect on a die (R124, R132). -/
def Enroll.on (e : Enroll) (die : Nat) : Bool := if e.removing then e.waiting.contains die else !e.waiting.contains die
/-- The node that an enrollment gives an address, where it covers it (R132). -/
def Enroll.nodeOf (e : Enroll) (va : Nat) : Option Nat :=
  e.parts.findSome? (fun p =>
    if p.1 ≤ va && va < p.1 + p.2.1 then some (if e.consec then e.node + (p.2.2 + (va - p.1)) / 65536 else e.node) else none)
/-- A bump for a write that performs at a home: it enters the slice's roll-up queue (R125, R126). -/
def State.bump (s : State) (part unit va : Nat) : State :=
  match (s.part part).enrolls.findSome? (fun e => if e.on (unit % 32) then e.nodeOf va else none) with
  | none => s
  | some n =>
    let k := unit * 16 + sliceOf va
    s.mapPart part (fun p => { p with rolls := p.rolls.put k (((p.rolls.find k).getD []) ++ [.bump n 1]) })

/-! ## Reading at the home -/

/-- The unit that a region rewrite takes an address's line from, while that unit's slice still holds the line as its home (R102). -/
def State.oldUnit (s : State) (part va : Nat) : Option Nat :=
  (s.part part).rewrites.findSome? (fun w =>
    if w.old.kind < 2 && decide (w.old.base ≤ va) && decide (va < w.old.base + w.old.len) then
      (let u := (w.old.home va).unit
       if s.llc.any (fun l => l.die = u && l.part = part && l.line = lineNo va && l.home) then some u else none)
    else none)

/-- The unit where an access of an address performs: its home by the region table, but where a rewrite drains and the old home still
holds the line, the old home, so that nothing reads memory that it has not written back (R101, R102, R320); an address in no region
entry is served where unit 0 stands (log 26). -/
def State.unitOf (s : State) (part va : Nat) : Nat :=
  match s.oldUnit part va with
  | some u => u
  | none => ((s.homeOf part va).map (·.unit)).getD 0

/-- An access that the device makes to a line goes to its home, over a link where that is on another module; none where it waits, for the old
home of a rewritten region to drain or for an open port (R102, R442). -/
def State.reach (s : State) (part va : Nat) (reads : Bool) : Option State :=
  if s.rewriting part va then none else s.overLink part (s.unitOf part va) reads

/-- A line at its home, with where it stands: the unit, the physical address of its first byte, its data and its poison; or the
code of a failed walk (R93, R114). -/
def State.lineAt (s : State) (part line gen : Nat) (write : Bool) : Except Nat (Nat × Nat × BitVec 1024 × Bool) := do
  let va := line * 128
  let pa ← s.walkFor part va write
  let unit := s.unitOf part va
  let (d, p) := s.homeLine unit part line gen pa
  pure (unit, pa, d, p)

/-- The pieces of a range by line: line, offset in it, bytes. -/
def segments : Nat → Nat → Nat → List (Nat × Nat × Nat)
  | 0, _, _ => []
  | k + 1, va, n =>
    if n = 0 then [] else
      let off := va % 128
      let m := min n (128 - off)
      (va / 128 % 2 ^ 49, off, m) :: segments k (va + m) (n - m)
/-- The pieces of [va, va + n). -/
def segs (va n : Nat) : List (Nat × Nat × Nat) := segments (n / 128 + 2) va n

/-- ADDR of a poisoned line in a read (R119, R395): the slice's data or hot array where the slice holds the line, else HBM. The bank and
the way are free (log 41). -/
def State.eccAt (s : State) (unit part line gen pa : Nat) : Nat :=
  let slice := sliceOf (line * 128)
  match s.llcFind unit part line gen with
  | none => eccAddr 8 slice 31 (pa % 2 ^ 37)
  | some l =>
    let sram := (s.die (unit % 32)).sram
    let hot := l.hot || !sram
    let (sets, ways) := if hot then (1024, 8) else (8192, 24)
    let way := Config.eccPlace s.tick (2 * line) % ways
    eccAddr (if hot then 1 else 0) slice (Config.eccPlace s.tick (2 * line + 1) % 18) (((sliceSet sets line).2 * ways + way) * 128)

/-- ADDR of a poisoned L1 line (R119, R395): L1 data have no banks. -/
def l1Ecc (core line tick : Nat) : Nat :=
  eccAddr 5 (core % 64) 31 ((l1Set line * 8 + Config.eccPlace tick (2 * line) % 8) * 128)

/-- Bytes as the homes hold them; a code with the address where a walk or a poisoned line fails (R96, R119). -/
def State.homeRead (s : State) (part gen va n : Nat) : Except (Nat × Nat) (List Byte) :=
  (segs va n).foldlM (fun acc (line, off, m) =>
    match s.lineAt part line gen false with
    | .error c => .error (c, line * 128)
    | .ok (unit, pa, d, p) =>
      if p then .error (Code.ecc, s.eccAt unit part line gen pa)
      else .ok (acc ++ lineBytes d off m)) []

/-- The current generation of an address's arena at the master (R76). -/
def State.genOf (s : State) (part va : Nat) : Nat := ((s.part part).arena (arenaOf va)).gen

/-- An access meets a newer generation than its own (R86). -/
def State.staleGen (s : State) (part va gen : Nat) : Bool := s.genOf part va ≠ gen

/-! ## What translation episodes hold (R95, R105) -/

/-- Where something of a die is held: the addresses of held requests, and of the copies and tasks that an episode holds, the saved ones too,
with their partitions. -/
def State.heldAt (s : State) : List (Nat × Nat) :=
  let at' (q : Nat) (h : Option Nat) : List (Nat × Nat) := h.toList.map (fun va => (s.partOf (q / 16), va))
  s.reqs.flatMap (fun r => r.held.toList.map (fun va => (r.part, va)))
    ++ s.quads.flatMap (fun e => e.2.copies.flatMap (fun c => at' e.1 c.held) ++ e.2.tasks.flatMap (fun t => at' e.1 t.held))
    ++ s.saved.flatMap (fun v => v.copies.flatMap (fun e => at' e.1 e.2.held) ++ v.tasks.flatMap (fun e => at' e.1 e.2.held))

/-- A die's hold buffer has room (R95). -/
def State.holdRoom (s : State) (die : Nat) : Bool :=
  (s.heldAt.filter (fun e => s.unitOf e.1 e.2 % 32 == die)).length < Config.holds

/-- A request has still to be translated: it is not held, and no translation of its page is cached. -/
def State.untranslated (s : State) (id : Nat) : Bool :=
  s.reqs.any (fun r => r.id = id && r.held.isNone && r.failed.isNone && r.back.isNone
    && (r.op = .fetch || (tlbFind (s.die (s.unitOf r.part r.va % 32)).tlb r.part r.va).isNone))

/-- A copy, a tile task or a rick operation that a y.map has let go has still to be translated again. -/
def State.unresumed (s : State) (id : Nat) : Bool :=
  s.quads.any (fun e => e.2.copies.any (fun c => c.id = id && c.again) || e.2.tasks.any (fun t => t.id = id && t.again))

/-- A y.map ends once all that it let go, requests and the streams of engine work, has been translated again (R105). -/
def State.mapStep (part : Nat) (s : State) (r : MapReq) : State :=
  if r.reqs.any (fun i => s.untranslated i || s.unresumed i) then s
  else (s.mapPart part (fun p => { p with maps := p.maps.filter (fun x => x.id ≠ r.id) })).resolve0 r.fut Status.done 0
/-- Every y.map that may end does. -/
def State.mapsGo (s : State) : State := s.parts.foldl (fun s e => e.2.maps.foldl (State.mapStep e.1) s) s

/-! ## Waiters (R294 to R297, R381) -/

/-- Ticket t is served when (SERVING − t) mod 2^32 < 2^31 (R291). -/
def served (serving t : Nat) : Bool := decide ((serving % 2 ^ 32 + 2 ^ 32 - t % 2 ^ 32) % 2 ^ 32 < 2 ^ 31)

/-- The value that a waiter's condition yields on the bytes of its object, once it holds. -/
def ReqOp.ready (op : ReqOp) (l : List Byte) : Option Nat :=
  match op with
  | .ticket t _ => if served (ofLe ((l.drop 4).take 4)) t then some 0 else none
  | .watch exp _ _ => if ofLe l ≠ exp then some (ofLe l) else none
  | .status _ _ => if handleStatus (BitVec.ofNat 64 (ofLe l)) ≠ 0 then some (ofLe l) else none
  | _ => none
/-- The register and the scope of a waiting operation. -/
def ReqOp.waitInfo : ReqOp → Option Nat × BitVec 3
  | .ticket _ sc => (none, sc)
  | .watch _ sc d => (some d, sc)
  | .status sc d => (some d, sc)
  | _ => (none, 0)

/-- A core reads bytes of a line at its home past its L1: a line of the L1 that holds clean bytes leaves it, as any line may at any moment (R109),
and an answer that is on its way fills none, so that no later read of the core finds an older byte (R310, R314). -/
def State.l1Renew (s : State) (core line : Nat) : State :=
  let s := ((s.core core).l1.filter (fun l => l.line = line && l.clean ≠ 0)).foldl (fun s l => s.l1Evict core l) s
  { s with reqs := s.reqs.map (fun (r : Req) =>
      if r.core = core && r.back.isSome && lineNo r.va = line then { r with alloc := false } else r) }

/-- A waiting agent goes on: its register takes the value, it moves past the instruction, and it acquires (R294, R297). -/
def State.wakeWait (s : State) (a : Agent) (op : ReqOp) (len v : Nat) : State :=
  let (d, sc) := op.waitInfo
  let s := match d with | some r => s.clearTag a r | none => s
  s.mapCtx a (fun c =>
    let c := match d with | some r => c.sset r (BitVec.ofNat 64 v) | none => c
    let pc := ((c.rec? c.frag).map (·.pc)).getD 0
    Ctx.stepDone { (c.endWait op).setPc c.frag (pc + BitVec.ofNat 64 len) with park := .fence [] (some sc) } c.frag)

/-- A waiter whose condition holds leaves its list and goes on with what it has read at the home. -/
def State.wakeWaiter (s : State) (w : Waiter) (v : Nat) : State :=
  (({ s with waiters := s.waiters.filter (·.id ≠ w.id) } : State).l1Renew (coreOf w.agent) (lineNo w.va)).wakeWait w.agent w.op w.len v

/-- A waiter whose read of its object finds a poisoned line, or a ticket object with a must-be-zero bit set, waits no more, and its wave stops at its
next park point (R97, R119, R298). -/
def State.failWaiter (s : State) (w : Waiter) (code addr : Nat) : State :=
  ({ s with waiters := s.waiters.filter (·.id ≠ w.id) } : State).mapCtx w.agent (fun c =>
    let fr := (c.rec? c.frag).getD SplitRec.free
    { c.endWait w.op with
      park := .again [] none
      sfail := c.sfail ++ [(fr.pc, { code := code, lanes := fr.mask, addr := addr, prec := code == Code.handle, meld := fr.meld })] })

/-- A ticket object of a wait has a must-be-zero bit set (R291, R298). -/
def ReqOp.broken (op : ReqOp) (l : List Byte) : Bool :=
  match op with
  | .ticket .. => bits (ofLe l) 64 64 != 0
  | _ => false

/-- A waiter reads its object at the home (R294, R296, R297): it goes on where its condition holds now, and fails at a poisoned line or a broken
ticket object (R298). -/
def State.tryWaiter (s : State) (w : Waiter) : Option State :=
  match s.homeRead w.part w.gen w.va w.n with
  | .error (c, x) => if c = Code.ecc then some (s.failWaiter w c x) else none
  | .ok l => if w.op.broken l then some (s.failWaiter w Code.handle w.va) else (w.op.ready l).map (s.wakeWaiter w)

/-- Wake the waiters in slice entries on a line whose condition holds now. -/
def State.wakeLine (s : State) (part line : Nat) : State :=
  (s.waiters.filter (fun w => w.part = part && w.inSlice && lineNo w.va = line)).foldl (fun s w => (s.tryWaiter w).getD s) s

/-! ## Writing at the home -/

/-- A masked write that performs at the home: merged into the line, a bump for an N arena, and the waiters (R116, R125,
R297). -/
def State.homeWrite (s : State) (unit part line gen pa typ : Nat) (mask : BitVec 128) (data : BitVec 1024) : State :=
  if mask = 0 then s
  else if typ = Arn.typN then
    (((s.homeTouch unit part line gen pa).homeMerge unit part line gen pa mask data).bump part unit (line * 128)).wakeLine part line
  else s.hbmWrite part line pa mask data

/-- Bytes written at their homes in one step, as device agents other than the waves' L1s write them (R125); a code and an address where
they are not, LINK where the write waits (R102, R442). -/
def State.homePut (s : State) (part gen va : Nat) (l : List Byte) : Except (Nat × Nat) State :=
  let pieces := segs va l.length
  let r : Except (Nat × Nat) (State × List Byte) := pieces.foldlM (fun (acc : State × List Byte) (line, off, m) =>
    match acc.1.lineAt part line gen true with
    | .error c => .error (c, line * 128)
    | .ok (unit, pa, _, _) =>
      let typ := ((acc.1.part part).arena (lineArena line)).typ
      match acc.1.reach part (line * 128) false with
      | none => .error (Code.link, line * 128)
      | some s => .ok (s.homeWrite unit part line gen pa typ (maskOf off m) (placeBytes off (acc.2.take m)), acc.2.drop m)) (s, l)
  r.map (·.1)

/-- The bytes of several rows by line: a mask and data for each line that they touch; a later row wins. -/
def lineWrites (rows : List (Nat × List Byte)) : AMap (BitVec 128 × BitVec 1024) :=
  rows.foldl (fun m (e : Nat × List Byte) =>
    ((segs e.1 e.2.length).foldl (fun (acc : AMap (BitVec 128 × BitVec 1024) × List Byte) x =>
      let old := (acc.1.find x.1).getD (0, 0)
      let mask := maskOf x.2.1 x.2.2
      (acc.1.put x.1 (old.1 ||| mask, mergeLine old.2 mask (placeBytes x.2.1 (acc.2.take x.2.2))), acc.2.drop x.2.2)) (m, e.2)).1) []

/-- Rows that one operation writes at their homes together: one masked write for each line touched (R125), under the generation that
gen gives its arena (R77); a line of a dropped generation is left out (R86). -/
def State.homePutRows (s : State) (part : Nat) (gens : Nat → Nat) (rows : List (Nat × List Byte)) : Except (Nat × Nat) State :=
  (lineWrites rows).foldlM (fun (s : State) e =>
    let gen := gens (lineArena e.1)
    if s.staleGen part (e.1 * 128) gen then .ok s
    else
      match s.lineAt part e.1 gen true with
      | .error c => .error (c, e.1 * 128)
      | .ok (unit, pa, _, _) =>
        match s.reach part (e.1 * 128) false with
        | none => .error (Code.link, e.1 * 128)
        | some s => .ok (s.homeWrite unit part e.1 gen pa ((s.part part).arena (lineArena e.1)).typ e.2.1 e.2.2)) s

/-! ## Atomics -/

/-- An operation of an atomic on a location of a type: exchange, each bf16 element on its own, or a combine (R282, R283). -/
def atomOp (op : BitVec 3) (ty : Ty) (old x : Nat) : Nat :=
  if op = 6 then x
  else if ty = .bf16 then joinElems ty (((elems ty old).zip (elems ty x)).map (fun e => (combine ty op e.1 e.2).1))
  else (combine ty op old x).1

/-! ## Where a miss reads (R114) -/

/-- Something that a die has sent past its copy of a line is on its way to the home: a read of which must not be followed by a copy that is older
(R277, R314). -/
def State.pastCopy (s : State) (die part line : Nat) : Bool :=
  s.reqs.any (fun r => r.onLine die part line && r.back.isNone && !r.copy && (match r.op with | .load .. | .prefetch _ => false | _ => true))

/-- The line as a miss from a die reads it: the die's copy of a sealed or software-managed line, allocated on the miss unless something passes
it, else the home's (R114, R277). -/
def State.missRead (s : State) (die part line gen pa : Nat) (shared : Bool) : BitVec 1024 × Bool × State :=
  let unit := s.unitOf part (line * 128)
  let home (s : State) : BitVec 1024 × Bool × State :=
    let s := s.homeTouch unit part line gen pa
    let (d, p) := s.homeLine unit part line gen pa
    (d, p, s)
  if shared && s.cached part line && unit ≠ die then
    match s.llcFind die part line gen with
    | some l => (l.data, l.poison, s.llcHit l)
    | none =>
      let (d, p, s) := home s
      if p || s.pastCopy die part line then (d, p, s)
      else
        match s.llcRoom die part line with
        | none => (d, p, s)
        | some s => (d, p, s.llcPut { die := die, part := part, line := line, gen := gen, home := false, dirty := 0, data := d,
                                      hits := 0, hot := false, poison := false, last := none })
  else home s

/-- A sealed or software-managed arena, whose lines another die may hold (R114). -/
def Arena.shared (a : Arena) : Bool := a.swm || a.state == Arn.sealed

/-- A byte of a load with a generation that is over: zero or, while the id has no new contents, what the location last held,
freely (R86; log 5). -/
def staleByte (tick i : Nat) (old : Byte) : Byte := if Config.freeBit tick i then old else 0

/-- The bytes of a stale load (R86). -/
def State.staleBytes (s : State) (part va n gen : Nat) : List Byte :=
  let ar := (s.part part).arena (arenaOf va)
  let old := if (ar.state == Arn.draining || ar.state == Arn.free) && ar.gen == (gen + 1) % 16 then
      (match s.homeRead part gen va n with | .ok l => l | .error _ => List.replicate n 0)
    else List.replicate n 0
  old.zipIdx.map (fun e => staleByte s.tick (2 ^ 20 + va + e.2) e.1)

/-! ## Accesses that engines and the device itself make (R86, R96, R98, R114, R245, R324) -/

/-- A read that leaves its die goes to the home where no copy of the die serves it; none where it waits (R102, R114, R442). -/
def State.readLink (s : State) (die part line gen : Nat) : Option State :=
  if (s.copyOf die part line gen).isSome then some s else s.reach part (line * 128) true

/-- An engine's read of bytes where an L1 miss would go: the bytes, whether the generation was over, and the slices as the read
leaves them; or a code and the address of the line that failed, LINK where it waits (R86, R96, R102, R114, R119, R245, R324, R442). -/
def State.engineRead (s : State) (die part gen va n : Nat) : Except (Nat × Nat) (List Byte × Bool × State) :=
  if s.staleGen part va gen then .ok (s.staleBytes part va n gen, true, s)
  else
    let shared := ((s.part part).arena (arenaOf va)).shared
    let r : Except (Nat × Nat) (List Byte × State) :=
      (segs va n).foldlM (fun (acc : List Byte × State) (line, off, m) =>
        match acc.2.walkFor part (line * 128) false with
        | .error c => .error (c, line * 128)
        | .ok pa =>
          match acc.2.readLink die part line gen with
          | none => .error (Code.link, line * 128)
          | some s =>
            let (d, psn, s) := s.missRead die part line gen pa shared
            if psn then .error (Code.ecc, s.eccAt (s.unitOf part (line * 128)) part line gen pa) else .ok (acc.1 ++ lineBytes d off m, s))
        ([], s)
    r.map (fun x => (x.1, false, x.2))

/-- An engine's write of bytes at their homes; a write of a generation that is over is discarded (R86, R168). -/
def State.engineWrite (s : State) (part gen va : Nat) (l : List Byte) : Except (Nat × Nat) State :=
  if s.staleGen part va gen then .ok s else s.homePut part gen va l

/-- The pieces of [va, va + n) by line, each where the core's remap filter places it (R98). -/
def State.pieces (s : State) (core va n : Nat) : List (Nat × Nat) :=
  (segs va n).map (fun (line, off, m) => (canonical (s.core core).filters (line * 128 + off), m))

/-- An engine's read of a range through the remap filter; gen gives the generation under which it reads an arena. -/
def State.readRange (s : State) (core : Nat) (gen : Nat → Nat) (va n : Nat) : Except (Nat × Nat) (List Byte × Bool × State) :=
  (s.pieces core va n).foldlM (fun (acc : List Byte × Bool × State) (a, m) =>
    (acc.2.2.engineRead (dieOfCore core) (s.corePart core) (gen (arenaOf a)) a m).map (fun x =>
      (acc.1 ++ x.1, acc.2.1 || x.2.1, x.2.2))) ([], false, s)

/-- Bytes by line, each piece where the core's remap filter places it (R98). -/
def State.placed (s : State) (core va : Nat) (l : List Byte) : List (Nat × List Byte) :=
  ((s.pieces core va l.length).foldl (fun (acc : List (Nat × List Byte) × List Byte) x =>
    (acc.1 ++ [(x.1, acc.2.take x.2)], acc.2.drop x.2)) ([], l)).1

/-- An engine's write of a range through the remap filter. -/
def State.writeRange (s : State) (core : Nat) (gen : Nat → Nat) (va : Nat) (l : List Byte) : Except (Nat × Nat) State :=
  (s.placed core va l).foldlM (fun (t : State) x => t.engineWrite (s.corePart core) (gen (arenaOf x.1)) x.1 x.2) s

/-- The generations that a core's attribute table gives (R77). -/
def State.coreGen (s : State) (core aid : Nat) : Nat := (s.attr core aid).gen

/-- What an access that the device makes by itself comes to: it has what it needs; it fails with a code; or it waits, with the step
that begins the wait where that has not been taken. -/
inductive Own (α : Type) where
  | got (x : α)
  | fail (code : Nat) (s : State)
  | wait (s : Option State)

/-- A wait of the device itself for a translation (R96): a request that stands for it, under the number of what waits (log 128). -/
def State.ownHold (s : State) (die part tag : Nat) (e : Nat × Nat) : State :=
  let r := { Req.blank (sliceWho die) (sliceCore die) part e.2 e.1 0 0 0 .fetch with
    id := s.uid, lane := 1, alloc := false, pend := some tag }
  { s with uid := s.uid + 1, reqs := s.reqs ++ [r] }

/-- The result of an access that the device makes by itself: a failed translation is waited for until y.map or a replay ends its
episode, or y.xinv fails it (R96, R97); any other failure is one at once. -/
def State.own {α : Type} (s : State) (die part tag : Nat) (r : Except (Nat × Nat) α) : Own α :=
  match s.reqs.find? (fun r => r.core = sliceCore die && r.op = .fetch && r.pend = some tag) with
  | some q =>
    match q.failed with
    | some c => .fail c { s with reqs := s.reqs.filter (fun x => x.id ≠ q.id) }
    | none => .wait none
  | none =>
    match r with
    | .ok x => .got x
    | .error e =>
      if e.1 = Code.xlate || e.1 = Code.prot then .wait (some (s.ownHold die part tag e))
      else if e.1 = Code.link then .wait none
      else .fail e.1 (if e.1 = Code.synonym then
        s.noteSynonym (s.unitOf part e.2 % 32) part e.2 (s.recordOf (.hearth die) 0 e.2 0 1 false false false e.1) else s)

/-! ## Records that an instruction reads in one step (R252, R348, R357, R430) -/

/-- A piece of a line as a load of the issuing core finds it: in its L1, where that holds all of it; else in its die's copy, or at the home, but for
the L1's dirty bytes (R108, R114); no poisoned line serves it (R119), and LINK where the home is not reached yet (R102, R442). -/
def State.viewLine (s : State) (core part gen line off m : Nat) : Except (Nat × Nat) (List Byte × State) :=
  let die := dieOfCore core
  let l1 := (s.core core).l1Find line gen
  let dirty (i : Nat) : Option Byte := l1.bind (fun l => if l.dirty.getLsbD i then some (lineByte l.data i) else none)
  let merged (d : BitVec 1024) : List Byte := (List.range m).map (fun j => (dirty (off + j)).getD (lineByte d (off + j)))
  match l1.filter (fun l => l.poison || allIn l.valid off m) with
  | some l => if l.poison then .error (Code.ecc, l1Ecc core line s.tick) else .ok (lineBytes l.data off m, s)
  | none =>
    match s.copyOf die part line gen with
    | some k => if k.poison then .error (Code.ecc, s.eccAt die part line gen 0) else .ok (merged k.data, s)
    | none =>
      match s.homeRead part gen (line * 128) 128, s.reach part (line * 128) true with
      | .error e, _ => .error e
      | .ok _, none => .error (Code.link, line * 128)
      | .ok l, some s => .ok (merged (lineOf l), s)

/-- Bytes as loads of the issuing core find them; whether the read met a dropped generation. -/
def State.viewRead (s : State) (core part gen va n : Nat) : Except (Nat × Nat) (List Byte × Bool × State) :=
  if s.staleGen part va gen then .ok (s.staleBytes part va n gen, true, s)
  else
    ((segs va n).foldlM (fun (acc : List Byte × State) x =>
      (acc.2.viewLine core part gen x.1 x.2.1 x.2.2).map (fun y => (acc.1 ++ y.1, y.2))) ([], s)).map (fun y => (y.1, false, y.2))

/-- The agent's accesses to DEV and SO arenas that are on their way (R79). -/
def State.strongReqs (s : State) (a : Agent) : List Nat :=
  (s.reqs.filter (fun r => r.agent = a && (r.typ = Arn.typDEV || r.typ = Arn.typSO))).map (·.id)

/-- A memory instruction, or one that posts engine work, issues only after the wave's earlier acquires have performed (R289) and its
earlier SO access is complete (R79). -/
def Iss.memReady (is : Iss) (s : State) : Res Unit :=
  require (is.c.pend.all (fun p => p.acq.isNone) && !s.reqs.any (fun r => r.agent = is.a && r.typ = Arn.typSO)) .stall

/-- A load of n bytes waits for the wave's c.invr whose lines it overlaps (R121, R122). -/
def Iss.rangeReady (is : Iss) (s : State) (n : Nat) (l : List (Nat × Route)) : Res Unit :=
  require (!s.ranges.any (fun r => r.agent = is.a && r.inval &&
    r.parts.any (fun p => p.1 < p.2 && l.any (fun e => p.1 / 128 ≤ (e.2.va + n - 1) / 128 && e.2.va / 128 ≤ (p.2 - 1) / 128)))) .stall

/-- Something that a core, or a slice of its die, has sent to a line of a range is on its way. -/
def State.busyLines (s : State) (core part va n : Nat) : Bool :=
  s.reqs.any (fun r => (r.core = core || r.core = sliceCore (dieOfCore core)) && r.part = part && r.op ≠ .fetch &&
    decide (va / 128 ≤ lineNo r.va) && decide (lineNo r.va ≤ (va + n - 1) / 128))

/-- What a load of the issuing wave would come after: its c.invr of those lines, the combining buffers that it overlaps, which drain, a line of
the L1 that has clean bytes but not all of them, which leaves it (R109, R307), what the core has sent to them, and for a DEV or SO arena the
wave's earlier accesses to such arenas (R79, R122, R278, R306, R310, R314). -/
def State.readReady (s : State) (is : Iss) (n : Nat) (r : Route) : Res Unit := do
  is.rangeReady s n [(0, r)]
  let core := coreOf is.a
  require (!(s.core core).wc.any (fun b => r.va / 128 ≤ b.line && b.line ≤ (r.va + n - 1) / 128)) (.drain r.va n)
  require ((segs r.va n).all (fun x => !((s.core core).l1Find x.1 r.attr.gen).any (fun l => l.mixed && !allIn l.valid x.2.1 x.2.2))) (.drain r.va n)
  require (!s.busyLines core (s.agentPart is.a) r.va n) .stall
  require (r.attr.typ = Arn.typN || r.attr.typ = Arn.typWC || (s.strongReqs is.a).isEmpty) .stall

/-- The bytes of a record in pieces, each where its access leads, as loads of the issuing core find them. -/
def State.viewPieces (s : State) (core part : Nat) (l : List (Route × Nat)) : Except (Nat × Nat) (List Byte × Bool × State) :=
  l.foldlM (fun (acc : List Byte × Bool × State) e =>
    (acc.2.2.viewRead core part e.1.attr.gen e.1.va e.2).map (fun x => (acc.1 ++ x.1, acc.2.1 || x.2.1, x.2.2))) ([], false, s)

/-- The pieces of [va, va + n) by line, with the bytes of each. -/
def linePieces (va n : Nat) : List (Nat × Nat) := (segs va n).map (fun (line, off, m) => (line * 128 + off, m))

/-- A record read of the issuing agent, as loads of its bytes would be, precisely: alignment and one arena, the checks at issue of every
line (R74, R80, R98, R101), what the loads would come after, and a translation that is waited for (R96, R97, R252): the bytes, whether the read
met a dropped generation, and the state, in which it has used a link where its home is on another module (R442). -/
def State.readRecord (s : State) (is : Iss) (va : W64) (n align : Nat) : Res (List Byte × Bool × State) := do
  let a := vaOf va
  is.aligned align (is.p.list.map (fun i => (i, a)))
  if is.p = 0 then pure ([], false, s)
  else
    require (arenaOf a = arenaOf (a + n - 1)) (is.fault Code.align a is.p)
    let ps := linePieces a n
    let rs ← is.routesU s false false (ps.map (·.1))
    let l := rs.zip (ps.map (·.2))
    l.forM (fun e => s.readReady is e.2 e.1)
    match s.viewPieces (coreOf is.a) (s.agentPart is.a) l with
    | .ok x => pure x
    | .error (c, x) =>
      if c = Code.link then .error .stall
      else if c = Code.ecc || c = Code.synonym then .error (is.fault c (if c = Code.ecc then x else a) is.p)
      else .error (.hold x c false)

/-- Mark the wave when a record read met a dropped generation (R86). -/
def State.markStale (s : State) (is : Iss) (b : Bool) : State := if b then s.setStale is.a else s

end Sys2Proof.Machine
end

