-- ==== Sys2Proof/Machine/Global.lean ====
section
/-! DEFINITION. The g class (R152 to R156): loads, stores, prefetches and tile moves between registers and global memory; the
tile registers and their shapes (R233 to R235); and b.mtab (R348). -/

namespace Sys2Proof.Machine

/-- Bytes of an SZ code (R34). -/
def szBytes (sz : BitVec 3) : Nat := 2 ^ sz.toNat
/-- Vector registers of an SZ code. -/
def szRegs (sz : BitVec 3) : Nat := max 1 (szBytes sz / 4)

/-- The lanes' addresses of a per-thread access (R33, R74). -/
def Iss.addrs (is : Iss) (x1 : X1F) (a : RegNo) (x0 : BitVec 32) : List (Nat × Nat) :=
  is.p.list.map (fun i => (i, vaOf (is.addr x1.vadr a x0 i)))

/-- The destination registers of a load in a lane: a vector group, or a stoker's scalar (R153, R414). -/
def Iss.loadRegs (is : Iss) (d : RegNo) (sz : BitVec 3) (lane : Nat) : List Reg :=
  if isStoker is.a then [.s d.toNat] else (List.range (szRegs sz)).map (fun j => .v (is.phys (d.toNat + j) lane) lane)

/-! ## Loads -/

/-- The bytes of an access that its core holds dirty, by offset in the line: they keep their values (R108, R287). -/
def State.dirtyBytes (s : State) (core line gen off n : Nat) : AMap Byte :=
  match (s.core core).l1Find line gen with
  | some l => ((List.range n).filter (fun i => l.dirty.getLsbD (off + i))).map (fun i => (off + i, lineByte l.data (off + i)))
  | none => []

/-- Issue one access of a load: a hit in the L1 yields its bytes at once; else a request leaves, behind the combining buffers it overlaps (R79,
R108), for where R114 has the line, or for CH = nol1 for the home; a poisoned line of the L1 fails it, whichever bytes are valid (R119). With
fresh = true the access reads at the home but for bytes that the L1 holds dirty (R287). A read at the home comes after the die's copy of a
software-managed line (R278, R306). -/
def State.loadOne (s : State) (is : Iss) (id lane n ch : Nat) (sx nf fresh : Bool) (rt : Route) : State :=
  let core := coreOf is.a
  let part := s.agentPart is.a
  let line := lineNo rt.va
  let off := rt.va % 128
  let req (op : ReqOp) (alloc : Bool) (after : List Nat) (s : State) : State :=
    let r := Req.blank (is.who is.p) core part rt.va n rt.attr.gen rt.ver rt.attr.typ op
    let s := s.mapPend is.a id (fun p => { p with reqs := p.reqs ++ [s.uid] })
    s.send { r with pend := some id, lane := lane, nf := nf, sx := sx, alloc := alloc } after
  if rt.attr.typ = Arn.typN then
    let miss (s : State) : State :=
      if fresh || ch = chNol1 then
        req (.read (s.dirtyBytes core line rt.attr.gen off n)) false []
          (if rt.attr.swm then s.copyOut (dieOfCore core) part line rt.attr.gen else s)
      else
        let s := s.l1Clear core line rt.attr.gen
        req (.load ch (s.dirtyBytes core line rt.attr.gen off n)) true [] s
    match (s.core core).l1Find line rt.attr.gen with
    | some l =>
      if l.poison then
        s.mapPend is.a id (fun p =>
          p.failWith { Req.blank (is.who is.p) core part rt.va n 0 0 0 (.read []) with lane := lane } Code.ecc (l1Ecc core line s.tick))
      else if allIn (if fresh then l.dirty else l.valid) off n then
        let s := s.mapCore core (fun c => c.l1Put { l with keep := l.keep || ch == chKeep } false)
        let s := if s.staleGen part rt.va rt.attr.gen then s.setStale is.a else s
        s.mapPend is.a id (fun p => p.fill lane n sx (lineBytes l.data off n))
      else miss s
    | none => miss s
  else
    let s := if rt.attr.typ = Arn.typWC then s.drainWc core (· == line) else s
    req (.read []) false (if rt.attr.typ = Arn.typWC then [] else s.strongReqs is.a) s

/-- The failure mask of a g.ldnf that waits for nothing more (R154). -/
def Pend.maskIn (p : Pend) : Pend :=
  if p.reqs.isEmpty then
    { p with writes := p.writes.map (fun w => match w.reg, p.nf with | .k _, some m => { w with val := some m.toNat } | _, _ => w) }
  else p

/-- The accesses of a load that has been entered: one for each route, zeros for the lanes that fail their checks, and the failure mask
(R153, R154). -/
def State.loads (s : State) (is : Iss) (id n ch : Nat) (sx nf fresh : Bool) (rs : List (Nat × Route)) (bad : List Nat) : State :=
  let s := rs.foldl (fun s e => s.loadOne is id e.1 n ch sx nf fresh e.2) s
  (bad.foldl (fun s i => s.mapPend is.a id (fun p => p.fill i n false (List.replicate n 0))) s).mapPend is.a id Pend.maskIn

/-- The body of a per-thread load. -/
def loadBody (d a : RegNo) (x0 : BitVec 32) (x1 : X1F) (nf : Option RegNo) (fresh acq : Bool) (is : Iss) (s : State) :
    Res State := do
  require (!(isStoker is.a && (x1.vadr || x1.sz = 4))) (is.fault0 Code.stoker)
  is.memReady s
  is.room .ldc
  let n := szBytes x1.sz
  let part := s.agentPart is.a
  let addrs := is.addrs x1 a x0
  let (rs, bad) ← match nf with
    | none => do let rs ← is.routes s n false false addrs; pure (rs, ([] : List Nat))
    | some _ => do
      is.aligned n addrs
      let l := addrs.map (fun e => (e.1, s.route (coreOf is.a) part e.2 false false))
      pure (l.filterMap (fun e => match e.2 with | .ok r => some (e.1, r) | .error _ => none),
            l.filterMap (fun e => match e.2 with | .ok _ => none | .error _ => some e.1))
  is.rangeReady s n rs
  let (id, s) := s.fresh
  let regs := is.p.list.flatMap (fun i => is.loadRegs d x1.sz i)
  let kreg : List Reg := match nf with | some c => if c = 0 then [] else [.k c.toNat] | none => []
  let sc := s.scope is.a x1.sc
  let p : Pend := { Pend.awaiting id .ldc is (regs ++ kreg) [] with
    nf := nf.map (fun _ => lanesOf bad), acq := if acq then some (BitVec.ofNat 3 sc) else none }
  pure ((s.addPend is.a p).loads is id n x1.ch.toNat x1.sx nf.isSome fresh rs bad)

/-- g.ld (R153). -/
def execGLd (h : Hdr) (d a : RegNo) (x0 : BitVec 32) (x1 : X1F) (s : State) :=
  issue .all h 16 { rd := [baseUse x1.vadr a], wr := [.g d (szRegs x1.sz)] } s (loadBody d a x0 x1 none false false)

/-- g.ldnf (R154). -/
def execGLdnf (h : Hdr) (d a c : RegNo) (x0 : BitVec 32) (x1 : X1F) (s : State) :=
  issue .wave h 16 { rd := [baseUse x1.vadr a], wr := [.v d (szRegs x1.sz)] ++ (if c = 0 then [] else [.k c]) } s
    (loadBody d a x0 x1 (some c) false false)

/-! ## Stores -/

/-- Merge bytes into the core's combining buffers; a full buffer drains, and the oldest one where all eight are taken (R79). -/
def State.wcStore (s : State) (w : Who) (line gen : Nat) (mask : BitVec 128) (data : BitVec 1024) : State :=
  let core := coreOf w.a
  let bs := (s.core core).wc
  match bs.find? (fun b => b.line = line && b.gen = gen) with
  | some b =>
    let m := b.mask ||| mask
    let b' : WcBuf := { b with who := w, mask := m, data := mergeLine b.data mask data }
    let s := s.mapCore core (fun c => { c with wc := c.wc.map (fun x => if x = b then b' else x) })
    if m = BitVec.allOnes 128 then s.drainWc core (· == line) else s
  | none =>
    let s := match bs with
      | b :: _ => if bs.length < 8 then s else s.drainWc core (· == b.line)
      | [] => s
    s.mapCore core (fun c => { c with wc := c.wc ++ [{ who := w, line := line, gen := gen, mask := mask, data := mergeLine 0 mask data }] })

/-- A masked write on its way to the home, which the outstanding store waits for. -/
def State.writeReq (s : State) (is : Iss) (id : Nat) (ts : Lanes) (rt : Route) (mask : BitVec 128) (data : BitVec 1024)
    (after : List Nat) : State :=
  let r := Req.blank (is.who ts) (coreOf is.a) (s.agentPart is.a) (rt.va - rt.va % 128) 128 rt.attr.gen rt.ver rt.attr.typ
    (.write mask data)
  let s := s.mapPend is.a id (fun p => { p with reqs := p.reqs ++ [s.uid] })
  s.send { r with pend := some id } after

/-- A store that misses with CH = nol1: one masked write for each line of the instruction (R108, R125), after the die's copy of a
software-managed line (R278). -/
def State.missStore (s : State) (is : Iss) (id : Nat) (ts : Lanes) (rt : Route) (mask : BitVec 128) (data : BitVec 1024) : State :=
  let mine (r : Req) : Bool := r.pend == some id && lineNo r.va == lineNo rt.va && r.op.isWrite
  if s.reqs.any mine then
    { s with reqs := s.reqs.map (fun (r : Req) =>
        if mine r then
          { r with mask := r.mask ||| ts
                   op := match r.op with | .write m d => .write (m ||| mask) (mergeLine d mask data) | op => op }
        else r) }
  else
    let s := if rt.attr.swm then s.copyOut (dieOf is.a) (s.agentPart is.a) (lineNo rt.va) rt.attr.gen else s
    (s.writeReq is id ts rt mask data []).noFill (coreOf is.a) (· == lineNo rt.va)

/-- Issue one access of a store of at most one line, made for threads ts: into the L1, into a combining buffer, or as a masked write to the home (R79,
R108); a store of a dropped generation is discarded (R86). -/
def State.storeOne (s : State) (is : Iss) (id : Nat) (ts : Lanes) (ch : Nat) (rt : Route) (l : List Byte) : State :=
  let core := coreOf is.a
  let line := lineNo rt.va
  let off := rt.va % 128
  let mask := maskOf off l.length
  let data := placeBytes off l
  let t := rt.attr.typ
  if s.staleGen (s.agentPart is.a) rt.va rt.attr.gen then s
  else if t = Arn.typN then
    if ch = chNol1 && ((s.core core).l1Find line rt.attr.gen).isNone then
      s.missStore is id ts rt mask data
    else s.l1Store core line rt.attr.gen ch mask data (is.who ts)
  else if t = Arn.typWC then s.wcStore (is.who ts) line rt.attr.gen mask data
  else s.writeReq is id ts rt mask data (s.strongReqs is.a)

/-- The bytes of a lane's store data (R153). -/
def Iss.storeBytes (is : Iss) (b : RegNo) (n lane : Nat) : List Byte :=
  if n < 4 then leBytes n (is.v b lane).toNat else (List.range (n / 4)).flatMap (fun j => leBytes 4 (is.vj b j lane).toNat)

/-- A vector register as the data of a g.st reads it: the result of a function of R225 that has not returned is read as written, all else
as R200 has it. R407 gives the written value as the only outcome of such a store, where R200 leaves either (DEDUCED, log 145). -/
def Ctx.readData (c : Ctx) (tick n lane : Nat) : W32 :=
  match Ctx.pendVal { c with pend := c.pend.filter (·.fwd) } (.v n lane) with
  | some v => BitVec.ofNat 32 v
  | none => c.readV tick n lane

/-- The bytes of a lane's data of a g.st (R153, R407). -/
def Iss.dataBytes (is : Iss) (b : RegNo) (n lane : Nat) : List Byte :=
  let rd (j : Nat) : Nat := (is.c.readData is.tick (is.phys (b.toNat + j) lane) lane).toNat
  if n < 4 then leBytes n (rd 0) else (List.range (n / 4)).flatMap (fun j => leBytes 4 (rd j))

/-- g.st: lanes in increasing order, so that the highest one wins (R141, R153). -/
def execGSt (h : Hdr) (a b : RegNo) (x0 : BitVec 32) (x1 : X1F) (s : State) :=
  issue .wave h 16 { rd := [baseUse x1.vadr a, .v b (szRegs x1.sz)], wr := [] } s (fun is s => do
    is.memReady s
    is.room .stc
    let n := szBytes x1.sz
    let rs ← is.routes s n true false (is.addrs x1 a x0)
    let (id, s) := s.fresh
    let s := s.addPend is.a (Pend.blank id .stc is)
    pure (rs.foldl (fun s e => s.storeOne is id (lanesOf [e.1]) x1.ch.toNat e.2 (is.dataBytes b n e.1)) s))

/-- g.pf: a request for each passing thread's line; nothing where an access would fault or the arena is not N (R155). -/
def execGPf (h : Hdr) (a : RegNo) (x0 : BitVec 32) (x1 : X1F) (s : State) :=
  issue .wave h 16 { rd := [baseUse x1.vadr a], wr := [] } s (fun is s => do
    is.memReady s
    let core := coreOf is.a
    let part := s.agentPart is.a
    let ch := x1.ch.toNat
    pure ((is.addrs x1 a x0).foldl (fun s e =>
      match s.route core part e.2 false false with
      | .error _ => s
      | .ok rt =>
        if rt.attr.typ ≠ Arn.typN then s
        else
          let r := Req.blank (is.who is.p) core part (rt.va - rt.va % 128) 128 rt.attr.gen rt.ver Arn.typN (.prefetch ch)
          (if ch = chNol1 then s else s.l1Clear core (lineNo rt.va) rt.attr.gen).send { r with alloc := ch ≠ chNol1 } []) s))

/-! ## Tile registers -/

/-- A tile configuration's fields (R233). -/
def cfgRows (w : W32) : Nat := bits w.toNat 0 8
def cfgCols (w : W32) : Nat := if bits w.toNat 8 8 = 0 then 256 else bits w.toNat 8 8
def cfgTy (w : W32) : Ty := Ty.ofCode (w.extractLsb' 16 4)
def cfgSwz (w : W32) : Nat := bits w.toNat 20 3

/-- A shape: rows, columns, type, bytes of a row and swizzle (R234). -/
structure Shape where
  rows : Nat
  cols : Nat
  ty : Ty
  rb : Nat
  swz : Nat
  deriving DecidableEq, Repr

/-- The shape of a configuration, where it is valid (R234). -/
def shapeOf (w : W32) : Option Shape :=
  let b := cfgCols w * (cfgTy w).bits
  let rb := b / 8
  if 1 ≤ cfgRows w && cfgRows w ≤ 128 && b % 8 = 0 && rb % 16 = 0 && rb ≤ 256 then
    some { rows := cfgRows w, cols := cfgCols w, ty := cfgTy w, rb := rb, swz := cfgSwz w }
  else none
/-- The shape of a team's configuration, where its number and its contents are valid (R234). -/
def Team.shape (t : Team) (n : Nat) : Option Shape :=
  if n < t.foot.tiles then shapeOf (AMap.get 0 t.tcfg n) else none
/-- Where a byte of a tile stands: 256 bytes a row (R233). -/
def tileAddr (t row byte : Nat) : Nat := 32768 * t + 256 * row + byte

/-- TILE_SHAPE unless the tile and its configuration are valid (R234). -/
def Iss.tileShape (is : Iss) (s : State) (n : Nat) : Res (Team × Shape) :=
  match s.teamOf is.c with
  | none => .error (is.fault0 Code.iil)
  | some t =>
    match t.shape n with
    | none => .error (is.fault0 Code.tileShape)
    | some sh => .ok (t, sh)

/-- A wave instruction or a task that names a tile waits for the loads on their way to it and, for an instruction, for the tasks
that hold it; a failed load of it stops the wave (R97, R235). -/
def Iss.tileWait (is : Iss) (s : State) (n : Nat) (tasks : Bool) : Res Unit := do
  let mine (p : Pend) : Bool := match p.tile with | some (t, _) => t == n | none => false
  match is.c.pend.find? (fun p => mine p && p.fail.isSome) with
  | some p => .error (.failed p.id)
  | none => pure ()
  require (!s.ctxs.any (fun e => e.2.team = is.c.team && e.2.pend.any mine)) .stall
  require (!tasks || !(s.quad (quadOf is.a)).tasks.any (fun t => t.team = is.c.team && t.tiles.contains n)) .stall

/-- The rows of a global tile move, each within one arena (R74, R156). -/
def Iss.tileRows (is : Iss) (a : RegNo) (b : RegNo) (x0 : BitVec 32) (sh : Shape) : Res (List (Nat × Nat)) := do
  let base := is.addrS a x0
  let str := is.s b
  require (bits base.toNat 0 4 = 0) (is.fault Code.align (vaOf base) is.p)
  require (bits str.toNat 0 4 = 0) (is.fault Code.align (vaOf base) is.p)
  let rows := (List.range sh.rows).map (fun r => (r, vaOf (base + BitVec.ofNat 64 r * str)))
  match rows.find? (fun e => arenaOf e.2 ≠ arenaOf (e.2 + sh.rb - 1)) with
  | some e => .error (is.fault Code.align e.2 is.p)
  | none => pure rows

/-- The pieces of tile rows by line: row, byte in the row, address, bytes. -/
def rowPieces (rows : List (Nat × Nat)) (rb : Nat) : List (Nat × Nat × Nat × Nat) :=
  rows.flatMap (fun e => ((segs e.2 rb).foldl (fun (acc : List (Nat × Nat × Nat × Nat) × Nat) x =>
    (acc.1 ++ [(e.1, acc.2, e.2 + acc.2, x.2.2)], acc.2 + x.2.2)) ([], 0)).1)

/-- g.ldt (R156). -/
def execGLdt (h : Hdr) (d a b : RegNo) (x0 : BitVec 32) (x1 : X1F) (s : State) :=
  issue .core h 16 { rd := [.s a, .s b], wr := [] } s (fun is s => do
    let (_, sh) ← is.tileShape s d.toNat
    let rows ← is.tileRows a b x0 sh
    let pieces := rowPieces rows sh.rb
    let rs ← is.routesU s false false (pieces.map (fun e => e.2.2.1))
    is.memReady s
    is.tileWait s d.toNat true
    is.room .ldc
    is.rangeReady s 1 (rs.map (fun r => (0, r)))
    let (id, s) := s.fresh
    let s := s.addPend is.a { Pend.blank id .ldc is with tile := some (d.toNat, []) }
    pure ((pieces.zip rs).foldl (fun s e =>
      s.loadOne is id (256 * e.1.1 + e.1.2.1) e.1.2.2.2 x1.ch.toNat false false false e.2) s))

/-- g.stt (R156). -/
def execGStt (h : Hdr) (d a b : RegNo) (x0 : BitVec 32) (x1 : X1F) (s : State) :=
  issue .core h 16 { rd := [.s a, .s b], wr := [] } s (fun is s => do
    let (t, sh) ← is.tileShape s d.toNat
    let rows ← is.tileRows a b x0 sh
    let pieces := rowPieces rows sh.rb
    let rs ← is.routesU s true false (pieces.map (fun e => e.2.2.1))
    is.memReady s
    is.tileWait s d.toNat true
    is.room .stc
    let (id, s) := s.fresh
    let s := s.addPend is.a (Pend.blank id .stc is)
    pure ((pieces.zip rs).foldl (fun s e =>
      s.storeOne is id is.p x1.ch.toNat e.2 (bytesAt t.tiles (tileAddr d.toNat e.1.1 e.1.2.1) e.1.2.2.2)) s))

/-- b.mtab: the table is read and checked in one step, before which no other instruction of the wave issues; a failed access faults precisely
(R60, R348; log 147). -/
def execBMtab (h : Hdr) (sub : BitVec 2) (a : RegNo) (imm : BitVec 32) (s : State) :=
  issue .wave h 12 { rd := if sub = 0 then [.s a] else [], wr := [] } s (fun is s => do
    is.memReady s
    let va := (if sub = 0 then is.s a else is.pc) + sx64 imm
    let (l, stale, s) ← wholeWave (s.readRecord is va 128 128)
    require (l.all (fun b => b.toNat < is.c.nreg)) (is.fault0 Code.iil)
    pure ((s.upd is (fun c => { c with mtab := BitVec.ofNat 1024 (ofLe l) })).markStale is stale))

end Sys2Proof.Machine
end

