-- ==== Sys2Proof/Machine/Local.lean ====
section
/-! DEFINITION. The local store: windows and members (R134 to R137), guard granules (R142), swizzle tags (R144, R145), barrier
objects and their flips (R157 to R162), the range scoreboard's stall (R151), and the l class (R147 to R150). -/

namespace Sys2Proof.Machine

/-! ## Windows -/

/-- Where a local-store address leads: a team's window, or the private local store of a die's hearth core (R135, R397). -/
inductive LsRef where
  | team (key : Nat)
  | hearth (die : Nat)
  deriving DecidableEq, Repr

/-- A local-store place: where, the offset, and the bytes that exist there (R137). -/
structure LsAt where
  ref : LsRef
  off : Nat
  limit : Nat
  deriving DecidableEq, Repr

/-- Index of a team in its gang (R136). -/
def Team.gangIdx (t : Team) : Nat := if t.foot.gang = 0 then 0 else t.teamId % t.foot.gang
/-- The member that DIE and RANK name, with its key (R136). -/
def State.member (s : State) (key : Nat) (t : Team) (die rank : Nat) : Option (Nat × Team) :=
  let idx := 4 * ((t.gangIdx / 4) ^^^ die) + rank
  if t.foot.gang ≤ 1 then (if idx = 0 then some (key, t) else none)
  else if t.foot.gang ≤ idx then none
  else (t.gang[idx]?).bind (fun k => (s.teams.find k).map (fun x => (k, x)))

/-- Bytes of a hearth's local store (R397). -/
def hearthBytes : Nat := 262144

/-- The place of a local-store address of a team, or none where it reaches no member (R135 to R137). -/
def State.lsOfTeam (s : State) (key : Nat) (addr : Nat) : Option LsAt :=
  match s.teams.find key with
  | none => none
  | some t =>
    (s.member key t (bits addr 21 1) (bits addr 19 2)).map (fun m =>
      { ref := .team m.1, off := bits addr 0 19, limit := m.2.foot.lsbytes })
/-- The place of a local-store address of an agent. -/
def State.lsOf (s : State) (a : Agent) (c : Ctx) (addr : Nat) : Option LsAt :=
  match a with
  | .hearth d => if bits addr 19 3 = 0 then some { ref := .hearth d, off := bits addr 0 19, limit := hearthBytes } else none
  | .slot .. => s.lsOfTeam c.team addr

/-- Bytes of a window or of a hearth's local store. -/
def State.lsRead (s : State) (r : LsRef) (off n : Nat) : List Byte :=
  match r with
  | .team k => match s.teams.find k with | some t => bytesAt t.win off n | none => List.replicate n 0
  | .hearth d => bytesAt (s.die d).hls off n

/-- Write bytes there, as they are. -/
def State.lsPut (s : State) (r : LsRef) (off : Nat) (l : List Byte) : State :=
  match r with
  | .team k => s.mapTeam k (fun t => { t with win := putBytes t.win off l })
  | .hearth d => s.mapDie d (fun x => { x with hls := putBytes x.hls off l })

/-- The physical offset of a logical one under a swizzle (R144). -/
def swizzle (z off : Nat) : Nat :=
  let q := off % 512
  off - q + (q ^^^ (((q / 128 * z) % 8) * 16))

/-! ## Barrier objects (R157, R158, R162) -/

/-- The 128 bits of an object. -/
def State.object (s : State) (k off : Nat) : Nat := ofLe (s.lsRead (.team k) off 16)
def objGen (v : Nat) : Nat := bits v 0 4
def objPend (v : Nat) : Nat := bits v 4 12
def objExp (v : Nat) : Nat := bits v 16 12
def objInb (v : Nat) : Nat := bits v 32 32
def objOutb (v : Nat) : Nat := bits v 64 32
def objRemote (v : Nat) : Bool := v.testBit 96
def objFlt (v : Nat) : Bool := v.testBit 97
def objSc (v : Nat) : Nat := bits v 104 3
/-- A must-be-zero bit is set, or SC holds 7 (R157, R159). -/
def objBad (v : Nat) : Bool := bits v 28 4 ≠ 0 || bits v 98 6 ≠ 0 || bits v 107 21 ≠ 0 || objSc v = 7

/-- The half-completes that a team holds: per object, those on their way to it (0), those it holds (1), and the ones it has
sent in the current phase (2) (R162). -/
def halfKey (off gen kind : Nat) : Nat := (16 * off + gen) * 4 + kind

/-- The partner of a REMOTE object's team: rank 0 of the other half (R162). -/
def Team.partner (t : Team) : Option Nat :=
  if t.gangIdx = 0 then t.gang[4]? else if t.gangIdx = 4 then t.gang[0]? else none

/-- Wake every wave that waits on an object with a token other than gen: an acquire at the SC that the object has now, resolved for the wave
(R14, R158, R160), or none. -/
def State.wakeBar (s : State) (k off gen : Nat) (acq : Option (BitVec 3)) : State :=
  let cs : AMap Ctx := s.ctxs.map (fun e =>
    match e.2.park with
    | .bar t o tok =>
      if t = k && o = off && tok % 16 ≠ gen then
        (e.1, { e.2 with park := .fence [] (acq.map (fun sc => BitVec.ofNat 3 (s.scope (agentOfKey e.1) sc))) })
      else e
    | _ => e)
  { s with ctxs := cs }

/-- The test that follows every update of an object: the flip, or for a REMOTE object its half-complete (R158, R162). -/
def State.flipTest (s : State) (k off : Nat) : State :=
  let v := s.object k off
  if objPend v ≠ 0 || objInb v ≠ 0 || objOutb v ≠ 0 then s
  else
    let gen := (objGen v + 1) % 16
    let flipped (s : State) : State :=
      (s.lsPut (.team k) off (leBytes 16 (setBits (setBits v 0 4 gen) 4 12 (objExp v)))).wakeBar k off gen (some (BitVec.ofNat 3 (objSc v)))
    if !objRemote v then flipped s
    else
      match s.teams.find k with
      | none => s
      | some t =>
        let g := objGen v
        let s := match t.partner with
          | some p =>
            if t.half.contains (halfKey off g 2) then s
            else (s.mapTeam p (fun x => { x with half := x.half ++ [halfKey off g 0] })).mapTeam k (fun x =>
              { x with half := x.half ++ [halfKey off g 2] })
          | none => s
        if t.half.contains (halfKey off g 1) then
          flipped (s.mapTeam k (fun x => { x with half := x.half.filter (fun h => h ≠ halfKey off g 1 && h ≠ halfKey off g 2) }))
        else s

/-- An update of an object and its test. -/
def State.putObject (s : State) (k off v : Nat) : State := (s.lsPut (.team k) off (leBytes 16 v)).flipTest k off

/-- A store by an l-class instruction, a tile store or a copy: bytes at a place, and the test of every object among them, which
are the offsets that barrier instructions have named (R158; log 27). DESIGN CHOICE (log 148): a store that changes GEN without a flip wakes no wave
that is parked on the object. -/
def State.lsWrite (s : State) (r : LsRef) (off : Nat) (l : List Byte) : State :=
  let s := s.lsPut r off l
  match r with
  | .hearth _ => s
  | .team k =>
    match s.teams.find k with
    | none => s
    | some t => (t.objs.filter (fun o => o < off + l.length && off < o + 16)).foldl (fun s o => s.flipTest k o) s

/-- Bytes subtracted from INB or OUTB of an object as a copy's bytes land (R167). -/
def State.countBytes (s : State) (k off n : Nat) (out : Bool) : State :=
  let v := s.object k off
  let f := if out then objOutb v else objInb v
  s.putObject k off (setBits v (if out then 64 else 32) 32 (f + 2 ^ 32 - n % 2 ^ 32))

/-! ## Guard granules (R142) and swizzle tags (R144, R145) -/

/-- The bank of a window offset: 1 in the SRAM-die half (R142). -/
def Team.bank (t : Team) (off : Nat) : Nat := if 262144 ≤ t.base + off then 1 else 0
/-- The first byte of a range that lies in an armed granule. -/
def Team.guardHit (t : Team) (off n : Nat) : Option Nat :=
  (t.guards.filter (fun g => 64 * g < off + n && off < 64 * g + 64)).foldl (fun best g =>
    let x := max off (64 * g)
    match best with | none => some x | some b => some (min b x)) none
/-- A touch of a range sets the guard latch of an agent, unless it is set (R142). -/
def State.touch (s : State) (a : Agent) (pc : W64) (p : LsAt) (n : Nat) : State :=
  match p.ref with
  | .hearth _ => s
  | .team k =>
    match (s.teams.find k).bind (fun t => (t.guardHit p.off n).map (fun o => (o, t.bank o))) with
    | none => s
    | some (o, b) => s.mapCtx a (fun c => if c.guard.isNone then { c with guard := some { off := o, bank := b, pc := pc } } else c)

/-- The tag of the granule of an offset (R144). -/
def State.tagAt (s : State) (r : LsRef) (off : Nat) : Nat :=
  match r with
  | .team k => match s.teams.find k with | some t => t.swz.get 0 (off / 512) | none => 0
  | .hearth _ => 0
/-- Set the tag of the granule of an offset (R145). -/
def State.setTag (s : State) (r : LsRef) (off z : Nat) : State :=
  match r with
  | .team k => s.mapTeam k (fun t => { t with swz := AMap.set 0 t.swz (off / 512) z })
  | .hearth _ => s
/-- Set the tags of every granule that a range touches. -/
def State.setTags (s : State) (r : LsRef) (off n z : Nat) : State :=
  (List.range ((off % 512 + n + 511) / 512)).foldl (fun s i => s.setTag r (off / 512 * 512 + 512 * i) z) s

/-! ## Accesses of l-class instructions -/

/-- The local-store address of a lane (R147). -/
def Iss.lsAddr (is : Iss) (vadr : Bool) (a : RegNo) (disp : BitVec 32) (lane : Nat) : Nat :=
  (((if vadr then is.v a lane else (is.s a).extractLsb' 0 32) + disp : BitVec 32)).toNat

/-- The range check of R137 for passing threads, then alignment (R148): LS_RANGE has precedence. -/
def Iss.lsPlaces (is : Iss) (s : State) (n align : Nat) (l : List (Nat × Nat)) : Res (List (Nat × LsAt)) := do
  let ps := l.map (fun e => (e.1, e.2, s.lsOf is.a is.c e.2))
  let bad := ps.filter (fun e => match e.2.2 with | none => true | some p => decide (p.limit < p.off + n))
  match bad with
  | e :: _ => .error (is.fault Code.lsRange e.2.1 (lanesOf (bad.map (·.1))))
  | [] => pure ()
  is.aligned align l
  pure (ps.filterMap (fun e => e.2.2.map (fun p => (e.1, p))))

/-- A byte at a physical offset lies in an entry's bounds, as it stands or as the entry's copy finds it under its swizzle (R144, R151,
R169; log 113). -/
def Board.covers (b : Board) (x : Nat) : Bool :=
  decide (b.lo ≤ x) && decide (x < b.hi) || decide (b.lo ≤ swizzle b.swz x) && decide (swizzle b.swz x < b.hi)

/-- An l-class instruction stalls while a byte it touches lies in an entry of its core's scoreboard (R151, R170). -/
def Iss.boardReady (is : Iss) (s : State) (n : Nat) (l : List LsAt) : Res Unit :=
  require (!(s.core (coreOf is.a)).board.any (fun b => l.any (fun p =>
    p.ref == .team b.team && (List.range n).any (fun i => b.covers (p.off + i))))) .stall

/-- The uses of a local base register (R147). -/
def lsBase (vadr : Bool) (a : RegNo) : Use := if vadr then .v a 1 else .s a

/-- The checks of a per-thread l-class access of n bytes, the stalls, and the guard latch. -/
def Iss.lsEnter (is : Iss) (s : State) (vadr : Bool) (a : RegNo) (imm : BitVec 32) (n align : Nat) (guarded : Bool) :
    Res (List (Nat × LsAt) × State) := do
  let ps ← is.lsPlaces s n align (is.p.list.map (fun i => (i, is.lsAddr vadr a imm i)))
  is.memReady s
  is.boardReady s n (ps.map (·.2))
  pure (ps, if guarded then ps.foldl (fun s e => s.touch is.a is.pc e.2 n) s else s)

/-- l.ld (R148). -/
def execLLd (h : Hdr) (vadr sx : Bool) (d a : RegNo) (sz : BitVec 3) (imm : BitVec 32) (s : State) :=
  issue .wave h 12 { rd := [lsBase vadr a], wr := [.v d (szRegs sz)] } s (fun is s => do
    let n := szBytes sz
    let (ps, s) ← is.lsEnter s vadr a imm n n true
    is.room .ldc
    let (id, s) := s.fresh
    let regs := is.p.list.flatMap (fun i => is.loadRegs d sz i)
    let s := s.addPend is.a (Pend.awaiting id .ldc is regs [])
    pure (ps.foldl (fun s e => s.mapPend is.a id (fun p => p.fill e.1 n sx (s.lsRead e.2.ref e.2.off n))) s))

/-- l.st: lanes in increasing order (R141, R148). -/
def execLSt (h : Hdr) (vadr : Bool) (a b : RegNo) (sz : BitVec 3) (imm : BitVec 32) (s : State) :=
  issue .wave h 12 { rd := [lsBase vadr a, .v b (szRegs sz)], wr := [] } s (fun is s => do
    let n := szBytes sz
    let (ps, s) ← is.lsEnter s vadr a imm n n true
    is.room .stc
    let (id, s) := s.fresh
    let s := s.addPend is.a (Pend.blank id .stc is)
    pure (ps.foldl (fun s e => s.lsWrite e.2.ref e.2.off (is.storeBytes b n e.1)) s))

/-- The read-modify-writes of an instruction at the local store, one lane after the other; old values by lane (R148). -/
def lsAtomics (n : Nat) (f : Nat → Nat → Nat) : List (Nat × LsAt) → State → State × List (Nat × Nat)
  | [], s => (s, [])
  | (i, p) :: l, s =>
    let old := ofLe (s.lsRead p.ref p.off n)
    let s := s.lsWrite p.ref p.off (leBytes n (f i old))
    let (s, r) := lsAtomics n f l s
    (s, (i, old) :: r)

/-- What l.atom and l.cas share. -/
def lsAtomic (h : Hdr) (vadr : Bool) (t : TField) (d a : RegNo) (rd : List Use) (imm : BitVec 32) (s : State)
    (f : Iss → Nat → Nat → Nat) : Host.Outcome State Fault Refusal :=
  let n := t.ty.bits / 8
  issue .wave h 12 { rd := lsBase vadr a :: rd, wr := [.v d t.ty.regs] } s (fun is s => do
    let (ps, s) ← is.lsEnter s vadr a imm n n true
    is.room .ldc
    let (s, olds) := lsAtomics n (f is) ps s
    s.pendV is .ldc t.ty.is64 d olds)

/-- l.atom (R148). -/
def execLAtom (h : Hdr) (vadr : Bool) (t : TField) (d a b : RegNo) (opr : BitVec 3) (imm : BitVec 32) (s : State) :=
  lsAtomic h vadr t d a [.v b t.ty.regs] imm s (fun is i old => atomOp opr t.ty old (is.vw t.ty.is64 b i))

/-- l.cas (R148). -/
def execLCas (h : Hdr) (vadr : Bool) (t : TField) (d a b c : RegNo) (imm : BitVec 32) (s : State) :=
  lsAtomic h vadr t d a [.v b t.ty.regs, .v c t.ty.regs] imm s (fun is i old =>
    if old = is.vw t.ty.is64 b i then is.vw t.ty.is64 c i else old)

/-- l.fill (R148). -/
def execLFill (h : Hdr) (vadr : Bool) (a b c : RegNo) (imm : BitVec 32) (s : State) :=
  issue .wave h 12 { rd := [lsBase vadr a, .v b 1], wr := [] } s (fun is s => do
    let (ps, s) ← is.lsEnter s vadr a imm (4 * c.toNat) 4 true
    is.room .stc
    let (id, s) := s.fresh
    let s := s.addPend is.a (Pend.blank id .stc is)
    pure (ps.foldl (fun s e =>
      s.lsWrite e.2.ref e.2.off ((List.range c.toNat).flatMap (fun _ => leBytes 4 (is.v b e.1).toNat))) s))

/-- l.swz: no data, no guard (R149). -/
def execLSwz (h : Hdr) (vadr : Bool) (a : RegNo) (tag : BitVec 3) (imm : BitVec 32) (s : State) :=
  issue .wave h 12 { rd := [lsBase vadr a], wr := [] } s (fun is s => do
    let (ps, s) ← is.lsEnter s vadr a imm 1 1 false
    is.room .stc
    let (id, s) := s.fresh
    let s := s.addPend is.a (Pend.blank id .stc is)
    pure (ps.foldl (fun s e => s.setTag e.2.ref e.2.off tag.toNat) s))

/-! ## Rows in the local store under a swizzle (R144, R150) -/

/-- The 16-byte chunks of a row at a local-store address: byte in the row, and the logical place. -/
def rowChunks (row addr rb : Nat) : List (Nat × Nat × Nat) :=
  (List.range (ceilDiv rb 16)).map (fun j => (row, 16 * j, (addr + 16 * j) % 2 ^ 32))

/-- A chunk's place: logical, and the physical offset of its first byte. -/
structure Chunk where
  row : Nat
  byte : Nat
  n : Nat
  addr : Nat
  at_ : LsAt
  phys : Nat
  deriving DecidableEq, Repr

/-- The chunks of the rows of an access at a team's local-store addresses, or the first address that leaves its member
(R137); both the logical and the physical bytes must exist (log 28). DESIGN CHOICE (log 114): a row that runs past OFF 2^19 − 1 goes on at
the next RANK's window, as its 32-bit address does; an l.fill or a copy row that does so faults LS_RANGE. -/
def State.chunks (s : State) (key z rb : Nat) (rows : List (Nat × Nat)) : Except Nat (List Chunk) :=
  (rows.flatMap (fun e => rowChunks e.1 e.2 rb)).foldlM (fun acc e =>
    let n := min 16 (rb - e.2.1)
    match s.lsOfTeam key e.2.2 with
    | none => .error e.2.2
    | some p =>
      if p.limit < p.off + n || p.limit ≤ swizzle z p.off || p.limit ≤ swizzle z (p.off + n - 1) then .error e.2.2
      else .ok (acc ++ [{ row := e.1, byte := e.2.1, n := n, addr := e.2.2, at_ := p, phys := swizzle z p.off }])) []

/-- The first chunk whose granule does not carry the expected tag (R146). -/
def State.badTag (s : State) (z : Nat) (cs : List Chunk) : Option Chunk :=
  cs.find? (fun c => s.tagAt c.at_.ref c.phys ≠ z)

/-- Rows of a local tile move. -/
def Iss.lsRows (is : Iss) (a b : RegNo) (imm : BitVec 32) (rows : Nat) : List (Nat × Nat) :=
  let base := (is.s a).toNat % 2 ^ 32 + imm.toNat
  let str := (is.s b).toNat % 2 ^ 32
  (List.range rows).map (fun r => (r, (base + r * str) % 2 ^ 32))

/-- The checks of a local tile move before its effect (R137, R150): shape, alignment, range. -/
def Iss.lsTile (is : Iss) (s : State) (d a b : RegNo) (imm : BitVec 32) : Res (Team × Shape × List Chunk) := do
  let (t, sh) ← is.tileShape s d.toNat
  let rows := is.lsRows a b imm sh.rows
  let base := ((is.s a).toNat + imm.toNat) % 2 ^ 32
  match s.chunks is.c.team sh.swz sh.rb rows with
  | .error x => .error (is.fault Code.lsRange x is.p)
  | .ok cs =>
    require (base % 16 = 0 && (is.s b).toNat % 16 = 0) (is.fault Code.align base is.p)
    pure (t, sh, cs)

/-- The touches of chunks. -/
def State.touchChunks (s : State) (a : Agent) (pc : W64) (cs : List Chunk) : State :=
  cs.foldl (fun s c => s.touch a pc { c.at_ with off := c.phys } c.n) s
/-- Bytes of a chunk in the local store. -/
def State.readChunk (s : State) (c : Chunk) : List Byte := s.lsRead c.at_.ref c.phys c.n

/-- l.ldt: the tags are those that it reads once its scoreboard lets it issue (R146, R150, R151). -/
def execLLdt (h : Hdr) (d a b : RegNo) (imm : BitVec 32) (s : State) :=
  issue .core h 12 { rd := [.s a, .s b], wr := [] } s (fun is s => do
    let (_, sh, cs) ← is.lsTile s d a b imm
    is.memReady s
    is.boardReady s 16 (cs.map (fun c => { c.at_ with off := c.phys }))
    match s.badTag sh.swz cs with
    | some c => .error (is.fault Code.swz (c.addr - c.addr % 512) is.p)
    | none => pure ()
    is.tileWait s d.toNat true
    is.room .ldc
    let s := s.touchChunks is.a is.pc cs
    let (id, s) := s.fresh
    let m := cs.foldl (fun m c => putAll m (256 * c.row + c.byte) (s.readChunk c)) ([] : AMap Byte)
    pure (s.addPend is.a { Pend.blank id .ldc is with tile := some (d.toNat, m) }))

/-- l.stt: later rows win; the tag of every granule touched becomes SWZ (R150). -/
def execLStt (h : Hdr) (d a b : RegNo) (imm : BitVec 32) (s : State) :=
  issue .core h 12 { rd := [.s a, .s b], wr := [] } s (fun is s => do
    let (t, sh, cs) ← is.lsTile s d a b imm
    is.memReady s
    is.boardReady s 16 (cs.map (fun c => { c.at_ with off := c.phys }))
    is.tileWait s d.toNat true
    is.room .stc
    let s := s.touchChunks is.a is.pc cs
    let (id, s) := s.fresh
    let s := s.addPend is.a (Pend.blank id .stc is)
    pure (cs.foldl (fun s c =>
      (s.lsWrite c.at_.ref c.phys (bytesAt t.tiles (tileAddr d.toNat c.row c.byte) c.n)).setTag c.at_.ref c.phys sh.swz) s))

end Sys2Proof.Machine
end

