-- ==== Sys2Proof/Machine/Barrier.lean ====
section
/-! DEFINITION. The barrier instructions a.bar.* (R159, R160, R163) and a.fence (R290). -/

namespace Sys2Proof.Machine

/-- A barrier instruction's object: where it stands, its bits and its scope, resolved. -/
structure Obj where
  key : Nat
  off : Nat
  v : Nat
  sc : Nat
  addr : Nat
  deriving DecidableEq, Repr

/-- The checks of R159 on an object, after the guard latch: ALIGN, LS_RANGE, HANDLE, and R162's on a REMOTE object; the code and
the address of the first that fails. -/
def State.checkObj (s : State) (a : Agent) (key addr : Nat) : Except (Nat × Nat) Obj := do
  if addr % 16 ≠ 0 then throw (Code.align, addr)
  match s.lsOfTeam key addr with
  | none => throw (Code.lsRange, addr)
  | some p =>
    if p.limit < p.off + 16 then throw (Code.lsRange, addr)
    else
      match p.ref with
      | .hearth _ => throw (Code.lsRange, addr)
      | .team k =>
        let v := s.object k p.off
        let sc := s.scope a (BitVec.ofNat 3 (objSc v))
        if objBad v || (objRemote v && sc < 3) then throw (Code.handle, addr)
        else pure { key := k, off := p.off, v := v, sc := sc, addr := addr }

/-- The address of an object: sA[31:0] + DISP32 (R163). -/
def Iss.objAddr (is : Iss) (a : RegNo) (imm : BitVec 32) : Nat := ((is.s a).extractLsb' 0 32 + imm : BitVec 32).toNat

/-- What the barrier instructions share: a set guard latch is raised first and sets FLT in the object the instruction names
(R143, R159); then the checks; then the body. An object whose word no barrier instruction has named before is one from now
on. -/
def barrierOp (h : Hdr) (rd wr : List Use) (a : RegNo) (imm : BitVec 32) (s : State)
    (body : Iss → Obj → State → Res State) : Host.Outcome State Fault Refusal :=
  issueRaw .core h 12 { rd := .s a :: rd, wr := wr } s (fun is s => do
    let addr := is.objAddr a imm
    is.memReady s
    match is.c.guard with
    | some g =>
      let s := match s.lsOfTeam is.c.team addr with
        | some p =>
          match p.ref with
          | .team k => if addr % 16 = 0 && p.off + 16 ≤ p.limit then
              s.lsPut (.team k) p.off (leBytes 16 (setBits (s.object k p.off) 97 1 1)) else s
          | .hearth _ => s
        | none => s
      pure (s.except is (is.guardFault g))
    | none =>
      match s.checkObj is.a is.c.team addr with
      | .error (c, x) => .error (is.fault c x is.p)
      | .ok o =>
        let s' ← body is o (s.mapTeam o.key (fun t => { t with objs := o.off :: t.objs.filter (· ≠ o.off) }))
        pure (s'.advance is))

/-- GUARD, precise, for an object whose FLT is set (R163, R394). -/
def Iss.checkFlt (is : Iss) (s : State) (o : Obj) : Res Unit :=
  let bank := match s.teams.find o.key with | some t => t.bank o.off | none => 0
  require (!objFlt o.v) (is.fault Code.guardTouch (bank * 2 ^ 32 + o.off) is.p)

/-- The object after an arrival, and the token: the GEN before, and bit 4 for an over-arrival (R163). -/
def arrival (v : Nat) : Nat × Nat :=
  if objPend v = 0 then (v, objGen v + 16) else (setBits v 4 12 (objPend v - 1), objGen v)

/-- An object with bytes expected (R163). -/
def expect (v n : Nat) (out : Bool) : Nat :=
  let f := if out then objOutb v else objInb v
  setBits v (if out then 64 else 32) 32 (f + n)

/-- a.bar.init; waiters whose token is not 0 wake without an acquire (R163). DESIGN CHOICE (log 149): the half-completes of the object, held, on their
way or sent, stay as they are (R162). -/
def execABarInit (h : Hdr) (a b : RegNo) (imm : BitVec 32) (s : State) :=
  barrierOp h [.s b] [] a imm s (fun is o s => do
    let x := (is.s b).toNat
    let exp := bits x 0 12
    let sc := bits x 13 3
    require (exp ≠ 0 && sc ≠ 7) (is.fault Code.handle o.addr is.p)
    let v := 2 ^ 4 * exp + 2 ^ 16 * exp + (if x.testBit 12 then 2 ^ 96 else 0) + 2 ^ 104 * sc
    pure ((s.lsPut (.team o.key) o.off (leBytes 16 v)).wakeBar o.key o.off 0 none))

/-- a.bar.arrive: a release at the object's SC, then one update (R160, R163). -/
def execABarArrive (h : Hdr) (sub : BitVec 2) (d a b : RegNo) (imm : BitVec 32) (s : State) :=
  barrierOp h (if sub = 0 then [] else [.s b]) [.s d] a imm s (fun is o s => do
    s.needRelease is o.sc
    let v := if sub = 0 then o.v else expect o.v ((is.s b).toNat % 2 ^ 32) (sub == 2)
    let (v', tok) := arrival v
    pure ((s.putObject o.key o.off v').wrS is d (BitVec.ofNat 64 tok)))

/-- The wave waits on an object with a token: it returns at once, with an acquire, where GEN differs, else parks (R160,
R163). -/
def State.barWait (s : State) (is : Iss) (o : Obj) (tok : Nat) : State :=
  if objGen (s.object o.key o.off) ≠ tok % 16 then s.parkAgent is (.fence [] (some (BitVec.ofNat 3 o.sc)))
  else s.parkAgent is (.bar o.key o.off tok)

/-- a.bar.wait (R163). -/
def execABarWait (h : Hdr) (a b : RegNo) (imm : BitVec 32) (s : State) :=
  barrierOp h [.s b] [] a imm s (fun is o s => do
    is.checkFlt s o
    pure (s.barWait is o (bits (is.s b).toNat 0 4)))

/-- a.bar.sync: arrives, then waits on its own token (R163). -/
def execABarSync (h : Hdr) (d a : RegNo) (imm : BitVec 32) (s : State) :=
  barrierOp h [] [.s d] a imm s (fun is o s => do
    is.checkFlt s o
    s.needRelease is o.sc
    let (v, tok) := arrival o.v
    pure (((s.putObject o.key o.off v).wrS is d (BitVec.ofNat 64 tok)).barWait is o tok))

/-- a.bar.expect (R163). -/
def execABarExpect (h : Hdr) (sub : BitVec 2) (a b : RegNo) (imm : BitVec 32) (s : State) :=
  barrierOp h [.s b] [] a imm s (fun is o s =>
    pure (s.putObject o.key o.off (expect o.v ((is.s b).toNat % 2 ^ 32) (sub == 1))))

/-- a.bar.test: 1 where GEN differs from the token, with an acquire (R160, R163). -/
def execABarTest (h : Hdr) (d a b : RegNo) (imm : BitVec 32) (s : State) :=
  barrierOp h [.s b] [.s d] a imm s (fun is o s => do
    is.checkFlt s o
    let hit := objGen o.v ≠ bits (is.s b).toNat 0 4
    let s := s.wrS is d (if hit then 1 else 0)
    pure (if hit then s.parkAgent is (.fence [] (some (BitVec.ofNat 3 o.sc))) else s))

/-- a.fence: parks until a release at SC, an acquire at SC, or both have performed; an acquire fence also waits until the wave's
earlier loads and atomics have returned, which are its reading part (R289, R290, R303). -/
def execAFence (h : Hdr) (sub : BitVec 2) (sc : BitVec 3) (s : State) :=
  issue .wave h 8 { rd := [], wr := [] } s (fun is s => do
    is.memReady s
    let k := s.scope is.a sc
    let (s, deps) := if sub = 1 then (s.drainWc (coreOf is.a) (fun _ => true), []) else s.release is.a k
    let reads := if sub = 2 then [] else
      (s.reqs.filter (fun r => r.agent = is.a && r.op.reads && r.pend.isSome)).map (·.id)
    pure (s.parkAgent is (.fence (deps ++ reads) (if sub = 2 then none else some (BitVec.ofNat 3 k)))))

end Sys2Proof.Machine
end

