-- ==== Sys2Proof/Machine/Atomic.lean ====
section
/-! DEFINITION. The a class beyond barriers and fences: atomics, acquiring loads, releasing stores (R276, R277, R282 to R289),
tickets and a.watch (R291 to R298). -/

namespace Sys2Proof.Machine

/-- ORD codes (R34). -/
def ordAcq (o : BitVec 2) : Bool := o.getLsbD 0
def ordRel (o : BitVec 2) : Bool := o.getLsbD 1

/-- Before an atomic leaves its core: the die's copy of a line of a software-managed arena goes home, and after it the line's dirty bytes, with the
line invalidated (R277). -/
def State.flushLine (s : State) (core line : Nat) (at' : Attr) : State :=
  let s := if at'.swm then s.copyOut (dieOfCore core) (s.corePart core) line at'.gen else s
  match (s.core core).l1Find line at'.gen with
  | some l => s.l1Evict core l
  | none => s.noFill core (· == line)

/-- One operation of threads ts on its way to a home slice, whose value (if any) the outstanding result takes in a lane. -/
def State.sendAtom (s : State) (is : Iss) (id : Option Nat) (ts : Lanes) (lane n : Nat) (rt : Route) (op : ReqOp) (after : List Nat) : State :=
  let core := coreOf is.a
  let s := s.flushLine core (lineNo rt.va) rt.attr
  let r := Req.blank (is.who ts) core (s.agentPart is.a) rt.va n rt.attr.gen rt.ver rt.attr.typ op
  let s := match id with | some i => s.mapPend is.a i (fun p => { p with reqs := p.reqs ++ [s.uid] }) | none => s
  s.send { r with pend := id, lane := lane } after

/-- n bytes of a vector group of a lane. -/
def Iss.groupVal (is : Iss) (r : RegNo) (n lane : Nat) : Nat :=
  (List.range (max 1 (n / 4))).foldr (fun j acc => (is.vj r j lane).toNat + 2 ^ 32 * acc) 0 % 2 ^ (8 * n)

/-- What the per-thread atomics share: the checks of every passing thread, the release part, one operation for each thread in
increasing lane id, and the acquire part (R282, R284, R285). -/
def atomBody (k : Ctr) (regs : Iss → Nat → List Reg) (n : Nat) (a : RegNo) (x0 : BitVec 32) (x1 : X1F)
    (op : Iss → Nat → ReqOp) (is : Iss) (s : State) : Res State := do
  is.memReady s
  is.room k
  let rs ← is.routes s n true true (is.addrs x1 a x0)
  let sc := s.scope is.a x1.sc
  let (s, deps) := if ordRel x1.ord then s.release is.a sc else (s, [])
  let (id, s) := s.fresh
  let p : Pend := { Pend.awaiting id k is (is.p.list.flatMap (regs is)) [] with
    acq := if ordAcq x1.ord then some (BitVec.ofNat 3 sc) else none }
  let s := s.addPend is.a p
  pure (rs.foldl (fun s e => s.sendAtom is (some id) (lanesOf [e.1]) e.1 n e.2 (op is e.1) deps) s)

/-- The registers of n bytes from a vector register on, in a lane. -/
def Iss.vRegs (is : Iss) (d : RegNo) (n lane : Nat) : List Reg :=
  (List.range (max 1 (n / 4))).map (fun j => .v (is.phys (d.toNat + j) lane) lane)

/-- Bytes of a location of an atomic's type (R281). -/
def atomBytes (t : Ty) : Nat := if t.is64 then 8 else 4

/-- a.rmw (R282). -/
def execARmw (h : Hdr) (t : TField) (d a b : RegNo) (opr : BitVec 3) (x0 : BitVec 32) (x1 : X1F) (s : State) :=
  let n := atomBytes t.ty
  issue .wave h 16 { rd := [baseUse x1.vadr a, .v b t.ty.regs], wr := [.v d t.ty.regs] } s
    (atomBody .ldc (fun is i => is.vRegs d n i) n a x0 x1 (fun is i => .rmw opr t.ty (is.groupVal b n i) true))

/-- a.red (R282). -/
def execARed (h : Hdr) (t : TField) (a b : RegNo) (opr : BitVec 3) (x0 : BitVec 32) (x1 : X1F) (s : State) :=
  let n := atomBytes t.ty
  issue .wave h 16 { rd := [baseUse x1.vadr a, .v b t.ty.regs], wr := [] } s
    (atomBody .stc (fun _ _ => []) n a x0 x1 (fun is i => .rmw opr t.ty (is.groupVal b n i) false))

/-- a.cas (R284). -/
def execACas (h : Hdr) (d a b c : RegNo) (x0 : BitVec 32) (x1 : X1F) (s : State) :=
  let n := szBytes x1.sz
  let r := szRegs x1.sz
  issue .wave h 16 { rd := [baseUse x1.vadr a, .v b r, .v c r], wr := [.v d r] } s
    (atomBody .ldc (fun is i => is.vRegs d n i) n a x0 x1 (fun is i => .cas (is.groupVal b n i) (is.groupVal c n i)))

/-- a.ldacq: at SC core as g.ld reads, else at the home but for the core's dirty bytes; then the acquire (R287). -/
def execALdacq (h : Hdr) (d a : RegNo) (x0 : BitVec 32) (x1 : X1F) (s : State) :=
  let fresh := s.scope s.cur x1.sc ≠ 0
  issue .all h 16 { rd := [baseUse x1.vadr a], wr := [.g d (szRegs x1.sz)] } s
    (loadBody d a x0 { x1 with ch := if fresh then 0 else x1.ch } none fresh true)

/-- Bytes that a store writes at the home are updated in the core's L1 copy, where they are dirty no more: the write carries them (R288,
R383). -/
def State.l1Update (s : State) (core line gen : Nat) (mask : BitVec 128) (data : BitVec 1024) : State :=
  (s.mapCore core (fun c => c.l1Map (fun l => if l.line = line && l.gen = gen then
    { l with valid := l.valid ||| mask, dirty := l.dirty &&& ~~~mask, data := mergeLine l.data mask data } else l))).noFill core (· == line)

/-- A store at the home after a release, with the L1's copy updated (R288, R383). -/
def State.storeHome (s : State) (is : Iss) (id : Nat) (ts : Lanes) (rt : Route) (l : List Byte) (deps : List Nat) : State :=
  let off := rt.va % 128
  let mask := maskOf off l.length
  let data := placeBytes off l
  (s.writeReq is id ts rt mask data deps).l1Update (coreOf is.a) (lineNo rt.va) rt.attr.gen mask data

/-- a.strel: a release at SC, then the stores (R288). -/
def execAStrel (h : Hdr) (a b : RegNo) (x0 : BitVec 32) (x1 : X1F) (s : State) :=
  issue .wave h 16 { rd := [baseUse x1.vadr a, .v b (szRegs x1.sz)], wr := [] } s (fun is s => do
    is.memReady s
    is.room .stc
    let n := szBytes x1.sz
    let rs ← is.routes s n true false (is.addrs x1 a x0)
    let sc := s.scope is.a x1.sc
    let home (e : Nat × Route) : Bool := 1 ≤ sc && e.2.attr.typ = Arn.typN && !e.2.attr.swm
    if rs.all home then
      let (s, deps) := s.release is.a sc
      let (id, s) := s.fresh
      let s := s.addPend is.a (Pend.blank id .stc is)
      pure (rs.foldl (fun s e => s.storeHome is id (lanesOf [e.1]) e.2 (is.storeBytes b n e.1) deps) s)
    else
      s.needRelease is sc
      let (id, s) := s.fresh
      let s := s.addPend is.a (Pend.blank id .stc is)
      pure (rs.foldl (fun s e =>
        if home e then s.storeHome is id (lanesOf [e.1]) e.2 (is.storeBytes b n e.1) []
        else s.storeOne is id (lanesOf [e.1]) (if sc = 0 then x1.ch.toNat else 0) e.2 (is.storeBytes b n e.1)) s))

/-! ## Tickets and a.watch -/

/-- The checks of an uniform access to an object of n bytes: alignment, R80, type N (R298). -/
def Iss.objectRoute (is : Iss) (s : State) (a : RegNo) (x0 : BitVec 32) (n : Nat) (write : Bool) : Res Route := do
  is.memReady s
  let va := vaOf (is.addrS a x0)
  require (va % n = 0) (is.fault Code.align va is.p)
  let rs ← is.routesU s write true [va]
  match rs with
  | r :: _ => pure r
  | [] => .error (is.fault Code.align va is.p)

/-- a.tkt.take (R293). -/
def execATktTake (h : Hdr) (d a : RegNo) (x0 : BitVec 32) (x1 : X1F) (s : State) :=
  issue .wave h 16 { rd := [.s a], wr := [.s d] } s (fun is s => do
    let rt ← is.objectRoute s a x0 16 true
    is.room .ldc
    let (id, s) := s.fresh
    let s := s.addPend is.a (Pend.awaiting id .ldc is [.s d.toNat] [])
    let _ := x1
    pure (s.sendAtom is (some id) is.p 0 16 rt .take []))

/-- A waiting operation leaves for its home, and the wave parks before it moves on (R294, R297, R381). -/
def State.sendWait (s : State) (is : Iss) (rt : Route) (n : Nat) (op : ReqOp) (flush : Bool) : State :=
  let core := coreOf is.a
  let s := if flush then s.flushLine core (lineNo rt.va) rt.attr else s
  let id := s.uid
  let r := Req.blank (is.who is.p) core (s.agentPart is.a) rt.va n rt.attr.gen rt.ver rt.attr.typ op
  (s.send r []).parkAgent is (.waiter id)

/-- a.tkt.wait (R294). -/
def execATktWait (h : Hdr) (a b : RegNo) (x0 : BitVec 32) (x1 : X1F) (s : State) :=
  issueRaw .wave h 16 { rd := [.s a, .s b], wr := [] } s (fun is s => do
    let rt ← is.objectRoute s a x0 16 false
    let t := (is.s b).toNat % 2 ^ 32
    pure (s.sendWait is rt 16 (.ticket t (BitVec.ofNat 3 (s.scope is.a x1.sc))) true))

/-- a.tkt.serve: a release at SC, then the step at the slice; counted in no counter (R295). -/
def execATktServe (h : Hdr) (a : RegNo) (src : Src) (x0 : BitVec 32) (x1 : X1F) (s : State) :=
  issue .wave h 16 { rd := .s a :: srcUseS src, wr := [] } s (fun is s => do
    let rt ← is.objectRoute s a x0 16 true
    let (s, deps) := s.release is.a (s.scope is.a x1.sc)
    pure (s.sendAtom is none is.p 0 16 rt (.serve ((is.srcZ src).toNat % 2 ^ 32)) deps))

/-- a.watch (R297). -/
def execAWatch (h : Hdr) (d a b : RegNo) (x0 : BitVec 32) (x1 : X1F) (s : State) :=
  issueRaw .wave h 16 { rd := [.s a, .s b], wr := [.s d] } s (fun is s => do
    let n := szBytes x1.sz
    let rt ← is.objectRoute s a x0 n false
    let exp := (is.s b).toNat % 2 ^ (8 * n)
    pure (s.sendWait is rt n (.watch exp (BitVec.ofNat 3 (s.scope is.a x1.sc)) d.toNat) false))

end Sys2Proof.Machine
end

