-- ==== Sys2Proof/Machine/Sched.lean ====
section
/-! DEFINITION. The q class (R379 to R384): launch and footprint records (R56, R57, R356, R357), futures in registers and memory
words (R381 to R383), claims and gives (R372 to R374), live masks, q.yield and q.sleep. -/

namespace Sys2Proof.Machine

/-! ## Footprint and launch records -/

/-- An n-byte field of a record at an offset. -/
def field (l : List Byte) (off n : Nat) : Nat := ofLe ((l.drop off).take n)

/-- The footprint record of 64 bytes, as fields (R56). -/
def Foot.ofBytes (l : List Byte) : Foot :=
  { entry := field l 4 4, waves := field l 8 1, threads := field l 9 1, regs := field l 10 2, ceil := field l 12 2,
    tiles := field l 14 1, acc := field l 15 1, lsbytes := field l 16 4, gang := field l 20 1, ricks := field l 21 1,
    roles := (List.range (min 8 (field l 22 1))).map (fun i => (field l (24 + 2 * i) 1, field l (25 + 2 * i) 1)),
    imgoff := field l 40 4, imglen := field l 44 4, guardoff := field l 48 4, swzoff := field l 52 4 }

/-- The limits of R56 and R57 on a footprint record. -/
def footOk (l : List Byte) : Bool :=
  let f := Foot.ofBytes l
  f.entry % 4 = 0 && 1 ≤ f.waves && f.waves ≤ 16 && 1 ≤ f.threads && f.threads ≤ Config.waveW
    && 8 ≤ f.regs && f.regs % 8 = 0 && f.regs ≤ f.ceil && f.ceil ≤ 256 && f.ceil % 8 = 0 && f.waves * f.ceil ≤ 1024
    && f.tiles ≤ 8 && f.acc ≤ 32 && f.lsbytes % 64 = 0 && 256 * f.waves ≤ f.lsbytes && f.lsbytes ≤ 524288
    && 1 ≤ f.gang && f.gang ≤ 8 && f.ricks ≤ 4 && field l 22 1 ≤ 8 && field l 23 1 = 0 && f.imglen ≤ f.lsbytes
    && field l 56 8 = 0 && f.roles.all (fun r => r.1 ≤ 7)
    && (f.roles.isEmpty || (f.roles.map (·.2)).foldl (· + ·) 0 = f.waves)

/-- The role of a wave: roles are handed out in order (R57). -/
def roleAt : List (Nat × Nat) → Nat → Nat
  | [], _ => 0
  | (code, n) :: l, i => if i < n then code else roleAt l (i - n)

/-- Two dies share an edge (R6). -/
def adjacent (d e : Nat) : Bool :=
  (d / 12 == e / 12 && (d + 1 == e || e + 1 == d)) || d + 12 == e || e + 12 == d

/-- An arena fails R80 step 1 for a core. -/
def State.deadId (s : State) (core id : Nat) : Bool := checkAttr id (s.attr core id) false false == some Code.arenaDead
/-- The arena of an address, after the core's remap filter (R98), fails R80 step 1. -/
def State.deadArena (s : State) (core va : Nat) : Bool := s.deadId core (arenaOf (canonical (s.core core).filters va))

/-- Records of a group that stand in a die's queue (R359). -/
def State.queueLen (s : State) (die : Nat) : Nat := (s.groups.filter (fun g => g.2.die = die && g.2.queued)).length

/-- The team that an agent's wave belongs to has a group with a context arena (R356). -/
def State.ctxArena (s : State) (c : Ctx) : Nat :=
  ((s.teamOf c).bind (fun t => s.groups.find t.group)).elim 0 (·.ctxa)

/-- The footprint record at FOOT, as check 3 reads it (R357): its bytes, whether the read was stale and the state that it leaves, or the code that
resolves the future; one that crosses into another arena counts as misaligned (R74; log 44). -/
def State.readFoot (s : State) (is : Iss) (va : Nat) : Res (Except Nat (List Byte × Bool × State)) :=
  let core := coreOf is.a
  let part := s.agentPart is.a
  let ps := linePieces va 64
  if arenaOf va ≠ arenaOf (va + 63) then .ok (.error Code.handle) else
  match ps.mapM (fun e => s.route core part e.1 false false) with
  | .error c => .ok (.error c)
  | .ok rs =>
    match s.reqs.find? (fun r => r.agent = is.a && r.core = core && r.op = .fetch && r.failed.isSome &&
        rs.any (fun t => lineNo t.va = lineNo r.va)) with
    | some r => .ok (.error (r.failed.getD Code.xlate))
    | none => do
      let l := rs.zip (ps.map (·.2))
      l.forM (fun e => s.readReady is e.2 e.1)
      match s.viewPieces core part l with
      | .ok x => .ok (.ok x)
      | .error (c, x) =>
        if c = Code.link then .error .stall
        else if c = Code.ecc || c = Code.synonym then .ok (.error c) else .error (.hold x c true)

/-- The outcome of the checks of R357 after those that fault: a status and a code, or a group record to enter. -/
abbrev Checked := Except (Nat × Nat) Group

/-- Checks 3 to 9 of R357 on a launch record and the footprint it names. -/
def State.checkLaunch (s : State) (is : Iss) (spawn : Bool) (l fb : List Byte) : Checked := do
  let die := dieOf is.a
  let part := s.agentPart is.a
  let core := coreOf is.a
  let f := Foot.ofBytes fb
  let gx := field l 16 4
  let gy := field l 20 4
  let gz := field l 24 4
  let ctl := field l 28 1
  let place := field l 29 1
  let cx := field l 30 2
  let sig := field l 32 8
  let code := field l 8 8 % 2 ^ 56
  let bad := bits ctl 5 3 ≠ 0 || bits place 5 2 ≠ 0 || bits cx 12 4 ≠ 0 || 6 ≤ bits ctl 2 3 || gx = 0 || gy = 0 || gz = 0
    || sig % 8 ≠ 0 || !footOk fb
  if bad then throw (Status.faulted, Code.handle)
  if 2 ^ 32 < gx * gy * gz then throw (Status.full, 0)
  if gx * gy * gz % f.gang ≠ 0 then throw (Status.faulted, Code.handle)
  let dies := s.liveDies part
  let pair := dies.any (fun d => dies.any (fun e => adjacent d e))
  if lscap (s.die die).sram < f.lsbytes || (4 < f.gang && !pair) then throw (Status.full, 0)
  let pin := if place.testBit 7 then some (bits place 0 5) else none
  match pin with
  | some d => if !dies.contains d then throw (Status.empty, 0)
  | none => pure ()
  let ctxa := if bits cx 0 12 ≠ 0 then bits cx 0 12 else if spawn then s.ctxArena is.c else 0
  if (bits cx 0 12 ≠ 0 && s.deadId core (bits cx 0 12)) || s.deadArena core code
      || (sig ≠ 0 && s.deadArena core (sig % 2 ^ 56)) then throw (Status.faulted, Code.arenaDead)
  let target := pin.getD die
  if Config.queue ≤ s.queueLen target then throw (Status.busy, 0)
  pure { part := part, die := target, gx := gx, gy := gy, gz := gz, foot := f, footBytes := fb, code := code,
         prio := bits ctl 0 2, sc := BitVec.ofNat 3 (bits ctl 2 3), pin := pin, ctxa := ctxa, sigaddr := sig % 2 ^ 56,
         sigval := BitVec.ofNat 64 (field l 40 8), args := BitVec.ofNat 64 (field l 48 8),
         rngkey := BitVec.ofNat 64 (field l 56 8),
         depth := if spawn then ((s.teamOf is.c).elim 0 (·.depth)) + 1 else 0,
         parent := if spawn then some is.c.team else none, kind := if spawn then Kind.spawn else Kind.launch, next := 0,
         retired := 0, worst := none, cut := false, fut := none, since := s.clk target, blocking := false, queued := true }

/-- A record of n bytes of a wave: global with SUB 00, in the local store with SUB 01 (R252, R267, R357); the state with its
touches. -/
def State.record (s : State) (is : Iss) (ls : Bool) (a : RegNo) (disp : BitVec 32) (n align : Nat) : Res (List Byte × State) := do
  is.memReady s
  if ls then
    let addr := ((is.s a).extractLsb' 0 32 + disp : BitVec 32).toNat
    let ps ← is.lsPlaces s n align (is.p.list.map (fun i => (i, addr)))
    match ps.head? with
    | none => pure ([], s)
    | some (_, p) =>
      is.boardReady s n [p]
      pure (s.lsRead p.ref p.off n, s.touch is.a is.pc p n)
  else
    let (l, stale, s) ← s.readRecord is (is.addrS a disp) n align
    pure (l, s.markStale is stale)

/-- q.spawn and q.launch (R357, R359, R380). DESIGN CHOICE (log 152): within check 3 a read of FOOT that fails gives its code before any field of
the launch record is looked at. -/
def launchOp (spawn : Bool) (h : Hdr) (sub : BitVec 2) (d a : RegNo) (x0 : BitVec 32) (s : State) :
    Host.Outcome State Fault Refusal :=
  issue .core h 16 { rd := [.s a], wr := [.s d] } s (fun is s => do
    let (l, s) ← s.record is (sub == 1) a x0 64 64
    require (spawn || is.c.priv) (is.fault0 Code.priv)
    require (!spawn || ((s.teamOf is.c).elim 0 (·.depth)) < 8) (is.fault0 Code.nest)
    let fr ← s.readFoot is (field l 0 8 % 2 ^ 56)
    let s := match fr with | .ok x => x.2.2 | .error _ => s
    let s := { s with reqs := s.reqs.filter (fun r => !(r.agent = is.a && r.core = coreOf is.a && r.op = ReqOp.fetch && r.failed.isSome)) }
    let kind := if spawn then Kind.spawn else Kind.launch
    let sc := bits (field l 28 1) 2 3
    let r : Except (Nat × Nat) Group := match fr with
      | .error c => .error (Status.faulted, c)
      | .ok (fb, _, _) => if field l 0 8 % 8 ≠ 0 then .error (Status.faulted, Code.handle) else s.checkLaunch is spawn l fb
    let s := match fr with | .ok (_, true, _) => s.setStale is.a | _ => s
    match r with
    | .error (st, c) => s.instantFut is d kind sc st c
    | .ok g =>
      let (id, s) := s.fresh
      let (s, q, k) ← s.takeFut is d kind sc id
      pure { s with groups := s.groups.put id { g with fut := some (q, k) } })

/-- q.spawn (R380). -/
def execQSpawn (h : Hdr) (sub : BitVec 2) (d a : RegNo) (x0 : BitVec 32) (s : State) := launchOp true h sub d a x0 s
/-- q.launch (R380). -/
def execQLaunch (h : Hdr) (sub : BitVec 2) (d a : RegNo) (x0 : BitVec 32) (s : State) := launchOp false h sub d a x0 s

/-! ## Futures -/

/-- The checks of a memory word of n bytes that an instruction reads or writes at its home (R381, R383): ALIGN, R80, PROT
unless N. -/
def Iss.wordRoute (is : Iss) (s : State) (va : W64) (n : Nat) (write : Bool) : Res Route := do
  is.memReady s
  let v := vaOf va
  require (v % n = 0) (is.fault Code.align v is.p)
  let rs ← is.routesU s write true [v]
  match rs with
  | r :: _ => pure r
  | [] => .error (is.fault Code.align v is.p)

/-- A read of a word at its home, which a result waits for. -/
def State.sendRead (s : State) (is : Iss) (id lane n : Nat) (rt : Route) : State :=
  let r := Req.blank (is.who is.p) (coreOf is.a) (s.agentPart is.a) rt.va n rt.attr.gen rt.ver rt.attr.typ (.read [])
  let s := s.mapPend is.a id (fun p => { p with reqs := p.reqs ++ [s.uid] })
  s.send { r with pend := some id, lane := lane, alloc := false } []

/-- q.fwait (R366, R367, R381): its result counts in EC, for a word in memory from its issue until it is written (R202, R379; log 156). -/
def execQFwait (h : Hdr) (sub : BitVec 2) (d a : RegNo) (sc : BitVec 3) (s : State) :=
  issueRaw .core h 8 { rd := [.s a], wr := [.s d] } s (fun is s => do
    if sub = 0 then
      let v := is.s a
      match is.c.tags.find a.toNat with
      | some t =>
        let s' ← s.pendS is .ec d v
        pure (((s'.parkAgent is (.fence [] (some t.sc))).mapCtx is.a (fun c => c.mergeWait t)).advance is)
      | none =>
        require (handleStatus v ≠ 0) (is.fault Code.handle 0 is.p)
        let s' ← s.pendS is .ec d v
        pure ((s'.parkAgent is (.fence [] (some (BitVec.ofNat 3 (s.scope is.a sc))))).advance is)
    else
      let rt ← is.wordRoute s (is.s a) 8 false
      is.room .ec
      let s := s.upd is (fun c => { c with ec := c.ec + 1 })
      pure (s.sendWait is rt 8 (.status (BitVec.ofNat 3 (s.scope is.a sc)) d.toNat) false))

/-- q.ftest: the value alone, untagged; no register that it names parks it (R366, R381). -/
def execQFtest (h : Hdr) (sub : BitVec 2) (d a : RegNo) (s : State) :=
  issue .core h 8 { rd := [.h a], wr := [.s d] } s (fun is s => do
    if sub = 0 then s.pendS is .ec d (is.s a)
    else
      let rt ← is.wordRoute s (is.s a) 8 false
      is.room .ec
      let (id, s) := s.fresh
      let s := s.addPend is.a (Pend.awaiting id .ec is [.s d.toNat] [])
      pure (s.sendRead is id 0 8 rt))

/-- The teams of a group that are not placed are dropped and counted retired (R382). -/
def Group.cancel (g : Group) : Group :=
  let n := g.gx * g.gy * g.gz
  { g with cut := g.cut || decide (g.next < n), retired := g.retired + (n - g.next), next := n, queued := false }

/-- A cancel reaches a pending future: 1 where its kind accepts it (R168, R246, R262, R382). -/
def State.cancelFut (s : State) (f : Fut) : State × Nat :=
  let cc (c : Copy) : Copy := if c.id = f.op then { c with cancel := true } else c
  let ct (t : Task) : Task := if t.id = f.op then { t with cancel := true } else t
  if f.kind = Kind.copy || f.kind = Kind.task || f.kind = Kind.rick then
    ({ s with
       quads := s.quads.map (fun (e : Nat × Quad) => (e.1, { e.2 with copies := e.2.copies.map cc, tasks := e.2.tasks.map ct }))
       saved := s.saved.map (fun (v : Saved) =>
         { v with copies := v.copies.map (fun e => (e.1, cc e.2)), tasks := v.tasks.map (fun e => (e.1, ct e.2)) }) }, 1)
  else if f.kind = Kind.spawn || f.kind = Kind.launch then (s.mapGroup f.op Group.cancel, 1)
  else (s, 0)

/-- q.fcancel (R382); no register that it names parks it (R366). -/
def execQFcancel (h : Hdr) (sub : BitVec 2) (d a : RegNo) (s : State) :=
  issue .core h 8 { rd := [.h a], wr := [.s d] } s (fun is s => do
    if sub = 0 then
      let hit := match is.c.tags.find a.toNat with
        | some t => if t.resolved then none else ((s.quad t.quad).futs.find t.slot)
        | none => none
      let (s, v) := match hit with
        | some f => s.cancelFut f
        | none => (s, 0)
      s.pendS is .ec d (BitVec.ofNat 64 v)
    else
      let rt ← is.wordRoute s (is.s a) 8 false
      let (l, stale, s) ← s.readRecord is (BitVec.ofNat 64 rt.va) 8 8
      let w := ofLe l
      let q := bits w 8 5 * 16 + bits w 24 4
      let k := bits w 0 8
      let (s, v) := match (s.quad q).futs.find k with
        | some f => if bits w 28 4 = 0 && f.seq = bits w 32 32 && s.partOf (bits w 8 5) = s.agentPart is.a
            then s.cancelFut f else (s, 0)
        | none => (s, 0)
      (s.markStale is stale).pendS is .ec d (BitVec.ofNat 64 v))

/-- Two sites are one place. -/
def Site.same : Site → Site → Bool
  | .reg a r, .reg b q => a == b && r == q
  | .mem p v _, .mem q w _ => p == q && v == w
  | _, _ => false

/-- A future takes one more site, where it has fewer than four (R365, R383). -/
def Iss.addSite (is : Iss) (s : State) (t : Tag) (x : Site) : Res State := do
  match (s.quad t.quad).futs.find t.slot with
  | none => pure s
  | some f =>
    require (f.sites.length < 4 || f.sites.any (·.same x)) (is.fault Code.handle 0 is.p)
    let f' : Fut := { f with sites := f.sites.filter (fun y => !y.same x) ++ [x] }
    pure (s.mapQuad t.quad (fun q => { q with futs := q.futs.put t.slot f' }))

/-- q.fmov (R383); no register that it names parks it (R366). -/
def execQFmov (h : Hdr) (sub : BitVec 2) (d a b : RegNo) (imm : BitVec 32) (s : State) :=
  issue .core h 12 { rd := if sub = 0 then [.h a] else [.h a, .h b], wr := if sub = 0 then [.s d] else [] } s (fun is s => do
    let v := is.s a
    let tag := match is.c.tags.find a.toNat with | some t => if t.resolved then none else some t | none => none
    if sub = 0 then
      is.room .ec
      match tag with
      | none => s.pendS is .ec d v
      | some t =>
        if d = a || d.toNat = 63 then pure s
        else
          let s := s.clearTag is.a d.toNat
          let s ← is.addSite s t (.reg is.a d.toNat)
          pure (s.mapCtx is.a (fun c => { c.sset d.toNat v with tags := c.tags.put d.toNat t }))
    else
      let rt ← is.wordRoute s (is.addrS b imm) 8 true
      let part := s.agentPart is.a
      let s := if rt.attr.swm then s.flushLine (coreOf is.a) (lineNo rt.va) rt.attr else s
      let s ← match tag with
        | none => pure s
        | some t => is.addSite s t (memSite part rt.va rt.attr.gen (is.who is.p))
      let off := rt.va % 128
      let mask := maskOf off 8
      let data := placeBytes off (leBytes 8 v.toNat)
      let r := Req.blank (is.who is.p) (coreOf is.a) part (rt.va - off) 128 rt.attr.gen rt.ver rt.attr.typ (.write mask data)
      pure ((s.send r []).l1Update (coreOf is.a) (lineNo rt.va) rt.attr.gen mask data))

/-! ## Registers of the team's pool (R372 to R374) -/

/-- The pool of a team: P registers for each lane id (R372). -/
def Team.pool (t : Team) : Nat := t.foot.waves * t.foot.ceil
/-- The contexts of a team's waves that have not retired. -/
def State.waveCtxs (s : State) (key : Nat) : AMap Ctx := s.ctxs.filter (fun e => e.2.team = key && e.1 % 24 < 20 && !e.2.gone)
/-- The registers that a team's waves hold. -/
def State.heldRegs (s : State) (key : Nat) : Nat := ((s.waveCtxs key).map (·.2.nreg)).foldl (· + ·) 0
/-- The registers of a team's pool that are free (R372). -/
def State.freeRegs (s : State) (key : Nat) : Nat :=
  match s.teams.find key with
  | some t => t.pool - s.heldRegs key
  | none => 0

/-- q.claim: at once where t is not above NREG; else the claim queue (R373). -/
def execQClaim (h : Hdr) (d : RegNo) (src : Src) (s : State) :=
  issueRaw .core h 8 { rd := srcUseS src, wr := [.s d] } s (fun is s => do
    let t := (is.srcZ src).toNat
    let pool := (s.teamOf is.c).elim 0 Team.pool
    require (t % 8 = 0 && 8 ≤ t && t ≤ min 256 pool) (is.fault Code.claim t is.p)
    if t ≤ is.c.nreg then
      let s' ← s.pendS is .ec d (BitVec.ofNat 64 is.c.nreg)
      pure (s'.advance is)
    else
      is.room .ec
      let s := s.mapTeam is.c.team (fun x => { x with claims := x.claims ++ [is.c.widx] })
      pure (s.parkAgent is (.claim t d.toNat)))

/-- Registers from n on lose their contents. -/
def Ctx.dropRegs (c : Ctx) (n : Nat) : Ctx := { c with v := c.v.filter (fun e => e.1 < 64 * n) }

/-- q.give (R374): once no outstanding result of a register that it gives is left; a load that has failed writes nothing (R97). -/
def execQGive (h : Hdr) (src : Src) (s : State) :=
  issue .core h 8 { rd := srcUseS src, wr := [] } s (fun is s => do
    let t := (is.srcZ src).toNat
    require (t % 8 = 0 && 8 ≤ t && t ≤ is.c.nreg) (is.fault Code.claim t is.p)
    require (is.c.pend.all (fun p => p.fail.isSome || p.writes.all (fun w => match w.reg with | .v n _ => n < t | _ => true))) .stall
    pure (s.upd is (fun c => { c.dropRegs t with nreg := t })))

/-- q.live: bits at NREG ÷ 8 and above keep what the mask held (R384). -/
def execQLive (h : Hdr) (imm : BitVec 32) (s : State) :=
  issue .core h 12 { rd := [], wr := [] } s (fun is s => do
    let m : BitVec 32 := BitVec.ofNat 32 (2 ^ (is.c.nreg / 8) - 1)
    pure (s.upd is (fun c => { c with live := (c.live &&& ~~~m) ||| (imm &&& m) })))

/-- q.yield: the wave becomes the youngest of its priority (R377, R384). -/
def execQYield (h : Hdr) (s : State) :=
  issue .core h 8 { rd := [], wr := [] } s (fun is s => do
    let (n, s) := s.fresh
    pure (s.upd is (fun c => { c with turnAge := n })))

/-- q.sleep: a park until n clk have passed on the die's clock (R384). -/
def execQSleep (h : Hdr) (src : Src) (s : State) :=
  issue .core h 8 { rd := srcUseS src, wr := [] } s (fun is s => do
    let n := (is.srcZ src).toNat % 2 ^ 32
    pure (if n = 0 then s else s.parkAgent is (.sleep (s.clk (dieOf is.a) + n))))

end Sys2Proof.Machine
end

