-- ==== Sys2Proof/Machine/Place.lean ====
section
/-! DEFINITION. What the scheduler does by itself: placement (R59, R358 to R361), the retirement of waves, teams and groups (R16
to R18, R363), claims (R373, R375), the switch on a blocked future (R369 to R371) and the end of a sleep (R384). -/

namespace Sys2Proof.Machine

/-! ## What is free (R361) -/

/-- The teams on a core. -/
def State.coreTeams (s : State) (core : Nat) : AMap Team := s.teams.filter (fun e => e.2.core = core)
/-- The teams on a quad. -/
def State.quadTeams (s : State) (q : Nat) : AMap Team := s.teams.filter (fun e => e.2.core / 4 = q)
/-- The sum of a count over teams. -/
def sumTeams (m : AMap Team) (f : Team → Nat) : Nat := (m.map (fun e => f e.2)).foldl (· + ·) 0
/-- The slots from lo to hi − 1 of a core that no resident team holds. -/
def State.freeSlots (s : State) (core lo hi : Nat) : List Nat :=
  let used := (s.coreTeams core).flatMap (fun e => e.2.waves)
  (List.range hi).filter (fun n => lo ≤ n && !used.contains n)
/-- The registers that the switched-out waves of a core leave free (R369). -/
def State.outRegs (s : State) (core : Nat) : Nat :=
  ((s.ctxs.filter (fun e => e.1 / 24 = core && e.1 < 36864 && e.2.out.isSome)).map (·.2.nreg)).foldl (· + ·) 0
/-- The registers of a core that are in use for each lane id. -/
def State.usedRegs (s : State) (core : Nat) : Nat := sumTeams (s.coreTeams core) Team.pool - s.outRegs core
/-- The base of a window of n bytes on a core: the lowest place that is free (log 29). -/
def State.freeBase (s : State) (core n : Nat) : Option Nat :=
  let ws := (s.coreTeams core).map (fun e => (e.2.base, e.2.foot.lsbytes))
  let fits (b : Nat) : Bool := b + n ≤ lscap (s.die (dieOfCore core)).sram && ws.all (fun w => b + n ≤ w.1 || w.1 + w.2 ≤ b)
  ((0 :: ws.map (fun w => w.1 + w.2)).filter fits).foldl (fun best b =>
    match best with | none => some b | some x => some (min x b)) none

/-- A team fits a core: its waves (in the slots from lo to hi − 1), registers, window and tile registers (R361). extra is what
counts as free besides. -/
def State.fitsCore (s : State) (core : Nat) (f : Foot) (lo hi extra : Nat) : Bool :=
  f.waves ≤ (s.freeSlots core lo hi).length && s.usedRegs core + f.waves * f.ceil ≤ Config.vregsPerCore + extra
    && (s.freeBase core f.lsbytes).isSome && sumTeams (s.coreTeams core) (·.foot.tiles) + f.tiles ≤ 8
/-- n teams fit what their quad shares: slots, ricks and 16 entries of the reservation table (R361). -/
def State.fitsQuad (s : State) (q : Nat) (f : Foot) (n : Nat) : Bool :=
  let ts := s.quadTeams q
  sumTeams ts (·.foot.acc) + n * f.acc ≤ 32 && sumTeams ts (·.foot.ricks) + n * f.ricks ≤ 4
    && sumTeams ts (·.resv) + 16 ≤ Config.tasks
/-- The cores of a quad that a team fits. -/
def State.fitCores (s : State) (q : Nat) (f : Foot) : List Nat :=
  ((List.range 4).map (4 * q + ·)).filter (fun c => s.fitsCore c f 0 16 0)

/-- Cores that a gang fits, in the order of gang indices: different cores of one quad, or four of one quad and the rest of one quad
on a die that shares an edge with it (R361). -/
def State.gangOn (s : State) (f : Foot) (cores : List Nat) : Bool :=
  let q0 := cores.headD 0 / 4
  let a := cores.take 4
  let b := cores.drop 4
  let q1 := b.headD 0 / 4
  cores.length == f.gang && decide cores.Nodup && a.all (fun c => c / 4 == q0) && b.all (fun c => c / 4 == q1)
    && cores.all (fun c => s.fitsCore c f 0 16 0) && s.fitsQuad q0 f a.length
    && (b.isEmpty || (adjacent (q0 / 16) (q1 / 16) && s.partOf (q0 / 16) == s.partOf (q1 / 16)
        && (s.die (q1 / 16)).live && s.fitsQuad q1 f b.length))

/-- A placement on a die, where the gang fits it. -/
def State.findPlace (s : State) (die : Nat) (f : Foot) : Option (List Nat) :=
  let qs := (List.range 16).map (16 * die + ·)
  qs.findSome? (fun q =>
    let a := (s.fitCores q f).take (min 4 f.gang)
    if f.gang ≤ 4 then (if s.gangOn f a then some a else none)
    else
      ((List.range 24).filter (fun e => adjacent die e)).findSome? (fun e =>
        ((List.range 16).map (16 * e + ·)).findSome? (fun q1 =>
          let l := a ++ (s.fitCores q1 f).take (f.gang - 4)
          if s.gangOn f l then some l else none)))

/-! ## The queue (R359, R360) -/

/-- The effective priority of a record (R360). -/
def State.effPrio (s : State) (g : Group) : Nat := min 3 (g.prio + (s.clk g.die - g.since) / 65536)
/-- The records that a die may place: its own, and while it has none the unpinned ones of its partition (R359). -/
def State.queueOf (s : State) (die : Nat) : AMap Group :=
  let own := s.groups.filter (fun g => g.2.queued && g.2.die = die)
  if own.isEmpty then s.groups.filter (fun g => g.2.queued && g.2.pin.isNone && g.2.part = s.partOf die) else own
/-- A record goes before another on a die: higher effective priority, then older (R360). -/
def State.before (s : State) (a b : Nat × Group) : Bool :=
  s.effPrio b.2 < s.effPrio a.2 || (s.effPrio b.2 == s.effPrio a.2 && a.1 < b.1)
/-- A blocking record holds back a younger record of equal or lower effective priority (R360). -/
def State.blocked (s : State) (die : Nat) (g : Nat × Group) : Bool :=
  (s.queueOf die).any (fun b => b.2.blocking && b.1 < g.1 && s.effPrio g.2 ≤ s.effPrio b.2)
/-- The record is the one whose next gang is placed: the first whose gang fits (R360). -/
def State.nextRecord (s : State) (die : Nat) (g : Nat × Group) (fits : Foot → Bool) : Bool :=
  !s.blocked die g && (s.queueOf die).contains g
    && (s.queueOf die).all (fun b => b.1 == g.1 || !s.before b g || s.blocked die b || !fits b.2.foot)

/-! ## Placing a team (R59, R358) -/

/-- A read that the device makes at an address of its own accord: the checks at issue (R80, R101), whose codes come with no address
to wait for, and the bytes. -/
def State.ownRead (s : State) (core va n : Nat) : Except Nat (Except (Nat × Nat) (List Byte × State)) :=
  if n = 0 then .ok (.ok ([], s))
  else (s.route core (s.corePart core) va false false).map (fun _ =>
    (s.readRange core (s.coreGen core) va n).map (fun x => (x.1, x.2.2)))

/-- The bytes of the image, of the guard bitmap and of the tag map of a window, and the slices as the reads leave them (R56, R59). -/
def State.windowReads (s : State) (core : Nat) (g : Group) :
    Except Nat (Except (Nat × Nat) ((List Byte × List Byte × List Byte) × State)) := do
  let f := g.foot
  let size (off n : Nat) : Nat := if off = 0xFFFFFFFF then 0 else n
  let step (r : Except (Nat × Nat) (List (List Byte) × State)) (off n : Nat) :
      Except Nat (Except (Nat × Nat) (List (List Byte) × State)) :=
    match r with
    | .error e => .ok (.error e)
    | .ok (ls, s) => (s.ownRead core (g.code + off) n).map (fun x => x.map (fun y => (ls ++ [y.1], y.2)))
  let r ← step (.ok ([], s)) f.imgoff f.imglen
  let r ← step r f.guardoff (size f.guardoff ((f.lsbytes / 64 + 7) / 8))
  let r ← step r f.swzoff (size f.swzoff ((f.lsbytes + 511) / 512))
  pure (r.map (fun x => ((x.1.getD 0 [], x.1.getD 1 [], x.1.getD 2 []), x.2)))

/-- The context of a wave at its start (R57, R358). DESIGN CHOICE (log 115): R357 checks no alignment of CODE; the bits [1:0] that a PC
does not have (R23) are left out. -/
def Group.waveCtx (g : Group) (key i : Nat) : Ctx :=
  { Ctx.init with
    team := key, widx := i, role := roleAt g.foot.roles i, nreg := g.foot.regs
    s := AMap.set 0 ([] : AMap W64) 0 g.args, rngkey := g.rngkey
    split := splitInit (BitVec.ofNat 64 ((g.code + g.foot.entry) / 4 * 4)) (firstLanes g.foot.threads)
    exited := ~~~(firstLanes g.foot.threads) }

/-- A team takes its place on a core: what R361 counts is taken; its waves start once its window is prepared (R59). -/
def State.placeTeam (s : State) (gkey : Nat) (g : Group) (key tid core : Nat) (gang slots : List Nat) : State :=
  let f := g.foot
  let t : Team :=
    { group := gkey, teamId := tid, x := tid % g.gx, y := tid / g.gx % g.gy, z := tid / (g.gx * g.gy), foot := f,
      footBytes := g.footBytes, core := core, base := (s.freeBase core f.lsbytes).getD 0, depth := g.depth, prio := s.effPrio g,
      placed := key, priv := false, win := [], guards := [], swz := [], objs := [], half := [], tiles := [], tcfg := [], slots := [],
      ricks := [], waves := slots.take f.waves, retired := [], claims := [], resv := 0, gang := gang, stoker := none, dead := none }
  { s with teams := s.teams.put key t }

/-- A team is being saved, or stands saved (R403). -/
def State.inSave (s : State) (key : Nat) : Bool :=
  s.saves.any (fun v => v.keys.contains key) || (s.teams.find key).any (fun t => decide (1560 ≤ t.core))

/-- A placed team whose window is not prepared: none of its waves has started (R59); a saved team stands on no core. -/
def State.unprepared (s : State) (key : Nat) (t : Team) : Bool :=
  !s.inSave key && t.group ≠ 0 && t.retired.isEmpty && t.dead.isNone && !s.ctxs.any (fun e => e.2.team = key && e.1 < 36864)

/-- The window of a team and its waves at their start (R57, R59, R358). -/
def State.startTeam (s : State) (key : Nat) (t : Team) (g : Group) (img guard tags : List Byte) : State :=
  let s := s.mapTeam key (fun t => { t with
    win := putBytes [] 0 img, guards := onesBelow (ofLe guard) (t.foot.lsbytes / 64)
    swz := tags.zipIdx.foldl (fun m e => AMap.set 0 m e.2 (e.1.toNat % 8)) ([] : AMap Nat) })
  t.waves.zipIdx.foldl (fun s e => s.setCtx (.slot t.core e.1) (g.waveCtx key e.2)) s

/-- A team whose window cannot be read is killed before any of its waves issues (R56). -/
def State.killUnprepared (s : State) (key code : Nat) : State :=
  s.mapTeam key (fun t => { t with dead := some code, retired := List.range t.foot.waves })

/-- The preparation of a team's window: its reads, which wait for translations (R59, R96); or its end with the code of a failed one
(R56). -/
def State.prepare (s : State) (key : Nat) (t : Team) (g : Group) : Option State :=
  match s.windowReads t.core g with
  | .error c => some (s.killUnprepared key c)
  | .ok r =>
    match s.own (dieOfCore t.core) g.part key r with
    | .got (x, s') => some (s'.startTeam key t g x.1 x.2.1 x.2.2)
    | .fail c s' => some (s'.killUnprepared key c)
    | .wait s' => s'

/-- The next gang of a group on cores (R359): keys are fresh numbers. -/
def State.placeGang (s : State) (gkey : Nat) (g : Group) (cores : List Nat) (slots : Option (List Nat)) : State :=
  let n := cores.length
  let keys := (List.range n).map (s.uid + ·)
  let s := { s with uid := s.uid + n }
  let s := (cores.zip keys).zipIdx.foldl (fun s e =>
    s.placeTeam gkey g e.1.2 (g.next + e.2) e.1.1 keys (slots.getD (s.freeSlots e.1.1 0 16))) s
  let nx := g.next + n
  s.mapGroup gkey (fun g => { g with next := nx, queued := decide (nx < g.gx * g.gy * g.gz), blocking := false })

/-- A team of a group on a core whose window is not prepared. -/
def State.toPrepare (s : State) (group core : Nat) : Option (Nat × Team) :=
  s.teams.find? (fun e => e.2.group = group && e.2.core = core && s.unprepared e.1 e.2)

/-- GANG_PLACEMENT (R359 to R361): a gang takes its place; and while a team on the first core has not its window, the core prepares
it (R59). -/
def evGangPlacement (die group : Nat) (cores : List Nat) (s : State) : Option State :=
  match s.groups.find group with
  | none => none
  | some g =>
    match s.toPrepare group (cores.headD 0) with
    | some (key, t) => if dieOfCore (cores.headD 0) == die then s.prepare key t g else none
    | none =>
      if s.nextRecord die (group, g) (fun f => (s.findPlace die f).isSome) && s.gangOn g.foot cores
          && dieOfCore (cores.headD 0) == die && (s.die die).live && s.partOf die == g.part then
        some (s.placeGang group g cores none)
      else none
/-- GANG_PLACEMENT. -/
def execGangPlacement (die group : Nat) (cores : List Nat) (s : State) := event s (evGangPlacement die group cores s)

/-- RECORD_BLOCKING: a record that has waited 2^18 clk (R360). -/
def evRecordBlocking (die group : Nat) (s : State) : Option State :=
  match s.groups.find group with
  | none => none
  | some g =>
    if g.queued && g.die = die && !g.blocking && 2 ^ 18 ≤ s.clk die - g.since then
      some (s.mapGroup group (fun g => { g with blocking := true }))
    else none
/-- RECORD_BLOCKING. -/
def execRecordBlocking (die group : Nat) (s : State) := event s (evRecordBlocking die group s)

/-! ## Retirement (R16 to R18, R363) -/

/-- The futures of a quad bind no entry of an agent's queues any more. -/
def Quad.dropAcks (q : Quad) (a : Agent) : Quad :=
  { q with futs := q.futs.map (fun f => (f.1, { f.2 with acks := f.2.acks.filter (fun x => x.1 ≠ a) })) }

/-- A stoker leaves its team: it stops, its entries are discarded, no future binds one any more, its context is free (R415, R417 to
R419, R434). -/
def State.freeStoker (s : State) (key : Nat) : State :=
  match (s.teams.find key).bind (·.stoker) with
  | none => s
  | some k =>
    let a : Agent := .slot (k / 4) (20 + k % 4)
    let s := (s.keepRecord a).mapTeam key (fun t => { t with stoker := none })
    { s with stokers := s.stokers.del k, ctxs := s.ctxs.del (ctxKey a), quads := s.quads.map (fun e => (e.1, e.2.dropAcks a)) }

/-- A store, reduction or atomic of a wave is not accepted by the memory pipe yet (R16): its counter stands, or a write of it is on its
way. -/
def State.storing (s : State) (c : Ctx) : Bool :=
  c.pend.any (fun p => p.ctr == .stc || s.reqs.any (fun r => r.pend == some p.id && r.op.isWrite))

/-- What stays of a wave that retires: nothing, or while loads into tiles of its team are on their way, which the team's tasks and waves still wait
for, what those loads need (R16, R235; log 155). -/
def State.dropWave (s : State) (a : Agent) (c : Ctx) : State :=
  let ps := c.pend.filter (fun p => p.tile.isSome)
  if ps.isEmpty then { s with ctxs := s.ctxs.del (ctxKey a) }
  else s.setCtx a { Ctx.init with team := c.team, widx := c.widx, exited := BitVec.allOnes 64, nreg := 0, live := 0, pend := ps }

/-- WAVE_RETIRE: every thread has ended and every store, reduction and atomic is accepted; the results of other loads are awaited by none, and
engine work runs on; the last wave's retirement frees the stoker (R16, R415). A wave with an access that failed stops here, its last park point
(R97), unless its team is killed (R402). -/
def evWaveRetire (a : Agent) (s : State) : Option State :=
  match s.ctx? a with
  | none => none
  | some c =>
    match s.teams.find c.team with
    | none => none
    | some t =>
      if t.group = 0 || isStoker a || isHearth a || c.gone || c.exited ≠ BitVec.allOnes 64
          || s.storing c || (t.dead.isNone && (!c.sfail.isEmpty || c.pend.any (fun p => p.fail.isSome) || c.stop.isSome)) then none
      else
        let s := (s.keepRecord a).dropWave a c
        let s := s.mapTeam c.team (fun t => { t with retired := t.retired ++ [c.widx], claims := t.claims.filter (· ≠ c.widx) })
        some (if t.retired.length + 1 = t.foot.waves then s.freeStoker c.team else s)
/-- WAVE_RETIRE. -/
def execWaveRetire (a : Agent) (s : State) := event s (evWaveRetire a s)

/-- Engine work of a team that is not complete: tasks, rick operations and copies (R17). DESIGN CHOICE (log 132): a kv.app on its way to its
home is none of it; one that comes after its team has gone finds no window, and fails with LS_RANGE. -/
def State.teamWork (s : State) (key : Nat) : Bool :=
  s.quads.any (fun q => q.2.tasks.any (fun t => t.team = key) || q.2.copies.any (fun c => c.team = key))
    || s.ranges.any (fun r => (s.ctx? r.agent).any (fun c => c.team = key))

/-- A group counts one more team as retired, with the code of a killed one (R17, R363). -/
def Group.count (g : Group) (tid : Nat) (dead : Option Nat) : Group :=
  let worst := match dead, g.worst with
    | some c, some (i, w) => if tid < i then some (tid, c) else some (i, w)
    | some c, none => some (tid, c)
    | none, w => w
  { g with retired := g.retired + 1, worst := worst }

/-- Loads into the tiles of a team that has no tiles any more are awaited by none. -/
def State.dropLoads (s : State) (key : Nat) : State := { s with ctxs := s.ctxs.filter (fun e => !(e.2.team = key && e.2.gone)) }

/-- TEAM_RELEASE (R17): not while the team is saved. -/
def evTeamRelease (key : Nat) (s : State) : Option State :=
  match s.teams.find key with
  | none => none
  | some t =>
    if t.group ≠ 0 && !s.inSave key && t.retired.length = t.foot.waves && !s.teamWork key && !s.groups.any (fun g => g.2.parent = some key) then
      some ((({ s with teams := s.teams.del key } : State).dropLoads key).mapGroup t.group (fun g => g.count t.teamId t.dead))
    else none
/-- TEAM_RELEASE. -/
def execTeamRelease (key : Nat) (s : State) := event s (evTeamRelease key s)

/-- The cores of a partition. -/
def State.partCores (s : State) (part : Nat) : List Nat := (s.cores.map (·.1)).filter (fun c => s.corePart c = part)
/-- Writes of a partition that are on their way. -/
def State.partWrites (s : State) (part : Nat) : Bool := s.reqs.any (fun r => r.part = part && r.op.isWrite)
/-- Publish what every core of a partition holds dirty, and drain its combining buffers (R18, R363). -/
def State.publishPart (s : State) (part : Nat) : State :=
  (s.partCores part).foldl (fun s c =>
    (s.publishLines c (fun line => s.phaseLine c line false)).drainWc c (fun _ => true)) s
/-- Drain the combining buffers of every core of a partition, as a release does at any scope (R79, R289). -/
def State.drainPart (s : State) (part : Nat) : State := (s.partCores part).foldl (fun s c => s.drainWc c (fun _ => true)) s
/-- Stores of a partition stand in combining buffers, or are on their way from them. -/
def State.undrained (s : State) (part : Nat) : Bool :=
  s.reqs.any (fun r => r.part = part && r.op.isWrite && r.typ = Arn.typWC) || (s.partCores part).any (fun c => !(s.core c).wc.isEmpty)
/-- Something of a partition is not published. -/
def State.unpublished (s : State) (part : Nat) : Bool :=
  s.partWrites part || (s.partCores part).any (fun c =>
    !(s.core c).wc.isEmpty || (s.core c).l1.any (fun l => l.dirty ≠ 0 && s.phaseLine c l.line false
      && l.gen == (s.attr c (lineArena l.line)).gen))

/-- The write of a group's signal word (R363): the checks at issue on a core of its die (R80, R98, R101), whose codes come with no
address to wait for, and the write. -/
def State.signal (s : State) (g : Group) : Except Nat (Except (Nat × Nat) State) :=
  if g.sigaddr = 0 then .ok (.ok s)
  else
    let core := 64 * g.die
    (s.route core g.part g.sigaddr true false).map (fun rt => s.engineWrite g.part rt.attr.gen rt.va (leBytes 8 g.sigval.toNat))

/-- A group's end: its future resolves with a signal's failure, the code of the killed team of the lowest id, or what its teams came to
(R363). -/
def State.endGroup (s : State) (group : Nat) (g : Group) (fail : Option Nat) : State :=
  let (st, code) := match fail, g.worst with
    | some c, _ => (Status.faulted, c)
    | none, some (_, c) => (Status.faulted, c)
    | none, none => if g.cut then (Status.cancelled, 0) else (Status.done, 0)
  { s with groups := s.groups.del group }.resolve0 g.fut st code

/-- GROUP_COMPLETE: every team has retired; while something is unpublished the step publishes it (at scope core, drains it), and then writes
the signal and resolves the future; a signal write waits for its translation (R18, R96, R289, R363). -/
def evGroupComplete (group : Nat) (s : State) : Option State :=
  match s.groups.find group with
  | none => none
  | some g =>
    if g.retired ≠ g.gx * g.gy * g.gz then none
    else if (if g.sc = 0 then s.undrained g.part else s.unpublished g.part) then
      let s' := if g.sc = 0 then s.drainPart g.part else s.publishPart g.part
      if s' = s then none else some s'
    else
      match s.signal g with
      | .error c => some (s.endGroup group g (some c))
      | .ok r =>
        match s.own g.die g.part group r with
        | .got s' => some (s'.endGroup group g none)
        | .fail c s' => some (s'.endGroup group g (some c))
        | .wait s' => s'
/-- GROUP_COMPLETE. -/
def execGroupComplete (group : Nat) (s : State) := event s (evGroupComplete group s)

/-! ## Claims (R373, R375) -/

/-- The wave of a team with an index, where it has not retired. -/
def State.waveOf (s : State) (key widx : Nat) : Option (Agent × Ctx) :=
  ((s.waveCtxs key).find? (fun e => e.2.widx = widx)).map (fun e => (agentOfKey e.1, e.2))

/-- A claim ends: its register takes a value and the wave goes on past the instruction. -/
def State.endClaim (s : State) (a : Agent) (d v : Nat) (f : Ctx → Ctx) : State :=
  (s.clearTag a d).mapCtx a (fun c =>
    let c := (f c).sset d (BitVec.ofNat 64 v)
    let pc := ((c.rec? c.frag).map (·.pc)).getD 0
    Ctx.stepDone { c.setPc c.frag (pc + 8) with park := .none } c.frag)

/-- CLAIM_GRANT: the head of the queue, as soon as it fits (R373). -/
def evClaimGrant (key : Nat) (s : State) : Option State :=
  match s.teams.find key with
  | none => none
  | some t =>
    match t.claims with
    | [] => none
    | w :: ws =>
      match s.waveOf key w with
      | none => none
      | some (a, c) =>
        match c.park with
        | .claim n d =>
          if c.stop.isNone && n - c.nreg ≤ s.freeRegs key then
            let s := s.mapTeam key (fun t => { t with claims := ws })
            some (s.endClaim a d n (fun c => { c.dropRegs c.nreg with nreg := n }))
          else none
        | _ => none
/-- CLAIM_GRANT. -/
def execClaimGrant (team : Nat) (s : State) := event s (evClaimGrant team s)

/-- The need of a wave that is parked in q.claim. -/
def Ctx.need (c : Ctx) : Option (Nat × Nat) :=
  match c.park with
  | .claim n d => some (n - c.nreg, d)
  | _ => none

/-- CLAIM_FAIL: with every wave that has not exited parked in q.claim and nothing to grant, the largest need fails, the highest
wave id on a tie (R375). -/
def evClaimFail (key : Nat) (s : State) : Option State :=
  let live := (s.waveCtxs key).filter (fun e => e.2.exited ≠ BitVec.allOnes 64)
  let retiring := (s.waveCtxs key).any (fun e => e.2.exited = BitVec.allOnes 64)
  if live.isEmpty || retiring || live.any (fun e => e.2.need.isNone) || (evClaimGrant key s).isSome then none
  else
    let best := live.foldl (fun (b : Option (Nat × Nat × Nat × Nat)) e =>
      match e.2.need with
      | none => b
      | some (n, d) =>
        match b with
        | none => some (n, e.2.widx, e.1, d)
        | some (m, w, k, d') => if m < n || (m = n && w < e.2.widx) then some (n, e.2.widx, e.1, d) else some (m, w, k, d')) none
    best.map (fun (_, w, k, d) =>
      (s.mapTeam key (fun t => { t with claims := t.claims.filter (· ≠ w) })).endClaim (agentOfKey k) d 0 id)
/-- CLAIM_FAIL. -/
def execClaimFail (team : Nat) (s : State) := event s (evClaimFail team s)

/-! ## Sleep -/

/-- SLEEP_EXPIRY (R384). -/
def evSleepExpiry (a : Agent) (s : State) : Option State :=
  match s.ctx? a with
  | none => none
  | some c =>
    match c.park with
    | .sleep t => if t ≤ s.clk (dieOf a) then some (s.mapCtx a (fun c => { c with park := .none }.stepDone c.frag)) else none
    | _ => none
/-- SLEEP_EXPIRY. -/
def execSleepExpiry (a : Agent) (s : State) := event s (evSleepExpiry a s)

/-! ## The switch on a blocked future (R369 to R371) -/

/-- The index of a core within its partition (R370). DESIGN CHOICE (log 154): the dies of a partition that are live count. -/
def State.coreIndex (s : State) (core : Nat) : Nat :=
  let dies := s.liveDies (s.corePart core)
  (dies.filter (· < core / 64)).length * 64 + core % 64
/-- The offset of a wave's save area in its context arena (R370). -/
def State.saveArea (s : State) (core slot ctxa : Nat) : Nat := ctxa * 2 ^ 44 + (s.coreIndex core * 20 + slot) * 131072
/-- The blocks of a context that are live and below NREG. -/
def Ctx.liveBlocks (c : Ctx) : List Nat := (List.range (c.nreg / 8)).filter (fun b => c.live.getLsbD b)
/-- The 2,048 bytes of a block (R370). -/
def Ctx.blockBytes (c : Ctx) (b : Nat) : List Byte :=
  (List.range 8).flatMap (fun j => (List.range 64).flatMap (fun lane => leBytes 4 (c.vget (8 * b + j) lane).toNat))

/-- Write the blocks of a save area under a generation (R370). -/
def State.saveBlocks (s : State) (core gen area : Nat) (c : Ctx) : Except (Nat × Nat) State :=
  c.liveBlocks.foldlM (fun (s : State) b => s.writeRange core (fun _ => gen) (area + 2048 * b) (c.blockBytes b)) s

/-- Read them (R370): the blocks with their bytes, whether a read met a dropped generation, and the slices. -/
def State.loadBlocks (s : State) (core gen area : Nat) (c : Ctx) : Except (Nat × Nat) (List (Nat × List Byte) × Bool × State) :=
  c.liveBlocks.foldlM (fun (acc : List (Nat × List Byte) × Bool × State) b =>
    (acc.2.2.readRange core (fun _ => gen) (area + 2048 * b) 2048).map (fun x =>
      (acc.1 ++ [(b, x.1)], acc.2.1 || x.2.1, x.2.2))) ([], false, s)

/-- A generation that no arena has: that of a save whose arena was dropped before it (R86, R370). -/
def noGen : Nat := 16
/-- The generation of a save into a context arena (R370). -/
def State.saveGenOf (s : State) (core area : Nat) : Nat :=
  let at' := s.attr core (arenaOf area)
  if at'.state == Arn.free || at'.state == Arn.draining then noGen else at'.gen

/-- A save may write its area: the checks at issue pass, or the arena has been dropped, whose writes are discarded (R86, R101, R370). -/
def State.maySave (s : State) (core part area : Nat) : Bool :=
  match s.route core part area true false with
  | .ok _ => true
  | .error c => c == Code.arenaDead

/-- The wave is parked on a PENDING future: on a register of it (R366), or in q.fwait on its word in memory (R369, R381). -/
def State.parkedOnFut (s : State) (c : Ctx) : Bool :=
  match c.park with
  | .fut _ => true
  | _ => s.onStatus c

/-- The number under which a wave's switch waits for a translation. -/
def switchTag (a : Agent) : Nat := 2 ^ 64 + ctxKey a

/-- The results that a parked wave counts in EC beside the one that it waits for in q.fwait on a word (R369, R379; log 156). -/
def State.otherEc (s : State) (c : Ctx) : Nat :=
  if s.onStatus c then c.ec - 1 else c.ec

/-- WAVE_SWITCH_OUT (R369, R370): a wave parked on a pending future for 1,024 clk, and a team that fits without its registers. A save
whose translation fails leaves the wave where it is (log 93). DESIGN CHOICE (log 153): the team is one of a record with GANG = 1. -/
def evWaveSwitchOut (a : Agent) (group : Nat) (spares : List Nat) (s : State) : Option State := do
  let c ← s.ctx? a
  let t ← s.teams.find c.team
  let g ← s.groups.find t.group
  let q ← s.groups.find group
  let core := coreOf a
  let die := dieOf a
  let extra := c.nreg
  let fits (f : Foot) : Bool := f.gang == 1 && s.fitsCore core f 16 20 extra && s.fitsQuad (core / 4) f 1
  if s.parkedOnFut c && c.out.isNone && c.stop.isNone && 1024 ≤ s.clk die - c.parkedAt && c.ldc = 0 && c.xc = 0 && s.otherEc c = 0 && g.ctxa ≠ 0
      && !isStoker a && !isHearth a && s.nextRecord die (group, q) fits && fits q.foot && spares.length == q.foot.waves
      && spares.all (fun n => (s.freeSlots core 16 20).contains n) && decide spares.Nodup then
    let slot := match a with | .slot _ n => n | .hearth _ => 0
    let area := s.saveArea core slot g.ctxa
    let gen := s.saveGenOf core area
    guard (s.maySave core g.part area)
    match s.own die g.part (switchTag a) (s.saveBlocks core gen area c) with
    | .wait s' => s'
    | .fail _ s' => some s'
    | .got s =>
      let (n, s) := s.fresh
      some ((s.mapCtx a (fun c => { c with out := some n, saveGen := gen })).placeGang group q [core] (some spares))
  else none
/-- WAVE_SWITCH_OUT. -/
def execWaveSwitchOut (a : Agent) (group : Nat) (spares : List Nat) (s : State) := event s (evWaveSwitchOut a group spares s)

/-- A block's registers after its reload: from the save area, or for a block outside the live mask what it held or zero, freely
(R371; log 22). -/
def Ctx.reload (c : Ctx) (tick : Nat) (area : Nat → List Byte) : Ctx :=
  let c' := { c with v := [] }
  (List.range (c.nreg / 8)).foldl (fun c' b =>
    let val : Nat → Nat → W32 := if c.live.getLsbD b then
        (let l := area b; fun j lane => BitVec.ofNat 32 (field l (256 * j + 4 * lane) 4))
      else fun j lane => if Config.keepDead tick b then c.vget (8 * b + j) lane else 0
    (List.range 8).foldl (fun c' j => (List.range 64).foldl (fun c' lane => c'.vset (8 * b + j) lane (val j lane)) c') c') c'

/-- The awaited future of a switched-out wave has resolved. -/
def Ctx.backReady (c : Ctx) : Bool := c.out.isSome && (match c.park with | .fut _ | .waiter _ => false | _ => true)
/-- A switched-out wave is ready to resume: its future has resolved and its registers are free again (R371). -/
def State.resumable (s : State) (core : Nat) (c : Ctx) : Bool :=
  c.backReady && s.usedRegs core + c.nreg ≤ Config.vregsPerCore

/-- A wave whose saved registers are lost is killed with a code (R370). -/
def State.killSwitched (s : State) (a : Agent) (team code : Nat) : State :=
  let s := s.mapCtx a (fun c => { c with out := none, park := .none, lastCode := code })
  (s.endThreads a (BitVec.allOnes 64)).mapTeam team (fun t => { t with dead := some code })

/-- WAVE_SWITCH_RESUME (R371): the first that was switched out among the ready ones; a dropped context arena kills the wave with
ARENA_DEAD (R370), and a read that fails otherwise with its code (log 93). -/
def evWaveSwitchResume (a : Agent) (s : State) : Option State := do
  let c ← s.ctx? a
  let n ← c.out
  let t ← s.teams.find c.team
  let g ← s.groups.find t.group
  let core := coreOf a
  let first := s.ctxs.all (fun e => !(e.1 / 24 = core && e.1 < 36864 && s.resumable core e.2 && (e.2.out.getD 0) < n))
  if core < 1536 && s.resumable core c && first then
    let slot := match a with | .slot _ n => n | .hearth _ => 0
    let area := s.saveArea core slot g.ctxa
    match s.own (dieOf a) g.part (switchTag a) (s.loadBlocks core c.saveGen area c) with
    | .wait s' => s'
    | .fail code s' => some (s'.killSwitched a c.team code)
    | .got (blocks, stale, s') =>
      if stale || s.deadArena core area then some (s'.killSwitched a c.team Code.arenaDead)
      else some (s'.mapCtx a (fun c => { c.reload s.tick (fun b => (AMap.find (blocks : AMap (List Byte)) b).getD []) with out := none }))
  else none
/-- WAVE_SWITCH_RESUME. -/
def execWaveSwitchResume (a : Agent) (s : State) := event s (evWaveSwitchResume a s)

end Sys2Proof.Machine
end

