-- ==== Sys2Proof/Machine/Copy.lean ====
section
/-! DEFINITION. The copy engine (R164 to R168), the range scoreboard (R169, R170), and the accesses that engine work makes to
global memory (R96, R114, R245, R324). -/

namespace Sys2Proof.Machine

/-! ## Global accesses of engine work -/

/-- A failed engine access: where its walk ended in XLATE or PROT an episode begins and the stream is held (R96), or waits without a step
while the die's hold buffer is full (R95); otherwise its code ends the operation, and a SYNONYM posts a record (R97, R99, R119); where the home
is not reached yet, it waits (R102, R442). The flag says whether it is held. -/
def State.engineFault (s : State) (a : Agent) (part va code : Nat) (pc : W64) : Option (State × Bool) :=
  let die := s.unitOf part va % 32
  let r := s.recordOf a pc va 0 1 true false false code
  if code = Code.xlate || code = Code.prot then
    if s.holdRoom die then some (s.beginEpisode die part va code r, true) else none
  else if code = Code.link then none
  else if code = Code.synonym then some (s.noteSynonym die part va r, false)
  else some (s, false)

/-! ## Local-store ranges -/

/-- A row of n bytes at a local-store address of a team, placed by swizzle z: every byte exists, logical and physical (R137,
R144; log 28). -/
def State.lsRow (s : State) (key z addr n : Nat) : Option LsAt :=
  match s.lsOfTeam key addr with
  | none => none
  | some p =>
    let ok := p.off + n ≤ p.limit && (n = 0 || z = 0 || (List.range ((p.off + n - 1) / 16 - p.off / 16 + 1)).all (fun i =>
      swizzle z (16 * (p.off / 16 + i)) + 16 ≤ p.limit))
    if n = 0 || ok then some p else none

/-- Every granule of a row carries a tag (R146). -/
def State.rowTag (s : State) (p : LsAt) (n z : Nat) : Bool :=
  (List.range ((p.off % 512 + n + 511) / 512)).all (fun i => s.tagAt p.ref (p.off / 512 * 512 + 512 * i) == z)

/-- Bytes of a row under a swizzle. -/
def State.lsReadSwz (s : State) (p : LsAt) (z n : Nat) : List Byte :=
  (List.range n).flatMap (fun i => s.lsRead p.ref (swizzle z (p.off + i)) 1)
/-- Write bytes of a row under a swizzle, with the tags of the granules they touch (R145). -/
def State.lsWriteSwz (s : State) (p : LsAt) (z : Nat) (l : List Byte) : State :=
  let s := if z = 0 then s.lsWrite p.ref p.off l
    else l.zipIdx.foldl (fun s e => s.lsWrite p.ref (swizzle z (p.off + e.2)) [e.1]) s
  s.setTags p.ref p.off l.length z
/-- A touch of the bytes of a row under a swizzle by engine work of an agent (R142). -/
def State.touchRow (s : State) (a : Agent) (pc : W64) (p : LsAt) (z n : Nat) : State :=
  if z = 0 then s.touch a pc p n
  else (List.range n).foldl (fun s i => s.touch a pc { p with off := swizzle z (p.off + i) } 1) s

/-! ## Commands (R164 to R166) -/

/-- Kinds of a command, as OP codes (R165). -/
def ckCopy : Nat := 0
def ckCopy2 : Nat := 1
def ckGath : Nat := 2
def ckScat : Nat := 3
def ckFill : Nat := 4
def ckBcast : Nat := 5

/-- Rows of a command: for e.bcast, its members (R165). -/
def Copy.rows (c : Copy) : List Nat := c.left.map (·.1)
/-- The index of row i (R165). -/
def State.copyIndex (s : State) (c : Copy) (i : Nat) : Option Nat :=
  match c.idx with
  | none => some i
  | some a =>
    match s.lsOfTeam c.team ((a + 4 * i) % 2 ^ 32) with
    | some p => if p.off + 4 ≤ p.limit then some (ofLe (s.lsRead p.ref p.off 4)) else none
    | none => none
/-- A touch of the index of row i, which the engine reads (R142). -/
def State.touchIndex (s : State) (c : Copy) (i : Nat) : State :=
  match c.idx.bind (fun a => s.lsOfTeam c.team ((a + 4 * i) % 2 ^ 32)) with
  | some p => s.touch c.agent c.pc p 4
  | none => s
/-- The source address of row i. -/
def State.srcRow (s : State) (c : Copy) (i : Nat) : Option Nat :=
  if c.kind = ckBcast then some c.src
  else if c.kind = ckGath then (s.copyIndex c i).map (fun x => c.src + x * c.sstride)
  else some (c.src + i * c.sstride)
/-- The destination address of row i; for e.bcast the window offset in member i (R165). -/
def State.dstRow (s : State) (c : Copy) (i : Nat) : Option Nat :=
  if c.kind = ckScat then (s.copyIndex c i).map (fun x => c.dst + x * c.dstride)
  else if c.kind = ckBcast then some (c.dst + 2 ^ 19 * (i % 4) + 2 ^ 21 * (i / 4))
  else some (c.dst + i * c.dstride)
/-- A local-store address, or a VA. -/
def cutAddr (ls : Bool) (a : Nat) : Nat := if ls then a % 2 ^ 32 else a % 2 ^ 56

/-- The address of the barrier object that a landing row counts against: in the posting team's view, or for e.bcast in the
receiving member (R167). -/
def Copy.barAt (c : Copy) (row : Nat) : Option Nat :=
  c.bar.map (fun b => if c.kind = ckBcast then b % 2 ^ 19 + 2 ^ 19 * (row % 4) + 2 ^ 21 * (row / 4) else b)

/-- The swizzle of the source and of the destination: of the local-store side, a destination before a source (R166). -/
def Copy.srcSwz (c : Copy) : Nat := if c.dls then 0 else c.swz

/-- The arena of an address after a core's remap filter (R98). -/
def State.arenaAt (s : State) (core va : Nat) : Nat := arenaOf (canonical (s.core core).filters (va % 2 ^ 56))

/-- Where the parts of [va, va + n) begin that go one way: cut where the remap filter's rewrite changes, where a region begins or ends, and
where an arena ends (R98, R101). -/
def State.rowParts (s : State) (core part va n : Nat) : List Nat :=
  let ends := (s.part part).regions.flatMap (fun e => [e.2.base, e.2.base + e.2.len])
  (canonPieces (s.core core).filters va n).flatMap (fun p =>
    (((p.1 / 2 ^ 44 + 1) * 2 ^ 44 :: ends).foldl cutAt [(p.1, p.2.1)]).map (fun e => va + p.2.2 + (e.1 - p.1)))

/-- The first code with which the checks at issue stop a part of [va, va + n) (R80, R101). -/
def State.rowBad (s : State) (core part va n : Nat) (write : Bool) : Option Nat :=
  (s.rowParts core part va n).findSome? (fun x => match s.route core part (x % 2 ^ 56) write false with
    | .error e => some e
    | .ok _ => none)

/-- The global rows of a command at issue: R80 and R101 on every byte of each, and then that none leaves the arena in which the
range begins (R166). -/
def State.globalRows (s : State) (core part base : Nat) (rows : List Nat) (n : Nat) (write : Bool) : Option Nat × Option Nat :=
  (((base, 0) :: rows.map (fun x => (x, n))).findSome? (fun e => s.rowBad core part e.1 e.2 write),
   if n ≠ 0 && rows.any (fun x => (s.rowParts core part x n).any (fun y => s.arenaAt core y ≠ s.arenaAt core base))
     then some Code.align else none)

/-- A global row at issue: R80 and R101 on every byte of it, and one arena (R248, R255, R265). -/
def State.globalRow (s : State) (core part va n : Nat) (write : Bool) : Except Nat Unit :=
  match s.rowBad core part va n write with
  | some c => .error c
  | none => if (s.rowParts core part va n).any (fun y => s.arenaAt core y ≠ s.arenaAt core va) then .error Code.align else .ok ()

/-- The generations of the arenas of addresses, as the core's table gives them now (R77). -/
def State.gensOf (s : State) (core : Nat) (vas : List Nat) : AMap Nat :=
  ((vas.map (s.arenaAt core)).eraseDups).foldl (fun m a => AMap.put m a (s.coreGen core a)) []

/-- The rows that a command reads: e.bcast reads one, whatever members it names. -/
def Copy.srcRows (c : Copy) (rows : List Nat) : List Nat := if c.kind = ckBcast then [0] else rows

/-- The checks of a command at issue, in the order of R166: the first code that fails. The rows of an indexed side, and the tags of such a
local source, are those that the index list names at issue; the run checks them again (log 48). An e.bcast with no member has no row, so no object of
its is looked at (log 135). -/
def State.checkCopy (s : State) (a : Agent) (core part : Nat) (c : Copy) (rows : List Nat) : Option Nat :=
  let n := c.rowbytes
  let srcIdx := c.kind = ckGath
  let dstIdx := c.kind = ckScat
  let hasSrc := c.kind ≠ ckFill
  let srcRows := c.srcRows rows
  let lsBad (ls idx : Bool) (z : Nat) (l : List Nat) (f : Nat → Option Nat) : Bool :=
    ls && !idx && n ≠ 0 && l.any (fun i => match f i with | some x => (s.lsRow c.team z (cutAddr true x) n).isNone | none => false)
  let idxBad := match c.idx with
    | some x => rows.length ≠ 0 && (s.lsRow c.team 0 (x % 2 ^ 32) (4 * rows.length)).isNone
    | none => false
  let glob (ls write : Bool) (base : Nat) (l : List Nat) (f : Nat → Option Nat) : Option Nat × Option Nat :=
    if ls then (none, none) else s.globalRows core part base (l.filterMap f) n write
  let orElse (x y : Option Nat) : Option Nat := match x with | some v => some v | none => y
  let range := if (hasSrc && lsBad c.sls srcIdx c.srcSwz srcRows (s.srcRow c)) || lsBad c.dls dstIdx c.swz rows (s.dstRow c) || idxBad
    then some Code.lsRange else none
  let src := if hasSrc then glob c.sls false c.src srcRows (s.srcRow c) else (none, none)
  let dst := glob c.dls true c.dst rows (s.dstRow c)
  let arena := orElse src.1 dst.1
  let align := if src.2.isSome || dst.2.isSome || (match c.idx with | some x => x % 4 ≠ 0 | none => false)
      || (c.kind = ckFill && (c.dst % 4 ≠ 0 || n % 4 ≠ 0)) then some Code.align else none
  let tags := if hasSrc && c.sls && !c.dls && n ≠ 0 && srcRows.any (fun i =>
      match (s.srcRow c i).bind (fun x => s.lsRow c.team c.swz (cutAddr true x) n) with
      | some p => !s.rowTag p n c.swz
      | none => false) then some Code.swz else none
  let objs := (if c.kind = ckBcast then rows else [0]).findSome? (fun i => (c.barAt i).bind (fun b =>
      match s.checkObj a c.team b with | .error e => some e.1 | .ok _ => none))
  orElse range (orElse arena (orElse align (orElse tags objs)))

/-! ## The range scoreboard (R169, R170) -/

/-- The byte bounds of rows in members' windows: one entry for each member that they reach, under one number (R169). -/
def State.boardOf (s : State) (key n : Nat) (addrs : List Nat) : List (Nat × Nat × Nat) :=
  let ps := addrs.filterMap (fun x => match s.lsOfTeam key (x % 2 ^ 32) with
    | some p => (match p.ref with | .team k => some (k, p.off) | .hearth _ => none)
    | none => none)
  let ks := (ps.map (·.1)).eraseDups
  ks.map (fun k =>
    let os := (ps.filter (·.1 = k)).map (·.2)
    (k, os.foldl min (os.headD 0), os.foldl max 0 + n))

/-- The ranges of a command, each with the swizzle under which the copy finds its bytes: source, destination and index list, for
indexed rows the bounds of those that the list names at issue (R169). -/
def State.copyRanges (s : State) (c : Copy) (rows : List Nat) : List (Nat × List (Nat × Nat × Nat)) :=
  if c.rowbytes = 0 || rows.isEmpty then []
  else
    let src := if c.sls && c.kind ≠ ckFill then [(c.srcSwz, s.boardOf c.team c.rowbytes (rows.filterMap (s.srcRow c)))] else []
    let dst := if c.dls then [(c.swz, s.boardOf c.team c.rowbytes (rows.filterMap (s.dstRow c)))] else []
    let idx := match c.idx with
      | some x => [(0, s.boardOf c.team 4 (rows.map (x + 4 * ·)))]
      | none => []
    src ++ dst ++ idx

/-- The room that a command needs in its core's scoreboard: entries enough, and no overlap with an earlier command's (R170). -/
def State.boardRoom (s : State) (core : Nat) (rs : List (Nat × List (Nat × Nat × Nat))) : Bool :=
  let b := (s.core core).board
  (b.map (·.id)).eraseDups.length + rs.length ≤ Config.scoreboard
    && !rs.any (fun l => l.2.any (fun e => b.any (fun x => x.team == e.1 && x.lo < e.2.2 && e.2.1 < x.hi)))

/-! ## Issue -/

/-- Post a command (R166, R168, R170): the parameters are read at issue; a refused one resolves FAULTED; one that moves nothing
resolves DONE. Its tags are looked at only when its scoreboard lets it issue (R170). -/
def State.postCopy (s : State) (is : Iss) (d : RegNo) (x0 : BitVec 32) (x : CopyX) (c0 : Copy) (rows : List Nat) : Res State := do
  is.memReady s
  let core := coreOf is.a
  let part := s.agentPart is.a
  let sc := s.scope is.a x.sc
  let (id, s) := s.fresh
  let gen (a : Nat) : Nat := (s.attr core (arenaOf (canonical (s.core core).filters (a % 2 ^ 56)))).gen
  let n := c0.rowbytes
  let c : Copy := { c0 with
    id := id, agent := is.a, team := is.c.team, core := core, sls := c0.sls, swz := x.swz.toNat, sc := BitVec.ofNat 3 sc,
    bar := if x.bar then some x0.toNat else none, left := if n = 0 then [] else rows.map (fun i => (i, 0, n)),
    sgen := gen c0.src, dgen := gen c0.dst, pc := is.pc }
  let rs := s.copyRanges c rows
  require (s.boardRoom core rs) (.park (.board rs))
  match s.checkCopy is.a core part c rows with
  | some code => s.instantFut is d Kind.copy sc Status.faulted code
  | none =>
    if c.left.isEmpty then s.instantFut is d Kind.copy sc Status.done 0
    else
      let (s, q, k) ← s.takeFut is d Kind.copy sc id
      let s := s.mapQuad q (fun x => { x with copies := x.copies ++ [{ c with fut := some (q, k) }] })
      let base := s.uid
      let s := { s with uid := s.uid + rs.length }
      let bs : List Board := rs.zipIdx.flatMap (fun e => e.1.2.map (fun r =>
        { id := base + e.2, copy := id, team := r.1, lo := r.2.1, hi := r.2.2, swz := e.1.1 }))
      pure (s.mapCore core (fun y => { y with board := y.board ++ bs }))

/-- A command with nothing in it. -/
def Copy.blank (kind : Nat) (sls dls : Bool) (src dst rowbytes : Nat) : Copy :=
  { id := 0, agent := .hearth 0, team := 0, core := 0, kind := kind, sls := sls, dls := dls, src := src, dst := dst, sstride := 0,
    dstride := 0, rowbytes := rowbytes, idx := none, pattern := 0, members := [], bar := none, swz := 0, sc := 0, left := [],
    cancel := false, fail := none, held := none, again := false, fut := none, stale := false, sgen := 0, dgen := 0, pc := 0, carry := [] }

/-- The address in a register: a local-store address or a VA (R164). -/
def Iss.engAddr (is : Iss) (ls : Bool) (r : RegNo) : Nat := cutAddr ls (is.s r).toNat

/-- e.copy (R165). -/
def execECopy (h : Hdr) (d a b c : RegNo) (x0 : BitVec 32) (x : CopyX) (s : State) :=
  issue .core h 16 { rd := [.s a, .s b, .s c], wr := [.s d] } s (fun is s =>
    s.postCopy is d x0 x (Copy.blank ckCopy x.sls x.dls (is.engAddr x.sls b) (is.engAddr x.dls a) ((is.s c).toNat % 2 ^ 32)) [0])

/-- The row bytes, rows and two words of a pair of parameter registers (R165). -/
def Iss.pair (is : Iss) (c : RegNo) : Nat × Nat × Nat × Nat :=
  let p := (is.s c).toNat
  let q := (is.s (c + 1)).toNat
  (bits p 0 24, bits p 24 16, bits q 0 32, bits q 32 32)

/-- e.copy2 (R165). -/
def execECopy2 (h : Hdr) (d a b c : RegNo) (x0 : BitVec 32) (x : CopyX) (s : State) :=
  issue .core h 16 { rd := [.s a, .s b, .s c, .s (c + 1)], wr := [.s d] } s (fun is s =>
    let (rb, rows, ds, ss) := is.pair c
    s.postCopy is d x0 x { Copy.blank ckCopy2 x.sls x.dls (is.engAddr x.sls b) (is.engAddr x.dls a) rb with
      sstride := ss, dstride := ds } (List.range rows))

/-- e.gath (R165). -/
def execEGath (h : Hdr) (d a b c : RegNo) (x0 : BitVec 32) (x : CopyX) (s : State) :=
  issue .core h 16 { rd := [.s a, .s b, .s c, .s (c + 1)], wr := [.s d] } s (fun is s =>
    let (rb, rows, ix, st) := is.pair c
    s.postCopy is d x0 x { Copy.blank ckGath x.sls x.dls (is.engAddr x.sls b) (is.engAddr x.dls a) rb with
      sstride := st, dstride := rb, idx := some ix } (List.range rows))

/-- e.scat (R165). -/
def execEScat (h : Hdr) (d a b c : RegNo) (x0 : BitVec 32) (x : CopyX) (s : State) :=
  issue .core h 16 { rd := [.s a, .s b, .s c, .s (c + 1)], wr := [.s d] } s (fun is s =>
    let (rb, rows, ix, st) := is.pair c
    s.postCopy is d x0 x { Copy.blank ckScat x.sls x.dls (is.engAddr x.sls b) (is.engAddr x.dls a) rb with
      sstride := rb, dstride := st, idx := some ix } (List.range rows))

/-- e.fill (R165). -/
def execEFill (h : Hdr) (d a b c : RegNo) (x0 : BitVec 32) (x : CopyX) (s : State) :=
  issue .core h 16 { rd := [.s a, .s b, .s c], wr := [.s d] } s (fun is s =>
    s.postCopy is d x0 x { Copy.blank ckFill false x.dls 0 (is.engAddr x.dls a) ((is.s c).toNat % 2 ^ 32) with
      pattern := (is.s b).extractLsb' 0 32 } [0])

/-- e.bcast (R165). -/
def execEBcast (h : Hdr) (d a b c : RegNo) (x0 : BitVec 32) (x : CopyX) (s : State) :=
  issue .core h 16 { rd := [.s a, .s b, .s c], wr := [.s d] } s (fun is s =>
    let p := (is.s c).toNat
    let ms := onesBelow (bits p 32 8) 8
    s.postCopy is d x0 x { Copy.blank ckBcast x.sls true (is.engAddr x.sls b) (bits (is.s a).toNat 0 19) (bits p 0 32) with
      members := ms } ms)

/-! ## The run (R167, R168) -/

/-- The quad that holds a copy, and the copy. -/
def State.findCopy (s : State) (id : Nat) : Option (Nat × Copy) :=
  s.quads.findSome? (fun e => (e.2.copies.find? (fun c => c.id = id)).map (fun c => (e.1, c)))
/-- Change a copy. -/
def State.mapCopy (s : State) (q id : Nat) (f : Copy → Copy) : State :=
  s.mapQuad q (fun x => { x with copies := x.copies.map (fun c => if c.id = id then f c else c) })

/-- Take [lo, hi) of a row out of what is left. -/
def takeLeft (l : List (Nat × Nat × Nat)) (row lo hi : Nat) : Option (List (Nat × Nat × Nat)) :=
  match l.find? (fun e => e.1 = row && e.2.1 ≤ lo && hi ≤ e.2.2) with
  | none => none
  | some e => some (l.filter (· ≠ e) ++ (if e.2.1 < lo then [(row, e.2.1, lo)] else [])
      ++ (if hi < e.2.2 then [(row, hi, e.2.2)] else []))

/-- The address at which n bytes leave the arena in which a command's range begins (R166). -/
def State.leaves (s : State) (core base va n : Nat) : Option Nat :=
  ((s.pieces core (va % 2 ^ 56) n).find? (fun x => arenaOf x.1 ≠ s.arenaAt core base)).map (·.1)

/-- The bytes of a part of a row at the source: the bytes, the stale mark and the state; or a code and an address. -/
def State.copySrc (s : State) (c : Copy) (row col n : Nat) : Except (Nat × Nat) (List Byte × Bool × State) :=
  if c.kind = ckFill then
    .ok ((List.range n).map (fun i => (leBytes 4 c.pattern.toNat).getD ((col + i) % 4) 0), false, s)
  else
    match s.srcRow c row with
    | none => .error (Code.lsRange, 0)
    | some a =>
      if c.sls then
        match s.lsRow c.team c.srcSwz ((a + col) % 2 ^ 32) n with
        | none => .error (Code.lsRange, (a + col) % 2 ^ 32)
        | some p =>
          if c.kind = ckGath && !c.dls && !s.rowTag p n c.swz then .error (Code.swz, (a + col) % 2 ^ 32)
          else .ok (s.lsReadSwz p c.srcSwz n, false, s.touchRow c.agent c.pc p c.srcSwz n)
      else
        match s.leaves c.core c.src (a + col) n with
        | some va => .error (Code.align, va)
        | none => s.readRange c.core (fun _ => c.sgen) ((a + col) % 2 ^ 56) n

/-- The bytes of a part of a row at the source, each aligned word of it read once (R307): where the part ends inside one, the rest of that
word is read with it and carried until it lands. -/
def State.copyWords (s : State) (c : Copy) (row col n : Nat) : Except (Nat × Nat) (List Byte × Bool × List (Nat × Nat × Byte) × State) :=
  let at' := if c.kind = ckFill then some col else (s.srcRow c row).map (· + col)
  let a := at'.getD 0
  let h := min col (a % 4)
  let t := min (c.rowbytes - col - n) ((4 - (a + n) % 4) % 4)
  (s.copySrc c row (col - h) (h + n + t)).map (fun x =>
    let l := x.1.zipIdx.map (fun e => (row, col - h + e.2,
      ((c.carry.find? (fun y => y.1 = row && y.2.1 = col - h + e.2)).map (·.2.2)).getD e.1))
    let mine (y : Nat × Nat × Byte) : Bool := y.1 = row && col - h ≤ y.2.1 && y.2.1 < col + n + t
    let out (y : Nat × Nat × Byte) : Bool := (y.2.1 < col || col + n ≤ y.2.1)
      && c.left.any (fun p => p.1 = row && p.2.1 ≤ y.2.1 && y.2.1 < p.2.2)
    ((l.drop h).take n |>.map (·.2.2), x.2.1, c.carry.filter (fun y => !mine y) ++ l.filter out, x.2.2))

/-- The bytes of a part of a row at the destination, and the counts they make at the barrier object (R167). -/
def State.copyDst (s : State) (c : Copy) (row col : Nat) (l : List Byte) : Except (Nat × Nat) State :=
  match s.dstRow c row with
  | none => .error (Code.lsRange, 0)
  | some a =>
    let count (s : State) (out : Bool) : State :=
      match (c.barAt row).bind (s.lsOfTeam c.team) with
      | some p => (match p.ref with | .team k => s.countBytes k p.off l.length out | .hearth _ => s)
      | none => s
    if c.dls then
      match s.lsRow c.team c.swz ((a + col) % 2 ^ 32) l.length with
      | none => .error (Code.lsRange, (a + col) % 2 ^ 32)
      | some p => .ok (count ((s.touchRow c.agent c.pc p c.swz l.length).lsWriteSwz p c.swz l) false)
    else
      match s.leaves c.core c.dst (a + col) l.length with
      | some va => .error (Code.align, va)
      | none =>
        match s.writeRange c.core (fun _ => c.dgen) ((a + col) % 2 ^ 56) l with
        | .error e => .error e
        | .ok s => .ok (if c.sls then count s true else s)

/-- What lands together: at a global destination a line's whole part of a row, so that a row makes one write for each line that it touches
(R125); in the local store whole aligned 4-byte words of the row (R307). -/
def Copy.grain (c : Copy) : Nat := if c.dls then 4 else 128
/-- Bytes that may land together. -/
def State.landOk (s : State) (c : Copy) (row col n : Nat) : Bool :=
  match s.dstRow c row with
  | some a => (col = 0 || (a + col) % c.grain = 0) && (col + n = c.rowbytes || (a + col + n) % c.grain = 0)
  | none => true

/-- The most bytes that may land together from the first byte of a run that is left: to the end of the destination's line, or at most 256. -/
def State.landSize (s : State) (c : Copy) (p : Nat × Nat × Nat) : Nat :=
  let left := p.2.2 - p.2.1
  match s.dstRow c p.1 with
  | some a => min left (if c.dls then 256 - (a + p.2.1) % 4 else 128 - (a + p.2.1) % 128)
  | none => min 256 left

/-- The region table stops a part of a row that an index names, at the run (R101, R166): a code. -/
def State.indexBad (s : State) (c : Copy) (row col n : Nat) : Option Nat :=
  let bad (ls write : Bool) (a : Option Nat) : Option Nat :=
    if ls then none else a.bind (fun x => (s.rowParts c.core (s.corePart c.core) (x + col) n).findSome? (fun y =>
      let v := canonical (s.core c.core).filters (y % 2 ^ 56)
      match (s.part (s.corePart c.core)).region? v with
      | none => some Code.xlate
      | some e => if (e.2.home v).host && (s.attr c.core (arenaOf v)).typ == Arn.typN then some Code.prot else none))
  if c.kind = ckGath then bad c.sls false (s.srcRow c row)
  else if c.kind = ckScat then bad c.dls true (s.dstRow c row) else none

/-- COPY_BYTES_LAND: bytes of a row move (R167, R168); a failed access holds the stream or ends it (R96, R97, R166), and what it has touched
stays touched (R142). -/
def evCopyBytesLand (copy row col n : Nat) (s : State) : Option State :=
  match s.findCopy copy with
  | none => none
  | some (q, c) =>
    if c.cancel || c.fail.isSome || c.held.isSome || n = 0 || 256 < n || !s.landOk c row col n then none
    else
      match takeLeft c.left row col (col + n) with
      | none => none
      | some left =>
        let s := s.touchIndex c row
        let bad (s : State) (code va : Nat) : Option State :=
          (s.engineFault c.agent (s.corePart c.core) va code c.pc).map (fun x =>
            (x.1.mapCopy q copy (fun c =>
              if x.2 then { c with held := some va, again := false } else { c with fail := some code, again := false })).mapsGo)
        match s.indexBad c row col n with
        | some code => some (s.mapCopy q copy (fun c => { c with fail := some code, again := false })).mapsGo
        | none =>
          match s.copyWords c row col n with
          | .error (code, va) => bad s code va
          | .ok (l, stale, carry, s) =>
            match s.copyDst c row col l with
            | .error (code, va) => bad s code va
            | .ok s => some (s.mapCopy q copy (fun c =>
                { c with left := left, stale := c.stale || stale, carry := carry, again := false })).mapsGo
/-- COPY_BYTES_LAND. -/
def execCopyBytesLand (copy row col n : Nat) (s : State) := event s (evCopyBytesLand copy row col n s)

/-- COPY_COMPLETE: every byte has performed, or the copy was cancelled or has failed (R168). -/
def evCopyComplete (copy : Nat) (s : State) : Option State :=
  match s.findCopy copy with
  | none => none
  | some (q, c) =>
    let st : Option (Nat × Nat) := match c.fail with
      | some code => some (Status.faulted, code)
      | none => if c.cancel then some (Status.cancelled, 0) else if c.left.isEmpty then some (Status.done, 0) else none
    st.map (fun (x, code) =>
      ((s.mapQuad q (fun y => { y with copies := y.copies.filter (fun k => k.id ≠ copy) })).resolve c.fut x code 0 c.stale).mapsGo)
/-- COPY_COMPLETE. -/
def execCopyComplete (copy : Nat) (s : State) := event s (evCopyComplete copy s)

/-- SCOREBOARD_ENTRY_FREE: the last access to the entry's range has performed (R169). -/
def evScoreboardEntryFree (core id : Nat) (s : State) : Option State :=
  match (s.core core).board.find? (fun b => b.id = id) with
  | none => none
  | some b =>
    let busy := match s.findCopy b.copy with | some (_, c) => !c.left.isEmpty | none => false
    if busy then none else some (s.mapCore core (fun c => { c with board := c.board.filter (fun x => x.id ≠ id) }))
/-- SCOREBOARD_ENTRY_FREE. -/
def execScoreboardEntryFree (core id : Nat) (s : State) := event s (evScoreboardEntryFree core id s)

end Sys2Proof.Machine
end

