-- ==== Sys2Proof/Machine/Matrix.lean ====
section
/-! DEFINITION. Tile tasks: the reservation table and its rules (R242 to R244, R258), operand fetches (R245, R247), the arithmetic
of a pass (R185 to R187, R237 to R241), and the passes' events. -/

namespace Sys2Proof.Machine

/-! ## Slots and rows -/

/-- Where element (i, j) of a slot stands (R236). -/
def slotAddr (a i j : Nat) : Nat := 65536 * a + 512 * i + 4 * j
/-- An element of a slot. -/
def Team.elem (t : Team) (a i j : Nat) : Nat := ofLe (bytesAt t.slots (slotAddr a i j) 4)
/-- n elements of a slot's row from column j on. -/
def Team.elems (t : Team) (a i j n : Nat) : List Nat := (List.range n).map (fun x => t.elem a i (j + x))
/-- Write elements of a slot's row. -/
def putElems (m : AMap Byte) (a i j : Nat) (l : List Nat) : AMap Byte := putBytes m (slotAddr a i j) (l.flatMap (leBytes 4))
/-- The codes of a packed row (R176). -/
def unpackRow (w n : Nat) (l : List Byte) : List Nat := let v := ofLe l; (List.range n).map (fun i => bits v (w * i) w)
/-- Codes packed into whole bytes (R176). -/
def packRow (w : Nat) (l : List Nat) : List Byte :=
  leBytes (l.length * w / 8) (l.foldr (fun x acc => x % 2 ^ w + 2 ^ w * acc) 0)

/-- The generation under which a task accesses an arena: as its post found it (R77). -/
def Task.genOf (t : Task) (s : State) (aid : Nat) : Nat := (t.gens.find aid).getD (s.coreGen (coreOf t.agent) aid)

/-- Bytes of a row of an operand from byte lo on: of a tile, the local store or global memory (R245). -/
def State.fetchRow (s : State) (t : Task) (o : Opnd) (row lo n : Nat) : Except (Nat × Nat) (List Byte × Bool × State) :=
  match o with
  | .tile x =>
    match s.teams.find t.team with
    | some tm => .ok (bytesAt tm.tiles (tileAddr x row lo) n, false, s)
    | none => .ok (List.replicate n 0, false, s)
  | .ls addr stride z =>
    let a := (addr + row * stride + lo) % 2 ^ 32
    match s.lsRow t.team z a n with
    | none => .error (Code.lsRange, a)
    | some p => .ok (s.lsReadSwz p z n, false, s.touchRow t.agent t.pc p z n)
  | .global va stride =>
    s.readRange (coreOf t.agent) (t.genOf s) ((va + row * stride + lo) % 2 ^ 56) n

/-- Rows of an operand. -/
def State.fetchRows (s : State) (t : Task) (o : Opnd) (rows : List Nat) (lo n : Nat) :
    Except (Nat × Nat) (List (List Byte) × Bool × State) :=
  rows.foldlM (fun (acc : List (List Byte) × Bool × State) r =>
    match acc.2.2.fetchRow t o r lo n with
    | .error e => .error e
    | .ok (l, st, s) => .ok (acc.1 ++ [l], acc.2.1 || st, s)) ([], false, s)

/-- The transpose of a matrix of n columns. -/
def transpose (n : Nat) (m : List (List Nat)) : List (List Nat) := (List.range n).map (fun j => m.map (fun r => r.getD j 0))

/-- op(X)(x, k) for x below cnt and kn values of k from k0 on: by rows, or with tr = true by columns (R238). -/
def State.fetchOp (s : State) (t : Task) (o : Opnd) (ty : Ty) (tr : Bool) (cnt k0 kn : Nat) :
    Except (Nat × Nat) (List (List Nat) × Bool × State) :=
  let w := ty.bits
  if tr then
    (s.fetchRows t o ((List.range kn).map (k0 + ·)) 0 ((cnt * w + 7) / 8)).map (fun x =>
      (transpose cnt (x.1.map (unpackRow w cnt)), x.2))
  else
    (s.fetchRows t o (List.range cnt) (k0 * w / 8) ((kn * w + 7) / 8)).map (fun x => (x.1.map (unpackRow w kn), x.2))

/-! ## The arithmetic of a pass (R185 to R187) -/

/-- The value of an element under an E8M0 scale code: NaN for a NaN scale, else exactly scaled (R185). -/
def scaleVal (v : Val) (e : Nat) : Val := if e = 255 then .nan true else v.scale ((e : Int) - 127)

/-- ⌊log₂⌋ of a positive finite magnitude. -/
def finLog (m : Nat) (e : Int) : Int := e + bitLen m - 1
/-- A product truncated toward zero to a multiple of 2^g: the multiple, and whether something is lost (R186). -/
def truncTo (g : Int) (m : Nat) (e : Int) : Nat × Bool :=
  if g ≤ e then (m * 2 ^ (e - g).toNat, false)
  else let sh := min (g - e).toNat (bitLen m + 1); (m / 2 ^ sh, m % 2 ^ sh != 0)

/-- The sum of a group of exact products, or none where every one is zero, with its flags (R186). -/
def groupSum (ps : List (Val × BitVec 5)) : Option (Val × BitVec 5) :=
  let fl := ps.foldl (fun f p => f ||| p.2) 0
  let vs := ps.map (·.1)
  let pos := vs.contains (.inf false)
  let neg := vs.contains (.inf true)
  if pos && neg then some (.nan false, fl ||| Flag.nv)
  else if vs.any Val.isNan then some (.nan false, fl)
  else if pos || neg then some (.inf neg, fl)
  else
    let fs := vs.filterMap (fun v => match v with | .fin n m e => if m = 0 then none else some (n, m, e) | _ => none)
    match fs with
    | [] => none
    | x :: _ =>
      let emax := fs.foldl (fun b f => max b (finLog f.2.1 f.2.2)) (finLog x.2.1 x.2.2)
      let g := emax - 60
      let ts := fs.map (fun f => (signedNat f.1 (truncTo g f.2.1 f.2.2).1, (truncTo g f.2.1 f.2.2).2))
      let sum := ts.foldl (fun a x => a + x.1) (0 : Int)
      some (.fin (sum < 0) sum.natAbs g, fl ||| if ts.any (·.2) then Flag.nx else 0)

/-- One group added to an f32 accumulator (R186). -/
def accGroup (acc : Nat × BitVec 5) (ps : List (Val × BitVec 5)) : Nat × BitVec 5 :=
  match groupSum ps with
  | none => acc
  | some (g, fl) =>
    let f := Ty.fmt .f32
    let (v, fl') := Val.add .rn (f.decode acc.1) g
    let (c, fl'') := f.roundVal .rne v
    (c, acc.2 ||| fl ||| fl' ||| fl'')

/-- Groups of 32 along K. -/
def chunks32 : Nat → List (Val × BitVec 5) → List (List (Val × BitVec 5))
  | 0, _ => []
  | k + 1, l => if l.isEmpty then [] else l.take 32 :: chunks32 k (l.drop 32)

/-- A pass's products of one output element added to it: f32 in groups, with the scales of its row and column (R185, R186). -/
def accFp (tya tyb : Ty) (a b : List Nat) (sa sb : List Nat) (acc : Nat) : Nat × BitVec 5 :=
  let ps := (a.zip b).zipIdx.map (fun e =>
    let x := tya.val e.1.1
    let y := tyb.val e.1.2
    match sa[e.2 / 32]?, sb[e.2 / 32]? with
    | some p, some q => (scaleVal x p).mul (scaleVal y q)
    | _, _ => x.mul y)
  (chunks32 (ps.length / 32 + 1) ps).foldl accGroup (acc, 0)
/-- The same in i32 with wrap-around (R187, R240). -/
def accInt (tya tyb : Ty) (a b : List Nat) (acc : Nat) : Nat :=
  let sum := (a.zip b).foldl (fun x e => x + tya.intOfCode e.1 * tyb.intOfCode e.2) (0 : Int)
  Ty.wrap .b32 ((acc : Int) + sum)

/-- A path of the engine: Kp, whether it is an integer path, and whether E8M0 scales are required or possible (R237). -/
def pathOf (mmt : Bool) (tya tyb : Ty) : Option (Nat × Bool × Bool × Bool) :=
  let fp8 (t : Ty) : Bool := t == .e4m3 || t == .e5m2
  let fp6 (t : Ty) : Bool := t == .e3m2 || t == .e2m3 || t == .e2m1
  let i8 (t : Ty) : Bool := t == .i8 || t == .n8
  if mmt then (if tya == .tern && i8 tyb then some (2048, true, false, false) else none)
  else if (tya == .f16 && tyb == .f16) || (tya == .bf16 && tyb == .bf16) then some (256, false, false, false)
  else if fp8 tya && fp8 tyb then some (512, false, false, true)
  else if fp6 tya && fp6 tyb then some (1024, false, true, true)
  else if i8 tya && i8 tyb then some (512, true, false, false)
  else none

/-- A task needs one more pass: its values of k from k0 on (R237). -/
def passLen (kp k k0 : Nat) : Nat := min kp (k - k0)

/-- One pass of a matrix task (R239 to R241, R251). -/
def State.mmPass (s : State) (t : Task) (mmt ta tb zero : Bool) (tya tyb : Ty) (acc m n k : Nat) (a b : Opnd)
    (scales : Option (Opnd × Opnd)) : Except (Nat × Nat) (State × Task) := do
  let (kp, int, _, _) := (pathOf mmt tya tyb).getD (256, false, false, false)
  let k0 := t.k
  let kn := passLen kp k k0
  let (ra, st1, s) ← s.fetchOp t a tya ta m k0 kn
  let (rb, st2, s) ← s.fetchOp t b tyb (!tb) n k0 kn
  let g := ceilDiv k 32
  let g0 := k0 / 32
  let gn := ceilDiv kn 32
  let (sa, st3, s) ← match scales with
    | none => Except.ok ([], false, s)
    | some (x, _) => s.fetchRows t x (List.range m) g0 gn
  let (sb, st4, s) ← match scales with
    | none => Except.ok ([], false, s)
    | some (_, y) => s.fetchRows t y (List.range n) g0 gn
  let _ := g
  match s.teams.find t.team with
  | none => pure (s, { t with k := k0 + kn, done := decide (k ≤ k0 + kn) })
  | some tm =>
    let rows := ra.zipIdx.map (fun ea =>
      let old := if zero && k0 = 0 then List.replicate n 0 else tm.elems acc ea.2 0 n
      (ea.2, (rb.zip old).zipIdx.map (fun eb =>
        if int then (accInt tya tyb ea.1 eb.1.1 eb.1.2, (0 : BitVec 5))
        else accFp tya tyb ea.1 eb.1.1 ((sa.getD ea.2 []).map (·.toNat)) ((sb.getD eb.2 []).map (·.toNat)) eb.1.2)))
    let sl := rows.foldl (fun w r => putElems w acc r.1 0 (r.2.map (·.1))) tm.slots
    let fl := rows.foldl (fun f r => f ||| orFlags r.2) (0 : BitVec 5)
    pure (s.mapTeam t.team (fun x => { x with slots := sl }),
      { t with k := k0 + kn, done := decide (k ≤ k0 + kn), flags := t.flags ||| fl, stale := t.stale || st1 || st2 || st3 || st4 })

/-! ## The other tasks (R253 to R256) -/

/-- The largest element, the sum and the sum of squares of a slot's row, with their flags (R256). -/
def rowStats (l : List Nat) : Nat × Nat × Nat × BitVec 5 :=
  let f := Ty.fmt .f32
  let c0 := l.headD 0
  let (mx, f0) := l.foldl (fun (acc : Nat × BitVec 5) x => let (c, g) := f.minMax true false acc.1 x; (c, acc.2 ||| g)) (f.minMax true false c0 c0)
  let (sm, f1) := l.foldl (fun (acc : Nat × BitVec 5) x =>
    let (v, g) := Val.add .rn (f.decode acc.1) (f.decode x)
    let (c, g') := f.roundVal .rne v
    (c, acc.2 ||| g ||| g')) (0, (0 : BitVec 5))
  let (sq, f2) := l.foldl (fun (acc : Nat × BitVec 5) x =>
    let (v, g) := Val.fma .rn (f.decode x) (f.decode x) (f.decode acc.1)
    let (c, g') := f.roundVal .rne v
    (c, acc.2 ||| g ||| g')) (0, (0 : BitVec 5))
  (mx, sm, sq, f0 ||| f1 ||| f2)

/-- The values of m.rstat for a thread: three for row i and three for row i + 64 (R256). -/
def statValues (tm : Team) (a rows cols lane : Nat) : List Nat × BitVec 5 :=
  [lane, lane + 64].foldl (fun acc r =>
    let (mx, sm, sq, f) := if r < rows then rowStats (tm.elems a r 0 cols) else (0xFF800000, 0, 0, (0 : BitVec 5))
    (acc.1 ++ [mx, sm, sq], acc.2 ||| f)) ([], (0 : BitVec 5))

/-- The values of the registers of a lane, in order, for the writes of a result. -/
def fillList (lane : Nat) : List Nat → List RegWrite → List RegWrite
  | _, [] => []
  | vs, w :: ws =>
    match w.reg, vs with
    | .v _ l, v :: vs' => if l = lane then { w with val := some v } :: fillList lane vs' ws else w :: fillList lane vs ws
    | _, _ => w :: fillList lane vs ws

/-- The one pass of m.rstat: its result's values and flags (R256). -/
def State.rstatPass (s : State) (t : Task) (a rows cols pend : Nat) (lanes : Lanes) : State :=
  match s.teams.find t.team with
  | none => s
  | some tm =>
    let res := lanes.list.map (fun i => (i, statValues tm a rows cols i))
    let fl := res.foldl (fun f e => f ||| e.2.2) (0 : BitVec 5)
    s.mapPend t.agent pend (fun p =>
      { p with writes := res.foldl (fun ws e => fillList e.1 e.2.1 ws) p.writes, flags := res.map (fun e => (e.1, fl)) })

/-- The output rows of m.cvst: codes by row, with flags (R255); the element (r, c) rounded with SR = 1 takes the generator's value
at C + r × COLS + c, lane 0. -/
def cvstRows (tm : Team) (a : Nat) (tr : Bool) (t : TField) (cv : CvstX) (key ctr : W64) : List (List (Nat × BitVec 5)) :=
  let rows := cv.rows.toNat
  let cols := cv.cols.toNat
  let src : Ty := if t.ty.isFp then .f32 else .b32
  let one (r c : Nat) : Nat × BitVec 5 :=
    let rd : Round := { rnd := t.rnd, sat := t.sat,
                        rv := if t.sr then some (rand32 key (ctr + BitVec.ofNat 64 (r * cols + c)) 0).toNat else none }
    convert src t.ty rd cv.esc.toInt (tm.elem a r c)
  if tr then (List.range cols).map (fun c => (List.range rows).map (fun r => one r c))
  else (List.range rows).map (fun r => (List.range cols).map (fun c => one r c))

/-- A row of bytes stored by a task into the local store under a swizzle, with tags (R145). DESIGN CHOICE (log 140): it latches touches of guard
granules, for m.stacc and m.cvst too; R142 names operand fetches alone. -/
def State.storeRow (s : State) (t : Task) (z addr : Nat) (l : List Byte) : Except (Nat × Nat) State :=
  match s.lsRow t.team z (addr % 2 ^ 32) l.length with
  | none => .error (Code.lsRange, addr % 2 ^ 32)
  | some p => .ok ((s.touchRow t.agent t.pc p z l.length).lsWriteSwz p z l)

/-- Rows stored by a task: into the local store, or at the homes together. -/
def State.storeRows (s : State) (t : Task) (ls : Bool) (z : Nat) (rows : List (Nat × List Byte)) : Except (Nat × Nat) State :=
  if ls then rows.foldlM (fun (s : State) e => s.storeRow t z e.1 e.2) s
  else
    let core := coreOf t.agent
    s.homePutRows (s.corePart core) (t.genOf s) (rows.flatMap (fun e => s.placed core (e.1 % 2 ^ 56) e.2))

/-- The one pass of m.cvst (R255). -/
def State.cvstPass (s : State) (t : Task) (q a : Nat) (dls tr : Bool) (ft : TField) (dst stride : Nat) (cv : CvstX)
    (key ctr : W64) : Except (Nat × Nat) (State × Task) :=
  match s.teams.find t.team with
  | none => .ok (s, { t with done := true })
  | some tm =>
    let rows := cvstRows tm a tr ft cv key ctr
    let r := s.storeRows t dls cv.swz.toNat (rows.zipIdx.map (fun e =>
      (dst + e.2 * stride, packRow ft.ty.bits (e.1.map (·.1)))))
    r.map (fun s =>
      let fl := rows.foldl (fun f r => f ||| orFlags r) (0 : BitVec 5)
      let s := if cv.amen then
          let w := (List.range cv.rows.toNat).foldl (fun w r => (tm.elems a r 0 cv.cols.toNat).foldl (fun w x =>
            amaxJoin w (BitVec.ofNat 32 (amaxOf .f32 x))) w) (0 : W32)
          s.mapQuad q (fun x => { x with amax := AMap.set 0 x.amax cv.amx.toNat (amaxJoin (AMap.get 0 x.amax cv.amx.toNat) w) })
        else s
      (s, { t with done := true, flags := t.flags ||| fl }))

/-- The one pass of m.ldacc (R254). -/
def State.ldaccPass (s : State) (t : Task) (a row col rows cols : Nat) (src : Opnd) : Except (Nat × Nat) (State × Task) := do
  let (rs, st, s) ← s.fetchRows t src (List.range rows) 0 (4 * cols)
  let s := s.mapTeam t.team (fun tm =>
    { tm with slots := rs.zipIdx.foldl (fun w e => putElems w a (row + e.2) col (unpackRow 32 cols e.1)) tm.slots })
  pure (s, { t with done := true, stale := t.stale || st })

/-- The one pass of m.stacc (R254). -/
def State.staccPass (s : State) (t : Task) (a row col rows cols : Nat) (dst : Opnd) : Except (Nat × Nat) (State × Task) :=
  match s.teams.find t.team with
  | none => .ok (s, { t with done := true })
  | some tm =>
    let l := (List.range rows).map (fun r => (r, (tm.elems a (row + r) col cols).flatMap (leBytes 4)))
    let r : Except (Nat × Nat) State := match dst with
      | .tile x => .ok (l.foldl (fun (s : State) e =>
          s.mapTeam t.team (fun y => { y with tiles := putBytes y.tiles (tileAddr x e.1 0) e.2 })) s)
      | .ls addr stride z => s.storeRows t true z (l.map (fun e => (addr + e.1 * stride, e.2)))
      | .global va stride => s.storeRows t false 0 (l.map (fun e => (va + e.1 * stride, e.2)))
    r.map (fun s => (s, { t with done := true }))

/-- The next pass of a tile task; rick operations have none here. -/
def State.runPass (s : State) (q : Nat) (t : Task) : Except (Nat × Nat) (State × Task) :=
  match t.op with
  | .mm mmt ta tb zero tya tyb acc m n k a b sc => s.mmPass t mmt ta tb zero tya tyb acc m n k a b sc
  | .zero a => .ok (s.mapTeam t.team (fun tm => { tm with slots := tm.slots.filter (fun e => e.1 / 65536 ≠ a) }), { t with done := true })
  | .ldacc a row col rows cols src => s.ldaccPass t a row col rows cols src
  | .stacc a row col rows cols dst => s.staccPass t a row col rows cols dst
  | .cvst a dls tr ft dst stride cv key ctr => s.cvstPass t q a dls tr ft dst stride cv key ctr
  | .rstat a rows cols pend _ lanes => .ok (s.rstatPass t a rows cols pend lanes, { t with done := true })
  | _ => .ok (s, { t with done := true })

/-! ## The reservation table (R242, R243, R258) -/

/-- A rick operation (R261). -/
def Task.isRick (t : Task) : Bool :=
  match t.op with
  | .rkinit .. | .rkstep .. | .rkread .. | .rkld .. | .rkst .. | .rksave .. | .rkrest .. | .rkstat .. => true
  | _ => false

/-- Entries of a table that count against the shared part: a team's beyond its reservation (R258). -/
def State.sharedUsed (s : State) (q : Nat) : Nat :=
  let ts := (s.quad q).tasks
  let teams := (ts.map (·.team)).eraseDups
  (teams.map (fun k => (ts.filter (fun t => t.team = k)).length - (s.teams.find k).elim 0 (·.resv))).foldl (· + ·) 0
/-- A team may post: an entry is free, and it is one that the team has reserved or a shared one (R242, R258). -/
def State.mayPost (s : State) (q key : Nat) : Bool :=
  let own := ((s.quad q).tasks.filter (fun t => t.team = key)).length
  let resv := (s.teams.find key).elim 0 (·.resv)
  let all := sumTeams (s.quadTeams q) (·.resv)
  (s.quad q).tasks.length < Config.tasks && (own < resv || s.sharedUsed q < Config.tasks - all)

/-- A task with nothing in it but its operation. -/
def Task.new (id : Nat) (a : Agent) (team : Nat) (op : TaskOp) (prio : Nat) (sc : Nat) (since : Nat) (pc : W64) : Task :=
  { id := id, agent := a, team := team, op := op, prio := prio, sc := BitVec.ofNat 3 sc, since := since, aged := 0, bar := none,
    fut := none, slots := [], tiles := [], k := 0, granted := false, cancel := false, flags := 0, stale := false, fail := none,
    done := false, wait := [], held := none, again := false, gens := [], pc := pc }

/-- Post a task whose future is KIND kind, with the slots, tiles and barrier object that it names, the generations of its arenas, and what
else the post says of it; until an entry is free for its team its wave is parked (R77, R242, R244). -/
def State.postTask (s : State) (is : Iss) (d : RegNo) (kind : Nat) (op : TaskOp) (prio sc : Nat) (bar : Option Nat)
    (slots tiles : List Nat) (wait : List (Nat × Nat × Nat)) (gens : AMap Nat) (mark : Task → Task := id) : Res State := do
  let q := quadOf is.a
  require (s.mayPost q is.c.team) (.park .post)
  let (id, s) := s.fresh
  let (s, fq, k) ← s.takeFut is d kind sc id
  let t : Task := { Task.new id is.a is.c.team op prio sc (s.clk (dieOf is.a)) is.pc with
    bar := bar, fut := some (fq, k), slots := slots, tiles := tiles, wait := wait, gens := gens }
  pure (s.mapQuad q (fun x => { x with tasks := x.tasks ++ [mark t] }))

/-- Change a task. -/
def State.mapTask (s : State) (q id : Nat) (f : Task → Task) : State :=
  s.mapQuad q (fun x => { x with tasks := x.tasks.map (fun t => if t.id = id then f t else t) })
/-- A task of a quad. -/
def State.task? (s : State) (q id : Nat) : Option Task := (s.quad q).tasks.find? (fun t => t.id = id)

/-- How many clk a task has been in the table, before its team was saved and since (R243). -/
def State.taskAge (s : State) (q : Nat) (t : Task) : Nat := t.aged + (s.clk (q / 16) - t.since)
/-- Effective priority of a task (R243). -/
def State.taskPrio (s : State) (q : Nat) (t : Task) : Nat := min 3 (t.prio + s.taskAge q t / 4096)

/-- The rick that a rick operation names. -/
def TaskOp.rick? : TaskOp → Option Nat
  | .rkinit k _ _ | .rkstep k _ _ _ _ | .rkread k _ _ _ | .rkld k _ _ | .rkst k _ _ | .rksave k _ _ _ _ _ | .rkrest k _ _ _ _ _ _
  | .rkstat k _ _ => some k
  | _ => none

/-- Nothing earlier holds a task back: earlier tasks that share a slot or a tile, and earlier operations on its rick, have
completed, earlier tile loads have returned, earlier amax updates of its wave are applied, and the futures it awaits have
resolved (R193, R235, R243, R261). -/
def State.taskFree (s : State) (q : Nat) (t : Task) : Bool :=
  let earlier := (s.quad q).tasks.takeWhile (fun x => x.id ≠ t.id)
  t.wait.isEmpty
    && !earlier.any (fun x => x.team = t.team && (x.slots.any t.slots.contains || x.tiles.any t.tiles.contains
        || (x.op.rick?.isSome && x.op.rick? == t.op.rick?)))
    && !s.ctxs.any (fun e => e.2.team = t.team && e.2.pend.any (fun p => p.id < t.id && (match p.tile with
        | some (n, _) => t.tiles.contains n
        | none => false)))
    && !(s.quad q).amaxQ.any (fun u => u.2.1 = t.agent && u.1 < t.id)

/-- A task whose access failed: it is held for an episode, where the die has room for it (R95), or it ends (R247). Its slot stays as it was: a
first pass whose operands fail does not apply ZERO (log 138). None where the access waits. -/
def State.taskTrouble (s : State) (q : Nat) (t : Task) (code va : Nat) : Option State :=
  (s.engineFault t.agent (s.partOf (q / 16)) va code t.pc).map (fun x => (x.1.mapTask q t.id (fun t =>
    if x.2 then { t with held := some va, granted := false, again := false }
    else { t with fail := some code, granted := false, again := false })).mapsGo)

/-- The operands of a task's next pass are not on hand, and their fetch waits without a step: for a home that is not reached yet, or for room in
a hold buffer (R95, R102, R243, R247, R442). -/
def State.passWaits (s : State) (q : Nat) (t : Task) : Bool :=
  match s.runPass q t with
  | .error (c, va) => (s.taskTrouble q t c va).isNone
  | .ok _ => false

/-- A tile task is eligible for a grant (R243). -/
def State.eligible (s : State) (q : Nat) (t : Task) : Bool :=
  !t.isRick && !t.done && !t.cancel && t.fail.isNone && t.held.isNone && !t.granted && s.taskFree q t && !s.passWaits q t

/-- A rick operation is eligible for the rick unit; e.rkstat needs none (R261). -/
def State.rickEligible (s : State) (q : Nat) (t : Task) : Bool :=
  t.isRick && (match t.op with | .rkstat .. => false | _ => true) && !t.cancel && !t.granted && s.taskFree q t

/-- The task that the arbiter grants next among those that may run: highest effective priority, then entry order (R243). -/
def State.nextTask (s : State) (q : Nat) (may : Task → Bool) : Option Task :=
  ((s.quad q).tasks.filter may).foldl (fun best t =>
    match best with
    | none => some t
    | some b => if s.taskPrio q b < s.taskPrio q t then some t else some b) none

/-- The grant of the rick unit (R261). -/
def evRickGrant (q id : Nat) (s : State) : Option State :=
  if (s.quad q).rickUnit.isSome || (s.nextTask q (s.rickEligible q)).map (·.id) ≠ some id then none
  else some ((s.mapTask q id (fun t => { t with granted := true })).mapQuad q (fun x => { x with rickUnit := some id }))

/-- TILE_PASS_GRANT (R243): only with the operands of the pass on hand; a rick operation is granted the rick unit (R261). -/
def evTilePassGrant (q id : Nat) (s : State) : Option State :=
  if ((s.task? q id).map Task.isRick).getD false then evRickGrant q id s
  else if (s.quad q).engine.isSome then none
  else
    match s.nextTask q (s.eligible q) with
    | none => none
    | some t =>
      if t.id ≠ id then none
      else
        match s.runPass q t with
        | .error (c, va) => s.taskTrouble q t c va
        | .ok _ => some ((s.mapTask q id (fun t => { t with granted := true, again := false })).mapQuad q (fun x => { x with engine := some id })).mapsGo
/-- TILE_PASS_GRANT. -/
def execTilePassGrant (quad task : Nat) (s : State) := event s (evTilePassGrant quad task s)

/-- TILE_PASS_COMPLETE (R237); a pass whose access waits frees the engine, and is granted again (R247). -/
def evTilePassComplete (q id : Nat) (s : State) : Option State :=
  match s.task? q id with
  | none => none
  | some t =>
    if !t.granted || t.isRick then none
    else
      let s := s.mapQuad q (fun x => { x with engine := none })
      match s.runPass q t with
      | .error (c, va) => some ((s.taskTrouble q t c va).getD (s.mapTask q id (fun t => { t with granted := false })))
      | .ok (s, t') => some (s.mapTask q id (fun t => { t with k := t'.k, done := t'.done, flags := t'.flags, stale := t'.stale, granted := false }))
/-- TILE_PASS_COMPLETE. -/
def execTilePassComplete (quad task : Nat) (s : State) := event s (evTilePassComplete quad task s)

/-- One arrival of a task at its barrier object (R244). -/
def State.taskArrive (s : State) (t : Task) : State :=
  match t.bar.bind (s.lsOfTeam t.team) with
  | none => s
  | some p =>
    match p.ref with
    | .hearth _ => s
    | .team k => s.putObject k p.off (arrival (s.object k p.off)).1

/-- The status that ends a task, once it may end (R244, R246, R247). -/
def Task.ends (t : Task) : Option (Nat × Nat) :=
  if t.granted then none
  else
    match t.fail with
    | some c => some (Status.faulted, c)
    | none => if t.cancel then some (Status.cancelled, 0) else if t.done then some (Status.done, 0) else none

/-- A task leaves the table, arrives and resolves (R244). -/
def State.endTask (s : State) (q : Nat) (t : Task) (st code : Nat) : State :=
  let s := s.mapQuad q (fun x => { x with tasks := x.tasks.filter (fun y => y.id ≠ t.id) })
  ((s.taskArrive t).resolve t.fut st code t.flags t.stale).mapsGo

/-- TILE_TASK_COMPLETE (R244, R246). -/
def evTileTaskComplete (q id : Nat) (s : State) : Option State :=
  match s.task? q id with
  | none => none
  | some t => if t.isRick then none else t.ends.map (fun e => s.endTask q t e.1 e.2)
/-- TILE_TASK_COMPLETE. -/
def execTileTaskComplete (quad task : Nat) (s : State) := event s (evTileTaskComplete quad task s)

/-- AMAX_UPDATE_APPLY (R193): updates of one wave are applied in order. -/
def evAmaxUpdateApply (q id : Nat) (s : State) : Option State :=
  match (s.quad q).amaxQ.find? (fun u => u.1 = id) with
  | none => none
  | some (_, a, p, entry, w) =>
    if (s.quad q).amaxQ.any (fun u => u.2.1 = a && u.1 < id) then none
    else
      let s := s.mapQuad q (fun x => { x with amax := AMap.set 0 x.amax entry (amaxJoin (AMap.get 0 x.amax entry) w),
                                              amaxQ := x.amaxQ.filter (fun u => u.1 ≠ id) })
      let _ := p
      some s
/-- AMAX_UPDATE_APPLY. -/
def execAmaxUpdateApply (quad id : Nat) (s : State) := event s (evAmaxUpdateApply quad id s)

end Sys2Proof.Machine
end

