-- ==== Sys2Proof/Machine/Tile.lean ====
section
/-! DEFINITION. The m class (R250 to R258): posting tile tasks, the task record (R248, R249), amax reads and reservations. -/

namespace Sys2Proof.Machine

/-- TILE_SHAPE, precise. -/
def Iss.shapeFault (is : Iss) : Exc := is.fault0 Code.tileShape
/-- The team of an instruction that needs one. -/
def Iss.team (is : Iss) (s : State) : Res Team :=
  match s.teamOf is.c with
  | some t => .ok t
  | none => .error (is.fault0 Code.iil)

/-- The barrier object that a post names: its checks, precise (R159, R244). -/
def Iss.barrier (is : Iss) (s : State) (bar : Bool) (addr : Nat) : Res (Option Nat) :=
  if !bar then .ok none
  else
    match s.checkObj is.a is.c.team addr with
    | .ok _ => .ok (some addr)
    | .error (c, x) => .error (is.fault c x is.p)

/-- M, N and K of tile operands, where the two shapes agree (R238). -/
def tileMnk (ta tb : Bool) (a b : Shape) : Option (Nat × Nat × Nat) :=
  let (m, k) := if ta then (a.cols, a.rows) else (a.rows, a.cols)
  let (n, k') := if tb then (b.rows, b.cols) else (b.cols, b.rows)
  if k = k' && m ≤ 128 && n ≤ 128 then some (m, n, k) else none

/-- A companion tile holds enough scales (R241). -/
def scaleOk (t : Team) (x rows cols : Nat) : Bool :=
  match t.shape x with
  | some sh => sh.ty == .n8 && rows ≤ sh.rows && cols ≤ sh.cols
  | none => false

/-- m.mma and m.mmt (R251). -/
def matrixOp (mmt : Bool) (h : Hdr) (sub : BitVec 2) (d a b c : RegNo) (zero scl : Bool) (bsc asc : Nat) (x0 : BitVec 32)
    (prio : BitVec 2) (sc : BitVec 3) (bar : Bool) (s : State) : Host.Outcome State Fault Refusal :=
  issue .core h 16 { rd := [], wr := [.s d] } s (fun is s => do
    let t ← is.team s
    require (c.toNat < t.foot.acc) is.shapeFault
    match t.shape a.toNat, t.shape b.toNat with
    | some sa, some sb =>
      match tileMnk (sub.getLsbD 0) (sub.getLsbD 1) sa sb, pathOf mmt sa.ty sb.ty with
      | some (m, n, k), some (_, _, need, may) =>
        let g := ceilDiv k 32
        require ((!scl || may) && (!need || scl)) is.shapeFault
        require (!scl || (scaleOk t asc m g && scaleOk t bsc n g)) is.shapeFault
        let bo ← is.barrier s bar x0.toNat
        let scales := if scl then some (Opnd.tile asc, Opnd.tile bsc) else none
        s.postTask is d Kind.task
          (.mm mmt (sub.getLsbD 0) (sub.getLsbD 1) zero sa.ty sb.ty c.toNat m n k (.tile a.toNat) (.tile b.toNat) scales)
          prio.toNat (s.scope is.a sc) bo [c.toNat] ([a.toNat, b.toNat] ++ if scl then [asc, bsc] else []) [] []
      | _, _ => .error is.shapeFault
    | _, _ => .error is.shapeFault)

/-- m.mma (R251). -/
def execMMma (h : Hdr) (sub : BitVec 2) (d a b c : RegNo) (zero scl : Bool) (bsc asc : BitVec 3) (x0 : BitVec 32)
    (prio : BitVec 2) (sc : BitVec 3) (bar : Bool) (s : State) :=
  matrixOp false h sub d a b c zero scl bsc.toNat asc.toNat x0 prio sc bar s
/-- m.mmt (R240, R251). -/
def execMMmt (h : Hdr) (sub : BitVec 2) (d a b c : RegNo) (zero : Bool) (x0 : BitVec 32) (prio : BitVec 2) (sc : BitVec 3)
    (bar : Bool) (s : State) := matrixOp true h sub d a b c zero false 0 0 x0 prio sc bar s

/-! ## The record of m.enq (R248, R249) -/

/-- The fields of a task record (R248). -/
structure EnqRec where
  kind : Nat
  flags : Nat
  acc : Nat
  prio : Nat
  sc : Nat
  nw : Nat
  ctl7 : Bool
  m : Nat
  n : Nat
  tya : Ty
  tyb : Ty
  srca : Nat
  srcb : Nat
  src4 : Nat
  k : Nat
  swza : Nat
  swzb : Nat
  swz6 : Nat
  bar : Nat
  addra : Nat
  addrb : Nat
  stra : Nat
  strb : Nat
  scaddr : Nat
  futs : List W64
  deriving DecidableEq, Repr

/-- A record's bytes as its fields (R248). -/
def EnqRec.ofBytes (l : List Byte) : EnqRec :=
  let ctl := field l 3 1
  let ty := field l 6 1
  let src := field l 7 1
  let swz := field l 12 1
  let nw := bits ctl 5 2
  { kind := field l 0 1, flags := field l 1 1, acc := field l 2 1, prio := bits ctl 0 2, sc := bits ctl 2 3, nw := nw,
    ctl7 := ctl.testBit 7, m := field l 4 1, n := field l 5 1, tya := Ty.ofCode (BitVec.ofNat 4 (bits ty 0 4)),
    tyb := Ty.ofCode (BitVec.ofNat 4 (bits ty 4 4)), srca := bits src 0 2, srcb := bits src 2 2, src4 := bits src 4 4,
    k := field l 8 4, swza := bits swz 0 3, swzb := bits swz 3 3, swz6 := bits swz 6 2, bar := bits (field l 13 3) 0 22,
    addra := field l 16 8, addrb := field l 24 8, stra := field l 32 4, strb := field l 36 4, scaddr := field l 40 8,
    futs := ([BitVec.ofNat 64 (field l 48 8), BitVec.ofNat 64 (field l 56 8)] : List W64).take nw }

/-- The rows of an operand and the elements of a row (R238, R248). -/
def rowsOf (tr : Bool) (mn k : Nat) : Nat × Nat := if tr then (k, mn) else (mn, k)

/-- A streamed operand's checks after its shape: alignment, and its rows in the local store or in global memory (R248, R249). -/
def State.streamBad (s : State) (is : Iss) (src addr stride swz rows cols : Nat) (ty : Ty) : Option Nat :=
  if src = 0 then none
  else
    let n := cols * ty.bits / 8
    if addr % 16 ≠ 0 || stride % 16 ≠ 0 || cols * ty.bits % 8 ≠ 0 then some Code.align
    else if src = 1 then
      let ps := (List.range rows).map (fun r => s.lsRow is.c.team swz ((addr + r * stride) % 2 ^ 32) n)
      if ps.any Option.isNone then some Code.lsRange
      else if ps.any (fun p => p.any (fun x => !s.rowTag x n swz)) then some Code.swz else none
    else (List.range rows).findSome? (fun r =>
      match s.globalRow (coreOf is.a) (s.agentPart is.a) (addr + r * stride) n false with
      | .error c => some c
      | .ok _ => none)

/-- A tile operand of a record: its configuration gives the record's shape and type (R248). -/
def tileFits (t : Team) (x rows cols : Nat) (ty : Ty) : Bool :=
  match t.shape (x % 8) with
  | some sh => sh.rows == rows && sh.cols == cols && sh.ty == ty
  | none => false

/-- An operand of a record (R248). -/
def opndOf (src addr stride swz : Nat) : Opnd :=
  match src with
  | 0 => .tile (addr % 8)
  | 1 => .ls (addr % 2 ^ 32) stride swz
  | _ => .global (addr % 2 ^ 56) stride

/-- The rows of a record's global operands and scales, whose arenas' generations its task takes (R77). -/
def EnqRec.globalRows (r : EnqRec) : List Nat :=
  let rows (src addr stride n : Nat) : List Nat := if src = 2 then (List.range n).map (fun i => addr + i * stride) else []
  rows r.srca r.addra r.stra (rowsOf (r.flags.testBit 0) r.m r.k).1 ++ rows r.srcb r.addrb r.strb (rowsOf (!r.flags.testBit 1) r.n r.k).1
    ++ if r.flags.testBit 2 && !r.flags.testBit 5 then [r.scaddr] else []

/-- The checks of R249 in the order of its table: the first code that fails. Scales in the local store are read at physical offsets, and no
tag of theirs is compared (log 136). -/
def State.checkEnq (s : State) (is : Iss) (t : Team) (r : EnqRec) : Option Nat :=
  let ta := r.flags.testBit 0
  let tb := r.flags.testBit 1
  let scl := r.flags.testBit 2
  let (ra, ca) := rowsOf ta r.m r.k
  let (rb, cb) := rowsOf (!tb) r.n r.k
  let g := ceilDiv r.k 32
  let handle := bits r.flags 6 2 ≠ 0 || r.ctl7 || r.src4 ≠ 0 || r.swz6 ≠ 0 || 1 < r.kind || r.srca = 3 || r.srcb = 3 || r.sc = 7 || r.nw = 3
  let range := r.m = 0 || 128 < r.m || r.n = 0 || 128 < r.n || r.k = 0 || 16777216 < r.k || t.foot.acc ≤ r.acc
  let path := pathOf (r.kind == 1) r.tya r.tyb
  let combo := match path with
    | none => false
    | some (_, _, need, may) => (!scl || may) && (!need || scl)
  let tiles := (r.srca ≠ 0 || tileFits t r.addra ra ca r.tya) && (r.srcb ≠ 0 || tileFits t r.addrb rb cb r.tyb)
  let first (l : List (Option Nat)) : Option Nat := l.findSome? id
  if handle then some Code.handle
  else if range || !combo || !tiles then some Code.tileShape
  else
    let a := s.streamBad is r.srca r.addra r.stra r.swza ra ca r.tya
    let b := s.streamBad is r.srcb r.addrb r.strb r.swzb rb cb r.tyb
    let scs := if !scl then none
      else if r.flags.testBit 5 then
        (if (s.lsRow is.c.team 0 (r.scaddr % 2 ^ 32) ((r.m + r.n) * g)).isNone then some Code.lsRange else none)
      else
        (match s.globalRow (coreOf is.a) (s.agentPart is.a) r.scaddr ((r.m + r.n) * g) false with
         | .error c => some c
         | .ok _ => none)
    let bar := if r.flags.testBit 4 then (match s.checkObj is.a is.c.team r.bar with | .error e => some e.1 | .ok _ => none) else none
    let pick (p : Nat → Bool) : Option Nat := first ([a, b, scs, bar].map (fun x => x.bind (fun c => if p c then some c else none)))
    first [pick (· == Code.align), pick (fun c => c == Code.lsRange || c == Code.swz || c == Code.handle), pick (fun _ => true)]

/-- The quad, slot and SEQ that a pending handle names (R364). -/
def handleSite (h : W64) : Nat × Nat × Nat :=
  let w := h.toNat
  (bits w 8 5 * 16 + bits w 24 4, bits w 0 8, bits w 32 32)

/-- What an awaited handle asks of a task: nothing more, a cancel, a failure, or to wait (R249). -/
def State.awaitOf (s : State) (h : W64) : Nat :=
  if handleStatus h = Status.done then 0
  else if handleStatus h ≠ 0 then 1
  else
    let (q, k, _) := handleSite h
    match (s.quad q).futs.find k with
    | some f => if pendingHandle f.seq q f.kind k = h then 3 else 2
    | none => 2

/-- m.enq (R252). -/
def execMEnq (h : Hdr) (sub : BitVec 2) (d a : RegNo) (s : State) :=
  issue .core h 8 { rd := [.s a], wr := [.s d] } s (fun is s => do
    let t ← is.team s
    is.memReady s
    let (l, s) ← s.record is (sub == 1) a 0 64 64
    let r := EnqRec.ofBytes l
    let sc := s.scope is.a (BitVec.ofNat 3 r.sc)
    match s.checkEnq is t r with
    | some c => s.instantFut is d Kind.task sc Status.faulted c
    | none =>
      let ta := r.flags.testBit 0
      let tb := r.flags.testBit 1
      let oa := opndOf r.srca r.addra r.stra r.swza
      let ob := opndOf r.srcb r.addrb r.strb r.swzb
      let g := ceilDiv r.k 32
      let scales := if r.flags.testBit 2 then
          (let src := if r.flags.testBit 5 then 1 else 2
           some (opndOf src r.scaddr g 0, opndOf src (r.scaddr + r.m * g) g 0))
        else none
      let tiles := (if r.srca = 0 then [r.addra % 8] else []) ++ (if r.srcb = 0 then [r.addrb % 8] else [])
      let ws := r.futs.map (fun x => (x, s.awaitOf x))
      s.postTask is d Kind.task (.mm (r.kind == 1) ta tb (r.flags.testBit 3) r.tya r.tyb r.acc r.m r.n r.k oa ob scales)
        r.prio sc (if r.flags.testBit 4 then some r.bar else none) [r.acc] tiles
        ((ws.filter (fun e => e.2 = 3)).map (fun e => handleSite e.1)) (s.gensOf (coreOf is.a) r.globalRows) (fun x =>
          { x with cancel := ws.any (fun e => e.2 = 1), fail := if ws.any (fun e => e.2 = 2) then some Code.handle else none }))

/-- m.zero (R253); its future's scope is quad (R302). Tasks whose encoding has no PRIO have PRIO 0 (log 137). -/
def execMZero (h : Hdr) (d a : RegNo) (s : State) :=
  issue .core h 8 { rd := [], wr := [.s d] } s (fun is s => do
    let t ← is.team s
    require (a.toNat < t.foot.acc) is.shapeFault
    s.postTask is d Kind.task (.zero a.toNat) 0 1 none [a.toNat] [] [] [])

/-- What m.ldacc and m.stacc share (R254, R289, R302): the shape, the rectangle, and the rows in a tile or in the local store. -/
def accMove (store : Bool) (h : Hdr) (sub : BitVec 2) (d a b c : RegNo) (row col : BitVec 7) (shp : BitVec 3) (s : State) :
    Host.Outcome State Fault Refusal :=
  issue .core h 12 { rd := if sub = 0 then [] else [.s b, .s c], wr := [.s d] } s (fun is s => do
    let t ← is.team s
    let x := if sub = 0 then b.toNat else shp.toNat
    require (a.toNat < t.foot.acc) is.shapeFault
    match t.shape x with
    | none => .error is.shapeFault
    | some sh =>
      require (sh.ty == .b32 || sh.ty == .n32 || sh.ty == .f32) is.shapeFault
      require (row.toNat + sh.rows ≤ 128 && col.toNat + sh.cols ≤ 128) is.shapeFault
      let post (o : Opnd) (tiles : List Nat) : Res State :=
        s.postTask is d Kind.task (if store then .stacc a.toNat row.toNat col.toNat sh.rows sh.cols o
          else .ldacc a.toNat row.toNat col.toNat sh.rows sh.cols o) 0 1 none [a.toNat] tiles [] []
      if sub = 0 then post (.tile x) [x]
      else do
        is.memReady s
        let base := (is.s b).toNat % 2 ^ 32
        let str := (is.s c).toNat % 2 ^ 32
        let n := 4 * sh.cols
        let rows := (List.range sh.rows).map (fun r => ((base + r * str) % 2 ^ 32, s.lsRow is.c.team sh.swz ((base + r * str) % 2 ^ 32) n))
        match rows.find? (fun e => e.2.isNone) with
        | some e => .error (is.fault Code.lsRange e.1 is.p)
        | none =>
          require (base % 16 = 0 && str % 16 = 0) (is.fault Code.align base is.p)
          match (if store then none else rows.find? (fun e => e.2.any (fun p => !s.rowTag p n sh.swz))) with
          | some e => .error (is.fault Code.swz (e.1 - e.1 % 512) is.p)
          | none => post (.ls base str sh.swz) [])

/-- m.ldacc (R254). -/
def execMLdacc (h : Hdr) (sub : BitVec 2) (d a b c : RegNo) (row col : BitVec 7) (shp : BitVec 3) (s : State) :=
  accMove false h sub d a b c row col shp s
/-- m.stacc (R254). -/
def execMStacc (h : Hdr) (sub : BitVec 2) (d a b c : RegNo) (row col : BitVec 7) (shp : BitVec 3) (s : State) :=
  accMove true h sub d a b c row col shp s

/-- m.cvst (R255). -/
def execMCvst (h : Hdr) (sub : BitVec 2) (t : TField) (d a b c : RegNo) (cv : CvstX) (s : State) :=
  issue .core h 16 { rd := [.s b, .s c], wr := [.s d] } s (fun is s => do
    let tm ← is.team s
    let dls := sub.getLsbD 0
    let tr := sub.getLsbD 1
    let rows := cv.rows.toNat
    let cols := cv.cols.toNat
    let (nr, ne) := if tr then (cols, rows) else (rows, cols)
    require (a.toNat < tm.foot.acc && 1 ≤ rows && rows ≤ 128 && 1 ≤ cols && cols ≤ 128 && ne * t.ty.bits % 8 = 0) is.shapeFault
    let n := ne * t.ty.bits / 8
    let base := if dls then (is.s b).toNat % 2 ^ 32 else (is.s b).toNat % 2 ^ 56
    let str := if dls then (is.s c).toNat % 2 ^ 32 else (is.s c).toNat % 2 ^ 56
    require (base % 16 = 0 && str % 16 = 0) (is.fault Code.align base is.p)
    is.memReady s
    let core := coreOf is.a
    if dls then
      match (List.range nr).find? (fun q => (s.lsRow is.c.team cv.swz.toNat ((base + q * str) % 2 ^ 32) n).isNone) with
      | some q => throw (is.fault Code.lsRange ((base + q * str) % 2 ^ 32) is.p)
      | none => pure ()
    else
      match (List.range nr).findSome? (fun q => match s.globalRow core (s.agentPart is.a) (base + q * str) n true with
          | .error e => some (e, (base + q * str) % 2 ^ 56)
          | .ok _ => none) with
      | some e => throw (is.fault e.1 e.2 is.p)
      | none => pure ()
    let gens := if dls then [] else s.gensOf core ((List.range nr).map (fun q => base + q * str))
    let s' ← s.postTask is d Kind.task (.cvst a.toNat dls tr t base str cv is.c.rngkey is.c.rngctr) 0
      (s.scope is.a cv.sc) none [a.toNat] [] [] gens
    pure (if t.sr then s'.upd is (fun c => { c with rngctr := is.c.rngctr + BitVec.ofNat 64 (rows * cols) }) else s'))

/-- m.rstat: its registers are outstanding until the task has read the slot (R256). -/
def execMRstat (h : Hdr) (d a : RegNo) (rows cols : BitVec 8) (s : State) :=
  issue .core h 12 { rd := [], wr := [.v d 6] } s (fun is s => do
    let t ← is.team s
    let ok (x : BitVec 8) : Bool := 1 ≤ x.toNat && x.toNat ≤ 128
    require (a.toNat < t.foot.acc && ok rows && ok cols) is.shapeFault
    let q := quadOf is.a
    require (s.mayPost q is.c.team) (.park .post)
    is.room .ec
    let (id, s) := s.fresh
    let (pid, s) := s.fresh
    let ws := is.p.list.flatMap (fun i => (List.range 6).map (fun j => Reg.v (is.phys (d.toNat + j) i) i))
    let s := s.addPend is.a { Pend.blank pid .ec is with writes := ws.map (fun r => { reg := r, val := none }) }
    let tk : Task := { Task.new id is.a is.c.team (.rstat a.toNat rows.toNat cols.toNat pid d.toNat is.p) 0 0 (s.clk (dieOf is.a)) is.pc with
      slots := [a.toNat] }
    pure (s.mapQuad q (fun x => { x with tasks := x.tasks ++ [tk] })))

/-- m.amax: after the wave's own earlier updates (R193, R257). -/
def execMAmax (h : Hdr) (sub : BitVec 2) (d : RegNo) (src : Src) (s : State) :=
  issue .core h 8 { rd := srcUseS src, wr := [.s d] } s (fun is s => do
    let q := quadOf is.a
    require (!(s.quad q).amaxQ.any (fun u => u.2.1 = is.a)) .stall
    let e := is.amaxEntry src
    let v := AMap.get 0 (s.quad q).amax e
    let s := if sub = 0 then s.mapQuad q (fun x => { x with amax := AMap.set 0 x.amax e 0 }) else s
    s.pendS is .ec d (v.zeroExtend 64))

/-- m.resv (R258). -/
def execMResv (h : Hdr) (d a : RegNo) (s : State) :=
  issue .core h 8 { rd := [.s a], wr := [.s d] } s (fun is s => do
    let q := quadOf is.a
    let others := sumTeams ((s.quadTeams q).filter (fun e => e.1 ≠ is.c.team)) (·.resv)
    let g := min (min (bits (is.s a).toNat 0 5) 16) (48 - others)
    let s := s.mapTeam is.c.team (fun t => { t with resv := g })
    s.pendS is .ec d (BitVec.ofNat 64 g))

end Sys2Proof.Machine
end

