-- ==== Sys2Proof/Machine/Rick.lean ====
section
/-! DEFINITION. The rick: ladder accumulators (R259 to R275): the instructions' checks at issue, and the operations on the rick
unit. -/

namespace Sys2Proof.Machine

/-! ## Binding and images -/

/-- A rick record's fields (R61, R267, R271); gains and weights at R and above are zero. -/
def Rick.ofBytes (l : List Byte) (f n : Nat) : Rick :=
  let r := field l 0 1
  let words (off : Nat) : List W32 := (List.range (min 16 r)).map (fun i => BitVec.ofNat 32 (field l (off + 4 * i) 4))
  { r := r, f := f, rows := field l 1 1, cols := field l 2 1, g := words 0x10, w := words 0x50, n := n }
/-- The limits of R61. -/
def Rick.ok (r : Rick) : Bool :=
  1 ≤ r.r && r.r ≤ 16 && 1 ≤ r.rows && r.rows ≤ 128 && 16 ≤ r.cols && r.cols ≤ 128 && r.cols % 16 = 0
/-- Bytes of a rung. -/
def Rick.rungBytes (r : Rick) : Nat := 4 * r.rows * r.cols
/-- Rung i is occupied: bit i of n (R260). -/
def Rick.occ (r : Rick) (i : Nat) : Bool := r.n.testBit i
/-- Slots of the rungs (R259). -/
def Rick.slots (r : Rick) : List Nat := (List.range r.r).map (r.f + ·)
/-- Bytes of the checkpoint image (R271). -/
def Rick.imageLen (r : Rick) : Nat := 160 + popc 48 r.n * r.rungBytes

/-- The rectangle of a slot, row by row. -/
def Team.rect (t : Team) (a rows cols : Nat) : List (List Nat) := (List.range rows).map (fun i => t.elems a i 0 cols)
/-- Write a rectangle at (0, 0) of a slot. -/
def putRect (m : AMap Byte) (a : Nat) (l : List (List Nat)) : AMap Byte := l.zipIdx.foldl (fun m e => putElems m a e.2 0 e.1) m

/-- The 160 bytes of an image's header (R271). -/
def Rick.header (r : Rick) : List Byte :=
  let words (l : List W32) : List Byte := (List.range 16).flatMap (fun i => leBytes 4 (l.getD i 0).toNat)
  [BitVec.ofNat 8 r.r, BitVec.ofNat 8 r.rows, BitVec.ofNat 8 r.cols] ++ List.replicate 13 0 ++ words r.g ++ words r.w
    ++ leBytes 8 r.n ++ List.replicate 8 0
/-- The image of a rick (R271). -/
def Rick.image (r : Rick) (t : Team) : List Byte :=
  r.header ++ ((List.range r.r).filter r.occ).flatMap (fun i => (t.rect (r.f + i) r.rows r.cols).flatten.flatMap (leBytes 4))

/-- A new binding is possible: its rungs lie below ACC and overlap no other bound rick of the team (R266). -/
def Team.canBind (t : Team) (k : Nat) (r : Rick) : Bool :=
  r.f + r.r ≤ t.foot.acc && t.ricks.all (fun e => e.1 = k || !e.2.slots.any r.slots.contains)

/-- Image slots overlap the rungs of a binding. -/
def Rick.overlaps (r : Rick) (isl icnt : Nat) : Bool := r.slots.any (fun x => isl ≤ x && x ≤ isl + icnt)

/-- A byte of an image in slots from isl on (R271). -/
def slotByte (isl b : Nat) : Nat := 65536 * (isl + b / 65536) + b % 65536

/-! ## The operations (R268 to R273) -/

/-- What an operation comes to: its status and code, its flags, whether it read a dropped generation, the code and the address of an access that
failed, and the state. -/
structure RickOut where
  st : Nat
  code : Nat
  flags : BitVec 5
  stale : Bool
  err : Option (Nat × Nat)
  s : State

/-- An operation that changes nothing. -/
def RickOut.none (st code : Nat) (s : State) : RickOut :=
  { st := st, code := code, flags := 0, stale := false, err := .none, s := s }
/-- An operation that ends FAULTED and changes nothing, with whether it has read a dropped generation (R86, R266). -/
def RickOut.faulted (code : Nat) (stale : Bool) (s : State) : RickOut := { RickOut.none Status.faulted code s with stale := stale }
/-- An operation whose stream fails: it is held or ends FAULTED (R96, R266). -/
def RickOut.failed (e : Nat × Nat) (stale : Bool) (s : State) : RickOut := { RickOut.faulted e.1 stale s with err := some e }

/-- Elementwise gain × older + newer, rounded once, with flags (R268, R269). -/
def blend (gain : W32) (x y : List (List Nat)) : List (List Nat) × BitVec 5 :=
  let f := Ty.fmt .f32
  let r := (x.zip y).map (fun e => (e.1.zip e.2).map (fun p =>
    let (v, fl) := Val.fma .rn (f.decode gain.toNat) (f.decode p.1) (f.decode p.2)
    let (c, fl') := f.roundVal .rne v
    (c, fl ||| fl')))
  (r.map (fun l => l.map (·.1)), r.foldl (fun a l => a ||| orFlags l) 0)

/-- Change a team's ricks and slots together. -/
def State.setRick (s : State) (key k : Nat) (r : Rick) (slots : AMap Byte → AMap Byte) : State :=
  s.mapTeam key (fun t => { t with ricks := t.ricks.put k r, slots := slots t.slots })

/-- The contribution of a step (R268). -/
def State.rickX (s : State) (t : Task) (tm : Team) (r : Rick) (sub slot addr : Nat) (val : W32) :
    Except (Nat × Nat) (List (List Nat) × State) :=
  match sub with
  | 0 => .ok (tm.rect slot r.rows r.cols, s)
  | 1 =>
    match s.lsRow t.team 0 addr r.rungBytes with
    | none => .error (Code.lsRange, addr)
    | some p =>
      let v := unpackRow 32 (r.rows * r.cols) (s.lsRead p.ref p.off r.rungBytes)
      .ok ((List.range r.rows).map (fun i => (v.drop (i * r.cols)).take r.cols), s.touch t.agent t.pc p r.rungBytes)
  | _ => .ok (List.replicate r.rows (List.replicate r.cols val.toNat), s)

/-- e.rkstep as it runs (R268). DESIGN CHOICE (log 150): the contribution is fetched before the ladder is found full, so LS_RANGE comes before FULL
and the fetch of a step that ends FULL has latched its guard touches. -/
def State.runStep (s : State) (t : Task) (tm : Team) (k : Nat) (r : Rick) (sub slot addr : Nat) (val : W32) : RickOut :=
  match s.rickX t tm r sub slot addr val with
  | .error e => RickOut.none Status.faulted e.1 s
  | .ok (x, s) =>
    if r.n = 2 ^ r.r - 1 then RickOut.none Status.full 0 s
    else
      let c := trailingOnes 16 r.n
      let (carry, fl) := (List.range c).foldl (fun (acc : List (List Nat) × BitVec 5) i =>
        let (y, f) := blend (r.g.getD i 0) (tm.rect (r.f + i) r.rows r.cols) acc.1
        (y, acc.2 ||| f)) (x, 0)
      { RickOut.none Status.done 0 s with flags := fl
                                          s := s.setRick t.team k { r with n := r.n + 1 } (fun m => putRect m (r.f + c) carry) }

/-- e.rkread as it runs (R269). -/
def State.runRead (s : State) (t : Task) (tm : Team) (k : Nat) (r : Rick) (a : Nat) (add : Bool) (mask : Nat) : RickOut :=
  let x := if add then tm.rect a r.rows r.cols else List.replicate r.rows (List.replicate r.cols 0)
  let (acc, fl) := ((List.range r.r).filter (fun i => r.occ i && mask.testBit i)).foldl
    (fun (acc : List (List Nat) × BitVec 5) i =>
      let (y, f) := blend (r.w.getD i 0) (tm.rect (r.f + i) r.rows r.cols) acc.1
      (y, acc.2 ||| f)) (x, 0)
  { RickOut.none Status.done 0 s with flags := fl, s := s.setRick t.team k r (fun m => putRect m a acc) }

/-- The code with which the checks at post stop an image of n bytes (R80, R101, R265, log 151). -/
def imageCode (bad : Option (Nat × Nat)) (n : Nat) : Option Nat :=
  match bad with
  | some (off, c) => if off < n then some c else none
  | none => none

/-- e.rksave as it runs (R272). What it writes into the local store touches guard granules, as an engine's copy does (R142, log 140). DESIGN CHOICE
(log 150): in the slot form the overlap with the rungs comes before an image that is too long. -/
def State.runSave (s : State) (t : Task) (tm : Team) (r : Rick) (sub addr isl icnt : Nat) (bad : Option (Nat × Nat)) : RickOut :=
  let img := r.image tm
  match sub with
  | 0 =>
    match imageCode bad img.length with
    | some c => RickOut.faulted c false s
    | none =>
      match s.writeRange (coreOf t.agent) (t.genOf s) addr img with
      | .ok s => RickOut.none Status.done 0 s
      | .error e => RickOut.failed e false s
  | 1 =>
    match s.lsRow t.team 0 addr img.length with
    | none => RickOut.faulted Code.lsRange false s
    | some p => RickOut.none Status.done 0 ((s.touch t.agent t.pc p img.length).lsWrite p.ref p.off img)
  | _ =>
    if r.overlaps isl icnt then RickOut.faulted Code.tileShape false s
    else if 65536 * (icnt + 1) < img.length then RickOut.none Status.full 0 s
    else RickOut.none Status.done 0 (s.mapTeam t.team (fun x => { x with slots := putBytes x.slots (slotByte isl 0) img }))

/-- Bytes of an image for e.rkrest, from byte b on (R273); those of the local store touch guard granules (R142, log 140). -/
def State.readImage (s : State) (t : Task) (sub addr isl b n : Nat) : Except (Nat × Nat) (List Byte × Bool × State) :=
  if n = 0 then .ok ([], false, s)
  else match sub with
  | 0 => s.readRange (coreOf t.agent) (t.genOf s) ((addr + b) % 2 ^ 56) n
  | 1 =>
    match s.lsRow t.team 0 ((addr + b) % 2 ^ 32) n with
    | none => .error (Code.lsRange, addr)
    | some p => .ok (s.lsRead p.ref p.off n, false, s.touch t.agent t.pc p n)
  | _ =>
    match s.teams.find t.team with
    | some tm => .ok (bytesAt tm.slots (slotByte isl b) n, false, s)
    | none => .ok (List.replicate n 0, false, s)

/-- e.rkrest as it runs (R266, R273); a header that it has read under a dropped generation marks its waiter however it ends (R86). -/
def State.runRest (s0 : State) (t : Task) (tm : Team) (k sub addr isl icnt f : Nat) (bad : Option (Nat × Nat)) : RickOut :=
  match s0.readImage t sub addr isl 0 160 with
  | .error e => if sub = 1 then RickOut.faulted e.1 false s0 else RickOut.failed e false s0
  | .ok (hd, st1, s) =>
  let n := field hd 0x90 8
  let r := Rick.ofBytes hd f n
  let mbz := (hd.drop 3).take 13 ++ (hd.drop 0x98).take 8
  if mbz.any (· ≠ 0) || !r.ok || 2 ^ r.r ≤ n || (sub = 2 && 65536 * (icnt + 1) < r.imageLen) then
    RickOut.faulted Code.handle st1 s
  else if !tm.canBind k r || (sub = 2 && r.overlaps isl icnt) then RickOut.faulted Code.tileShape st1 s
  else
    match imageCode bad r.imageLen, s.readImage t sub addr isl 160 (r.imageLen - 160) with
    | some c, _ => RickOut.faulted c st1 s
    | none, .error e => if sub = 1 then RickOut.faulted e.1 st1 s else RickOut.failed e st1 s
    | none, .ok (data, st2, s) =>
    let v := unpackRow 32 (data.length / 4) data
    let occ := (List.range r.r).filter r.occ
    let per := r.rows * r.cols
    { RickOut.none Status.done 0 s with
      stale := st1 || st2
      s := s.setRick t.team k r (fun m => occ.zipIdx.foldl (fun m e =>
        putRect m (f + e.1) ((List.range r.rows).map (fun i => (v.drop (e.2 * per + i * r.cols)).take r.cols))) m) }

/-- A rick operation as it runs (R266 to R273). DESIGN CHOICE (log 150): of an e.rkinit record a must-be-zero byte comes before RUNGS, ROWS and COLS. -/
def State.runRick (s : State) (t : Task) : RickOut :=
  match s.teams.find t.team with
  | none => RickOut.none Status.cancelled 0 s
  | some tm =>
    let bound (k : Nat) (f : Rick → RickOut) : RickOut :=
      match tm.ricks.find k with
      | none => RickOut.faulted Code.handle false s
      | some r => f r
    match t.op with
    | .rkinit k f rec =>
      let r := Rick.ofBytes rec f 0
      if ((rec.drop 3).take 13).any (· ≠ 0) then RickOut.faulted Code.handle false s
      else if !r.ok || !tm.canBind k r then RickOut.faulted Code.tileShape false s
      else RickOut.none Status.done 0 (s.setRick t.team k r id)
    | .rkstep k sub slot addr val => bound k (fun r => s.runStep t tm k r sub slot addr val)
    | .rkread k a add mask => bound k (fun r => s.runRead t tm k r a add mask)
    | .rkld k a j => bound k (fun r =>
        if j < r.r && r.occ j then
          RickOut.none Status.done 0 (s.setRick t.team k r (fun m => putRect m a (tm.rect (r.f + j) r.rows r.cols)))
        else RickOut.none Status.empty 0 (s.setRick t.team k r (fun m =>
          putRect m a (List.replicate r.rows (List.replicate r.cols 0)))))
    | .rkst k a j => bound k (fun r =>
        if j < r.r && r.occ j then
          RickOut.none Status.done 0 (s.setRick t.team k r (fun m => putRect m (r.f + j) (tm.rect a r.rows r.cols)))
        else RickOut.none Status.empty 0 s)
    | .rksave k sub addr isl icnt bad => bound k (fun r => s.runSave t tm r sub addr isl icnt bad)
    | .rkrest k sub addr isl icnt f bad => s.runRest t tm k sub addr isl icnt f bad
    | _ => RickOut.none Status.done 0 s

/-- The value of e.rkstat (R275). -/
def Team.rickStat (t : Team) (k : Nat) : Nat := match t.ricks.find k with | some r => r.n % 2 ^ 48 + 2 ^ 48 * r.r | none => 0

/-- A rick operation ends: it frees the rick unit and resolves (R262, R263), and a y.map that has waited for it may end (R105). -/
def State.endRick (s : State) (q : Nat) (t : Task) (o : RickOut) : State :=
  let s := s.mapQuad q (fun x => { x with tasks := x.tasks.filter (fun y => y.id ≠ t.id),
                                          rickUnit := if x.rickUnit = some t.id then none else x.rickUnit })
  (s.resolve t.fut o.st o.code o.flags (o.stale || t.stale)).mapsGo

/-- RICK_OPERATION_COMPLETE (R261, R262): effects together; a cancel before the grant removes the operation; a held stream waits. -/
def evRickOperationComplete (q id : Nat) (s : State) : Option State :=
  match s.task? q id with
  | none => none
  | some t =>
    if !t.isRick || t.held.isSome then none
    else
      match t.op with
      | .rkstat k pend _ =>
        if s.taskFree q t then
          match s.teams.find t.team with
          | none => none
          | some tm => some ((s.mapQuad q (fun x => { x with tasks := x.tasks.filter (fun y => y.id ≠ id) })).mapPend t.agent pend
              (fun p => { p with writes := p.writes.map (fun w => { w with val := some (tm.rickStat k) }) }))
        else none
      | _ =>
        if t.granted then
          match t.fail with
          | some c => some (s.endRick q t (RickOut.none Status.faulted c s))
          | none =>
            let o := s.runRick t
            match o.err with
            | none => some (o.s.endRick q t o)
            | some (c, va) =>
              (s.engineFault t.agent (s.partOf (q / 16)) va c t.pc).map (fun x =>
                if x.2 then
                  (x.1.mapTask q id (fun t => { t with held := some va, again := false, stale := t.stale || o.stale })).mapsGo
                else x.1.endRick q t o)
        else if t.cancel then some (s.endRick q t (RickOut.none Status.cancelled 0 s)) else none
/-- RICK_OPERATION_COMPLETE. -/
def execRickOperationComplete (quad task : Nat) (s : State) := event s (evRickOperationComplete quad task s)

/-! ## Issue (R261, R265) -/

/-- Operations on a rick that rebind it and stand in the table, each as the rung slots that it will give the rick: those of an e.rkinit's
record, or F to F + 15 of an e.rkrest (R261). -/
def State.rebinding (s : State) (q key k : Nat) : List (List Nat) :=
  (s.quad q).tasks.filterMap (fun t => if t.team ≠ key then none else
    match t.op with
    | .rkinit k' f rec => if k' = k then some (Rick.ofBytes rec f 0).slots else none
    | .rkrest k' _ _ _ _ f _ => if k' = k then some ((List.range 16).map (f + ·)) else none
    | _ => none)

/-- The slots that an operation on a rick names besides its own operands (R261). -/
def State.rickSlots (s : State) (q key k : Nat) (t : Team) : List Nat :=
  let cur := match t.ricks.find k with | some r => r.slots | none => []
  cur ++ (s.rebinding q key k).flatten.filter (· < t.foot.acc)

/-- The checks of R265 that every rick instruction makes: the rick's number and its slot operands. -/
def Iss.rickTeam (is : Iss) (s : State) (k : Nat) (slots : List Nat) : Res Team := do
  let t ← is.team s
  require (k < t.foot.ricks && slots.all (· < t.foot.acc)) is.shapeFault
  pure t

/-- The local-store range of a rick instruction at issue: ALIGN, then LS_RANGE (R265). -/
def Iss.rickRange (is : Iss) (s : State) (addr n : Nat) : Res Unit := do
  require (addr % 16 = 0) (is.fault Code.align addr is.p)
  require (s.lsRow is.c.team 0 addr n).isSome (is.fault Code.lsRange addr is.p)

/-- Post a rick operation (R261, R263). -/
def State.postRick (s : State) (is : Iss) (d : RegNo) (t : Team) (k : Nat) (op : TaskOp) (prio : Nat) (sc : Nat) (own : List Nat)
    (gens : AMap Nat) : Res State := do
  is.memReady s
  s.postTask is d Kind.rick op prio sc none ((s.rickSlots (quadOf is.a) is.c.team k t ++ own).eraseDups) [] [] gens

/-- e.rkinit (R267). -/
def execERkinit (h : Hdr) (sub : BitVec 2) (d a : RegNo) (rick prio : BitVec 2) (fst : BitVec 5) (s : State) :=
  issue .core h 16 { rd := [.s a], wr := [.s d] } s (fun is s => do
    let t ← is.rickTeam s rick.toNat [fst.toNat]
    let (l, s) ← s.record is (sub == 1) a 0 144 16
    let r := Rick.ofBytes l fst.toNat 0
    s.postRick is d t rick.toNat (.rkinit rick.toNat fst.toNat l) prio.toNat 1 (r.slots.filter (· < t.foot.acc)) [])

/-- The binding that a rick has at issue, unless a rebinding stands in the table (R265). -/
def State.settled (s : State) (q key k : Nat) (t : Team) : Option Rick :=
  if (s.rebinding q key k).isEmpty then t.ricks.find k else none

/-- e.rkstep (R268). -/
def execERkstep (h : Hdr) (sub : BitVec 2) (d b : RegNo) (rick prio : BitVec 2) (imm : BitVec 32) (s : State) :=
  issue .core h 12 { rd := if sub.getLsbD 0 then [.s b] else [], wr := [.s d] } s (fun is s => do
    let k := rick.toNat
    let own := if sub = 0 then [b.toNat] else []
    let t ← is.rickTeam s k own
    let addr := (is.s b).toNat % 2 ^ 32
    let n := match s.settled (quadOf is.a) is.c.team k t with | some r => r.rungBytes | none => 16
    if sub = 1 then is.rickRange s addr n else pure ()
    let val : W32 := if sub = 2 then imm else (is.s b).extractLsb' 0 32
    s.postRick is d t k (.rkstep k sub.toNat b.toNat addr val) prio.toNat 1 own [])

/-- e.rkread (R269). -/
def execERkread (h : Hdr) (sub : BitVec 2) (d a : RegNo) (rick prio : BitVec 2) (mask : BitVec 16) (s : State) :=
  issue .core h 12 { rd := [], wr := [.s d] } s (fun is s => do
    let t ← is.rickTeam s rick.toNat [a.toNat]
    s.postRick is d t rick.toNat (.rkread rick.toNat a.toNat (sub == 1) mask.toNat) prio.toNat 1 [a.toNat] [])

/-- e.rkld (R270). -/
def execERkld (h : Hdr) (d a : RegNo) (rick prio : BitVec 2) (rung : BitVec 4) (s : State) :=
  issue .core h 12 { rd := [], wr := [.s d] } s (fun is s => do
    let t ← is.rickTeam s rick.toNat [a.toNat]
    s.postRick is d t rick.toNat (.rkld rick.toNat a.toNat rung.toNat) prio.toNat 1 [a.toNat] [])

/-- e.rkst (R270). -/
def execERkst (h : Hdr) (d a : RegNo) (rick prio : BitVec 2) (rung : BitVec 4) (s : State) :=
  issue .core h 12 { rd := [], wr := [.s d] } s (fun is s => do
    let t ← is.rickTeam s rick.toNat [a.toNat]
    s.postRick is d t rick.toNat (.rkst rick.toNat a.toNat rung.toNat) prio.toNat 1 [a.toNat] [])

/-- An address on each page that an image from an address on can reach: 16 rungs of 64 KiB and a header (R271). -/
def imagePages (addr : Nat) : List Nat := addr :: (List.range 257).map (fun i => addr + 4096 * (i + 1))

/-- Where a global image of unknown length first meets a check of R80 or R101, or leaves its arena, at its longest: the offset and the code. -/
def State.imageBad (s : State) (core part addr : Nat) (write : Bool) : Option (Nat × Nat) :=
  (s.rowParts core part addr (160 + 16 * 65536)).findSome? (fun x =>
    match s.route core part (x % 2 ^ 56) write false with
    | .error c => some (x - addr, c)
    | .ok _ => if s.arenaAt core x ≠ s.arenaAt core addr then some (x - addr, Code.align) else none)

/-- What the two checkpoint instructions share at issue (R265): slots, the local-store range, the overlap of image slots, and a
global range's R80, whose failure refuses the task; so does a global image that is not 16-byte aligned, with ALIGN (R271, log 139).
DESIGN CHOICE (log 151): of an image whose length the rick's binding does not give, the header is checked so; what lies past it is checked at
post too, as far as the longest image reaches, and an image that turns out to reach a byte that failed ends FAULTED with that code. -/
def checkpointOp (rest : Bool) (h : Hdr) (sub : BitVec 2) (d a : RegNo) (rick prio : BitVec 2) (rx : RkX) (s : State) :
    Host.Outcome State Fault Refusal :=
  issue .core h 16 { rd := if sub = 2 then [] else [.s a], wr := [.s d] } s (fun is s => do
    let k := rick.toNat
    let isl := rx.isl.toNat
    let icnt := rx.icnt.toNat
    let f := rx.f.toNat
    let img := if sub = 2 then (List.range (icnt + 1)).map (isl + ·) else []
    let t ← is.rickTeam s k (img ++ if rest then [f] else [])
    let q := quadOf is.a
    let cur := s.settled q is.c.team k t
    let len := if rest then 160 else (match cur with | some r => r.imageLen | none => 160)
    let addr := if sub = 1 then (is.s a).toNat % 2 ^ 32 else (is.s a).toNat % 2 ^ 56
    if sub = 1 then is.rickRange s addr len else pure ()
    match cur with
    | some r => require (sub ≠ 2 || !r.overlaps isl icnt) is.shapeFault
    | none => pure ()
    let sc := if sub = 2 then 1 else s.scope is.a rx.sc
    let own := img ++ if rest then ((List.range 16).map (f + ·)).filter (· < t.foot.acc) else []
    let core := coreOf is.a
    let known := !rest && cur.isSome
    let bad := if sub = 0 && !known then s.imageBad core (s.agentPart is.a) addr (!rest) else none
    let op : TaskOp := if rest then .rkrest k sub.toNat addr isl icnt f bad else .rksave k sub.toNat addr isl icnt bad
    if sub = 0 then
      match (if addr % 16 ≠ 0 then Except.error Code.align else s.globalRow core (s.agentPart is.a) addr len (!rest)) with
      | .error c => s.instantFut is d Kind.rick sc Status.faulted c
      | .ok _ => s.postRick is d t k op prio.toNat sc own (s.gensOf core (imagePages addr))
    else s.postRick is d t k op prio.toNat sc own [])

/-- e.rksave (R272). -/
def execERksave (h : Hdr) (sub : BitVec 2) (d a : RegNo) (rick prio : BitVec 2) (rx : RkX) (s : State) :=
  checkpointOp false h sub d a rick prio rx s
/-- e.rkrest (R273). -/
def execERkrest (h : Hdr) (sub : BitVec 2) (d a : RegNo) (rick prio : BitVec 2) (rx : RkX) (s : State) :=
  checkpointOp true h sub d a rick prio rx s

/-- e.rkstat (R275): its register is outstanding until the earlier operations have completed. -/
def execERkstat (h : Hdr) (d : RegNo) (rick prio : BitVec 2) (s : State) :=
  issue .core h 8 { rd := [], wr := [.s d] } s (fun is s => do
    let t ← is.rickTeam s rick.toNat []
    let q := quadOf is.a
    let _ := prio
    is.memReady s
    require (s.mayPost q is.c.team) (.park .post)
    is.room .ec
    let (id, s) := s.fresh
    let (pid, s) := s.fresh
    let s := s.addPend is.a { Pend.blank pid .ec is with writes := [{ reg := .s d.toNat, val := none }] }
    let tk : Task := { Task.new id is.a is.c.team (.rkstat rick.toNat pid d.toNat) 0 1 (s.clk (dieOf is.a)) is.pc with
      slots := s.rickSlots q is.c.team rick.toNat t }
    pure (s.mapQuad q (fun x => { x with tasks := x.tasks ++ [tk] })))

end Sys2Proof.Machine
end

