-- ==== Sys2Proof/Machine/Kv.lean ====
section
/-! DEFINITION. The kv class (R413 to R434): stokers and their queues, the steps on KV pages and the prefix table, and the
rotary encoding. -/

namespace Sys2Proof.Machine

/-! ## Steps at a home on KV memory (R427) -/

/-- Where a step ends instead of its effects: a status, a code with the address of R394, or a translation that it lacks. -/
inductive KvEnd where
  | status (n : Nat)
  | fail (code addr : Nat)
  | hold (va code : Nat)
  deriving DecidableEq, Repr
/-- A part of a step, which notes the lines that it reads and writes. -/
abbrev KvM := StateT (List Nat) (Except KvEnd)

/-- Writes that a step has not performed yet: by line of 128 bytes, a mask and data. -/
abbrev Overlay := AMap (BitVec 128 × BitVec 1024)

/-- The checks of R80 at the home for a KV access to an address, and the type N. -/
def kvCheck (ar : Arena) (va : Nat) (write : Bool) : KvM Unit :=
  if arenaOf va = 0 || ar.state = Arn.free || ar.state = Arn.draining then throw (.fail Code.arenaDead va)
  else if write && (ar.state = Arn.sealed || ar.sealp) then throw (.fail Code.arenaSealed va)
  else if ar.typ ≠ Arn.typN then throw (.fail Code.prot va)
  else pure ()

/-- An end by a code: a walk that ended in XLATE or PROT is waited for. -/
def kvCode (va c : Nat) : KvEnd := if c = Code.xlate || c = Code.prot then .hold va c else .fail c va

/-- Bytes as the step sees them: its own writes over what the homes hold. -/
def State.kvRead (s : State) (part : Nat) (o : Overlay) (va n : Nat) : KvM (List Byte) :=
  (segs va n).foldlM (fun acc (line, off, m) => do
    let ar := (s.part part).arena (lineArena line)
    kvCheck ar (line * 128 + off) false
    modify (line :: ·)
    match s.lineAt part line ar.gen false with
    | .error c => throw (kvCode (line * 128 + off) c)
    | .ok (unit, pa, d, psn) =>
      if psn then throw (.fail Code.ecc (s.eccAt unit part line ar.gen pa))
      else
        let d := match o.find line with | some (k, x) => mergeLine d k x | none => d
        pure (acc ++ lineBytes d off m)) []
/-- A field of n bytes. -/
def State.kvField (s : State) (part : Nat) (o : Overlay) (va n : Nat) : KvM Nat := ofLe <$> s.kvRead part o va n

/-- A write of the step, checked and entered in its overlay. -/
def State.kvPut (s : State) (part : Nat) (o : Overlay) (va : Nat) (l : List Byte) : KvM Overlay :=
  let r : KvM (Overlay × List Byte) := (segs va l.length).foldlM (fun (acc : Overlay × List Byte) (line, off, m) => do
    let ar := (s.part part).arena (lineArena line)
    kvCheck ar (line * 128 + off) true
    modify (line :: ·)
    match s.walkFor part (line * 128) true with
    | .error c => throw (kvCode (line * 128 + off) c)
    | .ok _ =>
      let (k, d) := (acc.1.find line).getD (0, 0)
      let mk := maskOf off m
      pure (acc.1.put line (k ||| mk, mergeLine d mk (placeBytes off (acc.2.take m))), acc.2.drop m)) (o, l)
  (·.1) <$> r

/-- The writes of a step perform at their homes: one masked write for each line touched (R125). -/
def State.kvCommit (s : State) (part : Nat) (o : Overlay) : State :=
  o.foldl (fun s e =>
    let ar := (s.part part).arena (lineArena e.1)
    match s.lineAt part e.1 ar.gen true with
    | .error _ => s
    | .ok (unit, pa, _, _) => s.homeWrite unit part e.1 ar.gen pa ar.typ e.2.1 e.2.2) s

/-! ## Pools (R421) -/

/-- A pool descriptor (R421). -/
structure Pool where
  va : Nat
  base : Nat
  pageb : Nat
  npage : Nat
  nfree : Nat
  stack : Nat
  rc : Nat
  deriving DecidableEq, Repr

/-- The pool whose descriptor is at an address; HANDLE for a descriptor that is not aligned or has a must-be-zero field set. -/
def State.kvPool (s : State) (part va : Nat) : KvM Pool := do
  if va % 64 ≠ 0 then throw (.fail Code.handle va)
  let l ← s.kvRead part [] va 64
  if field l 0x14 4 ≠ 0 || field l 0x28 24 ≠ 0 then throw (.fail Code.handle va)
  pure { va := va, base := field l 0 8 % 2 ^ 56, pageb := field l 8 4, npage := field l 12 4, nfree := field l 0x10 4,
         stack := field l 0x18 8 % 2 ^ 56, rc := field l 0x20 8 % 2 ^ 56 }

/-- The address of a page (R421). -/
def Pool.page (p : Pool) (id : Nat) : Nat := p.base + p.pageb * id
/-- A page id that the pool has (R425, R429). -/
def Pool.checkId (p : Pool) (id : Nat) : KvM Unit := if id < p.npage then pure () else throw (.fail Code.handle p.va)
/-- The reference count of a page (R421). -/
def State.kvRc (s : State) (part : Nat) (o : Overlay) (p : Pool) (id : Nat) : KvM Nat := s.kvField part o (p.rc + 2 * id) 2
/-- Set the reference count of a page. -/
def State.kvSetRc (s : State) (part : Nat) (o : Overlay) (p : Pool) (id n : Nat) : KvM Overlay :=
  s.kvPut part o (p.rc + 2 * id) (leBytes 2 n)

/-- Allocate a page: the top of the stack; FULL where none is free (R421, R425). -/
def State.kvAlloc (s : State) (part : Nat) (o : Overlay) (p : Pool) : KvM (Nat × Overlay) := do
  if p.nfree = 0 then throw (.status Status.full)
  let id ← s.kvField part o (p.stack + 4 * (p.nfree - 1)) 4
  p.checkId id
  let o ← s.kvPut part o (p.va + 0x10) (leBytes 4 (p.nfree - 1))
  let o ← s.kvSetRc part o p id 1
  pure (id, o)

/-- Release a page: its count falls, and at 0 the page is pushed; a count of 0 changes nothing (R421). -/
def State.kvRelease (s : State) (part : Nat) (o : Overlay) (p : Pool) (id : Nat) : KvM Overlay := do
  p.checkId id
  let rc ← s.kvRc part o p id
  if rc = 0 then pure o
  else
    let o ← s.kvSetRc part o p id (rc - 1)
    if rc ≠ 1 then pure o
    else
      let n ← s.kvField part o (p.va + 0x10) 4
      let o ← s.kvPut part o (p.stack + 4 * n) (leBytes 4 id)
      s.kvPut part o (p.va + 0x10) (leBytes 4 (n + 1))

/-! ## Sequences (R422, R423) -/

/-- A sequence descriptor (R422). -/
structure Seq where
  va : Nat
  len : Nat
  cap : Nat
  pool : Nat
  fmt : Nat
  h : Nat
  dim : Nat
  deriving DecidableEq, Repr

/-- The sequence whose descriptor is at an address, and its pool, with the checks of R425. -/
def State.kvSeq (s : State) (part va : Nat) : KvM (Seq × Pool) := do
  if va % 64 ≠ 0 then throw (.fail Code.handle va)
  let l ← s.kvRead part [] va 64
  let q : Seq := { va := va, len := field l 0 4, cap := field l 4 4, pool := field l 8 8 % 2 ^ 56, fmt := field l 0x10 1,
                   h := field l 0x11 1, dim := field l 0x12 2 }
  let bad := field l 0x14 12 ≠ 0 || 1 < q.fmt || q.h = 0 || 16 < q.h || q.dim < 16 || 256 < q.dim || q.dim % 16 ≠ 0 || q.cap = 0
    || 65536 < q.cap || 64 * q.cap < q.len
  if bad then throw (.fail Code.handle va)
  let p ← s.kvPool part q.pool
  pure (q, p)

/-- Bytes of an element (R423). -/
def Seq.esize (q : Seq) : Nat := if q.fmt = 0 then 1 else 2
/-- The element type (R422). -/
def Seq.ty (q : Seq) : Ty := if q.fmt = 0 then .e4m3 else .bf16
/-- The address of entry i of PAGES (R422). -/
def Seq.entry (q : Seq) (i : Nat) : Nat := q.va + 0x40 + 4 * i
/-- The offset in a page of head h, token j, of K or V (R423). -/
def Seq.rowOff (q : Seq) (v : Bool) (h j : Nat) : Nat :=
  0x40 + (if v then 64 * q.h * q.dim * q.esize else 0) + (64 * h + j) * q.dim * q.esize

/-- The scale exponent of a head's inputs: the smallest k from −127 on with 448 × 2^k at least the largest finite magnitude;
0 where that is 0, and for bf16 (R424). -/
def Seq.scaleExp (q : Seq) (l : List Nat) : Int :=
  let mags := l.filterMap (fun c => match Ty.val .f32 c with | .fin _ m e => some (m, e) | _ => none)
  if q.fmt ≠ 0 || mags.all (fun x => x.1 = 0) then 0
  else
    let big (k : Int) : Bool := mags.all (fun x => decide (x.1 * 2 ^ (x.2 + 400).toNat ≤ 448 * 2 ^ (k + 400).toNat))
    match (List.range 255).find? (fun (i : Nat) => big ((i : Int) - 127)) with
    | some i => (i : Int) - 127
    | none => 127

/-- A stored element with its flags (R424). -/
def Seq.element (q : Seq) (k : Int) (c : Nat) : Nat × BitVec 5 :=
  convert .f32 q.ty { rnd := .rn, sat := q.fmt = 0, rv := none } (-k) c

/-- What a step does beside its writes: its value, its flags, whether an element was clamped, whether it is an acquire, and the
prefix table. -/
structure KvRun where
  puts : Overlay
  val : Nat
  flags : BitVec 5
  clamp : Bool
  acq : Bool
  prefixes : Option (List Prefix)
  deriving DecidableEq, Repr

/-- A step that only writes. -/
def KvRun.writes (o : Overlay) : KvRun := { puts := o, val := 0, flags := 0, clamp := false, acq := false, prefixes := none }

/-- One token written into a page: the header's must-be-zero fields (R423), the scales, the two parts of every head, the flags and the clamp (R424, R425). -/
def State.kvToken (s : State) (part : Nat) (o : Overlay) (q : Seq) (page j : Nat) (src : List Nat) :
    KvM (Overlay × BitVec 5 × Bool) := do
  let part2 (v : Bool) (h : Nat) : List Nat := (src.drop ((if v then q.h * q.dim else 0) + h * q.dim)).take q.dim
  let heads := (List.range q.h).map (fun h => (false, h)) ++ (List.range q.h).map (fun h => (true, h))
  let old ← if j = 0 then pure [] else s.kvRead part o page 0x40
  if field old 0 1 / 2 ≠ 0 || field old 1 15 ≠ 0 || field old 0x30 16 ≠ 0 then throw (.fail Code.handle page)
  let code (v : Bool) (h : Nat) : Nat :=
    if j = 0 then (q.scaleExp (part2 v h) + 127).toNat else field old ((if v then 0x20 else 0x10) + h) 1
  let o ← if j ≠ 0 then pure o
    else
      let sc (v : Bool) : List Byte := (List.range 16).map (fun h => if h < q.h then BitVec.ofNat 8 (code v h) else 0)
      s.kvPut part o page (List.replicate 16 0 ++ sc false ++ sc true ++ List.replicate 16 0)
  let (o, fl) ← heads.foldlM (fun (acc : Overlay × BitVec 5) e => do
    let k : Int := if q.fmt = 0 then (code e.1 e.2 : Int) - 127 else 0
    let rs := (part2 e.1 e.2).map (q.element k)
    let o ← s.kvPut part acc.1 (page + q.rowOff e.1 e.2 j) (rs.flatMap (fun x => leBytes q.esize x.1))
    pure (o, acc.2 ||| orFlags rs)) (o, (0 : BitVec 5))
  let clamp := q.fmt = 0 && fl &&& Flag.ovf ≠ 0
  let o ← if clamp then
      let f ← s.kvField part o page 1
      s.kvPut part o page (leBytes 1 (setBits f 0 1 1))
    else pure o
  pure (o, fl, clamp)

/-- kv.app at its home (R425). -/
def State.kvAppend (s : State) (part va src team : Nat) : KvM KvRun := do
  let (q, p) ← s.kvSeq part va
  let i := q.len / 64
  let j := q.len % 64
  if q.len = 64 * q.cap then throw (.status Status.full)
  let (id, o) ← if j = 0 then do
      let (id, o) ← s.kvAlloc part [] p
      let o ← s.kvPut part o (q.entry i) (leBytes 4 id)
      pure (id, o)
    else do
      let id ← s.kvField part [] (q.entry i) 4
      p.checkId id
      let rc ← s.kvRc part [] p id
      if 1 < rc then throw (.status Status.busy)
      pure (id, ([] : Overlay))
  let n := 8 * q.h * q.dim
  match s.lsOfTeam team src with
  | none => throw (.fail Code.lsRange src)
  | some at' =>
    if at'.limit < at'.off + n then throw (.fail Code.lsRange src)
    else
      let l := s.lsRead at'.ref at'.off n
      let (o, fl, cl) ← s.kvToken part o q (p.page id) j (unpackRow 32 (2 * q.h * q.dim) l)
      let o ← s.kvPut part o va (leBytes 4 (q.len + 1))
      pure { KvRun.writes o with flags := fl, clamp := cl }

/-- kv.trunc at its home (R426). -/
def State.kvTruncate (s : State) (part va n : Nat) : KvM KvRun := do
  let (q, p) ← s.kvSeq part va
  if q.len ≤ n then pure (KvRun.writes [])
  else
    let o ← s.kvPut part [] va (leBytes 4 n)
    let lo := ceilDiv n 64
    let hi := ceilDiv q.len 64
    let o ← ((List.range (hi - lo)).reverse).foldlM (fun (o : Overlay) k => do
      let id ← s.kvField part o (q.entry (lo + k)) 4
      s.kvRelease part o p id) o
    pure (KvRun.writes o)

/-! ## The prefix table (R428, R429) -/

/-- A status value: a code in bits 35 to 32 and a value below (R433). -/
def kvStatus (code v : Nat) : Nat := 2 ^ 32 * code + v % 2 ^ 32
namespace Ks
def ok : Nat := 0
def miss : Nat := 1
def taken : Nat := 2
def full : Nat := 3
def busy : Nat := 4
def noneFree : Nat := 5
def empty : Nat := 6
def beyond : Nat := 7
end Ks

/-- A prefix entry matches a tag and a pool (R428). -/
def Prefix.matches (e : Prefix) (part tag pool : Nat) : Bool := e.part == part && e.tag.toNat == tag && e.pool == pool

/-- A step on the prefix table that only reports a status. -/
def KvRun.report (code v : Nat) : KvRun := { KvRun.writes [] with val := kvStatus code v }

/-- kv.find at its home (R429). -/
def State.kvLookup (s : State) (part die tag pool : Nat) : KvM KvRun := do
  let p ← s.kvPool part pool
  let tab := (s.die die).prefixes
  match tab.find? (fun e => e.matches part tag pool) with
  | none => pure (KvRun.report Ks.miss 0)
  | some e =>
    p.checkId e.page
    let rc ← s.kvRc part [] p e.page
    if e.count = 65535 || rc = 65535 then pure (KvRun.report Ks.beyond 0)
    else
      let o ← s.kvSetRc part [] p e.page (rc + 1)
      pure { KvRun.report Ks.ok e.page with
        puts := o, acq := true, prefixes := some (tab.map (fun x => if x = e then { x with count := x.count + 1 } else x)) }

/-- kv.ins at its home (R429). -/
def State.kvInsert (s : State) (part die tag pool page : Nat) : KvM KvRun := do
  let p ← s.kvPool part pool
  let tab := (s.die die).prefixes
  p.checkId page
  match tab.find? (fun e => e.matches part tag pool) with
  | some e =>
    p.checkId e.page
    pure (KvRun.report Ks.taken e.page)
  | none =>
    if 8 ≤ (tab.filter (fun e => bits e.tag.toNat 0 14 = bits tag 0 14)).length then pure (KvRun.report Ks.full 0)
    else
      let rc ← s.kvRc part [] p page
      if rc = 65535 then pure (KvRun.report Ks.beyond 0)
      else
        let o ← s.kvSetRc part [] p page (rc + 1)
        pure { KvRun.report Ks.ok page with
          puts := o, prefixes := some (tab ++ [{ part := part, tag := BitVec.ofNat 128 tag, pool := pool, page := page, count := 1 }]) }

/-- kv.rel at its home (R429). -/
def State.kvReturn (s : State) (part die tag pool : Nat) : KvM KvRun := do
  let p ← s.kvPool part pool
  let tab := (s.die die).prefixes
  match tab.find? (fun e => e.matches part tag pool) with
  | none => pure (KvRun.report Ks.miss 0)
  | some e =>
    p.checkId e.page
    if 1 < e.count then
      pure { KvRun.report Ks.ok (e.count - 1) with
        prefixes := some (tab.map (fun x => if x = e then { x with count := x.count - 1 } else x)) }
    else
      let o ← s.kvRelease part [] p e.page
      pure { KvRun.report Ks.ok 0 with puts := o, prefixes := some (tab.filter (· ≠ e)) }

/-- The step of a request that names KV memory. -/
def State.kvRun (s : State) (die : Nat) (r : Req) : KvM KvRun :=
  match r.op with
  | .kvapp src team _ _ => s.kvAppend r.part r.va src team
  | .kvtrunc n _ => s.kvTruncate r.part r.va n
  | .kvfind tag _ => s.kvLookup r.part die tag r.va
  | .kvins tag page _ => s.kvInsert r.part die tag r.va page
  | .kvrel tag _ => s.kvReturn r.part die tag r.va
  | _ => pure (KvRun.writes [])

/-- The future of a KV request. -/
def ReqOp.kvFut : ReqOp → Option (Nat × Nat)
  | .kvapp _ _ fut _ => fut
  | .kvtrunc _ fut => fut
  | _ => none

/-- The step performs: its writes, the prefix table, the clamp of the issuing wave while its slot still holds it, and its future or its status (R424 to R429). -/
def State.kvDone (s : State) (die : Nat) (r : Req) (k : KvRun) : State :=
  let s := s.kvCommit r.part k.puts
  let s := match k.prefixes with | some l => s.mapDie die (fun d => { d with prefixes := l }) | none => s
  let s := match r.op with
    | .kvapp _ team _ _ => if k.clamp then s.mapCtx r.agent (fun c => if c.team = team then c.setClamp else c) else s
    | _ => s
  let s := match r.pend with
    | some id => s.mapPend r.agent id (fun p => { p with acq := if k.acq then p.acq else none })
    | none => s
  (s.complete r (leBytes 8 k.val)).resolve r.op.kvFut Status.done 0 k.flags false

/-- A request is held at an address by a translation episode (R96). -/
def State.holdReq (s : State) (r : Req) (va : Nat) : State :=
  { s with reqs := s.reqs.map (fun (x : Req) => if x.id = r.id then { x with held := some va } else x) }

/-- A region drains of requests like this one, which carry its old version (R102). -/
def State.oldVersion (s : State) (r : Req) : Bool :=
  (s.part r.part).rewrites.any (fun w => w.old.holds r.va && w.old.ver == r.ver)
/-- The lines of a step are reached from the unit at which it is carried out: none where one waits, for a region that drains, unless that waits for
this step, or for an open port to another module (R102, R427, R442). -/
def State.kvReach (s : State) (r : Req) (unit : Nat) (lines : List Nat) : Option State :=
  lines.eraseDups.foldlM (fun (s : State) line =>
    let u := s.unitOf r.part (line * 128)
    if s.rewriting r.part (line * 128) && !s.oldVersion r then none
    else if u / 32 = unit / 32 then some s
    else s.overLink r.part (max u unit) true) s

/-- A KV request at its home slice; a failure carries the address of R394 and R395. None where a line of the step is not reached yet. -/
def State.kvHome (s : State) (unit : Nat) (r : Req) : Option State :=
  match (s.kvRun (unit % 32) r).run [] with
  | .ok (k, ls) => (s.kvReach r unit ls).map (fun s => s.kvDone (unit % 32) r k)
  | .error (.status st) => some ((s.dropReq r).resolve0 r.op.kvFut st 0)
  | .error (.fail c addr) =>
    let s := if c = Code.synonym && r.op.kvFut.isSome then
        s.noteSynonym (s.unitOf r.part addr % 32) r.part addr (s.recordOf r.agent r.pc addr r.mask 1 false false false c) else s
    some (s.failReq r c addr)
  | .error (.hold va c) =>
    some ((s.holdReq r va).beginEpisode (s.unitOf r.part va % 32) r.part va c (s.recordOf r.agent r.pc va r.mask 1 false false false c))

/-- Steps of one wave arrive in program order (R427). -/
def State.ownKv (s : State) (a : Agent) : List Nat :=
  (s.reqs.filter (fun r => r.agent = a && (match r.op with
    | .kvapp .. | .kvtrunc .. | .kvfind .. | .kvins .. | .kvrel .. => true
    | _ => false))).map (·.id)

/-- A KV request leaves for the home of its descriptor. -/
def State.sendKv (s : State) (is : Iss) (pend : Option Nat) (rt : Route) (op : ReqOp) (after : List Nat) : State :=
  let r := Req.blank (is.who is.p) (coreOf is.a) (s.agentPart is.a) rt.va 8 rt.attr.gen rt.ver rt.attr.typ op
  let s := match pend with | some i => s.mapPend is.a i (fun p => { p with reqs := p.reqs ++ [s.uid] }) | none => s
  s.send { r with pend := pend, alloc := false } (after ++ s.ownKv is.a)

/-- What kv.app and kv.trunc share: a future of KIND 8, resolved at once where the descriptor fails at issue (R425). -/
def kvFutOp (is : Iss) (s : State) (d a : RegNo) (sc : BitVec 3) (op : Nat × Nat → ReqOp) : Res State := do
  is.memReady s
  let part := s.agentPart is.a
  let k := s.scope is.a sc
  match s.route (coreOf is.a) part (vaOf (is.s a)) true true with
  | .error c => s.instantFut is d Kind.kv k Status.faulted c
  | .ok rt =>
    let (s, q, n) ← s.takeFut is d Kind.kv k s.uid
    pure (s.sendKv is none rt (op (q, n)) [])

/-- kv.app (R425). -/
def execKvApp (h : Hdr) (d a b : RegNo) (sc : BitVec 3) (s : State) :=
  issue .core h 16 { rd := [.s a, .s b], wr := [.s d] } s (fun is s => do
    let src := (is.s b).toNat % 2 ^ 32
    let ps ← is.lsPlaces s 16 16 (is.p.list.map (fun i => (i, src)))
    is.boardReady s 16 (ps.map (·.2))
    kvFutOp is s d a sc (fun f => .kvapp src is.c.team (some f) is.p))

/-- kv.trunc (R426). -/
def execKvTrunc (h : Hdr) (d a b : RegNo) (sc : BitVec 3) (s : State) :=
  issue .core h 12 { rd := [.s a, .s b], wr := [.s d] } s (fun is s => do
    kvFutOp is s d a sc (fun f => .kvtrunc ((is.s b).toNat % 2 ^ 32) (some f)))

/-- A tag of 128 bits in an even pair (R433). -/
def Iss.tag (is : Iss) (a : RegNo) : Nat := (is.s a).toNat + 2 ^ 64 * (is.s (a + 1)).toNat

/-- What the prefix instructions share: the checks of the pool, whose descriptor they read (the step itself checks what it writes), and a status counted in EC (R429, R433). -/
def kvPrefixOp (pm : Perm) (h : Hdr) (len : Nat) (d a b : RegNo) (rd : List Use) (acq rel : Bool) (s : State)
    (op : Iss → ReqOp) : Host.Outcome State Fault Refusal :=
  issue pm h len { rd := [.s a, .s (a + 1), .s b] ++ rd, wr := [.s d] } s (fun is s => do
    is.memReady s
    let rs ← is.routesU s false true [vaOf (is.s b)]
    is.room .ec
    match rs.head? with
    | none => pure s
    | some rt =>
      let (s, deps) := if rel then s.release is.a 3 else (s, [])
      let (id, s) := s.fresh
      let s := s.addPend is.a { Pend.awaiting id .ec is [.s d.toNat] [] with acq := if acq then some 3 else none }
      pure (s.sendKv is (some id) rt (op is) deps))

/-- kv.find (R429). -/
def execKvFind (h : Hdr) (d a b : RegNo) (s : State) :=
  kvPrefixOp .coreAll h 12 d a b [] true false s (fun is => .kvfind (is.tag a) d.toNat)
/-- kv.ins (R429). -/
def execKvIns (h : Hdr) (d a b c : RegNo) (s : State) :=
  kvPrefixOp .core h 12 d a b [.s c] false true s (fun is => .kvins (is.tag a) ((is.s c).toNat % 2 ^ 32) d.toNat)
/-- kv.rel (R429). -/
def execKvRel (h : Hdr) (d a b : RegNo) (s : State) :=
  kvPrefixOp .core h 8 d a b [] false false s (fun is => .kvrel (is.tag a) d.toNat)

/-! ## Stokers (R413, R415, R434) -/

/-- A queue with nothing in it (R416). -/
def SQueue.init : SQueue := { ents := [], next := 0, fin := false }
/-- A queue of a stoker. -/
def Stoker.queue (k : Stoker) (q : Nat) : SQueue := (k.queues.find q).getD SQueue.init
/-- Change a queue of a stoker. -/
def Stoker.setQueue (k : Stoker) (q : Nat) (x : SQueue) : Stoker := { k with queues := k.queues.put q x }
/-- The cursor: the lowest number neither acked nor discarded (R416). -/
def SQueue.cursor (q : SQueue) : Nat := match q.ents with | e :: _ => e.1 | [] => q.next.toNat
/-- The lowest-numbered offered entry (R417). -/
def SQueue.offered? (q : SQueue) : Option (Nat × W64 × Owner) := q.ents.find? (fun e => e.2.2 = .offered)
/-- The first entry that a wave owns and has not bound (R418). -/
def SQueue.owned? (q : SQueue) (a : Agent) : Option (Nat × W64 × Owner) := q.ents.find? (fun e => e.2.2 = .wave a)
/-- An entry gets an owner. -/
def SQueue.setOwner (q : SQueue) (n : Nat) (o : Owner) : SQueue :=
  { q with ents := q.ents.map (fun e => if e.1 = n then (e.1, e.2.1, o) else e) }

/-- The agent of a stoker. -/
def stokerAgent (k : Nat) : Agent := .slot (k / 4) (20 + k % 4)
/-- The stoker of a team, with its key. -/
def State.stokerOf (s : State) (team : Nat) : Option (Nat × Stoker) :=
  ((s.teams.find team).bind (·.stoker)).bind (fun k => (s.stokers.find k).map (fun x => (k, x)))
/-- A stoker runs: kv.push or y.eret has not ended it, and no fault has stopped it (R415). -/
def State.stokerRuns (s : State) (k : Nat) (x : Stoker) : Bool :=
  x.running && ((s.ctx? (stokerAgent k)).bind (·.stop)).isNone

/-- A stoker's context at bind (R413). -/
def stokerCtx (team : Nat) (s0 s1 entry : W64) : Ctx :=
  (({ Ctx.init with team := team, nreg := 0, split := splitInit entry 1, exited := ~~~1 } : Ctx).sset 0 s0).sset 1 s1

/-- A queue at a restart: offered entries and END are discarded (R434). -/
def SQueue.restart (q : SQueue) : SQueue := { q with ents := q.ents.filter (fun e => e.2.2 ≠ .offered), fin := false }

/-- kv.bind (R413, R433, R434). -/
def execKvBind (h : Hdr) (d a b : RegNo) (x0 : BitVec 32) (s : State) :=
  issue .core h 16 { rd := [.s a, .s b], wr := [.s d] } s (fun is s => do
    let entry := (is.pc + sx64 x0) &&& 0x00FFFFFFFFFFFFFF
    require (entry.toNat % 4 = 0) (is.fault Code.align entry.toNat is.p)
    s.needRelease is 0
    let key := is.c.team
    let core := coreOf is.a
    let c := stokerCtx key (is.s b) (is.s a) entry
    let reply (s : State) (code v : Nat) : Res State := s.pendS is .ec d (BitVec.ofNat 64 (kvStatus code v))
    match s.stokerOf key with
    | some (k, x) =>
      if s.stokerRuns k x then reply s Ks.busy (k % 4)
      else
        let s := (s.keepRecord (stokerAgent k)).mapStoker k (fun x => { x with running := true, queues := x.queues.map (fun e => (e.1, e.2.restart)) })
        reply (s.setCtx (stokerAgent k) c) Ks.ok (k % 4)
    | none =>
      match (List.range 4).find? (fun i => (s.stokers.find (4 * core + i)).isNone) with
      | none => reply s Ks.noneFree 0
      | some i =>
        let k := 4 * core + i
        let s := { s with stokers := s.stokers.put k { team := key, running := true, queues := [] } }
        let s := (s.mapTeam key (fun t => { t with stoker := some k })).setCtx (stokerAgent k) c
        reply s Ks.ok i)

/-- A parked kv.pop ends with a value: its register takes it and the wave goes on, with the acquire of R328. -/
def State.endPop (s : State) (a : Agent) (d : Nat) (v : W64) : State :=
  (s.clearTag a d).mapCtx a (fun c =>
    let c := c.sset d v
    let pc := ((c.rec? c.frag).map (·.pc)).getD 0
    Ctx.stepDone { c.setPc c.frag (pc + 8) with park := .none } c.frag)

/-- The waves of a team that are parked in kv.pop, of one queue or of all. -/
def State.poppers (s : State) (team : Nat) (q : Option Nat) : List (Agent × Nat × Nat) :=
  (s.waveCtxs team).filterMap (fun e => match e.2.park with
    | .pop k d no => if q.getD k = k then some (agentOfKey e.1, d, no) else none
    | _ => none)

/-- kv.bind.sub=unbind (R434); its value is the stoker's index, as for every kv.bind (R433). -/
def execKvUnbind (h : Hdr) (d : RegNo) (s : State) :=
  issue .core h 16 { rd := [], wr := [.s d] } s (fun is s => do
    let key := is.c.team
    match s.stokerOf key with
    | none => s.pendS is .ec d (BitVec.ofNat 64 (kvStatus Ks.empty 0))
    | some (k, _) =>
      let s := (s.poppers key none).foldl (fun s e => s.endPop e.1 e.2.1 (BitVec.allOnes 64)) (s.freeStoker key)
      s.pendS is .ec d (BitVec.ofNat 64 (kvStatus Ks.ok (k % 4))))

/-- The stoker of the issuing wave's team, or HANDLE (R434). -/
def Iss.stoker (is : Iss) (s : State) : Res (Nat × Stoker) :=
  match s.stokerOf is.c.team with
  | some x => .ok x
  | none => .error (is.fault Code.handle 0 is.p)

/-- kv.pop (R417, R420): pops are served in arrival order. -/
def execKvPop (h : Hdr) (d a : RegNo) (s : State) :=
  issueRaw .core h 8 { rd := [], wr := [.s d] } s (fun is s => do
    let (k, x) ← is.stoker s
    let n := a.toNat
    let q := x.queue n
    is.room .ec
    let no := s.uid
    let wait := { s with uid := s.uid + 1 }.parkAgent is (.pop n d.toNat no)
    if !(s.poppers is.c.team (some n)).isEmpty then pure wait
    else
      match q.offered? with
      | some e =>
        let s := s.mapStoker k (fun x => x.setQueue n (q.setOwner e.1 (.wave is.a)))
        pure ((← s.pendS is .ec d e.2.1).advance is)
      | none => if q.fin then pure ((← s.pendS is .ec d (BitVec.allOnes 64)).advance is) else pure wait)

/-- A parked pop that may be served now: the earliest of its queue, with an offered entry or END (R417, R420). -/
def State.servePop (s : State) (a : Agent) : Option State :=
  match s.ctx? a with
  | none => none
  | some c =>
    match c.park, s.stokerOf c.team with
    | .pop n d no, some (k, x) =>
      if c.stop.isSome || (s.poppers c.team (some n)).any (fun e => e.2.2 < no) then none
      else
        let q := x.queue n
        match q.offered? with
        | some e => some ((s.mapStoker k (fun x => x.setQueue n (q.setOwner e.1 (.wave a)))).endPop a d e.2.1)
        | none => if q.fin then some (s.endPop a d (BitVec.allOnes 64)) else none
    | _, _ => none

/-- END of a queue has been set: every pop that is parked on it is served at once, in arrival order, and those for which no offered entry is
left end with all ones (R420). -/
def State.wakeEnd (s : State) (team n : Nat) : State :=
  let l := s.poppers team (some n)
  l.foldl (fun s _ => (l.findSome? (fun e => s.servePop e.1)).getD s) s

/-- kv.ack (R418). -/
def execKvAck (h : Hdr) (a : RegNo) (s : State) :=
  issue .core h 8 { rd := [], wr := [] } s (fun is s => do
    let (k, x) ← is.stoker s
    let q := x.queue a.toNat
    match q.owned? is.a with
    | none => pure s
    | some e => pure (s.mapStoker k (fun x => x.setQueue a.toNat (q.unbind e.1 true))))

/-- kv.ack.sub=fut (R418). -/
def execKvAckFut (h : Hdr) (a b : RegNo) (s : State) :=
  issue .core h 8 { rd := [.h b], wr := [] } s (fun is s => do
    let (k, x) ← is.stoker s
    let v := is.s b
    let tag := match is.c.tags.find b.toNat with | some t => if t.resolved then none else some t | none => none
    require (tag.isSome || handleStatus v ≠ Status.pending) (is.fault Code.handle 0 is.p)
    let n := a.toNat
    let q := x.queue n
    match q.owned? is.a with
    | none => pure s
    | some e =>
      let now (done : Bool) : State := s.mapStoker k (fun x => x.setQueue n (q.unbind e.1 done))
      match tag with
      | none => pure (now (handleStatus v == Status.done))
      | some t =>
        match (s.quad t.quad).futs.find t.slot with
        | none => pure (now false)
        | some f =>
          let f' : Fut := { f with acks := f.acks ++ [(stokerAgent k, n, e.1)] }
          let s := s.mapQuad t.quad (fun y => { y with futs := y.futs.put t.slot f' })
          pure (s.mapStoker k (fun x => x.setQueue n (q.setOwner e.1 (.fut t.quad t.slot)))))

/-- kv.cur (R420). -/
def execKvCur (h : Hdr) (d a : RegNo) (s : State) :=
  issue .coreAll h 8 { rd := [], wr := [.s d] } s (fun is s => do
    let (_, x) ← is.stoker s
    let q := x.queue a.toNat
    s.pendS is .ec d (BitVec.ofNat 64 (2 ^ 32 * q.next.toNat + q.cursor % 2 ^ 32)))

/-- kv.push: a release at core, then an offered entry; a stoker whose queue is full waits (R416, R328). -/
def execKvPush (h : Hdr) (a b : RegNo) (s : State) :=
  issue .coreAll h 8 { rd := [.s b], wr := [] } s (fun is s => do
    require (isStoker is.a) (is.fault0 Code.stoker)
    let (k, x) ← is.stoker s
    let n := a.toNat
    let q := x.queue n
    require (q.ents.length < 32) .stall
    s.needRelease is 0
    pure (s.mapStoker k (fun x => x.setQueue n
      { q with ents := q.ents ++ [(q.next.toNat, is.s b, .offered)], next := q.next + 1 })))

/-- kv.push.sub=end (R420). -/
def execKvPushEnd (h : Hdr) (a : RegNo) (s : State) :=
  issue .coreAll h 8 { rd := [], wr := [] } s (fun is s => do
    require (isStoker is.a) (is.fault0 Code.stoker)
    let (k, x) ← is.stoker s
    let n := a.toNat
    s.needRelease is 0
    pure ((s.mapStoker k (fun x => x.setQueue n { x.queue n with fin := true })).wakeEnd is.c.team n))

/-- kv.push.sub=stop: the stoker stops as R415 describes, with no fault and so no record; only kv.bind starts it again (R420). -/
def execKvPushStop (h : Hdr) (s : State) :=
  issue .coreAll h 8 { rd := [], wr := [] } s (fun is s => do
    require (isStoker is.a) (is.fault0 Code.stoker)
    let (k, _) ← is.stoker s
    let s := s.mapStoker k (fun x => { x with running := false })
    pure (s.stopWave is.a { code := 0, prec := true, addr := 0, mask := is.fr.mask, pc := is.pc, meld := false, posted := true,
                            silent := true }))

/-! ## Rotary encoding (R430, R431) -/

/-- π to 640 fractional bits. -/
def widePi : Nat :=
  0x3243f6a8885a308d313198a2e03707344a4093822299f31d0082efa98ec4e6c89452821e638d01377be5466cf34e90c6cc0ac29b7c97c50dd3f84d5b5b54709179216d5d98979fb1bd1310ba698dfb5ac

/-- The angle |a| = m × 2^e radians reduced: the quadrant, and the rest in [0, π/2) to 640 fractional bits. -/
def quadrant (m : Nat) (e : Int) : Nat × Nat :=
  let a := m * 2 ^ (e + 640).toNat
  let r := a % (2 * widePi)
  let half := widePi / 2
  (min 3 (r / half), r - min 3 (r / half) * half)

/-- sin of a rest in [0, π/2), to 384 fractional bits. -/
def sinRest (y : Nat) : Nat := if 4 * y ≤ widePi then fxSin (y / 2 ^ 256) else fxCos ((widePi / 2 - y) / 2 ^ 256)
/-- cos of a rest in [0, π/2). -/
def cosRest (y : Nat) : Nat := if 4 * y ≤ widePi then fxCos (y / 2 ^ 256) else fxSin ((widePi / 2 - y) / 2 ^ 256)

/-- sin or cos of an angle in radians given as an f32 code, rounded once to f32 (R431; log 9). -/
def sinCosRad (cos : Bool) (code : Nat) : Nat × BitVec 5 :=
  let f := Ty.fmt .f32
  match f.decode code with
  | .nan s => f.roundNan s
  | .inf _ => (f.nan.getD 0, Flag.nv)
  | .fin neg m e =>
    if m = 0 then (if cos then f.roundFin .rne false 1 0 false else (f.signed neg 0, 0))
    else
      let (k, y) := quadrant m e
      let (mag, flip) := match cos, k with
        | false, 0 => (sinRest y, false) | false, 1 => (cosRest y, false) | false, 2 => (sinRest y, true) | false, _ => (cosRest y, true)
        | true, 0 => (cosRest y, false) | true, 1 => (sinRest y, true) | true, 2 => (cosRest y, true) | true, _ => (sinRest y, false)
      f.roundFin .rne (flip != (!cos && neg)) mag (-(fxBits : Int)) true

/-- THETA and SCALE of band b (R430). -/
def ropeEntry (w : BitVec 2048) (b : Nat) : Nat × Nat := (bits w.toNat (32 * b) 32, bits w.toNat (1024 + 32 * b) 32)

/-- The rotation of a pair, with its flags (R431). -/
def rotate (w : BitVec 2048) (p x0 x1 j pos : Nat) : Nat × Nat × BitVec 5 :=
  if p ≤ j then (x0, x1, 0)
  else
    let f := Ty.fmt .f32
    let (th, sc) := ropeEntry w (32 * j / p)
    let (t1, f1) := (Val.fin false pos 0).mul (f.decode th)
    let (t2, f2) := t1.mul (f.decode sc)
    let (a, f3) := f.roundVal .rne t2
    let (c, f4) := sinCosRad true a
    let (sn, f5) := sinCosRad false a
    let dot (y0 y1 : Nat) (neg : Bool) : Nat × BitVec 5 :=
      let (u, g1) := (f.decode x0).mul (f.decode y0)
      let (v, g2) := (f.decode x1).mul (f.decode y1)
      let (t, g3) := Val.add .rn u (if neg then v.neg else v)
      let (r, g4) := f.roundVal .rne t
      (r, g1 ||| g2 ||| g3 ||| g4)
    let (r0, g0) := dot c sn true
    let (r1, g1) := dot sn c false
    (r0, r1, f1 ||| f2 ||| f3 ||| f4 ||| f5 ||| g0 ||| g1)

/-- kv.rope (R431). -/
def execKvRope (h : Hdr) (d a b c : RegNo) (p : BitVec 8) (s : State) :=
  issue .core h 12 { rd := [.v a 2, .v b 1, .v c 1], wr := [.v d 2] } s (fun is s => do
    is.room .ec
    let res := is.p.list.map (fun i =>
      (i, rotate is.c.rope p.toNat (is.v a i).toNat (is.vj a 1 i).toNat (bits (is.v b i).toNat 0 8) (is.v c i).toNat))
    let (id, s) := s.fresh
    pure (s.addPend is.a { Pend.blank id .ec is with
      writes := (is.vWrites true d (res.map (fun e => (e.1, e.2.1 + 2 ^ 32 * e.2.2.1)))).map (fun e =>
        { reg := .v e.1 e.2.1, val := some e.2.2.toNat })
      flags := res.map (fun e => (e.1, e.2.2.2)) }))

/-- kv.rpset: the table that the wave's later kv.rope use (R430). -/
def execKvRpset (h : Hdr) (a : RegNo) (imm : BitVec 32) (s : State) :=
  issue .core h 12 { rd := [.s a], wr := [] } s (fun is s => do
    is.memReady s
    let (l, stale, s) ← s.readRecord is (is.addrS a imm) 256 16
    pure ((s.markStale is stale).mapCtx is.a (fun c => { c with rope := BitVec.ofNat 2048 (ofLe l) })))

end Sys2Proof.Machine
end

