-- ==== Sys2Proof/Machine/Arena.lean ====
section
/-! DEFINITION. Arenas (R76 to R92): c.anew, c.seal, c.drop and c.aq, the arena master and its broadcasts, drains, the ash sweep and
zero-fill; and the range operations c.wbr and c.invr (R120 to R122). -/

namespace Sys2Proof.Machine

/-! ## Range operations -/

/-- A line's address lies in a range: the line overlaps it (R121). -/
def lineIn (lo hi line : Nat) : Bool := decide (line * 128 < hi) && decide (lo < line * 128 + 128)

/-- The writes to lines of a range that a core or the slices of its die have sent and that have not performed yet. -/
def State.writesIn (s : State) (core part lo hi : Nat) : List Nat :=
  (s.reqs.filter (fun r => (r.core = core || r.core = sliceCore (dieOfCore core)) && r.part = part && r.op.isWrite
    && lineIn lo hi (lineNo r.va))).map (·.id)

/-- Copies of a range in a die's LLC of which it is not the home. -/
def State.rangeCopies (s : State) (die part lo hi : Nat) : List LlcLine :=
  s.llc.filter (fun k => k.die = die && k.part = part && !k.home && lineIn lo hi k.line)

/-- Write a non-home copy's dirty bytes back to the home and mark it clean (R121). -/
def State.copyBack (s : State) (k : LlcLine) : State :=
  ({ s with llc := s.llc.map (fun (x : LlcLine) => if x.same k then { x with dirty := 0 } else x) } : State).sendCopy k

/-- The write-backs of one piece of a range, in an arena with the attributes: the core's dirty L1 bytes, of a software-managed line into the die's
copy where it holds one; of an arena that is not N, what the core's combining buffers hold, and nothing else (R121). -/
def State.pieceBack (s : State) (core lo hi : Nat) (at' : Attr) : State :=
  if at'.typ ≠ Arn.typN then s.drainWc core (lineIn lo hi) else s.publishLines core (lineIn lo hi)

/-- What a range operation does once the write-backs from the L1 have performed: the die's copies of its lines write back what they hold (R121). -/
def State.rangeCopiesBack (s : State) (core part lo hi : Nat) : State :=
  (s.rangeCopies (dieOfCore core) part lo hi).foldl State.copyBack s

/-- The invalidations of c.invr (R121): L1 bytes that are not dirty, and the die's copies, whose dirty bytes go home. -/
def State.rangeInvalidate (s : State) (core part lo hi : Nat) : State :=
  let drop (l : L1Line) : L1Line := if lineIn lo hi l.line then { l with valid := l.valid &&& l.dirty } else l
  let s := (s.mapCore core (fun c => { c with l1 := (c.l1.map drop).filter (fun l => l.valid != 0) })).noFill core (lineIn lo hi)
  let ks := s.rangeCopies (dieOfCore core) part lo hi
  let s := s.rangeCopiesBack core part lo hi
  { s with llc := s.llc.filter (fun x => !ks.any (fun k => x.same k)) }

/-- A range operation goes on once its write-backs, and those of its lines that were on their way, have performed: the die's copies write back, with
the invalidations of c.invr; and once that has performed, its future resolves (R121). -/
def State.rangeStep (s : State) (r : RangeOp) : State :=
  if s.pendingDeps r.reqs then s
  else
    let done (s : State) : State := { s with ranges := s.ranges.filter (fun x => x.id ≠ r.id) }.resolve0 r.fut Status.done 0
    if !r.dropped then
      let s := r.parts.foldl (fun s p =>
        if r.inval then s.rangeInvalidate r.core r.part p.1 p.2 else s.rangeCopiesBack r.core r.part p.1 p.2) s
      let new := r.parts.flatMap (fun p => s.writesIn r.core r.part p.1 p.2)
      if new.isEmpty then done s
      else { s with ranges := s.ranges.map (fun (x : RangeOp) => if x.id = r.id then { x with dropped := true, reqs := new } else x) }
    else done s

/-- Every range operation that may go on does, and every y.map that has replayed what it let go ends (R105). -/
def State.rangesGo (s : State) : State := (s.ranges.foldl State.rangeStep s).mapsGo

/-- c.wbr and c.invr (R121, R122). -/
def rangeOp (inval : Bool) (h : Hdr) (d a b : RegNo) (s : State) : Host.Outcome State Fault Refusal :=
  issue .wave h 16 { rd := [.s a, .s b], wr := [.s d] } s (fun is s => do
    is.memReady s
    let va := vaOf (is.s a)
    let n := (is.s b).toNat
    if n = 0 then s.instantFut is d Kind.range 3 Status.done 0
    else
      let core := coreOf is.a
      let part := s.agentPart is.a
      let ps := (canonPieces (s.core core).filters va n).map (fun e => (e.1, e.1 + e.2.1))
      let aid := arenaOf (canonical (s.core core).filters va)
      let at' := s.attr core aid
      require (checkAttr aid at' false false).isNone (is.fault Code.arenaDead va is.p)
      require (offOf va + n ≤ 2 ^ 44) (is.fault Code.align va is.p)
      let (id, s) := s.fresh
      let (s, q, k) ← s.takeFut is d Kind.range 3 id
      let s := ps.foldl (fun s p => s.pieceBack core p.1 p.2 (s.attr core (arenaOf p.1))) s
      let r : RangeOp := { id := id, agent := is.a, core := core, part := part, parts := ps, gen := at'.gen, inval := inval, dropped := false,
                           reqs := ps.flatMap (fun p => s.writesIn core part p.1 p.2), fut := some (q, k) }
      pure ({ s with ranges := s.ranges ++ [r] }.rangeStep r))

/-- c.wbr (R121). -/
def execCWbr (h : Hdr) (d a b : RegNo) (s : State) := rangeOp false h d a b s
/-- c.invr (R121). -/
def execCInvr (h : Hdr) (d a b : RegNo) (s : State) := rangeOp true h d a b s

/-! ## Requests to the master (R78, R82, R84, R86) -/

/-- Operations of a request to the master. -/
def mAnew : Nat := 0
def mSeal : Nat := 1
def mDrop : Nat := 2

/-- c.anew: a request to the master with a result in EC (R82). -/
def execCAnew (h : Hdr) (d a : RegNo) (quota : BitVec 9) (zf swm : Bool) (typ : BitVec 2) (s : State) :=
  issue .wave h 16 { rd := [.s a], wr := [.s d] } s (fun is s => do
    is.room .ec
    let v := (is.s a).toNat
    let (id, s) := s.fresh
    let s := s.addPend is.a (Pend.awaiting id .ec is [.s d.toNat] [])
    let x1 := 16 * quota.toNat + 8 * b2n zf + 4 * b2n swm + typ.toNat
    let m : MasterReq := { id := id, agent := is.a, op := mAnew, aid := bits v 0 12, arg := bits v 16 12, x1 := x1, pend := id,
                           fut := none }
    pure (s.mapPart (s.agentPart is.a) (fun p => { p with masterQ := p.masterQ ++ [m] })))

/-- What c.seal and c.drop share: the faults that the id alone decides, and a request with a future (R85, R87). -/
def masterFut (op : Nat) (h : Hdr) (d a : RegNo) (s : State) (bad : Attr → Bool) : Host.Outcome State Fault Refusal :=
  issue .wave h 8 { rd := [.s a], wr := [.s d] } s (fun is s => do
    let aid := arenaOf (is.s a).toNat
    let va := vaOf (is.s a)
    require (aid ≠ 0) (is.fault Code.arenaDead va is.p)
    require (aid ≠ 1 && !bad (s.attr (coreOf is.a) aid)) (is.fault Code.prot va is.p)
    let (id, s) := s.fresh
    let (s, q, k) ← s.takeFut is d Kind.arena 3 id
    let m : MasterReq := { id := id, agent := is.a, op := op, aid := aid, arg := 0, x1 := 0, pend := 0, fut := some (q, k) }
    pure (s.mapPart (s.agentPart is.a) (fun p => { p with masterQ := p.masterQ ++ [m] })))

/-- c.seal (R84, R85). -/
def execCSeal (h : Hdr) (d a : RegNo) (s : State) :=
  masterFut mSeal h d a s (fun t => (t.state == Arn.live || t.state == Arn.sealed) && (t.typ != Arn.typN || t.swm))
/-- c.drop (R86, R87). -/
def execCDrop (h : Hdr) (d a : RegNo) (s : State) := masterFut mDrop h d a s (fun _ => false)

/-- An entry in the layout of R76. -/
def Arena.word (a : Arena) : Nat :=
  a.state % 4 + 4 * (a.gen % 16) + 64 * (a.typ % 4) + 256 * b2n a.swm + 512 * b2n a.zf + 1024 * (a.parent % 4096)
    + 2 ^ 22 * (a.quota % 512) + 2 ^ 31 * (a.sweeps % 16) + 2 ^ 35 * b2n a.sealp
/-- A core's copy of an entry in the same layout, the other fields zero (R91). -/
def Attr.word (a : Attr) : Nat :=
  a.state % 4 + 4 * (a.gen % 16) + 64 * (a.typ % 4) + 256 * b2n a.swm + 2 ^ 35 * b2n a.sealp

/-- c.aq (R91). DESIGN CHOICE (log 116): the line count of the master form takes in the lines of the arena alone, not those of its
descendants. -/
def execCAq (h : Hdr) (sub : BitVec 2) (d a : RegNo) (s : State) :=
  issue .wave h 8 { rd := [.s a], wr := [.s d] } s (fun is s => do
    let aid := arenaOf (is.s a).toNat
    if sub = 0 then pure (s.wrS is d (BitVec.ofNat 64 (s.attr (coreOf is.a) aid).word))
    else
      let part := s.agentPart is.a
      let die := dieOf is.a
      let n := (s.llc.filter (fun l => l.die = die && l.part = part && lineArena l.line = aid)).length
      s.pendS is .ec d (BitVec.ofNat 64 (((s.part part).arena aid).word + 2 ^ 40 * n)))

/-! ## The master -/

/-- The cores of a partition that hold tables (R77). -/
def State.tableCores (s : State) (part : Nat) : List Nat :=
  (s.liveDies part).flatMap (fun d => (List.range 64).map (64 * d + ·)) ++ (s.liveDies part).map (1536 + ·)

/-- The attributes of an entry that a broadcast carries (R77). -/
def Arena.attr (a : Arena) : Attr := { state := a.state, gen := a.gen, typ := a.typ, swm := a.swm, sealp := a.sealp }

/-- Change an entry at the master and broadcast it; the broadcast's number is the partition's count (R77). -/
def State.commit (s : State) (part aid : Nat) (a : Arena) : State :=
  let cores := s.tableCores part
  s.mapPart part (fun p =>
    { p.setArena aid a with
      bno := p.bno + 1
      bcasts := p.bcasts ++ [{ no := p.bno + 1, aid := aid, attr := a.attr, waiting := cores }] })

/-- Levels of an arena below the root (R82). -/
def Part.depth (p : Part) (aid : Nat) : Nat := (p.chain aid).length - 1
/-- An id is free for c.anew (R82, R90). -/
def Part.idFree (p : Part) (id : Nat) : Bool := (p.arena id).state == Arn.free && decide ((p.arena id).sweeps < 15)

/-- The id that c.anew gets, or a failure value (R82). -/
def Part.pickId (p : Part) (id parent : Nat) : Except Nat Nat :=
  let ps := (p.arena parent).state
  if parent = 0 || !(ps == Arn.live || ps == Arn.sealed) || 15 ≤ p.depth parent then .error 3
  else if id = 0 then
    match (List.range 4094).find? (fun i => p.idFree (i + 2)) with
    | some i => .ok (i + 2)
    | none => .error 2
  else if id = 1 || !p.idFree id then .error 1
  else .ok id

/-- Give a scalar result its value (R199). -/
def State.giveResult (s : State) (a : Agent) (id v : Nat) (bno : Option Nat) : State :=
  s.mapPend a id (fun p => { p with writes := p.writes.map (fun w => { w with val := some v }), bcast := bno })

/-- The master handles a c.anew (R82): a zero-fill arena begins with nothing written (R83). -/
def State.doAnew (s : State) (part : Nat) (m : MasterReq) : State :=
  let p := s.part part
  match p.pickId m.aid m.arg with
  | .error v => s.giveResult m.agent m.pend v none
  | .ok id =>
    let a : Arena := { p.arena id with state := Arn.live, typ := bits m.x1 0 2, swm := bit m.x1 2, zf := bit m.x1 3,
                                       parent := m.arg, quota := bits m.x1 4 9, sealp := false }
    let s := s.mapPart part (fun p => { p with zfLines := p.zfLines.filter (fun l => lineArena l ≠ id),
                                               zfPages := p.zfPages.filter (fun g => lineArena (g * 32) ≠ id) })
    let s := s.commit part id a
    s.giveResult m.agent m.pend (id * 2 ^ 44) (some (s.part part).bno)

/-- The master handles a c.seal (R84, R85). -/
def State.doSeal (s : State) (part : Nat) (m : MasterReq) : State :=
  let p := s.part part
  let a := p.arena m.aid
  if a.state = Arn.sealed then s.resolve0 m.fut Status.done 0
  else if a.state ≠ Arn.live then s.resolve0 m.fut Status.empty 0
  else if a.sealp then
    s.mapPart part (fun p => { p with drains := p.drains.map (fun (d : Drain) =>
      if d.aid = m.aid && d.isSeal then { d with futs := d.futs ++ m.fut.toList } else d) })
  else if a.typ ≠ Arn.typN || a.swm then s.resolve0 m.fut Status.faulted Code.prot
  else
    let s := s.commit part m.aid { a with sealp := true }
    s.mapPart part (fun p => { p with drains := p.drains ++
      [{ aid := m.aid, isSeal := true, gen := a.gen, bno := p.bno, stage := 0, futs := m.fut.toList }] })

/-- Waiters at a slice on a dropped arena resume with zero and STALE (R298). -/
def State.wakeStale (s : State) (part aid : Nat) : State :=
  (s.waiters.filter (fun w => w.part = part && arenaOf w.va = aid)).foldl (fun s w =>
    ({ s with waiters := s.waiters.filter (·.id ≠ w.id) }.wakeWait w.agent w.op w.len 0).setStale w.agent) s

/-- The drop of one id: its generation advances, a pending seal is abandoned, its waiters resume (R85, R86, R88, R298). -/
def State.dropId (s : State) (part : Nat) (futs : List (Nat × Nat)) (aid : Nat) : State :=
  let p := s.part part
  let a := p.arena aid
  let old := p.drains.filter (fun d => d.aid = aid && d.isSeal)
  let s := s.mapPart part (fun p => { p with drains := p.drains.filter (fun d => !(d.aid = aid && d.isSeal)) })
  let s := (old.flatMap (·.futs)).foldl (fun s f => s.resolve0 (some f) Status.cancelled 0) s
  let s := s.commit part aid { a with gen := (a.gen + 1) % 16, state := Arn.draining, sweeps := a.sweeps + 1, sealp := false }
  let s := s.mapPart part (fun p => { p with drains := p.drains ++
    [{ aid := aid, isSeal := false, gen := a.gen, bno := p.bno, stage := 0, futs := futs }] })
  s.wakeStale part aid

/-- The id and its descendants that are LIVE or SEALED, in increasing order (R88). -/
def Part.subtree (p : Part) (aid : Nat) : List Nat :=
  (p.arenas.filter (fun e => (e.2.state = Arn.live || e.2.state = Arn.sealed) && (p.chain e.1).contains aid)).map (·.1)

/-- The master handles a c.drop (R86 to R88). -/
def State.doDrop (s : State) (part : Nat) (m : MasterReq) : State :=
  let p := s.part part
  let a := p.arena m.aid
  if a.state = Arn.free || a.state = Arn.draining then s.resolve0 m.fut Status.empty 0
  else
    let ids := p.subtree m.aid
    if ids.any (fun i => (p.arena i).sweeps = 15) then s.resolve0 m.fut Status.busy 0
    else ids.foldl (fun s i => s.dropId part m.fut.toList i) s

/-- ARENA_MASTER_REQUEST: the requests of one agent are handled in order (R78). -/
def evArenaMasterRequest (part id : Nat) (s : State) : Option State :=
  let q := (s.part part).masterQ
  match q.find? (fun m => m.id = id) with
  | none => none
  | some m =>
    if (q.takeWhile (fun x => x.id ≠ id)).any (fun x => x.agent = m.agent) then none
    else
      let s := s.mapPart part (fun p => { p with masterQ := p.masterQ.filter (fun x => x.id ≠ id) })
      some (if m.op = mAnew then s.doAnew part m else if m.op = mSeal then s.doSeal part m else s.doDrop part m)
/-- ARENA_MASTER_REQUEST. -/
def execArenaMasterRequest (part id : Nat) (s : State) := event s (evArenaMasterRequest part id s)

/-- Seals whose last broadcast every core has applied resolve (R84 step 4). -/
def State.sealsDone (s : State) (part : Nat) : State :=
  let p := s.part part
  let ready := p.drains.filter (fun d => d.isSeal && d.stage = 2 && !p.bcasts.any (fun b => b.no ≤ d.bno))
  let s := s.mapPart part (fun p => { p with drains := p.drains.filter (fun d => !ready.contains d) })
  (ready.flatMap (·.futs)).foldl (fun s f => s.resolve0 (some f) Status.done 0) s

/-- ARENA_BROADCAST_APPLY: a core applies the earliest broadcast that it has not applied (R77); with SEALED it invalidates the
arena's lines in its L1, and its die those of which it is not the home (R319). -/
def evArenaBroadcastApply (core : Nat) (s : State) : Option State :=
  let part := s.corePart core
  match (s.part part).bcasts.find? (fun b => b.waiting.contains core) with
  | none => none
  | some b =>
    let s := s.mapCore core (fun c => { c with
      attr := c.attr.put b.aid b.attr, wc := c.wc.filter (fun x => lineArena x.line ≠ b.aid || x.gen = b.attr.gen) })
    let s := if b.attr.state = Arn.sealed then
        let mine (line : Nat) : Bool := lineArena line == b.aid
        let s := (s.mapCore core (fun c => { c with l1 := c.l1.filter (fun l => !mine l.line) })).noFill core mine
        let die := dieOfCore core
        { s with llc := s.llc.filter (fun k => !(k.die = die && k.part = part && !k.home && mine k.line)) }
      else s
    let s := s.mapPart part (fun p => { p with bcasts := (p.bcasts.map (fun (x : Bcast) =>
      if x.no = b.no then { x with waiting := x.waiting.filter (· ≠ core) } else x)).filter (fun x => !x.waiting.isEmpty) })
    some (s.sealsDone part)
/-- ARENA_BROADCAST_APPLY. -/
def execArenaBroadcastApply (core : Nat) (s : State) := event s (evArenaBroadcastApply core s)

/-! ## Drains (R84, R87) -/

/-- A tile task or a rick operation accesses an arena under a generation (R77). -/
def Task.carries (t : Task) (aid gen : Nat) : Bool := t.gens.find aid == some gen
/-- A copy does: where its global side begins, after its core's remap filter (R98). -/
def State.copyCarries (s : State) (c : Copy) (aid gen : Nat) : Bool :=
  (!c.sls && c.kind ≠ ckFill && s.arenaAt c.core c.src = aid && c.sgen = gen)
    || (!c.dls && s.arenaAt c.core c.dst = aid && c.dgen = gen)
/-- Something on its way carries a generation of an arena: requests, stores in combining buffers, and the copies, tile tasks and rick operations of the teams on the
cores and of the saved ones (R84, R87). -/
def State.carried (s : State) (part aid gen : Nat) : Bool :=
  let here (q : Nat) : Bool := s.partOf (q / 16) = part
  s.reqs.any (fun r => r.part = part && arenaOf r.va = aid && r.gen = gen && r.op ≠ .fetch)
    || (s.tableCores part).any (fun c => (s.core c).wc.any (fun b => lineArena b.line = aid && b.gen = gen))
    || s.quads.any (fun q => here q.1
        && (q.2.copies.any (fun c => s.copyCarries c aid gen) || q.2.tasks.any (fun t => t.carries aid gen)))
    || s.saved.any (fun v => v.tasks.any (fun e => here e.1 && e.2.carries aid gen)
        || v.copies.any (fun e => here e.1 && s.copyCarries e.2 aid gen))

/-- The watermark of a drain has passed: every core has applied its broadcast, and nothing carries its generation (R87). -/
def State.watermark (s : State) (part : Nat) (d : Drain) : Bool :=
  !(s.part part).bcasts.any (fun b => b.no ≤ d.bno) && !s.carried part d.aid d.gen

/-- The drains of one drop: of its id and of every descendant, under one future (R88). -/
def Part.dropDrains (p : Part) (d : Drain) : List Drain := p.drains.filter (fun x => !x.isSeal && x.futs = d.futs)

/-- DRAIN_WATERMARK: once the watermark of the whole drop has passed, its ids become FREE and its future resolves (R87, R88); a seal
writes every dirty byte back (R84). -/
def evDrainWatermark (part aid : Nat) (s : State) : Option State :=
  match (s.part part).drains.find? (fun d => d.aid = aid && d.stage = 0) with
  | none => none
  | some d =>
    let ds := if d.isSeal then [d] else (s.part part).dropDrains d
    if !ds.all (s.watermark part) then none
    else if d.isSeal then
      let s := (s.tableCores part).foldl (fun s c => s.publishLines c (fun line => lineArena line == aid)) s
      some (s.mapPart part (fun p => { p with drains := p.drains.map (fun (x : Drain) =>
        if x = d then { x with stage := 1 } else x) }))
    else
      let s := s.mapPart part (fun p => { p with drains := p.drains.filter (fun x => !ds.contains x) })
      let s := ds.foldl (fun s x => s.commit part x.aid { (s.part part).arena x.aid with state := Arn.free }) s
      some (d.futs.foldl (fun s f => s.resolve0 (some f) Status.done 0) s)
/-- DRAIN_WATERMARK. -/
def execDrainWatermark (part aid : Nat) (s : State) := event s (evDrainWatermark part aid s)

/-- SEAL_COMPLETE: the write-backs have performed; SEALED is set and broadcast (R84). -/
def evSealComplete (part aid : Nat) (s : State) : Option State :=
  match (s.part part).drains.find? (fun d => d.aid = aid && d.isSeal && d.stage = 1) with
  | none => none
  | some d =>
    if s.carried part aid d.gen then none
    else
      let s := s.commit part aid { (s.part part).arena aid with state := Arn.sealed, sealp := false }
      some (s.mapPart part (fun p => { p with drains := p.drains.map (fun (x : Drain) =>
        if x = d then { x with stage := 2, bno := p.bno } else x) }))
/-- SEAL_COMPLETE. -/
def execSealComplete (part aid : Nat) (s : State) := event s (evSealComplete part aid s)

/-! ## The ash sweep and zero-fill -/

/-- The generation is its arena's current one. -/
def Part.currentGen (p : Part) (line gen : Nat) : Bool := (p.arena (lineArena line)).gen == gen

/-- ASH_SWEEP_PASS: every line of an old generation is invalidated on every die, and the counts of the drops that the pass covers
fall (R89). -/
def evAshSweepPass (part : Nat) (s : State) : Option State :=
  let p := s.part part
  if !p.arenas.any (fun e => e.2.sweeps ≠ 0) then none
  else
    let s := (s.partCores part).foldl (fun s c =>
      s.mapCore c (fun y => { y with l1 := y.l1.filter (fun l => p.currentGen l.line l.gen) })) s
    let s := { s with llc := s.llc.filter (fun l => l.part ≠ part || p.currentGen l.line l.gen) }
    some (s.mapPart part (fun p => { p with arenas := p.arenas.map (fun e => (e.1, { e.2 with sweeps := 0 })) }))
/-- ASH_SWEEP_PASS. -/
def execAshSweepPass (part : Nat) (s : State) := event s (evAshSweepPass part s)

/-- ZERO_FILL_PAGE_DONE: the lines of a 4 KiB page that nothing has written are zeroed (R83). -/
def evZeroFillPageDone (part page : Nat) (s : State) : Option State :=
  let p := s.part part
  let va := page * 4096
  if !(p.arena (arenaOf va)).zf || p.zfPages.contains page then none
  else
    match s.walkVa part va with
    | none => none
    | some e =>
      let mem := (List.range 32).foldl (fun m i =>
        if p.zfLines.contains (page * 32 + i) then m
        else maskWrite m (leafPa e (va + 128 * i)) (BitVec.allOnes 128) 0) s.mem
      some ({ s with mem := mem }.mapPart part (fun p =>
        { p with zfPages := page :: p.zfPages, zfLines := p.zfLines.filter (fun l => l / 32 ≠ page) }))
/-- ZERO_FILL_PAGE_DONE. -/
def execZeroFillPageDone (part page : Nat) (s : State) := event s (evZeroFillPageDone part page s)

end Sys2Proof.Machine
end

