-- ==== Sys2Proof/Machine/Tree.lean ====
section
/-! DEFINITION. The change tree (R123 to R133): nodes, enrollments, roll-up and settles, and the instructions that use them. -/

namespace Sys2Proof.Machine

/-! ## Nodes (R123) -/

/-- A node; node 0 is always there (R123). -/
def Part.node? (p : Part) (id : Nat) : Option Node :=
  match p.nodes.find id with
  | some n => some n
  | none => if id = 0 then some { count := 0, parent := 0 } else none
/-- A node is allocated. -/
def Part.hasNode (p : Part) (id : Nat) : Bool := (p.node? id).isSome
/-- A node and its ancestors up to the root; at most 17 stand above one another (R123). -/
def nodeChain (p : Part) : Nat → Nat → List Nat
  | 0, _ => []
  | k + 1, id => if id = 0 then [0] else id :: nodeChain p k ((p.node? id).elim 0 (·.parent))
/-- A node's chain. -/
def Part.nodeChain (p : Part) (id : Nat) : List Nat := Machine.nodeChain p 18 id
/-- Levels of a node below the root (R123). -/
def Part.nodeDepth (p : Part) (id : Nat) : Nat := (p.nodeChain id).length - 1
/-- Add to the counts of nodes (R123, R126). -/
def Part.addCounts (p : Part) (ids : List Nat) (n : Nat) : Part :=
  { p with nodes := ids.foldl (fun m i =>
      let x := (p.node? i).getD { count := 0, parent := 0 }
      m.put i { x with count := x.count + BitVec.ofNat 48 n }) p.nodes }

/-- A node's entry (R123). -/
def Node.word (n : Node) : Nat := 2 ^ 16 * n.count.toNat + n.parent % 2 ^ 16

/-! ## Requests to the agent (R129, R131, R133) -/

/-- Operations of a request to the change-tree agent. -/
def tNew : Nat := 0
def tPar : Nat := 1
def tDel : Nat := 2
def tRd : Nat := 3

/-- A status value (R131). -/
def treeStatus (code id : Nat) : Nat := 2 ^ 16 * code + id % 2 ^ 16

/-- c.ctnew at the agent (R131). DESIGN CHOICE (log 117): a request for any id gets the lowest free one. -/
def Part.treeNew (p : Part) (parent id : Nat) : Nat × Part :=
  if parent = 65535 || !p.hasNode parent then (treeStatus 3 id, p)
  else if 16 ≤ p.nodeDepth parent then (treeStatus 3 id, p)
  else if id = 65535 || (id ≠ 0 && p.hasNode id) then (treeStatus 1 id, p)
  else
    let got := if id ≠ 0 then some id else ((List.range 65534).find? (fun i => !p.hasNode (i + 1))).map (· + 1)
    match got with
    | none => (treeStatus 2 id, p)
    | some i => (treeStatus 0 i, { p with nodes := p.nodes.put i { count := 0, parent := parent } })

/-- Levels that the subtree of a node reaches below it. -/
def Part.height (p : Part) (id : Nat) : Nat :=
  (p.nodes.map (fun e => let c := p.nodeChain e.1; if c.contains id then (c.takeWhile (· ≠ id)).length else 0)).foldl max 0

/-- c.ctpar at the agent (R129, R131). -/
def Part.treePar (p : Part) (id parent : Nat) : Nat × Part :=
  if id = 0 || id = 65535 || !p.hasNode id then (treeStatus 5 id, p)
  else if parent = 65535 || !p.hasNode parent then (treeStatus 3 id, p)
  else if (p.nodeChain parent).contains id then (treeStatus 4 id, p)
  else if 16 < p.nodeDepth parent + 1 + p.height id then (treeStatus 3 id, p)
  else
    let old := (p.node? id).elim 0 (·.parent)
    let ids := (p.nodeChain old ++ p.nodeChain parent).eraseDups
    let p' := p.addCounts ids 1
    let n := (p'.node? id).getD { count := 0, parent := 0 }
    (treeStatus 0 id, { p' with nodes := p'.nodes.put id { n with parent := parent } })

/-- An enrollment names a node. -/
def Enroll.names (e : Enroll) (id : Nat) : Bool :=
  if e.consec then decide (e.node ≤ id) && decide (id < e.node + e.blocks) else e.node == id

/-- c.ctdel at the agent (R131). -/
def Part.treeDel (p : Part) (id : Nat) : Nat × Part :=
  if id = 0 || id = 65535 || !p.hasNode id then (treeStatus 5 id, p)
  else if p.nodes.any (fun e => e.1 ≠ 0 && e.2.parent = id) || p.enrolls.any (fun e => e.names id) then (treeStatus 4 id, p)
  else (treeStatus 0 id, { p with nodes := p.nodes.del id })

/-- c.ctrd at the agent (R133). -/
def Part.treeRead (p : Part) (id : Nat) : Nat :=
  if id = 65535 then 2 ^ 64 - 1 else (p.node? id).elim (2 ^ 64 - 1) Node.word

/-- CHANGE_TREE_AGENT_REQUEST: one step between deltas; the requests of one agent are taken in order (R126, R129). -/
def evChangeTreeAgentRequest (part id : Nat) (s : State) : Option State :=
  let p := s.part part
  match p.treeQ.find? (fun r => r.id = id) with
  | none => none
  | some r =>
    if (p.treeQ.takeWhile (fun x => x.id ≠ id)).any (fun x => x.agent = r.agent) then none
    else
      let (v, p') := if r.op = tNew then p.treeNew r.x r.y
        else if r.op = tPar then p.treePar r.x r.y
        else if r.op = tDel then p.treeDel r.x
        else (p.treeRead r.x, p)
      let s := s.mapPart part (fun _ => { p' with treeQ := p.treeQ.filter (fun x => x.id ≠ id) })
      some (s.giveResult r.agent r.pend v none)
/-- CHANGE_TREE_AGENT_REQUEST. -/
def execChangeTreeAgentRequest (part id : Nat) (s : State) := event s (evChangeTreeAgentRequest part id s)

/-- A request to the agent with a result in EC (R130). -/
def treeOp (h : Hdr) (len op : Nat) (d a : RegNo) (rd : List Use) (s : State) (y : Iss → Nat) :
    Host.Outcome State Fault Refusal :=
  issue .wave h len { rd := .s a :: rd, wr := [.s d] } s (fun is s => do
    is.room .ec
    let (id, s) := s.fresh
    let s := s.addPend is.a (Pend.awaiting id .ec is [.s d.toNat] [])
    let r : TreeReq := { id := id, agent := is.a, op := op, x := bits (is.s a).toNat 0 16, y := y is, pend := id }
    pure (s.mapPart (s.agentPart is.a) (fun p => { p with treeQ := p.treeQ ++ [r] })))

/-- c.ctnew (R131). -/
def execCCtnew (h : Hdr) (d a : RegNo) (id : BitVec 16) (s : State) := treeOp h 12 tNew d a [] s (fun _ => id.toNat)
/-- c.ctpar (R129, R131). -/
def execCCtpar (h : Hdr) (d a b : RegNo) (s : State) := treeOp h 8 tPar d a [.s b] s (fun is => bits (is.s b).toNat 0 16)
/-- c.ctrd (R133). -/
def execCCtrd (h : Hdr) (d a : RegNo) (s : State) := treeOp h 8 tRd d a [] s (fun _ => 0)
/-- c.ctdel (R131). -/
def execCCtdel (h : Hdr) (d a : RegNo) (s : State) := treeOp h 8 tDel d a [] s (fun _ => 0)

/-! ## Roll-up and settles (R126, R127) -/

/-- c.settle: a marker in every slice's roll-up queue, after every acquire that the wave issued before (R127). -/
def execCSettle (h : Hdr) (d a : RegNo) (s : State) :=
  issue .wave h 8 { rd := [.s a], wr := [.s d] } s (fun is s => do
    is.memReady s
    let part := s.agentPart is.a
    let node := bits (is.s a).toNat 0 16
    let ok := node ≠ 65535 && (s.part part).hasNode node
    let (id, s) := s.fresh
    let (s, q, k) ← s.takeFut is d Kind.tree 3 id
    let slices := (s.liveDies part).flatMap (fun e => (List.range 16).map (16 * e + ·))
    let st : Settle := { id := id, left := slices.length, status := if ok then Status.done else Status.empty, fut := some (q, k) }
    pure (s.mapPart part (fun p =>
      { p with settles := p.settles ++ [st]
               rolls := slices.foldl (fun m i => m.put i (((m.find i).getD []) ++ [.marker id])) p.rolls })))

/-- A bump of a node that an enrollment names still stands in a queue (R132). -/
def Part.queuedFor (p : Part) (e : Enroll) : Bool :=
  p.rolls.any (fun q => q.2.any (fun x => match x with | .bump n _ => e.names n | .marker _ => false))

/-- Withdrawals that every die has applied, and whose queued bumps are applied, end (R132). -/
def State.withdrawn (s : State) (part : Nat) : State :=
  let p := s.part part
  let ready := p.enrolls.filter (fun e => e.removing && e.waiting.isEmpty && !p.queuedFor e)
  let s := s.mapPart part (fun p => { p with enrolls := p.enrolls.filter (fun e => !ready.contains e) })
  ready.foldl (fun s e => s.resolve0 e.fut Status.done 0) s

/-- A settle's marker passes the agent; the last one resolves it (R127). -/
def State.passMarker (s : State) (part id : Nat) : State :=
  match (s.part part).settles.find? (fun x => x.id = id) with
  | none => s
  | some x =>
    if x.left ≤ 1 then
      (s.mapPart part (fun p => { p with settles := p.settles.filter (fun y => y.id ≠ id) })).resolve0 x.fut x.status 0
    else s.mapPart part (fun p => { p with settles := p.settles.map (fun (y : Settle) =>
      if y.id = id then { y with left := y.left - 1 } else y) })

/-- ROLL_UP_DELTA_APPLY: the head of a slice's queue is applied (R126, R127). -/
def evRollUpDeltaApply (part slice : Nat) (s : State) : Option State :=
  match (s.part part).rolls.find slice with
  | none => none
  | some [] => none
  | some (x :: xs) =>
    let s := s.mapPart part (fun p => { p with rolls := if xs.isEmpty then p.rolls.del slice else p.rolls.put slice xs })
    match x with
    | .marker id => some (s.passMarker part id)
    | .bump n k =>
      let s := s.mapPart part (fun p => if p.hasNode n then p.addCounts (p.nodeChain n) k else p)
      some (s.withdrawn part)
/-- ROLL_UP_DELTA_APPLY. -/
def execRollUpDeltaApply (part slice : Nat) (s : State) := event s (evRollUpDeltaApply part slice s)

/-! ## Enrollment (R124, R132) -/

/-- The range of a c.ctenr, its base and every piece of it where the remap filter places it (R98), or its fault (R132). -/
def Iss.enrollRange (is : Iss) (s : State) (a b : RegNo) : Res (Nat × Nat × List (Nat × Nat × Nat)) := do
  let va := vaOf (is.s a)
  let n := (is.s b).toNat
  require (va % 65536 = 0 && n ≠ 0 && n % 65536 = 0 && offOf va + n ≤ 2 ^ 44) (is.fault Code.align va is.p)
  let base := canonical (s.core (coreOf is.a)).filters va
  require (base % 65536 = 0 && offOf base + n ≤ 2 ^ 44) (is.fault Code.align va is.p)
  let ps := canonPieces (s.core (coreOf is.a)).filters va n
  let ats := ps.map (fun e => (arenaOf e.1, s.attr (coreOf is.a) (arenaOf e.1)))
  require (ats.all (fun e => (checkAttr e.1 e.2 false false).isNone)) (is.fault Code.arenaDead va is.p)
  require (ats.all (fun e => e.2.typ = Arn.typN)) (is.fault Code.prot va is.p)
  pure (base, n / 65536, ps)

/-- An enrollment's range and another, in pieces, share an address. -/
def Enroll.meets (e : Enroll) (ps : List (Nat × Nat × Nat)) : Bool :=
  e.parts.any (fun x => ps.any (fun y => decide (x.1 < y.1 + y.2.1) && decide (y.1 < x.1 + x.2.1)))

/-- c.ctenr (R132). -/
def execCCtenr (h : Hdr) (sub : BitVec 2) (d a b : RegNo) (node : BitVec 16) (s : State) :=
  issue .wave h 16 { rd := [.s a, .s b], wr := [.s d] } s (fun is s => do
    let (base, k, ps) ← is.enrollRange s a b
    let part := s.agentPart is.a
    let p := s.part part
    let n := node.toNat
    let nodes := if sub = 1 then (List.range k).map (n + ·) else [n]
    if nodes.any (fun i => i = 0 || 65535 ≤ i || !p.hasNode i) then s.instantFut is d Kind.tree 3 Status.empty 0
    else if p.enrolls.any (fun e => e.meets ps) then s.instantFut is d Kind.tree 3 Status.busy 0
    else if 8192 ≤ p.enrolls.length then s.instantFut is d Kind.tree 3 Status.full 0
    else
      let (id, s) := s.fresh
      let (s, q, f) ← s.takeFut is d Kind.tree 3 id
      let e : Enroll := { id := id, base := base, blocks := k, parts := ps, node := n, consec := sub == 1, waiting := s.liveDies part,
                          removing := false, fut := some (q, f) }
      pure (s.mapPart part (fun p => { p with enrolls := p.enrolls ++ [e] })))

/-- c.ctenr.sub=withdraw: of an enrollment that is in effect (R124, R132). -/
def execCCtenrWithdraw (h : Hdr) (d a b : RegNo) (s : State) :=
  issue .wave h 16 { rd := [.s a, .s b], wr := [.s d] } s (fun is s => do
    let (base, k, _) ← is.enrollRange s a b
    let part := s.agentPart is.a
    match (s.part part).enrolls.find? (fun e => e.base = base && e.blocks = k && !e.removing && e.waiting.isEmpty) with
    | none => s.instantFut is d Kind.tree 3 Status.empty 0
    | some e =>
      let (s, q, f) ← s.takeFut is d Kind.tree 3 e.id
      let dies := s.liveDies part
      pure (s.mapPart part (fun p => { p with enrolls := p.enrolls.map (fun (x : Enroll) =>
        if x.id = e.id then { x with removing := true, waiting := dies, fut := some (q, f) } else x) })))

/-- ENROLLMENT_APPLIED: a die applies the earliest change that it has not applied (R132). -/
def evEnrollmentApplied (part die : Nat) (s : State) : Option State :=
  match (s.part part).enrolls.find? (fun e => e.waiting.contains die) with
  | none => none
  | some e =>
    let w := e.waiting.filter (· ≠ die)
    let s := s.mapPart part (fun p => { p with enrolls := p.enrolls.map (fun (x : Enroll) =>
      if x.id = e.id then { x with waiting := w } else x) })
    if !w.isEmpty then some s
    else if e.removing then some (s.withdrawn part)
    else some (s.resolve0 e.fut Status.done 0)
/-- ENROLLMENT_APPLIED. -/
def execEnrollmentApplied (part die : Nat) (s : State) := event s (evEnrollmentApplied part die s)

end Sys2Proof.Machine
end

