-- ==== Sys2Proof/Machine/Priv.lean ====
section
/-! DEFINITION. Privileged registers (R398, R400), the privileged memory instructions (R103 to R105), remap-filter changes,
invalidations of translation caches and region rewrites (R102). -/

namespace Sys2Proof.Machine

/-! ## Privileged registers (R398) -/

/-- A privileged register as it reads (R398). -/
def State.readPr (s : State) (a : Agent) (code : Nat) : W64 :=
  let d := s.die (dieOf a)
  let n := s.agentPart a
  let p := s.part n
  match code with
  | 0x00 => BitVec.ofNat 64 (2 ^ 24 * (n % 256) + p.live.toNat)
  | 0x01 => p.arenatab
  | 0x02 => p.regiontab
  | 0x03 => p.ptbase
  | 0x04 => d.faultq
  | 0x05 => d.fqprod
  | 0x06 => d.fqcons.zeroExtend 64
  | 0x07 => d.window
  | 0x08 => p.rootpc
  | 0x09 => d.bootrec
  | c => if 0x10 ≤ c && c ≤ 0x17 then AMap.get 0 d.bkpt (c - 0x10) else 0

/-- A write of pr.FAULTQ: discarded with LOG2N outside 4 to 12 or an unaligned BASE; else held episode records are posted (R391,
R398). -/
def State.writeFaultq (s : State) (die : Nat) (v : W64) : State :=
  let n := bits v.toNat 32 4
  if 4 ≤ n && n ≤ 12 && bits v.toNat 0 5 = 0 then
    (s.mapDie die (fun d => { d with faultq := BitVec.ofNat 64 (bits v.toNat 0 36) })).flushEpisodes die
  else s
/-- A write of pr.FQCONS: ring space returns, and held episode records are posted (R391). -/
def State.writeFqcons (s : State) (die : Nat) (v : W64) : State :=
  (s.mapDie die (fun d => { d with fqcons := v.extractLsb' 0 32 })).flushEpisodes die

/-- Registers that only a hearth core's wave may write (R397). -/
def prHearth (code : Nat) : Bool := code = 4 || code = 6 || code = 7 || (decide (0x10 ≤ code) && decide (code ≤ 0x17))

/-- Write the defined bits of a register; writes to r registers, and to rs registers once BOOTREC reports the partition ready or
from elsewhere than a hearth, are discarded (R398). -/
def State.writePr (s : State) (a : Agent) (code : Nat) (v : W64) : State :=
  let die := dieOf a
  let setup := isHearth a && !(s.die die).bootrec.getLsbD 0
  let rs (f : Part → Part) : State := if setup then s.mapPart (s.agentPart a) f else s
  let m53 := BitVec.ofNat 64 (bits v.toNat 0 53)
  match code with
  | 0x01 => rs (fun p => { p with arenatab := m53 })
  | 0x02 => rs (fun p => { p with regiontab := m53 })
  | 0x03 => rs (fun p => { p with ptbase := m53 })
  | 0x04 => s.writeFaultq die v
  | 0x06 => s.writeFqcons die v
  | 0x07 => s.mapDie die (fun d => { d with window := BitVec.ofNat 64 (bits v.toNat 0 16) })
  | 0x08 => rs (fun p => { p with rootpc := pcBits v })
  | 0x09 => s.mapDie die (fun d => { d with bootrec := v &&& 0x00FFFFFFFFFFFF07 })
  | c =>
    if 0x10 ≤ c && c ≤ 0x17 then
      s.mapDie die (fun d => { d with bkpt := AMap.set 0 d.bkpt (c - 0x10) (v &&& 0x00FFFFFFFFFFFFFD) })
    else s

/-- y.rdpr (R400). -/
def execYRdpr (h : Hdr) (d a : RegNo) (s : State) :=
  issue .priv h 8 { rd := [], wr := [.s d] } s (fun is s => pure (s.wrS is d (s.readPr is.a a.toNat)))
/-- y.wrpr (R397, R400). -/
def execYWrpr (h : Hdr) (d a : RegNo) (s : State) :=
  issue .priv h 8 { rd := [.s a], wr := [] } s (fun is s => do
    require (isHearth is.a || !prHearth d.toNat) (is.fault0 Code.priv)
    pure (s.writePr is.a d.toNat (is.s a)))

/-- PR_FAULTQ_WRITE (R391). -/
def evPrFaultqWrite (die : Nat) (v : W64) (s : State) : Option State :=
  if (s.die die).live && die < 24 then some (s.writeFaultq die v) else none
/-- PR_FAULTQ_WRITE. -/
def execPrFaultqWrite (die : Nat) (v : BitVec 64) (s : State) := event s (evPrFaultqWrite die v s)
/-- PR_FQCONS_WRITE (R391). -/
def evPrFqconsWrite (die : Nat) (v : W64) (s : State) : Option State :=
  if (s.die die).live && die < 24 then some (s.writeFqcons die v) else none
/-- PR_FQCONS_WRITE. -/
def execPrFqconsWrite (die : Nat) (v : BitVec 64) (s : State) := event s (evPrFqconsWrite die v s)

/-! ## Held requests (R96) -/

/-- The episodes of a partition that hold a page of a range. -/
def State.covered (s : State) (part lo hi : Nat) : List Episode :=
  s.episodes.filter (fun e => e.part = part && e.bytes ≠ 0 && decide (lo ≤ e.page) && decide (e.page + e.bytes ≤ hi))
/-- An address that is held by one of some episodes. -/
def heldBy (es : List Episode) (part : Nat) (held : Option Nat) : Bool :=
  match held with
  | none => false
  | some va => es.any (fun e => e.part = part && decide (e.page ≤ va) && decide (va < e.page + e.bytes))

/-- What a copy or a task that an episode holds becomes at its end: it fails with a code, or is to be translated again (R96, R97, R105). -/
def Copy.letGo (c : Copy) (es : List Episode) (part : Nat) (code : Option Nat) : Copy :=
  if heldBy es part c.held then
    { c with held := none, again := code.isNone, fail := match code with | some x => some x | none => c.fail }
  else c
def Task.letGo (t : Task) (es : List Episode) (part : Nat) (code : Option Nat) : Task :=
  if heldBy es part t.held then
    { t with held := none, again := code.isNone, fail := match code with | some x => some x | none => t.fail }
  else t

/-- End episodes: what they hold is let go, the work of saved teams too, and with a code it fails (R96, R97, R168). -/
def State.endEpisodes (s : State) (es : List Episode) (code : Option Nat) : State :=
  let rs := s.reqs.filter (fun r => heldBy es r.part r.held)
  let at' (q : Nat) : Nat := s.partOf (q / 16)
  let s := { s with
    episodes := s.episodes.filter (fun e => !es.contains e)
    reqs := s.reqs.map (fun (r : Req) => if heldBy es r.part r.held then { r with held := none } else r)
    quads := s.quads.map (fun (e : Nat × Quad) => (e.1, { e.2 with
      copies := e.2.copies.map (fun c => c.letGo es (at' e.1) code)
      tasks := e.2.tasks.map (fun t => t.letGo es (at' e.1) code) }))
    saved := s.saved.map (fun (v : Saved) => { v with
      copies := v.copies.map (fun e => (e.1, e.2.letGo es (at' e.1) code))
      tasks := v.tasks.map (fun e => (e.1, e.2.letGo es (at' e.1) code)) }) }
  match code with
  | none => s
  | some x => rs.foldl (fun s r => s.failReq { r with held := none } x (r.held.getD r.va)) s

/-! ## The table's entries (R93, R94, R103, R104) -/

/-- Where a walk of an address ends: the level of the first entry that is no valid pointer, the table's base there, and the
address of the last pointer on the way. -/
structure Reach where
  level : Nat
  base : Nat
  last : Option Nat
  deriving DecidableEq, Repr

/-- The descent of an address through valid pointers (R93). -/
def reach (p : Part) (m : Memory) (va : Nat) : List Level → Nat → Nat → Option Nat → Reach
  | [], k, base, last => { level := k, base := base, last := last }
  | l :: ls, k, base, last =>
    let idx := bits va l.lo l.width
    let f := entryFrame (readEntry m (base + 8 * idx))
    if pointerAt m ls.isEmpty base idx && !p.foreign f then reach p m va ls (k + 1) f (some (base + 8 * idx))
    else { level := k, base := base, last := last }

/-- The physical addresses of the entries of an address at a level, n of them in an aligned run (R93). -/
def entryRun (level base va n : Nat) : List Nat :=
  match levels[level]? with
  | none => []
  | some l => let idx := bits va l.lo l.width; (List.range n).map (fun k => base + 8 * (idx - idx % n + k))

/-- log2 of the bytes that one entry of a level spans. -/
def spanBits (level : Nat) : Nat := (levels[level]?).elim 12 (·.lo)

/-- A frame that a partition may use: in host memory, on another module of the pod, or on a live die of its own (R94, R445). -/
def Part.frameOk (p : Part) (pa : Nat) : Bool := pa.testBit 52 || bits pa 42 10 ≠ 0 || p.live.getLsbD (bits pa 37 5)

/-- What a region entry holds of the n bytes from an address on has the frame's unit as its home (R101). -/
def Region.homes (r : Region) (va n pa : Nat) : Bool :=
  let lo := max va r.base
  let hi := min (va + n) (r.base + r.len)
  let hm := r.home lo
  let here := if hm.host then pa.testBit 52 else !pa.testBit 52 && hm.unit = bits pa 37 5 + 32 * bits pa 42 10
  let one := r.kind = 2 || (r.kind = 0 && (onesBelow r.dies.toNat 24).length ≤ 1) || (r.kind = 1 && r.mcount = 1)
  r.kind = 3 || hi ≤ lo || (here && (one || (lo - r.base) / 2 ^ (12 + r.gran) = (hi - 1 - r.base) / 2 ^ (12 + r.gran)))

/-- The whole page has the frame's unit as its home, wherever region entries hold it (R101, R104). DESIGN CHOICE (log 118): an address in no
region entry has no home that a frame could miss, and its page may stand on any frame that the partition may use. -/
def State.frameHome (s : State) (part va n pa : Nat) : Bool :=
  (s.part part).frameOk pa && (s.part part).regions.all (fun e => e.2.homes va n pa)

/-- The SIZE codes that are legal at a level (R93, R94). -/
def sizeAt (level size : Nat) : Bool :=
  if size = 15 then decide (level < 3) else decide (size < 7) && levelOf size == level

/-- The entry of an address itself at a level. -/
def ownEntry (m : Memory) (level base va : Nat) : Nat := readEntry m ((entryRun level base va 1).headD 0)

/-- The entries of an address at a level, n of them in an aligned run, that a walk takes as valid: a leaf or a pointer (R94). -/
def validRun (p : Part) (m : Memory) (level base va n : Nat) : List Bool :=
  match levels[level]? with
  | none => []
  | some l =>
    let idx := bits va l.lo l.width
    (List.range n).map (fun k =>
      let i := idx - idx % n + k
      !p.foreign (entryFrame (readEntry m (base + 8 * i))) && (leafAt m l base i || pointerAt m (level == 3) base i))
/-- The entry of an address itself is valid. -/
def ownValid (p : Part) (m : Memory) (level base va : Nat) : Bool := (validRun p m level base va 1).any id

/-- A y.map's future: DONE at once where it lets nothing go, else once that has been translated again (R105). -/
def State.mapFut (s : State) (is : Iss) (d : RegNo) (part : Nat) (let_ : List Nat) : Res State := do
  if let_.isEmpty then s.instantFut is d Kind.priv 3 Status.done 0
  else
    let (id, s) := s.fresh
    let (s, q, k) ← s.takeFut is d Kind.priv 3 id
    pure (s.mapPart part (fun p => { p with maps := p.maps ++ [{ id := id, reqs := let_, fut := some (q, k) }] }))

/-- What some episodes hold: requests, and the copies, tasks and rick operations of the quads. DESIGN CHOICE (log 157): not the work of saved teams,
which is translated again only once its team is restored. -/
def State.heldReqs (s : State) (es : List Episode) : List Nat :=
  let at' (q : Nat) (h : Option Nat) : Bool := heldBy es (s.partOf (q / 16)) h
  (s.reqs.filter (fun r => heldBy es r.part r.held)).map (·.id)
    ++ s.quads.flatMap (fun e => (e.2.copies.filter (fun c => at' e.1 c.held)).map (·.id)
      ++ (e.2.tasks.filter (fun t => at' e.1 t.held)).map (·.id))

/-- y.map of a leaf or a pointer (R103 to R105). DESIGN CHOICE (log 119): R103 gives a pointer no page size; the VA of one is asked to be a
multiple of 4 KiB. -/
def execYMap (h : Hdr) (d a b : RegNo) (size : BitVec 4) (w als : Bool) (s : State) :=
  issue .priv h 16 { rd := [.s a, .s b], wr := [.s d] } s (fun is s => do
    let sz := size.toNat
    require (sz < 7 || sz = 15) (is.fault0 Code.iil)
    let va := vaOf (is.s a)
    let pa := (is.s b).toNat % 2 ^ 53
    let pb := if sz = 15 then 12 else pageBits sz
    require (va % 2 ^ pb = 0 && pa % 2 ^ pb = 0) (is.fault Code.align va is.p)
    let part := s.agentPart is.a
    let p := s.part part
    let r := reach p s.mem va levels 0 p.ptbase.toNat none
    let n := if sz = 15 then 1 else replicas sz
    let run := entryRun r.level r.base va n
    let taken := (validRun p s.mem r.level r.base va n).any id
    if sz ≠ 15 && r.level < levelOf sz && !ownValid p s.mem r.level r.base va then s.instantFut is d Kind.priv 3 Status.empty 0
    else
      require (sizeAt r.level sz) (is.fault0 Code.iil)
      if taken || !(if sz = 15 then p.frameOk pa else s.frameHome part va (2 ^ pb) pa) then s.instantFut is d Kind.priv 3 Status.busy 0
      else
        let e := 2 ^ 60 * sz + pa / 4096 * 4096 + 4 * b2n als + 2 * b2n w + 1
        let s := { s with mem := run.foldl (fun m x => m.write x (leBytes 8 e)) s.mem }
        let sb := if sz = 15 then spanBits r.level else pb
        let lo := va - va % 2 ^ sb
        let es := s.covered part lo (lo + 2 ^ sb)
        (s.endEpisodes es none).mapFut is d part (s.heldReqs es))

/-- A change on its way to translation caches, with the future that it resolves. -/
def State.sendInval (s : State) (is : Iss) (d : RegNo) (lo len : Nat) : Res State := do
  let (id, s) := s.fresh
  let (s, q, k) ← s.takeFut is d Kind.priv 3 id
  let r : InvalReq := { id := id, lo := lo, len := len, fut := some (q, k) }
  pure (s.mapPart (s.agentPart is.a) (fun p => { p with invalQ := p.invalQ ++ [r] }))

/-- y.unmap of a leaf, or with SIZE 15 of the last pointer on the way (R103 to R105). DESIGN CHOICE (log 120): where a valid leaf of another
SIZE of the level maps the address, there is no entry of the named SIZE: EMPTY. -/
def execYUnmap (h : Hdr) (d a : RegNo) (size : BitVec 4) (s : State) :=
  issue .priv h 16 { rd := [.s a], wr := [.s d] } s (fun is s => do
    let sz := size.toNat
    require (sz < 7 || sz = 15) (is.fault0 Code.iil)
    let va := vaOf (is.s a)
    let pb := if sz = 15 then 12 else pageBits sz
    require (va % 2 ^ pb = 0) (is.fault Code.align va is.p)
    let part := s.agentPart is.a
    let p := s.part part
    let r := reach p s.mem va levels 0 p.ptbase.toNat none
    if sz = 15 then
      match r.last with
      | none => s.instantFut is d Kind.priv 3 Status.empty 0
      | some x =>
        let sb := spanBits (r.level - 1)
        { s with mem := s.mem.write x (leBytes 8 0) }.sendInval is d (va - va % 2 ^ sb) (2 ^ sb)
    else
      let run := entryRun r.level r.base va (replicas sz)
      let e := ownEntry s.mem r.level r.base va
      if r.level ≤ levelOf sz && (!ownValid p s.mem r.level r.base va || (r.level = levelOf sz && entrySize e ≠ sz)) then
        s.instantFut is d Kind.priv 3 Status.empty 0
      else
        require (sizeAt r.level sz) (is.fault0 Code.iil)
        { s with mem := run.foldl (fun m x => m.write x (leBytes 8 0)) s.mem }.sendInval is d va (2 ^ pb))

/-- y.xinv.sub=inval (R103, R105). -/
def execYXinvInval (h : Hdr) (d a b : RegNo) (s : State) :=
  issue .priv h 16 { rd := [.s a, .s b], wr := [.s d] } s (fun is s => s.sendInval is d (vaOf (is.s a)) (is.s b).toNat)
/-- y.xinv.sub=replay (R96, R103). -/
def execYXinvReplay (h : Hdr) (d a b : RegNo) (s : State) :=
  issue .priv h 16 { rd := [.s a, .s b], wr := [.s d] } s (fun is s =>
    let va := vaOf (is.s a)
    (s.endEpisodes (s.covered (s.agentPart is.a) va (va + (is.s b).toNat)) none).instantFut is d Kind.priv 3 Status.done 0)
/-- y.xinv.sub=fail (R96, R97, R103). -/
def execYXinvFail (h : Hdr) (d a b : RegNo) (prot : Bool) (s : State) :=
  issue .priv h 16 { rd := [.s a, .s b], wr := [.s d] } s (fun is s =>
    let va := vaOf (is.s a)
    let code := if prot then Code.prot else Code.xlate
    (s.endEpisodes (s.covered (s.agentPart is.a) va (va + (is.s b).toNat)) (some code)).instantFut is d Kind.priv 3 Status.done 0)

/-- TRANSLATION_CACHE_INVALIDATION: no cache holds the entries, and every request translated under them has retired (R105). -/
def evTranslationCacheInvalidation (part id : Nat) (s : State) : Option State :=
  match (s.part part).invalQ.find? (fun r => r.id = id) with
  | none => none
  | some r =>
    let hit (t : TlbEnt) : Bool := t.part == part && decide (t.va < r.lo + r.len) && decide (r.lo < t.va + 2 ^ pageBits t.size)
    let dropped := s.dies.flatMap (fun e => e.2.tlb.filter hit)
    let under (va : Nat) : Bool := (decide (r.lo ≤ va) && decide (va < r.lo + r.len))
      || dropped.any (fun t => decide (t.va ≤ va) && decide (va < t.va + 2 ^ pageBits t.size))
    if s.reqs.any (fun x => x.part = part && x.back.isSome && under x.va) then none
    else
      let s := { s with dies := s.dies.map (fun (e : Nat × Die) => (e.1, { e.2 with tlb := e.2.tlb.filter (fun t => !hit t) })) }
      some ((s.mapPart part (fun p => { p with invalQ := p.invalQ.filter (fun x => x.id ≠ id) })).resolve0 r.fut Status.done 0)
/-- TRANSLATION_CACHE_INVALIDATION. -/
def execTranslationCacheInvalidation (part id : Nat) (s : State) := event s (evTranslationCacheInvalidation part id s)

/-! ## The remap filter (R98, R103 to R105) -/

/-- The filter entries that a core has or will have. -/
def State.filtersAhead (s : State) (core : Nat) : AMap Filter :=
  (s.part (s.corePart core)).filterQ.foldl (fun (m : AMap Filter) r =>
    match r.entry with | some f => m.put r.idx f | none => m.del r.idx) (s.core core).filters

/-- A filter change leaves for every core. -/
def State.sendFilter (s : State) (is : Iss) (d : RegNo) (idx : Nat) (entry : Option Filter) : Res State := do
  let part := s.agentPart is.a
  let (id, s) := s.fresh
  let (s, q, k) ← s.takeFut is d Kind.priv 3 id
  let r : FilterReq := { id := id, idx := idx, entry := entry, waiting := s.tableCores part, fut := some (q, k) }
  pure (s.mapPart part (fun p => { p with filterQ := p.filterQ ++ [r] }))

/-- y.map of a filter entry (R98, R103, R104). -/
def execYMapFilter (h : Hdr) (d a b : RegNo) (x0 : BitVec 32) (idx : BitVec 5) (s : State) :=
  issue .priv h 16 { rd := [.s a, .s b], wr := [.s d] } s (fun is s => do
    let al := vaOf (is.s a)
    let cn := vaOf (is.s b)
    require (al % 4096 = 0 && cn % 4096 = 0) (is.fault Code.align al is.p)
    require (x0 ≠ 0) (is.fault0 Code.iil)
    let f : Filter := { al := al / 4096, canon := cn / 4096, len := x0.toNat }
    let others := (s.filtersAhead (coreOf is.a)).filter (fun e => e.1 ≠ idx.toNat)
    if others.any (fun e => f.al < e.2.al + e.2.len && e.2.al < f.al + f.len) then s.instantFut is d Kind.priv 3 Status.busy 0
    else s.sendFilter is d idx.toNat (some f))

/-- y.unmap of a filter entry (R103, R104). -/
def execYUnmapFilter (h : Hdr) (d : RegNo) (idx : BitVec 5) (s : State) :=
  issue .priv h 16 { rd := [], wr := [.s d] } s (fun is s =>
    if ((s.filtersAhead (coreOf is.a)).find idx.toNat).isNone then s.instantFut is d Kind.priv 3 Status.empty 0
    else s.sendFilter is d idx.toNat none)

/-- The ranges of global memory that a task names, by row (R248, R255, R265). -/
def TaskOp.globalRows : TaskOp → List (Nat × Nat)
  | .mm _ ta tb _ tya tyb _ m n k a b sc =>
    let rows (o : Opnd) (nr bytes : Nat) : List (Nat × Nat) := match o with
      | .global va str => (List.range nr).map (fun i => (va + i * str, bytes))
      | _ => []
    let side (o : Opnd) (tr : Bool) (mn : Nat) (ty : Ty) : List (Nat × Nat) :=
      if tr then rows o k (mn * ty.bits / 8) else rows o mn (k * ty.bits / 8)
    side a ta m tya ++ side b (!tb) n tyb
      ++ (match sc with | some (x, y) => rows x m (ceilDiv k 32) ++ rows y n (ceilDiv k 32) | none => [])
  | .cvst _ dls tr t dst str cv _ _ =>
    let (nr, ne) := if tr then (cv.cols.toNat, cv.rows.toNat) else (cv.rows.toNat, cv.cols.toNat)
    if dls then [] else (List.range nr).map (fun i => (dst + i * str, ne * t.ty.bits / 8))
  | .rksave _ 0 addr _ _ _ | .rkrest _ 0 addr _ _ _ _ => [(addr, 160 + 16 * 65536)]
  | _ => []

/-- A range of addresses meets the alias pages of a filter entry. -/
def Filter.meets (f : Filter) (x : Nat × Nat) : Bool :=
  decide (x.1 % 2 ^ 56 < (f.al + f.len) * 4096) && decide (f.al * 4096 < x.1 % 2 ^ 56 + x.2)

/-- A copy's rows name alias pages of a filter entry. -/
def State.copyMeets (s : State) (f : Filter) (c : Copy) : Bool :=
  c.rows.any (fun i =>
    (!c.sls && c.kind ≠ ckFill && (s.srcRow c i).any (fun a => f.meets (a, c.rowbytes)))
    || (!c.dls && (s.dstRow c i).any (fun a => f.meets (a, c.rowbytes))))

/-- Engine work that is not complete names alias pages of a filter entry: what a core has posted, and what saved teams of its partition
have (R98, R105). -/
def State.usesAlias (s : State) (core : Nat) (f : Filter) : Bool :=
  let here (q : Nat) : Bool := s.partOf (q / 16) = s.corePart core
  s.quads.any (fun q =>
    q.2.tasks.any (fun t => coreOf t.agent = core && t.op.globalRows.any f.meets)
    || q.2.copies.any (fun c => c.core = core && s.copyMeets f c))
  || s.saved.any (fun v => v.tasks.any (fun e => here e.1 && e.2.op.globalRows.any f.meets)
    || v.copies.any (fun e => here e.1 && s.copyMeets f e.2))

/-- A line lies in the canonical pages of a filter entry. -/
def Filter.inCanon (f : Filter) (line : Nat) : Bool := decide (f.canon ≤ line / 32) && decide (line / 32 < f.canon + f.len)

/-- REMAP_FILTER_APPLY: a core applies the earliest change that it has not applied, a removal once its combining buffers hold nothing of the
entry's pages (it drains them) and no engine work of the core is left whose accesses the entry rewrites; and a removal ends once the
requests that it has rewritten have retired (R79, R105). -/
def evRemapFilterApply (core : Nat) (s : State) : Option State :=
  let part := s.corePart core
  match (s.part part).filterQ.find? (fun r => r.waiting.contains core) with
  | none => none
  | some r =>
    let last := r.waiting = [core]
    let busy := match r.entry, (s.core core).filters.find r.idx with
      | none, some f => s.usesAlias core f
          || (last && s.reqs.any (fun x => x.part = part && f.canon ≤ x.va / 4096 && x.va / 4096 < f.canon + f.len))
      | _, _ => false
    let wc := match r.entry, (s.core core).filters.find r.idx with
      | none, some f => (s.core core).wc.any (fun b => f.inCanon b.line)
      | _, _ => false
    if wc then some (s.drainWc core (fun line => ((s.core core).filters.find r.idx).any (·.inCanon line)))
    else if busy then none
    else
      let s := s.mapCore core (fun c => { c with filters := match r.entry with
        | some f => c.filters.put r.idx f
        | none => c.filters.del r.idx })
      if last then
        some ((s.mapPart part (fun p => { p with filterQ := p.filterQ.filter (fun x => x.id ≠ r.id) })).resolve0 r.fut Status.done 0)
      else
        some (s.mapPart part (fun p => { p with filterQ := p.filterQ.map (fun (x : FilterReq) =>
          if x.id = r.id then { x with waiting := x.waiting.filter (· ≠ core) } else x) }))
/-- REMAP_FILTER_APPLY. -/
def execRemapFilterApply (core : Nat) (s : State) := event s (evRemapFilterApply core s)

/-! ## Region rewrites (R100, R102 to R105) -/

/-- A region entry of 32 bytes, and whether its must-be-zero fields are zero (R100). -/
def regionOf (w ver : Nat) : Region × Bool :=
  ({ base := bits w 0 64, len := bits w 64 64, gran := bits w 128 4, kind := bits w 136 2, ver := ver,
     dies := BitVec.ofNat 24 (bits w 152 24), mfirst := bits w 176 10, mcount := bits w 186 10 },
   bits w 132 4 = 0 && bits w 138 6 = 0 && bits w 196 60 = 0)

/-- A new entry keeps R100, overlaps no other, and names no die outside the partition: for KIND 0 no die that is not live there (R100,
R104), and for KIND 1 no such die of this module (R445; log 121). DESIGN CHOICE (log 134): of an entry of KIND 3, unused, only BASE and the
must-be-zero fields are checked. -/
def Part.regionOk (p : Part) (idx : Nat) (r : Region) : Bool :=
  r.base % 2 ^ 21 = 0 && r.base < 2 ^ 56 &&
  (r.kind = 3 ||
  (r.len ≠ 0 && r.len % 2 ^ 21 = 0 && r.base + r.len ≤ 2 ^ 56 && r.gran ≤ 9
    && (r.kind ≠ 0 || (r.dies ≠ 0 && r.dies &&& ~~~p.live = 0))
    && (r.kind ≠ 1 || ((onesBelow r.dies.toNat 24).length = 1 && (r.mfirst ≠ 0 || r.dies &&& ~~~p.live = 0)))
    && p.regions.all (fun e => e.1 = idx || e.2.kind = 3 || e.2.base + e.2.len ≤ r.base || r.base + r.len ≤ e.2.base)))

/-- y.regn (R102 to R105). -/
def execYRegn (h : Hdr) (d a b : RegNo) (s : State) :=
  issue .priv h 16 { rd := [.s a, .s b], wr := [.s d] } s (fun is s => do
    is.memReady s
    let part := s.agentPart is.a
    let p := s.part part
    let idx := (is.s a).toNat
    let (l, stale, s) ← s.readRecord is (is.s b) 32 1
    let s := s.markStale is stale
    let old : Region := (p.regions.find idx).getD
      { base := 0, len := 0, gran := 0, kind := 3, ver := 0, dies := 0, mfirst := 0, mcount := 0 }
    let (r, zeros) := regionOf (ofLe l) ((old.ver + 1) % 256)
    if 4096 ≤ idx || !zeros || !p.regionOk idx r || p.rewrites.any (fun x => x.idx = idx) then
      s.instantFut is d Kind.priv 3 Status.busy 0
    else
      let (s, q, k) ← s.takeFut is d Kind.priv 3 idx
      pure (s.mapPart part (fun p => { p with regions := p.regions.put idx r
                                              rewrites := p.rewrites ++ [{ idx := idx, old := old, fut := some (q, k) }] })))

/-- A line of a slice that a rewritten region's old home holds (R102). -/
def Rewrite.line (w : Rewrite) (part : Nat) (l : LlcLine) : Bool :=
  let va := l.line * 128
  l.part = part && l.home && w.old.kind < 2 && w.old.holds va && l.die = (w.old.home va).unit

/-- REGION_DRAIN_SIGNAL: the old home has written back and invalidated its lines of the range, and has no request of the old
version left to forward (R102). -/
def evRegionDrainSignal (part idx : Nat) (s : State) : Option State :=
  match (s.part part).rewrites.find? (fun x => x.idx = idx) with
  | none => none
  | some w =>
    if s.reqs.any (fun r => r.part = part && w.old.holds r.va && r.ver = w.old.ver && r.back.isNone && r.op ≠ .fetch) then none
    else
      let ls := s.llc.filter (w.line part)
      if !ls.all s.llcCanGo then none else
      let s := ls.foldl State.llcEvict s
      some ((s.mapPart part (fun p => { p with rewrites := p.rewrites.filter (fun x => x.idx ≠ idx) })).resolve0 w.fut Status.done 0)
/-- REGION_DRAIN_SIGNAL. -/
def execRegionDrainSignal (part idx : Nat) (s : State) := event s (evRegionDrainSignal part idx s)

end Sys2Proof.Machine
end

