-- ==== Sys2Proof/Machine/Window.lean ====
section
/-! DEFINITION. The hearth's hands on waves and stokers: y.win (R401), y.eret (R402) and y.idle (R405). -/

namespace Sys2Proof.Machine

/-! ## The target (R401) -/

/-- The agent that pr.WINDOW names, of the hearth's own die (R397, R398). -/
def State.target (s : State) (a : Agent) : Option (Agent × Ctx) :=
  let die := dieOf a
  let w := (s.die die).window.toNat
  let n := bits w 0 5
  if bits w 11 5 ≠ die || 24 ≤ n then none
  else
    let t := Agent.slot (64 * die + 4 * bits w 7 4 + bits w 5 2) n
    ((s.ctx? t).filter (fun c => !c.gone)).map (fun c => (t, c))

/-- The stopped target of a y.win or y.eret, or HANDLE (R401, R402). -/
def Iss.stopped (is : Iss) (s : State) : Res (Agent × Ctx) :=
  match s.target is.a with
  | some (t, c) => if c.settled then .ok (t, c) else .error (is.fault Code.handle 0 is.p)
  | none => .error (is.fault Code.handle 0 is.p)

/-! ## The window (R401) -/

/-- The word of a split record of the table; a record that is not listed is FREE (R332). -/
def Ctx.recWord (c : Ctx) (r : Nat) : Nat := ((c.split.find r).getD SplitRec.free).word

/-- The latch as a window index shows it (R401). -/
def guardWord : Option Guard → Nat
  | some g => 2 ^ 20 + 2 ^ 19 * (g.bank % 2) + g.off % 2 ^ 19
  | none => 0

/-- The latch that a write of its word makes: none with bit 20 clear, else a touch at a PC. DESIGN CHOICE (log 72): R401 does not mark this
word, nor the PC of the latched touch, as read-only, and gives the write of zero alone. -/
def guardOfWord (v : Nat) (pc : W64) : Option Guard :=
  if v.testBit 20 then some { off := bits v 0 19, bank := bits v 19 1, pc := pc } else none

/-- A value that y.win reads (R401). -/
def State.winRead (s : State) (a : Agent) (c : Ctx) (i : Nat) : Option Nat :=
  let status := c.lastCode % 256 + 256 * b2n c.stop.isSome + 512 * b2n c.priv
  if isStoker a then
    if i < 0x40 then some (c.sget i).toNat
    else if i = 0x80 || i = 0x81 then some (bits (c.recWord 0) (64 * (i - 0x80)) 64)
    else if i = 0x97 then some status
    else none
  else if i < 0x40 then some (c.sget i).toNat
  else if i < 0x50 then some (c.kget (i - 0x40)).toNat
  else if 0x60 ≤ i && i < 0x78 then some (s.readSr a c (i - 0x60)).toNat
  else if 0x80 ≤ i && i < 0x90 then some (bits (c.recWord ((i - 0x80) / 2)) (64 * (i % 2)) 64)
  else if i = 0x90 then some c.nreg
  else if i = 0x91 then some c.live.toNat
  else if i = 0x92 || i = 0x93 then some (bits c.paths.toNat (64 * (i - 0x92)) 64)
  else if i = 0x94 then some (c.ldc + 2 ^ 8 * c.stc + 2 ^ 16 * c.xc + 2 ^ 24 * c.ec)
  else if i = 0x95 then some (guardWord c.guard)
  else if i = 0x96 then some (c.guard.elim 0 (·.pc.toNat))
  else if i = 0x97 then some status
  else if 0xA0 ≤ i && i < 0xB0 then some (bits c.mtab.toNat (64 * (i - 0xA0)) 64)
  else if 0x100 ≤ i && i < 0x140 then some (c.flag (i - 0x100)).toNat
  else if 0x10000 ≤ i && i < 0x10000 + 64 * c.nreg then some (c.vget ((i - 0x10000) / 64) (i % 64)).toNat
  else none

/-- Write half of a split record (R401). A record that it makes HOLD is the wave's youngest: no split created it (R334, log 141). -/
def Ctx.recPut (c : Ctx) (r half : Nat) (v : W64) : Ctx :=
  let w := setBits (c.recWord r) (64 * half) 64 v.toNat
  let old := (c.split.find r).getD SplitRec.free
  let kept := old.st = .hold && FragSt.ofCode (bits w 126 2) = .hold
  let x := SplitRec.ofWord w (if kept then old.age else c.age + 1)
  { c with age := if kept then c.age else c.age + 1
           split := if x.st = .free && x = SplitRec.ofWord 0 x.age then c.split.del r else c.split.put r x }

/-- Replace bits of a vector of flags, paths or table bytes. -/
def putField {w : Nat} (x : BitVec w) (lo n v : Nat) : BitVec w := BitVec.ofNat w (setBits x.toNat lo n v)

/-- What y.win writes: the context after it, or none outside the table; writes to what is read-only are discarded (R401). -/
def Ctx.winWrite (c : Ctx) (a : Agent) (i : Nat) (v : W64) : Option Ctx :=
  if isStoker a then
    if i < 0x40 then some (c.sset i v)
    else if i = 0x80 || i = 0x81 then some (c.recPut 0 (i - 0x80) v)
    else if i = 0x97 then some c
    else none
  else if i < 0x40 then some (c.sset i v)
  else if i < 0x50 then some (c.kset (i - 0x40) v)
  else if 0x60 ≤ i && i < 0x78 then
    some (if i = 0x70 then { c with utact := v.getLsbD 0 } else if srWritable (BitVec.ofNat 8 (i - 0x60)) then c.writeSr (i - 0x60) v else c)
  else if 0x80 ≤ i && i < 0x90 then some (c.recPut ((i - 0x80) / 2) (i % 2) v)
  else if i = 0x90 || i = 0x94 || i = 0x97 then some c
  else if i = 0x91 then some { c with live := v.extractLsb' 0 32 }
  else if i = 0x92 || i = 0x93 then some { c with paths := putField c.paths (64 * (i - 0x92)) 64 v.toNat }
  else if i = 0x95 then some { c with guard := guardOfWord v.toNat ((c.guard.map (·.pc)).getD 0) }
  else if i = 0x96 then some { c with guard := c.guard.map (fun g => { g with pc := pcBits v }) }
  else if 0xA0 ≤ i && i < 0xB0 then some { c with mtab := putField c.mtab (64 * (i - 0xA0)) 64 v.toNat }
  else if 0x100 ≤ i && i < 0x140 then some { c with flags := AMap.set 0 c.flags (i - 0x100) (v.extractLsb' 0 5) }
  else if 0x10000 ≤ i && i < 0x10000 + 64 * c.nreg then some (c.vset ((i - 0x10000) / 64) (i % 64) (v.extractLsb' 0 32))
  else none

/-- y.win.sub=read (R401). -/
def execYWinRead (h : Hdr) (d : RegNo) (imm : BitVec 32) (s : State) :=
  issue .hearthOnly' h 12 { rd := [], wr := [.s d] } s (fun is s => do
    let (t, c) ← is.stopped s
    match s.winRead t c imm.toNat with
    | none => .error (is.fault Code.handle 0 is.p)
    | some v => s.pendS is .ec d (BitVec.ofNat 64 v))

/-- y.win.sub=write (R401). -/
def execYWinWrite (h : Hdr) (b : RegNo) (imm : BitVec 32) (s : State) :=
  issue .hearthOnly' h 12 { rd := [.s b], wr := [] } s (fun is s => do
    let (t, c) ← is.stopped s
    match c.winWrite t imm.toNat (is.s b) with
    | none => .error (is.fault Code.handle 0 is.p)
    | some c' => pure (if imm.toNat < 0x40 then (s.setCtx t c').clearTag t imm.toNat else s.setCtx t c'))

/-- The stop of a running agent at an instruction boundary (R390, R401). -/
def State.breakStop (s : State) (t : Agent) (c : Ctx) (addr : Nat) (silent : Bool) : State :=
  let fr := ((c.rec? c.frag).filter SplitRec.isFrag).getD (((c.split.find? (fun e => e.2.isFrag)).map (·.2)).getD SplitRec.free)
  s.stopWave t { code := Code.brk, prec := false, addr := addr, mask := fr.mask, pc := fr.pc, meld := fr.meld, posted := silent,
                 silent := silent }

/-- y.win.sub=stop (R401). -/
def execYWinStop (h : Hdr) (s : State) :=
  issue .hearthOnly' h 12 { rd := [], wr := [] } s (fun is s => do
    match s.target is.a with
    | none => .error (is.fault Code.handle 0 is.p)
    | some (t, c) => pure (if c.stop.isSome then s else s.breakStop t c 0x120 false))

/-! ## y.eret (R402) -/

/-- The stop for split records that break R333, or for a spilled one that is broken, with its spill address (R335, R343, R393, R394). -/
def brokenStop (fr : SplitRec) (addr : Nat) : Stop :=
  { code := Code.handle, prec := true, addr := addr, mask := fr.mask, pc := fr.pc, meld := fr.meld, posted := false, silent := false }

/-- The records of an agent that resumes, with the joins resolved that an edit of them or a kill has left (R341, log 144); or the address of
the HANDLE that they give: 0 where they break R333, else that of a broken spilled record (R335, R343, R402). -/
def State.joined (s : State) (c : Ctx) : AMap SplitRec × Option Nat :=
  let m := s.recs c
  if !recsOk m c.exited then (m, some 0)
  else
    let r := resolveJoins 16 m c.exited
    (r.1, r.2.map (fun i => match s.teamOf c with | some t => spillOff t c.widx i | none => 0))

/-- A resume: a record that has no place in the ring yet waits on its own (R391); held handles are written, and each fragment's first issue matches no breakpoint; records that break R333 give HANDLE at the
next issue, and at once where no fragment is left to issue (R343, R390, R399, R402). A stoker that has ended stays stopped (R415). -/
def State.resume (s : State) (t : Agent) (c : Ctx) (single : Bool) : State :=
  if !s.bound t c then s
  else
    let c' : Ctx := Ctx.writeHeld { c with stop := none, single := single }
    let j := s.joined c'
    let ready (m : AMap SplitRec) : List Nat := (m.filter (fun e => e.1 < 8 && e.2.st == .ready)).map (·.1)
    let frags := if j.2.isNone then ready j.1 else ready c'.split
    let s := (s.keepRecord t).setCtx t { c' with broken := j.2.isSome, skipBkpt := frags }
    let s := if j.2.isNone then s.putRecs t j.1 else s
    if j.2.isNone || !frags.isEmpty then s else s.stopWave t (brokenStop SplitRec.free (j.2.getD 0))

/-- y.eret.sub=resume (R402). -/
def execYEretResume (h : Hdr) (s : State) :=
  issue .hearthOnly' h 8 { rd := [], wr := [] } s (fun is s => do
    let (t, c) ← is.stopped s
    pure (s.resume t c false))
/-- y.eret.sub=step (R402). -/
def execYEretStep (h : Hdr) (s : State) :=
  issue .hearthOnly' h 8 { rd := [], wr := [] } s (fun is s => do
    let (t, c) ← is.stopped s
    pure (s.resume t c true))

/-- A kill of threads of one wave, whose last stopping code becomes its team's fault code (R16, R342, R402). -/
def State.killThreads (s : State) (t : Agent) (c : Ctx) (ls : Lanes) (code : Nat) : State :=
  let s := { s with waiters := if c.exited ||| ls = BitVec.allOnes 64 then s.waiters.filter (fun w => w.agent ≠ t) else s.waiters }
  (s.endThreads t ls).mapTeam c.team (fun x =>
    { x with dead := some code
             claims := if c.exited ||| ls = BitVec.allOnes 64 then x.claims.filter (· ≠ c.widx) else x.claims })

/-- A stoker stops, with its queues kept (R415). -/
def State.haltStoker (s : State) (t : Agent) : State := s.mapStoker (stokerKey t) (fun x => { x with running := false })

/-- y.eret.sub=kill threads: the wave stays stopped (R402). -/
def execYEretKillThreads (h : Hdr) (b : RegNo) (s : State) :=
  issue .hearthOnly' h 8 { rd := [.s b], wr := [] } s (fun is s => do
    let (t, c) ← is.stopped s
    pure (if isStoker t then s.haltStoker t else s.killThreads t c (is.s b) c.lastCode))
/-- y.eret.sub=kill team: of a wave or of a stoker, which stops with it (R402, R409, R415). -/
def execYEretKillTeam (h : Hdr) (s : State) :=
  issue .hearthOnly' h 8 { rd := [], wr := [] } s (fun is s => do
    let (t, c) ← is.stopped s
    let s := if isStoker t then s.haltStoker t else s
    let s := s.mapTeam c.team (fun x => { x with dead := some c.lastCode })
    pure ((s.waveCtxs c.team).foldl (fun s e => s.killThreads (agentOfKey e.1) e.2 (BitVec.allOnes 64) c.lastCode) s))

/-! ## y.idle (R405) -/

/-- y.idle: the hearth wave parks (R405). -/
def execYIdle (h : Hdr) (d b : RegNo) (s : State) :=
  issueRaw .hearthOnly' h 8 { rd := [.s b], wr := [.s d] } s (fun is s => do
    is.room .ec
    pure (s.parkAgent is (.idle (s.clk (dieOf is.a)) ((is.s b).toNat % 2 ^ 32) d.toNat)))

/-- The reasons for which a parked hearth wave may go on: queue, mailbox, time (R405). -/
def State.idleReasons (s : State) (die start limit : Nat) : Nat :=
  let d := s.die die
  b2n (d.prod ≠ d.fqcons.toNat) + 2 * b2n d.mboxRing + 4 * b2n (limit ≠ 0 && decide (start + limit ≤ d.clk))

/-- A parked hearth wave goes on, where it has a reason. -/
def State.idleWake (s : State) (a : Agent) : Option State :=
  match s.ctx? a with
  | none => none
  | some c =>
    match c.park with
    | .idle start limit d =>
      let die := dieOf a
      let r := s.idleReasons die start limit
      if r = 0 || c.stop.isSome then none
      else
        let s := s.mapDie die (fun x => { x with mboxRing := false })
        some ((s.clearTag a d).mapCtx a (fun c =>
          let c := c.sset d (BitVec.ofNat 64 r)
          let pc := ((c.rec? c.frag).map (·.pc)).getD 0
          Ctx.stepDone { c.setPc c.frag (pc + 8) with park := .none } c.frag))
    | _ => none

/-- IDLE_TIME_LIMIT (R405). -/
def evIdleTimeLimit (die : Nat) (s : State) : Option State :=
  let p : Option Park := (s.ctx? (.hearth die)).map (·.park)
  match p with
  | some (.idle start limit _) => if limit ≠ 0 && start + limit ≤ s.clk die then s.idleWake (.hearth die) else none
  | _ => none
/-- IDLE_TIME_LIMIT. -/
def execIdleTimeLimit (die : Nat) (s : State) := event s (evIdleTimeLimit die s)

end Sys2Proof.Machine
end

