-- ==== Sys2Proof/Machine/Context.lean ====
section
/-! DEFINITION. Saving and restoring teams: y.ctxs and y.ctxl (R368, R378, R403, R404). -/

namespace Sys2Proof.Machine

/-! ## New places for agents -/

/-- A core number that no module has: where the agents of a saved team stand. -/
def savedCore (id j : Nat) : Nat := 100000 + 8 * id + j

/-- An agent under a renaming. -/
def renAgent (m : List (Agent × Agent)) (a : Agent) : Agent := ((m.find? (fun e => e.1 = a)).map (·.2)).getD a

/-- A stoker queue's owners under a renaming. -/
def SQueue.ren (m : List (Agent × Agent)) (q : SQueue) : SQueue :=
  { q with ents := q.ents.map (fun e => (e.1, e.2.1, match e.2.2 with | .wave a => .wave (renAgent m a) | o => o)) }
/-- Who stored, under a renaming. -/
def Who.ren (m : List (Agent × Agent)) (w : Who) : Who := { w with a := renAgent m w.a }
/-- A future's sites under a renaming (R368). -/
def Fut.ren (m : List (Agent × Agent)) (f : Fut) : Fut :=
  { f with sites := f.sites.map (fun x => match x with | .reg a r => .reg (renAgent m a) r | .mem p v w => .mem p v (w.ren m))
           acks := f.acks.map (fun e => (renAgent m e.1, e.2)) }

/-- Agents get new places: their contexts, their stokers, and whatever names them. -/
def State.rename (s : State) (m : List (Agent × Agent)) : State :=
  let r := renAgent m
  let move (l : AMap Ctx) (e : Agent × Agent) : AMap Ctx :=
    match s.ctxs.find (ctxKey e.1) with | some c => l.put (ctxKey e.2) c | none => l
  let ctxs := m.foldl move (m.foldl (fun (l : AMap Ctx) e => l.del (ctxKey e.1)) s.ctxs)
  let sks := m.filter (fun e => isStoker e.1)
  let stokers := sks.foldl (fun (l : AMap Stoker) e =>
      match s.stokers.find (stokerKey e.1) with | some x => l.put (stokerKey e.2) x | none => l)
    (sks.foldl (fun (l : AMap Stoker) e => l.del (stokerKey e.1)) s.stokers)
  { s with
    ctxs := ctxs
    stokers := stokers.map (fun (e : Nat × Stoker) =>
      (e.1, { e.2 with queues := e.2.queues.map (fun q => (q.1, q.2.ren m)) }))
    quads := s.quads.map (fun (e : Nat × Quad) => (e.1, { e.2 with
      futs := e.2.futs.map (fun f => (f.1, f.2.ren m))
      tasks := e.2.tasks.map (fun (t : Task) => { t with agent := r t.agent })
      copies := e.2.copies.map (fun (c : Copy) => { c with agent := r c.agent }) }))
    cores := s.cores.map (fun (e : Nat × Core) => (e.1, { e.2 with
      l1 := e.2.l1.map (fun (l : L1Line) => { l with last := l.last.map (·.ren m) })
      wc := e.2.wc.map (fun (b : WcBuf) => { b with who := b.who.ren m }) }))
    llc := s.llc.map (fun (l : LlcLine) => { l with last := l.last.map (·.ren m) })
    reqs := s.reqs.map (fun (x : Req) => { x with agent := r x.agent })
    ranges := s.ranges.map (fun (x : RangeOp) => { x with agent := r x.agent }) }

/-! ## New places for futures (R368) -/

/-- A quad number that no module has: where the pending futures of a saved team stand, by the quad that they came from. -/
def savedQuad (id q : Nat) : Nat := 384 * (id + 1) + q

/-- Futures that get new places: quad and slot before and after. -/
abbrev FutMap := List ((Nat × Nat) × (Nat × Nat))
/-- A place under a renaming. -/
def FutMap.ren (m : FutMap) (x : Nat × Nat) : Nat × Nat := ((m.find? (fun e => e.1 = x)).map (·.2)).getD x

/-- A task that holds or awaits a future. -/
def Task.renFut (m : FutMap) (t : Task) : Task :=
  { t with fut := t.fut.map m.ren
           wait := t.wait.map (fun w => let x := m.ren (w.1, w.2.1); (x.1, x.2, w.2.2)) }
/-- A copy that holds one. -/
def Copy.renFut (m : FutMap) (c : Copy) : Copy := { c with fut := c.fut.map m.ren }

/-- A context's register sites: their tags, and the die, QUAD and SLOT of the handles that they hold (R368). -/
def Ctx.renFut (m : FutMap) (c : Ctx) : Ctx :=
  c.tags.foldl (fun (c : Ctx) e =>
    let t := e.2
    let x := m.ren (t.quad, t.slot)
    if t.resolved || x = (t.quad, t.slot) then c
    else
      let t' : Tag := { t with quad := x.1, slot := x.2 }
      let c := if c.held.any (fun y => y.1 = e.1) then c
        else c.sset e.1 (pendingHandle t.seq x.1 (bits (c.sget e.1).toNat 16 8) x.2)
      { c with tags := c.tags.put e.1 t' }) c

/-- A stoker whose entries futures hold. -/
def Stoker.renFut (m : FutMap) (x : Stoker) : Stoker :=
  { x with queues := x.queues.map (fun q => (q.1, { q.2 with
      ents := q.2.ents.map (fun e => (e.1, e.2.1, match e.2.2 with
        | .fut q k => (let y := m.ren (q, k); Owner.fut y.1 y.2)
        | o => o)) })) }

/-- A request whose end resolves one. -/
def ReqOp.renFut (m : FutMap) : ReqOp → ReqOp
  | .kvapp src team fut ls => .kvapp src team (fut.map m.ren) ls
  | .kvtrunc n fut => .kvtrunc n (fut.map m.ren)
  | o => o

/-- What the agents of a partition hold of futures. -/
def Part.renFut (m : FutMap) (p : Part) : Part :=
  { p with masterQ := p.masterQ.map (fun (x : MasterReq) => { x with fut := x.fut.map m.ren })
           drains := p.drains.map (fun (x : Drain) => { x with futs := x.futs.map m.ren })
           rewrites := p.rewrites.map (fun (x : Rewrite) => { x with fut := x.fut.map m.ren })
           enrolls := p.enrolls.map (fun (x : Enroll) => { x with fut := x.fut.map m.ren })
           settles := p.settles.map (fun (x : Settle) => { x with fut := x.fut.map m.ren })
           maps := p.maps.map (fun (x : MapReq) => { x with fut := x.fut.map m.ren })
           filterQ := p.filterQ.map (fun (x : FilterReq) => { x with fut := x.fut.map m.ren })
           invalQ := p.invalQ.map (fun (x : InvalReq) => { x with fut := x.fut.map m.ren }) }

/-- An image that has been restored, whose futures get new places. -/
def Snap.renFut (m : FutMap) (n : Snap) : Snap :=
  { n with ctxs := n.ctxs.map (fun e => (e.1, e.2.renFut m)), tasks := n.tasks.map (fun e => (e.1, e.2.renFut m)) }

/-- Futures get new places: their entries, and whatever names them. -/
def State.renFuts (s : State) (m : FutMap) : State :=
  let moved := m.filterMap (fun e => ((s.quad e.1.1).futs.find e.1.2).map (fun f => (e.2, f)))
  let s := m.foldl (fun (s : State) e => s.mapQuad e.1.1 (fun q => { q with futs := q.futs.del e.1.2 })) s
  let s := moved.foldl (fun (s : State) e => s.mapQuad e.1.1 (fun q => { q with futs := q.futs.put e.1.2 e.2 })) s
  { s with
    ctxs := s.ctxs.map (fun (e : Nat × Ctx) => (e.1, e.2.renFut m))
    stokers := s.stokers.map (fun (e : Nat × Stoker) => (e.1, e.2.renFut m))
    quads := s.quads.map (fun (e : Nat × Quad) => (e.1, { e.2 with
      tasks := e.2.tasks.map (·.renFut m), copies := e.2.copies.map (·.renFut m) }))
    groups := s.groups.map (fun (e : Nat × Group) => (e.1, { e.2 with fut := e.2.fut.map m.ren }))
    ranges := s.ranges.map (fun (x : RangeOp) => { x with fut := x.fut.map m.ren })
    reqs := s.reqs.map (fun (x : Req) => { x with op := x.op.renFut m })
    parts := s.parts.map (fun (e : Nat × Part) => (e.1, e.2.renFut m))
    saved := s.saved.map (fun (v : Saved) => { v with
      tasks := v.tasks.map (fun e => (e.1, e.2.renFut m)), copies := v.copies.map (fun e => (e.1, e.2.renFut m))
      snap := v.snap.map (·.renFut m) }) }

/-- The pending futures of teams (R365). -/
def State.teamFuts (s : State) (keys : List Nat) : List (Nat × Nat) :=
  s.quads.flatMap (fun e => (e.2.futs.filter (fun f => keys.contains f.2.team)).map (fun f => (e.1, f.1)))

/-! ## Saving (R378, R403) -/

/-- The agents of a team: its waves that have not retired, and its stoker. -/
def State.teamAgents (s : State) (key : Nat) : List Agent :=
  (s.waveCtxs key).map (fun e => agentOfKey e.1) ++ ((s.stokerOf key).map (fun e => stokerAgent e.1)).toList

/-- The mark of a stop for a save by the hearth of a die: no system fault, so no record (R403). -/
def saveStop (die : Nat) : Stop :=
  { code := 0, prec := false, addr := 0x200 + die, mask := 0, pc := 0, meld := false, posted := true, silent := true }
/-- The stop is for a save. -/
def Stop.isSave (t : Stop) : Bool := t.silent && t.code == 0 && decide (0x200 ≤ t.addr)

/-- A park that ends with a save: the waiting instruction issues again after the restore, and a sleep ends there (R378). -/
def Ctx.leavePark (c : Ctx) (status : Bool) : Ctx :=
  match c.park with
  | .sleep _ => { c with park := .none }.stepDone c.frag
  | .fut _ | .post | .board _ => { c with park := .none }
  | _ => c.giveUp status

/-- A waiting operation on its way to a slice. -/
def ReqOp.waits : ReqOp → Bool
  | .ticket .. | .watch .. | .status .. => true
  | _ => false

/-- Stop an agent for a save, a stopped one staying as it is; what it waits for at a slice or in a queue is freed (R298, R378). -/
def State.stopForSave (s : State) (die : Nat) (a : Agent) : State :=
  match s.ctx? a with
  | none => s
  | some c =>
    let s := { s with waiters := s.waiters.filter (fun w => w.agent ≠ a)
                      reqs := s.reqs.filter (fun r => !(r.agent = a && r.op.waits)) }
    let c' := c.leavePark (s.onStatus c)
    (s.mapTeam c.team (fun t => { t with claims := t.claims.filter (· ≠ c.widx) })).setCtx a
      { c' with stop := some (c'.stop.getD (saveStop die)) }

/-- Nothing of some teams is in the middle of a step: windows are prepared, waves stand stopped, results have returned, those of retired waves too,
stores are accepted, and no pass runs (R16, R59, R246, R262, R378). -/
def State.quiet (s : State) (keys : List Nat) : Bool :=
  keys.all (fun k => !(s.teams.find k).any (s.unprepared k)
      && (s.teamAgents k).all (fun a => (s.ctx? a).all (fun c => c.stop.isSome && c.pend.all (fun p => p.fail.isSome && p.reqs.isEmpty))
        && !s.reqs.any (fun r => r.agent = a && r.pend.isSome)))
    && !s.ctxs.any (fun e => keys.contains e.2.team && e.2.gone)
    && !s.quads.any (fun q => q.2.tasks.any (fun t => keys.contains t.team && t.granted))

/-- The header of an image (R403). -/
def imageHeader (members : Nat) (t : Team) (size : Nat) : List Byte :=
  leBytes 4 0x58435645 ++ leBytes 4 1 ++ leBytes 8 size ++ leBytes 1 members ++ List.replicate 15 0 ++ t.footBytes.take 64
    ++ leBytes 8 t.depth ++ List.replicate 152 0
/-- Bytes of an image after its header: laid out as the part requires (R403; log 21). -/
def imageTail : Nat := 64
/-- The tail of an image. -/
def imageBody (id : Nat) : List Byte := (List.range imageTail).map (Config.imageByte id)

/-- Take teams off their cores: contexts stand under agents of no core and pending futures under quads of none, tasks and copies are
set aside, and the footprint is free (R368, R378, R403). -/
def State.takeOff (s : State) (id : Nat) (keys : List Nat) : State :=
  let mine (k : Nat) : Bool := keys.contains k
  let s := (keys.flatMap s.teamAgents).foldl (fun s a => s.leaveRecord a) s
  let s := s.renFuts ((s.teamFuts keys).map (fun x => (x, (savedQuad id x.1, x.2))))
  let tasks := s.quads.flatMap (fun (q : Nat × Quad) => (q.2.tasks.filter (fun t => mine t.team)).map (fun t =>
    (q.1, { t with aged := s.taskAge q.1 t })))
  let copies := s.quads.flatMap (fun (q : Nat × Quad) => (q.2.copies.filter (fun c => mine c.team)).map (fun c => (q.1, c)))
  let s := { s with
    quads := s.quads.map (fun (q : Nat × Quad) => (q.1, { q.2 with
      tasks := q.2.tasks.filter (fun t => !mine t.team), copies := q.2.copies.filter (fun c => !mine c.team) }))
    cores := s.cores.map (fun (c : Nat × Core) => (c.1, { c.2 with board := c.2.board.filter (fun b => !mine b.team) })) }
  let s := keys.zipIdx.foldl (fun s e =>
    let core := savedCore id e.2
    let m := (s.teamAgents e.1).map (fun a => (a, match a with | .slot _ n => Agent.slot core n | x => x))
    (s.rename m).mapTeam e.1 (fun t => { t with core := core, stoker := t.stoker.map (fun k => 4 * core + k % 4) })) s
  { s with saved := s.saved ++ [{ id := id, teams := keys, tasks := tasks, copies := copies, snap := none }] }

/-- An instruction of a hearth begins a save or a restore, whose future stays pending until it ends (R403, R404). -/
def State.beginSave (s : State) (is : Iss) (d : RegNo) (keys : List Nat) (members gen va : Nat) (restore : Option (Nat × Bool)) :
    Res State := do
  let (id, s) := s.fresh
  let (s, q, k) ← s.takeFut is d Kind.priv 3 id
  pure { s with saves := s.saves ++ [{ id := id, agent := is.a, part := s.agentPart is.a, keys := keys, members := members, gen := gen,
                                       va := va, restore := restore, deps := none, fut := some (q, k) }] }

/-- The checks of an image's address at issue (R80, R101): a dead arena resolves the future, and what else fails faults (R404). -/
def Iss.imageRoute (is : Iss) (s : State) (va : Nat) (write : Bool) : Res (Option Route) :=
  match s.route (coreOf is.a) (s.agentPart is.a) va write false with
  | .ok rt => .ok (some rt)
  | .error c => if c = Code.arenaDead then .ok none else .error (is.fault c va is.p)

/-- y.ctxs (R403, R404): the agents are stopped, and the save ends once nothing of them is in the middle of a step (log 75). -/
def execYCtxs (h : Hdr) (sub : BitVec 2) (d a : RegNo) (imm : BitVec 32) (s : State) :=
  issue .hearthOnly' h 12 { rd := [.s a], wr := [.s d] } s (fun is s => do
    is.memReady s
    let va := vaOf (is.addrS a imm)
    match (s.target is.a).bind (fun x => (s.teams.find x.2.team).map (fun t => (x.2.team, t))) with
    | none => .error (is.fault Code.handle 0 is.p)
    | some (key, t) =>
      let keys := if sub = 0 then [key] else t.gang.filter (fun k => (s.teams.find k).isSome)
      match ← is.imageRoute s va true with
      | none => s.instantFut is d Kind.priv 3 Status.faulted Code.arenaDead
      | some rt =>
        if t.group = 0 || keys.any s.inSave then s.instantFut is d Kind.priv 3 Status.busy 0
        else
          let s ← s.beginSave is d keys keys.length rt.attr.gen va none
          pure ((keys.flatMap s.teamAgents).foldl (fun s x => s.stopForSave (dieOf is.a) x) s))

/-- The stop of an agent after a restore: a mark of the save goes, or becomes BREAK 0x120 (R404). -/
def State.unmark (s : State) (stopped : Bool) (a : Agent) : State :=
  match s.ctx? a with
  | none => s
  | some c =>
    if c.stop.any Stop.isSave then
      let c' : Ctx := Ctx.writeHeld { c with stop := none }
      let s := s.setCtx a c'
      if stopped then s.breakStop a c' 0x120 false else s
    else s

/-- A switched-out wave gets its registers back before its team is saved (R370, R378). -/
def State.bringBack (s : State) (a : Agent) (part : Nat) : Option State := do
  let c ← s.ctx? a
  let t ← s.teams.find c.team
  let g ← s.groups.find t.group
  let core := coreOf a
  let area := s.saveArea core (match a with | .slot _ n => n | .hearth _ => 0) g.ctxa
  match s.own (dieOf a) part (switchTag a) (s.loadBlocks core c.saveGen area c) with
  | .wait s' => s'
  | .fail code s' => some (s'.killSwitched a c.team code)
  | .got (blocks, stale, s') =>
    if stale || s.deadArena core area then some (s'.killSwitched a c.team Code.arenaDead)
    else some (s'.mapCtx a (fun c => { c.reload s.tick (fun b => (AMap.find (blocks : AMap (List Byte)) b).getD []) with out := none }))

/-- A core's dirty bytes go home, those of its die's SWM copies too, so that the accesses that teams make elsewhere follow their stores (R278,
R306; log 143): the writes that are then on their way. -/
def State.flushCore (s : State) (core : Nat) : State × List Nat :=
  let die := dieOfCore core
  let s := (s.publishLines core (fun _ => true)).drainWc core (fun _ => true)
  let s := (s.llc.filter (fun l => l.die = die && !l.home && l.dirty ≠ 0)).foldl (fun s l => s.llcEvict l) s
  (s, (s.reqs.filter (fun r => r.op.isWrite && (r.core = core || r.core = sliceCore die))).map (·.id))

/-- What a core and its die hold of lines may be older than the stores that teams made elsewhere, and goes: all but dirty bytes (R109, R115,
R278, R306; log 143). -/
def State.freshCore (s : State) (core : Nat) : State :=
  let s := (s.mapCore core (fun c => { c with l1 :=
    (c.l1.map (fun l => { l with valid := l.valid &&& l.dirty })).filter (fun l => l.valid != 0) })).noFill core (fun _ => true)
  (s.llc.filter (fun l => l.die = dieOfCore core && !l.home)).foldl (fun s l => s.llcEvict l) s

/-- What a save waits for before the image is written. -/
def State.setDeps (s : State) (id : Nat) (l : Option (List Nat)) : State :=
  { s with saves := s.saves.map (fun x => if x.id = id then { x with deps := l } else x) }

/-- A save goes on: a wave that runs again stops again, a switched-out one gets its registers back, and once nothing is in the middle of
a step and the teams' stores are home, the image is written and the teams leave (R278, R378, R403); a write that fails leaves them where they
are (log 75). -/
def State.goSave (s : State) (v : SaveOp) : Option State :=
  let ags := v.keys.flatMap s.teamAgents
  let done (s : State) : State := { s with saves := s.saves.filter (fun x => x.id ≠ v.id) }
  let die := dieOf v.agent
  if ags.any (fun a => (s.ctx? a).any (fun c => c.stop.isNone)) then
    some ((ags.foldl (fun s a => s.stopForSave die a) s).setDeps v.id none)
  else
    match ags.find? (fun a => (s.ctx? a).any (fun c => c.out.isSome)) with
    | some a => s.bringBack a v.part
    | none =>
      if !s.quiet v.keys then none
      else if v.deps.isNone then
        let r := ((ags.map coreOf).eraseDups).foldl (fun (x : State × List Nat) k =>
          let y := x.1.flushCore k
          (y.1, x.2 ++ y.2)) (s, [])
        some (r.1.setDeps v.id (some r.2))
      else if s.pendingDeps (v.deps.getD []) then none
      else
        match s.teams.find (v.keys.headD 0) with
        | none => some ((done s).resolve0 v.fut Status.done 0)
        | some t =>
          let img := imageHeader v.members t (256 + imageTail) ++ imageBody v.id
          match s.own die v.part v.id (s.writeRange (coreOf v.agent) (fun _ => v.gen) v.va img) with
          | .wait s' => s'
          | .fail code s' => some ((ags.foldl (fun s a => s.unmark false a) (done s')).resolve0 v.fut Status.faulted code)
          | .got s' => some ((((done s').takeOff v.id v.keys).resolve0 v.fut Status.done 0).mapsGo)

/-! ## Restoring (R404) -/

/-- The header's fields are right, those of its footprint record that must be zero too, and MEMBERS agrees with GANG (R56, R404). -/
def headerOk (l : List Byte) : Bool :=
  field l 0 4 = 0x58435645 && field l 4 4 = 1 && field l 0x11 15 = 0 && field l 0x68 152 = 0 && field l 0x37 1 = 0
    && field l 0x58 8 = 0
    && field l 0x10 1 = (Foot.ofBytes ((l.drop 0x20).take 64)).gang

/-- Cores for a restored gang: the named core for a single team; else the named core's quad, and beyond four members a quad of a
die that shares an edge with it (R404). -/
def State.restorePlace (s : State) (core : Nat) (f : Foot) : Option (List Nat) :=
  if f.gang ≤ 1 then (if s.gangOn f [core] then some [core] else none)
  else
    let q := core / 4
    let a := (s.fitCores q f).take (min 4 f.gang)
    if f.gang ≤ 4 then (if s.gangOn f a then some a else none)
    else
      ((List.range 24).filter (fun e => adjacent (core / 64) e)).findSome? (fun e =>
        ((List.range 16).map (16 * e + ·)).findSome? (fun q1 =>
          let l := a ++ (s.fitCores q1 f).take (f.gang - 4)
          if s.gangOn f l then some l else none))

/-- The reservation that a team brings to a quad: what it had, as far as R258 leaves it (log 76). -/
def State.resvOn (s : State) (q key : Nat) : Nat :=
  min ((s.teams.find key).elim 0 (·.resv)) (48 - sumTeams ((s.quadTeams q).filter (fun e => e.1 ≠ key)) (·.resv))

/-- The reservation table of a quad takes the tasks of restored teams, beyond what they reserve in the shared part (R242, R258). -/
def State.tableRoom (s : State) (q : Nat) (keys : List Nat) (tasks : List Task) : Bool :=
  let all := sumTeams (s.quadTeams q) (·.resv)
  let own (k : Nat) : Nat := (tasks.filter (fun t => t.team = k)).length
  let r := keys.foldl (fun (r : Nat × Nat) k =>
    let g := min ((s.teams.find k).elim 0 (·.resv)) (48 - r.1)
    (r.1 + g, r.2 + (own k - g))) (all, 0)
  s.sharedUsed q + r.2 ≤ Config.tasks - r.1

/-- The scoreboard entries that a copy takes again: the ranges of the rows that it has left (R169). -/
def State.leftRanges (s : State) (c : Copy) : List (Nat × List (Nat × Nat × Nat)) := s.copyRanges c c.rows.eraseDups

/-- What the places of a footprint do not show: an index for each stoker, a free entry for each pending future, and room in the reservation
tables and in the scoreboards for what the image holds (R169, R242, R365, R413; log 76). -/
def State.restoreRoom (s : State) (v : Saved) (places : List (Nat × Nat)) : Bool :=
  let on (q : Nat) : List Nat := (places.filter (fun e => e.2 / 4 = q)).map (·.1)
  (places.map (fun e => e.2 / 4)).eraseDups.all (fun q => s.tableRoom q (on q) (v.tasks.map (·.2)))
  && places.all (fun e => ((s.core e.2).board.map (·.id)).eraseDups.length
      + ((v.copies.filter (fun x => x.2.team = e.1)).map (fun x => (s.leftRanges x.2).length)).foldl (· + ·) 0 ≤ Config.scoreboard)
  && places.all (fun e => !(s.teams.find e.1).any (fun t => t.stoker.isSome) || (List.range 4).any (fun i => (s.stokers.find (4 * e.2 + i)).isNone))
  && (places.map (fun e => e.2 / 4)).eraseDups.all (fun q => (s.quad q).futs.length + (s.teamFuts (on q)).length ≤ Config.futures)

/-- Put one saved team on a core, which then holds nothing older than its stores: slots, window base, stoker, futures, tasks and copies (R368, R404). -/
def State.putBack (s : State) (v : Saved) (key core : Nat) (stopped : Bool) : State :=
  match s.teams.find key with
  | none => s
  | some t =>
    let s := s.freshCore core
    let slots := (s.freeSlots core 0 16).take t.foot.waves
    let base := (s.freeBase core t.foot.lsbytes).getD 0
    let sk := (List.range 4).find? (fun i => (s.stokers.find (4 * core + i)).isNone)
    let m := (s.teamAgents key).map (fun a => (a, match a with
      | .slot _ n => if 20 ≤ n then Agent.slot core (20 + sk.getD 0)
                     else Agent.slot core (slots.getD (((s.ctx? a).elim 0 (·.widx))) n)
      | x => x))
    let (n, s) := s.fresh
    let resv := s.resvOn (core / 4) key
    let s := (s.rename m).mapTeam key (fun t => { t with core := core, resv := resv, base := base, waves := slots, placed := n,
                                                         stoker := t.stoker.map (fun _ => 4 * core + sk.getD 0) })
    let q := core / 4
    let free := (List.range Config.futures).filter (fun k => ((s.quad q).futs.find k).isNone)
    let fm : FutMap := (s.teamFuts [key]).zip (free.map (fun k => (q, k)))
    let s := s.mapQuad q (fun x => { x with
      tasks := x.tasks ++ (v.tasks.filter (fun e => e.2.team = key)).map (fun e =>
        { e.2 with agent := renAgent m e.2.agent, since := s.clk (core / 64) })
      copies := x.copies ++ (v.copies.filter (fun e => e.2.team = key)).map (fun e =>
        { e.2 with agent := renAgent m e.2.agent, core := core }) })
    let s := s.renFuts fm
    let rs := ((s.quad q).copies.filter (fun c => c.team = key)).flatMap (fun c =>
      (s.leftRanges c).map (fun r => (c.id, r)))
    let base := s.uid
    let bs : List Board := rs.zipIdx.flatMap (fun e => e.1.2.2.map (fun r =>
      { id := base + e.2, copy := e.1.1, team := r.1, lo := r.2.1, hi := r.2.2, swz := e.1.2.1 }))
    let s := { s with uid := s.uid + rs.length }.mapCore core (fun c => { c with board := c.board ++ bs })
    (m.map (·.2)).foldl (fun s a => s.unmark stopped a) s

/-- What a saved image holds, under its saved agents, with the futures where the restore has put them. -/
def State.snapshot (s : State) (v : Saved) : Snap :=
  let ags := v.teams.flatMap s.teamAgents
  { teams := v.teams.filterMap (fun k => (s.teams.find k).map (fun t => (k, t)))
    ctxs := ags.filterMap (fun a => (s.ctx? a).map (fun c => (a, c)))
    stokers := (ags.filter isStoker).filterMap (fun a => (s.stokers.find (stokerKey a)).map (fun x => (stokerKey a, x)))
    tasks := v.tasks, copies := v.copies }

/-- Restore a saved image: its teams stand on cores again, and what it held is kept for an image that is restored twice (R404). -/
def State.restore (s : State) (v : Saved) (places : List (Nat × Nat)) (stopped : Bool) : State :=
  let snap := s.snapshot v
  let s := { s with saved := s.saved.map (fun x => if x.id = v.id then { x with tasks := [], copies := [], snap := some snap } else x) }
  places.foldl (fun s e => s.putBack v e.1 e.2 stopped) s

/-- A second copy of teams: fresh numbers for the teams and for their tasks and copies, which share the futures of the first (R404; log 76). -/
def State.revive (s : State) (v : Saved) (n : Snap) : State × Saved :=
  let (id, s) := s.fresh
  let u := s.uid
  let keys := n.teams.zipIdx.map (fun e => (e.1.1, u + e.2))
  let key (k : Nat) : Nat := ((keys.find? (fun e => e.1 = k)).map (·.2)).getD k
  let index (k : Nat) : Nat := ((n.teams.zipIdx.find? (fun e => e.1.1 = k)).map (·.2)).getD 0
  let at' (team : Nat) (a : Agent) : Agent := match a with | .slot _ j => .slot (savedCore id (index team)) j | x => x
  let ids := (n.tasks.map (·.2.id) ++ n.copies.map (·.2.id)).zipIdx.map (fun e => (e.1, u + n.teams.length + e.2))
  let no (i : Nat) : Nat := ((ids.find? (fun e => e.1 = i)).map (·.2)).getD i
  let s := { s with uid := u + n.teams.length + ids.length }
  let team (k : Nat) (t : Team) : Team := { t with
    core := savedCore id (index k), gang := t.gang.map key, stoker := t.stoker.map (fun j => 4 * savedCore id (index k) + j % 4) }
  let s := n.teams.foldl (fun (s : State) e => { s with teams := s.teams.put (key e.1) (team e.1 e.2) }) s
  let s := n.ctxs.foldl (fun (s : State) e => s.setCtx (at' e.2.team e.1) { e.2 with team := key e.2.team }) s
  let own (team : Nat) (o : Owner) : Owner := match o with | .wave a => .wave (at' team a) | _ => .offered
  let stoker (x : Stoker) : Stoker := { x with
    team := key x.team
    queues := x.queues.map (fun q => (q.1, { q.2 with ents := q.2.ents.map (fun y => (y.1, y.2.1, own x.team y.2.2)) })) }
  let s := n.stokers.foldl (fun (s : State) e =>
    { s with stokers := s.stokers.put (4 * savedCore id (index e.2.team) + e.1 % 4) (stoker e.2) }) s
  let s := n.ctxs.foldl (fun (s : State) e => e.2.tags.foldl (fun (s : State) t =>
    if t.2.resolved then s
    else s.mapQuad t.2.quad (fun q => { q with futs := q.futs.map (fun f =>
      if f.1 = t.2.slot && f.2.seq = t.2.seq then (f.1, { f.2 with sites := f.2.sites ++ [Site.reg (at' e.2.team e.1) t.1] }) else f) })) s) s
  let w : Saved :=
    { id := id, teams := n.teams.map (fun e => key e.1), snap := none
      tasks := n.tasks.map (fun e => (e.1, { e.2 with
        id := no e.2.id, team := key e.2.team, agent := at' e.2.team e.2.agent, fut := none }))
      copies := n.copies.map (fun e => (e.1, { e.2 with
        id := no e.2.id, team := key e.2.team, agent := at' e.2.team e.2.agent, fut := none })) }
  ({ s with saved := s.saved ++ [w] }, w)

/-- A restore goes on: the image is read, and its teams are placed on the core that y.ctxl named, or the future says why not (R404). -/
def State.goRestore (s : State) (v : SaveOp) (core : Nat) (stopped : Bool) : Option State :=
  let done (s : State) (st code : Nat) : Option State :=
    some ({ s with saves := s.saves.filter (fun x => x.id ≠ v.id) }.resolve0 v.fut st code)
  match s.own (dieOf v.agent) v.part v.id (s.readRange (coreOf v.agent) (fun _ => v.gen) v.va (256 + imageTail)) with
  | .wait s' => s'
  | .fail code s' => done s' Status.faulted code
  | .got (l, stale, s) =>
    if stale then done s Status.faulted Code.arenaDead
    else
      match headerOk l, s.saved.find? (fun x => imageBody x.id = l.drop 256) with
      | true, some x =>
        let (s', w) := match x.snap with | some n => s.revive x n | none => (s, x)
        match s'.restorePlace core (Foot.ofBytes ((l.drop 0x20).take 64)) with
        | none => done s Status.full 0
        | some cores =>
          let places := w.teams.zip cores
          if s'.restoreRoom w places then done (s'.restore w places stopped) Status.done 0 else done s Status.full 0
      | _, _ => done s Status.faulted Code.handle

/-- y.ctxl (R404): it begins the restore; a window of another die names no core on which an image fits (R398). -/
def execYCtxl (h : Hdr) (sub : BitVec 2) (d a : RegNo) (imm : BitVec 32) (s : State) :=
  issue .hearthOnly' h 12 { rd := [.s a], wr := [.s d] } s (fun is s => do
    is.memReady s
    let die := dieOf is.a
    let va := vaOf (is.addrS a imm)
    let w := (s.die die).window.toNat
    match ← is.imageRoute s va false with
    | none => s.instantFut is d Kind.priv 3 Status.faulted Code.arenaDead
    | some rt =>
      if bits w 11 5 ≠ die then s.instantFut is d Kind.priv 3 Status.full 0
      else s.beginSave is d [] 0 rt.attr.gen va (some (64 * die + 4 * bits w 7 4 + bits w 5 2, sub == 1)))

/-- A save or a restore goes on, where it can. -/
def State.goOn (s : State) (id : Nat) : Option State :=
  (s.saves.find? (fun v => v.id = id)).bind (fun v =>
    match v.restore with
    | none => s.goSave v
    | some (core, stopped) => s.goRestore v core stopped)

end Sys2Proof.Machine
end

