-- ==== Sys2Proof/WellFormed.lean ====
section
/-! DEFINITION. Well-formed instructions: every used field holds a value its entry defines (R28 to R35, check 9 of R41
and the static part of check 8). Events carry no encoding and are well-formed as they stand. -/

namespace Sys2Proof

/-- The instruction is an event of the opcode table and has no encoding. -/
def Instr.isEvent : Instr → Bool
  | .resultReturn .. => true
  | .faultRecordPost .. => true
  | .breakpointHit .. => true
  | .prFaultqWrite .. => true
  | .prFqconsWrite .. => true
  | .waveRetire .. => true
  | .teamRelease .. => true
  | .groupComplete .. => true
  | .gangPlacement .. => true
  | .recordBlocking .. => true
  | .waveSwitchOut .. => true
  | .waveSwitchResume .. => true
  | .claimGrant .. => true
  | .claimFail .. => true
  | .sleepExpiry .. => true
  | .arenaMasterRequest .. => true
  | .arenaBroadcastApply .. => true
  | .drainWatermark .. => true
  | .sealComplete .. => true
  | .ashSweepPass .. => true
  | .zeroFillPageDone .. => true
  | .translationWalk .. => true
  | .regionDrainSignal .. => true
  | .homeSliceOperation .. => true
  | .l1Fill .. => true
  | .l1Eviction .. => true
  | .sliceEviction .. => true
  | .rollUpDeltaApply .. => true
  | .ticketWaiterRetry .. => true
  | .amaxUpdateApply .. => true
  | .eccCorrected .. => true
  | .bankMarkFailed .. => true
  | .eccUncorrectable .. => true
  | .barrierHalfComplete .. => true
  | .copyBytesLand .. => true
  | .copyComplete .. => true
  | .scoreboardEntryFree .. => true
  | .tilePassGrant .. => true
  | .tilePassComplete .. => true
  | .tileTaskComplete .. => true
  | .rickOperationComplete .. => true
  | .hostBar2Read .. => true
  | .hostBar2Write .. => true
  | .bar0Write .. => true
  | .restartModule .. => true
  | .restartPartition .. => true
  | .mboxAttestation .. => true
  | .mboxImageChunk .. => true
  | .mboxImageCommit .. => true
  | .mboxFirmwareRequest .. => true
  | .larlanPortTrain .. => true
  | .larlanLaneLoss .. => true
  | .larlanKeyExpiry .. => true
  | .link .. => true
  | .larlanRemoteAccess .. => true
  | .moduleStart .. => true
  | .watchdogExpiry .. => true
  | .bringupOvertemp .. => true
  | .thermalThrottle .. => true
  | .thermalPowerOff .. => true
  | .changeTreeAgentRequest .. => true
  | .enrollmentApplied .. => true
  | .remapFilterApply .. => true
  | .translationCacheInvalidation .. => true
  | .idleTimeLimit .. => true
  | .powerLoss .. => true
  | _ => false

/-- Every used field holds a defined value (R41, check 9; R38 for KN with MD). The destinations of g.ld and a.ldacq are vector groups of a
wave and scalar registers of a stoker (R414), so their numbers are checked when the agent is known, at issue. DESIGN CHOICE (log 109): the
rows kv.bind.sub=unbind and kv.push.sub=stop use no register numbers of the base forms' operands (R433), and kv.rope takes an odd first
register for vD and vA (R431). -/
def Instr.wf : Instr → Bool
  | .pad4 => true
  | .sMov h d a => h.ok && sOk d && sOk a
  | .sMovi h sub d _ => h.ok && sOk d && sub != 3
  | .sAdd h d a src => h.ok && sOk d && sOk a && src.sOk
  | .sSub h d a src => h.ok && sOk d && sOk a && src.sOk
  | .sMul h sub d a src => h.ok && sOk d && sOk a && src.sOk && sub != 3
  | .sDiv h _ d a src => h.ok && sOk d && sOk a && src.sOk
  | .sAnd h d a src => h.ok && sOk d && sOk a && src.sOk
  | .sOr h d a src => h.ok && sOk d && sOk a && src.sOk
  | .sXor h d a src => h.ok && sOk d && sOk a && src.sOk
  | .sShl h d a src => h.ok && sOk d && sOk a && src.sOk
  | .sShr h d a src => h.ok && sOk d && sOk a && src.sOk
  | .sSra h d a src => h.ok && sOk d && sOk a && src.sOk
  | .sMin h sub d a src => h.ok && sOk d && sOk a && src.sOk && decide (sub.toNat < 2)
  | .sMax h sub d a src => h.ok && sOk d && sOk a && src.sOk && decide (sub.toNat < 2)
  | .sCmp h cond d a src => h.ok && sOk d && sOk a && src.sOk && decide (cond.toNat < 10)
  | .sSel h d a b c => h.ok && sOk d && sOk a && sOk b && sOk c
  | .sClz h sub d a => h.ok && sOk d && sOk a && decide (sub.toNat < 2)
  | .sPopc h sub d a => h.ok && sOk d && sOk a && decide (sub.toNat < 2)
  | .sBfx h sub d a src => h.ok && sOk d && sOk a && src.sOk && decide (sub.toNat < 2)
  | .sLea h d a b _ _ => h.ok && sOk d && sOk a && sOk b
  | .sRdsr h d a => h.ok && sOk d && decide (a.toNat < 0x18)
  | .sWrsr h d a => h.ok && sOk a && srWritable d
  | .sMovc h sub d a => h.ok && (if sub == 0 then tOk d && sOk a else sub == 1 && sOk d && tOk a)
  | .sRdk h d a => h.ok && sOk d && kOk a
  | .sWrk h d a => h.ok && kOk d && sOk a
  | .bNop h => h.ok
  | .bJmp h sub a _ => h.ok && decide (sub.toNat < 2) && (sub == 0 || sOk a)
  | .bBr h _ a _ => h.ok && sOk a
  | .bBrk h sub a _ => h.ok && kOk a && sub != 3
  | .bCall h sub d a _ => h.ok && sOk d && decide (sub.toNat < 2) && (sub == 0 || sOk a)
  | .bRet h a => h.ok && sOk a
  | .bSplit h a _ _ => h.ok && kOk a
  | .bJoin h => h.ok
  | .bExit h => h.ok
  | .bMeld h a b _ => h.ok && kOk a && kOk b && !h.md
  | .bUnmeld h => h.ok
  | .bMtab h sub a _ => h.ok && decide (sub.toNat < 2) && (sub == 1 || sOk a)
  | .bWcnt h _ _ _ _ => h.ok
  | .bTrap h _ => h.ok
  | .bTret h => h.ok
  | .bDbg h _ => h.ok
  | .vMov h t d a => h.ok && t.plain && t.tyIn [.b32, .i64] && t.pr d && t.pr a
  | .vMovs h t d a => h.ok && sOk a && t.plain && t.tyIn [.b32, .i64] && t.pr d
  | .vMovi h t _ _ => h.ok && t.plain && t.tyIn [.b32]
  | .vAdd h t d a src => h.ok && t.satOnly && t.tyIn [.b32, .n32, .i64, .n64] && t.pr d && t.pr a && t.prSrc src
  | .vSub h t d a src => h.ok && t.satOnly && t.tyIn [.b32, .n32, .i64, .n64] && t.pr d && t.pr a && t.prSrc src
  | .vMul h sub t _ _ _ => h.ok && t.satOnly && t.tyIn [.b32, .n32] && decide (sub.toNat < 2) && !(sub == 1 && t.sat)
  | .vMad h t _ _ _ _ => h.ok && t.satOnly && t.tyIn [.b32, .n32]
  | .vAnd h t d a src => h.ok && t.plain && t.tyIn [.b32, .i64] && t.pr d && t.pr a && t.prSrc src
  | .vOr h t d a src => h.ok && t.plain && t.tyIn [.b32, .i64] && t.pr d && t.pr a && t.prSrc src
  | .vXor h t d a src => h.ok && t.plain && t.tyIn [.b32, .i64] && t.pr d && t.pr a && t.prSrc src
  | .vShl h t d a src => h.ok && t.plain && t.tyIn [.b32, .i64] && t.pr d && t.pr a && t.prSrc src
  | .vShr h t d a src => h.ok && t.plain && t.tyIn [.b32, .i64] && t.pr d && t.pr a && t.prSrc src
  | .vSra h t d a src => h.ok && t.plain && t.tyIn [.b32, .i64] && t.pr d && t.pr a && t.prSrc src
  | .vMin h t d a src => h.ok && t.plain && t.tyIn [.b32, .n32, .i64, .n64] && t.pr d && t.pr a && t.prSrc src
  | .vMax h t d a src => h.ok && t.plain && t.tyIn [.b32, .n32, .i64, .n64] && t.pr d && t.pr a && t.prSrc src
  | .vAbs h t d a => h.ok && t.satOnly && t.tyIn [.b32, .i64] && t.pr d && t.pr a
  | .vCmp h sub t d a b cond => h.ok && kOk d && t.plain && t.tyIn [.b32, .n32, .i64, .n64] && t.pr a && t.pr b && decide (sub.toNat < 2) && decide (cond.toNat < 6)
  | .vSel h t d a b c => h.ok && kOk c && t.plain && t.tyIn [.b32, .i64] && t.pr d && t.pr a && t.pr b
  | .vClz h t _ _ => h.ok && t.plain && t.tyIn [.b32]
  | .vPopc h t _ _ => h.ok && t.plain && t.tyIn [.b32]
  | .vBfx h sub t _ _ _ => h.ok && t.plain && t.tyIn [.b32] && decide (sub.toNat < 2)
  | .vDot4 h _ t _ _ _ _ => h.ok && t.satOnly && t.tyIn [.b32]
  | .vLid h sub _ => h.ok && decide (sub.toNat < 2)
  | .vRand h _ => h.ok
  | .vRdflag h _ => h.ok
  | .vClrflag h _ => h.ok
  | .fAdd h t d a b => h.ok && t.rndOk && t.tyIn [.f32, .f64, .f16, .bf16] && t.pr d && t.pr a && t.pr b
  | .fSub h t d a b => h.ok && t.rndOk && t.tyIn [.f32, .f64, .f16, .bf16] && t.pr d && t.pr a && t.pr b
  | .fMul h t d a b => h.ok && t.rndOk && t.tyIn [.f32, .f64, .f16, .bf16] && t.pr d && t.pr a && t.pr b
  | .fFma h t d a b c => h.ok && t.rndOk && t.tyIn [.f32, .f64, .f16, .bf16] && t.pr d && t.pr a && t.pr b && t.pr c
  | .fMin h sub t d a b => h.ok && t.plain && t.tyIn [.f32, .f64, .f16, .bf16] && t.pr d && t.pr a && t.pr b && decide (sub.toNat < 2)
  | .fMax h sub t d a b => h.ok && t.plain && t.tyIn [.f32, .f64, .f16, .bf16] && t.pr d && t.pr a && t.pr b && decide (sub.toNat < 2)
  | .fCmp h sub t d a b cond => h.ok && kOk d && t.plain && t.tyIn [.f32, .f64] && t.pr a && t.pr b && decide (sub.toNat < 2) && decide (cond.toNat < 8)
  | .fCls h t _ a => h.ok && t.plain && t.tyIn [.f32, .f64] && t.pr a
  | .fRcp h t _ _ => h.ok && t.noSr && t.tyIn [.f32]
  | .fRsq h t _ _ => h.ok && t.noSr && t.tyIn [.f32]
  | .fSqrt h t d a => h.ok && t.noSr && t.tyIn [.f32, .f64] && t.pr d && t.pr a
  | .fDiv h t d a b => h.ok && t.noSr && t.tyIn [.f32, .f64] && t.pr d && t.pr a && t.pr b
  | .fExp2 h t _ _ => h.ok && t.noSr && t.tyIn [.f32]
  | .fLog2 h t _ _ => h.ok && t.noSr && t.tyIn [.f32]
  | .fSin h t _ _ => h.ok && t.noSr && t.tyIn [.f32]
  | .fCos h t _ _ => h.ok && t.noSr && t.tyIn [.f32]
  | .fCvt h t d a sty => h.ok && t.rndOk && t.pr d && sty.pr a && (!t.sr || t.ty.isFp)
  | .fPack h t d a sty _ => h.ok && t.rndOk && (!t.sr || t.ty.isFp) && t.tyIn packTys && [Ty.f32, .f16, .bf16, .b32].contains sty && fits a t.ty.groupK && fits d t.ty.groupM
  | .fUnpack h t d a sty esc => h.ok && t.rndOk && (!t.sr || t.ty.isFp) && packTys.contains sty && (t.tyIn [.f32, .f16, .bf16] || (t.ty == .b32 && [Ty.i8, .n8, .tern].contains sty && esc == 0)) && fits d sty.groupK && fits a sty.groupM
  | .fAmax h t _ src => h.ok && src.sOk && t.plain && t.tyIn [.f32, .f16, .bf16] && src.immLe 63
  | .xShfl h _ t d a src => h.ok && t.plain && t.tyIn [.b32, .i64] && t.pr d && t.pr a && t.prSrc src && src.shflOk
  | .xBcast h t d a src => h.ok && src.sOk && t.plain && t.tyIn [.b32, .i64] && t.pr d && t.pr a
  | .xVote h _ d a => h.ok && sOk d && kOk a
  | .xRed h t d a opr => h.ok && sOk d && t.plain && t.tyIn [.b32, .n32, .i64, .n64, .f32, .f64] && t.pr a && oprOk opr t.ty false
  | .xScan h sub t d a opr => h.ok && t.plain && t.tyIn [.b32, .n32, .i64, .n64, .f32, .f64] && t.pr d && t.pr a && oprOk opr t.ty false && decide (sub.toNat < 2)
  | .xPrmt h _ _ _ _ => h.ok
  | .xRdlane h t d a src => h.ok && sOk d && src.sOk && t.plain && t.tyIn [.b32, .i64] && t.pr a
  | .xWrlane h t d a src => h.ok && sOk a && src.sOk && t.plain && t.tyIn [.b32, .i64] && t.pr d
  | .xCnt h d a => h.ok && sOk d && kOk a
  | .xFirst h d a => h.ok && sOk d && kOk a
  | .lLd h vadr _ d a sz _ => h.ok && (vadr || sOk a) && szOk sz && grp sz d
  | .lSt h vadr a b sz _ => h.ok && (vadr || sOk a) && szOk sz && grp sz b
  | .lLdt h d a b _ => h.ok && tOk d && sOk a && sOk b
  | .lStt h d a b _ => h.ok && tOk d && sOk a && sOk b
  | .lAtom h vadr t d a b opr _ => h.ok && (vadr || sOk a) && t.plain && t.tyIn [.b32, .n32, .i64, .n64, .f32] && t.pr d && t.pr b && oprOk opr t.ty true
  | .lCas h vadr t d a b c _ => h.ok && (vadr || sOk a) && t.plain && t.tyIn [.b32, .n32, .i64, .n64] && t.pr d && t.pr b && t.pr c
  | .lFill h vadr a _ c _ => h.ok && (vadr || sOk a) && c != 0
  | .lSwz h vadr a _ _ => h.ok && (vadr || sOk a)
  | .gLd h _ a _ x1 => h.ok && x1.base a && szOk x1.sz && x1.ord == 0 && x1.scOk
  | .gSt h a b _ x1 => h.ok && x1.base a && szOk x1.sz && x1.ord == 0 && x1.scOk && grp x1.sz b
  | .gLdt h d a b _ x1 => h.ok && tOk d && sOk a && sOk b && !x1.vadr && x1.ord == 0 && x1.scOk
  | .gStt h d a b _ x1 => h.ok && tOk d && sOk a && sOk b && !x1.vadr && x1.ord == 0 && x1.scOk
  | .gPf h a _ x1 => h.ok && x1.base a && x1.ord == 0 && x1.scOk
  | .gLdnf h d a c _ x1 => h.ok && kOk c && x1.base a && szOk x1.sz && x1.ord == 0 && x1.scOk && grp x1.sz d
  | .aRmw h t d a b opr _ x1 => h.ok && x1.base a && t.plain && t.tyIn [.b32, .n32, .f32, .bf16, .i64, .n64] && t.pr d && t.pr b && oprOk opr t.ty true && x1.sz == t.ty.sz && x1.scOk
  | .aCas h d a b c _ x1 => h.ok && x1.base a && (x1.sz == 2 || x1.sz == 3 || x1.sz == 4) && grp x1.sz d && grp x1.sz b && grp x1.sz c && x1.scOk
  | .aRed h t a b opr _ x1 => h.ok && x1.base a && t.plain && t.tyIn [.b32, .n32, .f32, .bf16, .i64, .n64] && t.pr b && oprOk opr t.ty true && x1.sz == t.ty.sz && x1.scOk && (x1.ord == 0 || x1.ord == 2)
  | .aLdacq h _ a _ x1 => h.ok && x1.base a && decide (x1.sz.toNat < 4) && x1.ord == 1 && x1.scOk
  | .aStrel h a b _ x1 => h.ok && x1.base a && decide (x1.sz.toNat < 4) && x1.ord == 2 && x1.scOk && grp x1.sz b
  | .aFence h sub sc => h.ok && sub != 3 && scOk sc
  | .aBarInit h a b _ => h.ok && sOk a && sOk b
  | .aBarArrive h sub d a b _ => h.ok && sOk d && sOk a && sub != 3 && (sub == 0 || sOk b)
  | .aBarWait h a b _ => h.ok && sOk a && sOk b
  | .aBarSync h d a _ => h.ok && sOk d && sOk a
  | .aBarExpect h sub a b _ => h.ok && sOk a && sOk b && decide (sub.toNat < 2)
  | .aBarTest h d a b _ => h.ok && sOk d && sOk a && sOk b
  | .aTktTake h d a _ x1 => h.ok && sOk d && sOk a && !x1.vadr && x1.ord == 0 && x1.scOk
  | .aTktWait h a b _ x1 => h.ok && sOk a && sOk b && !x1.vadr && x1.ord == 1 && x1.scOk
  | .aTktServe h a src _ x1 => h.ok && sOk a && src.sOk && !x1.vadr && x1.ord == 2 && x1.scOk
  | .aWatch h d a b _ x1 => h.ok && sOk d && sOk a && sOk b && !x1.vadr && x1.ord == 1 && x1.scOk && (x1.sz == 2 || x1.sz == 3)
  | .mMma h _ d a b c _ _ _ _ _ _ sc _ => h.ok && sOk d && tOk a && tOk b && aOk c && scOk sc
  | .mMmt h _ d a b c _ _ _ sc _ => h.ok && sOk d && tOk a && tOk b && aOk c && scOk sc
  | .mEnq h sub d a => h.ok && sOk d && sOk a && decide (sub.toNat < 2)
  | .mZero h d a => h.ok && sOk d && aOk a
  | .mLdacc h sub d a b c _ _ _ => h.ok && sOk d && aOk a && decide (sub.toNat < 2) && (if sub == 0 then tOk b else sOk b && sOk c)
  | .mStacc h sub d a b c _ _ _ => h.ok && sOk d && aOk a && decide (sub.toNat < 2) && (if sub == 0 then tOk b else sOk b && sOk c)
  | .mCvst h _ t d a b c cv => h.ok && sOk d && aOk a && sOk b && sOk c && t.rndOk && t.tyIn [.f32, .f16, .bf16, .e5m2, .e4m3, .e3m2, .e2m3, .e2m1, .b32, .i8, .n8] && scOk cv.sc && (t.ty.isFp || (cv.esc == 0 && !cv.amen && !t.sr))
  | .mRstat h d a _ _ => h.ok && aOk a && fits d 6
  | .mAmax h sub d src => h.ok && sOk d && src.sOk && decide (sub.toNat < 2) && src.immLe 63
  | .mResv h d a => h.ok && sOk d && sOk a
  | .qSpawn h sub d a _ => h.ok && sOk d && sOk a && decide (sub.toNat < 2)
  | .qLaunch h sub d a _ => h.ok && sOk d && sOk a && decide (sub.toNat < 2)
  | .qFwait h sub d a sc => h.ok && sOk d && sOk a && decide (sub.toNat < 2) && scOk sc
  | .qFtest h sub d a => h.ok && sOk d && sOk a && decide (sub.toNat < 2)
  | .qFcancel h sub d a => h.ok && sOk d && sOk a && decide (sub.toNat < 2)
  | .qFmov h sub d a b _ => h.ok && sOk a && (if sub == 0 then sOk d else sub == 1 && sOk b)
  | .qClaim h d src => h.ok && sOk d && src.sOk
  | .qGive h src => h.ok && src.sOk
  | .qLive h _ => h.ok
  | .qYield h => h.ok
  | .qSleep h src => h.ok && src.sOk
  | .eCopy h d a b c _ x => h.ok && sOk d && sOk a && sOk b && sOk c && scOk x.sc
  | .eCopy2 h d a b c _ x => h.ok && sOk d && sOk a && sOk b && sOk c && scOk x.sc && !c.getLsbD 0
  | .eGath h d a b c _ x => h.ok && sOk d && sOk a && sOk b && sOk c && scOk x.sc && !c.getLsbD 0
  | .eScat h d a b c _ x => h.ok && sOk d && sOk a && sOk b && sOk c && scOk x.sc && !c.getLsbD 0
  | .eFill h d a b c _ x => h.ok && sOk d && sOk a && sOk b && sOk c && scOk x.sc
  | .eBcast h d a b c _ x => h.ok && sOk d && sOk a && sOk b && sOk c && scOk x.sc && x.dls
  | .eRkinit h sub d a _ _ _ => h.ok && sOk d && sOk a && decide (sub.toNat < 2)
  | .eRkstep h sub d b _ _ _ => h.ok && sOk d && (if sub == 0 then aOk b else if sub == 2 then true else sOk b)
  | .eRkread h sub d a _ _ _ => h.ok && sOk d && aOk a && decide (sub.toNat < 2)
  | .eRkld h d a _ _ _ => h.ok && sOk d && aOk a
  | .eRkst h d a _ _ _ => h.ok && sOk d && aOk a
  | .eRksave h sub d a _ _ rx => h.ok && sOk d && sub != 3 && (sub == 2 || sOk a) && scOk rx.sc
  | .eRkrest h sub d a _ _ rx => h.ok && sOk d && sub != 3 && (sub == 2 || sOk a) && scOk rx.sc
  | .eRkstat h d _ _ => h.ok && sOk d
  | .kvBind h d a b _ => h.ok && sOk d && sOk a && sOk b
  | .kvUnbind h d => h.ok && sOk d
  | .kvPop h d a => h.ok && sOk d && qOk a
  | .kvAck h a => h.ok && qOk a
  | .kvAckFut h a b => h.ok && qOk a && sOk b
  | .kvCur h d a => h.ok && sOk d && qOk a
  | .kvApp h d a b sc => h.ok && sOk d && sOk a && sOk b && scOk sc
  | .kvFind h d a b => h.ok && sOk d && sOk a && sOk b && !a.getLsbD 0
  | .kvIns h d a b c => h.ok && sOk d && sOk a && sOk b && sOk c && !a.getLsbD 0
  | .kvRel h d a b => h.ok && sOk d && sOk a && sOk b && !a.getLsbD 0
  | .kvTrunc h d a b sc => h.ok && sOk d && sOk a && sOk b && scOk sc
  | .kvRope h d a _ _ p => h.ok && fits d 2 && fits a 2 && decide (8 ≤ p.toNat) && decide (p.toNat ≤ 128)
  | .kvRpset h a _ => h.ok && sOk a
  | .kvPush h a b => h.ok && qOk a && sOk b
  | .kvPushEnd h a => h.ok && qOk a
  | .kvPushStop h => h.ok
  | .cAnew h d a quota _ swm typ => h.ok && sOk d && sOk a && decide (1 ≤ quota.toNat) && decide (quota.toNat ≤ 256) && (!swm || typ == 0)
  | .cSeal h d a => h.ok && sOk d && sOk a
  | .cDrop h d a => h.ok && sOk d && sOk a
  | .cAq h sub d a => h.ok && sOk d && sOk a && decide (sub.toNat < 2)
  | .cWbr h d a b => h.ok && sOk d && sOk a && sOk b
  | .cInvr h d a b => h.ok && sOk d && sOk a && sOk b
  | .cCtnew h d a _ => h.ok && sOk d && sOk a
  | .cCtenr h sub d a b _ => h.ok && sOk d && sOk a && sOk b && decide (sub.toNat < 2)
  | .cCtenrWithdraw h d a b => h.ok && sOk d && sOk a && sOk b
  | .cCtpar h d a b => h.ok && sOk d && sOk a && sOk b
  | .cCtrd h d a => h.ok && sOk d && sOk a
  | .cSettle h d a => h.ok && sOk d && sOk a
  | .cCtdel h d a => h.ok && sOk d && sOk a
  | .yRdpr h d a => h.ok && sOk d && prKnown a
  | .yWrpr h d a => h.ok && sOk a && prKnown d
  | .yMap h d a b _ _ _ => h.ok && sOk d && sOk a && sOk b
  | .yMapFilter h d a b _ _ => h.ok && sOk d && sOk a && sOk b
  | .yUnmap h d a _ => h.ok && sOk d && sOk a
  | .yUnmapFilter h d _ => h.ok && sOk d
  | .yXinvInval h d a b => h.ok && sOk d && sOk a && sOk b
  | .yXinvReplay h d a b => h.ok && sOk d && sOk a && sOk b
  | .yXinvFail h d a b _ => h.ok && sOk d && sOk a && sOk b
  | .yRegn h d a b => h.ok && sOk d && sOk a && sOk b
  | .yWinRead h d _ => h.ok && sOk d
  | .yWinWrite h b _ => h.ok && sOk b
  | .yWinStop h => h.ok
  | .yCtxs h sub d a _ => h.ok && sOk d && sOk a && decide (sub.toNat < 2)
  | .yCtxl h sub d a _ => h.ok && sOk d && sOk a && decide (sub.toNat < 2)
  | .yEretResume h => h.ok
  | .yEretStep h => h.ok
  | .yEretKillThreads h b => h.ok && sOk b
  | .yEretKillTeam h => h.ok
  | .yIdle h d b => h.ok && sOk d && sOk b
  | .resultReturn .. => true
  | .faultRecordPost .. => true
  | .breakpointHit .. => true
  | .prFaultqWrite .. => true
  | .prFqconsWrite .. => true
  | .waveRetire .. => true
  | .teamRelease .. => true
  | .groupComplete .. => true
  | .gangPlacement .. => true
  | .recordBlocking .. => true
  | .waveSwitchOut .. => true
  | .waveSwitchResume .. => true
  | .claimGrant .. => true
  | .claimFail .. => true
  | .sleepExpiry .. => true
  | .arenaMasterRequest .. => true
  | .arenaBroadcastApply .. => true
  | .drainWatermark .. => true
  | .sealComplete .. => true
  | .ashSweepPass .. => true
  | .zeroFillPageDone .. => true
  | .translationWalk .. => true
  | .regionDrainSignal .. => true
  | .homeSliceOperation .. => true
  | .l1Fill .. => true
  | .l1Eviction .. => true
  | .sliceEviction .. => true
  | .rollUpDeltaApply .. => true
  | .ticketWaiterRetry .. => true
  | .amaxUpdateApply .. => true
  | .eccCorrected .. => true
  | .bankMarkFailed .. => true
  | .eccUncorrectable .. => true
  | .barrierHalfComplete .. => true
  | .copyBytesLand .. => true
  | .copyComplete .. => true
  | .scoreboardEntryFree .. => true
  | .tilePassGrant .. => true
  | .tilePassComplete .. => true
  | .tileTaskComplete .. => true
  | .rickOperationComplete .. => true
  | .hostBar2Read .. => true
  | .hostBar2Write .. => true
  | .bar0Write .. => true
  | .restartModule .. => true
  | .restartPartition .. => true
  | .mboxAttestation .. => true
  | .mboxImageChunk .. => true
  | .mboxImageCommit .. => true
  | .mboxFirmwareRequest .. => true
  | .larlanPortTrain .. => true
  | .larlanLaneLoss .. => true
  | .larlanKeyExpiry .. => true
  | .link .. => true
  | .larlanRemoteAccess .. => true
  | .moduleStart .. => true
  | .watchdogExpiry .. => true
  | .bringupOvertemp .. => true
  | .thermalThrottle .. => true
  | .thermalPowerOff .. => true
  | .changeTreeAgentRequest .. => true
  | .enrollmentApplied .. => true
  | .remapFilterApply .. => true
  | .translationCacheInvalidation .. => true
  | .idleTimeLimit .. => true
  | .powerLoss .. => true

end Sys2Proof
end

