-- ==== Sys2Proof/Decode.lean ====
section
/-! DEFINITION. The decoder of R41 and the encoder, both written from the encoding tables of the chapters. A word of up
to 128 bits is read as its fields (R27, R28, R32, R33), the fields as an instruction, and the instruction is checked to
be well-formed. -/

namespace Sys2Proof

/-- The fields of an instruction word (R27, R28), with parcel 2 or X0 in x0 and X1 in x1 (R32, R33). -/
structure Fields where
  len : BitVec 2
  pk : Bool
  md : Bool
  cls : BitVec 4
  op : BitVec 8
  kp : BitVec 4
  kn : Bool
  sub : BitVec 2
  i : Bool
  d : BitVec 8
  a : BitVec 8
  b : BitVec 8
  c : BitVec 8
  t : BitVec 8
  x0 : BitVec 32
  x1 : BitVec 32
  deriving DecidableEq, Repr

/-- The word of the fields, bit 0 its least significant bit (R23, R27, R28). -/
def Fields.word (f : Fields) : BitVec 128 :=
  f.x1 ++ f.x0 ++ f.t ++ f.c ++ f.b ++ f.a ++ f.d ++ BitVec.ofBool f.i ++ f.sub ++ BitVec.ofBool f.kn ++ f.kp ++ f.op
    ++ f.cls ++ BitVec.ofBool f.md ++ BitVec.ofBool f.pk ++ f.len

/-- The fields of a word (R27, R28, R32, R33). -/
def Fields.ofWord (w : BitVec 128) : Fields :=
  { len := w.extractLsb' 0 2, pk := w.getLsbD 2, md := w.getLsbD 3, cls := w.extractLsb' 4 4, op := w.extractLsb' 8 8,
    kp := w.extractLsb' 16 4, kn := w.getLsbD 20, sub := w.extractLsb' 21 2, i := w.getLsbD 23, d := w.extractLsb' 24 8,
    a := w.extractLsb' 32 8, b := w.extractLsb' 40 8, c := w.extractLsb' 48 8, t := w.extractLsb' 56 8,
    x0 := w.extractLsb' 64 32, x1 := w.extractLsb' 96 32 }

/-- The header part of the fields. -/
def Fields.hdr (f : Fields) : Hdr := { pk := f.pk, md := f.md, kn := f.kn, kp := f.kp }

/-- The src operand: IMM16 with C its high byte when I = 1, else register B (R31). -/
def Fields.src (f : Fields) : Src := if f.i then .imm (f.c ++ f.b) else .reg f.b

/-- The operand is an immediate. -/
def Src.isImm : Src → Bool
  | .imm _ => true
  | .reg _ => false
/-- The B byte of a src operand (R31). -/
def Src.bByte : Src → BitVec 8
  | .imm v => v.extractLsb' 0 8
  | .reg r => r
/-- The C byte of a src operand (R31). -/
def Src.cByte : Src → BitVec 8
  | .imm v => v.extractLsb' 8 8
  | .reg _ => 0

/-- LEN of a length in bytes (R27). -/
def lenCode : Nat → BitVec 2
  | 8 => 0
  | 12 => 1
  | _ => 2

/-- Bytes of a LEN code other than 11 (R27). -/
def lenBytes (l : BitVec 2) : Nat :=
  match l.toNat with
  | 0 => 8
  | 1 => 12
  | _ => 16

/-- Fields with the header given and every other field zero. -/
def Fields.base (h : Hdr) (cls : BitVec 4) (op : BitVec 8) (nb : Nat) : Fields :=
  { len := lenCode nb, pk := h.pk, md := h.md, cls := cls, op := op, kp := h.kp, kn := h.kn, sub := 0, i := false,
    d := 0, a := 0, b := 0, c := 0, t := 0, x0 := 0, x1 := 0 }

/-- The instruction, where its guard on SUB and I holds (R31, R35). -/
def need (g : Bool) (i : Instr) : Option Instr := if g then some i else none

/-- Lengths in bytes of the s class, in the order of OP (R40). -/
def lensS : List Nat := [8, 12, 8, 8, 8, 8, 8, 8, 8, 8, 8, 8, 8, 8, 8, 8, 8, 8, 8, 12, 8, 8, 8, 8, 8]

/-- The operand fields of the s class. -/
def parseS (f : Fields) : Option Instr :=
  match f.op.toNat with
  | 0 => need (!f.i && f.sub == 0) (.sMov f.hdr f.d f.a)
  | 1 => need (!f.i) (.sMovi f.hdr f.sub f.d f.x0)
  | 2 => need (f.sub == 0) (.sAdd f.hdr f.d f.a f.src)
  | 3 => need (f.sub == 0) (.sSub f.hdr f.d f.a f.src)
  | 4 => need (true) (.sMul f.hdr f.sub f.d f.a f.src)
  | 5 => need (true) (.sDiv f.hdr f.sub f.d f.a f.src)
  | 6 => need (f.sub == 0) (.sAnd f.hdr f.d f.a f.src)
  | 7 => need (f.sub == 0) (.sOr f.hdr f.d f.a f.src)
  | 8 => need (f.sub == 0) (.sXor f.hdr f.d f.a f.src)
  | 9 => need (f.sub == 0) (.sShl f.hdr f.d f.a f.src)
  | 10 => need (f.sub == 0) (.sShr f.hdr f.d f.a f.src)
  | 11 => need (f.sub == 0) (.sSra f.hdr f.d f.a f.src)
  | 12 => need (true) (.sMin f.hdr f.sub f.d f.a f.src)
  | 13 => need (true) (.sMax f.hdr f.sub f.d f.a f.src)
  | 14 => need (f.sub == 0) (.sCmp f.hdr (f.t.extractLsb' 0 4) f.d f.a f.src)
  | 15 => need (!f.i && f.sub == 0) (.sSel f.hdr f.d f.a f.b f.c)
  | 16 => need (!f.i) (.sClz f.hdr f.sub f.d f.a)
  | 17 => need (!f.i) (.sPopc f.hdr f.sub f.d f.a)
  | 18 => need (true) (.sBfx f.hdr f.sub f.d f.a f.src)
  | 19 => need (!f.i && f.sub == 0) (.sLea f.hdr f.d f.a f.b (f.c.extractLsb' 0 6) f.x0)
  | 20 => need (!f.i && f.sub == 0) (.sRdsr f.hdr f.d f.a)
  | 21 => need (!f.i && f.sub == 0) (.sWrsr f.hdr f.d f.a)
  | 22 => need (!f.i) (.sMovc f.hdr f.sub f.d f.a)
  | 23 => need (!f.i && f.sub == 0) (.sRdk f.hdr f.d f.a)
  | 24 => need (!f.i && f.sub == 0) (.sWrk f.hdr f.d f.a)
  | _ => none

/-- Lengths in bytes of the b class, in the order of OP (R40). -/
def lensB : List Nat := [8, 12, 12, 12, 12, 8, 16, 8, 8, 12, 8, 12, 8, 8, 8, 8]

/-- The operand fields of the b class. -/
def parseB (f : Fields) : Option Instr :=
  match f.op.toNat with
  | 0 => need (!f.i && f.sub == 0) (.bNop f.hdr)
  | 1 => need (!f.i) (.bJmp f.hdr f.sub f.a f.x0)
  | 2 => need (!f.i) (.bBr f.hdr f.sub f.a f.x0)
  | 3 => need (!f.i) (.bBrk f.hdr f.sub f.a f.x0)
  | 4 => need (!f.i) (.bCall f.hdr f.sub f.d f.a f.x0)
  | 5 => need (!f.i && f.sub == 0) (.bRet f.hdr f.a)
  | 6 => need (!f.i && f.sub == 0) (.bSplit f.hdr f.a f.x0 f.x1)
  | 7 => need (!f.i && f.sub == 0) (.bJoin f.hdr)
  | 8 => need (!f.i && f.sub == 0) (.bExit f.hdr)
  | 9 => need (!f.i && f.sub == 0) (.bMeld f.hdr f.a f.b (f.x0.extractLsb' 0 3))
  | 10 => need (!f.i && f.sub == 0) (.bUnmeld f.hdr)
  | 11 => need (!f.i) (.bMtab f.hdr f.sub f.a f.x0)
  | 12 => need (!f.i && f.sub == 0) (.bWcnt f.hdr (f.a.extractLsb' 0 6) (f.b.extractLsb' 0 6) (f.c.extractLsb' 0 6) (f.t.extractLsb' 0 6))
  | 13 => need (f.sub == 0) (.bTrap f.hdr (if f.i then f.b else 0))
  | 14 => need (!f.i && f.sub == 0) (.bTret f.hdr)
  | 15 => need (f.sub == 0) (.bDbg f.hdr (if f.i then f.b else 0))
  | _ => none

/-- Lengths in bytes of the v class, in the order of OP (R40). -/
def lensV : List Nat := [8, 8, 12, 8, 8, 8, 8, 8, 8, 8, 8, 8, 8, 8, 8, 8, 8, 8, 8, 8, 8, 8, 8, 8, 8, 8]

/-- The operand fields of the v class. -/
def parseV (f : Fields) : Option Instr :=
  match f.op.toNat with
  | 0 => need (!f.i && f.sub == 0) (.vMov f.hdr (.ofByte f.t) f.d f.a)
  | 1 => need (!f.i && f.sub == 0) (.vMovs f.hdr (.ofByte f.t) f.d f.a)
  | 2 => need (!f.i && f.sub == 0) (.vMovi f.hdr (.ofByte f.t) f.d f.x0)
  | 3 => need (f.sub == 0) (.vAdd f.hdr (.ofByte f.t) f.d f.a f.src)
  | 4 => need (f.sub == 0) (.vSub f.hdr (.ofByte f.t) f.d f.a f.src)
  | 5 => need (true) (.vMul f.hdr f.sub (.ofByte f.t) f.d f.a f.src)
  | 6 => need (!f.i && f.sub == 0) (.vMad f.hdr (.ofByte f.t) f.d f.a f.b f.c)
  | 7 => need (f.sub == 0) (.vAnd f.hdr (.ofByte f.t) f.d f.a f.src)
  | 8 => need (f.sub == 0) (.vOr f.hdr (.ofByte f.t) f.d f.a f.src)
  | 9 => need (f.sub == 0) (.vXor f.hdr (.ofByte f.t) f.d f.a f.src)
  | 10 => need (f.sub == 0) (.vShl f.hdr (.ofByte f.t) f.d f.a f.src)
  | 11 => need (f.sub == 0) (.vShr f.hdr (.ofByte f.t) f.d f.a f.src)
  | 12 => need (f.sub == 0) (.vSra f.hdr (.ofByte f.t) f.d f.a f.src)
  | 13 => need (f.sub == 0) (.vMin f.hdr (.ofByte f.t) f.d f.a f.src)
  | 14 => need (f.sub == 0) (.vMax f.hdr (.ofByte f.t) f.d f.a f.src)
  | 15 => need (!f.i && f.sub == 0) (.vAbs f.hdr (.ofByte f.t) f.d f.a)
  | 16 => need (!f.i) (.vCmp f.hdr f.sub (.ofByte f.t) f.d f.a f.b (f.c.extractLsb' 0 4))
  | 17 => need (!f.i && f.sub == 0) (.vSel f.hdr (.ofByte f.t) f.d f.a f.b f.c)
  | 18 => need (!f.i && f.sub == 0) (.vClz f.hdr (.ofByte f.t) f.d f.a)
  | 19 => need (!f.i && f.sub == 0) (.vPopc f.hdr (.ofByte f.t) f.d f.a)
  | 20 => need (true) (.vBfx f.hdr f.sub (.ofByte f.t) f.d f.a f.src)
  | 21 => need (!f.i) (.vDot4 f.hdr f.sub (.ofByte f.t) f.d f.a f.b f.c)
  | 22 => need (!f.i) (.vLid f.hdr f.sub f.d)
  | 23 => need (!f.i && f.sub == 0) (.vRand f.hdr f.d)
  | 24 => need (!f.i && f.sub == 0) (.vRdflag f.hdr f.d)
  | 25 => need (f.sub == 0) (.vClrflag f.hdr f.src)
  | _ => none

/-- Lengths in bytes of the f class, in the order of OP (R40). -/
def lensF : List Nat := [8, 8, 8, 8, 8, 8, 8, 8, 8, 8, 8, 8, 8, 8, 8, 8, 8, 12, 12, 8]

/-- The operand fields of the f class. -/
def parseF (f : Fields) : Option Instr :=
  match f.op.toNat with
  | 0 => need (!f.i && f.sub == 0) (.fAdd f.hdr (.ofByte f.t) f.d f.a f.b)
  | 1 => need (!f.i && f.sub == 0) (.fSub f.hdr (.ofByte f.t) f.d f.a f.b)
  | 2 => need (!f.i && f.sub == 0) (.fMul f.hdr (.ofByte f.t) f.d f.a f.b)
  | 3 => need (!f.i && f.sub == 0) (.fFma f.hdr (.ofByte f.t) f.d f.a f.b f.c)
  | 4 => need (!f.i) (.fMin f.hdr f.sub (.ofByte f.t) f.d f.a f.b)
  | 5 => need (!f.i) (.fMax f.hdr f.sub (.ofByte f.t) f.d f.a f.b)
  | 6 => need (!f.i) (.fCmp f.hdr f.sub (.ofByte f.t) f.d f.a f.b (f.c.extractLsb' 0 4))
  | 7 => need (!f.i && f.sub == 0) (.fCls f.hdr (.ofByte f.t) f.d f.a)
  | 8 => need (!f.i && f.sub == 0) (.fRcp f.hdr (.ofByte f.t) f.d f.a)
  | 9 => need (!f.i && f.sub == 0) (.fRsq f.hdr (.ofByte f.t) f.d f.a)
  | 10 => need (!f.i && f.sub == 0) (.fSqrt f.hdr (.ofByte f.t) f.d f.a)
  | 11 => need (!f.i && f.sub == 0) (.fDiv f.hdr (.ofByte f.t) f.d f.a f.b)
  | 12 => need (!f.i && f.sub == 0) (.fExp2 f.hdr (.ofByte f.t) f.d f.a)
  | 13 => need (!f.i && f.sub == 0) (.fLog2 f.hdr (.ofByte f.t) f.d f.a)
  | 14 => need (!f.i && f.sub == 0) (.fSin f.hdr (.ofByte f.t) f.d f.a)
  | 15 => need (!f.i && f.sub == 0) (.fCos f.hdr (.ofByte f.t) f.d f.a)
  | 16 => need (!f.i && f.sub == 0) (.fCvt f.hdr (.ofByte f.t) f.d f.a (.ofCode (f.c.extractLsb' 0 4)))
  | 17 => need (!f.i && f.sub == 0) (.fPack f.hdr (.ofByte f.t) f.d f.a (.ofCode (f.c.extractLsb' 0 4)) (f.x0.extractLsb' 0 8))
  | 18 => need (!f.i && f.sub == 0) (.fUnpack f.hdr (.ofByte f.t) f.d f.a (.ofCode (f.c.extractLsb' 0 4)) (f.x0.extractLsb' 0 8))
  | 19 => need (f.sub == 0) (.fAmax f.hdr (.ofByte f.t) f.a f.src)
  | _ => none

/-- Lengths in bytes of the x class, in the order of OP (R40). -/
def lensX : List Nat := [8, 8, 8, 8, 8, 8, 8, 8, 8, 8]

/-- The operand fields of the x class. -/
def parseX (f : Fields) : Option Instr :=
  match f.op.toNat with
  | 0 => need (true) (.xShfl f.hdr f.sub (.ofByte f.t) f.d f.a f.src)
  | 1 => need (f.sub == 0) (.xBcast f.hdr (.ofByte f.t) f.d f.a f.src)
  | 2 => need (!f.i) (.xVote f.hdr f.sub f.d f.a)
  | 3 => need (!f.i && f.sub == 0) (.xRed f.hdr (.ofByte f.t) f.d f.a (f.c.extractLsb' 0 3))
  | 4 => need (!f.i) (.xScan f.hdr f.sub (.ofByte f.t) f.d f.a (f.c.extractLsb' 0 3))
  | 5 => need (!f.i && f.sub == 0) (.xPrmt f.hdr f.d f.a f.b f.c)
  | 6 => need (f.sub == 0) (.xRdlane f.hdr (.ofByte f.t) f.d f.a f.src)
  | 7 => need (f.sub == 0) (.xWrlane f.hdr (.ofByte f.t) f.d f.a f.src)
  | 8 => need (!f.i && f.sub == 0) (.xCnt f.hdr f.d f.a)
  | 9 => need (!f.i && f.sub == 0) (.xFirst f.hdr f.d f.a)
  | _ => none

/-- Lengths in bytes of the l class, in the order of OP (R40). -/
def lensL : List Nat := [12, 12, 12, 12, 12, 12, 12, 12]

/-- The operand fields of the l class. -/
def parseL (f : Fields) : Option Instr :=
  match f.op.toNat with
  | 0 => need (!f.i) (.lLd f.hdr (f.sub.getLsbD 0) (f.sub.getLsbD 1) f.d f.a (f.t.extractLsb' 0 3) f.x0)
  | 1 => need (!f.sub.getLsbD 1 && !f.i) (.lSt f.hdr (f.sub.getLsbD 0) f.a f.b (f.t.extractLsb' 0 3) f.x0)
  | 2 => need (!f.i && f.sub == 0) (.lLdt f.hdr f.d f.a f.b f.x0)
  | 3 => need (!f.i && f.sub == 0) (.lStt f.hdr f.d f.a f.b f.x0)
  | 4 => need (!f.sub.getLsbD 1 && !f.i) (.lAtom f.hdr (f.sub.getLsbD 0) (.ofByte f.t) f.d f.a f.b (f.c.extractLsb' 0 3) f.x0)
  | 5 => need (!f.sub.getLsbD 1 && !f.i) (.lCas f.hdr (f.sub.getLsbD 0) (.ofByte f.t) f.d f.a f.b f.c f.x0)
  | 6 => need (!f.sub.getLsbD 1 && !f.i) (.lFill f.hdr (f.sub.getLsbD 0) f.a f.b f.c f.x0)
  | 7 => need (!f.sub.getLsbD 1 && !f.i) (.lSwz f.hdr (f.sub.getLsbD 0) f.a (f.c.extractLsb' 0 3) f.x0)
  | _ => none

/-- Lengths in bytes of the g class, in the order of OP (R40). -/
def lensG : List Nat := [16, 16, 16, 16, 16, 16]

/-- The operand fields of the g class. -/
def parseG (f : Fields) : Option Instr :=
  match f.op.toNat with
  | 0 => need (!f.i && f.sub == 0) (.gLd f.hdr f.d f.a f.x0 (.ofWord f.x1))
  | 1 => need (!f.i && f.sub == 0) (.gSt f.hdr f.a f.b f.x0 (.ofWord f.x1))
  | 2 => need (!f.i && f.sub == 0) (.gLdt f.hdr f.d f.a f.b f.x0 (.ofWord f.x1))
  | 3 => need (!f.i && f.sub == 0) (.gStt f.hdr f.d f.a f.b f.x0 (.ofWord f.x1))
  | 4 => need (!f.i && f.sub == 0) (.gPf f.hdr f.a f.x0 (.ofWord f.x1))
  | 5 => need (!f.i && f.sub == 0) (.gLdnf f.hdr f.d f.a f.c f.x0 (.ofWord f.x1))
  | _ => none

/-- Lengths in bytes of the a class, in the order of OP (R40). -/
def lensA : List Nat := [16, 16, 16, 16, 16, 8, 12, 12, 12, 12, 12, 12, 16, 16, 16, 16]

/-- The operand fields of the a class. -/
def parseA (f : Fields) : Option Instr :=
  match f.op.toNat with
  | 0 => need (!f.i && f.sub == 0) (.aRmw f.hdr (.ofByte f.t) f.d f.a f.b (f.c.extractLsb' 0 3) f.x0 (.ofWord f.x1))
  | 1 => need (!f.i && f.sub == 0) (.aCas f.hdr f.d f.a f.b f.c f.x0 (.ofWord f.x1))
  | 2 => need (!f.i && f.sub == 0) (.aRed f.hdr (.ofByte f.t) f.a f.b (f.c.extractLsb' 0 3) f.x0 (.ofWord f.x1))
  | 3 => need (!f.i && f.sub == 0) (.aLdacq f.hdr f.d f.a f.x0 (.ofWord f.x1))
  | 4 => need (!f.i && f.sub == 0) (.aStrel f.hdr f.a f.b f.x0 (.ofWord f.x1))
  | 5 => need (!f.i) (.aFence f.hdr f.sub (f.t.extractLsb' 0 3))
  | 6 => need (!f.i && f.sub == 0) (.aBarInit f.hdr f.a f.b f.x0)
  | 7 => need (!f.i) (.aBarArrive f.hdr f.sub f.d f.a f.b f.x0)
  | 8 => need (!f.i && f.sub == 0) (.aBarWait f.hdr f.a f.b f.x0)
  | 9 => need (!f.i && f.sub == 0) (.aBarSync f.hdr f.d f.a f.x0)
  | 10 => need (!f.i) (.aBarExpect f.hdr f.sub f.a f.b f.x0)
  | 11 => need (!f.i && f.sub == 0) (.aBarTest f.hdr f.d f.a f.b f.x0)
  | 12 => need (!f.i && f.sub == 0) (.aTktTake f.hdr f.d f.a f.x0 (.ofWord f.x1))
  | 13 => need (!f.i && f.sub == 0) (.aTktWait f.hdr f.a f.b f.x0 (.ofWord f.x1))
  | 14 => need (f.sub == 0) (.aTktServe f.hdr f.a f.src f.x0 (.ofWord f.x1))
  | 15 => need (!f.i && f.sub == 0) (.aWatch f.hdr f.d f.a f.b f.x0 (.ofWord f.x1))
  | _ => none

/-- Lengths in bytes of the m class, in the order of OP (R40). -/
def lensM : List Nat := [16, 16, 8, 8, 12, 12, 16, 12, 8, 8]

/-- The operand fields of the m class. -/
def parseM (f : Fields) : Option Instr :=
  match f.op.toNat with
  | 0 => need (!f.i) (.mMma f.hdr f.sub f.d f.a f.b f.c (f.t.getLsbD 7) (f.t.getLsbD 6) (f.t.extractLsb' 3 3) (f.t.extractLsb' 0 3) f.x0 (f.x1.extractLsb' 0 2) (f.x1.extractLsb' 2 3) (f.x1.getLsbD 5))
  | 1 => need (!f.i) (.mMmt f.hdr f.sub f.d f.a f.b f.c (f.t.getLsbD 7) f.x0 (f.x1.extractLsb' 0 2) (f.x1.extractLsb' 2 3) (f.x1.getLsbD 5))
  | 2 => need (!f.i) (.mEnq f.hdr f.sub f.d f.a)
  | 3 => need (!f.i && f.sub == 0) (.mZero f.hdr f.d f.a)
  | 4 => need (!f.i) (.mLdacc f.hdr f.sub f.d f.a f.b f.c (f.x0.extractLsb' 0 7) (f.x0.extractLsb' 8 7) (f.x0.extractLsb' 16 3))
  | 5 => need (!f.i) (.mStacc f.hdr f.sub f.d f.a f.b f.c (f.x0.extractLsb' 0 7) (f.x0.extractLsb' 8 7) (f.x0.extractLsb' 16 3))
  | 6 => need (!f.i) (.mCvst f.hdr f.sub (.ofByte f.t) f.d f.a f.b f.c (.ofWords f.x0 f.x1))
  | 7 => need (!f.i && f.sub == 0) (.mRstat f.hdr f.d f.a (f.x0.extractLsb' 0 8) (f.x0.extractLsb' 8 8))
  | 8 => need (true) (.mAmax f.hdr f.sub f.d f.src)
  | 9 => need (!f.i && f.sub == 0) (.mResv f.hdr f.d f.a)
  | _ => none

/-- Lengths in bytes of the q class, in the order of OP (R40). -/
def lensQ : List Nat := [16, 16, 8, 8, 8, 12, 8, 8, 12, 8, 8]

/-- The operand fields of the q class. -/
def parseQ (f : Fields) : Option Instr :=
  match f.op.toNat with
  | 0 => need (!f.i) (.qSpawn f.hdr f.sub f.d f.a f.x0)
  | 1 => need (!f.i) (.qLaunch f.hdr f.sub f.d f.a f.x0)
  | 2 => need (!f.i) (.qFwait f.hdr f.sub f.d f.a (f.t.extractLsb' 0 3))
  | 3 => need (!f.i) (.qFtest f.hdr f.sub f.d f.a)
  | 4 => need (!f.i) (.qFcancel f.hdr f.sub f.d f.a)
  | 5 => need (!f.i) (.qFmov f.hdr f.sub f.d f.a f.b f.x0)
  | 6 => need (f.sub == 0) (.qClaim f.hdr f.d f.src)
  | 7 => need (f.sub == 0) (.qGive f.hdr f.src)
  | 8 => need (!f.i && f.sub == 0) (.qLive f.hdr f.x0)
  | 9 => need (!f.i && f.sub == 0) (.qYield f.hdr)
  | 10 => need (f.sub == 0) (.qSleep f.hdr f.src)
  | _ => none

/-- Lengths in bytes of the e class, in the order of OP (R40). -/
def lensE : List Nat := [16, 16, 16, 16, 16, 16, 16, 12, 12, 12, 12, 16, 16, 8]

/-- The operand fields of the e class. -/
def parseE (f : Fields) : Option Instr :=
  match f.op.toNat with
  | 0 => need (!f.i && f.sub == 0) (.eCopy f.hdr f.d f.a f.b f.c f.x0 (.ofWord f.x1))
  | 1 => need (!f.i && f.sub == 0) (.eCopy2 f.hdr f.d f.a f.b f.c f.x0 (.ofWord f.x1))
  | 2 => need (!f.i && f.sub == 0) (.eGath f.hdr f.d f.a f.b f.c f.x0 (.ofWord f.x1))
  | 3 => need (!f.i && f.sub == 0) (.eScat f.hdr f.d f.a f.b f.c f.x0 (.ofWord f.x1))
  | 4 => need (!f.i && f.sub == 0) (.eFill f.hdr f.d f.a f.b f.c f.x0 (.ofWord f.x1))
  | 5 => need (!f.i && f.sub == 0) (.eBcast f.hdr f.d f.a f.b f.c f.x0 (.ofWord f.x1))
  | 6 => need (!f.i) (.eRkinit f.hdr f.sub f.d f.a (f.c.extractLsb' 0 2) (f.c.extractLsb' 2 2) (f.x0.extractLsb' 0 5))
  | 7 => need (!f.i) (.eRkstep f.hdr f.sub f.d f.b (f.c.extractLsb' 0 2) (f.c.extractLsb' 2 2) f.x0)
  | 8 => need (!f.i) (.eRkread f.hdr f.sub f.d f.a (f.c.extractLsb' 0 2) (f.c.extractLsb' 2 2) (f.x0.extractLsb' 0 16))
  | 9 => need (!f.i && f.sub == 0) (.eRkld f.hdr f.d f.a (f.c.extractLsb' 0 2) (f.c.extractLsb' 2 2) (f.x0.extractLsb' 0 4))
  | 10 => need (!f.i && f.sub == 0) (.eRkst f.hdr f.d f.a (f.c.extractLsb' 0 2) (f.c.extractLsb' 2 2) (f.x0.extractLsb' 0 4))
  | 11 => need (!f.i) (.eRksave f.hdr f.sub f.d f.a (f.c.extractLsb' 0 2) (f.c.extractLsb' 2 2) (.ofWords f.x0 f.x1))
  | 12 => need (!f.i) (.eRkrest f.hdr f.sub f.d f.a (f.c.extractLsb' 0 2) (f.c.extractLsb' 2 2) (.ofWords f.x0 f.x1))
  | 13 => need (!f.i && f.sub == 0) (.eRkstat f.hdr f.d (f.c.extractLsb' 0 2) (f.c.extractLsb' 2 2))
  | _ => none

/-- Lengths in bytes of the kv class, in the order of OP (R40). -/
def lensKv : List Nat := [16, 8, 8, 8, 16, 12, 12, 8, 12, 12, 12, 8]

/-- The operand fields of the kv class. -/
def parseKv (f : Fields) : Option Instr :=
  match f.op.toNat with
  | 0 => need (!f.i && f.sub == 0) (.kvBind f.hdr f.d f.a f.b f.x0) <|> need (!f.i && f.sub == 1) (.kvUnbind f.hdr f.d)
  | 1 => need (!f.i && f.sub == 0) (.kvPop f.hdr f.d f.a)
  | 2 => need (!f.i && f.sub == 0) (.kvAck f.hdr f.a) <|> need (!f.i && f.sub == 1) (.kvAckFut f.hdr f.a f.b)
  | 3 => need (!f.i && f.sub == 0) (.kvCur f.hdr f.d f.a)
  | 4 => need (!f.i && f.sub == 0) (.kvApp f.hdr f.d f.a f.b (f.x1.extractLsb' 0 3))
  | 5 => need (!f.i && f.sub == 0) (.kvFind f.hdr f.d f.a f.b)
  | 6 => need (!f.i && f.sub == 0) (.kvIns f.hdr f.d f.a f.b f.c)
  | 7 => need (!f.i && f.sub == 0) (.kvRel f.hdr f.d f.a f.b)
  | 8 => need (!f.i && f.sub == 0) (.kvTrunc f.hdr f.d f.a f.b (f.x0.extractLsb' 0 3))
  | 9 => need (!f.i && f.sub == 0) (.kvRope f.hdr f.d f.a f.b f.c (f.x0.extractLsb' 0 8))
  | 10 => need (!f.i && f.sub == 0) (.kvRpset f.hdr f.a f.x0)
  | 11 => need (!f.i && f.sub == 0) (.kvPush f.hdr f.a f.b) <|> need (!f.i && f.sub == 1) (.kvPushEnd f.hdr f.a) <|> need (!f.i && f.sub == 2) (.kvPushStop f.hdr)
  | _ => none

/-- Lengths in bytes of the c class, in the order of OP (R40). -/
def lensC : List Nat := [16, 8, 8, 8, 16, 16, 12, 16, 8, 8, 8, 8]

/-- The operand fields of the c class. -/
def parseC (f : Fields) : Option Instr :=
  match f.op.toNat with
  | 0 => need (f.sub == 0) (.cAnew f.hdr f.d f.a (f.x1.extractLsb' 4 9) (f.x1.getLsbD 3) (f.x1.getLsbD 2) (f.x1.extractLsb' 0 2))
  | 1 => need (f.sub == 0) (.cSeal f.hdr f.d f.a)
  | 2 => need (f.sub == 0) (.cDrop f.hdr f.d f.a)
  | 3 => need (true) (.cAq f.hdr f.sub f.d f.a)
  | 4 => need (f.sub == 0) (.cWbr f.hdr f.d f.a f.b)
  | 5 => need (f.sub == 0) (.cInvr f.hdr f.d f.a f.b)
  | 6 => need (!f.i && f.sub == 0) (.cCtnew f.hdr f.d f.a (f.x0.extractLsb' 0 16))
  | 7 => need (!f.i && decide (f.sub.toNat < 2)) (.cCtenr f.hdr f.sub f.d f.a f.b (f.x0.extractLsb' 0 16)) <|> need (!f.i && f.sub == 2) (.cCtenrWithdraw f.hdr f.d f.a f.b)
  | 8 => need (!f.i && f.sub == 0) (.cCtpar f.hdr f.d f.a f.b)
  | 9 => need (!f.i && f.sub == 0) (.cCtrd f.hdr f.d f.a)
  | 10 => need (!f.i && f.sub == 0) (.cSettle f.hdr f.d f.a)
  | 11 => need (!f.i && f.sub == 0) (.cCtdel f.hdr f.d f.a)
  | _ => none

/-- Lengths in bytes of the y class, in the order of OP (R40). -/
def lensY : List Nat := [8, 8, 16, 16, 16, 16, 12, 12, 12, 8, 8]

/-- The operand fields of the y class. -/
def parseY (f : Fields) : Option Instr :=
  match f.op.toNat with
  | 0 => need (!f.i && f.sub == 0) (.yRdpr f.hdr f.d f.a)
  | 1 => need (!f.i && f.sub == 0) (.yWrpr f.hdr f.d f.a)
  | 2 => need (!f.i && f.sub == 0) (.yMap f.hdr f.d f.a f.b (f.x1.extractLsb' 0 4) (f.x1.getLsbD 4) (f.x1.getLsbD 5)) <|> need (!f.i && f.sub == 1) (.yMapFilter f.hdr f.d f.a f.b f.x0 (f.x1.extractLsb' 0 5))
  | 3 => need (!f.i && f.sub == 0) (.yUnmap f.hdr f.d f.a (f.x1.extractLsb' 0 4)) <|> need (!f.i && f.sub == 1) (.yUnmapFilter f.hdr f.d (f.x1.extractLsb' 0 5))
  | 4 => need (!f.i && f.sub == 0) (.yXinvInval f.hdr f.d f.a f.b) <|> need (!f.i && f.sub == 1) (.yXinvReplay f.hdr f.d f.a f.b) <|> need (!f.i && f.sub == 2) (.yXinvFail f.hdr f.d f.a f.b (f.x1.getLsbD 0))
  | 5 => need (!f.i && f.sub == 0) (.yRegn f.hdr f.d f.a f.b)
  | 6 => need (!f.i && f.sub == 0) (.yWinRead f.hdr f.d f.x0) <|> need (!f.i && f.sub == 1) (.yWinWrite f.hdr f.b f.x0) <|> need (!f.i && f.sub == 2) (.yWinStop f.hdr)
  | 7 => need (!f.i) (.yCtxs f.hdr f.sub f.d f.a f.x0)
  | 8 => need (!f.i) (.yCtxl f.hdr f.sub f.d f.a f.x0)
  | 9 => need (!f.i && f.sub == 0) (.yEretResume f.hdr) <|> need (!f.i && f.sub == 1) (.yEretStep f.hdr) <|> need (!f.i && f.sub == 2) (.yEretKillThreads f.hdr f.b) <|> need (!f.i && f.sub == 3) (.yEretKillTeam f.hdr)
  | 10 => need (!f.i && f.sub == 0) (.yIdle f.hdr f.d f.b)
  | _ => none

/-- The lengths of a class, in the order of OP; none for CLS 14 and 15 (R39, R40). -/
def classLens (cls : Nat) : Option (List Nat) :=
  [lensS, lensB, lensV, lensF, lensX, lensL, lensG, lensA, lensM, lensQ, lensE, lensKv, lensC, lensY][cls]?

/-- The instruction the fields name, its OP listed and its LEN right (R39, R40). -/
def parse (f : Fields) : Option Instr :=
  match f.cls.toNat with
  | 0 => parseS f
  | 1 => parseB f
  | 2 => parseV f
  | 3 => parseF f
  | 4 => parseX f
  | 5 => parseL f
  | 6 => parseG f
  | 7 => parseA f
  | 8 => parseM f
  | 9 => parseQ f
  | 10 => parseE f
  | 11 => parseKv f
  | 12 => parseC f
  | 13 => parseY f
  | _ => none

/-- Why a word is no instruction, by the checks of R41 in their order. `badField` tells whether the class is y, because
PRIV (check 7) comes before the field checks. -/
inductive DecErr where
  | badParcel
  | crosses
  | badClass
  | badOp
  | badLength
  | badField (y : Bool)
  deriving DecidableEq, Repr

/-- Checks 1 to 6, 8 (static part) and 9 of R41 on the word at an address whose low five bits are pcLow. -/
def decode (pcLow : Nat) (w : BitVec 128) : Except DecErr Instr :=
  let f := Fields.ofWord w
  if f.len == 3 then
    if w.extractLsb' 0 32 == 3 then .ok .pad4 else .error .badParcel
  else if pcLow % 32 + lenBytes f.len > 32 then .error .crosses
  else match classLens f.cls.toNat with
    | none => .error .badClass
    | some ls =>
      match ls[f.op.toNat]? with
      | none => .error .badOp
      | some nb =>
        if nb ≠ lenBytes f.len then .error .badLength
        else match parse f with
          | some i => if i.wf then .ok i else .error (.badField (f.cls == 13))
          | none => .error (.badField (f.cls == 13))

/-- The word whose bytes stand at increasing addresses (R3, R23). -/
def wordOfBytes (l : List Byte) : BitVec 128 := BitVec.ofNat 128 (ofLe l)

/-- The decoder on bytes in memory order. -/
def decodeBytes (pcLow : Nat) (l : List Byte) : Except DecErr Instr := decode pcLow (wordOfBytes l)

/-- The fields of an instruction, written from the encodings of R27, R28 and its own entry; none for PAD4 and for
events, which have no header. -/
def Instr.fields : Instr → Option Fields
  | .pad4 => none
  | .sMov h d a => some { Fields.base h 0 0 8 with d := d, a := a }
  | .sMovi h sub d imm => some { Fields.base h 0 1 12 with sub := sub, d := d, x0 := imm }
  | .sAdd h d a src => some { Fields.base h 0 2 8 with d := d, a := a, i := src.isImm, b := src.bByte, c := src.cByte }
  | .sSub h d a src => some { Fields.base h 0 3 8 with d := d, a := a, i := src.isImm, b := src.bByte, c := src.cByte }
  | .sMul h sub d a src => some { Fields.base h 0 4 8 with sub := sub, d := d, a := a, i := src.isImm, b := src.bByte, c := src.cByte }
  | .sDiv h sub d a src => some { Fields.base h 0 5 8 with sub := sub, d := d, a := a, i := src.isImm, b := src.bByte, c := src.cByte }
  | .sAnd h d a src => some { Fields.base h 0 6 8 with d := d, a := a, i := src.isImm, b := src.bByte, c := src.cByte }
  | .sOr h d a src => some { Fields.base h 0 7 8 with d := d, a := a, i := src.isImm, b := src.bByte, c := src.cByte }
  | .sXor h d a src => some { Fields.base h 0 8 8 with d := d, a := a, i := src.isImm, b := src.bByte, c := src.cByte }
  | .sShl h d a src => some { Fields.base h 0 9 8 with d := d, a := a, i := src.isImm, b := src.bByte, c := src.cByte }
  | .sShr h d a src => some { Fields.base h 0 10 8 with d := d, a := a, i := src.isImm, b := src.bByte, c := src.cByte }
  | .sSra h d a src => some { Fields.base h 0 11 8 with d := d, a := a, i := src.isImm, b := src.bByte, c := src.cByte }
  | .sMin h sub d a src => some { Fields.base h 0 12 8 with sub := sub, d := d, a := a, i := src.isImm, b := src.bByte, c := src.cByte }
  | .sMax h sub d a src => some { Fields.base h 0 13 8 with sub := sub, d := d, a := a, i := src.isImm, b := src.bByte, c := src.cByte }
  | .sCmp h cond d a src => some { Fields.base h 0 14 8 with t := (0 : BitVec 4) ++ cond, d := d, a := a, i := src.isImm, b := src.bByte, c := src.cByte }
  | .sSel h d a b c => some { Fields.base h 0 15 8 with d := d, a := a, b := b, c := c }
  | .sClz h sub d a => some { Fields.base h 0 16 8 with sub := sub, d := d, a := a }
  | .sPopc h sub d a => some { Fields.base h 0 17 8 with sub := sub, d := d, a := a }
  | .sBfx h sub d a src => some { Fields.base h 0 18 8 with sub := sub, d := d, a := a, i := src.isImm, b := src.bByte, c := src.cByte }
  | .sLea h d a b sh imm => some { Fields.base h 0 19 12 with d := d, a := a, b := b, c := (0 : BitVec 2) ++ sh, x0 := imm }
  | .sRdsr h d a => some { Fields.base h 0 20 8 with d := d, a := a }
  | .sWrsr h d a => some { Fields.base h 0 21 8 with d := d, a := a }
  | .sMovc h sub d a => some { Fields.base h 0 22 8 with sub := sub, d := d, a := a }
  | .sRdk h d a => some { Fields.base h 0 23 8 with d := d, a := a }
  | .sWrk h d a => some { Fields.base h 0 24 8 with d := d, a := a }
  | .bNop h => some (Fields.base h 1 0 8)
  | .bJmp h sub a imm => some { Fields.base h 1 1 12 with sub := sub, a := a, x0 := imm }
  | .bBr h sub a imm => some { Fields.base h 1 2 12 with sub := sub, a := a, x0 := imm }
  | .bBrk h sub a imm => some { Fields.base h 1 3 12 with sub := sub, a := a, x0 := imm }
  | .bCall h sub d a imm => some { Fields.base h 1 4 12 with sub := sub, d := d, a := a, x0 := imm }
  | .bRet h a => some { Fields.base h 1 5 8 with a := a }
  | .bSplit h a x0 x1 => some { Fields.base h 1 6 16 with a := a, x0 := x0, x1 := x1 }
  | .bJoin h => some (Fields.base h 1 7 8)
  | .bExit h => some (Fields.base h 1 8 8)
  | .bMeld h a b base => some { Fields.base h 1 9 12 with a := a, b := b, x0 := (0 : BitVec 29) ++ base }
  | .bUnmeld h => some (Fields.base h 1 10 8)
  | .bMtab h sub a imm => some { Fields.base h 1 11 12 with sub := sub, a := a, x0 := imm }
  | .bWcnt h ldc stc xc ec => some { Fields.base h 1 12 8 with a := (0 : BitVec 2) ++ ldc, b := (0 : BitVec 2) ++ stc, c := (0 : BitVec 2) ++ xc, t := (0 : BitVec 2) ++ ec }
  | .bTrap h code => some { Fields.base h 1 13 8 with i := true, b := code }
  | .bTret h => some (Fields.base h 1 14 8)
  | .bDbg h code => some { Fields.base h 1 15 8 with i := true, b := code }
  | .vMov h t d a => some { Fields.base h 2 0 8 with t := t.byte, d := d, a := a }
  | .vMovs h t d a => some { Fields.base h 2 1 8 with t := t.byte, d := d, a := a }
  | .vMovi h t d imm => some { Fields.base h 2 2 12 with t := t.byte, d := d, x0 := imm }
  | .vAdd h t d a src => some { Fields.base h 2 3 8 with t := t.byte, d := d, a := a, i := src.isImm, b := src.bByte, c := src.cByte }
  | .vSub h t d a src => some { Fields.base h 2 4 8 with t := t.byte, d := d, a := a, i := src.isImm, b := src.bByte, c := src.cByte }
  | .vMul h sub t d a src => some { Fields.base h 2 5 8 with sub := sub, t := t.byte, d := d, a := a, i := src.isImm, b := src.bByte, c := src.cByte }
  | .vMad h t d a b c => some { Fields.base h 2 6 8 with t := t.byte, d := d, a := a, b := b, c := c }
  | .vAnd h t d a src => some { Fields.base h 2 7 8 with t := t.byte, d := d, a := a, i := src.isImm, b := src.bByte, c := src.cByte }
  | .vOr h t d a src => some { Fields.base h 2 8 8 with t := t.byte, d := d, a := a, i := src.isImm, b := src.bByte, c := src.cByte }
  | .vXor h t d a src => some { Fields.base h 2 9 8 with t := t.byte, d := d, a := a, i := src.isImm, b := src.bByte, c := src.cByte }
  | .vShl h t d a src => some { Fields.base h 2 10 8 with t := t.byte, d := d, a := a, i := src.isImm, b := src.bByte, c := src.cByte }
  | .vShr h t d a src => some { Fields.base h 2 11 8 with t := t.byte, d := d, a := a, i := src.isImm, b := src.bByte, c := src.cByte }
  | .vSra h t d a src => some { Fields.base h 2 12 8 with t := t.byte, d := d, a := a, i := src.isImm, b := src.bByte, c := src.cByte }
  | .vMin h t d a src => some { Fields.base h 2 13 8 with t := t.byte, d := d, a := a, i := src.isImm, b := src.bByte, c := src.cByte }
  | .vMax h t d a src => some { Fields.base h 2 14 8 with t := t.byte, d := d, a := a, i := src.isImm, b := src.bByte, c := src.cByte }
  | .vAbs h t d a => some { Fields.base h 2 15 8 with t := t.byte, d := d, a := a }
  | .vCmp h sub t d a b cond => some { Fields.base h 2 16 8 with sub := sub, t := t.byte, d := d, a := a, b := b, c := (0 : BitVec 4) ++ cond }
  | .vSel h t d a b c => some { Fields.base h 2 17 8 with t := t.byte, d := d, a := a, b := b, c := c }
  | .vClz h t d a => some { Fields.base h 2 18 8 with t := t.byte, d := d, a := a }
  | .vPopc h t d a => some { Fields.base h 2 19 8 with t := t.byte, d := d, a := a }
  | .vBfx h sub t d a src => some { Fields.base h 2 20 8 with sub := sub, t := t.byte, d := d, a := a, i := src.isImm, b := src.bByte, c := src.cByte }
  | .vDot4 h sub t d a b c => some { Fields.base h 2 21 8 with sub := sub, t := t.byte, d := d, a := a, b := b, c := c }
  | .vLid h sub d => some { Fields.base h 2 22 8 with sub := sub, d := d }
  | .vRand h d => some { Fields.base h 2 23 8 with d := d }
  | .vRdflag h d => some { Fields.base h 2 24 8 with d := d }
  | .vClrflag h src => some { Fields.base h 2 25 8 with i := src.isImm, b := src.bByte, c := src.cByte }
  | .fAdd h t d a b => some { Fields.base h 3 0 8 with t := t.byte, d := d, a := a, b := b }
  | .fSub h t d a b => some { Fields.base h 3 1 8 with t := t.byte, d := d, a := a, b := b }
  | .fMul h t d a b => some { Fields.base h 3 2 8 with t := t.byte, d := d, a := a, b := b }
  | .fFma h t d a b c => some { Fields.base h 3 3 8 with t := t.byte, d := d, a := a, b := b, c := c }
  | .fMin h sub t d a b => some { Fields.base h 3 4 8 with sub := sub, t := t.byte, d := d, a := a, b := b }
  | .fMax h sub t d a b => some { Fields.base h 3 5 8 with sub := sub, t := t.byte, d := d, a := a, b := b }
  | .fCmp h sub t d a b cond => some { Fields.base h 3 6 8 with sub := sub, t := t.byte, d := d, a := a, b := b, c := (0 : BitVec 4) ++ cond }
  | .fCls h t d a => some { Fields.base h 3 7 8 with t := t.byte, d := d, a := a }
  | .fRcp h t d a => some { Fields.base h 3 8 8 with t := t.byte, d := d, a := a }
  | .fRsq h t d a => some { Fields.base h 3 9 8 with t := t.byte, d := d, a := a }
  | .fSqrt h t d a => some { Fields.base h 3 10 8 with t := t.byte, d := d, a := a }
  | .fDiv h t d a b => some { Fields.base h 3 11 8 with t := t.byte, d := d, a := a, b := b }
  | .fExp2 h t d a => some { Fields.base h 3 12 8 with t := t.byte, d := d, a := a }
  | .fLog2 h t d a => some { Fields.base h 3 13 8 with t := t.byte, d := d, a := a }
  | .fSin h t d a => some { Fields.base h 3 14 8 with t := t.byte, d := d, a := a }
  | .fCos h t d a => some { Fields.base h 3 15 8 with t := t.byte, d := d, a := a }
  | .fCvt h t d a sty => some { Fields.base h 3 16 8 with t := t.byte, d := d, a := a, c := (0 : BitVec 4) ++ sty.code }
  | .fPack h t d a sty esc => some { Fields.base h 3 17 12 with t := t.byte, d := d, a := a, c := (0 : BitVec 4) ++ sty.code, x0 := (0 : BitVec 24) ++ esc }
  | .fUnpack h t d a sty esc => some { Fields.base h 3 18 12 with t := t.byte, d := d, a := a, c := (0 : BitVec 4) ++ sty.code, x0 := (0 : BitVec 24) ++ esc }
  | .fAmax h t a src => some { Fields.base h 3 19 8 with t := t.byte, a := a, i := src.isImm, b := src.bByte, c := src.cByte }
  | .xShfl h sub t d a src => some { Fields.base h 4 0 8 with sub := sub, t := t.byte, d := d, a := a, i := src.isImm, b := src.bByte, c := src.cByte }
  | .xBcast h t d a src => some { Fields.base h 4 1 8 with t := t.byte, d := d, a := a, i := src.isImm, b := src.bByte, c := src.cByte }
  | .xVote h sub d a => some { Fields.base h 4 2 8 with sub := sub, d := d, a := a }
  | .xRed h t d a opr => some { Fields.base h 4 3 8 with t := t.byte, d := d, a := a, c := (0 : BitVec 5) ++ opr }
  | .xScan h sub t d a opr => some { Fields.base h 4 4 8 with sub := sub, t := t.byte, d := d, a := a, c := (0 : BitVec 5) ++ opr }
  | .xPrmt h d a b c => some { Fields.base h 4 5 8 with d := d, a := a, b := b, c := c }
  | .xRdlane h t d a src => some { Fields.base h 4 6 8 with t := t.byte, d := d, a := a, i := src.isImm, b := src.bByte, c := src.cByte }
  | .xWrlane h t d a src => some { Fields.base h 4 7 8 with t := t.byte, d := d, a := a, i := src.isImm, b := src.bByte, c := src.cByte }
  | .xCnt h d a => some { Fields.base h 4 8 8 with d := d, a := a }
  | .xFirst h d a => some { Fields.base h 4 9 8 with d := d, a := a }
  | .lLd h vadr sx d a sz imm => some { Fields.base h 5 0 12 with sub := BitVec.ofBool sx ++ BitVec.ofBool vadr, d := d, a := a, t := (0 : BitVec 5) ++ sz, x0 := imm }
  | .lSt h vadr a b sz imm => some { Fields.base h 5 1 12 with sub := (0 : BitVec 1) ++ BitVec.ofBool vadr, a := a, b := b, t := (0 : BitVec 5) ++ sz, x0 := imm }
  | .lLdt h d a b imm => some { Fields.base h 5 2 12 with d := d, a := a, b := b, x0 := imm }
  | .lStt h d a b imm => some { Fields.base h 5 3 12 with d := d, a := a, b := b, x0 := imm }
  | .lAtom h vadr t d a b opr imm => some { Fields.base h 5 4 12 with sub := (0 : BitVec 1) ++ BitVec.ofBool vadr, t := t.byte, d := d, a := a, b := b, c := (0 : BitVec 5) ++ opr, x0 := imm }
  | .lCas h vadr t d a b c imm => some { Fields.base h 5 5 12 with sub := (0 : BitVec 1) ++ BitVec.ofBool vadr, t := t.byte, d := d, a := a, b := b, c := c, x0 := imm }
  | .lFill h vadr a b c imm => some { Fields.base h 5 6 12 with sub := (0 : BitVec 1) ++ BitVec.ofBool vadr, a := a, b := b, c := c, x0 := imm }
  | .lSwz h vadr a tag imm => some { Fields.base h 5 7 12 with sub := (0 : BitVec 1) ++ BitVec.ofBool vadr, a := a, c := (0 : BitVec 5) ++ tag, x0 := imm }
  | .gLd h d a x0 x1 => some { Fields.base h 6 0 16 with d := d, a := a, x0 := x0, x1 := x1.word }
  | .gSt h a b x0 x1 => some { Fields.base h 6 1 16 with a := a, b := b, x0 := x0, x1 := x1.word }
  | .gLdt h d a b x0 x1 => some { Fields.base h 6 2 16 with d := d, a := a, b := b, x0 := x0, x1 := x1.word }
  | .gStt h d a b x0 x1 => some { Fields.base h 6 3 16 with d := d, a := a, b := b, x0 := x0, x1 := x1.word }
  | .gPf h a x0 x1 => some { Fields.base h 6 4 16 with a := a, x0 := x0, x1 := x1.word }
  | .gLdnf h d a c x0 x1 => some { Fields.base h 6 5 16 with d := d, a := a, c := c, x0 := x0, x1 := x1.word }
  | .aRmw h t d a b opr x0 x1 => some { Fields.base h 7 0 16 with t := t.byte, d := d, a := a, b := b, c := (0 : BitVec 5) ++ opr, x0 := x0, x1 := x1.word }
  | .aCas h d a b c x0 x1 => some { Fields.base h 7 1 16 with d := d, a := a, b := b, c := c, x0 := x0, x1 := x1.word }
  | .aRed h t a b opr x0 x1 => some { Fields.base h 7 2 16 with t := t.byte, a := a, b := b, c := (0 : BitVec 5) ++ opr, x0 := x0, x1 := x1.word }
  | .aLdacq h d a x0 x1 => some { Fields.base h 7 3 16 with d := d, a := a, x0 := x0, x1 := x1.word }
  | .aStrel h a b x0 x1 => some { Fields.base h 7 4 16 with a := a, b := b, x0 := x0, x1 := x1.word }
  | .aFence h sub sc => some { Fields.base h 7 5 8 with sub := sub, t := (0 : BitVec 5) ++ sc }
  | .aBarInit h a b imm => some { Fields.base h 7 6 12 with a := a, b := b, x0 := imm }
  | .aBarArrive h sub d a b imm => some { Fields.base h 7 7 12 with sub := sub, d := d, a := a, b := b, x0 := imm }
  | .aBarWait h a b imm => some { Fields.base h 7 8 12 with a := a, b := b, x0 := imm }
  | .aBarSync h d a imm => some { Fields.base h 7 9 12 with d := d, a := a, x0 := imm }
  | .aBarExpect h sub a b imm => some { Fields.base h 7 10 12 with sub := sub, a := a, b := b, x0 := imm }
  | .aBarTest h d a b imm => some { Fields.base h 7 11 12 with d := d, a := a, b := b, x0 := imm }
  | .aTktTake h d a x0 x1 => some { Fields.base h 7 12 16 with d := d, a := a, x0 := x0, x1 := x1.word }
  | .aTktWait h a b x0 x1 => some { Fields.base h 7 13 16 with a := a, b := b, x0 := x0, x1 := x1.word }
  | .aTktServe h a src x0 x1 => some { Fields.base h 7 14 16 with a := a, i := src.isImm, b := src.bByte, c := src.cByte, x0 := x0, x1 := x1.word }
  | .aWatch h d a b x0 x1 => some { Fields.base h 7 15 16 with d := d, a := a, b := b, x0 := x0, x1 := x1.word }
  | .mMma h sub d a b c zero scl bsc asc x0 prio sc bar => some { Fields.base h 8 0 16 with sub := sub, d := d, a := a, b := b, c := c, t := BitVec.ofBool zero ++ BitVec.ofBool scl ++ bsc ++ asc, x0 := x0, x1 := (0 : BitVec 26) ++ BitVec.ofBool bar ++ sc ++ prio }
  | .mMmt h sub d a b c zero x0 prio sc bar => some { Fields.base h 8 1 16 with sub := sub, d := d, a := a, b := b, c := c, t := BitVec.ofBool zero ++ (0 : BitVec 7), x0 := x0, x1 := (0 : BitVec 26) ++ BitVec.ofBool bar ++ sc ++ prio }
  | .mEnq h sub d a => some { Fields.base h 8 2 8 with sub := sub, d := d, a := a }
  | .mZero h d a => some { Fields.base h 8 3 8 with d := d, a := a }
  | .mLdacc h sub d a b c row col shp => some { Fields.base h 8 4 12 with sub := sub, d := d, a := a, b := b, c := c, x0 := (0 : BitVec 13) ++ shp ++ (0 : BitVec 1) ++ col ++ (0 : BitVec 1) ++ row }
  | .mStacc h sub d a b c row col shp => some { Fields.base h 8 5 12 with sub := sub, d := d, a := a, b := b, c := c, x0 := (0 : BitVec 13) ++ shp ++ (0 : BitVec 1) ++ col ++ (0 : BitVec 1) ++ row }
  | .mCvst h sub t d a b c cv => some { Fields.base h 8 6 16 with sub := sub, t := t.byte, d := d, a := a, b := b, c := c, x0 := cv.x0, x1 := cv.x1 }
  | .mRstat h d a rows cols => some { Fields.base h 8 7 12 with d := d, a := a, x0 := (0 : BitVec 16) ++ cols ++ rows }
  | .mAmax h sub d src => some { Fields.base h 8 8 8 with sub := sub, d := d, i := src.isImm, b := src.bByte, c := src.cByte }
  | .mResv h d a => some { Fields.base h 8 9 8 with d := d, a := a }
  | .qSpawn h sub d a x0 => some { Fields.base h 9 0 16 with sub := sub, d := d, a := a, x0 := x0 }
  | .qLaunch h sub d a x0 => some { Fields.base h 9 1 16 with sub := sub, d := d, a := a, x0 := x0 }
  | .qFwait h sub d a sc => some { Fields.base h 9 2 8 with sub := sub, d := d, a := a, t := (0 : BitVec 5) ++ sc }
  | .qFtest h sub d a => some { Fields.base h 9 3 8 with sub := sub, d := d, a := a }
  | .qFcancel h sub d a => some { Fields.base h 9 4 8 with sub := sub, d := d, a := a }
  | .qFmov h sub d a b imm => some { Fields.base h 9 5 12 with sub := sub, d := d, a := a, b := b, x0 := imm }
  | .qClaim h d src => some { Fields.base h 9 6 8 with d := d, i := src.isImm, b := src.bByte, c := src.cByte }
  | .qGive h src => some { Fields.base h 9 7 8 with i := src.isImm, b := src.bByte, c := src.cByte }
  | .qLive h imm => some { Fields.base h 9 8 12 with x0 := imm }
  | .qYield h => some (Fields.base h 9 9 8)
  | .qSleep h src => some { Fields.base h 9 10 8 with i := src.isImm, b := src.bByte, c := src.cByte }
  | .eCopy h d a b c x0 x => some { Fields.base h 10 0 16 with d := d, a := a, b := b, c := c, x0 := x0, x1 := x.word }
  | .eCopy2 h d a b c x0 x => some { Fields.base h 10 1 16 with d := d, a := a, b := b, c := c, x0 := x0, x1 := x.word }
  | .eGath h d a b c x0 x => some { Fields.base h 10 2 16 with d := d, a := a, b := b, c := c, x0 := x0, x1 := x.word }
  | .eScat h d a b c x0 x => some { Fields.base h 10 3 16 with d := d, a := a, b := b, c := c, x0 := x0, x1 := x.word }
  | .eFill h d a b c x0 x => some { Fields.base h 10 4 16 with d := d, a := a, b := b, c := c, x0 := x0, x1 := x.word }
  | .eBcast h d a b c x0 x => some { Fields.base h 10 5 16 with d := d, a := a, b := b, c := c, x0 := x0, x1 := x.word }
  | .eRkinit h sub d a rick prio fst => some { Fields.base h 10 6 16 with sub := sub, d := d, a := a, c := (0 : BitVec 4) ++ prio ++ rick, x0 := (0 : BitVec 27) ++ fst }
  | .eRkstep h sub d b rick prio imm => some { Fields.base h 10 7 12 with sub := sub, d := d, b := b, c := (0 : BitVec 4) ++ prio ++ rick, x0 := imm }
  | .eRkread h sub d a rick prio mask => some { Fields.base h 10 8 12 with sub := sub, d := d, a := a, c := (0 : BitVec 4) ++ prio ++ rick, x0 := (0 : BitVec 16) ++ mask }
  | .eRkld h d a rick prio rung => some { Fields.base h 10 9 12 with d := d, a := a, c := (0 : BitVec 4) ++ prio ++ rick, x0 := (0 : BitVec 28) ++ rung }
  | .eRkst h d a rick prio rung => some { Fields.base h 10 10 12 with d := d, a := a, c := (0 : BitVec 4) ++ prio ++ rick, x0 := (0 : BitVec 28) ++ rung }
  | .eRksave h sub d a rick prio rx => some { Fields.base h 10 11 16 with sub := sub, d := d, a := a, c := (0 : BitVec 4) ++ prio ++ rick, x0 := rx.x0, x1 := rx.x1 }
  | .eRkrest h sub d a rick prio rx => some { Fields.base h 10 12 16 with sub := sub, d := d, a := a, c := (0 : BitVec 4) ++ prio ++ rick, x0 := rx.x0, x1 := rx.x1 }
  | .eRkstat h d rick prio => some { Fields.base h 10 13 8 with d := d, c := (0 : BitVec 4) ++ prio ++ rick }
  | .kvBind h d a b x0 => some { Fields.base h 11 0 16 with d := d, a := a, b := b, x0 := x0 }
  | .kvUnbind h d => some { Fields.base h 11 0 16 with sub := 1, d := d }
  | .kvPop h d a => some { Fields.base h 11 1 8 with d := d, a := a }
  | .kvAck h a => some { Fields.base h 11 2 8 with a := a }
  | .kvAckFut h a b => some { Fields.base h 11 2 8 with sub := 1, a := a, b := b }
  | .kvCur h d a => some { Fields.base h 11 3 8 with d := d, a := a }
  | .kvApp h d a b sc => some { Fields.base h 11 4 16 with d := d, a := a, b := b, x1 := (0 : BitVec 29) ++ sc }
  | .kvFind h d a b => some { Fields.base h 11 5 12 with d := d, a := a, b := b }
  | .kvIns h d a b c => some { Fields.base h 11 6 12 with d := d, a := a, b := b, c := c }
  | .kvRel h d a b => some { Fields.base h 11 7 8 with d := d, a := a, b := b }
  | .kvTrunc h d a b sc => some { Fields.base h 11 8 12 with d := d, a := a, b := b, x0 := (0 : BitVec 29) ++ sc }
  | .kvRope h d a b c p => some { Fields.base h 11 9 12 with d := d, a := a, b := b, c := c, x0 := (0 : BitVec 24) ++ p }
  | .kvRpset h a imm => some { Fields.base h 11 10 12 with a := a, x0 := imm }
  | .kvPush h a b => some { Fields.base h 11 11 8 with a := a, b := b }
  | .kvPushEnd h a => some { Fields.base h 11 11 8 with sub := 1, a := a }
  | .kvPushStop h => some { Fields.base h 11 11 8 with sub := 2 }
  | .cAnew h d a quota zf swm typ => some { Fields.base h 12 0 16 with d := d, a := a, x1 := (0 : BitVec 19) ++ quota ++ BitVec.ofBool zf ++ BitVec.ofBool swm ++ typ }
  | .cSeal h d a => some { Fields.base h 12 1 8 with d := d, a := a }
  | .cDrop h d a => some { Fields.base h 12 2 8 with d := d, a := a }
  | .cAq h sub d a => some { Fields.base h 12 3 8 with sub := sub, d := d, a := a }
  | .cWbr h d a b => some { Fields.base h 12 4 16 with d := d, a := a, b := b }
  | .cInvr h d a b => some { Fields.base h 12 5 16 with d := d, a := a, b := b }
  | .cCtnew h d a id => some { Fields.base h 12 6 12 with d := d, a := a, x0 := (0 : BitVec 16) ++ id }
  | .cCtenr h sub d a b node => some { Fields.base h 12 7 16 with sub := sub, d := d, a := a, b := b, x0 := (0 : BitVec 16) ++ node }
  | .cCtenrWithdraw h d a b => some { Fields.base h 12 7 16 with sub := 2, d := d, a := a, b := b }
  | .cCtpar h d a b => some { Fields.base h 12 8 8 with d := d, a := a, b := b }
  | .cCtrd h d a => some { Fields.base h 12 9 8 with d := d, a := a }
  | .cSettle h d a => some { Fields.base h 12 10 8 with d := d, a := a }
  | .cCtdel h d a => some { Fields.base h 12 11 8 with d := d, a := a }
  | .yRdpr h d a => some { Fields.base h 13 0 8 with d := d, a := a }
  | .yWrpr h d a => some { Fields.base h 13 1 8 with d := d, a := a }
  | .yMap h d a b size w als => some { Fields.base h 13 2 16 with d := d, a := a, b := b, x1 := (0 : BitVec 26) ++ BitVec.ofBool als ++ BitVec.ofBool w ++ size }
  | .yMapFilter h d a b x0 idx => some { Fields.base h 13 2 16 with sub := 1, d := d, a := a, b := b, x0 := x0, x1 := (0 : BitVec 27) ++ idx }
  | .yUnmap h d a size => some { Fields.base h 13 3 16 with d := d, a := a, x1 := (0 : BitVec 28) ++ size }
  | .yUnmapFilter h d idx => some { Fields.base h 13 3 16 with sub := 1, d := d, x1 := (0 : BitVec 27) ++ idx }
  | .yXinvInval h d a b => some { Fields.base h 13 4 16 with d := d, a := a, b := b }
  | .yXinvReplay h d a b => some { Fields.base h 13 4 16 with sub := 1, d := d, a := a, b := b }
  | .yXinvFail h d a b prot => some { Fields.base h 13 4 16 with sub := 2, d := d, a := a, b := b, x1 := (0 : BitVec 31) ++ BitVec.ofBool prot }
  | .yRegn h d a b => some { Fields.base h 13 5 16 with d := d, a := a, b := b }
  | .yWinRead h d imm => some { Fields.base h 13 6 12 with d := d, x0 := imm }
  | .yWinWrite h b imm => some { Fields.base h 13 6 12 with sub := 1, b := b, x0 := imm }
  | .yWinStop h => some { Fields.base h 13 6 12 with sub := 2 }
  | .yCtxs h sub d a imm => some { Fields.base h 13 7 12 with sub := sub, d := d, a := a, x0 := imm }
  | .yCtxl h sub d a imm => some { Fields.base h 13 8 12 with sub := sub, d := d, a := a, x0 := imm }
  | .yEretResume h => some (Fields.base h 13 9 8)
  | .yEretStep h => some { Fields.base h 13 9 8 with sub := 1 }
  | .yEretKillThreads h b => some { Fields.base h 13 9 8 with sub := 2, b := b }
  | .yEretKillTeam h => some { Fields.base h 13 9 8 with sub := 3 }
  | .yIdle h d b => some { Fields.base h 13 10 8 with d := d, b := b }
  | .resultReturn .. => none
  | .faultRecordPost .. => none
  | .breakpointHit .. => none
  | .prFaultqWrite .. => none
  | .prFqconsWrite .. => none
  | .waveRetire .. => none
  | .teamRelease .. => none
  | .groupComplete .. => none
  | .gangPlacement .. => none
  | .recordBlocking .. => none
  | .waveSwitchOut .. => none
  | .waveSwitchResume .. => none
  | .claimGrant .. => none
  | .claimFail .. => none
  | .sleepExpiry .. => none
  | .arenaMasterRequest .. => none
  | .arenaBroadcastApply .. => none
  | .drainWatermark .. => none
  | .sealComplete .. => none
  | .ashSweepPass .. => none
  | .zeroFillPageDone .. => none
  | .translationWalk .. => none
  | .regionDrainSignal .. => none
  | .homeSliceOperation .. => none
  | .l1Fill .. => none
  | .l1Eviction .. => none
  | .sliceEviction .. => none
  | .rollUpDeltaApply .. => none
  | .ticketWaiterRetry .. => none
  | .amaxUpdateApply .. => none
  | .eccCorrected .. => none
  | .bankMarkFailed .. => none
  | .eccUncorrectable .. => none
  | .barrierHalfComplete .. => none
  | .copyBytesLand .. => none
  | .copyComplete .. => none
  | .scoreboardEntryFree .. => none
  | .tilePassGrant .. => none
  | .tilePassComplete .. => none
  | .tileTaskComplete .. => none
  | .rickOperationComplete .. => none
  | .hostBar2Read .. => none
  | .hostBar2Write .. => none
  | .bar0Write .. => none
  | .restartModule .. => none
  | .restartPartition .. => none
  | .mboxAttestation .. => none
  | .mboxImageChunk .. => none
  | .mboxImageCommit .. => none
  | .mboxFirmwareRequest .. => none
  | .larlanPortTrain .. => none
  | .larlanLaneLoss .. => none
  | .larlanKeyExpiry .. => none
  | .link .. => none
  | .larlanRemoteAccess .. => none
  | .moduleStart .. => none
  | .watchdogExpiry .. => none
  | .bringupOvertemp .. => none
  | .thermalThrottle .. => none
  | .thermalPowerOff .. => none
  | .changeTreeAgentRequest .. => none
  | .enrollmentApplied .. => none
  | .remapFilterApply .. => none
  | .translationCacheInvalidation .. => none
  | .idleTimeLimit .. => none
  | .powerLoss .. => none

/-- The word of an instruction; PAD4 is the parcel 3 (R25); none for events. -/
def encode (i : Instr) : Option (BitVec 128) :=
  if i = .pad4 then some 3 else i.fields.map Fields.word

/-- Length in bytes: 4 for PAD4, 0 for events (R23, R25, R40). -/
def Instr.bytes (i : Instr) : Nat :=
  if i = .pad4 then 4 else
  match i.fields with
  | some f => lenBytes f.len
  | none => 0

/-- The instruction the decoder reads from an instruction whose low nbits bits are w and whose other bits are zero. -/
def decodeTableWord (nbits w : Nat) : Option Instr :=
  match decodeBytes 0 (leBytes 16 (w % 2 ^ nbits)) with
  | .ok i => some i
  | .error _ => none

end Sys2Proof
end

