-- ==== Sys2Proof/Machine/Events.lean ====
section
/-! DEFINITION. The steps of the memory system and of the cores by themselves: results (R199, R202), fault records (R390 to R394),
breakpoints (R399), walks (R95, R96), home slices (R276 to R298), fills and evictions (R108, R109, R113), ECC (R117 to R119). -/

namespace Sys2Proof.Machine

/-! ## Results (R199, R202) -/

/-- An outstanding result may return: its requests are over and its values known, its broadcast is applied, its amax update too,
and an acquire of mod or wider finds its core's broadcasts applied (R82, R193, R202, R319). -/
def State.mayReturn (s : State) (a : Agent) (p : Pend) : Bool :=
  let part := s.agentPart a
  p.fail.isNone && p.reqs.isEmpty && p.writes.all (fun w => w.val.isSome)
    && (match p.bcast with | some n => !(s.part part).bcasts.any (fun b => b.no = n) | none => true)
    && (match p.acq with
        | some sc => decide (sc.toNat < 3) || !(s.part part).bcasts.any (fun b => b.waiting.contains (coreOf a))
        | none => true)
    && !(s.quad (quadOf a)).amaxQ.any (fun u => u.2.1 = a && u.2.2.1 = p.id)

/-- The flags of a result that its instruction's enables turn into a user trap (R204, R386). -/
def State.trapOf (s : State) (a : Agent) (fpen : BitVec 5) (p : Pend) : State :=
  match p.trap with
  | none => s
  | some t =>
    let (lanes, cause) := enabled fpen p.flags
    if lanes = 0 then s
    else s.userTrap a t.frag p.pc (p.pc + BitVec.ofNat 64 t.len) lanes cause (BitVec.ofNat 8 t.d) false

/-- What a load into a tile has brought enters the tile (R235). -/
def State.putTile (s : State) (team : Nat) (p : Pend) : State :=
  match p.tile with
  | some (t, m) => s.mapTeam team (fun x =>
      { x with tiles := m.foldl (fun (w : AMap Byte) (e : Nat × Byte) => AMap.set 0 w (32768 * t + e.1) e.2) x.tiles })
  | none => s

/-- A load into a tile that a retired wave has issued returns, or has failed, which stops no wave any more (R16, R97, R235; log 155). -/
def State.returnGone (s : State) (a : Agent) (c : Ctx) (p : Pend) : Option State :=
  if !p.reqs.isEmpty then none
  else
    let s := if p.fail.isSome then s else s.putTile c.team p
    let ps := c.pend.filter (fun q => q.id ≠ p.id)
    some (if ps.isEmpty then { s with ctxs := s.ctxs.del (ctxKey a) } else s.setCtx a { c with pend := ps })

/-- RESULT_RETURN: the registers, tile or table are written, the flags raised, the counter falls, the acquire performs (R199, R202,
R289, R430). -/
def evResultReturn (a : Agent) (id : Nat) (s : State) : Option State :=
  match s.ctx? a with
  | none => none
  | some c =>
    match c.pend.find? (fun p => p.id = id) with
    | none => none
    | some p =>
      if c.gone then s.returnGone a c p
      else if !s.mayReturn a p then none
      else
        let c' := p.writes.foldl (fun c w => c.regSet w.reg (w.val.getD 0)) c
        let c' := c'.raiseAll p.flags
        let c' := { c' with rope := p.rope.getD c'.rope }
        let c' := { c'.setCtr p.ctr (c'.ctr p.ctr - 1) with pend := c'.pend.filter (fun q => q.id ≠ id) }
        let s := (s.setCtx a c').putTile c.team p
        let s := match p.acq with | some sc => s.acquire a sc.toNat | none => s
        some (s.trapOf a c.fpen p)
/-- RESULT_RETURN. -/
def execResultReturn (a : Agent) (id : Nat) (s : State) := event s (evResultReturn a id s)

/-! ## Fault records and breakpoints -/

/-- FAULT_RECORD_POST: the record of a stopped agent whose work has settled, where the ring has room and no earlier record of the die waits for
room (R331, R390 to R394; log 159). -/
def evFaultRecordPost (a : Agent) (s : State) : Option State :=
  match s.ctx? a with
  | none => none
  | some c =>
    match c.stop with
    | none => none
    | some st =>
      if st.posted || st.silent || !c.settled || s.recordsWait (dieOf a) then none
      else
        ((s.die (dieOf a)).post (s.stopEntries a c st)).map (fun d =>
          (s.mapDie (dieOf a) (fun _ => d)).setCtx a { c with stop := some { st with posted := true } })
/-- FAULT_RECORD_POST. -/
def execFaultRecordPost (a : Agent) (s : State) := event s (evFaultRecordPost a s)

/-- The address of an enabled breakpoint (R399). -/
def State.bkptAddr (s : State) (die i : Nat) : Option W64 :=
  let v : W64 := AMap.get 0 (s.die die).bkpt i
  if v.getLsbD 0 then some (pcBits v) else none

/-- BREAKPOINT_HIT: the fragment of an agent that is about to issue at an enabled breakpoint's address stops the agent; its first issue
after a y.eret meets none (R399). -/
def evBreakpointHit (a : Agent) (i : Nat) (s : State) : Option State :=
  match s.ctx? a, s.bkptAddr (dieOf a) i with
  | some c, some pc =>
    match c.rec? s.frag with
    | none => none
    | some fr =>
      if !c.canIssue s.frag || fr.pc ≠ pc || c.skipBkpt.contains s.frag || 8 ≤ i then none
      else
        some ((s.mapCtx a (fun c => { c with frag := s.frag })).stopWave a
          { code := Code.brk, prec := false, addr := 0x100 + i, mask := fr.mask, pc := fr.pc, meld := fr.meld, posted := false,
            silent := false })
  | _, _ => none
/-- BREAKPOINT_HIT. -/
def execBreakpointHit (a : Agent) (i : Nat) (s : State) := event s (evBreakpointHit a i s)

/-! ## Walks (R95, R96, R99) -/

/-- A walk or a check of an access that ended in a code at its home: a prefetch is dropped, a g.ldnf's lane and a synonym fail at
once, anything else is held by an episode, where the die's hold buffer has room, and else waits (R95, R96, R99, R154, R155). -/
def State.trouble (s : State) (die : Nat) (r : Req) (code : Nat) : Option State :=
  match r.op with
  | .prefetch _ => some (s.dropReq r)
  | _ =>
    if code = Code.synonym || r.nf then some (s.failReq r code r.va)
    else if !s.holdRoom die then none
    else some ((s.holdReq r r.va).beginEpisode die r.part r.va code (s.recordOf r.agent r.pc r.va r.mask 1 false false false code))

/-- A fetch or a record read whose walk succeeds is no longer needed: the agent reads again. -/
def State.fetchWalk (s : State) (r : Req) : Option State :=
  match s.walkFor r.part r.va (r.n = Code.prot) with
  | .ok _ => some (s.dropReq r)
  | .error c => s.trouble (s.unitOf r.part r.va % 32) r c

/-- The copy of its die that a write-back of a software-managed line reaches, which needs no translation (R109, R114). -/
def State.copyFor (s : State) (r : Req) : Option LlcLine :=
  if r.copy && r.held.isNone then s.copyOf (dieOfCore r.core) r.part (lineNo r.va) r.gen else none

/-- TRANSLATION_WALK: the walk for a request that misses the home's translation cache completes (R93, R95, R96); a page that an episode
holds takes the request into it, and while the die's hold buffer is full no miss is walked (log 123). -/
def evTranslationWalk (req : Nat) (s : State) : Option State :=
  match s.reqs.find? (fun r => r.id = req) with
  | none => none
  | some r =>
    if r.held.isSome || r.failed.isSome || r.back.isSome || (s.copyFor r).isSome then none
    else if r.op = .fetch then (s.fetchWalk r).map State.mapsGo
    else
      let die := s.unitOf r.part r.va % 32
      if !s.holdRoom die then none else
      match tlbFind (s.die die).tlb r.part r.va with
      | some _ => none
      | none =>
        match s.episode? r.part r.va, s.walkVa r.part r.va with
        | some e, _ => (s.trouble die r e.code).map State.mapsGo
        | none, some e => some (s.tlbFill die r.part r.va e).mapsGo
        | none, none => (s.trouble die r Code.xlate).map State.mapsGo
/-- TRANSLATION_WALK. -/
def execTranslationWalk (req : Nat) (s : State) := event s (evTranslationWalk req s)

/-! ## Home slices -/

/-- The agent still waits on a request. -/
def State.waitsOn (s : State) (r : Req) : Bool :=
  let p : Option Park := (s.ctx? r.agent).map (·.park)
  match p with
  | some (.waiter i) => decide (i = r.id) && !((s.ctx? r.agent).any (fun c => c.stop.isSome))
  | _ => false

/-- A request that carries a generation that is over (R86, R298). -/
def State.staleOp (s : State) (r : Req) : State :=
  match r.op with
  | .load _ _ | .read _ => (s.setStale r.agent).complete r (s.staleBytes r.part r.va r.n r.gen)
  | .rmw _ _ _ true | .cas _ _ => s.complete r (List.replicate r.n 0)
  | .serve _ => (s.setStale r.agent).dropReq r
  | .take => (s.setStale r.agent).complete { r with n := 4 } (List.replicate 4 0)
  | .ticket _ _ | .watch _ _ _ =>
    if s.waitsOn r then ((s.dropReq r).wakeWait r.agent r.op 16 0).setStale r.agent else s.dropReq r
  | .status _ _ => if s.waitsOn r then ((s.dropReq r).wakeWait r.agent r.op 8 0).setStale r.agent else s.dropReq r
  | .kvapp .. | .kvtrunc .. | .kvfind .. | .kvins .. | .kvrel .. => s.failReq r Code.arenaDead r.va
  | _ => s.dropReq r

/-- A masked write of bytes within a line by a request. -/
def State.putAt (s : State) (r : Req) (unit linePa : Nat) (l : List Byte) : State :=
  let off := r.va % 128
  s.homeWrite unit r.part (lineNo r.va) r.gen linePa r.typ (maskOf off l.length) (placeBytes off l)

/-- A wait that arrives at its slice: it ends at once, or it is held there, or retried where the slice is full (R294, R296, R297,
R381). -/
def State.waitOp (s : State) (r : Req) (l : List Byte) : State :=
  let len := match r.op with | .status _ _ => 8 | _ => 16
  let s' := s.dropReq r
  match r.op.ready l with
  | some v => (s'.l1Renew r.core (lineNo r.va)).wakeWait r.agent r.op len v
  | none =>
    let k := s.unitOf r.part r.va * 16 + sliceOf r.va
    let n := (s.waiters.filter (fun w => w.inSlice && s.unitOf w.part w.va * 16 + sliceOf w.va = k)).length
    let w : Waiter := { id := r.id, agent := r.agent, part := r.part, va := r.va, n := r.n, gen := r.gen, op := r.op,
                        inSlice := decide (n < Config.waiters), len := len }
    { s' with waiters := s'.waiters ++ [w] }

/-- An operation on the bytes of a location at its home (R282 to R284, R293 to R297). -/
def State.slotOp (s : State) (r : Req) (unit linePa : Nat) (d : BitVec 1024) : State :=
  let l := lineBytes d (r.va % 128) r.n
  let old := ofLe l
  match r.op with
  | .rmw op ty x back =>
    let s := s.putAt r unit linePa (leBytes r.n (atomOp op ty old x))
    if back then s.complete r l else s.dropReq r
  | .cas cmp new => (if old = cmp then s.putAt r unit linePa (leBytes r.n new) else s).complete r l
  | .take =>
    if bits old 64 64 ≠ 0 then s.failReq r Code.handle r.va
    else (s.putAt r unit linePa (leBytes 4 (bits old 0 32 + 1))).complete { r with n := 4 } (l.take 4)
  | .serve inc =>
    if bits old 64 64 ≠ 0 then s.failReq r Code.handle r.va
    else if inc = 0 then s.dropReq r
    else (s.putAt { r with va := r.va + 4 } unit linePa (leBytes 4 (bits old 32 32 + inc))).dropReq r
  | .ticket _ _ =>
    if !s.waitsOn r then s.dropReq r
    else if r.op.broken l then s.failReq r Code.handle r.va
    else s.waitOp r l
  | .watch _ _ _ | .status _ _ => if s.waitsOn r then s.waitOp r l else s.dropReq r
  | _ => s.dropReq r

/-- A line that a core asked for comes back to it, or serves the request where it may not enter the L1 (R107, R108, R114). -/
def State.lineBack (s : State) (r : Req) (known : AMap Byte) (d : BitVec 1024) (psn : Bool) (ecc : Nat) : State :=
  if psn then s.failReq r Code.ecc ecc
  else if r.alloc then { s with reqs := s.reqs.map (fun (x : Req) => if x.id = r.id then { x with back := some d } else x) }
  else
    match r.op with
    | .prefetch _ => s.dropReq r
    | _ => s.complete r ((List.range r.n).map (fun i => (known.find (r.va % 128 + i)).getD (lineByte d (r.va % 128 + i))))

/-- The loads of a core that are served with one of its loads: those of the same line that wait for nothing else, which take the line's
bytes from one read of it (R107, R307, R314). -/
def State.loadsWith (s : State) (r : Req) : List Req :=
  let joins (acc : List Req) (x : Req) : Bool :=
    x.id = r.id || ((match x.op with | .load .. => true | _ => false) && x.core = r.core && x.part = r.part && lineNo x.va = lineNo r.va
      && x.gen = r.gen && x.ver = r.ver && x.typ = r.typ && x.back.isNone && x.failed.isNone && x.held.isNone
      && x.after.all (fun i => acc.any (fun y => y.id = i) || !s.pendingDeps [i]))
  s.reqs.foldl (fun acc x => if joins acc x then acc ++ [x] else acc) []

/-- The bytes of a load that its core held at issue. -/
def Req.known (r : Req) : AMap Byte := match r.op with | .load _ known | .read known => known | _ => []

/-- A line that has come back to a request's core and has not filled its L1 yet: a miss of that line joins it (R107, R314). -/
def State.answered (s : State) (r : Req) : Option (BitVec 1024) :=
  s.reqs.findSome? (fun x =>
    if x.core = r.core && x.part = r.part && lineNo x.va = lineNo r.va && x.gen = r.gen && x.alloc then x.back else none)

/-- What a miss reads: a line that is on its way into the core's L1, else the line where R114 has it. -/
def State.missLine (s : State) (r : Req) (die pa : Nat) (shared : Bool) : BitVec 1024 × Bool × State :=
  match s.answered r with
  | some d => (d, false, s)
  | none => s.missRead die r.part (lineNo r.va) r.gen pa shared

/-- An operation at its home, once its address is translated (R114, R116, R119, R278). -/
def State.homeOp (s : State) (r : Req) (unit pa : Nat) : State :=
  let line := lineNo r.va
  let linePa := pa - r.va % 128
  let die := dieOfCore r.core
  let shared := ((s.part r.part).arena (lineArena line)).shared
  let copyBad := (s.llcFind die r.part line r.gen).any (·.poison)
  let ecc := s.eccAt (if copyBad then die else unit) r.part line r.gen linePa
  let isN := r.typ = Arn.typN
  match r.op with
  | .load _ _ =>
    let s := if (s.answered r).isSome then s else s.l1Renew r.core line
    let rs := s.loadsWith r
    let (d, psn, s) := s.missLine r die linePa shared
    rs.foldl (fun s x => s.lineBack x x.known d psn ecc) s
  | .prefetch ch =>
    let (d, psn, s) := if ch = chNol1 then s.missRead die r.part line r.gen linePa false else s.missLine r die linePa shared
    s.lineBack r [] d psn ecc
  | .read known =>
    let s := if isN then (s.l1Renew r.core line).homeTouch unit r.part line r.gen linePa else s
    let (d, psn) := if isN then s.homeLine unit r.part line r.gen linePa else (s.hbmLine r.part line linePa, false)
    s.lineBack { r with alloc := false } known d psn (s.eccAt unit r.part line r.gen linePa)
  | .write mask data =>
    let s := s.homeWrite unit r.part line r.gen linePa r.typ mask data
    (if r.poison then s.homePoison unit r.part line r.gen linePa else s).dropReq r
  | _ =>
    let s := s.homeTouch unit r.part line r.gen linePa
    let (d, psn) := s.homeLine unit r.part line r.gen linePa
    if psn then s.failReq r Code.ecc (s.eccAt unit r.part line r.gen linePa) else s.slotOp r unit linePa d

/-- A load or a prefetch that is not past the L1 finds its line in what has come back to its core, or in its die's copy (R107, R114, R155). -/
def State.servedNear (s : State) (r : Req) : Bool :=
  (match r.op with
    | .load .. => true
    | .prefetch ch => ch ≠ chNol1
    | _ => false)
  && ((s.answered r).isSome || (s.copyOf (dieOfCore r.core) r.part (lineNo r.va) r.gen).isSome)

/-- A request goes over a link where its home is on another module, but for one that its die serves (R107, R114, R155, R442). -/
def State.linkFor (s : State) (r : Req) (unit : Nat) : Option State :=
  if s.servedNear r then some s else s.overLink r.part unit (r.op.reads || r.op matches .prefetch _)

/-- A request writes through its translation (R94). -/
def ReqOp.needsW : ReqOp → Bool
  | .ticket .. | .watch .. | .status .. | .load .. | .read _ | .prefetch _ | .fetch => false
  | _ => true

/-- A request of the new version of a region that still drains waits (R102). -/
def State.draining (s : State) (r : Req) : Bool :=
  let p := s.part r.part
  p.rewrites.any (fun w => match p.regions.find w.idx with
    | some x => x.holds r.va && r.ver == x.ver
    | none => false)

/-- The physical address at which a request would act, where its translation is cached. -/
def State.reqPa (s : State) (r : Req) : Xl := s.xlate (s.unitOf r.part r.va % 32) r.part r.va r.op.needsW

/-- A request may act at its home. -/
def State.mayAct (s : State) (r : Req) : Bool :=
  r.back.isNone && r.failed.isNone && r.op ≠ .fetch && !s.pendingDeps r.after

/-- HOME_SLICE_OPERATION (R278): a request acts at its home slice, reached over a link where that is on another module (R442), or a write-back at
its die's copy (R109); a generation that is over meets R86. -/
def evHomeSliceOperation (req : Nat) (s : State) : Option State :=
  match s.reqs.find? (fun r => r.id = req) with
  | none => none
  | some r =>
    if !s.mayAct r then none
    else if s.staleGen r.part r.va r.gen then some (s.staleOp r).rangesGo
    else if let some k := s.copyFor r then some ((s.copyMerge r k).dropReq r).rangesGo
    else if r.held.isSome || s.draining r then none
    else
      let unit := s.unitOf r.part r.va
      match r.op with
      | .kvapp .. | .kvtrunc .. | .kvfind .. | .kvins .. | .kvrel .. =>
        (s.linkFor r unit).bind (fun s => (s.kvHome unit r).bind (fun s' =>
          if s.holdRoom (unit % 32) || !s'.reqs.any (fun x => x.id = r.id && x.held.isSome) then some s'.rangesGo else none))
      | _ =>
        match s.episode? r.part r.va with
        | some e => (s.trouble (unit % 32) r e.code).map State.rangesGo
        | none =>
          match s.reqPa r with
          | .miss => none
          | .denied c => (s.trouble (unit % 32) r c).map State.rangesGo
          | .hit pa => (s.linkFor r unit).map (fun s => (s.homeOp r unit pa).rangesGo)

/-- A physical address on a die that no module has (R94). -/
def noSuchDie (pa : Nat) : Bool := !pa.testBit 52 && decide (24 ≤ bits pa 37 5)
/-- A request that would act there. -/
def State.absent (s : State) (req : Nat) : Bool :=
  match s.reqs.find? (fun r => r.id = req) with
  | none => false
  | some r =>
    s.mayAct r && !s.staleGen r.part r.va r.gen && (s.copyFor r).isNone && r.held.isNone && !s.draining r && (s.episode? r.part r.va).isNone
      && (match s.reqPa r with | .hit pa => noSuchDie pa | _ => false)

/-- HOME_SLICE_OPERATION; an access to a frame of a die that no module has stops the machine. -/
def execHomeSliceOperation (req : Nat) (s : State) : Host.Outcome State Fault Refusal :=
  if s.absent req then .fault .physAbsent else event s (evHomeSliceOperation req s)

/-- TICKET_WAITER_RETRY: a waiter without a slice entry reads again at the home (R102, R296, R442). -/
def evTicketWaiterRetry (a : Agent) (s : State) : Option State :=
  match s.waiters.find? (fun w => w.agent = a && !w.inSlice) with
  | none => none
  | some w => (s.reach w.part w.va true).bind (fun s => s.tryWaiter w)
/-- TICKET_WAITER_RETRY. -/
def execTicketWaiterRetry (a : Agent) (s : State) := event s (evTicketWaiterRetry a s)

/-! ## Fills and evictions -/

/-- CH of a request. -/
def ReqOp.ch : ReqOp → Nat
  | .load ch _ => ch
  | .prefetch ch => ch
  | _ => 0

/-- L1_FILL: a line that came back fills the L1, unless it may no longer enter it, and serves its request (R107, R108, R314). -/
def evL1Fill (req : Nat) (s : State) : Option State :=
  match s.reqs.find? (fun r => r.id = req) with
  | none => none
  | some r =>
    match r.back with
    | none => none
    | some d =>
      let line := lineNo r.va
      let s := if r.alloc && (s.attr r.core (lineArena line)).gen = r.gen then s.l1FillLine r.core line r.gen r.op.ch d else s
      match r.op with
      | .load _ known =>
        some (s.complete r ((List.range r.n).map (fun i => (known.find (r.va % 128 + i)).getD (lineByte d (r.va % 128 + i)))))
      | _ => some (s.dropReq r)
/-- L1_FILL. -/
def execL1Fill (req : Nat) (s : State) := event s (evL1Fill req s)

/-- L1_EVICTION (R109). -/
def evL1Eviction (core line : Nat) (s : State) : Option State :=
  ((s.core core).l1.find? (fun l => l.line = line)).map (fun l => s.l1Evict core l)
/-- L1_EVICTION. -/
def execL1Eviction (core line : Nat) (s : State) := event s (evL1Eviction core line s)

/-- SLICE_EVICTION (R113). -/
def evSliceEviction (die line : Nat) (s : State) : Option State :=
  match s.llc.find? (fun l => l.die = die && l.line = line) with
  | none => none
  | some l => let s' := s.llcEvict l; if s' = s then none else some s'
/-- SLICE_EVICTION. -/
def execSliceEviction (die line : Nat) (s : State) := event s (evSliceEviction die line s)

/-- BARRIER_HALF_COMPLETE: a REMOTE object receives its partner's message (R162). -/
def evBarrierHalfComplete (team off : Nat) (s : State) : Option State :=
  match (s.teams.find team).bind (fun t => t.half.find? (fun h => h / 4 / 16 = off && h % 4 = 0)) with
  | none => none
  | some h => some ((s.mapTeam team (fun t => { t with half := t.half.erase h ++ [h + 1] })).flipTest team off)
/-- BARRIER_HALF_COMPLETE. -/
def execBarrierHalfComplete (team off : Nat) (s : State) := event s (evBarrierHalfComplete team off s)

/-! ## Fetch (R24, R389) -/

/-- Why a fetch brings no bytes: a fault of the fetch, or a translation that it waits for (R96, R389). -/
inductive FetchErr where
  | fault (code addr : Nat)
  | hold (va code : Nat)
  deriving DecidableEq, Repr

/-- The bytes at a PC, to the end of its block of 32 and at most 16 (R24); the checks are a load's, with R80 step 1 before the region
(R388; log 126), and the type is N (R389). -/
def State.fetch (s : State) (a : Agent) (pc : W64) : Except FetchErr (List Byte) :=
  let va := vaOf pc
  let part := s.agentPart a
  let core := coreOf a
  let n := min 16 (32 - va % 32)
  if s.deadArena core (canonical (s.core core).filters va) then .error (.fault Code.arenaDead va)
  else match s.route core part va false false with
  | .error c => .error (.fault c va)
  | .ok r =>
    if r.attr.typ ≠ Arn.typN then .error (.fault Code.prot va)
    else if s.staleGen part r.va r.attr.gen then .ok (s.staleBytes part r.va n r.attr.gen)
    else match s.homeRead part r.attr.gen r.va n with
      | .ok l => .ok l
      | .error (c, x) =>
        if c = Code.ecc then .error (.fault c x)
        else if c = Code.synonym then .error (.fault c va)
        else .error (.hold va c)

/-- A fetch goes to the home of its line: none where it waits for one that is not reached yet (R102, R442). -/
def State.fetchLink (s : State) (a : Agent) (pc : W64) : Option State :=
  match s.route (coreOf a) (s.agentPart a) (vaOf pc) false false with
  | .ok r => if s.staleGen (s.agentPart a) r.va r.attr.gen then some s else s.reach (s.agentPart a) r.va true
  | .error _ => some s

/-- What stands at a fragment's PC: an instruction, or why there is none (R41, R389). -/
def State.decodeAt (s : State) (a : Agent) (fr : SplitRec) : Except FetchErr (Except DecErr Instr) :=
  (s.fetch a fr.pc).map (decodeBytes (vaOf fr.pc % 32))

/-! ## Errors (R118, R119, R395) -/

/-- ADDR of a site (R395). -/
def siteAddr (x : EccSite) : Nat := eccAddr x.array.toNat x.unit.toNat x.bank.toNat x.offset.toNat
/-- A bank's key. -/
def siteKey (x : EccSite) : Nat := x.array.toNat * 2048 + x.unit.toNat * 32 + x.bank.toNat
/-- A bank as it is marked. -/
def siteMark (x : EccSite) : Nat × Nat × Nat := (x.array.toNat, x.unit.toNat, x.bank.toNat)

/-- Count a corrected error and log it (R118). -/
def State.logCorrected (s : State) (die : Nat) (x : EccSite) : State :=
  (s.mapDie die (fun d => { d with corrections := d.corrections.put (siteKey x) (d.clk :: (d.corrections.find (siteKey x)).getD []) })).postError die
    (errorRec die (siteAddr x) true Code.ecc)

/-- A unit that an array has on a die: 16 slices, 64 cores, 16 quads, or a Larlan port (R395, R442). -/
def unitOk (x : EccSite) : Bool :=
  let n := x.array.toNat
  if n = 0 || n = 1 || n = 4 || n = 8 then decide (x.unit.toNat < 16) else if n = 9 then decide (x.unit.toNat < 18) else decide (x.unit.toNat < 64)
/-- A place in an array that the symbol code over 18 banks protects (R117). -/
def banked (x : EccSite) : Bool := decide (x.array.toNat ≤ 4) && decide (x.bank.toNat < 18) && unitOk x

/-- A site as error records name one: an array that is written, and a bank where the symbol code has banks, else 31 (R117, R395). -/
def siteOk (x : EccSite) : Bool :=
  unitOk x && (if x.array.toNat ≤ 4 then decide (x.bank.toNat < 18) else decide (x.array.toNat < 10) && x.bank.toNat = 31)

/-- ECC_CORRECTED (R118): of an array with a bank marked failed the code corrects no further wrong byte (R117). -/
def evEccCorrected (die : Nat) (site : EccSite) (s : State) : Option State :=
  let marked := (s.die die).marks.any (fun m => m.1 = site.array.toNat && m.2.1 = site.unit.toNat)
  if die < 24 && (s.die die).live && siteOk site && !marked then some (s.logCorrected die site) else none
/-- ECC_CORRECTED. -/
def execEccCorrected (die : Nat) (site : EccSite) (s : State) := event s (evEccCorrected die site s)

/-- More than 64 errors of a bank were corrected within 2^24 clk: some 65 following ones lie that near (R118). -/
def busyBank : List Nat → Bool
  | [] => false
  | t :: l => (match l[63]? with | some u => decide (t - u < 2 ^ 24) | none => false) || busyBank l

/-- The hearth core marks the bank failed for its corrections (R118). -/
def State.busy (s : State) (die : Nat) (site : EccSite) : Bool :=
  busyBank (((s.die die).corrections.find (siteKey site)).getD [])
/-- BANK_MARK_FAILED (R118): by the hearth core for its corrections, or at any time by firmware, whose choice is its own (log 40). -/
def evBankMarkFailed (die : Nat) (site : EccSite) (s : State) : Option State :=
  let d := s.die die
  if 24 ≤ die || !d.live || !banked site || d.marks.contains (siteMark site) then none
  else some (s.mapDie die (fun d => { d with marks := (siteMark site) :: d.marks }))
/-- BANK_MARK_FAILED. -/
def execBankMarkFailed (die : Nat) (site : EccSite) (s : State) := event s (evBankMarkFailed die site s)

/-- The arrays, the die and the unit in which a target's error lies: a line in the L1 or the slice that holds it, or in that one's tags; a load in
its core's L1, in a slice, in HBM or in a local store; a reading instruction in a local store, in its core's tiles or registers; an engine's
operation in a local store, in a tile file of the quad, or in its slots (R119, R395). -/
def eccIn (t : EccTarget) (die : Nat) (x : EccSite) : Bool :=
  let ar (l : List Nat) : Bool := l.contains x.array.toNat
  let core (k : Nat) : Bool := k / 64 = die && x.unit.toNat = k % 64
  match t with
  | .cleanL1 k _ | .dirtyL1 k _ => ar [5, 6] && core k
  | .cleanCopy d line | .dirtyCopy d line => ar [0, 1, 6] && d = die && x.unit.toNat = sliceOf (line * 128)
  | .poisonHome line => ar [0, 1, 6, 8] && x.unit.toNat = sliceOf (line * 128)
  | .load a _ _ => if ar [5] then core (coreOf a) else ar [0, 1, 8] && x.unit.toNat < 16 || ar [2]
  | .reader a => if ar [3, 7] then core (coreOf a) else ar [2]
  | .task q _ => if ar [4] then q / 16 = die && x.unit.toNat = q % 16
      else if ar [3] then q / 16 = die && x.unit.toNat / 4 = q % 16 else ar [2]
  | .copy _ _ => ar [2]

/-- ECC_UNCORRECTABLE (R118, R119, R247), at a site of the target on a die that is live. Engine work ends FAULTED, and of m.rstat, which has no
future, the wave stops whose result fails. A reading instruction that meets one has no effect, and its
fragment goes on behind it once the stop ends, as after a failed load (PREC 0 of R392, R394). -/
def evEccUncorrectable (die : Nat) (site : EccSite) (target : EccTarget) (s : State) : Option State :=
  if !(die < 24 && (s.die die).live && siteOk site && eccIn target die site) then none
  else match target with
  | .cleanL1 core line =>
    match (s.core core).l1.find? (fun l => l.line = line && l.dirty = 0) with
    | none => none
    | some l => some ((s.mapCore core (fun c => { c with l1 := c.l1.filter (· ≠ l) })).logCorrected die site)
  | .dirtyL1 core line =>
    match (s.core core).l1.find? (fun l => l.line = line && l.dirty ≠ 0 && !l.poison) with
    | none => none
    | some l => some (s.mapCore core (fun c => c.l1Map (fun x => if x = l then { l with poison := true } else x)))
  | .cleanCopy d line =>
    match s.llc.find? (fun l => l.die = d && l.line = line && !l.home && l.dirty = 0) with
    | none => none
    | some l => some ((s.llcDel l).logCorrected die site)
  | .dirtyCopy d line =>
    match s.llc.find? (fun l => l.die = d && l.line = line && !l.home && l.dirty ≠ 0 && !l.poison) with
    | none => none
    | some l => some { s with llc := s.llc.map (fun x => if x = l then { l with poison := true } else x) }
  | .poisonHome line =>
    match s.llc.find? (fun l => l.die = die && l.line = line && l.home && !l.poison) with
    | none => none
    | some l => some { s with llc := s.llc.map (fun x => if x = l then { l with poison := true } else x) }
  | .load a id lanes =>
    match (s.ctx? a).bind (fun c => c.pend.find? (fun p => p.id = id && p.ctr = .ldc)) with
    | none => none
    | some p =>
      let f : Failure := match p.fail with
        | some x => { x with lanes := x.lanes ||| lanes }
        | none => { code := Code.ecc, lanes := lanes, addr := siteAddr site, prec := false, meld := p.meld }
      some (s.mapPend a id (fun p => { p with fail := some f }))
  | .reader a =>
    match s.ctx? a with
    | none => none
    | some c =>
      if c.stop.isSome then none
      else
        match (c.rec? c.frag).map (fun fr => (fr, s.decodeAt a fr)) with
        | some (fr, .ok (.ok i)) =>
          some ((s.setCtx a (c.setPc c.frag (fr.pc + BitVec.ofNat 64 i.bytes))).stopWave a
            { code := Code.ecc, prec := false, addr := siteAddr site, mask := fr.mask, pc := fr.pc, meld := fr.meld, posted := false,
              silent := false })
        | _ => none
  | .task q id =>
    match s.task? q id with
    | none => none
    | some t =>
      let s := match t.op with
        | .rstat _ _ _ i _ ls => s.mapPend t.agent i (fun p =>
            { p with fail := some { code := Code.ecc, lanes := ls, addr := siteAddr site, prec := false, meld := p.meld } })
        | _ => s
      some (s.mapTask q id (fun t => { t with fail := some Code.ecc }))
  | .copy q id =>
    match (s.quad q).copies.find? (fun c => c.id = id && c.sls && c.kind ≠ ckFill) with
    | none => none
    | some _ => some (s.mapCopy q id (fun c => { c with fail := some Code.ecc }))
/-- ECC_UNCORRECTABLE. -/
def execEccUncorrectable (die : Nat) (site : EccSite) (target : EccTarget) (s : State) :=
  event s (evEccUncorrectable die site target s)

end Sys2Proof.Machine
end

