-- ==== Sys2Proof/Machine/Host.lean ====
section
/-! DEFINITION. The host link, the mailboxes, the Larlan ports, partitions, starts and power (R437 to R451, R317). -/

namespace Sys2Proof.Machine

/-! ## Partitions (R445) -/

/-- Dies l as a mask. -/
def dieMask (l : List Nat) : BitVec 24 := l.foldl (fun m d => m ||| BitVec.ofNat 24 (2 ^ d)) 0

/-- The placements that R445 allows. -/
def placements : List (BitVec 24) :=
  BitVec.allOnes 24 ::
    ([2, 4, 6, 8, 12].flatMap (fun n => (List.range (24 / n)).map (fun j =>
        dieMask ((List.range (n / 2)).flatMap (fun i => [n / 2 * j + i, n / 2 * j + i + 12]))))
      ++ [1, 3].flatMap (fun n => (List.range (24 / n)).map (fun j => dieMask ((List.range n).map (fun i => n * j + i)))))

/-- A configuration: partitions of allowed placements that do not overlap (R445). -/
def validConfig : List (BitVec 24) → Bool
  | [] => true
  | m :: l => placements.contains m && l.all (fun x => x &&& m == 0) && validConfig l

/-- Memory outside the module's own HBM: the host's, and other modules' (R94). -/
def outside (m : Memory) : Memory := m.filter (fun c => 2 ^ 42 ≤ c.1)

/-- A partition that a LINK failure has stopped (R444). -/
def Part.stopped (live : BitVec 24) : Part :=
  { Part.init live 0 with ready := false, down := true, regions := [] }

/-- An agent's context stands on a die of a list. -/
def onDies (ds : List Nat) (key : Nat) : Bool :=
  match agentOfKey key with
  | .slot c _ => decide (c < 1536) && ds.contains (c / 64)
  | .hearth _ => false

/-- Everything that stands on the dies of a partition or acts in it is gone: waves, stokers, engine operations, futures, memory and
what is in flight; the hearths stay (R444, R449). -/
def State.discardPart (s : State) (p : Nat) : State :=
  let ds := (s.dieParts.filter (fun e => e.2 = p)).map (·.1)
  let gone := s.teams.filter (fun e => ds.contains (e.2.core / 64) || (s.groups.find e.2.group).any (fun g => g.part = p))
  let lost (t : Nat) : Bool := gone.any (fun e => e.1 = t)
  let keepAgent (a : Agent) : Bool := isHearth a || !ds.contains (dieOf a)
  { s with
    mem := s.mem.filter (fun c => !ds.contains (c.1 / 2 ^ 37))
    llc := s.llc.filter (fun l => l.part ≠ p)
    ctxs := s.ctxs.filter (fun e => !onDies ds e.1 && !(lost e.2.team && !isHearth (agentOfKey e.1)))
    teams := s.teams.filter (fun e => !lost e.1)
    groups := s.groups.filter (fun e => e.2.part ≠ p)
    cores := s.cores.filter (fun e => !(decide (e.1 < 1536) && ds.contains (e.1 / 64)))
    quads := s.quads.filter (fun e => !ds.contains (e.1 / 16) && (e.1 < 384 || !e.2.futs.any (fun f => lost f.2.team)))
    stokers := s.stokers.filter (fun e => !lost e.2.team)
    poison := s.poison.filter (fun a => !ds.contains (a / 2 ^ 30))
    reqs := s.reqs.filter (fun r => r.part ≠ p)
    ranges := s.ranges.filter (fun r => keepAgent r.agent)
    waiters := s.waiters.filter (fun w => w.part ≠ p)
    episodes := s.episodes.filter (fun e => e.part ≠ p || e.bytes = 0)
    saves := s.saves.filter (fun v => v.part ≠ p)
    saved := s.saved.filter (fun v => !v.teams.any lost) }

/-- READY and DOWN of boot records: die 0's over all partitions of the configuration, another die's of its own (R444, R446, R449). -/
def State.syncBoot (s : State) : State :=
  let flags (ready down : Bool) (d : Die) : Die :=
    { d with bootrec := BitVec.ofNat 64 (setBits (setBits d.bootrec.toNat 0 1 (b2n ready)) 2 1 (b2n down)) }
  { s with dies := s.dies.map (fun (e : Nat × Die) =>
      if e.1 = 0 then
        (e.1, flags (s.parts.all (fun p => p.2.ready)) (s.parts.any (fun p => p.2.down)) e.2)
      else match s.dieParts.find e.1 with
        | some p => (e.1, flags (s.part p).ready (s.part p).down e.2)
        | none => e) }

/-- The root state and the root task of a partition, and the hearth waves of its live dies (R354, R397, R447). -/
def State.install (s : State) (p : Nat) (live : BitVec 24) : State :=
  let ds := onesBelow live.toNat 24
  let d := ds.headD 0
  let t := s.uid
  { s with
    uid := t + 1
    mem := (tableCells rootTable d).foldl (fun (m : Memory) (c : Host.Cell) => m.set c.1 c.2) s.mem
    parts := s.parts.put p (Part.init live d)
    teams := s.teams.put t (rootTeam (64 * d))
    ctxs := ds.foldl (fun (m : AMap Ctx) (d : Nat) => m.put (ctxKey (.hearth d)) hearthCtx)
      (s.ctxs.put (ctxKey (.slot (64 * d) 0)) (rootCtx t p live)) }

/-! ## Starts (R446, R448, R449) -/

/-- A boot record (R446). -/
def bootRecord (live : BitVec 24) (die reason fails stage : Nat) (kindle : Bool) : W64 :=
  BitVec.ofNat 64 (live.toNat * 2 ^ 32 + die * 2 ^ 24 + reason * 2 ^ 16 + fails * 2 ^ 12 + stage * 2 ^ 8 + 2 * b2n kindle)

/-- The module with nothing running: the host side, host memory and the numbers that the model counts stay; a start comes next
(R446). Ports lose their training, and the keys that they agree next are fresh (R442, R443). -/
def State.halted (s : State) (boot : W64) : State :=
  { State.reset with
    mem := outside s.mem, ctxs := [], teams := [], parts := [], dieParts := []
    dies := (List.range 24).map (fun d => (d, { Die.init with bootrec := boot }))
    host := { s.host with aper := [], on := false, up := false, kindle := false }
    ports := s.ports.map (fun (e : Nat × Port) => (e.1, { Port.init with epoch := e.2.epoch }))
    uid := s.uid, tick := s.tick, cur := s.cur, frag := s.frag, turns := s.turns }

/-- A start has failed: FAILS rises, at most to 3, and the record says why; nothing runs until the next start (R446, R448). -/
def State.failStart (s : State) (live : BitVec 24) (die reason stage : Nat) : State :=
  let f := min 3 (s.host.fails + 1)
  let s := s.halted (bootRecord live die reason f stage false)
  { s with host := { s.host with fails := f, on := true } }

/-- A restart of the module leaves the boot record's reason readable, with FAILS as it is (R448, R449). -/
def State.restartAll (s : State) : State :=
  s.halted (BitVec.ofNat 64 (setBits (setBits (setBits (s.die 0).bootrec.toNat 0 3 0) 8 4 0) 12 4 s.host.fails))

/-- The dies whose hearth accepts the installed image: it has read the image whole, and the image verifies (R446, step 1). -/
def State.accepts (s : State) (t : StartTests) : BitVec 24 := if Config.verifies s.host.image then t.image else 0
/-- What step k finds: the reason and the lowest die of a list on which the step fails (R446). -/
def stepFinds (accepts : BitVec 24) (t : StartTests) (ds : List Nat) (k : Nat) : Option (Nat × Nat) :=
  let first (reason : Nat) (m : BitVec 24) : Option (Nat × Nat) := (ds.find? (fun d => !m.getLsbD d)).map (fun d => (reason, d))
  match k with
  | 1 => first 1 accepts
  | 2 => first 2 t.edges
  | 3 => first 3 t.hbm
  | 4 => first 6 t.sram
  | _ => none
/-- The first cause in the steps from lo to stage: the reason and the die, in step order and on the lowest die (R446). -/
def startCause (accepts : BitVec 24) (t : StartTests) (ds : List Nat) (lo stage : Nat) : Option (Nat × Nat) :=
  ((List.range (stage + 1)).filter (lo ≤ ·)).findSome? (stepFinds accepts t ds)
/-- Every die of the module. -/
def allDies : List Nat := List.range 24
/-- The dies that the steps to a stage have left live: steps 2 and 3 drop dies (R446). -/
def liveAt (t : StartTests) (stage : Nat) : BitVec 24 :=
  (if 2 ≤ stage then t.edges else BitVec.allOnes 24) &&& (if 3 ≤ stage then t.hbm else BitVec.allOnes 24)
/-- The step after a stage has not ended the start: every hearth accepts the image after step 1, and after step 5 die 0 and a die of each
configured partition are live (R446). -/
def State.reaches (s : State) (t : StartTests) (stage : Nat) : Bool :=
  (stage = 0 || s.accepts t == BitVec.allOnes 24)
    && (stage < 5 || ((liveAt t stage).getLsbD 0 && s.host.config.all (fun m => m &&& liveAt t stage != 0)))

/-- MODULE_START (R446 to R448): with FAILS = 3 die 0's hearth alone runs, in kindling mode, from a ROM that no memory holds: what its
code does is how it answers its mailbox (log 87); else the steps of R446 with what the hearths find. -/
def evModuleStart (t : StartTests) (s : State) : Option State :=
  if s.host.on then none
  else if s.host.fails = 3 then
    let reason := bits (s.die 0).bootrec.toNat 16 16
    let s := s.halted (BitVec.ofNat 64 (reason % 256 * 2 ^ 16 + reason / 256 * 2 ^ 24 + 3 * 2 ^ 12 + 2))
    some { s with host := { s.host with on := true, kindle := true }
                  dies := s.dies.map (fun (e : Nat × Die) => (e.1, { e.2 with live := e.1 == 0 })) }
  else
    let live := liveAt t 4
    let cause := (startCause (s.accepts t) t allDies 1 4).getD (0, 0)
    let parts := s.host.config.map (fun m => m &&& live)
    if !s.reaches t 1 then some (s.failStart (liveAt t 0) cause.2 cause.1 0)
    else if !s.reaches t 5 then some (s.failStart live cause.2 cause.1 4)
    else
      let boot := bootRecord live cause.2 cause.1 0 6 false
      let s := s.halted boot
      let s := { s with
        host := { s.host with on := true, up := true, fails := 0, runs := s.host.image, current := s.host.config }
        dies := (List.range 24).map (fun d =>
          (d, { Die.init with bootrec := boot, live := live.getLsbD d, sram := t.sram.getLsbD d }))
        dieParts := (List.range 24).filterMap (fun d =>
          ((s.host.config.zipIdx.find? (fun e => e.1.getLsbD d))).map (fun e => (d, e.2))) }
      some (parts.zipIdx.foldl (fun (s : State) (e : BitVec 24 × Nat) => s.install e.2 e.1) s).syncBoot
/-- MODULE_START. -/
def execModuleStart (t : StartTests) (s : State) := event s (evModuleStart t s)

/-- A start ends after a stage for a reason on a die; a cause of an earlier step, or of the step that is running on a lower die, is the one
recorded (R446). -/
def State.endStart (s : State) (t : StartTests) (stage reason die : Nat) : Option State :=
  if s.host.on || s.host.fails = 3 || 6 ≤ stage || 24 ≤ die || !s.reaches t stage then none
  else
    let c := match startCause (s.accepts t) t allDies 1 stage with
      | some c => c
      | none => (match stepFinds (s.accepts t) t (List.range die) (stage + 1) with | some c => c | none => (reason, die))
    some (s.failStart (liveAt t stage) c.2 c.1 stage)
/-- What the hearths have found in a start that does not end: free (R446; log 85). -/
def State.found (s : State) : StartTests :=
  { image := Config.found s.tick 1, edges := Config.found s.tick 2, hbm := Config.found s.tick 3, sram := Config.found s.tick 4 }
/-- The last stage up to a number that a start reaches with what its hearths find. -/
def State.reached (s : State) (t : StartTests) : Nat → Nat
  | 0 => 0
  | k + 1 => if s.reaches t (k + 1) then k + 1 else s.reached t k
/-- The stage that a start which does not end has completed: freely one that it can have reached (R446; log 85). -/
def State.foundStage (s : State) : Nat := s.reached s.found (min 5 (Config.startStage s.tick))

/-- WATCHDOG_EXPIRY: a start that has not set READY in 10 s fails, whatever step it has reached (R446). -/
def evWatchdogExpiry (s : State) : Option State := s.endStart s.found s.foundStage 5 0
/-- WATCHDOG_EXPIRY. -/
def execWatchdogExpiry (s : State) := event s (evWatchdogExpiry s)

/-- BRINGUP_OVERTEMP: a die above 105 °C during bring-up fails the start (R446). -/
def evBringupOvertemp (die : Nat) (s : State) : Option State := s.endStart s.found s.foundStage 4 die
/-- BRINGUP_OVERTEMP. -/
def execBringupOvertemp (die : Nat) (s : State) := event s (evBringupOvertemp die s)

/-- RESTART_MODULE (R449). Warm and cold restarts differ in nothing that the manual states. -/
def evRestartModule (warm : Bool) (s : State) : Option State := let _ := warm; some s.restartAll
/-- RESTART_MODULE. -/
def execRestartModule (warm : Bool) (s : State) := event s (evRestartModule warm s)

/-- The configured dies of a partition (R445). -/
def State.configured (s : State) (p : Nat) : List Nat := (s.dieParts.filter (fun e => e.2 = p)).map (·.1)

/-- A restart of one partition begins: its state is discarded, its hearths, dies and ports start again, and READY is 0 until it has ended; FAILS
and the other partitions stay (R449). -/
def State.beginRestart (s : State) (p : Nat) : Option State :=
  match s.parts.find p with
  | none => none
  | some x =>
    let ds := s.configured p
    let s := s.discardPart p
    some (State.syncBoot { s with
      ports := s.ports.map (fun (e : Nat × Port) => (e.1, if ds.contains (portDie e.1) then { Port.init with epoch := e.2.epoch } else e.2))
      ctxs := s.ctxs.filter (fun e => match agentOfKey e.1 with | .hearth d => !ds.contains d | .slot .. => true)
      parts := s.parts.put p { Part.stopped x.live with down := x.down }
      dies := s.dies.map (fun (e : Nat × Die) => if ds.contains e.1 then (e.1, { Die.init with bootrec := e.2.bootrec }) else e) })

/-- The boot record of die 0 after a restart of some dies: their LIVE bits, STAGE, and a cause where there is one (R446, R449; log 84). -/
def restartRecord (old : Nat) (ds : List Nat) (live : BitVec 24) (cause : Option (Nat × Nat)) (stage : Nat) : W64 :=
  let l := (BitVec.ofNat 24 (bits old 32 24) &&& ~~~(dieMask ds)) ||| live
  let x := setBits (setBits old 32 24 l.toNat) 8 4 stage
  BitVec.ofNat 64 (match cause with | some c => setBits (setBits x 16 8 c.1) 24 8 c.2 | none => x)

/-- A restart of one partition: its dies repeat steps 2 to 6 of R446, which drop dies, or regain them, and try their SRAM dies again;
READY sets and DOWN clears, unless die 0 is dropped or no die is left (R446, R449). -/
def State.restartPart (s : State) (p : Nat) (t : StartTests) : Option State :=
  (s.beginRestart p).map (fun s =>
    let ds := s.configured p
    let live := dieMask (ds.filter (liveAt t 4).getLsbD)
    let ok := live ≠ 0 && (!ds.contains 0 || live.getLsbD 0)
    let boot := restartRecord (s.die 0).bootrec.toNat ds live (startCause 0 t ds 2 4) (if ok then 6 else 4)
    let s := { s with dies := s.dies.map (fun (e : Nat × Die) =>
      let d := if ds.contains e.1 then { e.2 with live := live.getLsbD e.1, sram := t.sram.getLsbD e.1 } else e.2
      (e.1, if e.1 = 0 then { d with bootrec := boot } else d)) }
    (if ok then s.install p live else s.mapPart p (fun x => { x with live := live })).syncBoot)
/-- RESTART_PARTITION: a restart of a partition ends, with what its steps find (R449). -/
def evRestartPartition (x : PartTests) (s : State) : Option State := if s.host.on then s.restartPart x.part x.tests else none
/-- RESTART_PARTITION. -/
def execRestartPartition (x : PartTests) (s : State) := event s (evRestartPartition x s)

/-! ## Heat and power (R448, R451) -/

/-- THERMAL_THROTTLE: a die's clk falls by one step of 1/16; only timing changes (R451). -/
def evThermalThrottle (die : Nat) (s : State) : Option State :=
  if die < 24 && (s.die die).throttle < 15 then some (s.mapDie die (fun d => { d with throttle := d.throttle + 1 })) else none
/-- THERMAL_THROTTLE. -/
def execThermalThrottle (die : Nat) (s : State) := event s (evThermalThrottle die s)

/-- Power is gone: everything is lost but FAILS and the installed image, and the next power-up is a start (R448). -/
def State.powerDown (s : State) : State :=
  let s' := s.halted 0
  { s' with host := { s'.host with chunk := [], reads := [], msix := [] } }

/-- THERMAL_POWER_OFF (R451). -/
def evThermalPowerOff (die : Nat) (s : State) : Option State := if die < 24 then some s.powerDown else none
/-- THERMAL_POWER_OFF. -/
def execThermalPowerOff (die : Nat) (s : State) := event s (evThermalPowerOff die s)

/-- POWER_LOSS (R448). -/
def evPowerLoss (s : State) : Option State := some s.powerDown
/-- POWER_LOSS. -/
def execPowerLoss (s : State) := event s (evPowerLoss s)

/-! ## BAR2 (R438, R439) -/

/-- The partition and the address of a BAR2 access of n bytes inside one enabled aperture; none where it is refused (R438,
R439). -/
def State.bar2Target (s : State) (off n : Nat) : Option (Nat × Nat) :=
  let i := off / 2 ^ 32
  let d : Nat := (AMap.get (0 : W64) s.host.aper i).toNat
  let p := bits d 24 8
  if i < 16 && (off + n - 1) / 2 ^ 32 = i && d.testBit 0 && !s.host.kindle && (s.parts.find p).any (·.ready) then
    some (p, bits d 32 24 * 2 ^ 32 + off % 2 ^ 32)
  else none

/-- A refused host access posts an error record, on die 0 (R439, R395). -/
def State.hostRefused (s : State) (off : Nat) : State :=
  s.postError 0 (errorRec 0 (eccAddr 9 31 31 off) false Code.xlate)

/-- An arena that host and Larlan accesses may name: neither the null id nor FREE nor DRAINING (R439). -/
def Part.hostArena (p : Part) (va : Nat) : Bool :=
  arenaOf va ≠ 0 && ((p.arena (arenaOf va)).state == Arn.live || (p.arena (arenaOf va)).state == Arn.sealed)

/-- Every line of a range lies in a region entry, and none of an N arena has its home on the host (R101, R439, R440). -/
def Part.placed (p : Part) (va n : Nat) : Bool :=
  (segs va n).all (fun x => (p.region? (x.1 * 128)).any (fun e =>
    !((e.2.home (x.1 * 128)).host && (p.arena (lineArena x.1)).typ == Arn.typN)))

/-- What an access from outside the partition's waves comes to: it performs, it is refused, or it waits for the home of one of its lines, while a
region drains or no port to another module is open (R102, R439, R442, R443). -/
inductive Outer (α : Type) where
  | done (x : α)
  | refused
  | wait

/-- Bytes at their homes for an access from outside: refused where the arena, a region or a translation refuses it (R13, R439). -/
def State.outsideRead (s : State) (p va n : Nat) : Outer (List Byte × State) :=
  if (s.part p).hostArena va && (s.part p).placed va n then
    match s.homeRead p (s.genOf p va) va n, (segs va n).foldlM (fun (s : State) x => s.reach p (x.1 * 128) true) s with
    | .error _, _ => .refused
    | .ok l, some s => .done (l, s)
    | .ok _, none => .wait
  else .refused

/-- What a host read answers: the home copy (R439). -/
def State.hostRead (s : State) (off n : Nat) : Outer (List Byte × State) :=
  match s.bar2Target off n with
  | some t => s.outsideRead t.1 t.2 n
  | none => .refused

/-- HOST_BAR2_READ (R439): the answer is recorded on the host side. -/
def evHostBar2Read (off n : Nat) (s : State) : Option State :=
  if n = 0 || 2 ^ 36 < off + n then none
  else
    match s.hostRead off n with
    | .done (l, s) => some { s with host := { s.host with reads := (off, l) :: s.host.reads } }
    | .wait => none
    | .refused => some (State.hostRefused { s with host := { s.host with reads := (off, List.replicate n 0xFF) :: s.host.reads } } off)
/-- HOST_BAR2_READ. -/
def execHostBar2Read (off n : Nat) (s : State) := event s (evHostBar2Read off n s)

/-- A masked write of bytes at their homes: refused where the arena, a region or a translation refuses it; a SEALED arena discards it (R439). -/
def State.outsideWrite (s : State) (p va : Nat) (l : List Byte) : Outer State :=
  if !((s.part p).hostArena va && (s.part p).placed va l.length) then .refused
  else if ((s.part p).arena (arenaOf va)).state == Arn.sealed then .done s
  else match s.homePut p (s.genOf p va) va l with
    | .ok s => .done s
    | .error e => if e.1 = Code.link then .wait else .refused

/-- What a host write comes to (R439). -/
def State.hostWrite (s : State) (off : Nat) (l : List Byte) : Outer State :=
  match s.bar2Target off l.length with
  | some t => s.outsideWrite t.1 t.2 l
  | none => .refused

/-- HOST_BAR2_WRITE (R439). -/
def evHostBar2Write (off : Nat) (bytes : List Byte) (s : State) : Option State :=
  if bytes = [] || 2 ^ 36 < off + bytes.length then none
  else
    match s.hostWrite off bytes with
    | .done s => some s
    | .wait => none
    | .refused => some (s.hostRefused off)
/-- HOST_BAR2_WRITE. -/
def execHostBar2Write (off : Nat) (bytes : List Byte) (s : State) := event s (evHostBar2Write off bytes s)

/-! ## BAR0 (R438, R441) -/

/-- PSTATE (R438). -/
def State.pstate (s : State) : W64 :=
  BitVec.ofNat 64 (s.parts.foldl (fun n e => n + 2 ^ e.1 * b2n e.2.ready + 2 ^ (e.1 + 32) * b2n e.2.down) 0)

/-- Bytes of a mailbox at a word (R441). -/
def Mbox.word (m : Mbox) (o : Nat) : W64 :=
  if o = 0 then BitVec.ofNat 64 (m.cmd + m.tag.toNat * 2 ^ 32)
  else if o = 8 then m.arg
  else if o = 0x10 then BitVec.ofNat 64 (m.len + m.status * 2 ^ 32)
  else if o = 0x18 then BitVec.ofNat 64 m.rlen
  else if o < 0x40 then 0
  else BitVec.ofNat 64 (ofLe (bytesAt m.data (o - 0x40) 8))

/-- What the host reads at a BAR0 word (R438): no step of the table, a view of the state. -/
def State.bar0Read (s : State) (off : Nat) : W64 :=
  if off = 0 then (s.die 0).bootrec
  else if off = 0x10 then s.pstate
  else if 0x100000 ≤ off && off < 0x130000 then (s.die ((off - 0x100000) / 0x2000)).mbox.word (off % 0x2000)
  else if 0x200000 ≤ off && off < 0x200100 && off % 16 = 0 then AMap.get (0 : W64) s.host.aper ((off - 0x200000) / 16)
  else 0

/-- A host write of four bytes of a mailbox: a CMD write while STATUS is 1 is discarded, else it sets STATUS to 1 and wakes the hearth;
STATUS and RLEN are the device's (R405, R441). -/
def Die.mboxWrite (d : Die) (o : Nat) (v : W32) : Die :=
  let m := d.mbox
  if o = 0 then
    if m.status = 1 then d else { d with mbox := { m with cmd := v.toNat, status := 1 }, mboxRing := true }
  else if o = 4 then { d with mbox := { m with tag := v } }
  else if o = 8 || o = 12 then { d with mbox := { m with arg := BitVec.ofNat 64 (setBits m.arg.toNat (8 * (o - 8)) 32 v.toNat) } }
  else if o = 0x10 then { d with mbox := { m with len := v.toNat } }
  else if o < 0x40 then d
  else { d with mbox := { m with data := putBytes m.data (o - 0x40) (leBytes 4 v.toNat) } }

/-- The fields of an aperture descriptor (R438). -/
def aperture (v : W64) : W64 := v &&& 0x00FFFFFFFF000001

/-- A host write of four bytes at a multiple of 4 of BAR0 (R438, R441, R449): a RESTART of a partition that is not there, or of none while
no start has ended, does nothing (log 122). -/
def State.bar0Word (s : State) (off : Nat) (v : W32) : State :=
  if off = 8 then
    if v.getLsbD 9 then s.restartAll else if s.host.on then (s.beginRestart (bits v.toNat 0 8)).getD s else s
  else if 0x100000 ≤ off && off < 0x130000 then s.mapDie ((off - 0x100000) / 0x2000) (fun d => d.mboxWrite (off % 0x2000) v)
  else if 0x200000 ≤ off && off < 0x200100 && off % 16 < 8 then
    let i := (off - 0x200000) / 16
    let old : W64 := AMap.get 0 s.host.aper i
    { s with host := { s.host with
        aper := AMap.set 0 s.host.aper i (aperture (BitVec.ofNat 64 (setBits old.toNat (8 * (off % 8)) 32 v.toNat))) } }
  else s
/-- BAR0_WRITE: a write of 4 or 8 bytes at a multiple of its size; of 8 bytes the upper word goes first, so that CMD comes after TAG
(R438, R441; log 122). -/
def evBar0Write (off : Nat) (v : HostWord) (s : State) : Option State :=
  match v with
  | .four v => if off % 4 = 0 then some (s.bar0Word off v) else none
  | .eight v => if off % 8 = 0 then some ((s.bar0Word (off + 4) (v.extractLsb' 32 32)).bar0Word off (v.extractLsb' 0 32)) else none
/-- BAR0_WRITE. -/
def execBar0Write (off : Nat) (v : HostWord) (s : State) := event s (evBar0Write off v s)

/-! ## Mailbox requests (R441, R450) -/

/-- The hearth replies: DATA and RLEN where there is a reply, STATUS, and MSI-X vector d (R441). -/
def State.mboxReply (s : State) (die : Nat) (reply : Option (List Byte)) (status : Nat) : State :=
  let s := s.mapDie die (fun d =>
    let m := d.mbox
    let m := match reply with
      | some l => { m with data := putBytes m.data 0 l, rlen := l.length }
      | none => m
    { d with mbox := { m with status := status } })
  { s with host := { s.host with msix := die :: s.host.msix } }

/-- A hearth runs: in kindling mode die 0's from its ROM alone; else, once a start has set READY, those of the partitions' dies but while their
partition restarts, and die 0's, which takes the configuration (R441, R445, R446, R448, R449). -/
def State.hearthRuns (s : State) (die : Nat) : Bool :=
  if s.host.kindle then die == 0
  else s.host.up && ((s.ctx? (.hearth die)).isSome || (die == 0 && (s.dieParts.find 0).isNone))

/-- A request is waiting in a mailbox of a hearth that runs (R441). -/
def State.mboxBusy (s : State) (die : Nat) : Bool :=
  s.host.on && (s.die die).mbox.status = 1 && decide (die < 24) && s.hearthRuns die
/-- A request with a code is waiting in mailbox 0. -/
def State.mboxHas (s : State) (cmd : Nat) : Bool := s.mboxBusy 0 && (s.die 0).mbox.cmd = cmd

/-- The partition configuration as bytes: each partition's mask in four bytes. -/
def configBytes (l : List (BitVec 24)) : List Byte := l.flatMap (fun m => leBytes 4 m.toNat)

/-- The attestation report (R450): of the image that runs and the current configuration, whatever stands installed for the next start. -/
def State.report (s : State) (nonce : List Byte) : List Byte :=
  let b := leBytes 4 0x54415456 ++ leBytes 4 1 ++ nonce ++ fixLen 64 (Config.sha3 s.host.runs)
    ++ fixLen 64 (Config.sha3 (configBytes s.host.current ++ leBytes 8 (s.die 0).bootrec.toNat))
  b ++ fixLen 4627 (Config.sign (Config.sha3 b))

/-- MBOX_ATTESTATION (R450). -/
def evMboxAttestation (s : State) : Option State :=
  if s.mboxHas 0x41 then some (s.mboxReply 0 (some (s.report (bytesAt (s.die 0).mbox.data 0 64))) 2) else none
/-- MBOX_ATTESTATION. -/
def execMboxAttestation (s : State) := event s (evMboxAttestation s)

/-- Bytes of the largest image (R441). -/
def imageMax : Nat := 256 * 2 ^ 20

/-- MBOX_IMAGE_CHUNK (R441). -/
def evMboxImageChunk (s : State) : Option State :=
  let m := (s.die 0).mbox
  if !s.mboxHas 0x51 then none
  else if 8128 < m.len || imageMax < m.arg.toNat + m.len then some (s.mboxReply 0 none 3)
  else
    let l := bytesAt m.data 0 m.len
    some (State.mboxReply { s with host := { s.host with chunk := putAll s.host.chunk m.arg.toNat l } } 0 none 2)
/-- MBOX_IMAGE_CHUNK. -/
def execMboxImageChunk (s : State) := event s (evMboxImageChunk s)

/-- The image that the chunks make; a byte that no chunk brought is free. -/
def HostSide.assembled (h : HostSide) (n : Nat) : List Byte :=
  (List.range n).map (fun i => (h.chunk.find i).getD (Config.imageByte 0 i))

/-- MBOX_IMAGE_COMMIT (R441, R448): an image that verifies is installed, and in kindling mode FAILS is cleared and the module restarts
warm. -/
def evMboxImageCommit (s : State) : Option State :=
  let n := (s.die 0).mbox.arg.toNat
  let l := s.host.assembled n
  if !s.mboxHas 0x52 then none
  else if imageMax < n || !Config.verifies l then some (s.mboxReply 0 none 3)
  else
    let s := State.mboxReply { s with host := { s.host with image := l } } 0 none 2
    if s.host.kindle then some (State.restartAll { s with host := { s.host with fails := 0 } }) else some s
/-- MBOX_IMAGE_COMMIT. -/
def execMboxImageCommit (s : State) := event s (evMboxImageCommit s)

/-- The codes that the manual gives mailbox 0 (R441). -/
def romCode (die cmd : Nat) : Bool := die = 0 && (cmd = 0x41 || cmd = 0x51 || cmd = 0x52)

/-- MBOX_FIRMWARE_REQUEST (R441): refused in kindling mode; else the firmware replies or refuses, and a request of die 0 may name
the configuration of the next start (R445). -/
def evMboxFirmwareRequest (die : Nat) (reply : List Byte) (refuse : Bool) (s : State) : Option State :=
  let m := (s.die die).mbox
  if !s.mboxBusy die || romCode die m.cmd then none
  else if s.host.kindle || refuse then some (s.mboxReply die none 3)
  else
    let s := match (if die = 0 then Config.partConfig m.cmd m.arg (bytesAt m.data 0 m.len) else none) with
      | some c => if validConfig c then { s with host := { s.host with config := c } } else s
      | none => s
    some (s.mboxReply die (some (reply.take 8128)) 2)
/-- MBOX_FIRMWARE_REQUEST. -/
def execMboxFirmwareRequest (die : Nat) (reply : List Byte) (refuse : Bool) (s : State) :=
  event s (evMboxFirmwareRequest die reply refuse s)

/-! ## Larlan ports (R442 to R444, R317) -/

/-- Train with a fresh secret: two keys of 32 bytes from its digest, the lower half for the lower module's sending direction; this
module is the lower one; groups that were held are sent again under the new key (R443; log 10). -/
def Port.agree (x : Port) (p : Nat) : Port :=
  let k := fixLen 64 (Config.sha3 (leBytes 32 (Config.linkSecret p x.epoch)))
  x.again.foldl (fun (x : Port) g => x.sendGroup p g)
    { x with trained := true, epoch := x.epoch + 1, sendKey := k.take 32, recvKey := k.drop 32, count := 0, sent := 0, plain := [], again := [] }

/-- LARLAN_PORT_TRAIN (R442, R443). -/
def evLarlanPortTrain (p : Nat) (s : State) : Option State :=
  if s.portLive p && !(s.port p).trained then some { s with ports := s.ports.put p ((s.port p).agree p) } else none
/-- LARLAN_PORT_TRAIN. -/
def execLarlanPortTrain (p : Nat) (s : State) := event s (evLarlanPortTrain p s)

/-- A port that has lost lanes: its traffic is held until it trains anew, and the groups that the peer has not acknowledged are sent again
then; how many those are is free (R443; log 124). -/
def Port.lose (x : Port) (p tick : Nat) : Port :=
  { x with trained := false, again := x.plain.drop (Config.linkAcked tick p % (x.plain.length + 1)) }

/-- LARLAN_LANE_LOSS: a corrected error record, and the port trains anew (R443). -/
def evLarlanLaneLoss (p : Nat) (s : State) : Option State :=
  if s.portLive p && (s.port p).trained then
    some (State.postError { s with ports := s.ports.put p ((s.port p).lose p s.tick) } (portDie p)
      (errorRec (portDie p) (eccAddr 9 p 31 0) true Code.link))
  else none
/-- LARLAN_LANE_LOSS. -/
def execLarlanLaneLoss (p : Nat) (s : State) := event s (evLarlanLaneLoss p s)

/-- LARLAN_KEY_EXPIRY (R443). -/
def evLarlanKeyExpiry (p : Nat) (s : State) : Option State :=
  if s.portLive p && (s.port p).trained && decide (max (s.port p).count (s.port p).sent < 2 ^ 48) then
    some { s with ports := s.ports.put p ((s.port p).agree p) }
  else none
/-- LARLAN_KEY_EXPIRY. -/
def execLarlanKeyExpiry (p : Nat) (s : State) := event s (evLarlanKeyExpiry p s)

/-- LINK (R443, R444): the record, and the partition of the receiving die stops with nothing resolved and nothing written. -/
def evLink (p : Nat) (s : State) : Option State :=
  let d := portDie p
  match s.dieParts.find d with
  | none => none
  | some q =>
    if s.portLive p && (s.port p).trained && (s.part q).ready then
      let s := s.postError d (errorRec d (eccAddr 9 p 31 0) false Code.link)
      let live := (s.part q).live
      let s := s.discardPart q
      some (State.syncBoot { s with parts := s.parts.put q (Part.stopped live) })
    else none
/-- LINK. -/
def execLink (p : Nat) (s : State) := event s (evLink p s)

/-- The groups that an access brings to a port, and those that its answer takes. -/
def accessGroups : RemoteAccess → Nat × Nat
  | .load _ n => (1, groupsFor n)
  | .store _ l => (groupsFor l.length, 0)

/-- LARLAN_REMOTE_ACCESS (R13, R317, R442): a load answers with the home copy, a store performs at the home; the groups count on both
directions, and a port whose count would reach 2^48 trains again first (R443); what waits for a home comes later. -/
def evLarlanRemoteAccess (p : Nat) (acc : RemoteAccess) (s : State) : Option State :=
  let x := s.port p
  let (got, out) := accessGroups acc
  match s.dieParts.find (portDie p) with
  | none => none
  | some q =>
    if !(s.portLive p && x.trained && (s.part q).ready && decide (x.count + got < 2 ^ 48) && decide (x.sent + out < 2 ^ 48)) then none
    else
      let s := { s with ports := s.ports.put p { x with count := x.count + got } }
      let answer (s : State) (l : List Byte) : Option State := some { s with ports := s.ports.put p ((s.port p).send p l) }
      match acc with
      | .load va n =>
        match s.outsideRead q (va % 2 ^ 56) n with
        | .done (l, s) => answer s l
        | .wait => none
        | .refused => answer s (List.replicate n 0xFF)
      | .store va bytes =>
        match s.outsideWrite q (va % 2 ^ 56) bytes with
        | .done s => some s
        | .wait => none
        | .refused => some s
/-- LARLAN_REMOTE_ACCESS. -/
def execLarlanRemoteAccess (p : Nat) (acc : RemoteAccess) (s : State) := event s (evLarlanRemoteAccess p acc s)

end Sys2Proof.Machine
end

