-- ==== Sys2Proof/Machine/Dispatch.lean ====
section
/-! DEFINITION. One arm for each row of the opcode table: the meaning of an instruction, issued by the agent `s.cur` from
its fragment `s.frag`, or of an event. -/

namespace Sys2Proof.Machine

/-- The meaning of every row (R40, 95_what_each_step_holds.md). -/
def exec (i : Instr) (s : State) : Host.Outcome State Fault Refusal :=
  match i with
  | .pad4 => Sys2Proof.Machine.execPad4 s
  | .sMov h d a => Sys2Proof.Machine.execSMov h d a s
  | .sMovi h sub d imm => Sys2Proof.Machine.execSMovi h sub d imm s
  | .sAdd h d a src => Sys2Proof.Machine.execSAdd h d a src s
  | .sSub h d a src => Sys2Proof.Machine.execSSub h d a src s
  | .sMul h sub d a src => Sys2Proof.Machine.execSMul h sub d a src s
  | .sDiv h sub d a src => Sys2Proof.Machine.execSDiv h sub d a src s
  | .sAnd h d a src => Sys2Proof.Machine.execSAnd h d a src s
  | .sOr h d a src => Sys2Proof.Machine.execSOr h d a src s
  | .sXor h d a src => Sys2Proof.Machine.execSXor h d a src s
  | .sShl h d a src => Sys2Proof.Machine.execSShl h d a src s
  | .sShr h d a src => Sys2Proof.Machine.execSShr h d a src s
  | .sSra h d a src => Sys2Proof.Machine.execSSra h d a src s
  | .sMin h sub d a src => Sys2Proof.Machine.execSMin h sub d a src s
  | .sMax h sub d a src => Sys2Proof.Machine.execSMax h sub d a src s
  | .sCmp h cond d a src => Sys2Proof.Machine.execSCmp h cond d a src s
  | .sSel h d a b c => Sys2Proof.Machine.execSSel h d a b c s
  | .sClz h sub d a => Sys2Proof.Machine.execSClz h sub d a s
  | .sPopc h sub d a => Sys2Proof.Machine.execSPopc h sub d a s
  | .sBfx h sub d a src => Sys2Proof.Machine.execSBfx h sub d a src s
  | .sLea h d a b sh imm => Sys2Proof.Machine.execSLea h d a b sh imm s
  | .sRdsr h d a => Sys2Proof.Machine.execSRdsr h d a s
  | .sWrsr h d a => Sys2Proof.Machine.execSWrsr h d a s
  | .sMovc h sub d a => Sys2Proof.Machine.execSMovc h sub d a s
  | .sRdk h d a => Sys2Proof.Machine.execSRdk h d a s
  | .sWrk h d a => Sys2Proof.Machine.execSWrk h d a s
  | .bNop h => Sys2Proof.Machine.execBNop h s
  | .bJmp h sub a imm => Sys2Proof.Machine.execBJmp h sub a imm s
  | .bBr h sub a imm => Sys2Proof.Machine.execBBr h sub a imm s
  | .bBrk h sub a imm => Sys2Proof.Machine.execBBrk h sub a imm s
  | .bCall h sub d a imm => Sys2Proof.Machine.execBCall h sub d a imm s
  | .bRet h a => Sys2Proof.Machine.execBRet h a s
  | .bSplit h a x0 x1 => Sys2Proof.Machine.execBSplit h a x0 x1 s
  | .bJoin h => Sys2Proof.Machine.execBJoin h s
  | .bExit h => Sys2Proof.Machine.execBExit h s
  | .bMeld h a b base => Sys2Proof.Machine.execBMeld h a b base s
  | .bUnmeld h => Sys2Proof.Machine.execBUnmeld h s
  | .bMtab h sub a imm => Sys2Proof.Machine.execBMtab h sub a imm s
  | .bWcnt h ldc stc xc ec => Sys2Proof.Machine.execBWcnt h ldc stc xc ec s
  | .bTrap h code => Sys2Proof.Machine.execBTrap h code s
  | .bTret h => Sys2Proof.Machine.execBTret h s
  | .bDbg h code => Sys2Proof.Machine.execBDbg h code s
  | .vMov h t d a => Sys2Proof.Machine.execVMov h t d a s
  | .vMovs h t d a => Sys2Proof.Machine.execVMovs h t d a s
  | .vMovi h t d imm => Sys2Proof.Machine.execVMovi h t d imm s
  | .vAdd h t d a src => Sys2Proof.Machine.execVAdd h t d a src s
  | .vSub h t d a src => Sys2Proof.Machine.execVSub h t d a src s
  | .vMul h sub t d a src => Sys2Proof.Machine.execVMul h sub t d a src s
  | .vMad h t d a b c => Sys2Proof.Machine.execVMad h t d a b c s
  | .vAnd h t d a src => Sys2Proof.Machine.execVAnd h t d a src s
  | .vOr h t d a src => Sys2Proof.Machine.execVOr h t d a src s
  | .vXor h t d a src => Sys2Proof.Machine.execVXor h t d a src s
  | .vShl h t d a src => Sys2Proof.Machine.execVShl h t d a src s
  | .vShr h t d a src => Sys2Proof.Machine.execVShr h t d a src s
  | .vSra h t d a src => Sys2Proof.Machine.execVSra h t d a src s
  | .vMin h t d a src => Sys2Proof.Machine.execVMin h t d a src s
  | .vMax h t d a src => Sys2Proof.Machine.execVMax h t d a src s
  | .vAbs h t d a => Sys2Proof.Machine.execVAbs h t d a s
  | .vCmp h sub t d a b cond => Sys2Proof.Machine.execVCmp h sub t d a b cond s
  | .vSel h t d a b c => Sys2Proof.Machine.execVSel h t d a b c s
  | .vClz h t d a => Sys2Proof.Machine.execVClz h t d a s
  | .vPopc h t d a => Sys2Proof.Machine.execVPopc h t d a s
  | .vBfx h sub t d a src => Sys2Proof.Machine.execVBfx h sub t d a src s
  | .vDot4 h sub t d a b c => Sys2Proof.Machine.execVDot4 h sub t d a b c s
  | .vLid h sub d => Sys2Proof.Machine.execVLid h sub d s
  | .vRand h d => Sys2Proof.Machine.execVRand h d s
  | .vRdflag h d => Sys2Proof.Machine.execVRdflag h d s
  | .vClrflag h src => Sys2Proof.Machine.execVClrflag h src s
  | .fAdd h t d a b => Sys2Proof.Machine.execFAdd h t d a b s
  | .fSub h t d a b => Sys2Proof.Machine.execFSub h t d a b s
  | .fMul h t d a b => Sys2Proof.Machine.execFMul h t d a b s
  | .fFma h t d a b c => Sys2Proof.Machine.execFFma h t d a b c s
  | .fMin h sub t d a b => Sys2Proof.Machine.execFMin h sub t d a b s
  | .fMax h sub t d a b => Sys2Proof.Machine.execFMax h sub t d a b s
  | .fCmp h sub t d a b cond => Sys2Proof.Machine.execFCmp h sub t d a b cond s
  | .fCls h t d a => Sys2Proof.Machine.execFCls h t d a s
  | .fRcp h t d a => Sys2Proof.Machine.execFRcp h t d a s
  | .fRsq h t d a => Sys2Proof.Machine.execFRsq h t d a s
  | .fSqrt h t d a => Sys2Proof.Machine.execFSqrt h t d a s
  | .fDiv h t d a b => Sys2Proof.Machine.execFDiv h t d a b s
  | .fExp2 h t d a => Sys2Proof.Machine.execFExp2 h t d a s
  | .fLog2 h t d a => Sys2Proof.Machine.execFLog2 h t d a s
  | .fSin h t d a => Sys2Proof.Machine.execFSin h t d a s
  | .fCos h t d a => Sys2Proof.Machine.execFCos h t d a s
  | .fCvt h t d a sty => Sys2Proof.Machine.execFCvt h t d a sty s
  | .fPack h t d a sty esc => Sys2Proof.Machine.execFPack h t d a sty esc s
  | .fUnpack h t d a sty esc => Sys2Proof.Machine.execFUnpack h t d a sty esc s
  | .fAmax h t a src => Sys2Proof.Machine.execFAmax h t a src s
  | .xShfl h sub t d a src => Sys2Proof.Machine.execXShfl h sub t d a src s
  | .xBcast h t d a src => Sys2Proof.Machine.execXBcast h t d a src s
  | .xVote h sub d a => Sys2Proof.Machine.execXVote h sub d a s
  | .xRed h t d a opr => Sys2Proof.Machine.execXRed h t d a opr s
  | .xScan h sub t d a opr => Sys2Proof.Machine.execXScan h sub t d a opr s
  | .xPrmt h d a b c => Sys2Proof.Machine.execXPrmt h d a b c s
  | .xRdlane h t d a src => Sys2Proof.Machine.execXRdlane h t d a src s
  | .xWrlane h t d a src => Sys2Proof.Machine.execXWrlane h t d a src s
  | .xCnt h d a => Sys2Proof.Machine.execXCnt h d a s
  | .xFirst h d a => Sys2Proof.Machine.execXFirst h d a s
  | .lLd h vadr sx d a sz imm => Sys2Proof.Machine.execLLd h vadr sx d a sz imm s
  | .lSt h vadr a b sz imm => Sys2Proof.Machine.execLSt h vadr a b sz imm s
  | .lLdt h d a b imm => Sys2Proof.Machine.execLLdt h d a b imm s
  | .lStt h d a b imm => Sys2Proof.Machine.execLStt h d a b imm s
  | .lAtom h vadr t d a b opr imm => Sys2Proof.Machine.execLAtom h vadr t d a b opr imm s
  | .lCas h vadr t d a b c imm => Sys2Proof.Machine.execLCas h vadr t d a b c imm s
  | .lFill h vadr a b c imm => Sys2Proof.Machine.execLFill h vadr a b c imm s
  | .lSwz h vadr a tag imm => Sys2Proof.Machine.execLSwz h vadr a tag imm s
  | .gLd h d a x0 x1 => Sys2Proof.Machine.execGLd h d a x0 x1 s
  | .gSt h a b x0 x1 => Sys2Proof.Machine.execGSt h a b x0 x1 s
  | .gLdt h d a b x0 x1 => Sys2Proof.Machine.execGLdt h d a b x0 x1 s
  | .gStt h d a b x0 x1 => Sys2Proof.Machine.execGStt h d a b x0 x1 s
  | .gPf h a x0 x1 => Sys2Proof.Machine.execGPf h a x0 x1 s
  | .gLdnf h d a c x0 x1 => Sys2Proof.Machine.execGLdnf h d a c x0 x1 s
  | .aRmw h t d a b opr x0 x1 => Sys2Proof.Machine.execARmw h t d a b opr x0 x1 s
  | .aCas h d a b c x0 x1 => Sys2Proof.Machine.execACas h d a b c x0 x1 s
  | .aRed h t a b opr x0 x1 => Sys2Proof.Machine.execARed h t a b opr x0 x1 s
  | .aLdacq h d a x0 x1 => Sys2Proof.Machine.execALdacq h d a x0 x1 s
  | .aStrel h a b x0 x1 => Sys2Proof.Machine.execAStrel h a b x0 x1 s
  | .aFence h sub sc => Sys2Proof.Machine.execAFence h sub sc s
  | .aBarInit h a b imm => Sys2Proof.Machine.execABarInit h a b imm s
  | .aBarArrive h sub d a b imm => Sys2Proof.Machine.execABarArrive h sub d a b imm s
  | .aBarWait h a b imm => Sys2Proof.Machine.execABarWait h a b imm s
  | .aBarSync h d a imm => Sys2Proof.Machine.execABarSync h d a imm s
  | .aBarExpect h sub a b imm => Sys2Proof.Machine.execABarExpect h sub a b imm s
  | .aBarTest h d a b imm => Sys2Proof.Machine.execABarTest h d a b imm s
  | .aTktTake h d a x0 x1 => Sys2Proof.Machine.execATktTake h d a x0 x1 s
  | .aTktWait h a b x0 x1 => Sys2Proof.Machine.execATktWait h a b x0 x1 s
  | .aTktServe h a src x0 x1 => Sys2Proof.Machine.execATktServe h a src x0 x1 s
  | .aWatch h d a b x0 x1 => Sys2Proof.Machine.execAWatch h d a b x0 x1 s
  | .mMma h sub d a b c zero scl bsc asc x0 prio sc bar => Sys2Proof.Machine.execMMma h sub d a b c zero scl bsc asc x0 prio sc bar s
  | .mMmt h sub d a b c zero x0 prio sc bar => Sys2Proof.Machine.execMMmt h sub d a b c zero x0 prio sc bar s
  | .mEnq h sub d a => Sys2Proof.Machine.execMEnq h sub d a s
  | .mZero h d a => Sys2Proof.Machine.execMZero h d a s
  | .mLdacc h sub d a b c row col shp => Sys2Proof.Machine.execMLdacc h sub d a b c row col shp s
  | .mStacc h sub d a b c row col shp => Sys2Proof.Machine.execMStacc h sub d a b c row col shp s
  | .mCvst h sub t d a b c cv => Sys2Proof.Machine.execMCvst h sub t d a b c cv s
  | .mRstat h d a rows cols => Sys2Proof.Machine.execMRstat h d a rows cols s
  | .mAmax h sub d src => Sys2Proof.Machine.execMAmax h sub d src s
  | .mResv h d a => Sys2Proof.Machine.execMResv h d a s
  | .qSpawn h sub d a x0 => Sys2Proof.Machine.execQSpawn h sub d a x0 s
  | .qLaunch h sub d a x0 => Sys2Proof.Machine.execQLaunch h sub d a x0 s
  | .qFwait h sub d a sc => Sys2Proof.Machine.execQFwait h sub d a sc s
  | .qFtest h sub d a => Sys2Proof.Machine.execQFtest h sub d a s
  | .qFcancel h sub d a => Sys2Proof.Machine.execQFcancel h sub d a s
  | .qFmov h sub d a b imm => Sys2Proof.Machine.execQFmov h sub d a b imm s
  | .qClaim h d src => Sys2Proof.Machine.execQClaim h d src s
  | .qGive h src => Sys2Proof.Machine.execQGive h src s
  | .qLive h imm => Sys2Proof.Machine.execQLive h imm s
  | .qYield h => Sys2Proof.Machine.execQYield h s
  | .qSleep h src => Sys2Proof.Machine.execQSleep h src s
  | .eCopy h d a b c x0 x => Sys2Proof.Machine.execECopy h d a b c x0 x s
  | .eCopy2 h d a b c x0 x => Sys2Proof.Machine.execECopy2 h d a b c x0 x s
  | .eGath h d a b c x0 x => Sys2Proof.Machine.execEGath h d a b c x0 x s
  | .eScat h d a b c x0 x => Sys2Proof.Machine.execEScat h d a b c x0 x s
  | .eFill h d a b c x0 x => Sys2Proof.Machine.execEFill h d a b c x0 x s
  | .eBcast h d a b c x0 x => Sys2Proof.Machine.execEBcast h d a b c x0 x s
  | .eRkinit h sub d a rick prio fst => Sys2Proof.Machine.execERkinit h sub d a rick prio fst s
  | .eRkstep h sub d b rick prio imm => Sys2Proof.Machine.execERkstep h sub d b rick prio imm s
  | .eRkread h sub d a rick prio mask => Sys2Proof.Machine.execERkread h sub d a rick prio mask s
  | .eRkld h d a rick prio rung => Sys2Proof.Machine.execERkld h d a rick prio rung s
  | .eRkst h d a rick prio rung => Sys2Proof.Machine.execERkst h d a rick prio rung s
  | .eRksave h sub d a rick prio rx => Sys2Proof.Machine.execERksave h sub d a rick prio rx s
  | .eRkrest h sub d a rick prio rx => Sys2Proof.Machine.execERkrest h sub d a rick prio rx s
  | .eRkstat h d rick prio => Sys2Proof.Machine.execERkstat h d rick prio s
  | .kvBind h d a b x0 => Sys2Proof.Machine.execKvBind h d a b x0 s
  | .kvUnbind h d => Sys2Proof.Machine.execKvUnbind h d s
  | .kvPop h d a => Sys2Proof.Machine.execKvPop h d a s
  | .kvAck h a => Sys2Proof.Machine.execKvAck h a s
  | .kvAckFut h a b => Sys2Proof.Machine.execKvAckFut h a b s
  | .kvCur h d a => Sys2Proof.Machine.execKvCur h d a s
  | .kvApp h d a b sc => Sys2Proof.Machine.execKvApp h d a b sc s
  | .kvFind h d a b => Sys2Proof.Machine.execKvFind h d a b s
  | .kvIns h d a b c => Sys2Proof.Machine.execKvIns h d a b c s
  | .kvRel h d a b => Sys2Proof.Machine.execKvRel h d a b s
  | .kvTrunc h d a b sc => Sys2Proof.Machine.execKvTrunc h d a b sc s
  | .kvRope h d a b c p => Sys2Proof.Machine.execKvRope h d a b c p s
  | .kvRpset h a imm => Sys2Proof.Machine.execKvRpset h a imm s
  | .kvPush h a b => Sys2Proof.Machine.execKvPush h a b s
  | .kvPushEnd h a => Sys2Proof.Machine.execKvPushEnd h a s
  | .kvPushStop h => Sys2Proof.Machine.execKvPushStop h s
  | .cAnew h d a quota zf swm typ => Sys2Proof.Machine.execCAnew h d a quota zf swm typ s
  | .cSeal h d a => Sys2Proof.Machine.execCSeal h d a s
  | .cDrop h d a => Sys2Proof.Machine.execCDrop h d a s
  | .cAq h sub d a => Sys2Proof.Machine.execCAq h sub d a s
  | .cWbr h d a b => Sys2Proof.Machine.execCWbr h d a b s
  | .cInvr h d a b => Sys2Proof.Machine.execCInvr h d a b s
  | .cCtnew h d a id => Sys2Proof.Machine.execCCtnew h d a id s
  | .cCtenr h sub d a b node => Sys2Proof.Machine.execCCtenr h sub d a b node s
  | .cCtenrWithdraw h d a b => Sys2Proof.Machine.execCCtenrWithdraw h d a b s
  | .cCtpar h d a b => Sys2Proof.Machine.execCCtpar h d a b s
  | .cCtrd h d a => Sys2Proof.Machine.execCCtrd h d a s
  | .cSettle h d a => Sys2Proof.Machine.execCSettle h d a s
  | .cCtdel h d a => Sys2Proof.Machine.execCCtdel h d a s
  | .yRdpr h d a => Sys2Proof.Machine.execYRdpr h d a s
  | .yWrpr h d a => Sys2Proof.Machine.execYWrpr h d a s
  | .yMap h d a b size w als => Sys2Proof.Machine.execYMap h d a b size w als s
  | .yMapFilter h d a b x0 idx => Sys2Proof.Machine.execYMapFilter h d a b x0 idx s
  | .yUnmap h d a size => Sys2Proof.Machine.execYUnmap h d a size s
  | .yUnmapFilter h d idx => Sys2Proof.Machine.execYUnmapFilter h d idx s
  | .yXinvInval h d a b => Sys2Proof.Machine.execYXinvInval h d a b s
  | .yXinvReplay h d a b => Sys2Proof.Machine.execYXinvReplay h d a b s
  | .yXinvFail h d a b prot => Sys2Proof.Machine.execYXinvFail h d a b prot s
  | .yRegn h d a b => Sys2Proof.Machine.execYRegn h d a b s
  | .yWinRead h d imm => Sys2Proof.Machine.execYWinRead h d imm s
  | .yWinWrite h b imm => Sys2Proof.Machine.execYWinWrite h b imm s
  | .yWinStop h => Sys2Proof.Machine.execYWinStop h s
  | .yCtxs h sub d a imm => Sys2Proof.Machine.execYCtxs h sub d a imm s
  | .yCtxl h sub d a imm => Sys2Proof.Machine.execYCtxl h sub d a imm s
  | .yEretResume h => Sys2Proof.Machine.execYEretResume h s
  | .yEretStep h => Sys2Proof.Machine.execYEretStep h s
  | .yEretKillThreads h b => Sys2Proof.Machine.execYEretKillThreads h b s
  | .yEretKillTeam h => Sys2Proof.Machine.execYEretKillTeam h s
  | .yIdle h d b => Sys2Proof.Machine.execYIdle h d b s
  | .resultReturn a id => Sys2Proof.Machine.execResultReturn a id s
  | .faultRecordPost a => Sys2Proof.Machine.execFaultRecordPost a s
  | .breakpointHit a no => Sys2Proof.Machine.execBreakpointHit a no s
  | .waveRetire a => Sys2Proof.Machine.execWaveRetire a s
  | .teamRelease team => Sys2Proof.Machine.execTeamRelease team s
  | .groupComplete group => Sys2Proof.Machine.execGroupComplete group s
  | .gangPlacement die group cores => Sys2Proof.Machine.execGangPlacement die group cores s
  | .claimGrant team => Sys2Proof.Machine.execClaimGrant team s
  | .claimFail team => Sys2Proof.Machine.execClaimFail team s
  | .sleepExpiry a => Sys2Proof.Machine.execSleepExpiry a s
  | .arenaMasterRequest part id => Sys2Proof.Machine.execArenaMasterRequest part id s
  | .arenaBroadcastApply core => Sys2Proof.Machine.execArenaBroadcastApply core s
  | .drainWatermark part aid => Sys2Proof.Machine.execDrainWatermark part aid s
  | .sealComplete part aid => Sys2Proof.Machine.execSealComplete part aid s
  | .translationWalk req => Sys2Proof.Machine.execTranslationWalk req s
  | .homeSliceOperation req => Sys2Proof.Machine.execHomeSliceOperation req s
  | .l1Fill req => Sys2Proof.Machine.execL1Fill req s
  | .rollUpDeltaApply part slice => Sys2Proof.Machine.execRollUpDeltaApply part slice s
  | .ticketWaiterRetry a => Sys2Proof.Machine.execTicketWaiterRetry a s
  | .amaxUpdateApply quad id => Sys2Proof.Machine.execAmaxUpdateApply quad id s
  | .barrierHalfComplete team off => Sys2Proof.Machine.execBarrierHalfComplete team off s
  | .copyBytesLand copy row col n => Sys2Proof.Machine.execCopyBytesLand copy row col n s
  | .copyComplete copy => Sys2Proof.Machine.execCopyComplete copy s
  | .scoreboardEntryFree core id => Sys2Proof.Machine.execScoreboardEntryFree core id s
  | .tilePassGrant quad task => Sys2Proof.Machine.execTilePassGrant quad task s
  | .tilePassComplete quad task => Sys2Proof.Machine.execTilePassComplete quad task s
  | .tileTaskComplete quad task => Sys2Proof.Machine.execTileTaskComplete quad task s
  | .rickOperationComplete quad task => Sys2Proof.Machine.execRickOperationComplete quad task s
  | .changeTreeAgentRequest part id => Sys2Proof.Machine.execChangeTreeAgentRequest part id s
  | .enrollmentApplied part die => Sys2Proof.Machine.execEnrollmentApplied part die s
  | .remapFilterApply core => Sys2Proof.Machine.execRemapFilterApply core s
  | .translationCacheInvalidation part id => Sys2Proof.Machine.execTranslationCacheInvalidation part id s
  | .eccCorrected die site => Sys2Proof.Machine.execEccCorrected die site s
  | .bankMarkFailed die site => Sys2Proof.Machine.execBankMarkFailed die site s
  | .eccUncorrectable die site target => Sys2Proof.Machine.execEccUncorrectable die site target s
  | .hostBar2Read off n => Sys2Proof.Machine.execHostBar2Read off n s
  | .hostBar2Write off bytes => Sys2Proof.Machine.execHostBar2Write off bytes s
  | .bar0Write off v => Sys2Proof.Machine.execBar0Write off v s
  | .restartModule warm => Sys2Proof.Machine.execRestartModule warm s
  | .restartPartition found => Sys2Proof.Machine.execRestartPartition found s
  | .mboxAttestation => Sys2Proof.Machine.execMboxAttestation s
  | .mboxImageChunk => Sys2Proof.Machine.execMboxImageChunk s
  | .mboxImageCommit => Sys2Proof.Machine.execMboxImageCommit s
  | .mboxFirmwareRequest die reply refuse => Sys2Proof.Machine.execMboxFirmwareRequest die reply refuse s
  | .larlanPortTrain port => Sys2Proof.Machine.execLarlanPortTrain port s
  | .larlanLaneLoss port => Sys2Proof.Machine.execLarlanLaneLoss port s
  | .larlanKeyExpiry port => Sys2Proof.Machine.execLarlanKeyExpiry port s
  | .link port => Sys2Proof.Machine.execLink port s
  | .larlanRemoteAccess port acc => Sys2Proof.Machine.execLarlanRemoteAccess port acc s
  | .moduleStart tests => Sys2Proof.Machine.execModuleStart tests s
  | .watchdogExpiry => Sys2Proof.Machine.execWatchdogExpiry s
  | .bringupOvertemp die => Sys2Proof.Machine.execBringupOvertemp die s
  | .thermalThrottle die => Sys2Proof.Machine.execThermalThrottle die s
  | .thermalPowerOff die => Sys2Proof.Machine.execThermalPowerOff die s
  | .powerLoss => Sys2Proof.Machine.execPowerLoss s
  | .l1Eviction core line => Sys2Proof.Machine.execL1Eviction core line s
  | .sliceEviction die line => Sys2Proof.Machine.execSliceEviction die line s
  | .recordBlocking die group => Sys2Proof.Machine.execRecordBlocking die group s
  | .waveSwitchOut a group spares => Sys2Proof.Machine.execWaveSwitchOut a group spares s
  | .prFaultqWrite die v => Sys2Proof.Machine.execPrFaultqWrite die v s
  | .prFqconsWrite die v => Sys2Proof.Machine.execPrFqconsWrite die v s
  | .idleTimeLimit die => Sys2Proof.Machine.execIdleTimeLimit die s
  | .zeroFillPageDone part page => Sys2Proof.Machine.execZeroFillPageDone part page s
  | .ashSweepPass part => Sys2Proof.Machine.execAshSweepPass part s
  | .waveSwitchResume a => Sys2Proof.Machine.execWaveSwitchResume a s
  | .regionDrainSignal part idx => Sys2Proof.Machine.execRegionDrainSignal part idx s

end Sys2Proof.Machine
end

