-- ==== Sys2Proof/Machine/Run.lean ====
section
/-! DEFINITION. What moves next: the fetch and the decoding of an instruction (R23 to R26, R41, R389), what an agent meets before it
issues (R97, R333, R343, R399), which wave and which fragment issue (R336, R376, R377), the waits that end by themselves (R203, R289,
R349, R405, R417), and the model's own order of moves. -/

namespace Sys2Proof.Machine

/-- The next move: an instruction or an event to run, or a move that is over. -/
inductive Pick where
  | run (i : Instr) (s : State)
  | done (s : State)
  deriving DecidableEq, Repr

/-- The fault of a word that decodes to no instruction (R41). -/
def decErrCode (e : DecErr) (priv : Bool) : Nat :=
  match e with
  | .crosses => Code.align
  | .badField true => if priv then Code.iil else Code.priv
  | _ => Code.iil

/-- A precise stop of a fragment before it issues. -/
def State.stopFrag (s : State) (a : Agent) (fr : SplitRec) (code addr : Nat) : State :=
  s.stopWave a { code := code, prec := true, addr := addr, mask := fr.mask, pc := fr.pc, meld := fr.meld, posted := false,
                 silent := false }

/-- The breakpoint register that a PC meets (R399). -/
def State.meets (s : State) (die : Nat) (pc : W64) : Option Nat := (List.range 8).find? (fun i => s.bkptAddr die i = some pc)
/-- The breakpoint that a fragment's next issue meets: none at its first issue after a y.eret (R399). -/
def State.meetsAt (s : State) (a : Agent) (c : Ctx) (frag : Nat) (fr : SplitRec) : Option Nat :=
  if c.skipBkpt.contains frag then none else s.meets (dieOf a) fr.pc

/-! ## Before an issue -/

/-- A failed load or store that stops the agent at a park point, or when all its threads have ended (R97). -/
def State.parkPoint (s : State) (a : Agent) (c : Ctx) : Option State :=
  if c.gone || !(c.pk || c.park ≠ .none || c.exited = BitVec.allOnes 64) then none
  else
    match c.pend.find? (fun p => p.fail.isSome) with
    | some p => some (s.stopFailed a p.id)
    | none =>
      match c.sfail with
      | [] => none
      | (pc, f) :: l => some ((s.setCtx a { c with sfail := l }).stopFor a pc f)

/-! ## Who issues (R336, R376, R377) -/

/-- Everything that waits can still have its turn within 32: of those that have waited 32 − j times, at most j (R336, R377). -/
def inTime (counts : List Nat) : Bool := (List.range 32).all (fun j => (counts.filter (32 - j ≤ ·)).length ≤ j)

/-- The READY fragments of a wave with how often it has issued since each did. -/
def Ctx.waiting (c : Ctx) : List (Nat × Nat) := (c.split.filter (fun e => e.2.st = .ready)).map (fun e => (e.1, c.waits.get 0 e.1))
/-- The entry of a list that has waited longest, the first on a tie. -/
def longest (l : List (Nat × Nat)) : Option Nat :=
  (l.foldl (fun (best : Option (Nat × Nat)) e => match best with
    | some b => if b.2 < e.2 then some e else some b
    | none => some e) none).map (·.1)
/-- The fragment from which a wave issues where one is named: that one, unless another could then not issue within 32 issues of the wave
(R336). -/
def Ctx.fairFrag (c : Ctx) (frag : Nat) : Nat :=
  if c.utact || c.single || inTime ((c.waiting.filter (fun e => e.1 ≠ frag)).map (fun e => e.2 + 1)) then frag
  else (longest c.waiting).getD frag

/-- The slot of a core that an instruction takes: scalar, vector or memory (R376). -/
def slotOf (i : Instr) : Nat :=
  match i.fields with
  | some f => if f.cls.toNat = 2 || f.cls.toNat = 3 || f.cls.toNat = 4 then 1 else if 5 ≤ f.cls.toNat && f.cls.toNat ≤ 7 then 2 else 0
  | none => 0

/-- An instruction waits at issue: it changes nothing. -/
def waits (i : Instr) (s : State) : Bool :=
  match exec i s with
  | .next t => decide (t = s)
  | _ => false

/-- A fragment waits behind a b.mtab of its wave at another PC, whose table waits for a translation (R348). -/
def State.behindTab (s : State) (a : Agent) (fr : SplitRec) : Bool :=
  s.reqs.any (fun r => r.agent = a && r.op = .fetch && r.lane = 2 && r.pc ≠ fr.pc)
/-- The fragment from which a wave issues where one is named (R336): of a wave whose table waits, that one. -/
def State.fragOf (s : State) (a : Agent) (c : Ctx) (frag : Nat) : Nat :=
  if s.reqs.any (fun r => r.agent = a && r.op = .fetch && r.lane = 2) then frag else c.fairFrag frag

/-- An agent has fetched the instruction at a fragment's PC from its home (R442). -/
def State.fetched (s : State) (a : Agent) (frag : Nat) : State :=
  match (s.ctx? a).bind (·.rec? frag) with
  | some fr => (s.fetchLink a fr.pc).getD s
  | none => s

/-- The instruction that a wave would issue next, with its fragment, where it may issue: it meets no breakpoint and does not wait at
issue (R377). -/
def State.nextUp (s : State) (a : Agent) (c : Ctx) : Option (Nat × Instr) := do
  guard (c.stop.isNone && c.out.isNone && s.bound a c && !c.broken && (s.parkPoint a c).isNone)
  let first ← (c.split.find? (fun e => c.canIssue e.1 && !s.behindTab a e.2)).map (·.1)
  let frag := s.fragOf a c first
  let fr ← c.rec? frag
  guard (s.fetchLink a fr.pc).isSome
  match s.decodeAt a fr with
  | .ok (.ok i) =>
    let t : State := { s with cur := a, frag := frag }
    if i = .pad4 || (s.meetsAt a c frag fr).isSome || waits i t then none else some (frag, i)
  | _ => none

/-- The other waves and stokers of an agent's core, which share its slots (R376, R413). -/
def State.rivals (s : State) (a : Agent) : List (Agent × Ctx) :=
  (s.ctxs.map (fun e => (agentOfKey e.1, e.2))).filter (fun e => match a, e.1 with
    | .slot k n, .slot k' n' => k' = k && n' ≠ n && decide (n < 24) && decide (n' < 24) && decide (k < 1536)
    | _, _ => false)

/-- A wave that may issue to a slot: who, from which fragment, what, its priority, its age, its index, and how often it was passed over. -/
structure Cand where
  a : Agent
  frag : Nat
  i : Instr
  prio : Nat
  age : Nat
  widx : Nat
  passed : Nat
  deriving DecidableEq, Repr

/-- A wave or a stoker as a candidate (R377, R413): its team's priority and place in time, or its own once q.yield has made it the youngest. -/
def State.cand (s : State) (a : Agent) (c : Ctx) (frag : Nat) (i : Instr) : Cand :=
  let t := s.teamOf c
  { a := a, frag := frag, i := i, prio := t.elim 0 (·.prio), age := if c.turnAge = 0 then t.elim 0 (·.placed) else c.turnAge,
    widx := c.widx, passed := c.passed }

/-- The first of two candidates goes before the second: higher priority, then older, then the lower wave id (R377). -/
def Cand.before (x y : Cand) : Bool :=
  y.prio < x.prio || (x.prio == y.prio && (x.age < y.age || (x.age == y.age && x.widx < y.widx)))

/-- Who issues of the candidates of a slot: the one before all others, unless another could then not issue within 32 issues of the slot
(R377). -/
def choose (x : Cand) (l : List Cand) : Cand :=
  let top := l.foldl (fun b y => if y.before b then y else b) x
  if inTime (((x :: l).filter (fun y => y.a ≠ top.a)).map (fun y => y.passed + 1)) then top
  else l.foldl (fun b y => if b.passed < y.passed then y else b) x

/-- The candidates that do not issue are passed over once more. -/
def State.pass1 (s : State) (w : Cand) (l : List Cand) : State :=
  l.foldl (fun s y => if y.a = w.a then s else s.mapCtx y.a (fun c => { c with passed := c.passed + 1 })) s

/-- An agent whose instruction is decoded issues, or the wave of its core that goes before it in the slot (R377); the one that issues has fetched
its instruction. -/
def State.arbitrate (s : State) (a : Agent) (c : Ctx) (frag : Nat) (i : Instr) : Pick :=
  match (s.rivals a).filterMap (fun e => match s.nextUp e.1 e.2 with
      | some (f, j) => if slotOf j = slotOf i then some (s.cand e.1 e.2 f j) else none
      | none => none) with
  | [] => .run i (s.fetched a frag)
  | l =>
    if waits i s then .run i (s.fetched a frag)
    else
      let x := s.cand a c frag i
      let w := choose x l
      .run w.i ({ s.pass1 w (x :: l) with cur := w.a, frag := w.frag }.fetched w.a w.frag)

/-- An agent issues from a fragment, where it may: PAD4 is stepped over, and a breakpoint met stops it before anything else that the bytes
say (R25, R41, R343, R399). DESIGN CHOICE (log 125): ADDR of the ALIGN record of an instruction that crosses a 32-byte boundary is 0; R24
names its PC alone. -/
def State.tryIssue (s : State) (a : Agent) (c : Ctx) (frag0 : Nat) : Pick :=
  let frag := if c.canIssue frag0 then s.fragOf a c frag0 else frag0
  let s : State := { s with frag := frag }
  match c.rec? frag with
  | none => .done s
  | some fr =>
    if !c.canIssue frag || s.behindTab a fr then .done s
    else if c.broken then .done ((s.setCtx a { c with broken := false, frag := frag }).stopWave a (brokenStop fr ((s.joined c).2.getD 0)))
    else
      match s.decodeAt a fr with
      | .error (.fault code x) => .done (s.stopFrag a fr code x)
      | .error (.hold va code) => .done (s.holdFetch { a := a, team := c.team, pc := fr.pc, lanes := fr.mask, meld := fr.meld } va code 0)
      | .ok r =>
        if (s.fetchLink a fr.pc).isNone then .done s else if r = .ok .pad4 then .run .pad4 (s.fetched a frag) else
        match s.meetsAt a c frag fr, r with
        | some i, _ => .run (.breakpointHit a i) s
        | none, .ok i => s.arbitrate a c frag i
        | none, .error e => .done (s.stopFrag a fr (decErrCode e c.priv) 0)

/-! ## Waits that end by themselves -/

/-- The acquire that ends a wait may perform: one at mod or wider finds the core's broadcasts applied (R322). -/
def State.acqReady (s : State) (a : Agent) (acq : Option (BitVec 3)) : Bool :=
  match acq with
  | some sc => decide (s.scope a sc < 3) || !(s.part (s.agentPart a)).bcasts.any (fun b => b.waiting.contains (coreOf a))
  | none => true

/-- The end of an agent's wait, where its condition holds (R170, R202, R203, R242, R289, R313, R405, R417). -/
def State.unpark (s : State) (a : Agent) (c : Ctx) : Option State :=
  let go (s : State) : State := s.mapCtx a (fun c => Ctx.stepDone { c with park := .none } c.frag)
  match c.park with
  | .wcnt l st x e => if c.ldc ≤ l && c.stc ≤ st && c.xc ≤ x && c.ec ≤ e then some (go s) else none
  | .fence deps acq =>
    if s.pendingDeps deps || !s.acqReady a acq then none
    else some (go (match acq with | some sc => s.acquire a (s.scope a sc) | none => s))
  | .again deps acq =>
    if s.pendingDeps deps || !s.acqReady a acq then none
    else
      let s := match acq with | some sc => s.acquire a (s.scope a sc) | none => s
      some (s.mapCtx a (fun c => { c with park := .none }))
  | .post => if s.mayPost (quadOf a) c.team then some (s.mapCtx a (fun c => { c with park := .none })) else none
  | .board rs => if s.boardRoom (coreOf a) rs then some (s.mapCtx a (fun c => { c with park := .none })) else none
  | .pop .. => s.servePop a
  | .idle .. => s.idleWake a
  | _ => none

/-- An agent that exists: a place of a core of the module, or a hearth. -/
def realAgent : Agent → Bool
  | .slot c n => decide (c < 1536) && decide (n < 24)
  | .hearth d => decide (d < 24)

/-- The move of an agent from one of its fragments: it stops for a failed access, its wait ends, or it issues; one that has ended does nothing
(R415). -/
def State.turnIssue (s : State) (a : Agent) (frag : Nat) : Pick :=
  let s := { s with cur := a, frag := frag }
  match s.ctx? a with
  | none => .done s
  | some c =>
    if !realAgent a || c.stop.isSome || c.out.isSome || !s.bound a c then .done s
    else match s.parkPoint a c with
      | some s' => .done s'
      | none => if c.park = .none then s.tryIssue a c frag else .done ((s.unpark a c).getD s)

/-! ## The order of moves -/

/-- An event that comes by itself: not an instruction of an agent, and not a part of another step. -/
def spontaneous (i : Instr) : Bool :=
  i ≠ .pad4 && i.fields.isNone && (match i with
    | .prFaultqWrite .. | .prFqconsWrite .. | .breakpointHit .. => false
    | _ => true)

/-- The first of a list that may happen. -/
def firstOf {α : Type} (l : List α) (f : α → Instr) (ok : α → Bool) : Option Instr := (l.find? ok).map f

/-- A request that may move on: by its home, a walk or a fill. -/
def State.autoReq (s : State) : Option Instr :=
  firstOf s.reqs (fun r => .homeSliceOperation r.id) (fun r => s.absent r.id || (evHomeSliceOperation r.id s).isSome)
    <|> firstOf s.reqs (fun r => .translationWalk r.id) (fun r => (evTranslationWalk r.id s).isSome)
    <|> firstOf s.reqs (fun r => .l1Fill r.id) (fun r => (evL1Fill r.id s).isSome)

/-- A result that may return, a record that may be posted, a wave that may retire or go on. -/
def State.autoCtx (s : State) : Option Instr :=
  let agents := (s.ctxs.map (fun e => agentOfKey e.1)).filter realAgent
  let pends := s.ctxs.flatMap (fun e => e.2.pend.map (fun p => (agentOfKey e.1, p.id)))
  firstOf pends (fun e => .resultReturn e.1 e.2) (fun e => (evResultReturn e.1 e.2 s).isSome)
    <|> firstOf agents (fun a => .faultRecordPost a) (fun a => (evFaultRecordPost a s).isSome)
    <|> firstOf agents (fun a => .waveRetire a) (fun a => (evWaveRetire a s).isSome)
    <|> firstOf agents (fun a => .sleepExpiry a) (fun a => (evSleepExpiry a s).isSome)
    <|> firstOf (s.waiters.map (·.agent)) (fun a => .ticketWaiterRetry a) (fun a => (evTicketWaiterRetry a s).isSome)

/-- Engine work that may move on. -/
def State.autoQuad (s : State) : Option Instr :=
  let tasks := s.quads.flatMap (fun e => e.2.tasks.map (fun t => (e.1, t.id)))
  let lands := s.quads.flatMap (fun e => e.2.copies.flatMap (fun c => c.left.map (fun p => (c.id, p.1, p.2.1, s.landSize c p))))
  let copies := s.quads.flatMap (fun e => e.2.copies.map (·.id))
  let boards := s.cores.flatMap (fun e => e.2.board.map (fun b => (e.1, b.id)))
  let amaxs := s.quads.flatMap (fun e => e.2.amaxQ.map (fun u => (e.1, u.1)))
  firstOf tasks (fun e => .tileTaskComplete e.1 e.2) (fun e => (evTileTaskComplete e.1 e.2 s).isSome)
    <|> firstOf tasks (fun e => .tilePassComplete e.1 e.2) (fun e => (evTilePassComplete e.1 e.2 s).isSome)
    <|> firstOf tasks (fun e => .rickOperationComplete e.1 e.2) (fun e => (evRickOperationComplete e.1 e.2 s).isSome)
    <|> firstOf tasks (fun e => .tilePassGrant e.1 e.2) (fun e => (evTilePassGrant e.1 e.2 s).isSome)
    <|> firstOf lands (fun e => .copyBytesLand e.1 e.2.1 e.2.2.1 e.2.2.2)
          (fun e => (evCopyBytesLand e.1 e.2.1 e.2.2.1 e.2.2.2 s).isSome)
    <|> firstOf copies (fun c => .copyComplete c) (fun c => (evCopyComplete c s).isSome)
    <|> firstOf boards (fun e => .scoreboardEntryFree e.1 e.2) (fun e => (evScoreboardEntryFree e.1 e.2 s).isSome)
    <|> firstOf amaxs (fun e => .amaxUpdateApply e.1 e.2) (fun e => (evAmaxUpdateApply e.1 e.2 s).isSome)

/-- Agents of a partition that may move on: the arena master, the change-tree agent, the filters, the regions. -/
def State.autoPart (s : State) : Option Instr :=
  let each (f : Nat × Part → List (Nat × Nat)) : List (Nat × Nat) := s.parts.flatMap f
  let tag (p : Nat) (l : List Nat) : List (Nat × Nat) := l.map (fun x => (p, x))
  firstOf (each (fun e => tag e.1 (e.2.masterQ.map (·.id)))) (fun e => .arenaMasterRequest e.1 e.2)
      (fun e => (evArenaMasterRequest e.1 e.2 s).isSome)
    <|> firstOf (s.parts.flatMap (fun e => e.2.bcasts.flatMap (·.waiting))) (fun c => .arenaBroadcastApply c)
      (fun c => (evArenaBroadcastApply c s).isSome)
    <|> firstOf (each (fun e => tag e.1 (e.2.drains.map (·.aid)))) (fun e => .drainWatermark e.1 e.2)
      (fun e => (evDrainWatermark e.1 e.2 s).isSome)
    <|> firstOf (each (fun e => tag e.1 (e.2.drains.map (·.aid)))) (fun e => .sealComplete e.1 e.2)
      (fun e => (evSealComplete e.1 e.2 s).isSome)
    <|> firstOf (each (fun e => tag e.1 (e.2.treeQ.map (·.id)))) (fun e => .changeTreeAgentRequest e.1 e.2)
      (fun e => (evChangeTreeAgentRequest e.1 e.2 s).isSome)
    <|> firstOf (each (fun e => tag e.1 (e.2.rolls.map (·.1)))) (fun e => .rollUpDeltaApply e.1 e.2)
      (fun e => (evRollUpDeltaApply e.1 e.2 s).isSome)
    <|> firstOf (each (fun e => tag e.1 (e.2.enrolls.flatMap (·.waiting)))) (fun e => .enrollmentApplied e.1 e.2)
      (fun e => (evEnrollmentApplied e.1 e.2 s).isSome)
    <|> firstOf (s.parts.flatMap (fun e => e.2.filterQ.flatMap (·.waiting))) (fun c => .remapFilterApply c)
      (fun c => (evRemapFilterApply c s).isSome)
    <|> firstOf (each (fun e => tag e.1 (e.2.invalQ.map (·.id)))) (fun e => .translationCacheInvalidation e.1 e.2)
      (fun e => (evTranslationCacheInvalidation e.1 e.2 s).isSome)

/-- Teams and groups that may move on. -/
def State.autoTeam (s : State) : Option Instr :=
  let teams := s.teams.map (·.1)
  let groups := s.groups.map (·.1)
  let halves := s.teams.flatMap (fun e => e.2.half.map (fun h => (e.1, h / 64)))
  firstOf teams (fun t => .claimGrant t) (fun t => (evClaimGrant t s).isSome)
    <|> firstOf teams (fun t => .claimFail t) (fun t => (evClaimFail t s).isSome)
    <|> firstOf halves (fun e => .barrierHalfComplete e.1 e.2) (fun e => (evBarrierHalfComplete e.1 e.2 s).isSome)
    <|> firstOf teams (fun t => .teamRelease t) (fun t => (evTeamRelease t s).isSome)
    <|> firstOf groups (fun g => .groupComplete g) (fun g => (evGroupComplete g s).isSome)
    <|> (s.teams.find? (fun e => s.unprepared e.1 e.2 && (evGangPlacement (dieOfCore e.2.core) e.2.group [e.2.core] s).isSome)).map (fun e =>
      .gangPlacement (dieOfCore e.2.core) e.2.group [e.2.core])
    <|> s.groups.findSome? (fun e =>
      match s.findPlace e.2.die e.2.foot with
      | some l => if (evGangPlacement e.2.die e.1 l s).isSome then some (.gangPlacement e.2.die e.1 l) else none
      | none => none)

/-- The first event of the module's own that may happen. -/
def State.autoEvent (s : State) : Option Instr :=
  s.autoCtx <|> s.autoReq <|> s.autoQuad <|> s.autoPart <|> s.autoTeam

/-- The move of an agent from a fragment would change nothing: its fetch is held, or its instruction waits at issue. -/
def State.idles (s : State) (a : Agent) (frag : Nat) : Bool :=
  match s.turnIssue a frag with
  | .run i t => waits i t
  | .done t => decide ({ t with cur := s.cur, frag := s.frag } = s)

/-- An agent may move now: it stops, its wait ends, or it issues from its first READY fragment that does not wait. -/
def State.moves (s : State) (k : Nat) (c : Ctx) : Option (Agent × Nat) :=
  let a := agentOfKey k
  if !realAgent a || c.stop.isSome || c.out.isSome || !s.bound a c then none
  else if (s.parkPoint a c).isSome then some (a, c.frag)
  else if c.park ≠ .none then (if (s.unpark a c).isSome then some (a, c.frag) else none)
  else (c.split.find? (fun e => c.canIssue e.1 && !s.idles a e.1)).map (fun e => (a, e.1))

/-- Where no turn says who moves: the agent that moved last, else an event, else a save or restore, else the next agent that may move,
else time passes. -/
def State.defaultTurn (s : State) : Turn :=
  match (s.ctx? s.cur).bind (fun c => s.moves (ctxKey s.cur) c) with
  | some (a, f) => .issue a f
  | none =>
    match s.autoEvent, s.saves.find? (fun v => (s.goOn v.id).isSome) with
    | some e, _ => .event e
    | none, some v => .save v.id
    | none, none =>
      match s.ctxs.findSome? (fun e => s.moves e.1 e.2) with
      | some (a, f) => .issue a f
      | none => .time 24 1

/-- Time passes on one die, or on every die. -/
def State.pass (s : State) (die n : Nat) : State :=
  { s with dies := s.dies.map (fun (e : Nat × Die) => if die = e.1 || 24 ≤ die then (e.1, { e.2 with clk := e.2.clk + n }) else e) }

/-- One turn. -/
def State.takeTurn (s : State) : Turn → Pick
  | .issue a frag => s.turnIssue a frag
  | .event e => if spontaneous e then .run e s else .done s
  | .save id => .done ((s.goOn id).getD s)
  | .time die n => .done (s.pass die n)

/-- The next move of the machine, with the turn taken off and the count of steps advanced. -/
def State.pick (s : State) : Pick :=
  match s.turns with
  | [] => { s with tick := s.tick + 1 }.takeTurn s.defaultTurn
  | t :: l => { s with tick := s.tick + 1, turns := l }.takeTurn t

end Sys2Proof.Machine
end

