-- ==== Sys2Proof/Machine/Step.lean ====
section
/-! DEFINITION. One step of the machine: the next move, run. -/

namespace Sys2Proof.Machine

/-- One step: what moves next is picked, and the instruction or the event that it is runs. -/
def step (s : State) : Host.Outcome State Fault Refusal :=
  match s.pick with
  | .run i s' => exec i s'
  | .done s' => .next s'

/-- The state with an instruction stored where the fragment that issued last fetches its next one, and the turn given to that
fragment (log 31): what a host does that writes code through BAR2, in one move. The bytes go to the line at its home, as far as
the fetch reads (R24); the line's other bytes stay, and a poisoned line is sound again, as after a write of all of it (R119). -/
def State.withFetchWord (s : State) (nbits w : Nat) : State :=
  match (s.ctx? s.cur).bind (fun c => c.rec? s.frag) with
  | none => s
  | some fr =>
    let part := s.agentPart s.cur
    match s.route (coreOf s.cur) part (vaOf fr.pc) false false with
    | .error _ => s
    | .ok r =>
      let line := r.va / 128
      let n := min 16 (32 - r.va % 32)
      match s.lineAt part line r.attr.gen false with
      | .error _ => s
      | .ok (unit, pa, d, poisoned) =>
        let mask := maskOf (r.va % 128) n
        let new := placeBytes (r.va % 128) (leBytes n (w % 2 ^ nbits))
        { s.homeMerge unit part line r.attr.gen pa (if poisoned then BitVec.allOnes 128 else mask)
            (if poisoned then mergeLine d mask new else new) with turns := .issue s.cur s.frag :: s.turns }

end Sys2Proof.Machine
end

