-- ==== Sys2Proof/Safety.lean ====
section
/-! DEFINITION. The words in which claims speak: when an instruction issues, what moving on leaves, what stays as it is, and the
canonical forms that a safe state has. -/

namespace Sys2Proof.Machine

/-! ## Issue -/

/-- The current agent issues the instruction from its fragment: it may issue (R36, R203, R390), the checks at issue pass (R41, R195,
R201), and a thread passes or the entry names an effect for the empty set (R37). -/
def State.ready (s : State) (pm : Perm) (h : Hdr) (len : Nat) (u : Uses) : Option Iss :=
  match s.iss? h len with
  | none => none
  | some is =>
    match is.check pm u with
    | .error _ => none
    | .ok _ => if is.p ≠ 0 ∨ pm.onEmpty = true then some is else none

/-- What every instruction leaves that goes on to the next one: the fragment's PC past it, and what follows each issue (R36,
R332). -/
def State.retire (s : State) (is : Iss) : State := (s.advance is).afterIssue is

/-- The address after the instruction; a PC has 56 bits (R74, R332). -/
def Iss.next (is : Iss) : W64 := (is.pc + BitVec.ofNat 64 is.len) &&& 0x00FFFFFFFFFFFFFF

/-! ## What stays -/

/-- A context without its registers, flags, tags and fragments, and without what every issue sets: the special registers, counters,
outstanding results, rename and rope tables, guard latch, wait, and the rest. -/
def Ctx.rest (c : Ctx) : Ctx :=
  { c with s := [], k := [], v := [], flags := [], split := [], tags := [], pk := false, skipBkpt := [], single := false
           stop := none, lastCode := 0, waits := [], passed := 0 }

/-- The machine without its contexts and the future tables of its quads: memory, caches, teams, groups, cores, dies, partitions
and all that is on its way. -/
def State.rest (s : State) : State := { s with ctxs := [], quads := [] }

/-- The fragment stands behind the instruction and the other fragments, and every other agent, stand as they did. -/
def MovesOn (s t : State) (is : Iss) (c : Ctx) : Prop :=
  t.ctx? is.a = some c ∧ c.rec? is.fid = some { is.fr with pc := is.next } ∧ (∀ j, j ≠ is.fid → c.rec? j = is.c.rec? j) ∧
    ∀ b, ctxKey b ≠ ctxKey is.a → t.ctx? b = s.ctx? b

/-- Every scalar register but those of a list reads as before. -/
def SameS (c c' : Ctx) (but : List Nat) : Prop := ∀ n, n ∉ but → c'.sget n = c.sget n
/-- Every mask register but those of a list reads as before. -/
def SameK (c c' : Ctx) (but : List Nat) : Prop := ∀ n, n ∉ but → c'.kget n = c.kget n
/-- Every vector register of every lane reads as before. -/
def SameV (c c' : Ctx) : Prop := ∀ n l, c'.vget n l = c.vget n l
/-- Every lane's sticky flags are as before. -/
def SameF (c c' : Ctx) : Prop := ∀ l, c'.flag l = c.flag l

/-! ## Canonical forms -/

/-- The memory's list is in its canonical form. -/
def State.memOk (s : State) : Prop := s.mem.wf = true

end Sys2Proof.Machine
end

