-- ==== Sys2Proof/Claims/Scalar.lean ====
section
/-! DEFINITION. What the rules give as the results of the uniform scalar instructions (R207 to R213), as integers where a rule speaks of
numbers. -/

namespace Sys2Proof.Machine

/-- The number of bits to shift by: src[5:0] (R207). -/
def amount (y : W64) : Nat := y.toNat % 64

/-- s.div: quotient and remainder round toward zero; by 0 the quotient is all ones and the remainder the dividend (R208). -/
def divRule (sub : BitVec 2) (x y : W64) : W64 :=
  if y = 0 then (if sub.toNat < 2 then BitVec.allOnes 64 else x)
  else match sub.toNat with
    | 0 => BitVec.ofInt 64 (Int.tdiv x.toInt y.toInt)
    | 1 => BitVec.ofNat 64 (x.toNat / y.toNat)
    | 2 => BitVec.ofInt 64 (x.toInt - y.toInt * Int.tdiv x.toInt y.toInt)
    | _ => BitVec.ofNat 64 (x.toNat - y.toNat * (x.toNat / y.toNat))

/-- The conditions eq, ne, slt, sle, sgt, sge, ult, ule, ugt, uge (R207). -/
def condRule (c : BitVec 4) (x y : W64) : Bool :=
  match c.toNat with
  | 0 => x.toNat = y.toNat
  | 1 => x.toNat ≠ y.toNat
  | 2 => x.toInt < y.toInt
  | 3 => x.toInt ≤ y.toInt
  | 4 => y.toInt < x.toInt
  | 5 => y.toInt ≤ x.toInt
  | 6 => x.toNat < y.toNat
  | 7 => x.toNat ≤ y.toNat
  | 8 => y.toNat < x.toNat
  | _ => y.toNat ≤ x.toNat

/-- The form of a scalar instruction with a scalar result: header, length, sources and destination. -/
def scalarForm : Instr → Option (Hdr × Nat × List Use × RegNo)
  | .sMov h d a => some (h, 8, [.s a], d)
  | .sMovi h sub d _ => some (h, 12, if sub = 2 then [.s d] else [], d)
  | .sAdd h d a src | .sSub h d a src | .sMul h _ d a src | .sDiv h _ d a src | .sAnd h d a src | .sOr h d a src
  | .sXor h d a src | .sShl h d a src | .sShr h d a src | .sSra h d a src | .sMin h _ d a src | .sMax h _ d a src
  | .sCmp h _ d a src | .sBfx h _ d a src => some (h, 8, .s a :: srcUseS src, d)
  | .sSel h d a b c => some (h, 8, [.s a, .s b, .s c], d)
  | .sClz h _ d a => some (h, 8, [.s a], d)
  | .sPopc h _ d a => some (h, 8, [.s a], d)
  | .sLea h d a b _ _ => some (h, 12, [.s a, .s b], d)
  | .sRdk h d a => some (h, 8, [.k a], d)
  | _ => none

/-- Its result (R207 to R210, R213). -/
def scalarValue (is : Iss) : Instr → W64
  | .sMov _ _ a => is.s a
  | .sMovi _ sub d imm =>
    if sub.toNat = 0 then BitVec.ofInt 64 imm.toInt
    else if sub.toNat = 1 then BitVec.ofNat 64 imm.toNat
    else BitVec.ofNat 64 (imm.toNat * 2 ^ 32 + (is.s d).toNat % 2 ^ 32)
  | .sAdd _ _ a src => BitVec.ofInt 64 ((is.s a).toInt + (is.srcS src).toInt)
  | .sSub _ _ a src => BitVec.ofInt 64 ((is.s a).toInt - (is.srcS src).toInt)
  | .sMul _ sub _ a src =>
    if sub.toNat = 0 then BitVec.ofInt 64 ((is.s a).toInt * (is.srcS src).toInt)
    else if sub.toNat = 1 then BitVec.ofInt 64 ((is.s a).toInt * (is.srcS src).toInt / 2 ^ 64)
    else BitVec.ofNat 64 ((is.s a).toNat * (is.srcS src).toNat / 2 ^ 64)
  | .sDiv _ sub _ a src => divRule sub (is.s a) (is.srcS src)
  | .sAnd _ _ a src => is.s a &&& is.srcS src
  | .sOr _ _ a src => is.s a ||| is.srcS src
  | .sXor _ _ a src => is.s a ^^^ is.srcS src
  | .sShl _ _ a src => BitVec.ofNat 64 ((is.s a).toNat * 2 ^ amount (is.srcS src))
  | .sShr _ _ a src => BitVec.ofNat 64 ((is.s a).toNat / 2 ^ amount (is.srcS src))
  | .sSra _ _ a src => BitVec.ofInt 64 ((is.s a).toInt / 2 ^ amount (is.srcS src))
  | .sMin _ sub _ a src =>
    if sub = 0 then (if (is.s a).toInt ≤ (is.srcS src).toInt then is.s a else is.srcS src)
    else if (is.s a).toNat ≤ (is.srcS src).toNat then is.s a else is.srcS src
  | .sMax _ sub _ a src =>
    if sub = 0 then (if (is.s a).toInt ≤ (is.srcS src).toInt then is.srcS src else is.s a)
    else if (is.s a).toNat ≤ (is.srcS src).toNat then is.srcS src else is.s a
  | .sCmp _ cond _ a src => if condRule cond (is.s a) (is.srcS src) then 1 else 0
  | .sSel _ _ a b c => if is.s c = 0 then is.s b else is.s a
  | .sClz _ sub _ a => BitVec.ofNat 64 (clz (if sub = 0 then 64 else 32) (is.s a).toNat)
  | .sPopc _ sub _ a => BitVec.ofNat 64 (popc (if sub = 0 then 64 else 32) (is.s a).toNat)
  | .sBfx _ sub _ a src =>
    BitVec.ofNat 64 (bitField 64 (sub = 1) (is.s a).toNat ((is.srcS src).toNat % 64) ((is.srcS src).toNat / 256 % 64 + 1))
  | .sLea _ _ a b sh imm => BitVec.ofInt 64 ((is.s a).toInt + (is.s b).toInt * 2 ^ sh.toNat + imm.toInt)
  | .sRdk _ _ a => is.k a
  | _ => 0

end Sys2Proof.Machine
end

