-- ==== Sys2Proof/Claims/Vector.lean ====
section
/-! DEFINITION. What the rules give as the results of the per-thread integer instructions (R214 to R219), of the element-wise
floating-point instructions (R220 to R224) and of the long-latency classes (R225 to R232). -/

namespace Sys2Proof.Machine

/-- A vector form: header, length, whether the element is a pair, sources and destination. -/
structure VForm where
  h : Hdr
  len : Nat
  wide : Bool
  rd : List Use
  d : RegNo
  deriving DecidableEq, Repr

/-- The registers that it uses. -/
def VForm.uses (f : VForm) : Uses := { rd := f.rd, wr := [.v f.d (if f.wide then 2 else 1)] }

/-- The form of a per-thread integer instruction with a vector result. -/
def vectorForm : Instr → Option VForm
  | .vMov h t d a | .vAbs h t d a | .vClz h t d a | .vPopc h t d a => some ⟨h, 8, t.ty.is64, [.v a t.ty.regs], d⟩
  | .vMovs h t d a => some ⟨h, 8, t.ty.is64, [.s a], d⟩
  | .vMovi h _ d _ => some ⟨h, 12, false, [], d⟩
  | .vAdd h t d a src | .vSub h t d a src | .vMul h _ t d a src | .vAnd h t d a src | .vOr h t d a src | .vXor h t d a src
  | .vShl h t d a src | .vShr h t d a src | .vSra h t d a src | .vMin h t d a src | .vMax h t d a src | .vBfx h _ t d a src =>
    some ⟨h, 8, t.ty.is64, .v a t.ty.regs :: srcUseV t.ty.regs src, d⟩
  | .vMad h t d a b c => some ⟨h, 8, t.ty.is64, [.v a t.ty.regs, .v b t.ty.regs, .v c t.ty.regs], d⟩
  | .vSel h t d a b c => some ⟨h, 8, t.ty.is64, [.v a t.ty.regs, .v b t.ty.regs, .k c], d⟩
  | .vDot4 h _ _ d a b c => some ⟨h, 8, false, [.v a 1, .v b 1, .v c 1], d⟩
  | .vLid h _ d | .vRdflag h d => some ⟨h, 8, false, [], d⟩
  | _ => none

/-- An exact integer as a code: clamped to the type's range with SAT, else modulo (R215). -/
def exactCode (t : TField) (x : Int) : Nat :=
  let y := if t.sat then (if x < t.ty.lo then t.ty.lo else if t.ty.hi < x then t.ty.hi else x) else x
  (y % (2 : Int) ^ t.ty.bits).toNat

/-- The value that a thread's destination takes (R215 to R219). -/
def vectorValue (is : Iss) (i : Nat) : Instr → Nat
  | .vMov _ t _ a => is.vw t.ty.is64 a i
  | .vMovs _ t _ a => (is.s a).toNat % 2 ^ t.ty.bits
  | .vMovi _ _ _ imm => imm.toNat
  | .vAdd _ t _ a src => exactCode t (t.ty.intOf (is.vw t.ty.is64 a i) + t.ty.intOf (is.srcV t.ty.is64 i src))
  | .vSub _ t _ a src => exactCode t (t.ty.intOf (is.vw t.ty.is64 a i) - t.ty.intOf (is.srcV t.ty.is64 i src))
  | .vMul _ sub t _ a src =>
    let p := t.ty.intOf (is.vw t.ty.is64 a i) * t.ty.intOf (is.srcV t.ty.is64 i src)
    if sub = 0 then exactCode t p else (p / 2 ^ 32 % (2 : Int) ^ t.ty.bits).toNat
  | .vMad _ t _ a b c =>
    exactCode t (t.ty.intOf (is.vw t.ty.is64 a i) * t.ty.intOf (is.vw t.ty.is64 b i) + t.ty.intOf (is.vw t.ty.is64 c i))
  | .vAnd _ t _ a src => is.vw t.ty.is64 a i &&& is.srcV t.ty.is64 i src
  | .vOr _ t _ a src => is.vw t.ty.is64 a i ||| is.srcV t.ty.is64 i src
  | .vXor _ t _ a src => is.vw t.ty.is64 a i ^^^ is.srcV t.ty.is64 i src
  | .vShl _ t _ a src => is.vw t.ty.is64 a i * 2 ^ (is.srcV t.ty.is64 i src % t.ty.bits) % 2 ^ t.ty.bits
  | .vShr _ t _ a src => is.vw t.ty.is64 a i / 2 ^ (is.srcV t.ty.is64 i src % t.ty.bits)
  | .vSra _ t _ a src =>
    (toSigned t.ty.bits (is.vw t.ty.is64 a i) / 2 ^ (is.srcV t.ty.is64 i src % t.ty.bits) % (2 : Int) ^ t.ty.bits).toNat
  | .vMin _ t _ a src =>
    let x := is.vw t.ty.is64 a i
    let y := is.srcV t.ty.is64 i src
    if t.ty.intOf y < t.ty.intOf x then y else x
  | .vMax _ t _ a src =>
    let x := is.vw t.ty.is64 a i
    let y := is.srcV t.ty.is64 i src
    if t.ty.intOf y < t.ty.intOf x then x else y
  | .vAbs _ t _ a => exactCode t |t.ty.intOf (is.vw t.ty.is64 a i)|
  | .vSel _ t _ a b c => if (is.k c).getLsbD i then is.vw t.ty.is64 a i else is.vw t.ty.is64 b i
  | .vClz _ t _ a => clz 32 (is.vw t.ty.is64 a i)
  | .vPopc _ t _ a => popc 32 (is.vw t.ty.is64 a i)
  | .vBfx _ sub t _ a src =>
    let f := is.srcV t.ty.is64 i src
    bitField 32 (sub = 1) (is.vw t.ty.is64 a i) (f % 32) (f / 256 % 32 + 1)
  | .vDot4 _ sub t _ a b c =>
    let x := (is.v a i).toNat
    let y := (is.v b i).toNat
    let term (j : Nat) : Int := byteInt (sub.getLsbD 0) x j * byteInt (sub.getLsbD 1) y j
    exactCode { t with ty := .b32 } ((is.v c i).toInt + term 0 + term 1 + term 2 + term 3)
  | .vLid _ sub _ => if sub = 0 then i else 64 * is.c.widx + i
  | .vRdflag _ _ => (is.c.flag i).toNat
  | _ => 0

/-! ## Floating-point results -/

/-- A floating-point form whose results are ready at issue: header, length, sources, the registers that it writes, destination, type, and
how many values each thread rounds. -/
structure FForm where
  h : Hdr
  len : Nat
  rd : List Use
  n : Nat
  d : RegNo
  t : TField
  k : Nat
  deriving DecidableEq, Repr

/-- The registers that it uses. -/
def FForm.uses (f : FForm) : Uses := { rd := f.rd, wr := [.v f.d f.n] }

/-- Elements of an operand: two of f16 and bf16, else one (R220). -/
def elemCount (t : TField) : Nat := if t.ty.bits = 16 then 2 else 1

/-- The form of an f-class instruction with results in vector registers at issue (R190, R191, R220 to R222, R224). -/
def floatForm : Instr → Option FForm
  | .fAdd h t d a b | .fSub h t d a b | .fMul h t d a b | .fMin h _ t d a b | .fMax h _ t d a b =>
    some ⟨h, 8, [.v a t.ty.regs, .v b t.ty.regs], t.ty.regs, d, t, elemCount t⟩
  | .fFma h t d a b c => some ⟨h, 8, [.v a t.ty.regs, .v b t.ty.regs, .v c t.ty.regs], t.ty.regs, d, t, elemCount t⟩
  | .fCvt h t d a sty => some ⟨h, 8, [.v a sty.regs], t.ty.regs, d, t, 1⟩
  | .fPack h t d a _ _ => some ⟨h, 12, [.v a t.ty.groupK], t.ty.groupM, d, t, t.ty.groupK⟩
  | .fUnpack h t d a sty _ => some ⟨h, 12, [.v a sty.groupM], sty.groupK, d, t, sty.groupK⟩
  | _ => none

/-- The result and the flags of an element: the exact value rounded once (R221), or the smaller or larger one (R222). -/
def floatElem (i : Instr) (r : Round) (l : List Nat) : Nat × BitVec 5 :=
  let x := l.getD 0 0
  let y := l.getD 1 0
  let z := l.getD 2 0
  let once (f : Fmt) (e : Val × BitVec 5) : Nat × BitVec 5 := ((f.roundVal r e.1).1, e.2 ||| (f.roundVal r e.1).2)
  match i with
  | .fAdd _ t .. => once t.ty.fmt ((t.ty.fmt.decode x).add r.rnd (t.ty.fmt.decode y))
  | .fSub _ t .. => once t.ty.fmt ((t.ty.fmt.decode x).add r.rnd (t.ty.fmt.decode y).neg)
  | .fMul _ t .. => once t.ty.fmt ((t.ty.fmt.decode x).mul (t.ty.fmt.decode y))
  | .fFma _ t .. => once t.ty.fmt (Val.fma r.rnd (t.ty.fmt.decode x) (t.ty.fmt.decode y) (t.ty.fmt.decode z))
  | .fMin _ sub t .. => t.ty.fmt.minMax false (sub = 1) x y
  | .fMax _ sub t .. => t.ty.fmt.minMax true (sub = 1) x y
  | _ => (0, 0)

/-- A thread's elements of an element-wise instruction, each with its flags (R220). -/
def elemResults (is : Iss) (i : Instr) (t : TField) (srcs : List RegNo) (lane : Nat) : List (Nat × BitVec 5) :=
  (List.range (elemCount t)).map (fun j =>
    floatElem i (is.round t lane j) (srcs.map (fun r => (elems t.ty (is.vw t.ty.is64 r lane)).getD j 0)))

/-- A thread's values before they are placed in registers, each with its flags: the elements, the converted value, the values of the
group that it packs, or those that it unpacks (R190, R191, R220). -/
def floatParts (is : Iss) (i : Instr) (lane : Nat) : List (Nat × BitVec 5) :=
  match i with
  | .fAdd _ t _ a b | .fSub _ t _ a b | .fMul _ t _ a b | .fMin _ _ t _ a b | .fMax _ _ t _ a b => elemResults is i t [a, b] lane
  | .fFma _ t _ a b c => elemResults is i t [a, b, c] lane
  | .fCvt _ t _ a sty => [convert sty t.ty (is.round t lane 0) 0 (is.vw sty.is64 a lane % 2 ^ sty.bits)]
  | .fPack _ t _ a sty esc => (List.range t.ty.groupK).map (fun j =>
      convert sty t.ty (is.round t lane j) esc.toInt ((is.vj a j lane).toNat % 2 ^ sty.bits))
  | .fUnpack _ t _ a sty esc => (List.range sty.groupK).map (fun j =>
      convert sty t.ty (is.round t lane j) esc.toInt (bits (is.group a sty.groupM lane) (sty.bits * j) sty.bits))
  | _ => []

/-- The register writes of a thread: the elements of an operand, a converted code widened, a packed group over its registers, or one
register for each unpacked value (R190, R191, R220). -/
def floatWrites (is : Iss) (i : Instr) (f : FForm) (lane : Nat) : List (Nat × Nat × W32) :=
  let l := (floatParts is i lane).map (·.1)
  match i with
  | .fCvt .. => is.vWrites f.t.ty.is64 f.d [(lane, widen f.t.ty (l.getD 0 0))]
  | .fPack .. => is.groupWrites f.d f.n lane (l.foldr (fun x acc => x % 2 ^ f.t.ty.bits + 2 ^ f.t.ty.bits * acc) 0)
  | .fUnpack .. => (List.range f.n).map (fun j => (is.phys (f.d.toNat + j) lane, lane, BitVec.ofNat 32 (l.getD j 0)))
  | _ => is.vWrites f.t.ty.is64 f.d [(lane, joinElems f.t.ty l)]

/-- The flags of a thread, together (R184). -/
def floatFlags (is : Iss) (i : Instr) (lane : Nat) : BitVec 5 := orFlags (floatParts is i lane)

/-! ## Long-latency results -/

/-- The form of an instruction of R225 with the function that its elements take. -/
def longForm : Instr → Option (Hdr × TField × RegNo × List RegNo)
  | .fRcp h t d a | .fRsq h t d a | .fSqrt h t d a | .fExp2 h t d a | .fLog2 h t d a | .fSin h t d a | .fCos h t d a =>
    some (h, t, d, [a])
  | .fDiv h t d a b => some (h, t, d, [a, b])
  | _ => none

/-- The result and flags of a lane of an instruction of R225. -/
def longLane (is : Iss) (i : Instr) (t : TField) (srcs : List RegNo) (lane : Nat) : Nat × BitVec 5 :=
  let r := is.round t lane 0
  let x := is.vw t.ty.is64 (srcs.getD 0 0) lane
  let y := is.vw t.ty.is64 (srcs.getD 1 0) lane
  match i with
  | .fRcp .. => Fn.rcp.apply t.ty.fmt r x
  | .fRsq .. => Fn.rsq.apply t.ty.fmt r x
  | .fSqrt .. => Fn.sqrt.apply t.ty.fmt r x
  | .fExp2 .. => Fn.exp2.apply t.ty.fmt r x
  | .fLog2 .. => Fn.log2.apply t.ty.fmt r x
  | .fSin .. => Fn.sin.apply t.ty.fmt r x
  | .fCos .. => Fn.cos.apply t.ty.fmt r x
  | _ => t.ty.fmt.div r x y

/-- The form of a cross-lane instruction with a vector result (R228, R229, R231, R232). -/
def crossFormV : Instr → Option VForm
  | .xShfl h _ t d a src => some ⟨h, 8, t.ty.is64, .x a t.ty.regs :: srcUseV 1 src, d⟩
  | .xBcast h t d a src => some ⟨h, 8, t.ty.is64, .x a t.ty.regs :: srcUseS src, d⟩
  | .xPrmt h d a b c => some ⟨h, 8, false, [.v a 1, .v b 1, .v c 1], d⟩
  | .xWrlane h t d a src => some ⟨h, 8, t.ty.is64, .s a :: srcUseS src, d⟩
  | _ => none

/-- The values by lane that it makes outstanding. -/
def crossValuesV (is : Iss) : Instr → List (Nat × Nat)
  | .xShfl _ sub t _ a src =>
    is.p.list.map (fun i =>
      let o := is.shflOff i src
      let j := if sub.toNat = 0 then o % 64
        else if sub.toNat = 1 then (if o ≤ i then i - o else i)
        else if sub.toNat = 2 then (if i + o < 64 then i + o else i)
        else if i ^^^ o < 64 then i ^^^ o else i
      (i, is.vw t.ty.is64 a j))
  | .xBcast _ t _ a src => is.p.list.map (fun i => (i, is.vw t.ty.is64 a ((is.srcS src).toNat % 64)))
  | .xPrmt _ _ a b c => is.p.list.map (fun i => (i, (permute (is.v a i) (is.v b i) (is.v c i)).toNat))
  | .xWrlane _ t _ a src =>
    let l := (is.srcS src).toNat % 64
    if is.p.getLsbD l then [(l, (is.s a).toNat % 2 ^ t.ty.bits)] else []
  | _ => []

/-- The form of a cross-lane instruction with a scalar result: the permission, header, sources and destination. -/
def crossFormS : Instr → Option (Perm × Hdr × List Use × RegNo)
  | .xVote h _ d a | .xCnt h d a | .xFirst h d a => some ({ Perm.wave with onEmpty := true }, h, [.k a], d)
  | .xRdlane h t d a src => some (.wave, h, .x a t.ty.regs :: srcUseS src, d)
  | _ => none

/-- The scalar value that it makes outstanding (R229, R230). -/
def crossValueS (is : Iss) : Instr → W64
  | .xVote _ sub _ a =>
    let on := is.p &&& is.k a
    let off := is.p &&& ~~~(is.k a)
    if sub.toNat = 0 then on
    else if sub.toNat = 1 then (if on = 0 then 0 else 1)
    else if sub.toNat = 2 then (if off = 0 then 1 else 0)
    else if on = 0 ∨ off = 0 then 1 else 0
  | .xCnt _ _ a => BitVec.ofNat 64 (is.p &&& is.k a).list.length
  | .xFirst _ _ a => match (is.p &&& is.k a).list with | [] => BitVec.allOnes 64 | i :: _ => BitVec.ofNat 64 i
  | .xRdlane _ t _ a src => BitVec.ofNat 64 (is.vw t.ty.is64 a ((is.srcS src).toNat % 64))
  | _ => 0

end Sys2Proof.Machine
end

