-- ==== Sys2Proof/Claims/Branch.lean ====
section
/-! DEFINITION. Where the branches of the b class lead (R26, R32, R337, R338). -/

namespace Sys2Proof.Machine

/-- The form of a branch: header, length, sources and the link register. -/
def branchForm : Instr → Option (Hdr × Nat × List Use × Option RegNo)
  | .bJmp h sub a _ => some (h, 12, if sub = 1 then [.s a] else [], none)
  | .bBr h _ a _ => some (h, 12, [.s a], none)
  | .bBrk h _ a _ => some (h, 12, [.k a], none)
  | .bCall h sub d a _ => some (h, 12, if sub = 1 then [.s a] else [], some d)
  | .bRet h a => some (h, 8, [.s a], none)
  | _ => none

/-- The uses of a branch. -/
def branchUses (rd : List Use) (link : Option RegNo) : Uses := { rd := rd, wr := match link with | some d => [.s d] | none => [] }

/-- Where it goes, or none where it is not taken. -/
def branchDest (is : Iss) : Instr → Option W64
  | .bJmp _ sub a imm => some ((if sub = 1 then is.s a else is.pc) + imm.signExtend 64)
  | .bBr _ sub a imm =>
    let v := (is.s a).toInt
    let taken : Bool := if sub.toNat = 0 then v ≠ 0 else if sub.toNat = 1 then v = 0 else if sub.toNat = 2 then v < 0 else 0 ≤ v
    if taken then some (is.pc + imm.signExtend 64) else none
  | .bBrk _ sub a imm =>
    let on : List Nat := (is.p &&& is.k a).list
    let off : List Nat := (is.p &&& ~~~(is.k a)).list
    let taken : Bool := if sub.toNat = 0 then on ≠ [] else if sub.toNat = 1 then off = [] else on = []
    if taken then some (is.pc + imm.signExtend 64) else none
  | .bCall _ sub _ a imm => some ((if sub = 1 then is.s a else is.pc) + imm.signExtend 64)
  | .bRet _ a => some (is.s a)
  | _ => none

end Sys2Proof.Machine
end

