-- ==== Sys2Proof/Claims/Engine.lean ====
section
/-! DEFINITION. The words of the claims about engine work: futures that an instruction takes or resolves at once, scalar answers
that stand in EC, and the commands of the copy instructions (R164 to R166, R364, R365). -/

namespace Sys2Proof.Machine

/-! ## Futures and answers -/

/-- The instruction's future: a free entry of its quad's table now holds it, PENDING, under the next SEQ, with sD as its first site;
sD holds the pending handle under its tag (R364, R365). -/
def Taken (s t : State) (is : Iss) (d : RegNo) (kind k : Nat) : Prop :=
  (s.quad (quadOf is.a)).futs.find k = none ∧ k < Config.futures ∧
  ∃ f c, (t.quad (quadOf is.a)).futs.find k = some f ∧ f.seq = (s.quad (quadOf is.a)).seq ∧ f.kind = kind ∧
    f.sites = (if d.toNat = 63 then [] else [.reg is.a d.toNat]) ∧
    (t.quad (quadOf is.a)).seq = ((s.quad (quadOf is.a)).seq + 1) % 2 ^ 32 ∧ MovesOn s t is c ∧
    (d.toNat ≠ 63 → c.sget d.toNat = pendingHandle f.seq (quadOf is.a) kind k ∧
      ∃ g, c.tags.find d.toNat = some g ∧ g.resolved = false ∧ g.quad = quadOf is.a ∧ g.slot = k ∧ g.seq = f.seq) ∧
    SameS is.c c [d.toNat] ∧ SameK is.c c [] ∧ SameV is.c c ∧ SameF is.c c

/-- The instruction's future has resolved at once: sD holds the resolved handle, and no entry is left (R365, R367). -/
def AtOnce (s t : State) (is : Iss) (d : RegNo) (kind st code : Nat) : Prop :=
  (t.quad (quadOf is.a)).seq = ((s.quad (quadOf is.a)).seq + 1) % 2 ^ 32 ∧
  ∃ c, MovesOn s t is c ∧
    (d.toNat ≠ 63 → c.sget d.toNat = resolvedHandle (s.quad (quadOf is.a)).seq (quadOf is.a) kind st code ∧
      ∃ g, c.tags.find d.toNat = some g ∧ g.resolved = true) ∧
    SameS is.c c [d.toNat] ∧ SameK is.c c [] ∧ SameV is.c c ∧ SameF is.c c

/-- The quad has a free future entry and the wave's EC has room (R202, R365). -/
def State.futRoom (s : State) (is : Iss) : Prop := is.c.ec < 63 ∧ (s.quad (quadOf is.a)).freeFut ≠ none

/-- The state with an outstanding result entered under the next number. -/
def State.enter (s : State) (is : Iss) (p : Pend) : State := ({ s with uid := s.uid + 1 } : State).addPend is.a p

/-- The state in which a scalar answer stands in EC for sD and the wave has moved on (R199, R202). -/
def State.answers (s : State) (is : Iss) (d : RegNo) (v : Nat) : State :=
  (s.enter is { Pend.blank s.uid .ec is with
    writes := [{ reg := .s d.toNat, val := some (BitVec.ofNat 64 v).toNat }] }).retire is

/-! ## Copy commands (R164, R165) -/

/-- A copy instruction: header, destination, the scalar sources, X0 and X1. -/
def copyForm : Instr → Option (Hdr × RegNo × List Use × BitVec 32 × CopyX)
  | .eCopy h d a b c x0 x => some (h, d, [.s a, .s b, .s c], x0, x)
  | .eCopy2 h d a b c x0 x | .eGath h d a b c x0 x | .eScat h d a b c x0 x => some (h, d, [.s a, .s b, .s c, .s (c + 1)], x0, x)
  | .eFill h d a b c x0 x | .eBcast h d a b c x0 x => some (h, d, [.s a, .s b, .s c], x0, x)
  | _ => none

/-- The rows of a copy instruction (R165): one, ROWS of the first parameter word, or the members that PEERS names. -/
def copyRows (is : Iss) : Instr → List Nat
  | .eCopy .. | .eFill .. => [0]
  | .eCopy2 _ _ _ _ c _ _ | .eGath _ _ _ _ c _ _ | .eScat _ _ _ _ c _ _ => List.range (bits (is.s c).toNat 24 16)
  | .eBcast _ _ _ _ c _ _ => onesBelow (bits (is.s c).toNat 32 8) 8
  | _ => []

/-- Where a side of a copy stands: a local-store address of 32 bits or a VA of 56 (R164). -/
def copySide (ls : Bool) (v : W64) : Nat := if ls then v.toNat % 2 ^ 32 else v.toNat % 2 ^ 56

/-- The addresses, sizes, strides, indices and pattern of a copy instruction (R165). -/
def copyShape (is : Iss) : Instr → Copy
  | .eCopy _ _ a b c _ x => Copy.blank 0 x.sls x.dls (copySide x.sls (is.s b)) (copySide x.dls (is.s a)) ((is.s c).toNat % 2 ^ 32)
  | .eCopy2 _ _ a b c _ x =>
    { Copy.blank 1 x.sls x.dls (copySide x.sls (is.s b)) (copySide x.dls (is.s a)) (bits (is.s c).toNat 0 24) with
      dstride := bits (is.s (c + 1)).toNat 0 32, sstride := bits (is.s (c + 1)).toNat 32 32 }
  | .eGath _ _ a b c _ x =>
    { Copy.blank 2 x.sls x.dls (copySide x.sls (is.s b)) (copySide x.dls (is.s a)) (bits (is.s c).toNat 0 24) with
      idx := some (bits (is.s (c + 1)).toNat 0 32), sstride := bits (is.s (c + 1)).toNat 32 32,
      dstride := bits (is.s c).toNat 0 24 }
  | .eScat _ _ a b c _ x =>
    { Copy.blank 3 x.sls x.dls (copySide x.sls (is.s b)) (copySide x.dls (is.s a)) (bits (is.s c).toNat 0 24) with
      idx := some (bits (is.s (c + 1)).toNat 0 32), dstride := bits (is.s (c + 1)).toNat 32 32,
      sstride := bits (is.s c).toNat 0 24 }
  | .eFill _ _ a b c _ x =>
    { Copy.blank 4 false x.dls 0 (copySide x.dls (is.s a)) ((is.s c).toNat % 2 ^ 32) with pattern := (is.s b).extractLsb' 0 32 }
  | .eBcast _ _ a b c _ x =>
    { Copy.blank 5 x.sls true (copySide x.sls (is.s b)) (bits (is.s a).toNat 0 19) (bits (is.s c).toNat 0 32) with
      members := onesBelow (bits (is.s c).toNat 32 8) 8 }
  | _ => Copy.blank 0 false false 0 0 0

/-- The command that a copy instruction posts, but for its number and its future (R164 to R166, R86). -/
def copyCmd (s : State) (is : Iss) (i : Instr) (x0 : BitVec 32) (x : CopyX) : Copy :=
  let c := copyShape is i
  let gen (a : Nat) : Nat :=
    (s.attr (coreOf is.a) (arenaOf (canonical (s.core (coreOf is.a)).filters (a % 2 ^ 56)))).gen
  { c with
    agent := is.a, team := is.c.team, core := coreOf is.a, swz := x.swz.toNat, sc := BitVec.ofNat 3 (s.scope is.a x.sc),
    bar := if x.bar then some x0.toNat else none,
    left := if c.rowbytes = 0 then [] else (copyRows is i).map (fun r => (r, 0, c.rowbytes)),
    sgen := gen c.src, dgen := gen c.dst, pc := is.pc }

/-! ## Requests to the change-tree agent (R129 to R133) -/

/-- An instruction that asks the agent: header, length, sources, destination, the node's register, the operation, its second
operand. -/
def treeForm : Instr → Option (Hdr × Nat × List Use × RegNo × RegNo × Nat × (Iss → Nat))
  | .cCtnew h d a id => some (h, 12, [.s a], d, a, tNew, fun _ => id.toNat)
  | .cCtpar h d a b => some (h, 8, [.s a, .s b], d, a, tPar, fun is => (is.s b).toNat % 2 ^ 16)
  | .cCtrd h d a => some (h, 8, [.s a], d, a, tRd, fun _ => 0)
  | .cCtdel h d a => some (h, 8, [.s a], d, a, tDel, fun _ => 0)
  | _ => none

/-! ## Who may issue what -/

/-- The classes and operations that a stoker executes (R414). -/
def stokerMay (cls op : Nat) : Bool :=
  match cls with
  | 0 => op ≠ 22
  | 1 => !([6, 7, 8, 9, 11, 13].contains op)
  | 6 => op = 0
  | 7 => op = 3
  | 11 => [3, 5, 11].contains op
  | _ => false

/-- The classes and operations that a hearth core lacks (R397). -/
def hearthLacks (cls op : Nat) : Bool :=
  match cls with
  | 5 | 6 => [2, 3].contains op
  | 7 => [6, 7, 8, 9, 10, 11].contains op
  | 8 | 9 | 10 | 11 => true
  | _ => false

end Sys2Proof.Machine
end

