-- ==== Sys2Proof/Claims/Access.lean ====
section
/-! DEFINITION. The words of the claims about memory instructions: what an access waits for, which accesses the checks at issue allow, and
where they lead (R79, R80, R98, R101, R122, R137, R148, R151, R153, R289). -/

namespace Sys2Proof.Machine

/-- Nothing is under way that a memory instruction, or one that posts engine work, waits for: no acquire of the wave (R289), and no SO
access of it (R79). -/
def Iss.quiet (is : Iss) (s : State) : Prop :=
  (∀ p ∈ is.c.pend, p.acq = none) ∧ ∀ r ∈ s.reqs, r.agent = is.a → r.typ ≠ Arn.typSO

/-! ## Global memory -/

/-- The canonical address of an access of the issuing agent (R98). -/
def Iss.canon (is : Iss) (s : State) (va : Nat) : Nat := canonical (s.core (coreOf is.a)).filters va
/-- The core's attributes of the arena of an address (R77). -/
def Iss.attrOf (is : Iss) (s : State) (va : Nat) : Attr := s.attr (coreOf is.a) (arenaOf (is.canon s va))
/-- The region entry that holds the address of an access (R101). -/
def Iss.regionOf (is : Iss) (s : State) (va : Nat) : Option Region := ((s.part (s.agentPart is.a)).region? (is.canon s va)).map (·.2)

/-- The checks at issue allow an access (R80, R101, R440): its address lies in a region, its arena may be read, written or accessed
atomically, and an N arena is not homed on the host. -/
def Iss.allows (is : Iss) (s : State) (va : Nat) (write atom : Bool) : Prop :=
  ∃ r, is.regionOf s va = some r ∧ checkAttr (arenaOf (is.canon s va)) (is.attrOf s va) write atom = none ∧
    ((r.home (is.canon s va)).host = false ∨ (is.attrOf s va).typ ≠ Arn.typN)
/-- Where an access leads. -/
def Iss.routeOf (is : Iss) (s : State) (va : Nat) : Route :=
  let r := (is.regionOf s va).getD (rootRegion 0)
  { va := is.canon s va, home := r.home (is.canon s va), ver := r.ver, attr := is.attrOf s va }

/-- A row of n bytes may be accessed: the checks allow every part of it that the remap filter or the region table tells apart, and it lies
in one arena (R98, R101, R165, R248, R255, R265). -/
def Iss.rowOk (is : Iss) (s : State) (va n : Nat) (write : Bool) : Prop :=
  ∀ x ∈ s.rowParts (coreOf is.a) (s.agentPart is.a) va n,
    is.allows s (x % 2 ^ 56) write false ∧ s.arenaAt (coreOf is.a) x = s.arenaAt (coreOf is.a) va

/-- The addresses of all passing threads are multiples of n and may be accessed (R148, R153). -/
def Iss.reach (is : Iss) (s : State) (n : Nat) (write atom : Bool) (x1 : X1F) (a : RegNo) (x0 : BitVec 32) : Prop :=
  ∀ e ∈ is.addrs x1 a x0, e.2 % n = 0 ∧ is.allows s e.2 write atom
/-- Where the passing threads' accesses lead, by lane. -/
def Iss.routed (is : Iss) (s : State) (x1 : X1F) (a : RegNo) (x0 : BitVec 32) : List (Nat × Route) :=
  (is.addrs x1 a x0).map (fun e => (e.1, is.routeOf s e.2))

/-- No load of n bytes meets a line of a c.invr of the wave (R121, R122). -/
def Iss.clear (is : Iss) (s : State) (n : Nat) (rs : List Route) : Prop :=
  ∀ r ∈ s.ranges, r.agent = is.a → r.inval = true → ∀ p ∈ r.parts, p.1 < p.2 →
    ∀ e ∈ rs, (e.va + n - 1) / 128 < p.1 / 128 ∨ (p.2 - 1) / 128 < e.va / 128

/-- The outstanding result that a load enters: every register of every passing thread, and for a.ldacq the acquire. -/
def Iss.loadPend (is : Iss) (id : Nat) (d : RegNo) (sz : BitVec 3) (k : List Reg) : Pend :=
  Pend.awaiting id .ldc is (is.p.list.flatMap (fun l => is.loadRegs d sz l) ++ k) []

/-- A release at a scope has performed: nothing that it waits for is under way (R160, R289). -/
def Iss.released (is : Iss) (s : State) (sc : Nat) : Prop := (s.release is.a sc).1.pendingDeps (s.release is.a sc).2 = false

/-- An atomic: header, sources, destination, its counter, bytes, the registers of a lane, base, displacement, X1, and what it does at
the home for a lane (R282, R284). -/
structure AForm where
  h : Hdr
  rd : List Use
  wr : List Use
  k : Ctr
  n : Nat
  regs : Iss → Nat → List Reg
  a : RegNo
  x0 : BitVec 32
  x1 : X1F
  op : Iss → Nat → ReqOp

/-- The form of a.rmw, a.red and a.cas. -/
def atomForm : Instr → Option AForm
  | .aRmw h t d a b opr x0 x1 => some ⟨h, [.v b t.ty.regs], [.v d t.ty.regs], .ldc, atomBytes t.ty,
      fun is l => is.vRegs d (atomBytes t.ty) l, a, x0, x1, fun is l => .rmw opr t.ty (is.groupVal b (atomBytes t.ty) l) true⟩
  | .aRed h t a b opr x0 x1 => some ⟨h, [.v b t.ty.regs], [], .stc, atomBytes t.ty, fun _ _ => [], a, x0, x1,
      fun is l => .rmw opr t.ty (is.groupVal b (atomBytes t.ty) l) false⟩
  | .aCas h d a b c x0 x1 => some ⟨h, [.v b (szRegs x1.sz), .v c (szRegs x1.sz)], [.v d (szRegs x1.sz)], .ldc, szBytes x1.sz,
      fun is l => is.vRegs d (szBytes x1.sz) l, a, x0, x1,
      fun is l => .cas (is.groupVal b (szBytes x1.sz) l) (is.groupVal c (szBytes x1.sz) l)⟩
  | _ => none

/-! ## The local store -/

/-- An l-class instruction of threads: header, sources beside the base, destination, base, displacement, bytes and alignment (R147 to
R149). -/
structure LForm where
  h : Hdr
  rd : List Use
  wr : List Use
  vadr : Bool
  a : RegNo
  imm : BitVec 32
  n : Nat
  align : Nat

/-- The form of an l-class instruction of threads. -/
def localForm : Instr → Option LForm
  | .lLd h vadr _ d a sz imm => some ⟨h, [], [.v d (szRegs sz)], vadr, a, imm, szBytes sz, szBytes sz⟩
  | .lSt h vadr a b sz imm => some ⟨h, [.v b (szRegs sz)], [], vadr, a, imm, szBytes sz, szBytes sz⟩
  | .lFill h vadr a b c imm => some ⟨h, [.v b 1], [], vadr, a, imm, 4 * c.toNat, 4⟩
  | .lSwz h vadr a _ imm => some ⟨h, [], [], vadr, a, imm, 1, 1⟩
  | .lAtom h vadr t d a b _ imm => some ⟨h, [.v b t.ty.regs], [.v d t.ty.regs], vadr, a, imm, t.ty.bits / 8, t.ty.bits / 8⟩
  | .lCas h vadr t d a b c imm =>
    some ⟨h, [.v b t.ty.regs, .v c t.ty.regs], [.v d t.ty.regs], vadr, a, imm, t.ty.bits / 8, t.ty.bits / 8⟩
  | _ => none

/-- The registers that it uses. -/
def LForm.uses (f : LForm) : Uses := { rd := lsBase f.vadr f.a :: f.rd, wr := f.wr }
/-- The local-store address of a lane. -/
def LForm.addr (f : LForm) (is : Iss) (l : Nat) : Nat := is.lsAddr f.vadr f.a f.imm l
/-- A lane's bytes do not all lie in a window (R137). -/
def LForm.out (f : LForm) (s : State) (is : Iss) (l : Nat) : Bool :=
  match s.lsOf is.a is.c (f.addr is l) with
  | none => true
  | some p => decide (p.limit < p.off + f.n)
/-- The places of the passing threads' accesses, by lane. -/
def LForm.spots (f : LForm) (s : State) (is : Iss) : List (Nat × LsAt) :=
  is.p.list.filterMap (fun l => (s.lsOf is.a is.c (f.addr is l)).map (fun p => (l, p)))
/-- Nothing is under way that a wave instruction which names a tile waits for: no load of it by a wave of the team, and no task that holds
it (R97, R235). -/
def Iss.tileFree (is : Iss) (s : State) (n : Nat) : Prop :=
  let mine (p : Pend) : Prop := p.tile.map (·.1) = some n
  (∀ p ∈ is.c.pend, ¬ mine p) ∧ (∀ e ∈ s.ctxs, e.2.team = is.c.team → ∀ p ∈ e.2.pend, ¬ mine p) ∧
    ∀ t ∈ (s.quad (quadOf is.a)).tasks, t.team = is.c.team → n ∉ t.tiles
/-- No byte of some places lies in an entry of the core's scoreboard (R151). -/
def Iss.offBoard (is : Iss) (s : State) (n : Nat) (ps : List LsAt) : Prop :=
  ∀ b ∈ (s.core (coreOf is.a)).board, ∀ p ∈ ps, p.ref = .team b.team → ∀ i, i < n → b.covers (p.off + i) = false
/-- The checks of every passing thread pass and nothing is waited for: the window, the alignment, the acquires, the scoreboard (R137,
R148, R151, R289). -/
def LForm.passes (f : LForm) (s : State) (is : Iss) : Prop :=
  (∀ l ∈ is.p.list, f.out s is l = false ∧ f.addr is l % f.align = 0) ∧ is.quiet s ∧ is.offBoard s f.n ((f.spots s is).map (·.2))
/-- The state with the guard granules that the accesses touch latched (R142). -/
def LForm.touched (f : LForm) (s : State) (is : Iss) : State :=
  (f.spots s is).foldl (fun s e => s.touch is.a is.pc e.2 f.n) s

end Sys2Proof.Machine
end

