-- ==== Sys2Proof/Claims/Posts.lean ====
section
/-! DEFINITION. The words of the claims about tile tasks and rick operations: what an instruction posts, and when its operands are valid
(R234, R238, R240, R241, R242, R244, R249, R261, R265). -/

namespace Sys2Proof.Machine

/-- The instruction posts the task: where its team may post and a future entry and the wave's EC have room, it takes a future, the task
stands behind those of the quad with that future, and the wave moves on; where its team may not post, the wave is parked until it may
(R242), and where only the future or EC has no room, it waits at issue. `s1` is the state that the instruction's reads have left. -/
def Posts (s s1 : State) (is : Iss) (i : Instr) (d : RegNo) (kind : Nat) (t0 : Task) : Prop :=
  let q := quadOf is.a
  (s1.mayPost q is.c.team = true → s1.futRoom is →
    ∃ t k, exec i s = .next t ∧ Taken s1 t is d kind k ∧
      (t.quad q).tasks = (s1.quad q).tasks ++ [{ t0 with fut := some (q, k) }] ∧ t.mem = s.mem ∧ t.teams = s1.teams) ∧
  (s1.mayPost q is.c.team = false → exec i s = .next (s.parkAgent is .post)) ∧
  (s1.mayPost q is.c.team = true → ¬ s1.futRoom is → exec i s = .next s)

/-- A task of the issuing wave. -/
def Iss.task (is : Iss) (s : State) (op : TaskOp) (prio sc : Nat) (slots tiles : List Nat) : Task :=
  { Task.new s.uid is.a is.c.team op prio sc (s.clk (dieOf is.a)) is.pc with slots := slots, tiles := tiles }

/-- The object at a local-store address passes the checks that a barrier instruction makes (R157, R159, R162): a multiple of 16, 16 bytes of
a window, no must-be-zero bit set and no SC of 7, and a REMOTE object's scope is mod or wider. -/
def Iss.objectAt (is : Iss) (s : State) (addr : Nat) (o : Obj) : Prop :=
  addr % 16 = 0 ∧ (∃ p, s.lsOfTeam is.c.team addr = some p ∧ p.ref = .team o.key ∧ p.off = o.off ∧ o.off + 16 ≤ p.limit) ∧
    o.v = s.object o.key o.off ∧ o.sc = s.scope is.a (BitVec.ofNat 3 (objSc o.v)) ∧ o.addr = addr ∧
    objBad o.v = false ∧ (objRemote o.v = true → 3 ≤ o.sc)

/-! ## m.mma and m.mmt -/

/-- A matrix instruction: header, SUB, destination, tiles, slot, ZERO, the companion tiles of SCALED, X0, priority, scope and BAR (R251). -/
structure MForm where
  mmt : Bool
  h : Hdr
  sub : BitVec 2
  d : RegNo
  a : RegNo
  b : RegNo
  c : RegNo
  zero : Bool
  scales : Option (Nat × Nat)
  x0 : BitVec 32
  prio : BitVec 2
  sc : BitVec 3
  bar : Bool

/-- The form of m.mma and m.mmt. -/
def matrixForm : Instr → Option MForm
  | .mMma h sub d a b c zero scl bsc asc x0 prio sc bar =>
    some ⟨false, h, sub, d, a, b, c, zero, if scl then some (asc.toNat, bsc.toNat) else none, x0, prio, sc, bar⟩
  | .mMmt h sub d a b c zero x0 prio sc bar => some ⟨true, h, sub, d, a, b, c, zero, none, x0, prio, sc, bar⟩
  | _ => none

/-- Its operands are valid (R234, R238, R240, R241, R251): the slot, the tiles, shapes that agree in K, a combination of types that the path
has with or without scales, and companion tiles with enough scales. -/
def MForm.valid (f : MForm) (t : Team) (sa sb : Shape) (m n k : Nat) : Prop :=
  f.c.toNat < t.foot.acc ∧ t.shape f.a.toNat = some sa ∧ t.shape f.b.toNat = some sb ∧
    tileMnk (f.sub.getLsbD 0) (f.sub.getLsbD 1) sa sb = some (m, n, k) ∧
    ∃ x y need may, pathOf f.mmt sa.ty sb.ty = some (x, y, need, may) ∧ (f.scales.isSome = true → may = true) ∧
      (need = true → f.scales.isSome = true) ∧
      ∀ u v, f.scales = some (u, v) → scaleOk t u m (ceilDiv k 32) = true ∧ scaleOk t v n (ceilDiv k 32) = true

/-- The task that it posts (R251). -/
def MForm.task (f : MForm) (s : State) (is : Iss) (sa sb : Shape) (m n k : Nat) : Task :=
  { is.task s (.mm f.mmt (f.sub.getLsbD 0) (f.sub.getLsbD 1) f.zero sa.ty sb.ty f.c.toNat m n k (.tile f.a.toNat) (.tile f.b.toNat)
      (f.scales.map (fun e => (.tile e.1, .tile e.2)))) f.prio.toNat (s.scope is.a f.sc) [f.c.toNat]
      ([f.a.toNat, f.b.toNat] ++ (f.scales.elim [] (fun e => [e.1, e.2]))) with
    bar := if f.bar then some f.x0.toNat else none }

/-! ## m.ldacc and m.stacc -/

/-- The rectangle of m.ldacc and m.stacc is valid (R254): the slot, and a shape of 32-bit elements that fits the slot from the row and
the column on. -/
def rectOk (t : Team) (a : RegNo) (x : Nat) (row col : BitVec 7) (sh : Shape) : Prop :=
  a.toNat < t.foot.acc ∧ t.shape x = some sh ∧ (sh.ty = .b32 ∨ sh.ty = .n32 ∨ sh.ty = .f32) ∧ row.toNat + sh.rows ≤ 128 ∧
    col.toNat + sh.cols ≤ 128

/-- The operation of m.ldacc or m.stacc (R254). -/
def rectOp (store : Bool) (a : RegNo) (row col : BitVec 7) (sh : Shape) (o : Opnd) : TaskOp :=
  if store then .stacc a.toNat row.toNat col.toNat sh.rows sh.cols o else .ldacc a.toNat row.toNat col.toNat sh.rows sh.cols o

/-! ## m.enq -/

/-- The task of a record that passes its checks (R248, R249, R252): the operands, scales, slot and tiles that it names, its barrier object, the
futures that it awaits, and whether one of them cancels or fails it. -/
def EnqRec.task (r : EnqRec) (s : State) (is : Iss) : Task :=
  let fl (j : Nat) : Bool := r.flags.testBit j
  let g := ceilDiv r.k 32
  let scales : Option (Opnd × Opnd) :=
    if fl 2 then some (opndOf (if fl 5 then 1 else 2) r.scaddr g 0, opndOf (if fl 5 then 1 else 2) (r.scaddr + r.m * g) g 0) else none
  { is.task s (.mm (r.kind == 1) (fl 0) (fl 1) (fl 3) r.tya r.tyb r.acc r.m r.n r.k (opndOf r.srca r.addra r.stra r.swza)
      (opndOf r.srcb r.addrb r.strb r.swzb) scales) r.prio (s.scope is.a (BitVec.ofNat 3 r.sc)) [r.acc]
      ((if r.srca = 0 then [r.addra % 8] else []) ++ (if r.srcb = 0 then [r.addrb % 8] else [])) with
    bar := if fl 4 then some r.bar else none
    wait := (r.futs.filter (fun x => s.awaitOf x = 3)).map handleSite, gens := s.gensOf (coreOf is.a) r.globalRows
    cancel := r.futs.any (fun x => s.awaitOf x = 1), fail := if r.futs.any (fun x => s.awaitOf x = 2) then some Code.handle else none }

/-! ## Rick instructions -/

/-- Every rick instruction: header, length, scalar sources, destination and rick (R263). -/
def rickHead : Instr → Option (Hdr × Nat × List Use × RegNo × Nat)
  | .eRkinit h _ d a rick _ _ => some (h, 16, [.s a], d, rick.toNat)
  | .eRkstep h sub d b rick _ _ => some (h, 12, if sub.getLsbD 0 then [.s b] else [], d, rick.toNat)
  | .eRkread h _ d _ rick _ _ | .eRkld h d _ rick _ _ | .eRkst h d _ rick _ _ => some (h, 12, [], d, rick.toNat)
  | .eRksave h sub d a rick _ _ | .eRkrest h sub d a rick _ _ => some (h, 16, if sub = 2 then [] else [.s a], d, rick.toNat)
  | .eRkstat h d rick _ => some (h, 8, [], d, rick.toNat)
  | _ => none

/-- The slots that an operation on a rick names: those of its bindings, and its own (R261). -/
def Iss.rickNames (is : Iss) (s : State) (t : Team) (k : Nat) (own : List Nat) : List Nat :=
  (s.rickSlots (quadOf is.a) is.c.team k t ++ own).eraseDups

/-- A rick instruction whose only operands are its rick and a slot: header, length, destination, rick, slot, operation and priority. -/
def rickForm : Instr → Option (Hdr × RegNo × Nat × Nat × TaskOp × Nat)
  | .eRkread h sub d a rick prio mask =>
    some (h, d, rick.toNat, a.toNat, .rkread rick.toNat a.toNat (sub == 1) mask.toNat, prio.toNat)
  | .eRkld h d a rick prio rung => some (h, d, rick.toNat, a.toNat, .rkld rick.toNat a.toNat rung.toNat, prio.toNat)
  | .eRkst h d a rick prio rung => some (h, d, rick.toNat, a.toNat, .rkst rick.toNat a.toNat rung.toNat, prio.toNat)
  | _ => none

/-- A checkpoint instruction: whether it restores, header, SUB, destination, address, rick, priority and X1 (R272, R273). -/
def checkForm : Instr → Option (Bool × Hdr × BitVec 2 × RegNo × RegNo × Nat × Nat × RkX)
  | .eRksave h sub d a rick prio rx => some (false, h, sub, d, a, rick.toNat, prio.toNat, rx)
  | .eRkrest h sub d a rick prio rx => some (true, h, sub, d, a, rick.toNat, prio.toNat, rx)
  | _ => none

/-- The image slots of a checkpoint instruction (R271). -/
def imageSlots (sub : BitVec 2) (rx : RkX) : List Nat := if sub = 2 then (List.range (rx.icnt.toNat + 1)).map (rx.isl.toNat + ·) else []
/-- The slots that it names besides those of the bindings: the image's, and for a restore F to F + 15 where the team has them. -/
def checkOwn (rest : Bool) (t : Team) (sub : BitVec 2) (rx : RkX) : List Nat :=
  imageSlots sub rx ++ if rest then ((List.range 16).map (rx.f.toNat + ·)).filter (· < t.foot.acc) else []
/-- The operation of a checkpoint instruction, with where a global image of unknown length first fails a check (R265; log 151). -/
def checkOp (rest : Bool) (k : Nat) (sub : BitVec 2) (addr : Nat) (rx : RkX) (bad : Option (Nat × Nat)) : TaskOp :=
  if rest then .rkrest k sub.toNat addr rx.isl.toNat rx.icnt.toNat rx.f.toNat bad
  else .rksave k sub.toNat addr rx.isl.toNat rx.icnt.toNat bad

/-- A range of the local store that a rick instruction names is aligned and lies in a window (R265). -/
def Iss.rangeOk (is : Iss) (s : State) (addr n : Nat) : Prop := addr % 16 = 0 ∧ (s.lsRow is.c.team 0 addr n).isSome = true

/-- The range of c.ctenr in pieces, as the core's remap filter rewrites it (R98, R132). -/
def Iss.enrollPieces (is : Iss) (s : State) (a b : RegNo) : List (Nat × Nat × Nat) :=
  canonPieces (s.core (coreOf is.a)).filters (vaOf (is.s a)) (is.s b).toNat

/-- A range that c.ctenr takes (R132): 64 KiB blocks within one arena, whose base the core's remap filter places at `base`, every piece
in a live arena of type N. -/
def Iss.enrollOk (is : Iss) (s : State) (a b : RegNo) (base k : Nat) : Prop :=
  let va := vaOf (is.s a)
  let n := (is.s b).toNat
  va % 65536 = 0 ∧ n ≠ 0 ∧ n % 65536 = 0 ∧ offOf va + n ≤ 2 ^ 44 ∧ base = is.canon s va ∧ base % 65536 = 0 ∧ offOf base + n ≤ 2 ^ 44 ∧
    (∀ p ∈ is.enrollPieces s a b, checkAttr (arenaOf p.1) (s.attr (coreOf is.a) (arenaOf p.1)) false false = none ∧
      (s.attr (coreOf is.a) (arenaOf p.1)).typ = Arn.typN) ∧ k = n / 65536

/-! ## What the device does of its own accord -/

/-- No access of the device's own waits for a translation under a number (R96). -/
def State.unawaited (s : State) (die tag : Nat) : Prop := ∀ r ∈ s.reqs, ¬ (r.core = sliceCore die ∧ r.op = .fetch ∧ r.pend = some tag)

/-- An uncorrectable error of a target may be found on a die: the die is live, and the site one that an error record names, where the target
lies (R119, R395). -/
def State.eccAllowed (s : State) (die : Nat) (site : EccSite) (target : EccTarget) : Prop :=
  die < 24 ∧ (s.die die).live = true ∧ siteOk site = true ∧ eccIn target die site = true

end Sys2Proof.Machine
end

