-- ==== Sys2Proof/Certificates/Slice0/Obligations.lean ====
section
/-! DEFINITION. The statements for the provers. -/

open Sys2Proof Sys2Proof.Machine

/-- R206 to R210, R213, R196, R194: a scalar instruction that is ready writes its result to sD (s63 discards it), moves on, and
changes no other register, flag, special register, counter or byte of memory. -/
def Obligations.ScalarResult : Prop :=
  ∀ (i : Instr) (s : State) (is : Iss) (h : Hdr) (len : Nat) (rd : List Use) (d : RegNo),
    scalarForm i = some (h, len, rd, d) → s.ready .all h len { rd := rd, wr := [.s d] } = some is →
    ∃ t c, exec i s = .next t ∧ MovesOn s t is c ∧
      (∀ n, c.sget n = if n = d.toNat ∧ n ≠ 63 then scalarValue is i else is.c.sget n) ∧
      SameK is.c c [] ∧ SameV is.c c ∧ SameF is.c c ∧ c.rest = is.c.rest ∧ t.rest = s.rest ∧
      (is.c.tags.find d.toNat = none → t.quads = s.quads)

/-- The bits that a writable special register keeps of a value (R197). -/
def srMask (code : Nat) : Option W64 :=
  match code with
  | 0x08 => some 0x1F
  | 0x09 => some 0x7
  | 0x0A | 0x0B | 0x0C => some 0x00FFFFFFFFFFFFFC
  | 0x0D | 0x11 | 0x12 => some (BitVec.allOnes 64)
  | 0x0E => some 0x1F
  | 0x0F => some 0xFF
  | 0x16 | 0x17 => some 1
  | _ => none

/-- R197, R211, R414: s.wrsr writes the defined bits of the special register that D names, no other special register and no
register; in a stoker it only moves on. s.rdsr reads the register into sD. -/
def Obligations.SpecialRegisters : Prop :=
  (∀ (s : State) (is : Iss) (h : Hdr) (d a : RegNo) (m : W64),
    srMask d.toNat = some m → isStoker is.a = false → s.ready .all h 8 { rd := [.s a], wr := [] } = some is →
    ∃ t c, exec (.sWrsr h d a) s = .next t ∧ MovesOn s t is c ∧ t.readSr is.a c d.toNat = is.s a &&& m ∧
      (∀ e, e ≠ d.toNat → t.readSr is.a c e = s.readSr is.a is.c e) ∧
      SameS is.c c [] ∧ SameK is.c c [] ∧ SameV is.c c ∧ SameF is.c c ∧ t.rest = s.rest ∧ t.quads = s.quads) ∧
  (∀ (s : State) (is : Iss) (h : Hdr) (d a : RegNo),
    isStoker is.a = true → s.ready .all h 8 { rd := [.s a], wr := [] } = some is →
    exec (.sWrsr h d a) s = .next (s.retire is)) ∧
  (∀ (s : State) (is : Iss) (h : Hdr) (d a : RegNo),
    s.ready .all h 8 { rd := [], wr := [.s d] } = some is →
    ∃ t c, exec (.sRdsr h d a) s = .next t ∧ MovesOn s t is c ∧
      (∀ n, c.sget n = if n = d.toNat ∧ n ≠ 63 then s.readSr is.a is.c a.toNat else is.c.sget n) ∧
      SameK is.c c [] ∧ SameV is.c c ∧ SameF is.c c ∧ c.rest = is.c.rest ∧ t.rest = s.rest)

/-- R213 (R196): s.wrk writes all 64 bits of kD (k0 discards the write) and nothing else; in a stoker, whose mask registers ignore
writes (R413, R414), it only moves on. s.rdk reads a mask register into sD. -/
def Obligations.MaskWrite : Prop :=
  (∀ (s : State) (is : Iss) (h : Hdr) (d a : RegNo),
    isStoker is.a = false → s.ready .all h 8 { rd := [.s a], wr := [.k d] } = some is →
    ∃ t c, exec (.sWrk h d a) s = .next t ∧ MovesOn s t is c ∧
      (∀ n, c.kget n = if n = d.toNat ∧ n ≠ 0 then is.s a else is.c.kget n) ∧
      SameS is.c c [] ∧ SameV is.c c ∧ SameF is.c c ∧ c.rest = is.c.rest ∧ t.rest = s.rest ∧ t.quads = s.quads) ∧
  (∀ (s : State) (is : Iss) (h : Hdr) (d a : RegNo),
    isStoker is.a = true → s.ready .all h 8 { rd := [.s a], wr := [.k d] } = some is →
    exec (.sWrk h d a) s = .next (s.retire is)) ∧
  (∀ (s : State) (is : Iss) (h : Hdr) (d a : RegNo),
    s.ready .all h 8 { rd := [.k a], wr := [.s d] } = some is →
    ∃ t c, exec (.sRdk h d a) s = .next t ∧ MovesOn s t is c ∧
      (∀ n, c.sget n = if n = d.toNat ∧ n ≠ 63 then is.k a else is.c.sget n) ∧ SameK is.c c [] ∧ t.rest = s.rest)

/-- R212, R234: s.movc with SUB 0 stores bits 22 to 0 of sA in the tile configuration D of the team, with another SUB it reads the
configuration A; a number at or above the team's TILES faults TILE_SHAPE. The MASK of that fault is the model's reading, log 56. -/
def Obligations.TileConfiguration : Prop :=
  (∀ (s : State) (is : Iss) (h : Hdr) (d a : RegNo) (tm : Team),
    s.ready .wave h 8 { rd := [.s a], wr := [] } = some is → s.teams.find is.c.team = some tm → d.toNat < tm.foot.tiles →
    ∃ t c m, exec (.sMovc h 0 d a) s = .next t ∧ MovesOn s t is c ∧ t.teams.find is.c.team = some m ∧
      (∀ n, AMap.get 0 m.tcfg n = if n = d.toNat then BitVec.ofNat 32 ((is.s a).toNat % 2 ^ 23) else AMap.get 0 tm.tcfg n) ∧
      { m with tcfg := tm.tcfg } = tm ∧ (∀ k, k ≠ is.c.team → t.teams.find k = s.teams.find k) ∧ t.mem = s.mem) ∧
  (∀ (s : State) (is : Iss) (h : Hdr) (sub : BitVec 2) (d a : RegNo) (tm : Team),
    sub ≠ 0 → s.ready .wave h 8 { rd := [], wr := [.s d] } = some is → s.teams.find is.c.team = some tm →
    a.toNat < tm.foot.tiles →
    ∃ t c, exec (.sMovc h sub d a) s = .next t ∧ MovesOn s t is c ∧
      (∀ n, c.sget n = if n = d.toNat ∧ n ≠ 63 then BitVec.ofNat 64 (AMap.get 0 tm.tcfg a.toNat).toNat else is.c.sget n)) ∧
  (∀ (s : State) (is : Iss) (h : Hdr) (d a : RegNo) (tm : Team),
    s.ready .wave h 8 { rd := [.s a], wr := [] } = some is → s.teams.find is.c.team = some tm → tm.foot.tiles ≤ d.toNat →
    exec (.sMovc h 0 d a) s = .next (s.except is (is.fault0 Code.tileShape))) ∧
  (∀ (s : State) (is : Iss) (h : Hdr) (sub : BitVec 2) (d a : RegNo) (tm : Team),
    sub ≠ 0 → s.ready .wave h 8 { rd := [], wr := [.s d] } = some is → s.teams.find is.c.team = some tm →
    tm.foot.tiles ≤ a.toNat → exec (.sMovc h sub d a) s = .next (s.except is (is.fault0 Code.tileShape)))

/-- R26, R32, R337, R338: a branch that is taken to a target of whole parcels sets the fragment's PC to it, with the link of
b.call in sD; one that is not taken, or that no thread passes, moves on. A branch to a target that is no multiple of 4 stops the
wave with ALIGN at the branch, the target being the address; the link is not written. -/
def Obligations.Branches : Prop :=
  ((∀ (i : Instr) (s : State) (is : Iss) (h : Hdr) (len : Nat) (rd : List Use) (link : Option RegNo) (x : W64),
    branchForm i = some (h, len, rd, link) → s.ready .all h len (branchUses rd link) = some is →
    branchDest is i = some x → x.toNat % 4 = 0 →
    ∃ t c, exec i s = .next t ∧ t.ctx? is.a = some c ∧
      c.rec? is.fid = some { is.fr with pc := x &&& 0x00FFFFFFFFFFFFFF } ∧
      (∀ j, j ≠ is.fid → c.rec? j = is.c.rec? j) ∧ (∀ b, ctxKey b ≠ ctxKey is.a → t.ctx? b = s.ctx? b) ∧
      (∀ n, c.sget n = if link.map (·.toNat) = some n ∧ n ≠ 63 then is.pc + 12 else is.c.sget n) ∧
      SameK is.c c [] ∧ SameV is.c c ∧ SameF is.c c ∧ c.rest = is.c.rest ∧ t.rest = s.rest) ∧
  (∀ (i : Instr) (s : State) (is : Iss) (h : Hdr) (len : Nat) (rd : List Use) (link : Option RegNo),
    branchForm i = some (h, len, rd, link) → s.ready .all h len (branchUses rd link) = some is →
    branchDest is i = none → exec i s = .next (s.retire is)) ∧
  (∀ (i : Instr) (s : State) (is : Iss) (h : Hdr) (len : Nat) (rd : List Use) (link : Option RegNo),
    branchForm i = some (h, len, rd, link) → s.iss? h len = some is → is.check .all (branchUses rd link) = .ok () → is.p = 0 →
    exec i s = .next (s.retire is))) ∧
  (∀ (i : Instr) (s : State) (is : Iss) (h : Hdr) (len : Nat) (rd : List Use) (link : Option RegNo) (x : W64),
    branchForm i = some (h, len, rd, link) → s.ready .all h len (branchUses rd link) = some is →
    branchDest is i = some x → x.toNat % 4 ≠ 0 →
    exec i s = .next (s.except is (is.fault Code.align (x.toNat % 2 ^ 56) is.fr.mask)))

/-- R350: b.trap with UTACT = 0 saves PC, PC + 8, the passing threads, cause 0 and CODE, sets UTACT, and goes to UTVEC; with UTACT
= 1 it is UT_NEST. b.tret clears UTACT and resumes the fragment that trapped at UTNEXT; with UTACT = 0 it faults IIL. While UTACT
= 1 only the fragment that trapped may issue. Where the manual leaves a point open the model's reading is that of
log 18. -/
def Obligations.UserTraps : Prop :=
  (∀ (s : State) (is : Iss) (h : Hdr) (code : BitVec 8),
    s.ready .wave h 8 { rd := [], wr := [] } = some is → is.c.utact = false →
    ∃ t c, exec (.bTrap h code) s = .next t ∧ t.ctx? is.a = some c ∧
      c.utpc = is.pc ∧ c.utnext = is.pc + 8 ∧ c.utlanes = is.p ∧ c.utcause = 0 ∧ c.utdst = code ∧ c.utact = true ∧
      c.utfrag = is.fid ∧ c.rec? is.fid = some { is.fr with pc := is.c.utvec &&& 0x00FFFFFFFFFFFFFF } ∧
      SameS is.c c [] ∧ SameK is.c c [] ∧ SameV is.c c ∧ SameF is.c c ∧ t.rest = s.rest) ∧
  (∀ (s : State) (is : Iss) (h : Hdr) (code : BitVec 8),
    s.ready .wave h 8 { rd := [], wr := [] } = some is → is.c.utact = true →
    ∃ t c st, exec (.bTrap h code) s = .next t ∧ t.ctx? is.a = some c ∧ c.stop = some st ∧ st.code = Code.utNest ∧
      st.pc = is.pc ∧ SameS is.c c [] ∧ c.split = is.c.split) ∧
  (∀ (s : State) (is : Iss) (h : Hdr),
    s.ready .all h 8 { rd := [], wr := [] } = some is → is.c.utact = true →
    ∃ t c, exec (.bTret h) s = .next t ∧ t.ctx? is.a = some c ∧ c.utact = false ∧
      (∀ r, is.c.rec? is.c.utfrag = some r →
        c.rec? is.c.utfrag = some { r with pc := is.c.utnext &&& 0x00FFFFFFFFFFFFFF }) ∧
      SameS is.c c [] ∧ SameK is.c c [] ∧ SameV is.c c ∧ SameF is.c c ∧ t.rest = s.rest) ∧
  (∀ (s : State) (is : Iss) (h : Hdr),
    s.ready .all h 8 { rd := [], wr := [] } = some is → is.c.utact = false →
    exec (.bTret h) s = .next (s.except is (is.fault0 Code.iil))) ∧
  (∀ (c : Ctx) (fid : Nat), c.utact = true → c.canIssue fid = true → fid = c.utfrag)

/-- R25, R349, R351, R344, R345, R348: PAD4 steps over four bytes; b.nop only moves on; b.dbg stops the wave with BREAK and CODE,
its PC beyond the instruction; b.meld makes the fragment melded with BASE and gives its threads their path ids; b.unmeld ends
that, and outside a region faults IIL; b.mtab loads the rename table, a byte at or above NREG being IIL. Where the manual leaves a point open the
model's reading is that of log 147. -/
def Obligations.PlainControl : Prop :=
  (∀ (s : State) (c : Ctx) (r : SplitRec), s.ctx? s.cur = some c → c.rec? s.frag = some r →
    ∃ t d, exec .pad4 s = .next t ∧ t.ctx? s.cur = some d ∧
      d = { c with split := c.split.put s.frag { r with pc := (r.pc + 4) &&& 0x00FFFFFFFFFFFFFF } } ∧ t.rest = s.rest) ∧
  (∀ (s : State) (is : Iss) (h : Hdr), s.ready .all h 8 { rd := [], wr := [] } = some is →
    exec (.bNop h) s = .next (s.retire is)) ∧
  (∀ (s : State) (is : Iss) (h : Hdr) (code : BitVec 8), s.ready .all h 8 { rd := [], wr := [] } = some is →
    ∃ t c st, exec (.bDbg h code) s = .next t ∧ t.ctx? is.a = some c ∧ c.stop = some st ∧ st.code = Code.brk ∧
      st.prec = false ∧ st.pc = is.pc ∧ st.addr = code.toNat ∧ c.rec? is.fid = some { is.fr with pc := is.next } ∧
      SameS is.c c []) ∧
  (∀ (s : State) (is : Iss) (h : Hdr) (code : BitVec 8), s.iss? h 8 = some is →
    is.check .all { rd := [], wr := [] } = .ok () → is.p = 0 → exec (.bDbg h code) s = .next (s.retire is)) ∧
  (∀ (s : State) (is : Iss) (h : Hdr) (a b : RegNo) (base : BitVec 3),
    s.ready { Perm.wave with noMeld := true } h 12 { rd := [.k a, .k b], wr := [] } = some is →
    ∃ t c, exec (.bMeld h a b base) s = .next t ∧ t.ctx? is.a = some c ∧
      c.rec? is.fid = some { is.fr with meld := true, bsel := base, pc := is.next } ∧
      c.paths = meldPaths is.c.paths is.fr.mask (is.k a) (is.k b) ∧ SameS is.c c [] ∧ SameV is.c c ∧ t.rest = s.rest) ∧
  (∀ (s : State) (is : Iss) (h : Hdr), s.ready .all h 8 { rd := [], wr := [] } = some is → is.fr.meld = true →
    ∃ t c, exec (.bUnmeld h) s = .next t ∧ t.ctx? is.a = some c ∧
      c.rec? is.fid = some { is.fr with meld := false, pc := is.next } ∧ c.paths = is.c.paths ∧ SameS is.c c [] ∧ SameV is.c c ∧
      t.rest = s.rest) ∧
  (∀ (s : State) (is : Iss) (h : Hdr), s.ready .all h 8 { rd := [], wr := [] } = some is → is.fr.meld = false →
    exec (.bUnmeld h) s = .next (s.except is (is.fault0 Code.iil))) ∧
  (∀ (s s1 : State) (is : Iss) (h : Hdr) (sub : BitVec 2) (a : RegNo) (imm : BitVec 32) (l : List Byte),
    s.ready .wave h 12 { rd := if sub = 0 then [.s a] else [], wr := [] } = some is → is.quiet s →
    s.readRecord is ((if sub = 0 then is.s a else is.pc) + imm.signExtend 64) 128 128 = .ok (l, false, s1) →
    l.all (fun b => b.toNat < is.c.nreg) = true →
    ∃ t c, exec (.bMtab h sub a imm) s = .next t ∧ MovesOn s t is c ∧ c.mtab = BitVec.ofNat 1024 (ofLe l) ∧
      SameS is.c c [] ∧ SameK is.c c [] ∧ SameV is.c c ∧ SameF is.c c ∧ t.rest = s1.rest) ∧
  (∀ (s s1 : State) (is : Iss) (h : Hdr) (sub : BitVec 2) (a : RegNo) (imm : BitVec 32) (l : List Byte),
    s.ready .wave h 12 { rd := if sub = 0 then [.s a] else [], wr := [] } = some is → is.quiet s →
    s.readRecord is ((if sub = 0 then is.s a else is.pc) + imm.signExtend 64) 128 128 = .ok (l, false, s1) →
    l.any (fun b => is.c.nreg ≤ b.toNat) = true →
    exec (.bMtab h sub a imm) s = .next (s.except is (is.fault0 Code.iil)))

/-- R349, R203: b.wcnt only moves on where every counter is at or below its limit, and else the wave is parked behind it with
those limits, its place in the wait, and the fragment that waits; nothing else changes: no counter, outstanding result, special register, tag or
future. -/
def Obligations.WaitForCounters : Prop :=
  ∀ (s : State) (is : Iss) (h : Hdr) (ldc stc xc ec : BitVec 6), s.ready .all h 8 { rd := [], wr := [] } = some is →
    let done : Prop := is.c.ldc ≤ ldc.toNat ∧ is.c.stc ≤ stc.toNat ∧ is.c.xc ≤ xc.toNat ∧ is.c.ec ≤ ec.toNat
    (done → exec (.bWcnt h ldc stc xc ec) s = .next (s.retire is)) ∧
    ∃ t c, exec (.bWcnt h ldc stc xc ec) s = .next t ∧ MovesOn s t is c ∧
      (done → c.rest = is.c.rest) ∧
      (¬ done → c.park = .wcnt ldc.toNat stc.toNat xc.toNat ec.toNat ∧ c.frag = is.fid ∧
        { c.rest with park := is.c.park, parkedAt := is.c.parkedAt, frag := is.c.frag } = is.c.rest) ∧
      c.tags = is.c.tags ∧ SameS is.c c [] ∧ SameK is.c c [] ∧ SameV is.c c ∧ SameF is.c c ∧ t.rest = s.rest ∧ t.quads = s.quads

/-- R339, R340, R342: b.split replaces the fragment by a HOLD record with its threads, the rejoin PC and its old RJ, and makes two READY fragments
that are bound to it, of the threads that take the branch and of those that fall through; where no thread or every thread takes it the fragment only
moves, and with 8 fragments, or an address it uses not a multiple of 4, it faults NEST or ALIGN. b.join parks the fragment that stands at its
rejoin PC and resolves joins, and b.exit ends the passing threads; where a rule names no split or join they only move on. R142,
R143, R342: b.exit by the wave's last threads with the guard latch set stops the wave with GUARD: the record names the touch, and
no thread exits. Where the manual leaves a point open the model's reading is that of
log 20. -/
def Obligations.SplitAndJoin : Prop :=
  ((∀ (s : State) (is : Iss) (h : Hdr) (a : RegNo) (x0 x1 : BitVec 32),
    s.ready { Perm.wave with noMeld := true } h 16 { rd := [.k a], wr := [] } = some is → is.c.utact = false →
    is.p &&& is.k a ≠ 0 → is.fr.mask &&& ~~~(is.p &&& is.k a) ≠ 0 →
    (is.pc + x0.signExtend 64).toNat % 4 = 0 → (is.pc + x1.signExtend 64).toNat % 4 = 0 → fragCount (s.recs is.c) < 8 →
    exec (.bSplit h a x0 x1) s = .next (((s.setCtx is.a { is.c with age := is.c.age + 1 }).putRecs is.a
      (splitRecs (s.recs is.c) is.fid is.fr (is.c.age + 1) (is.p &&& is.k a) (is.pc + x0.signExtend 64) (is.pc + 16)
        (is.pc + x1.signExtend 64))).afterIssue is)) ∧
  (∀ (s : State) (is : Iss) (h : Hdr) (a : RegNo) (x0 x1 : BitVec 32),
    s.ready { Perm.wave with noMeld := true } h 16 { rd := [.k a], wr := [] } = some is → is.c.utact = false →
    let t0 := is.p &&& is.k a
    let n0 := is.fr.mask &&& ~~~t0
    let tpc := is.pc + x0.signExtend 64
    let jpc := is.pc + x1.signExtend 64
    (t0 = 0 → exec (.bSplit h a x0 x1) s = .next (s.retire is)) ∧
    (t0 ≠ 0 → n0 = 0 → tpc.toNat % 4 = 0 →
      ∃ t c, exec (.bSplit h a x0 x1) s = .next t ∧ t.ctx? is.a = some c ∧
        c.rec? is.fid = some { is.fr with pc := tpc &&& 0x00FFFFFFFFFFFFFF } ∧ (∀ j, j ≠ is.fid → c.rec? j = is.c.rec? j) ∧
        SameS is.c c [] ∧ SameK is.c c [] ∧ SameV is.c c ∧ SameF is.c c ∧ c.rest = is.c.rest ∧ t.rest = s.rest) ∧
    (t0 ≠ 0 → n0 = 0 → tpc.toNat % 4 ≠ 0 →
      exec (.bSplit h a x0 x1) s = .next (s.except is (is.fault Code.align (tpc.toNat % 2 ^ 56) is.fr.mask))) ∧
    (t0 ≠ 0 → n0 ≠ 0 → tpc.toNat % 4 = 0 → jpc.toNat % 4 = 0 → 8 ≤ fragCount (s.recs is.c) →
      exec (.bSplit h a x0 x1) s = .next (s.except is (is.fault0 Code.nest))) ∧
    (t0 ≠ 0 → n0 ≠ 0 → fragCount (s.recs is.c) < 8 → tpc.toNat % 4 ≠ 0 → jpc.toNat % 4 = 0 →
      exec (.bSplit h a x0 x1) s = .next (s.except is (is.fault Code.align (tpc.toNat % 2 ^ 56) is.fr.mask))) ∧
    (t0 ≠ 0 → n0 ≠ 0 → fragCount (s.recs is.c) < 8 → tpc.toNat % 4 = 0 → jpc.toNat % 4 ≠ 0 →
      exec (.bSplit h a x0 x1) s = .next (s.except is (is.fault Code.align (jpc.toNat % 2 ^ 56) is.fr.mask))) ∧
    (t0 ≠ 0 → n0 ≠ 0 → fragCount (s.recs is.c) < 8 → tpc.toNat % 4 = 0 → jpc.toNat % 4 = 0 → is.fid < 8 →
      2 ≤ ((List.range 8).filter (isFree (s.recs is.c))).length →
      ∃ t c i j, exec (.bSplit h a x0 x1) s = .next t ∧ t.ctx? is.a = some c ∧ i < 8 ∧ j < 8 ∧ i ≠ j ∧
        isFree (s.recs is.c) i = true ∧ isFree (s.recs is.c) j = true ∧
        (∃ g, c.rec? is.fid = some { st := .hold, bsel := 0, meld := false, rj := is.fr.rj, pc := jpc &&& 0x00FFFFFFFFFFFFFF,
                                     mask := is.fr.mask, age := g }) ∧
        (∃ g, c.rec? i = some { st := .ready, bsel := 0, meld := false, rj := is.fid, pc := tpc &&& 0x00FFFFFFFFFFFFFF,
                                mask := t0, age := g }) ∧
        (∃ g, c.rec? j = some { st := .ready, bsel := 0, meld := false, rj := is.fid, pc := is.next, mask := n0, age := g }) ∧
        (∀ k x, k < 8 → k ≠ is.fid → k ≠ i → k ≠ j → (s.recs is.c).find k = some x → x.st ≠ .free → c.rec? k = some x) ∧
        SameS is.c c [] ∧ SameK is.c c [] ∧ SameV is.c c ∧ SameF is.c c ∧ t.mem = s.mem)) ∧
  (∀ (s : State) (is : Iss) (h : Hdr) (hold : SplitRec) (m : AMap SplitRec),
    s.ready { Perm.wave with noMeld := true } h 8 { rd := [], wr := [] } = some is →
    is.fr.rj ≠ 15 → brokenSpill (s.recs is.c) is.fr.rj = false → (s.recs is.c).find is.fr.rj = some hold →
    hold.st = .hold → hold.pc = is.pc →
    resolveJoins 16 ((s.recs is.c).put is.fid { is.fr with st := .parked, pc := (is.pc + 8) &&& 0x00FFFFFFFFFFFFFF })
      is.c.exited = (m, none) →
    exec (.bJoin h) s = .next ((s.putRecs is.a m).afterIssue is)) ∧
  (∀ (s : State) (is : Iss) (h : Hdr),
    s.ready { Perm.wave with noMeld := true } h 8 { rd := [], wr := [] } = some is → (s.recs is.c).find is.fr.rj = none →
    exec (.bJoin h) s = .next (s.retire is)) ∧
  (∀ (s : State) (is : Iss) (h : Hdr),
    s.ready .wave h 8 { rd := [], wr := [] } = some is → is.c.guard = none →
    (endThreadsRecs (s.recs is.c) (is.c.exited ||| is.p)).2 = none →
    exec (.bExit h) s = .next (((s.advance is).endThreads is.a is.p).afterIssue is))) ∧
  (∀ (s : State) (is : Iss) (h : Hdr) (g : Guard),
    s.ready .wave h 8 { rd := [], wr := [] } = some is → is.c.guard = some g → is.c.exited ||| is.p = BitVec.allOnes 64 →
    ∃ t c st, exec (.bExit h) s = .next t ∧ t.ctx? is.a = some c ∧ c.stop = some st ∧ st.code = Code.guardTouch ∧
      st.prec = false ∧ st.pc = g.pc ∧ st.addr = g.bank * 2 ^ 32 + g.off ∧ c.exited = is.c.exited ∧ c.guard = none)

/-- R205, R214 to R219: a per-thread integer instruction writes its result to the destination of each passing thread, a pair for a
64-bit type; a lane that does not pass keeps every vector register, and nothing else changes. R215, R38 with MD = 0: in the lane
of a passing thread the destination register of a 32-bit result holds it, and every other vector register of the lane reads as
before. -/
def Obligations.VectorResult : Prop :=
  (∀ (i : Instr) (s : State) (is : Iss) (f : VForm),
    vectorForm i = some f → s.ready .wave f.h f.len f.uses = some is →
    ∃ t c, exec i s = .next t ∧ MovesOn s t is c ∧
      c.v = (is.c.wrVs (is.vWrites f.wide f.d (is.p.list.map (fun l => (l, vectorValue is l i))))).v ∧
      (∀ n l, l < 64 → is.p.getLsbD l = false → c.vget n l = is.c.vget n l) ∧
      SameS is.c c [] ∧ SameK is.c c [] ∧ SameF is.c c ∧ c.rest = is.c.rest ∧ t.rest = s.rest ∧ t.quads = s.quads) ∧
  (∀ (i : Instr) (s : State) (is : Iss) (f : VForm) (n l : Nat),
    vectorForm i = some f → f.wide = false → f.h.md = false → s.ready .wave f.h f.len f.uses = some is →
    l < 64 → is.p.getLsbD l = true →
    ∃ t c, exec i s = .next t ∧ t.ctx? is.a = some c ∧
      c.vget n l = if n = f.d.toNat then BitVec.ofNat 32 (vectorValue is l i) else is.c.vget n l)

/-- R216: v.cmp writes the hits of the passing threads to kD, the other bits zero with SUB 0 and kept with another SUB; v.sel
writes vA where the thread's bit of kC is 1, and vB elsewhere. -/
def Obligations.VectorCompare : Prop :=
  (∀ (s : State) (is : Iss) (h : Hdr) (sub : BitVec 2) (t : TField) (d a b : RegNo) (cond : BitVec 4),
    s.ready .wave h 8 { rd := [.v a t.ty.regs, .v b t.ty.regs], wr := [.k d] } = some is →
    let hit (l : Nat) : Bool :=
      let x := t.ty.intOf (is.vw t.ty.is64 a l)
      let y := t.ty.intOf (is.vw t.ty.is64 b l)
      if cond.toNat = 0 then x = y else if cond.toNat = 1 then x ≠ y else if cond.toNat = 2 then x < y
        else if cond.toNat = 3 then x ≤ y else if cond.toNat = 4 then y < x else y ≤ x
    ∃ u c, exec (.vCmp h sub t d a b cond) s = .next u ∧ MovesOn s u is c ∧
      (∀ n, n ≠ d.toNat ∨ n = 0 → c.kget n = is.c.kget n) ∧
      (d ≠ 0 → ∀ l, l < 64 → (c.kget d.toNat).getLsbD l =
        if is.p.getLsbD l then hit l else if sub = 0 then false else (is.c.kget d.toNat).getLsbD l) ∧
      SameS is.c c [] ∧ SameV is.c c ∧ SameF is.c c ∧ c.rest = is.c.rest ∧ u.rest = s.rest) ∧
  (∀ (s : State) (is : Iss) (h : Hdr) (t : TField) (d a b c : RegNo),
    s.ready .wave h 8 { rd := [.v a t.ty.regs, .v b t.ty.regs, .k c], wr := [.v d t.ty.regs] } = some is →
    ∃ u k, exec (.vSel h t d a b c) s = .next u ∧ MovesOn s u is k ∧
      k.v = (is.c.wrVs (is.vWrites t.ty.is64 d (is.p.list.map (fun l =>
        (l, if (is.k c).getLsbD l then is.vw t.ty.is64 a l else is.vw t.ty.is64 b l))))).v ∧
      SameS is.c k [] ∧ SameK is.c k [] ∧ SameF is.c k ∧ u.rest = s.rest)

/-- R183, R218: v.rand writes rand32 of RNGKEY, RNGCTR and the lane to each passing thread and advances RNGCTR by 1, and with no
passing thread leaves it; v.lid writes the lane, or the thread's number in the team. R219: v.clrflag clears the selected sticky
flags of the passing threads, and no other flag. -/
def Obligations.RandomAndFlags : Prop :=
  (∀ (s : State) (is : Iss) (h : Hdr) (d : RegNo),
    s.ready .wave h 8 { rd := [], wr := [.v d 1] } = some is →
    ∃ t c, exec (.vRand h d) s = .next t ∧ MovesOn s t is c ∧
      c.v = (is.c.wrVs (is.vWrites false d (is.p.list.map (fun l => (l, (rand32 is.c.rngkey is.c.rngctr l).toNat))))).v ∧
      c.rngctr = is.c.rngctr + 1 ∧ c.rngkey = is.c.rngkey ∧ SameS is.c c [] ∧ SameK is.c c [] ∧ SameF is.c c ∧
      t.rest = s.rest) ∧
  (∀ (s : State) (is : Iss) (h : Hdr) (d : RegNo),
    s.iss? h 8 = some is → is.check .wave { rd := [], wr := [.v d 1] } = .ok () → is.p = 0 →
    exec (.vRand h d) s = .next (s.retire is)) ∧
  (∀ (s : State) (is : Iss) (h : Hdr) (sub : BitVec 2) (d : RegNo),
    s.ready .wave h 8 { rd := [], wr := [.v d 1] } = some is →
    ∃ t c, exec (.vLid h sub d) s = .next t ∧ MovesOn s t is c ∧
      c.v = (is.c.wrVs (is.vWrites false d (is.p.list.map (fun l => (l, if sub = 0 then l else l + 64 * is.c.widx))))).v ∧
      SameS is.c c [] ∧ SameK is.c c [] ∧ SameF is.c c ∧ c.rest = is.c.rest ∧ t.rest = s.rest) ∧
  (∀ (s : State) (is : Iss) (h : Hdr) (src : Src),
    s.ready .wave h 8 { rd := srcUseV 1 src, wr := [] } = some is →
    ∃ t c, exec (.vClrflag h src) s = .next t ∧ MovesOn s t is c ∧
      (∀ l, l < 64 → c.flag l =
        if is.p.getLsbD l then is.c.flag l &&& ~~~(BitVec.ofNat 5 (is.srcV false l src)) else is.c.flag l) ∧
      SameS is.c c [] ∧ SameK is.c c [] ∧ SameV is.c c ∧ c.rest = is.c.rest ∧ t.rest = s.rest)

/-- The results of a floating-point form in the registers, its flags and the generator: each passing thread's writes, every other register
as before, the flags ORed into each passing thread's, and RNGCTR advanced with SR by the values that a thread rounds. -/
def FloatDone (is : Iss) (i : Instr) (f : FForm) (c : Ctx) : Prop :=
  c.v = (is.c.wrVs (is.p.list.flatMap (floatWrites is i f))).v ∧
    (∀ l, l < 64 → c.flag l = if is.p.getLsbD l then is.c.flag l ||| floatFlags is i l else is.c.flag l) ∧
    c.rngctr = (if f.t.sr then is.c.rngctr + BitVec.ofNat 64 f.k else is.c.rngctr) ∧ SameS is.c c [] ∧ SameK is.c c []

/-- R183, R184, R190, R191, R220 to R222, R385 to R388: f.add, f.sub, f.mul, f.fma, f.min, f.max, f.cvt, f.pack and f.unpack write each
passing thread's results, raise its flags, and with SR advance RNGCTR by the values that a thread rounds. Where no passing thread raises
a flag that FPEN enables, the wave moves on. Where one does, the wave takes the user trap: the instruction's PC, the next PC, exactly the
lanes that raised an enabled flag, the enabled flags that they raised together, the destination field, and the fragment at UTVEC; with
UTACT already 1 it stops with UT_NEST instead, its PC the instruction's. -/
def Obligations.FloatResult : Prop :=
  ∀ (i : Instr) (s : State) (is : Iss) (f : FForm), floatForm i = some f → s.ready .wave f.h f.len f.uses = some is →
    let hit (l : Nat) : Prop := l < 64 ∧ is.p.getLsbD l = true ∧ floatFlags is i l &&& is.c.fpen ≠ 0
    ((∀ l, ¬ hit l) → ∃ u c, exec i s = .next u ∧ MovesOn s u is c ∧ FloatDone is i f c ∧ u.rest = s.rest) ∧
    ((∃ l, hit l) → is.c.utact = false →
      ∃ u c, exec i s = .next u ∧ u.ctx? is.a = some c ∧ FloatDone is i f c ∧ c.utact = true ∧ c.utpc = is.pc ∧
        c.utnext = is.pc + BitVec.ofNat 64 is.len ∧ (∀ l, l < 64 → (c.utlanes.getLsbD l = true ↔ hit l)) ∧
        (∀ j, j < 5 → (c.utcause.getLsbD j = true ↔ ∃ l, hit l ∧ (floatFlags is i l &&& is.c.fpen).getLsbD j = true)) ∧
        c.utdst = f.d ∧ c.utfrag = is.fid ∧ c.rec? is.fid = some { is.fr with pc := is.c.utvec &&& 0x00FFFFFFFFFFFFFF } ∧
        (∀ j, j ≠ is.fid → c.rec? j = is.c.rec? j) ∧ (∀ b, ctxKey b ≠ ctxKey is.a → u.ctx? b = s.ctx? b) ∧ u.mem = s.mem) ∧
    ((∃ l, hit l) → is.c.utact = true →
      ∃ u c st, exec i s = .next u ∧ u.ctx? is.a = some c ∧ FloatDone is i f c ∧ c.stop = some st ∧ st.code = Code.utNest ∧
        st.prec = false ∧ st.pc = is.pc ∧ c.rec? is.fid = some { is.fr with pc := is.next } ∧ u.mem = s.mem)

/-- R223, R224: f.cls writes the class of each passing thread's value and raises no flag. f.cmp writes the outcomes of the passing threads
to kD, the other bits zero with SUB 0 and kept with another SUB, discards a write of k0, and raises the flags of each comparison; where
no passing thread raises a flag that FPEN enables the wave moves on, and else it takes the user trap; with UTACT = 1 it is UT_NEST
once the instruction has completed (R388). -/
def Obligations.FloatForms : Prop :=
  (∀ (s : State) (is : Iss) (h : Hdr) (t : TField) (d a : RegNo),
    s.ready .wave h 8 { rd := [.v a t.ty.regs], wr := [.v d 1] } = some is →
    ∃ u c, exec (.fCls h t d a) s = .next u ∧ MovesOn s u is c ∧
      c.v = (is.c.wrVs (is.vWrites false d (is.p.list.map (fun l => (l, t.ty.fmt.cls (is.vw t.ty.is64 a l)))))).v ∧
      SameS is.c c [] ∧ SameK is.c c [] ∧ SameF is.c c ∧ c.rest = is.c.rest ∧ u.rest = s.rest) ∧
  (∀ (s : State) (is : Iss) (h : Hdr) (sub : BitVec 2) (t : TField) (d a b : RegNo) (cond : BitVec 4),
    s.ready .wave h 8 { rd := [.v a t.ty.regs, .v b t.ty.regs], wr := [.k d] } = some is →
    let r (l : Nat) : Bool × BitVec 5 := t.ty.fmt.cmp cond.toNat (is.vw t.ty.is64 a l) (is.vw t.ty.is64 b l)
    let hit (l : Nat) : Prop := l < 64 ∧ is.p.getLsbD l = true ∧ (r l).2 &&& is.c.fpen ≠ 0
    let wrote (c : Ctx) : Prop := (∀ n, n ≠ d.toNat ∨ n = 0 → c.kget n = is.c.kget n) ∧
      (d ≠ 0 → ∀ l, l < 64 → (c.kget d.toNat).getLsbD l =
        if is.p.getLsbD l then (r l).1 else if sub = 0 then false else (is.c.kget d.toNat).getLsbD l) ∧
      (∀ l, l < 64 → c.flag l = if is.p.getLsbD l then is.c.flag l ||| (r l).2 else is.c.flag l) ∧ SameS is.c c [] ∧ SameV is.c c
    ((∀ l, ¬ hit l) → ∃ u c, exec (.fCmp h sub t d a b cond) s = .next u ∧ MovesOn s u is c ∧ wrote c ∧ u.rest = s.rest) ∧
    ((∃ l, hit l) → is.c.utact = false →
      ∃ u c, exec (.fCmp h sub t d a b cond) s = .next u ∧ u.ctx? is.a = some c ∧ wrote c ∧ c.utact = true ∧ c.utpc = is.pc ∧
        c.utnext = is.pc + BitVec.ofNat 64 is.len ∧ (∀ l, l < 64 → (c.utlanes.getLsbD l = true ↔ hit l)) ∧ c.utdst = d ∧
        c.rec? is.fid = some { is.fr with pc := is.c.utvec &&& 0x00FFFFFFFFFFFFFF } ∧ u.mem = s.mem) ∧
    ((∃ l, hit l) → is.c.utact = true →
      ∃ u c st, exec (.fCmp h sub t d a b cond) s = .next u ∧ u.ctx? is.a = some c ∧ wrote c ∧ c.stop = some st ∧
        st.code = Code.utNest ∧ st.prec = false ∧ st.pc = is.pc ∧ c.rec? is.fid = some { is.fr with pc := is.next } ∧ u.mem = s.mem))

/-- The outstanding result that an instruction enters: its counter, the PC, the writes, the flags and the trap part. -/
def Entered (s t : State) (is : Iss) (k : Ctr) (writes : List RegWrite) (flags : AMap (BitVec 5)) (trap : Option TrapInfo) : Prop :=
  ∃ c, MovesOn s t is c ∧ c.ctr k = is.c.ctr k + 1 ∧
    c.pend = is.c.pend ++ [{ Pend.blank s.uid k is with writes := writes, flags := flags, trap := trap }] ∧
    SameS is.c c [] ∧ SameK is.c c [] ∧ SameV is.c c ∧ SameF is.c c ∧ t.mem = s.mem ∧ t.uid = s.uid + 1

/-- The register writes of known values. -/
def known (l : List (Nat × Nat × W32)) : List RegWrite := l.map (fun e => { reg := .v e.1 e.2.1, val := some e.2.2.toNat })

/-- The write of a scalar register of known value. -/
def knownS (d : RegNo) (v : W64) : List RegWrite := [{ reg := .s d.toNat, val := some v.toNat }]

/-- R204, R225, R199, R202: a function of R225 enters an outstanding result in XC with each passing thread's value, and no register changes
before its return. With FPEN = 0 the flags are ORed into each passing thread's at once (the model's reading, log 127); with another FPEN
the result carries them, with what a trap at its return needs. R202: an instruction whose counter stands at 63 waits at issue: nothing
changes. Where the manual leaves a point open the model's reading is that of log 5, 19. -/
def Obligations.LongLatency : Prop :=
  (∀ (i : Instr) (s : State) (is : Iss) (h : Hdr) (t : TField) (d : RegNo) (srcs : List RegNo),
    longForm i = some (h, t, d, srcs) →
    s.ready .wave h 8 { rd := srcs.map (fun r => .v r t.ty.regs), wr := [.v d t.ty.regs] } = some is → is.c.xc < 63 →
    let writes := known (is.vWrites t.ty.is64 d (is.p.list.map (fun l => (l, (longLane is i t srcs l).1))))
    (is.c.fpen ≠ 0 → ∃ u, exec i s = .next u ∧
      Entered s u is .xc writes (is.p.list.map (fun l => (l, (longLane is i t srcs l).2)))
        (some { frag := is.fid, len := is.len, d := d.toNat })) ∧
    (is.c.fpen = 0 → ∃ u c, exec i s = .next u ∧ MovesOn s u is c ∧ c.xc = is.c.xc + 1 ∧
      c.pend = is.c.pend ++ [{ Pend.blank s.uid .xc is with writes := writes }] ∧
      (∀ l, l < 64 → c.flag l = if is.p.getLsbD l then is.c.flag l ||| (longLane is i t srcs l).2 else is.c.flag l) ∧
      SameS is.c c [] ∧ SameK is.c c [] ∧ SameV is.c c ∧ u.mem = s.mem)) ∧
  ((∀ (i : Instr) (s : State) (is : Iss) (h : Hdr) (t : TField) (d : RegNo) (srcs : List RegNo),
    longForm i = some (h, t, d, srcs) →
    s.ready .wave h 8 { rd := srcs.map (fun r => .v r t.ty.regs), wr := [.v d t.ty.regs] } = some is → 63 ≤ is.c.xc →
    exec i s = .next s) ∧
  (∀ (i : Instr) (s : State) (is : Iss) (f : VForm),
    crossFormV i = some f → s.ready .wave f.h f.len f.uses = some is → 63 ≤ is.c.xc → exec i s = .next s))

/-- R226 to R230, R232: a cross-lane instruction enters its values in XC, the results for the empty set among them where the rules
give one; no register changes before the return. R188, R231: x.red enters the log-step reduction of the 64 lanes' values, with the
identity for a lane that does not pass; x.scan enters for each passing thread the inclusive or exclusive scan. -/
def Obligations.CrossLane : Prop :=
  ((∀ (i : Instr) (s : State) (is : Iss) (f : VForm),
    crossFormV i = some f → s.ready .wave f.h f.len f.uses = some is → is.c.xc < 63 →
    ∃ t, exec i s = .next t ∧ Entered s t is .xc (known (is.vWrites f.wide f.d (crossValuesV is i))) [] none) ∧
  (∀ (i : Instr) (s : State) (is : Iss) (pm : Perm) (h : Hdr) (rd : List Use) (d : RegNo),
    crossFormS i = some (pm, h, rd, d) → s.ready pm h 8 { rd := rd, wr := [.s d] } = some is → is.c.xc < 63 →
    ∃ t, exec i s = .next t ∧ Entered s t is .xc (knownS d (crossValueS is i)) [] none)) ∧
  ((∀ (s : State) (is : Iss) (h : Hdr) (t : TField) (d a : RegNo) (opr : BitVec 3),
    s.ready { Perm.wave with onEmpty := true } h 8 { rd := [.x a t.ty.regs], wr := [.s d] } = some is → is.c.xc < 63 →
    let r := reduce t.ty opr 6 (is.laneVals t.ty opr a) 0
    ∃ u, exec (.xRed h t d a opr) s = .next u ∧
      Entered s u is .xc (knownS d (redScalar t.ty r.1))
        (if r.2 = 0 then [] else is.p.list.map (fun l => (l, r.2))) none) ∧
  (∀ (s : State) (is : Iss) (h : Hdr) (sub : BitVec 2) (t : TField) (d a : RegNo) (opr : BitVec 3),
    s.ready .wave h 8 { rd := [.x a t.ty.regs], wr := [.v d t.ty.regs] } = some is → is.c.xc < 63 →
    let r := scanAll t.ty opr (List.range 6) (is.laneVals t.ty opr a) 0
    ∃ u, exec (.xScan h sub t d a opr) s = .next u ∧
      Entered s u is .xc (known (is.vWrites t.ty.is64 d (is.p.list.map (fun l =>
          (l, if sub = 0 then r.1.getD l 0 else if l = 0 then identity t.ty opr else r.1.getD (l - 1) 0)))))
        (if r.2 = 0 then [] else is.p.list.map (fun l => (l, r.2))) none))

/-- The magnitudes of the elements of the passing threads' operands, as f.amax takes them (R192, R193). -/
def amaxCodes (is : Iss) (t : TField) (a : RegNo) : List Nat :=
  is.p.list.flatMap (fun l => (elems t.ty (is.v a l).toNat).map (amaxOf t.ty))

/-- R192, R193: f.amax sends one update towards the quad's table, counted in EC: bit 31 where an element is a NaN, and in the other bits the
largest magnitude of the elements of the passing threads, as the bits of an f32. The table itself changes only when the update is
applied, and no register changes. Where the manual leaves a point open the model's reading is that of
log 20. -/
def Obligations.AmaxUpdate : Prop :=
  ∀ (s : State) (is : Iss) (h : Hdr) (t : TField) (a : RegNo) (src : Src),
    s.ready .wave h 8 { rd := .v a t.ty.regs :: srcUseS src, wr := [] } = some is → is.c.ec < 63 →
    ∃ u, exec (.fAmax h t a src) s = .next u ∧ Entered s u is .ec [] [] none ∧
      (u.quad (quadOf is.a)).amax = (s.quad (quadOf is.a)).amax ∧
      ∃ w : W32, (u.quad (quadOf is.a)).amaxQ = (s.quad (quadOf is.a)).amaxQ ++ [(s.uid, is.a, s.uid, is.amaxEntry src, w)] ∧
        (w.getLsbD 31 = true ↔ ∃ x ∈ amaxCodes is t a, x / 2 ^ 31 % 2 = 1) ∧
        (∀ x ∈ amaxCodes is t a, x % 2 ^ 31 ≤ w.toNat % 2 ^ 31) ∧
        (w.toNat % 2 ^ 31 = 0 ∨ ∃ x ∈ amaxCodes is t a, w.toNat % 2 ^ 31 = x % 2 ^ 31)

/-- R137, R141, R147 to R149, R151: an l-class instruction of threads whose bytes lie in a window, aligned, with nothing to wait for and a
counter with room, latches the guard granules that it touches and then reads or writes each passing thread's bytes in increasing lane
order: l.ld enters them in LDC; l.st and l.fill store them and enter in STC; l.atom and l.cas replace each location and enter the old
values in LDC; l.swz sets the granule's tag and enters in STC, with no latch. Where a passing thread's bytes leave the window the wave
stops with LS_RANGE instead; where they do not but an address is not aligned, with ALIGN; the record names the offending threads and the
lowest one's address. Where the manual leaves a point open the model's reading is that of log 16, 113, 114, 148. -/
def Obligations.LocalAccess : Prop :=
  ((∀ (s : State) (is : Iss) (h : Hdr) (vadr sx : Bool) (d a : RegNo) (sz : BitVec 3) (imm : BitVec 32) (f : LForm),
    localForm (.lLd h vadr sx d a sz imm) = some f → s.ready .wave h 12 f.uses = some is → f.passes s is → is.c.ldc < 63 →
    exec (.lLd h vadr sx d a sz imm) s = .next (State.retire ((f.spots s is).foldl (fun u e =>
        u.mapPend is.a (f.touched s is).uid (fun p => p.fill e.1 (szBytes sz) sx (u.lsRead e.2.ref e.2.off (szBytes sz))))
      ((f.touched s is).enter is (is.loadPend (f.touched s is).uid d sz []))) is)) ∧
  (∀ (s : State) (is : Iss) (h : Hdr) (vadr : Bool) (a b : RegNo) (sz : BitVec 3) (imm : BitVec 32) (f : LForm),
    localForm (.lSt h vadr a b sz imm) = some f → s.ready .wave h 12 f.uses = some is → f.passes s is → is.c.stc < 63 →
    exec (.lSt h vadr a b sz imm) s = .next (State.retire ((f.spots s is).foldl (fun u e =>
        u.lsWrite e.2.ref e.2.off (is.storeBytes b (szBytes sz) e.1))
      ((f.touched s is).enter is (Pend.blank (f.touched s is).uid .stc is))) is)) ∧
  (∀ (s : State) (is : Iss) (h : Hdr) (vadr : Bool) (a b c : RegNo) (imm : BitVec 32) (f : LForm),
    localForm (.lFill h vadr a b c imm) = some f → s.ready .wave h 12 f.uses = some is → f.passes s is → is.c.stc < 63 →
    exec (.lFill h vadr a b c imm) s = .next (State.retire ((f.spots s is).foldl (fun u e =>
        u.lsWrite e.2.ref e.2.off ((List.range c.toNat).flatMap (fun _ => leBytes 4 (is.v b e.1).toNat)))
      ((f.touched s is).enter is (Pend.blank (f.touched s is).uid .stc is))) is)) ∧
  (∀ (s : State) (is : Iss) (h : Hdr) (vadr : Bool) (a : RegNo) (tag : BitVec 3) (imm : BitVec 32) (f : LForm),
    localForm (.lSwz h vadr a tag imm) = some f → s.ready .wave h 12 f.uses = some is → f.passes s is → is.c.stc < 63 →
    exec (.lSwz h vadr a tag imm) s = .next (State.retire ((f.spots s is).foldl (fun u e =>
        u.setTag e.2.ref e.2.off tag.toNat) (s.enter is (Pend.blank s.uid .stc is))) is)) ∧
  (∀ (s : State) (is : Iss) (h : Hdr) (vadr : Bool) (t : TField) (d a b : RegNo) (opr : BitVec 3) (imm : BitVec 32) (f : LForm),
    localForm (.lAtom h vadr t d a b opr imm) = some f → s.ready .wave h 12 f.uses = some is → f.passes s is → is.c.ldc < 63 →
    let r := lsAtomics f.n (fun l old => atomOp opr t.ty old (is.vw t.ty.is64 b l)) (f.spots s is) (f.touched s is)
    exec (.lAtom h vadr t d a b opr imm) s = .next ((r.1.enter is { Pend.blank r.1.uid .ldc is with
      writes := known (is.vWrites t.ty.is64 d r.2) }).retire is)) ∧
  (∀ (s : State) (is : Iss) (h : Hdr) (vadr : Bool) (t : TField) (d a b c : RegNo) (imm : BitVec 32) (f : LForm),
    localForm (.lCas h vadr t d a b c imm) = some f → s.ready .wave h 12 f.uses = some is → f.passes s is → is.c.ldc < 63 →
    let r := lsAtomics f.n (fun l old => if old = is.vw t.ty.is64 b l then is.vw t.ty.is64 c l else old) (f.spots s is)
      (f.touched s is)
    exec (.lCas h vadr t d a b c imm) s = .next ((r.1.enter is { Pend.blank r.1.uid .ldc is with
      writes := known (is.vWrites t.ty.is64 d r.2) }).retire is))) ∧
  (∀ (i : Instr) (s : State) (is : Iss) (f : LForm), localForm i = some f → s.ready .wave f.h 12 f.uses = some is →
    (∀ j l, is.p.list.filter (f.out s is) = j :: l →
      exec i s = .next (s.except is (is.fault Code.lsRange (f.addr is j) (lanesOf (j :: l))))) ∧
    (∀ j l, is.p.list.filter (f.out s is) = [] → is.p.list.filter (fun k => f.addr is k % f.align ≠ 0) = j :: l →
      exec i s = .next (s.except is (is.fault Code.align (f.addr is j) (lanesOf (j :: l))))))

/-- R137, R144, R146, R150, R233 to R235: a local tile move by a valid tile, at a base and a stride that are multiples of 16, whose chunks lie
in windows and off the scoreboard, with nothing to wait for and a counter with room: l.ldt enters the bytes of the chunks in LDC for the
tile, where every granule carries the tile's tag; l.stt enters in STC, stores the tile's rows and sets the tags of the granules. An
invalid tile stops either with TILE_SHAPE, a chunk outside its window with LS_RANGE, a base or stride that is no multiple of 16 with
ALIGN, and a granule with another tag l.ldt with SWZ. Where the manual leaves a point open the model's reading is that of
log 16, 28, 56, 113, 114. -/
def Obligations.LocalTiles : Prop :=
  (∀ (store : Bool) (s : State) (is : Iss) (h : Hdr) (d a b : RegNo) (imm : BitVec 32) (tm : Team) (sh : Shape),
    s.ready .core h 12 { rd := [.s a, .s b], wr := [] } = some is → s.teams.find is.c.team = some tm →
    let i : Instr := if store then .lStt h d a b imm else .lLdt h d a b imm
    let base := ((is.s a).toNat + imm.toNat) % 2 ^ 32
    (tm.shape d.toNat = none → exec i s = .next (s.except is (is.fault0 Code.tileShape))) ∧
    (tm.shape d.toNat = some sh →
      (∀ x, s.chunks is.c.team sh.swz sh.rb (is.lsRows a b imm sh.rows) = .error x →
        exec i s = .next (s.except is (is.fault Code.lsRange x is.p))) ∧
      (∀ cs, s.chunks is.c.team sh.swz sh.rb (is.lsRows a b imm sh.rows) = .ok cs →
        let s1 := s.touchChunks is.a is.pc cs
        (base % 16 ≠ 0 ∨ (is.s b).toNat % 16 ≠ 0 → exec i s = .next (s.except is (is.fault Code.align base is.p))) ∧
        (base % 16 = 0 → (is.s b).toNat % 16 = 0 →
          (is.quiet s → is.offBoard s 16 (cs.map (fun c => { c.at_ with off := c.phys })) →
           (∀ c, store = false → s.badTag sh.swz cs = some c →
            exec i s = .next (s.except is (is.fault Code.swz (c.addr - c.addr % 512) is.p))) ∧
           (is.tileFree s d.toNat →
            (store = false → s.badTag sh.swz cs = none → is.c.ldc < 63 →
              exec i s = .next ((s1.enter is { Pend.blank s1.uid .ldc is with
                tile := some (d.toNat, cs.foldl (fun m c => putAll m (256 * c.row + c.byte) (s1.readChunk c)) []) }).retire is)) ∧
            (store = true → is.c.stc < 63 →
              exec i s = .next (State.retire (cs.foldl (fun u c =>
                  (u.lsWrite c.at_.ref c.phys (bytesAt tm.tiles (tileAddr d.toNat c.row c.byte) c.n)).setTag c.at_.ref c.phys sh.swz)
                (s1.enter is (Pend.blank s1.uid .stc is))) is))))))))

/-- What a load leaves at issue beside what it sends: the wave moves on with one more result in LDC, and no register, no flag, no byte of
memory and no team changes. -/
def LoadIssued (s t : State) (is : Iss) : Prop :=
  ∃ c, MovesOn s t is c ∧ c.ldc = is.c.ldc + 1 ∧ c.pend.length = is.c.pend.length + 1 ∧ SameS is.c c [] ∧ SameK is.c c [] ∧
    SameV is.c c ∧ SameF is.c c ∧ t.mem = s.mem ∧ t.teams = s.teams

/-- R79, R80, R108, R152 to R156, R233 to R235: a global access whose addresses are aligned and may be accessed, with nothing to wait for and
a counter with room, leaves for each passing thread or piece of a row: g.ld, g.ldnf and g.ldt enter in LDC and each access is a hit or a
request; a lane of g.ldnf that fails its checks takes zeros and stands in the failure mask; g.st and g.stt enter in STC and store into
the L1, a combining buffer or towards the home; g.pf sends requests for N lines that may be read, in no counter, before which a line that the
L1 holds with clean bytes but not all of them leaves it. A stoker's load by a vector
address, or of 16 bytes, faults STOKER. Where the manual leaves a point open the model's reading is that of log 11, 42, 79, 130. -/
def Obligations.GlobalAccess : Prop :=
  (∀ (s : State) (is : Iss) (h : Hdr) (a b : RegNo) (x0 : BitVec 32) (x1 : X1F),
    s.ready .wave h 16 { rd := [baseUse x1.vadr a, .v b (szRegs x1.sz)], wr := [] } = some is → is.quiet s →
    is.c.stc < 63 → is.reach s (szBytes x1.sz) true false x1 a x0 →
    exec (.gSt h a b x0 x1) s = .next (State.retire ((is.routed s x1 a x0).foldl (fun s' e =>
        s'.storeOne is s.uid (lanesOf [e.1]) x1.ch.toNat e.2 (is.dataBytes b (szBytes x1.sz) e.1))
      (s.enter is (Pend.blank s.uid .stc is))) is)) ∧
  (∀ (s : State) (is : Iss) (h : Hdr) (d a : RegNo) (x0 : BitVec 32) (x1 : X1F),
    s.ready .all h 16 { rd := [baseUse x1.vadr a], wr := [.g d (szRegs x1.sz)] } = some is →
    (isStoker is.a = true → (x1.vadr = true ∨ x1.sz = 4) →
      exec (.gLd h d a x0 x1) s = .next (s.except is (is.fault0 Code.stoker))) ∧
    ((isStoker is.a = true → x1.vadr = false ∧ x1.sz ≠ 4) → is.quiet s → is.c.ldc < 63 →
      is.reach s (szBytes x1.sz) false false x1 a x0 → is.clear s (szBytes x1.sz) ((is.routed s x1 a x0).map (·.2)) →
      let t := State.retire ((s.enter is (is.loadPend s.uid d x1.sz [])).loads is s.uid (szBytes x1.sz) x1.ch.toNat x1.sx false
        false (is.routed s x1 a x0) []) is
      exec (.gLd h d a x0 x1) s = .next t ∧ LoadIssued s t is)) ∧
  (∀ (s : State) (is : Iss) (h : Hdr) (d a c : RegNo) (x0 : BitVec 32) (x1 : X1F) (good bad : List (Nat × Nat)),
    s.ready .wave h 16 { rd := [baseUse x1.vadr a], wr := [.v d (szRegs x1.sz)] ++ (if c = 0 then [] else [.k c]) } = some is →
    is.quiet s → is.c.ldc < 63 → (∀ e ∈ is.addrs x1 a x0, e.2 % szBytes x1.sz = 0) →
    (∀ e, e ∈ good ↔ e ∈ is.addrs x1 a x0 ∧ is.allows s e.2 false false) → good.Sublist (is.addrs x1 a x0) →
    (∀ e, e ∈ bad ↔ e ∈ is.addrs x1 a x0 ∧ ¬ is.allows s e.2 false false) → bad.Sublist (is.addrs x1 a x0) →
    is.clear s (szBytes x1.sz) (good.map (fun e => is.routeOf s e.2)) →
    let p : Pend := { is.loadPend s.uid d x1.sz (if c = 0 then [] else [.k c.toNat]) with nf := some (lanesOf (bad.map (·.1))) }
    let t := State.retire ((s.enter is p).loads is s.uid (szBytes x1.sz) x1.ch.toNat x1.sx true false
      (good.map (fun e => (e.1, is.routeOf s e.2))) (bad.map (·.1))) is
    exec (.gLdnf h d a c x0 x1) s = .next t ∧ LoadIssued s t is) ∧
  (∀ (s : State) (is : Iss) (h : Hdr) (a : RegNo) (x0 : BitVec 32) (x1 : X1F),
    s.ready .wave h 16 { rd := [baseUse x1.vadr a], wr := [] } = some is → is.quiet s →
    ∃ t c, exec (.gPf h a x0 x1) s = .next t ∧ MovesOn s t is c ∧ SameS is.c c [] ∧ SameK is.c c [] ∧ SameV is.c c ∧
      SameF is.c c ∧ c.rest = is.c.rest ∧ t.mem = s.mem ∧
      ((∀ k ∈ (s.core (coreOf is.a)).l1, k.mixed = false) → t.cores = s.cores) ∧
      let rest (l : List Req) : List Req := (l.filter (fun r => !r.op.isWrite)).map (fun r => { r with alloc := true, after := [] })
      ∃ l, rest t.reqs = rest s.reqs ++ l ∧ (∀ r ∈ l, r.op = .prefetch x1.ch.toNat ∧ r.pend = none ∧ r.agent = is.a) ∧
        (∀ n, (∃ r ∈ l, r.va = 128 * n) ↔ ∃ e ∈ is.addrs x1 a x0, is.allows s e.2 false false ∧
          (is.attrOf s e.2).typ = Arn.typN ∧ is.canon s e.2 / 128 = n)) ∧
  (∀ (store : Bool) (s : State) (is : Iss) (h : Hdr) (d a b : RegNo) (x0 : BitVec 32) (x1 : X1F) (tm : Team) (sh : Shape)
      (rows : List (Nat × Nat)),
    s.ready .core h 16 { rd := [.s a, .s b], wr := [] } = some is → s.teams.find is.c.team = some tm →
    tm.shape d.toNat = some sh → (is.addrS a x0).toNat % 16 = 0 → (is.s b).toNat % 16 = 0 →
    rows = (List.range sh.rows).map (fun r => (r, vaOf (is.addrS a x0 + BitVec.ofNat 64 r * is.s b))) →
    (∀ e ∈ rows, arenaOf e.2 = arenaOf (e.2 + sh.rb - 1)) → is.quiet s → is.tileFree s d.toNat →
    let i : Instr := if store then .gStt h d a b x0 x1 else .gLdt h d a b x0 x1
    let pieces := rowPieces rows sh.rb
    (∀ e ∈ pieces, is.allows s e.2.2.1 store false) →
    let rs := pieces.map (fun e => is.routeOf s e.2.2.1)
    (store = false → is.c.ldc < 63 → is.clear s 1 rs →
      let t := State.retire ((pieces.zip rs).foldl (fun s' e =>
          s'.loadOne is s.uid (256 * e.1.1 + e.1.2.1) e.1.2.2.2 x1.ch.toNat false false false e.2)
        (s.enter is { Pend.blank s.uid .ldc is with tile := some (d.toNat, []) })) is
      exec i s = .next t ∧ LoadIssued s t is) ∧
    (store = true → is.c.stc < 63 → exec i s = .next (State.retire ((pieces.zip rs).foldl (fun s' e =>
        s'.storeOne is s.uid is.p x1.ch.toNat e.2 (bytesAt tm.tiles (tileAddr d.toNat e.1.1 e.1.2.1) e.1.2.2.2))
      (s.enter is (Pend.blank s.uid .stc is))) is)))

/-- R276, R277, R281 to R288: an atomic, an acquiring load or a releasing store whose addresses are aligned and may be accessed, with nothing
to wait for and a counter with room, enters one outstanding result, in LDC where a value returns and in STC where none does: a.rmw,
a.red and a.cas send one operation for each passing thread, after the release where ORD has one, and the result ends with an acquire
where ORD has that; a.ldacq loads, fresh from the home but at SC core, and ends with an acquire; a.strel writes at the home after its release
at SC, and where a location is not to be written there it first waits until the release has performed. No register and no byte of memory
changes at issue. Where the manual leaves a point open the model's reading is that of log 11. -/
def Obligations.AtomicIssue : Prop :=
  (∀ (i : Instr) (s : State) (is : Iss) (f : AForm), atomForm i = some f →
    s.ready .wave f.h 16 { rd := baseUse f.x1.vadr f.a :: f.rd, wr := f.wr } = some is → is.quiet s → is.c.ctr f.k < 63 →
    is.reach s f.n true true f.x1 f.a f.x0 →
    let sc := s.scope is.a f.x1.sc
    let r := if ordRel f.x1.ord then s.release is.a sc else (s, [])
    let p : Pend := { Pend.awaiting r.1.uid f.k is (is.p.list.flatMap (f.regs is)) [] with
      acq := if ordAcq f.x1.ord then some (BitVec.ofNat 3 sc) else none }
    let u := State.retire ((is.routed s f.x1 f.a f.x0).foldl (fun v e =>
      v.sendAtom is (some r.1.uid) (lanesOf [e.1]) e.1 f.n e.2 (f.op is e.1) r.2) (r.1.enter is p)) is
    exec i s = .next u ∧ ∃ c, MovesOn s u is c ∧ c.ctr f.k = is.c.ctr f.k + 1 ∧ c.pend.length = is.c.pend.length + 1 ∧
      SameS is.c c [] ∧ SameK is.c c [] ∧ SameV is.c c ∧ u.mem = s.mem) ∧
  (∀ (s : State) (is : Iss) (h : Hdr) (d a : RegNo) (x0 : BitVec 32) (x1 : X1F),
    s.ready .all h 16 { rd := [baseUse x1.vadr a], wr := [.g d (szRegs x1.sz)] } = some is →
    (isStoker is.a = true → x1.vadr = false ∧ x1.sz ≠ 4) → is.quiet s → is.c.ldc < 63 →
    is.reach s (szBytes x1.sz) false false x1 a x0 → is.clear s (szBytes x1.sz) ((is.routed s x1 a x0).map (·.2)) →
    let sc := s.scope is.a x1.sc
    let u := State.retire ((s.enter is { is.loadPend s.uid d x1.sz [] with acq := some (BitVec.ofNat 3 sc) }).loads is s.uid
      (szBytes x1.sz) (if sc ≠ 0 then 0 else x1.ch.toNat) x1.sx false (sc ≠ 0) (is.routed s x1 a x0) []) is
    exec (.aLdacq h d a x0 x1) s = .next u ∧ LoadIssued s u is) ∧
  (∀ (s : State) (is : Iss) (h : Hdr) (a b : RegNo) (x0 : BitVec 32) (x1 : X1F),
    s.ready .wave h 16 { rd := [baseUse x1.vadr a, .v b (szRegs x1.sz)], wr := [] } = some is →
    is.quiet s → is.c.stc < 63 → is.reach s (szBytes x1.sz) true false x1 a x0 →
    let sc := s.scope is.a x1.sc
    let home (e : Nat × Route) : Bool := 1 ≤ sc && e.2.attr.typ = Arn.typN && !e.2.attr.swm
    let rs := is.routed s x1 a x0
    let r := s.release is.a sc
    (rs.all home = true →
      let u := State.retire (rs.foldl (fun v e =>
        v.storeHome is r.1.uid (lanesOf [e.1]) e.2 (is.storeBytes b (szBytes x1.sz) e.1) r.2)
        (r.1.enter is (Pend.blank r.1.uid .stc is))) is
      exec (.aStrel h a b x0 x1) s = .next u ∧ ∃ c, MovesOn s u is c ∧ c.stc = is.c.stc + 1 ∧
        c.pend.length = is.c.pend.length + 1 ∧ SameS is.c c [] ∧ SameK is.c c [] ∧ SameV is.c c ∧ u.mem = s.mem) ∧
    (rs.all home = false → is.released s sc → exec (.aStrel h a b x0 x1) s = .next (State.retire (rs.foldl (fun v e =>
        if home e then v.storeHome is s.uid (lanesOf [e.1]) e.2 (is.storeBytes b (szBytes x1.sz) e.1) []
        else v.storeOne is s.uid (lanesOf [e.1]) (if sc = 0 then x1.ch.toNat else 0) e.2 (is.storeBytes b (szBytes x1.sz) e.1))
      (s.enter is (Pend.blank s.uid .stc is))) is)) ∧
    (rs.all home = false → ¬ is.released s sc →
      exec (.aStrel h a b x0 x1) s = .next (r.1.parkAgent is (.again r.2 none))))

/-- R290 to R298: a.fence parks the wave until its release, its acquire or both have performed, an acquire after the reads and atomics that
the wave has under way. The ticket instructions and a.watch, at an aligned address that may be accessed and with nothing to wait for,
leave for their home: a.tkt.take enters its old ticket in LDC, a.tkt.serve releases and leaves in no counter, and a.tkt.wait and a.watch
park the wave before they move on, until their request answers. Where the manual leaves
a point open the model's reading is that of log 25, 107. -/
def Obligations.OrderingIssue : Prop :=
  (∀ (s : State) (is : Iss) (h : Hdr) (sub : BitVec 2) (sc : BitVec 3),
    s.ready .wave h 8 { rd := [], wr := [] } = some is → is.quiet s →
    let k := s.scope is.a sc
    let r := if sub = 1 then (s.drainWc (coreOf is.a) (fun _ => true), []) else s.release is.a k
    let reads := if sub = 2 then [] else (r.1.reqs.filter (fun r => r.agent = is.a && r.op.reads && r.pend.isSome)).map (·.id)
    exec (.aFence h sub sc) s =
      .next ((r.1.parkAgent is (.fence (r.2 ++ reads) (if sub = 2 then none else some (BitVec.ofNat 3 k)))).retire is) ∧
    ∃ t c deps acq, exec (.aFence h sub sc) s = .next t ∧ t.ctx? is.a = some c ∧ c.park = .fence deps acq ∧
      (acq = none ↔ sub = 2) ∧ SameS is.c c [] ∧ SameK is.c c [] ∧ SameV is.c c ∧ t.mem = s.mem) ∧
  (∀ (s : State) (is : Iss) (h : Hdr) (d a : RegNo) (x0 : BitVec 32) (x1 : X1F),
    s.ready .wave h 16 { rd := [.s a], wr := [.s d] } = some is → is.quiet s → is.c.ldc < 63 →
    let va := vaOf (is.addrS a x0)
    va % 16 = 0 → is.allows s va true true →
    exec (.aTktTake h d a x0 x1) s = .next (((s.enter is (Pend.awaiting s.uid .ldc is [.s d.toNat] [])).sendAtom is
      (some s.uid) is.p 0 16 (is.routeOf s va) .take []).retire is)) ∧
  (∀ (s : State) (is : Iss) (h : Hdr) (a : RegNo) (src : Src) (x0 : BitVec 32) (x1 : X1F),
    s.ready .wave h 16 { rd := .s a :: srcUseS src, wr := [] } = some is → is.quiet s →
    let va := vaOf (is.addrS a x0)
    va % 16 = 0 → is.allows s va true true →
    let r := s.release is.a (s.scope is.a x1.sc)
    exec (.aTktServe h a src x0 x1) s = .next ((r.1.sendAtom is none is.p 0 16 (is.routeOf s va)
      (.serve ((is.srcZ src).toNat % 2 ^ 32)) r.2).retire is)) ∧
  (∀ (s : State) (is : Iss) (h : Hdr) (a b : RegNo) (x0 : BitVec 32) (x1 : X1F),
    s.ready .wave h 16 { rd := [.s a, .s b], wr := [] } = some is → is.quiet s →
    let va := vaOf (is.addrS a x0)
    va % 16 = 0 → is.allows s va false true →
    ∃ t c w, exec (.aTktWait h a b x0 x1) s = .next t ∧ t.ctx? is.a = some c ∧ c.park = .waiter w ∧
      c.rec? is.fid = some is.fr ∧ (∃ r ∈ t.reqs, r.id = w ∧ r.agent = is.a ∧ r.va = is.canon s va ∧ r.n = 16 ∧
        r.op = .ticket ((is.s b).toNat % 2 ^ 32) (BitVec.ofNat 3 (s.scope is.a x1.sc))) ∧
      SameS is.c c [] ∧ t.mem = s.mem) ∧
  (∀ (s : State) (is : Iss) (h : Hdr) (d a b : RegNo) (x0 : BitVec 32) (x1 : X1F),
    s.ready .wave h 16 { rd := [.s a, .s b], wr := [.s d] } = some is → is.quiet s →
    let va := vaOf (is.addrS a x0)
    va % szBytes x1.sz = 0 → is.allows s va false true →
    ∃ t c w, exec (.aWatch h d a b x0 x1) s = .next t ∧ t.ctx? is.a = some c ∧ c.park = .waiter w ∧
      c.rec? is.fid = some is.fr ∧ (∃ r ∈ t.reqs, r.id = w ∧ r.agent = is.a ∧ r.va = is.canon s va ∧ r.n = szBytes x1.sz ∧
        r.op = .watch ((is.s b).toNat % 2 ^ (8 * szBytes x1.sz)) (BitVec.ofNat 3 (s.scope is.a x1.sc)) d.toNat) ∧
      SameS is.c c [] ∧ t.mem = s.mem)

/-- The object that a barrier instruction works on, and the state in which the offset counts as an object (R157, R159): nothing is waited
for, no guard touch is latched, and the object passes its checks. -/
def BarrierAt (s : State) (is : Iss) (a : RegNo) (imm : BitVec 32) (o : Obj) (s1 : State) : Prop :=
  is.quiet s ∧ is.c.guard = none ∧ is.objectAt s (is.objAddr a imm) o ∧
    s1 = s.mapTeam o.key (fun t => { t with objs := o.off :: t.objs.filter (· ≠ o.off) })

/-- R157 to R160, R163: the barrier instructions on an object that passes its checks. a.bar.init writes EXP, PEND, SC and REMOTE and wakes
waiters; an arrival, after its release, lowers PEND and answers GEN, with bit 4 for an over-arrival; a.bar.expect raises the byte count;
a wait or sync goes on at once where GEN differs from the token, and else parks; a.bar.test answers whether it differs. An arrival or
sync whose release has not performed waits for it. Where the manual leaves a point open the model's reading is that of
log 27, 43, 148, 149. -/
def Obligations.BarrierOperations : Prop :=
  (∀ (s s1 : State) (is : Iss) (h : Hdr) (a b : RegNo) (imm : BitVec 32) (o : Obj),
    s.ready .core h 12 { rd := [.s a, .s b], wr := [] } = some is → BarrierAt s is a imm o s1 →
    bits (is.s b).toNat 0 12 ≠ 0 → bits (is.s b).toNat 13 3 ≠ 7 →
    exec (.aBarInit h a b imm) s = .next ((((s1.lsPut (.team o.key) o.off (leBytes 16
      (16 * bits (is.s b).toNat 0 12 + 65536 * bits (is.s b).toNat 0 12 +
        (if (is.s b).toNat.testBit 12 then 2 ^ 96 else 0) + 2 ^ 104 * bits (is.s b).toNat 13 3))).wakeBar o.key o.off 0 none)).retire
      is)) ∧
  (∀ (s s1 : State) (is : Iss) (h : Hdr) (sub : BitVec 2) (d a b : RegNo) (imm : BitVec 32) (o : Obj),
    s.ready .core h 12 { rd := .s a :: (if sub = 0 then [] else [.s b]), wr := [.s d] } = some is → BarrierAt s is a imm o s1 →
    let v := if sub = 0 then o.v else expect o.v ((is.s b).toNat % 2 ^ 32) (sub == 2)
    (is.released s1 o.sc → exec (.aBarArrive h sub d a b imm) s = .next (((s1.putObject o.key o.off
        (if objPend v = 0 then v else setBits v 4 12 (objPend v - 1))).wrS is d
      (BitVec.ofNat 64 (objGen v + if objPend v = 0 then 16 else 0))).retire is)) ∧
    (¬ is.released s1 o.sc → exec (.aBarArrive h sub d a b imm) s = .next (s.except is (.release o.sc)))) ∧
  (∀ (s s1 : State) (is : Iss) (h : Hdr) (sub : BitVec 2) (a b : RegNo) (imm : BitVec 32) (o : Obj),
    s.ready .core h 12 { rd := [.s a, .s b], wr := [] } = some is → BarrierAt s is a imm o s1 →
    exec (.aBarExpect h sub a b imm) s = .next ((s1.putObject o.key o.off
      (expect o.v ((is.s b).toNat % 2 ^ 32) (sub == 1))).retire is)) ∧
  (∀ (s s1 : State) (is : Iss) (h : Hdr) (a b : RegNo) (imm : BitVec 32) (o : Obj),
    s.ready .core h 12 { rd := [.s a, .s b], wr := [] } = some is → BarrierAt s is a imm o s1 → objFlt o.v = false →
    exec (.aBarWait h a b imm) s = .next (State.retire (s1.parkAgent is
      (if objGen (s1.object o.key o.off) ≠ (is.s b).toNat % 16 then .fence [] (some (BitVec.ofNat 3 o.sc))
        else .bar o.key o.off ((is.s b).toNat % 16))) is)) ∧
  (∀ (s s1 : State) (is : Iss) (h : Hdr) (d a : RegNo) (imm : BitVec 32) (o : Obj),
    s.ready .core h 12 { rd := [.s a], wr := [.s d] } = some is → BarrierAt s is a imm o s1 → objFlt o.v = false →
    (is.released s1 o.sc → exec (.aBarSync h d a imm) s = .next (((((s1.putObject o.key o.off (arrival o.v).1).wrS is d
      (BitVec.ofNat 64 (arrival o.v).2)).barWait is o (arrival o.v).2)).retire is)) ∧
    (¬ is.released s1 o.sc → exec (.aBarSync h d a imm) s = .next (s.except is (.release o.sc)))) ∧
  (∀ (s s1 : State) (is : Iss) (h : Hdr) (d a b : RegNo) (imm : BitVec 32) (o : Obj),
    s.ready .core h 12 { rd := [.s a, .s b], wr := [.s d] } = some is → BarrierAt s is a imm o s1 → objFlt o.v = false →
    ∃ t c, exec (.aBarTest h d a b imm) s = .next t ∧ MovesOn s t is c ∧
      (∀ n, c.sget n = if n = d.toNat ∧ n ≠ 63 then (if objGen o.v ≠ (is.s b).toNat % 16 then 1 else 0) else is.c.sget n) ∧
      SameK is.c c [] ∧ SameV is.c c ∧ SameF is.c c ∧ t.mem = s.mem)

/-- R157, R158: the update of a local object that leaves PEND, INB and OUTB at 0 flips it: GEN rises by 1 modulo 16, PEND becomes
EXP, and every wave that waits on it with another token than the new GEN waits no longer for it. Where the manual leaves a point open the model's reading is that of
log 27. -/
def Obligations.BarrierFlip : Prop :=
  ∀ (s : State) (k off v : Nat) (tm : Team),
    s.teams.find k = some tm → v < 2 ^ 128 → objPend v = 0 → objInb v = 0 → objOutb v = 0 → objRemote v = false →
    objGen ((s.putObject k off v).object k off) = (objGen v + 1) % 16 ∧
      objPend ((s.putObject k off v).object k off) = objExp v ∧
      ∀ a c o tok, (s.putObject k off v).ctx? a = some c → c.park = .bar k o tok → o = off →
        tok % 16 = (objGen v + 1) % 16

/-- R364, R365: with room in EC and a free entry, an operation takes that entry, writes the PENDING handle into sD, tags it, and lists it as
the entry's site; SEQ advances, and no other register changes; without either it waits. R242, R244, R258, R365: a post that finds room takes
a future and appends one task to the quad's table; with a full share or a full table its wave parks until there is room. Where the manual leaves a point open the model's
reading is that of log 24. -/
def Obligations.FuturesAndTasks : Prop :=
  (∀ (s : State) (is : Iss) (d : RegNo) (kind sc op : Nat), s.ctx? is.a = some is.c → d.toNat ≠ 63 →
    let q := quadOf is.a
    (∀ k, is.c.ec < 63 → (s.quad q).freeFut = some k →
      ∃ t f c, s.takeFut is d kind sc op = .ok (t, q, k) ∧ k < Config.futures ∧ (s.quad q).futs.find k = none ∧
        (t.quad q).futs.find k = some f ∧ f.seq = (s.quad q).seq ∧ f.kind = kind ∧ f.op = op ∧ f.sites = [.reg is.a d.toNat] ∧
        (t.quad q).seq = ((s.quad q).seq + 1) % 2 ^ 32 ∧ t.ctx? is.a = some c ∧
        c.sget d.toNat = pendingHandle f.seq q kind k ∧ (∃ g, c.tags.find d.toNat = some g ∧ g.resolved = false ∧ g.slot = k) ∧
        SameS is.c c [d.toNat] ∧ SameK is.c c [] ∧ SameV is.c c ∧ SameF is.c c ∧ t.mem = s.mem ∧ t.teams = s.teams) ∧
    (63 ≤ is.c.ec ∨ (s.quad q).freeFut = none → s.takeFut is d kind sc op = .error .stall)) ∧
  ((∀ (s : State) (is : Iss) (d : RegNo) (kind prio sc : Nat) (op : TaskOp) (bar : Option Nat) (slots tiles : List Nat)
      (wait : List (Nat × Nat × Nat)) (gens : AMap Nat),
    s.ctx? is.a = some is.c → s.mayPost (quadOf is.a) is.c.team = true → is.c.ec < 63 →
    (s.quad (quadOf is.a)).freeFut ≠ none →
    ∃ t k, s.postTask is d kind op prio sc bar slots tiles wait gens = .ok t ∧ t.mem = s.mem ∧ t.teams = s.teams ∧
      ∃ tk, (t.quad (quadOf is.a)).tasks = (s.quad (quadOf is.a)).tasks ++ [tk] ∧ tk.op = op ∧ tk.team = is.c.team ∧
        tk.fut = some (quadOf is.a, k) ∧ tk.slots = slots ∧ tk.tiles = tiles ∧ tk.wait = wait ∧ tk.bar = bar) ∧
  (∀ (s : State) (is : Iss) (d : RegNo) (kind prio sc : Nat) (op : TaskOp) (bar : Option Nat) (slots tiles : List Nat)
      (wait : List (Nat × Nat × Nat)) (gens : AMap Nat),
    s.mayPost (quadOf is.a) is.c.team = false →
    s.postTask is d kind op prio sc bar slots tiles wait gens = .error (.park .post)))

/-- R234, R238 to R241, R244, R250, R251, R253, R254, R257, R258: m.mma, m.mmt, m.zero, m.ldacc and m.stacc with valid operands post their
tasks, with the scales and the barrier object that they name, wait at issue where the futures or EC have no room, and park where the table
has none; with an
invalid slot, tile, shape or combination of types they fault TILE_SHAPE. m.amax answers the entry, which SUB 00 clears, once the
wave's own updates are applied; m.resv answers what it reserves. Where the manual leaves a point open the model's reading is that of
log 56, 129. -/
def Obligations.MatrixPosts : Prop :=
  (∀ (s : State) (is : Iss) (h : Hdr) (d a : RegNo) (tm : Team),
    s.ready .core h 8 { rd := [], wr := [.s d] } = some is → s.teams.find is.c.team = some tm →
    (a.toNat < tm.foot.acc → Posts s s is (.mZero h d a) d Kind.task (is.task s (.zero a.toNat) 0 1 [a.toNat] [])) ∧
    (tm.foot.acc ≤ a.toNat → exec (.mZero h d a) s = .next (s.except is (is.fault0 Code.tileShape)))) ∧
  (∀ (i : Instr) (s : State) (is : Iss) (f : MForm) (tm : Team), matrixForm i = some f →
    s.ready .core f.h 16 { rd := [], wr := [.s f.d] } = some is → s.teams.find is.c.team = some tm →
    (∀ sa sb m n k, f.valid tm sa sb m n k → (f.bar = true → ∃ o, is.objectAt s f.x0.toNat o) →
      Posts s s is i f.d Kind.task (f.task s is sa sb m n k)) ∧
    ((¬ ∃ sa sb m n k, f.valid tm sa sb m n k) → exec i s = .next (s.except is (is.fault0 Code.tileShape)))) ∧
  (∀ (store : Bool) (s : State) (is : Iss) (h : Hdr) (d a b c : RegNo) (row col : BitVec 7) (shp : BitVec 3) (tm : Team),
    s.ready .core h 12 { rd := [], wr := [.s d] } = some is → s.teams.find is.c.team = some tm →
    let i : Instr := if store then .mStacc h 0 d a b c row col shp else .mLdacc h 0 d a b c row col shp
    (∀ sh, rectOk tm a b.toNat row col sh →
      Posts s s is i d Kind.task (is.task s (rectOp store a row col sh (.tile b.toNat)) 0 1 [a.toNat] [b.toNat])) ∧
    ((¬ ∃ sh, rectOk tm a b.toNat row col sh) → exec i s = .next (s.except is (is.fault0 Code.tileShape)))) ∧
  (∀ (store : Bool) (s : State) (is : Iss) (h : Hdr) (sub : BitVec 2) (d a b c : RegNo) (row col : BitVec 7) (shp : BitVec 3)
      (tm : Team) (sh : Shape),
    sub ≠ 0 → s.ready .core h 12 { rd := [.s b, .s c], wr := [.s d] } = some is → s.teams.find is.c.team = some tm →
    rectOk tm a shp.toNat row col sh → is.quiet s →
    let i : Instr := if store then .mStacc h sub d a b c row col shp else .mLdacc h sub d a b c row col shp
    let base := (is.s b).toNat % 2 ^ 32
    let str := (is.s c).toNat % 2 ^ 32
    base % 16 = 0 → str % 16 = 0 →
    (∀ r, r < sh.rows → ∃ p, s.lsRow is.c.team sh.swz ((base + r * str) % 2 ^ 32) (4 * sh.cols) = some p ∧
      (store = false → s.rowTag p (4 * sh.cols) sh.swz = true)) →
    Posts s s is i d Kind.task (is.task s (rectOp store a row col sh (.ls base str sh.swz)) 0 1 [a.toNat] [])) ∧
  (∀ (s : State) (is : Iss) (h : Hdr) (sub : BitVec 2) (d : RegNo) (src : Src),
    s.ready .core h 8 { rd := srcUseS src, wr := [.s d] } = some is → is.c.ec < 63 →
    ((s.quad (quadOf is.a)).amaxQ.any (fun u => u.2.1 = is.a) = false →
      ∃ t, exec (.mAmax h sub d src) s = .next t ∧
        Entered s t is .ec (knownS d (BitVec.ofNat 64 (AMap.get 0 (s.quad (quadOf is.a)).amax (is.amaxEntry src)).toNat)) [] none ∧
        ∀ e, AMap.get 0 (t.quad (quadOf is.a)).amax e =
          if sub = 0 ∧ e = is.amaxEntry src then 0 else AMap.get 0 (s.quad (quadOf is.a)).amax e) ∧
    ((s.quad (quadOf is.a)).amaxQ.any (fun u => u.2.1 = is.a) = true → exec (.mAmax h sub d src) s = .next s)) ∧
  (∀ (s : State) (is : Iss) (h : Hdr) (d a : RegNo) (tm : Team),
    s.ready .core h 8 { rd := [.s a], wr := [.s d] } = some is → is.c.ec < 63 → s.teams.find is.c.team = some tm →
    let g := min (min ((is.s a).toNat % 32) 16) (48 - sumTeams ((s.quadTeams (quadOf is.a)).filter (fun e => e.1 ≠ is.c.team)) (·.resv))
    ∃ t, exec (.mResv h d a) s = .next t ∧ t.teams.find is.c.team = some { tm with resv := g } ∧
      Entered s t is .ec (knownS d (BitVec.ofNat 64 g)) [] none)

/-- R252, R255, R256: m.cvst with a valid slot, rectangle, base, stride and rows posts its store with the generator's key and counter, and with
SR advances RNGCTR by the elements; an invalid slot or rectangle is TILE_SHAPE. m.rstat enters the six registers of each passing thread
in EC with a task on the slot. m.enq of a record that breaks a rule of R249 gives a future that is FAULTED at once with that rule's code,
and of another posts the record's task. Where the manual leaves a point open the model's reading is that of log 35, 56, 129, 147. -/
def Obligations.MatrixRecords : Prop :=
  (∀ (s : State) (is : Iss) (h : Hdr) (sub : BitVec 2) (t : TField) (d a b c : RegNo) (cv : CvstX) (tm : Team),
    s.ready .core h 16 { rd := [.s b, .s c], wr := [.s d] } = some is → s.teams.find is.c.team = some tm →
    let dls := sub.getLsbD 0
    let tr := sub.getLsbD 1
    let nr := if tr then cv.cols.toNat else cv.rows.toNat
    let ne := if tr then cv.rows.toNat else cv.cols.toNat
    let n := ne * t.ty.bits / 8
    let base := (is.s b).toNat % 2 ^ (if dls then 32 else 56)
    let str := (is.s c).toNat % 2 ^ (if dls then 32 else 56)
    let ok : Prop := a.toNat < tm.foot.acc ∧ 1 ≤ cv.rows.toNat ∧ cv.rows.toNat ≤ 128 ∧ 1 ≤ cv.cols.toNat ∧ cv.cols.toNat ≤ 128 ∧
      ne * t.ty.bits % 8 = 0
    let tk : Task := { is.task s (.cvst a.toNat dls tr t base str cv is.c.rngkey is.c.rngctr) 0 (s.scope is.a cv.sc) [a.toNat] [] with
      gens := if dls then [] else s.gensOf (coreOf is.a) ((List.range nr).map (fun q => base + q * str)) }
    (ok → base % 16 = 0 → str % 16 = 0 → is.quiet s →
      (∀ q, q < nr → if dls then (s.lsRow is.c.team cv.swz.toNat ((base + q * str) % 2 ^ 32) n).isSome = true
        else is.rowOk s (base + q * str) n true) →
      Posts s s is (.mCvst h sub t d a b c cv) d Kind.task tk ∧
      (s.mayPost (quadOf is.a) is.c.team = true → s.futRoom is →
        ∃ u k, exec (.mCvst h sub t d a b c cv) s = .next u ∧ u.ctx? is.a = some k ∧
          k.rngctr = if t.sr then is.c.rngctr + BitVec.ofNat 64 (cv.rows.toNat * cv.cols.toNat) else is.c.rngctr)) ∧
    (¬ ok → exec (.mCvst h sub t d a b c cv) s = .next (s.except is (is.fault0 Code.tileShape)))) ∧
  (∀ (s : State) (is : Iss) (h : Hdr) (d a : RegNo) (rows cols : BitVec 8) (tm : Team),
    s.ready .core h 12 { rd := [], wr := [.v d 6] } = some is → s.teams.find is.c.team = some tm →
    let ok : Prop := a.toNat < tm.foot.acc ∧ 1 ≤ rows.toNat ∧ rows.toNat ≤ 128 ∧ 1 ≤ cols.toNat ∧ cols.toNat ≤ 128
    let regs := is.p.list.flatMap (fun l => (List.range 6).map (fun j => Reg.v (is.phys (d.toNat + j) l) l))
    (ok → s.mayPost (quadOf is.a) is.c.team = true → is.c.ec < 63 →
      ∃ t c, exec (.mRstat h d a rows cols) s = .next t ∧ MovesOn s t is c ∧ c.ec = is.c.ec + 1 ∧
        c.pend = is.c.pend ++ [{ Pend.blank (s.uid + 1) .ec is with writes := regs.map (fun r => { reg := r, val := none }) }] ∧
        (t.quad (quadOf is.a)).tasks = (s.quad (quadOf is.a)).tasks ++
          [is.task s (.rstat a.toNat rows.toNat cols.toNat (s.uid + 1) d.toNat is.p) 0 0 [a.toNat] []] ∧
        SameS is.c c [] ∧ SameK is.c c [] ∧ SameV is.c c ∧ t.mem = s.mem) ∧
    (¬ ok → exec (.mRstat h d a rows cols) s = .next (s.except is (is.fault0 Code.tileShape)))) ∧
  (∀ (s s1 : State) (is : Iss) (h : Hdr) (sub : BitVec 2) (d a : RegNo) (tm : Team) (l : List Byte),
    s.ready .core h 8 { rd := [.s a], wr := [.s d] } = some is → s.teams.find is.c.team = some tm → is.quiet s →
    s.record is (sub == 1) a 0 64 64 = .ok (l, s1) →
    (∀ code, s1.checkEnq is tm (EnqRec.ofBytes l) = some code → s1.futRoom is →
      ∃ t, exec (.mEnq h sub d a) s = .next t ∧ AtOnce s1 t is d Kind.task Status.faulted code ∧ t.mem = s1.mem ∧
        (t.quad (quadOf is.a)).tasks = (s1.quad (quadOf is.a)).tasks) ∧
    (s1.checkEnq is tm (EnqRec.ofBytes l) = none →
      Posts s s1 is (.mEnq h sub d a) d Kind.task ((EnqRec.ofBytes l).task s1 is)))

/-- R259 to R275: a rick instruction whose rick and slots are valid, with nothing to wait for, posts its operation on the rick, with the slots of
the bindings and its own: e.rkinit with its record's bytes, e.rkstep from a slot, from a range of the local store or with a constant,
e.rkread, e.rkld and e.rkst, and e.rksave and e.rkrest with the image in slots, in the local store or in global memory, where a range that may
not be accessed refuses the task with its code. e.rkstat enters its register in EC with a task. A rick number at or above RICKS faults
TILE_SHAPE. Where the manual leaves a point open the model's reading is that of log 52 to 54, 56, 139, 151. -/
def Obligations.RickPosts : Prop :=
  (∀ (s s1 : State) (is : Iss) (h : Hdr) (sub : BitVec 2) (d a : RegNo) (rick prio : BitVec 2) (fst : BitVec 5) (tm : Team)
      (l : List Byte),
    s.ready .core h 16 { rd := [.s a], wr := [.s d] } = some is → s.teams.find is.c.team = some tm →
    rick.toNat < tm.foot.ricks → fst.toNat < tm.foot.acc → s.record is (sub == 1) a 0 144 16 = .ok (l, s1) → is.quiet s1 →
    Posts s s1 is (.eRkinit h sub d a rick prio fst) d Kind.rick (is.task s1 (.rkinit rick.toNat fst.toNat l) prio.toNat 1
      (is.rickNames s1 tm rick.toNat ((Rick.ofBytes l fst.toNat 0).slots.filter (· < tm.foot.acc))) [])) ∧
  (∀ (s : State) (is : Iss) (h : Hdr) (sub : BitVec 2) (d b : RegNo) (rick prio : BitVec 2) (imm : BitVec 32) (tm : Team),
    s.ready .core h 12 { rd := if sub.getLsbD 0 then [.s b] else [], wr := [.s d] } = some is → s.teams.find is.c.team = some tm →
    rick.toNat < tm.foot.ricks → (sub = 0 → b.toNat < tm.foot.acc) → is.quiet s →
    let addr := (is.s b).toNat % 2 ^ 32
    (sub = 1 → is.rangeOk s addr ((s.settled (quadOf is.a) is.c.team rick.toNat tm).elim 16 (·.rungBytes))) →
    Posts s s is (.eRkstep h sub d b rick prio imm) d Kind.rick (is.task s (.rkstep rick.toNat sub.toNat b.toNat addr
      (if sub = 2 then imm else (is.s b).extractLsb' 0 32)) prio.toNat 1
      (is.rickNames s tm rick.toNat (if sub = 0 then [b.toNat] else [])) [])) ∧
  (∀ (i : Instr) (s : State) (is : Iss) (h : Hdr) (d : RegNo) (rick slot prio : Nat) (op : TaskOp) (tm : Team),
    rickForm i = some (h, d, rick, slot, op, prio) → s.ready .core h 12 { rd := [], wr := [.s d] } = some is →
    s.teams.find is.c.team = some tm → rick < tm.foot.ricks →
    (slot < tm.foot.acc → is.quiet s →
      Posts s s is i d Kind.rick (is.task s op prio 1 (is.rickNames s tm rick [slot]) [])) ∧
    (tm.foot.acc ≤ slot → exec i s = .next (s.except is (is.fault0 Code.tileShape)))) ∧
  (∀ (i : Instr) (rest : Bool) (s : State) (is : Iss) (h : Hdr) (sub : BitVec 2) (d a : RegNo) (k prio : Nat) (rx : RkX) (tm : Team),
    checkForm i = some (rest, h, sub, d, a, k, prio, rx) →
    s.ready .core h 16 { rd := if sub = 2 then [] else [.s a], wr := [.s d] } = some is → s.teams.find is.c.team = some tm →
    k < tm.foot.ricks → (∀ x ∈ imageSlots sub rx, x < tm.foot.acc) → (rest = true → rx.f.toNat < tm.foot.acc) →
    let cur := s.settled (quadOf is.a) is.c.team k tm
    let len := if rest then 160 else cur.elim 160 (·.imageLen)
    let addr := if sub = 1 then (is.s a).toNat % 2 ^ 32 else (is.s a).toNat % 2 ^ 56
    let sc := if sub = 2 then 1 else s.scope is.a rx.sc
    let bad := if sub = 0 ∧ (rest = true ∨ cur = none) then s.imageBad (coreOf is.a) (s.agentPart is.a) addr (!rest) else none
    let tk : Task := is.task s (checkOp rest k sub addr rx bad) prio sc (is.rickNames s tm k (checkOwn rest tm sub rx)) []
    (sub = 1 → is.rangeOk s addr len) → (∀ r, sub = 2 → cur = some r → r.overlaps rx.isl.toNat rx.icnt.toNat = false) →
    (sub ≠ 0 → is.quiet s → Posts s s is i d Kind.rick tk) ∧
    (sub = 0 → addr % 16 = 0 → is.rowOk s addr len (!rest) → is.quiet s →
      Posts s s is i d Kind.rick { tk with gens := s.gensOf (coreOf is.a) (imagePages addr) }) ∧
    (sub = 0 → addr % 16 ≠ 0 → s.futRoom is →
      ∃ t, exec i s = .next t ∧ AtOnce s t is d Kind.rick Status.faulted Code.align ∧ t.mem = s.mem) ∧
    (∀ code, sub = 0 → addr % 16 = 0 → s.globalRow (coreOf is.a) (s.agentPart is.a) addr len (!rest) = .error code → s.futRoom is →
      ∃ t, exec i s = .next t ∧ AtOnce s t is d Kind.rick Status.faulted code ∧ t.mem = s.mem)) ∧
  (∀ (s : State) (is : Iss) (h : Hdr) (d : RegNo) (rick prio : BitVec 2) (tm : Team),
    s.ready .core h 8 { rd := [], wr := [.s d] } = some is → s.teams.find is.c.team = some tm → rick.toNat < tm.foot.ricks →
    is.quiet s → s.mayPost (quadOf is.a) is.c.team = true → is.c.ec < 63 →
    ∃ t c, exec (.eRkstat h d rick prio) s = .next t ∧ MovesOn s t is c ∧ c.ec = is.c.ec + 1 ∧
      c.pend = is.c.pend ++ [{ Pend.blank (s.uid + 1) .ec is with writes := [{ reg := .s d.toNat, val := none }] }] ∧
      (t.quad (quadOf is.a)).tasks = (s.quad (quadOf is.a)).tasks ++
        [is.task s (.rkstat rick.toNat (s.uid + 1) d.toNat) 0 1 (s.rickSlots (quadOf is.a) is.c.team rick.toNat tm) []] ∧
      SameS is.c c [] ∧ SameK is.c c [] ∧ SameV is.c c ∧ t.mem = s.mem) ∧
  (∀ (i : Instr) (s : State) (is : Iss) (h : Hdr) (len : Nat) (rd : List Use) (d : RegNo) (rick : Nat) (tm : Team),
    rickHead i = some (h, len, rd, d, rick) → s.ready .core h len { rd := rd, wr := [.s d] } = some is →
    s.teams.find is.c.team = some tm → tm.foot.ricks ≤ rick → exec i s = .next (s.except is (is.fault0 Code.tileShape)))

/-- R366, R367, R381 to R383: q.fwait on a resolved handle enters it in EC and ends with an acquire, at the scope of its operation where the
register is tagged, with that operation's flags and stale mark; on an untagged register whose STATUS is PENDING it faults HANDLE, and on a
pending future the wave parks before it. q.ftest reads the value at once. q.fcancel answers 1 for a pending copy, task or rick operation,
which it marks, and for a group, whose teams that are not placed it drops; it answers 0 for a value that names no pending future and for a
future of another kind. q.fmov copies the value, or moves the pending handle with its tag and makes sD one more site. With SUB 01 each acts on the
aligned word of an N arena at sA or sB: q.fwait parks until its request answers, q.ftest enters the word in EC, q.fcancel reads it,
and q.fmov writes it and makes it a site. Where the manual leaves a point open the model's reading is that of
log 20, 25, 147, 156. -/
def Obligations.FutureInstructions : Prop :=
  ((∀ (s : State) (is : Iss) (h : Hdr) (d a : RegNo) (sc : BitVec 3),
    s.ready .core h 8 { rd := [.s a], wr := [.s d] } = some is → is.c.ec < 63 →
    (is.c.tags.find a.toNat = none → handleStatus (is.s a) ≠ 0 →
      ∃ t c, exec (.qFwait h 0 d a sc) s = .next t ∧ MovesOn s t is c ∧ c.ec = is.c.ec + 1 ∧
        c.park = .fence [] (some (BitVec.ofNat 3 (s.scope is.a sc))) ∧
        c.pend = is.c.pend ++ [{ Pend.blank s.uid .ec is with writes := knownS d (is.s a) }] ∧ SameS is.c c [] ∧
        t.mem = s.mem) ∧
    (∀ g, is.c.tags.find a.toNat = some g →
      ∃ t c, exec (.qFwait h 0 d a sc) s = .next t ∧ MovesOn s t is c ∧ c.ec = is.c.ec + 1 ∧ c.park = .fence [] (some g.sc) ∧
        c.pend = is.c.pend ++ [{ Pend.blank s.uid .ec is with writes := knownS d (is.s a) }] ∧
        (∀ l, l < 64 → c.flag l = if is.fr.mask.getLsbD l then is.c.flag l ||| g.flags else is.c.flag l) ∧
        c.stale = (is.c.stale || g.stale) ∧ SameS is.c c [] ∧ t.mem = s.mem)) ∧
  (∀ (s : State) (is : Iss) (h : Hdr) (d a : RegNo) (sc : BitVec 3),
    s.ready .core h 8 { rd := [.s a], wr := [.s d] } = some is → is.c.tags.find a.toNat = none →
    handleStatus (is.s a) = 0 →
    exec (.qFwait h 0 d a sc) s = .next (s.except is (is.fault Code.handle 0 is.p))) ∧
  (∀ (s : State) (is : Iss) (h : Hdr) (d a : RegNo) (sc : BitVec 3) (g : Tag),
    s.iss? h 8 = some is → is.p ≠ 0 → is.fr.meld = false → h.md = false → isStoker is.a = false → isHearth is.a = false →
    is.c.pend = [] → is.c.tags.find a.toNat = some g → g.resolved = false →
    exec (.qFwait h 0 d a sc) s = .next (s.parkAgent is (.fut a.toNat))) ∧
  (∀ (s : State) (is : Iss) (h : Hdr) (sub : BitVec 2) (d a : RegNo) (sc : BitVec 3),
    sub ≠ 0 → s.ready .core h 8 { rd := [.s a], wr := [.s d] } = some is → is.quiet s →
    vaOf (is.s a) % 8 = 0 → is.allows s (vaOf (is.s a)) false true → is.c.ec < 63 →
    ∃ t c w, exec (.qFwait h sub d a sc) s = .next t ∧ t.ctx? is.a = some c ∧ c.park = .waiter w ∧ c.ec = is.c.ec + 1 ∧
      c.rec? is.fid = some is.fr ∧ (∃ r ∈ t.reqs, r.id = w ∧ r.agent = is.a ∧ r.va = is.canon s (vaOf (is.s a)) ∧ r.n = 8 ∧
        r.op = .status (BitVec.ofNat 3 (s.scope is.a sc)) d.toNat) ∧ SameS is.c c [] ∧ t.mem = s.mem)) ∧
  ((∀ (s : State) (is : Iss) (h : Hdr) (d a : RegNo),
    s.ready .core h 8 { rd := [.h a], wr := [.s d] } = some is → is.c.ec < 63 →
    ∃ t, exec (.qFtest h 0 d a) s = .next t ∧ Entered s t is .ec (knownS d (is.s a)) [] none) ∧
  (∀ (s : State) (is : Iss) (h : Hdr) (sub : BitVec 2) (d a : RegNo),
    sub ≠ 0 → s.ready .core h 8 { rd := [.h a], wr := [.s d] } = some is → is.c.ec < 63 → is.quiet s →
    vaOf (is.s a) % 8 = 0 → is.allows s (vaOf (is.s a)) false true →
    exec (.qFtest h sub d a) s = .next (State.retire ((s.enter is (Pend.awaiting s.uid .ec is [.s d.toNat] [])).sendRead is
      s.uid 0 8 (is.routeOf s (vaOf (is.s a)))) is))) ∧
  ((∀ (s : State) (is : Iss) (h : Hdr) (d a : RegNo),
    s.ready .core h 8 { rd := [.h a], wr := [.s d] } = some is → is.c.ec < 63 →
    (∀ g f, is.c.tags.find a.toNat = some g → g.resolved = false → (s.quad g.quad).futs.find g.slot = some f →
      ∃ t c, exec (.qFcancel h 0 d a) s = .next t ∧ MovesOn s t is c ∧ c.ec = is.c.ec + 1 ∧
        c.pend = is.c.pend ++ [{ Pend.blank s.uid .ec is with writes := knownS d (if f.kind ≤ Kind.launch then 1 else 0) }] ∧
        t.mem = s.mem ∧
        (f.kind ≤ Kind.rick → (∀ q, ∀ x ∈ (t.quad q).copies, x.id = f.op → x.cancel = true) ∧
          ∀ q, ∀ x ∈ (t.quad q).tasks, x.id = f.op → x.cancel = true) ∧
        (f.kind = Kind.spawn ∨ f.kind = Kind.launch → ∀ g', s.groups.find f.op = some g' →
          t.groups.find f.op = some g'.cancel)) ∧
    ((is.c.tags.find a.toNat = none ∨ ∃ g, is.c.tags.find a.toNat = some g ∧ g.resolved = true) →
      ∃ t, exec (.qFcancel h 0 d a) s = .next t ∧ Entered s t is .ec (knownS d 0) [] none)) ∧
  (∀ (s s1 : State) (is : Iss) (h : Hdr) (sub : BitVec 2) (d a : RegNo) (l : List Byte),
    sub ≠ 0 → s.ready .core h 8 { rd := [.h a], wr := [.s d] } = some is → is.c.ec < 63 → is.quiet s →
    vaOf (is.s a) % 8 = 0 → is.allows s (vaOf (is.s a)) false true →
    s.readRecord is (BitVec.ofNat 64 (is.canon s (vaOf (is.s a)))) 8 8 = .ok (l, false, s1) →
    let w := ofLe l
    let q := bits w 8 5 * 16 + bits w 24 4
    let hit (f : Fut) : Prop := (s.quad q).futs.find (bits w 0 8) = some f ∧ bits w 28 4 = 0 ∧ f.seq = bits w 32 32 ∧
      s.partOf (bits w 8 5) = s.agentPart is.a
    (∀ f, hit f → ∃ t c, exec (.qFcancel h sub d a) s = .next t ∧ MovesOn s t is c ∧
      c.pend = is.c.pend ++ [{ Pend.blank s.uid .ec is with writes := knownS d (if f.kind ≤ Kind.launch then 1 else 0) }] ∧
      t.mem = s.mem) ∧
    ((¬ ∃ f, hit f) → ∃ t, exec (.qFcancel h sub d a) s = .next t ∧ Entered s1 t is .ec (knownS d 0) [] none))) ∧
  ((∀ (s : State) (is : Iss) (h : Hdr) (d a b : RegNo) (imm : BitVec 32),
    s.ready .core h 12 { rd := [.h a], wr := [.s d] } = some is →
    (is.c.ec < 63 → (is.c.tags.find a.toNat = none ∨ ∃ g, is.c.tags.find a.toNat = some g ∧ g.resolved = true) →
      ∃ t, exec (.qFmov h 0 d a b imm) s = .next t ∧ Entered s t is .ec (knownS d (is.s a)) [] none) ∧
    (∀ g f, is.c.tags.find a.toNat = some g → g.resolved = false → d ≠ a → d.toNat ≠ 63 → is.c.tags.find d.toNat = none →
      (s.quad g.quad).futs.find g.slot = some f → f.sites.length < 4 → is.c.ec < 63 →
      ∃ t c u, exec (.qFmov h 0 d a b imm) s = .next t ∧ MovesOn s t is c ∧ c.sget d.toNat = is.s a ∧ SameS is.c c [d.toNat] ∧
        c.tags.find d.toNat = some g ∧ (t.quad g.quad).futs.find g.slot = some u ∧ .reg is.a d.toNat ∈ u.sites ∧ t.mem = s.mem)) ∧
  (∀ (s : State) (is : Iss) (h : Hdr) (sub : BitVec 2) (d a b : RegNo) (imm : BitVec 32),
    sub ≠ 0 → s.ready .core h 12 { rd := [.h a, .h b], wr := [] } = some is → is.quiet s →
    let va := vaOf (is.addrS b imm)
    va % 8 = 0 → is.allows s va true true →
    let rt := is.routeOf s va
    let off := rt.va % 128
    let w (s : State) : State := (s.send (Req.blank (is.who is.p) (coreOf is.a) (s.agentPart is.a) (rt.va - off) 128 rt.attr.gen rt.ver
      rt.attr.typ (.write (maskOf off 8) (placeBytes off (leBytes 8 (is.s a).toNat)))) []).l1Update (coreOf is.a) (lineNo rt.va)
        rt.attr.gen (maskOf off 8) (placeBytes off (leBytes 8 (is.s a).toNat))
    let s1 := if rt.attr.swm then s.flushLine (coreOf is.a) (lineNo rt.va) rt.attr else s
    ((is.c.tags.find a.toNat = none ∨ ∃ g, is.c.tags.find a.toNat = some g ∧ g.resolved = true) →
      exec (.qFmov h sub d a b imm) s = .next ((w s1).retire is)) ∧
    (∀ g f, is.c.tags.find a.toNat = some g → g.resolved = false → (s.quad g.quad).futs.find g.slot = some f →
      f.sites.length < 4 →
      let site := memSite (s.agentPart is.a) rt.va rt.attr.gen (is.who is.p)
      let f' : Fut := { f with sites := f.sites.filter (fun y => !y.same site) ++ [site] }
      exec (.qFmov h sub d a b imm) s =
        .next ((w (s1.mapQuad g.quad (fun q => { q with futs := q.futs.put g.slot f' }))).retire is))))

/-- R373, R374, R384: q.claim at or below NREG answers NREG at once and above it parks the wave in the team's queue; q.give lowers
NREG and the registers from it on lose their contents; q.live keeps the mask's bits at NREG ÷ 8 and above; q.yield only makes the
wave the youngest; q.sleep parks until the die's clock has passed n. Where the manual leaves a point open the model's reading is that of
log 34, 38. -/
def Obligations.RegisterPool : Prop :=
  (∀ (s : State) (is : Iss) (h : Hdr) (d : RegNo) (src : Src) (tm : Team),
    s.ready .core h 8 { rd := srcUseS src, wr := [.s d] } = some is → s.teams.find is.c.team = some tm →
    (is.srcZ src).toNat % 8 = 0 → 8 ≤ (is.srcZ src).toNat → (is.srcZ src).toNat ≤ min 256 tm.pool →
    (is.srcZ src).toNat ≤ is.c.nreg → is.c.ec < 63 →
    ∃ t, exec (.qClaim h d src) s = .next t ∧ Entered s t is .ec (knownS d (BitVec.ofNat 64 is.c.nreg)) [] none) ∧
  (∀ (s : State) (is : Iss) (h : Hdr) (d : RegNo) (src : Src) (tm : Team),
    s.ready .core h 8 { rd := srcUseS src, wr := [.s d] } = some is → s.teams.find is.c.team = some tm →
    (is.srcZ src).toNat % 8 = 0 → 8 ≤ (is.srcZ src).toNat → (is.srcZ src).toNat ≤ min 256 tm.pool →
    is.c.nreg < (is.srcZ src).toNat → is.c.ec < 63 →
    ∃ t c, exec (.qClaim h d src) s = .next t ∧ t.ctx? is.a = some c ∧ c.park = .claim (is.srcZ src).toNat d.toNat ∧
      t.teams.find is.c.team = some { tm with claims := tm.claims ++ [is.c.widx] } ∧ SameS is.c c [] ∧ SameV is.c c ∧
      c.rec? is.fid = some is.fr) ∧
  (∀ (s : State) (is : Iss) (h : Hdr) (src : Src),
    s.ready .core h 8 { rd := srcUseS src, wr := [] } = some is → (is.srcZ src).toNat % 8 = 0 →
    8 ≤ (is.srcZ src).toNat → (is.srcZ src).toNat ≤ is.c.nreg →
    (∀ p ∈ is.c.pend, ∀ w ∈ p.writes, ∀ n l, w.reg = .v n l → n < (is.srcZ src).toNat) →
    ∃ t c, exec (.qGive h src) s = .next t ∧ MovesOn s t is c ∧ c.nreg = (is.srcZ src).toNat ∧
      (∀ n l, n < c.nreg → l < 64 → c.vget n l = is.c.vget n l) ∧ SameS is.c c [] ∧ SameK is.c c [] ∧ SameF is.c c ∧
      t.rest = s.rest) ∧
  (∀ (s : State) (is : Iss) (h : Hdr) (imm : BitVec 32),
    s.ready .core h 12 { rd := [], wr := [] } = some is →
    ∃ t c, exec (.qLive h imm) s = .next t ∧ MovesOn s t is c ∧
      (∀ j, j < 32 → c.live.getLsbD j = if j < is.c.nreg / 8 then imm.getLsbD j else is.c.live.getLsbD j) ∧
      SameS is.c c [] ∧ SameK is.c c [] ∧ SameV is.c c ∧ SameF is.c c ∧ t.rest = s.rest) ∧
  (∀ (s : State) (is : Iss) (h : Hdr),
    s.ready .core h 8 { rd := [], wr := [] } = some is →
    ∃ t c, exec (.qYield h) s = .next t ∧ MovesOn s t is c ∧ c.turnAge = s.uid ∧ SameS is.c c [] ∧ SameK is.c c [] ∧
      SameV is.c c ∧ SameF is.c c ∧ c.tags = is.c.tags ∧ { c.rest with turnAge := is.c.turnAge } = is.c.rest ∧
      { t.rest with uid := s.uid } = s.rest ∧ t.quads = s.quads) ∧
  (∀ (s : State) (is : Iss) (h : Hdr) (src : Src),
    s.ready .core h 8 { rd := srcUseS src, wr := [] } = some is →
    ∃ t c, exec (.qSleep h src) s = .next t ∧ MovesOn s t is c ∧
      c.park = (if (is.srcZ src).toNat % 2 ^ 32 = 0 then is.c.park
        else .sleep (s.clk (dieOf is.a) + (is.srcZ src).toNat % 2 ^ 32)) ∧
      SameS is.c c [] ∧ SameK is.c c [] ∧ SameV is.c c ∧ SameF is.c c ∧ t.rest = s.rest)

/-- R355 to R358, R379, R380: q.spawn and q.launch with a record and a footprint that pass their checks take a future and queue one group
that names it; a record that fails a check of R357 gives a future that is resolved at once with that status and code, and queues
nothing. q.launch of a wave without privilege is PRIV, and a spawn at depth 8 is NEST. Where the manual leaves a point open the model's
reading is that of log 35, 44, 115, 147, 152. -/
def Obligations.Launches : Prop :=
  (∀ (spawn : Bool) (s s1 s2 : State) (is : Iss) (h : Hdr) (sub : BitVec 2) (d a : RegNo) (x0 : BitVec 32) (l fb : List Byte) (st : Bool),
    s.ready .core h 16 { rd := [.s a], wr := [.s d] } = some is → is.quiet s → s.record is (sub == 1) a x0 64 64 = .ok (l, s1) →
    (spawn = false → is.c.priv = true) → (spawn = true → ((s1.teamOf is.c).elim 0 (·.depth)) < 8) →
    s1.readFoot is (field l 0 8 % 2 ^ 56) = .ok (.ok (fb, st, s2)) → field l 0 8 % 8 = 0 → s2.futRoom is →
    let i : Instr := if spawn then .qSpawn h sub d a x0 else .qLaunch h sub d a x0
    let kind := if spawn then Kind.spawn else Kind.launch
    (∀ g, s2.checkLaunch is spawn l fb = .ok g →
      ∃ t k, exec i s = .next t ∧ Taken s2 t is d kind k ∧
        t.groups = s2.groups.put s2.uid { g with fut := some (quadOf is.a, k) } ∧ t.mem = s.mem ∧ t.teams = s1.teams) ∧
    (∀ x code, s2.checkLaunch is spawn l fb = .error (x, code) →
      ∃ t, exec i s = .next t ∧ AtOnce s2 t is d kind x code ∧ t.groups = s.groups ∧ t.mem = s.mem ∧ t.teams = s1.teams)) ∧
  (∀ (s s1 : State) (is : Iss) (h : Hdr) (sub : BitVec 2) (d a : RegNo) (x0 : BitVec 32) (l : List Byte),
    s.ready .core h 16 { rd := [.s a], wr := [.s d] } = some is → s.record is (sub == 1) a x0 64 64 = .ok (l, s1) →
    is.c.priv = false →
    exec (.qLaunch h sub d a x0) s = .next (s.except is (is.fault0 Code.priv))) ∧
  (∀ (s s1 : State) (is : Iss) (h : Hdr) (sub : BitVec 2) (d a : RegNo) (x0 : BitVec 32) (l : List Byte),
    s.ready .core h 16 { rd := [.s a], wr := [.s d] } = some is → s.record is (sub == 1) a x0 64 64 = .ok (l, s1) →
    8 ≤ (s1.teamOf is.c).elim 0 (·.depth) →
    exec (.qSpawn h sub d a x0) s = .next (s.except is (is.fault0 Code.nest)))

/-! ## Engine work -/

/-- R164 to R166, R168, R170, R365: a copy instruction reads its parameters at issue. A command that fails a check of R166
resolves FAULTED at once with that code; one that moves nothing resolves DONE; one that its core's range scoreboard has no room
for parks its wave before it, ahead of those checks; and any other stands in the quad's engine with its whole length left, its future and its ranges in the scoreboard, each
with the swizzle under which the copy finds its bytes. Nothing has moved yet. Where the manual leaves a point open the model's reading is that of
log 47, 48, 129. -/
def Obligations.CopyPosts : Prop :=
  ∀ (i : Instr) (s : State) (is : Iss) (h : Hdr) (d : RegNo) (rd : List Use) (x0 : BitVec 32) (x : CopyX),
    copyForm i = some (h, d, rd, x0, x) → s.ready .core h 16 { rd := rd, wr := [.s d] } = some is → is.quiet s →
    let cmd := copyCmd s is i x0 x
    let s1 : State := { s with uid := s.uid + 1 }
    let chk := s1.checkCopy is.a (coreOf is.a) (s.agentPart is.a) { cmd with id := s.uid } (copyRows is i)
    let rs := s1.copyRanges { cmd with id := s.uid } (copyRows is i)
    let room := s.boardRoom (coreOf is.a) rs
    (room = false → exec i s = .next (s.parkAgent is (.board rs))) ∧
    (∀ code, room = true → chk = some code → s.futRoom is →
      ∃ t, exec i s = .next t ∧ AtOnce s t is d Kind.copy Status.faulted code ∧ t.mem = s.mem ∧ t.teams = s.teams ∧
        (t.quad (quadOf is.a)).copies = (s.quad (quadOf is.a)).copies) ∧
    (room = true → chk = none → cmd.left = [] → s.futRoom is →
      ∃ t, exec i s = .next t ∧ AtOnce s t is d Kind.copy Status.done 0 ∧ t.mem = s.mem ∧ t.teams = s.teams ∧
        (t.quad (quadOf is.a)).copies = (s.quad (quadOf is.a)).copies) ∧
    (room = true → chk = none → cmd.left ≠ [] → s.futRoom is →
      ∃ t k, exec i s = .next t ∧ Taken s t is d Kind.copy k ∧ t.mem = s.mem ∧ t.teams = s.teams ∧
        (t.quad (quadOf is.a)).copies =
          (s.quad (quadOf is.a)).copies ++ [{ cmd with id := s.uid, fut := some (quadOf is.a, k) }] ∧
        (t.core (coreOf is.a)).board.map (fun b => (b.copy, b.swz, b.team, b.lo, b.hi)) =
          (s.core (coreOf is.a)).board.map (fun b => (b.copy, b.swz, b.team, b.lo, b.hi)) ++
            rs.flatMap (fun e => e.2.map (fun r => (s.uid, e.1, r))))

/-- R167 to R169, R193, R237, R243, R244, R246, R247, R261, R262: the steps of engine work. COPY_BYTES_LAND moves bytes of a row
that are left from its source to its destination and takes them off what is left, between two places of the local store as of any other; COPY_COMPLETE resolves a command with nothing
left DONE, a cancelled one CANCELLED, a failed one FAULTED with its code; SCOREBOARD_ENTRY_FREE takes a range off the scoreboard.
A tile pass is granted to the next eligible task of an idle engine whose operands are on hand, and completes with its effects; a
task that has ended leaves the table, arrives and resolves. A rick operation is granted the idle rick unit and completes with its
effects together, or when cancelled before its grant CANCELLED; an e.rkstat needs no grant, and its register's value is the rick's. An amax update is joined to its entry in each wave's order. Where the manual leaves a point open the model's reading is that of
log 47 to 51, 77, 98, 138, 140, 150, 151, 157, 160. -/
def Obligations.EngineSteps : Prop :=
  (∀ (s s1 s2 : State) (q : Nat) (c : Copy) (copy row col n : Nat) (left : List (Nat × Nat × Nat)) (l : List Byte) (stale : Bool)
      (carry : List (Nat × Nat × Byte)),
    s.findCopy copy = some (q, c) → c.cancel = false → c.fail = none → c.held = none → 0 < n → n ≤ 256 →
    s.landOk c row col n = true → takeLeft c.left row col (col + n) = some left →
    (s.touchIndex c row).indexBad c row col n = none →
    (s.touchIndex c row).copyWords c row col n = .ok (l, stale, carry, s1) → s1.copyDst c row col l = .ok s2 →
    exec (.copyBytesLand copy row col n) s =
      .next (s2.mapCopy q copy (fun c => { c with left := left, stale := c.stale || stale, carry := carry, again := false })).mapsGo) ∧
  (∀ (s : State) (q : Nat) (c : Copy) (copy col n : Nat) (left : List (Nat × Nat × Nat)) (p r : LsAt),
    s.findCopy copy = some (q, c) → c.cancel = false → c.fail = none → c.held = none → c.kind = ckCopy → c.idx = none →
    c.sls = true → c.dls = true → c.swz = 0 → c.bar = none → c.src % 4 = c.dst % 4 → c.carry = [] → 0 < n → n ≤ 256 →
    s.landOk c 0 col n = true →
    takeLeft c.left 0 col (col + n) = some left → s.lsRow c.team 0 ((c.src + col) % 2 ^ 32) n = some p →
    (s.touch c.agent c.pc p n).lsRow c.team 0 ((c.dst + col) % 2 ^ 32) n = some r →
    exec (.copyBytesLand copy 0 col n) s = .next ((((s.touch c.agent c.pc p n).touch c.agent c.pc r n).lsWriteSwz r 0
      ((List.range n).flatMap (fun i => s.lsRead p.ref (p.off + i) 1))).mapCopy q copy (fun c =>
        { c with left := left, carry := [], again := false })).mapsGo) ∧
  (∀ s : State, (∀ e ∈ s.parts, e.2.maps = []) → s.mapsGo = s) ∧
  (∀ (s : State) (q : Nat) (c : Copy) (copy : Nat), s.findCopy copy = some (q, c) →
    let t : State := s.mapQuad q (fun y => { y with copies := y.copies.filter (fun k => k.id ≠ copy) })
    (c.fail = none → c.cancel = false → c.left = [] →
      exec (.copyComplete copy) s = .next (t.resolve c.fut Status.done 0 0 c.stale).mapsGo) ∧
    (c.fail = none → c.cancel = true → exec (.copyComplete copy) s = .next (t.resolve c.fut Status.cancelled 0 0 c.stale).mapsGo) ∧
    (∀ code, c.fail = some code → exec (.copyComplete copy) s = .next (t.resolve c.fut Status.faulted code 0 c.stale).mapsGo)) ∧
  (∀ (s : State) (core id : Nat) (b : Board), (s.core core).board.find? (fun b => b.id = id) = some b →
    (∀ q c, s.findCopy b.copy = some (q, c) → c.left = []) →
    ∃ t, exec (.scoreboardEntryFree core id) s = .next t ∧ t.mem = s.mem ∧ t.ctxs = s.ctxs ∧ t.quads = s.quads ∧
      (t.core core).board = (s.core core).board.filter (fun x => x.id ≠ id) ∧ ∀ k, k ≠ core → t.core k = s.core k) ∧
  (∀ (s s' : State) (q id : Nat) (k t : Task), s.task? q id = some k → k.isRick = false → (s.quad q).engine = none →
    s.nextTask q (s.eligible q) = some t → t.id = id → (∃ t', s.runPass q t = .ok (s', t')) →
    ∃ u : State, exec (.tilePassGrant q id) s = .next u.mapsGo ∧ (u.quad q).engine = some id ∧
      (u.quad q).tasks = (s.quad q).tasks.map (fun t => if t.id = id then { t with granted := true, again := false } else t) ∧
      u.teams = s.teams ∧ u.mem = s.mem ∧ u.rest = s.rest) ∧
  (∀ (s : State) (q : Nat) (t : Task), s.eligible q t = true → ∀ code va, s.runPass q t = .error (code, va) →
    (s.taskTrouble q t code va).isSome = true) ∧
  (∀ (s : State) (q : Nat) (t : Task) (code va : Nat), s.eligible q t = true → s.nextTask q (s.eligible q) = some t →
    s.task? q t.id = some t → (s.quad q).engine = none → s.runPass q t = .error (code, va) →
    ∃ u, s.taskTrouble q t code va = some u ∧ exec (.tilePassGrant q t.id) s = .next u) ∧
  (∀ (s : State) (q id : Nat) (k : Task), s.task? q id = some k → k.isRick = true → (s.quad q).rickUnit = none →
    (s.nextTask q (s.rickEligible q)).map (·.id) = some id →
    ∃ u, exec (.tilePassGrant q id) s = .next u ∧ (u.quad q).rickUnit = some id ∧
      (u.quad q).tasks = (s.quad q).tasks.map (fun t => if t.id = id then { t with granted := true } else t) ∧
      u.teams = s.teams ∧ u.mem = s.mem) ∧
  (∀ (s s' : State) (q id : Nat) (t t' : Task), s.task? q id = some t → t.granted = true → t.isRick = false →
    (s.mapQuad q (fun x => { x with engine := none })).runPass q t = .ok (s', t') →
    exec (.tilePassComplete q id) s = .next (s'.mapTask q id (fun t =>
      { t with k := t'.k, done := t'.done, flags := t'.flags, stale := t'.stale, granted := false }))) ∧
  (∀ (s : State) (q id : Nat) (t : Task), s.task? q id = some t → t.isRick = false → t.granted = false →
    (∀ c, t.fail = some c → exec (.tileTaskComplete q id) s = .next (s.endTask q t Status.faulted c)) ∧
    (t.fail = none → t.cancel = true → exec (.tileTaskComplete q id) s = .next (s.endTask q t Status.cancelled 0)) ∧
    (t.fail = none → t.cancel = false → t.done = true → exec (.tileTaskComplete q id) s = .next (s.endTask q t Status.done 0))) ∧
  (∀ (s : State) (q id : Nat) (t : Task), s.task? q id = some t → t.isRick = true → t.held = none →
    (∀ k i f, t.op ≠ .rkstat k i f) →
    (t.granted = true → t.fail = none → (s.runRick t).err = none →
      exec (.rickOperationComplete q id) s = .next ((s.runRick t).s.endRick q t (s.runRick t))) ∧
    (∀ c, t.granted = true → t.fail = some c →
      exec (.rickOperationComplete q id) s = .next (s.endRick q t (RickOut.none Status.faulted c s))) ∧
    (t.granted = false → t.cancel = true →
      exec (.rickOperationComplete q id) s = .next (s.endRick q t (RickOut.none Status.cancelled 0 s)))) ∧
  (∀ (s : State) (q id k pend f : Nat) (t : Task) (tm : Team), s.task? q id = some t → t.held = none → t.op = .rkstat k pend f →
    s.taskFree q t = true → s.teams.find t.team = some tm →
    exec (.rickOperationComplete q id) s = .next ((s.mapQuad q (fun x => { x with tasks := x.tasks.filter (fun y => y.id ≠ id) })).mapPend
      t.agent pend (fun p => { p with writes := p.writes.map (fun w => { w with val := some (tm.rickStat k) }) }))) ∧
  (∀ (s : State) (q id p e : Nat) (a : Agent) (w : W32), (s.quad q).amaxQ.find? (fun u => u.1 = id) = some (id, a, p, e, w) →
    (s.quad q).amaxQ.any (fun u => u.2.1 = a && u.1 < id) = false →
    ∃ t, exec (.amaxUpdateApply q id) s = .next t ∧
      (∀ x, AMap.get 0 (t.quad q).amax x = if x = e then amaxJoin (AMap.get 0 (s.quad q).amax e) w
        else AMap.get 0 (s.quad q).amax x) ∧
      (t.quad q).amaxQ = (s.quad q).amaxQ.filter (fun u => u.1 ≠ id) ∧ t.mem = s.mem ∧ t.ctxs = s.ctxs ∧ t.teams = s.teams)

/-! ## KV -/

/-- R413, R415, R433, R434: kv.bind gives a team without a stoker a free context of its core, which starts at PC + SIMM with s0
and s1; restarts a stoker that has stopped; answers BUSY for one that runs, and NONE_FREE without a free context. The unbind form
discards the stoker, its entries and its waiting pops. An entry that is no whole parcel faults ALIGN. R416 to R420: a stoker's
kv.push offers a word at its queue's next number, and with a full queue waits; .sub=end marks the end, at which a parked pop that finds no
offered entry takes all ones at once, and .sub=stop stops the stoker without a record. kv.pop takes the lowest offered word, or all ones after the end, and else parks; kv.ack acknowledges the
wave's first unbound entry, .sub=fut binds it to a future; kv.cur answers the numbers. A push by a wave faults STOKER, and a team
without a stoker faults HANDLE. Where the manual leaves a point open the model's reading is that of
log 39, 59. -/
def Obligations.Stokers : Prop :=
  ((∀ (s : State) (is : Iss) (h : Hdr) (d a b : RegNo) (x0 : BitVec 32), s.ready .core h 16 { rd := [.s a, .s b], wr := [.s d] } = some is →
    let entry := (is.pc + x0.signExtend 64) &&& 0x00FFFFFFFFFFFFFF
    let core := coreOf is.a
    let c := stokerCtx is.c.team (is.s b) (is.s a) entry
    (entry.toNat % 4 ≠ 0 → exec (.kvBind h d a b x0) s = .next (s.except is (is.fault Code.align entry.toNat is.p))) ∧
    (entry.toNat % 4 = 0 → is.released s 0 → is.c.ec < 63 →
      (∀ k x, s.stokerOf is.c.team = some (k, x) → s.stokerRuns k x = true →
        exec (.kvBind h d a b x0) s = .next (s.answers is d (kvStatus Ks.busy (k % 4)))) ∧
      (∀ k x, s.stokerOf is.c.team = some (k, x) → s.stokerRuns k x = false →
        exec (.kvBind h d a b x0) s = .next ((((s.keepRecord (stokerAgent k)).mapStoker k (fun x => { x with
          running := true, queues := x.queues.map (fun e => (e.1, e.2.restart)) })).setCtx (stokerAgent k) c).answers is d
            (kvStatus Ks.ok (k % 4)))) ∧
      (s.stokerOf is.c.team = none → (List.range 4).find? (fun i => (s.stokers.find (4 * core + i)).isNone) = none →
        exec (.kvBind h d a b x0) s = .next (s.answers is d (kvStatus Ks.noneFree 0))) ∧
      (∀ i tm, s.stokerOf is.c.team = none → s.teams.find is.c.team = some tm →
        (List.range 4).find? (fun i => (s.stokers.find (4 * core + i)).isNone) = some i →
        ∃ t, exec (.kvBind h d a b x0) s = .next t ∧
          t.stokers.find (4 * core + i) = some { team := is.c.team, running := true, queues := [] } ∧
          t.teams.find is.c.team = some { tm with stoker := some (4 * core + i) } ∧
          t.ctx? (stokerAgent (4 * core + i)) = some c ∧ t.mem = s.mem ∧
          ∃ w, t.ctx? is.a = some w ∧ w.ec = is.c.ec + 1 ∧
            w.pend = is.c.pend ++ [{ Pend.blank s.uid .ec is with writes := knownS d (BitVec.ofNat 64 (kvStatus Ks.ok i)) }] ∧
            w.rec? is.fid = some { is.fr with pc := is.next } ∧ SameS is.c w []))) ∧
  (∀ (s : State) (is : Iss) (h : Hdr) (d : RegNo), s.ready .core h 16 { rd := [], wr := [.s d] } = some is → is.c.ec < 63 →
    (s.stokerOf is.c.team = none → exec (.kvUnbind h d) s = .next (s.answers is d (kvStatus Ks.empty 0))) ∧
    (∀ k x, s.stokerOf is.c.team = some (k, x) → exec (.kvUnbind h d) s = .next
      (((s.poppers is.c.team none).foldl (fun s e => s.endPop e.1 e.2.1 (BitVec.allOnes 64)) (s.freeStoker is.c.team)).answers is d
        (kvStatus Ks.ok (k % 4)))))) ∧
  ((∀ (s : State) (is : Iss) (h : Hdr) (a b : RegNo), s.ready .coreAll h 8 { rd := [.s b], wr := [] } = some is →
    (isStoker is.a = false → exec (.kvPush h a b) s = .next (s.except is (is.fault0 Code.stoker))) ∧
    (∀ k x, isStoker is.a = true → s.stokerOf is.c.team = some (k, x) → 32 ≤ (x.queue a.toNat).ents.length →
      exec (.kvPush h a b) s = .next s) ∧
    (∀ k x, isStoker is.a = true → s.stokerOf is.c.team = some (k, x) → (x.queue a.toNat).ents.length < 32 →
      is.released s 0 →
      ∃ t c y, exec (.kvPush h a b) s = .next t ∧ MovesOn s t is c ∧ t.stokers.find k = some y ∧
        (y.queue a.toNat).ents = (x.queue a.toNat).ents ++ [((x.queue a.toNat).next.toNat, is.s b, .offered)] ∧
        (y.queue a.toNat).next = (x.queue a.toNat).next + 1 ∧ (∀ n, n ≠ a.toNat → y.queue n = x.queue n) ∧
        SameS is.c c [] ∧ t.mem = s.mem ∧ t.teams = s.teams)) ∧
  (∀ (s : State) (is : Iss) (h : Hdr) (a : RegNo) (k : Nat) (x : Stoker),
    s.ready .coreAll h 8 { rd := [], wr := [] } = some is → isStoker is.a = true → s.stokerOf is.c.team = some (k, x) →
    is.released s 0 →
    exec (.kvPushEnd h a) s = .next (((s.mapStoker k (fun y => y.setQueue a.toNat { y.queue a.toNat with fin := true })).wakeEnd is.c.team
      a.toNat).retire is) ∧
    (s.poppers is.c.team (some a.toNat) = [] →
      ∃ t c y, exec (.kvPushEnd h a) s = .next t ∧ MovesOn s t is c ∧ t.stokers.find k = some y ∧ (y.queue a.toNat).fin = true ∧
        (y.queue a.toNat).ents = (x.queue a.toNat).ents ∧ SameS is.c c [] ∧ t.mem = s.mem ∧ t.teams = s.teams)) ∧
  (∀ (s : State) (team n d no k : Nat) (b : Agent) (c : Ctx) (x : Stoker), s.poppers team (some n) = [(b, d, no)] →
    s.ctx? b = some c → c.park = .pop n d no → c.team = team → c.stop = none → s.stokerOf team = some (k, x) →
    (x.queue n).offered? = none → (x.queue n).fin = true → s.wakeEnd team n = s.endPop b d (BitVec.allOnes 64)) ∧
  (∀ (s : State) (is : Iss) (h : Hdr) (k : Nat) (x : Stoker), s.ready .coreAll h 8 { rd := [], wr := [] } = some is →
    isStoker is.a = true → s.stokerOf is.c.team = some (k, x) →
    ∃ t c st, exec (.kvPushStop h) s = .next t ∧ t.ctx? is.a = some c ∧ c.stop = some st ∧ st.silent = true ∧ st.posted = true ∧
      SameS is.c c [] ∧ t.mem = s.mem ∧ t.stokers.find k = some { x with running := false }) ∧
  (∀ (s : State) (is : Iss) (h : Hdr) (d a : RegNo) (k : Nat) (x : Stoker),
    s.ready .core h 8 { rd := [], wr := [.s d] } = some is → s.stokerOf is.c.team = some (k, x) → is.c.ec < 63 →
    let q := x.queue a.toNat
    (∀ e, s.poppers is.c.team (some a.toNat) = [] → q.offered? = some e → exec (.kvPop h d a) s = .next
      ((s.mapStoker k (fun x => x.setQueue a.toNat (q.setOwner e.1 (.wave is.a)))).answers is d e.2.1.toNat)) ∧
    (s.poppers is.c.team (some a.toNat) = [] → q.offered? = none → q.fin = true → exec (.kvPop h d a) s = .next
      (s.answers is d (2 ^ 64 - 1))) ∧
    (s.poppers is.c.team (some a.toNat) ≠ [] ∨ (q.offered? = none ∧ q.fin = false) →
      ∃ t c, exec (.kvPop h d a) s = .next t ∧ t.ctx? is.a = some c ∧ c.park = .pop a.toNat d.toNat s.uid ∧
        c.rec? is.fid = some is.fr ∧ SameS is.c c [] ∧ t.stokers = s.stokers ∧ t.mem = s.mem)) ∧
  (∀ (s : State) (is : Iss) (h : Hdr) (a : RegNo) (k : Nat) (x : Stoker),
    s.ready .core h 8 { rd := [], wr := [] } = some is → s.stokerOf is.c.team = some (k, x) →
    ((x.queue a.toNat).owned? is.a = none → exec (.kvAck h a) s = .next (s.retire is)) ∧
    (∀ e, (x.queue a.toNat).owned? is.a = some e →
      ∃ t c y, exec (.kvAck h a) s = .next t ∧ MovesOn s t is c ∧ t.stokers.find k = some y ∧
        (y.queue a.toNat).ents = (x.queue a.toNat).ents.filter (·.1 ≠ e.1) ∧ SameS is.c c [] ∧ t.mem = s.mem)) ∧
  (∀ (s : State) (is : Iss) (h : Hdr) (a b : RegNo) (k : Nat) (x : Stoker),
    s.ready .core h 8 { rd := [.h b], wr := [] } = some is → s.stokerOf is.c.team = some (k, x) →
    (is.c.tags.find b.toNat = none → handleStatus (is.s b) = Status.pending →
      exec (.kvAckFut h a b) s = .next (s.except is (is.fault Code.handle 0 is.p))) ∧
    (∀ e, is.c.tags.find b.toNat = none → handleStatus (is.s b) ≠ Status.pending → (x.queue a.toNat).owned? is.a = some e →
      exec (.kvAckFut h a b) s = .next ((s.mapStoker k (fun x => x.setQueue a.toNat
        ((x.queue a.toNat).unbind e.1 (handleStatus (is.s b) == Status.done)))).retire is)) ∧
    (∀ e g f, is.c.tags.find b.toNat = some g → g.resolved = false → (s.quad g.quad).futs.find g.slot = some f →
      (x.queue a.toNat).owned? is.a = some e →
      ∃ t c y u, exec (.kvAckFut h a b) s = .next t ∧ MovesOn s t is c ∧ t.stokers.find k = some y ∧
        y.queue a.toNat = (x.queue a.toNat).setOwner e.1 (.fut g.quad g.slot) ∧ (t.quad g.quad).futs.find g.slot = some u ∧
        u.acks = f.acks ++ [(stokerAgent k, a.toNat, e.1)] ∧ SameS is.c c [] ∧ t.mem = s.mem)) ∧
  (∀ (s : State) (is : Iss) (h : Hdr) (d a : RegNo), s.ready .coreAll h 8 { rd := [], wr := [.s d] } = some is →
    (s.stokerOf is.c.team = none → exec (.kvCur h d a) s = .next (s.except is (is.fault Code.handle 0 is.p))) ∧
    (∀ k x, s.stokerOf is.c.team = some (k, x) → is.c.ec < 63 → exec (.kvCur h d a) s = .next (s.answers is d
      (2 ^ 32 * (x.queue a.toNat).next.toNat + (x.queue a.toNat).cursor % 2 ^ 32)))))

/-- R425, R426, R429 to R431, R433: kv.app and kv.trunc take a future of KIND 8 and leave for the home of the descriptor after the
wave's earlier KV steps, or resolve FAULTED where the descriptor fails at issue; kv.find, kv.ins and kv.rel enter their status in
EC and leave; kv.rope enters the rotated pairs with their flags in EC; kv.rpset loads the wave's rope table. R424 to R429: at the
home of its descriptor a KV step with every check passed does all that its rules say at once: its writes as one masked write a
line, its future or its status; a step that ends with a status changes nothing else. kv.find raises the counts of the entry and of
the page; kv.ins adds an entry of count 1; kv.rel takes one off. Where the manual leaves a point open the model's reading is that of
log 9, 55, 57, 58, 109, 147, 160. -/
def Obligations.KvInstructions : Prop :=
  ((∀ (s : State) (is : Iss) (h : Hdr) (d a b : RegNo) (sc : BitVec 3),
    s.ready .core h 16 { rd := [.s a, .s b], wr := [.s d] } = some is → is.quiet s → s.futRoom is →
    let src := (is.s b).toNat % 2 ^ 32
    src % 16 = 0 → (∃ p, s.lsOf is.a is.c src = some p ∧ p.off + 16 ≤ p.limit ∧ is.offBoard s 16 [p]) →
    (is.allows s (vaOf (is.s a)) true true →
      ∃ s1 k, s.takeFut is d Kind.kv (s.scope is.a sc) s.uid = .ok (s1, quadOf is.a, k) ∧
        exec (.kvApp h d a b sc) s = .next ((s1.sendKv is none (is.routeOf s (vaOf (is.s a)))
          (.kvapp src is.c.team (some (quadOf is.a, k)) is.p) []).retire is)) ∧
    (∀ code, s.route (coreOf is.a) (s.agentPart is.a) (vaOf (is.s a)) true true = .error code →
      ∃ t, exec (.kvApp h d a b sc) s = .next t ∧ AtOnce s t is d Kind.kv Status.faulted code ∧ t.mem = s.mem ∧ t.reqs = s.reqs)) ∧
  (∀ (s : State) (is : Iss) (h : Hdr) (d a b : RegNo) (sc : BitVec 3),
    s.ready .core h 12 { rd := [.s a, .s b], wr := [.s d] } = some is → is.quiet s → s.futRoom is →
    (is.allows s (vaOf (is.s a)) true true →
      ∃ s1 k, s.takeFut is d Kind.kv (s.scope is.a sc) s.uid = .ok (s1, quadOf is.a, k) ∧
        exec (.kvTrunc h d a b sc) s = .next ((s1.sendKv is none (is.routeOf s (vaOf (is.s a)))
          (.kvtrunc ((is.s b).toNat % 2 ^ 32) (some (quadOf is.a, k))) []).retire is)) ∧
    (∀ code, s.route (coreOf is.a) (s.agentPart is.a) (vaOf (is.s a)) true true = .error code →
      ∃ t, exec (.kvTrunc h d a b sc) s = .next t ∧ AtOnce s t is d Kind.kv Status.faulted code ∧ t.mem = s.mem ∧ t.reqs = s.reqs)) ∧
  (∀ (s : State) (is : Iss) (h : Hdr) (d a b : RegNo),
    s.ready .coreAll h 12 { rd := [.s a, .s (a + 1), .s b], wr := [.s d] } = some is → is.quiet s →
    is.allows s (vaOf (is.s b)) false true → is.c.ec < 63 →
    exec (.kvFind h d a b) s = .next (((s.enter is { Pend.awaiting s.uid .ec is [.s d.toNat] [] with acq := some 3 }).sendKv is
      (some s.uid) (is.routeOf s (vaOf (is.s b))) (.kvfind ((is.s a).toNat + 2 ^ 64 * (is.s (a + 1)).toNat) d.toNat) []).retire is)) ∧
  (∀ (s : State) (is : Iss) (h : Hdr) (d a b c : RegNo),
    s.ready .core h 12 { rd := [.s a, .s (a + 1), .s b, .s c], wr := [.s d] } = some is → is.quiet s →
    is.allows s (vaOf (is.s b)) false true → is.c.ec < 63 →
    let r := s.release is.a 3
    exec (.kvIns h d a b c) s = .next (((r.1.enter is (Pend.awaiting r.1.uid .ec is [.s d.toNat] [])).sendKv is
      (some r.1.uid) (is.routeOf s (vaOf (is.s b)))
      (.kvins ((is.s a).toNat + 2 ^ 64 * (is.s (a + 1)).toNat) ((is.s c).toNat % 2 ^ 32) d.toNat) r.2).retire is)) ∧
  (∀ (s : State) (is : Iss) (h : Hdr) (d a b : RegNo),
    s.ready .core h 8 { rd := [.s a, .s (a + 1), .s b], wr := [.s d] } = some is → is.quiet s →
    is.allows s (vaOf (is.s b)) false true → is.c.ec < 63 →
    exec (.kvRel h d a b) s = .next (((s.enter is (Pend.awaiting s.uid .ec is [.s d.toNat] [])).sendKv is
      (some s.uid) (is.routeOf s (vaOf (is.s b))) (.kvrel ((is.s a).toNat + 2 ^ 64 * (is.s (a + 1)).toNat) d.toNat) []).retire is)) ∧
  (∀ (s : State) (is : Iss) (h : Hdr) (d a b c : RegNo) (p : BitVec 8),
    s.ready .core h 12 { rd := [.v a 2, .v b 1, .v c 1], wr := [.v d 2] } = some is → is.c.ec < 63 →
    let r (l : Nat) := rotate is.c.rope p.toNat (is.v a l).toNat (is.vj a 1 l).toNat (bits (is.v b l).toNat 0 8) (is.v c l).toNat
    ∃ t, exec (.kvRope h d a b c p) s = .next t ∧ Entered s t is .ec
      (known (is.vWrites true d (is.p.list.map (fun l => (l, (r l).1 + 2 ^ 32 * (r l).2.1)))))
      (is.p.list.map (fun l => (l, (r l).2.2))) none) ∧
  (∀ (s s1 : State) (is : Iss) (h : Hdr) (a : RegNo) (imm : BitVec 32) (l : List Byte),
    s.ready .core h 12 { rd := [.s a], wr := [] } = some is → is.quiet s →
    s.readRecord is (is.addrS a imm) 256 16 = .ok (l, false, s1) →
    ∃ t c, exec (.kvRpset h a imm) s = .next t ∧ MovesOn s t is c ∧ c.rope = BitVec.ofNat 2048 (ofLe l) ∧
      SameS is.c c [] ∧ SameK is.c c [] ∧ SameV is.c c ∧ SameF is.c c ∧ t.rest = s1.rest)) ∧
  ((∀ (s s1 s2 : State) (r : Req) (k : KvRun) (ls : List Nat), s.reqs.find? (fun x => x.id = r.id) = some r →
    (match r.op with | .kvapp .. | .kvtrunc .. | .kvfind .. | .kvins .. | .kvrel .. => True | _ => False) →
    s.mayAct r = true → s.staleGen r.part r.va r.gen = false → r.held = none → s.draining r = false → s.absent r.id = false →
    s.linkFor r (s.unitOf r.part r.va) = some s1 →
    (s1.kvRun (s.unitOf r.part r.va % 32) r).run [] = .ok (k, ls) → s1.kvReach r (s.unitOf r.part r.va) ls = some s2 →
    exec (.homeSliceOperation r.id) s = .next (s2.kvDone (s.unitOf r.part r.va % 32) r k).rangesGo) ∧
  (∀ (s : State) (part die tag pool : Nat) (p : Pool) (e : Prefix) (rc : Nat) (l l1 l2 : List Nat),
    (s.kvPool part pool).run l = .ok (p, l1) →
    (s.die die).prefixes.find? (fun e => e.matches part tag pool) = some e → e.page < p.npage →
    (s.kvRc part [] p e.page).run l1 = .ok (rc, l2) → e.count ≠ 65535 → rc ≠ 65535 →
    (s.kvLookup part die tag pool).run l = ((s.kvSetRc part [] p e.page (rc + 1)).run l2).map (fun o =>
      ({ puts := o.1, val := 2 ^ 32 * Ks.ok + e.page % 2 ^ 32, flags := 0, clamp := false, acq := true,
         prefixes := some ((s.die die).prefixes.map (fun x => if x = e then { x with count := x.count + 1 } else x)) }, o.2))) ∧
  (∀ (s : State) (part die tag pool page : Nat) (p : Pool) (rc : Nat) (l l1 l2 : List Nat),
    (s.kvPool part pool).run l = .ok (p, l1) → page < p.npage →
    (s.die die).prefixes.find? (fun e => e.matches part tag pool) = none →
    ((s.die die).prefixes.filter (fun e => bits e.tag.toNat 0 14 = bits tag 0 14)).length < 8 →
    (s.kvRc part [] p page).run l1 = .ok (rc, l2) → rc ≠ 65535 →
    (s.kvInsert part die tag pool page).run l = ((s.kvSetRc part [] p page (rc + 1)).run l2).map (fun o =>
      ({ puts := o.1, val := 2 ^ 32 * Ks.ok + page % 2 ^ 32, flags := 0, clamp := false, acq := false,
         prefixes := some ((s.die die).prefixes ++
           [{ part := part, tag := BitVec.ofNat 128 tag, pool := pool, page := page, count := 1 }]) }, o.2))) ∧
  (∀ (s : State) (part die tag pool : Nat) (p : Pool) (e : Prefix) (l l1 : List Nat), (s.kvPool part pool).run l = .ok (p, l1) →
    (s.die die).prefixes.find? (fun e => e.matches part tag pool) = some e → e.page < p.npage → 1 < e.count →
    (s.kvReturn part die tag pool).run l = .ok
      ({ puts := [], val := 2 ^ 32 * Ks.ok + (e.count - 1) % 2 ^ 32, flags := 0, clamp := false, acq := false,
         prefixes := some ((s.die die).prefixes.map (fun x => if x = e then { x with count := x.count - 1 } else x)) }, l1)))

/-! ## Arenas and ranges -/

/-- R78, R82, R85, R87, R91: c.anew enters a result in EC and leaves for the arena master with its id, parent and attributes;
c.seal and c.drop of arena 0 fault ARENA_DEAD, of arena 1 PROT, a seal of a live arena that is not N or is software-managed PROT,
and else they take a future and leave for the master; c.aq answers the core's copy at once, or with another SUB the master's entry
with the die's count of lines. The table itself does not change at issue. Where the manual leaves a point open the model's reading is that of
log 30, 60, 62, 116. -/
def Obligations.ArenaRequests : Prop :=
  (∀ (s : State) (is : Iss) (h : Hdr) (d a : RegNo) (quota : BitVec 9) (zf swm : Bool) (typ : BitVec 2),
    s.ready .wave h 16 { rd := [.s a], wr := [.s d] } = some is → is.c.ec < 63 →
    ∃ t c, exec (.cAnew h d a quota zf swm typ) s = .next t ∧ MovesOn s t is c ∧ c.ec = is.c.ec + 1 ∧
      c.pend = is.c.pend ++ [Pend.awaiting s.uid .ec is [.s d.toNat] []] ∧
      (t.part (s.agentPart is.a)).masterQ = (s.part (s.agentPart is.a)).masterQ ++ [{
        id := s.uid, agent := is.a, op := mAnew, aid := bits (is.s a).toNat 0 12, arg := bits (is.s a).toNat 16 12,
        x1 := 16 * quota.toNat + (if zf then 8 else 0) + (if swm then 4 else 0) + typ.toNat, pend := s.uid, fut := none }] ∧
      (t.part (s.agentPart is.a)).arenas = (s.part (s.agentPart is.a)).arenas ∧ SameS is.c c [] ∧ SameK is.c c [] ∧
      SameV is.c c ∧ SameF is.c c ∧ t.mem = s.mem ∧ t.cores = s.cores) ∧
  (∀ (drop : Bool) (s : State) (is : Iss) (h : Hdr) (d a : RegNo), s.ready .wave h 8 { rd := [.s a], wr := [.s d] } = some is →
    let i : Instr := if drop then .cDrop h d a else .cSeal h d a
    let aid := arenaOf (is.s a).toNat
    let at' := s.attr (coreOf is.a) aid
    let bad : Prop := drop = false ∧ (at'.state = Arn.live ∨ at'.state = Arn.sealed) ∧ (at'.typ ≠ Arn.typN ∨ at'.swm = true)
    (aid = 0 → exec i s = .next (s.except is (is.fault Code.arenaDead (vaOf (is.s a)) is.p))) ∧
    (aid = 1 ∨ (aid ≠ 0 ∧ bad) → exec i s = .next (s.except is (is.fault Code.prot (vaOf (is.s a)) is.p))) ∧
    (1 < aid → ¬ bad → s.futRoom is →
      ∃ t k, exec i s = .next t ∧ Taken s t is d Kind.arena k ∧
        (t.part (s.agentPart is.a)).masterQ = (s.part (s.agentPart is.a)).masterQ ++ [{
          id := s.uid, agent := is.a, op := if drop then mDrop else mSeal, aid := aid, arg := 0, x1 := 0, pend := 0,
          fut := some (quadOf is.a, k) }] ∧
        (t.part (s.agentPart is.a)).arenas = (s.part (s.agentPart is.a)).arenas ∧ t.mem = s.mem ∧ t.cores = s.cores)) ∧
  (∀ (s : State) (is : Iss) (h : Hdr) (sub : BitVec 2) (d a : RegNo),
    s.ready .wave h 8 { rd := [.s a], wr := [.s d] } = some is →
    (sub = 0 → ∃ t c, exec (.cAq h sub d a) s = .next t ∧ MovesOn s t is c ∧
      (∀ n, c.sget n = if n = d.toNat ∧ n ≠ 63
        then BitVec.ofNat 64 (s.attr (coreOf is.a) (arenaOf (is.s a).toNat)).word else is.c.sget n) ∧
      SameK is.c c [] ∧ SameV is.c c ∧ SameF is.c c ∧ t.rest = s.rest) ∧
    (sub ≠ 0 → is.c.ec < 63 →
      exec (.cAq h sub d a) s = .next (s.answers is d
        (((s.part (s.agentPart is.a)).arena (arenaOf (is.s a).toNat)).word + 2 ^ 40 * (s.llc.filter (fun l =>
          l.die = dieOf is.a && l.part = s.agentPart is.a && lineArena l.line = arenaOf (is.s a).toNat)).length))))

/-- R82 to R86, R90: the arena master's handling of one request. A c.anew of an id that may be had makes it LIVE with the
request's attributes, an unchanged generation and no seal pending, broadcasts it, and gives its address; a failing one gives 1, 2
or 3 and changes no entry. A c.seal of a LIVE N arena that is not software-managed sets its pending seal; a c.drop of an arena
with no live descendants advances its generation modulo 16 and leaves it DRAINING with one sweep more; either ends EMPTY on a FREE
arena. Where the manual leaves a point open the model's reading is that of
log 63, 64. -/
def Obligations.ArenaMaster : Prop :=
  ∀ (s : State) (part : Nat) (m : MasterReq), (s.part part).masterQ.find? (fun x => x.id = m.id) = some m →
    (∀ x, x ∈ (s.part part).masterQ.takeWhile (fun x => x.id ≠ m.id) → x.agent ≠ m.agent) →
    let p : Part := { s.part part with masterQ := (s.part part).masterQ.filter (fun x => x.id ≠ m.id) }
    let s0 : State := s.mapPart part (fun _ => p)
    (∀ id, m.op = mAnew → p.pickId m.aid m.arg = .ok id →
      ∃ t, exec (.arenaMasterRequest part m.id) s = .next t ∧
        (t.part part).arena id = { p.arena id with
          state := Arn.live, typ := bits m.x1 0 2, swm := bit m.x1 2, zf := bit m.x1 3, parent := m.arg, quota := bits m.x1 4 9,
          sealp := false } ∧
        (∀ j, j ≠ id → (t.part part).arena j = p.arena j) ∧ (t.part part).bno = p.bno + 1 ∧
        t.ctx? m.agent = (s.ctx? m.agent).map (fun c => { c with pend := c.pend.map (fun q => if q.id = m.pend
          then { q with writes := q.writes.map (fun w => { w with val := some (id * 2 ^ 44) }), bcast := some (p.bno + 1) }
          else q) }) ∧ t.mem = s.mem) ∧
    (∀ v, m.op = mAnew → p.pickId m.aid m.arg = .error v →
      exec (.arenaMasterRequest part m.id) s = .next (s0.giveResult m.agent m.pend v none)) ∧
    (m.op = mSeal → (p.arena m.aid).state = Arn.live → (p.arena m.aid).sealp = false → (p.arena m.aid).typ = Arn.typN →
      (p.arena m.aid).swm = false →
      ∃ t, exec (.arenaMasterRequest part m.id) s = .next t ∧ (t.part part).arena m.aid = { p.arena m.aid with sealp := true } ∧
        (∀ j, j ≠ m.aid → (t.part part).arena j = p.arena j) ∧ t.mem = s.mem ∧ t.ctxs = s.ctxs) ∧
    (m.op = mSeal → (p.arena m.aid).state = Arn.sealed →
      exec (.arenaMasterRequest part m.id) s = .next (s0.resolve0 m.fut Status.done 0)) ∧
    (m.op ≠ mAnew → ((p.arena m.aid).state = Arn.free ∨ (p.arena m.aid).state = Arn.draining) →
      exec (.arenaMasterRequest part m.id) s = .next (s0.resolve0 m.fut Status.empty 0)) ∧
    (m.op = mDrop → ((p.arena m.aid).state = Arn.live ∨ (p.arena m.aid).state = Arn.sealed) → p.subtree m.aid = [m.aid] →
      (p.arena m.aid).sweeps ≠ 15 →
      ∃ t, exec (.arenaMasterRequest part m.id) s = .next t ∧
        (t.part part).arena m.aid = { p.arena m.aid with
          gen := ((p.arena m.aid).gen + 1) % 16, state := Arn.draining, sweeps := (p.arena m.aid).sweeps + 1, sealp := false } ∧
        (∀ j, j ≠ m.aid → (t.part part).arena j = p.arena j) ∧ t.mem = s.mem) ∧
    (m.op = mDrop → ((p.arena m.aid).state = Arn.live ∨ (p.arena m.aid).state = Arn.sealed) →
      (p.subtree m.aid).any (fun i => (p.arena i).sweeps = 15) = true →
      exec (.arenaMasterRequest part m.id) s = .next (s0.resolve0 m.fut Status.busy 0))

/-- R77, R83, R84, R87, R89: ARENA_BROADCAST_APPLY gives the core the attributes of its earliest broadcast, and with SEALED its L1
keeps no line of the arena; DRAIN_WATERMARK frees the ids of a drop together
once the watermarks of all of them have passed, and writes a sealing arena's dirty L1 bytes back; SEAL_COMPLETE seals an arena whose
write-backs have performed; ASH_SWEEP_PASS leaves no line of an old generation and no sweep; ZERO_FILL_PAGE_DONE zeroes the lines
of a page that nothing has written and no byte elsewhere. Where the manual leaves a point open the model's reading is that of
log 65, 66, 96. -/
def Obligations.ArenaSteps : Prop :=
  (∀ (s : State) (core : Nat) (b : Bcast),
    (s.part (s.corePart core)).bcasts.find? (fun b => b.waiting.contains core) = some b →
    ∃ t, exec (.arenaBroadcastApply core) s = .next t ∧ t.attr core b.aid = b.attr ∧
      (∀ j, j ≠ b.aid → t.attr core j = s.attr core j) ∧
      (b.attr.state = Arn.sealed → ∀ l ∈ (t.core core).l1, lineArena l.line ≠ b.aid) ∧
      (b.attr.state ≠ Arn.sealed → (t.core core).l1 = (s.core core).l1) ∧ t.mem = s.mem ∧
      (t.part (s.corePart core)).arenas = (s.part (s.corePart core)).arenas) ∧
  (∀ (s : State) (part aid : Nat) (d : Drain), (s.part part).drains.find? (fun d => d.aid = aid && d.stage = 0) = some d →
    d.isSeal = false → (∀ x ∈ (s.part part).dropDrains d, s.watermark part x = true) →
    ∃ t, exec (.drainWatermark part aid) s = .next t ∧
      (∀ x ∈ (s.part part).dropDrains d, (t.part part).arena x.aid = { (s.part part).arena x.aid with state := Arn.free }) ∧
      (∀ j, (∀ x ∈ (s.part part).dropDrains d, x.aid ≠ j) → (t.part part).arena j = (s.part part).arena j) ∧ t.mem = s.mem) ∧
  (∀ (s : State) (part aid : Nat) (d : Drain), (s.part part).drains.find? (fun d => d.aid = aid && d.stage = 0) = some d →
    s.watermark part d = true → d.isSeal = true →
    ∃ t, exec (.drainWatermark part aid) s = .next t ∧ (t.part part).arenas = (s.part part).arenas ∧ t.mem = s.mem ∧
      ∀ c ∈ s.tableCores part, ∀ l ∈ (t.core c).l1, lineArena l.line = aid → l.dirty = 0) ∧
  (∀ (s : State) (part aid : Nat) (d : Drain),
    (s.part part).drains.find? (fun d => d.aid = aid && d.isSeal && d.stage = 1) = some d → s.carried part aid d.gen = false →
    ∃ t, exec (.sealComplete part aid) s = .next t ∧
      (t.part part).arena aid = { (s.part part).arena aid with state := Arn.sealed, sealp := false } ∧
      (∀ j, j ≠ aid → (t.part part).arena j = (s.part part).arena j) ∧ t.mem = s.mem ∧ t.ctxs = s.ctxs ∧ t.quads = s.quads) ∧
  (∀ (s : State) (part : Nat), (s.part part).arenas.any (fun e => e.2.sweeps ≠ 0) = true →
    ∃ t, exec (.ashSweepPass part) s = .next t ∧ (t.part part).arenas.all (fun e => e.2.sweeps = 0) = true ∧
      (∀ l ∈ t.llc, l.part = part → ((s.part part).arena (lineArena l.line)).gen = l.gen) ∧
      (∀ c ∈ s.partCores part, ∀ l ∈ (t.core c).l1, ((s.part part).arena (lineArena l.line)).gen = l.gen) ∧
      t.mem = s.mem ∧ t.ctxs = s.ctxs) ∧
  (∀ (s : State) (part page : Nat) (e : Nat), ((s.part part).arena (arenaOf (page * 4096))).zf = true →
    (s.part part).zfPages.contains page = false → s.walkVa part (page * 4096) = some e →
    ∃ t, exec (.zeroFillPageDone part page) s = .next t ∧ (t.part part).zfPages = page :: (s.part part).zfPages ∧
      (∀ x, (∀ i j, i < 32 → j < 128 → x ≠ leafPa e (page * 4096 + 128 * i) + j) → t.mem.get x = s.mem.get x) ∧
      (∀ i j, i < 32 → j < 128 → (s.part part).zfLines.contains (page * 32 + i) = false →
        t.mem.get (leafPa e (page * 4096 + 128 * i) + j) = 0) ∧ t.ctxs = s.ctxs)

/-- R98, R121, R122: c.wbr and c.invr of no bytes resolve DONE at once; of a dead arena they fault ARENA_DEAD and beyond an arena's end
ALIGN; else they take a future of KIND 7, and every dirty byte of the range in the core's L1 is on its way to its home, or to the die's copy
of a software-managed line; the operation stands with the writes to the range's lines that it waits for, or goes
on at once where there is none. The range is taken in the pieces that the core's remap filter rewrites alike; of a piece in an arena that
is not N the combining buffers drain instead.
Where the manual leaves a point open the model's reading is that of log 61, 158. -/
def Obligations.RangeOperations : Prop :=
  ∀ (inval : Bool) (s : State) (is : Iss) (h : Hdr) (d a b : RegNo),
    s.ready .wave h 16 { rd := [.s a, .s b], wr := [.s d] } = some is → is.quiet s →
    let i : Instr := if inval then .cInvr h d a b else .cWbr h d a b
    let core := coreOf is.a
    let part := s.agentPart is.a
    let va := vaOf (is.s a)
    let n := (is.s b).toNat
    let lo := canonical (s.core core).filters va
    let ps := (canonPieces (s.core core).filters va n).map (fun e => (e.1, e.1 + e.2.1))
    let at' := s.attr core (arenaOf lo)
    (n = 0 → s.futRoom is → ∃ t, exec i s = .next t ∧ AtOnce s t is d Kind.range Status.done 0 ∧ t.mem = s.mem ∧
      t.cores = s.cores) ∧
    (n ≠ 0 → checkAttr (arenaOf lo) at' false false ≠ none →
      exec i s = .next (s.except is (is.fault Code.arenaDead va is.p))) ∧
    (n ≠ 0 → checkAttr (arenaOf lo) at' false false = none → 2 ^ 44 < offOf va + n →
      exec i s = .next (s.except is (is.fault Code.align va is.p))) ∧
    (n ≠ 0 → checkAttr (arenaOf lo) at' false false = none → offOf va + n ≤ 2 ^ 44 → s.futRoom is →
      ∃ s1 k, ({ s with uid := s.uid + 1 } : State).takeFut is d Kind.range 3 s.uid = .ok (s1, quadOf is.a, k) ∧
        let s2 := ps.foldl (fun s p => s.pieceBack core p.1 p.2 (s.attr core (arenaOf p.1))) s1
        let r : RangeOp := { id := s.uid, agent := is.a, core := core, part := part, parts := ps, gen := at'.gen, inval := inval
                             dropped := false, reqs := ps.flatMap (fun p => s2.writesIn core part p.1 p.2)
                             fut := some (quadOf is.a, k) }
        exec i s = .next ((({ s2 with ranges := s2.ranges ++ [r] } : State).rangeStep r).retire is) ∧
        (∀ p ∈ ps, (s.attr core (arenaOf p.1)).typ = Arn.typN →
          ∀ l ∈ (s2.core core).l1, lineIn p.1 p.2 l.line = true → l.dirty = 0))

/-! ## The change tree -/

/-- R127, R129 to R133: c.ctnew, c.ctpar, c.ctrd and c.ctdel enter a result in EC and leave for the agent; c.settle takes a future
and puts its marker behind what stands in every slice's queue; c.ctenr ends EMPTY, BUSY or FULL in that order or enrolls its
blocks on every live die; its withdraw form ends EMPTY, or removes the enrollment of that range. Where the manual leaves a point open the model's reading is that of
log 61, 67. -/
def Obligations.TreeRequests : Prop :=
  (∀ (i : Instr) (s : State) (is : Iss) (h : Hdr) (len : Nat) (rd : List Use) (d a : RegNo) (op : Nat) (y : Iss → Nat),
    treeForm i = some (h, len, rd, d, a, op, y) → s.ready .wave h len { rd := rd, wr := [.s d] } = some is → is.c.ec < 63 →
    ∃ t c, exec i s = .next t ∧ MovesOn s t is c ∧ c.ec = is.c.ec + 1 ∧
      c.pend = is.c.pend ++ [Pend.awaiting s.uid .ec is [.s d.toNat] []] ∧
      (t.part (s.agentPart is.a)).treeQ = (s.part (s.agentPart is.a)).treeQ ++
        [{ id := s.uid, agent := is.a, op := op, x := (is.s a).toNat % 2 ^ 16, y := y is, pend := s.uid }] ∧
      (t.part (s.agentPart is.a)).nodes = (s.part (s.agentPart is.a)).nodes ∧ SameS is.c c [] ∧ SameK is.c c [] ∧
      SameV is.c c ∧ SameF is.c c ∧ t.mem = s.mem) ∧
  (∀ (s : State) (is : Iss) (h : Hdr) (d a : RegNo), s.ready .wave h 8 { rd := [.s a], wr := [.s d] } = some is → is.quiet s →
    s.futRoom is →
    let part := s.agentPart is.a
    let node := (is.s a).toNat % 2 ^ 16
    let slices := (s.liveDies part).flatMap (fun e => (List.range 16).map (16 * e + ·))
    ∃ t k, exec (.cSettle h d a) s = .next t ∧ Taken s t is d Kind.tree k ∧
      (t.part part).settles = (s.part part).settles ++ [{
        id := s.uid, left := slices.length, status := if node ≠ 65535 ∧ (s.part part).hasNode node = true then Status.done else Status.empty,
        fut := some (quadOf is.a, k) }] ∧
      (∀ x, x ∉ slices → (t.part part).rolls.find x = (s.part part).rolls.find x) ∧ (t.part part).nodes = (s.part part).nodes ∧
      t.mem = s.mem) ∧
  (∀ (s : State) (is : Iss) (h : Hdr) (sub : BitVec 2) (d a b : RegNo) (node : BitVec 16) (base k : Nat),
    s.ready .wave h 16 { rd := [.s a, .s b], wr := [.s d] } = some is → is.enrollOk s a b base k → s.futRoom is →
    let p := s.part (s.agentPart is.a)
    let nodes := if sub = 1 then (List.range k).map (node.toNat + ·) else [node.toNat]
    let noNode := nodes.any (fun i => i = 0 || 65535 ≤ i || !p.hasNode i)
    let meets := p.enrolls.any (fun e => e.meets (is.enrollPieces s a b))
    let full : Prop := 8192 ≤ p.enrolls.length
    (noNode = true → ∃ t, exec (.cCtenr h sub d a b node) s = .next t ∧ AtOnce s t is d Kind.tree Status.empty 0 ∧
      t.parts = s.parts) ∧
    (noNode = false → meets = true → ∃ t, exec (.cCtenr h sub d a b node) s = .next t ∧
      AtOnce s t is d Kind.tree Status.busy 0 ∧ t.parts = s.parts) ∧
    (noNode = false → meets = false → full → ∃ t, exec (.cCtenr h sub d a b node) s = .next t ∧
      AtOnce s t is d Kind.tree Status.full 0 ∧ t.parts = s.parts) ∧
    (noNode = false → meets = false → ¬ full → ∃ t f, exec (.cCtenr h sub d a b node) s = .next t ∧ Taken s t is d Kind.tree f ∧
      (t.part (s.agentPart is.a)).enrolls = p.enrolls ++ [{
        id := s.uid, base := base, blocks := k, parts := is.enrollPieces s a b, node := node.toNat, consec := sub == 1
        waiting := s.liveDies (s.agentPart is.a), removing := false, fut := some (quadOf is.a, f) }] ∧
      t.mem = s.mem)) ∧
  (∀ (s : State) (is : Iss) (h : Hdr) (d a b : RegNo) (base k : Nat),
    s.ready .wave h 16 { rd := [.s a, .s b], wr := [.s d] } = some is → is.enrollOk s a b base k → s.futRoom is →
    let p := s.part (s.agentPart is.a)
    let hit (e : Enroll) : Bool := e.base = base && e.blocks = k && !e.removing && e.waiting.isEmpty
    (p.enrolls.find? hit = none → ∃ t, exec (.cCtenrWithdraw h d a b) s = .next t ∧
      AtOnce s t is d Kind.tree Status.empty 0 ∧ t.parts = s.parts) ∧
    (∀ e, p.enrolls.find? hit = some e → ∃ t f, exec (.cCtenrWithdraw h d a b) s = .next t ∧ Taken s t is d Kind.tree f ∧
      (t.part (s.agentPart is.a)).enrolls = p.enrolls.map (fun x => if x.id = e.id
        then { x with removing := true, waiting := s.liveDies (s.agentPart is.a), fut := some (quadOf is.a, f) } else x) ∧
      t.mem = s.mem))

/-- R123, R126, R127, R129, R131 to R133: the agent's step on one request: a new node with the id that is asked for, or with the lowest free
one where any is; a node under another parent, with every node of the old and of the new parent's chain raised by one; a deletion, a read,
and each status that refuses one of them (a parent at the sixteenth level, or one that would put the subtree below it, is BAD_PARENT); the application of a bump to the counts of the node's
chain and of a settle's marker, and a die's application of an enrollment. Where the manual leaves
a point open the model's reading is that of log 117. -/
def Obligations.TreeSteps : Prop :=
  (∀ (s : State) (part : Nat) (r : TreeReq), (s.part part).treeQ.find? (fun x => x.id = r.id) = some r →
    (∀ x, x ∈ (s.part part).treeQ.takeWhile (fun x => x.id ≠ r.id) → x.agent ≠ r.agent) →
    let p := s.part part
    let gives (x : Part) (v : Nat) : Prop := exec (.changeTreeAgentRequest part r.id) s = .next ((s.mapPart part (fun _ =>
      { x with treeQ := p.treeQ.filter (fun x => x.id ≠ r.id) })).giveResult r.agent r.pend v none)
    let below (i : Nat) : Prop := 1 ≤ i ∧ i < 65535
    let made (i : Nat) : Part := { p with nodes := p.nodes.put i { count := 0, parent := r.x } }
    let under : Prop := r.x ≠ 65535 ∧ p.hasNode r.x = true ∧ p.nodeDepth r.x < 16
    let node : Prop := below r.x ∧ p.hasNode r.x = true
    let parent : Prop := r.y ≠ 65535 ∧ p.hasNode r.y = true
    (r.op = tNew →
      (under → below r.y → p.hasNode r.y = false → gives (made r.y) r.y) ∧
      (∀ i, under → r.y = 0 → below i → p.hasNode i = false → (∀ j, below j → j < i → p.hasNode j = true) → gives (made i) i) ∧
      (under → r.y = 65535 ∨ r.y ≠ 0 ∧ p.hasNode r.y = true → gives p (2 ^ 16 * 1 + r.y % 2 ^ 16)) ∧
      (under → r.y = 0 → (∀ i, below i → p.hasNode i = true) → gives p (2 ^ 16 * 2)) ∧
      (r.x = 65535 ∨ p.hasNode r.x = false ∨ 16 ≤ p.nodeDepth r.x → gives p (2 ^ 16 * 3 + r.y % 2 ^ 16))) ∧
    (r.op = tPar →
      (r.x = 0 ∨ r.x = 65535 ∨ p.hasNode r.x = false → gives p (2 ^ 16 * 5 + r.x % 2 ^ 16)) ∧
      (node → r.y = 65535 ∨ p.hasNode r.y = false → gives p (2 ^ 16 * 3 + r.x % 2 ^ 16)) ∧
      (node → parent → r.x ∈ p.nodeChain r.y → gives p (2 ^ 16 * 4 + r.x % 2 ^ 16)) ∧
      (node → parent → r.x ∉ p.nodeChain r.y → 16 < p.nodeDepth r.y + 1 + p.height r.x → gives p (2 ^ 16 * 3 + r.x % 2 ^ 16)) ∧
      (∀ n, node → parent → p.node? r.x = some n → r.x ∉ p.nodeChain r.y → p.nodeDepth r.y + 1 + p.height r.x ≤ 16 →
        let raised (j : Nat) : Prop := j ∈ p.nodeChain n.parent ∨ j ∈ p.nodeChain r.y
        (∀ j, raised j → p.hasNode j = true) → ∃ x, gives x (r.x % 2 ^ 16) ∧ { x with nodes := p.nodes } = p ∧
          (∀ j, raised j → j ≠ r.x → (x.node? j) = (p.node? j).map (fun m => { m with count := m.count + 1 })) ∧
          (∀ j, ¬ raised j → j ≠ r.x → x.node? j = p.node? j) ∧
          (¬ raised r.x → x.node? r.x = some { n with parent := r.y }))) ∧
    (r.op = tDel →
      let held : Bool := p.nodes.any (fun e => e.1 ≠ 0 && e.2.parent = r.x) || p.enrolls.any (fun e => e.names r.x)
      (r.x = 0 ∨ r.x = 65535 ∨ p.hasNode r.x = false → gives p (2 ^ 16 * 5 + r.x % 2 ^ 16)) ∧
      (node → held = true → gives p (2 ^ 16 * 4 + r.x % 2 ^ 16)) ∧
      (node → held = false → gives { p with nodes := p.nodes.del r.x } (r.x % 2 ^ 16))) ∧
    (r.op = tRd →
      (r.x = 65535 ∨ p.node? r.x = none → gives p (2 ^ 64 - 1)) ∧
      (∀ n, r.x ≠ 65535 → p.node? r.x = some n → gives p (2 ^ 16 * n.count.toNat + n.parent % 2 ^ 16)))) ∧
  (∀ (s : State) (part slice n k : Nat) (xs : List Roll), (s.part part).rolls.find slice = some (.bump n k :: xs) →
    (s.part part).hasNode n = true →
    exec (.rollUpDeltaApply part slice) s = .next (((s.mapPart part (fun p =>
      { p with rolls := if xs.isEmpty then p.rolls.del slice else p.rolls.put slice xs })).mapPart part (fun p =>
        p.addCounts (p.nodeChain n) k)).withdrawn part)) ∧
  (∀ (p : Part) (ids : List Nat) (n j : Nat), ids.Nodup → (∀ i ∈ ids, p.hasNode i = true) →
    (p.addCounts ids n).node? j = (p.node? j).map (fun x =>
      if j ∈ ids then { x with count := x.count + BitVec.ofNat 48 n } else x)) ∧
  (∀ (s : State) (part slice id : Nat) (xs : List Roll) (x : Settle),
    (s.part part).rolls.find slice = some (.marker id :: xs) → (s.part part).settles.find? (fun x => x.id = id) = some x →
    let s1 : State := s.mapPart part (fun p =>
      { p with rolls := if xs.isEmpty then p.rolls.del slice else p.rolls.put slice xs })
    (x.left ≤ 1 → exec (.rollUpDeltaApply part slice) s = .next ((s1.mapPart part (fun p =>
      { p with settles := p.settles.filter (fun y => y.id ≠ id) })).resolve0 x.fut x.status 0)) ∧
    (1 < x.left → ∃ t, exec (.rollUpDeltaApply part slice) s = .next t ∧ (t.part part).nodes = (s.part part).nodes ∧
      (t.part part).settles = (s.part part).settles.map (fun y => if y.id = id then { y with left := y.left - 1 } else y) ∧
      t.quads = s.quads ∧ t.mem = s.mem)) ∧
  (∀ (s : State) (part die : Nat) (e : Enroll), (s.part part).enrolls.find? (fun e => e.waiting.contains die) = some e →
    let s1 : State := s.mapPart part (fun p => { p with enrolls := p.enrolls.map (fun x =>
      if x.id = e.id then { x with waiting := e.waiting.filter (· ≠ die) } else x) })
    (e.waiting.filter (· ≠ die) ≠ [] → exec (.enrollmentApplied part die) s = .next s1) ∧
    (e.waiting.filter (· ≠ die) = [] → e.removing = false →
      exec (.enrollmentApplied part die) s = .next (s1.resolve0 e.fut Status.done 0)) ∧
    (e.waiting.filter (· ≠ die) = [] → e.removing = true →
      exec (.enrollmentApplied part die) s = .next (s1.withdrawn part)))

/-! ## Privilege -/

/-- R397, R398, R400, R391: y.rdpr reads a privileged register into sD. y.wrpr of WINDOW, BOOTREC or a breakpoint register writes
its defined bits; of FAULTQ it takes a ring with LOG2N in 4 to 12 and an aligned base and discards another value; of FQCONS the
low 32 bits; of PART or FQPROD nothing; of the set-up registers only by a hearth before READY. FAULTQ, FQCONS, WINDOW and the
breakpoint registers fault PRIV for a wave that is no hearth's. The hearth's own stores to FAULTQ and FQCONS do the same. Where the manual leaves a point open the model's reading is that of
log 71. -/
def Obligations.PrivilegedRegisters : Prop :=
  (∀ (s : State) (is : Iss) (h : Hdr) (d a : RegNo), s.ready .priv h 8 { rd := [], wr := [.s d] } = some is →
    ∃ t c, exec (.yRdpr h d a) s = .next t ∧ MovesOn s t is c ∧
      (∀ n, c.sget n = if n = d.toNat ∧ n ≠ 63 then s.readPr is.a a.toNat else is.c.sget n) ∧
      SameK is.c c [] ∧ SameV is.c c ∧ SameF is.c c ∧ t.rest = s.rest) ∧
  (∀ (s : State) (is : Iss) (h : Hdr) (d a : RegNo), s.ready .priv h 8 { rd := [.s a], wr := [] } = some is →
    let die := dieOf is.a
    let v := is.s a
    let same (t : State) : Prop := t.mem = s.mem ∧ t.teams = s.teams ∧ ∀ e, e ≠ die → t.die e = s.die e
    (isHearth is.a = false → (d = 4 ∨ d = 6 ∨ d = 7 ∨ (0x10 ≤ d.toNat ∧ d.toNat ≤ 0x17)) →
      exec (.yWrpr h d a) s = .next (s.except is (is.fault0 Code.priv))) ∧
    (d = 0 ∨ d = 5 → exec (.yWrpr h d a) s = .next (s.retire is)) ∧
    (d = 9 → ∃ t c, exec (.yWrpr h d a) s = .next t ∧ MovesOn s t is c ∧ same t ∧
      t.die die = { s.die die with bootrec := v &&& 0x00FFFFFFFFFFFF07 }) ∧
    (isHearth is.a = true →
      (d = 7 → ∃ t c, exec (.yWrpr h d a) s = .next t ∧ MovesOn s t is c ∧ same t ∧
        t.die die = { s.die die with window := BitVec.ofNat 64 (v.toNat % 2 ^ 16) }) ∧
      (0x10 ≤ d.toNat → d.toNat ≤ 0x17 → ∃ t c, exec (.yWrpr h d a) s = .next t ∧ MovesOn s t is c ∧ same t ∧
        (∀ i, AMap.get 0 (t.die die).bkpt i =
          if i = d.toNat - 0x10 then v &&& 0x00FFFFFFFFFFFFFD else AMap.get 0 (s.die die).bkpt i) ∧
        { t.die die with bkpt := [] } = { s.die die with bkpt := [] }) ∧
      (d = 4 → ¬ (4 ≤ bits v.toNat 32 4 ∧ bits v.toNat 32 4 ≤ 12 ∧ v.toNat % 32 = 0) →
        exec (.yWrpr h d a) s = .next (s.retire is)) ∧
      (d = 4 → 4 ≤ bits v.toNat 32 4 → bits v.toNat 32 4 ≤ 12 → v.toNat % 32 = 0 →
        ∃ t c, exec (.yWrpr h d a) s = .next t ∧ MovesOn s t is c ∧ same t ∧
          (t.die die).faultq = BitVec.ofNat 64 (v.toNat % 2 ^ 36) ∧ (t.die die).fqcons = (s.die die).fqcons) ∧
      (d = 6 → ∃ t c, exec (.yWrpr h d a) s = .next t ∧ MovesOn s t is c ∧ same t ∧
        (t.die die).fqcons = BitVec.ofNat 32 v.toNat ∧ (t.die die).faultq = (s.die die).faultq)) ∧
    (d = 1 ∨ d = 2 ∨ d = 3 ∨ d = 8 → isHearth is.a = false ∨ (s.die die).bootrec.getLsbD 0 = true →
      exec (.yWrpr h d a) s = .next (s.retire is)) ∧
    (isHearth is.a = true → (s.die die).bootrec.getLsbD 0 = false → d = 1 ∨ d = 2 ∨ d = 3 ∨ d = 8 →
      let p := s.part (s.agentPart is.a)
      let w : W64 := BitVec.ofNat 64 (v.toNat % 2 ^ 53)
      ∃ t c, exec (.yWrpr h d a) s = .next t ∧ MovesOn s t is c ∧ t.mem = s.mem ∧ t.dies = s.dies ∧
        t.part (s.agentPart is.a) = (if d = 1 then { p with arenatab := w } else if d = 2 then { p with regiontab := w }
          else if d = 3 then { p with ptbase := w } else { p with rootpc := v &&& 0x00FFFFFFFFFFFFFC }))) ∧
  (∀ (s : State) (die : Nat) (v : W64), die < 24 → (s.die die).live = true →
    (4 ≤ bits v.toNat 32 4 → bits v.toNat 32 4 ≤ 12 → v.toNat % 32 = 0 →
      ∃ t, exec (.prFaultqWrite die v) s = .next t ∧ (t.die die).faultq = BitVec.ofNat 64 (v.toNat % 2 ^ 36) ∧ t.mem = s.mem ∧
        t.ctxs = s.ctxs) ∧
    (¬ (4 ≤ bits v.toNat 32 4 ∧ bits v.toNat 32 4 ≤ 12 ∧ v.toNat % 32 = 0) → exec (.prFaultqWrite die v) s = .next s) ∧
    (∃ t, exec (.prFqconsWrite die v) s = .next t ∧ (t.die die).fqcons = BitVec.ofNat 32 v.toNat ∧ t.mem = s.mem ∧
      t.ctxs = s.ctxs))

/-- R96, R97, R103 to R105: y.map and y.unmap of pages: an illegal SIZE is IIL, an address that is no multiple of the page ALIGN;
a map whose table is not there ends EMPTY, one over a valid entry BUSY, and else the entries are written, the episodes of the span
end, and the future is DONE at once where they let no request go, or is taken until what they let go has been translated again; an unmap of what is not mapped ends EMPTY, and else the entries are cleared and the invalidation
leaves. y.xinv: an invalidation leaves, a replay ends the span's episodes, a failure ends what they hold with its code. Where the manual leaves a point open the model's reading is that of
log 12, 68, 70, 118 to 120, 157. -/
def Obligations.PageTables : Prop :=
  (∀ (s : State) (is : Iss) (h : Hdr) (d a b : RegNo) (size : BitVec 4) (w als : Bool),
    s.ready .priv h 16 { rd := [.s a, .s b], wr := [.s d] } = some is →
    let sz := size.toNat
    let va := vaOf (is.s a)
    let pa := (is.s b).toNat % 2 ^ 53
    let pb := if sz = 15 then 12 else pageBits sz
    let part := s.agentPart is.a
    let p := s.part part
    let r := reach p s.mem va levels 0 p.ptbase.toNat none
    let n := if sz = 15 then 1 else replicas sz
    let run := entryRun r.level r.base va n
    let taken := (validRun p s.mem r.level r.base va n).any id
    let missing : Prop := sz ≠ 15 ∧ r.level < levelOf sz ∧ ownValid p s.mem r.level r.base va = false
    let home : Prop := if sz = 15 then p.frameOk pa = true else s.frameHome part va (2 ^ pb) pa = true
    let e := 2 ^ 60 * sz + pa / 4096 * 4096 + (if als then 4 else 0) + (if w then 2 else 0) + 1
    let sb := if sz = 15 then spanBits r.level else pb
    let lo := va - va % 2 ^ sb
    (7 ≤ sz → sz ≠ 15 → exec (.yMap h d a b size w als) s = .next (s.except is (is.fault0 Code.iil))) ∧
    (sz < 7 ∨ sz = 15 → ¬ (va % 2 ^ pb = 0 ∧ pa % 2 ^ pb = 0) →
      exec (.yMap h d a b size w als) s = .next (s.except is (is.fault Code.align va is.p))) ∧
    (sz < 7 ∨ sz = 15 → va % 2 ^ pb = 0 → pa % 2 ^ pb = 0 →
      (missing → s.futRoom is →
        ∃ t, exec (.yMap h d a b size w als) s = .next t ∧ AtOnce s t is d Kind.priv Status.empty 0 ∧ t.mem = s.mem) ∧
      (¬ missing → sizeAt r.level sz = false →
        exec (.yMap h d a b size w als) s = .next (s.except is (is.fault0 Code.iil))) ∧
      (¬ missing → sizeAt r.level sz = true → taken = true ∨ ¬ home → s.futRoom is →
        ∃ t, exec (.yMap h d a b size w als) s = .next t ∧ AtOnce s t is d Kind.priv Status.busy 0 ∧ t.mem = s.mem) ∧
      (¬ missing → sizeAt r.level sz = true → taken = false → home → s.futRoom is →
        let es := s.covered part lo (lo + 2 ^ sb)
        let made (t : State) : Prop := exec (.yMap h d a b size w als) s = .next t ∧
          t.mem = run.foldl (fun m x => m.write x (leBytes 8 e)) s.mem ∧ t.episodes = s.episodes.filter (fun x => !es.contains x)
        (s.heldReqs es = [] → ∃ t, made t ∧ AtOnce s t is d Kind.priv Status.done 0) ∧
        (s.heldReqs es ≠ [] → ∃ t k, made t ∧ Taken s t is d Kind.priv k ∧
          (t.part part).maps = p.maps ++ [{ id := s.uid, reqs := s.heldReqs es, fut := some (quadOf is.a, k) }])))) ∧
  (∀ (s : State) (is : Iss) (h : Hdr) (d a : RegNo) (size : BitVec 4), s.ready .priv h 16 { rd := [.s a], wr := [.s d] } = some is →
    let sz := size.toNat
    let va := vaOf (is.s a)
    let pb := if sz = 15 then 12 else pageBits sz
    let part := s.agentPart is.a
    let p := s.part part
    let r := reach p s.mem va levels 0 p.ptbase.toNat none
    let run := entryRun r.level r.base va (replicas sz)
    let e := ownEntry s.mem r.level r.base va
    let none' : Prop := r.level ≤ levelOf sz ∧ (ownValid p s.mem r.level r.base va = false ∨ (r.level = levelOf sz ∧ entrySize e ≠ sz))
    let leaves (m : Memory) (lo len : Nat) : Prop := ∃ t k, exec (.yUnmap h d a size) s = .next t ∧ Taken s t is d Kind.priv k ∧
      t.mem = m ∧ (t.part part).invalQ = (s.part part).invalQ ++
        [{ id := s.uid, lo := lo, len := len, fut := some (quadOf is.a, k) }]
    (7 ≤ sz → sz ≠ 15 → exec (.yUnmap h d a size) s = .next (s.except is (is.fault0 Code.iil))) ∧
    (sz < 7 ∨ sz = 15 → va % 2 ^ pb ≠ 0 →
      exec (.yUnmap h d a size) s = .next (s.except is (is.fault Code.align va is.p))) ∧
    ((sz = 15 ∧ r.last = none) ∨ (sz < 7 ∧ none') → va % 2 ^ pb = 0 → s.futRoom is →
      ∃ t, exec (.yUnmap h d a size) s = .next t ∧ AtOnce s t is d Kind.priv Status.empty 0 ∧ t.mem = s.mem) ∧
    (∀ x, sz = 15 → va % 2 ^ pb = 0 → r.last = some x → s.futRoom is →
      leaves (s.mem.write x (leBytes 8 0)) (va - va % 2 ^ spanBits (r.level - 1)) (2 ^ spanBits (r.level - 1))) ∧
    (sz < 7 → va % 2 ^ pb = 0 → ¬ none' → sizeAt r.level sz = false →
      exec (.yUnmap h d a size) s = .next (s.except is (is.fault0 Code.iil))) ∧
    (sz < 7 → va % 2 ^ pb = 0 → ¬ none' → sizeAt r.level sz = true → s.futRoom is →
      leaves (run.foldl (fun m x => m.write x (leBytes 8 0)) s.mem) va (2 ^ pb))) ∧
  (∀ (s : State) (is : Iss) (h : Hdr) (d a b : RegNo), s.ready .priv h 16 { rd := [.s a, .s b], wr := [.s d] } = some is →
    s.futRoom is →
    let part := s.agentPart is.a
    let va := vaOf (is.s a)
    let span := s.covered part va (va + (is.s b).toNat)
    (∃ t k, exec (.yXinvInval h d a b) s = .next t ∧ Taken s t is d Kind.priv k ∧ t.mem = s.mem ∧
      (t.part part).invalQ = (s.part part).invalQ ++
        [{ id := s.uid, lo := va, len := (is.s b).toNat, fut := some (quadOf is.a, k) }]) ∧
    (∃ t, exec (.yXinvReplay h d a b) s = .next t ∧ AtOnce s t is d Kind.priv Status.done 0 ∧ t.mem = s.mem ∧
      t.episodes = s.episodes.filter (fun x => !span.contains x) ∧
      (∀ r ∈ t.reqs, heldBy span r.part r.held = false))) ∧
  (∀ (s : State) (is : Iss) (h : Hdr) (d a b : RegNo) (prot : Bool),
    s.ready .priv h 16 { rd := [.s a, .s b], wr := [.s d] } = some is →
    let s1 := s.endEpisodes (s.covered (s.agentPart is.a) (vaOf (is.s a)) (vaOf (is.s a) + (is.s b).toNat))
      (some (if prot then Code.prot else Code.xlate))
    s1.futRoom is → ∃ s2, s1.instantFut is d Kind.priv 3 Status.done 0 = .ok s2 ∧ s2.episodes = s1.episodes ∧ s2.reqs = s1.reqs ∧
      exec (.yXinvFail h d a b prot) s = .next (s2.retire is)) ∧
  (∀ (s : State) (part : Nat) (r : InvalReq), (s.part part).invalQ.find? (fun x => x.id = r.id) = some r →
    let hit (t : TlbEnt) : Prop := t.part = part ∧ t.va < r.lo + r.len ∧ r.lo < t.va + 2 ^ pageBits t.size
    (∀ x ∈ s.reqs, x.part = part → x.back.isSome = true → ¬ (r.lo ≤ x.va ∧ x.va < r.lo + r.len) ∧
      ∀ e ∈ s.dies, ∀ t ∈ e.2.tlb, hit t → ¬ (t.va ≤ x.va ∧ x.va < t.va + 2 ^ pageBits t.size)) →
    ∃ t, exec (.translationCacheInvalidation part r.id) s = .next t ∧ t.mem = s.mem ∧
      ∀ e ∈ t.dies, ∀ x ∈ e.2.tlb, ¬ hit x)

/-- R98, R102 to R105: a remap-filter entry that overlaps another ends BUSY, one of no pages is IIL, and else it leaves for the
cores; a removal of none ends EMPTY; a core's application changes its entry, a removal once the core's combining buffers hold nothing of the
entry's pages, which they drain. y.regn of an entry that keeps R100 writes it with the
next version and waits for the old home; when that has drained the future is DONE and the old home holds no line of the range that
it could put back. Where the manual leaves a point open the model's reading is that of
log 15, 69, 121, 147. -/
def Obligations.FiltersAndRegions : Prop :=
  (∀ (s : State) (is : Iss) (h : Hdr) (d a b : RegNo) (x0 : BitVec 32) (idx : BitVec 5),
    s.ready .priv h 16 { rd := [.s a, .s b], wr := [.s d] } = some is → vaOf (is.s a) % 4096 = 0 → vaOf (is.s b) % 4096 = 0 →
    let f : Filter := { al := vaOf (is.s a) / 4096, canon := vaOf (is.s b) / 4096, len := x0.toNat }
    let over' := ((s.filtersAhead (coreOf is.a)).filter (fun e => e.1 ≠ idx.toNat)).any (fun e =>
      f.al < e.2.al + e.2.len && e.2.al < f.al + f.len)
    (x0 = 0 → exec (.yMapFilter h d a b x0 idx) s = .next (s.except is (is.fault0 Code.iil))) ∧
    (x0 ≠ 0 → over' = true → s.futRoom is →
      ∃ t, exec (.yMapFilter h d a b x0 idx) s = .next t ∧ AtOnce s t is d Kind.priv Status.busy 0 ∧ t.parts = s.parts) ∧
    (x0 ≠ 0 → over' = false → s.futRoom is →
      ∃ t k, exec (.yMapFilter h d a b x0 idx) s = .next t ∧ Taken s t is d Kind.priv k ∧ t.cores = s.cores ∧ t.mem = s.mem ∧
        (t.part (s.agentPart is.a)).filterQ = (s.part (s.agentPart is.a)).filterQ ++ [{
          id := s.uid, idx := idx.toNat, entry := some f, waiting := s.tableCores (s.agentPart is.a),
          fut := some (quadOf is.a, k) }])) ∧
  (∀ (s : State) (is : Iss) (h : Hdr) (d : RegNo) (idx : BitVec 5),
    s.ready .priv h 16 { rd := [], wr := [.s d] } = some is → s.futRoom is →
    ((s.filtersAhead (coreOf is.a)).find idx.toNat = none →
      ∃ t, exec (.yUnmapFilter h d idx) s = .next t ∧ AtOnce s t is d Kind.priv Status.empty 0 ∧ t.parts = s.parts) ∧
    ((s.filtersAhead (coreOf is.a)).find idx.toNat ≠ none →
      ∃ t k, exec (.yUnmapFilter h d idx) s = .next t ∧ Taken s t is d Kind.priv k ∧ t.cores = s.cores ∧ t.mem = s.mem ∧
        (t.part (s.agentPart is.a)).filterQ = (s.part (s.agentPart is.a)).filterQ ++ [{
          id := s.uid, idx := idx.toNat, entry := none, waiting := s.tableCores (s.agentPart is.a),
          fut := some (quadOf is.a, k) }])) ∧
  (∀ (s : State) (core : Nat) (r : FilterReq),
    (s.part (s.corePart core)).filterQ.find? (fun r => r.waiting.contains core) = some r →
    (r.entry.isSome = true ∨ ∀ f, (s.core core).filters.find r.idx = some f → s.usesAlias core f = false ∧
      (∀ b ∈ (s.core core).wc, f.inCanon b.line = false) ∧ (r.waiting = [core] → ∀ x ∈ s.reqs, x.part = s.corePart core →
        ¬ (f.canon ≤ x.va / 4096 ∧ x.va / 4096 < f.canon + f.len))) →
    ∃ t, exec (.remapFilterApply core) s = .next t ∧ (t.core core).filters.find r.idx = r.entry ∧
      (∀ i, i ≠ r.idx → (t.core core).filters.find i = (s.core core).filters.find i) ∧ t.mem = s.mem) ∧
  (∀ (s : State) (core : Nat) (r : FilterReq) (f : Filter),
    (s.part (s.corePart core)).filterQ.find? (fun r => r.waiting.contains core) = some r → r.entry = none →
    (s.core core).filters.find r.idx = some f → (s.core core).wc.any (fun b => f.inCanon b.line) = true →
    exec (.remapFilterApply core) s = .next (s.drainWc core f.inCanon)) ∧
  (∀ (s s1 : State) (is : Iss) (h : Hdr) (d a b : RegNo) (l : List Byte),
    s.ready .priv h 16 { rd := [.s a, .s b], wr := [.s d] } = some is → is.quiet s →
    s.readRecord is (is.s b) 32 1 = .ok (l, false, s1) → s.futRoom is →
    let part := s.agentPart is.a
    let idx := (is.s a).toNat
    let old := ((s.part part).regions.find idx).getD
      { base := 0, len := 0, gran := 0, kind := 3, ver := 0, dies := 0, mfirst := 0, mcount := 0 }
    let r := regionOf (ofLe l) ((old.ver + 1) % 256)
    let bad : Prop := 4096 ≤ idx ∨ r.2 = false ∨ (s.part part).regionOk idx r.1 = false ∨
      (s.part part).rewrites.any (fun x => x.idx = idx) = true
    (bad → ∃ t, exec (.yRegn h d a b) s = .next t ∧ AtOnce s t is d Kind.priv Status.busy 0 ∧ t.parts = s.parts) ∧
    (¬ bad → ∃ t k, exec (.yRegn h d a b) s = .next t ∧ Taken s t is d Kind.priv k ∧ t.mem = s.mem ∧
      (t.part part).regions.find idx = some r.1 ∧
      (∀ j, j ≠ idx → (t.part part).regions.find j = (s.part part).regions.find j) ∧
      (t.part part).rewrites = (s.part part).rewrites ++ [{ idx := idx, old := old, fut := some (quadOf is.a, k) }])) ∧
  (∀ (s : State) (part idx : Nat) (w : Rewrite), (s.part part).rewrites.find? (fun x => x.idx = idx) = some w →
    s.reqs.any (fun r => r.part = part && w.old.holds r.va && r.ver = w.old.ver && r.back.isNone && r.op ≠ .fetch) = false →
    (s.llc.filter (w.line part)).all s.llcCanGo = true →
    exec (.regionDrainSignal part idx) s = .next ((((s.llc.filter (w.line part)).foldl State.llcEvict s).mapPart part (fun p =>
      { p with rewrites := p.rewrites.filter (fun x => x.idx ≠ idx) })).resolve0 w.fut Status.done 0))

/-- R401: what y.win writes to a scalar register, a mask register or a vector register below NREG of a stopped agent is what y.win
reads there; y.win.sub=read answers in EC, .sub=write changes that agent alone, .sub=stop stops a running one with BREAK at 0x120;
an agent that has not stopped and an index outside the table fault HANDLE. Where the manual leaves a point open the model's reading is that of
log 72, 73. -/
def Obligations.HearthWindow : Prop :=
  (∀ (s : State) (a : Agent) (c c' : Ctx) (i : Nat) (v : W64), c.winWrite a i v = some c' →
    (i < 0x3F ∨ (0x41 ≤ i ∧ i < 0x50) ∨ i = 0x92 ∨ i = 0x93 ∨ (0xA0 ≤ i ∧ i < 0xB0)) →
    s.winRead a c' i = some v.toNat) ∧
  (∀ (s : State) (a : Agent) (c c' : Ctx) (i : Nat) (v : W64), c.winWrite a i v = some c' → 0x10000 ≤ i →
    s.winRead a c' i = some (v.toNat % 2 ^ 32)) ∧
  (∀ (s : State) (is : Iss) (h : Hdr) (d : RegNo) (imm : BitVec 32) (g : Agent) (c : Ctx),
    s.ready .hearthOnly' h 12 { rd := [], wr := [.s d] } = some is → s.target is.a = some (g, c) → is.c.ec < 63 →
    (c.settled = false → exec (.yWinRead h d imm) s = .next (s.except is (is.fault Code.handle 0 is.p))) ∧
    (c.settled = true → s.winRead g c imm.toNat = none →
      exec (.yWinRead h d imm) s = .next (s.except is (is.fault Code.handle 0 is.p))) ∧
    (∀ v, c.settled = true → s.winRead g c imm.toNat = some v → exec (.yWinRead h d imm) s = .next (s.answers is d v))) ∧
  (∀ (s : State) (is : Iss) (h : Hdr) (b : RegNo) (imm : BitVec 32) (g : Agent) (c c' : Ctx),
    s.ready .hearthOnly' h 12 { rd := [.s b], wr := [] } = some is → dieOf is.a < 24 → s.target is.a = some (g, c) →
    c.settled = true → c.winWrite g imm.toNat (is.s b) = some c' →
    ∃ t w, exec (.yWinWrite h b imm) s = .next t ∧ t.ctx? is.a = some w ∧ w.rec? is.fid = some { is.fr with pc := is.next } ∧
      SameS is.c w [] ∧ t.ctx? g = some { c' with tags := if imm.toNat < 0x40 then c'.tags.del imm.toNat else c'.tags } ∧
      (∀ x, ctxKey x ≠ ctxKey is.a → ctxKey x ≠ ctxKey g → t.ctx? x = s.ctx? x) ∧ t.mem = s.mem ∧ t.teams = s.teams) ∧
  (∀ (s : State) (is : Iss) (h : Hdr) (g : Agent) (c : Ctx),
    s.ready .hearthOnly' h 12 { rd := [], wr := [] } = some is → dieOf is.a < 24 → s.target is.a = some (g, c) →
    (c.stop.isSome = true → exec (.yWinStop h) s = .next (s.retire is)) ∧
    (c.stop = none → ∃ t k st, exec (.yWinStop h) s = .next t ∧ t.ctx? g = some k ∧ k.stop = some st ∧ st.code = Code.brk ∧
      st.addr = 0x120 ∧ st.prec = false ∧ k.split = c.split ∧ SameS c k [] ∧ SameK c k [] ∧ SameV c k ∧ t.mem = s.mem))

/-- R341, R402, R405, R415, R343, R16, R409: y.eret resumes a stopped agent with its held handles written, no stop, its fragments' first issues
free of breakpoints, and the joins resolved that an edit of its records has left (records that break R333, or a broken spilled one, are marked
for its next issue, and give HANDLE at once where no fragment is left to issue), single-steps it, or kills threads or the team, of a stoker
too, which stops and which no return starts again; y.idle parks the hearth's wave, which goes on when its time
limit has passed. Where the manual leaves a point open the model's reading is that of
log 73, 74, 108, 144. -/
def Obligations.HearthReturns : Prop :=
  (∀ (step : Bool) (s : State) (is : Iss) (h : Hdr) (g : Agent) (c : Ctx),
    s.ready .hearthOnly' h 8 { rd := [], wr := [] } = some is → dieOf is.a < 24 → s.target is.a = some (g, c) →
    let i : Instr := if step then .yEretStep h else .yEretResume h
    let c' : Ctx := Ctx.writeHeld { c with stop := none, single := step }
    let j := s.joined c'
    let ready (m : AMap SplitRec) : List Nat := (m.filter (fun e => e.1 < 8 && e.2.st == .ready)).map (·.1)
    (c.settled = false → exec i s = .next (s.except is (is.fault Code.handle 0 is.p))) ∧
    (c.settled = true → s.bound g c = false → exec i s = .next (s.retire is)) ∧
    (c.settled = true → s.bound g c = true → j.2 = none →
      ∃ t w k, exec i s = .next t ∧
        t = State.retire (((s.keepRecord g).setCtx g { c' with broken := false, skipBkpt := ready j.1 }).putRecs g j.1) is ∧
        t.ctx? g = some k ∧ k.stop = none ∧ k.single = step ∧ k.broken = false ∧ t.ctx? is.a = some w ∧
        w.rec? is.fid = some { is.fr with pc := is.next } ∧ SameS is.c w [] ∧ t.mem = s.mem) ∧
    (∀ x, c.settled = true → s.bound g c = true → j.2 = some x → ready c'.split ≠ [] →
      ∃ t, exec i s = .next t ∧ t.ctx? g = some { c' with broken := true, skipBkpt := ready c'.split } ∧ t.mem = s.mem ∧
        t.teams = s.teams) ∧
    (∀ x, c.settled = true → s.bound g c = true → j.2 = some x → ready c'.split = [] →
      ∃ t k st, exec i s = .next t ∧ t.ctx? g = some k ∧ k.stop = some st ∧ st.code = Code.handle ∧ st.addr = x ∧
        k.split = c'.split)) ∧
  (∀ (s : State) (is : Iss) (h : Hdr) (b : RegNo) (g : Agent) (c : Ctx),
    s.ready .hearthOnly' h 8 { rd := [.s b], wr := [] } = some is → s.target is.a = some (g, c) → c.settled = true →
    exec (.yEretKillThreads h b) s = .next (State.retire (if isStoker g then s.haltStoker g
      else s.killThreads g c (is.s b) c.lastCode) is)) ∧
  (∀ (s : State) (is : Iss) (h : Hdr) (g : Agent) (c : Ctx),
    s.ready .hearthOnly' h 8 { rd := [], wr := [] } = some is → s.target is.a = some (g, c) → c.settled = true →
    let s1 := (if isStoker g then s.haltStoker g else s).mapTeam c.team (fun x => { x with dead := some c.lastCode })
    exec (.yEretKillTeam h) s = .next (State.retire ((s1.waveCtxs c.team).foldl (fun s e =>
      s.killThreads (agentOfKey e.1) e.2 (BitVec.allOnes 64) c.lastCode) s1) is)) ∧
  (∀ (s : State) (is : Iss) (h : Hdr) (d b : RegNo), s.ready .hearthOnly' h 8 { rd := [.s b], wr := [.s d] } = some is →
    is.c.ec < 63 →
    ∃ t c, exec (.yIdle h d b) s = .next t ∧ t.ctx? is.a = some c ∧
      c.park = .idle (s.clk (dieOf is.a)) ((is.s b).toNat % 2 ^ 32) d.toNat ∧ c.rec? is.fid = some is.fr ∧ SameS is.c c [] ∧
      t.rest = s.rest) ∧
  (∀ (s : State) (die start limit d : Nat) (c : Ctx), s.ctx? (.hearth die) = some c → c.park = .idle start limit d → c.stop = none →
    c.tags.find d = none → die < 24 → limit ≠ 0 → start + limit ≤ s.clk die → d < 63 →
    ∃ t k, exec (.idleTimeLimit die) s = .next t ∧ t.ctx? (.hearth die) = some k ∧ k.park = .none ∧
      (k.sget d).getLsbD 2 = true ∧ SameS c k [d] ∧ (t.die die).mboxRing = false ∧ t.mem = s.mem)

/-- R378, R403, R404: y.ctxs takes a future, stops the team's agents and begins its save; the root team and one that is being saved or
stands saved end BUSY, an image in a dropped arena ARENA_DEAD. The save goes on once nothing of the team is in the middle of a step: the
dirty bytes of the team's cores leave for their homes, and once those writes have performed it writes the image, frees the team's place and
resolves DONE. y.ctxl takes a future and begins a restore, with a window of another die it
ends FULL; the restore of an image whose team fits puts it back and resolves DONE, of one that fits nowhere FULL, of no image HANDLE.
Where the manual leaves a point open the model's reading is that of log 21, 75, 76, 128, 143, 157, 160. -/
def Obligations.SavedTeams : Prop :=
  (∀ (s : State) (is : Iss) (h : Hdr) (sub : BitVec 2) (d a : RegNo) (imm : BitVec 32) (g : Agent) (c : Ctx) (tm : Team),
    s.ready .hearthOnly' h 12 { rd := [.s a], wr := [.s d] } = some is → is.quiet s → s.target is.a = some (g, c) →
    s.teams.find c.team = some tm →
    let va := vaOf (is.addrS a imm)
    let keys := if sub = 0 then [c.team] else tm.gang.filter (fun k => (s.teams.find k).isSome)
    let r := s.route (coreOf is.a) (s.agentPart is.a) va true false
    let op (k : Nat) : SaveOp := {
      id := s.uid, agent := is.a, part := s.agentPart is.a, keys := keys, members := keys.length,
      gen := (is.attrOf s va).gen, va := va, restore := none, deps := none, fut := some (quadOf is.a, k) }
    (∀ code, r = .error code → code ≠ Code.arenaDead → exec (.yCtxs h sub d a imm) s = .next (s.except is (is.fault code va is.p))) ∧
    (r = .error Code.arenaDead → s.futRoom is → ∃ t, exec (.yCtxs h sub d a imm) s = .next t ∧
      AtOnce s t is d Kind.priv Status.faulted Code.arenaDead ∧ t.mem = s.mem ∧ t.teams = s.teams) ∧
    (is.allows s va true false → tm.group = 0 ∨ keys.any s.inSave = true → s.futRoom is →
      ∃ t, exec (.yCtxs h sub d a imm) s = .next t ∧ AtOnce s t is d Kind.priv Status.busy 0 ∧ t.mem = s.mem ∧ t.teams = s.teams) ∧
    (is.allows s va true false → tm.group ≠ 0 → keys.any s.inSave = false → s.futRoom is →
      ∃ s1 k, ({ s with uid := s.uid + 1 } : State).takeFut is d Kind.priv 3 s.uid = .ok (s1, quadOf is.a, k) ∧
        let s2 : State := { s1 with saves := s1.saves ++ [op k] }
        exec (.yCtxs h sub d a imm) s =
          .next (((keys.flatMap s2.teamAgents).foldl (fun s x => s.stopForSave (dieOf is.a) x) s2).retire is))) ∧
  (∀ (s : State) (is : Iss) (h : Hdr) (sub : BitVec 2) (d a : RegNo) (imm : BitVec 32),
    s.ready .hearthOnly' h 12 { rd := [.s a], wr := [.s d] } = some is → is.quiet s →
    let va := vaOf (is.addrS a imm)
    let w := (s.die (dieOf is.a)).window.toNat
    let r := s.route (coreOf is.a) (s.agentPart is.a) va false false
    let op (k : Nat) : SaveOp := {
      id := s.uid, agent := is.a, part := s.agentPart is.a, keys := [], members := 0, gen := (is.attrOf s va).gen,
      va := va, restore := some (64 * dieOf is.a + 4 * bits w 7 4 + bits w 5 2, sub == 1), deps := none,
      fut := some (quadOf is.a, k) }
    (∀ code, r = .error code → code ≠ Code.arenaDead → exec (.yCtxl h sub d a imm) s = .next (s.except is (is.fault code va is.p))) ∧
    (r = .error Code.arenaDead → s.futRoom is → ∃ t, exec (.yCtxl h sub d a imm) s = .next t ∧
      AtOnce s t is d Kind.priv Status.faulted Code.arenaDead ∧ t.mem = s.mem ∧ t.teams = s.teams) ∧
    (is.allows s va false false → bits w 11 5 ≠ dieOf is.a → s.futRoom is →
      ∃ t, exec (.yCtxl h sub d a imm) s = .next t ∧ AtOnce s t is d Kind.priv Status.full 0 ∧ t.mem = s.mem ∧ t.teams = s.teams) ∧
    (is.allows s va false false → bits w 11 5 = dieOf is.a → s.futRoom is →
      ∃ s1 k, ({ s with uid := s.uid + 1 } : State).takeFut is d Kind.priv 3 s.uid = .ok (s1, quadOf is.a, k) ∧
        exec (.yCtxl h sub d a imm) s = .next (State.retire { s1 with saves := s1.saves ++ [op k] } is))) ∧
  (∀ (s : State) (v : SaveOp), s.saves.find? (fun x => x.id = v.id) = some v → v.restore = none →
    let ags := v.keys.flatMap s.teamAgents
    let running (a : Agent) : Bool := (s.ctx? a).any (fun c => c.stop.isNone)
    let img (t : Team) : List Byte := imageHeader v.members t (256 + imageTail) ++ imageBody v.id
    let over' (s : State) : State := { s with saves := s.saves.filter (fun x => x.id ≠ v.id) }
    let still : Prop := ags.any running = false ∧ ags.any (fun a => (s.ctx? a).any (fun c => c.out.isSome)) = false ∧ s.quiet v.keys = true
    (ags.any running = true → s.goOn v.id = some ((ags.foldl (fun s a => s.stopForSave (dieOf v.agent) a) s).setDeps v.id none)) ∧
    (still → v.deps = none → ∃ (t : State) (l : List Nat), s.goOn v.id = some (t.setDeps v.id (some l)) ∧ t.mem = s.mem ∧
      (∀ a ∈ ags, (t.core (coreOf a)).wc = [] ∧ ∀ x ∈ (t.core (coreOf a)).l1, x.dirty = 0)) ∧
    (∀ l, still → v.deps = some l → s.pendingDeps l = true → s.goOn v.id = none) ∧
    (∀ t s' l, still → v.deps = some l → s.pendingDeps l = false →
      s.teams.find (v.keys.headD 0) = some t → s.unawaited (dieOf v.agent) v.id →
      s.writeRange (coreOf v.agent) (fun _ => v.gen) v.va (img t) = .ok s' →
      s.goOn v.id = some (((over' s').takeOff v.id v.keys).resolve0 v.fut Status.done 0).mapsGo)) ∧
  (∀ (s s' : State) (v : SaveOp) (core : Nat) (stopped : Bool) (l : List Byte), s.saves.find? (fun x => x.id = v.id) = some v →
    v.restore = some (core, stopped) → s.unawaited (dieOf v.agent) v.id →
    s.readRange (coreOf v.agent) (fun _ => v.gen) v.va (256 + imageTail) = .ok (l, false, s') →
    let over' (s : State) : State := { s with saves := s.saves.filter (fun x => x.id ≠ v.id) }
    let place (s : State) : Option (List Nat) := s.restorePlace core (Foot.ofBytes ((l.drop 0x20).take 64))
    let x := s'.saved.find? (fun x => imageBody x.id = l.drop 256)
    (headerOk l = false ∨ x = none → s.goOn v.id = some ((over' s').resolve0 v.fut Status.faulted Code.handle)) ∧
    (∀ y, headerOk l = true → x = some y →
      let r := match y.snap with | some n => s'.revive y n | none => (s', y)
      (place r.1 = none → s.goOn v.id = some ((over' s').resolve0 v.fut Status.full 0)) ∧
      (∀ cores, place r.1 = some cores → r.1.restoreRoom r.2 (r.2.teams.zip cores) = false →
        s.goOn v.id = some ((over' s').resolve0 v.fut Status.full 0)) ∧
      (∀ cores, place r.1 = some cores → r.1.restoreRoom r.2 (r.2.teams.zip cores) = true →
        s.goOn v.id = some ((over' (r.1.restore r.2 (r.2.teams.zip cores) stopped)).resolve0 v.fut Status.done 0))))

/-! ## Steps of waves and of the scheduler -/

/-- R184, R199, R202, R204, R289, R386, R389: RESULT_RETURN of a result that may return writes its registers, its tile or its table, raises
its flags, lowers its counter, performs its acquire, and leaves every register that it does not name; flags that its instruction's enables
turn into a trap take the fragment to UTVEC with the trap registers written, or in a handler stop the wave with UT_NEST; a retired wave's load into a
tile still writes it (R16, R235). R390 to R392: FAULT_RECORD_POST posts the record of a settled stop once, with an extension entry for a melded
one, where the ring has room and no earlier record of the die waits for room (R331, R391), and else does nothing; an entry posted advances FQPROD alone.
R399: an agent about to issue at an enabled breakpoint stops with BREAK at 0x100 + i, its PC at the instruction. R384: a sleep
ends when the clock has passed its time. Where the manual leaves a point open the model's reading is that of
log 5, 6, 73, 155, 159. -/
def Obligations.ResultsAndStops : Prop :=
  (∀ (s : State) (a : Agent) (id : Nat) (c : Ctx) (p : Pend), s.ctx? a = some c → c.pend.find? (fun p => p.id = id) = some p →
    c.gone = false → s.mayReturn a p = true → p.trap = none ∨ (enabled c.fpen p.flags).1 = 0 → p.tile = none → p.acq = none → p.rope = none →
    ∃ t k, exec (.resultReturn a id) s = .next t ∧ t.ctx? a = some k ∧ k.ctr p.ctr = c.ctr p.ctr - 1 ∧
      k.pend = c.pend.filter (fun q => q.id ≠ id) ∧
      (∀ n, (∀ w ∈ p.writes, w.reg ≠ .s n) → k.sget n = c.sget n) ∧
      (∀ n, (∀ w ∈ p.writes, w.reg ≠ .k n) → k.kget n = c.kget n) ∧
      (∀ n l, (∀ w ∈ p.writes, ∀ m j, w.reg = .v m j → 64 * m + j ≠ 64 * n + l) → k.vget n l = c.vget n l) ∧
      (∀ n v, n ≠ 63 → p.writes = [{ reg := .s n, val := some v }] → k.sget n = BitVec.ofNat 64 v) ∧
      (p.flags = [] → SameF c k) ∧ k.split = c.split ∧ t.mem = s.mem ∧ t.teams = s.teams ∧
      (∀ b, ctxKey b ≠ ctxKey a → t.ctx? b = s.ctx? b)) ∧
  (∀ (s : State) (a : Agent) (id : Nat) (c : Ctx) (p : Pend), s.ctx? a = some c → c.pend.find? (fun p => p.id = id) = some p →
    c.gone = false → s.mayReturn a p = true → p.acq = none →
    let traps (ti : TrapInfo) : Prop := p.trap = some ti ∧ (enabled c.fpen p.flags).1 ≠ 0
    (∀ ti fr, traps ti → c.utact = false → c.rec? ti.frag = some fr →
      ∃ t k, exec (.resultReturn a id) s = .next t ∧ t.ctx? a = some k ∧ k.utact = true ∧ k.utpc = p.pc ∧
        k.utnext = p.pc + BitVec.ofNat 64 ti.len ∧ k.utlanes = (enabled c.fpen p.flags).1 ∧ k.utcause = (enabled c.fpen p.flags).2 ∧
        k.utdst = BitVec.ofNat 8 ti.d ∧ k.utfrag = ti.frag ∧
        k.rec? ti.frag = some { fr with pc := c.utvec &&& 0x00FFFFFFFFFFFFFF } ∧ k.ctr p.ctr = c.ctr p.ctr - 1 ∧ t.mem = s.mem) ∧
    (∀ ti, traps ti → c.utact = true →
      ∃ t k st, exec (.resultReturn a id) s = .next t ∧ t.ctx? a = some k ∧ k.stop = some st ∧ st.code = Code.utNest ∧
        st.prec = false ∧ st.pc = p.pc) ∧
    (∀ n m tm, p.trap = none → p.tile = some (n, m) → s.teams.find c.team = some tm →
      ∃ t, exec (.resultReturn a id) s = .next t ∧ t.teams.find c.team = some { tm with
        tiles := m.foldl (fun (w : AMap Byte) (e : Nat × Byte) => AMap.set 0 w (32768 * n + e.1) e.2) tm.tiles } ∧ t.mem = s.mem) ∧
    (∀ r, p.trap = none → p.rope = some r →
      ∃ t k, exec (.resultReturn a id) s = .next t ∧ t.ctx? a = some k ∧ k.rope = r ∧ t.mem = s.mem)) ∧
  (∀ (s : State) (a : Agent) (id : Nat) (c : Ctx) (p : Pend) (sc : BitVec 3), s.ctx? a = some c →
    c.pend.find? (fun p => p.id = id) = some p → c.gone = false → s.mayReturn a p = true → p.trap = none → p.tile = none → p.rope = none →
    p.acq = some sc →
    let c1 := (p.writes.foldl (fun c w => c.regSet w.reg (w.val.getD 0)) c).raiseAll p.flags
    exec (.resultReturn a id) s = .next ((s.setCtx a
      { c1.setCtr p.ctr (c1.ctr p.ctr - 1) with pend := c1.pend.filter (fun q => q.id ≠ id) }).acquire a sc.toNat)) ∧
  (∀ (s : State) (a : Agent) (id n : Nat) (c : Ctx) (p : Pend) (m : AMap Byte) (tm : Team), s.ctx? a = some c →
    c.pend.find? (fun p => p.id = id) = some p → c.gone = true → p.reqs = [] → p.tile = some (n, m) → s.teams.find c.team = some tm →
    ∃ t, exec (.resultReturn a id) s = .next t ∧ t.mem = s.mem ∧
      (p.fail = none → t.teams.find c.team = some { tm with
        tiles := m.foldl (fun (w : AMap Byte) (e : Nat × Byte) => AMap.set 0 w (32768 * n + e.1) e.2) tm.tiles }) ∧
      (p.fail.isSome = true → t.teams = s.teams) ∧
      (c.pend.filter (fun q => q.id ≠ id) = [] → t.ctx? a = none) ∧
      (c.pend.filter (fun q => q.id ≠ id) ≠ [] → t.ctx? a = some { c with pend := c.pend.filter (fun q => q.id ≠ id) })) ∧
  (∀ (s : State) (a : Agent) (c : Ctx) (st : Stop), s.ctx? a = some c → c.stop = some st → s.recordsWait (dieOf a) = true →
    exec (.faultRecordPost a) s = .next s) ∧
  (∀ (s : State) (a : Agent) (c : Ctx) (st : Stop), s.ctx? a = some c → c.stop = some st → st.posted = false → st.silent = false →
    c.settled = true → s.recordsWait (dieOf a) = false →
    let r := RecF.bytes (s.recordOf a st.pc st.addr st.mask 0 false st.prec st.meld st.code)
    let l := r :: (if st.meld then [leBytes 16 c.paths.toNat ++ List.replicate 16 0] else [])
    (∀ d, (s.die (dieOf a)).post l = some d → exec (.faultRecordPost a) s = .next
      ((s.mapDie (dieOf a) (fun _ => d)).setCtx a { c with stop := some { st with posted := true } })) ∧
    ((s.die (dieOf a)).post l = none → exec (.faultRecordPost a) s = .next s)) ∧
  (∀ (d d' : Die) (rs : List FaultRec) (n : Nat), d.ringN = some n → d.post rs = some d' →
    d'.prod = (d.prod + rs.length) % 2 ^ 32 ∧ bits d'.fqprod.toNat 32 32 = bits d.fqprod.toNat 32 32 ∧
    { d' with hls := d.hls, fqprod := d.fqprod } = d) ∧
  (∀ (s : State) (a : Agent) (i : Nat) (c : Ctx) (fr : SplitRec) (pc : W64), s.ctx? a = some c →
    s.bkptAddr (dieOf a) i = some pc → i < 8 → s.frag ∉ c.skipBkpt → c.rec? s.frag = some fr → c.canIssue s.frag = true →
    fr.pc = pc →
    ∃ t k st, exec (.breakpointHit a i) s = .next t ∧ t.ctx? a = some k ∧ k.stop = some st ∧ st.code = Code.brk ∧
      st.addr = 0x100 + i ∧ st.prec = false ∧ st.pc = pc ∧ k.split = c.split ∧ SameS c k [] ∧ SameK c k [] ∧ SameV c k ∧
      t.mem = s.mem) ∧
  (∀ (s : State) (a : Agent) (c : Ctx) (time : Nat), s.ctx? a = some c → c.park = .sleep time → time ≤ s.clk (dieOf a) →
    ∃ t k, exec (.sleepExpiry a) s = .next t ∧ t.ctx? a = some k ∧ k.park = .none ∧ k.split = c.split ∧ SameS c k [] ∧
      t.rest = s.rest)

/-- R16 to R18, R235, R358 to R361, R363, R369 to R371, R373, R375: waves retire once their stores are accepted, with their loads into tiles still on
their way, teams are released, groups
publish or drain what their partition wrote and complete, gangs are placed, records come to block, claims are granted or fail, and waves are switched out and back. Where the manual leaves a point open the model's reading is that of
log 21, 22, 29, 45, 46, 93, 94, 128, 132, 153 to 156. -/
def Obligations.Scheduling : Prop :=
  (∀ (s : State) (a : Agent) (c : Ctx) (tm : Team), s.ctx? a = some c → s.teams.find c.team = some tm → tm.group ≠ 0 →
    isStoker a = false → isHearth a = false → c.exited = BitVec.allOnes 64 → s.storing c = false → (∀ p ∈ c.pend, p.fail = none) →
    c.sfail = [] → c.stop = none → tm.dead = none → c.gone = false → tm.retired.length + 1 ≠ tm.foot.waves →
    let loads := c.pend.filter (fun p => p.tile.isSome)
    ∃ t, exec (.waveRetire a) s = .next t ∧ (loads = [] → t.ctx? a = none) ∧
      (loads ≠ [] → ∃ k, t.ctx? a = some k ∧ k.gone = true ∧ k.pend = loads ∧ k.team = c.team) ∧
      t.teams.find c.team = some { tm with retired := tm.retired ++ [c.widx], claims := tm.claims.filter (· ≠ c.widx) } ∧
      (∀ b, ctxKey b ≠ ctxKey a → t.ctx? b = s.ctx? b) ∧ t.mem = s.mem) ∧
  (∀ (s : State) (key : Nat) (tm : Team) (g : Group), s.teams.find key = some tm → tm.group ≠ 0 →
    s.inSave key = false → tm.retired.length = tm.foot.waves → s.teamWork key = false → s.groups.any (fun g => g.2.parent = some key) = false →
    s.groups.find tm.group = some g →
    ∃ t u, exec (.teamRelease key) s = .next t ∧ t.teams.find key = none ∧ t.groups.find tm.group = some u ∧
      u.retired = g.retired + 1 ∧ (tm.dead = none → u.worst = g.worst) ∧
      (∀ code, tm.dead = some code → g.worst = none → u.worst = some (tm.teamId, code)) ∧ t.mem = s.mem ∧
      t.ctxs = s.ctxs.filter (fun e => !(e.2.team = key && e.2.gone))) ∧
  (∀ (s : State) (key : Nat) (g : Group), s.groups.find key = some g → g.retired = g.gx * g.gy * g.gz →
    (if g.sc = 0 then s.undrained g.part = false else s.unpublished g.part = false) → s.unawaited g.die key →
    let ends (t : State) : Prop :=
      (∀ i code, g.worst = some (i, code) → exec (.groupComplete key) s = .next (t.resolve0 g.fut Status.faulted code)) ∧
      (g.worst = none → g.cut = true → exec (.groupComplete key) s = .next (t.resolve0 g.fut Status.cancelled 0)) ∧
      (g.worst = none → g.cut = false → exec (.groupComplete key) s = .next (t.resolve0 g.fut Status.done 0))
    (g.sigaddr = 0 → ends { s with groups := s.groups.del key }) ∧
    (∀ rt s', g.sigaddr ≠ 0 → s.route (64 * g.die) g.part g.sigaddr true false = .ok rt →
      s.engineWrite g.part rt.attr.gen rt.va (leBytes 8 g.sigval.toNat) = .ok s' → ends { s' with groups := s'.groups.del key }) ∧
    (∀ code, g.sigaddr ≠ 0 → s.route (64 * g.die) g.part g.sigaddr true false = .error code →
      exec (.groupComplete key) s =
        .next (({ s with groups := s.groups.del key } : State).resolve0 g.fut Status.faulted code))) ∧
  (∀ (s : State) (key : Nat) (g : Group), s.groups.find key = some g → g.retired = g.gx * g.gy * g.gz →
    (g.sc = 0 → s.undrained g.part = true → exec (.groupComplete key) s = .next (s.drainPart g.part)) ∧
    (g.sc ≠ 0 → s.unpublished g.part = true → exec (.groupComplete key) s = .next (s.publishPart g.part))) ∧
  (∀ (s : State) (die key : Nat) (g : Group) (cores : List Nat), s.groups.find key = some g →
    dieOfCore (cores.headD 0) = die →
    (s.toPrepare key (cores.headD 0) = none → s.nextRecord die (key, g) (fun f => (s.findPlace die f).isSome) = true →
      s.gangOn g.foot cores = true → (s.die die).live = true → s.partOf die = g.part →
      exec (.gangPlacement die key cores) s = .next (s.placeGang key g cores none)) ∧
    (∀ k tm x s', s.toPrepare key (cores.headD 0) = some (k, tm) → s.unawaited (dieOfCore tm.core) k →
      s.windowReads tm.core g = .ok (.ok (x, s')) →
      exec (.gangPlacement die key cores) s = .next (s'.startTeam k tm g x.1 x.2.1 x.2.2)) ∧
    (∀ k tm code, s.toPrepare key (cores.headD 0) = some (k, tm) → s.windowReads tm.core g = .error code →
      exec (.gangPlacement die key cores) s =
        .next (s.mapTeam k (fun t => { t with dead := some code, retired := List.range t.foot.waves })))) ∧
  (∀ (s : State) (gkey key tid core : Nat) (g : Group) (gang slots : List Nat),
    ∃ tm, (s.placeTeam gkey g key tid core gang slots).teams.find key = some tm ∧ tm.group = gkey ∧ tm.teamId = tid ∧
      tm.x = tid % g.gx ∧ tm.y = tid / g.gx % g.gy ∧ tm.z = tid / (g.gx * g.gy) ∧ tm.core = core ∧ tm.foot = g.foot ∧ tm.win = [] ∧
      tm.guards = [] ∧ tm.waves = slots.take g.foot.waves ∧ tm.retired = [] ∧ tm.priv = false ∧ tm.dead = none ∧
      (s.placeTeam gkey g key tid core gang slots).ctxs = s.ctxs) ∧
  (∀ (s : State) (key i n : Nat) (tm : Team) (g : Group) (img guard tags : List Byte), s.teams.find key = some tm → tm.core < 1536 →
    tm.waves.Nodup → (∀ n ∈ tm.waves, n < 20) → tm.waves[i]? = some n →
    let t := s.startTeam key tm g img guard tags
    t.ctx? (.slot tm.core n) = some (g.waveCtx key i) ∧
    ∃ u, t.teams.find key = some u ∧ u.win = putBytes [] 0 img ∧ u.guards = onesBelow (ofLe guard) (tm.foot.lsbytes / 64) ∧
      (∀ j, AMap.get 0 u.swz j = ((tags[j]?).map (fun b => b.toNat % 8)).getD 0) ∧
      { u with win := tm.win, guards := tm.guards, swz := tm.swz } = tm) ∧
  (∀ (s : State) (die key : Nat) (g : Group), s.groups.find key = some g → g.queued = true → g.die = die → g.blocking = false →
    2 ^ 18 ≤ s.clk die - g.since →
    ∃ t, exec (.recordBlocking die key) s = .next t ∧ t.groups.find key = some { g with blocking := true } ∧
      (∀ k, k ≠ key → t.groups.find k = s.groups.find k) ∧ t.mem = s.mem ∧ t.ctxs = s.ctxs ∧ t.teams = s.teams) ∧
  (∀ (s : State) (key w n d : Nat) (ws : List Nat) (tm : Team) (a : Agent) (c : Ctx), s.teams.find key = some tm →
    tm.claims = w :: ws → s.waveOf key w = some (a, c) → c.park = .claim n d → c.stop = none → n - c.nreg ≤ s.freeRegs key →
    exec (.claimGrant key) s = .next ((s.mapTeam key (fun t => { t with claims := ws })).endClaim a d n (fun c =>
      { c.dropRegs c.nreg with nreg := n }))) ∧
  (∀ (s : State) (key : Nat), let live := (s.waveCtxs key).filter (fun e => e.2.exited ≠ BitVec.allOnes 64)
    live ≠ [] → (s.waveCtxs key).any (fun e => e.2.exited = BitVec.allOnes 64) = false →
    (∀ e ∈ live, e.2.need ≠ none) → evClaimGrant key s = none →
    ∃ e ∈ live, ∃ m d, e.2.need = some (m, d) ∧
      (∀ x ∈ live, ∀ m' d', x.2.need = some (m', d') → m' < m ∨ (m' = m ∧ x.2.widx ≤ e.2.widx)) ∧
      exec (.claimFail key) s = .next ((s.mapTeam key (fun t =>
        { t with claims := t.claims.filter (· ≠ e.2.widx) })).endClaim (agentOfKey e.1) d 0 id)) ∧
  (∀ (s s' : State) (core n group : Nat) (spares : List Nat) (c : Ctx) (tm : Team) (g q : Group),
    s.ctx? (.slot core n) = some c → s.teams.find c.team = some tm → s.groups.find tm.group = some g →
    s.groups.find group = some q → n < 20 → s.parkedOnFut c = true → c.out = none → c.stop = none →
    1024 ≤ s.clk (dieOfCore core) - c.parkedAt → c.ldc = 0 → c.xc = 0 → s.otherEc c = 0 → g.ctxa ≠ 0 →
    let fits (f : Foot) : Bool := f.gang == 1 && s.fitsCore core f 16 20 c.nreg && s.fitsQuad (core / 4) f 1
    let area := s.saveArea core n g.ctxa
    let gen := s.saveGenOf core area
    s.nextRecord (dieOfCore core) (group, q) fits = true → fits q.foot = true → spares.length = q.foot.waves →
    spares.all (fun n => (s.freeSlots core 16 20).contains n) = true → spares.Nodup → s.maySave core g.part area = true →
    s.unawaited (dieOfCore core) (2 ^ 64 + ctxKey (.slot core n)) → s.saveBlocks core gen area c = .ok s' →
    exec (.waveSwitchOut (.slot core n) group spares) s = .next ((({ s' with uid := s'.uid + 1 } : State).mapCtx (.slot core n)
      (fun c => { c with out := some s'.uid, saveGen := gen })).placeGang group q [core] (some spares))) ∧
  (∀ (s s' : State) (core n k : Nat) (c : Ctx) (tm : Team) (g : Group) (bs : List (Nat × List Byte)) (stale : Bool),
    s.ctx? (.slot core n) = some c → c.out = some k → s.teams.find c.team = some tm → s.groups.find tm.group = some g →
    core < 1536 → s.resumable core c = true →
    s.ctxs.all (fun e => !(e.1 / 24 = core && e.1 < 36864 && s.resumable core e.2 && (e.2.out.getD 0) < k)) = true →
    let area := s.saveArea core n g.ctxa
    s.unawaited (dieOfCore core) (2 ^ 64 + ctxKey (.slot core n)) → s.loadBlocks core c.saveGen area c = .ok (bs, stale, s') →
    (stale = false → s.deadArena core area = false → exec (.waveSwitchResume (.slot core n)) s = .next (s'.mapCtx (.slot core n)
      (fun c => { c.reload s.tick (fun b => (AMap.find (bs : AMap (List Byte)) b).getD []) with out := none }))) ∧
    (stale = true ∨ s.deadArena core area = true →
      exec (.waveSwitchResume (.slot core n)) s = .next (((s'.mapCtx (.slot core n) (fun c =>
        { c with out := none, park := .none, lastCode := Code.arenaDead })).endThreads (.slot core n)
          (BitVec.allOnes 64)).mapTeam c.team (fun t => { t with dead := some Code.arenaDead })))) ∧
  (∀ (c : Ctx) (tick : Nat) (area : Nat → List Byte) (n lane : Nat), n / 8 < c.nreg / 8 → lane < 64 →
    c.live.getLsbD (n / 8) = true →
    (c.reload tick area).vget n lane = BitVec.ofNat 32 (field (area (n / 8)) (256 * (n % 8) + 4 * lane) 4))

/-! ## Steps of the memory system -/

/-- R86, R95, R96, R99, R107 to R109, R113, R114, R116, R118, R119, R162, R278, R282 to R284, R296: a walk fills the home's
translation cache, or the request is held by its page's episode, fails or is dropped, or waits for room in the die's hold buffer; a
request acts at its home slice, with a current generation and a cached translation, and an access to a frame of no die stops the machine;
a line that came back serves its request; a waiter reads again; lines are evicted with their dirty bytes and their poison kept; a REMOTE
object's other half arrives; errors are corrected and logged where no bank of the unit is marked failed, banks are marked, and errors that
no code corrects drop clean lines, poison dirty ones or fail what reads them. Where the manual leaves a point open the model's reading is that of
log 12 to 14, 40, 41, 91, 97, 104, 110, 111, 112, 123, 130, 158, 160. -/
def Obligations.MemorySteps : Prop :=
  (∀ (s : State) (die code : Nat) (r : Req),
    let prefetches : Prop := ∃ ch, r.op = .prefetch ch
    let once : Prop := code = Code.synonym ∨ r.nf = true
    (prefetches → s.trouble die r code = some (s.dropReq r)) ∧
    (¬ prefetches → once → s.trouble die r code = some (s.failReq r code r.va)) ∧
    (¬ prefetches → ¬ once → s.holdRoom die = true → s.trouble die r code = some ((s.holdReq r r.va).beginEpisode die r.part r.va code
      (s.recordOf r.agent r.pc r.va r.mask 1 false false false code))) ∧
    (¬ prefetches → ¬ once → s.holdRoom die = false → s.trouble die r code = none)) ∧
  (∀ (s : State) (r : Req), s.reqs.find? (fun x => x.id = r.id) = some r → r.held = none → r.failed = none → r.back = none →
    r.op ≠ .fetch →
    let die := s.unitOf r.part r.va % 32
    s.copyFor r = none → s.holdRoom die = true → tlbFind (s.die die).tlb r.part r.va = none →
    (∀ e, s.episode? r.part r.va = none → s.walkVa r.part r.va = some e →
      exec (.translationWalk r.id) s = .next (s.tlbFill die r.part r.va e).mapsGo) ∧
    (s.episode? r.part r.va = none → s.walkVa r.part r.va = none →
      exec (.translationWalk r.id) s = .next (((s.trouble die r Code.xlate).map State.mapsGo).getD s)) ∧
    (∀ e, s.episode? r.part r.va = some e → exec (.translationWalk r.id) s = .next (((s.trouble die r e.code).map State.mapsGo).getD s))) ∧
  (∀ (s : State) (r : Req) (pa : Nat), s.reqs.find? (fun x => x.id = r.id) = some r → s.mayAct r = true →
    (match r.op with | .kvapp .. | .kvtrunc .. | .kvfind .. | .kvins .. | .kvrel .. => False | _ => True) →
    let die := s.unitOf r.part r.va % 32
    let goes (x : Option State) : Prop := exec (.homeSliceOperation r.id) s = .next ((x.map State.rangesGo).getD s)
    (s.staleGen r.part r.va r.gen = true → exec (.homeSliceOperation r.id) s = .next (s.staleOp r).rangesGo) ∧
    (∀ k, s.staleGen r.part r.va r.gen = false → s.copyFor r = some k →
      exec (.homeSliceOperation r.id) s = .next ((s.copyMerge r k).dropReq r).rangesGo) ∧
    (s.staleGen r.part r.va r.gen = false → s.copyFor r = none → r.held = none → s.draining r = false →
      (∀ e, s.episode? r.part r.va = some e → goes (s.trouble die r e.code)) ∧
      (s.episode? r.part r.va = none →
        (s.reqPa r = .hit pa → noSuchDie pa = true → exec (.homeSliceOperation r.id) s = .fault .physAbsent) ∧
        (s.reqPa r = .hit pa → noSuchDie pa = false →
          goes ((s.linkFor r (s.unitOf r.part r.va)).map (fun x => x.homeOp r (s.unitOf r.part r.va) pa))) ∧
        (∀ code, s.reqPa r = .denied code → goes (s.trouble die r code))))) ∧
  (∀ (s : State) (r : Req) (unit pa : Nat) (d : BitVec 1024) (op : BitVec 3) (ty : Ty) (x : Nat), r.op = .rmw op ty x true →
    s.slotOp r unit pa d = (s.putAt r unit pa (leBytes r.n (atomOp op ty (ofLe (lineBytes d (r.va % 128) r.n)) x))).complete r
      (lineBytes d (r.va % 128) r.n)) ∧
  (∀ (s : State) (r : Req) (unit pa : Nat) (d : BitVec 1024) (cmp new : Nat), r.op = .cas cmp new →
    s.slotOp r unit pa d = (if ofLe (lineBytes d (r.va % 128) r.n) = cmp then s.putAt r unit pa (leBytes r.n new) else s).complete r
      (lineBytes d (r.va % 128) r.n)) ∧
  (∀ (s : State) (r : Req) (d : BitVec 1024) (ch : Nat) (known : AMap Byte),
    s.reqs.find? (fun x => x.id = r.id) = some r → r.back = some d → r.op = .load ch known →
    let bytes := (List.range r.n).map (fun i => (known.find (r.va % 128 + i)).getD (lineByte d (r.va % 128 + i)))
    (r.alloc = false ∨ (s.attr r.core (lineArena (lineNo r.va))).gen ≠ r.gen →
      exec (.l1Fill r.id) s = .next (s.complete r bytes)) ∧
    (r.alloc = true → (s.attr r.core (lineArena (lineNo r.va))).gen = r.gen →
      exec (.l1Fill r.id) s = .next ((s.l1FillLine r.core (lineNo r.va) r.gen ch d).complete r bytes))) ∧
  (∀ (s : State) (r : Req) (d : BitVec 1024) (ch : Nat),
    s.reqs.find? (fun x => x.id = r.id) = some r → r.back = some d → r.op = .prefetch ch →
    let fills : Prop := r.alloc = true ∧ (s.attr r.core (lineArena (lineNo r.va))).gen = r.gen
    (¬ fills → exec (.l1Fill r.id) s = .next (s.dropReq r)) ∧
    (fills → exec (.l1Fill r.id) s = .next ((s.l1FillLine r.core (lineNo r.va) r.gen ch d).dropReq r))) ∧
  (∀ (s : State) (core line gen ch : Nat) (data : BitVec 1024) (l : L1Line), (s.core core).l1Find line gen = some l →
    ∃ k, ((s.l1FillLine core line gen ch data).core core).l1Find line gen = some k ∧ k.valid = BitVec.allOnes 128 ∧
      k.dirty = l.dirty ∧ k.data = mergeLine data l.valid l.data) ∧
  (∀ (s s1 : State) (a : Agent) (w : Waiter), s.waiters.find? (fun w => w.agent = a && !w.inSlice) = some w →
    (s.reach w.part w.va true = none → exec (.ticketWaiterRetry a) s = .next s) ∧
    (s.reach w.part w.va true = some s1 →
      let gone : State := { s1 with waiters := s.waiters.filter (fun x => x.id ≠ w.id) }
      let fails (c : Ctx) (fr : SplitRec) (code x : Nat) (prec : Bool) : Prop :=
        ∃ t k, exec (.ticketWaiterRetry a) s = .next t ∧ t.waiters = gone.waiters ∧ t.ctx? a = some k ∧ k.park = .again [] none ∧
          k.sfail = c.sfail ++ [(fr.pc, { code := code, lanes := fr.mask, addr := x, prec := prec, meld := fr.meld })] ∧
          k.split = c.split ∧ SameS c k [] ∧ SameV c k ∧ t.mem = s.mem
      (∀ l v, s.homeRead w.part w.gen w.va w.n = .ok l → w.op.broken l = false → w.op.ready l = some v →
        exec (.ticketWaiterRetry a) s = .next ((gone.l1Renew (coreOf a) (lineNo w.va)).wakeWait a w.op w.len v)) ∧
      (∀ l, s.homeRead w.part w.gen w.va w.n = .ok l → w.op.broken l = false → w.op.ready l = none →
        exec (.ticketWaiterRetry a) s = .next s) ∧
      (∀ l c fr, s.homeRead w.part w.gen w.va w.n = .ok l → w.op.broken l = true → s.ctx? a = some c → c.rec? c.frag = some fr →
        fails c fr Code.handle w.va true) ∧
      (∀ x c fr, s.homeRead w.part w.gen w.va w.n = .error (Code.ecc, x) → s.ctx? a = some c → c.rec? c.frag = some fr →
        fails c fr Code.ecc x false))) ∧
  (∀ (s : State) (core line : Nat) (l : L1Line), (s.core core).l1.find? (fun l => l.line = line) = some l →
    ∃ t, exec (.l1Eviction core line) s = .next t ∧
      (t.core core).l1 = (s.core core).l1.filter (fun k => !(k.line = l.line && k.gen = l.gen)) ∧ t.mem = s.mem ∧
      t.ctxs = s.ctxs ∧
      (l.dirty ≠ 0 → l.gen = (s.attr core (lineArena l.line)).gen →
        ∃ r, t.reqs.getLast? = some r ∧ r.op = .write l.dirty l.data ∧ r.va = l.line * 128 ∧ r.part = s.corePart core ∧
          r.poison = l.poison ∧ r.copy = (s.attr core (lineArena l.line)).swm)) ∧
  (∀ (s : State) (die line : Nat) (l : LlcLine), s.llc.find? (fun l => l.die = die && l.line = line) = some l →
    (s.llcStale l = true ∨ (l.dirty = 0 ∧ l.poison = false) →
      ∃ t, exec (.sliceEviction die line) s = .next t ∧ t.llc = s.llc.filter (fun k => !k.same l) ∧ t.mem = s.mem) ∧
    (∀ e, s.llcStale l = false → l.home = true → l.dirty ≠ 0 → l.poison = false → s.walkVa l.part (l.line * 128) = some e →
      (s.part l.part).hidden l.line = false →
      ∃ t, exec (.sliceEviction die line) s = .next t ∧ t.llc = s.llc.filter (fun k => !k.same l) ∧
        t.mem = maskWrite s.mem (leafPa e (l.line * 128)) l.dirty l.data) ∧
    (∀ e, s.llcStale l = false → l.home = true → l.poison = true → s.walkVa l.part (l.line * 128) = some e →
      ∃ t, exec (.sliceEviction die line) s = .next t ∧ t.llc = s.llc.filter (fun k => !k.same l) ∧
        t.poison.contains (leafPa e (l.line * 128) / 128) = true) ∧
    (s.llcStale l = false → l.home = true → l.dirty ≠ 0 → s.walkVa l.part (l.line * 128) = none →
      exec (.sliceEviction die line) s = .next s) ∧
    (s.llcStale l = false → l.home = false → l.dirty ≠ 0 →
      ∃ t r, exec (.sliceEviction die line) s = .next t ∧ t.llc = s.llc.filter (fun k => !k.same l) ∧ t.mem = s.mem ∧
        t.reqs.getLast? = some r ∧ r.op = .write l.dirty l.data ∧ r.va = l.line * 128 ∧ r.part = l.part ∧ r.gen = l.gen ∧
        r.poison = l.poison)) ∧
  (∀ (s : State) (key off x : Nat) (tm : Team), s.teams.find key = some tm →
    tm.half.find? (fun h => h / 4 / 16 = off && h % 4 = 0) = some x →
    exec (.barrierHalfComplete key off) s = .next ((s.mapTeam key (fun t => { t with half := t.half.erase x ++ [x + 1] })).flipTest
      key off)) ∧
  (∀ (s : State) (die : Nat) (site : EccSite), die < 24 → (s.die die).live = true → siteOk site = true →
    (∀ m ∈ (s.die die).marks, ¬ (m.1 = site.array.toNat ∧ m.2.1 = site.unit.toNat)) →
    ∃ t, exec (.eccCorrected die site) s = .next t ∧ t.mem = s.mem ∧ t.ctxs = s.ctxs ∧
      (t.die die).corrections.find (siteKey site) =
        some ((s.die die).clk :: ((s.die die).corrections.find (siteKey site)).getD [])) ∧
  (∀ (s : State) (die : Nat) (site : EccSite), die < 24 → (s.die die).live = true → site.array.toNat ≤ 4 → site.bank.toNat < 18 →
    siteMark site ∉ (s.die die).marks →
    ∃ t, exec (.bankMarkFailed die site) s = .next t ∧ (t.die die).marks = siteMark site :: (s.die die).marks ∧ t.mem = s.mem ∧
      t.ctxs = s.ctxs) ∧
  (∀ (s : State) (die line : Nat) (site : EccSite) (l : LlcLine),
    s.llc.find? (fun l => l.die = die && l.line = line && l.home && !l.poison) = some l →
    s.eccAllowed die site (.poisonHome line) → ∃ t, exec (.eccUncorrectable die site (.poisonHome line)) s = .next t ∧
      t.llc = s.llc.map (fun x => if x = l then { l with poison := true } else x) ∧ t.mem = s.mem ∧ t.ctxs = s.ctxs) ∧
  (∀ (s : State) (die : Nat) (site : EccSite) (a : Agent) (c : Ctx) (fr : SplitRec) (i : Instr), s.ctx? a = some c → c.stop = none →
    c.rec? c.frag = some fr → s.decodeAt a fr = .ok (.ok i) → s.eccAllowed die site (.reader a) →
    ∃ t k st, exec (.eccUncorrectable die site (.reader a)) s = .next t ∧ t.ctx? a = some k ∧ k.stop = some st ∧
      st.code = Code.ecc ∧ st.prec = false ∧ st.addr = siteAddr site ∧ st.pc = fr.pc ∧ st.mask = fr.mask ∧
      k.rec? c.frag = some { fr with pc := (fr.pc + BitVec.ofNat 64 i.bytes) &&& 0x00FFFFFFFFFFFFFF } ∧
      (∀ j, j ≠ c.frag → k.rec? j = c.rec? j) ∧ SameS c k [] ∧ t.mem = s.mem) ∧
  (∀ (s : State) (die : Nat) (site : EccSite) (target : EccTarget), ¬ s.eccAllowed die site target →
    exec (.eccUncorrectable die site target) s = .next s) ∧
  (∀ (s : State) (die core line : Nat) (site : EccSite) (l : L1Line),
    (s.core core).l1.find? (fun l => l.line = line && l.dirty = 0) = some l →
    s.eccAllowed die site (.cleanL1 core line) → ∃ t, exec (.eccUncorrectable die site (.cleanL1 core line)) s = .next t ∧
      (t.core core).l1 = (s.core core).l1.filter (· ≠ l) ∧ t.mem = s.mem ∧ t.ctxs = s.ctxs) ∧
  (∀ (s : State) (die core line : Nat) (site : EccSite) (l : L1Line),
    (s.core core).l1.find? (fun l => l.line = line && l.dirty ≠ 0 && !l.poison) = some l →
    s.eccAllowed die site (.dirtyL1 core line) → ∃ t, exec (.eccUncorrectable die site (.dirtyL1 core line)) s = .next t ∧
      (t.core core).l1 = (s.core core).l1.map (fun x => if x = l then { l with poison := true } else x) ∧ t.mem = s.mem ∧
      t.ctxs = s.ctxs) ∧
  (∀ (s : State) (die d line : Nat) (site : EccSite) (l : LlcLine),
    (s.llc.find? (fun l => l.die = d && l.line = line && !l.home && l.dirty = 0) = some l →
      s.eccAllowed die site (.cleanCopy d line) → ∃ t, exec (.eccUncorrectable die site (.cleanCopy d line)) s = .next t ∧ t.llc = s.llc.filter (fun k => !k.same l) ∧
        t.mem = s.mem ∧ t.ctxs = s.ctxs) ∧
    (s.llc.find? (fun l => l.die = d && l.line = line && !l.home && l.dirty ≠ 0 && !l.poison) = some l →
      s.eccAllowed die site (.dirtyCopy d line) → ∃ t, exec (.eccUncorrectable die site (.dirtyCopy d line)) s = .next t ∧
        t.llc = s.llc.map (fun x => if x = l then { l with poison := true } else x) ∧ t.mem = s.mem ∧ t.ctxs = s.ctxs)) ∧
  (∀ (s : State) (die id : Nat) (site : EccSite) (a : Agent) (lanes : Lanes) (c : Ctx) (p : Pend), s.ctx? a = some c →
    c.pend.find? (fun p => p.id = id && p.ctr = .ldc) = some p →
    let f : Failure := match p.fail with
      | some x => { x with lanes := x.lanes ||| lanes }
      | none => { code := Code.ecc, lanes := lanes, addr := siteAddr site, prec := false, meld := p.meld }
    s.eccAllowed die site (.load a id lanes) → ∃ t k, exec (.eccUncorrectable die site (.load a id lanes)) s = .next t ∧ t.ctx? a = some k ∧
      k.pend.find? (fun p => p.id = id && p.ctr = .ldc) = some { p with fail := some f } ∧ k.split = c.split ∧ SameS c k [] ∧
      SameV c k ∧ t.mem = s.mem) ∧
  (∀ (s : State) (die q id : Nat) (site : EccSite),
    (∀ k, s.task? q id = some k → s.eccAllowed die site (.task q id) → ∃ t, exec (.eccUncorrectable die site (.task q id)) s = .next t ∧
      t.task? q id = some { k with fail := some Code.ecc } ∧ t.mem = s.mem ∧
      ((∀ w r n i d ls, k.op ≠ .rstat w r n i d ls) → t.ctxs = s.ctxs) ∧
      (∀ w r n i d ls c p, k.op = .rstat w r n i d ls → s.ctx? k.agent = some c → c.pend.find? (fun p => p.id = i) = some p →
        ∃ c', t.ctx? k.agent = some c' ∧ c'.pend.find? (fun p => p.id = i) = some { p with
          fail := some { code := Code.ecc, lanes := ls, addr := siteAddr site, prec := false, meld := p.meld } } ∧
          SameS c c' [] ∧ SameV c c')) ∧
    (∀ c, (s.quad q).copies.find? (fun c => c.id = id && c.sls && c.kind ≠ ckFill) = some c →
      s.eccAllowed die site (.copy q id) → ∃ t, exec (.eccUncorrectable die site (.copy q id)) s = .next t ∧
        (t.quad q).copies.find? (fun c => c.id = id && c.sls && c.kind ≠ ckFill) = some { c with fail := some Code.ecc } ∧
        t.mem = s.mem ∧ t.ctxs = s.ctxs))

/-- R83, R114, R116: a masked write that performs at the home of an N line whose slice holds the line, or does not take it in, changes exactly the bytes of its mask there, and reads as it was elsewhere in the line; a write to memory changes no byte
beyond its mask. Where the manual leaves a point open the model's reading is that of
log 26, 112. -/
def Obligations.HomeWrites : Prop :=
  (∀ (s : State) (unit part line gen pa i : Nat) (mask : BitVec 128) (data : BitVec 1024), i < 128 →
    ((s.llcFind unit part line gen).isSome = true ∨
      (s.llcFind unit part line gen = none ∧ (s.llcRoom unit part line = none ∨ s.cached part line = false))) →
    lineByte ((s.homeWrite unit part line gen pa Arn.typN mask data).homeLine unit part line gen pa).1 i =
      if mask.getLsbD i then lineByte data i else lineByte (s.homeLine unit part line gen pa).1 i) ∧
  (∀ (m : Memory) (pa x : Nat) (mask : BitVec 128) (data : BitVec 1024),
    (maskWrite m pa mask data).get x =
      if pa ≤ x ∧ x - pa < 128 ∧ mask.getLsbD (x - pa) = true then lineByte data (x - pa) else m.get x)

/-! ## The host, the links and the starts -/

/-- R317, R405, R438, R439, R441 to R445, R449, R450: BAR2 reads answer the home copy of a live or sealed arena through an enabled
aperture and all ones where they are refused, which posts a record, before bring-up has ended too; BAR2 writes perform at the home, and a
refused one posts a record; BAR0 writes of four and of eight bytes set apertures, fill and ring mailboxes and restart; the mailboxes'
requests are answered with their status, the report being of the image that runs and the current configuration; Larlan ports train, send
again, after a lane loss, what the peer may not have acknowledged, renew their keys, serve the other module in encrypted groups of four
flits, which count on both directions, carry the device's own accesses to other modules, and stop their partition on a LINK failure. Where the manual leaves a point open the model's
reading is that of log 10, 23, 80 to 83, 88, 89, 101, 122, 124, 160. -/
def Obligations.OutsideSteps : Prop :=
  (∀ (s : State) (off n : Nat), n ≠ 0 → off + n ≤ 2 ^ 36 →
    (∀ l s', s.hostRead off n = .done (l, s') → exec (.hostBar2Read off n) s =
      .next { s' with host := { s'.host with reads := (off, l) :: s'.host.reads } }) ∧
    (s.hostRead off n = .wait → exec (.hostBar2Read off n) s = .next s) ∧
    (s.hostRead off n = .refused → ∃ t, exec (.hostBar2Read off n) s = .next t ∧
      t.host.reads = (off, List.replicate n 0xFF) :: s.host.reads ∧ t.mem = s.mem ∧ t.ctxs = s.ctxs)) ∧
  (∀ (s : State) (off n : Nat),
    (∀ p va l, s.bar2Target off n = some (p, va) → (s.part p).hostArena va = true → (s.part p).placed va n = true →
      s.homeRead p (s.genOf p va) va n = .ok l →
      (∀ s', (segs va n).foldlM (fun (s : State) x => s.reach p (x.1 * 128) true) s = some s' → s.hostRead off n = .done (l, s')) ∧
      ((segs va n).foldlM (fun (s : State) x => s.reach p (x.1 * 128) true) s = none → s.hostRead off n = .wait)) ∧
    (s.bar2Target off n = none → s.hostRead off n = .refused) ∧
    (s.host.kindle = true ∨ s.parts = [] → s.bar2Target off n = none)) ∧
  (∀ (s : State) (off : Nat) (l : List Byte), l ≠ [] → off + l.length ≤ 2 ^ 36 →
    (∀ s' p va, s.bar2Target off l.length = some (p, va) → s.outsideWrite p va l = .done s' →
      exec (.hostBar2Write off l) s = .next s') ∧
    (∀ p va, s.bar2Target off l.length = some (p, va) → s.outsideWrite p va l = .wait → exec (.hostBar2Write off l) s = .next s) ∧
    (∀ p va, s.bar2Target off l.length = some (p, va) → s.outsideWrite p va l = .refused →
      exec (.hostBar2Write off l) s = .next (s.hostRefused off)) ∧
    (s.bar2Target off l.length = none → exec (.hostBar2Write off l) s = .next (s.hostRefused off))) ∧
  (∀ (s : State) (p va : Nat) (l : List Byte), (s.part p).hostArena va = true → (s.part p).placed va l.length = true →
    (((s.part p).arena (arenaOf va)).state = Arn.sealed → s.outsideWrite p va l = .done s) ∧
    (∀ s', ((s.part p).arena (arenaOf va)).state ≠ Arn.sealed → s.homePut p (s.genOf p va) va l = .ok s' →
      s.outsideWrite p va l = .done s') ∧
    (∀ x, ((s.part p).arena (arenaOf va)).state ≠ Arn.sealed → s.homePut p (s.genOf p va) va l = .error (Code.link, x) →
      s.outsideWrite p va l = .wait)) ∧
  (∀ (s : State) (v : HostWord),
    let tag (d : Nat) : W32 := match v with | .eight w => BitVec.ofNat 32 (w.toNat / 2 ^ 32) | .four _ => (s.die d).mbox.tag
    (v.low.getLsbD 9 = true → exec (.bar0Write 8 v) s = .next s.restartAll) ∧
    (v.low.getLsbD 9 = false → s.host.on = true → exec (.bar0Write 8 v) s = .next ((s.beginRestart (v.low.toNat % 256)).getD s)) ∧
    (∀ d, d < 24 → (s.die d).mbox.status ≠ 1 →
      ∃ t, exec (.bar0Write (0x100000 + 0x2000 * d) v) s = .next t ∧ (t.die d).mbox.status = 1 ∧
        (t.die d).mbox.cmd = v.low.toNat ∧ (t.die d).mbox.tag = tag d ∧
        (t.die d).mboxRing = true ∧ t.mem = s.mem ∧ t.ctxs = s.ctxs) ∧
    (∀ d, d < 24 → (s.die d).mbox.status = 1 →
      ∃ t, exec (.bar0Write (0x100000 + 0x2000 * d) v) s = .next t ∧ (t.die d).mboxRing = (s.die d).mboxRing ∧
        (t.die d).mbox = { (s.die d).mbox with tag := tag d } ∧ t.mem = s.mem ∧ t.ctxs = s.ctxs)) ∧
  (∀ (s : State) (v : W32) (w : W64) (d : Nat), d < 24 →
    let at' (o : Nat) : Nat := 0x100000 + 0x2000 * d + o
    let sets (o : Nat) (x : HostWord) (m : Mbox) : Prop := ∃ t, exec (.bar0Write (at' o) x) s = .next t ∧ (t.die d).mbox = m ∧
      (t.die d).mboxRing = (s.die d).mboxRing ∧ t.mem = s.mem ∧ t.ctxs = s.ctxs
    let m := (s.die d).mbox
    sets 4 (.four v) { m with tag := v } ∧ sets 8 (.eight w) { m with arg := w } ∧ sets 0x10 (.four v) { m with len := v.toNat } ∧
    sets 0x14 (.four v) m ∧ sets 0x18 (.four v) m ∧
    (∀ o, 0x40 ≤ o → o < 0x2000 → o % 4 = 0 →
      sets o (.four v) { m with data := putBytes m.data (o - 0x40) (leBytes 4 v.toNat) })) ∧
  (∀ (s : State) (v : W64) (i : Nat), i < 16 → ∃ t, exec (.bar0Write (0x200000 + 16 * i) (.eight v)) s = .next t ∧
    (∀ j, AMap.get 0 t.host.aper j = if j = i then v &&& 0x00FFFFFFFF000001 else AMap.get 0 s.host.aper j) ∧
    t.mem = s.mem ∧ t.ctxs = s.ctxs) ∧
  (∀ (s : State), s.mboxBusy 0 = true →
    let m := (s.die 0).mbox
    let img := s.host.assembled m.arg.toNat
    (m.cmd = 0x41 → exec .mboxAttestation s = .next (s.mboxReply 0 (some (s.report (bytesAt m.data 0 64))) 2)) ∧
    (m.cmd = 0x51 → m.len ≤ 8128 → m.arg.toNat + m.len ≤ imageMax → exec .mboxImageChunk s = .next (State.mboxReply { s with
      host := { s.host with chunk := putAll s.host.chunk m.arg.toNat (bytesAt m.data 0 m.len) } } 0 none 2)) ∧
    (m.cmd = 0x51 → (8128 < m.len ∨ imageMax < m.arg.toNat + m.len) → exec .mboxImageChunk s = .next (s.mboxReply 0 none 3)) ∧
    (m.cmd = 0x52 → imageMax < m.arg.toNat ∨ Config.verifies img = false → exec .mboxImageCommit s = .next (s.mboxReply 0 none 3)) ∧
    (m.cmd = 0x52 → m.arg.toNat ≤ imageMax → Config.verifies img = true → s.host.kindle = false →
      ∃ t, exec .mboxImageCommit s = .next t ∧ t.host.image = img ∧ t.host.chunk = s.host.chunk ∧
        (t.die 0).mbox.status = 2 ∧ t.mem = s.mem ∧ t.ctxs = s.ctxs) ∧
    (m.cmd = 0x52 → m.arg.toNat ≤ imageMax → Config.verifies img = true → s.host.kindle = true →
      ∃ t, exec .mboxImageCommit s = .next t ∧ t.host.image = img ∧ t.host.fails = 0 ∧ t.host.on = false)) ∧
  (∀ (s : State) (die : Nat) (reply : List Byte) (refuse : Bool), s.mboxBusy die = true →
    ¬ (die = 0 ∧ ((s.die die).mbox.cmd = 0x41 ∨ (s.die die).mbox.cmd = 0x51 ∨ (s.die die).mbox.cmd = 0x52)) →
    (s.host.kindle = true ∨ refuse = true → exec (.mboxFirmwareRequest die reply refuse) s = .next (s.mboxReply die none 3)) ∧
    (s.host.kindle = false → refuse = false → die ≠ 0 →
      exec (.mboxFirmwareRequest die reply refuse) s = .next (s.mboxReply die (some (reply.take 8128)) 2)) ∧
    (s.host.kindle = false → refuse = false → ∃ t, exec (.mboxFirmwareRequest die reply refuse) s = .next t ∧
      (t.die die).mbox.status = 2 ∧ (t.die die).mbox.rlen = min reply.length 8128 ∧ t.host.msix = die :: s.host.msix ∧
      t.mem = s.mem ∧ t.ctxs = s.ctxs)) ∧
  (∀ (s : State) (p : Nat), s.portLive p = true →
    let x := s.port p
    let keys : List Byte := fixLen 64 (Config.sha3 (leBytes 32 (Config.linkSecret p x.epoch)))
    let renewed (t : State) : Prop :=
      t.port p = { trained := true, epoch := x.epoch + 1, sendKey := keys.take 32, recvKey := keys.drop 32, count := 0,
                   sent := x.again.length, plain := x.again, again := [],
                   replies := x.replies ++ x.again.zipIdx.map (fun e => Config.gcm (keys.take 32) (nonce p true e.2) e.1) } ∧
      t.mem = s.mem ∧ t.ctxs = s.ctxs ∧ t.parts = s.parts
    (x.trained = false → ∃ t, exec (.larlanPortTrain p) s = .next t ∧ renewed t) ∧
    (x.trained = true → ∃ k, k ≤ x.plain.length ∧ exec (.larlanLaneLoss p) s =
      .next (State.postError { s with ports := s.ports.put p { x with trained := false, again := x.plain.drop k } } (portDie p)
        (errorRec (portDie p) (eccAddr 9 p 31 0) true Code.link))) ∧
    (x.trained = true → x.count < 2 ^ 48 → x.sent < 2 ^ 48 → ∃ t, exec (.larlanKeyExpiry p) s = .next t ∧ renewed t) ∧
    (∀ q, s.dieParts.find (portDie p) = some q → x.trained = true → (s.part q).ready = true →
      (∃ t, exec (.link p) s = .next t ∧ (t.part q).ready = false ∧ (t.part q).down = true ∧
        (∀ r ∈ t.reqs, r.part ≠ q) ∧ (∀ j, j ≠ q → t.part j = s.part j) ∧ t.host = s.host) ∧
      (∀ va n, x.count + 1 < 2 ^ 48 → x.sent + groupsFor n < 2 ^ 48 →
        let s1 := { s with ports := s.ports.put p { x with count := x.count + 1 } }
        (∀ l s2, s1.outsideRead q (va % 2 ^ 56) n = .done (l, s2) →
          ∃ t, exec (.larlanRemoteAccess p (.load va n)) s = .next t ∧ t.port p = (s2.port p).send p l ∧ t.mem = s.mem ∧ t.ctxs = s.ctxs) ∧
        (s1.outsideRead q (va % 2 ^ 56) n = .wait → exec (.larlanRemoteAccess p (.load va n)) s = .next s) ∧
        (s1.outsideRead q (va % 2 ^ 56) n = .refused →
          ∃ t, exec (.larlanRemoteAccess p (.load va n)) s = .next t ∧
            t.port p = Port.send { x with count := x.count + 1 } p (List.replicate n 0xFF) ∧ t.mem = s.mem ∧ t.ctxs = s.ctxs)) ∧
      (∀ va l, x.count + groupsFor l.length < 2 ^ 48 → x.sent < 2 ^ 48 →
        let s1 := { s with ports := s.ports.put p { x with count := x.count + groupsFor l.length } }
        (∀ s2, s1.outsideWrite q (va % 2 ^ 56) l = .done s2 → exec (.larlanRemoteAccess p (.store va l)) s = .next s2) ∧
        (s1.outsideWrite q (va % 2 ^ 56) l = .wait → exec (.larlanRemoteAccess p (.store va l)) s = .next s) ∧
        (s1.outsideWrite q (va % 2 ^ 56) l = .refused → exec (.larlanRemoteAccess p (.store va l)) s = .next s1)))) ∧
  (∀ (s : State) (q va n : Nat) (l : List Byte), (s.part q).hostArena va = true → (s.part q).placed va n = true →
    s.homeRead q (s.genOf q va) va n = .ok l →
    ∀ s', (segs va n).foldlM (fun (s : State) x => s.reach q (x.1 * 128) true) s = some s' → s.outsideRead q va n = .done (l, s')) ∧
  (∀ (x : Port) (p : Nat) (l : List Byte),
    (Port.send x p l).sent = x.sent + max 1 (ceilDiv l.length 1024) ∧ (Port.send x p l).count = x.count ∧
    (Port.send x p l).plain = x.plain ++
      (List.range (max 1 (ceilDiv l.length 1024))).map (fun i => fixLen 1024 ((l.drop (1024 * i)).take 1024)) ∧
    (Port.send x p l).replies = x.replies ++ (List.range (max 1 (ceilDiv l.length 1024))).map (fun i =>
      Config.gcm x.sendKey (nonce p true (x.sent + i)) (fixLen 1024 ((l.drop (1024 * i)).take 1024)))) ∧
  (∀ (s : State) (q unit : Nat) (reads : Bool),
    (unit < 32 → s.overLink q unit reads = some s) ∧
    (32 ≤ unit → s.openPorts q = [] → s.overLink q unit reads = none) ∧
    (32 ≤ unit → s.openPorts q ≠ [] → ∃ p ∈ s.openPorts q, ∃ l : List Byte, l.length = 1024 ∧
      s.overLink q unit reads =
        some { s with ports := s.ports.put p { Port.send (s.port p) p l with count := (s.port p).count + b2n reads } })) ∧
  (∀ (s : State) (image : List Byte) (config : List (BitVec 24)) (n : List Byte),
    State.report { s with host := { s.host with image := image, config := config } } n = s.report n)

/-- R446 to R449, R451: a start with FAILS = 3 runs die 0's hearth alone in kindling mode; one whose image a hearth does not accept raises
FAILS with reason 1 and the lowest such die; one that leaves die 0 and a die of every partition runs without the dies that steps 2 and 3
drop, every partition at its root state, READY, with FAILS 0, and one that does not raises FAILS; the watchdog and a hot die fail a start
that has not ended, with a cause of an earlier step before their own. Restarts, of a partition with steps 2 to 6 again, heat and power
loss leave what R448 and R449 keep. Where the manual leaves a point open the model's reading is that of log 84 to 87, 90. -/
def Obligations.Starts : Prop :=
  (∀ (s : State) (x : StartTests), s.host.on = false →
    (s.host.fails = 3 → ∃ t, exec (.moduleStart x) s = .next t ∧ t.host.kindle = true ∧ t.host.on = true ∧ t.host.fails = 3 ∧
      t.ctxs = [] ∧ t.parts = [] ∧ (∀ d, t.hearthRuns d = (d == 0)) ∧ (t.die 0).bootrec.getLsbD 1 = true ∧
      ∀ d, d < 24 → (t.die d).live = (d == 0)) ∧
    (∀ d, s.host.fails ≠ 3 → d < 24 → (s.accepts x).getLsbD d = false → (∀ e, e < d → (s.accepts x).getLsbD e = true) →
      ∃ t, exec (.moduleStart x) s = .next t ∧ t.host.fails = min 3 (s.host.fails + 1) ∧ t.host.on = true ∧ t.ctxs = [] ∧
        (∀ d, t.hearthRuns d = false) ∧
        bits (t.die 0).bootrec.toNat 16 8 = 1 ∧ bits (t.die 0).bootrec.toNat 24 8 = d ∧ bits (t.die 0).bootrec.toNat 8 4 = 0) ∧
    (s.host.fails ≠ 3 → s.accepts x = BitVec.allOnes 24 → s.reaches x 5 = false →
      ∃ t, exec (.moduleStart x) s = .next t ∧ t.host.fails = min 3 (s.host.fails + 1) ∧ t.host.on = true ∧ t.ctxs = [] ∧
        (∀ d, t.hearthRuns d = false) ∧ bits (t.die 0).bootrec.toNat 8 4 = 4) ∧
    (s.host.fails ≠ 3 → s.reaches x 5 = true → ∃ t, exec (.moduleStart x) s = .next t ∧ t.host.fails = 0 ∧ t.host.on = true ∧
      t.host.kindle = false ∧ t.host.up = true ∧ t.host.runs = s.host.image ∧ t.host.current = s.host.config ∧ (∀ d, d < 24 → (t.die d).live = (x.edges &&& x.hbm).getLsbD d ∧ (t.die d).sram = x.sram.getLsbD d) ∧
      ∀ i m, s.host.config[i]? = some m → let live := m &&& (x.edges &&& x.hbm)
        t.parts.find i = some (Part.init live ((onesBelow live.toNat 24).headD 0))) ∧
    (s.host.fails ≠ 3 → s.accepts x = BitVec.allOnes 24 → x.edges = BitVec.allOnes 24 → x.hbm = BitVec.allOnes 24 →
      s.host.config = [BitVec.allOnes 24] → ∃ t, exec (.moduleStart x) s = .next t ∧ t.host.fails = 0 ∧ t.host.on = true ∧
        t.host.kindle = false ∧ t.parts = [(0, Part.init (BitVec.allOnes 24) 0)] ∧
        (∃ k c, t.ctx? (.slot 0 0) = some c ∧ c = rootCtx k 0 (BitVec.allOnes 24) ∧ t.teams.find k = some (rootTeam 0)) ∧
        (∀ d, d < 24 → t.ctx? (.hearth d) = some hearthCtx) ∧ (t.die 0).bootrec.getLsbD 0 = true)) ∧
  (∀ (s : State) (x : StartTests) (stage : Nat), s.host.on = false → s.host.fails ≠ 3 → stage < 6 → s.reaches x stage = true →
    let first := startCause (s.accepts x) x allDies 1 stage
    let ends (r : Option State) (reason die : Nat) : Prop := ∃ t, r = some t ∧ t.host.fails = min 3 (s.host.fails + 1) ∧
      t.host.on = true ∧ t.ctxs = [] ∧ bits (t.die 0).bootrec.toNat 16 8 = reason ∧ bits (t.die 0).bootrec.toNat 24 8 = die ∧
      bits (t.die 0).bootrec.toNat 8 4 = stage
    ∀ reason die, reason < 256 → die < 24 →
      (first = none → stepFinds (s.accepts x) x (List.range die) (stage + 1) = none → ends (s.endStart x stage reason die) reason die) ∧
      (∀ c, first = none → stepFinds (s.accepts x) x (List.range die) (stage + 1) = some c →
        ends (s.endStart x stage reason die) c.1 c.2) ∧
      (∀ c, first = some c → ends (s.endStart x stage reason die) c.1 c.2)) ∧
  (∀ (s : State), s.host.on = false → s.host.fails ≠ 3 →
    s.foundStage < 6 ∧ s.reaches s.found s.foundStage = true ∧
    (∃ t, exec .watchdogExpiry s = .next t ∧ s.endStart s.found s.foundStage 5 0 = some t ∧
      t.host.fails = min 3 (s.host.fails + 1) ∧ t.host.on = true ∧ t.ctxs = []) ∧
    ∀ die, die < 24 → ∃ t, exec (.bringupOvertemp die) s = .next t ∧ s.endStart s.found s.foundStage 4 die = some t ∧
      t.host.fails = min 3 (s.host.fails + 1) ∧ t.host.on = true ∧ t.ctxs = []) ∧
  (∀ (s : State) (warm : Bool), ∃ t, exec (.restartModule warm) s = .next t ∧ t.ctxs = [] ∧ t.parts = [] ∧ t.reqs = [] ∧
    t.host.on = false ∧ t.host.fails = s.host.fails ∧ t.host.image = s.host.image ∧
    bits (t.die 0).bootrec.toNat 16 16 = bits (s.die 0).bootrec.toNat 16 16 ∧
    bits (t.die 0).bootrec.toNat 12 4 = s.host.fails % 16 ∧ ∀ x, x < 2 ^ 42 → t.mem.get x = 0) ∧
  (∀ (s : State) (p : Nat) (x : Part) (tests : StartTests), s.host.on = true → s.parts.find p = some x →
    let ds := s.configured p
    let live := dieMask (ds.filter (tests.edges &&& tests.hbm).getLsbD)
    let ok : Prop := live ≠ 0 ∧ (0 ∈ ds → live.getLsbD 0 = true)
    ∃ t, exec (.restartPartition { part := p, tests := tests }) s = .next t ∧ (ok → t.part p = Part.init live ((onesBelow live.toNat 24).headD 0)) ∧
      (¬ ok → (t.part p).ready = false ∧ (t.part p).down = x.down ∧ (t.part p).live = live) ∧
      (∀ j, j ≠ p → t.part j = s.part j) ∧ (∀ r ∈ t.reqs, r.part ≠ p) ∧ (∀ q, portDie q ∈ ds → (t.port q).trained = false) ∧
      t.host = s.host) ∧
  (∀ (s : State) (die : Nat), die < 24 →
    ((s.die die).throttle < 15 → ∃ t, exec (.thermalThrottle die) s = .next t ∧
      t.die die = { s.die die with throttle := (s.die die).throttle + 1 } ∧ (∀ d, d ≠ die → t.die d = s.die d) ∧
      t.mem = s.mem ∧ t.ctxs = s.ctxs) ∧
    (∃ t, exec (.thermalPowerOff die) s = .next t ∧ t.ctxs = [] ∧ t.parts = [] ∧ t.host.on = false ∧
      t.host.fails = s.host.fails ∧ t.host.image = s.host.image)) ∧
  (∀ (s : State), ∃ t, exec .powerLoss s = .next t ∧ t.ctxs = [] ∧ t.parts = [] ∧ t.reqs = [] ∧ t.host.on = false ∧
    t.host.chunk = [] ∧ t.host.fails = s.host.fails ∧ t.host.image = s.host.image)

/-! ## The machine as a whole -/

/-- R25, R36, R41, R343, R348, R376, R377, R389, R399, R442 (the order of moves is the model's own, log 32): at a turn of an agent that may issue, with
no failed access to report, the bytes at its PC are fetched, from a home on another module over a Larlan port and not before one is open, and decoded; a PAD4 is stepped over, a breakpoint met comes before anything else
that the bytes say, and else a step runs the instruction that they decode to, or that of a wave of the core which goes before in the same
slot (higher priority, then older, then the lower wave id, while none has been passed over); it stops the agent at the PC where the bytes
decode to none or may not be fetched, and where its records break R333. A turn of an event, of a save or of time runs it; with no turn
listed the default turn comes. Where the manual leaves a point open the model's reading is that of log 31 to 35, 124 to 126, 147. -/
def Obligations.StepRuns : Prop :=
  (∀ (s : State) (l : List Turn),
    let next : State := { s with tick := s.tick + 1, turns := l }
    (s.turns = [] → step s = step { s with turns := [s.defaultTurn] }) ∧
    (∀ e, s.turns = .event e :: l → spontaneous e = true → step s = exec e next) ∧
    (∀ die n, s.turns = .time die n :: l → step s = .next (next.pass die n)) ∧
    (∀ id, s.turns = .save id :: l → step s = .next ((next.goOn id).getD next)) ∧
    (∀ (a : Agent) (frag : Nat) (c : Ctx), s.turns = .issue a frag :: l →
      let at' : State := { next with cur := a, frag := frag }
      realAgent a = true → at'.ctx? a = some c → c.stop = none → c.out = none →
      (at'.bound a c = false → step s = .next at') ∧
      (at'.bound a c = true → ∀ t, at'.parkPoint a c = some t → step s = .next t) ∧
      (at'.bound a c = true → at'.parkPoint a c = none → c.park ≠ .none → step s = .next ((at'.unpark a c).getD at'))) ∧
    (∀ (a : Agent) (frag : Nat) (c : Ctx) (fr : SplitRec), s.turns = .issue a frag :: l →
      let at' : State := { next with cur := a, frag := frag }
      realAgent a = true → at'.ctx? a = some c → c.rec? frag = some fr → c.canIssue frag = true → at'.fragOf a c frag = frag →
      at'.behindTab a fr = false → at'.bound a c = true → at'.parkPoint a c = none →
      (c.broken = true →
        step s = .next ((at'.setCtx a { c with broken := false, frag := frag }).stopWave a
          (brokenStop fr ((at'.joined c).2.getD 0)))) ∧
      (c.broken = false →
        (∀ code x, at'.fetch a fr.pc = .error (.fault code x) → step s = .next (at'.stopFrag a fr code x)) ∧
        (∀ va code, at'.fetch a fr.pc = .error (.hold va code) → step s =
          .next (at'.holdFetch { a := a, team := c.team, pc := fr.pc, lanes := fr.mask, meld := fr.meld } va code 0)) ∧
        (∀ bytes, at'.fetch a fr.pc = .ok bytes → at'.fetchLink a fr.pc = none → step s = .next at') ∧
        (∀ bytes l, at'.fetch a fr.pc = .ok bytes → at'.fetchLink a fr.pc = some l → decodeBytes (vaOf fr.pc % 32) bytes = .ok .pad4 →
          step s = exec .pad4 l) ∧
        (∀ bytes k, at'.fetch a fr.pc = .ok bytes → (at'.fetchLink a fr.pc).isSome = true → decodeBytes (vaOf fr.pc % 32) bytes ≠ .ok .pad4 →
          at'.meetsAt a c frag fr = some k → step s = exec (.breakpointHit a k) at') ∧
        (∀ bytes e, at'.fetch a fr.pc = .ok bytes → (at'.fetchLink a fr.pc).isSome = true → decodeBytes (vaOf fr.pc % 32) bytes = .error e →
          at'.meetsAt a c frag fr = none →
          step s = .next (at'.stopFrag a fr (decErrCode e c.priv) 0)) ∧
        (∀ bytes i l, at'.fetch a fr.pc = .ok bytes → at'.fetchLink a fr.pc = some l → decodeBytes (vaOf fr.pc % 32) bytes = .ok i →
          i ≠ .pad4 → at'.meetsAt a c frag fr = none →
          ((∀ e ∈ at'.rivals a, at'.nextUp e.1 e.2 = none) → step s = exec i l) ∧
          (∃ b f j, ∃ t : State, ((b = a ∧ f = frag ∧ j = i) ∨
              ∃ e ∈ at'.rivals a, e.1 = b ∧ at'.nextUp e.1 e.2 = some (f, j) ∧ slotOf j = slotOf i) ∧
            t.rest = State.rest { at' with cur := b, frag := f } ∧ t.ctx? b = at'.ctx? b ∧ step s = exec j (t.fetched b f)))))) ∧
  (∀ (x : Cand) (l : List Cand), l.length ≤ 31 → (∀ y ∈ x :: l, y.passed = 0) →
    choose x l ∈ x :: l ∧ ∀ y ∈ x :: l, y.before (choose x l) = false)

/-- R37, R38, R39, R397, R414: whatever the rest of it, an instruction that issues from a fragment faults at its own PC with no
effect: PRIV for a y-class word outside privileged waves; IIL with MD = 1 outside a melded region; and where a thread passes, PRIV for what
only hearth waves may issue elsewhere, STOKER for what a stoker may not issue, and IIL for what a hearth core lacks. With no passing thread
an instruction outside the x class moves on with no effect, or faults with PRIV or IIL in the checks of R41. Where the manual leaves a point
open the model's reading is that of log 30. -/
def Obligations.IssueChecks : Prop :=
  ∀ (i : Instr) (f : Fields) (s : State) (is : Iss), i.fields = some f → s.iss? f.hdr (lenBytes f.len) = some is →
    (f.cls = 13 → is.c.priv = false → exec i s = .next (s.except is (is.fault0 Code.priv))) ∧
    (f.cls = 13 → is.c.priv = true → f.md = true → is.fr.meld = false → exec i s = .next (s.except is (is.fault0 Code.iil))) ∧
    (f.cls ≠ 13 → f.md = true → is.fr.meld = false → exec i s = .next (s.except is (is.fault0 Code.iil))) ∧
    (is.p ≠ 0 → f.md = false → is.fr.meld = false →
      (f.cls = 13 → 6 ≤ f.op.toNat → is.c.priv = true → isHearth is.a = false →
        exec i s = .next (s.except is (is.fault0 Code.priv))) ∧
      (f.cls ≠ 13 → isStoker is.a = true → stokerMay f.cls.toNat f.op.toNat = false →
        exec i s = .next (s.except is (is.fault0 Code.stoker))) ∧
      (isHearth is.a = true → isStoker is.a = false → hearthLacks f.cls.toNat f.op.toNat = true →
        exec i s = .next (s.except is (is.fault0 Code.iil)))) ∧
    (f.cls ≠ 4 → is.p = 0 → exec i s = .next (s.retire is) ∨
      ∃ code, (code = Code.priv ∨ code = Code.iil) ∧ exec i s = .next (s.except is (is.fault0 code)))

/-- R1, R36, R276 to R279, R442 (what an instruction itself does; its loads and stores perform at steps of their own): no instruction
outside the y class writes memory or the host's side in its own step, nor a Larlan port, but for those that read a record, which send groups over
an open port of the agent's partition where a line of the record has its home on another module. Where the manual leaves a point open the
model's reading is that of log 124. -/
def Obligations.MemoryFrame : Prop :=
  ∀ (i : Instr) (f : Fields) (s t : State), i.fields = some f → f.cls ≠ 13 → exec i s = .next t →
    let part := s.agentPart s.cur
    t.mem = s.mem ∧ t.host = s.host ∧
    (match i with
      | .bMtab .. | .mEnq .. | .qSpawn .. | .qLaunch .. | .eRkinit .. | .kvRpset .. =>
        ((∀ va, s.unitOf part va < 32) → t.ports = s.ports) ∧
        ∀ p, (t.port p).trained = (s.port p).trained ∧ (t.port p).epoch = (s.port p).epoch ∧ (t.port p).sendKey = (s.port p).sendKey ∧
          (t.port p).recvKey = (s.port p).recvKey ∧ (p ∉ s.openPorts part → t.port p = s.port p)
      | _ => t.ports = s.ports)

/-- The canonical form of memory (the model's own form of what R83 and R116 write) survives every step: no step leaves an address
listed twice, out of order, or with the value that an unlisted address reads as. Where the manual leaves a point open the model's reading is that of
log 1. -/
def Obligations.MemoryInvariant : Prop :=
  ∀ (s t : State), step s = .next t → s.memOk → t.memOk

/-- R76, R197, R332, R333, R354, R358, R397, R446, R447 (entry PCs and the table's place are log 2 and 3): what the start leaves:
one partition of 24 dies READY with the root state, the root task on die 0's first core with the partition, the live dies and
arena 1 in its registers, and a privileged hearth wave on every die. Where the manual leaves a point open the model's reading is that of
log 2 to 4, 92. -/
def Obligations.ResetState : Prop :=
  State.reset.memOk ∧ State.reset.parts = [(0, Part.init (BitVec.allOnes 24) 0)] ∧ State.reset.reqs = [] ∧ State.reset.groups = [] ∧
  (∃ c tm, State.reset.ctx? (.slot 0 0) = some c ∧ State.reset.teams.find c.team = some tm ∧ tm.foot = rootFoot ∧ tm.priv = true ∧
    c.priv = true ∧ c.sget 0 = 0 ∧ c.sget 1 = 0xFFFFFF ∧ c.sget 2 = 0x0000100000000000 ∧ (∀ n, 3 ≤ n → c.sget n = 0) ∧
    (∀ n, 1 ≤ n → c.kget n = 0) ∧ (∀ n l, c.vget n l = 0) ∧
    c.rec? 0 = some { st := .ready, bsel := 0, meld := false, rj := 15, pc := rootEntry, mask := 1, age := 0 } ∧
    (∀ j, j ≠ 0 → c.rec? j = none) ∧ c.canIssue 0 = true) ∧
  (∀ d, d < 24 → State.reset.ctx? (.hearth d) = some hearthCtx ∧ (State.reset.die d).live = true ∧
    (State.reset.die d).bootrec = 0x00FFFFFF00000601 ∧ State.reset.partOf d = 0) ∧
  (∀ id, ((State.reset.part 0).arena id) = Arena.init id) ∧
  State.reset.walkVa 0 0x0000100000000000 ≠ none ∧ State.reset.walkVa 0 0x0000100000200000 = none

/-! ## Encoding -/

/-- R23, R25, R27, R28, R31 to R33, R39, R40: words written out from the encodings of the chapters, one of each class, decode to
the instructions that they stand for (X1, X0, then T, C, B, A, D and the bits of the first parcel's low half). -/
def Obligations.DecodeWords : Prop :=
  let h : Hdr := { pk := false, md := false, kn := false, kp := 0 }
  -- R25: PAD4
  decodeTableWord 32 3 = some .pad4 ∧
  -- R206: s.add s5, s6 with IMM16 = 0x8001 (I = 1, C the high byte)
  decodeTableWord 64 0x0080010605800200 = some (.sAdd h 5 6 (.imm 0x8001)) ∧
  -- R337: b.wcnt with LDC 1, STC 2, XC 3, EC 4
  decodeTableWord 64 0x0403020100000c10 = some (.bWcnt h 1 2 3 4) ∧
  -- R214: v.add of b32 with SAT, v1 := v2 + v3 in the threads outside k3
  decodeTableWord 64 0x8000030201130320 = some (.vAdd { pk := false, md := false, kn := true, kp := 3 } { ty := .b32, rnd := .rn, sr := false, sat := true } 1 2 (.reg 3)) ∧
  -- the manual's word after R42: f.add of f32 toward zero, v8 := v2 + v3 in the threads outside k3, with PK
  decodeTableWord 64 0x1400030208130034 = some (.fAdd { pk := true, md := false, kn := true, kp := 3 } { ty := .f32, rnd := .rz, sr := false, sat := false } 8 2 3) ∧
  -- R226: x.vote, SUB 10
  decodeTableWord 64 0x0000000409400240 = some (.xVote h 2 9 4) ∧
  -- R147: l.ld of b32 with VADR, SX and a negative displacement
  decodeTableWord 96 0xfffffff00200000c0a600051 = some (.lLd h true true 10 12 2 0xFFFFFFF0) ∧
  -- R33, R34: g.ld with VADR, SZ b64, CH keep, ORD plain, SC die
  decodeTableWord 128 0x000005c200000040000000020c000062 = some (.gLd h 12 2 64 { sx := false, vadr := true, sz := 3, ch := 2, ord := 0, sc := 2 }) ∧
  -- the manual's word after R290: a.fence.mod
  decodeTableWord 64 0x0300000000000570 = some (.aFence h 0 3) ∧
  -- R250: m.zero
  decodeTableWord 64 0x0000000201000380 = some (.mZero h 1 2) ∧
  -- the manual's words after R379: q.fwait s5, s3 and q.claim s6, 96
  decodeTableWord 64 0x0000000305000290 = some (.qFwait h 0 5 3 0) ∧
  decodeTableWord 64 0x0000600006800690 = some (.qClaim h 6 (.imm 96)) ∧
  -- R164: e.copy with BAR, SWZ 5, SC die, CH stream, DLS
  decodeTableWord 128 0x00006a410000009000060402010000a2 = some (.eCopy h 1 2 4 6 0x90 { bar := true, swz := 5, sc := 2, ch := 1, sls := false, dls := true }) ∧
  -- the manual's word after R434: kv.pop s6, sq1
  decodeTableWord 64 0x00000001060001b0 = some (.kvPop h 6 1) ∧
  -- R81: c.drop
  decodeTableWord 64 0x00000008070002c0 = some (.cDrop h 7 8) ∧
  -- the manual's word after R400: y.rdpr s4, pr.FAULTQ
  decodeTableWord 64 0x00000004040000d0 = some (.yRdpr h 4 4) ∧
  -- R103: y.map with SIZE 1 and ALIAS
  decodeTableWord 128 0x000000210000000000000908070002d2 = some (.yMap h 7 8 9 1 false true)

/-- R27 to R35, R40, R41: for every well-formed instruction and every value of its operands, the word that its encoding gives
decodes to it, wherever it does not cross a block of 32 bytes; what the decoder accepts is well-formed. -/
def Obligations.DecodeEncode : Prop :=
  (∀ (i : Instr) (w : BitVec 128) (pcLow : Nat), i.wf = true → encode i = some w → pcLow % 32 + i.bytes ≤ 32 →
    decode pcLow w = .ok i) ∧
  (∀ (i : Instr) (w : BitVec 128) (pcLow : Nat), decode pcLow w = .ok i → i.wf = true)
end

