-- ==== Sys2Proof/Laws/Map.lean ====
section
/-! SUPPORT. The laws of the sparse maps: reading after a write, and the canonical form that every write keeps; then the same of
memory. -/

namespace Sys2Proof

@[simp] theorem AMap.find_put_same {β : Type} (m : AMap β) (k : Nat) (x : β) : (m.put k x).find k = some x := by
  induction m with
  | nil => simp [AMap.put, AMap.find]
  | cons e m ih =>
    obtain ⟨j, v⟩ := e
    simp only [AMap.put]
    split
    · simp [AMap.find]
    · split
      · simp [AMap.find]
      · rename_i h; simp [AMap.find, h, ih]

theorem AMap.find_put_ne {β : Type} (m : AMap β) (k j : Nat) (x : β) (h : j ≠ k) : (m.put k x).find j = m.find j := by
  induction m with
  | nil => simp [AMap.put, AMap.find, h]
  | cons e m ih =>
    obtain ⟨i, v⟩ := e
    simp only [AMap.put]
    split
    · simp [AMap.find, h]
    · split
      · rename_i hk; subst hk; simp [AMap.find, h]
      · simp only [AMap.find]; split <;> simp [ih]

@[simp] theorem AMap.find_del_same {β : Type} (m : AMap β) (k : Nat) : (m.del k).find k = none := by
  induction m with
  | nil => rfl
  | cons e m ih =>
    obtain ⟨i, v⟩ := e
    simp only [AMap.del]
    split
    · exact ih
    · rename_i h; simp [AMap.find, h, ih]

theorem AMap.find_del_ne {β : Type} (m : AMap β) (k j : Nat) (h : j ≠ k) : (m.del k).find j = m.find j := by
  induction m with
  | nil => rfl
  | cons e m ih =>
    obtain ⟨i, v⟩ := e
    simp only [AMap.del]
    split
    · rename_i hk; subst hk; simp [AMap.find, h, ih]
    · simp only [AMap.find]; split <;> simp [ih]

theorem AMap.find_put {β : Type} (m : AMap β) (k j : Nat) (x : β) :
    (m.put k x).find j = if j = k then some x else m.find j := by
  by_cases h : j = k
  · subst h; simp
  · simp [h, AMap.find_put_ne]

@[simp] theorem AMap.get_set_same {β : Type} [DecidableEq β] (d : β) (m : AMap β) (k : Nat) (v : β) :
    AMap.get d (AMap.set d m k v) k = v := by
  unfold AMap.get AMap.set
  split <;> simp_all

theorem AMap.get_set_ne {β : Type} [DecidableEq β] (d : β) (m : AMap β) (k j : Nat) (v : β) (h : j ≠ k) :
    AMap.get d (AMap.set d m k v) j = AMap.get d m j := by
  unfold AMap.get AMap.set
  split <;> simp [h, AMap.find_put_ne, AMap.find_del_ne]

/-- Reading after a write: the written value at the written key, the old one elsewhere. -/
theorem AMap.get_set {β : Type} [DecidableEq β] (d : β) (m : AMap β) (k j : Nat) (v : β) :
    AMap.get d (AMap.set d m k v) j = if j = k then v else AMap.get d m j := by
  by_cases h : j = k
  · subst h; simp
  · simp [h, AMap.get_set_ne]

/-! ## The canonical form -/

theorem AMap.rising_mono {β : Type} (m : AMap β) (lo hi : Nat) (h : lo ≤ hi) (w : AMap.rising hi m = true) :
    AMap.rising lo m = true := by
  cases m with
  | nil => rfl
  | cons e m =>
    obtain ⟨k, v⟩ := e
    simp only [AMap.rising, Bool.and_eq_true, decide_eq_true_eq] at w ⊢
    exact ⟨by omega, w.2⟩

theorem AMap.rising_put {β : Type} (m : AMap β) (lo k : Nat) (x : β) (hk : lo ≤ k) (w : AMap.rising lo m = true) :
    AMap.rising lo (m.put k x) = true := by
  induction m generalizing lo with
  | nil => simp [AMap.put, AMap.rising, hk]
  | cons e m ih =>
    obtain ⟨i, v⟩ := e
    simp only [AMap.rising, Bool.and_eq_true, decide_eq_true_eq] at w
    simp only [AMap.put]
    split
    · simp only [AMap.rising, Bool.and_eq_true, decide_eq_true_eq]
      exact ⟨hk, by omega, w.2⟩
    · split
      · rename_i h; subst h
        simp only [AMap.rising, Bool.and_eq_true, decide_eq_true_eq]
        exact ⟨hk, w.2⟩
      · simp only [AMap.rising, Bool.and_eq_true, decide_eq_true_eq]
        exact ⟨w.1, ih (i + 1) (by omega) w.2⟩

theorem AMap.rising_del {β : Type} (m : AMap β) (lo k : Nat) (w : AMap.rising lo m = true) :
    AMap.rising lo (m.del k) = true := by
  induction m generalizing lo with
  | nil => rfl
  | cons e m ih =>
    obtain ⟨i, v⟩ := e
    simp only [AMap.rising, Bool.and_eq_true, decide_eq_true_eq] at w
    simp only [AMap.del]
    split
    · exact AMap.rising_mono _ lo (i + 1) (by omega) (ih (i + 1) w.2)
    · simp only [AMap.rising, Bool.and_eq_true, decide_eq_true_eq]
      exact ⟨w.1, ih (i + 1) w.2⟩

theorem AMap.all_put {β : Type} (m : AMap β) (p : Nat × β → Bool) (k : Nat) (x : β) (hx : p (k, x) = true)
    (w : m.all p = true) : (m.put k x).all p = true := by
  induction m with
  | nil => simp [AMap.put, hx]
  | cons e m ih =>
    obtain ⟨i, v⟩ := e
    simp only [List.all_cons, Bool.and_eq_true] at w
    simp only [AMap.put]
    split
    · simp [hx, w.1, w.2]
    · split
      · simp [hx, w.2]
      · simp [w.1, ih w.2]

theorem AMap.all_del {β : Type} (m : AMap β) (p : Nat × β → Bool) (k : Nat) (w : m.all p = true) :
    (m.del k).all p = true := by
  induction m with
  | nil => rfl
  | cons e m ih =>
    obtain ⟨i, v⟩ := e
    simp only [List.all_cons, Bool.and_eq_true] at w
    simp only [AMap.del]
    split
    · exact ih w.2
    · simp [w.1, ih w.2]

/-- A write keeps the canonical form. -/
theorem AMap.wf_set {β : Type} [DecidableEq β] (d : β) (m : AMap β) (k : Nat) (v : β) (w : AMap.wf d m = true) :
    AMap.wf d (AMap.set d m k v) = true := by
  simp only [AMap.wf, Bool.and_eq_true] at w ⊢
  unfold AMap.set
  split
  · exact ⟨AMap.rising_del m 0 k w.1, AMap.all_del m _ k w.2⟩
  · rename_i h
    exact ⟨AMap.rising_put m 0 k v (by omega) w.1, AMap.all_put m _ k v (by simp [h]) w.2⟩

/-- Leaving entries out keeps the canonical form. -/
theorem AMap.rising_filter {β : Type} (m : AMap β) (lo : Nat) (p : Nat × β → Bool) (w : AMap.rising lo m = true) :
    AMap.rising lo (m.filter p) = true := by
  induction m generalizing lo with
  | nil => rfl
  | cons e m ih =>
    obtain ⟨i, v⟩ := e
    simp only [AMap.rising, Bool.and_eq_true, decide_eq_true_eq] at w
    simp only [List.filter]
    split
    · simp only [AMap.rising, Bool.and_eq_true, decide_eq_true_eq]
      exact ⟨w.1, ih (i + 1) w.2⟩
    · exact AMap.rising_mono _ lo (i + 1) (by omega) (ih (i + 1) w.2)

theorem AMap.wf_filter {β : Type} [DecidableEq β] (d : β) (m : AMap β) (p : Nat × β → Bool) (w : AMap.wf d m = true) :
    AMap.wf d (m.filter p) = true := by
  simp only [AMap.wf, Bool.and_eq_true] at w ⊢
  refine ⟨AMap.rising_filter m 0 p w.1, ?_⟩
  have h := w.2
  simp only [List.all_eq_true, List.mem_filter] at h ⊢
  intro x hx
  exact h x hx.1

namespace Machine

/-- A byte of memory after one byte is written. -/
theorem Memory.get_set (m : Memory) (a b : Nat) (v : Byte) : (Memory.set m a v).get b = if b = a then v else m.get b :=
  AMap.get_set 0 m a b v

theorem Memory.wf_set (m : Memory) (a : Nat) (v : Byte) (w : m.wf = true) : (Memory.set m a v).wf = true :=
  AMap.wf_set 0 m a v w

theorem Memory.wf_write (m : Memory) (a : Nat) (l : List Byte) (w : m.wf = true) : (Memory.write m a l).wf = true := by
  induction l generalizing m a with
  | nil => exact w
  | cons b l ih => exact ih _ _ (Memory.wf_set m a b w)

theorem Memory.wf_filter (m : Memory) (p : Nat × Byte → Bool) (w : m.wf = true) : Memory.wf (m.filter p) = true :=
  AMap.wf_filter 0 m p w

/-- A byte of memory after a list of bytes is written. -/
theorem Memory.get_write (m : Memory) (a b : Nat) (l : List Byte) :
    (Memory.write m a l).get b = if a ≤ b ∧ b < a + l.length then l.getD (b - a) 0 else m.get b := by
  induction l generalizing m a with
  | nil =>
    simp only [Memory.write, List.length_nil, Nat.add_zero]
    rw [if_neg (by omega)]
  | cons x l ih =>
    simp only [Memory.write, ih, Memory.get_set, List.length_cons]
    by_cases h1 : a + 1 ≤ b ∧ b < a + 1 + l.length
    · rw [if_pos h1, if_pos (by omega)]
      have : b - a = (b - (a + 1)) + 1 := by omega
      rw [this, List.getD_cons_succ]
    · rw [if_neg h1]
      by_cases h2 : b = a
      · subst h2; simp
      · rw [if_neg h2, if_neg (by omega)]

end Machine

end Sys2Proof
end

