-- ==== Sys2Proof/Laws/State.lean ====
section
/-! SUPPORT. One lemma for each field and each update of the state, and what the accessors read after an update. -/

namespace Sys2Proof.Machine

@[simp] theorem State.setCtx_mem (s : State) (a : Agent) (c : Ctx) : (s.setCtx a c).mem = s.mem := rfl
@[simp] theorem State.setCtx_llc (s : State) (a : Agent) (c : Ctx) : (s.setCtx a c).llc = s.llc := rfl
@[simp] theorem State.setCtx_teams (s : State) (a : Agent) (c : Ctx) : (s.setCtx a c).teams = s.teams := rfl
@[simp] theorem State.setCtx_groups (s : State) (a : Agent) (c : Ctx) : (s.setCtx a c).groups = s.groups := rfl
@[simp] theorem State.setCtx_cores (s : State) (a : Agent) (c : Ctx) : (s.setCtx a c).cores = s.cores := rfl
@[simp] theorem State.setCtx_quads (s : State) (a : Agent) (c : Ctx) : (s.setCtx a c).quads = s.quads := rfl
@[simp] theorem State.setCtx_dies (s : State) (a : Agent) (c : Ctx) : (s.setCtx a c).dies = s.dies := rfl
@[simp] theorem State.setCtx_parts (s : State) (a : Agent) (c : Ctx) : (s.setCtx a c).parts = s.parts := rfl
@[simp] theorem State.setCtx_dieParts (s : State) (a : Agent) (c : Ctx) : (s.setCtx a c).dieParts = s.dieParts := rfl
@[simp] theorem State.setCtx_stokers (s : State) (a : Agent) (c : Ctx) : (s.setCtx a c).stokers = s.stokers := rfl
@[simp] theorem State.setCtx_poison (s : State) (a : Agent) (c : Ctx) : (s.setCtx a c).poison = s.poison := rfl
@[simp] theorem State.setCtx_reqs (s : State) (a : Agent) (c : Ctx) : (s.setCtx a c).reqs = s.reqs := rfl
@[simp] theorem State.setCtx_ranges (s : State) (a : Agent) (c : Ctx) : (s.setCtx a c).ranges = s.ranges := rfl
@[simp] theorem State.setCtx_waiters (s : State) (a : Agent) (c : Ctx) : (s.setCtx a c).waiters = s.waiters := rfl
@[simp] theorem State.setCtx_episodes (s : State) (a : Agent) (c : Ctx) : (s.setCtx a c).episodes = s.episodes := rfl
@[simp] theorem State.setCtx_saves (s : State) (a : Agent) (c : Ctx) : (s.setCtx a c).saves = s.saves := rfl
@[simp] theorem State.setCtx_saved (s : State) (a : Agent) (c : Ctx) : (s.setCtx a c).saved = s.saved := rfl
@[simp] theorem State.setCtx_ports (s : State) (a : Agent) (c : Ctx) : (s.setCtx a c).ports = s.ports := rfl
@[simp] theorem State.setCtx_host (s : State) (a : Agent) (c : Ctx) : (s.setCtx a c).host = s.host := rfl
@[simp] theorem State.setCtx_uid (s : State) (a : Agent) (c : Ctx) : (s.setCtx a c).uid = s.uid := rfl
@[simp] theorem State.setCtx_tick (s : State) (a : Agent) (c : Ctx) : (s.setCtx a c).tick = s.tick := rfl
@[simp] theorem State.setCtx_cur (s : State) (a : Agent) (c : Ctx) : (s.setCtx a c).cur = s.cur := rfl
@[simp] theorem State.setCtx_frag (s : State) (a : Agent) (c : Ctx) : (s.setCtx a c).frag = s.frag := rfl
@[simp] theorem State.setCtx_turns (s : State) (a : Agent) (c : Ctx) : (s.setCtx a c).turns = s.turns := rfl

@[simp] theorem State.mapCtx_mem (s : State) (a : Agent) (f : Ctx → Ctx) : (s.mapCtx a f).mem = s.mem := by
  unfold State.mapCtx; split <;> rfl
@[simp] theorem State.mapCtx_llc (s : State) (a : Agent) (f : Ctx → Ctx) : (s.mapCtx a f).llc = s.llc := by
  unfold State.mapCtx; split <;> rfl
@[simp] theorem State.mapCtx_teams (s : State) (a : Agent) (f : Ctx → Ctx) : (s.mapCtx a f).teams = s.teams := by
  unfold State.mapCtx; split <;> rfl
@[simp] theorem State.mapCtx_groups (s : State) (a : Agent) (f : Ctx → Ctx) : (s.mapCtx a f).groups = s.groups := by
  unfold State.mapCtx; split <;> rfl
@[simp] theorem State.mapCtx_cores (s : State) (a : Agent) (f : Ctx → Ctx) : (s.mapCtx a f).cores = s.cores := by
  unfold State.mapCtx; split <;> rfl
@[simp] theorem State.mapCtx_quads (s : State) (a : Agent) (f : Ctx → Ctx) : (s.mapCtx a f).quads = s.quads := by
  unfold State.mapCtx; split <;> rfl
@[simp] theorem State.mapCtx_dies (s : State) (a : Agent) (f : Ctx → Ctx) : (s.mapCtx a f).dies = s.dies := by
  unfold State.mapCtx; split <;> rfl
@[simp] theorem State.mapCtx_parts (s : State) (a : Agent) (f : Ctx → Ctx) : (s.mapCtx a f).parts = s.parts := by
  unfold State.mapCtx; split <;> rfl
@[simp] theorem State.mapCtx_dieParts (s : State) (a : Agent) (f : Ctx → Ctx) : (s.mapCtx a f).dieParts = s.dieParts := by
  unfold State.mapCtx; split <;> rfl
@[simp] theorem State.mapCtx_stokers (s : State) (a : Agent) (f : Ctx → Ctx) : (s.mapCtx a f).stokers = s.stokers := by
  unfold State.mapCtx; split <;> rfl
@[simp] theorem State.mapCtx_poison (s : State) (a : Agent) (f : Ctx → Ctx) : (s.mapCtx a f).poison = s.poison := by
  unfold State.mapCtx; split <;> rfl
@[simp] theorem State.mapCtx_reqs (s : State) (a : Agent) (f : Ctx → Ctx) : (s.mapCtx a f).reqs = s.reqs := by
  unfold State.mapCtx; split <;> rfl
@[simp] theorem State.mapCtx_ranges (s : State) (a : Agent) (f : Ctx → Ctx) : (s.mapCtx a f).ranges = s.ranges := by
  unfold State.mapCtx; split <;> rfl
@[simp] theorem State.mapCtx_waiters (s : State) (a : Agent) (f : Ctx → Ctx) : (s.mapCtx a f).waiters = s.waiters := by
  unfold State.mapCtx; split <;> rfl
@[simp] theorem State.mapCtx_episodes (s : State) (a : Agent) (f : Ctx → Ctx) : (s.mapCtx a f).episodes = s.episodes := by
  unfold State.mapCtx; split <;> rfl
@[simp] theorem State.mapCtx_saves (s : State) (a : Agent) (f : Ctx → Ctx) : (s.mapCtx a f).saves = s.saves := by
  unfold State.mapCtx; split <;> rfl
@[simp] theorem State.mapCtx_saved (s : State) (a : Agent) (f : Ctx → Ctx) : (s.mapCtx a f).saved = s.saved := by
  unfold State.mapCtx; split <;> rfl
@[simp] theorem State.mapCtx_ports (s : State) (a : Agent) (f : Ctx → Ctx) : (s.mapCtx a f).ports = s.ports := by
  unfold State.mapCtx; split <;> rfl
@[simp] theorem State.mapCtx_host (s : State) (a : Agent) (f : Ctx → Ctx) : (s.mapCtx a f).host = s.host := by
  unfold State.mapCtx; split <;> rfl
@[simp] theorem State.mapCtx_uid (s : State) (a : Agent) (f : Ctx → Ctx) : (s.mapCtx a f).uid = s.uid := by
  unfold State.mapCtx; split <;> rfl
@[simp] theorem State.mapCtx_tick (s : State) (a : Agent) (f : Ctx → Ctx) : (s.mapCtx a f).tick = s.tick := by
  unfold State.mapCtx; split <;> rfl
@[simp] theorem State.mapCtx_cur (s : State) (a : Agent) (f : Ctx → Ctx) : (s.mapCtx a f).cur = s.cur := by
  unfold State.mapCtx; split <;> rfl
@[simp] theorem State.mapCtx_frag (s : State) (a : Agent) (f : Ctx → Ctx) : (s.mapCtx a f).frag = s.frag := by
  unfold State.mapCtx; split <;> rfl
@[simp] theorem State.mapCtx_turns (s : State) (a : Agent) (f : Ctx → Ctx) : (s.mapCtx a f).turns = s.turns := by
  unfold State.mapCtx; split <;> rfl

@[simp] theorem State.mapCore_mem (s : State) (k : Nat) (f : Core → Core) : (s.mapCore k f).mem = s.mem := rfl
@[simp] theorem State.mapCore_llc (s : State) (k : Nat) (f : Core → Core) : (s.mapCore k f).llc = s.llc := rfl
@[simp] theorem State.mapCore_ctxs (s : State) (k : Nat) (f : Core → Core) : (s.mapCore k f).ctxs = s.ctxs := rfl
@[simp] theorem State.mapCore_teams (s : State) (k : Nat) (f : Core → Core) : (s.mapCore k f).teams = s.teams := rfl
@[simp] theorem State.mapCore_groups (s : State) (k : Nat) (f : Core → Core) : (s.mapCore k f).groups = s.groups := rfl
@[simp] theorem State.mapCore_quads (s : State) (k : Nat) (f : Core → Core) : (s.mapCore k f).quads = s.quads := rfl
@[simp] theorem State.mapCore_dies (s : State) (k : Nat) (f : Core → Core) : (s.mapCore k f).dies = s.dies := rfl
@[simp] theorem State.mapCore_parts (s : State) (k : Nat) (f : Core → Core) : (s.mapCore k f).parts = s.parts := rfl
@[simp] theorem State.mapCore_dieParts (s : State) (k : Nat) (f : Core → Core) : (s.mapCore k f).dieParts = s.dieParts := rfl
@[simp] theorem State.mapCore_stokers (s : State) (k : Nat) (f : Core → Core) : (s.mapCore k f).stokers = s.stokers := rfl
@[simp] theorem State.mapCore_poison (s : State) (k : Nat) (f : Core → Core) : (s.mapCore k f).poison = s.poison := rfl
@[simp] theorem State.mapCore_reqs (s : State) (k : Nat) (f : Core → Core) : (s.mapCore k f).reqs = s.reqs := rfl
@[simp] theorem State.mapCore_ranges (s : State) (k : Nat) (f : Core → Core) : (s.mapCore k f).ranges = s.ranges := rfl
@[simp] theorem State.mapCore_waiters (s : State) (k : Nat) (f : Core → Core) : (s.mapCore k f).waiters = s.waiters := rfl
@[simp] theorem State.mapCore_episodes (s : State) (k : Nat) (f : Core → Core) : (s.mapCore k f).episodes = s.episodes := rfl
@[simp] theorem State.mapCore_saves (s : State) (k : Nat) (f : Core → Core) : (s.mapCore k f).saves = s.saves := rfl
@[simp] theorem State.mapCore_saved (s : State) (k : Nat) (f : Core → Core) : (s.mapCore k f).saved = s.saved := rfl
@[simp] theorem State.mapCore_ports (s : State) (k : Nat) (f : Core → Core) : (s.mapCore k f).ports = s.ports := rfl
@[simp] theorem State.mapCore_host (s : State) (k : Nat) (f : Core → Core) : (s.mapCore k f).host = s.host := rfl
@[simp] theorem State.mapCore_uid (s : State) (k : Nat) (f : Core → Core) : (s.mapCore k f).uid = s.uid := rfl
@[simp] theorem State.mapCore_tick (s : State) (k : Nat) (f : Core → Core) : (s.mapCore k f).tick = s.tick := rfl
@[simp] theorem State.mapCore_cur (s : State) (k : Nat) (f : Core → Core) : (s.mapCore k f).cur = s.cur := rfl
@[simp] theorem State.mapCore_frag (s : State) (k : Nat) (f : Core → Core) : (s.mapCore k f).frag = s.frag := rfl
@[simp] theorem State.mapCore_turns (s : State) (k : Nat) (f : Core → Core) : (s.mapCore k f).turns = s.turns := rfl

@[simp] theorem State.mapQuad_mem (s : State) (k : Nat) (f : Quad → Quad) : (s.mapQuad k f).mem = s.mem := rfl
@[simp] theorem State.mapQuad_llc (s : State) (k : Nat) (f : Quad → Quad) : (s.mapQuad k f).llc = s.llc := rfl
@[simp] theorem State.mapQuad_ctxs (s : State) (k : Nat) (f : Quad → Quad) : (s.mapQuad k f).ctxs = s.ctxs := rfl
@[simp] theorem State.mapQuad_teams (s : State) (k : Nat) (f : Quad → Quad) : (s.mapQuad k f).teams = s.teams := rfl
@[simp] theorem State.mapQuad_groups (s : State) (k : Nat) (f : Quad → Quad) : (s.mapQuad k f).groups = s.groups := rfl
@[simp] theorem State.mapQuad_cores (s : State) (k : Nat) (f : Quad → Quad) : (s.mapQuad k f).cores = s.cores := rfl
@[simp] theorem State.mapQuad_dies (s : State) (k : Nat) (f : Quad → Quad) : (s.mapQuad k f).dies = s.dies := rfl
@[simp] theorem State.mapQuad_parts (s : State) (k : Nat) (f : Quad → Quad) : (s.mapQuad k f).parts = s.parts := rfl
@[simp] theorem State.mapQuad_dieParts (s : State) (k : Nat) (f : Quad → Quad) : (s.mapQuad k f).dieParts = s.dieParts := rfl
@[simp] theorem State.mapQuad_stokers (s : State) (k : Nat) (f : Quad → Quad) : (s.mapQuad k f).stokers = s.stokers := rfl
@[simp] theorem State.mapQuad_poison (s : State) (k : Nat) (f : Quad → Quad) : (s.mapQuad k f).poison = s.poison := rfl
@[simp] theorem State.mapQuad_reqs (s : State) (k : Nat) (f : Quad → Quad) : (s.mapQuad k f).reqs = s.reqs := rfl
@[simp] theorem State.mapQuad_ranges (s : State) (k : Nat) (f : Quad → Quad) : (s.mapQuad k f).ranges = s.ranges := rfl
@[simp] theorem State.mapQuad_waiters (s : State) (k : Nat) (f : Quad → Quad) : (s.mapQuad k f).waiters = s.waiters := rfl
@[simp] theorem State.mapQuad_episodes (s : State) (k : Nat) (f : Quad → Quad) : (s.mapQuad k f).episodes = s.episodes := rfl
@[simp] theorem State.mapQuad_saves (s : State) (k : Nat) (f : Quad → Quad) : (s.mapQuad k f).saves = s.saves := rfl
@[simp] theorem State.mapQuad_saved (s : State) (k : Nat) (f : Quad → Quad) : (s.mapQuad k f).saved = s.saved := rfl
@[simp] theorem State.mapQuad_ports (s : State) (k : Nat) (f : Quad → Quad) : (s.mapQuad k f).ports = s.ports := rfl
@[simp] theorem State.mapQuad_host (s : State) (k : Nat) (f : Quad → Quad) : (s.mapQuad k f).host = s.host := rfl
@[simp] theorem State.mapQuad_uid (s : State) (k : Nat) (f : Quad → Quad) : (s.mapQuad k f).uid = s.uid := rfl
@[simp] theorem State.mapQuad_tick (s : State) (k : Nat) (f : Quad → Quad) : (s.mapQuad k f).tick = s.tick := rfl
@[simp] theorem State.mapQuad_cur (s : State) (k : Nat) (f : Quad → Quad) : (s.mapQuad k f).cur = s.cur := rfl
@[simp] theorem State.mapQuad_frag (s : State) (k : Nat) (f : Quad → Quad) : (s.mapQuad k f).frag = s.frag := rfl
@[simp] theorem State.mapQuad_turns (s : State) (k : Nat) (f : Quad → Quad) : (s.mapQuad k f).turns = s.turns := rfl

@[simp] theorem State.mapDie_mem (s : State) (k : Nat) (f : Die → Die) : (s.mapDie k f).mem = s.mem := rfl
@[simp] theorem State.mapDie_llc (s : State) (k : Nat) (f : Die → Die) : (s.mapDie k f).llc = s.llc := rfl
@[simp] theorem State.mapDie_ctxs (s : State) (k : Nat) (f : Die → Die) : (s.mapDie k f).ctxs = s.ctxs := rfl
@[simp] theorem State.mapDie_teams (s : State) (k : Nat) (f : Die → Die) : (s.mapDie k f).teams = s.teams := rfl
@[simp] theorem State.mapDie_groups (s : State) (k : Nat) (f : Die → Die) : (s.mapDie k f).groups = s.groups := rfl
@[simp] theorem State.mapDie_cores (s : State) (k : Nat) (f : Die → Die) : (s.mapDie k f).cores = s.cores := rfl
@[simp] theorem State.mapDie_quads (s : State) (k : Nat) (f : Die → Die) : (s.mapDie k f).quads = s.quads := rfl
@[simp] theorem State.mapDie_parts (s : State) (k : Nat) (f : Die → Die) : (s.mapDie k f).parts = s.parts := rfl
@[simp] theorem State.mapDie_dieParts (s : State) (k : Nat) (f : Die → Die) : (s.mapDie k f).dieParts = s.dieParts := rfl
@[simp] theorem State.mapDie_stokers (s : State) (k : Nat) (f : Die → Die) : (s.mapDie k f).stokers = s.stokers := rfl
@[simp] theorem State.mapDie_poison (s : State) (k : Nat) (f : Die → Die) : (s.mapDie k f).poison = s.poison := rfl
@[simp] theorem State.mapDie_reqs (s : State) (k : Nat) (f : Die → Die) : (s.mapDie k f).reqs = s.reqs := rfl
@[simp] theorem State.mapDie_ranges (s : State) (k : Nat) (f : Die → Die) : (s.mapDie k f).ranges = s.ranges := rfl
@[simp] theorem State.mapDie_waiters (s : State) (k : Nat) (f : Die → Die) : (s.mapDie k f).waiters = s.waiters := rfl
@[simp] theorem State.mapDie_episodes (s : State) (k : Nat) (f : Die → Die) : (s.mapDie k f).episodes = s.episodes := rfl
@[simp] theorem State.mapDie_saves (s : State) (k : Nat) (f : Die → Die) : (s.mapDie k f).saves = s.saves := rfl
@[simp] theorem State.mapDie_saved (s : State) (k : Nat) (f : Die → Die) : (s.mapDie k f).saved = s.saved := rfl
@[simp] theorem State.mapDie_ports (s : State) (k : Nat) (f : Die → Die) : (s.mapDie k f).ports = s.ports := rfl
@[simp] theorem State.mapDie_host (s : State) (k : Nat) (f : Die → Die) : (s.mapDie k f).host = s.host := rfl
@[simp] theorem State.mapDie_uid (s : State) (k : Nat) (f : Die → Die) : (s.mapDie k f).uid = s.uid := rfl
@[simp] theorem State.mapDie_tick (s : State) (k : Nat) (f : Die → Die) : (s.mapDie k f).tick = s.tick := rfl
@[simp] theorem State.mapDie_cur (s : State) (k : Nat) (f : Die → Die) : (s.mapDie k f).cur = s.cur := rfl
@[simp] theorem State.mapDie_frag (s : State) (k : Nat) (f : Die → Die) : (s.mapDie k f).frag = s.frag := rfl
@[simp] theorem State.mapDie_turns (s : State) (k : Nat) (f : Die → Die) : (s.mapDie k f).turns = s.turns := rfl

@[simp] theorem State.mapPart_mem (s : State) (k : Nat) (f : Part → Part) : (s.mapPart k f).mem = s.mem := rfl
@[simp] theorem State.mapPart_llc (s : State) (k : Nat) (f : Part → Part) : (s.mapPart k f).llc = s.llc := rfl
@[simp] theorem State.mapPart_ctxs (s : State) (k : Nat) (f : Part → Part) : (s.mapPart k f).ctxs = s.ctxs := rfl
@[simp] theorem State.mapPart_teams (s : State) (k : Nat) (f : Part → Part) : (s.mapPart k f).teams = s.teams := rfl
@[simp] theorem State.mapPart_groups (s : State) (k : Nat) (f : Part → Part) : (s.mapPart k f).groups = s.groups := rfl
@[simp] theorem State.mapPart_cores (s : State) (k : Nat) (f : Part → Part) : (s.mapPart k f).cores = s.cores := rfl
@[simp] theorem State.mapPart_quads (s : State) (k : Nat) (f : Part → Part) : (s.mapPart k f).quads = s.quads := rfl
@[simp] theorem State.mapPart_dies (s : State) (k : Nat) (f : Part → Part) : (s.mapPart k f).dies = s.dies := rfl
@[simp] theorem State.mapPart_dieParts (s : State) (k : Nat) (f : Part → Part) : (s.mapPart k f).dieParts = s.dieParts := rfl
@[simp] theorem State.mapPart_stokers (s : State) (k : Nat) (f : Part → Part) : (s.mapPart k f).stokers = s.stokers := rfl
@[simp] theorem State.mapPart_poison (s : State) (k : Nat) (f : Part → Part) : (s.mapPart k f).poison = s.poison := rfl
@[simp] theorem State.mapPart_reqs (s : State) (k : Nat) (f : Part → Part) : (s.mapPart k f).reqs = s.reqs := rfl
@[simp] theorem State.mapPart_ranges (s : State) (k : Nat) (f : Part → Part) : (s.mapPart k f).ranges = s.ranges := rfl
@[simp] theorem State.mapPart_waiters (s : State) (k : Nat) (f : Part → Part) : (s.mapPart k f).waiters = s.waiters := rfl
@[simp] theorem State.mapPart_episodes (s : State) (k : Nat) (f : Part → Part) : (s.mapPart k f).episodes = s.episodes := rfl
@[simp] theorem State.mapPart_saves (s : State) (k : Nat) (f : Part → Part) : (s.mapPart k f).saves = s.saves := rfl
@[simp] theorem State.mapPart_saved (s : State) (k : Nat) (f : Part → Part) : (s.mapPart k f).saved = s.saved := rfl
@[simp] theorem State.mapPart_ports (s : State) (k : Nat) (f : Part → Part) : (s.mapPart k f).ports = s.ports := rfl
@[simp] theorem State.mapPart_host (s : State) (k : Nat) (f : Part → Part) : (s.mapPart k f).host = s.host := rfl
@[simp] theorem State.mapPart_uid (s : State) (k : Nat) (f : Part → Part) : (s.mapPart k f).uid = s.uid := rfl
@[simp] theorem State.mapPart_tick (s : State) (k : Nat) (f : Part → Part) : (s.mapPart k f).tick = s.tick := rfl
@[simp] theorem State.mapPart_cur (s : State) (k : Nat) (f : Part → Part) : (s.mapPart k f).cur = s.cur := rfl
@[simp] theorem State.mapPart_frag (s : State) (k : Nat) (f : Part → Part) : (s.mapPart k f).frag = s.frag := rfl
@[simp] theorem State.mapPart_turns (s : State) (k : Nat) (f : Part → Part) : (s.mapPart k f).turns = s.turns := rfl

@[simp] theorem State.mapTeam_mem (s : State) (k : Nat) (f : Team → Team) : (s.mapTeam k f).mem = s.mem := by
  unfold State.mapTeam; split <;> rfl
@[simp] theorem State.mapTeam_llc (s : State) (k : Nat) (f : Team → Team) : (s.mapTeam k f).llc = s.llc := by
  unfold State.mapTeam; split <;> rfl
@[simp] theorem State.mapTeam_ctxs (s : State) (k : Nat) (f : Team → Team) : (s.mapTeam k f).ctxs = s.ctxs := by
  unfold State.mapTeam; split <;> rfl
@[simp] theorem State.mapTeam_groups (s : State) (k : Nat) (f : Team → Team) : (s.mapTeam k f).groups = s.groups := by
  unfold State.mapTeam; split <;> rfl
@[simp] theorem State.mapTeam_cores (s : State) (k : Nat) (f : Team → Team) : (s.mapTeam k f).cores = s.cores := by
  unfold State.mapTeam; split <;> rfl
@[simp] theorem State.mapTeam_quads (s : State) (k : Nat) (f : Team → Team) : (s.mapTeam k f).quads = s.quads := by
  unfold State.mapTeam; split <;> rfl
@[simp] theorem State.mapTeam_dies (s : State) (k : Nat) (f : Team → Team) : (s.mapTeam k f).dies = s.dies := by
  unfold State.mapTeam; split <;> rfl
@[simp] theorem State.mapTeam_parts (s : State) (k : Nat) (f : Team → Team) : (s.mapTeam k f).parts = s.parts := by
  unfold State.mapTeam; split <;> rfl
@[simp] theorem State.mapTeam_dieParts (s : State) (k : Nat) (f : Team → Team) : (s.mapTeam k f).dieParts = s.dieParts := by
  unfold State.mapTeam; split <;> rfl
@[simp] theorem State.mapTeam_stokers (s : State) (k : Nat) (f : Team → Team) : (s.mapTeam k f).stokers = s.stokers := by
  unfold State.mapTeam; split <;> rfl
@[simp] theorem State.mapTeam_poison (s : State) (k : Nat) (f : Team → Team) : (s.mapTeam k f).poison = s.poison := by
  unfold State.mapTeam; split <;> rfl
@[simp] theorem State.mapTeam_reqs (s : State) (k : Nat) (f : Team → Team) : (s.mapTeam k f).reqs = s.reqs := by
  unfold State.mapTeam; split <;> rfl
@[simp] theorem State.mapTeam_ranges (s : State) (k : Nat) (f : Team → Team) : (s.mapTeam k f).ranges = s.ranges := by
  unfold State.mapTeam; split <;> rfl
@[simp] theorem State.mapTeam_waiters (s : State) (k : Nat) (f : Team → Team) : (s.mapTeam k f).waiters = s.waiters := by
  unfold State.mapTeam; split <;> rfl
@[simp] theorem State.mapTeam_episodes (s : State) (k : Nat) (f : Team → Team) : (s.mapTeam k f).episodes = s.episodes := by
  unfold State.mapTeam; split <;> rfl
@[simp] theorem State.mapTeam_saves (s : State) (k : Nat) (f : Team → Team) : (s.mapTeam k f).saves = s.saves := by
  unfold State.mapTeam; split <;> rfl
@[simp] theorem State.mapTeam_saved (s : State) (k : Nat) (f : Team → Team) : (s.mapTeam k f).saved = s.saved := by
  unfold State.mapTeam; split <;> rfl
@[simp] theorem State.mapTeam_ports (s : State) (k : Nat) (f : Team → Team) : (s.mapTeam k f).ports = s.ports := by
  unfold State.mapTeam; split <;> rfl
@[simp] theorem State.mapTeam_host (s : State) (k : Nat) (f : Team → Team) : (s.mapTeam k f).host = s.host := by
  unfold State.mapTeam; split <;> rfl
@[simp] theorem State.mapTeam_uid (s : State) (k : Nat) (f : Team → Team) : (s.mapTeam k f).uid = s.uid := by
  unfold State.mapTeam; split <;> rfl
@[simp] theorem State.mapTeam_tick (s : State) (k : Nat) (f : Team → Team) : (s.mapTeam k f).tick = s.tick := by
  unfold State.mapTeam; split <;> rfl
@[simp] theorem State.mapTeam_cur (s : State) (k : Nat) (f : Team → Team) : (s.mapTeam k f).cur = s.cur := by
  unfold State.mapTeam; split <;> rfl
@[simp] theorem State.mapTeam_frag (s : State) (k : Nat) (f : Team → Team) : (s.mapTeam k f).frag = s.frag := by
  unfold State.mapTeam; split <;> rfl
@[simp] theorem State.mapTeam_turns (s : State) (k : Nat) (f : Team → Team) : (s.mapTeam k f).turns = s.turns := by
  unfold State.mapTeam; split <;> rfl

@[simp] theorem State.mapGroup_mem (s : State) (k : Nat) (f : Group → Group) : (s.mapGroup k f).mem = s.mem := by
  unfold State.mapGroup; split <;> rfl
@[simp] theorem State.mapGroup_llc (s : State) (k : Nat) (f : Group → Group) : (s.mapGroup k f).llc = s.llc := by
  unfold State.mapGroup; split <;> rfl
@[simp] theorem State.mapGroup_ctxs (s : State) (k : Nat) (f : Group → Group) : (s.mapGroup k f).ctxs = s.ctxs := by
  unfold State.mapGroup; split <;> rfl
@[simp] theorem State.mapGroup_teams (s : State) (k : Nat) (f : Group → Group) : (s.mapGroup k f).teams = s.teams := by
  unfold State.mapGroup; split <;> rfl
@[simp] theorem State.mapGroup_cores (s : State) (k : Nat) (f : Group → Group) : (s.mapGroup k f).cores = s.cores := by
  unfold State.mapGroup; split <;> rfl
@[simp] theorem State.mapGroup_quads (s : State) (k : Nat) (f : Group → Group) : (s.mapGroup k f).quads = s.quads := by
  unfold State.mapGroup; split <;> rfl
@[simp] theorem State.mapGroup_dies (s : State) (k : Nat) (f : Group → Group) : (s.mapGroup k f).dies = s.dies := by
  unfold State.mapGroup; split <;> rfl
@[simp] theorem State.mapGroup_parts (s : State) (k : Nat) (f : Group → Group) : (s.mapGroup k f).parts = s.parts := by
  unfold State.mapGroup; split <;> rfl
@[simp] theorem State.mapGroup_dieParts (s : State) (k : Nat) (f : Group → Group) : (s.mapGroup k f).dieParts = s.dieParts := by
  unfold State.mapGroup; split <;> rfl
@[simp] theorem State.mapGroup_stokers (s : State) (k : Nat) (f : Group → Group) : (s.mapGroup k f).stokers = s.stokers := by
  unfold State.mapGroup; split <;> rfl
@[simp] theorem State.mapGroup_poison (s : State) (k : Nat) (f : Group → Group) : (s.mapGroup k f).poison = s.poison := by
  unfold State.mapGroup; split <;> rfl
@[simp] theorem State.mapGroup_reqs (s : State) (k : Nat) (f : Group → Group) : (s.mapGroup k f).reqs = s.reqs := by
  unfold State.mapGroup; split <;> rfl
@[simp] theorem State.mapGroup_ranges (s : State) (k : Nat) (f : Group → Group) : (s.mapGroup k f).ranges = s.ranges := by
  unfold State.mapGroup; split <;> rfl
@[simp] theorem State.mapGroup_waiters (s : State) (k : Nat) (f : Group → Group) : (s.mapGroup k f).waiters = s.waiters := by
  unfold State.mapGroup; split <;> rfl
@[simp] theorem State.mapGroup_episodes (s : State) (k : Nat) (f : Group → Group) : (s.mapGroup k f).episodes = s.episodes := by
  unfold State.mapGroup; split <;> rfl
@[simp] theorem State.mapGroup_saves (s : State) (k : Nat) (f : Group → Group) : (s.mapGroup k f).saves = s.saves := by
  unfold State.mapGroup; split <;> rfl
@[simp] theorem State.mapGroup_saved (s : State) (k : Nat) (f : Group → Group) : (s.mapGroup k f).saved = s.saved := by
  unfold State.mapGroup; split <;> rfl
@[simp] theorem State.mapGroup_ports (s : State) (k : Nat) (f : Group → Group) : (s.mapGroup k f).ports = s.ports := by
  unfold State.mapGroup; split <;> rfl
@[simp] theorem State.mapGroup_host (s : State) (k : Nat) (f : Group → Group) : (s.mapGroup k f).host = s.host := by
  unfold State.mapGroup; split <;> rfl
@[simp] theorem State.mapGroup_uid (s : State) (k : Nat) (f : Group → Group) : (s.mapGroup k f).uid = s.uid := by
  unfold State.mapGroup; split <;> rfl
@[simp] theorem State.mapGroup_tick (s : State) (k : Nat) (f : Group → Group) : (s.mapGroup k f).tick = s.tick := by
  unfold State.mapGroup; split <;> rfl
@[simp] theorem State.mapGroup_cur (s : State) (k : Nat) (f : Group → Group) : (s.mapGroup k f).cur = s.cur := by
  unfold State.mapGroup; split <;> rfl
@[simp] theorem State.mapGroup_frag (s : State) (k : Nat) (f : Group → Group) : (s.mapGroup k f).frag = s.frag := by
  unfold State.mapGroup; split <;> rfl
@[simp] theorem State.mapGroup_turns (s : State) (k : Nat) (f : Group → Group) : (s.mapGroup k f).turns = s.turns := by
  unfold State.mapGroup; split <;> rfl

/-! ## Contexts -/

@[simp] theorem State.ctx?_setCtx_same (s : State) (a : Agent) (c : Ctx) : (s.setCtx a c).ctx? a = some c := by
  simp [State.ctx?, State.setCtx]

theorem State.ctx?_setCtx_ne (s : State) (a b : Agent) (c : Ctx) (h : ctxKey b ≠ ctxKey a) :
    (s.setCtx a c).ctx? b = s.ctx? b := by
  simp [State.ctx?, State.setCtx, AMap.find_put_ne _ _ _ _ h]

theorem State.ctx?_congr {s t : State} (h : t.ctxs = s.ctxs) (a : Agent) : t.ctx? a = s.ctx? a := by
  simp [State.ctx?, h]

/-- What mapCtx leaves in the agent's own context. -/
theorem State.ctx?_mapCtx_same (s : State) (a : Agent) (f : Ctx → Ctx) : (s.mapCtx a f).ctx? a = (s.ctx? a).map f := by
  unfold State.mapCtx
  split <;> simp_all

theorem State.ctx?_mapCtx_some {s : State} {a : Agent} {c : Ctx} (f : Ctx → Ctx) (h : s.ctx? a = some c) :
    (s.mapCtx a f).ctx? a = some (f c) := by
  rw [State.ctx?_mapCtx_same, h]; rfl

theorem State.ctx?_mapCtx_ne (s : State) (a b : Agent) (f : Ctx → Ctx) (h : ctxKey b ≠ ctxKey a) :
    (s.mapCtx a f).ctx? b = s.ctx? b := by
  unfold State.mapCtx
  split
  · exact State.ctx?_setCtx_ne s a b _ h
  · rfl

theorem State.mapCtx_some {s : State} {a : Agent} {c : Ctx} (f : Ctx → Ctx) (h : s.ctx? a = some c) :
    s.mapCtx a f = s.setCtx a (f c) := by
  simp [State.mapCtx, h]

@[simp] theorem State.setCtx_setCtx (s : State) (a : Agent) (c d : Ctx) : (s.setCtx a c).setCtx a d = s.setCtx a d := by
  have h : ∀ (m : AMap Ctx) (k : Nat), (m.put k c).put k d = m.put k d := by
    intro m k
    induction m with
    | nil => simp [AMap.put]
    | cons e m ih =>
      obtain ⟨i, v⟩ := e
      simp only [AMap.put]
      split
      · simp [AMap.put]
      · split
        · simp [AMap.put]
        · rename_i h1 h2; simp [AMap.put, h1, h2, ih]
  simp [State.setCtx, h]

/-! ## Registers -/

theorem Ctx.sget_sset (c : Ctx) (n j : Nat) (v : W64) :
    (c.sset n v).sget j = if j = n ∧ n ≠ 63 then v else c.sget j := by
  unfold Ctx.sset Ctx.sget
  by_cases h : n = 63
  · simp [h]
  · by_cases hj : j = 63
    · subst hj; simp [h]; omega
    · simp [h, hj, AMap.get_set]

theorem Ctx.kget_kset (c : Ctx) (n j : Nat) (v : Lanes) :
    (c.kset n v).kget j = if j = n ∧ n ≠ 0 then v else c.kget j := by
  unfold Ctx.kset Ctx.kget
  by_cases h : n = 0
  · simp [h]
  · by_cases hj : j = 0
    · subst hj; simp [h]; omega
    · simp [h, hj, AMap.get_set]

theorem Ctx.vget_vset (c : Ctx) (n i j l : Nat) (v : W32) (hi : i < 64) (hl : l < 64) :
    (c.vset n i v).vget j l = if j = n ∧ l = i then v else c.vget j l := by
  unfold Ctx.vset Ctx.vget
  rw [AMap.get_set]
  by_cases h : 64 * j + l = 64 * n + i
  · have : j = n ∧ l = i := by omega
    simp [this]
  · have : ¬ (j = n ∧ l = i) := by omega
    simp [h, this]

theorem Ctx.flag_raiseFlags (c : Ctx) (i j : Nat) (f : BitVec 5) :
    (c.raiseFlags i f).flag j = if j = i then c.flag i ||| f else c.flag j := by
  unfold Ctx.raiseFlags Ctx.flag
  rw [AMap.get_set]

@[simp] theorem Ctx.sset_team (c : Ctx) (n : Nat) (x : W64) : (c.sset n x).team = c.team := by
  unfold Ctx.sset; split <;> rfl
@[simp] theorem Ctx.sset_widx (c : Ctx) (n : Nat) (x : W64) : (c.sset n x).widx = c.widx := by
  unfold Ctx.sset; split <;> rfl
@[simp] theorem Ctx.sset_role (c : Ctx) (n : Nat) (x : W64) : (c.sset n x).role = c.role := by
  unfold Ctx.sset; split <;> rfl
@[simp] theorem Ctx.sset_priv (c : Ctx) (n : Nat) (x : W64) : (c.sset n x).priv = c.priv := by
  unfold Ctx.sset; split <;> rfl
@[simp] theorem Ctx.sset_k (c : Ctx) (n : Nat) (x : W64) : (c.sset n x).k = c.k := by
  unfold Ctx.sset; split <;> rfl
@[simp] theorem Ctx.sset_v (c : Ctx) (n : Nat) (x : W64) : (c.sset n x).v = c.v := by
  unfold Ctx.sset; split <;> rfl
@[simp] theorem Ctx.sset_flags (c : Ctx) (n : Nat) (x : W64) : (c.sset n x).flags = c.flags := by
  unfold Ctx.sset; split <;> rfl
@[simp] theorem Ctx.sset_paths (c : Ctx) (n : Nat) (x : W64) : (c.sset n x).paths = c.paths := by
  unfold Ctx.sset; split <;> rfl
@[simp] theorem Ctx.sset_mtab (c : Ctx) (n : Nat) (x : W64) : (c.sset n x).mtab = c.mtab := by
  unfold Ctx.sset; split <;> rfl
@[simp] theorem Ctx.sset_rope (c : Ctx) (n : Nat) (x : W64) : (c.sset n x).rope = c.rope := by
  unfold Ctx.sset; split <;> rfl
@[simp] theorem Ctx.sset_tags (c : Ctx) (n : Nat) (x : W64) : (c.sset n x).tags = c.tags := by
  unfold Ctx.sset; split <;> rfl
@[simp] theorem Ctx.sset_split (c : Ctx) (n : Nat) (x : W64) : (c.sset n x).split = c.split := by
  unfold Ctx.sset; split <;> rfl
@[simp] theorem Ctx.sset_age (c : Ctx) (n : Nat) (x : W64) : (c.sset n x).age = c.age := by
  unfold Ctx.sset; split <;> rfl
@[simp] theorem Ctx.sset_exited (c : Ctx) (n : Nat) (x : W64) : (c.sset n x).exited = c.exited := by
  unfold Ctx.sset; split <;> rfl
@[simp] theorem Ctx.sset_nreg (c : Ctx) (n : Nat) (x : W64) : (c.sset n x).nreg = c.nreg := by
  unfold Ctx.sset; split <;> rfl
@[simp] theorem Ctx.sset_live (c : Ctx) (n : Nat) (x : W64) : (c.sset n x).live = c.live := by
  unfold Ctx.sset; split <;> rfl
@[simp] theorem Ctx.sset_ldc (c : Ctx) (n : Nat) (x : W64) : (c.sset n x).ldc = c.ldc := by
  unfold Ctx.sset; split <;> rfl
@[simp] theorem Ctx.sset_stc (c : Ctx) (n : Nat) (x : W64) : (c.sset n x).stc = c.stc := by
  unfold Ctx.sset; split <;> rfl
@[simp] theorem Ctx.sset_xc (c : Ctx) (n : Nat) (x : W64) : (c.sset n x).xc = c.xc := by
  unfold Ctx.sset; split <;> rfl
@[simp] theorem Ctx.sset_ec (c : Ctx) (n : Nat) (x : W64) : (c.sset n x).ec = c.ec := by
  unfold Ctx.sset; split <;> rfl
@[simp] theorem Ctx.sset_pend (c : Ctx) (n : Nat) (x : W64) : (c.sset n x).pend = c.pend := by
  unfold Ctx.sset; split <;> rfl
@[simp] theorem Ctx.sset_sfail (c : Ctx) (n : Nat) (x : W64) : (c.sset n x).sfail = c.sfail := by
  unfold Ctx.sset; split <;> rfl
@[simp] theorem Ctx.sset_fpen (c : Ctx) (n : Nat) (x : W64) : (c.sset n x).fpen = c.fpen := by
  unfold Ctx.sset; split <;> rfl
@[simp] theorem Ctx.sset_rmode (c : Ctx) (n : Nat) (x : W64) : (c.sset n x).rmode = c.rmode := by
  unfold Ctx.sset; split <;> rfl
@[simp] theorem Ctx.sset_utvec (c : Ctx) (n : Nat) (x : W64) : (c.sset n x).utvec = c.utvec := by
  unfold Ctx.sset; split <;> rfl
@[simp] theorem Ctx.sset_utpc (c : Ctx) (n : Nat) (x : W64) : (c.sset n x).utpc = c.utpc := by
  unfold Ctx.sset; split <;> rfl
@[simp] theorem Ctx.sset_utnext (c : Ctx) (n : Nat) (x : W64) : (c.sset n x).utnext = c.utnext := by
  unfold Ctx.sset; split <;> rfl
@[simp] theorem Ctx.sset_utlanes (c : Ctx) (n : Nat) (x : W64) : (c.sset n x).utlanes = c.utlanes := by
  unfold Ctx.sset; split <;> rfl
@[simp] theorem Ctx.sset_utcause (c : Ctx) (n : Nat) (x : W64) : (c.sset n x).utcause = c.utcause := by
  unfold Ctx.sset; split <;> rfl
@[simp] theorem Ctx.sset_utdst (c : Ctx) (n : Nat) (x : W64) : (c.sset n x).utdst = c.utdst := by
  unfold Ctx.sset; split <;> rfl
@[simp] theorem Ctx.sset_utact (c : Ctx) (n : Nat) (x : W64) : (c.sset n x).utact = c.utact := by
  unfold Ctx.sset; split <;> rfl
@[simp] theorem Ctx.sset_utfrag (c : Ctx) (n : Nat) (x : W64) : (c.sset n x).utfrag = c.utfrag := by
  unfold Ctx.sset; split <;> rfl
@[simp] theorem Ctx.sset_rngkey (c : Ctx) (n : Nat) (x : W64) : (c.sset n x).rngkey = c.rngkey := by
  unfold Ctx.sset; split <;> rfl
@[simp] theorem Ctx.sset_rngctr (c : Ctx) (n : Nat) (x : W64) : (c.sset n x).rngctr = c.rngctr := by
  unfold Ctx.sset; split <;> rfl
@[simp] theorem Ctx.sset_stale (c : Ctx) (n : Nat) (x : W64) : (c.sset n x).stale = c.stale := by
  unfold Ctx.sset; split <;> rfl
@[simp] theorem Ctx.sset_kvclamp (c : Ctx) (n : Nat) (x : W64) : (c.sset n x).kvclamp = c.kvclamp := by
  unfold Ctx.sset; split <;> rfl
@[simp] theorem Ctx.sset_guard (c : Ctx) (n : Nat) (x : W64) : (c.sset n x).guard = c.guard := by
  unfold Ctx.sset; split <;> rfl
@[simp] theorem Ctx.sset_park (c : Ctx) (n : Nat) (x : W64) : (c.sset n x).park = c.park := by
  unfold Ctx.sset; split <;> rfl
@[simp] theorem Ctx.sset_pk (c : Ctx) (n : Nat) (x : W64) : (c.sset n x).pk = c.pk := by
  unfold Ctx.sset; split <;> rfl
@[simp] theorem Ctx.sset_frag (c : Ctx) (n : Nat) (x : W64) : (c.sset n x).frag = c.frag := by
  unfold Ctx.sset; split <;> rfl
@[simp] theorem Ctx.sset_stop (c : Ctx) (n : Nat) (x : W64) : (c.sset n x).stop = c.stop := by
  unfold Ctx.sset; split <;> rfl
@[simp] theorem Ctx.sset_lastCode (c : Ctx) (n : Nat) (x : W64) : (c.sset n x).lastCode = c.lastCode := by
  unfold Ctx.sset; split <;> rfl
@[simp] theorem Ctx.sset_held (c : Ctx) (n : Nat) (x : W64) : (c.sset n x).held = c.held := by
  unfold Ctx.sset; split <;> rfl
@[simp] theorem Ctx.sset_out (c : Ctx) (n : Nat) (x : W64) : (c.sset n x).out = c.out := by
  unfold Ctx.sset; split <;> rfl
@[simp] theorem Ctx.sset_single (c : Ctx) (n : Nat) (x : W64) : (c.sset n x).single = c.single := by
  unfold Ctx.sset; split <;> rfl
@[simp] theorem Ctx.sset_skipBkpt (c : Ctx) (n : Nat) (x : W64) : (c.sset n x).skipBkpt = c.skipBkpt := by
  unfold Ctx.sset; split <;> rfl
@[simp] theorem Ctx.sset_turnAge (c : Ctx) (n : Nat) (x : W64) : (c.sset n x).turnAge = c.turnAge := by
  unfold Ctx.sset; split <;> rfl
@[simp] theorem Ctx.sset_parkedAt (c : Ctx) (n : Nat) (x : W64) : (c.sset n x).parkedAt = c.parkedAt := by
  unfold Ctx.sset; split <;> rfl
@[simp] theorem Ctx.sset_heldClamp (c : Ctx) (n : Nat) (x : W64) : (c.sset n x).heldClamp = c.heldClamp := by
  unfold Ctx.sset; split <;> rfl
@[simp] theorem Ctx.sset_heldStale (c : Ctx) (n : Nat) (x : W64) : (c.sset n x).heldStale = c.heldStale := by
  unfold Ctx.sset; split <;> rfl
@[simp] theorem Ctx.sset_saveGen (c : Ctx) (n : Nat) (x : W64) : (c.sset n x).saveGen = c.saveGen := by
  unfold Ctx.sset; split <;> rfl
@[simp] theorem Ctx.sset_waits (c : Ctx) (n : Nat) (x : W64) : (c.sset n x).waits = c.waits := by
  unfold Ctx.sset; split <;> rfl
@[simp] theorem Ctx.sset_passed (c : Ctx) (n : Nat) (x : W64) : (c.sset n x).passed = c.passed := by
  unfold Ctx.sset; split <;> rfl
@[simp] theorem Ctx.sset_broken (c : Ctx) (n : Nat) (x : W64) : (c.sset n x).broken = c.broken := by
  unfold Ctx.sset; split <;> rfl

@[simp] theorem Ctx.kset_team (c : Ctx) (n : Nat) (x : Lanes) : (c.kset n x).team = c.team := by
  unfold Ctx.kset; split <;> rfl
@[simp] theorem Ctx.kset_widx (c : Ctx) (n : Nat) (x : Lanes) : (c.kset n x).widx = c.widx := by
  unfold Ctx.kset; split <;> rfl
@[simp] theorem Ctx.kset_role (c : Ctx) (n : Nat) (x : Lanes) : (c.kset n x).role = c.role := by
  unfold Ctx.kset; split <;> rfl
@[simp] theorem Ctx.kset_priv (c : Ctx) (n : Nat) (x : Lanes) : (c.kset n x).priv = c.priv := by
  unfold Ctx.kset; split <;> rfl
@[simp] theorem Ctx.kset_s (c : Ctx) (n : Nat) (x : Lanes) : (c.kset n x).s = c.s := by
  unfold Ctx.kset; split <;> rfl
@[simp] theorem Ctx.kset_v (c : Ctx) (n : Nat) (x : Lanes) : (c.kset n x).v = c.v := by
  unfold Ctx.kset; split <;> rfl
@[simp] theorem Ctx.kset_flags (c : Ctx) (n : Nat) (x : Lanes) : (c.kset n x).flags = c.flags := by
  unfold Ctx.kset; split <;> rfl
@[simp] theorem Ctx.kset_paths (c : Ctx) (n : Nat) (x : Lanes) : (c.kset n x).paths = c.paths := by
  unfold Ctx.kset; split <;> rfl
@[simp] theorem Ctx.kset_mtab (c : Ctx) (n : Nat) (x : Lanes) : (c.kset n x).mtab = c.mtab := by
  unfold Ctx.kset; split <;> rfl
@[simp] theorem Ctx.kset_rope (c : Ctx) (n : Nat) (x : Lanes) : (c.kset n x).rope = c.rope := by
  unfold Ctx.kset; split <;> rfl
@[simp] theorem Ctx.kset_tags (c : Ctx) (n : Nat) (x : Lanes) : (c.kset n x).tags = c.tags := by
  unfold Ctx.kset; split <;> rfl
@[simp] theorem Ctx.kset_split (c : Ctx) (n : Nat) (x : Lanes) : (c.kset n x).split = c.split := by
  unfold Ctx.kset; split <;> rfl
@[simp] theorem Ctx.kset_age (c : Ctx) (n : Nat) (x : Lanes) : (c.kset n x).age = c.age := by
  unfold Ctx.kset; split <;> rfl
@[simp] theorem Ctx.kset_exited (c : Ctx) (n : Nat) (x : Lanes) : (c.kset n x).exited = c.exited := by
  unfold Ctx.kset; split <;> rfl
@[simp] theorem Ctx.kset_nreg (c : Ctx) (n : Nat) (x : Lanes) : (c.kset n x).nreg = c.nreg := by
  unfold Ctx.kset; split <;> rfl
@[simp] theorem Ctx.kset_live (c : Ctx) (n : Nat) (x : Lanes) : (c.kset n x).live = c.live := by
  unfold Ctx.kset; split <;> rfl
@[simp] theorem Ctx.kset_ldc (c : Ctx) (n : Nat) (x : Lanes) : (c.kset n x).ldc = c.ldc := by
  unfold Ctx.kset; split <;> rfl
@[simp] theorem Ctx.kset_stc (c : Ctx) (n : Nat) (x : Lanes) : (c.kset n x).stc = c.stc := by
  unfold Ctx.kset; split <;> rfl
@[simp] theorem Ctx.kset_xc (c : Ctx) (n : Nat) (x : Lanes) : (c.kset n x).xc = c.xc := by
  unfold Ctx.kset; split <;> rfl
@[simp] theorem Ctx.kset_ec (c : Ctx) (n : Nat) (x : Lanes) : (c.kset n x).ec = c.ec := by
  unfold Ctx.kset; split <;> rfl
@[simp] theorem Ctx.kset_pend (c : Ctx) (n : Nat) (x : Lanes) : (c.kset n x).pend = c.pend := by
  unfold Ctx.kset; split <;> rfl
@[simp] theorem Ctx.kset_sfail (c : Ctx) (n : Nat) (x : Lanes) : (c.kset n x).sfail = c.sfail := by
  unfold Ctx.kset; split <;> rfl
@[simp] theorem Ctx.kset_fpen (c : Ctx) (n : Nat) (x : Lanes) : (c.kset n x).fpen = c.fpen := by
  unfold Ctx.kset; split <;> rfl
@[simp] theorem Ctx.kset_rmode (c : Ctx) (n : Nat) (x : Lanes) : (c.kset n x).rmode = c.rmode := by
  unfold Ctx.kset; split <;> rfl
@[simp] theorem Ctx.kset_utvec (c : Ctx) (n : Nat) (x : Lanes) : (c.kset n x).utvec = c.utvec := by
  unfold Ctx.kset; split <;> rfl
@[simp] theorem Ctx.kset_utpc (c : Ctx) (n : Nat) (x : Lanes) : (c.kset n x).utpc = c.utpc := by
  unfold Ctx.kset; split <;> rfl
@[simp] theorem Ctx.kset_utnext (c : Ctx) (n : Nat) (x : Lanes) : (c.kset n x).utnext = c.utnext := by
  unfold Ctx.kset; split <;> rfl
@[simp] theorem Ctx.kset_utlanes (c : Ctx) (n : Nat) (x : Lanes) : (c.kset n x).utlanes = c.utlanes := by
  unfold Ctx.kset; split <;> rfl
@[simp] theorem Ctx.kset_utcause (c : Ctx) (n : Nat) (x : Lanes) : (c.kset n x).utcause = c.utcause := by
  unfold Ctx.kset; split <;> rfl
@[simp] theorem Ctx.kset_utdst (c : Ctx) (n : Nat) (x : Lanes) : (c.kset n x).utdst = c.utdst := by
  unfold Ctx.kset; split <;> rfl
@[simp] theorem Ctx.kset_utact (c : Ctx) (n : Nat) (x : Lanes) : (c.kset n x).utact = c.utact := by
  unfold Ctx.kset; split <;> rfl
@[simp] theorem Ctx.kset_utfrag (c : Ctx) (n : Nat) (x : Lanes) : (c.kset n x).utfrag = c.utfrag := by
  unfold Ctx.kset; split <;> rfl
@[simp] theorem Ctx.kset_rngkey (c : Ctx) (n : Nat) (x : Lanes) : (c.kset n x).rngkey = c.rngkey := by
  unfold Ctx.kset; split <;> rfl
@[simp] theorem Ctx.kset_rngctr (c : Ctx) (n : Nat) (x : Lanes) : (c.kset n x).rngctr = c.rngctr := by
  unfold Ctx.kset; split <;> rfl
@[simp] theorem Ctx.kset_stale (c : Ctx) (n : Nat) (x : Lanes) : (c.kset n x).stale = c.stale := by
  unfold Ctx.kset; split <;> rfl
@[simp] theorem Ctx.kset_kvclamp (c : Ctx) (n : Nat) (x : Lanes) : (c.kset n x).kvclamp = c.kvclamp := by
  unfold Ctx.kset; split <;> rfl
@[simp] theorem Ctx.kset_guard (c : Ctx) (n : Nat) (x : Lanes) : (c.kset n x).guard = c.guard := by
  unfold Ctx.kset; split <;> rfl
@[simp] theorem Ctx.kset_park (c : Ctx) (n : Nat) (x : Lanes) : (c.kset n x).park = c.park := by
  unfold Ctx.kset; split <;> rfl
@[simp] theorem Ctx.kset_pk (c : Ctx) (n : Nat) (x : Lanes) : (c.kset n x).pk = c.pk := by
  unfold Ctx.kset; split <;> rfl
@[simp] theorem Ctx.kset_frag (c : Ctx) (n : Nat) (x : Lanes) : (c.kset n x).frag = c.frag := by
  unfold Ctx.kset; split <;> rfl
@[simp] theorem Ctx.kset_stop (c : Ctx) (n : Nat) (x : Lanes) : (c.kset n x).stop = c.stop := by
  unfold Ctx.kset; split <;> rfl
@[simp] theorem Ctx.kset_lastCode (c : Ctx) (n : Nat) (x : Lanes) : (c.kset n x).lastCode = c.lastCode := by
  unfold Ctx.kset; split <;> rfl
@[simp] theorem Ctx.kset_held (c : Ctx) (n : Nat) (x : Lanes) : (c.kset n x).held = c.held := by
  unfold Ctx.kset; split <;> rfl
@[simp] theorem Ctx.kset_out (c : Ctx) (n : Nat) (x : Lanes) : (c.kset n x).out = c.out := by
  unfold Ctx.kset; split <;> rfl
@[simp] theorem Ctx.kset_single (c : Ctx) (n : Nat) (x : Lanes) : (c.kset n x).single = c.single := by
  unfold Ctx.kset; split <;> rfl
@[simp] theorem Ctx.kset_skipBkpt (c : Ctx) (n : Nat) (x : Lanes) : (c.kset n x).skipBkpt = c.skipBkpt := by
  unfold Ctx.kset; split <;> rfl
@[simp] theorem Ctx.kset_turnAge (c : Ctx) (n : Nat) (x : Lanes) : (c.kset n x).turnAge = c.turnAge := by
  unfold Ctx.kset; split <;> rfl
@[simp] theorem Ctx.kset_parkedAt (c : Ctx) (n : Nat) (x : Lanes) : (c.kset n x).parkedAt = c.parkedAt := by
  unfold Ctx.kset; split <;> rfl
@[simp] theorem Ctx.kset_heldClamp (c : Ctx) (n : Nat) (x : Lanes) : (c.kset n x).heldClamp = c.heldClamp := by
  unfold Ctx.kset; split <;> rfl
@[simp] theorem Ctx.kset_heldStale (c : Ctx) (n : Nat) (x : Lanes) : (c.kset n x).heldStale = c.heldStale := by
  unfold Ctx.kset; split <;> rfl
@[simp] theorem Ctx.kset_saveGen (c : Ctx) (n : Nat) (x : Lanes) : (c.kset n x).saveGen = c.saveGen := by
  unfold Ctx.kset; split <;> rfl
@[simp] theorem Ctx.kset_waits (c : Ctx) (n : Nat) (x : Lanes) : (c.kset n x).waits = c.waits := by
  unfold Ctx.kset; split <;> rfl
@[simp] theorem Ctx.kset_passed (c : Ctx) (n : Nat) (x : Lanes) : (c.kset n x).passed = c.passed := by
  unfold Ctx.kset; split <;> rfl
@[simp] theorem Ctx.kset_broken (c : Ctx) (n : Nat) (x : Lanes) : (c.kset n x).broken = c.broken := by
  unfold Ctx.kset; split <;> rfl

@[simp] theorem Ctx.setPc_team (c : Ctx) (f : Nat) (x : W64) : (c.setPc f x).team = c.team := by
  unfold Ctx.setPc; split <;> rfl
@[simp] theorem Ctx.setPc_widx (c : Ctx) (f : Nat) (x : W64) : (c.setPc f x).widx = c.widx := by
  unfold Ctx.setPc; split <;> rfl
@[simp] theorem Ctx.setPc_role (c : Ctx) (f : Nat) (x : W64) : (c.setPc f x).role = c.role := by
  unfold Ctx.setPc; split <;> rfl
@[simp] theorem Ctx.setPc_priv (c : Ctx) (f : Nat) (x : W64) : (c.setPc f x).priv = c.priv := by
  unfold Ctx.setPc; split <;> rfl
@[simp] theorem Ctx.setPc_s (c : Ctx) (f : Nat) (x : W64) : (c.setPc f x).s = c.s := by
  unfold Ctx.setPc; split <;> rfl
@[simp] theorem Ctx.setPc_k (c : Ctx) (f : Nat) (x : W64) : (c.setPc f x).k = c.k := by
  unfold Ctx.setPc; split <;> rfl
@[simp] theorem Ctx.setPc_v (c : Ctx) (f : Nat) (x : W64) : (c.setPc f x).v = c.v := by
  unfold Ctx.setPc; split <;> rfl
@[simp] theorem Ctx.setPc_flags (c : Ctx) (f : Nat) (x : W64) : (c.setPc f x).flags = c.flags := by
  unfold Ctx.setPc; split <;> rfl
@[simp] theorem Ctx.setPc_paths (c : Ctx) (f : Nat) (x : W64) : (c.setPc f x).paths = c.paths := by
  unfold Ctx.setPc; split <;> rfl
@[simp] theorem Ctx.setPc_mtab (c : Ctx) (f : Nat) (x : W64) : (c.setPc f x).mtab = c.mtab := by
  unfold Ctx.setPc; split <;> rfl
@[simp] theorem Ctx.setPc_rope (c : Ctx) (f : Nat) (x : W64) : (c.setPc f x).rope = c.rope := by
  unfold Ctx.setPc; split <;> rfl
@[simp] theorem Ctx.setPc_tags (c : Ctx) (f : Nat) (x : W64) : (c.setPc f x).tags = c.tags := by
  unfold Ctx.setPc; split <;> rfl
@[simp] theorem Ctx.setPc_age (c : Ctx) (f : Nat) (x : W64) : (c.setPc f x).age = c.age := by
  unfold Ctx.setPc; split <;> rfl
@[simp] theorem Ctx.setPc_exited (c : Ctx) (f : Nat) (x : W64) : (c.setPc f x).exited = c.exited := by
  unfold Ctx.setPc; split <;> rfl
@[simp] theorem Ctx.setPc_nreg (c : Ctx) (f : Nat) (x : W64) : (c.setPc f x).nreg = c.nreg := by
  unfold Ctx.setPc; split <;> rfl
@[simp] theorem Ctx.setPc_live (c : Ctx) (f : Nat) (x : W64) : (c.setPc f x).live = c.live := by
  unfold Ctx.setPc; split <;> rfl
@[simp] theorem Ctx.setPc_ldc (c : Ctx) (f : Nat) (x : W64) : (c.setPc f x).ldc = c.ldc := by
  unfold Ctx.setPc; split <;> rfl
@[simp] theorem Ctx.setPc_stc (c : Ctx) (f : Nat) (x : W64) : (c.setPc f x).stc = c.stc := by
  unfold Ctx.setPc; split <;> rfl
@[simp] theorem Ctx.setPc_xc (c : Ctx) (f : Nat) (x : W64) : (c.setPc f x).xc = c.xc := by
  unfold Ctx.setPc; split <;> rfl
@[simp] theorem Ctx.setPc_ec (c : Ctx) (f : Nat) (x : W64) : (c.setPc f x).ec = c.ec := by
  unfold Ctx.setPc; split <;> rfl
@[simp] theorem Ctx.setPc_pend (c : Ctx) (f : Nat) (x : W64) : (c.setPc f x).pend = c.pend := by
  unfold Ctx.setPc; split <;> rfl
@[simp] theorem Ctx.setPc_sfail (c : Ctx) (f : Nat) (x : W64) : (c.setPc f x).sfail = c.sfail := by
  unfold Ctx.setPc; split <;> rfl
@[simp] theorem Ctx.setPc_fpen (c : Ctx) (f : Nat) (x : W64) : (c.setPc f x).fpen = c.fpen := by
  unfold Ctx.setPc; split <;> rfl
@[simp] theorem Ctx.setPc_rmode (c : Ctx) (f : Nat) (x : W64) : (c.setPc f x).rmode = c.rmode := by
  unfold Ctx.setPc; split <;> rfl
@[simp] theorem Ctx.setPc_utvec (c : Ctx) (f : Nat) (x : W64) : (c.setPc f x).utvec = c.utvec := by
  unfold Ctx.setPc; split <;> rfl
@[simp] theorem Ctx.setPc_utpc (c : Ctx) (f : Nat) (x : W64) : (c.setPc f x).utpc = c.utpc := by
  unfold Ctx.setPc; split <;> rfl
@[simp] theorem Ctx.setPc_utnext (c : Ctx) (f : Nat) (x : W64) : (c.setPc f x).utnext = c.utnext := by
  unfold Ctx.setPc; split <;> rfl
@[simp] theorem Ctx.setPc_utlanes (c : Ctx) (f : Nat) (x : W64) : (c.setPc f x).utlanes = c.utlanes := by
  unfold Ctx.setPc; split <;> rfl
@[simp] theorem Ctx.setPc_utcause (c : Ctx) (f : Nat) (x : W64) : (c.setPc f x).utcause = c.utcause := by
  unfold Ctx.setPc; split <;> rfl
@[simp] theorem Ctx.setPc_utdst (c : Ctx) (f : Nat) (x : W64) : (c.setPc f x).utdst = c.utdst := by
  unfold Ctx.setPc; split <;> rfl
@[simp] theorem Ctx.setPc_utact (c : Ctx) (f : Nat) (x : W64) : (c.setPc f x).utact = c.utact := by
  unfold Ctx.setPc; split <;> rfl
@[simp] theorem Ctx.setPc_utfrag (c : Ctx) (f : Nat) (x : W64) : (c.setPc f x).utfrag = c.utfrag := by
  unfold Ctx.setPc; split <;> rfl
@[simp] theorem Ctx.setPc_rngkey (c : Ctx) (f : Nat) (x : W64) : (c.setPc f x).rngkey = c.rngkey := by
  unfold Ctx.setPc; split <;> rfl
@[simp] theorem Ctx.setPc_rngctr (c : Ctx) (f : Nat) (x : W64) : (c.setPc f x).rngctr = c.rngctr := by
  unfold Ctx.setPc; split <;> rfl
@[simp] theorem Ctx.setPc_stale (c : Ctx) (f : Nat) (x : W64) : (c.setPc f x).stale = c.stale := by
  unfold Ctx.setPc; split <;> rfl
@[simp] theorem Ctx.setPc_kvclamp (c : Ctx) (f : Nat) (x : W64) : (c.setPc f x).kvclamp = c.kvclamp := by
  unfold Ctx.setPc; split <;> rfl
@[simp] theorem Ctx.setPc_guard (c : Ctx) (f : Nat) (x : W64) : (c.setPc f x).guard = c.guard := by
  unfold Ctx.setPc; split <;> rfl
@[simp] theorem Ctx.setPc_park (c : Ctx) (f : Nat) (x : W64) : (c.setPc f x).park = c.park := by
  unfold Ctx.setPc; split <;> rfl
@[simp] theorem Ctx.setPc_pk (c : Ctx) (f : Nat) (x : W64) : (c.setPc f x).pk = c.pk := by
  unfold Ctx.setPc; split <;> rfl
@[simp] theorem Ctx.setPc_frag (c : Ctx) (f : Nat) (x : W64) : (c.setPc f x).frag = c.frag := by
  unfold Ctx.setPc; split <;> rfl
@[simp] theorem Ctx.setPc_stop (c : Ctx) (f : Nat) (x : W64) : (c.setPc f x).stop = c.stop := by
  unfold Ctx.setPc; split <;> rfl
@[simp] theorem Ctx.setPc_lastCode (c : Ctx) (f : Nat) (x : W64) : (c.setPc f x).lastCode = c.lastCode := by
  unfold Ctx.setPc; split <;> rfl
@[simp] theorem Ctx.setPc_held (c : Ctx) (f : Nat) (x : W64) : (c.setPc f x).held = c.held := by
  unfold Ctx.setPc; split <;> rfl
@[simp] theorem Ctx.setPc_out (c : Ctx) (f : Nat) (x : W64) : (c.setPc f x).out = c.out := by
  unfold Ctx.setPc; split <;> rfl
@[simp] theorem Ctx.setPc_single (c : Ctx) (f : Nat) (x : W64) : (c.setPc f x).single = c.single := by
  unfold Ctx.setPc; split <;> rfl
@[simp] theorem Ctx.setPc_skipBkpt (c : Ctx) (f : Nat) (x : W64) : (c.setPc f x).skipBkpt = c.skipBkpt := by
  unfold Ctx.setPc; split <;> rfl
@[simp] theorem Ctx.setPc_turnAge (c : Ctx) (f : Nat) (x : W64) : (c.setPc f x).turnAge = c.turnAge := by
  unfold Ctx.setPc; split <;> rfl
@[simp] theorem Ctx.setPc_parkedAt (c : Ctx) (f : Nat) (x : W64) : (c.setPc f x).parkedAt = c.parkedAt := by
  unfold Ctx.setPc; split <;> rfl
@[simp] theorem Ctx.setPc_heldClamp (c : Ctx) (f : Nat) (x : W64) : (c.setPc f x).heldClamp = c.heldClamp := by
  unfold Ctx.setPc; split <;> rfl
@[simp] theorem Ctx.setPc_heldStale (c : Ctx) (f : Nat) (x : W64) : (c.setPc f x).heldStale = c.heldStale := by
  unfold Ctx.setPc; split <;> rfl
@[simp] theorem Ctx.setPc_saveGen (c : Ctx) (f : Nat) (x : W64) : (c.setPc f x).saveGen = c.saveGen := by
  unfold Ctx.setPc; split <;> rfl
@[simp] theorem Ctx.setPc_waits (c : Ctx) (f : Nat) (x : W64) : (c.setPc f x).waits = c.waits := by
  unfold Ctx.setPc; split <;> rfl
@[simp] theorem Ctx.setPc_passed (c : Ctx) (f : Nat) (x : W64) : (c.setPc f x).passed = c.passed := by
  unfold Ctx.setPc; split <;> rfl
@[simp] theorem Ctx.setPc_broken (c : Ctx) (f : Nat) (x : W64) : (c.setPc f x).broken = c.broken := by
  unfold Ctx.setPc; split <;> rfl

@[simp] theorem Ctx.vset_team (c : Ctx) (n l : Nat) (x : W32) : (c.vset n l x).team = c.team := rfl
@[simp] theorem Ctx.vset_widx (c : Ctx) (n l : Nat) (x : W32) : (c.vset n l x).widx = c.widx := rfl
@[simp] theorem Ctx.vset_role (c : Ctx) (n l : Nat) (x : W32) : (c.vset n l x).role = c.role := rfl
@[simp] theorem Ctx.vset_priv (c : Ctx) (n l : Nat) (x : W32) : (c.vset n l x).priv = c.priv := rfl
@[simp] theorem Ctx.vset_s (c : Ctx) (n l : Nat) (x : W32) : (c.vset n l x).s = c.s := rfl
@[simp] theorem Ctx.vset_k (c : Ctx) (n l : Nat) (x : W32) : (c.vset n l x).k = c.k := rfl
@[simp] theorem Ctx.vset_flags (c : Ctx) (n l : Nat) (x : W32) : (c.vset n l x).flags = c.flags := rfl
@[simp] theorem Ctx.vset_paths (c : Ctx) (n l : Nat) (x : W32) : (c.vset n l x).paths = c.paths := rfl
@[simp] theorem Ctx.vset_mtab (c : Ctx) (n l : Nat) (x : W32) : (c.vset n l x).mtab = c.mtab := rfl
@[simp] theorem Ctx.vset_rope (c : Ctx) (n l : Nat) (x : W32) : (c.vset n l x).rope = c.rope := rfl
@[simp] theorem Ctx.vset_tags (c : Ctx) (n l : Nat) (x : W32) : (c.vset n l x).tags = c.tags := rfl
@[simp] theorem Ctx.vset_split (c : Ctx) (n l : Nat) (x : W32) : (c.vset n l x).split = c.split := rfl
@[simp] theorem Ctx.vset_age (c : Ctx) (n l : Nat) (x : W32) : (c.vset n l x).age = c.age := rfl
@[simp] theorem Ctx.vset_exited (c : Ctx) (n l : Nat) (x : W32) : (c.vset n l x).exited = c.exited := rfl
@[simp] theorem Ctx.vset_nreg (c : Ctx) (n l : Nat) (x : W32) : (c.vset n l x).nreg = c.nreg := rfl
@[simp] theorem Ctx.vset_live (c : Ctx) (n l : Nat) (x : W32) : (c.vset n l x).live = c.live := rfl
@[simp] theorem Ctx.vset_ldc (c : Ctx) (n l : Nat) (x : W32) : (c.vset n l x).ldc = c.ldc := rfl
@[simp] theorem Ctx.vset_stc (c : Ctx) (n l : Nat) (x : W32) : (c.vset n l x).stc = c.stc := rfl
@[simp] theorem Ctx.vset_xc (c : Ctx) (n l : Nat) (x : W32) : (c.vset n l x).xc = c.xc := rfl
@[simp] theorem Ctx.vset_ec (c : Ctx) (n l : Nat) (x : W32) : (c.vset n l x).ec = c.ec := rfl
@[simp] theorem Ctx.vset_pend (c : Ctx) (n l : Nat) (x : W32) : (c.vset n l x).pend = c.pend := rfl
@[simp] theorem Ctx.vset_sfail (c : Ctx) (n l : Nat) (x : W32) : (c.vset n l x).sfail = c.sfail := rfl
@[simp] theorem Ctx.vset_fpen (c : Ctx) (n l : Nat) (x : W32) : (c.vset n l x).fpen = c.fpen := rfl
@[simp] theorem Ctx.vset_rmode (c : Ctx) (n l : Nat) (x : W32) : (c.vset n l x).rmode = c.rmode := rfl
@[simp] theorem Ctx.vset_utvec (c : Ctx) (n l : Nat) (x : W32) : (c.vset n l x).utvec = c.utvec := rfl
@[simp] theorem Ctx.vset_utpc (c : Ctx) (n l : Nat) (x : W32) : (c.vset n l x).utpc = c.utpc := rfl
@[simp] theorem Ctx.vset_utnext (c : Ctx) (n l : Nat) (x : W32) : (c.vset n l x).utnext = c.utnext := rfl
@[simp] theorem Ctx.vset_utlanes (c : Ctx) (n l : Nat) (x : W32) : (c.vset n l x).utlanes = c.utlanes := rfl
@[simp] theorem Ctx.vset_utcause (c : Ctx) (n l : Nat) (x : W32) : (c.vset n l x).utcause = c.utcause := rfl
@[simp] theorem Ctx.vset_utdst (c : Ctx) (n l : Nat) (x : W32) : (c.vset n l x).utdst = c.utdst := rfl
@[simp] theorem Ctx.vset_utact (c : Ctx) (n l : Nat) (x : W32) : (c.vset n l x).utact = c.utact := rfl
@[simp] theorem Ctx.vset_utfrag (c : Ctx) (n l : Nat) (x : W32) : (c.vset n l x).utfrag = c.utfrag := rfl
@[simp] theorem Ctx.vset_rngkey (c : Ctx) (n l : Nat) (x : W32) : (c.vset n l x).rngkey = c.rngkey := rfl
@[simp] theorem Ctx.vset_rngctr (c : Ctx) (n l : Nat) (x : W32) : (c.vset n l x).rngctr = c.rngctr := rfl
@[simp] theorem Ctx.vset_stale (c : Ctx) (n l : Nat) (x : W32) : (c.vset n l x).stale = c.stale := rfl
@[simp] theorem Ctx.vset_kvclamp (c : Ctx) (n l : Nat) (x : W32) : (c.vset n l x).kvclamp = c.kvclamp := rfl
@[simp] theorem Ctx.vset_guard (c : Ctx) (n l : Nat) (x : W32) : (c.vset n l x).guard = c.guard := rfl
@[simp] theorem Ctx.vset_park (c : Ctx) (n l : Nat) (x : W32) : (c.vset n l x).park = c.park := rfl
@[simp] theorem Ctx.vset_pk (c : Ctx) (n l : Nat) (x : W32) : (c.vset n l x).pk = c.pk := rfl
@[simp] theorem Ctx.vset_frag (c : Ctx) (n l : Nat) (x : W32) : (c.vset n l x).frag = c.frag := rfl
@[simp] theorem Ctx.vset_stop (c : Ctx) (n l : Nat) (x : W32) : (c.vset n l x).stop = c.stop := rfl
@[simp] theorem Ctx.vset_lastCode (c : Ctx) (n l : Nat) (x : W32) : (c.vset n l x).lastCode = c.lastCode := rfl
@[simp] theorem Ctx.vset_held (c : Ctx) (n l : Nat) (x : W32) : (c.vset n l x).held = c.held := rfl
@[simp] theorem Ctx.vset_out (c : Ctx) (n l : Nat) (x : W32) : (c.vset n l x).out = c.out := rfl
@[simp] theorem Ctx.vset_single (c : Ctx) (n l : Nat) (x : W32) : (c.vset n l x).single = c.single := rfl
@[simp] theorem Ctx.vset_skipBkpt (c : Ctx) (n l : Nat) (x : W32) : (c.vset n l x).skipBkpt = c.skipBkpt := rfl
@[simp] theorem Ctx.vset_turnAge (c : Ctx) (n l : Nat) (x : W32) : (c.vset n l x).turnAge = c.turnAge := rfl
@[simp] theorem Ctx.vset_parkedAt (c : Ctx) (n l : Nat) (x : W32) : (c.vset n l x).parkedAt = c.parkedAt := rfl
@[simp] theorem Ctx.vset_heldClamp (c : Ctx) (n l : Nat) (x : W32) : (c.vset n l x).heldClamp = c.heldClamp := rfl
@[simp] theorem Ctx.vset_heldStale (c : Ctx) (n l : Nat) (x : W32) : (c.vset n l x).heldStale = c.heldStale := rfl
@[simp] theorem Ctx.vset_saveGen (c : Ctx) (n l : Nat) (x : W32) : (c.vset n l x).saveGen = c.saveGen := rfl
@[simp] theorem Ctx.vset_waits (c : Ctx) (n l : Nat) (x : W32) : (c.vset n l x).waits = c.waits := rfl
@[simp] theorem Ctx.vset_passed (c : Ctx) (n l : Nat) (x : W32) : (c.vset n l x).passed = c.passed := rfl
@[simp] theorem Ctx.vset_broken (c : Ctx) (n l : Nat) (x : W32) : (c.vset n l x).broken = c.broken := rfl

@[simp] theorem Ctx.raiseFlags_team (c : Ctx) (l : Nat) (x : BitVec 5) : (c.raiseFlags l x).team = c.team := rfl
@[simp] theorem Ctx.raiseFlags_widx (c : Ctx) (l : Nat) (x : BitVec 5) : (c.raiseFlags l x).widx = c.widx := rfl
@[simp] theorem Ctx.raiseFlags_role (c : Ctx) (l : Nat) (x : BitVec 5) : (c.raiseFlags l x).role = c.role := rfl
@[simp] theorem Ctx.raiseFlags_priv (c : Ctx) (l : Nat) (x : BitVec 5) : (c.raiseFlags l x).priv = c.priv := rfl
@[simp] theorem Ctx.raiseFlags_s (c : Ctx) (l : Nat) (x : BitVec 5) : (c.raiseFlags l x).s = c.s := rfl
@[simp] theorem Ctx.raiseFlags_k (c : Ctx) (l : Nat) (x : BitVec 5) : (c.raiseFlags l x).k = c.k := rfl
@[simp] theorem Ctx.raiseFlags_v (c : Ctx) (l : Nat) (x : BitVec 5) : (c.raiseFlags l x).v = c.v := rfl
@[simp] theorem Ctx.raiseFlags_paths (c : Ctx) (l : Nat) (x : BitVec 5) : (c.raiseFlags l x).paths = c.paths := rfl
@[simp] theorem Ctx.raiseFlags_mtab (c : Ctx) (l : Nat) (x : BitVec 5) : (c.raiseFlags l x).mtab = c.mtab := rfl
@[simp] theorem Ctx.raiseFlags_rope (c : Ctx) (l : Nat) (x : BitVec 5) : (c.raiseFlags l x).rope = c.rope := rfl
@[simp] theorem Ctx.raiseFlags_tags (c : Ctx) (l : Nat) (x : BitVec 5) : (c.raiseFlags l x).tags = c.tags := rfl
@[simp] theorem Ctx.raiseFlags_split (c : Ctx) (l : Nat) (x : BitVec 5) : (c.raiseFlags l x).split = c.split := rfl
@[simp] theorem Ctx.raiseFlags_age (c : Ctx) (l : Nat) (x : BitVec 5) : (c.raiseFlags l x).age = c.age := rfl
@[simp] theorem Ctx.raiseFlags_exited (c : Ctx) (l : Nat) (x : BitVec 5) : (c.raiseFlags l x).exited = c.exited := rfl
@[simp] theorem Ctx.raiseFlags_nreg (c : Ctx) (l : Nat) (x : BitVec 5) : (c.raiseFlags l x).nreg = c.nreg := rfl
@[simp] theorem Ctx.raiseFlags_live (c : Ctx) (l : Nat) (x : BitVec 5) : (c.raiseFlags l x).live = c.live := rfl
@[simp] theorem Ctx.raiseFlags_ldc (c : Ctx) (l : Nat) (x : BitVec 5) : (c.raiseFlags l x).ldc = c.ldc := rfl
@[simp] theorem Ctx.raiseFlags_stc (c : Ctx) (l : Nat) (x : BitVec 5) : (c.raiseFlags l x).stc = c.stc := rfl
@[simp] theorem Ctx.raiseFlags_xc (c : Ctx) (l : Nat) (x : BitVec 5) : (c.raiseFlags l x).xc = c.xc := rfl
@[simp] theorem Ctx.raiseFlags_ec (c : Ctx) (l : Nat) (x : BitVec 5) : (c.raiseFlags l x).ec = c.ec := rfl
@[simp] theorem Ctx.raiseFlags_pend (c : Ctx) (l : Nat) (x : BitVec 5) : (c.raiseFlags l x).pend = c.pend := rfl
@[simp] theorem Ctx.raiseFlags_sfail (c : Ctx) (l : Nat) (x : BitVec 5) : (c.raiseFlags l x).sfail = c.sfail := rfl
@[simp] theorem Ctx.raiseFlags_fpen (c : Ctx) (l : Nat) (x : BitVec 5) : (c.raiseFlags l x).fpen = c.fpen := rfl
@[simp] theorem Ctx.raiseFlags_rmode (c : Ctx) (l : Nat) (x : BitVec 5) : (c.raiseFlags l x).rmode = c.rmode := rfl
@[simp] theorem Ctx.raiseFlags_utvec (c : Ctx) (l : Nat) (x : BitVec 5) : (c.raiseFlags l x).utvec = c.utvec := rfl
@[simp] theorem Ctx.raiseFlags_utpc (c : Ctx) (l : Nat) (x : BitVec 5) : (c.raiseFlags l x).utpc = c.utpc := rfl
@[simp] theorem Ctx.raiseFlags_utnext (c : Ctx) (l : Nat) (x : BitVec 5) : (c.raiseFlags l x).utnext = c.utnext := rfl
@[simp] theorem Ctx.raiseFlags_utlanes (c : Ctx) (l : Nat) (x : BitVec 5) : (c.raiseFlags l x).utlanes = c.utlanes := rfl
@[simp] theorem Ctx.raiseFlags_utcause (c : Ctx) (l : Nat) (x : BitVec 5) : (c.raiseFlags l x).utcause = c.utcause := rfl
@[simp] theorem Ctx.raiseFlags_utdst (c : Ctx) (l : Nat) (x : BitVec 5) : (c.raiseFlags l x).utdst = c.utdst := rfl
@[simp] theorem Ctx.raiseFlags_utact (c : Ctx) (l : Nat) (x : BitVec 5) : (c.raiseFlags l x).utact = c.utact := rfl
@[simp] theorem Ctx.raiseFlags_utfrag (c : Ctx) (l : Nat) (x : BitVec 5) : (c.raiseFlags l x).utfrag = c.utfrag := rfl
@[simp] theorem Ctx.raiseFlags_rngkey (c : Ctx) (l : Nat) (x : BitVec 5) : (c.raiseFlags l x).rngkey = c.rngkey := rfl
@[simp] theorem Ctx.raiseFlags_rngctr (c : Ctx) (l : Nat) (x : BitVec 5) : (c.raiseFlags l x).rngctr = c.rngctr := rfl
@[simp] theorem Ctx.raiseFlags_stale (c : Ctx) (l : Nat) (x : BitVec 5) : (c.raiseFlags l x).stale = c.stale := rfl
@[simp] theorem Ctx.raiseFlags_kvclamp (c : Ctx) (l : Nat) (x : BitVec 5) : (c.raiseFlags l x).kvclamp = c.kvclamp := rfl
@[simp] theorem Ctx.raiseFlags_guard (c : Ctx) (l : Nat) (x : BitVec 5) : (c.raiseFlags l x).guard = c.guard := rfl
@[simp] theorem Ctx.raiseFlags_park (c : Ctx) (l : Nat) (x : BitVec 5) : (c.raiseFlags l x).park = c.park := rfl
@[simp] theorem Ctx.raiseFlags_pk (c : Ctx) (l : Nat) (x : BitVec 5) : (c.raiseFlags l x).pk = c.pk := rfl
@[simp] theorem Ctx.raiseFlags_frag (c : Ctx) (l : Nat) (x : BitVec 5) : (c.raiseFlags l x).frag = c.frag := rfl
@[simp] theorem Ctx.raiseFlags_stop (c : Ctx) (l : Nat) (x : BitVec 5) : (c.raiseFlags l x).stop = c.stop := rfl
@[simp] theorem Ctx.raiseFlags_lastCode (c : Ctx) (l : Nat) (x : BitVec 5) : (c.raiseFlags l x).lastCode = c.lastCode := rfl
@[simp] theorem Ctx.raiseFlags_held (c : Ctx) (l : Nat) (x : BitVec 5) : (c.raiseFlags l x).held = c.held := rfl
@[simp] theorem Ctx.raiseFlags_out (c : Ctx) (l : Nat) (x : BitVec 5) : (c.raiseFlags l x).out = c.out := rfl
@[simp] theorem Ctx.raiseFlags_single (c : Ctx) (l : Nat) (x : BitVec 5) : (c.raiseFlags l x).single = c.single := rfl
@[simp] theorem Ctx.raiseFlags_skipBkpt (c : Ctx) (l : Nat) (x : BitVec 5) : (c.raiseFlags l x).skipBkpt = c.skipBkpt := rfl
@[simp] theorem Ctx.raiseFlags_turnAge (c : Ctx) (l : Nat) (x : BitVec 5) : (c.raiseFlags l x).turnAge = c.turnAge := rfl
@[simp] theorem Ctx.raiseFlags_parkedAt (c : Ctx) (l : Nat) (x : BitVec 5) : (c.raiseFlags l x).parkedAt = c.parkedAt := rfl
@[simp] theorem Ctx.raiseFlags_heldClamp (c : Ctx) (l : Nat) (x : BitVec 5) : (c.raiseFlags l x).heldClamp = c.heldClamp := rfl
@[simp] theorem Ctx.raiseFlags_heldStale (c : Ctx) (l : Nat) (x : BitVec 5) : (c.raiseFlags l x).heldStale = c.heldStale := rfl
@[simp] theorem Ctx.raiseFlags_saveGen (c : Ctx) (l : Nat) (x : BitVec 5) : (c.raiseFlags l x).saveGen = c.saveGen := rfl
@[simp] theorem Ctx.raiseFlags_waits (c : Ctx) (l : Nat) (x : BitVec 5) : (c.raiseFlags l x).waits = c.waits := rfl
@[simp] theorem Ctx.raiseFlags_passed (c : Ctx) (l : Nat) (x : BitVec 5) : (c.raiseFlags l x).passed = c.passed := rfl
@[simp] theorem Ctx.raiseFlags_broken (c : Ctx) (l : Nat) (x : BitVec 5) : (c.raiseFlags l x).broken = c.broken := rfl

@[simp] theorem Ctx.stepDone_team (c : Ctx) (i : Nat) : (c.stepDone i).team = c.team := by
  unfold Ctx.stepDone; split <;> rfl
@[simp] theorem Ctx.stepDone_widx (c : Ctx) (i : Nat) : (c.stepDone i).widx = c.widx := by
  unfold Ctx.stepDone; split <;> rfl
@[simp] theorem Ctx.stepDone_role (c : Ctx) (i : Nat) : (c.stepDone i).role = c.role := by
  unfold Ctx.stepDone; split <;> rfl
@[simp] theorem Ctx.stepDone_priv (c : Ctx) (i : Nat) : (c.stepDone i).priv = c.priv := by
  unfold Ctx.stepDone; split <;> rfl
@[simp] theorem Ctx.stepDone_s (c : Ctx) (i : Nat) : (c.stepDone i).s = c.s := by
  unfold Ctx.stepDone; split <;> rfl
@[simp] theorem Ctx.stepDone_k (c : Ctx) (i : Nat) : (c.stepDone i).k = c.k := by
  unfold Ctx.stepDone; split <;> rfl
@[simp] theorem Ctx.stepDone_v (c : Ctx) (i : Nat) : (c.stepDone i).v = c.v := by
  unfold Ctx.stepDone; split <;> rfl
@[simp] theorem Ctx.stepDone_flags (c : Ctx) (i : Nat) : (c.stepDone i).flags = c.flags := by
  unfold Ctx.stepDone; split <;> rfl
@[simp] theorem Ctx.stepDone_paths (c : Ctx) (i : Nat) : (c.stepDone i).paths = c.paths := by
  unfold Ctx.stepDone; split <;> rfl
@[simp] theorem Ctx.stepDone_mtab (c : Ctx) (i : Nat) : (c.stepDone i).mtab = c.mtab := by
  unfold Ctx.stepDone; split <;> rfl
@[simp] theorem Ctx.stepDone_rope (c : Ctx) (i : Nat) : (c.stepDone i).rope = c.rope := by
  unfold Ctx.stepDone; split <;> rfl
@[simp] theorem Ctx.stepDone_tags (c : Ctx) (i : Nat) : (c.stepDone i).tags = c.tags := by
  unfold Ctx.stepDone; split <;> rfl
@[simp] theorem Ctx.stepDone_split (c : Ctx) (i : Nat) : (c.stepDone i).split = c.split := by
  unfold Ctx.stepDone; split <;> rfl
@[simp] theorem Ctx.stepDone_age (c : Ctx) (i : Nat) : (c.stepDone i).age = c.age := by
  unfold Ctx.stepDone; split <;> rfl
@[simp] theorem Ctx.stepDone_exited (c : Ctx) (i : Nat) : (c.stepDone i).exited = c.exited := by
  unfold Ctx.stepDone; split <;> rfl
@[simp] theorem Ctx.stepDone_nreg (c : Ctx) (i : Nat) : (c.stepDone i).nreg = c.nreg := by
  unfold Ctx.stepDone; split <;> rfl
@[simp] theorem Ctx.stepDone_live (c : Ctx) (i : Nat) : (c.stepDone i).live = c.live := by
  unfold Ctx.stepDone; split <;> rfl
@[simp] theorem Ctx.stepDone_ldc (c : Ctx) (i : Nat) : (c.stepDone i).ldc = c.ldc := by
  unfold Ctx.stepDone; split <;> rfl
@[simp] theorem Ctx.stepDone_stc (c : Ctx) (i : Nat) : (c.stepDone i).stc = c.stc := by
  unfold Ctx.stepDone; split <;> rfl
@[simp] theorem Ctx.stepDone_xc (c : Ctx) (i : Nat) : (c.stepDone i).xc = c.xc := by
  unfold Ctx.stepDone; split <;> rfl
@[simp] theorem Ctx.stepDone_ec (c : Ctx) (i : Nat) : (c.stepDone i).ec = c.ec := by
  unfold Ctx.stepDone; split <;> rfl
@[simp] theorem Ctx.stepDone_pend (c : Ctx) (i : Nat) : (c.stepDone i).pend = c.pend := by
  unfold Ctx.stepDone; split <;> rfl
@[simp] theorem Ctx.stepDone_sfail (c : Ctx) (i : Nat) : (c.stepDone i).sfail = c.sfail := by
  unfold Ctx.stepDone; split <;> rfl
@[simp] theorem Ctx.stepDone_fpen (c : Ctx) (i : Nat) : (c.stepDone i).fpen = c.fpen := by
  unfold Ctx.stepDone; split <;> rfl
@[simp] theorem Ctx.stepDone_rmode (c : Ctx) (i : Nat) : (c.stepDone i).rmode = c.rmode := by
  unfold Ctx.stepDone; split <;> rfl
@[simp] theorem Ctx.stepDone_utvec (c : Ctx) (i : Nat) : (c.stepDone i).utvec = c.utvec := by
  unfold Ctx.stepDone; split <;> rfl
@[simp] theorem Ctx.stepDone_utpc (c : Ctx) (i : Nat) : (c.stepDone i).utpc = c.utpc := by
  unfold Ctx.stepDone; split <;> rfl
@[simp] theorem Ctx.stepDone_utnext (c : Ctx) (i : Nat) : (c.stepDone i).utnext = c.utnext := by
  unfold Ctx.stepDone; split <;> rfl
@[simp] theorem Ctx.stepDone_utlanes (c : Ctx) (i : Nat) : (c.stepDone i).utlanes = c.utlanes := by
  unfold Ctx.stepDone; split <;> rfl
@[simp] theorem Ctx.stepDone_utcause (c : Ctx) (i : Nat) : (c.stepDone i).utcause = c.utcause := by
  unfold Ctx.stepDone; split <;> rfl
@[simp] theorem Ctx.stepDone_utdst (c : Ctx) (i : Nat) : (c.stepDone i).utdst = c.utdst := by
  unfold Ctx.stepDone; split <;> rfl
@[simp] theorem Ctx.stepDone_utact (c : Ctx) (i : Nat) : (c.stepDone i).utact = c.utact := by
  unfold Ctx.stepDone; split <;> rfl
@[simp] theorem Ctx.stepDone_utfrag (c : Ctx) (i : Nat) : (c.stepDone i).utfrag = c.utfrag := by
  unfold Ctx.stepDone; split <;> rfl
@[simp] theorem Ctx.stepDone_rngkey (c : Ctx) (i : Nat) : (c.stepDone i).rngkey = c.rngkey := by
  unfold Ctx.stepDone; split <;> rfl
@[simp] theorem Ctx.stepDone_rngctr (c : Ctx) (i : Nat) : (c.stepDone i).rngctr = c.rngctr := by
  unfold Ctx.stepDone; split <;> rfl
@[simp] theorem Ctx.stepDone_stale (c : Ctx) (i : Nat) : (c.stepDone i).stale = c.stale := by
  unfold Ctx.stepDone; split <;> rfl
@[simp] theorem Ctx.stepDone_kvclamp (c : Ctx) (i : Nat) : (c.stepDone i).kvclamp = c.kvclamp := by
  unfold Ctx.stepDone; split <;> rfl
@[simp] theorem Ctx.stepDone_guard (c : Ctx) (i : Nat) : (c.stepDone i).guard = c.guard := by
  unfold Ctx.stepDone; split <;> rfl
@[simp] theorem Ctx.stepDone_park (c : Ctx) (i : Nat) : (c.stepDone i).park = c.park := by
  unfold Ctx.stepDone; split <;> rfl
@[simp] theorem Ctx.stepDone_pk (c : Ctx) (i : Nat) : (c.stepDone i).pk = c.pk := by
  unfold Ctx.stepDone; split <;> rfl
@[simp] theorem Ctx.stepDone_frag (c : Ctx) (i : Nat) : (c.stepDone i).frag = c.frag := by
  unfold Ctx.stepDone; split <;> rfl
@[simp] theorem Ctx.stepDone_held (c : Ctx) (i : Nat) : (c.stepDone i).held = c.held := by
  unfold Ctx.stepDone; split <;> rfl
@[simp] theorem Ctx.stepDone_out (c : Ctx) (i : Nat) : (c.stepDone i).out = c.out := by
  unfold Ctx.stepDone; split <;> rfl
@[simp] theorem Ctx.stepDone_skipBkpt (c : Ctx) (i : Nat) : (c.stepDone i).skipBkpt = c.skipBkpt := by
  unfold Ctx.stepDone; split <;> rfl
@[simp] theorem Ctx.stepDone_turnAge (c : Ctx) (i : Nat) : (c.stepDone i).turnAge = c.turnAge := by
  unfold Ctx.stepDone; split <;> rfl
@[simp] theorem Ctx.stepDone_parkedAt (c : Ctx) (i : Nat) : (c.stepDone i).parkedAt = c.parkedAt := by
  unfold Ctx.stepDone; split <;> rfl
@[simp] theorem Ctx.stepDone_heldClamp (c : Ctx) (i : Nat) : (c.stepDone i).heldClamp = c.heldClamp := by
  unfold Ctx.stepDone; split <;> rfl
@[simp] theorem Ctx.stepDone_heldStale (c : Ctx) (i : Nat) : (c.stepDone i).heldStale = c.heldStale := by
  unfold Ctx.stepDone; split <;> rfl
@[simp] theorem Ctx.stepDone_saveGen (c : Ctx) (i : Nat) : (c.stepDone i).saveGen = c.saveGen := by
  unfold Ctx.stepDone; split <;> rfl
@[simp] theorem Ctx.stepDone_waits (c : Ctx) (i : Nat) : (c.stepDone i).waits = c.waits := by
  unfold Ctx.stepDone; split <;> rfl
@[simp] theorem Ctx.stepDone_passed (c : Ctx) (i : Nat) : (c.stepDone i).passed = c.passed := by
  unfold Ctx.stepDone; split <;> rfl
@[simp] theorem Ctx.stepDone_broken (c : Ctx) (i : Nat) : (c.stepDone i).broken = c.broken := by
  unfold Ctx.stepDone; split <;> rfl

/-- Registers and records depend on their own field only. -/
theorem Ctx.sget_congr {c d : Ctx} (h : d.s = c.s) (n : Nat) : d.sget n = c.sget n := by simp [Ctx.sget, h]
theorem Ctx.kget_congr {c d : Ctx} (h : d.k = c.k) (n : Nat) : d.kget n = c.kget n := by simp [Ctx.kget, h]
theorem Ctx.vget_congr {c d : Ctx} (h : d.v = c.v) (n l : Nat) : d.vget n l = c.vget n l := by simp [Ctx.vget, h]
theorem Ctx.flag_congr {c d : Ctx} (h : d.flags = c.flags) (l : Nat) : d.flag l = c.flag l := by simp [Ctx.flag, h]
theorem Ctx.rec?_congr {c d : Ctx} (h : d.split = c.split) (i : Nat) : d.rec? i = c.rec? i := by simp [Ctx.rec?, h]

/-- The record of a fragment after its PC is set. -/
theorem Ctx.rec?_setPc {c : Ctx} {i : Nat} {r : SplitRec} (x : W64) (h : c.rec? i = some r) :
    (c.setPc i x).rec? i = some { r with pc := x &&& 0x00FFFFFFFFFFFFFF } := by
  unfold Ctx.setPc
  simp only [h]
  simp [Ctx.rec?]

theorem Ctx.rec?_setPc_ne (c : Ctx) (i j : Nat) (x : W64) (h : j ≠ i) : (c.setPc i x).rec? j = c.rec? j := by
  unfold Ctx.setPc
  split
  · simp [Ctx.rec?, AMap.find_put_ne _ _ _ _ h]
  · rfl

end Sys2Proof.Machine
end

