-- ==== Sys2Proof/Laws/Issue.lean ====
section
/-! SUPPORT. What an issue does, said once: the meaning's body runs where an instruction is ready, and what moving on leaves. -/

namespace Sys2Proof.Machine

/-- What an instruction sees when it is ready. -/
theorem State.ready_view {s : State} {pm : Perm} {h : Hdr} {len : Nat} {u : Uses} {is : Iss}
    (r : s.ready pm h len u = some is) :
    s.iss? h len = some is ∧ is.check pm u = .ok () ∧ (is.p ≠ 0 ∨ pm.onEmpty = true) := by
  unfold State.ready at r
  split at r
  · cases r
  · rename_i i hi
    split at r
    · cases r
    · rename_i hc
      split at r
      · cases r; exact ⟨hi, hc, by assumption⟩
      · cases r

/-- The view names the current agent, its context and its fragment. -/
theorem State.iss?_view {s : State} {h : Hdr} {len : Nat} {is : Iss} (r : s.iss? h len = some is) :
    is.a = s.cur ∧ s.ctx? is.a = some is.c ∧ is.fid = s.frag ∧ is.c.rec? is.fid = some is.fr ∧
      is.c.canIssue is.fid = true ∧ is.p = is.c.passing (isStoker is.a) s.tick h is.fr ∧ is.h = h ∧ is.len = len ∧
      is.tick = s.tick := by
  unfold State.iss? at r
  split at r
  · cases r
  · split at r
    · cases r
    · split at r
      · cases r; simp_all
      · cases r

theorem issueRaw_ready {pm : Perm} {h : Hdr} {len : Nat} {u : Uses} {s s' : State} {is : Iss} {body : Iss → State → Res State}
    (r : s.ready pm h len u = some is) (b : body is s = .ok s') :
    issueRaw pm h len u s body = .next (s'.afterIssue is) := by
  obtain ⟨h1, h2, h3⟩ := State.ready_view r
  have h4 : (is.p = 0 && !pm.onEmpty) = false := by
    rcases h3 with h3 | h3
    · simp only [Bool.and_eq_false_iff, decide_eq_false_iff_not]; exact .inl h3
    · simp [h3]
  unfold issueRaw
  simp only [h1, h2, h4, b]
  rfl

theorem issueRaw_error {pm : Perm} {h : Hdr} {len : Nat} {u : Uses} {s : State} {is : Iss} {e : Exc}
    {body : Iss → State → Res State} (r : s.ready pm h len u = some is) (b : body is s = .error e) :
    issueRaw pm h len u s body = .next (s.except is e) := by
  obtain ⟨h1, h2, h3⟩ := State.ready_view r
  have h4 : (is.p = 0 && !pm.onEmpty) = false := by
    rcases h3 with h3 | h3
    · simp only [Bool.and_eq_false_iff, decide_eq_false_iff_not]; exact .inl h3
    · simp [h3]
  unfold issueRaw
  simp only [h1, h2, h4, b]
  rfl

theorem issue_ready {pm : Perm} {h : Hdr} {len : Nat} {u : Uses} {s s' : State} {is : Iss} {body : Iss → State → Res State}
    (r : s.ready pm h len u = some is) (b : body is s = .ok s') :
    issue pm h len u s body = .next (s'.retire is) := by
  unfold issue
  exact issueRaw_ready r (by simp only [b]; rfl)

theorem issue_error {pm : Perm} {h : Hdr} {len : Nat} {u : Uses} {s : State} {is : Iss} {e : Exc}
    {body : Iss → State → Res State} (r : s.ready pm h len u = some is) (b : body is s = .error e) :
    issue pm h len u s body = .next (s.except is e) := by
  unfold issue
  exact issueRaw_error r (by simp only [b]; rfl)

/-- A check that fails sends the instruction elsewhere. -/
theorem issueRaw_check {pm : Perm} {h : Hdr} {len : Nat} {u : Uses} {s : State} {is : Iss} {e : Exc}
    {body : Iss → State → Res State} (r : s.iss? h len = some is) (c : is.check pm u = .error e) :
    issueRaw pm h len u s body = .next (s.except is e) := by
  unfold issueRaw; simp only [r, c]

/-- With no passing thread an instruction only moves on (R37). -/
theorem issueRaw_empty {pm : Perm} {h : Hdr} {len : Nat} {u : Uses} {s : State} {is : Iss}
    {body : Iss → State → Res State} (r : s.iss? h len = some is) (c : is.check pm u = .ok ()) (p : is.p = 0)
    (e : pm.onEmpty = false) : issueRaw pm h len u s body = .next (s.retire is) := by
  unfold issueRaw; simp only [r, c, p, e]; rfl

/-- Where no agent issues, nothing happens. -/
theorem issueRaw_none {pm : Perm} {h : Hdr} {len : Nat} {u : Uses} {s : State} {body : Iss → State → Res State}
    (r : s.iss? h len = none) : issueRaw pm h len u s body = .next s := by
  unfold issueRaw; simp only [r]

/-! ## Moving on -/

/-- The issuing context after the instruction has moved on. -/
def Ctx.moved (c : Ctx) (is : Iss) : Ctx :=
  let c := c.setPc is.fid (is.pc + BitVec.ofNat 64 is.len)
  Ctx.stepDone { c with
    pk := is.h.pk, skipBkpt := c.skipBkpt.filter (· ≠ is.fid), waits := c.countWaits is.fid, passed := 0 } is.fid

theorem State.ctx?_retire {t : State} {is : Iss} {c : Ctx} (h : t.ctx? is.a = some c) :
    (t.retire is).ctx? is.a = some (c.moved is) := by
  unfold State.retire State.advance State.afterIssue
  rw [State.ctx?_mapCtx_same, State.ctx?_mapCtx_same, h]
  rfl

theorem State.ctx?_retire_ne (t : State) (is : Iss) (b : Agent) (h : ctxKey b ≠ ctxKey is.a) :
    (t.retire is).ctx? b = t.ctx? b := by
  unfold State.retire State.advance State.afterIssue
  rw [State.ctx?_mapCtx_ne _ _ _ _ h, State.ctx?_mapCtx_ne _ _ _ _ h]

theorem State.mapCtx_rest (s : State) (a : Agent) (f : Ctx → Ctx) : (s.mapCtx a f).rest = s.rest := by
  unfold State.mapCtx; split <;> rfl
theorem State.setCtx_rest (s : State) (a : Agent) (c : Ctx) : (s.setCtx a c).rest = s.rest := rfl
theorem State.mapQuad_rest (s : State) (q : Nat) (f : Quad → Quad) : (s.mapQuad q f).rest = s.rest := rfl

theorem State.retire_rest (t : State) (is : Iss) : (t.retire is).rest = t.rest := by
  unfold State.retire State.advance State.afterIssue
  rw [State.mapCtx_rest, State.mapCtx_rest]
@[simp] theorem State.retire_quads (t : State) (is : Iss) : (t.retire is).quads = t.quads := by
  unfold State.retire State.advance State.afterIssue; simp
@[simp] theorem State.retire_mem (t : State) (is : Iss) : (t.retire is).mem = t.mem := by
  unfold State.retire State.advance State.afterIssue; simp

theorem Ctx.stepDone_rest (c : Ctx) (i : Nat) : (c.stepDone i).rest = c.rest := by
  unfold Ctx.stepDone; split <;> rfl
theorem Ctx.setPc_rest (c : Ctx) (i : Nat) (x : W64) : (c.setPc i x).rest = c.rest := by
  unfold Ctx.setPc; split <;> rfl
theorem Ctx.sset_rest (c : Ctx) (n : Nat) (x : W64) : (c.sset n x).rest = c.rest := by
  unfold Ctx.sset; split <;> rfl
theorem Ctx.kset_rest (c : Ctx) (n : Nat) (x : Lanes) : (c.kset n x).rest = c.rest := by
  unfold Ctx.kset; split <;> rfl
theorem Ctx.vset_rest (c : Ctx) (n l : Nat) (x : W32) : (c.vset n l x).rest = c.rest := rfl
theorem Ctx.raiseFlags_rest (c : Ctx) (l : Nat) (x : BitVec 5) : (c.raiseFlags l x).rest = c.rest := rfl

theorem Ctx.moved_rest (c : Ctx) (is : Iss) : (c.moved is).rest = c.rest := by
  unfold Ctx.moved
  rw [Ctx.stepDone_rest]
  exact Ctx.setPc_rest c is.fid _

@[simp] theorem Ctx.moved_s (c : Ctx) (is : Iss) : (c.moved is).s = c.s := by simp [Ctx.moved]
@[simp] theorem Ctx.moved_k (c : Ctx) (is : Iss) : (c.moved is).k = c.k := by simp [Ctx.moved]
@[simp] theorem Ctx.moved_v (c : Ctx) (is : Iss) : (c.moved is).v = c.v := by simp [Ctx.moved]
@[simp] theorem Ctx.moved_flags (c : Ctx) (is : Iss) : (c.moved is).flags = c.flags := by simp [Ctx.moved]
@[simp] theorem Ctx.moved_pend (c : Ctx) (is : Iss) : (c.moved is).pend = c.pend := by simp [Ctx.moved]
@[simp] theorem Ctx.moved_sget (c : Ctx) (is : Iss) (n : Nat) : (c.moved is).sget n = c.sget n := Ctx.sget_congr (by simp) n
@[simp] theorem Ctx.moved_kget (c : Ctx) (is : Iss) (n : Nat) : (c.moved is).kget n = c.kget n := Ctx.kget_congr (by simp) n
@[simp] theorem Ctx.moved_vget (c : Ctx) (is : Iss) (n l : Nat) : (c.moved is).vget n l = c.vget n l :=
  Ctx.vget_congr (by simp) n l
@[simp] theorem Ctx.moved_flag (c : Ctx) (is : Iss) (l : Nat) : (c.moved is).flag l = c.flag l := Ctx.flag_congr (by simp) l

theorem Ctx.moved_rec {c : Ctx} {is : Iss} (h : c.split = is.c.split) (hr : is.c.rec? is.fid = some is.fr) :
    (c.moved is).rec? is.fid = some { is.fr with pc := is.next } := by
  have h1 : c.rec? is.fid = some is.fr := by rw [Ctx.rec?_congr h]; exact hr
  have h2 := Ctx.rec?_setPc (is.pc + BitVec.ofNat 64 is.len) h1
  unfold Ctx.moved
  rw [Ctx.rec?_congr (Ctx.stepDone_split _ _)]
  exact h2

theorem Ctx.moved_rec_ne {c : Ctx} {is : Iss} (h : c.split = is.c.split) (j : Nat) (hj : j ≠ is.fid) :
    (c.moved is).rec? j = is.c.rec? j := by
  unfold Ctx.moved
  rw [Ctx.rec?_congr (Ctx.stepDone_split _ _)]
  have := Ctx.rec?_setPc_ne c is.fid j (is.pc + BitVec.ofNat 64 is.len) hj
  rw [← Ctx.rec?_congr h j]
  exact this

/-- Moving on from a state whose issuing context keeps its fragments. -/
theorem movesOn {s t : State} {pm : Perm} {h : Hdr} {len : Nat} {u : Uses} {is : Iss} {c : Ctx}
    (r : s.ready pm h len u = some is) (hc : t.ctx? is.a = some c) (hs : c.split = is.c.split)
    (ho : ∀ b, ctxKey b ≠ ctxKey is.a → t.ctx? b = s.ctx? b) : MovesOn s (t.retire is) is (c.moved is) := by
  obtain ⟨v, -, -⟩ := State.ready_view r
  obtain ⟨-, -, -, hr, -, -, -, -, -⟩ := State.iss?_view v
  refine ⟨State.ctx?_retire hc, Ctx.moved_rec hs hr, fun j hj => Ctx.moved_rec_ne hs j hj, fun b hb => ?_⟩
  rw [State.ctx?_retire_ne _ _ _ hb]
  exact ho b hb

/-! ## Writing registers -/

theorem State.dropSite_ctxs (s : State) (a : Agent) (n : Nat) (t : Tag) : (s.dropSite a n t).ctxs = s.ctxs := by
  unfold State.dropSite
  split
  · rfl
  · rfl
theorem State.dropSite_rest (s : State) (a : Agent) (n : Nat) (t : Tag) : (s.dropSite a n t).rest = s.rest := by
  unfold State.dropSite
  split
  · rfl
  · rfl

/-- Clearing a tag changes the agent's tags and the future's sites only (R365). -/
theorem State.clearTag_spec {s : State} {a : Agent} {c : Ctx} (n : Nat) (h : s.ctx? a = some c) :
    (∃ g, (s.clearTag a n).ctx? a = some { c with tags := g }) ∧ (s.clearTag a n).rest = s.rest ∧
      (∀ b, ctxKey b ≠ ctxKey a → (s.clearTag a n).ctx? b = s.ctx? b) ∧
      (c.tags.find n = none → s.clearTag a n = s) := by
  unfold State.clearTag
  simp only [h]
  cases ht : c.tags.find n with
  | none => exact ⟨⟨c.tags, h⟩, rfl, fun _ _ => rfl, fun _ => rfl⟩
  | some t =>
    refine ⟨⟨c.tags.del n, ?_⟩, ?_, fun b hb => ?_, fun x => by cases x⟩
    · rw [State.ctx?_congr (State.dropSite_ctxs _ _ _ _)]; simp
    · rw [State.dropSite_rest]; rfl
    · rw [State.ctx?_congr (State.dropSite_ctxs _ _ _ _)]; exact State.ctx?_setCtx_ne s a b _ hb

/-- Everything that writing a scalar register does. -/
theorem State.wrS_spec {s : State} {is : Iss} {c : Ctx} (d : RegNo) (v : W64) (h : s.ctx? is.a = some c) :
    (∃ g, (s.wrS is d v).ctx? is.a = some (Ctx.sset { c with tags := g } d.toNat v)) ∧ (s.wrS is d v).rest = s.rest ∧
      (∀ b, ctxKey b ≠ ctxKey is.a → (s.wrS is d v).ctx? b = s.ctx? b) ∧
      (c.tags.find d.toNat = none → (s.wrS is d v).quads = s.quads) := by
  obtain ⟨⟨g, h1⟩, h2, h3, h4⟩ := State.clearTag_spec d.toNat h
  unfold State.wrS
  refine ⟨⟨g, State.ctx?_mapCtx_some _ h1⟩, ?_, fun b hb => ?_, fun hn => ?_⟩
  · rw [State.mapCtx_rest]; exact h2
  · rw [State.ctx?_mapCtx_ne _ _ _ _ hb]; exact h3 b hb
  · rw [h4 hn]; simp

end Sys2Proof.Machine
end

