-- ==== Sys2Proof/Laws/Memory.lean ====
section
/-! SUPPORT. What the shared operations do to memory, the host's side and the ports, said once for each: those that leave them as
they are, and those that write memory and keep its canonical form. -/

namespace Sys2Proof.Machine

/-- What lies outside the agents and the caches: memory, the host's side, the Larlan ports. -/
def State.outer (s : State) : Memory × HostSide × AMap Port := (s.mem, s.host, s.ports)

theorem State.outer_mem {s t : State} (h : t.outer = s.outer) : t.mem = s.mem := congrArg (fun x => x.1) h
theorem State.outer_host {s t : State} (h : t.outer = s.outer) : t.host = s.host := congrArg (fun x => x.2.1) h
theorem State.outer_ports {s t : State} (h : t.outer = s.outer) : t.ports = s.ports := congrArg (fun x => x.2.2) h
theorem State.memOk_of_outer {s t : State} (h : t.outer = s.outer) (w : s.memOk) : t.memOk := by
  unfold State.memOk; rw [State.outer_mem h]; exact w

/-- A fold of an operation that leaves them leaves them. -/
theorem foldl_outer {α : Type} (f : State → α → State) (h : ∀ s x, (f s x).outer = s.outer) (l : List α) (s : State) :
    (l.foldl f s).outer = s.outer := by
  induction l generalizing s with
  | nil => rfl
  | cons x l ih => rw [List.foldl_cons, ih, h]

/-! ## Operations that leave them -/

@[simp] theorem State.setCtx_outer (s : State) (a : Agent) (c : Ctx) : (s.setCtx a c).outer = s.outer := rfl
@[simp] theorem State.mapCtx_outer (s : State) (a : Agent) (f : Ctx → Ctx) : (s.mapCtx a f).outer = s.outer := by
  unfold State.mapCtx; split <;> rfl
@[simp] theorem State.mapCore_outer (s : State) (k : Nat) (f : Core → Core) : (s.mapCore k f).outer = s.outer := rfl
@[simp] theorem State.mapQuad_outer (s : State) (k : Nat) (f : Quad → Quad) : (s.mapQuad k f).outer = s.outer := rfl
@[simp] theorem State.mapDie_outer (s : State) (k : Nat) (f : Die → Die) : (s.mapDie k f).outer = s.outer := rfl
@[simp] theorem State.mapPart_outer (s : State) (k : Nat) (f : Part → Part) : (s.mapPart k f).outer = s.outer := rfl
@[simp] theorem State.mapTeam_outer (s : State) (k : Nat) (f : Team → Team) : (s.mapTeam k f).outer = s.outer := by
  unfold State.mapTeam; split <;> rfl
@[simp] theorem State.mapGroup_outer (s : State) (k : Nat) (f : Group → Group) : (s.mapGroup k f).outer = s.outer := by
  unfold State.mapGroup; split <;> rfl
@[simp] theorem State.mapStoker_outer (s : State) (k : Nat) (f : Stoker → Stoker) : (s.mapStoker k f).outer = s.outer := by
  unfold State.mapStoker; first | rfl | (split <;> rfl)
@[simp] theorem State.fresh_outer (s : State) : s.fresh.2.outer = s.outer := rfl

@[simp] theorem State.advance_outer (s : State) (is : Iss) : (s.advance is).outer = s.outer := by simp [State.advance]
@[simp] theorem State.afterIssue_outer (s : State) (is : Iss) : (s.afterIssue is).outer = s.outer := by
  simp [State.afterIssue]
@[simp] theorem State.stopWave_outer (s : State) (a : Agent) (st : Stop) : (s.stopWave a st).outer = s.outer := by
  unfold State.stopWave; simp only [State.mapCtx_outer]; split <;> simp <;> rfl
@[simp] theorem State.parkAgent_outer (s : State) (is : Iss) (p : Park) : (s.parkAgent is p).outer = s.outer := by
  simp [State.parkAgent]
@[simp] theorem State.stopFailed_outer (s : State) (a : Agent) (id : Nat) : (s.stopFailed a id).outer = s.outer := by
  unfold State.stopFailed; split
  · rfl
  · split
    · rfl
    · simp
@[simp] theorem State.dropSite_outer (s : State) (a : Agent) (r : Nat) (t : Tag) : (s.dropSite a r t).outer = s.outer := by
  unfold State.dropSite; split <;> simp
@[simp] theorem State.clearTag_outer (s : State) (a : Agent) (r : Nat) : (s.clearTag a r).outer = s.outer := by
  unfold State.clearTag; split
  · rfl
  · split <;> simp
@[simp] theorem State.wrS_outer (s : State) (is : Iss) (d : RegNo) (v : W64) : (s.wrS is d v).outer = s.outer := by
  simp [State.wrS]
@[simp] theorem State.wrK_outer (s : State) (is : Iss) (d : RegNo) (v : Lanes) : (s.wrK is d v).outer = s.outer := by
  unfold State.wrK; split <;> simp
@[simp] theorem State.wrV_outer (s : State) (is : Iss) (wide : Bool) (d : RegNo) (l : List (Nat × Nat)) :
    (s.wrV is wide d l).outer = s.outer := by simp [State.wrV]
@[simp] theorem State.clearTags_outer (s : State) (a : Agent) (l : List RegWrite) : (s.clearTags a l).outer = s.outer := by
  unfold State.clearTags; exact foldl_outer _ (fun s w => by split <;> simp) l s
@[simp] theorem State.addPend_outer (s : State) (a : Agent) (p : Pend) : (s.addPend a p).outer = s.outer := by
  simp [State.addPend]
theorem State.pendS_outer {s t : State} {is : Iss} {k : Ctr} {d : RegNo} {v : W64} (h : s.pendS is k d v = .ok t) :
    t.outer = s.outer := by
  unfold State.pendS at h
  cases hr : is.room k with
  | error e => rw [hr] at h; cases h
  | ok _ => rw [hr] at h; cases h; simp only [State.addPend_outer]; rfl
theorem State.pendV_outer {s t : State} {is : Iss} {k : Ctr} {w : Bool} {d : RegNo} {l : List (Nat × Nat)}
    (h : s.pendV is k w d l = .ok t) : t.outer = s.outer := by
  unfold State.pendV at h
  cases hr : is.room k with
  | error e => rw [hr] at h; cases h
  | ok _ => rw [hr] at h; cases h; simp only [State.addPend_outer]; rfl
@[simp] theorem State.userTrap_outer (s : State) (a : Agent) (fid : Nat) (pc next : W64) (lanes : Lanes) (cause : BitVec 5)
    (dst : BitVec 8) (precise : Bool) : (s.userTrap a fid pc next lanes cause dst precise).outer = s.outer := by
  unfold State.userTrap; split
  · rfl
  · split <;> simp
@[simp] theorem State.trapReturn_outer (s : State) (a : Agent) : (s.trapReturn a).outer = s.outer := by
  simp [State.trapReturn]

/-! ### Caches -/

@[simp] theorem State.send_outer (s : State) (r : Req) (l : List Nat) : (s.send r l).outer = s.outer := rfl
@[simp] theorem State.llcPut_outer (s : State) (l : LlcLine) : (s.llcPut l).outer = s.outer := rfl
@[simp] theorem State.llcDel_outer (s : State) (l : LlcLine) : (s.llcDel l).outer = s.outer := rfl
@[simp] theorem State.noFill_outer (s : State) (core : Nat) (p : Nat → Bool) : (s.noFill core p).outer = s.outer := rfl
@[simp] theorem State.writeBack_outer (s : State) (core : Nat) (l : L1Line) (after : List Nat) :
    (s.writeBack core l after).outer = s.outer := by
  unfold State.writeBack; dsimp only; split <;> rfl
@[simp] theorem State.sendCopy_outer (s : State) (l : LlcLine) : (s.sendCopy l).outer = s.outer := by
  unfold State.sendCopy; split <;> rfl
@[simp] theorem State.copyOut_outer (s : State) (die part line gen : Nat) : (s.copyOut die part line gen).outer = s.outer := by
  unfold State.copyOut; split <;> simp
@[simp] theorem State.copyMerge_outer (s : State) (r : Req) (k : LlcLine) : (s.copyMerge r k).outer = s.outer := by
  unfold State.copyMerge; split <;> rfl
@[simp] theorem State.l1Evict_outer (s : State) (core : Nat) (l : L1Line) : (s.l1Evict core l).outer = s.outer := by
  simp [State.l1Evict]
@[simp] theorem State.l1Clear_outer (s : State) (core line gen : Nat) : (s.l1Clear core line gen).outer = s.outer := by
  unfold State.l1Clear; split
  · split <;> simp
  · rfl
@[simp] theorem State.l1Room_outer (s : State) (core line : Nat) : (s.l1Room core line).outer = s.outer := by
  unfold State.l1Room; split <;> simp
@[simp] theorem State.l1Store_outer (s : State) (core line gen ch : Nat) (mask : BitVec 128) (data : BitVec 1024)
    (who : Who) : (s.l1Store core line gen ch mask data who).outer = s.outer := by
  unfold State.l1Store; split <;> simp
@[simp] theorem State.l1FillLine_outer (s : State) (core line gen ch : Nat) (data : BitVec 1024) :
    (s.l1FillLine core line gen ch data).outer = s.outer := by
  unfold State.l1FillLine; split <;> simp
@[simp] theorem State.refresh_outer (s : State) (core : Nat) : (s.refresh core).outer = s.outer := by simp [State.refresh]
@[simp] theorem State.acquire_outer (s : State) (a : Agent) (sc : Nat) : (s.acquire a sc).outer = s.outer := by
  unfold State.acquire; split <;> simp
@[simp] theorem State.publishLines_outer (s : State) (core : Nat) (p : Nat → Bool) :
    (s.publishLines core p).outer = s.outer := by
  unfold State.publishLines; simp only [State.noFill_outer, State.mapCore_outer]
  exact foldl_outer _ (fun s x => State.writeBack_outer s core x []) _ s
@[simp] theorem State.drainWc_outer (s : State) (core : Nat) (p : Nat → Bool) : (s.drainWc core p).outer = s.outer := by
  unfold State.drainWc; simp only [State.mapCore_outer]
  exact foldl_outer _ (fun s x => State.send_outer _ _ _) _ s
@[simp] theorem State.release_outer (s : State) (a : Agent) (sc : Nat) : (s.release a sc).1.outer = s.outer := by
  unfold State.release; dsimp only; split <;> simp

/-! ### Issue -/

@[simp] theorem State.holdFetch_outer (s : State) (w : Who) (va code kind : Nat) :
    (s.holdFetch w va code kind).outer = s.outer := by
  unfold State.holdFetch; split <;> rfl
@[simp] theorem State.except_outer (s : State) (is : Iss) (e : Exc) : (s.except is e).outer = s.outer := by
  cases e
  case drain => rw [State.except, foldl_outer _ (fun s l => State.l1Evict_outer s _ l), State.drainWc_outer]
  all_goals simp [State.except]

/-- An issue leaves them where its body does. -/
theorem issueRaw_outer {pm : Perm} {h : Hdr} {len : Nat} {u : Uses} {s t : State} {body : Iss → State → Res State}
    (b : ∀ is s', body is s = .ok s' → s'.outer = s.outer) (r : issueRaw pm h len u s body = .next t) :
    t.outer = s.outer := by
  unfold issueRaw at r
  split at r
  · cases r; rfl
  · split at r
    · cases r; simp
    · split at r
      · cases r; simp
      · split at r
        · cases r; simp
        · rename_i hb; cases r; simpa using b _ _ hb
theorem issue_outer {pm : Perm} {h : Hdr} {len : Nat} {u : Uses} {s t : State} {body : Iss → State → Res State}
    (b : ∀ is s', body is s = .ok s' → s'.outer = s.outer) (r : issue pm h len u s body = .next t) : t.outer = s.outer := by
  refine issueRaw_outer (fun is s' hs => ?_) r
  cases hb : body is s with
  | error e => rw [hb] at hs; cases hs
  | ok x => rw [hb] at hs; cases hs; simpa using b _ _ hb

/-- An issue keeps the canonical form of memory where its body does. -/
theorem issueRaw_memOk {pm : Perm} {h : Hdr} {len : Nat} {u : Uses} {s t : State} {body : Iss → State → Res State}
    (b : ∀ is s', body is s = .ok s' → s'.memOk) (w : s.memOk) (r : issueRaw pm h len u s body = .next t) : t.memOk := by
  unfold issueRaw at r
  split at r
  · cases r; exact w
  · split at r
    · cases r; exact State.memOk_of_outer (by simp) w
    · split at r
      · cases r; exact State.memOk_of_outer (by simp) w
      · split at r
        · cases r; exact State.memOk_of_outer (by simp) w
        · rename_i hb; cases r; exact State.memOk_of_outer (by simp) (b _ _ hb)
theorem issue_memOk {pm : Perm} {h : Hdr} {len : Nat} {u : Uses} {s t : State} {body : Iss → State → Res State}
    (b : ∀ is s', body is s = .ok s' → s'.memOk) (w : s.memOk) (r : issue pm h len u s body = .next t) : t.memOk := by
  refine issueRaw_memOk (fun is s' hs => ?_) w r
  cases hb : body is s with
  | error e => rw [hb] at hs; cases hs
  | ok x => rw [hb] at hs; cases hs; exact State.memOk_of_outer (by simp) (b _ _ hb)
/-- An event keeps it where its next state does. -/
theorem event_memOk {s t : State} {r : Option State} (b : ∀ s', r = some s' → s'.memOk) (w : s.memOk)
    (h : event s r = .next t) : t.memOk := by
  unfold event at h
  cases r with
  | none => cases h; exact w
  | some x => cases h; exact b x rfl

/-! ### Futures and outstanding results -/

theorem State.takeFut_outer {s t : State} {is : Iss} {d : RegNo} {kind sc op q k : Nat}
    (h : s.takeFut is d kind sc op = .ok (t, q, k)) : t.outer = s.outer := by
  unfold State.takeFut at h
  cases hr : is.room .ec with
  | error e => rw [hr] at h; cases h
  | ok _ =>
    rw [hr] at h
    simp only [bind, Except.bind] at h
    split at h
    · cases h
    · cases h; simp
@[simp] theorem State.sendSite_outer (s : State) (quad part x : Nat) (w : Who) (h : W64) :
    (s.sendSite quad part x w h).outer = s.outer := rfl
@[simp] theorem State.hearTasks_outer (s : State) (h : Nat × Nat × Nat) (ok : Bool) : (s.hearTasks h ok).outer = s.outer := rfl
@[simp] theorem State.hearImages_outer (s : State) (x : Nat × Nat × Nat) (h : W64) (flags : BitVec 5) (stale : Bool) :
    (s.hearImages x h flags stale).outer = s.outer := rfl
@[simp] theorem State.resolve_outer (s : State) (ft : Option (Nat × Nat)) (status code : Nat) (flags : BitVec 5)
    (stale : Bool) : (s.resolve ft status code flags stale).outer = s.outer := by
  unfold State.resolve; split
  · rfl
  · split
    · rfl
    · dsimp only
      rw [State.hearImages_outer, State.hearTasks_outer, State.mapQuad_outer,
        foldl_outer _ (fun s x => State.mapStoker_outer _ _ _),
        foldl_outer _ (fun s x => by split <;> simp)]
@[simp] theorem State.resolve0_outer (s : State) (ft : Option (Nat × Nat)) (status code : Nat) :
    (s.resolve0 ft status code).outer = s.outer := by simp [State.resolve0]
theorem State.instantFut_outer {s t : State} {is : Iss} {d : RegNo} {kind sc status code : Nat}
    (h : s.instantFut is d kind sc status code = .ok t) : t.outer = s.outer := by
  unfold State.instantFut at h
  cases hr : s.takeFut is d kind sc 0 with
  | error e => rw [hr] at h; cases h
  | ok x =>
    obtain ⟨u, q, k⟩ := x
    rw [hr] at h; cases h
    simpa using State.takeFut_outer hr
@[simp] theorem State.mapPend_outer (s : State) (a : Agent) (id : Nat) (f : Pend → Pend) :
    (s.mapPend a id f).outer = s.outer := by simp [State.mapPend]
@[simp] theorem State.dropReq_outer (s : State) (r : Req) : (s.dropReq r).outer = s.outer := by
  unfold State.dropReq; dsimp only; split
  · rfl
  · simp only [State.mapPend_outer]; rfl
@[simp] theorem State.complete_outer (s : State) (r : Req) (l : List Byte) : (s.complete r l).outer = s.outer := by
  unfold State.complete; dsimp only; split <;> simp
@[simp] theorem State.stopFor_outer (s : State) (a : Agent) (pc : W64) (f : Failure) : (s.stopFor a pc f).outer = s.outer := by
  simp [State.stopFor]
@[simp] theorem State.failReq_outer (s : State) (r : Req) (code addr : Nat) : (s.failReq r code addr).outer = s.outer := by
  unfold State.failReq; split
  · split
    · rfl
    · simp
  · simp
  · simp
  · simp
  · split
    · dsimp only; split <;> simp
    · dsimp only; split
      · simp
      · simp only [State.dropReq_outer, State.mapCtx_outer]; split <;> simp
@[simp] theorem State.setStale_outer (s : State) (a : Agent) : (s.setStale a).outer = s.outer := by simp [State.setStale]
@[simp] theorem State.markStale_outer (s : State) (is : Iss) (b : Bool) : (s.markStale is b).outer = s.outer := by
  unfold State.markStale; split <;> simp
@[simp] theorem State.bump_outer (s : State) (part unit va : Nat) : (s.bump part unit va).outer = s.outer := by
  unfold State.bump; split <;> simp
@[simp] theorem State.wakeWait_outer (s : State) (a : Agent) (op : ReqOp) (len v : Nat) :
    (s.wakeWait a op len v).outer = s.outer := by
  unfold State.wakeWait; dsimp only; rw [State.mapCtx_outer]; split <;> simp
@[simp] theorem State.l1Renew_outer (s : State) (core line : Nat) : (s.l1Renew core line).outer = s.outer := by
  unfold State.l1Renew
  exact foldl_outer _ (fun s l => State.l1Evict_outer s core l) _ s
@[simp] theorem State.wakeWaiter_outer (s : State) (w : Waiter) (v : Nat) : (s.wakeWaiter w v).outer = s.outer := by
  unfold State.wakeWaiter; rw [State.wakeWait_outer, State.l1Renew_outer]; rfl
@[simp] theorem State.failWaiter_outer (s : State) (w : Waiter) (code addr : Nat) : (s.failWaiter w code addr).outer = s.outer := by
  unfold State.failWaiter; rw [State.mapCtx_outer]; rfl
theorem State.tryWaiter_outer {s t : State} {w : Waiter} (h : s.tryWaiter w = some t) : t.outer = s.outer := by
  unfold State.tryWaiter at h
  split at h
  · split at h
    · cases h; simp
    · cases h
  · split at h
    · cases h; simp
    · simp only [Option.map_eq_some_iff] at h
      obtain ⟨v, -, rfl⟩ := h; simp
@[simp] theorem State.wakeLine_outer (s : State) (part line : Nat) : (s.wakeLine part line).outer = s.outer := by
  unfold State.wakeLine
  refine foldl_outer _ (fun s w => ?_) _ s
  cases h : s.tryWaiter w with
  | none => rfl
  | some t => exact State.tryWaiter_outer h

/-! ## Operations that write memory, or use a port -/

/-- An access over a link changes the ports alone. -/
theorem State.overLink_spec {s t : State} {part unit : Nat} {reads : Bool} (h : s.overLink part unit reads = some t) :
    t = { s with ports := t.ports } := by
  unfold State.overLink at h
  split at h
  · cases h; rfl
  · split at h
    · cases h
    · cases h; rfl
/-- So does any access that the device makes to a home. -/
theorem State.reach_spec {s t : State} {part va : Nat} {reads : Bool} (h : s.reach part va reads = some t) :
    t = { s with ports := t.ports } := by
  unfold State.reach at h
  split at h
  · cases h
  · exact State.overLink_spec h
theorem State.overLink_memOk {s t : State} {part unit : Nat} {reads : Bool} (h : s.overLink part unit reads = some t) (w : s.memOk) :
    t.memOk := by
  rw [State.overLink_spec h]; exact w
theorem State.reach_memOk {s t : State} {part va : Nat} {reads : Bool} (h : s.reach part va reads = some t) (w : s.memOk) : t.memOk := by
  rw [State.reach_spec h]; exact w
theorem State.readLink_memOk {s t : State} {die part line gen : Nat} (h : s.readLink die part line gen = some t) (w : s.memOk) :
    t.memOk := by
  unfold State.readLink at h
  split at h
  · cases h; exact w
  · exact State.reach_memOk h w

/-- A masked write of a line keeps the canonical form. -/
theorem maskWrite_wf (m : Memory) (pa : Nat) (mask : BitVec 128) (data : BitVec 1024) (w : m.wf = true) :
    (maskWrite m pa mask data).wf = true := by
  unfold maskWrite
  generalize onesBelow mask.toNat 128 = l
  induction l generalizing m with
  | nil => exact w
  | cons i l ih => exact ih _ (Memory.wf_set m _ _ w)
theorem State.hbmWrite_memOk (s : State) (part line pa : Nat) (mask : BitVec 128) (data : BitVec 1024) (w : s.memOk) :
    (s.hbmWrite part line pa mask data).memOk := by
  unfold State.hbmWrite; split
  · exact maskWrite_wf _ _ _ _ w
  · exact maskWrite_wf _ _ _ _ w
@[simp] theorem State.hotRoom_outer (s : State) (l : LlcLine) : (s.hotRoom l).outer = s.outer := by
  unfold State.hotRoom; dsimp only; split <;> rfl
@[simp] theorem State.llcHit_outer (s : State) (l : LlcLine) : (s.llcHit l).outer = s.outer := by
  unfold State.llcHit; split
  · simp
  · split <;> simp
theorem State.llcEvict_memOk (s : State) (l : LlcLine) (w : s.memOk) : (s.llcEvict l).memOk := by
  unfold State.llcEvict; split
  · exact w
  · split
    · split
      · exact w
      · have := State.hbmWrite_memOk (s.llcDel l) l.part l.line (leafPa (by assumption) (l.line * 128)) l.dirty l.data w
        dsimp only; split
        · exact this
        · exact this
    · exact State.memOk_of_outer (t := (s.llcDel l).sendCopy l) (by simp) w
theorem State.llcRoom_memOk {s t : State} {unit part line : Nat} (h : s.llcRoom unit part line = some t) (w : s.memOk) :
    t.memOk := by
  unfold State.llcRoom at h; dsimp only at h
  split at h
  · simp only [Option.map_eq_some_iff] at h
    obtain ⟨v, -, rfl⟩ := h
    exact State.llcEvict_memOk _ _ w
  · split at h
    · cases h; exact w
    · simp only [Option.map_eq_some_iff] at h
      obtain ⟨v, -, rfl⟩ := h
      exact State.llcEvict_memOk _ _ w
theorem State.homeTouch_memOk (s : State) (unit part line gen pa : Nat) (w : s.memOk) :
    (s.homeTouch unit part line gen pa).memOk := by
  unfold State.homeTouch; split
  · exact State.memOk_of_outer (State.llcHit_outer s _) w
  · split
    · exact w
    · rename_i h
      split at h
      · have := State.llcRoom_memOk h w; exact this
      · cases h
theorem State.homeMerge_memOk (s : State) (unit part line gen pa : Nat) (mask : BitVec 128) (data : BitVec 1024) (w : s.memOk) :
    (s.homeMerge unit part line gen pa mask data).memOk := by
  unfold State.homeMerge; dsimp only; split
  · split
    · exact w
    · exact w
  · apply State.hbmWrite_memOk
    split <;> exact w
theorem State.homeWrite_memOk (s : State) (unit part line gen pa typ : Nat) (mask : BitVec 128) (data : BitVec 1024)
    (w : s.memOk) : (s.homeWrite unit part line gen pa typ mask data).memOk := by
  unfold State.homeWrite; split
  · exact w
  · split
    · exact State.memOk_of_outer (by simp) (State.homeMerge_memOk _ unit part line gen pa mask data
        (State.homeTouch_memOk s unit part line gen pa w))
    · exact State.hbmWrite_memOk _ _ _ _ _ _ w

/-- A fold that may fail keeps what each of its steps keeps. -/
theorem foldlM_keeps {ε α β : Type} (P : β → Prop) (f : β → α → Except ε β) (h : ∀ b x b', P b → f b x = .ok b' → P b')
    (l : List α) (b b' : β) (hb : P b) (r : l.foldlM f b = .ok b') : P b' := by
  induction l generalizing b with
  | nil => cases r; exact hb
  | cons x l ih =>
    rw [List.foldlM_cons] at r
    cases hx : f b x with
    | error e => rw [hx] at r; cases r
    | ok y => rw [hx] at r; exact ih y (h b x y hb hx) r
theorem exceptMap_ok {ε α β : Type} {f : α → β} {x : Except ε α} {y : β} (h : x.map f = .ok y) :
    ∃ a, x = .ok a ∧ f a = y := by
  cases x with
  | error e => cases h
  | ok a => cases h; exact ⟨a, rfl, rfl⟩
theorem State.homePut_memOk {s t : State} {part gen va : Nat} {l : List Byte} (h : s.homePut part gen va l = .ok t)
    (w : s.memOk) : t.memOk := by
  unfold State.homePut at h
  obtain ⟨x, hr, rfl⟩ := exceptMap_ok h
  refine foldlM_keeps (fun x : State × List Byte => x.1.memOk) _ (fun b y b' hb hy => ?_) _ (s, l) x w hr
  obtain ⟨line, off, m⟩ := y
  dsimp only at hy
  split at hy
  · cases hy
  · split at hy
    · cases hy
    · rename_i ho; cases hy; exact State.homeWrite_memOk _ _ _ _ _ _ _ _ _ (State.reach_memOk ho hb)
theorem State.homePutRows_memOk {s t : State} {part : Nat} {gens : Nat → Nat} {rows : List (Nat × List Byte)}
    (h : s.homePutRows part gens rows = .ok t) (w : s.memOk) : t.memOk := by
  unfold State.homePutRows at h
  refine foldlM_keeps State.memOk _ (fun b y b' hb hy => ?_) _ _ _ w h
  dsimp only at hy
  split at hy
  · cases hy; exact hb
  · split at hy
    · cases hy
    · split at hy
      · cases hy
      · rename_i ho; cases hy; exact State.homeWrite_memOk _ _ _ _ _ _ _ _ _ (State.reach_memOk ho hb)
theorem State.missRead_memOk (s : State) (die part line gen pa : Nat) (shared : Bool) (w : s.memOk) :
    (s.missRead die part line gen pa shared).2.2.memOk := by
  have hh := State.homeTouch_memOk s (s.unitOf part (line * 128)) part line gen pa w
  unfold State.missRead; dsimp only; split
  · split
    · exact State.memOk_of_outer (State.llcHit_outer s _) w
    · split
      · exact hh
      · split
        · exact hh
        · rename_i h; have := State.llcRoom_memOk h hh; exact this
  · exact hh
theorem State.engineRead_memOk {s : State} {die part gen va n : Nat} {x : List Byte × Bool × State}
    (h : s.engineRead die part gen va n = .ok x) (w : s.memOk) : x.2.2.memOk := by
  unfold State.engineRead at h; split at h
  · cases h; exact w
  · obtain ⟨y, hr, rfl⟩ := exceptMap_ok h
    refine foldlM_keeps (fun x : List Byte × State => x.2.memOk) _ (fun b y b' hb hy => ?_) _ ([], s) y w hr
    obtain ⟨line, off, m⟩ := y
    dsimp only at hy
    split at hy
    · cases hy
    · split at hy
      · cases hy
      · rename_i ho
        split at hy
        · cases hy
        · cases hy; exact State.missRead_memOk _ _ _ _ _ _ _ (State.readLink_memOk ho hb)
theorem State.engineWrite_memOk {s t : State} {part gen va : Nat} {l : List Byte} (h : s.engineWrite part gen va l = .ok t)
    (w : s.memOk) : t.memOk := by
  unfold State.engineWrite at h; split at h
  · cases h; exact w
  · exact State.homePut_memOk h w
theorem State.readRange_memOk {s : State} {core va n : Nat} {gen : Nat → Nat} {x : List Byte × Bool × State}
    (h : s.readRange core gen va n = .ok x) (w : s.memOk) : x.2.2.memOk := by
  unfold State.readRange at h
  refine foldlM_keeps (fun x : List Byte × Bool × State => x.2.2.memOk) _ (fun b y b' hb hy => ?_) _ ([], false, s) x w h
  obtain ⟨z, hz, rfl⟩ := exceptMap_ok hy
  have := State.engineRead_memOk hz hb
  exact this
theorem State.writeRange_memOk {s t : State} {core va : Nat} {gen : Nat → Nat} {l : List Byte}
    (h : s.writeRange core gen va l = .ok t) (w : s.memOk) : t.memOk := by
  unfold State.writeRange at h
  exact foldlM_keeps State.memOk _ (fun b y b' hb hy => State.engineWrite_memOk hy hb) _ _ _ w h
/-- A view of a record changes the ports alone, and so does a record read. -/
theorem State.viewLine_spec {s : State} {core part gen line off m : Nat} {x : List Byte × State}
    (h : s.viewLine core part gen line off m = .ok x) : x.2 = { s with ports := x.2.ports } := by
  unfold State.viewLine at h; dsimp only at h
  split at h
  · split at h
    · cases h
    · cases h; rfl
  · split at h
    · split at h
      · cases h
      · cases h; rfl
    · split at h
      · cases h
      · cases h
      · rename_i hr; cases h; exact State.reach_spec hr
theorem State.viewRead_spec {s : State} {core part gen va n : Nat} {x : List Byte × Bool × State}
    (h : s.viewRead core part gen va n = .ok x) : x.2.2 = { s with ports := x.2.2.ports } := by
  unfold State.viewRead at h; split at h
  · cases h; rfl
  · obtain ⟨y, hr, rfl⟩ := exceptMap_ok h
    refine foldlM_keeps (fun x : List Byte × State => x.2 = { s with ports := x.2.ports }) _ (fun b z b' hb hy => ?_) _ ([], s) y rfl hr
    obtain ⟨w, hw, rfl⟩ := exceptMap_ok hy
    have := State.viewLine_spec hw
    dsimp only at this ⊢
    rw [this, hb]
theorem State.viewPieces_spec {s : State} {core part : Nat} {l : List (Route × Nat)} {x : List Byte × Bool × State}
    (h : s.viewPieces core part l = .ok x) : x.2.2 = { s with ports := x.2.2.ports } := by
  unfold State.viewPieces at h
  refine foldlM_keeps (fun x : List Byte × Bool × State => x.2.2 = { s with ports := x.2.2.ports }) _ (fun b z b' hb hy => ?_) _
    ([], false, s) x rfl h
  obtain ⟨w, hw, rfl⟩ := exceptMap_ok hy
  have := State.viewRead_spec hw
  dsimp only at this ⊢
  rw [this, hb]
theorem State.readRecord_spec {s : State} {is : Iss} {va : W64} {n align : Nat} {x : List Byte × Bool × State}
    (h : s.readRecord is va n align = .ok x) : x.2.2 = { s with ports := x.2.2.ports } := by
  unfold State.readRecord at h
  simp only [bind, Except.bind] at h
  split at h
  · cases h
  · split at h
    · cases h; rfl
    · split at h
      · cases h
      · split at h
        · cases h
        · split at h
          · cases h
          · split at h
            · rename_i hv; cases h; exact State.viewPieces_spec hv
            · split at h
              · cases h
              · split at h <;> cases h
theorem State.withFetchWord_memOk (s : State) (nbits x : Nat) (w : s.memOk) : (s.withFetchWord nbits x).memOk := by
  unfold State.withFetchWord; split
  · exact w
  · dsimp only; split
    · exact w
    · split
      · exact w
      · have := State.homeMerge_memOk s; exact this _ _ _ _ _ _ _ w

end Sys2Proof.Machine
end

