-- ==== Sys2Proof/Laws/PerInstr.lean ====
section
/-! SUPPORT. Per instruction: an instruction that has an encoding is encoded with its own class and operation, and with the length
that R40 gives that operation. -/

namespace Sys2Proof.Laws

/-- The fields of an instruction carry a length code other than 11 and the length that its class lists for its operation (R27, R40). -/
def EncodeFits.Statement (i : Instr) : Prop :=
  ∀ f, i.fields = some f → f.len ≠ 3 ∧ (classLens f.cls.toNat).bind (fun l => l[f.op.toNat]?) = some (lenBytes f.len)

theorem lenCode_ne (n : Nat) : lenCode n ≠ 3 := by
  unfold lenCode; split <;> decide

theorem EncodeFits.of {f : Fields} (h : f.len ≠ 3)
    (e : (classLens f.cls.toNat).bind (fun l => l[f.op.toNat]?) = some (lenBytes f.len)) :
    f.len ≠ 3 ∧ (classLens f.cls.toNat).bind (fun l => l[f.op.toNat]?) = some (lenBytes f.len) := ⟨h, e⟩

theorem EncodeFits.pad4 : EncodeFits.Statement .pad4 := by
  intro f h; cases h
theorem EncodeFits.sMov (h : Hdr) (d : RegNo) (a : RegNo) : EncodeFits.Statement (.sMov h d a) := by
  intro f h; cases h; exact EncodeFits.of (show lenCode 8 ≠ 3 from lenCode_ne _) rfl
theorem EncodeFits.sMovi (h : Hdr) (sub : BitVec 2) (d : RegNo) (imm : BitVec 32) : EncodeFits.Statement (.sMovi h sub d imm) := by
  intro f h; cases h; exact EncodeFits.of (show lenCode 12 ≠ 3 from lenCode_ne _) rfl
theorem EncodeFits.sAdd (h : Hdr) (d : RegNo) (a : RegNo) (src : Src) : EncodeFits.Statement (.sAdd h d a src) := by
  intro f h; cases h; exact EncodeFits.of (show lenCode 8 ≠ 3 from lenCode_ne _) rfl
theorem EncodeFits.sSub (h : Hdr) (d : RegNo) (a : RegNo) (src : Src) : EncodeFits.Statement (.sSub h d a src) := by
  intro f h; cases h; exact EncodeFits.of (show lenCode 8 ≠ 3 from lenCode_ne _) rfl
theorem EncodeFits.sMul (h : Hdr) (sub : BitVec 2) (d : RegNo) (a : RegNo) (src : Src) : EncodeFits.Statement (.sMul h sub d a src) := by
  intro f h; cases h; exact EncodeFits.of (show lenCode 8 ≠ 3 from lenCode_ne _) rfl
theorem EncodeFits.sDiv (h : Hdr) (sub : BitVec 2) (d : RegNo) (a : RegNo) (src : Src) : EncodeFits.Statement (.sDiv h sub d a src) := by
  intro f h; cases h; exact EncodeFits.of (show lenCode 8 ≠ 3 from lenCode_ne _) rfl
theorem EncodeFits.sAnd (h : Hdr) (d : RegNo) (a : RegNo) (src : Src) : EncodeFits.Statement (.sAnd h d a src) := by
  intro f h; cases h; exact EncodeFits.of (show lenCode 8 ≠ 3 from lenCode_ne _) rfl
theorem EncodeFits.sOr (h : Hdr) (d : RegNo) (a : RegNo) (src : Src) : EncodeFits.Statement (.sOr h d a src) := by
  intro f h; cases h; exact EncodeFits.of (show lenCode 8 ≠ 3 from lenCode_ne _) rfl
theorem EncodeFits.sXor (h : Hdr) (d : RegNo) (a : RegNo) (src : Src) : EncodeFits.Statement (.sXor h d a src) := by
  intro f h; cases h; exact EncodeFits.of (show lenCode 8 ≠ 3 from lenCode_ne _) rfl
theorem EncodeFits.sShl (h : Hdr) (d : RegNo) (a : RegNo) (src : Src) : EncodeFits.Statement (.sShl h d a src) := by
  intro f h; cases h; exact EncodeFits.of (show lenCode 8 ≠ 3 from lenCode_ne _) rfl
theorem EncodeFits.sShr (h : Hdr) (d : RegNo) (a : RegNo) (src : Src) : EncodeFits.Statement (.sShr h d a src) := by
  intro f h; cases h; exact EncodeFits.of (show lenCode 8 ≠ 3 from lenCode_ne _) rfl
theorem EncodeFits.sSra (h : Hdr) (d : RegNo) (a : RegNo) (src : Src) : EncodeFits.Statement (.sSra h d a src) := by
  intro f h; cases h; exact EncodeFits.of (show lenCode 8 ≠ 3 from lenCode_ne _) rfl
theorem EncodeFits.sMin (h : Hdr) (sub : BitVec 2) (d : RegNo) (a : RegNo) (src : Src) : EncodeFits.Statement (.sMin h sub d a src) := by
  intro f h; cases h; exact EncodeFits.of (show lenCode 8 ≠ 3 from lenCode_ne _) rfl
theorem EncodeFits.sMax (h : Hdr) (sub : BitVec 2) (d : RegNo) (a : RegNo) (src : Src) : EncodeFits.Statement (.sMax h sub d a src) := by
  intro f h; cases h; exact EncodeFits.of (show lenCode 8 ≠ 3 from lenCode_ne _) rfl
theorem EncodeFits.sCmp (h : Hdr) (cond : BitVec 4) (d : RegNo) (a : RegNo) (src : Src) : EncodeFits.Statement (.sCmp h cond d a src) := by
  intro f h; cases h; exact EncodeFits.of (show lenCode 8 ≠ 3 from lenCode_ne _) rfl
theorem EncodeFits.sSel (h : Hdr) (d : RegNo) (a : RegNo) (b : RegNo) (c : RegNo) : EncodeFits.Statement (.sSel h d a b c) := by
  intro f h; cases h; exact EncodeFits.of (show lenCode 8 ≠ 3 from lenCode_ne _) rfl
theorem EncodeFits.sClz (h : Hdr) (sub : BitVec 2) (d : RegNo) (a : RegNo) : EncodeFits.Statement (.sClz h sub d a) := by
  intro f h; cases h; exact EncodeFits.of (show lenCode 8 ≠ 3 from lenCode_ne _) rfl
theorem EncodeFits.sPopc (h : Hdr) (sub : BitVec 2) (d : RegNo) (a : RegNo) : EncodeFits.Statement (.sPopc h sub d a) := by
  intro f h; cases h; exact EncodeFits.of (show lenCode 8 ≠ 3 from lenCode_ne _) rfl
theorem EncodeFits.sBfx (h : Hdr) (sub : BitVec 2) (d : RegNo) (a : RegNo) (src : Src) : EncodeFits.Statement (.sBfx h sub d a src) := by
  intro f h; cases h; exact EncodeFits.of (show lenCode 8 ≠ 3 from lenCode_ne _) rfl
theorem EncodeFits.sLea (h : Hdr) (d : RegNo) (a : RegNo) (b : RegNo) (sh : BitVec 6) (imm : BitVec 32) : EncodeFits.Statement (.sLea h d a b sh imm) := by
  intro f h; cases h; exact EncodeFits.of (show lenCode 12 ≠ 3 from lenCode_ne _) rfl
theorem EncodeFits.sRdsr (h : Hdr) (d : RegNo) (a : RegNo) : EncodeFits.Statement (.sRdsr h d a) := by
  intro f h; cases h; exact EncodeFits.of (show lenCode 8 ≠ 3 from lenCode_ne _) rfl
theorem EncodeFits.sWrsr (h : Hdr) (d : RegNo) (a : RegNo) : EncodeFits.Statement (.sWrsr h d a) := by
  intro f h; cases h; exact EncodeFits.of (show lenCode 8 ≠ 3 from lenCode_ne _) rfl
theorem EncodeFits.sMovc (h : Hdr) (sub : BitVec 2) (d : RegNo) (a : RegNo) : EncodeFits.Statement (.sMovc h sub d a) := by
  intro f h; cases h; exact EncodeFits.of (show lenCode 8 ≠ 3 from lenCode_ne _) rfl
theorem EncodeFits.sRdk (h : Hdr) (d : RegNo) (a : RegNo) : EncodeFits.Statement (.sRdk h d a) := by
  intro f h; cases h; exact EncodeFits.of (show lenCode 8 ≠ 3 from lenCode_ne _) rfl
theorem EncodeFits.sWrk (h : Hdr) (d : RegNo) (a : RegNo) : EncodeFits.Statement (.sWrk h d a) := by
  intro f h; cases h; exact EncodeFits.of (show lenCode 8 ≠ 3 from lenCode_ne _) rfl
theorem EncodeFits.bNop (h : Hdr) : EncodeFits.Statement (.bNop h) := by
  intro f h; cases h; exact EncodeFits.of (show lenCode 8 ≠ 3 from lenCode_ne _) rfl
theorem EncodeFits.bJmp (h : Hdr) (sub : BitVec 2) (a : RegNo) (imm : BitVec 32) : EncodeFits.Statement (.bJmp h sub a imm) := by
  intro f h; cases h; exact EncodeFits.of (show lenCode 12 ≠ 3 from lenCode_ne _) rfl
theorem EncodeFits.bBr (h : Hdr) (sub : BitVec 2) (a : RegNo) (imm : BitVec 32) : EncodeFits.Statement (.bBr h sub a imm) := by
  intro f h; cases h; exact EncodeFits.of (show lenCode 12 ≠ 3 from lenCode_ne _) rfl
theorem EncodeFits.bBrk (h : Hdr) (sub : BitVec 2) (a : RegNo) (imm : BitVec 32) : EncodeFits.Statement (.bBrk h sub a imm) := by
  intro f h; cases h; exact EncodeFits.of (show lenCode 12 ≠ 3 from lenCode_ne _) rfl
theorem EncodeFits.bCall (h : Hdr) (sub : BitVec 2) (d : RegNo) (a : RegNo) (imm : BitVec 32) : EncodeFits.Statement (.bCall h sub d a imm) := by
  intro f h; cases h; exact EncodeFits.of (show lenCode 12 ≠ 3 from lenCode_ne _) rfl
theorem EncodeFits.bRet (h : Hdr) (a : RegNo) : EncodeFits.Statement (.bRet h a) := by
  intro f h; cases h; exact EncodeFits.of (show lenCode 8 ≠ 3 from lenCode_ne _) rfl
theorem EncodeFits.bSplit (h : Hdr) (a : RegNo) (x0 : BitVec 32) (x1 : BitVec 32) : EncodeFits.Statement (.bSplit h a x0 x1) := by
  intro f h; cases h; exact EncodeFits.of (show lenCode 16 ≠ 3 from lenCode_ne _) rfl
theorem EncodeFits.bJoin (h : Hdr) : EncodeFits.Statement (.bJoin h) := by
  intro f h; cases h; exact EncodeFits.of (show lenCode 8 ≠ 3 from lenCode_ne _) rfl
theorem EncodeFits.bExit (h : Hdr) : EncodeFits.Statement (.bExit h) := by
  intro f h; cases h; exact EncodeFits.of (show lenCode 8 ≠ 3 from lenCode_ne _) rfl
theorem EncodeFits.bMeld (h : Hdr) (a : RegNo) (b : RegNo) (base : BitVec 3) : EncodeFits.Statement (.bMeld h a b base) := by
  intro f h; cases h; exact EncodeFits.of (show lenCode 12 ≠ 3 from lenCode_ne _) rfl
theorem EncodeFits.bUnmeld (h : Hdr) : EncodeFits.Statement (.bUnmeld h) := by
  intro f h; cases h; exact EncodeFits.of (show lenCode 8 ≠ 3 from lenCode_ne _) rfl
theorem EncodeFits.bMtab (h : Hdr) (sub : BitVec 2) (a : RegNo) (imm : BitVec 32) : EncodeFits.Statement (.bMtab h sub a imm) := by
  intro f h; cases h; exact EncodeFits.of (show lenCode 12 ≠ 3 from lenCode_ne _) rfl
theorem EncodeFits.bWcnt (h : Hdr) (ldc : BitVec 6) (stc : BitVec 6) (xc : BitVec 6) (ec : BitVec 6) : EncodeFits.Statement (.bWcnt h ldc stc xc ec) := by
  intro f h; cases h; exact EncodeFits.of (show lenCode 8 ≠ 3 from lenCode_ne _) rfl
theorem EncodeFits.bTrap (h : Hdr) (code : BitVec 8) : EncodeFits.Statement (.bTrap h code) := by
  intro f h; cases h; exact EncodeFits.of (show lenCode 8 ≠ 3 from lenCode_ne _) rfl
theorem EncodeFits.bTret (h : Hdr) : EncodeFits.Statement (.bTret h) := by
  intro f h; cases h; exact EncodeFits.of (show lenCode 8 ≠ 3 from lenCode_ne _) rfl
theorem EncodeFits.bDbg (h : Hdr) (code : BitVec 8) : EncodeFits.Statement (.bDbg h code) := by
  intro f h; cases h; exact EncodeFits.of (show lenCode 8 ≠ 3 from lenCode_ne _) rfl
theorem EncodeFits.vMov (h : Hdr) (t : TField) (d : RegNo) (a : RegNo) : EncodeFits.Statement (.vMov h t d a) := by
  intro f h; cases h; exact EncodeFits.of (show lenCode 8 ≠ 3 from lenCode_ne _) rfl
theorem EncodeFits.vMovs (h : Hdr) (t : TField) (d : RegNo) (a : RegNo) : EncodeFits.Statement (.vMovs h t d a) := by
  intro f h; cases h; exact EncodeFits.of (show lenCode 8 ≠ 3 from lenCode_ne _) rfl
theorem EncodeFits.vMovi (h : Hdr) (t : TField) (d : RegNo) (imm : BitVec 32) : EncodeFits.Statement (.vMovi h t d imm) := by
  intro f h; cases h; exact EncodeFits.of (show lenCode 12 ≠ 3 from lenCode_ne _) rfl
theorem EncodeFits.vAdd (h : Hdr) (t : TField) (d : RegNo) (a : RegNo) (src : Src) : EncodeFits.Statement (.vAdd h t d a src) := by
  intro f h; cases h; exact EncodeFits.of (show lenCode 8 ≠ 3 from lenCode_ne _) rfl
theorem EncodeFits.vSub (h : Hdr) (t : TField) (d : RegNo) (a : RegNo) (src : Src) : EncodeFits.Statement (.vSub h t d a src) := by
  intro f h; cases h; exact EncodeFits.of (show lenCode 8 ≠ 3 from lenCode_ne _) rfl
theorem EncodeFits.vMul (h : Hdr) (sub : BitVec 2) (t : TField) (d : RegNo) (a : RegNo) (src : Src) : EncodeFits.Statement (.vMul h sub t d a src) := by
  intro f h; cases h; exact EncodeFits.of (show lenCode 8 ≠ 3 from lenCode_ne _) rfl
theorem EncodeFits.vMad (h : Hdr) (t : TField) (d : RegNo) (a : RegNo) (b : RegNo) (c : RegNo) : EncodeFits.Statement (.vMad h t d a b c) := by
  intro f h; cases h; exact EncodeFits.of (show lenCode 8 ≠ 3 from lenCode_ne _) rfl
theorem EncodeFits.vAnd (h : Hdr) (t : TField) (d : RegNo) (a : RegNo) (src : Src) : EncodeFits.Statement (.vAnd h t d a src) := by
  intro f h; cases h; exact EncodeFits.of (show lenCode 8 ≠ 3 from lenCode_ne _) rfl
theorem EncodeFits.vOr (h : Hdr) (t : TField) (d : RegNo) (a : RegNo) (src : Src) : EncodeFits.Statement (.vOr h t d a src) := by
  intro f h; cases h; exact EncodeFits.of (show lenCode 8 ≠ 3 from lenCode_ne _) rfl
theorem EncodeFits.vXor (h : Hdr) (t : TField) (d : RegNo) (a : RegNo) (src : Src) : EncodeFits.Statement (.vXor h t d a src) := by
  intro f h; cases h; exact EncodeFits.of (show lenCode 8 ≠ 3 from lenCode_ne _) rfl
theorem EncodeFits.vShl (h : Hdr) (t : TField) (d : RegNo) (a : RegNo) (src : Src) : EncodeFits.Statement (.vShl h t d a src) := by
  intro f h; cases h; exact EncodeFits.of (show lenCode 8 ≠ 3 from lenCode_ne _) rfl
theorem EncodeFits.vShr (h : Hdr) (t : TField) (d : RegNo) (a : RegNo) (src : Src) : EncodeFits.Statement (.vShr h t d a src) := by
  intro f h; cases h; exact EncodeFits.of (show lenCode 8 ≠ 3 from lenCode_ne _) rfl
theorem EncodeFits.vSra (h : Hdr) (t : TField) (d : RegNo) (a : RegNo) (src : Src) : EncodeFits.Statement (.vSra h t d a src) := by
  intro f h; cases h; exact EncodeFits.of (show lenCode 8 ≠ 3 from lenCode_ne _) rfl
theorem EncodeFits.vMin (h : Hdr) (t : TField) (d : RegNo) (a : RegNo) (src : Src) : EncodeFits.Statement (.vMin h t d a src) := by
  intro f h; cases h; exact EncodeFits.of (show lenCode 8 ≠ 3 from lenCode_ne _) rfl
theorem EncodeFits.vMax (h : Hdr) (t : TField) (d : RegNo) (a : RegNo) (src : Src) : EncodeFits.Statement (.vMax h t d a src) := by
  intro f h; cases h; exact EncodeFits.of (show lenCode 8 ≠ 3 from lenCode_ne _) rfl
theorem EncodeFits.vAbs (h : Hdr) (t : TField) (d : RegNo) (a : RegNo) : EncodeFits.Statement (.vAbs h t d a) := by
  intro f h; cases h; exact EncodeFits.of (show lenCode 8 ≠ 3 from lenCode_ne _) rfl
theorem EncodeFits.vCmp (h : Hdr) (sub : BitVec 2) (t : TField) (d : RegNo) (a : RegNo) (b : RegNo) (cond : BitVec 4) : EncodeFits.Statement (.vCmp h sub t d a b cond) := by
  intro f h; cases h; exact EncodeFits.of (show lenCode 8 ≠ 3 from lenCode_ne _) rfl
theorem EncodeFits.vSel (h : Hdr) (t : TField) (d : RegNo) (a : RegNo) (b : RegNo) (c : RegNo) : EncodeFits.Statement (.vSel h t d a b c) := by
  intro f h; cases h; exact EncodeFits.of (show lenCode 8 ≠ 3 from lenCode_ne _) rfl
theorem EncodeFits.vClz (h : Hdr) (t : TField) (d : RegNo) (a : RegNo) : EncodeFits.Statement (.vClz h t d a) := by
  intro f h; cases h; exact EncodeFits.of (show lenCode 8 ≠ 3 from lenCode_ne _) rfl
theorem EncodeFits.vPopc (h : Hdr) (t : TField) (d : RegNo) (a : RegNo) : EncodeFits.Statement (.vPopc h t d a) := by
  intro f h; cases h; exact EncodeFits.of (show lenCode 8 ≠ 3 from lenCode_ne _) rfl
theorem EncodeFits.vBfx (h : Hdr) (sub : BitVec 2) (t : TField) (d : RegNo) (a : RegNo) (src : Src) : EncodeFits.Statement (.vBfx h sub t d a src) := by
  intro f h; cases h; exact EncodeFits.of (show lenCode 8 ≠ 3 from lenCode_ne _) rfl
theorem EncodeFits.vDot4 (h : Hdr) (sub : BitVec 2) (t : TField) (d : RegNo) (a : RegNo) (b : RegNo) (c : RegNo) : EncodeFits.Statement (.vDot4 h sub t d a b c) := by
  intro f h; cases h; exact EncodeFits.of (show lenCode 8 ≠ 3 from lenCode_ne _) rfl
theorem EncodeFits.vLid (h : Hdr) (sub : BitVec 2) (d : RegNo) : EncodeFits.Statement (.vLid h sub d) := by
  intro f h; cases h; exact EncodeFits.of (show lenCode 8 ≠ 3 from lenCode_ne _) rfl
theorem EncodeFits.vRand (h : Hdr) (d : RegNo) : EncodeFits.Statement (.vRand h d) := by
  intro f h; cases h; exact EncodeFits.of (show lenCode 8 ≠ 3 from lenCode_ne _) rfl
theorem EncodeFits.vRdflag (h : Hdr) (d : RegNo) : EncodeFits.Statement (.vRdflag h d) := by
  intro f h; cases h; exact EncodeFits.of (show lenCode 8 ≠ 3 from lenCode_ne _) rfl
theorem EncodeFits.vClrflag (h : Hdr) (src : Src) : EncodeFits.Statement (.vClrflag h src) := by
  intro f h; cases h; exact EncodeFits.of (show lenCode 8 ≠ 3 from lenCode_ne _) rfl
theorem EncodeFits.fAdd (h : Hdr) (t : TField) (d : RegNo) (a : RegNo) (b : RegNo) : EncodeFits.Statement (.fAdd h t d a b) := by
  intro f h; cases h; exact EncodeFits.of (show lenCode 8 ≠ 3 from lenCode_ne _) rfl
theorem EncodeFits.fSub (h : Hdr) (t : TField) (d : RegNo) (a : RegNo) (b : RegNo) : EncodeFits.Statement (.fSub h t d a b) := by
  intro f h; cases h; exact EncodeFits.of (show lenCode 8 ≠ 3 from lenCode_ne _) rfl
theorem EncodeFits.fMul (h : Hdr) (t : TField) (d : RegNo) (a : RegNo) (b : RegNo) : EncodeFits.Statement (.fMul h t d a b) := by
  intro f h; cases h; exact EncodeFits.of (show lenCode 8 ≠ 3 from lenCode_ne _) rfl
theorem EncodeFits.fFma (h : Hdr) (t : TField) (d : RegNo) (a : RegNo) (b : RegNo) (c : RegNo) : EncodeFits.Statement (.fFma h t d a b c) := by
  intro f h; cases h; exact EncodeFits.of (show lenCode 8 ≠ 3 from lenCode_ne _) rfl
theorem EncodeFits.fMin (h : Hdr) (sub : BitVec 2) (t : TField) (d : RegNo) (a : RegNo) (b : RegNo) : EncodeFits.Statement (.fMin h sub t d a b) := by
  intro f h; cases h; exact EncodeFits.of (show lenCode 8 ≠ 3 from lenCode_ne _) rfl
theorem EncodeFits.fMax (h : Hdr) (sub : BitVec 2) (t : TField) (d : RegNo) (a : RegNo) (b : RegNo) : EncodeFits.Statement (.fMax h sub t d a b) := by
  intro f h; cases h; exact EncodeFits.of (show lenCode 8 ≠ 3 from lenCode_ne _) rfl
theorem EncodeFits.fCmp (h : Hdr) (sub : BitVec 2) (t : TField) (d : RegNo) (a : RegNo) (b : RegNo) (cond : BitVec 4) : EncodeFits.Statement (.fCmp h sub t d a b cond) := by
  intro f h; cases h; exact EncodeFits.of (show lenCode 8 ≠ 3 from lenCode_ne _) rfl
theorem EncodeFits.fCls (h : Hdr) (t : TField) (d : RegNo) (a : RegNo) : EncodeFits.Statement (.fCls h t d a) := by
  intro f h; cases h; exact EncodeFits.of (show lenCode 8 ≠ 3 from lenCode_ne _) rfl
theorem EncodeFits.fRcp (h : Hdr) (t : TField) (d : RegNo) (a : RegNo) : EncodeFits.Statement (.fRcp h t d a) := by
  intro f h; cases h; exact EncodeFits.of (show lenCode 8 ≠ 3 from lenCode_ne _) rfl
theorem EncodeFits.fRsq (h : Hdr) (t : TField) (d : RegNo) (a : RegNo) : EncodeFits.Statement (.fRsq h t d a) := by
  intro f h; cases h; exact EncodeFits.of (show lenCode 8 ≠ 3 from lenCode_ne _) rfl
theorem EncodeFits.fSqrt (h : Hdr) (t : TField) (d : RegNo) (a : RegNo) : EncodeFits.Statement (.fSqrt h t d a) := by
  intro f h; cases h; exact EncodeFits.of (show lenCode 8 ≠ 3 from lenCode_ne _) rfl
theorem EncodeFits.fDiv (h : Hdr) (t : TField) (d : RegNo) (a : RegNo) (b : RegNo) : EncodeFits.Statement (.fDiv h t d a b) := by
  intro f h; cases h; exact EncodeFits.of (show lenCode 8 ≠ 3 from lenCode_ne _) rfl
theorem EncodeFits.fExp2 (h : Hdr) (t : TField) (d : RegNo) (a : RegNo) : EncodeFits.Statement (.fExp2 h t d a) := by
  intro f h; cases h; exact EncodeFits.of (show lenCode 8 ≠ 3 from lenCode_ne _) rfl
theorem EncodeFits.fLog2 (h : Hdr) (t : TField) (d : RegNo) (a : RegNo) : EncodeFits.Statement (.fLog2 h t d a) := by
  intro f h; cases h; exact EncodeFits.of (show lenCode 8 ≠ 3 from lenCode_ne _) rfl
theorem EncodeFits.fSin (h : Hdr) (t : TField) (d : RegNo) (a : RegNo) : EncodeFits.Statement (.fSin h t d a) := by
  intro f h; cases h; exact EncodeFits.of (show lenCode 8 ≠ 3 from lenCode_ne _) rfl
theorem EncodeFits.fCos (h : Hdr) (t : TField) (d : RegNo) (a : RegNo) : EncodeFits.Statement (.fCos h t d a) := by
  intro f h; cases h; exact EncodeFits.of (show lenCode 8 ≠ 3 from lenCode_ne _) rfl
theorem EncodeFits.fCvt (h : Hdr) (t : TField) (d : RegNo) (a : RegNo) (sty : Ty) : EncodeFits.Statement (.fCvt h t d a sty) := by
  intro f h; cases h; exact EncodeFits.of (show lenCode 8 ≠ 3 from lenCode_ne _) rfl
theorem EncodeFits.fPack (h : Hdr) (t : TField) (d : RegNo) (a : RegNo) (sty : Ty) (esc : BitVec 8) : EncodeFits.Statement (.fPack h t d a sty esc) := by
  intro f h; cases h; exact EncodeFits.of (show lenCode 12 ≠ 3 from lenCode_ne _) rfl
theorem EncodeFits.fUnpack (h : Hdr) (t : TField) (d : RegNo) (a : RegNo) (sty : Ty) (esc : BitVec 8) : EncodeFits.Statement (.fUnpack h t d a sty esc) := by
  intro f h; cases h; exact EncodeFits.of (show lenCode 12 ≠ 3 from lenCode_ne _) rfl
theorem EncodeFits.fAmax (h : Hdr) (t : TField) (a : RegNo) (src : Src) : EncodeFits.Statement (.fAmax h t a src) := by
  intro f h; cases h; exact EncodeFits.of (show lenCode 8 ≠ 3 from lenCode_ne _) rfl
theorem EncodeFits.xShfl (h : Hdr) (sub : BitVec 2) (t : TField) (d : RegNo) (a : RegNo) (src : Src) : EncodeFits.Statement (.xShfl h sub t d a src) := by
  intro f h; cases h; exact EncodeFits.of (show lenCode 8 ≠ 3 from lenCode_ne _) rfl
theorem EncodeFits.xBcast (h : Hdr) (t : TField) (d : RegNo) (a : RegNo) (src : Src) : EncodeFits.Statement (.xBcast h t d a src) := by
  intro f h; cases h; exact EncodeFits.of (show lenCode 8 ≠ 3 from lenCode_ne _) rfl
theorem EncodeFits.xVote (h : Hdr) (sub : BitVec 2) (d : RegNo) (a : RegNo) : EncodeFits.Statement (.xVote h sub d a) := by
  intro f h; cases h; exact EncodeFits.of (show lenCode 8 ≠ 3 from lenCode_ne _) rfl
theorem EncodeFits.xRed (h : Hdr) (t : TField) (d : RegNo) (a : RegNo) (opr : BitVec 3) : EncodeFits.Statement (.xRed h t d a opr) := by
  intro f h; cases h; exact EncodeFits.of (show lenCode 8 ≠ 3 from lenCode_ne _) rfl
theorem EncodeFits.xScan (h : Hdr) (sub : BitVec 2) (t : TField) (d : RegNo) (a : RegNo) (opr : BitVec 3) : EncodeFits.Statement (.xScan h sub t d a opr) := by
  intro f h; cases h; exact EncodeFits.of (show lenCode 8 ≠ 3 from lenCode_ne _) rfl
theorem EncodeFits.xPrmt (h : Hdr) (d : RegNo) (a : RegNo) (b : RegNo) (c : RegNo) : EncodeFits.Statement (.xPrmt h d a b c) := by
  intro f h; cases h; exact EncodeFits.of (show lenCode 8 ≠ 3 from lenCode_ne _) rfl
theorem EncodeFits.xRdlane (h : Hdr) (t : TField) (d : RegNo) (a : RegNo) (src : Src) : EncodeFits.Statement (.xRdlane h t d a src) := by
  intro f h; cases h; exact EncodeFits.of (show lenCode 8 ≠ 3 from lenCode_ne _) rfl
theorem EncodeFits.xWrlane (h : Hdr) (t : TField) (d : RegNo) (a : RegNo) (src : Src) : EncodeFits.Statement (.xWrlane h t d a src) := by
  intro f h; cases h; exact EncodeFits.of (show lenCode 8 ≠ 3 from lenCode_ne _) rfl
theorem EncodeFits.xCnt (h : Hdr) (d : RegNo) (a : RegNo) : EncodeFits.Statement (.xCnt h d a) := by
  intro f h; cases h; exact EncodeFits.of (show lenCode 8 ≠ 3 from lenCode_ne _) rfl
theorem EncodeFits.xFirst (h : Hdr) (d : RegNo) (a : RegNo) : EncodeFits.Statement (.xFirst h d a) := by
  intro f h; cases h; exact EncodeFits.of (show lenCode 8 ≠ 3 from lenCode_ne _) rfl
theorem EncodeFits.lLd (h : Hdr) (vadr : Bool) (sx : Bool) (d : RegNo) (a : RegNo) (sz : BitVec 3) (imm : BitVec 32) : EncodeFits.Statement (.lLd h vadr sx d a sz imm) := by
  intro f h; cases h; exact EncodeFits.of (show lenCode 12 ≠ 3 from lenCode_ne _) rfl
theorem EncodeFits.lSt (h : Hdr) (vadr : Bool) (a : RegNo) (b : RegNo) (sz : BitVec 3) (imm : BitVec 32) : EncodeFits.Statement (.lSt h vadr a b sz imm) := by
  intro f h; cases h; exact EncodeFits.of (show lenCode 12 ≠ 3 from lenCode_ne _) rfl
theorem EncodeFits.lLdt (h : Hdr) (d : RegNo) (a : RegNo) (b : RegNo) (imm : BitVec 32) : EncodeFits.Statement (.lLdt h d a b imm) := by
  intro f h; cases h; exact EncodeFits.of (show lenCode 12 ≠ 3 from lenCode_ne _) rfl
theorem EncodeFits.lStt (h : Hdr) (d : RegNo) (a : RegNo) (b : RegNo) (imm : BitVec 32) : EncodeFits.Statement (.lStt h d a b imm) := by
  intro f h; cases h; exact EncodeFits.of (show lenCode 12 ≠ 3 from lenCode_ne _) rfl
theorem EncodeFits.lAtom (h : Hdr) (vadr : Bool) (t : TField) (d : RegNo) (a : RegNo) (b : RegNo) (opr : BitVec 3) (imm : BitVec 32) : EncodeFits.Statement (.lAtom h vadr t d a b opr imm) := by
  intro f h; cases h; exact EncodeFits.of (show lenCode 12 ≠ 3 from lenCode_ne _) rfl
theorem EncodeFits.lCas (h : Hdr) (vadr : Bool) (t : TField) (d : RegNo) (a : RegNo) (b : RegNo) (c : RegNo) (imm : BitVec 32) : EncodeFits.Statement (.lCas h vadr t d a b c imm) := by
  intro f h; cases h; exact EncodeFits.of (show lenCode 12 ≠ 3 from lenCode_ne _) rfl
theorem EncodeFits.lFill (h : Hdr) (vadr : Bool) (a : RegNo) (b : RegNo) (c : RegNo) (imm : BitVec 32) : EncodeFits.Statement (.lFill h vadr a b c imm) := by
  intro f h; cases h; exact EncodeFits.of (show lenCode 12 ≠ 3 from lenCode_ne _) rfl
theorem EncodeFits.lSwz (h : Hdr) (vadr : Bool) (a : RegNo) (tag : BitVec 3) (imm : BitVec 32) : EncodeFits.Statement (.lSwz h vadr a tag imm) := by
  intro f h; cases h; exact EncodeFits.of (show lenCode 12 ≠ 3 from lenCode_ne _) rfl
theorem EncodeFits.gLd (h : Hdr) (d : RegNo) (a : RegNo) (x0 : BitVec 32) (x1 : X1F) : EncodeFits.Statement (.gLd h d a x0 x1) := by
  intro f h; cases h; exact EncodeFits.of (show lenCode 16 ≠ 3 from lenCode_ne _) rfl
theorem EncodeFits.gSt (h : Hdr) (a : RegNo) (b : RegNo) (x0 : BitVec 32) (x1 : X1F) : EncodeFits.Statement (.gSt h a b x0 x1) := by
  intro f h; cases h; exact EncodeFits.of (show lenCode 16 ≠ 3 from lenCode_ne _) rfl
theorem EncodeFits.gLdt (h : Hdr) (d : RegNo) (a : RegNo) (b : RegNo) (x0 : BitVec 32) (x1 : X1F) : EncodeFits.Statement (.gLdt h d a b x0 x1) := by
  intro f h; cases h; exact EncodeFits.of (show lenCode 16 ≠ 3 from lenCode_ne _) rfl
theorem EncodeFits.gStt (h : Hdr) (d : RegNo) (a : RegNo) (b : RegNo) (x0 : BitVec 32) (x1 : X1F) : EncodeFits.Statement (.gStt h d a b x0 x1) := by
  intro f h; cases h; exact EncodeFits.of (show lenCode 16 ≠ 3 from lenCode_ne _) rfl
theorem EncodeFits.gPf (h : Hdr) (a : RegNo) (x0 : BitVec 32) (x1 : X1F) : EncodeFits.Statement (.gPf h a x0 x1) := by
  intro f h; cases h; exact EncodeFits.of (show lenCode 16 ≠ 3 from lenCode_ne _) rfl
theorem EncodeFits.gLdnf (h : Hdr) (d : RegNo) (a : RegNo) (c : RegNo) (x0 : BitVec 32) (x1 : X1F) : EncodeFits.Statement (.gLdnf h d a c x0 x1) := by
  intro f h; cases h; exact EncodeFits.of (show lenCode 16 ≠ 3 from lenCode_ne _) rfl
theorem EncodeFits.aRmw (h : Hdr) (t : TField) (d : RegNo) (a : RegNo) (b : RegNo) (opr : BitVec 3) (x0 : BitVec 32) (x1 : X1F) : EncodeFits.Statement (.aRmw h t d a b opr x0 x1) := by
  intro f h; cases h; exact EncodeFits.of (show lenCode 16 ≠ 3 from lenCode_ne _) rfl
theorem EncodeFits.aCas (h : Hdr) (d : RegNo) (a : RegNo) (b : RegNo) (c : RegNo) (x0 : BitVec 32) (x1 : X1F) : EncodeFits.Statement (.aCas h d a b c x0 x1) := by
  intro f h; cases h; exact EncodeFits.of (show lenCode 16 ≠ 3 from lenCode_ne _) rfl
theorem EncodeFits.aRed (h : Hdr) (t : TField) (a : RegNo) (b : RegNo) (opr : BitVec 3) (x0 : BitVec 32) (x1 : X1F) : EncodeFits.Statement (.aRed h t a b opr x0 x1) := by
  intro f h; cases h; exact EncodeFits.of (show lenCode 16 ≠ 3 from lenCode_ne _) rfl
theorem EncodeFits.aLdacq (h : Hdr) (d : RegNo) (a : RegNo) (x0 : BitVec 32) (x1 : X1F) : EncodeFits.Statement (.aLdacq h d a x0 x1) := by
  intro f h; cases h; exact EncodeFits.of (show lenCode 16 ≠ 3 from lenCode_ne _) rfl
theorem EncodeFits.aStrel (h : Hdr) (a : RegNo) (b : RegNo) (x0 : BitVec 32) (x1 : X1F) : EncodeFits.Statement (.aStrel h a b x0 x1) := by
  intro f h; cases h; exact EncodeFits.of (show lenCode 16 ≠ 3 from lenCode_ne _) rfl
theorem EncodeFits.aFence (h : Hdr) (sub : BitVec 2) (sc : BitVec 3) : EncodeFits.Statement (.aFence h sub sc) := by
  intro f h; cases h; exact EncodeFits.of (show lenCode 8 ≠ 3 from lenCode_ne _) rfl
theorem EncodeFits.aBarInit (h : Hdr) (a : RegNo) (b : RegNo) (imm : BitVec 32) : EncodeFits.Statement (.aBarInit h a b imm) := by
  intro f h; cases h; exact EncodeFits.of (show lenCode 12 ≠ 3 from lenCode_ne _) rfl
theorem EncodeFits.aBarArrive (h : Hdr) (sub : BitVec 2) (d : RegNo) (a : RegNo) (b : RegNo) (imm : BitVec 32) : EncodeFits.Statement (.aBarArrive h sub d a b imm) := by
  intro f h; cases h; exact EncodeFits.of (show lenCode 12 ≠ 3 from lenCode_ne _) rfl
theorem EncodeFits.aBarWait (h : Hdr) (a : RegNo) (b : RegNo) (imm : BitVec 32) : EncodeFits.Statement (.aBarWait h a b imm) := by
  intro f h; cases h; exact EncodeFits.of (show lenCode 12 ≠ 3 from lenCode_ne _) rfl
theorem EncodeFits.aBarSync (h : Hdr) (d : RegNo) (a : RegNo) (imm : BitVec 32) : EncodeFits.Statement (.aBarSync h d a imm) := by
  intro f h; cases h; exact EncodeFits.of (show lenCode 12 ≠ 3 from lenCode_ne _) rfl
theorem EncodeFits.aBarExpect (h : Hdr) (sub : BitVec 2) (a : RegNo) (b : RegNo) (imm : BitVec 32) : EncodeFits.Statement (.aBarExpect h sub a b imm) := by
  intro f h; cases h; exact EncodeFits.of (show lenCode 12 ≠ 3 from lenCode_ne _) rfl
theorem EncodeFits.aBarTest (h : Hdr) (d : RegNo) (a : RegNo) (b : RegNo) (imm : BitVec 32) : EncodeFits.Statement (.aBarTest h d a b imm) := by
  intro f h; cases h; exact EncodeFits.of (show lenCode 12 ≠ 3 from lenCode_ne _) rfl
theorem EncodeFits.aTktTake (h : Hdr) (d : RegNo) (a : RegNo) (x0 : BitVec 32) (x1 : X1F) : EncodeFits.Statement (.aTktTake h d a x0 x1) := by
  intro f h; cases h; exact EncodeFits.of (show lenCode 16 ≠ 3 from lenCode_ne _) rfl
theorem EncodeFits.aTktWait (h : Hdr) (a : RegNo) (b : RegNo) (x0 : BitVec 32) (x1 : X1F) : EncodeFits.Statement (.aTktWait h a b x0 x1) := by
  intro f h; cases h; exact EncodeFits.of (show lenCode 16 ≠ 3 from lenCode_ne _) rfl
theorem EncodeFits.aTktServe (h : Hdr) (a : RegNo) (src : Src) (x0 : BitVec 32) (x1 : X1F) : EncodeFits.Statement (.aTktServe h a src x0 x1) := by
  intro f h; cases h; exact EncodeFits.of (show lenCode 16 ≠ 3 from lenCode_ne _) rfl
theorem EncodeFits.aWatch (h : Hdr) (d : RegNo) (a : RegNo) (b : RegNo) (x0 : BitVec 32) (x1 : X1F) : EncodeFits.Statement (.aWatch h d a b x0 x1) := by
  intro f h; cases h; exact EncodeFits.of (show lenCode 16 ≠ 3 from lenCode_ne _) rfl
theorem EncodeFits.mMma (h : Hdr) (sub : BitVec 2) (d : RegNo) (a : RegNo) (b : RegNo) (c : RegNo) (zero : Bool) (scl : Bool) (bsc : BitVec 3) (asc : BitVec 3) (x0 : BitVec 32) (prio : BitVec 2) (sc : BitVec 3) (bar : Bool) : EncodeFits.Statement (.mMma h sub d a b c zero scl bsc asc x0 prio sc bar) := by
  intro f h; cases h; exact EncodeFits.of (show lenCode 16 ≠ 3 from lenCode_ne _) rfl
theorem EncodeFits.mMmt (h : Hdr) (sub : BitVec 2) (d : RegNo) (a : RegNo) (b : RegNo) (c : RegNo) (zero : Bool) (x0 : BitVec 32) (prio : BitVec 2) (sc : BitVec 3) (bar : Bool) : EncodeFits.Statement (.mMmt h sub d a b c zero x0 prio sc bar) := by
  intro f h; cases h; exact EncodeFits.of (show lenCode 16 ≠ 3 from lenCode_ne _) rfl
theorem EncodeFits.mEnq (h : Hdr) (sub : BitVec 2) (d : RegNo) (a : RegNo) : EncodeFits.Statement (.mEnq h sub d a) := by
  intro f h; cases h; exact EncodeFits.of (show lenCode 8 ≠ 3 from lenCode_ne _) rfl
theorem EncodeFits.mZero (h : Hdr) (d : RegNo) (a : RegNo) : EncodeFits.Statement (.mZero h d a) := by
  intro f h; cases h; exact EncodeFits.of (show lenCode 8 ≠ 3 from lenCode_ne _) rfl
theorem EncodeFits.mLdacc (h : Hdr) (sub : BitVec 2) (d : RegNo) (a : RegNo) (b : RegNo) (c : RegNo) (row : BitVec 7) (col : BitVec 7) (shp : BitVec 3) : EncodeFits.Statement (.mLdacc h sub d a b c row col shp) := by
  intro f h; cases h; exact EncodeFits.of (show lenCode 12 ≠ 3 from lenCode_ne _) rfl
theorem EncodeFits.mStacc (h : Hdr) (sub : BitVec 2) (d : RegNo) (a : RegNo) (b : RegNo) (c : RegNo) (row : BitVec 7) (col : BitVec 7) (shp : BitVec 3) : EncodeFits.Statement (.mStacc h sub d a b c row col shp) := by
  intro f h; cases h; exact EncodeFits.of (show lenCode 12 ≠ 3 from lenCode_ne _) rfl
theorem EncodeFits.mCvst (h : Hdr) (sub : BitVec 2) (t : TField) (d : RegNo) (a : RegNo) (b : RegNo) (c : RegNo) (cv : CvstX) : EncodeFits.Statement (.mCvst h sub t d a b c cv) := by
  intro f h; cases h; exact EncodeFits.of (show lenCode 16 ≠ 3 from lenCode_ne _) rfl
theorem EncodeFits.mRstat (h : Hdr) (d : RegNo) (a : RegNo) (rows : BitVec 8) (cols : BitVec 8) : EncodeFits.Statement (.mRstat h d a rows cols) := by
  intro f h; cases h; exact EncodeFits.of (show lenCode 12 ≠ 3 from lenCode_ne _) rfl
theorem EncodeFits.mAmax (h : Hdr) (sub : BitVec 2) (d : RegNo) (src : Src) : EncodeFits.Statement (.mAmax h sub d src) := by
  intro f h; cases h; exact EncodeFits.of (show lenCode 8 ≠ 3 from lenCode_ne _) rfl
theorem EncodeFits.mResv (h : Hdr) (d : RegNo) (a : RegNo) : EncodeFits.Statement (.mResv h d a) := by
  intro f h; cases h; exact EncodeFits.of (show lenCode 8 ≠ 3 from lenCode_ne _) rfl
theorem EncodeFits.qSpawn (h : Hdr) (sub : BitVec 2) (d : RegNo) (a : RegNo) (x0 : BitVec 32) : EncodeFits.Statement (.qSpawn h sub d a x0) := by
  intro f h; cases h; exact EncodeFits.of (show lenCode 16 ≠ 3 from lenCode_ne _) rfl
theorem EncodeFits.qLaunch (h : Hdr) (sub : BitVec 2) (d : RegNo) (a : RegNo) (x0 : BitVec 32) : EncodeFits.Statement (.qLaunch h sub d a x0) := by
  intro f h; cases h; exact EncodeFits.of (show lenCode 16 ≠ 3 from lenCode_ne _) rfl
theorem EncodeFits.qFwait (h : Hdr) (sub : BitVec 2) (d : RegNo) (a : RegNo) (sc : BitVec 3) : EncodeFits.Statement (.qFwait h sub d a sc) := by
  intro f h; cases h; exact EncodeFits.of (show lenCode 8 ≠ 3 from lenCode_ne _) rfl
theorem EncodeFits.qFtest (h : Hdr) (sub : BitVec 2) (d : RegNo) (a : RegNo) : EncodeFits.Statement (.qFtest h sub d a) := by
  intro f h; cases h; exact EncodeFits.of (show lenCode 8 ≠ 3 from lenCode_ne _) rfl
theorem EncodeFits.qFcancel (h : Hdr) (sub : BitVec 2) (d : RegNo) (a : RegNo) : EncodeFits.Statement (.qFcancel h sub d a) := by
  intro f h; cases h; exact EncodeFits.of (show lenCode 8 ≠ 3 from lenCode_ne _) rfl
theorem EncodeFits.qFmov (h : Hdr) (sub : BitVec 2) (d : RegNo) (a : RegNo) (b : RegNo) (imm : BitVec 32) : EncodeFits.Statement (.qFmov h sub d a b imm) := by
  intro f h; cases h; exact EncodeFits.of (show lenCode 12 ≠ 3 from lenCode_ne _) rfl
theorem EncodeFits.qClaim (h : Hdr) (d : RegNo) (src : Src) : EncodeFits.Statement (.qClaim h d src) := by
  intro f h; cases h; exact EncodeFits.of (show lenCode 8 ≠ 3 from lenCode_ne _) rfl
theorem EncodeFits.qGive (h : Hdr) (src : Src) : EncodeFits.Statement (.qGive h src) := by
  intro f h; cases h; exact EncodeFits.of (show lenCode 8 ≠ 3 from lenCode_ne _) rfl
theorem EncodeFits.qLive (h : Hdr) (imm : BitVec 32) : EncodeFits.Statement (.qLive h imm) := by
  intro f h; cases h; exact EncodeFits.of (show lenCode 12 ≠ 3 from lenCode_ne _) rfl
theorem EncodeFits.qYield (h : Hdr) : EncodeFits.Statement (.qYield h) := by
  intro f h; cases h; exact EncodeFits.of (show lenCode 8 ≠ 3 from lenCode_ne _) rfl
theorem EncodeFits.qSleep (h : Hdr) (src : Src) : EncodeFits.Statement (.qSleep h src) := by
  intro f h; cases h; exact EncodeFits.of (show lenCode 8 ≠ 3 from lenCode_ne _) rfl
theorem EncodeFits.eCopy (h : Hdr) (d : RegNo) (a : RegNo) (b : RegNo) (c : RegNo) (x0 : BitVec 32) (x : CopyX) : EncodeFits.Statement (.eCopy h d a b c x0 x) := by
  intro f h; cases h; exact EncodeFits.of (show lenCode 16 ≠ 3 from lenCode_ne _) rfl
theorem EncodeFits.eCopy2 (h : Hdr) (d : RegNo) (a : RegNo) (b : RegNo) (c : RegNo) (x0 : BitVec 32) (x : CopyX) : EncodeFits.Statement (.eCopy2 h d a b c x0 x) := by
  intro f h; cases h; exact EncodeFits.of (show lenCode 16 ≠ 3 from lenCode_ne _) rfl
theorem EncodeFits.eGath (h : Hdr) (d : RegNo) (a : RegNo) (b : RegNo) (c : RegNo) (x0 : BitVec 32) (x : CopyX) : EncodeFits.Statement (.eGath h d a b c x0 x) := by
  intro f h; cases h; exact EncodeFits.of (show lenCode 16 ≠ 3 from lenCode_ne _) rfl
theorem EncodeFits.eScat (h : Hdr) (d : RegNo) (a : RegNo) (b : RegNo) (c : RegNo) (x0 : BitVec 32) (x : CopyX) : EncodeFits.Statement (.eScat h d a b c x0 x) := by
  intro f h; cases h; exact EncodeFits.of (show lenCode 16 ≠ 3 from lenCode_ne _) rfl
theorem EncodeFits.eFill (h : Hdr) (d : RegNo) (a : RegNo) (b : RegNo) (c : RegNo) (x0 : BitVec 32) (x : CopyX) : EncodeFits.Statement (.eFill h d a b c x0 x) := by
  intro f h; cases h; exact EncodeFits.of (show lenCode 16 ≠ 3 from lenCode_ne _) rfl
theorem EncodeFits.eBcast (h : Hdr) (d : RegNo) (a : RegNo) (b : RegNo) (c : RegNo) (x0 : BitVec 32) (x : CopyX) : EncodeFits.Statement (.eBcast h d a b c x0 x) := by
  intro f h; cases h; exact EncodeFits.of (show lenCode 16 ≠ 3 from lenCode_ne _) rfl
theorem EncodeFits.eRkinit (h : Hdr) (sub : BitVec 2) (d : RegNo) (a : RegNo) (rick : BitVec 2) (prio : BitVec 2) (fst : BitVec 5) : EncodeFits.Statement (.eRkinit h sub d a rick prio fst) := by
  intro f h; cases h; exact EncodeFits.of (show lenCode 16 ≠ 3 from lenCode_ne _) rfl
theorem EncodeFits.eRkstep (h : Hdr) (sub : BitVec 2) (d : RegNo) (b : RegNo) (rick : BitVec 2) (prio : BitVec 2) (imm : BitVec 32) : EncodeFits.Statement (.eRkstep h sub d b rick prio imm) := by
  intro f h; cases h; exact EncodeFits.of (show lenCode 12 ≠ 3 from lenCode_ne _) rfl
theorem EncodeFits.eRkread (h : Hdr) (sub : BitVec 2) (d : RegNo) (a : RegNo) (rick : BitVec 2) (prio : BitVec 2) (mask : BitVec 16) : EncodeFits.Statement (.eRkread h sub d a rick prio mask) := by
  intro f h; cases h; exact EncodeFits.of (show lenCode 12 ≠ 3 from lenCode_ne _) rfl
theorem EncodeFits.eRkld (h : Hdr) (d : RegNo) (a : RegNo) (rick : BitVec 2) (prio : BitVec 2) (rung : BitVec 4) : EncodeFits.Statement (.eRkld h d a rick prio rung) := by
  intro f h; cases h; exact EncodeFits.of (show lenCode 12 ≠ 3 from lenCode_ne _) rfl
theorem EncodeFits.eRkst (h : Hdr) (d : RegNo) (a : RegNo) (rick : BitVec 2) (prio : BitVec 2) (rung : BitVec 4) : EncodeFits.Statement (.eRkst h d a rick prio rung) := by
  intro f h; cases h; exact EncodeFits.of (show lenCode 12 ≠ 3 from lenCode_ne _) rfl
theorem EncodeFits.eRksave (h : Hdr) (sub : BitVec 2) (d : RegNo) (a : RegNo) (rick : BitVec 2) (prio : BitVec 2) (rx : RkX) : EncodeFits.Statement (.eRksave h sub d a rick prio rx) := by
  intro f h; cases h; exact EncodeFits.of (show lenCode 16 ≠ 3 from lenCode_ne _) rfl
theorem EncodeFits.eRkrest (h : Hdr) (sub : BitVec 2) (d : RegNo) (a : RegNo) (rick : BitVec 2) (prio : BitVec 2) (rx : RkX) : EncodeFits.Statement (.eRkrest h sub d a rick prio rx) := by
  intro f h; cases h; exact EncodeFits.of (show lenCode 16 ≠ 3 from lenCode_ne _) rfl
theorem EncodeFits.eRkstat (h : Hdr) (d : RegNo) (rick : BitVec 2) (prio : BitVec 2) : EncodeFits.Statement (.eRkstat h d rick prio) := by
  intro f h; cases h; exact EncodeFits.of (show lenCode 8 ≠ 3 from lenCode_ne _) rfl
theorem EncodeFits.kvBind (h : Hdr) (d : RegNo) (a : RegNo) (b : RegNo) (x0 : BitVec 32) : EncodeFits.Statement (.kvBind h d a b x0) := by
  intro f h; cases h; exact EncodeFits.of (show lenCode 16 ≠ 3 from lenCode_ne _) rfl
theorem EncodeFits.kvUnbind (h : Hdr) (d : RegNo) : EncodeFits.Statement (.kvUnbind h d) := by
  intro f h; cases h; exact EncodeFits.of (show lenCode 16 ≠ 3 from lenCode_ne _) rfl
theorem EncodeFits.kvPop (h : Hdr) (d : RegNo) (a : RegNo) : EncodeFits.Statement (.kvPop h d a) := by
  intro f h; cases h; exact EncodeFits.of (show lenCode 8 ≠ 3 from lenCode_ne _) rfl
theorem EncodeFits.kvAck (h : Hdr) (a : RegNo) : EncodeFits.Statement (.kvAck h a) := by
  intro f h; cases h; exact EncodeFits.of (show lenCode 8 ≠ 3 from lenCode_ne _) rfl
theorem EncodeFits.kvAckFut (h : Hdr) (a : RegNo) (b : RegNo) : EncodeFits.Statement (.kvAckFut h a b) := by
  intro f h; cases h; exact EncodeFits.of (show lenCode 8 ≠ 3 from lenCode_ne _) rfl
theorem EncodeFits.kvCur (h : Hdr) (d : RegNo) (a : RegNo) : EncodeFits.Statement (.kvCur h d a) := by
  intro f h; cases h; exact EncodeFits.of (show lenCode 8 ≠ 3 from lenCode_ne _) rfl
theorem EncodeFits.kvApp (h : Hdr) (d : RegNo) (a : RegNo) (b : RegNo) (sc : BitVec 3) : EncodeFits.Statement (.kvApp h d a b sc) := by
  intro f h; cases h; exact EncodeFits.of (show lenCode 16 ≠ 3 from lenCode_ne _) rfl
theorem EncodeFits.kvFind (h : Hdr) (d : RegNo) (a : RegNo) (b : RegNo) : EncodeFits.Statement (.kvFind h d a b) := by
  intro f h; cases h; exact EncodeFits.of (show lenCode 12 ≠ 3 from lenCode_ne _) rfl
theorem EncodeFits.kvIns (h : Hdr) (d : RegNo) (a : RegNo) (b : RegNo) (c : RegNo) : EncodeFits.Statement (.kvIns h d a b c) := by
  intro f h; cases h; exact EncodeFits.of (show lenCode 12 ≠ 3 from lenCode_ne _) rfl
theorem EncodeFits.kvRel (h : Hdr) (d : RegNo) (a : RegNo) (b : RegNo) : EncodeFits.Statement (.kvRel h d a b) := by
  intro f h; cases h; exact EncodeFits.of (show lenCode 8 ≠ 3 from lenCode_ne _) rfl
theorem EncodeFits.kvTrunc (h : Hdr) (d : RegNo) (a : RegNo) (b : RegNo) (sc : BitVec 3) : EncodeFits.Statement (.kvTrunc h d a b sc) := by
  intro f h; cases h; exact EncodeFits.of (show lenCode 12 ≠ 3 from lenCode_ne _) rfl
theorem EncodeFits.kvRope (h : Hdr) (d : RegNo) (a : RegNo) (b : RegNo) (c : RegNo) (p : BitVec 8) : EncodeFits.Statement (.kvRope h d a b c p) := by
  intro f h; cases h; exact EncodeFits.of (show lenCode 12 ≠ 3 from lenCode_ne _) rfl
theorem EncodeFits.kvRpset (h : Hdr) (a : RegNo) (imm : BitVec 32) : EncodeFits.Statement (.kvRpset h a imm) := by
  intro f h; cases h; exact EncodeFits.of (show lenCode 12 ≠ 3 from lenCode_ne _) rfl
theorem EncodeFits.kvPush (h : Hdr) (a : RegNo) (b : RegNo) : EncodeFits.Statement (.kvPush h a b) := by
  intro f h; cases h; exact EncodeFits.of (show lenCode 8 ≠ 3 from lenCode_ne _) rfl
theorem EncodeFits.kvPushEnd (h : Hdr) (a : RegNo) : EncodeFits.Statement (.kvPushEnd h a) := by
  intro f h; cases h; exact EncodeFits.of (show lenCode 8 ≠ 3 from lenCode_ne _) rfl
theorem EncodeFits.kvPushStop (h : Hdr) : EncodeFits.Statement (.kvPushStop h) := by
  intro f h; cases h; exact EncodeFits.of (show lenCode 8 ≠ 3 from lenCode_ne _) rfl
theorem EncodeFits.cAnew (h : Hdr) (d : RegNo) (a : RegNo) (quota : BitVec 9) (zf : Bool) (swm : Bool) (typ : BitVec 2) : EncodeFits.Statement (.cAnew h d a quota zf swm typ) := by
  intro f h; cases h; exact EncodeFits.of (show lenCode 16 ≠ 3 from lenCode_ne _) rfl
theorem EncodeFits.cSeal (h : Hdr) (d : RegNo) (a : RegNo) : EncodeFits.Statement (.cSeal h d a) := by
  intro f h; cases h; exact EncodeFits.of (show lenCode 8 ≠ 3 from lenCode_ne _) rfl
theorem EncodeFits.cDrop (h : Hdr) (d : RegNo) (a : RegNo) : EncodeFits.Statement (.cDrop h d a) := by
  intro f h; cases h; exact EncodeFits.of (show lenCode 8 ≠ 3 from lenCode_ne _) rfl
theorem EncodeFits.cAq (h : Hdr) (sub : BitVec 2) (d : RegNo) (a : RegNo) : EncodeFits.Statement (.cAq h sub d a) := by
  intro f h; cases h; exact EncodeFits.of (show lenCode 8 ≠ 3 from lenCode_ne _) rfl
theorem EncodeFits.cWbr (h : Hdr) (d : RegNo) (a : RegNo) (b : RegNo) : EncodeFits.Statement (.cWbr h d a b) := by
  intro f h; cases h; exact EncodeFits.of (show lenCode 16 ≠ 3 from lenCode_ne _) rfl
theorem EncodeFits.cInvr (h : Hdr) (d : RegNo) (a : RegNo) (b : RegNo) : EncodeFits.Statement (.cInvr h d a b) := by
  intro f h; cases h; exact EncodeFits.of (show lenCode 16 ≠ 3 from lenCode_ne _) rfl
theorem EncodeFits.cCtnew (h : Hdr) (d : RegNo) (a : RegNo) (id : BitVec 16) : EncodeFits.Statement (.cCtnew h d a id) := by
  intro f h; cases h; exact EncodeFits.of (show lenCode 12 ≠ 3 from lenCode_ne _) rfl
theorem EncodeFits.cCtenr (h : Hdr) (sub : BitVec 2) (d : RegNo) (a : RegNo) (b : RegNo) (node : BitVec 16) : EncodeFits.Statement (.cCtenr h sub d a b node) := by
  intro f h; cases h; exact EncodeFits.of (show lenCode 16 ≠ 3 from lenCode_ne _) rfl
theorem EncodeFits.cCtenrWithdraw (h : Hdr) (d : RegNo) (a : RegNo) (b : RegNo) : EncodeFits.Statement (.cCtenrWithdraw h d a b) := by
  intro f h; cases h; exact EncodeFits.of (show lenCode 16 ≠ 3 from lenCode_ne _) rfl
theorem EncodeFits.cCtpar (h : Hdr) (d : RegNo) (a : RegNo) (b : RegNo) : EncodeFits.Statement (.cCtpar h d a b) := by
  intro f h; cases h; exact EncodeFits.of (show lenCode 8 ≠ 3 from lenCode_ne _) rfl
theorem EncodeFits.cCtrd (h : Hdr) (d : RegNo) (a : RegNo) : EncodeFits.Statement (.cCtrd h d a) := by
  intro f h; cases h; exact EncodeFits.of (show lenCode 8 ≠ 3 from lenCode_ne _) rfl
theorem EncodeFits.cSettle (h : Hdr) (d : RegNo) (a : RegNo) : EncodeFits.Statement (.cSettle h d a) := by
  intro f h; cases h; exact EncodeFits.of (show lenCode 8 ≠ 3 from lenCode_ne _) rfl
theorem EncodeFits.cCtdel (h : Hdr) (d : RegNo) (a : RegNo) : EncodeFits.Statement (.cCtdel h d a) := by
  intro f h; cases h; exact EncodeFits.of (show lenCode 8 ≠ 3 from lenCode_ne _) rfl
theorem EncodeFits.yRdpr (h : Hdr) (d : RegNo) (a : RegNo) : EncodeFits.Statement (.yRdpr h d a) := by
  intro f h; cases h; exact EncodeFits.of (show lenCode 8 ≠ 3 from lenCode_ne _) rfl
theorem EncodeFits.yWrpr (h : Hdr) (d : RegNo) (a : RegNo) : EncodeFits.Statement (.yWrpr h d a) := by
  intro f h; cases h; exact EncodeFits.of (show lenCode 8 ≠ 3 from lenCode_ne _) rfl
theorem EncodeFits.yMap (h : Hdr) (d : RegNo) (a : RegNo) (b : RegNo) (size : BitVec 4) (w : Bool) (als : Bool) : EncodeFits.Statement (.yMap h d a b size w als) := by
  intro f h; cases h; exact EncodeFits.of (show lenCode 16 ≠ 3 from lenCode_ne _) rfl
theorem EncodeFits.yMapFilter (h : Hdr) (d : RegNo) (a : RegNo) (b : RegNo) (x0 : BitVec 32) (idx : BitVec 5) : EncodeFits.Statement (.yMapFilter h d a b x0 idx) := by
  intro f h; cases h; exact EncodeFits.of (show lenCode 16 ≠ 3 from lenCode_ne _) rfl
theorem EncodeFits.yUnmap (h : Hdr) (d : RegNo) (a : RegNo) (size : BitVec 4) : EncodeFits.Statement (.yUnmap h d a size) := by
  intro f h; cases h; exact EncodeFits.of (show lenCode 16 ≠ 3 from lenCode_ne _) rfl
theorem EncodeFits.yUnmapFilter (h : Hdr) (d : RegNo) (idx : BitVec 5) : EncodeFits.Statement (.yUnmapFilter h d idx) := by
  intro f h; cases h; exact EncodeFits.of (show lenCode 16 ≠ 3 from lenCode_ne _) rfl
theorem EncodeFits.yXinvInval (h : Hdr) (d : RegNo) (a : RegNo) (b : RegNo) : EncodeFits.Statement (.yXinvInval h d a b) := by
  intro f h; cases h; exact EncodeFits.of (show lenCode 16 ≠ 3 from lenCode_ne _) rfl
theorem EncodeFits.yXinvReplay (h : Hdr) (d : RegNo) (a : RegNo) (b : RegNo) : EncodeFits.Statement (.yXinvReplay h d a b) := by
  intro f h; cases h; exact EncodeFits.of (show lenCode 16 ≠ 3 from lenCode_ne _) rfl
theorem EncodeFits.yXinvFail (h : Hdr) (d : RegNo) (a : RegNo) (b : RegNo) (prot : Bool) : EncodeFits.Statement (.yXinvFail h d a b prot) := by
  intro f h; cases h; exact EncodeFits.of (show lenCode 16 ≠ 3 from lenCode_ne _) rfl
theorem EncodeFits.yRegn (h : Hdr) (d : RegNo) (a : RegNo) (b : RegNo) : EncodeFits.Statement (.yRegn h d a b) := by
  intro f h; cases h; exact EncodeFits.of (show lenCode 16 ≠ 3 from lenCode_ne _) rfl
theorem EncodeFits.yWinRead (h : Hdr) (d : RegNo) (imm : BitVec 32) : EncodeFits.Statement (.yWinRead h d imm) := by
  intro f h; cases h; exact EncodeFits.of (show lenCode 12 ≠ 3 from lenCode_ne _) rfl
theorem EncodeFits.yWinWrite (h : Hdr) (b : RegNo) (imm : BitVec 32) : EncodeFits.Statement (.yWinWrite h b imm) := by
  intro f h; cases h; exact EncodeFits.of (show lenCode 12 ≠ 3 from lenCode_ne _) rfl
theorem EncodeFits.yWinStop (h : Hdr) : EncodeFits.Statement (.yWinStop h) := by
  intro f h; cases h; exact EncodeFits.of (show lenCode 12 ≠ 3 from lenCode_ne _) rfl
theorem EncodeFits.yCtxs (h : Hdr) (sub : BitVec 2) (d : RegNo) (a : RegNo) (imm : BitVec 32) : EncodeFits.Statement (.yCtxs h sub d a imm) := by
  intro f h; cases h; exact EncodeFits.of (show lenCode 12 ≠ 3 from lenCode_ne _) rfl
theorem EncodeFits.yCtxl (h : Hdr) (sub : BitVec 2) (d : RegNo) (a : RegNo) (imm : BitVec 32) : EncodeFits.Statement (.yCtxl h sub d a imm) := by
  intro f h; cases h; exact EncodeFits.of (show lenCode 12 ≠ 3 from lenCode_ne _) rfl
theorem EncodeFits.yEretResume (h : Hdr) : EncodeFits.Statement (.yEretResume h) := by
  intro f h; cases h; exact EncodeFits.of (show lenCode 8 ≠ 3 from lenCode_ne _) rfl
theorem EncodeFits.yEretStep (h : Hdr) : EncodeFits.Statement (.yEretStep h) := by
  intro f h; cases h; exact EncodeFits.of (show lenCode 8 ≠ 3 from lenCode_ne _) rfl
theorem EncodeFits.yEretKillThreads (h : Hdr) (b : RegNo) : EncodeFits.Statement (.yEretKillThreads h b) := by
  intro f h; cases h; exact EncodeFits.of (show lenCode 8 ≠ 3 from lenCode_ne _) rfl
theorem EncodeFits.yEretKillTeam (h : Hdr) : EncodeFits.Statement (.yEretKillTeam h) := by
  intro f h; cases h; exact EncodeFits.of (show lenCode 8 ≠ 3 from lenCode_ne _) rfl
theorem EncodeFits.yIdle (h : Hdr) (d : RegNo) (b : RegNo) : EncodeFits.Statement (.yIdle h d b) := by
  intro f h; cases h; exact EncodeFits.of (show lenCode 8 ≠ 3 from lenCode_ne _) rfl
theorem EncodeFits.resultReturn (a : Agent) (id : Nat) : EncodeFits.Statement (.resultReturn a id) := by
  intro f h; cases h
theorem EncodeFits.faultRecordPost (a : Agent) : EncodeFits.Statement (.faultRecordPost a) := by
  intro f h; cases h
theorem EncodeFits.breakpointHit (a : Agent) (no : Nat) : EncodeFits.Statement (.breakpointHit a no) := by
  intro f h; cases h
theorem EncodeFits.waveRetire (a : Agent) : EncodeFits.Statement (.waveRetire a) := by
  intro f h; cases h
theorem EncodeFits.teamRelease (team : Nat) : EncodeFits.Statement (.teamRelease team) := by
  intro f h; cases h
theorem EncodeFits.groupComplete (group : Nat) : EncodeFits.Statement (.groupComplete group) := by
  intro f h; cases h
theorem EncodeFits.gangPlacement (die group : Nat) (cores : List Nat) : EncodeFits.Statement (.gangPlacement die group cores) := by
  intro f h; cases h
theorem EncodeFits.claimGrant (team : Nat) : EncodeFits.Statement (.claimGrant team) := by
  intro f h; cases h
theorem EncodeFits.claimFail (team : Nat) : EncodeFits.Statement (.claimFail team) := by
  intro f h; cases h
theorem EncodeFits.sleepExpiry (a : Agent) : EncodeFits.Statement (.sleepExpiry a) := by
  intro f h; cases h
theorem EncodeFits.arenaMasterRequest (part : Nat) (id : Nat) : EncodeFits.Statement (.arenaMasterRequest part id) := by
  intro f h; cases h
theorem EncodeFits.arenaBroadcastApply (core : Nat) : EncodeFits.Statement (.arenaBroadcastApply core) := by
  intro f h; cases h
theorem EncodeFits.drainWatermark (part aid : Nat) : EncodeFits.Statement (.drainWatermark part aid) := by
  intro f h; cases h
theorem EncodeFits.sealComplete (part aid : Nat) : EncodeFits.Statement (.sealComplete part aid) := by
  intro f h; cases h
theorem EncodeFits.translationWalk (req : Nat) : EncodeFits.Statement (.translationWalk req) := by
  intro f h; cases h
theorem EncodeFits.homeSliceOperation (req : Nat) : EncodeFits.Statement (.homeSliceOperation req) := by
  intro f h; cases h
theorem EncodeFits.l1Fill (req : Nat) : EncodeFits.Statement (.l1Fill req) := by
  intro f h; cases h
theorem EncodeFits.rollUpDeltaApply (part slice : Nat) : EncodeFits.Statement (.rollUpDeltaApply part slice) := by
  intro f h; cases h
theorem EncodeFits.ticketWaiterRetry (a : Agent) : EncodeFits.Statement (.ticketWaiterRetry a) := by
  intro f h; cases h
theorem EncodeFits.amaxUpdateApply (quad id : Nat) : EncodeFits.Statement (.amaxUpdateApply quad id) := by
  intro f h; cases h
theorem EncodeFits.barrierHalfComplete (team off : Nat) : EncodeFits.Statement (.barrierHalfComplete team off) := by
  intro f h; cases h
theorem EncodeFits.copyBytesLand (copy row col n : Nat) : EncodeFits.Statement (.copyBytesLand copy row col n) := by
  intro f h; cases h
theorem EncodeFits.copyComplete (copy : Nat) : EncodeFits.Statement (.copyComplete copy) := by
  intro f h; cases h
theorem EncodeFits.scoreboardEntryFree (core id : Nat) : EncodeFits.Statement (.scoreboardEntryFree core id) := by
  intro f h; cases h
theorem EncodeFits.tilePassGrant (quad task : Nat) : EncodeFits.Statement (.tilePassGrant quad task) := by
  intro f h; cases h
theorem EncodeFits.tilePassComplete (quad task : Nat) : EncodeFits.Statement (.tilePassComplete quad task) := by
  intro f h; cases h
theorem EncodeFits.tileTaskComplete (quad task : Nat) : EncodeFits.Statement (.tileTaskComplete quad task) := by
  intro f h; cases h
theorem EncodeFits.rickOperationComplete (quad task : Nat) : EncodeFits.Statement (.rickOperationComplete quad task) := by
  intro f h; cases h
theorem EncodeFits.changeTreeAgentRequest (part id : Nat) : EncodeFits.Statement (.changeTreeAgentRequest part id) := by
  intro f h; cases h
theorem EncodeFits.enrollmentApplied (part die : Nat) : EncodeFits.Statement (.enrollmentApplied part die) := by
  intro f h; cases h
theorem EncodeFits.remapFilterApply (core : Nat) : EncodeFits.Statement (.remapFilterApply core) := by
  intro f h; cases h
theorem EncodeFits.translationCacheInvalidation (part id : Nat) : EncodeFits.Statement (.translationCacheInvalidation part id) := by
  intro f h; cases h
theorem EncodeFits.eccCorrected (die : Nat) (site : EccSite) : EncodeFits.Statement (.eccCorrected die site) := by
  intro f h; cases h
theorem EncodeFits.bankMarkFailed (die : Nat) (site : EccSite) : EncodeFits.Statement (.bankMarkFailed die site) := by
  intro f h; cases h
theorem EncodeFits.eccUncorrectable (die : Nat) (site : EccSite) (target : EccTarget) : EncodeFits.Statement (.eccUncorrectable die site target) := by
  intro f h; cases h
theorem EncodeFits.hostBar2Read (off n : Nat) : EncodeFits.Statement (.hostBar2Read off n) := by
  intro f h; cases h
theorem EncodeFits.hostBar2Write (off : Nat) (bytes : List (BitVec 8)) : EncodeFits.Statement (.hostBar2Write off bytes) := by
  intro f h; cases h
theorem EncodeFits.bar0Write (off : Nat) (v : HostWord) : EncodeFits.Statement (.bar0Write off v) := by
  intro f h; cases h
theorem EncodeFits.restartModule (warm : Bool) : EncodeFits.Statement (.restartModule warm) := by
  intro f h; cases h
theorem EncodeFits.restartPartition (found : PartTests) : EncodeFits.Statement (.restartPartition found) := by
  intro f h; cases h
theorem EncodeFits.mboxAttestation : EncodeFits.Statement .mboxAttestation := by
  intro f h; cases h
theorem EncodeFits.mboxImageChunk : EncodeFits.Statement .mboxImageChunk := by
  intro f h; cases h
theorem EncodeFits.mboxImageCommit : EncodeFits.Statement .mboxImageCommit := by
  intro f h; cases h
theorem EncodeFits.mboxFirmwareRequest (die : Nat) (reply : List (BitVec 8)) (refuse : Bool) : EncodeFits.Statement (.mboxFirmwareRequest die reply refuse) := by
  intro f h; cases h
theorem EncodeFits.larlanPortTrain (port : Nat) : EncodeFits.Statement (.larlanPortTrain port) := by
  intro f h; cases h
theorem EncodeFits.larlanLaneLoss (port : Nat) : EncodeFits.Statement (.larlanLaneLoss port) := by
  intro f h; cases h
theorem EncodeFits.larlanKeyExpiry (port : Nat) : EncodeFits.Statement (.larlanKeyExpiry port) := by
  intro f h; cases h
theorem EncodeFits.link (port : Nat) : EncodeFits.Statement (.link port) := by
  intro f h; cases h
theorem EncodeFits.larlanRemoteAccess (port : Nat) (acc : RemoteAccess) : EncodeFits.Statement (.larlanRemoteAccess port acc) := by
  intro f h; cases h
theorem EncodeFits.moduleStart (tests : StartTests) : EncodeFits.Statement (.moduleStart tests) := by
  intro f h; cases h
theorem EncodeFits.watchdogExpiry : EncodeFits.Statement .watchdogExpiry := by
  intro f h; cases h
theorem EncodeFits.bringupOvertemp (die : Nat) : EncodeFits.Statement (.bringupOvertemp die) := by
  intro f h; cases h
theorem EncodeFits.thermalThrottle (die : Nat) : EncodeFits.Statement (.thermalThrottle die) := by
  intro f h; cases h
theorem EncodeFits.thermalPowerOff (die : Nat) : EncodeFits.Statement (.thermalPowerOff die) := by
  intro f h; cases h
theorem EncodeFits.powerLoss : EncodeFits.Statement .powerLoss := by
  intro f h; cases h
theorem EncodeFits.l1Eviction (core line : Nat) : EncodeFits.Statement (.l1Eviction core line) := by
  intro f h; cases h
theorem EncodeFits.sliceEviction (die line : Nat) : EncodeFits.Statement (.sliceEviction die line) := by
  intro f h; cases h
theorem EncodeFits.recordBlocking (die group : Nat) : EncodeFits.Statement (.recordBlocking die group) := by
  intro f h; cases h
theorem EncodeFits.waveSwitchOut (a : Agent) (group : Nat) (spares : List Nat) : EncodeFits.Statement (.waveSwitchOut a group spares) := by
  intro f h; cases h
theorem EncodeFits.prFaultqWrite (die : Nat) (v : BitVec 64) : EncodeFits.Statement (.prFaultqWrite die v) := by
  intro f h; cases h
theorem EncodeFits.prFqconsWrite (die : Nat) (v : BitVec 64) : EncodeFits.Statement (.prFqconsWrite die v) := by
  intro f h; cases h
theorem EncodeFits.idleTimeLimit (die : Nat) : EncodeFits.Statement (.idleTimeLimit die) := by
  intro f h; cases h
theorem EncodeFits.zeroFillPageDone (part page : Nat) : EncodeFits.Statement (.zeroFillPageDone part page) := by
  intro f h; cases h
theorem EncodeFits.ashSweepPass (part : Nat) : EncodeFits.Statement (.ashSweepPass part) := by
  intro f h; cases h
theorem EncodeFits.waveSwitchResume (a : Agent) : EncodeFits.Statement (.waveSwitchResume a) := by
  intro f h; cases h
theorem EncodeFits.regionDrainSignal (part idx : Nat) : EncodeFits.Statement (.regionDrainSignal part idx) := by
  intro f h; cases h

end Sys2Proof.Laws
end

