-- ==== Sys2Proof/Tests/Witness.lean ====
section
/-! SUPPORT. Witnesses: for each statement with hypotheses, a small state and operands that meet them together. -/

namespace Sys2Proof.Tests

set_option Elab.async false

open Sys2Proof Sys2Proof.Machine

/-- A header without modifiers. -/
def h0 : Hdr := { pk := false, md := false, kn := false, kp := 0 }
/-- The predicate k5. -/
def h5 : Hdr := { h0 with kp := 5 }
/-- Types. -/
def ty (t : Ty) : TField := { ty := t, rnd := .rn, sr := false, sat := false }

/-- A placed team of two waves with two tiles, four slots and a rick, in 4096 bytes of core 0. -/
def tm0 : Team :=
  { rootTeam 0 with group := 9, foot := { rootFoot with waves := 2, threads := 128, tiles := 2, acc := 4, ricks := 1, lsbytes := 4096 }
                    waves := [0, 1] }
/-- Its first wave at PC 64 with 64 threads; s1 holds the base of arena 1, s2 holds 96, s7 is all ones. -/
def c0 : Ctx :=
  { Ctx.init with team := 1, nreg := 64, priv := true, split := splitInit 64 (BitVec.allOnes 64)
                  s := [(1, 0x0000100000000000), (2, 96), (7, BitVec.allOnes 64)], k := [(5, 0x8000000000000001)] }
/-- A module with this wave alone, on die 0, in the root state of a partition. -/
def w0 : State :=
  { State.reset with
    mem := [], ctxs := [(0, c0)], teams := [(1, tm0)], dies := [(0, Die.init)], dieParts := [(0, 0)] }
/-- The same after a change to the wave. -/
def w (f : Ctx → Ctx) : State := { w0 with ctxs := [(0, f c0)] }
/-- The same with the root range mapped. -/
def m0 : State := { w0 with mem := State.reset.mem }
/-- A stoker of the team. -/
def st0 : State :=
  { w0 with ctxs := [(0, c0), (20, { c0 with split := splitInit 64 1 })], teams := [(1, { tm0 with stoker := some 0 })],
            stokers := [(0, { team := 1, running := true, queues := [] })], cur := .slot 0 20 }
/-- The team's wave beside the stoker. -/
def st1 : State := { st0 with cur := .slot 0 0 }
/-- A hearth wave, its window on the wave, which has stopped. -/
def stop0 : Stop :=
  { code := Code.brk, prec := false, addr := 0, mask := 1, pc := 64, meld := false, posted := true, silent := false }
def hw0 : State :=
  { w0 with ctxs := [(0, { c0 with stop := some stop0 }), (36864, { c0 with nreg := 256 })], cur := .hearth 0 }

/-- An instruction is ready, and what it sees meets a condition. -/
def met (s : State) (pm : Perm) (len : Nat) (rd wr : List Use) (p : Iss → Bool := fun _ => true) (h : Hdr := h0) : Bool :=
  match s.ready pm h len { rd := rd, wr := wr } with
  | some is => p is
  | none => false
/-- An instruction issues, and what it sees meets a condition. -/
def seen (s : State) (len : Nat) (p : Iss → Bool := fun _ => true) (h : Hdr := h0) : Bool :=
  match s.iss? h len with
  | some is => p is
  | none => false
/-- A result is there. -/
def good {ε α : Type} (e : Except ε α) (p : α → Bool := fun _ => true) : Bool :=
  match e with
  | .ok x => p x
  | .error _ => false
/-- A value is there. -/
def has {α : Type} (o : Option α) (p : α → Bool := fun _ => true) : Bool :=
  match o with
  | some x => p x
  | none => false

/-! ## The words of the claims as checks: each is the decision of the proposition of that name -/

/-- A property of the value that an option holds. -/
def someDec {α : Type} (o : Option α) (P : α → Prop) [DecidablePred P] : Decidable (∃ r, o = some r ∧ P r) :=
  match o with
  | none => isFalse (by simp)
  | some r => decidable_of_iff (P r) (by simp)
/-- Nothing that a memory instruction waits for is under way. -/
def quiet (s : State) (is : Iss) : Bool := @decide (is.quiet s) (by unfold Iss.quiet; infer_instance)
/-- The checks at issue allow an access. -/
def allowsDec (is : Iss) (s : State) (va : Nat) (write atom : Bool) : Decidable (is.allows s va write atom) := someDec _ _
/-- The same, as a check. -/
def allows (is : Iss) (s : State) (va : Nat) (write atom : Bool) : Bool := @decide _ (allowsDec is s va write atom)
/-- A row may be accessed. -/
def rowOk (is : Iss) (s : State) (va n : Nat) (write : Bool) : Bool :=
  @decide (is.rowOk s va n write) (by have := fun x => allowsDec is s (x % 2 ^ 56) write false; unfold Iss.rowOk; infer_instance)
/-- The passing threads' addresses may be accessed. -/
def reaches (is : Iss) (s : State) (n : Nat) (write atom : Bool) (x1 : X1F) (a : RegNo) (x0 : BitVec 32) : Bool :=
  @decide (is.reach s n write atom x1 a x0)
    (by have := fun va => allowsDec is s va write atom; unfold Iss.reach; infer_instance)
/-- No load meets a c.invr of the wave. -/
def clear (is : Iss) (s : State) (n : Nat) (rs : List Route) : Bool :=
  @decide (is.clear s n rs) (by unfold Iss.clear; infer_instance)
/-- A release has performed. -/
def released (is : Iss) (s : State) (sc : Nat) : Bool := @decide (is.released s sc) (by unfold Iss.released; infer_instance)
/-- The checks of every passing thread pass, and nothing is waited for. -/
def passes (f : LForm) (s : State) (is : Iss) : Bool :=
  @decide (f.passes s is) (by unfold LForm.passes Iss.quiet Iss.offBoard; infer_instance)
/-- No byte of some places lies in an entry of the scoreboard. -/
def offBoard (is : Iss) (s : State) (n : Nat) (ps : List LsAt) : Bool :=
  @decide (is.offBoard s n ps) (by unfold Iss.offBoard; infer_instance)
/-- Nothing that an instruction which names a tile waits for is under way. -/
def tileFree (is : Iss) (s : State) (n : Nat) : Bool := @decide (is.tileFree s n) (by unfold Iss.tileFree; infer_instance)
/-- An object passes its checks. -/
def objectAt (is : Iss) (s : State) (addr : Nat) (o : Obj) : Bool :=
  @decide (is.objectAt s addr o) (by
    have := someDec (s.lsOfTeam is.c.team addr) (fun p => p.ref = .team o.key ∧ p.off = o.off ∧ o.off + 16 ≤ p.limit)
    unfold Iss.objectAt; infer_instance)
/-- A future entry and EC have room. -/
def futRoom (s : State) (is : Iss) : Bool := @decide (s.futRoom is) (by unfold State.futRoom; infer_instance)
/-- A rectangle of m.ldacc or m.stacc is valid. -/
def rectOkB (t : Team) (a : RegNo) (x : Nat) (row col : BitVec 7) (sh : Shape) : Bool :=
  @decide (rectOk t a x row col sh) (by unfold rectOk; infer_instance)
/-- A range of a rick instruction is aligned and lies in a window. -/
def rangeOk (is : Iss) (s : State) (addr n : Nat) : Bool := @decide (is.rangeOk s addr n) (by unfold Iss.rangeOk; infer_instance)
/-- A range that c.ctenr takes. -/
def enrollOk (is : Iss) (s : State) (a b : RegNo) (base k : Nat) : Bool :=
  @decide (is.enrollOk s a b base k) (by unfold Iss.enrollOk; infer_instance)

theorem witness_ScalarResult :
    (has (scalarForm (.sSub h0 63 1 (.imm 0x8000))) (fun f => met w0 .all f.2.1 f.2.2.1 [.s f.2.2.2]) &&
      has (scalarForm (.sMovi h0 2 7 1)) (fun f => met w0 .all f.2.1 f.2.2.1 [.s f.2.2.2])) = true := by decide +kernel

theorem witness_SpecialRegisters :
    (has (srMask 0x08) && has (srMask 0x17) && met w0 .all 8 [.s 7] [] (fun is => !isStoker is.a) &&
      met st0 .all 8 [.s 7] [] (fun is => isStoker is.a) && met w0 .all 8 [] [.s 62]) = true := by decide +kernel

theorem witness_MaskWrite :
    (met w0 .all 8 [.s 7] [.k 15] (fun is => !isStoker is.a) && met w0 .all 8 [.s 7] [.k 0] (fun is => !isStoker is.a) &&
      met st0 .all 8 [.s 7] [.k 15] (fun is => isStoker is.a) && met w0 .all 8 [.k 15] [.s 0]) = true := by decide +kernel

theorem witness_TileConfiguration :
    (met w0 .wave 8 [.s 7] [] (fun is => has (w0.teams.find is.c.team) (fun t => decide (1 < t.foot.tiles) && decide (t.foot.tiles ≤ 2))) &&
      met w0 .wave 8 [] [.s 5] (fun is => has (w0.teams.find is.c.team) (fun t => decide (1 < t.foot.tiles) && decide (t.foot.tiles ≤ 2)))) =
      true := by decide +kernel

/-- A branch is ready and its destination meets a condition. -/
def branchTo (s : State) (i : Instr) (p : Option W64 → Bool) : Bool :=
  has (branchForm i) (fun f => met s .all f.2.1 f.2.2.1 (branchUses f.2.2.1 f.2.2.2).wr (fun is => p (branchDest is i)) f.1)
theorem witness_Branches :
    (branchTo w0 (.bCall h0 0 63 0 0xFFFFFFFC) (fun x => has x (fun x => x.toNat % 4 = 0)) &&
      branchTo w0 (.bBr h0 3 7 8) (fun x => x.isNone) && branchTo w0 (.bBrk h0 0 4 8) (fun x => x.isNone) &&
      branchTo w0 (.bRet h0 7) (fun x => has x (fun x => x.toNat % 4 ≠ 0)) &&
      seen w0 8 (fun is => good (is.check .all { rd := [.s 1], wr := [] }) && is.p = 0) { h0 with kp := 6 }) = true := by
  decide +kernel

theorem witness_UserTraps :
    (met w0 .wave 8 [] [] (fun is => !is.c.utact) && met (w (fun c => { c with utact := true })) .wave 8 [] [] (fun is => is.c.utact) &&
      met (w (fun c => { c with utact := true })) .all 8 [] [] (fun is => has (is.c.rec? is.c.utfrag)) &&
      met w0 .all 8 [] [] (fun is => !is.c.utact) && ({ c0 with utact := true } : Ctx).canIssue 0) = true := by decide +kernel

theorem witness_PlainControl :
    (has (w0.ctx? w0.cur) (fun c => has (c.rec? w0.frag)) && met w0 .all 8 [] [] &&
      seen w0 8 (fun is => good (is.check .all { rd := [], wr := [] }) && is.p = 0) { h0 with kp := 6 } &&
      met w0 { Perm.wave with noMeld := true } 12 [.k 15, .k 5] [] &&
      met (w (fun c => { c with split := (splitInit 64 1).map (fun e => (e.1, { e.2 with meld := true })) })) .all 8 [] []
        (fun is => is.fr.meld) { h0 with md := true, kp := 15 } &&
      met w0 .all 8 [] [] (fun is => !is.fr.meld)) = true := by decide +kernel
theorem witness_PlainControl_mtab :
    (met m0 .wave 12 [.s 1] [] (fun is => quiet m0 is && good (m0.readRecord is (is.s 1) 128 128)
        (fun r => !r.2.1 && r.1.all (fun b => b.toNat < is.c.nreg))) &&
      (let m := { m0 with mem := (127, 64) :: m0.mem }
      met m .wave 12 [.s 1] [] (fun is => quiet m is && good (m.readRecord is (is.s 1) 128 128)
        (fun r => !r.2.1 && r.1.any (fun b => is.c.nreg ≤ b.toNat))))) = true := by decide +kernel

theorem witness_WaitForCounters :
    met (w (fun c => { c with ec := 1 })) .all 8 [] [] (fun is => decide (is.c.ec ≤ 1) && decide (is.c.ldc ≤ 0) && decide (is.c.stc ≤ 0) &&
      decide (is.c.xc ≤ 0) && !decide (is.c.ec ≤ 0)) = true := by decide +kernel

/-- Two fragments below a HOLD record. -/
def joinSplit : AMap SplitRec :=
  let r : SplitRec := { st := .ready, bsel := 0, meld := false, rj := 0, pc := 64, mask := 1, age := 1 }
  [(0, { r with st := .hold, rj := 15, mask := BitVec.allOnes 64 }), (1, r), (2, { r with mask := ~~~1 })]
theorem witness_SplitAndJoin :
    (let np : Perm := { Perm.wave with noMeld := true }
    met w0 np 16 [.k 5] [] (fun is => !is.c.utact && is.p &&& is.k 5 ≠ 0 && is.fr.mask &&& ~~~(is.p &&& is.k 5) ≠ 0 &&
        decide ((is.pc + (8 : W64)).toNat % 4 = 0) && decide (fragCount (w0.recs is.c) < 8)) &&
      met w0 np 16 [.k 4] [] (fun is => !is.c.utact && is.p &&& is.k 4 = 0) &&
      (let j := { w (fun c => { c with split := joinSplit }) with frag := 1 }
      met j np 8 [] [] (fun is => is.fr.rj ≠ 15 && !brokenSpill (j.recs is.c) is.fr.rj && has ((j.recs is.c).find is.fr.rj) (fun hold =>
        hold.st = .hold && hold.pc = is.pc && (resolveJoins 16 ((j.recs is.c).put is.fid { is.fr with
          st := .parked, pc := (is.pc + 8) &&& 0x00FFFFFFFFFFFFFF }) is.c.exited).2 = none))) &&
      met w0 np 8 [] [] (fun is => ((w0.recs is.c).find is.fr.rj).isNone)) = true := by decide +kernel
/-- Eight fragments. -/
def eightSplit : AMap SplitRec := (List.range 8).map (fun i =>
  (i, { st := .ready, bsel := 0, meld := false, rj := 15, pc := 64, mask := 3 <<< (2 * i), age := i }))
theorem witness_SplitAndJoin_split :
    (let np : Perm := { Perm.wave with noMeld := true }
    let parts (s : State) (p : Iss → Bool) : Bool := met s np 16 [.k 5] [] (fun is =>
      !is.c.utact && is.p &&& is.k 5 ≠ 0 && is.fr.mask &&& ~~~(is.p &&& is.k 5) ≠ 0 && p is)
    let off (is : Iss) (x : BitVec 32) : Bool := decide ((is.pc + x.signExtend 64).toNat % 4 = 0)
    let room (is : Iss) : Bool := decide (fragCount (w0.recs is.c) < 8)
    parts w0 (fun is => room is && off is 8 && off is 0xFFFFFFF0 && decide (is.fid < 8) &&
        decide (2 ≤ ((List.range 8).filter (isFree (w0.recs is.c))).length)) &&
      parts w0 (fun is => room is && !off is 2 && off is 8) && parts w0 (fun is => room is && off is 8 && !off is 0xFFFFFFFF) &&
      (let s := w (fun c => { c with split := eightSplit })
      parts s (fun is => off is 8 && off is 16 && decide (8 ≤ fragCount (s.recs is.c)))) &&
      met w0 np 16 [.k 0] [] (fun is => !is.c.utact && is.p &&& is.k 0 ≠ 0 && is.fr.mask &&& ~~~(is.p &&& is.k 0) = 0 &&
        off is 8 && !off is 1)) = true := by decide +kernel
theorem witness_SplitAndJoin_exit :
    (met w0 .wave 8 [] [] (fun is => is.c.guard.isNone && (endThreadsRecs (w0.recs is.c) (is.c.exited ||| is.p)).2 = none) &&
      met (w (fun c => { c with guard := some { off := 0, bank := 0, pc := 60 } })) .wave 8 [] [] (fun is =>
        is.c.guard.isSome && is.c.exited ||| is.p = BitVec.allOnes 64)) = true := by decide +kernel

theorem witness_VectorResult :
    (has (vectorForm (.vAdd h5 (ty .i64) 62 0 (.imm 0x8000))) (fun f => met w0 .wave f.len f.uses.rd f.uses.wr (fun _ => f.wide) f.h) &&
      has (vectorForm (.vDot4 h5 3 (ty .b32) 63 1 2 3)) (fun f => !f.wide && !f.h.md &&
        met w0 .wave f.len f.uses.rd f.uses.wr (fun is => is.p.getLsbD 63) f.h)) = true := by decide +kernel

theorem witness_VectorCompare :
    (met w0 .wave 8 [.v 62 2, .v 0 2] [.k 15] (fun _ => true) h5 && met w0 .wave 8 [.v 62 2, .v 0 2, .k 15] [.v 60 2]) = true := by
  decide +kernel

theorem witness_RandomAndFlags :
    (met w0 .wave 8 [] [.v 63 1] && met w0 .wave 8 (srcUseV 1 (.imm 31)) [] &&
      seen w0 8 (fun is => good (is.check .wave { rd := [], wr := [.v 63 1] }) && is.p = 0) { h0 with kp := 6 }) = true := by
  decide +kernel

theorem witness_FloatResult :
    (has (floatForm (.fAdd h5 (ty .f64) 62 0 2)) (fun f => met w0 .wave f.len f.uses.rd f.uses.wr (fun is =>
        is.p.list.all (fun l => floatFlags is (.fAdd h5 (ty .f64) 62 0 2) l &&& is.c.fpen = 0)) f.h) &&
      (let s := w (fun c => { c with fpen := 31, v := [(0, 0x7F800001)] })
      let s1 := w (fun c => { c with fpen := 31, v := [(0, 0x7F800001)], utact := true })
      has (floatForm (.fMul h5 (ty .f32) 63 0 1)) (fun f =>
        met s .wave f.len f.uses.rd f.uses.wr (fun is => !is.c.utact && is.p.getLsbD 0 &&
          floatFlags is (.fMul h5 (ty .f32) 63 0 1) 0 &&& is.c.fpen ≠ 0) f.h &&
        met s1 .wave f.len f.uses.rd f.uses.wr (fun is => is.c.utact && is.p.getLsbD 0 &&
          floatFlags is (.fMul h5 (ty .f32) 63 0 1) 0 &&& is.c.fpen ≠ 0) f.h))) = true := by decide +kernel
theorem witness_FloatResult_conversions :
    (has (floatForm (.fPack h5 (ty .i8) 63 60 .f32 0)) (fun f => met w0 .wave f.len f.uses.rd f.uses.wr (fun _ => true) f.h) &&
      has (floatForm (.fUnpack h5 (ty .f32) 60 63 .i8 0)) (fun f => met w0 .wave f.len f.uses.rd f.uses.wr (fun _ => true) f.h) &&
      has (floatForm (.fCvt h5 (ty .f64) 62 63 .f32)) (fun f => met w0 .wave f.len f.uses.rd f.uses.wr (fun _ => true) f.h)) = true := by
  decide +kernel

theorem witness_FloatForms :
    (met w0 .wave 8 [.v 62 2] [.v 63 1] && met w0 .wave 8 [.v 62 2, .v 0 2] [.k 15] (fun is => is.c.fpen = 0) &&
      (let s := w (fun c => { c with fpen := 31, v := [(0, 0x7F800001)] })
      met s .wave 8 [.v 0 1, .v 1 1] [.k 0] (fun is => !is.c.utact && is.p.getLsbD 0 &&
        (Fmt.cmp Ty.f32.fmt 0 (is.vw false 0 0) (is.vw false 1 0)).2 &&& is.c.fpen ≠ 0) h5) &&
      (let s := w (fun c => { c with fpen := 31, v := [(0, 0x7F800001)], utact := true })
      met s .wave 8 [.v 0 1, .v 1 1] [.k 0] (fun is => is.c.utact && is.p.getLsbD 0 &&
        (Fmt.cmp Ty.f32.fmt 0 (is.vw false 0 0) (is.vw false 1 0)).2 &&& is.c.fpen ≠ 0) h5)) = true := by decide +kernel

theorem witness_LongLatency :
    (has (longForm (.fDiv h0 (ty .f64) 62 0 2)) (fun f =>
        met (w (fun c => { c with xc := 62 })) .wave 8 (f.2.2.2.map (fun r => .v r 2)) [.v 62 2] (fun is => is.c.xc < 63) &&
        met (w (fun c => { c with xc := 63 })) .wave 8 (f.2.2.2.map (fun r => .v r 2)) [.v 62 2] (fun is => 63 ≤ is.c.xc)) &&
      has (crossFormV (.xPrmt h0 63 0 1 2)) (fun f =>
        met (w (fun c => { c with xc := 63 })) .wave f.len f.uses.rd f.uses.wr (fun is => 63 ≤ is.c.xc))) = true := by decide +kernel

theorem witness_CrossLane :
    (has (crossFormV (.xShfl h0 3 (ty .i64) 62 0 (.imm 63))) (fun f => met w0 .wave f.len f.uses.rd f.uses.wr (fun is => is.c.xc < 63)) &&
      has (crossFormS (.xVote { h0 with kp := 6 } 2 5 15)) (fun f =>
        met w0 f.1 8 f.2.2.1 [.s f.2.2.2] (fun is => is.c.xc < 63 && is.p = 0) f.2.1) &&
      met w0 { Perm.wave with onEmpty := true } 8 [.x 62 2] [.s 5] (fun is => is.c.xc < 63 && is.p = 0) { h0 with kp := 6 } &&
      met w0 .wave 8 [.x 62 2] [.v 60 2] (fun is => is.c.xc < 63)) = true := by decide +kernel

theorem witness_AmaxUpdate :
    met w0 .wave 8 (.v 63 1 :: srcUseS (.imm 63)) [] (fun is => is.c.ec < 63) = true := by decide +kernel

end Sys2Proof.Tests
end

