-- ==== Sys2Proof/Tests/Witness2.lean ====
section
/-! SUPPORT. Witnesses, continued: memory, barriers, futures, engines' posts, registers and launches. -/

namespace Sys2Proof.Tests

set_option Elab.async false

open Sys2Proof Sys2Proof.Machine

/-- A plain X1 of a size, an order and a scope. -/
def x1 (sz : BitVec 3) (ord : BitVec 2 := 0) (sc : BitVec 3 := 2) : X1F := { sx := false, vadr := false, sz := sz, ch := 0, ord := ord, sc := sc }
/-- Tiles 0 and 1 have 128 rows of 128 f16 (32 KiB); the team's window has 64 KiB. -/
def t0 : State :=
  { w0 with teams := [(1, { tm0 with foot := { tm0.foot with lsbytes := 65536 }, tcfg := [(0, 0x058080), (1, 0x058080)] })] }

/-- A local access is ready and passes. -/
def local? (i : Instr) (h : Hdr) (p : Iss → Bool) : Bool :=
  has (localForm i) (fun f => met w0 .wave 12 f.uses.rd f.uses.wr (fun is => passes f w0 is && p is) h)
theorem witness_LocalAccess :
    (local? (.lLd h0 false false 60 0 4 4080) h0 (fun is => is.c.ldc < 63) && local? (.lSt h0 false 0 60 4 4080) h0 (fun is => is.c.stc < 63) &&
      local? (.lFill h0 false 0 63 255 1020) h0 (fun is => is.c.stc < 63) && local? (.lSwz h0 false 0 7 4095) h0 (fun is => is.c.stc < 63) &&
      local? (.lAtom h5 true (ty .i64) 60 0 62 0 4088) h5 (fun is => is.c.ldc < 63) &&
      local? (.lCas h5 false (ty .i64) 60 0 62 58 4088) h5 (fun is => is.c.ldc < 63)) = true := by decide +kernel
theorem witness_LocalAccess_stops :
    (has (localForm (.lLd h0 false false 60 0 4 4081)) (fun f => met w0 .wave 12 f.uses.rd f.uses.wr (fun is =>
        !(is.p.list.filter (f.out w0 is)).isEmpty)) &&
      has (localForm (.lLd h0 false false 60 0 4 4072)) (fun f => met w0 .wave 12 f.uses.rd f.uses.wr (fun is =>
        (is.p.list.filter (f.out w0 is)).isEmpty && !(is.p.list.filter (fun k => f.addr is k % f.align ≠ 0)).isEmpty))) = true := by
  decide +kernel

/-- A tile of four rows of 16 bytes, where the local tile moves are small. -/
def t1 : State := { w0 with teams := [(1, { tm0 with tcfg := [(0, 0x051004)] })] }
/-- A row's stride of 16. -/
def t2 : State := { t1 with ctxs := [(0, { c0 with s := [(2, 32)] })] }
theorem witness_LocalTiles :
    (met t2 .core 12 [.s 0, .s 2] [] (fun is => has (t2.teams.find is.c.team) (fun tm => has (tm.shape 0) (fun sh =>
        good (t2.chunks is.c.team sh.swz sh.rb (is.lsRows 0 2 0 sh.rows)) (fun cs => (is.s 0).toNat % 16 = 0 && (is.s 2).toNat % 16 = 0 &&
          (t2.badTag sh.swz cs).isNone && quiet t2 is && offBoard is t2 16 (cs.map (fun c => { c.at_ with off := c.phys })) &&
          tileFree is t2 0 && is.c.ldc < 63 && is.c.stc < 63)))) &&
      (let t := { t2 with teams := t2.teams.map (fun e => (e.1, { e.2 with swz := [(0, 3)] })) }
      met t .core 12 [.s 0, .s 2] [] (fun is => has (t.teams.find is.c.team) (fun tm => has (tm.shape 0) (fun sh =>
        good (t.chunks is.c.team sh.swz sh.rb (is.lsRows 0 2 0 sh.rows)) (fun cs => (t.badTag sh.swz cs).isSome))))) &&
      met t2 .core 12 [.s 0, .s 2] [] (fun is => has (t2.teams.find is.c.team) (fun tm => (tm.shape 1).isNone && has (tm.shape 0) (fun sh =>
        !good (t2.chunks is.c.team sh.swz sh.rb (is.lsRows 0 2 4080 sh.rows)))))) = true := by decide +kernel

theorem witness_GlobalAccess :
    (met w0 .wave 16 [baseUse false 1, .v 60 4] [] (fun is => quiet w0 is && is.c.stc < 63 && reaches is w0 16 true false (x1 4) 1 0x001FFFF0) &&
      met w0 .all 16 [baseUse false 1] [.g 60 4] (fun is => quiet w0 is && is.c.ldc < 63 && reaches is w0 16 false false (x1 4) 1 0 &&
        clear is w0 16 ((is.routed w0 (x1 4) 1 0).map (·.2))) &&
      met st0 .all 16 [baseUse false 1] [.g 62 3] (fun is => isStoker is.a && quiet st0 is && is.c.ldc < 63 &&
        reaches is st0 8 false false (x1 3) 1 0 && clear is st0 8 ((is.routed st0 (x1 3) 1 0).map (·.2))) &&
      met st0 .all 16 [baseUse true 1] [.g 62 2] (fun is => isStoker is.a) &&
      met w0 .wave 16 [baseUse false 1] [.v 60 4, .k 15] (fun is => quiet w0 is && is.c.ldc < 63 &&
        (is.addrs (x1 4) 1 0).all (fun e => e.2 % 16 = 0) && clear is w0 16 ((is.routed w0 (x1 4) 1 0).map (·.2))) &&
      met w0 .wave 16 [baseUse false 1] [] (fun is => quiet w0 is)) = true := by decide +kernel
theorem witness_GlobalAccess_tiles :
    (let t := { t1 with ctxs := [(0, { c0 with s := [(1, 0x0000100000000000), (2, 256)] })] }
    met t .core 16 [.s 1, .s 2] [] (fun is => quiet t is && tileFree is t 0 && is.c.ldc < 63 && is.c.stc < 63 &&
      (is.addrS 1 0).toNat % 16 = 0 && (is.s 2).toNat % 16 = 0 && has (t.teams.find is.c.team) (fun tm => has (tm.shape 0) (fun sh =>
        let rows := (List.range sh.rows).map (fun r => (r, vaOf (is.addrS 1 0 + BitVec.ofNat 64 r * is.s 2)))
        let pieces := rowPieces rows sh.rb
        rows.all (fun e => arenaOf e.2 = arenaOf (e.2 + sh.rb - 1)) && pieces.all (fun e => allows is t e.2.2.1 false false) &&
          pieces.all (fun e => allows is t e.2.2.1 true false) && clear is t 1 (pieces.map (fun e => is.routeOf t e.2.2.1)))))) = true := by
  decide +kernel

theorem witness_AtomicIssue :
    (has (atomForm (.aRmw h0 (ty .i64) 60 1 62 0 0 (x1 3))) (fun f => met w0 .wave 16 (baseUse f.x1.vadr f.a :: f.rd) f.wr (fun is =>
        quiet w0 is && is.c.ctr f.k < 63 && reaches is w0 f.n true true f.x1 f.a f.x0)) &&
      has (atomForm (.aRed h0 (ty .i64) 1 62 0 0 (x1 3))) (fun f => met w0 .wave 16 (baseUse f.x1.vadr f.a :: f.rd) f.wr (fun is =>
        quiet w0 is && is.c.ctr f.k < 63 && reaches is w0 f.n true true f.x1 f.a f.x0)) &&
      has (atomForm (.aCas h0 52 1 60 56 0 (x1 4 3))) (fun f => met w0 .wave 16 (baseUse f.x1.vadr f.a :: f.rd) f.wr (fun is =>
        quiet w0 is && is.c.ctr f.k < 63 && reaches is w0 f.n true true f.x1 f.a f.x0)) &&
      met w0 .all 16 [baseUse false 1] [.g 60 3] (fun is => quiet w0 is && is.c.ldc < 63 && reaches is w0 8 false false (x1 3 1) 1 0 &&
        clear is w0 8 ((is.routed w0 (x1 3 1) 1 0).map (·.2))) &&
      met w0 .wave 16 [baseUse false 1, .v 62 2] [] (fun is => quiet w0 is && is.c.stc < 63 && reaches is w0 8 true false (x1 3 2) 1 0 &&
        (is.routed w0 (x1 3 2) 1 0).all (fun e => 1 ≤ w0.scope is.a 2 && e.2.attr.typ = Arn.typN && !e.2.attr.swm) &&
        !(is.routed w0 (x1 3 2 0) 1 0).all (fun e => 1 ≤ w0.scope is.a 0 && e.2.attr.typ = Arn.typN && !e.2.attr.swm) &&
        released is w0 0)) = true := by decide +kernel

theorem witness_OrderingIssue :
    (let at_ (n : Nat) (write : Bool) (is : Iss) : Bool := quiet w0 is && vaOf (is.addrS 1 0) % n = 0 && allows is w0 (vaOf (is.addrS 1 0)) write true
    met w0 .wave 8 [] [] (quiet w0) && met w0 .wave 16 [.s 1] [.s 63] (fun is => at_ 16 true is && is.c.ldc < 63) &&
      met w0 .wave 16 (.s 1 :: srcUseS (.imm 1)) [] (at_ 16 true) && met w0 .wave 16 [.s 1, .s 0] [] (at_ 16 false) &&
      met w0 .wave 16 [.s 1, .s 0] [.s 5] (at_ 8 false)) = true := by decide +kernel

/-- The object at an offset, with a word. -/
def obj (s : State) (is : Iss) (off : Nat) : Obj :=
  { key := 1, off := off, v := s.object 1 off, sc := s.scope is.a (BitVec.ofNat 3 (objSc (s.object 1 off))), addr := off }
/-- The hypotheses of a barrier instruction on the object at byte 4080. -/
def barAt (s : State) (is : Iss) : Bool :=
  quiet s is && is.c.guard.isNone && objectAt is s (is.objAddr 0 4080) (obj s is 4080) && !objFlt (s.object 1 4080) &&
    released is (s.mapTeam 1 (fun t => { t with objs := 4080 :: t.objs.filter (· ≠ 4080) })) (obj s is 4080).sc
theorem witness_BarrierOperations :
    (met w0 .core 12 [.s 0, .s 2] [] (fun is => barAt w0 is && bits (is.s 2).toNat 0 12 ≠ 0 && bits (is.s 2).toNat 13 3 ≠ 7) &&
      met w0 .core 12 [.s 0, .s 7] [.s 5] (barAt w0) && met w0 .core 12 [.s 0] [.s 5] (barAt w0) &&
      met w0 .core 12 [.s 0, .s 7] [] (barAt w0)) = true := by decide +kernel
theorem witness_BarrierFlip :
    (let v := 15 + 4095 * 65536
    let s := w (fun c => { c with park := .bar 1 4080 15 })
    has (s.teams.find 1) && objPend v = 0 && objInb v = 0 && objOutb v = 0 && !objRemote v &&
      has ((s.putObject 1 4080 v).ctx? (.slot 0 0)) &&
      has ((s.putObject 1 4080 (14 + 4095 * 65536)).ctx? (.slot 0 0)) (fun c => c.park = .bar 1 4080 15)) = true := by
  decide +kernel

/-- Nothing may be posted: the quad's table is full. -/
def full0 : State :=
  { w0 with quads := [(0, { Quad.init with tasks := (List.range 64).map (fun i => Task.new i (.slot 0 0) 1 (.zero 0) 0 0 0 0) })] }
/-- A post of the wave finds room. -/
def room (s : State) (is : Iss) : Bool := s.mayPost (quadOf is.a) is.c.team && futRoom s is
theorem witness_FuturesAndTasks :
    (met w0 .core 8 [] [.s 62] (fun is => w0.ctx? is.a = some is.c && room w0 is && is.c.ec < 63 && (w0.quad (quadOf is.a)).freeFut.isSome) &&
      met (w (fun c => { c with ec := 63 })) .core 8 [] [.s 62] (fun is => 63 ≤ is.c.ec) &&
      met full0 .core 8 [] [.s 62] (fun is => !full0.mayPost (quadOf is.a) is.c.team)) = true := by decide +kernel

/-- The operands of a matrix instruction are valid. -/
def mValid (f : MForm) (t : Team) : Bool :=
  has (t.shape f.a.toNat) (fun sa => has (t.shape f.b.toNat) (fun sb => has (tileMnk (f.sub.getLsbD 0) (f.sub.getLsbD 1) sa sb) (fun x =>
    has (pathOf f.mmt sa.ty sb.ty) (fun y => decide (f.c.toNat < t.foot.acc) && (!f.scales.isSome || y.2.2.2) && (!y.2.2.1 || f.scales.isSome) &&
      f.scales.all (fun e => scaleOk t e.1 x.1 (ceilDiv x.2.2 32) && scaleOk t e.2 x.2.1 (ceilDiv x.2.2 32))))))
theorem valid_of_mValid {f : MForm} {t : Team} (h : mValid f t = true) : ∃ sa sb m n k, f.valid t sa sb m n k := by
  unfold mValid at h
  cases ha : t.shape f.a.toNat with
  | none => simp only [ha, has, Bool.false_eq_true] at h
  | some sa =>
    cases hb : t.shape f.b.toNat with
    | none => simp only [ha, hb, has, Bool.false_eq_true] at h
    | some sb =>
      cases hm : tileMnk (f.sub.getLsbD 0) (f.sub.getLsbD 1) sa sb with
      | none => simp only [ha, hb, hm, has, Bool.false_eq_true] at h
      | some x =>
        cases hp : pathOf f.mmt sa.ty sb.ty with
        | none => simp only [ha, hb, hm, hp, has, Bool.false_eq_true] at h
        | some y =>
          simp only [ha, hb, hm, hp, has, Bool.and_eq_true, decide_eq_true_eq] at h
          refine ⟨sa, sb, x.1, x.2.1, x.2.2, h.1.1.1, ha, hb, hm, y.1, y.2.1, y.2.2.1, y.2.2.2, hp, ?_, ?_, ?_⟩
          · intro hs; simpa [hs] using h.1.1.2
          · intro hn; simpa [hn] using h.1.2
          · intro u v hs; simpa [hs] using h.2
/-- A matrix instruction is ready, and its operands are valid or not. -/
def mReady (s : State) (i : Instr) (ok : Bool) : Bool :=
  has (matrixForm i) (fun f => met s .core 16 [] [.s f.d] (fun is => has (s.teams.find is.c.team) (fun t => mValid f t = ok && room s is)) f.h)
theorem witness_MatrixPosts :
    (met t0 .core 8 [] [.s 62] (fun is => has (t0.teams.find is.c.team) (fun t => decide (3 < t.foot.acc) && decide (t.foot.acc ≤ 4)) &&
        room t0 is) &&
      mReady t0 (.mMma h0 0 62 0 1 3 true false 0 0 0 3 2 false) true && mReady t0 (.mMma h0 0 62 0 1 4 true false 0 0 0 3 2 false) false &&
      (let t := { t0 with teams := t0.teams.map (fun e => (e.1, { e.2 with tcfg := [(0, 0x0E4010), (1, 0x0C1040)] })) }
      mReady t (.mMmt h0 0 62 0 1 3 true 0 3 2 false) true) &&
      (let t := { t0 with teams := t0.teams.map (fun e => (e.1, { e.2 with tcfg := [(0, 0x042080)] })) }
      met t .core 12 [] [.s 62] (fun is => has (t.teams.find is.c.team) (fun m => has (m.shape 0) (rectOkB m 3 0 0 96) && room t is &&
        !has (m.shape 0) (rectOkB m 3 0 0 97))) &&
      met t .core 12 [.s 0, .s 2] [.s 62] (fun is => has (t.teams.find is.c.team) (fun m => has (m.shape 0) (fun sh => rectOkB m 3 0 0 96 sh &&
        quiet t is && (is.s 0).toNat % 16 = 0 && (is.s 2).toNat % 16 = 0 &&
        (List.range sh.rows).all (fun r => has (t.lsRow is.c.team sh.swz (((is.s 0).toNat + r * (is.s 2).toNat) % 2 ^ 32) (4 * sh.cols))
          (fun p => t.rowTag p (4 * sh.cols) sh.swz)))))) &&
      met t0 .core 8 (srcUseS (.imm 63)) [.s 62] (fun is => is.c.ec < 63 && !(t0.quad 0).amaxQ.any (fun u => u.2.1 = is.a)) &&
      (let t := { t0 with quads := [(0, { Quad.init with amaxQ := [(5, .slot 0 0, 5, 0, 0)] })] }
      met t .core 8 (srcUseS (.imm 63)) [.s 62] (fun is => is.c.ec < 63 && (t.quad 0).amaxQ.any (fun u => u.2.1 = is.a))) &&
      met t0 .core 8 [.s 7] [.s 62] (fun is => is.c.ec < 63 && has (t0.teams.find is.c.team))) = true := by decide +kernel

/-- A convert-and-store of 1 row of 128 columns, 16 bytes a row. -/
def cv0 : CvstX := { rows := 1, cols := 128, esc := 0, ch := 0, swz := 0, sc := 0, amen := false, amx := 0 }
theorem witness_MatrixRecords :
    (met t0 .core 16 [.s 0, .s 2] [.s 62] (fun is => has (t0.teams.find is.c.team) (fun tm => decide (3 < tm.foot.acc)) &&
        decide (cv0.cols.toNat * (Ty.i8).bits % 8 = 0) && (is.s 0).toNat % 16 = 0 && (is.s 2).toNat % 16 = 0 && quiet t0 is && room t0 is &&
        (t0.lsRow is.c.team 0 0 128).isSome) &&
      met t0 .core 16 [.s 1, .s 2] [.s 62] (fun is => (is.s 1).toNat % 16 = 0 && quiet t0 is && rowOk is t0 (is.s 1).toNat 128 true) &&
      met t0 .core 12 [] [.v 58 6] (fun is => t0.mayPost (quadOf is.a) is.c.team && is.c.ec < 63)) = true := by decide +kernel
/-- A descriptor in the local store: M = N = K = 128 of f16, operands in tiles 0 and 1; and one with a reserved bit. -/
def enq (ctl : Byte) : State :=
  { t0 with teams := t0.teams.map (fun e => (e.1, { e.2 with win := [(3, ctl), (4, 128), (5, 128), (6, 0x55), (8, 128), (24, 1)] })) }
theorem witness_MatrixRecords_enq :
    (met (enq 0x80) .core 8 [.s 0] [.s 62] (fun is => quiet (enq 0x80) is && has ((enq 0x80).teams.find is.c.team) (fun t =>
        good ((enq 0x80).record is true 0 0 64 64) (fun x => has (x.2.checkEnq is t (EnqRec.ofBytes x.1)) && futRoom x.2 is))) &&
      met (enq 0) .core 8 [.s 0] [.s 62] (fun is => quiet (enq 0) is && has ((enq 0).teams.find is.c.team) (fun t =>
        good ((enq 0).record is true 0 0 64 64) (fun x => (x.2.checkEnq is t (EnqRec.ofBytes x.1)).isNone && room x.2 is)))) = true := by
  decide +kernel

/-- The team with its rick bound. -/
def r0 : Rick := { r := 1, f := 0, rows := 16, cols := 16, g := [0x3F800000], w := [0x3F800000], n := 0 }
def rk0 : State := { t0 with teams := t0.teams.map (fun e => (e.1, { e.2 with ricks := [(0, r0)] })) }
theorem witness_RickPosts :
    (met rk0 .core 16 [.s 0] [.s 62] (fun is => has (rk0.teams.find is.c.team) (fun t => decide (0 < t.foot.ricks) && decide (3 < t.foot.acc) &&
        good (rk0.record is true 0 0 144 16) (fun x => quiet x.2 is && room x.2 is))) &&
      met rk0 .core 12 [] [.s 62] (fun is => has (rk0.teams.find is.c.team) (fun t => decide (0 < t.foot.ricks) && decide (3 < t.foot.acc)) &&
        quiet rk0 is && room rk0 is) &&
      met rk0 .core 12 [.s 0] [.s 62] (fun is => has (rk0.teams.find is.c.team) (fun t =>
        rangeOk is rk0 0 ((rk0.settled (quadOf is.a) is.c.team 0 t).elim 16 (·.rungBytes))) && quiet rk0 is) &&
      met t0 .core 16 [] [.s 62] (fun is => has (t0.teams.find is.c.team) (fun t => (t0.settled 0 is.c.team 0 t).isNone && decide (3 < t.foot.acc)) &&
        quiet t0 is && room t0 is) &&
      met t0 .core 16 [.s 0] [.s 62] (fun is => quiet t0 is && rangeOk is t0 0 160) &&
      met t0 .core 16 [.s 1] [.s 62] (fun is => quiet t0 is && (is.s 1).toNat % 16 = 0 && rowOk is t0 ((is.s 1).toNat % 2 ^ 56) 160 true &&
        rowOk is t0 ((is.s 1).toNat % 2 ^ 56) 160 false && room t0 is) &&
      met t0 .core 8 [] [.s 62] (fun is => has (t0.teams.find is.c.team) (fun t => decide (t.foot.ricks ≤ 1)) && quiet t0 is &&
        t0.mayPost (quadOf is.a) is.c.team && is.c.ec < 63)) = true := by decide +kernel
theorem witness_RickPosts_refused :
    ((let t := w (fun c => { c with s := [(1, 8)] })
      met t .core 16 [.s 1] [.s 62] (fun is => (is.s 1).toNat % 16 ≠ 0 && futRoom t is)) &&
      (let t := w (fun c => { c with s := [(1, 0x00FF000000000000)] })
      met t .core 16 [.s 1] [.s 62] (fun is => (is.s 1).toNat % 16 = 0 && futRoom t is &&
        !good (t.globalRow (coreOf is.a) (t.agentPart is.a) (is.s 1).toNat 160 true)))) = true := by decide +kernel

/-- A future in slot 7 of quad 0 with its site s9. -/
def g0 : Tag := { quad := 0, slot := 7, seq := 3, sc := 0, resolved := false, flags := 0, stale := false }
def fu0 : Fut := { seq := 3, kind := Kind.copy, sc := 0, team := 1, sites := [.reg (.slot 0 0) 9], op := 40, flags := 0, stale := false, acks := [] }
def fs0 : State :=
  { w0 with ctxs := [(0, { c0 with s := [(9, pendingHandle 3 0 Kind.copy 7), (10, resolvedHandle 3 0 Kind.copy Status.done 0)], tags := [(9, g0)] })]
            quads := [(0, { Quad.init with futs := [(7, fu0)] })] }
theorem witness_FutureInstructions :
    (met fs0 .core 8 [.s 10] [.s 62] (fun is => (is.c.tags.find 10).isNone && handleStatus (is.s 10) ≠ 0 && is.c.ec < 63) &&
      met fs0 .core 8 [.s 0] [.s 62] (fun is => (is.c.tags.find 0).isNone && handleStatus (is.s 0) = 0) &&
      seen fs0 8 (fun is => is.p ≠ 0 && !is.fr.meld && !isStoker is.a && !isHearth is.a && is.c.pend.isEmpty &&
        has (is.c.tags.find 9) (fun g => !g.resolved)) &&
      met fs0 .core 8 [.h 9] [.s 62] (fun is => is.c.ec < 63 && has (is.c.tags.find 9) (fun g => !g.resolved &&
        has ((fs0.quad g.quad).futs.find g.slot) (fun f => decide (f.kind ≤ 2) && decide (f.sites.length < 4))) &&
        (is.c.tags.find 62).isNone) &&
      met fs0 .core 12 [.h 10] [.s 62] (fun is => is.c.ec < 63 && (is.c.tags.find 10).isNone) && met fs0 .core 12 [.h 9] [.s 62]) =
      true := by decide +kernel

/-- The word at the base of arena 1 is a handle of slot 7. -/
def fs1 : State :=
  { fs0 with mem := [], ctxs := [(0, { c0 with s := [(1, 0x0000100000000000), (9, pendingHandle 3 0 Kind.copy 7)], tags := [(9, g0)] })] }
theorem witness_FutureInstructions_words :
    (met fs1 .core 8 [.s 1] [.s 62] (fun is => quiet fs1 is && vaOf (is.s 1) % 8 = 0 && allows is fs1 (vaOf (is.s 1)) false true) &&
      met fs1 .core 8 [.h 1] [.s 62] (fun is => quiet fs1 is && is.c.ec < 63 && vaOf (is.s 1) % 8 = 0 && allows is fs1 (vaOf (is.s 1)) false true) &&
      (let s := { fs1 with mem := m0.mem }
      met s .core 8 [.h 1] [.s 62] (fun is => quiet s is && is.c.ec < 63 && allows is s (vaOf (is.s 1)) false true &&
        good (s.readRecord is (BitVec.ofNat 64 (is.canon s (vaOf (is.s 1)))) 8 8) (fun r => !r.2.1))) &&
      met fs1 .core 12 [.h 0, .h 1] [] (fun is => quiet fs1 is && vaOf (is.addrS 1 0) % 8 = 0 && allows is fs1 (vaOf (is.addrS 1 0)) true true &&
        (is.c.tags.find 0).isNone) &&
      met fs1 .core 12 [.h 9, .h 1] [] (fun is => quiet fs1 is && vaOf (is.addrS 1 0) % 8 = 0 && allows is fs1 (vaOf (is.addrS 1 0)) true true &&
        has (is.c.tags.find 9) (fun g => !g.resolved && has ((fs1.quad g.quad).futs.find g.slot) (fun f => decide (f.sites.length < 4))))) =
      true := by decide +kernel

theorem witness_RegisterPool :
    (let pool := { w0 with teams := [(1, { tm0 with foot := { tm0.foot with ceil := 128 } })] }
    met pool .core 8 (srcUseS (.imm 64)) [.s 62] (fun is => has (pool.teams.find is.c.team) (fun t =>
        decide ((is.srcZ (.imm 64)).toNat ≤ min 256 t.pool) && decide ((is.srcZ (.imm 64)).toNat ≤ is.c.nreg)) && is.c.ec < 63) &&
      met pool .core 8 (srcUseS (.imm 256)) [.s 62] (fun is => has (pool.teams.find is.c.team) (fun t =>
        decide ((is.srcZ (.imm 256)).toNat ≤ min 256 t.pool) && decide (is.c.nreg < (is.srcZ (.imm 256)).toNat))) &&
      met w0 .core 8 (srcUseS (.imm 8)) [] (fun is => is.c.pend.isEmpty) && met w0 .core 12 [] [] && met w0 .core 8 [] [] &&
      met w0 .core 8 (srcUseS (.imm 1)) []) = true := by decide +kernel

/-- A launch record at byte 64 of arena 1 and its footprint at byte 256: 1 x 1 x 1 teams of one wave. -/
def laMem : Memory :=
  let l := leBytes 8 0x0000100000000100 ++ leBytes 8 0x0000100000010000 ++ leBytes 4 1 ++ leBytes 4 1 ++ leBytes 4 1
  let f := leBytes 8 0 ++ [(1 : Byte), 64] ++ leBytes 2 64 ++ leBytes 2 64 ++ [(0 : Byte), 0] ++ leBytes 4 256 ++ [(1 : Byte), 0]
  (m0.mem.write 64 l).write 256 f
def ga0 : Group :=
  { part := 0, die := 0, gx := 1, gy := 1, gz := 1, foot := tm0.foot, footBytes := [], code := 0, prio := 0, sc := 0, pin := none,
    ctxa := 0, sigaddr := 0, sigval := 0, args := 0, rngkey := 0, depth := 0, parent := none, kind := 2, next := 1, retired := 0,
    worst := none, cut := false, fut := none, since := 0, blocking := false, queued := false }
def la0 : State := { m0 with mem := laMem, groups := [(9, ga0)] }
theorem witness_Launches :
    (met la0 .core 16 [.s 1] [.s 62] (fun is => quiet la0 is && good (la0.record is false 1 64 64 64) (fun x =>
        is.c.priv && decide ((x.2.teamOf is.c).elim 0 (·.depth) < 8) && decide (field x.1 0 8 % 8 = 0) && futRoom x.2 is &&
        good (x.2.readFoot is (field x.1 0 8 % 2 ^ 56)) (fun y => good y (fun y => good (x.2.checkLaunch is true x.1 y.1)))))) = true := by
  decide +kernel
theorem witness_Launches_faults :
    ((let s := { la0 with ctxs := [(0, { c0 with priv := false })] }
      met s .core 16 [.s 1] [.s 62] (fun is => good (s.record is false 1 64 64 64) && !is.c.priv)) &&
      (let s := { la0 with teams := [(1, { tm0 with depth := 8 })] }
      met s .core 16 [.s 1] [.s 62] (fun is => good (s.record is false 1 64 64 64) (fun x => decide (8 ≤ (x.2.teamOf is.c).elim 0 (·.depth)))))) =
      true := by decide +kernel

end Sys2Proof.Tests
end

