-- ==== Sys2Proof/Tests/Witness3.lean ====
section
/-! SUPPORT. Witnesses, continued: engine work, the stoker, KV, arenas, ranges and the change tree. -/

namespace Sys2Proof.Tests

set_option Elab.async false

open Sys2Proof Sys2Proof.Machine

/-- A fill into the local store. -/
def fill (a c : RegNo) : Instr := .eFill h0 62 a 7 c 0 { bar := false, swz := 0, sc := 0, ch := 0, sls := false, dls := true }
/-- A copy instruction is ready; a condition on its command, the code of its check and whether the scoreboard has room. -/
def copyMeets (s : State) (i : Instr) (p : Copy → Option Nat → Bool → Bool) : Bool :=
  has (copyForm i) (fun f => met s .core 16 f.2.2.1 [.s f.2.1] (fun is => quiet s is && futRoom s is &&
    (let c : Copy := { copyCmd s is i f.2.2.2.1 f.2.2.2.2 with id := s.uid }
    let s1 : State := { s with uid := s.uid + 1 }
    p c (s1.checkCopy is.a (coreOf is.a) (s.agentPart is.a) c (copyRows is i)) (s.boardRoom (coreOf is.a) (s1.copyRanges c (copyRows is i))))) f.1)
theorem witness_CopyPosts :
    (copyMeets w0 (fill 7 2) (fun _ code _ => code.isSome) && copyMeets w0 (fill 0 0) (fun c code _ => code.isNone && c.left.isEmpty) &&
      copyMeets w0 (fill 0 2) (fun c code free => code.isNone && !c.left.isEmpty && free) &&
      copyMeets { w0 with cores := [(0, { Core.init with board := (List.range 32).map (fun i => { id := i, copy := 0, team := 5, swz := 0, lo := 0, hi := 1 }) })] }
        (fill 0 2) (fun c code free => code.isNone && !c.left.isEmpty && !free)) = true := by decide +kernel

/-- A fill of 96 bytes of the local store in the quad's engine. -/
def cp0 : Copy := { Copy.blank ckFill false true 0 0 96 with id := 40, agent := .slot 0 0, team := 1, left := [(0, 0, 96)], fut := some (0, 7) }
def cps (f : Copy → Copy) : State := { w0 with quads := [(0, { Quad.init with copies := [f cp0] })] }
/-- A copy of 96 bytes of the local store to its upper half. -/
def cp1 : Copy := { cp0 with kind := ckCopy, sls := true, src := 0, dst := 2048 }
/-- A task of the quad's table. -/
def tk0 : Task := { Task.new 50 (.slot 0 0) 1 (.zero 3) 0 0 0 64 with slots := [3] }
def tks (f : Task → Task) : State := { t0 with quads := [(0, { Quad.init with tasks := [f tk0] })] }
/-- The quad's one task. -/
def task? (s : State) (p : Task → Bool) : Bool := has (s.task? 0 50) p
theorem witness_EngineSteps_copy :
    (has ((cps id).findCopy 40) (fun e => !e.2.cancel && e.2.fail.isNone && e.2.held.isNone && (cps id).landOk e.2 0 64 32 &&
        has (takeLeft e.2.left 0 64 96) && (((cps id).touchIndex e.2 0).indexBad e.2 0 64 32).isNone &&
        good (((cps id).touchIndex e.2 0).copyWords e.2 0 64 32) (fun x => good (x.2.2.2.copyDst e.2 0 64 x.1))) &&
      (let s := cps (fun _ => cp1)
      has (s.findCopy 40) (fun e => e.2.kind = ckCopy && e.2.idx.isNone && e.2.sls && e.2.dls && e.2.swz = 0 && e.2.bar.isNone &&
        e.2.src % 4 = e.2.dst % 4 && e.2.carry.isEmpty && s.landOk e.2 0 64 32 && has (takeLeft e.2.left 0 64 96) && has (s.lsRow e.2.team 0 ((e.2.src + 64) % 2 ^ 32) 32) (fun p =>
          has ((s.touch e.2.agent e.2.pc p 32).lsRow e.2.team 0 ((e.2.dst + 64) % 2 ^ 32) 32)))) &&
      has ((cps (fun c => { c with left := [] })).findCopy 40) (fun e => e.2.fail.isNone && !e.2.cancel && e.2.left.isEmpty) &&
      has ((cps (fun c => { c with cancel := true })).findCopy 40) (fun e => e.2.fail.isNone && e.2.cancel) &&
      has ((cps (fun c => { c with fail := some 3 })).findCopy 40) (fun e => e.2.fail.isSome) &&
      (let s := { w0 with cores := [(0, { Core.init with board := [{ id := 3, copy := 40, team := 1, swz := 0, lo := 0, hi := 96 }] })] }
      has ((s.core 0).board.find? (fun b => b.id = 3)) (fun b => (s.findCopy b.copy).isNone))) = true := by decide +kernel
theorem witness_EngineSteps_task :
    (task? (tks id) (fun k => !k.isRick && has ((tks id).nextTask 0 ((tks id).eligible 0)) (fun t => t.id = 50 && good ((tks id).runPass 0 t))) &&
      (let s := tks (fun t => { t with op := .rkread 0 3 false 1 })
      task? s (fun k => k.isRick && ((s.nextTask 0 (s.rickEligible 0)).map (·.id)) = some 50)) &&
      (let s := tks (fun t => { t with granted := true })
      task? s (fun t => t.granted && !t.isRick && good ((s.mapQuad 0 (fun x => { x with engine := none })).runPass 0 t))) &&
      task? (tks (fun t => { t with fail := some 3 })) (fun t => !t.isRick && !t.granted && t.fail.isSome) &&
      task? (tks (fun t => { t with cancel := true })) (fun t => !t.isRick && !t.granted && t.fail.isNone && t.cancel) &&
      task? (tks (fun t => { t with done := true })) (fun t => !t.isRick && !t.granted && t.fail.isNone && !t.cancel && t.done)) =
      true := by decide +kernel
/-- A task of one row whose operands stand in an arena that nothing maps. -/
def unmapped : State := tks (fun t => { t with
  op := .mm false false false false .f16 .f16 3 1 1 16 (.global 0x0000100000000000 32) (.global 0x0000100000001000 32) none })
theorem witness_EngineSteps_trouble :
    task? unmapped (fun t => unmapped.eligible 0 t && ((unmapped.nextTask 0 (unmapped.eligible 0)) = some t) && (unmapped.quad 0).engine.isNone &&
      (match unmapped.runPass 0 t with | .error _ => true | .ok _ => false)) = true := by decide +kernel
theorem witness_EngineSteps_rick :
    ((let s := tks (fun t => { t with op := .rkread 0 3 false 1, granted := true })
      task? s (fun t => t.isRick && t.held.isNone && t.fail.isNone && (s.runRick t).err.isNone)) &&
      (let s := tks (fun t => { t with op := .rkstat 0 9 62 })
      task? s (fun t => t.held.isNone && s.taskFree 0 t && has (s.teams.find t.team))) &&
      task? (tks (fun t => { t with op := .rkread 0 3 false 1, granted := true, fail := some 3 })) (fun t => t.granted && t.fail.isSome) &&
      task? (tks (fun t => { t with op := .rkread 0 3 false 1, cancel := true })) (fun t => !t.granted && t.cancel && t.held.isNone) &&
      (let s := { w0 with quads := [(0, { Quad.init with amaxQ := [(4, .slot 0 0, 4, 63, 0x3F800000)] })] }
      has ((s.quad 0).amaxQ.find? (fun u => u.1 = 4)) (fun u => !(s.quad 0).amaxQ.any (fun v => v.2.1 = u.2.1 && v.1 < 4)))) = true := by
  decide +kernel

theorem witness_Stokers_bind :
    (met st1 .core 16 [.s 0, .s 1] [.s 62] (fun is => ((is.pc + (2 : W64)) &&& 0x00FFFFFFFFFFFFFF).toNat % 4 ≠ 0 &&
        released is st1 0 && is.c.ec < 63 && has (st1.stokerOf is.c.team) (fun e => st1.stokerRuns e.1 e.2)) &&
      (let s := { st1 with stokers := [(0, { team := 1, running := false, queues := [] })] }
      met s .core 16 [.s 0, .s 1] [.s 62] (fun is => has (s.stokerOf is.c.team) (fun e => !s.stokerRuns e.1 e.2))) &&
      (let s := { w0 with stokers := (List.range 4).map (fun i => (i, { team := 7, running := true, queues := [] })) }
      met s .core 16 [.s 0, .s 1] [.s 62] (fun is => (s.stokerOf is.c.team).isNone &&
        ((List.range 4).find? (fun i => (s.stokers.find (4 * 0 + i)).isNone)).isNone)) &&
      met w0 .core 16 [.s 0, .s 1] [.s 62] (fun is => (w0.stokerOf is.c.team).isNone && has (w0.teams.find is.c.team) &&
        released is w0 0 && has ((List.range 4).find? (fun i => (w0.stokers.find (4 * 0 + i)).isNone))) &&
      met w0 .core 16 [] [.s 62] (fun is => is.c.ec < 63 && (w0.stokerOf is.c.team).isNone) &&
      met st1 .core 16 [] [.s 62] (fun is => is.c.ec < 63 && has (st1.stokerOf is.c.team))) = true := by decide +kernel
/-- The stoker's queue 3. -/
def sq (q : SQueue) (cur : Agent) : State := { st0 with stokers := [(0, { team := 1, running := true, queues := [(3, q)] })], cur := cur }
theorem witness_Stokers_push :
    (met w0 .coreAll 8 [.s 7] [] (fun is => !isStoker is.a) &&
      (let s := sq { ents := (List.range 32).map (fun i => (i, 0, .offered)), next := 32, fin := false } (.slot 0 20)
      met s .coreAll 8 [.s 7] [] (fun is => isStoker is.a && has (s.stokerOf is.c.team) (fun e => 32 ≤ (e.2.queue 3).ents.length))) &&
      met st0 .coreAll 8 [.s 7] [] (fun is => isStoker is.a && has (st0.stokerOf is.c.team) (fun e => (e.2.queue 3).ents.length < 32) &&
        released is st0 0) &&
      met st0 .coreAll 8 [] [] (fun is => isStoker is.a && has (st0.stokerOf is.c.team) && released is st0 0 &&
        (st0.poppers is.c.team (some 3)).isEmpty)) = true := by decide +kernel
/-- END of queue 3 is set, and the team's wave is parked in a kv.pop of it. -/
def ended : State :=
  { sq { ents := [], next := 0, fin := true } (.slot 0 20) with ctxs := [(0, { c0 with park := .pop 3 62 9 })] }
theorem witness_Stokers_end :
    ((ended.poppers 1 (some 3) = [(.slot 0 0, 62, 9)]) && has (ended.ctx? (.slot 0 0)) (fun c => c.park = .pop 3 62 9 && c.team = 1 && c.stop.isNone) &&
      has (ended.stokerOf 1) (fun e => (e.2.queue 3).offered?.isNone && (e.2.queue 3).fin)) = true := by decide +kernel
theorem witness_Stokers_pop :
    ((let s := sq { ents := [(5, 9, .offered)], next := 6, fin := false } (.slot 0 0)
      met s .core 8 [] [.s 62] (fun is => is.c.ec < 63 && has (s.stokerOf is.c.team) (fun e => (s.poppers is.c.team (some 3)).isEmpty &&
        has (e.2.queue 3).offered?))) &&
      (let s := sq { ents := [], next := 6, fin := true } (.slot 0 0)
      met s .core 8 [] [.s 62] (fun is => has (s.stokerOf is.c.team) (fun e => (s.poppers is.c.team (some 3)).isEmpty &&
        (e.2.queue 3).offered?.isNone && (e.2.queue 3).fin))) &&
      (let s := sq { ents := [], next := 6, fin := false } (.slot 0 0)
      met s .core 8 [] [.s 62] (fun is => has (s.stokerOf is.c.team) (fun e => (e.2.queue 3).offered?.isNone && !(e.2.queue 3).fin) &&
        is.c.ec < 63)) &&
      (let s := sq { ents := [(5, 9, .wave (.slot 0 0))], next := 6, fin := false } (.slot 0 0)
      met s .core 8 [] [] (fun is => has (s.stokerOf is.c.team) (fun e => has ((e.2.queue 3).owned? is.a) && ((e.2.queue 2).owned? is.a).isNone)))) =
      true := by decide +kernel
/-- The wave holds entry 5 of queue 3, and s9, s10 are as in fs0. -/
def ack0 : State :=
  { sq { ents := [(5, 9, .wave (.slot 0 0))], next := 6, fin := false } (.slot 0 0) with ctxs := fs0.ctxs, quads := fs0.quads }
theorem witness_Stokers_ack :
    (met ack0 .core 8 [.h 0] [] (fun is => has (ack0.stokerOf is.c.team) && (is.c.tags.find 0).isNone &&
        handleStatus (is.s 0) = Status.pending) &&
      met ack0 .core 8 [.h 10] [] (fun is => (is.c.tags.find 10).isNone && handleStatus (is.s 10) ≠ Status.pending &&
        has (ack0.stokerOf is.c.team) (fun e => has ((e.2.queue 3).owned? is.a))) &&
      met ack0 .core 8 [.h 9] [] (fun is => has (is.c.tags.find 9) (fun g => !g.resolved && has ((ack0.quad g.quad).futs.find g.slot))) &&
      met w0 .coreAll 8 [] [.s 62] (fun is => (w0.stokerOf is.c.team).isNone) &&
      met st1 .coreAll 8 [] [.s 62] (fun is => has (st1.stokerOf is.c.team) && is.c.ec < 63)) = true := by decide +kernel

/-- A dead arena in s7. -/
theorem witness_KvInstructions :
    (met w0 .core 16 [.s 1, .s 0] [.s 62] (fun is => quiet w0 is && futRoom w0 is && has (w0.lsOf is.a is.c ((is.s 0).toNat % 2 ^ 32))
          (fun p => decide (p.off + 16 ≤ p.limit) && offBoard is w0 16 [p]) && allows is w0 (vaOf (is.s 1)) true true) &&
      met w0 .core 12 [.s 1, .s 0] [.s 62] (fun is => quiet w0 is && futRoom w0 is && allows is w0 (vaOf (is.s 1)) true true) &&
      met w0 .core 12 [.s 7, .s 0] [.s 62] (fun is => quiet w0 is && futRoom w0 is &&
        !good (w0.route (coreOf is.a) (w0.agentPart is.a) (vaOf (is.s 7)) true true)) &&
      met w0 .coreAll 12 [.s 62, .s 63, .s 1] [.s 62] (fun is => quiet w0 is && is.c.ec < 63 && allows is w0 (vaOf (is.s 1)) false true) &&
      met w0 .core 12 [.s 62, .s 63, .s 1, .s 0] [.s 62] && met w0 .coreAll 8 [.s 62, .s 63, .s 1] [.s 62] &&
      met w0 .core 12 [.v 62 2, .v 0 1, .v 1 1] [.v 60 2] (fun is => is.c.ec < 63) &&
      met m0 .core 12 [.s 1] [] (fun is => quiet m0 is && good (m0.readRecord is (is.addrS 1 0) 256 16) (fun x => !x.2.1))) =
      true := by decide +kernel

/-- A page pool at byte 0 of arena 1 with two pages of 4 KiB at 64 KiB and reference counts at byte 4096. -/
def pool : Nat := 0x0000100000000000
def kvMem : Memory :=
  m0.mem.write 0 (leBytes 8 (pool + 0x10000) ++ leBytes 4 4096 ++ leBytes 4 2 ++ leBytes 4 2 ++ leBytes 4 0 ++ leBytes 8 (pool + 8192) ++
    leBytes 8 (pool + 4096))
def kv0 (pre : List Prefix) : State := { m0 with mem := kvMem, dies := [(0, { Die.init with prefixes := pre })] }
def pre0 (n : Nat) : Prefix := { part := 0, tag := 7, pool := pool, page := 1, count := n }
theorem witness_KvInstructions_steps :
    (good (((kv0 [pre0 1]).kvPool 0 pool).run []) (fun p => has (((kv0 [pre0 1]).die 0).prefixes.find? (fun e => e.matches 0 7 pool)) (fun e =>
        decide (e.page < p.1.npage) && e.count ≠ 65535 && good (((kv0 [pre0 1]).kvRc 0 [] p.1 e.page).run p.2) (fun n => n.1 ≠ 65535))) &&
      good (((kv0 []).kvPool 0 pool).run []) (fun p => decide (1 < p.1.npage) &&
        (((kv0 []).die 0).prefixes.find? (fun e => e.matches 0 7 pool)).isNone && good (((kv0 []).kvRc 0 [] p.1 1).run p.2) (fun n => n.1 ≠ 65535)) &&
      good (((kv0 [pre0 2]).kvPool 0 pool).run []) (fun p => has (((kv0 [pre0 2]).die 0).prefixes.find? (fun e => e.matches 0 7 pool))
        (fun e => decide (e.page < p.1.npage) && 1 < e.count))) = true := by decide +kernel
/-- A request of the wave at the home. -/
def rq (op : ReqOp) (va n : Nat) : Req := { Req.blank { a := .slot 0 0, team := 1, pc := 64, lanes := 1, meld := false } 0 0 va n 0 0 Arn.typN op with id := 30 }
theorem witness_KvInstructions_home :
    (let r := rq (.kvfind 7 62) pool 64
    let s : State := { kv0 [pre0 1] with reqs := [r] }
    has (s.reqs.find? (fun x => x.id = 30)) (fun x => x = r) && s.mayAct r && !s.staleGen 0 pool 0 && !s.draining r && !s.absent 30 &&
      has (s.linkFor r (s.unitOf 0 pool)) (fun s1 => good ((s1.kvRun (s.unitOf 0 pool % 32) r).run []) (fun x => has (s1.kvReach r (s.unitOf 0 pool) x.2)))) = true := by decide +kernel

/-- Arena 2 is LIVE in the core's table and at the master, arena 3 of another type. -/
def ar0 : State :=
  { w0 with cores := [(0, { Core.init with attr := [(2, { Attr.init 2 with state := 1 }), (3, { Attr.init 3 with state := 1, typ := 1 })] })]
            ctxs := [(0, { c0 with s := [(1, 0x0000100000000000), (3, 0x0000200000000000), (4, 0x0000300000000000)] })] }
theorem witness_ArenaRequests :
    (met ar0 .wave 16 [.s 1] [.s 62] (fun is => is.c.ec < 63) && met ar0 .wave 8 [.s 0] [.s 62] (fun is => arenaOf (is.s 0).toNat = 0) &&
      met ar0 .wave 8 [.s 1] [.s 62] (fun is => arenaOf (is.s 1).toNat = 1) &&
      met ar0 .wave 8 [.s 4] [.s 62] (fun is => (ar0.attr 0 (arenaOf (is.s 4).toNat)).state = Arn.live &&
        (ar0.attr 0 (arenaOf (is.s 4).toNat)).typ ≠ Arn.typN) &&
      met ar0 .wave 8 [.s 3] [.s 62] (fun is => arenaOf (is.s 3).toNat = 2 && (ar0.attr 0 2).typ = Arn.typN && !(ar0.attr 0 2).swm && futRoom ar0 is)) =
      true := by decide +kernel

/-- The arena master with one request, arena 2 in a state. -/
def am (op aid parent st : Nat) (sweeps : Nat := 0) : State :=
  { w0 with parts := [(0, { Part.init 1 0 with
      arenas := [(1, Arena.init 1), (2, { Arena.init 2 with state := st, sweeps := sweeps })]
      masterQ := [{ id := 30, agent := .slot 0 0, op := op, aid := aid, arg := parent, x1 := 16, pend := 0, fut := none }] })] }
def amAt (s : State) (p : Part → MasterReq → Bool) : Bool :=
  has ((s.part 0).masterQ.find? (fun x => x.id = 30)) (fun m => p { s.part 0 with masterQ := [] } m)
theorem witness_ArenaMaster :
    (amAt (am mAnew 4095 1 0) (fun p m => good (p.pickId m.aid m.arg)) && amAt (am mAnew 2 0 0) (fun p m => !good (p.pickId m.aid m.arg)) &&
      amAt (am mSeal 2 0 Arn.live) (fun p m => (p.arena m.aid).state = Arn.live && !(p.arena m.aid).sealp && (p.arena m.aid).typ = Arn.typN &&
        !(p.arena m.aid).swm) &&
      amAt (am mSeal 2 0 Arn.sealed) (fun p m => (p.arena m.aid).state = Arn.sealed) &&
      amAt (am mDrop 2 0 Arn.free) (fun p m => (p.arena m.aid).state = Arn.free) &&
      amAt (am mDrop 2 0 Arn.live 14) (fun p m => p.subtree m.aid = [m.aid] && (p.arena m.aid).sweeps ≠ 15) &&
      amAt (am mDrop 2 0 Arn.sealed 15) (fun p m => (p.subtree m.aid).any (fun i => (p.arena i).sweeps = 15))) = true := by decide +kernel

/-- A partition with a broadcast and a drain of arena 2. -/
def as0 (d : Drain) (st : Nat) : State :=
  { m0 with parts := [(0, { Part.init 1 0 with
      arenas := [(1, { Arena.init 1 with zf := true }), (2, { Arena.init 2 with state := st, sweeps := 1 })]
      bcasts := if d.bno = 0 then [] else [{ no := 5, aid := 2, attr := { Attr.init 2 with state := st }, waiting := [0] }]
      drains := [d] })] }
def dr0 (isSeal : Bool) (stage bno : Nat) : Drain := { aid := 2, isSeal := isSeal, gen := 0, bno := bno, stage := stage, futs := [] }
theorem witness_ArenaSteps :
    (has (((as0 (dr0 true 0 1) Arn.sealed).part 0).bcasts.find? (fun b => b.waiting.contains 0)) (fun b => b.attr.state = Arn.sealed) &&
      has (((as0 (dr0 false 0 1) Arn.draining).part 0).bcasts.find? (fun b => b.waiting.contains 0)) (fun b => b.attr.state ≠ Arn.sealed) &&
      has (((as0 (dr0 false 0 0) Arn.draining).part 0).drains.find? (fun d => d.aid = 2 && d.stage = 0)) (fun d =>
        !d.isSeal && (((as0 (dr0 false 0 0) Arn.draining).part 0).dropDrains d).all (fun x => (as0 (dr0 false 0 0) Arn.draining).watermark 0 x)) &&
      has (((as0 (dr0 true 0 0) Arn.live).part 0).drains.find? (fun d => d.aid = 2 && d.stage = 0)) (fun d =>
        (as0 (dr0 true 0 0) Arn.live).watermark 0 d && d.isSeal) &&
      has (((as0 (dr0 true 1 0) Arn.live).part 0).drains.find? (fun d => d.aid = 2 && d.isSeal && d.stage = 1)) (fun d =>
        !(as0 (dr0 true 1 0) Arn.live).carried 0 2 d.gen) &&
      ((as0 (dr0 true 1 0) Arn.live).part 0).arenas.any (fun e => e.2.sweeps ≠ 0) &&
      (let s := as0 (dr0 true 1 0) Arn.live
      ((s.part 0).arena (arenaOf (pool / 4096 * 4096))).zf && !(s.part 0).zfPages.contains (pool / 4096) && has (s.walkVa 0 (pool / 4096 * 4096)))) =
      true := by decide +kernel

theorem witness_RangeOperations :
    (let at' (is : Iss) (r : RegNo) : Option Nat := checkAttr (arenaOf (canonical (w0.core 0).filters (vaOf (is.s r))))
      (w0.attr 0 (arenaOf (canonical (w0.core 0).filters (vaOf (is.s r))))) false false
    met w0 .wave 16 [.s 1, .s 0] [.s 62] (fun is => quiet w0 is && (is.s 0).toNat = 0 && futRoom w0 is) &&
      met w0 .wave 16 [.s 0, .s 2] [.s 62] (fun is => (is.s 2).toNat ≠ 0 && (at' is 0).isSome) &&
      met w0 .wave 16 [.s 1, .s 7] [.s 62] (fun is => (at' is 1).isNone && 2 ^ 44 < offOf (vaOf (is.s 1)) + (is.s 7).toNat) &&
      met w0 .wave 16 [.s 1, .s 2] [.s 62] (fun is => (at' is 1).isNone && offOf (vaOf (is.s 1)) + (is.s 2).toNat ≤ 2 ^ 44 && futRoom w0 is &&
        good (({ w0 with uid := w0.uid + 1 } : State).takeFut is 62 Kind.range 3 w0.uid))) = true := by decide +kernel

/-- A tree with node 1 under the root 0 and an enrollment of the first block of arena 1. -/
def en0 (n : Nat) : Enroll := { id := 20, base := pool, blocks := 1, parts := [(pool, 65536, 0)], node := n, consec := false, waiting := [], removing := false, fut := none }
def tr (f : Part → Part) : State :=
  { w0 with ctxs := [(0, { c0 with s := [(1, 0x0000100000000000), (2, 65536)] })]
            parts := [(0, f { Part.init 1 0 with nodes := [(1, { count := 0, parent := 0 })] })] }
theorem witness_TreeRequests :
    (has (treeForm (.cCtpar h0 62 2 1)) (fun f => met (tr id) .wave f.2.1 f.2.2.1 [.s f.2.2.2.1] (fun is => is.c.ec < 63) f.1) &&
      met (tr id) .wave 8 [.s 1] [.s 62] (fun is => quiet (tr id) is && futRoom (tr id) is) &&
      met (tr id) .wave 16 [.s 1, .s 2] [.s 62] (fun is => enrollOk is (tr id) 1 2 pool 1 && futRoom (tr id) is &&
        !((tr id).part 0).hasNode 65534 && ((tr id).part 0).hasNode 1 && !((tr id).part 0).enrolls.any (fun x => x.meets (is.enrollPieces (tr id) 1 2))) &&
      (let s := tr (fun p => { p with enrolls := [en0 1] })
      met s .wave 16 [.s 1, .s 2] [.s 62] (fun is => enrollOk is s 1 2 pool 1 && futRoom s is &&
        (s.part 0).enrolls.any (fun x => x.meets (is.enrollPieces s 1 2)) && has ((s.part 0).enrolls.find? (fun x => x.base = pool && x.blocks = 1 && !x.removing &&
          x.waiting.isEmpty)))) &&
      (((tr id).part 0).enrolls.find? (fun x => x.base = pool && x.blocks = 1 && !x.removing && x.waiting.isEmpty)).isNone) = true := by
  decide +kernel
theorem witness_TreeRequests_full :
    (let s := tr (fun p => { p with enrolls := List.replicate 8192 { en0 1 with base := 0, parts := [(0, 65536, 0)] } })
    met s .wave 16 [.s 1, .s 2] [.s 62] (fun is => enrollOk is s 1 2 pool 1 && futRoom s is &&
      !(s.part 0).enrolls.any (fun x => x.meets (is.enrollPieces s 1 2)) && decide (8192 ≤ (s.part 0).enrolls.length))) = true := by decide +kernel

/-- The change-tree agent with one request. -/
def ta (op x y : Nat) : State := tr (fun p => { p with treeQ := [{ id := 30, agent := .slot 0 0, op := op, x := x, y := y, pend := 0 }] })
def taAt (s : State) (f : Part → TreeReq → Bool) : Bool := has ((s.part 0).treeQ.find? (fun x => x.id = 30)) (f (s.part 0))
theorem witness_TreeSteps_agent :
    (taAt (ta tNew 1 65534) (fun p r => p.hasNode r.x && decide (p.nodeDepth r.x < 16) && !p.hasNode r.y) &&
      taAt (ta tNew 1 0) (fun p r => p.hasNode r.x && decide (p.nodeDepth r.x < 16) && r.y = 0 && !p.hasNode 2 && p.hasNode 1) &&
      taAt (ta tNew 1 1) (fun p r => p.hasNode r.x && decide (p.nodeDepth r.x < 16) && p.hasNode r.y) &&
      taAt (ta tNew 2 7) (fun p r => !p.hasNode r.x) && taAt (ta tPar 2 0) (fun p r => !p.hasNode r.x) &&
      taAt (ta tPar 1 2) (fun p r => p.hasNode r.x && !p.hasNode r.y) && taAt (ta tPar 1 1) (fun p r => p.hasNode r.x && p.hasNode r.y &&
        (p.nodeChain r.y).contains r.x) &&
      taAt (ta tPar 1 0) (fun p r => has (p.node? r.x) (fun n => p.hasNode r.y && !(p.nodeChain r.y).contains r.x &&
        decide (p.nodeDepth r.y + 1 + p.height r.x ≤ 16) && (p.nodeChain n.parent ++ p.nodeChain r.y).all p.hasNode &&
        !(p.nodeChain n.parent).contains r.x)) && taAt (ta tDel 2 0) (fun p r => !p.hasNode r.x) &&
      (let s : State := tr (fun p => { p with enrolls := [en0 1], treeQ := [{ id := 30, agent := .slot 0 0, op := tDel, x := 1, y := 0, pend := 0 }] })
      taAt s (fun p r => p.hasNode r.x && p.enrolls.any (fun e => e.names r.x))) &&
      taAt (ta tDel 1 0) (fun p r => p.hasNode r.x && !p.nodes.any (fun e => e.1 ≠ 0 && e.2.parent = r.x) && !p.enrolls.any (fun e => e.names r.x)) &&
      taAt (ta tRd 65534 0) (fun p r => (p.node? r.x).isNone) && taAt (ta tRd 1 0) (fun p r => has (p.node? r.x))) = true := by decide +kernel
/-- A chain of 16 nodes below the root, and node 17 beside it. -/
theorem witness_TreeSteps_depth :
    (let deep (op x y : Nat) : State := tr (fun p => { p with
        nodes := (List.range 16).map (fun i => (i + 1, { count := 0, parent := i })) ++ [(17, { count := 0, parent := 0 })]
        treeQ := [{ id := 30, agent := .slot 0 0, op := op, x := x, y := y, pend := 0 }] })
    taAt (deep tNew 16 18) (fun p r => p.hasNode r.x && decide (16 ≤ p.nodeDepth r.x)) &&
      taAt (deep tPar 17 16) (fun p r => p.hasNode r.x && p.hasNode r.y && !(p.nodeChain r.y).contains r.x &&
        decide (16 < p.nodeDepth r.y + 1 + p.height r.x))) = true := by decide +kernel
/-- With every id allocated a request for any finds none. -/
theorem witness_TreeSteps_full (p : Part) (h : p.nodes = (List.range 65534).map (fun i => (i + 1, { count := 0, parent := 0 }))) (i : Nat)
    (h1 : 1 ≤ i) (h2 : i < 65535) : p.hasNode i = true := by
  have hf : ∀ (l : List Nat), i - 1 ∈ l → (AMap.find (l.map (fun i => (i + 1, ({ count := 0, parent := 0 } : Node)))) i).isSome = true := by
    intro l hl
    induction l with
    | nil => cases hl
    | cons a l ih =>
      by_cases ha : a + 1 = i
      · simp [AMap.find, ha]
      · have : i - 1 ∈ l := by
          rcases List.mem_cons.mp hl with h | h
          · omega
          · exact h
        have hb : i ≠ a + 1 := fun h => ha h.symm
        simpa [AMap.find, if_neg hb] using ih this
  have := hf (List.range 65534) (by simp; omega)
  unfold Part.hasNode Part.node?
  rw [h]
  cases hx : AMap.find ((List.range 65534).map (fun i => (i + 1, ({ count := 0, parent := 0 } : Node)))) i with
  | none => rw [hx] at this; cases this
  | some n => rfl
theorem witness_TreeSteps_rolls :
    ((let s := tr (fun p => { p with rolls := [(0, [.bump 1 3])] })
      has ((s.part 0).rolls.find 0) (fun l => l = [.bump 1 3]) && (s.part 0).hasNode 1) &&
      (let s (left : Nat) := tr (fun p => { p with rolls := [(0, [.marker 20])], settles := [{ id := 20, left := left, status := 0, fut := none }] })
      has (((s 1).part 0).rolls.find 0) (fun l => l = [.marker 20]) && has (((s 1).part 0).settles.find? (fun x => x.id = 20)) (fun x => x.left ≤ 1) &&
        has (((s 2).part 0).settles.find? (fun x => x.id = 20)) (fun x => 1 < x.left)) &&
      (let s (w : List Nat) (rm : Bool) := tr (fun p => { p with enrolls := [{ en0 1 with waiting := w, removing := rm }] })
      has (((s [0, 1] false).part 0).enrolls.find? (fun e => e.waiting.contains 0)) (fun e => e.waiting.filter (· ≠ 0) ≠ []) &&
        has (((s [0] false).part 0).enrolls.find? (fun e => e.waiting.contains 0)) (fun e => e.waiting.filter (· ≠ 0) = [] && !e.removing) &&
        has (((s [0] true).part 0).enrolls.find? (fun e => e.waiting.contains 0)) (fun e => e.removing))) = true := by decide +kernel

end Sys2Proof.Tests
end

