-- ==== Sys2Proof/Tests/Witness4.lean ====
section
/-! SUPPORT. Witnesses, continued: privilege, page tables, filters and regions, the hearth's hands, saved teams, results and stops. -/

namespace Sys2Proof.Tests

set_option Elab.async false

open Sys2Proof Sys2Proof.Machine

/-- The hearth's wave with other registers. -/
def hr (l : AMap W64) (f : Die → Die := id) : State :=
  { hw0 with ctxs := [(0, { c0 with stop := some stop0 }), (36864, { c0 with nreg := 256, s := l })], dies := [(0, f Die.init)] }

theorem witness_PrivilegedRegisters :
    (met w0 .priv 8 [] [.s 62] && met w0 .priv 8 [.s 7] [] (fun is => !isHearth is.a) && met hw0 .priv 8 [.s 7] [] (fun is => isHearth is.a) &&
      met (hr [(3, 0x300000020)]) .priv 8 [.s 3] [] (fun is => isHearth is.a && !(4 ≤ bits (is.s 3).toNat 32 4 &&
        bits (is.s 3).toNat 32 4 ≤ 12 && (is.s 3).toNat % 32 = 0)) &&
      met (hr [(3, 0xC00000020)]) .priv 8 [.s 3] [] (fun is => 4 ≤ bits (is.s 3).toNat 32 4 && bits (is.s 3).toNat 32 4 ≤ 12 &&
        (is.s 3).toNat % 32 = 0) &&
      met hw0 .priv 8 [.s 7] [] (fun _ => (hw0.die 0).bootrec.getLsbD 0) &&
      met (hr [] (fun d => { d with bootrec := 0 })) .priv 8 [.s 7] [] (fun is => isHearth is.a &&
        !((hr [] (fun d => { d with bootrec := 0 })).die 0).bootrec.getLsbD 0) && (w0.die 0).live) = true := by decide +kernel

/-- Operands of y.map: a VA and a PA in s1 and s2, over the table of the root range. -/
def pt (va pa : W64) : State := { m0 with ctxs := [(0, { c0 with s := [(1, va), (2, pa)] })] }
/-- What y.map and y.unmap find for a size: the level, VA's own entry there and the run of entries. -/
def found (s : State) (sz : Nat) (p : Nat → Bool → Nat → Bool → Bool) (is : Iss) : Bool :=
  let va := vaOf (is.s 1)
  let pb := if sz = 15 then 12 else pageBits sz
  let r := Machine.reach (s.part 0) s.mem va levels 0 (s.part 0).ptbase.toNat none
  p r.level (ownValid (s.part 0) s.mem r.level r.base va) (entrySize (ownEntry s.mem r.level r.base va))
      ((validRun (s.part 0) s.mem r.level r.base va (if sz = 15 then 1 else replicas sz)).any id) &&
    va % 2 ^ pb = 0 && (is.s 2).toNat % 2 ^ 53 % 2 ^ pb = 0 && futRoom s is
/-- y.map of a VA to a PA is ready and finds something. -/
def maps (va pa : W64) (sz : Nat) (p : Nat → Bool → Nat → Bool → Bool) (q : State → Bool := fun _ => true) : Bool :=
  met (pt va pa) .priv 16 [.s 1, .s 2] [.s 62] (fun is => found (pt va pa) sz p is && q (pt va pa))
/-- The same range, with an episode of the page whose held request a y.map of it lets go. -/
def heldPage : State :=
  { pt 0x100000200000 0x200000 with
    reqs := [{ rq (.load 0 []) 0x100000200000 4 with held := some 0x100000200000 }]
    episodes := [{ part := 0, die := 0, page := 0x100000200000, bytes := 4096, code := Code.xlate, record := [], posted := true }] }
theorem witness_PageTables_map :
    (met w0 .priv 16 [.s 1, .s 2] [.s 62] &&
      met (pt 0x100000000800 0) .priv 16 [.s 1, .s 2] [.s 62] (fun is => vaOf (is.s 1) % 2 ^ pageBits 0 ≠ 0) &&
      maps 0x200000000000 0 0 (fun l own _ _ => decide (l < levelOf 0) && !own) &&
      maps 0x100000000000 0 1 (fun l _ _ run => l = levelOf 1 && sizeAt l 1 && run) &&
      maps 0x100000200000 0x200000 1 (fun l _ _ run => l = levelOf 1 && sizeAt l 1 && !run)
        (fun s => s.frameHome 0 0x100000200000 (2 ^ pageBits 1) 0x200000 && (s.heldReqs (s.covered 0 0x100000200000 0x100000400000)).isEmpty) &&
      maps 0x100000200000 (31 * 2 ^ 37) 1 (fun l _ _ run => l = levelOf 1 && sizeAt l 1 && !run)
        (fun s => !s.frameHome 0 0x100000200000 (2 ^ pageBits 1) (31 * 2 ^ 37)) &&
      maps 0x200000000000 0x200000 15 (fun l _ _ run => sizeAt l 15 && !run) (fun s => (s.part 0).frameOk 0x200000) &&
      maps 0x200000000000 (31 * 2 ^ 37) 15 (fun l _ _ run => sizeAt l 15 && !run) (fun s => !(s.part 0).frameOk (31 * 2 ^ 37))) = true := by
  decide +kernel
theorem witness_PageTables_held :
    (met heldPage .priv 16 [.s 1, .s 2] [.s 62] (fun is => found heldPage 1 (fun l _ _ run => l = levelOf 1 && sizeAt l 1 && !run) is &&
      heldPage.frameHome 0 0x100000200000 (2 ^ pageBits 1) 0x200000 &&
      !(heldPage.heldReqs (heldPage.covered 0 0x100000200000 0x100000400000)).isEmpty)) = true := by decide +kernel
theorem witness_PageTables_sizes :
    (maps 0x100000000000 0 0 (fun l own _ _ => !(decide (l < levelOf 0) && !own) && !sizeAt l 0)) = true := by decide +kernel
theorem witness_PageTables_unmap :
    (met (pt 0x100000200000 0) .priv 16 [.s 1] [.s 62] (found (pt 0x100000200000 0) 1 (fun l own _ _ => decide (l ≤ levelOf 1) && !own)) &&
      met (pt 0x100000000000 0) .priv 16 [.s 1] [.s 62] (found (pt 0x100000000000 0) 1 (fun l own sz _ =>
        !(decide (l ≤ levelOf 1) && (!own || (l = levelOf 1 && sz ≠ 1))) && sizeAt l 1)) &&
      met (pt 0x100000000000 0) .priv 16 [.s 1] [.s 62] (found (pt 0x100000000000 0) 0 (fun l own sz _ =>
        !(decide (l ≤ levelOf 0) && (!own || (l = levelOf 0 && sz ≠ 0))) && !sizeAt l 0)) &&
      met (pt 0x100000000000 0) .priv 16 [.s 1] [.s 62] (fun is => futRoom (pt 0x100000000000 0) is &&
        has (Machine.reach (m0.part 0) m0.mem (vaOf (is.s 1)) levels 0 (m0.part 0).ptbase.toNat none).last) &&
      met w0 .priv 16 [.s 1] [.s 62] (fun is => futRoom w0 is &&
        (Machine.reach (w0.part 0) w0.mem (vaOf (is.s 1)) levels 0 (w0.part 0).ptbase.toNat none).last.isNone) &&
      met w0 .priv 16 [.s 1, .s 2] [.s 62] (fun is =>
        futRoom (w0.endEpisodes (w0.covered 0 (vaOf (is.s 1)) (vaOf (is.s 1) + 96)) (some Code.prot)) is) &&
      (let s := { w0 with parts := [(0, { Part.init 1 0 with invalQ := [{ id := 30, lo := 0, len := 4096, fut := none }] })] }
      has ((s.part 0).invalQ.find? (fun x => x.id = 30)) && s.reqs.isEmpty)) = true := by decide +kernel

/-- A filter of the core, page 5 to page 9. -/
def fl (req : List FilterReq) : State :=
  { w0 with ctxs := [(0, { c0 with s := [(1, 0x5000), (2, 0x9000)] })], cores := [(0, { Core.init with filters := [(4, { al := 5, canon := 9, len := 1 })] })]
            parts := [(0, { Part.init 1 0 with filterQ := req })] }
/-- The entry that y.map.sub=filter would add overlaps another. -/
def overlaps (s : State) (is : Iss) (idx len : Nat) : Bool :=
  ((s.filtersAhead (coreOf is.a)).filter (fun e => e.1 ≠ idx)).any (fun e =>
    vaOf (is.s 1) / 4096 < e.2.al + e.2.len && e.2.al < vaOf (is.s 1) / 4096 + len)
theorem witness_FiltersAndRegions :
    (met (fl []) .priv 16 [.s 1, .s 2] [.s 62] (fun is => vaOf (is.s 1) % 4096 = 0 && vaOf (is.s 2) % 4096 = 0 && futRoom (fl []) is &&
        overlaps (fl []) is 31 1 && !overlaps (fl []) is 4 1) &&
      met (fl []) .priv 16 [] [.s 62] (fun is => futRoom (fl []) is && ((fl []).filtersAhead 0).find 31 = none && ((fl []).filtersAhead 0).find 4 ≠ none) &&
      (let s := fl [{ id := 30, idx := 4, entry := some { al := 6, canon := 9, len := 1 }, waiting := [0], fut := none }]
      has ((s.part 0).filterQ.find? (fun r => r.waiting.contains 0)) (fun r => r.entry.isSome)) &&
      (let s := fl [{ id := 30, idx := 4, entry := none, waiting := [0, 1], fut := none }]
      has ((s.part 0).filterQ.find? (fun r => r.waiting.contains 0)) (fun r => r.waiting ≠ [0] && has ((s.core 0).filters.find 4) (fun f =>
        !s.usesAlias 0 f && (s.core 0).wc.isEmpty) && s.reqs.isEmpty)) &&
      (let s := fl [{ id := 30, idx := 4, entry := none, waiting := [0], fut := none }]
      let s := s.mapCore 0 (fun c => { c with wc := [{ line := 9 * 32 + 5, gen := 0, mask := 1, data := 0, who := { a := .slot 0 0, team := 1, pc := 64, lanes := 1, meld := false } }] })
      has ((s.core 0).filters.find 4) (fun f => (s.core 0).wc.any (fun b => f.inCanon b.line)))) = true := by decide +kernel
/-- A region record at byte 64 of arena 1: 2 MiB of arena 2, of kind 0 on die 0, or with a reserved bit. -/
def rg (bad : Nat) : State :=
  { m0 with mem := m0.mem.write 64 (leBytes 32 (0x200000000000 + 2 ^ 64 * 0x200000 + 2 ^ 152 + 2 ^ 132 * bad))
            ctxs := [(0, { c0 with s := [(1, 1), (2, 0x100000000040)] })] }
theorem witness_FiltersAndRegions_regn :
    (let reads (n : Nat) (p : Bool → Bool) := met (rg n) .priv 16 [.s 1, .s 2] [.s 62] (fun is => quiet (rg n) is && futRoom (rg n) is &&
        good ((rg n).readRecord is (is.s 2) 32 1) (fun x => !x.2.1 && p (
          let old := (((rg n).part 0).regions.find (is.s 1).toNat).getD { base := 0, len := 0, gran := 0, kind := 3, ver := 0, dies := 0, mfirst := 0, mcount := 0 }
          let r := regionOf (ofLe x.1) ((old.ver + 1) % 256)
          4096 ≤ (is.s 1).toNat || !r.2 || !((rg n).part 0).regionOk (is.s 1).toNat r.1 || ((rg n).part 0).rewrites.any (fun x => x.idx = 1))))
    reads 1 id && reads 0 not &&
      (let s := { m0 with parts := [(0, { Part.init 1 0 with rewrites := [{ idx := 1, old := rootRegion 0, fut := none }] })] }
      has ((s.part 0).rewrites.find? (fun x => x.idx = 1)) && s.reqs.isEmpty)) = true := by decide +kernel

theorem witness_HearthWindow :
    (has (({ c0 with stop := some stop0 } : Ctx).winWrite (.slot 0 0) 0x3E 7) && has (c0.winWrite (.slot 0 0) 0x4F 7) &&
      has (c0.winWrite (.slot 0 0) 0x93 7) && has (c0.winWrite (.slot 0 0) 0xAF 7) && has (c0.winWrite (.slot 0 0) 0x10FFF 7) &&
      met hw0 .hearthOnly' 12 [] [.s 62] (fun is => is.c.ec < 63 && has (hw0.target is.a) (fun e => e.2.settled &&
        (hw0.winRead e.1 e.2 0x50).isNone && has (hw0.winRead e.1 e.2 0x3F))) &&
      (let s := { hw0 with ctxs := [(0, c0), (36864, { c0 with nreg := 256 })] }
      met s .hearthOnly' 12 [] [.s 62] (fun is => has (s.target is.a) (fun e => !e.2.settled && e.2.stop.isNone))) &&
      met hw0 .hearthOnly' 12 [.s 7] [] (fun is => decide (dieOf is.a < 24) && has (hw0.target is.a) (fun e => e.2.settled && e.2.stop.isSome &&
        has (e.2.winWrite e.1 0x92 (is.s 7))))) = true := by decide +kernel

/-- The hearth's wave is parked; its die's clock stands at a time. -/
def idl (t : Nat) : State :=
  { hw0 with ctxs := [(36864, { c0 with nreg := 256, park := .idle 5 7 62 })], dies := [(0, { Die.init with clk := t })] }
theorem witness_HearthReturns :
    (let rest (c : Ctx) : Ctx := Ctx.writeHeld { c with stop := none, single := true }
    met hw0 .hearthOnly' 8 [] [] (fun is => decide (dieOf is.a < 24) && has (hw0.target is.a) (fun e => e.2.settled && hw0.bound e.1 e.2 &&
        (hw0.joined (rest e.2)).2.isNone)) &&
      (let s (l : AMap SplitRec) := { hw0 with ctxs := [(0, { c0 with stop := some stop0, exited := 1, split := l }), (36864, { c0 with nreg := 256 })] }
      let broke (l : AMap SplitRec) (left : Bool) := met (s l) .hearthOnly' 8 [] [] (fun is => has ((s l).target is.a) (fun e => e.2.settled &&
        (s l).bound e.1 e.2 && ((s l).joined (rest e.2)).2.isSome &&
          ((rest e.2).split.filter (fun r => r.1 < 8 && r.2.st == .ready)).isEmpty = !left))
      broke c0.split true && broke [] false) &&
      (let s : State := { st0 with ctxs := [(20, { c0 with split := splitInit 64 1, stop := some stop0 }), (36864, { c0 with nreg := 256 })]
                                   stokers := [(0, { team := 1, running := false, queues := [] })], cur := .hearth 0
                                   dies := [(0, { Die.init with window := 20 })] }
      met s .hearthOnly' 8 [] [] (fun is => has (s.target is.a) (fun e => e.2.settled && !s.bound e.1 e.2 && isStoker e.1))) &&
      (let s := { hw0 with ctxs := [(0, c0), (36864, { c0 with nreg := 256 })] }
      met s .hearthOnly' 8 [] [] (fun is => has (s.target is.a) (fun e => !e.2.settled))) &&
      met hw0 .hearthOnly' 8 [.s 7] [] && met hw0 .hearthOnly' 8 [.s 7] [.s 62] (fun is => is.c.ec < 63) &&
      has ((idl 12).ctx? (.hearth 0)) (fun c => c.park = .idle 5 7 62 && c.stop.isNone && (c.tags.find 62).isNone &&
        5 + 7 ≤ (idl 12).clk 0)) = true := by decide +kernel

/-- The hearth may save: the team's group, its wave as it stands, and the root range mapped. -/
def sv (g : Nat) (f : Ctx → Ctx) : State :=
  { hw0 with ctxs := [(0, f c0), (36864, { c0 with nreg := 256, team := 0 })], teams := [(1, { tm0 with group := g })], mem := State.reset.mem }
theorem witness_SavedTeams_issue :
    (let ok (s : State) (p : Team → Bool) := met s .hearthOnly' 12 [.s 1] [.s 62] (fun is => quiet s is && futRoom s is &&
        allows is s (vaOf (is.addrS 1 0)) true false && allows is s (vaOf (is.addrS 1 0)) false false && bits (s.die 0).window.toNat 11 5 = dieOf is.a &&
        has (s.target is.a) (fun e => has (s.teams.find e.2.team) p && !s.inSave e.2.team))
    ok (sv 0 id) (fun tm => tm.group = 0) && ok (sv 9 id) (fun tm => tm.group ≠ 0) &&
      (let s : State := { sv 9 id with dies := [(0, { Die.init with window := 0x800 })] }
      met s .hearthOnly' 12 [.s 1] [.s 62] (fun is => quiet s is && futRoom s is && allows is s (vaOf (is.addrS 1 0)) false false &&
        bits (s.die 0).window.toNat 11 5 ≠ dieOf is.a)) &&
      met (sv 9 id) .hearthOnly' 12 [.s 7] [.s 62] (fun is => futRoom (sv 9 id) is && quiet (sv 9 id) is &&
        !good ((sv 9 id).route (coreOf is.a) (sv 9 id |>.agentPart is.a) (vaOf (is.addrS 7 0)) true false))) = true := by decide +kernel
/-- A save or a restore of an image at the base of arena 1 has begun. -/
def op0 (restore : Option (Nat × Bool)) : SaveOp :=
  { id := 40, agent := .hearth 0, part := 0, keys := [1], members := 1, gen := 0, va := pool, restore := restore, deps := none, fut := none }
def saving (f : Ctx → Ctx) (restore : Option (Nat × Bool)) : State := { sv 9 f with saves := [op0 restore] }
/-- No access of the device's own waits under an operation's number: there is no request. -/
theorem unawaited_of_none {s : State} (h : s.reqs = []) (die tag : Nat) : s.unawaited die tag := by simp [State.unawaited, h]
theorem witness_SavedTeams_save :
    (let v := op0 none
    let stopped := saving (fun c => { c with stop := some stop0 }) none
    ((saving id none).teamAgents 1).any (fun a => ((saving id none).ctx? a).any (fun c => c.stop.isNone)) &&
      stopped.reqs.isEmpty && stopped.quiet v.keys && !(stopped.teamAgents 1).any (fun a => (stopped.ctx? a).any (fun c => c.stop.isNone || c.out.isSome)) &&
      v.deps.isNone && !stopped.pendingDeps [] && ({ stopped with reqs := [rq (.read []) pool 4] } : State).pendingDeps [30] &&
      has ((stopped.setDeps 40 (some [])).saves.find? (fun x => x.id = 40)) (fun x => x.deps = some []) &&
      has (stopped.teams.find 1) (fun t => good (stopped.writeRange 1536 (fun _ => v.gen) v.va
        (imageHeader v.members t (256 + imageTail) ++ imageBody v.id)))) = true := by decide +kernel
theorem witness_SavedTeams_noImage :
    (let s := saving id (some (0, false))
    s.reqs.isEmpty && good (s.readRange 1536 (fun _ => 0) pool (256 + imageTail)) (fun x => !x.2.1 && !headerOk x.1)) = true := by
  decide +kernel

/-- A result of s5 that is there. -/
def pd (writes : List RegWrite) : Pend :=
  { id := 3, ctr := .ldc, pc := 60, meld := false, writes := writes, reqs := [], acq := none, flags := [], trap := none, fail := none,
    tile := none, rope := none, bcast := none, nf := none, fwd := false }
theorem witness_ResultsAndStops_traps :
    (let p : Pend := { pd [] with flags := [(63, 1)], trap := some { frag := 0, len := 8, d := 62 } }
    let s (act : Bool) (p : Pend) : State := w (fun c => { c with ldc := 1, fpen := 1, utact := act, pend := [p] })
    let ready (s : State) (f : Ctx → Pend → Bool) : Bool := has (s.ctx? (.slot 0 0)) (fun c => has (c.pend.find? (fun p => p.id = 3)) (fun p =>
      s.mayReturn (.slot 0 0) p && f c p))
    let traps (c : Ctx) (p : Pend) : Bool := (enabled c.fpen p.flags).1 ≠ 0
    ready (s false p) (fun c p => traps c p && p.acq.isNone && has p.trap (fun ti => !c.utact && has (c.rec? ti.frag))) &&
      ready (s true p) (fun c p => traps c p && p.acq.isNone && c.utact) &&
      ready (s false { pd [] with tile := some (1, [(0, 5)]) }) (fun c p => p.acq.isNone && p.trap.isNone && has p.tile && has (w0.teams.find c.team)) &&
      ready (s false { pd [] with rope := some 1 }) (fun _ p => p.acq.isNone && p.trap.isNone && has p.rope) &&
      ready (s false { pd [] with acq := some 1 }) (fun _ p => has p.acq && p.trap.isNone && p.tile.isNone && p.rope.isNone)) = true := by
  decide +kernel
theorem witness_ResultsAndStops :
    (let s := w (fun c => { c with ldc := 1, pend := [pd [{ reg := .s 5, val := some 9 }]] })
    has (s.ctx? (.slot 0 0)) (fun c => has (c.pend.find? (fun p => p.id = 3)) (fun p => s.mayReturn (.slot 0 0) p && p.trap.isNone &&
        p.tile.isNone && p.acq.isNone && p.rope.isNone)) &&
      (let s (fq : W64) := { w (fun c => { c with stop := some { stop0 with posted := false, meld := true } }) with dies := [(0, { Die.init with faultq := fq })] }
      has ((s 0x400000000).ctx? (.slot 0 0)) (fun c => c.settled && has c.stop (fun st => !st.posted && !st.silent && st.meld &&
        has (((s 0x400000000).die 0).post [List.replicate 32 0, List.replicate 32 0]) && (((s 0).die 0).post [List.replicate 32 0]).isNone))) &&
      has (({ Die.init with faultq := 0x400000000 } : Die).ringN) &&
      (let s := { w0 with dies := [(0, { Die.init with bkpt := [(7, 65)] })] }
      has (s.ctx? (.slot 0 0)) (fun c => s.bkptAddr 0 7 = some 64 && s.frag ∉ c.skipBkpt && has (c.rec? s.frag) (fun fr => c.canIssue s.frag && fr.pc = 64))) &&
      has ((w (fun c => { c with park := .sleep 0 })).ctx? (.slot 0 0)) (fun c => c.park = .sleep 0 && 0 ≤ w0.clk 0)) = true := by decide +kernel
/-- A retired wave has a load into a tile left, which has its bytes or has failed; and a stop behind a record that waits for the ring. -/
theorem witness_ResultsAndStops_gone :
    (let late (f : Option Failure) : State := w (fun c => { c with ldc := 1, nreg := 0, live := 0, pend := [{ pd [] with tile := some (1, [(0, 5)]), fail := f }] })
    let left (s : State) (p : Pend → Bool) : Bool := has (s.ctx? (.slot 0 0)) (fun c => has (c.pend.find? (fun p => p.id = 3)) (fun x =>
      c.gone && x.reqs.isEmpty && has x.tile && has (s.teams.find c.team) && p x))
    left (late none) (fun x => x.fail.isNone) &&
      left (late (some { code := Code.ecc, lanes := 1, addr := 0, prec := false, meld := false })) (fun x => x.fail.isSome) &&
      (let e : Episode := { part := 0, die := 0, page := 0, bytes := 0, code := 0, record := [List.replicate 32 0], posted := false }
      let s : State := { w (fun c => { c with stop := some stop0 }) with episodes := [e] }
      has (s.ctx? (.slot 0 0)) (fun c => c.stop.isSome) && s.recordsWait 0)) = true := by decide +kernel

end Sys2Proof.Tests
end

