-- ==== Sys2Proof/Tests/Witness5.lean ====
section
/-! SUPPORT. Witnesses, continued: the scheduler, the memory system, the host, the links, the starts, and the machine as a whole. -/

namespace Sys2Proof.Tests

set_option Elab.async false

open Sys2Proof Sys2Proof.Machine

/-- The wave as the source of an access. -/
def who0 : Who := { a := .slot 0 0, team := 1, pc := 64, lanes := 1, meld := false }
theorem witness_Scheduling_waves :
    (let s := w (fun c => { c with exited := BitVec.allOnes 64, ldc := 1, pend := [pd []] })
    has (s.ctx? (.slot 0 0)) (fun c => has (s.teams.find c.team) (fun t => t.group ≠ 0 && c.exited = BitVec.allOnes 64 && !s.storing c &&
        c.pend.all (·.fail.isNone) && c.sfail.isEmpty && c.stop.isNone && t.dead.isNone && !c.gone && t.retired.length + 1 ≠ t.foot.waves &&
        (c.pend.filter (·.tile.isSome)).isEmpty)) &&
      (let s := w (fun c => { c with exited := BitVec.allOnes 64, ldc := 1, pend := [{ pd [] with tile := some (1, []) }] })
      has (s.ctx? (.slot 0 0)) (fun c => !s.storing c && !(c.pend.filter (·.tile.isSome)).isEmpty)) &&
      (let s (dead : Option Nat) := { w0 with teams := [(1, { tm0 with retired := [0, 1], dead := dead })], groups := [(9, ga0)] }
      has ((s none).teams.find 1) (fun t => t.group ≠ 0 && t.retired.length = t.foot.waves && !(s none).teamWork 1 && t.dead.isNone &&
        !(s none).groups.any (fun g => g.2.parent = some 1) && has ((s none).groups.find t.group)) &&
      has ((s (some 3)).teams.find 1) (fun t => t.dead.isSome && has ((s (some 3)).groups.find t.group) (fun g => g.worst.isNone))) &&
      (let gs (f : Group → Group) : State := { w0 with groups := [(9, f { ga0 with retired := 1 })] }
      let at' (s : State) (p : Group → Bool) : Bool := has (s.groups.find 9) (fun g => g.retired = g.gx * g.gy * g.gz &&
        !(if g.sc = 0 then s.undrained g.part else s.unpublished g.part) && p g)
      at' (gs (fun g => { g with worst := some (0, 3) })) (fun g => g.sigaddr = 0 && g.worst.isSome) &&
        at' (gs (fun g => { g with cut := true })) (fun g => g.sigaddr = 0 && g.worst.isNone && g.cut) &&
        at' (gs (fun g => { g with sc := 6 })) (fun g => g.sigaddr = 0 && g.worst.isNone && !g.cut) &&
        (let wc := (gs id).mapCore 0 (fun c => { c with wc := [{ who := who0, line := 5, gen := 0, mask := 1, data := 0 }] })
        wc.undrained 0 && wc.unpublished 0))) = true := by decide +kernel
theorem witness_Scheduling_signal :
    (let s : State := { m0 with groups := [(9, { ga0 with retired := 1, sigaddr := 0x1000001FFFF8, sigval := 5 }),
      (10, { ga0 with retired := 1, sigaddr := 0x00FF000000000000 })] }
    s.reqs.isEmpty && has (s.groups.find 9) (fun g => g.sigaddr ≠ 0 && good (s.route (64 * g.die) g.part g.sigaddr true false) (fun rt =>
        good (s.engineWrite g.part rt.attr.gen rt.va (leBytes 8 g.sigval.toNat)))) &&
      has (s.groups.find 10) (fun g => g.sigaddr ≠ 0 && !good (s.route (64 * g.die) g.part g.sigaddr true false))) = true := by decide +kernel
/-- A queued group of one team of one wave. -/
def gq : Group := { ga0 with foot := { rootFoot with waves := 1, threads := 64 }, queued := true, blocking := false }
theorem witness_Scheduling_place :
    (let s := { w0 with groups := [(9, { ga0 with gx := 1 }), (12, gq)] }
    has (s.groups.find 12) (fun g => (s.toPrepare 12 63).isNone && s.nextRecord 0 (12, g) (fun f => (s.findPlace 0 f).isSome) &&
        s.gangOn g.foot [63] && dieOfCore 63 = 0 && (s.die 0).live && s.partOf 0 = g.part) &&
      (let s := { s with dies := [(0, { Die.init with clk := 2 ^ 18 })] }
      has (s.groups.find 12) (fun g => g.queued && g.die = 0 && !g.blocking && 2 ^ 18 ≤ s.clk 0 - g.since))) = true := by decide +kernel
/-- A team of group 12 has its place and not its window; its code is at the base of arena 1, or nowhere. -/
def prep (code : Nat) : State :=
  { m0 with ctxs := [], teams := [(3, { tm0 with group := 12, waves := [3], core := 63 })], groups := [(12, { gq with code := code })] }
theorem witness_Scheduling_prepare :
    (has ((prep pool).toPrepare 12 63) (fun e => e.1 = 3 && (prep pool).reqs.isEmpty && decide (e.2.core < 1536) && decide (e.2.waves.Nodup) &&
        e.2.waves.all (· < 20) && e.2.waves[0]? = some 3 && good ((prep pool).windowReads e.2.core { gq with code := pool }) (fun r => good r)) &&
      (let g : Group := { gq with code := 0x00FF000000000000, foot := { gq.foot with imglen := 128, imgoff := 0 } }
      has ((prep 0).toPrepare 12 63) (fun e => !good ((prep 0).windowReads e.2.core g)))) = true := by decide +kernel
/-- The team's waves claim registers. -/
def cl (n : Nat) : State :=
  let c : Ctx := { c0 with park := .claim n 62 }
  { w0 with ctxs := [(0, c), (1, { c with widx := 1 })], teams := [(1, { tm0 with claims := [0, 1] })] }
theorem witness_Scheduling_claims :
    (let s := { cl 64 with teams := [(1, { tm0 with claims := [0, 1], foot := { tm0.foot with ceil := 128 } })] }
    has (s.teams.find 1) (fun t => t.claims = [0, 1] && has (s.waveOf 1 0) (fun e => e.2.park = .claim 64 62 && e.2.stop.isNone &&
        64 - e.2.nreg ≤ s.freeRegs 1)) &&
      (let live := ((cl 256).waveCtxs 1).filter (fun e => e.2.exited ≠ BitVec.allOnes 64)
      !live.isEmpty && !((cl 256).waveCtxs 1).any (fun e => e.2.exited = BitVec.allOnes 64) && live.all (fun e => e.2.need.isSome) &&
        (evClaimGrant 1 (cl 256)).isNone)) = true := by decide +kernel
/-- A wave that has waited on a future for 1,024 clk, its context arena the root's; nothing of it is live. -/
def sw (f : Ctx → Ctx) : State :=
  { w0 with ctxs := [(19, f { c0 with live := 0, nreg := 8, park := .fut 9, tags := [(9, g0)] })], groups := [(9, { ga0 with ctxa := 1 }), (12, gq)], dies := [(0, { Die.init with clk := 1024 })]
            parts := [(0, { Part.init 1 0 with regions := [(0, { rootRegion 0 with len := 2 ^ 44 })] })] }
theorem witness_Scheduling_switch :
    (let s := sw id
    s.reqs.isEmpty && has (s.ctx? (.slot 0 19)) (fun c => has (s.teams.find c.team) (fun t => has (s.groups.find t.group) (fun g =>
        has (s.groups.find 12) (fun q => s.parkedOnFut c && c.out.isNone && c.stop.isNone && 1024 ≤ s.clk 0 - c.parkedAt && c.ldc = 0 && c.xc = 0 &&
          c.ec = 0 && g.ctxa ≠ 0 &&
        (let fits (f : Foot) : Bool := f.gang == 1 && s.fitsCore 0 f 16 20 c.nreg && s.fitsQuad 0 f 1
        s.nextRecord 0 (12, q) fits && fits q.foot && ([17] : List Nat).all (fun n => (s.freeSlots 0 16 20).contains n) &&
          s.maySave 0 g.part (s.saveArea 0 19 g.ctxa) &&
          good (s.saveBlocks 0 (s.saveGenOf 0 (s.saveArea 0 19 g.ctxa)) (s.saveArea 0 19 g.ctxa) c)))))) &&
      (let s := sw (fun c => { c with out := some 4, park := .none })
      has (s.ctx? (.slot 0 19)) (fun c => c.out = some 4 && s.resumable 0 c &&
        s.ctxs.all (fun e => !(e.1 / 24 = 0 && e.1 < 36864 && s.resumable 0 e.2 && (e.2.out.getD 0) < 4)) &&
        good (s.loadBlocks 0 c.saveGen (s.saveArea 0 19 1) c) (fun x => !x.2.1) && !s.deadArena 0 (s.saveArea 0 19 1))) &&
      (let s := { sw (fun c => { c with out := some 4, park := .none }) with groups := [(9, { ga0 with ctxa := 2 })] }
      has (s.ctx? (.slot 0 19)) (fun c => s.deadArena 0 (s.saveArea 0 19 2) && good (s.loadBlocks 0 c.saveGen (s.saveArea 0 19 2) c)))) = true := by
  decide +kernel

/-- The first instruction of the root task as the machine fetches it. -/
def fe (word : Nat) : State := State.reset.withFetchWord 64 word
/-- A request stands in a state whose home has a translation. -/
def mr (r : Req) (e : List TlbEnt) : State := { m0 with reqs := [r], dies := [(0, { Die.init with tlb := e })] }
/-- A cached translation of the first page of arena 1. -/
def te (ent : W64) : TlbEnt := { part := 0, va := pool, size := 1, ent := ent }
/-- What holds of a request that may act. -/
def acts (s : State) (r : Req) (p : Bool) : Bool :=
  has (s.reqs.find? (fun x => x.id = 30)) (fun x => x = r) && s.mayAct r && !s.staleGen r.part r.va r.gen && r.held.isNone && !s.draining r && p
theorem witness_MemorySteps_home :
    (let r := rq (.rmw 0 .b32 1 true) (pool + 124) 4
    let r2 := rq (.rmw 0 .b32 1 true) 0x100000200000 4
    has ((mr r []).reqs.find? (fun x => x.id = 30)) (fun r => r.held.isNone && r.failed.isNone && r.back.isNone && r.op ≠ .fetch &&
        (mr r []).holdRoom 0 && ((mr r []).episode? r.part r.va).isNone && (tlbFind ((mr r []).die 0).tlb r.part r.va).isNone && has ((mr r []).walkVa r.part r.va)) &&
      ((mr r2 []).walkVa 0 r2.va).isNone &&
      has ((mr { r with gen := 1 } []).reqs.find? (fun x => x.id = 30)) (fun r => (mr r []).mayAct r && (mr r []).staleGen r.part r.va r.gen) &&
      (let e : Episode := { part := 0, die := 0, page := pool, bytes := 4096, code := Code.xlate, record := [RecF.bytes (m0.recordOf (.slot 0 0) 64 pool 1 1 false false false Code.xlate)], posted := false }
      has (({ mr r [] with episodes := [e] } : State).episode? 0 r.va) (fun x => x = e)) &&
      acts (mr r [te 0x1000000000000003]) r (((mr r [te 0x1000000000000003]).reqPa r) matches .hit 124) && !noSuchDie 124 && has ((mr r []).linkFor r ((mr r []).unitOf 0 r.va)) &&
      acts (mr r [te 0x1000030000000003]) r (match (mr r [te 0x1000030000000003]).reqPa r with | .hit pa => noSuchDie pa | _ => false) &&
      acts (mr r [te 0x1000000000000001]) r (match (mr r [te 0x1000000000000001]).reqPa r with | .denied _ => true | _ => false)) = true := by
  decide +kernel
/-- An L1 line of the core, and an LLC line of the die. -/
def l0 (dirty : BitVec 128) : L1Line :=
  { line := pool / 128, gen := 0, valid := 3, dirty := dirty, data := 0x0201, keep := false, last := none, poison := false }
def ll (dirty : BitVec 128) : LlcLine :=
  { die := 0, part := 0, line := pool / 128, gen := 0, home := true, dirty := dirty, data := 5, hits := 0, hot := false, poison := false, last := none }
theorem witness_MemorySteps_lines :
    (let r := { rq (.load 0 []) pool 4 with back := some 7 }
    has ((mr r []).reqs.find? (fun x => x.id = 30)) (fun x => x = r && x.alloc && ((mr r []).attr r.core (lineArena (lineNo r.va))).gen = r.gen) &&
      (let s := { m0 with cores := [(0, { Core.init with l1 := [l0 2] })] }
      has ((s.core 0).l1.find? (fun l => l.line = pool / 128)) (fun l => l.dirty ≠ 0 && l.gen = (s.attr 0 (lineArena l.line)).gen &&
        !(s.attr 0 (lineArena l.line)).swm && has ((s.core 0).l1Find (pool / 128) 0))) &&
      (let s := { m0 with waiters := [{ id := 5, agent := .slot 0 0, part := 0, va := pool, n := 16, gen := 0, op := .ticket 0 0, inSlice := false, len := 16 }] }
      has (s.waiters.find? (fun w => w.agent = .slot 0 0 && !w.inSlice)) (fun w => good (s.homeRead w.part w.gen w.va w.n) (fun l => has (w.op.ready l)))) &&
      (let s (d : BitVec 128) := { m0 with llc := [ll d] }
      has ((s 0).llc.find? (fun l => l.die = 0 && l.line = pool / 128)) (fun l => l.dirty = 0 && !l.poison) &&
        has ((s 1).llc.find? (fun l => l.die = 0 && l.line = pool / 128 && (l.home || l.dirty ≠ 0) && !l.poison)) (fun l => !(s 1).llcStale l && l.home && l.dirty ≠ 0 &&
          has ((s 1).walkVa l.part (l.line * 128)) && !((s 1).part 0).hidden l.line) &&
        (let p : State := { m0 with llc := [{ ll 1 with poison := true }] }
        has (p.llc.find? (fun l => l.die = 0)) (fun l => !p.llcStale l && l.home && l.poison && has (p.walkVa l.part (l.line * 128)))) &&
        (let p : State := { m0 with llc := [{ ll 1 with line := 0x200000000000 / 128 }] }
        has (p.llc.find? (fun l => l.die = 0)) (fun l => !p.llcStale l && l.home && l.dirty ≠ 0 && (p.walkVa l.part (l.line * 128)).isNone)) &&
        (let p : State := { m0 with llc := [{ ll 1 with home := false }] }
        has (p.llc.find? (fun l => l.die = 0)) (fun l => !p.llcStale l && !l.home && l.dirty ≠ 0)))) = true := by decide +kernel
/-- A waiter whose bytes are poisoned at home. -/
theorem witness_MemorySteps_waiter :
    (let w : Waiter := { id := 5, agent := .slot 0 0, part := 0, va := pool, n := 16, gen := 0, op := .ticket 0 0, inSlice := false, len := 16 }
    let s : State := { m0 with waiters := [w], llc := [{ ll 1 with poison := true }] }
    has (s.waiters.find? (fun w => w.agent = .slot 0 0 && !w.inSlice)) (fun w => match s.homeRead w.part w.gen w.va w.n with
      | .error e => e.1 = Code.ecc
      | .ok _ => false) && has (s.ctx? (.slot 0 0)) (fun c => has (c.rec? c.frag))) = true := by decide +kernel
/-- A state whose region entry 0 has been rewritten, and has not drained. -/
def drains (s : State) : State := s.mapPart 0 (fun p => { p with rewrites := [{ idx := 0, old := rootRegion 0, fut := none }] })
/-- A waiter whose object has a must-be-zero bit set, or whose home drains. -/
theorem witness_MemorySteps_retry :
    (let w : Waiter := { id := 5, agent := .slot 0 0, part := 0, va := pool, n := 16, gen := 0, op := .ticket 0 0, inSlice := false, len := 16 }
    let s (d : BitVec 1024) : State := { m0 with waiters := [w], llc := [{ ll 1 with data := d }] }
    let reads (s : State) (p : List Byte → Bool) : Bool := has (s.reach 0 pool true) && good (s.homeRead 0 0 pool 16) p
    reads (s (1 <<< 64)) (fun l => w.op.broken l) && reads (s (1 <<< 63)) (fun l => !w.op.broken l && (w.op.ready l).isNone) &&
      ((drains (s 0)).reach 0 pool true).isNone) = true := by decide +kernel
/-- A write-back of a software-managed line whose die holds a copy. -/
theorem witness_MemorySteps_copy :
    (let r := { rq (.write 1 7) pool 128 with copy := true }
    let s : State := { m0 with reqs := [r], llc := [{ ll 0 with home := false }] }
    has (s.reqs.find? (fun x => x.id = 30)) (fun x => x = r) && s.mayAct r && !s.staleGen r.part r.va r.gen && (s.copyFor r).isSome) = true := by decide +kernel
/-- A site of array 9. -/
def si0 : EccSite := { array := 9, unit := 0, bank := 31, offset := 64 }
/-- A site in a unit of die d meets the conditions of a target. -/
def ecc (s : State) (die : Nat) (x : EccSite) (t : EccTarget) : Bool := die < 24 && (s.die die).live && siteOk x && eccIn t die x
theorem witness_MemorySteps_rest :
    (let s := { w0 with teams := [(1, { tm0 with half := [4 * 16 * 8] })] }
    has (s.teams.find 1) (fun t => has (t.half.find? (fun h => h / 4 / 16 = 8 && h % 4 = 0))) && (w0.die 0).live && siteOk si0 &&
      !(w0.die 0).marks.any (fun m => m.1 = si0.array.toNat && m.2.1 = si0.unit.toNat) && siteMark { si0 with array := 4, bank := 17 } ∉ (w0.die 0).marks &&
      has ((fe 0x0080010605800200).ctx? (.slot 0 0)) (fun c => c.stop.isNone && has (c.rec? c.frag) (fun fr =>
        good ((fe 0x0080010605800200).decodeAt (.slot 0 0) fr) (fun r => good r)) &&
        ecc (fe 0x0080010605800200) 0 { array := 7, unit := 0, bank := 31, offset := 0 } (.reader (.slot 0 0))) &&
      !ecc w0 0 { si0 with bank := 0 } (.cleanL1 0 0)) = true := by decide +kernel
theorem witness_MemorySteps_errors :
    (let s : State := { m0 with llc := [ll 0, { ll 0 with die := 1, home := false }, { ll 1 with die := 2, home := false }]
                                cores := [(0, { Core.init with l1 := [l0 0] }), (1, { Core.init with l1 := [l0 2] })]
                                ctxs := [(0, { c0 with ldc := 1, pend := [pd []] })], quads := [(0, { Quad.init with tasks := [tk0], copies := [cp1] })] }
    has (s.llc.find? (fun l => l.die = 0 && l.line = pool / 128 && l.home && !l.poison)) &&
      has ((s.core 0).l1.find? (fun l => l.line = pool / 128 && l.dirty = 0)) &&
      has ((s.core 1).l1.find? (fun l => l.line = pool / 128 && l.dirty ≠ 0 && !l.poison)) &&
      has (s.llc.find? (fun l => l.die = 1 && l.line = pool / 128 && !l.home && l.dirty = 0)) &&
      has (s.llc.find? (fun l => l.die = 2 && l.line = pool / 128 && !l.home && l.dirty ≠ 0 && !l.poison)) &&
      has (s.ctx? (.slot 0 0)) (fun c => has (c.pend.find? (fun p => p.id = 3 && p.ctr = .ldc))) && has (s.task? 0 50) &&
      has ((s.quad 0).copies.find? (fun c => c.id = 40 && c.sls && c.kind ≠ ckFill)) &&
      (let s := { s with dies := [(0, Die.init)], quads := [(0, { Quad.init with tasks := [{ tk0 with op := .rstat 0 1 1 3 5 1 }] })] }
      has (s.task? 0 50) (fun k => has (s.ctx? k.agent) (fun c => has (c.pend.find? (fun p => p.id = 3)))) &&
        ecc s 0 { array := 2, unit := BitVec.ofNat 6 (sliceOf (pool / 128 * 128)), bank := 17, offset := 0 } (.task 0 50)) &&
      (let s := { s with dies := [(0, Die.init), (1, Die.init), (2, Die.init)] }
      let l1 (n : BitVec 6) : EccSite := { array := 5, unit := n, bank := 31, offset := 0 }
      let sl : EccSite := { array := 0, unit := BitVec.ofNat 6 (sliceOf (pool / 128 * 128)), bank := 17, offset := 0 }
      let ls : EccSite := { sl with array := 2 }
      ecc s 0 sl (.poisonHome (pool / 128)) && ecc s 0 (l1 0) (.cleanL1 0 (pool / 128)) && ecc s 0 (l1 1) (.dirtyL1 1 (pool / 128)) &&
        ecc s 1 sl (.cleanCopy 1 (pool / 128)) && ecc s 2 sl (.dirtyCopy 2 (pool / 128)) && ecc s 0 (l1 0) (.load (.slot 0 0) 3 1) &&
        ecc s 0 ls (.task 0 50) && ecc s 0 ls (.copy 0 40))) = true := by decide +kernel

theorem witness_HomeWrites :
    (let s := { m0 with llc := [ll 0] }
    (s.llcFind 0 0 (pool / 128) 0).isSome &&
      (let full := { m0 with llc := (List.range 16).map (fun i => { ll 1 with line := pool / 128 + 65536 * 64 * (i + 1), poison := true }) }
      (full.llcFind 0 0 (pool / 128) 0).isNone)) = true := by decide +kernel

/-- How an access from outside goes: 0 it is done, 1 it is refused, 2 it waits. -/
def comes {α : Type} : Outer α → Nat
  | .done _ => 0
  | .refused => 1
  | .wait => 2
/-- Aperture 15 shows arena 1. -/
def ho (st : Nat) : State :=
  { m0 with ctxs := [(0, c0), (36864, hearthCtx)], host := { m0.host with aper := [(15, 0x0000100000000001)] }, dies := [(0, { Die.init with mbox := { Mbox.init with status := st, cmd := 0x41 } })] }
theorem witness_OutsideSteps_host :
    ((ho 0).host.on && comes ((ho 0).hostRead (15 * 2 ^ 32 + 65535) 1) = 0 && comes ((ho 0).hostRead 0 8) = 1 && comes ((drains (ho 0)).hostRead (15 * 2 ^ 32) 8) = 2 &&
      has ((ho 0).bar2Target (15 * 2 ^ 32) 8) (fun e => ((ho 0).part e.1).hostArena e.2 && ((ho 0).part e.1).placed e.2 8 &&
        good ((ho 0).homeRead e.1 ((ho 0).genOf e.1 e.2) e.2 8) && comes ((ho 0).outsideWrite e.1 e.2 [1]) = 0 && comes ((drains (ho 0)).outsideWrite e.1 e.2 [1]) = 2) && ((ho 0).bar2Target 0 8).isNone &&
      (0x200 : W64).getLsbD 9 && ((ho 0).die 0).mbox.status ≠ 1 && ((ho 1).die 0).mbox.status = 1 && (ho 1).mboxBusy 0 &&
      ((ho 1).die 0).mbox.cmd = 0x41 && imageMax ≥ 8128 && !(ho 0).host.kindle) = true := by decide +kernel
theorem witness_OutsideSteps_refused :
    (let s : State := { ho 0 with host := { (ho 0).host with aper := [(15, 0x0000200000000001)] } }
    has (s.bar2Target (15 * 2 ^ 32) 8) (fun e => comes (s.outsideWrite e.1 e.2 (List.replicate 8 0)) = 1) &&
      (let s : State := { ho 0 with parts := [(0, { Part.init (BitVec.allOnes 24) 0 with arenas := [(1, { Arena.init 1 with state := Arn.sealed })] })] }
      (s.part 0).hostArena pool && (s.part 0).placed pool 1 && ((s.part 0).arena (arenaOf pool)).state = Arn.sealed)) = true := by decide +kernel
/-- Mailboxes with the other commands, and a port that is trained. -/
def mb (die cmd arg len : Nat) (kindle : Bool) : State :=
  { w0 with ctxs := [(36864, hearthCtx), (36887, hearthCtx)], host := { w0.host with kindle := kindle }
            dies := [(die, { Die.init with mbox := { Mbox.init with status := 1, cmd := cmd, arg := BitVec.ofNat 64 arg, len := len } })] }
def po (p : Option Port) : State := { m0 with ports := (p.map (fun x => (17, x))).toList, dies := [(portDie 17, Die.init)], dieParts := [(portDie 17, 0)] }
def port0 : Port := { trained := true, epoch := 1, sendKey := [], recvKey := [], count := 2 ^ 48 - 2, sent := 2 ^ 48 - 2, plain := [[5]], again := [], replies := [[6]] }
theorem witness_OutsideSteps_boxes :
    (let box (s : State) (d : Nat) (p : Mbox → Bool) := s.mboxBusy d && p (s.die d).mbox
    box (mb 0 0x51 0 8128 false) 0 (fun m => m.cmd = 0x51 && m.len ≤ 8128 && decide (m.arg.toNat + m.len ≤ imageMax)) &&
      box (mb 0 0x51 0 8129 false) 0 (fun m => 8128 < m.len) && box (mb 0 0x52 (imageMax + 1) 0 false) 0 (fun m => m.cmd = 0x52 && imageMax < m.arg.toNat) &&
      box (mb 23 0x41 0 0 false) 23 (fun m => m.cmd = 0x41) && box (mb 0 0x40 0 0 true) 0 (fun m => m.cmd = 0x40) &&
      box (mb 0 0x40 0 0 false) 0 (fun m => m.cmd = 0x40)) = true := by decide +kernel
/-- The image that stands installed verifies. -/
theorem verifies_factory : Config.verifies Config.factoryImage = true := by simp [Config.verifies]
/-- The bytes of an image from an offset on, as chunks have placed them. -/
def chunkFrom : Nat → List Byte → AMap Byte
  | _, [] => []
  | k, b :: l => (k, b) :: chunkFrom (k + 1) l
theorem find_chunkFrom (l : List Byte) (k i : Nat) (h : i < l.length) : AMap.find (chunkFrom k l) (k + i) = some l[i] := by
  induction l generalizing k i with
  | nil => simp at h
  | cons b l ih =>
    cases i with
    | zero => simp [chunkFrom, AMap.find]
    | succ i =>
      have := ih (k + 1) i (by simpa using h)
      simp only [chunkFrom, AMap.find, List.getElem_cons_succ, show ¬ k + (i + 1) = k by omega, if_false]
      rwa [show k + 1 + i = k + (i + 1) by omega] at this
/-- A request to commit an image whose chunks have all arrived. -/
def commit (img : List Byte) (kindle : Bool) : State :=
  { mb 0 0x52 img.length 0 kindle with host := { (mb 0 0x52 img.length 0 kindle).host with chunk := chunkFrom 0 img } }
theorem assembled_commit (img : List Byte) (kindle : Bool) : (commit img kindle).host.assembled img.length = img := by
  apply List.ext_getElem (by simp [HostSide.assembled])
  intro i h1 h2
  have := find_chunkFrom img 0 i h2
  simp only [Nat.zero_add] at this
  simp [HostSide.assembled, commit, this]
theorem witness_OutsideSteps_commit (kindle : Bool) :
    let s := commit Config.factoryImage kindle
    let m := (s.die 0).mbox
    s.mboxBusy 0 = true ∧ m.cmd = 0x52 ∧ m.arg.toNat ≤ imageMax ∧ Config.verifies (s.host.assembled m.arg.toNat) = true ∧
      s.host.kindle = kindle := by
  have hl : Config.factoryImage.length ≤ 268435456 := by simp [Config.factoryImage]
  have hm : ((commit Config.factoryImage kindle).die 0).mbox.arg = BitVec.ofNat 64 Config.factoryImage.length := rfl
  have ha : (BitVec.ofNat 64 Config.factoryImage.length).toNat = Config.factoryImage.length := by
    rw [BitVec.toNat_ofNat, Nat.mod_eq_of_lt (by omega)]
  refine ⟨?_, rfl, ?_, ?_, rfl⟩
  · cases kindle <;> rfl
  · simpa [hm, ha, imageMax] using hl
  · simp only [hm, ha, assembled_commit, verifies_factory]
theorem witness_OutsideSteps_links :
    ((po none).portLive 17 && !((po none).port 17).trained && (po (some port0)).portLive 17 && ((po (some port0)).port 17).trained &&
      ((po (some port0)).port 17).count + 1 < 2 ^ 48 && ((po (some port0)).port 17).sent + groupsFor 8 < 2 ^ 48 &&
      has ((po (some port0)).dieParts.find (portDie 17)) (fun q => ((po (some port0)).part q).ready &&
        ((po (some port0)).part q).hostArena pool && ((po (some port0)).part q).placed pool 8 && comes ((po (some port0)).outsideWrite q (pool % 2 ^ 56) [1]) = 0 &&
        comes ((drains (po (some port0))).outsideWrite q (pool % 2 ^ 56) [1]) = 2 && comes ((drains (po (some port0))).outsideRead q pool 8) = 2 &&
        good ((po (some port0)).homeRead q ((po (some port0)).genOf q pool) pool 8)) &&
      ((po none).openPorts 0).isEmpty && (po (some { port0 with sent := 0, count := 0 })).openPorts 0 = [17]) = true := by decide +kernel

/-- A restart word with MODULE, one without it, and a mailbox in either state. -/
theorem witness_OutsideSteps_bar0 :
    ((HostWord.four 0x200).low.getLsbD 9 && !(HostWord.eight 0).low.getLsbD 9 && w0.host.on && (w0.die 3).mbox.status ≠ 1 &&
      ((w0.bar0Word 0x106000 7).die 3).mbox.status = 1) = true := by decide +kernel

/-- A module that is off. -/
def off (fails : Nat) : State := { w0 with host := { w0.host with on := false, fails := fails } }
/-- Every test passes. -/
def pass0 : StartTests := { image := BitVec.allOnes 24, edges := BitVec.allOnes 24, hbm := BitVec.allOnes 24, sram := 0x7FFFFF }
theorem witness_Starts :
    (!(off 3).host.on && (off 3).host.fails = 3 && (off 2).host.fails ≠ 3 && (off 2).host.config = [BitVec.allOnes 24] && w0.host.on &&
      has (w0.parts.find 0) && (w0.die 23).throttle < 15 && (off 2).reaches pass0 0 &&
      (startCause (BitVec.allOnes 24) pass0 allDies 1 5).isSome && (startCause (BitVec.allOnes 24) pass0 allDies 1 3).isNone &&
      has (stepFinds (BitVec.allOnes 24) pass0 (List.range 24) 4) && (stepFinds (BitVec.allOnes 24) pass0 (List.range 23) 4).isNone &&
      (w0.configured 0).contains 0) = true := by decide +kernel
/-- The installed image is accepted where every hearth reads it whole, and where one does not that die is the lowest that fails. -/
theorem witness_Starts_accepts :
    (off 2).accepts pass0 = BitVec.allOnes 24 ∧ (off 2).reaches pass0 5 = true ∧
      (off 2).reaches { pass0 with edges := 0xFFFFFE } 5 = false ∧ (off 2).accepts { pass0 with edges := 0xFFFFFE } = BitVec.allOnes 24 ∧
      ((off 2).accepts { pass0 with image := 0xFFFFF7 }).getLsbD 3 = false ∧
      ∀ e, e < 3 → ((off 2).accepts { pass0 with image := 0xFFFFF7 }).getLsbD e = true := by
  have hi : (off 2).host.image = Config.factoryImage := rfl
  have ha (t : StartTests) : (off 2).accepts t = t.image := by simp [State.accepts, hi, verifies_factory]
  simp only [State.reaches, ha]
  decide +kernel

/-- The state at the turn of the root task. -/
def turn0 (s : State) : State := { s with tick := s.tick + 1, turns := [], cur := .slot 0 0, frag := 0 }
/-- What stands at the PC decodes to something. -/
def bytes0 (s : State) (pc : W64) (p : Except DecErr Instr → Bool) : Bool :=
  match s.fetch (.slot 0 0) pc with | .ok l => p (decodeBytes (vaOf pc % 32) l) | .error _ => false
theorem witness_StepRuns :
    (State.reset.turns.isEmpty && (fe 0).turns = [.issue (.slot 0 0) 0] && spontaneous .powerLoss && realAgent (.slot 0 0) &&
      has ((turn0 (fe 0)).ctx? (.slot 0 0)) (fun c => has (c.rec? 0) (fun r => c.canIssue 0 && (turn0 (fe 0)).bound (.slot 0 0) c && c.fairFrag 0 = 0 && !c.broken &&
        ((turn0 (fe 0)).parkPoint (.slot 0 0) c).isNone && ((turn0 (fe 0)).meetsAt (.slot 0 0) c 0 r).isNone && ((turn0 (fe 0)).rivals (.slot 0 0)).isEmpty &&
        bytes0 (turn0 (fe 0x0080010605800200)) r.pc (fun d => good d (fun i => i ≠ .pad4)) &&
        has ((turn0 (fe 0x0080010605800200)).fetchLink (.slot 0 0) r.pc) && !(turn0 (fe 0)).behindTab (.slot 0 0) r &&
        ((drains (turn0 (fe 0))).fetchLink (.slot 0 0) r.pc).isNone && bytes0 (drains (turn0 (fe 0))) r.pc (fun _ => true)))) = true := by decide +kernel
theorem witness_StepRuns_faults :
    (bytes0 (turn0 (fe 0x00000000000000E0)) rootEntry (fun d => !good d) && bytes0 (turn0 (fe 3)) rootEntry (fun d => good d (fun i => i = .pad4)) &&
      (match w0.fetch (.slot 0 0) 64 with | .error (.fault ..) => true | _ => false) &&
      (match w0.fetch (.slot 0 0) 0x0000100000000000 with | .error (.hold ..) => true | _ => false) &&
      (let s : State := { fe 0x0080010605800200 with dies := [(0, { Die.init with bkpt := [(7, rootEntry ||| 1)] })] }
      has ((turn0 s).ctx? (.slot 0 0)) (fun c => has (c.rec? 0) (fun r => (turn0 s).meetsAt (.slot 0 0) c 0 r = some 7)))) = true := by decide +kernel
theorem witness_StepRuns_choose :
    (let x : Cand := { a := .slot 0 0, frag := 0, i := .pad4, prio := 0, age := 1, widx := 0, passed := 0 }
    decide ([x, { x with prio := 3 }].length ≤ 31) && [x, { x with prio := 3 }].all (fun y => y.passed = 0)) = true := by decide +kernel

/-- An instruction's fields, and what it sees at issue. -/
def checks (i : Instr) (s : State) (p : Fields → Iss → Bool) : Bool :=
  has i.fields (fun f => has (s.iss? f.hdr (lenBytes f.len)) (fun is => p f is))
theorem witness_IssueChecks :
    (checks (.yRdpr h0 5 0) (w (fun c => { c with priv := false })) (fun f is => f.cls = 13 && !is.c.priv) &&
      checks (.yWinStop h0) w0 (fun f is => f.cls = 13 && decide (6 ≤ f.op.toNat) && is.c.priv && !isHearth is.a) &&
      checks (.sMov { h0 with md := true } 5 6) w0 (fun f is => f.cls ≠ 13 && f.md && !is.fr.meld) &&
      checks (.vRand h0 5) st0 (fun f is => !f.md && !is.fr.meld && isStoker is.a && !stokerMay f.cls.toNat f.op.toNat) &&
      checks (.qYield h0) hw0 (fun f is => !f.md && isHearth is.a && !isStoker is.a && hearthLacks f.cls.toNat f.op.toNat) &&
      checks (.qYield { h0 with kp := 6 }) w0 (fun f is => f.cls ≠ 4 && is.p = 0)) = true := by decide +kernel
theorem witness_MemoryFrame :
    ((Instr.fields (.gSt h0 1 63 0 (x1 2))).isSome && (match exec (.gSt h0 1 63 0 (x1 2)) w0 with | .next _ => true | .fault _ => false | .refused _ => false)) =
      true := by decide +kernel
theorem witness_MemoryInvariant :
    (State.reset.mem.wf && (match step (fe 0x0080010605800200) with | .next _ => true | .fault _ => false | .refused _ => false)) = true := by
  decide +kernel
theorem witness_DecodeEncode :
    (Instr.wf (.gLd h0 252 254 0xFFFFFFFF { (x1 4 0 6) with vadr := true }) &&
      has (encode (.gLd h0 252 254 0xFFFFFFFF { (x1 4 0 6) with vadr := true })) (fun x => good (decode 16 x)) &&
      16 % 32 + (Instr.gLd h0 252 254 0xFFFFFFFF { (x1 4 0 6) with vadr := true }).bytes = 32) = true := by decide +kernel

end Sys2Proof.Tests
end

