-- ==== Sys2Proof/Tests/Witness6.lean ====
section
/-! SUPPORT. The witness for the restore of a saved team: an image whose free bytes stand in the L1 of the hearth core. -/

namespace Sys2Proof.Tests

set_option Elab.async false

open Sys2Proof Sys2Proof.Machine

/-- The bytes of a list stand in the line made of it. -/
theorem lineByte_lineOf (l : List Byte) (i : Nat) (h : i < 128) : lineByte (lineOf l) i = l.getD i 0 := by
  have key : ∀ (l : List Byte) (i : Nat), (ofLe l / 256 ^ i) % 256 = (l.getD i 0).toNat := by
    intro l
    induction l with
    | nil => intro i; simp [ofLe]
    | cons b l ih =>
      intro i
      have hb : b.toNat < 256 := b.isLt
      cases i with
      | zero => simp only [ofLe, pow_zero, Nat.div_one, List.getD_cons_zero]; omega
      | succ i =>
        have e : (b.toNat + 256 * ofLe l) / 256 = ofLe l := by omega
        simp only [ofLe, List.getD_cons_succ, pow_succ, Nat.mul_comm (256 ^ i) 256, ← Nat.div_div_eq_div_mul, e, ih i]
  apply BitVec.eq_of_toNat_eq
  have hp : (256 : Nat) ^ i = 2 ^ (8 * i) := by rw [pow_mul]; norm_num
  rw [← key l i, hp]
  simp only [lineByte, lineOf, BitVec.extractLsb'_toNat, BitVec.toNat_ofNat, Nat.shiftRight_eq_div_pow]
  have hd : (2 : Nat) ^ 1024 = 2 ^ (8 * i) * 2 ^ (1024 - 8 * i) := by rw [← pow_add]; congr 1; omega
  rw [hd, Nat.mod_mul_right_div_self, Nat.mod_mod_of_dvd]
  exact Nat.pow_dvd_pow_iff_le_right'.mpr (by omega)

/-- The header of a saved team of n waves of 64 registers: 256 bytes. -/
def ih (n : Nat) : List Byte :=
  leBytes 4 0x58435645 ++ leBytes 4 1 ++ leBytes 8 320 ++ leBytes 1 1 ++ List.replicate 15 0 ++
    (leBytes 8 0 ++ [BitVec.ofNat 8 n, 64] ++ leBytes 2 64 ++ leBytes 2 64 ++ [(0 : Byte), 0] ++ leBytes 4 4096 ++ [(1 : Byte), 0] ++ List.replicate 42 0) ++
    leBytes 8 0 ++ List.replicate 152 0
/-- A line of arena 1 in the slices of die 0, their home. -/
def il (i : Nat) (d : BitVec 1024) : LlcLine :=
  { die := 0, part := 0, line := pool / 128 + i, gen := 0, home := true, dirty := 0, data := d, hits := 0, hot := false, poison := false,
    last := none }
/-- The lines of an image stand in the slices, with teams, stokers and what was saved. -/
def ri (ts : AMap Team) (ks : AMap Stoker) (vs : List Saved) (d0 d1 d2 : BitVec 1024) : State :=
  { sv 9 id with teams := ts, stokers := ks, saved := vs, llc := [il 0 d0, il 1 d1, il 2 d2], saves := [op0 (some (0, false))] }
/-- The state after the image is read: each line counts a hit. -/
def rs (ts : AMap Team) (ks : AMap Stoker) (vs : List Saved) (d0 d1 d2 : BitVec 1024) : State :=
  (((ri ts ks vs d0 d1 d2).llcHit (il 0 d0)).llcHit (il 1 d1)).llcHit (il 2 d2)

/-- An engine's read of a piece of one line that the home slice holds. -/
theorem engineRead_hit {s : State} {die part gen va n line off m pa : Nat} {l k : LlcLine} (hs : segs va n = [(line, off, m)])
    (hg : s.staleGen part va gen = false) (ha : ((s.part part).arena (arenaOf va)).shared = false)
    (hw : s.walkFor part (line * 128) false = .ok pa) (hd : s.readLink die part line gen = some s) (hl : s.llcFind (s.unitOf part (line * 128)) part line gen = some l)
    (hk : (s.llcHit l).llcFind (s.unitOf part (line * 128)) part line gen = some k) (hp : k.poison = false) :
    s.engineRead die part gen va n = .ok (lineBytes k.data off m, false, s.llcHit l) := by
  simp [State.engineRead, hg, hs, ha, hw, hd, State.missRead, State.homeTouch, hl, State.homeLine, hk, hp, List.foldlM, bind, Except.bind, pure,
    Except.pure, Except.map]
/-- The walks of the image's lines. -/
theorem walk_ri {s : State} (h : s.mem = (sv 9 id).mem ∧ s.episodes = (sv 9 id).episodes ∧ s.part 0 = (sv 9 id).part 0) (i : Nat) (hi : i ∈ [0, 1, 2]) :
    ∃ pa, s.walkFor 0 ((pool / 128 + i) * 128) false = .ok pa := by
  have e : s.walkFor 0 ((pool / 128 + i) * 128) false = (sv 9 id).walkFor 0 ((pool / 128 + i) * 128) false := by
    simp only [State.walkFor, State.episode?, State.walkVa, h.1, h.2.1, h.2.2]
  have b : good ((sv 9 id).walkFor 0 ((pool / 128 + i) * 128) false) = true := by
    have : ∀ i ∈ [0, 1, 2], good ((sv 9 id).walkFor 0 ((pool / 128 + i) * 128) false) = true := by decide +kernel
    exact this i hi
  rw [e]
  revert b
  cases (sv 9 id).walkFor 0 ((pool / 128 + i) * 128) false with
  | error c => simp [good]
  | ok pa => exact fun _ => ⟨pa, rfl⟩
theorem read_ri (ts : AMap Team) (ks : AMap Stoker) (vs : List Saved) (d0 d1 d2 : BitVec 1024) :
    (ri ts ks vs d0 d1 d2).readRange 1536 (fun _ => 0) pool 320 =
      .ok (lineBytes d0 0 128 ++ lineBytes d1 0 128 ++ lineBytes d2 0 64, false, rs ts ks vs d0 d1 d2) := by
  let s0 := ri ts ks vs d0 d1 d2
  let s1 := s0.llcHit (il 0 d0)
  let s2 := s1.llcHit (il 1 d1)
  have hp : s0.pieces 1536 pool 320 = [(pool, 128), (pool + 128, 128), (pool + 256, 64)] := by rfl
  obtain ⟨p0, w0⟩ := walk_ri (s := s0) ⟨rfl, rfl, rfl⟩ 0 (by simp)
  obtain ⟨p1, w1⟩ := walk_ri (s := s1) ⟨rfl, rfl, rfl⟩ 1 (by simp)
  obtain ⟨p2, w2⟩ := walk_ri (s := s2) ⟨rfl, rfl, rfl⟩ 2 (by simp)
  have e0 := engineRead_hit (s := s0) (die := 0) (part := 0) (gen := 0) (va := pool) (n := 128) (l := il 0 d0)
    (k := { il 0 d0 with hits := 1 }) rfl rfl rfl w0 rfl rfl rfl rfl
  have e1 := engineRead_hit (s := s1) (die := 0) (part := 0) (gen := 0) (va := pool + 128) (n := 128) (l := il 1 d1)
    (k := { il 1 d1 with hits := 1 }) rfl rfl rfl w1 rfl rfl rfl rfl
  have e2 := engineRead_hit (s := s2) (die := 0) (part := 0) (gen := 0) (va := pool + 256) (n := 64) (l := il 2 d2)
    (k := { il 2 d2 with hits := 1 }) rfl rfl rfl w2 rfl rfl rfl rfl
  have c0 : s0.corePart 1536 = 0 := rfl
  have dc : dieOfCore 1536 = 0 := rfl
  show s0.readRange 1536 (fun _ => 0) pool 320 = _
  simp only [State.readRange, hp, List.foldlM, bind, Except.bind, pure, Except.pure, dc, c0, e0, Except.map, e1, e2, List.nil_append,
    Bool.or_false, s1, s2]
  rfl

theorem lineBytes_lineOf (l : List Byte) (n : Nat) (h : l.length = n) (hn : n ≤ 128) : lineBytes (lineOf l) 0 n = l := by
  apply List.ext_getElem (by simp [lineBytes, h])
  intro i h1 h2
  simp only [lineBytes, List.getElem_map, List.getElem_range, Nat.zero_add]
  rw [lineByte_lineOf l i (by omega), List.getD_eq_getElem _ _ h2]

/-- The image number 5 of a team of n waves, in its three lines. -/
def image (n : Nat) (ts : AMap Team) (ks : AMap Stoker) (vs : List Saved) : State :=
  ri ts ks vs (lineOf ((ih n).take 128)) (lineOf ((ih n).drop 128)) (lineOf (imageBody 5))
/-- The state after it is read. -/
def seenImage (n : Nat) (ts : AMap Team) (ks : AMap Stoker) (vs : List Saved) : State :=
  rs ts ks vs (lineOf ((ih n).take 128)) (lineOf ((ih n).drop 128)) (lineOf (imageBody 5))
theorem read_image (n : Nat) (ts : AMap Team) (ks : AMap Stoker) (vs : List Saved) (h : (ih n).length = 256) :
    (image n ts ks vs).readRange 1536 (fun _ => 0) pool (256 + imageTail) = .ok (ih n ++ imageBody 5, false, seenImage n ts ks vs) := by
  have := read_ri ts ks vs (lineOf ((ih n).take 128)) (lineOf ((ih n).drop 128)) (lineOf (imageBody 5))
  rw [lineBytes_lineOf _ 128 (by simp [h]) (by omega), lineBytes_lineOf _ 128 (by simp [h]) (by omega),
    lineBytes_lineOf _ 64 (by simp [imageBody, imageTail]) (by omega), List.take_append_drop] at this
  exact this

/-- What was saved as number 5: a set of teams. -/
def sv5 (keys : List Nat) : Saved := { id := 5, teams := keys, tasks := [], copies := [], snap := none }
def saved5 (keys : List Nat) : List Saved := [sv5 keys]
/-- Every index of a stoker on core 0 is taken. -/
def stokers4 : AMap Stoker := (List.range 4).map (fun i => (i, { team := 7, running := true, queues := [] }))
/-- The team 1 with a stoker, saved. -/
def teamsS : AMap Team := [(1, { tm0 with group := 9, stoker := some 0 })]
theorem witness_SavedTeams_image (n : Nat) (hn : n ∈ [1, 17]) (ts : AMap Team) (ks : AMap Stoker) (keys : List Nat) :
    let s := image n ts ks (saved5 keys)
    let l := ih n ++ imageBody 5
    s.saves.find? (fun x => x.id = 40) = some (op0 (some (0, false))) ∧ s.unawaited 0 40 ∧
      s.readRange 1536 (fun _ => 0) pool (256 + imageTail) = .ok (l, false, seenImage n ts ks (saved5 keys)) ∧
      (seenImage n ts ks (saved5 keys)).saved.find? (fun x => imageBody x.id = l.drop 256) =
        some { id := 5, teams := keys, tasks := [], copies := [], snap := none } := by
  have h : (ih n).length = 256 := by
    have : ∀ n ∈ [1, 17], (ih n).length = 256 := by decide +kernel
    exact this n hn
  refine ⟨rfl, unawaited_of_none rfl _ _, read_image n ts ks _ h, ?_⟩
  have e : (seenImage n ts ks (saved5 keys)).saved = saved5 keys := rfl
  rw [e]
  simp [saved5, sv5, h]
theorem witness_SavedTeams_restore :
    (let l (n : Nat) := ih n ++ imageBody 5
    let place (n : Nat) (ts : AMap Team) (ks : AMap Stoker) (keys : List Nat) :=
      (seenImage n ts ks (saved5 keys)).restorePlace 0 (Foot.ofBytes (((l n).drop 0x20).take 64))
    headerOk (l 1) && headerOk (l 17) && (place 17 [] [] []).isNone &&
      has (place 1 [] [] []) (fun cores => (seenImage 1 [] [] (saved5 [])).restoreRoom (sv5 []) (([] : List Nat).zip cores)) &&
      has (place 1 teamsS stokers4 [1]) (fun cores => !(seenImage 1 teamsS stokers4 (saved5 [1])).restoreRoom (sv5 [1]) (([1] : List Nat).zip cores))) = true := by
  decide +kernel

end Sys2Proof.Tests
end

