-- ==== Sys2Proof/Tests/Words.lean ====
section
/-! SUPPORT. Every encoded constructor's decoding, shown by a word put together field by field from the encodings of R27,
R28 and R31 to R33 and the instruction's own entry in R40, apart from the encoder. -/

namespace Sys2Proof.Tests

set_option Elab.async false

open Sys2Proof

/-- PK = 1, MD = 0, KN = 1, KP = 9 (R27). -/
def hw : Hdr := { pk := true, md := false, kn := true, kp := 9 }

theorem test_decode_s_1 : (decodeTableWord 64 0x605190004 = some (.sMov hw 5 6) ∧
    decodeTableWord 96 0xfffffff40000000005590105 = some (.sMovi hw 2 5 0xFFFFFFF4) ∧
    decodeTableWord 64 0x92340605990204 = some (.sAdd hw 5 6 (.imm 0x9234)) ∧
    decodeTableWord 64 0x92340605990304 = some (.sSub hw 5 6 (.imm 0x9234)) ∧
    decodeTableWord 64 0x92340605b90404 = some (.sMul hw 1 5 6 (.imm 0x9234)) ∧
    decodeTableWord 64 0x92340605b90504 = some (.sDiv hw 1 5 6 (.imm 0x9234)) ∧
    decodeTableWord 64 0x92340605990604 = some (.sAnd hw 5 6 (.imm 0x9234)) ∧
    decodeTableWord 64 0x92340605990704 = some (.sOr hw 5 6 (.imm 0x9234)) ∧
    decodeTableWord 64 0x92340605990804 = some (.sXor hw 5 6 (.imm 0x9234))) := by
  decide
theorem test_decode_s_2 : (decodeTableWord 64 0x92340605990904 = some (.sShl hw 5 6 (.imm 0x9234)) ∧
    decodeTableWord 64 0x92340605990a04 = some (.sShr hw 5 6 (.imm 0x9234)) ∧
    decodeTableWord 64 0x92340605990b04 = some (.sSra hw 5 6 (.imm 0x9234)) ∧
    decodeTableWord 64 0x92340605b90c04 = some (.sMin hw 1 5 6 (.imm 0x9234)) ∧
    decodeTableWord 64 0x92340605b90d04 = some (.sMax hw 1 5 6 (.imm 0x9234)) ∧
    decodeTableWord 64 0x992340605990e04 = some (.sCmp hw 9 5 6 (.imm 0x9234)) ∧
    decodeTableWord 64 0x8070605190f04 = some (.sSel hw 5 6 7 8) ∧
    decodeTableWord 64 0x605391004 = some (.sClz hw 1 5 6) ∧
    decodeTableWord 64 0x605391104 = some (.sPopc hw 1 5 6)) := by
  decide
theorem test_decode_s_3 : (decodeTableWord 64 0x92340605b91204 = some (.sBfx hw 1 5 6 (.imm 0x9234)) ∧
    decodeTableWord 96 0xfffffff4003f070605191305 = some (.sLea hw 5 6 7 63 0xFFFFFFF4) ∧
    decodeTableWord 64 0x1605191404 = some (.sRdsr hw 5 22) ∧
    decodeTableWord 64 0x617191504 = some (.sWrsr hw 23 6) ∧
    decodeTableWord 64 0x409391604 = some (.sMovc hw 1 9 4) ∧
    decodeTableWord 64 0x205191704 = some (.sRdk hw 5 2) ∧
    decodeTableWord 64 0x603191804 = some (.sWrk hw 3 6)) := by
  decide
theorem test_decode_b_1 : (decodeTableWord 64 0x190014 = some (.bNop hw) ∧
    decodeTableWord 96 0xfffffff40000001400390115 = some (.bJmp hw 1 20 0xFFFFFFF4) ∧
    decodeTableWord 96 0xfffffff40000000600590215 = some (.bBr hw 2 6 0xFFFFFFF4) ∧
    decodeTableWord 96 0xfffffff40000000200590315 = some (.bBrk hw 2 2 0xFFFFFFF4) ∧
    decodeTableWord 96 0xfffffff40000001405390415 = some (.bCall hw 1 5 20 0xFFFFFFF4) ∧
    decodeTableWord 64 0x600190514 = some (.bRet hw 6) ∧
    decodeTableWord 128 0x124800000100000000200190616 = some (.bSplit hw 2 0x80000010 0x124) ∧
    decodeTableWord 64 0x190714 = some (.bJoin hw) ∧
    decodeTableWord 64 0x190814 = some (.bExit hw)) := by
  decide
theorem test_decode_b_2 : (decodeTableWord 96 0x60000040200190915 = some (.bMeld hw 2 4 6) ∧
    decodeTableWord 64 0x190a14 = some (.bUnmeld hw) ∧
    decodeTableWord 96 0xfffffff40000001400390b15 = some (.bMtab hw 1 20 0xFFFFFFF4) ∧
    decodeTableWord 64 0x3f3e3d3c00190c14 = some (.bWcnt hw 60 61 62 63) ∧
    decodeTableWord 64 0xa50000990d14 = some (.bTrap hw 0xA5) ∧
    decodeTableWord 64 0x190e14 = some (.bTret hw) ∧
    decodeTableWord 64 0xa50000990f14 = some (.bDbg hw 0xA5)) := by
  decide
theorem test_decode_v_1 : (decodeTableWord 64 0xc0a190024 = some (.vMov hw { ty := .b32, rnd := .rn, sr := false, sat := false } 10 12) ∧
    decodeTableWord 64 0x60a190124 = some (.vMovs hw { ty := .b32, rnd := .rn, sr := false, sat := false } 10 6) ∧
    decodeTableWord 96 0xfffffff4000000000a190225 = some (.vMovi hw { ty := .b32, rnd := .rn, sr := false, sat := false } 10 0xFFFFFFF4) ∧
    decodeTableWord 64 0x8000210c0a190324 = some (.vAdd hw { ty := .b32, rnd := .rn, sr := false, sat := true } 10 12 (.reg 33)) ∧
    decodeTableWord 64 0x8000210c0a190424 = some (.vSub hw { ty := .b32, rnd := .rn, sr := false, sat := true } 10 12 (.reg 33)) ∧
    decodeTableWord 64 0x210c0a390524 = some (.vMul hw 1 { ty := .b32, rnd := .rn, sr := false, sat := false } 10 12 (.reg 33)) ∧
    decodeTableWord 64 0x80100e0c0a190624 = some (.vMad hw { ty := .b32, rnd := .rn, sr := false, sat := true } 10 12 14 16) ∧
    decodeTableWord 64 0x210c0a190724 = some (.vAnd hw { ty := .b32, rnd := .rn, sr := false, sat := false } 10 12 (.reg 33)) ∧
    decodeTableWord 64 0x210c0a190824 = some (.vOr hw { ty := .b32, rnd := .rn, sr := false, sat := false } 10 12 (.reg 33))) := by
  decide
theorem test_decode_v_2 : (decodeTableWord 64 0x210c0a190924 = some (.vXor hw { ty := .b32, rnd := .rn, sr := false, sat := false } 10 12 (.reg 33)) ∧
    decodeTableWord 64 0x210c0a190a24 = some (.vShl hw { ty := .b32, rnd := .rn, sr := false, sat := false } 10 12 (.reg 33)) ∧
    decodeTableWord 64 0x210c0a190b24 = some (.vShr hw { ty := .b32, rnd := .rn, sr := false, sat := false } 10 12 (.reg 33)) ∧
    decodeTableWord 64 0x210c0a190c24 = some (.vSra hw { ty := .b32, rnd := .rn, sr := false, sat := false } 10 12 (.reg 33)) ∧
    decodeTableWord 64 0x210c0a190d24 = some (.vMin hw { ty := .b32, rnd := .rn, sr := false, sat := false } 10 12 (.reg 33)) ∧
    decodeTableWord 64 0x210c0a190e24 = some (.vMax hw { ty := .b32, rnd := .rn, sr := false, sat := false } 10 12 (.reg 33)) ∧
    decodeTableWord 64 0xc0a190f24 = some (.vAbs hw { ty := .b32, rnd := .rn, sr := false, sat := false } 10 12) ∧
    decodeTableWord 64 0x50e0c03391024 = some (.vCmp hw 1 { ty := .b32, rnd := .rn, sr := false, sat := false } 3 12 14 5) ∧
    decodeTableWord 64 0x10e0c0a191124 = some (.vSel hw { ty := .b32, rnd := .rn, sr := false, sat := false } 10 12 14 1)) := by
  decide
theorem test_decode_v_3 : (decodeTableWord 64 0xc0a191224 = some (.vClz hw { ty := .b32, rnd := .rn, sr := false, sat := false } 10 12) ∧
    decodeTableWord 64 0xc0a191324 = some (.vPopc hw { ty := .b32, rnd := .rn, sr := false, sat := false } 10 12) ∧
    decodeTableWord 64 0x210c0a391424 = some (.vBfx hw 1 { ty := .b32, rnd := .rn, sr := false, sat := false } 10 12 (.reg 33)) ∧
    decodeTableWord 64 0x80100e0c0a391524 = some (.vDot4 hw 1 { ty := .b32, rnd := .rn, sr := false, sat := true } 10 12 14 16) ∧
    decodeTableWord 64 0xa391624 = some (.vLid hw 1 10) ∧
    decodeTableWord 64 0xa191724 = some (.vRand hw 10) ∧
    decodeTableWord 64 0xa191824 = some (.vRdflag hw 10) ∧
    decodeTableWord 64 0x110000991924 = some (.vClrflag hw (.imm 17))) := by
  decide
theorem test_decode_f_1 : (decodeTableWord 64 0x14000e0c0a190034 = some (.fAdd hw { ty := .f32, rnd := .rz, sr := false, sat := false } 10 12 14) ∧
    decodeTableWord 64 0x14000e0c0a190134 = some (.fSub hw { ty := .f32, rnd := .rz, sr := false, sat := false } 10 12 14) ∧
    decodeTableWord 64 0x14000e0c0a190234 = some (.fMul hw { ty := .f32, rnd := .rz, sr := false, sat := false } 10 12 14) ∧
    decodeTableWord 64 0x14100e0c0a190334 = some (.fFma hw { ty := .f32, rnd := .rz, sr := false, sat := false } 10 12 14 16) ∧
    decodeTableWord 64 0x4000e0c0a390434 = some (.fMin hw 1 { ty := .f32, rnd := .rn, sr := false, sat := false } 10 12 14) ∧
    decodeTableWord 64 0x4000e0c0a390534 = some (.fMax hw 1 { ty := .f32, rnd := .rn, sr := false, sat := false } 10 12 14) ∧
    decodeTableWord 64 0x4050e0c03390634 = some (.fCmp hw 1 { ty := .f32, rnd := .rn, sr := false, sat := false } 3 12 14 5) ∧
    decodeTableWord 64 0x400000c0a190734 = some (.fCls hw { ty := .f32, rnd := .rn, sr := false, sat := false } 10 12) ∧
    decodeTableWord 64 0x1400000c0a190834 = some (.fRcp hw { ty := .f32, rnd := .rz, sr := false, sat := false } 10 12)) := by
  decide
theorem test_decode_f_2 : (decodeTableWord 64 0x1400000c0a190934 = some (.fRsq hw { ty := .f32, rnd := .rz, sr := false, sat := false } 10 12) ∧
    decodeTableWord 64 0x1400000c0a190a34 = some (.fSqrt hw { ty := .f32, rnd := .rz, sr := false, sat := false } 10 12) ∧
    decodeTableWord 64 0x14000e0c0a190b34 = some (.fDiv hw { ty := .f32, rnd := .rz, sr := false, sat := false } 10 12 14) ∧
    decodeTableWord 64 0x1400000c0a190c34 = some (.fExp2 hw { ty := .f32, rnd := .rz, sr := false, sat := false } 10 12) ∧
    decodeTableWord 64 0x1400000c0a190d34 = some (.fLog2 hw { ty := .f32, rnd := .rz, sr := false, sat := false } 10 12) ∧
    decodeTableWord 64 0x1400000c0a190e34 = some (.fSin hw { ty := .f32, rnd := .rz, sr := false, sat := false } 10 12) ∧
    decodeTableWord 64 0x1400000c0a190f34 = some (.fCos hw { ty := .f32, rnd := .rz, sr := false, sat := false } 10 12) ∧
    decodeTableWord 64 0x1403000c0a191034 = some (.fCvt hw { ty := .f32, rnd := .rz, sr := false, sat := false } 10 12 .n64) ∧
    decodeTableWord 96 0x814506000c0a191135 = some (.fPack hw { ty := .f16, rnd := .rn, sr := true, sat := false } 10 12 .bf16 0x81)) := by
  decide
theorem test_decode_f_3 : (decodeTableWord 96 0x81340c000c0a191235 = some (.fUnpack hw { ty := .f32, rnd := .rm, sr := false, sat := false } 10 12 .i8 0x81) ∧
    decodeTableWord 64 0x4003f0c00991334 = some (.fAmax hw { ty := .f32, rnd := .rn, sr := false, sat := false } 12 (.imm 63))) := by
  decide
theorem test_decode_x_1 : (decodeTableWord 64 0x80020c0ad90044 = some (.xShfl hw 2 { ty := .b32, rnd := .rn, sr := false, sat := false } 10 12 (.imm 0x8002)) ∧
    decodeTableWord 64 0x3d0c0a190144 = some (.xBcast hw { ty := .b32, rnd := .rn, sr := false, sat := false } 10 12 (.reg 61)) ∧
    decodeTableWord 64 0x205590244 = some (.xVote hw 2 5 2) ∧
    decodeTableWord 64 0x2000c05190344 = some (.xRed hw { ty := .b32, rnd := .rn, sr := false, sat := false } 5 12 2) ∧
    decodeTableWord 64 0x2000c0a390444 = some (.xScan hw 1 { ty := .b32, rnd := .rn, sr := false, sat := false } 10 12 2) ∧
    decodeTableWord 64 0x100e0c0a190544 = some (.xPrmt hw 10 12 14 16) ∧
    decodeTableWord 64 0x3d0c05190644 = some (.xRdlane hw { ty := .b32, rnd := .rn, sr := false, sat := false } 5 12 (.reg 61)) ∧
    decodeTableWord 64 0x3d060a190744 = some (.xWrlane hw { ty := .b32, rnd := .rn, sr := false, sat := false } 10 6 (.reg 61)) ∧
    decodeTableWord 64 0x205190844 = some (.xCnt hw 5 2)) := by
  decide
theorem test_decode_x_2 : (decodeTableWord 64 0x205190944 = some (.xFirst hw 5 2)) := by
  decide
theorem test_decode_l : (decodeTableWord 96 0xfffffff4030000140a790055 = some (.lLd hw true true 10 20 3 0xFFFFFFF4) ∧
    decodeTableWord 96 0xfffffff403000e1400390155 = some (.lSt hw true 20 14 3 0xFFFFFFF4) ∧
    decodeTableWord 96 0xfffffff40000070607190255 = some (.lLdt hw 7 6 7 0xFFFFFFF4) ∧
    decodeTableWord 96 0xfffffff40000070607190355 = some (.lStt hw 7 6 7 0xFFFFFFF4) ∧
    decodeTableWord 96 0xfffffff400020e140a390455 = some (.lAtom hw true { ty := .b32, rnd := .rn, sr := false, sat := false } 10 20 14 2 0xFFFFFFF4) ∧
    decodeTableWord 96 0xfffffff400100e140a390555 = some (.lCas hw true { ty := .b32, rnd := .rn, sr := false, sat := false } 10 20 14 16 0xFFFFFFF4) ∧
    decodeTableWord 96 0xfffffff400ff0e1400390655 = some (.lFill hw true 20 14 255 0xFFFFFFF4) ∧
    decodeTableWord 96 0xfffffff40005001400390755 = some (.lSwz hw true 20 5 0xFFFFFFF4)) := by
  decide
theorem test_decode_g : (decodeTableWord 128 0xcc5800000100000002a28190066 = some (.gLd hw 40 42 0x80000010 { sx := true, vadr := true, sz := 1, ch := 2, ord := 0, sc := 5 }) ∧
    decodeTableWord 128 0x5c58000001000000e1400190166 = some (.gSt hw 20 14 0x80000010 { sx := false, vadr := true, sz := 3, ch := 2, ord := 0, sc := 5 }) ∧
    decodeTableWord 128 0x1c5800000100000070607190266 = some (.gLdt hw 7 6 7 0x80000010 { sx := false, vadr := false, sz := 3, ch := 2, ord := 0, sc := 5 }) ∧
    decodeTableWord 128 0x1c5800000100000070607190366 = some (.gStt hw 7 6 7 0x80000010 { sx := false, vadr := false, sz := 3, ch := 2, ord := 0, sc := 5 }) ∧
    decodeTableWord 128 0x5c5800000100000001400190466 = some (.gPf hw 20 0x80000010 { sx := false, vadr := true, sz := 3, ch := 2, ord := 0, sc := 5 }) ∧
    decodeTableWord 128 0xcc580000010000100140a190566 = some (.gLdnf hw 10 20 1 0x80000010 { sx := true, vadr := true, sz := 1, ch := 2, ord := 0, sc := 5 })) := by
  decide
theorem test_decode_a_1 : (decodeTableWord 128 0x5458000001000020e140a190076 = some (.aRmw hw { ty := .b32, rnd := .rn, sr := false, sat := false } 10 20 14 2 0x80000010 { sx := false, vadr := true, sz := 2, ch := 2, ord := 0, sc := 5 }) ∧
    decodeTableWord 128 0x5dd8000001000100e140a190176 = some (.aCas hw 10 20 14 16 0x80000010 { sx := false, vadr := true, sz := 3, ch := 2, ord := 3, sc := 5 }) ∧
    decodeTableWord 128 0x5558000001000020e1400190276 = some (.aRed hw { ty := .b32, rnd := .rn, sr := false, sat := false } 20 14 2 0x80000010 { sx := false, vadr := true, sz := 2, ch := 2, ord := 2, sc := 5 }) ∧
    decodeTableWord 128 0x5cd800000100000002a28190376 = some (.aLdacq hw 40 42 0x80000010 { sx := false, vadr := true, sz := 3, ch := 2, ord := 1, sc := 5 }) ∧
    decodeTableWord 128 0x5d58000001000000e1400190476 = some (.aStrel hw 20 14 0x80000010 { sx := false, vadr := true, sz := 3, ch := 2, ord := 2, sc := 5 }) ∧
    decodeTableWord 64 0x600000000590574 = some (.aFence hw 2 6) ∧
    decodeTableWord 96 0xfffffff40000070600190675 = some (.aBarInit hw 6 7 0xFFFFFFF4) ∧
    decodeTableWord 96 0xfffffff40000160605590775 = some (.aBarArrive hw 2 5 6 22 0xFFFFFFF4) ∧
    decodeTableWord 96 0xfffffff40000070600190875 = some (.aBarWait hw 6 7 0xFFFFFFF4)) := by
  decide
theorem test_decode_a_2 : (decodeTableWord 96 0xfffffff40000000605190975 = some (.aBarSync hw 5 6 0xFFFFFFF4) ∧
    decodeTableWord 96 0xfffffff40000070600390a75 = some (.aBarExpect hw 1 6 7 0xFFFFFFF4) ∧
    decodeTableWord 96 0xfffffff40000070605190b75 = some (.aBarTest hw 5 6 7 0xFFFFFFF4) ∧
    decodeTableWord 128 0x1c5800000100000000605190c76 = some (.aTktTake hw 5 6 0x80000010 { sx := false, vadr := false, sz := 3, ch := 2, ord := 0, sc := 5 }) ∧
    decodeTableWord 128 0x1cd800000100000070600190d76 = some (.aTktWait hw 6 7 0x80000010 { sx := false, vadr := false, sz := 3, ch := 2, ord := 1, sc := 5 }) ∧
    decodeTableWord 128 0x1d58000001000003d0600190e76 = some (.aTktServe hw 6 (.reg 61) 0x80000010 { sx := false, vadr := false, sz := 3, ch := 2, ord := 2, sc := 5 }) ∧
    decodeTableWord 128 0x1cd800000100000070605190f76 = some (.aWatch hw 5 6 7 0x80000010 { sx := false, vadr := false, sz := 3, ch := 2, ord := 1, sc := 5 })) := by
  decide
theorem test_decode_m_1 : (decodeTableWord 128 0x3380000010ee1f060505390086 = some (.mMma hw 1 5 5 6 31 true true 5 6 0x80000010 3 4 true) ∧
    decodeTableWord 128 0x3380000010801f060505390186 = some (.mMmt hw 1 5 5 6 31 true 0x80000010 3 4 true) ∧
    decodeTableWord 64 0x605390284 = some (.mEnq hw 1 5 6) ∧
    decodeTableWord 64 0x1e05190384 = some (.mZero hw 5 30) ∧
    decodeTableWord 96 0x521640018161e05390485 = some (.mLdacc hw 1 5 30 22 24 100 33 5) ∧
    decodeTableWord 96 0x521640018161e05390585 = some (.mStacc hw 1 5 30 22 24 100 33 5) ∧
    decodeTableWord 128 0x570000008003ac08071e05390686 = some (.mCvst hw 1 { ty := .i8, rnd := .rp, sr := false, sat := true } 5 30 7 8 { rows := 3, cols := 128, esc := 0, ch := 2, swz := 5, sc := 6, amen := false, amx := 0 }) ∧
    decodeTableWord 96 0x80070000001e0a190785 = some (.mRstat hw 10 30 7 128) ∧
    decodeTableWord 64 0x3f0005b90884 = some (.mAmax hw 1 5 (.imm 63))) := by
  decide
theorem test_decode_m_2 : (decodeTableWord 64 0x605190984 = some (.mResv hw 5 6)) := by
  decide
theorem test_decode_q_1 : (decodeTableWord 128 0x800000100000000605390096 = some (.qSpawn hw 1 5 6 0x80000010) ∧
    decodeTableWord 128 0x800000100000000605390196 = some (.qLaunch hw 1 5 6 0x80000010) ∧
    decodeTableWord 64 0x600000605390294 = some (.qFwait hw 1 5 6 6) ∧
    decodeTableWord 64 0x605390394 = some (.qFtest hw 1 5 6) ∧
    decodeTableWord 64 0x605390494 = some (.qFcancel hw 1 5 6) ∧
    decodeTableWord 96 0xfffffff40000160612390595 = some (.qFmov hw 1 18 6 22 0xFFFFFFF4) ∧
    decodeTableWord 64 0x3d0005190694 = some (.qClaim hw 5 (.reg 61)) ∧
    decodeTableWord 64 0x3d0000190794 = some (.qGive hw (.reg 61)) ∧
    decodeTableWord 96 0xfffffff40000000000190895 = some (.qLive hw 0xFFFFFFF4)) := by
  decide
theorem test_decode_q_2 : (decodeTableWord 64 0x190994 = some (.qYield hw) ∧
    decodeTableWord 64 0x3d0000190a94 = some (.qSleep hw (.reg 61))) := by
  decide
theorem test_decode_e_1 : (decodeTableWord 128 0x6e818000001000080706051900a6 = some (.eCopy hw 5 6 7 8 0x80000010 { bar := true, swz := 5, sc := 6, ch := 2, sls := false, dls := true }) ∧
    decodeTableWord 128 0x6e818000001000080706051901a6 = some (.eCopy2 hw 5 6 7 8 0x80000010 { bar := true, swz := 5, sc := 6, ch := 2, sls := false, dls := true }) ∧
    decodeTableWord 128 0x6e818000001000080706051902a6 = some (.eGath hw 5 6 7 8 0x80000010 { bar := true, swz := 5, sc := 6, ch := 2, sls := false, dls := true }) ∧
    decodeTableWord 128 0x6e818000001000080706051903a6 = some (.eScat hw 5 6 7 8 0x80000010 { bar := true, swz := 5, sc := 6, ch := 2, sls := false, dls := true }) ∧
    decodeTableWord 128 0x6e818000001000080706051904a6 = some (.eFill hw 5 6 7 8 0x80000010 { bar := true, swz := 5, sc := 6, ch := 2, sls := false, dls := true }) ∧
    decodeTableWord 128 0x6e818000001000080706051905a6 = some (.eBcast hw 5 6 7 8 0x80000010 { bar := true, swz := 5, sc := 6, ch := 2, sls := false, dls := true }) ∧
    decodeTableWord 128 0x1d000b0006053906a6 = some (.eRkinit hw 1 5 6 3 2 29) ∧
    decodeTableWord 96 0xfffffff4000b1600055907a5 = some (.eRkstep hw 2 5 22 3 2 0xFFFFFFF4) ∧
    decodeTableWord 96 0xbeef000b001e053908a5 = some (.eRkread hw 1 5 30 3 2 0xBEEF)) := by
  decide
theorem test_decode_e_2 : (decodeTableWord 96 0xb000b001e051909a5 = some (.eRkld hw 5 30 3 2 11) ∧
    decodeTableWord 96 0xb000b001e05190aa5 = some (.eRkst hw 5 30 3 2 11) ∧
    decodeTableWord 128 0x400022915000b001405390ba6 = some (.eRksave hw 1 5 20 3 2 { icnt := 17, isl := 9, f := 21, sc := 4 }) ∧
    decodeTableWord 128 0x400022915000b001405390ca6 = some (.eRkrest hw 1 5 20 3 2 { icnt := 17, isl := 9, f := 21, sc := 4 }) ∧
    decodeTableWord 64 0xb000005190da4 = some (.eRkstat hw 5 3 2)) := by
  decide
theorem test_decode_kv_1 : (decodeTableWord 128 0x8000001000000706051900b6 = some (.kvBind hw 5 6 7 0x80000010) ∧
    decodeTableWord 128 0x53900b6 = some (.kvUnbind hw 5) ∧
    decodeTableWord 64 0x3051901b4 = some (.kvPop hw 5 3) ∧
    decodeTableWord 64 0x3001902b4 = some (.kvAck hw 3) ∧
    decodeTableWord 64 0x703003902b4 = some (.kvAckFut hw 3 7) ∧
    decodeTableWord 64 0x3051903b4 = some (.kvCur hw 5 3) ∧
    decodeTableWord 128 0x40000000000000706051904b6 = some (.kvApp hw 5 6 7 4) ∧
    decodeTableWord 96 0x706051905b5 = some (.kvFind hw 5 6 7) ∧
    decodeTableWord 96 0x80706051906b5 = some (.kvIns hw 5 6 7 8)) := by
  decide
theorem test_decode_kv_2 : (decodeTableWord 64 0x706051907b4 = some (.kvRel hw 5 6 7) ∧
    decodeTableWord 96 0x400000706051908b5 = some (.kvTrunc hw 5 6 7 4) ∧
    decodeTableWord 96 0x8000100e0c0a1909b5 = some (.kvRope hw 10 12 14 16 128) ∧
    decodeTableWord 96 0xfffffff40000000600190ab5 = some (.kvRpset hw 6 0xFFFFFFF4) ∧
    decodeTableWord 64 0x70300190bb4 = some (.kvPush hw 3 7) ∧
    decodeTableWord 64 0x300390bb4 = some (.kvPushEnd hw 3) ∧
    decodeTableWord 64 0x590bb4 = some (.kvPushStop hw)) := by
  decide
theorem test_decode_c_1 : (decodeTableWord 128 0x100a0000000000000006051900c6 = some (.cAnew hw 5 6 256 true false 2) ∧
    decodeTableWord 64 0x6051901c4 = some (.cSeal hw 5 6) ∧
    decodeTableWord 64 0x6051902c4 = some (.cDrop hw 5 6) ∧
    decodeTableWord 64 0x6053903c4 = some (.cAq hw 1 5 6) ∧
    decodeTableWord 128 0x706051904c6 = some (.cWbr hw 5 6 7) ∧
    decodeTableWord 128 0x706051905c6 = some (.cInvr hw 5 6 7) ∧
    decodeTableWord 96 0xcafe00000006051906c5 = some (.cCtnew hw 5 6 0xCAFE) ∧
    decodeTableWord 128 0xcafe00000706053907c6 = some (.cCtenr hw 1 5 6 7 0xCAFE) ∧
    decodeTableWord 128 0x706055907c6 = some (.cCtenrWithdraw hw 5 6 7)) := by
  decide
theorem test_decode_c_2 : (decodeTableWord 64 0x706051908c4 = some (.cCtpar hw 5 6 7) ∧
    decodeTableWord 64 0x6051909c4 = some (.cCtrd hw 5 6) ∧
    decodeTableWord 64 0x605190ac4 = some (.cSettle hw 5 6) ∧
    decodeTableWord 64 0x605190bc4 = some (.cCtdel hw 5 6)) := by
  decide
theorem test_decode_y_1 : (decodeTableWord 64 0x12051900d4 = some (.yRdpr hw 5 18) ∧
    decodeTableWord 64 0x6131901d4 = some (.yWrpr hw 19 6) ∧
    decodeTableWord 128 0x260000000000000706051902d6 = some (.yMap hw 5 6 7 6 false true) ∧
    decodeTableWord 128 0x1e8000001000000706053902d6 = some (.yMapFilter hw 5 6 7 0x80000010 30) ∧
    decodeTableWord 128 0xf0000000000000006051903d6 = some (.yUnmap hw 5 6 15) ∧
    decodeTableWord 128 0x1e0000000000000000053903d6 = some (.yUnmapFilter hw 5 30) ∧
    decodeTableWord 128 0x706051904d6 = some (.yXinvInval hw 5 6 7) ∧
    decodeTableWord 128 0x706053904d6 = some (.yXinvReplay hw 5 6 7) ∧
    decodeTableWord 128 0x10000000000000706055904d6 = some (.yXinvFail hw 5 6 7 true)) := by
  decide
theorem test_decode_y_2 : (decodeTableWord 128 0x706051905d6 = some (.yRegn hw 5 6 7) ∧
    decodeTableWord 96 0xfffffff400000000051906d5 = some (.yWinRead hw 5 0xFFFFFFF4) ∧
    decodeTableWord 96 0xfffffff400000700003906d5 = some (.yWinWrite hw 7 0xFFFFFFF4) ∧
    decodeTableWord 96 0x5906d5 = some (.yWinStop hw) ∧
    decodeTableWord 96 0xfffffff400000006053907d5 = some (.yCtxs hw 1 5 6 0xFFFFFFF4) ∧
    decodeTableWord 96 0xfffffff400000006053908d5 = some (.yCtxl hw 1 5 6 0xFFFFFFF4) ∧
    decodeTableWord 64 0x1909d4 = some (.yEretResume hw) ∧
    decodeTableWord 64 0x3909d4 = some (.yEretStep hw) ∧
    decodeTableWord 64 0x700005909d4 = some (.yEretKillThreads hw 7)) := by
  decide
theorem test_decode_y_3 : (decodeTableWord 64 0x7909d4 = some (.yEretKillTeam hw) ∧
    decodeTableWord 64 0x70005190ad4 = some (.yIdle hw 5 7)) := by
  decide

end Sys2Proof.Tests
end

