-- ==== Sys2Proof/Tests/Slice0.lean ====
section
/-! SUPPORT. The model's own tests: ill-formed terms, refused words, single steps against hand calculation, and an instruction that
runs first after reset. -/

namespace Sys2Proof.Tests

set_option Elab.async false

open Sys2Proof Sys2Proof.Machine

/-! ## Well-formedness: each check refuses a term -/

/-- Both refuse: the term is ill-formed, and its words do not decode to an instruction. -/
def ill (i : Instr) : Bool :=
  !i.wf && has (encode i) (fun x => match decode 0 x with | .error (.badField _) => true | _ => false)

/-- The header: KN with MD (R38). -/
theorem test_ill_header : (ill (.bNop { h0 with md := true, kn := true }) && !ill (.bNop { h0 with kn := true })) = true := by
  decide +kernel
/-- Register numbers: s64, k16, t8, slot 32, queue 4 (R28). -/
theorem test_ill_registers :
    ([.sMov h0 64 0, .sMov h0 0 64, .sAdd h0 1 2 (.reg 64), .bBrk h0 0 16 0, .sWrk h0 16 1, .lLdt h0 8 1 2 0, .sMovc h0 0 8 1, .mZero h0 1 32,
      .kvPop h0 1 4] : List Instr).all ill = true := by decide +kernel
/-- Reserved SUB and condition codes (R207, R216, R223). -/
theorem test_ill_sub :
    ([.sMovi h0 3 1 0, .sMul h0 3 1 2 (.reg 3), .sMin h0 2 1 2 (.reg 3), .sCmp h0 10 1 2 (.reg 3), .vLid h0 2 1, .bJmp h0 2 0 0, .aFence h0 3 0,
      .vCmp h0 0 (ty .b32) 1 2 3 6, .fCmp h0 0 (ty .f32) 1 2 3 8, .sMovc h0 2 1 1] : List Instr).all ill = true := by decide +kernel
/-- Element types, rounding and saturation that the entry does not honour (R29, R30). -/
theorem test_ill_types :
    ([.vAdd h0 (ty .f32) 1 2 (.reg 3), .vAdd h0 { ty .b32 with sr := true } 1 2 (.reg 3), .vMov h0 { ty .b32 with sat := true } 1 2,
      .fAdd h0 { ty .f32 with sr := true, rnd := .rz } 1 2 3, .fDiv h0 { ty .f32 with sr := true } 1 2 3, .fAdd h0 (ty .e4m3) 1 2 3,
      .vMul h0 1 { ty .b32 with sat := true } 1 2 (.reg 3), .fCvt h0 { ty .b32 with sr := true } 1 2 .f32] : List Instr).all ill = true := by
  decide +kernel
/-- Register pairs and groups (R28, R147, R189). -/
theorem test_ill_groups :
    ([.vAdd h0 (ty .i64) 1 2 (.reg 4), .vAdd h0 (ty .i64) 2 2 (.reg 5), .xShfl h0 0 (ty .i64) 2 3 (.imm 0x8004), .gSt h0 1 3 0 (x1 3), .lLd h0 false false 0 1 5 0,
      .fUnpack h0 (ty .f32) 254 0 .e4m3 0, .mRstat h0 251 0 1 1, .kvRope h0 255 0 0 0 8, .kvRope h0 0 0 0 0 7, .kvFind h0 1 3 2,
      .eCopy2 h0 1 2 3 5 0 { bar := false, swz := 0, sc := 0, ch := 0, sls := false, dls := true }] : List Instr).all ill = true := by
  decide +kernel
/-- The extension words: base, ORD, SC, SZ of the type, DLS of a broadcast (R33, R34, R164, R281). -/
theorem test_ill_extensions :
    ([.gLd h0 0 64 0 (x1 2), .gLd h0 0 3 0 { x1 2 with vadr := true }, .gLd h0 0 1 0 (x1 2 1), .gLd h0 0 1 0 (x1 2 0 7), .aLdacq h0 0 1 0 (x1 2 0),
      .aStrel h0 1 0 0 (x1 2 1), .aRmw h0 (ty .b32) 0 1 2 0 0 (x1 3), .aRed h0 (ty .b32) 1 2 0 0 (x1 2 1), .aRmw h0 (ty .f32) 0 1 2 3 0 (x1 2),
      .aRmw h0 (ty .b32) 0 1 2 7 0 (x1 2), .xRed h0 (ty .b32) 0 1 6,
      .eBcast h0 1 2 3 4 0 { bar := false, swz := 0, sc := 0, ch := 0, sls := false, dls := false }] : List Instr).all ill = true := by
  decide +kernel
/-- Numbers with their own ranges: special and privileged registers, entry numbers, shuffle widths, quotas (R82, R197, R228, R398). -/
theorem test_ill_ranges :
    ([.sRdsr h0 1 0x18, .sWrsr h0 0 1, .yRdpr h0 1 0x0A, .yWrpr h0 0x18 1, .fAmax h0 (ty .f32) 1 (.imm 64), .mAmax h0 0 1 (.imm 64),
      .xShfl h0 0 (ty .b32) 1 2 (.imm 0x8000), .xShfl h0 0 (ty .b32) 1 2 (.imm 0x8005), .lFill h0 false 1 2 0 0, .cAnew h0 1 2 0 false false 0,
      .cAnew h0 1 2 257 false false 0, .cAnew h0 1 2 1 false true 1] : List Instr).all ill = true := by decide +kernel
/-- The same instructions with values in range are well-formed. -/
theorem test_well_formed :
    ([.sMov h0 63 0, .sCmp h0 9 1 2 (.reg 3), .vAdd h0 (ty .i64) 2 2 (.reg 4), .gLd h0 252 63 0 (x1 4), .sRdsr h0 1 0x17, .xShfl h0 0 (ty .b32) 1 2 (.imm 0x8004),
      .cAnew h0 1 2 256 true false 1, .kvRope h0 254 0 0 0 128, .fAmax h0 (ty .f32) 1 (.imm 63), .aRmw h0 (ty .i64) 0 1 2 6 0 (x1 3)] :
      List Instr).all (fun i => i.wf && has (encode i) (fun x => (match decode 0 x with | .ok j => j = i | .error _ => false))) = true := by
  decide +kernel

/-! ## The decoder refuses by name -/

/-- R41, checks 1 to 6: a parcel of LEN 3, a crossing of 32 bytes, a class and an OP that are reserved, a wrong LEN. -/
theorem test_refused :
    (decode 0 3 = .ok .pad4 ∧ decode 0 7 = .error .badParcel ∧ decode 28 0x04 = .error .crosses ∧ decode 24 0x605190004 = .ok (.sMov hw 5 6) ∧
      decode 0 0xE0 = .error .badClass ∧ decode 0 0xFF00 = .error .badOp ∧ decode 0 0x0001 = .error .badLength) := by decide +kernel
/-- R31, R35: s.mov defines no SUB of 1 and no immediate; the bits of T, which it does not use, are ignored. -/
theorem test_refused_unused :
    (decode 0 0x605390004 = .error (.badField false) ∧ decode 0 0x605990004 = .error (.badField false) ∧
      decode 0 0x0100000605190004 = .ok (.sMov hw 5 6)) := by decide +kernel

/-! ## Single steps -/

/-- The wave after the instruction. -/
def after (s : State) (i : Instr) (p : Ctx → Bool) : Bool :=
  match exec i s with
  | .next t => has (t.ctx? s.cur) p
  | _ => false
/-- s1 = 2^63 + 2, s2 = 7, s3 = -7, k5 = lanes 0 and 63; v0 of lane 0 is 0x80000001 and v1 of lane 0 is 3. -/
def w1 : State :=
  w (fun c => { c with s := [(1, 0x8000000000000002), (2, 7), (3, BitVec.ofInt 64 (-7))], v := [(0, 0x80000001), (64, 3)] })
/-- The PC moves on by the length. -/
def moved (c : Ctx) (n : Nat) : Bool := has (c.rec? 0) (fun r => r.pc = BitVec.ofNat 64 (64 + n))

/-- R207: the sum wraps at 64 bits. -/
theorem test_add_wraps : after w1 (.sAdd h0 9 1 (.reg 1)) (fun c => c.sget 9 = 4 && moved c 8) = true := by decide +kernel
/-- R206: IMM16 is sign-extended. -/
theorem test_sub_immediate : after w1 (.sSub h0 9 2 (.imm 0xFFFF)) (fun c => c.sget 9 = 8) = true := by decide +kernel
/-- R207: the high halves of products; (2^63 + 2) * 7 = 3 * 2^64 + 2^63 + 14. -/
theorem test_mul_high :
    (after w1 (.sMul h0 2 9 1 (.reg 2)) (fun c => c.sget 9 = 3) && after w1 (.sMul h0 1 9 3 (.reg 2)) (fun c => c.sget 9 = BitVec.allOnes 64)) = true := by
  decide +kernel
/-- R208: a signed quotient rounds toward zero, and a divisor of zero gives all ones. -/
theorem test_div :
    (after w1 (.sDiv h0 0 9 3 (.imm 2)) (fun c => c.sget 9 = BitVec.ofInt 64 (-3)) && after w1 (.sDiv h0 0 9 2 (.imm 0)) (fun c => c.sget 9 = BitVec.allOnes 64)) =
      true := by decide +kernel
/-- R207: shift counts are taken modulo 64, and s.sra keeps the sign. -/
theorem test_shifts :
    (after w1 (.sShl h0 9 2 (.imm 65)) (fun c => c.sget 9 = 14) && after w1 (.sSra h0 9 3 (.imm 1)) (fun c => c.sget 9 = BitVec.ofInt 64 (-4))) = true := by
  decide +kernel
/-- R338: a taken branch (s2 is not zero) sets the PC to its own plus X0, one not taken goes on behind itself. -/
theorem test_branch :
    (after w1 (.bBr h0 0 2 8) (fun c => moved c 8) && after w1 (.bBr h0 1 2 8) (fun c => moved c 12)) = true := by decide +kernel
/-- R38, R215: only the lanes of the predicate are written; lane 63 reads zero. -/
theorem test_vector_predicate :
    (let h : Hdr := { h0 with kp := 5 }
    after w1 (.vAdd h (ty .b32) 9 0 (.reg 1)) (fun c => c.vget 9 0 = 0x80000004 && c.vget 9 63 = 0 && moved c 8) &&
      after w1 (.vAdd h { ty .n32 with sat := true } 9 0 (.reg 0)) (fun c => c.vget 9 0 = 0xFFFFFFFF && c.vget 9 63 = 0)) = true := by decide +kernel
/-- R216: the compare writes one bit per lane; signed and unsigned orders differ. -/
theorem test_vector_compare :
    (after w1 (.vCmp h0 0 (ty .b32) 7 0 1 2) (fun c => (c.kget 7).getLsbD 0) && after w1 (.vCmp h0 0 (ty .n32) 7 0 1 2) (fun c => !(c.kget 7).getLsbD 0)) = true := by
  decide +kernel
/-- R221: 1.5 + 2.25 = 3.75, and 2^127 * 2 overflows to infinity with OF and NX (R180, R184). -/
theorem test_float :
    (let s := w (fun c => { c with v := [(0, 0x3FC00000), (64, 0x40100000), (128, 0x7F000000), (192, 0x40000000)] })
    after s (.fAdd h0 (ty .f32) 9 0 1) (fun c => c.vget 9 0 = 0x40700000) && after s (.fMul h0 (ty .f32) 9 2 3) (fun c => c.vget 9 0 = 0x7F800000 && c.flag 0 = 5)) = true := by
  decide +kernel
/-- R41, R390: a privileged instruction without privilege stops the wave with PRIV, its PC kept. -/
theorem test_privilege :
    after (w (fun c => { c with priv := false })) (.yRdpr h0 5 0)
      (fun c => has c.stop (fun f => f.code = Code.priv && f.prec && f.pc = 64) && moved c 0) = true := by decide +kernel

/-! ## The first instruction after reset -/

/-- s.add s5, s6, -0x7FFF with s6 = 0, placed as the first instruction, runs in the first step. -/
theorem test_first_step :
    (match step (State.reset.withFetchWord 64 0x0080010605800200) with
      | .next t => has (t.ctx? (.slot 0 0)) (fun c => c.sget 5 = 0xFFFFFFFFFFFF8001)
      | _ => false) = true := by decide +kernel

end Sys2Proof.Tests
end

/-! SUPPORT. The scheduler's own steps (R16 to R18, R56 to R59, R358 to R361, R363, R369 to R371, R373, R375): a rule for each
shared operation that they use, then what each of them does. -/

namespace Sys2Proof.Machine

/-! ## Folds -/

/-- What every step of a fold leaves unchanged, the fold leaves unchanged. -/
theorem foldl_get_eq {σ α β : Type} (get : σ → β) (f : σ → α → σ) (l : List α) (s : σ)
    (h : ∀ s, ∀ x ∈ l, get (f s x) = get s) : get (l.foldl f s) = get s := by
  induction l generalizing s with
  | nil => rfl
  | cons x l ih =>
    rw [List.foldl_cons, ih _ (fun s y hy => h s y (List.mem_cons_of_mem _ hy)), h s x (List.mem_cons_self ..)]

/-- What one element of a fold sets, and every other element leaves unchanged, the fold has set. -/
theorem foldl_get_set {σ α β : Type} (get : σ → β) (f : σ → α → σ) (l : List α) (s : σ) (x : α) (v : β) (hx : x ∈ l)
    (hset : ∀ s, get (f s x) = v) (hkeep : ∀ s, ∀ y ∈ l, y ≠ x → get (f s y) = get s) : get (l.foldl f s) = v := by
  induction l using List.reverseRecOn with
  | nil => cases hx
  | append_singleton l y ih =>
    rw [List.foldl_append, List.foldl_cons, List.foldl_nil]
    by_cases hy : y = x
    · rw [hy, hset]
    · rw [hkeep _ y (by simp) hy]
      refine ih ?_ (fun s z hz => hkeep s z (List.mem_append_left _ hz))
      rcases List.mem_append.mp hx with h | h
      · exact h
      · exact absurd (List.mem_singleton.mp h).symm hy

/-! ## Events, teams, groups and contexts -/

@[simp] theorem event_some (s t : State) : event s (some t) = .next t := rfl

/-- An event that does not count as a step where it changes nothing. -/
theorem event_unless_same (s t : State) : event s (if t = s then none else some t) = .next t := by
  split
  · next h => rw [h]; rfl
  · rfl

theorem State.find_mapTeam {s : State} {k : Nat} {x : Team} (f : Team → Team) (h : s.teams.find k = some x) :
    (s.mapTeam k f).teams.find k = some (f x) := by
  simp [State.mapTeam, h]

theorem State.find_mapGroup {s : State} {k : Nat} {x : Group} (f : Group → Group) (h : s.groups.find k = some x) :
    (s.mapGroup k f).groups.find k = some (f x) := by
  simp [State.mapGroup, h]

theorem State.find_mapGroup_ne (s : State) (k j : Nat) (f : Group → Group) (h : j ≠ k) :
    (s.mapGroup k f).groups.find j = s.groups.find j := by
  unfold State.mapGroup
  split
  · exact AMap.find_put_ne _ _ _ _ h
  · rfl

@[simp] theorem State.ctx?_mapTeam (s : State) (k : Nat) (f : Team → Team) (a : Agent) :
    (s.mapTeam k f).ctx? a = s.ctx? a := State.ctx?_congr (State.mapTeam_ctxs s k f) a

theorem ctxKey_slot_inj {core m n : Nat} (h : ctxKey (.slot core m) = ctxKey (.slot core n)) : m = n :=
  Nat.add_left_cancel h

/-- A running agent has no record to post. -/
theorem State.keepRecord_of_running {s : State} {a : Agent} {c : Ctx} (h : s.ctx? a = some c) (hs : c.stop = none) :
    s.keepRecord a = s := by
  simp [State.keepRecord, h, hs]

/-- What the device reads or writes of its own accord it has, where nothing of it waits. -/
theorem State.own_ok {α : Type} {s : State} {die tag : Nat} (part : Nat) (x : α) (h : s.unawaited die tag) :
    s.own die part tag (.ok x) = .got x := by
  have hn : s.reqs.find? (fun r => r.core = sliceCore die && r.op = .fetch && r.pend = some tag) = none := by
    rw [List.find?_eq_none]
    intro r hr hb
    simp only [Bool.and_eq_true, decide_eq_true_eq] at hb
    exact h r hr ⟨hb.1.1, hb.1.2, hb.2⟩
  simp [State.own, hn]

/-! ## The retirement of a wave (R16, R235) -/

@[simp] theorem State.dropWave_teams (s : State) (a : Agent) (c : Ctx) : (s.dropWave a c).teams = s.teams := by
  unfold State.dropWave; dsimp only; split <;> rfl
@[simp] theorem State.dropWave_mem (s : State) (a : Agent) (c : Ctx) : (s.dropWave a c).mem = s.mem := by
  unfold State.dropWave; dsimp only; split <;> rfl

/-- Without loads into tiles nothing of a wave stays. -/
theorem State.ctx?_dropWave_none (s : State) (a : Agent) {c : Ctx} (h : c.pend.filter (fun p => p.tile.isSome) = []) :
    (s.dropWave a c).ctx? a = none := by
  simp [State.dropWave, h, State.ctx?]

/-- With loads into tiles a context without registers stays, which holds them. -/
theorem State.ctx?_dropWave_loads (s : State) (a : Agent) {c : Ctx} (h : c.pend.filter (fun p => p.tile.isSome) ≠ []) :
    ∃ k, (s.dropWave a c).ctx? a = some k ∧ k.gone = true ∧ k.pend = c.pend.filter (fun p => p.tile.isSome) ∧
      k.team = c.team := by
  have hb : (c.pend.filter (fun p => p.tile.isSome)).isEmpty = false := by simpa using h
  simp only [State.dropWave, hb]
  exact ⟨_, State.ctx?_setCtx_same _ _ _, rfl, rfl, rfl⟩

theorem State.ctx?_dropWave_ne (s : State) (a b : Agent) (c : Ctx) (h : ctxKey b ≠ ctxKey a) :
    (s.dropWave a c).ctx? b = s.ctx? b := by
  unfold State.dropWave; dsimp only
  split
  · exact AMap.find_del_ne _ _ _ h
  · exact State.ctx?_setCtx_ne s a b _ h

/-- WAVE_RETIRE of a wave that is not its team's last. -/
theorem exec_waveRetire {s : State} {a : Agent} {c : Ctx} {tm : Team} (hc : s.ctx? a = some c)
    (ht : s.teams.find c.team = some tm) (hg : tm.group ≠ 0) (hk : isStoker a = false) (hh : isHearth a = false)
    (he : c.exited = BitVec.allOnes 64) (hst : s.storing c = false) (hp : ∀ p ∈ c.pend, p.fail = none) (hf : c.sfail = [])
    (hs : c.stop = none) (hgone : c.gone = false) (hl : tm.retired.length + 1 ≠ tm.foot.waves) :
    exec (.waveRetire a) s = .next ((s.dropWave a c).mapTeam c.team (fun t =>
      { t with retired := t.retired ++ [c.widx], claims := t.claims.filter (· ≠ c.widx) })) := by
  have hpend : c.pend.any (fun p => p.fail.isSome) = false := by
    rw [List.any_eq_false]; intro p h; simp [hp p h]
  change event s (evWaveRetire a s) = _
  simp [evWaveRetire, hc, ht, hg, hk, hh, hgone, he, hst, hf, hs, hpend, hl, State.keepRecord_of_running hc hs]

theorem waveRetire_spec : ∀ (s : State) (a : Agent) (c : Ctx) (tm : Team), s.ctx? a = some c → s.teams.find c.team = some tm → tm.group ≠ 0 →
    isStoker a = false → isHearth a = false → c.exited = BitVec.allOnes 64 → s.storing c = false → (∀ p ∈ c.pend, p.fail = none) →
    c.sfail = [] → c.stop = none → tm.dead = none → c.gone = false → tm.retired.length + 1 ≠ tm.foot.waves →
    let loads := c.pend.filter (fun p => p.tile.isSome)
    ∃ t, exec (.waveRetire a) s = .next t ∧ (loads = [] → t.ctx? a = none) ∧
      (loads ≠ [] → ∃ k, t.ctx? a = some k ∧ k.gone = true ∧ k.pend = loads ∧ k.team = c.team) ∧
      t.teams.find c.team = some { tm with retired := tm.retired ++ [c.widx], claims := tm.claims.filter (· ≠ c.widx) } ∧
      (∀ b, ctxKey b ≠ ctxKey a → t.ctx? b = s.ctx? b) ∧ t.mem = s.mem := by
  intro s a c tm hc ht hg hk hh he hst hp hf hs _ hgone hl loads
  refine ⟨_, exec_waveRetire hc ht hg hk hh he hst hp hf hs hgone hl, fun h => ?_, fun h => ?_, ?_, fun b hb => ?_, ?_⟩
  · rw [State.ctx?_mapTeam, State.ctx?_dropWave_none s a h]
  · simpa only [State.ctx?_mapTeam] using State.ctx?_dropWave_loads s a h
  · exact State.find_mapTeam _ ((congrArg (AMap.find · c.team) (State.dropWave_teams s a c)).trans ht)
  · rw [State.ctx?_mapTeam, State.ctx?_dropWave_ne s a b c hb]
  · rw [State.mapTeam_mem, State.dropWave_mem]

/-! ## The release of a team (R17) -/

/-- What a group counts of a retired team: nothing of a team that was not killed, and the first killed one with its code. -/
theorem Group.count_worst_alive (g : Group) (tid : Nat) : (g.count tid none).worst = g.worst := rfl
theorem Group.count_worst_first {g : Group} (tid code : Nat) (h : g.worst = none) :
    (g.count tid (some code)).worst = some (tid, code) := by
  simp [Group.count, h]

/-- TEAM_RELEASE of a team whose waves have retired and whose work is complete. -/
theorem exec_teamRelease {s : State} {key : Nat} {tm : Team} (ht : s.teams.find key = some tm) (hg : tm.group ≠ 0)
    (hs : s.inSave key = false) (hr : tm.retired.length = tm.foot.waves) (hw : s.teamWork key = false)
    (hp : s.groups.any (fun g => g.2.parent = some key) = false) :
    exec (.teamRelease key) s = .next ((({ s with teams := s.teams.del key } : State).dropLoads key).mapGroup tm.group
      (fun g => g.count tm.teamId tm.dead)) := by
  change event s (evTeamRelease key s) = _
  simp only [evTeamRelease, ht, hs, hr, hw, hp]
  simp [hg]

theorem teamRelease_spec : ∀ (s : State) (key : Nat) (tm : Team) (g : Group), s.teams.find key = some tm → tm.group ≠ 0 →
    s.inSave key = false → tm.retired.length = tm.foot.waves → s.teamWork key = false →
    s.groups.any (fun g => g.2.parent = some key) = false → s.groups.find tm.group = some g →
    ∃ t u, exec (.teamRelease key) s = .next t ∧ t.teams.find key = none ∧ t.groups.find tm.group = some u ∧
      u.retired = g.retired + 1 ∧ (tm.dead = none → u.worst = g.worst) ∧
      (∀ code, tm.dead = some code → g.worst = none → u.worst = some (tm.teamId, code)) ∧ t.mem = s.mem ∧
      t.ctxs = s.ctxs.filter (fun e => !(e.2.team = key && e.2.gone)) := by
  intro s key tm g ht hg hs hr hw hp hgr
  refine ⟨_, g.count tm.teamId tm.dead, exec_teamRelease ht hg hs hr hw hp, ?_, State.find_mapGroup _ hgr, rfl, fun hd => ?_,
    fun code hd hn => ?_, ?_, ?_⟩
  · rw [State.mapGroup_teams]; exact AMap.find_del_same _ _
  · rw [hd, Group.count_worst_alive]
  · rw [hd, Group.count_worst_first _ _ hn]
  · rw [State.mapGroup_mem]; rfl
  · rw [State.mapGroup_ctxs]; rfl

/-! ## The completion of a group (R18, R363) -/

/-- A group's future resolves FAULTED with the code of the killed team of the lowest id, else CANCELLED where teams of it were dropped,
else DONE. -/
theorem State.endGroup_worst (s : State) (key : Nat) {g : Group} {i code : Nat} (h : g.worst = some (i, code)) :
    s.endGroup key g none = ({ s with groups := s.groups.del key } : State).resolve0 g.fut Status.faulted code := by
  simp [State.endGroup, h]
theorem State.endGroup_cut (s : State) (key : Nat) {g : Group} (h : g.worst = none) (hc : g.cut = true) :
    s.endGroup key g none = ({ s with groups := s.groups.del key } : State).resolve0 g.fut Status.cancelled 0 := by
  simp [State.endGroup, h, hc]
theorem State.endGroup_done (s : State) (key : Nat) {g : Group} (h : g.worst = none) (hc : g.cut = false) :
    s.endGroup key g none = ({ s with groups := s.groups.del key } : State).resolve0 g.fut Status.done 0 := by
  simp [State.endGroup, h, hc]
/-- A signal that fails gives the future its own code. -/
theorem State.endGroup_fail (s : State) (key : Nat) (g : Group) (code : Nat) :
    s.endGroup key g (some code) = ({ s with groups := s.groups.del key } : State).resolve0 g.fut Status.faulted code := rfl

/-- The signal of a group without a signal word, and of one whose word is written; and one that fails at issue. -/
theorem State.signal_absent (s : State) {g : Group} (h : g.sigaddr = 0) : s.signal g = .ok (.ok s) := by
  simp [State.signal, h]
theorem State.signal_routed {s : State} {g : Group} {rt : Route} (h : g.sigaddr ≠ 0)
    (hr : s.route (64 * g.die) g.part g.sigaddr true false = .ok rt) :
    s.signal g = .ok (s.engineWrite g.part rt.attr.gen rt.va (leBytes 8 g.sigval.toNat)) := by
  simp [State.signal, h, hr, Except.map]
theorem State.signal_refused {s : State} {g : Group} {code : Nat} (h : g.sigaddr ≠ 0)
    (hr : s.route (64 * g.die) g.part g.sigaddr true false = .error code) : s.signal g = .error code := by
  simp [State.signal, h, hr, Except.map]

/-- What a group still holds back: at scope core its stores in combining buffers, at a wider scope what is not published. -/
def State.holdsBack (s : State) (g : Group) : Bool := if g.sc = 0 then s.undrained g.part else s.unpublished g.part

/-- GROUP_COMPLETE once nothing is held back and the signal is written. -/
theorem exec_groupComplete_signalled {s s' : State} {key : Nat} {g : Group} (hg : s.groups.find key = some g)
    (hr : g.retired = g.gx * g.gy * g.gz) (hb : s.holdsBack g = false) (hu : s.unawaited g.die key)
    (hs : s.signal g = .ok (.ok s')) : exec (.groupComplete key) s = .next (s'.endGroup key g none) := by
  change event s (evGroupComplete key s) = _
  unfold State.holdsBack at hb
  simp only [evGroupComplete, hg, hr, hb, hs, State.own_ok g.part s' hu]
  simp

/-- GROUP_COMPLETE where the signal's address is refused. -/
theorem exec_groupComplete_refused {s : State} {key code : Nat} {g : Group} (hg : s.groups.find key = some g)
    (hr : g.retired = g.gx * g.gy * g.gz) (hb : s.holdsBack g = false) (hs : s.signal g = .error code) :
    exec (.groupComplete key) s = .next (s.endGroup key g (some code)) := by
  change event s (evGroupComplete key s) = _
  unfold State.holdsBack at hb
  simp only [evGroupComplete, hg, hr, hb, hs]
  simp

/-- GROUP_COMPLETE while something is held back. -/
theorem exec_groupComplete_held {s : State} {key : Nat} {g : Group} (hg : s.groups.find key = some g)
    (hr : g.retired = g.gx * g.gy * g.gz) (hb : s.holdsBack g = true) :
    exec (.groupComplete key) s = .next (if g.sc = 0 then s.drainPart g.part else s.publishPart g.part) := by
  change event s (evGroupComplete key s) = _
  unfold State.holdsBack at hb
  simp only [evGroupComplete, hg, hr, hb, ne_eq, not_true_eq_false, if_false, if_true]
  exact event_unless_same _ _

theorem groupComplete_spec : ∀ (s : State) (key : Nat) (g : Group), s.groups.find key = some g → g.retired = g.gx * g.gy * g.gz →
    (if g.sc = 0 then s.undrained g.part = false else s.unpublished g.part = false) → s.unawaited g.die key →
    let ends (t : State) : Prop :=
      (∀ i code, g.worst = some (i, code) → exec (.groupComplete key) s = .next (t.resolve0 g.fut Status.faulted code)) ∧
      (g.worst = none → g.cut = true → exec (.groupComplete key) s = .next (t.resolve0 g.fut Status.cancelled 0)) ∧
      (g.worst = none → g.cut = false → exec (.groupComplete key) s = .next (t.resolve0 g.fut Status.done 0))
    (g.sigaddr = 0 → ends { s with groups := s.groups.del key }) ∧
    (∀ rt s', g.sigaddr ≠ 0 → s.route (64 * g.die) g.part g.sigaddr true false = .ok rt →
      s.engineWrite g.part rt.attr.gen rt.va (leBytes 8 g.sigval.toNat) = .ok s' → ends { s' with groups := s'.groups.del key }) ∧
    (∀ code, g.sigaddr ≠ 0 → s.route (64 * g.die) g.part g.sigaddr true false = .error code →
      exec (.groupComplete key) s =
        .next (({ s with groups := s.groups.del key } : State).resolve0 g.fut Status.faulted code)) := by
  intro s key g hg hr hif hu ends
  have hb : s.holdsBack g = false := by
    unfold State.holdsBack
    split at hif
    · next h => rw [if_pos h, hif]
    · next h => rw [if_neg h, hif]
  have signalled (s' : State) (hs : s.signal g = .ok (.ok s')) : ends { s' with groups := s'.groups.del key } := by
    have he := exec_groupComplete_signalled hg hr hb hu hs
    exact ⟨fun i code hw => by rw [he, State.endGroup_worst _ _ hw], fun hw hc => by rw [he, State.endGroup_cut _ _ hw hc],
      fun hw hc => by rw [he, State.endGroup_done _ _ hw hc]⟩
  refine ⟨fun h => signalled s (State.signal_absent s h), fun rt s' h hrt hw => signalled s' ?_, fun code h hrt => ?_⟩
  · rw [State.signal_routed h hrt, hw]
  · rw [exec_groupComplete_refused hg hr hb (State.signal_refused h hrt), State.endGroup_fail]

theorem groupComplete_held_spec : ∀ (s : State) (key : Nat) (g : Group), s.groups.find key = some g →
    g.retired = g.gx * g.gy * g.gz →
    (g.sc = 0 → s.undrained g.part = true → exec (.groupComplete key) s = .next (s.drainPart g.part)) ∧
    (g.sc ≠ 0 → s.unpublished g.part = true → exec (.groupComplete key) s = .next (s.publishPart g.part)) := by
  refine fun s key g hg hr => ⟨fun hsc h => ?_, fun hsc h => ?_⟩
  · rw [exec_groupComplete_held hg hr (by rw [State.holdsBack, if_pos hsc, h]), if_pos hsc]
  · rw [exec_groupComplete_held hg hr (by rw [State.holdsBack, if_neg hsc, h]), if_neg hsc]

/-! ## Placement (R56 to R59, R358 to R361) -/

/-- A window whose bytes are read is the team's, and its waves start; one whose reads are refused ends the team before it runs. -/
theorem State.prepare_read {s s' : State} {key : Nat} {tm : Team} {g : Group} {x : List Byte × List Byte × List Byte}
    (hu : s.unawaited (dieOfCore tm.core) key) (hr : s.windowReads tm.core g = .ok (.ok (x, s'))) :
    s.prepare key tm g = some (s'.startTeam key tm g x.1 x.2.1 x.2.2) := by
  simp only [State.prepare, hr, State.own_ok g.part (x, s') hu]
theorem State.prepare_refused {s : State} {key code : Nat} {tm : Team} {g : Group} (hr : s.windowReads tm.core g = .error code) :
    s.prepare key tm g = some (s.killUnprepared key code) := by
  simp only [State.prepare, hr]

/-- GANG_PLACEMENT prepares a team of the group that stands unprepared on the first core. -/
theorem exec_gangPlacement_prepare {s : State} {key k : Nat} {g : Group} {tm : Team} {cores : List Nat}
    (hg : s.groups.find key = some g) (hp : s.toPrepare key (cores.headD 0) = some (k, tm)) :
    exec (.gangPlacement (dieOfCore (cores.headD 0)) key cores) s = event s (s.prepare k tm g) := by
  change event s (evGangPlacement _ key cores s) = _
  simp only [evGangPlacement, hg, hp, beq_self_eq_true, if_true]

/-- Where none stands unprepared it places the next gang of the group whose turn it is, on cores that the gang fits. -/
theorem exec_gangPlacement_place {s : State} {key : Nat} {g : Group} {cores : List Nat} (hg : s.groups.find key = some g)
    (hn : s.toPrepare key (cores.headD 0) = none)
    (hnext : s.nextRecord (dieOfCore (cores.headD 0)) (key, g)
      (fun f => (s.findPlace (dieOfCore (cores.headD 0)) f).isSome) = true)
    (hon : s.gangOn g.foot cores = true) (hlive : (s.die (dieOfCore (cores.headD 0))).live = true)
    (hpart : s.partOf (dieOfCore (cores.headD 0)) = g.part) :
    exec (.gangPlacement (dieOfCore (cores.headD 0)) key cores) s = .next (s.placeGang key g cores none) := by
  change event s (evGangPlacement _ key cores s) = _
  simp only [evGangPlacement, hg, hn, hnext, hon, hlive, hpart, beq_self_eq_true, Bool.and_true, if_true, event_some]

theorem gangPlacement_spec : ∀ (s : State) (die key : Nat) (g : Group) (cores : List Nat), s.groups.find key = some g →
    dieOfCore (cores.headD 0) = die →
    (s.toPrepare key (cores.headD 0) = none → s.nextRecord die (key, g) (fun f => (s.findPlace die f).isSome) = true →
      s.gangOn g.foot cores = true → (s.die die).live = true → s.partOf die = g.part →
      exec (.gangPlacement die key cores) s = .next (s.placeGang key g cores none)) ∧
    (∀ k tm x s', s.toPrepare key (cores.headD 0) = some (k, tm) → s.unawaited (dieOfCore tm.core) k →
      s.windowReads tm.core g = .ok (.ok (x, s')) →
      exec (.gangPlacement die key cores) s = .next (s'.startTeam k tm g x.1 x.2.1 x.2.2)) ∧
    (∀ k tm code, s.toPrepare key (cores.headD 0) = some (k, tm) → s.windowReads tm.core g = .error code →
      exec (.gangPlacement die key cores) s =
        .next (s.mapTeam k (fun t => { t with dead := some code, retired := List.range t.foot.waves }))) := by
  rintro s _ key g cores hg rfl
  refine ⟨exec_gangPlacement_place hg, fun k tm x s' hp hu hr => ?_, fun k tm code hp hr => ?_⟩
  · rw [exec_gangPlacement_prepare hg hp, State.prepare_read hu hr, event_some]
  · rw [exec_gangPlacement_prepare hg hp, State.prepare_refused hr, event_some, State.killUnprepared]

theorem placeTeam_spec : ∀ (s : State) (gkey key tid core : Nat) (g : Group) (gang slots : List Nat),
    ∃ tm, (s.placeTeam gkey g key tid core gang slots).teams.find key = some tm ∧ tm.group = gkey ∧ tm.teamId = tid ∧
      tm.x = tid % g.gx ∧ tm.y = tid / g.gx % g.gy ∧ tm.z = tid / (g.gx * g.gy) ∧ tm.core = core ∧ tm.foot = g.foot ∧ tm.win = [] ∧
      tm.guards = [] ∧ tm.waves = slots.take g.foot.waves ∧ tm.retired = [] ∧ tm.priv = false ∧ tm.dead = none ∧
      (s.placeTeam gkey g key tid core gang slots).ctxs = s.ctxs := by
  intros
  exact ⟨_, AMap.find_put_same _ _ _, rfl, rfl, rfl, rfl, rfl, rfl, rfl, rfl, rfl, rfl, rfl, rfl, rfl, rfl⟩

/-- The tag map of a window: one byte's low three bits for each granule, and 0 beyond the bytes read. -/
def swzOf (tags : List Byte) : AMap Nat :=
  tags.zipIdx.foldl (fun m e => AMap.set 0 m e.2 (e.1.toNat % 8)) ([] : AMap Nat)

theorem get_swzOf (tags : List Byte) (j : Nat) :
    AMap.get 0 (swzOf tags) j = ((tags[j]?).map (fun b => b.toNat % 8)).getD 0 := by
  have keeps (m : AMap Nat) (e : Byte × Nat) (h : j ≠ e.2) : AMap.get 0 (AMap.set 0 m e.2 (e.1.toNat % 8)) j = AMap.get 0 m j :=
    AMap.get_set_ne 0 m e.2 j _ h
  unfold swzOf
  cases hj : tags[j]? with
  | none =>
    refine foldl_get_eq (fun m => AMap.get 0 m j) _ _ _ (fun m e he => keeps m e fun h => ?_)
    rw [List.mem_zipIdx_iff_getElem?, ← h, hj] at he
    cases he
  | some b =>
    refine foldl_get_set (fun m => AMap.get 0 m j) _ _ _ (b, j) _ (List.mem_zipIdx_iff_getElem?.mpr hj)
      (fun m => AMap.get_set_same 0 m j _) (fun m e he hne => keeps m e fun h => hne ?_)
    rw [List.mem_zipIdx_iff_getElem?, ← h, hj] at he
    exact Prod.ext (Option.some.inj he).symm h.symm

/-- A team once its window is prepared. -/
def Team.prepared (t : Team) (img guard tags : List Byte) : Team :=
  { t with win := putBytes [] 0 img, guards := onesBelow (ofLe guard) (t.foot.lsbytes / 64), swz := swzOf tags }

/-- The waves of a team at their start: the i-th of the slots gets the context of wave i. -/
def State.startWaves (s : State) (core key : Nat) (g : Group) (slots : List Nat) : State :=
  slots.zipIdx.foldl (fun s e => s.setCtx (.slot core e.1) (g.waveCtx key e.2)) s

theorem State.startWaves_teams (s : State) (core key : Nat) (g : Group) (slots : List Nat) :
    (s.startWaves core key g slots).teams = s.teams :=
  foldl_get_eq State.teams _ _ _ (fun s _ _ => State.setCtx_teams s _ _)

theorem State.ctx?_startWaves (s : State) (core key : Nat) (g : Group) {slots : List Nat} {i n : Nat} (hd : slots.Nodup)
    (hi : slots[i]? = some n) : (s.startWaves core key g slots).ctx? (.slot core n) = some (g.waveCtx key i) := by
  refine foldl_get_set (fun s => s.ctx? (.slot core n)) (fun s e => s.setCtx (.slot core e.1) (g.waveCtx key e.2)) _ _ (n, i) _ (List.mem_zipIdx_iff_getElem?.mpr hi)
    (fun s => State.ctx?_setCtx_same s (.slot core n) (g.waveCtx key i)) (fun s e he hne => State.ctx?_setCtx_ne s _ _ _ fun h => hne ?_)
  have hn : n = e.1 := ctxKey_slot_inj h
  rw [List.mem_zipIdx_iff_getElem?, ← hn] at he
  exact Prod.ext hn.symm ((List.getElem?_inj (List.getElem?_eq_some_iff.mp he).1 hd).mp (he.trans hi.symm))

/-- A team's start: its window, then its waves. -/
theorem State.startTeam_eq (s : State) (key : Nat) (t : Team) (g : Group) (img guard tags : List Byte) :
    s.startTeam key t g img guard tags =
      (s.mapTeam key (fun t => t.prepared img guard tags)).startWaves t.core key g t.waves := rfl

theorem startTeam_spec : ∀ (s : State) (key i n : Nat) (tm : Team) (g : Group) (img guard tags : List Byte),
    s.teams.find key = some tm → tm.core < 1536 → tm.waves.Nodup → (∀ n ∈ tm.waves, n < 20) → tm.waves[i]? = some n →
    let t := s.startTeam key tm g img guard tags
    t.ctx? (.slot tm.core n) = some (g.waveCtx key i) ∧
    ∃ u, t.teams.find key = some u ∧ u.win = putBytes [] 0 img ∧ u.guards = onesBelow (ofLe guard) (tm.foot.lsbytes / 64) ∧
      (∀ j, AMap.get 0 u.swz j = ((tags[j]?).map (fun b => b.toNat % 8)).getD 0) ∧
      { u with win := tm.win, guards := tm.guards, swz := tm.swz } = tm := by
  intro s key i n tm g img guard tags ht _ hd _ hi t
  rw [show t = _ from State.startTeam_eq s key tm g img guard tags]
  refine ⟨State.ctx?_startWaves _ _ _ _ hd hi, tm.prepared img guard tags, ?_, rfl, rfl, get_swzOf tags, rfl⟩
  rw [State.startWaves_teams]
  exact State.find_mapTeam _ ht

theorem recordBlocking_spec : ∀ (s : State) (die key : Nat) (g : Group), s.groups.find key = some g → g.queued = true →
    g.die = die → g.blocking = false → 2 ^ 18 ≤ s.clk die - g.since →
    ∃ t, exec (.recordBlocking die key) s = .next t ∧ t.groups.find key = some { g with blocking := true } ∧
      (∀ k, k ≠ key → t.groups.find k = s.groups.find k) ∧ t.mem = s.mem ∧ t.ctxs = s.ctxs ∧ t.teams = s.teams := by
  intro s die key g hg hq hd hb hw
  have he : exec (.recordBlocking die key) s = .next (s.mapGroup key (fun g => { g with blocking := true })) := by
    change event s (evRecordBlocking die key s) = _
    simp only [evRecordBlocking, hg, hq, hd, hb, hw]
    simp
  exact ⟨_, he, State.find_mapGroup _ hg, fun k hk => State.find_mapGroup_ne s key k _ hk, by simp, by simp, by simp⟩

/-! ## Claims (R373, R375) -/

theorem claimGrant_spec : ∀ (s : State) (key w n d : Nat) (ws : List Nat) (tm : Team) (a : Agent) (c : Ctx), s.teams.find key = some tm →
    tm.claims = w :: ws → s.waveOf key w = some (a, c) → c.park = .claim n d → c.stop = none → n - c.nreg ≤ s.freeRegs key →
    exec (.claimGrant key) s = .next ((s.mapTeam key (fun t => { t with claims := ws })).endClaim a d n (fun c =>
      { c.dropRegs c.nreg with nreg := n })) := by
  intro s key w n d ws tm a c ht hc hw hp hs hn
  change event s (evClaimGrant key s) = _
  simp only [evClaimGrant, ht, hc, hw, hp, hs, hn, Option.isNone_none, decide_true, Bool.and_true, if_true, event_some]

/-- One wave more in the search for the claim that fails: its need, its wave id, its key and its register, where the need is larger
than the best before it, or as large and the wave id higher (R375). -/
def worseClaim (b : Option (Nat × Nat × Nat × Nat)) (e : Nat × Ctx) : Option (Nat × Nat × Nat × Nat) :=
  match e.2.need with
  | none => b
  | some (n, d) =>
    match b with
    | none => some (n, e.2.widx, e.1, d)
    | some (m, w, k, d') => if m < n || (m = n && w < e.2.widx) then some (n, e.2.widx, e.1, d) else some (m, w, k, d')

/-- A claim of one of the waves that no other's exceeds: by its need, then by its wave id. -/
def WorstClaim (l : AMap Ctx) (e : Nat × Ctx) (m d : Nat) : Prop :=
  e ∈ l ∧ e.2.need = some (m, d) ∧
    ∀ x ∈ l, ∀ m' d', x.2.need = some (m', d') → m' < m ∨ (m' = m ∧ x.2.widx ≤ e.2.widx)

/-- A claim that exceeds the worst before it is the worst with it. -/
theorem WorstClaim.concat_exceeds {l : AMap Ctx} {e y : Nat × Ctx} {m d n dy : Nat} (h : WorstClaim l e m d)
    (hy : y.2.need = some (n, dy)) (hx : m < n ∨ (m = n ∧ e.2.widx < y.2.widx)) : WorstClaim (l ++ [y]) y n dy := by
  obtain ⟨-, -, hbest⟩ := h
  refine ⟨by simp, hy, fun x hx' m' d' hm => ?_⟩
  rcases List.mem_append.mp hx' with h | h
  · have := hbest x h m' d' hm; omega
  · rw [List.mem_singleton.mp h, hy] at hm
    cases hm
    exact .inr ⟨rfl, by rw [List.mem_singleton.mp h]⟩

/-- One that does not leaves it the worst. -/
theorem WorstClaim.concat_keeps {l : AMap Ctx} {e y : Nat × Ctx} {m d n dy : Nat} (h : WorstClaim l e m d)
    (hy : y.2.need = some (n, dy)) (hx : ¬ (m < n ∨ (m = n ∧ e.2.widx < y.2.widx))) : WorstClaim (l ++ [y]) e m d := by
  obtain ⟨hmem, hneed, hbest⟩ := h
  refine ⟨List.mem_append_left _ hmem, hneed, fun x hx' m' d' hm => ?_⟩
  rcases List.mem_append.mp hx' with h | h
  · exact hbest x h m' d' hm
  · rw [List.mem_singleton.mp h] at hm ⊢
    rw [hy] at hm
    cases hm
    omega

/-- The search finds the worst claim of waves that all claim. -/
theorem foldl_worseClaim (l : AMap Ctx) (hl : l ≠ []) (hn : ∀ e ∈ l, e.2.need ≠ none) :
    ∃ e m d, WorstClaim l e m d ∧ l.foldl worseClaim none = some (m, e.2.widx, e.1, d) := by
  induction l using List.reverseRecOn with
  | nil => exact absurd rfl hl
  | append_singleton l y ih =>
    obtain ⟨⟨n, dy⟩, hy⟩ := Option.ne_none_iff_exists'.mp (hn y (by simp))
    rw [List.foldl_append, List.foldl_cons, List.foldl_nil]
    by_cases hnil : l = []
    · subst hnil
      refine ⟨y, n, dy, ⟨by simp, hy, fun x hx m' d' hm => ?_⟩, by simp [worseClaim, hy]⟩
      rw [List.mem_singleton.mp hx] at hm ⊢
      rw [hy] at hm
      cases hm
      exact .inr ⟨rfl, le_rfl⟩
    · obtain ⟨e, m, d, he, hf⟩ := ih hnil (fun x hx => hn x (List.mem_append_left _ hx))
      by_cases hx : m < n ∨ (m = n ∧ e.2.widx < y.2.widx)
      · exact ⟨y, n, dy, he.concat_exceeds hy hx, by simp [hf, worseClaim, hy, hx]⟩
      · exact ⟨e, m, d, he.concat_keeps hy hx, by simp [hf, worseClaim, hy, hx]⟩

/-- The waves of a team that have not exited. -/
def State.liveWaves (s : State) (key : Nat) : AMap Ctx := (s.waveCtxs key).filter (fun e => e.2.exited ≠ BitVec.allOnes 64)

/-- CLAIM_FAIL fails the claim that the search finds, where nothing retires, every live wave claims and nothing is to grant. -/
theorem evClaimFail_eq (key : Nat) (s : State) : evClaimFail key s =
    if (s.liveWaves key).isEmpty || (s.waveCtxs key).any (fun e => e.2.exited = BitVec.allOnes 64) ||
      (s.liveWaves key).any (fun e => e.2.need.isNone) || (evClaimGrant key s).isSome then none
    else ((s.liveWaves key).foldl worseClaim none).map (fun (_, w, k, d) =>
      (s.mapTeam key (fun t => { t with claims := t.claims.filter (· ≠ w) })).endClaim (agentOfKey k) d 0 id) := rfl

theorem exec_claimFail {s : State} {key n w k d : Nat} (hl : s.liveWaves key ≠ [])
    (hr : (s.waveCtxs key).any (fun e => e.2.exited = BitVec.allOnes 64) = false)
    (hn : ∀ e ∈ s.liveWaves key, e.2.need ≠ none) (hg : evClaimGrant key s = none)
    (hw : (s.liveWaves key).foldl worseClaim none = some (n, w, k, d)) :
    exec (.claimFail key) s = .next ((s.mapTeam key (fun t =>
      { t with claims := t.claims.filter (· ≠ w) })).endClaim (agentOfKey k) d 0 id) := by
  have hneed : (s.liveWaves key).any (fun e => e.2.need.isNone) = false := by
    rw [List.any_eq_false]; intro e he; simpa using hn e he
  have hempty : (s.liveWaves key).isEmpty = false := by simpa using hl
  change event s (evClaimFail key s) = _
  rw [evClaimFail_eq, hempty, hr, hneed, hg, hw]
  rfl

theorem claimFail_spec : ∀ (s : State) (key : Nat), let live := (s.waveCtxs key).filter (fun e => e.2.exited ≠ BitVec.allOnes 64)
    live ≠ [] → (s.waveCtxs key).any (fun e => e.2.exited = BitVec.allOnes 64) = false →
    (∀ e ∈ live, e.2.need ≠ none) → evClaimGrant key s = none →
    ∃ e ∈ live, ∃ m d, e.2.need = some (m, d) ∧
      (∀ x ∈ live, ∀ m' d', x.2.need = some (m', d') → m' < m ∨ (m' = m ∧ x.2.widx ≤ e.2.widx)) ∧
      exec (.claimFail key) s = .next ((s.mapTeam key (fun t =>
        { t with claims := t.claims.filter (· ≠ e.2.widx) })).endClaim (agentOfKey e.1) d 0 id) := by
  intro s key live hl hr hn hg
  obtain ⟨e, m, d, ⟨hmem, hneed, hbest⟩, hf⟩ := foldl_worseClaim (s.liveWaves key) hl hn
  exact ⟨e, hmem, m, d, hneed, hbest, exec_claimFail hl hr hn hg hf⟩

/-! ## The switch on a blocked future (R369 to R371) -/

theorem waveSwitchOut_spec : ∀ (s s' : State) (core n group : Nat) (spares : List Nat) (c : Ctx) (tm : Team) (g q : Group),
    s.ctx? (.slot core n) = some c → s.teams.find c.team = some tm → s.groups.find tm.group = some g →
    s.groups.find group = some q → n < 20 → s.parkedOnFut c = true → c.out = none → c.stop = none →
    1024 ≤ s.clk (dieOfCore core) - c.parkedAt → c.ldc = 0 → c.xc = 0 → s.otherEc c = 0 → g.ctxa ≠ 0 →
    let fits (f : Foot) : Bool := f.gang == 1 && s.fitsCore core f 16 20 c.nreg && s.fitsQuad (core / 4) f 1
    let area := s.saveArea core n g.ctxa
    let gen := s.saveGenOf core area
    s.nextRecord (dieOfCore core) (group, q) fits = true → fits q.foot = true → spares.length = q.foot.waves →
    spares.all (fun n => (s.freeSlots core 16 20).contains n) = true → spares.Nodup → s.maySave core g.part area = true →
    s.unawaited (dieOfCore core) (2 ^ 64 + ctxKey (.slot core n)) → s.saveBlocks core gen area c = .ok s' →
    exec (.waveSwitchOut (.slot core n) group spares) s = .next ((({ s' with uid := s'.uid + 1 } : State).mapCtx (.slot core n)
      (fun c => { c with out := some s'.uid, saveGen := gen })).placeGang group q [core] (some spares)) := by
  intro s s' core n group spares c tm g q hc ht hg hq hn20 hpark hout hstop hclk hldc hxc hec hctxa fits area gen hnext hfits
    hlen hfree hnd hmay hu hsave
  have hstk : isStoker (.slot core n) = false := decide_eq_false (by omega)
  have hown : s.own (dieOfCore core) g.part (switchTag (.slot core n)) (s.saveBlocks core gen area c) = .got s' := by
    rw [hsave]; exact State.own_ok g.part s' hu
  simp only [fits, area, gen] at hnext hfits hmay hown
  change event s (evWaveSwitchOut (.slot core n) group spares s) = _
  simp only [evWaveSwitchOut, hc, ht, hg, hq, Option.bind_eq_bind, Option.bind_some, coreOf, dieOf, isHearth, hstk, hpark, hout, hstop,
    Option.isNone_none, hclk, hldc, hxc, hec, hctxa, hnext, hfits, hlen, hfree, hnd, hmay, ne_eq, not_false_eq_true, decide_true,
    beq_self_eq_true, Bool.not_false, Bool.and_true, if_true, guard, Option.pure_def, hown]
  rfl

/-- WAVE_SWITCH_RESUME of the first that was switched out among the ready ones, with the blocks that its save area gives. -/
theorem exec_waveSwitchResume {s s' : State} {core n k : Nat} {c : Ctx} {tm : Team} {g : Group} {bs : List (Nat × List Byte)}
    {stale : Bool} (hc : s.ctx? (.slot core n) = some c) (hout : c.out = some k) (ht : s.teams.find c.team = some tm)
    (hg : s.groups.find tm.group = some g) (hcore : core < 1536) (hres : s.resumable core c = true)
    (hfirst : s.ctxs.all (fun e =>
      !(e.1 / 24 = core && e.1 < 36864 && s.resumable core e.2 && (e.2.out.getD 0) < k)) = true)
    (hu : s.unawaited (dieOfCore core) (2 ^ 64 + ctxKey (.slot core n)))
    (hload : s.loadBlocks core c.saveGen (s.saveArea core n g.ctxa) c = .ok (bs, stale, s')) :
    exec (.waveSwitchResume (.slot core n)) s = .next (if stale || s.deadArena core (s.saveArea core n g.ctxa) then
      s'.killSwitched (.slot core n) c.team Code.arenaDead
    else s'.mapCtx (.slot core n) (fun c =>
      { c.reload s.tick (fun b => (AMap.find (bs : AMap (List Byte)) b).getD []) with out := none })) := by
  have hown : s.own (dieOfCore core) g.part (switchTag (.slot core n))
      (s.loadBlocks core c.saveGen (s.saveArea core n g.ctxa) c) = .got (bs, stale, s') := by
    rw [hload]; exact State.own_ok g.part _ hu
  change event s (evWaveSwitchResume (.slot core n) s) = _
  simp only [evWaveSwitchResume, hc, hout, ht, hg, Option.bind_eq_bind, Option.bind_some]
  rw [if_pos (by rw [Bool.and_eq_true, Bool.and_eq_true]; exact ⟨⟨decide_eq_true hcore, hres⟩, hfirst⟩)]
  simp only [coreOf, dieOf, hown]
  exact congrArg (event s) (apply_ite some _ _ _).symm

theorem waveSwitchResume_spec : ∀ (s s' : State) (core n k : Nat) (c : Ctx) (tm : Team) (g : Group) (bs : List (Nat × List Byte)) (stale : Bool),
    s.ctx? (.slot core n) = some c → c.out = some k → s.teams.find c.team = some tm → s.groups.find tm.group = some g →
    core < 1536 → s.resumable core c = true →
    s.ctxs.all (fun e => !(e.1 / 24 = core && e.1 < 36864 && s.resumable core e.2 && (e.2.out.getD 0) < k)) = true →
    let area := s.saveArea core n g.ctxa
    s.unawaited (dieOfCore core) (2 ^ 64 + ctxKey (.slot core n)) → s.loadBlocks core c.saveGen area c = .ok (bs, stale, s') →
    (stale = false → s.deadArena core area = false → exec (.waveSwitchResume (.slot core n)) s = .next (s'.mapCtx (.slot core n)
      (fun c => { c.reload s.tick (fun b => (AMap.find (bs : AMap (List Byte)) b).getD []) with out := none }))) ∧
    (stale = true ∨ s.deadArena core area = true →
      exec (.waveSwitchResume (.slot core n)) s = .next (((s'.mapCtx (.slot core n) (fun c =>
        { c with out := none, park := .none, lastCode := Code.arenaDead })).endThreads (.slot core n)
          (BitVec.allOnes 64)).mapTeam c.team (fun t => { t with dead := some Code.arenaDead }))) := by
  intro s s' core n k c tm g bs stale hc hout ht hg hcore hres hfirst area hu hload
  have he := exec_waveSwitchResume hc hout ht hg hcore hres hfirst hu hload
  refine ⟨fun hs hd => ?_, fun hlost => ?_⟩
  · rw [he, hs, hd]; rfl
  · have hlost : (stale || s.deadArena core area) = true := by simpa using hlost
    rw [he, if_pos hlost]; rfl

/-- The fill of one register's lanes, and of one block's registers, in a reload. -/
def Ctx.fillReg (c : Ctx) (r : Nat) (f : Nat → W32) : Ctx := (List.range 64).foldl (fun c lane => c.vset r lane (f lane)) c
def Ctx.fillBlock (c : Ctx) (b : Nat) (f : Nat → Nat → W32) : Ctx :=
  (List.range 8).foldl (fun c j => c.fillReg (8 * b + j) (f j)) c

theorem Ctx.vget_fillReg (c : Ctx) (r : Nat) (f : Nat → W32) (n : Nat) {lane : Nat} (hl : lane < 64) :
    (c.fillReg r f).vget n lane = if n = r then f lane else c.vget n lane := by
  unfold Ctx.fillReg
  have hi {i : Nat} (h : i ∈ List.range 64) : i < 64 := List.mem_range.mp h
  split
  · next h =>
    subst h
    refine foldl_get_set (fun c : Ctx => c.vget n lane) _ _ _ lane _ (List.mem_range.mpr hl) (fun c => ?_) (fun c i hm hne => ?_)
    · rw [Ctx.vget_vset _ _ _ _ _ _ hl hl, if_pos ⟨rfl, rfl⟩]
    · rw [Ctx.vget_vset _ _ _ _ _ _ (hi hm) hl, if_neg (fun h => hne h.2.symm)]
  · next h =>
    refine foldl_get_eq (fun c : Ctx => c.vget n lane) _ _ _ (fun c i hm => ?_)
    rw [Ctx.vget_vset _ _ _ _ _ _ (hi hm) hl, if_neg (fun h' => h h'.1)]

theorem Ctx.vget_fillBlock (c : Ctx) (b : Nat) (f : Nat → Nat → W32) (n : Nat) {lane : Nat} (hl : lane < 64) :
    (c.fillBlock b f).vget n lane = if n / 8 = b then f (n % 8) lane else c.vget n lane := by
  unfold Ctx.fillBlock
  split
  · next h =>
    refine foldl_get_set (fun c : Ctx => c.vget n lane) _ _ _ (n % 8) _ (List.mem_range.mpr (Nat.mod_lt _ (by omega))) (fun c => ?_)
      (fun c j _ hne => ?_)
    · rw [Ctx.vget_fillReg _ _ _ _ hl, if_pos (by omega)]
    · rw [Ctx.vget_fillReg _ _ _ _ hl, if_neg (by omega)]
  · next h =>
    refine foldl_get_eq (fun c : Ctx => c.vget n lane) _ _ _ (fun c j hm => ?_)
    rw [Ctx.vget_fillReg _ _ _ _ hl, if_neg (by have := List.mem_range.mp hm; omega)]

/-- What a reload puts into a block: the saved words of a live one, and of another what it held or zero. -/
def Ctx.blockWords (c : Ctx) (tick : Nat) (area : Nat → List Byte) (b j lane : Nat) : W32 :=
  if c.live.getLsbD b then BitVec.ofNat 32 (field (area b) (256 * j + 4 * lane) 4)
  else if Config.keepDead tick b then c.vget (8 * b + j) lane else 0

theorem Ctx.reload_eq (c : Ctx) (tick : Nat) (area : Nat → List Byte) :
    c.reload tick area =
      (List.range (c.nreg / 8)).foldl (fun c' b => c'.fillBlock b (c.blockWords tick area b)) { c with v := [] } := by
  unfold Ctx.reload
  refine List.foldl_ext _ _ _ (fun c' b _ => ?_)
  have hw : c.blockWords tick area b = if c.live.getLsbD b then
      (fun j lane => BitVec.ofNat 32 (field (area b) (256 * j + 4 * lane) 4))
      else fun j lane => if Config.keepDead tick b then c.vget (8 * b + j) lane else 0 := by
    funext j lane; unfold Ctx.blockWords; split <;> rfl
  rw [hw]; rfl

theorem reload_spec : ∀ (c : Ctx) (tick : Nat) (area : Nat → List Byte) (n lane : Nat), n / 8 < c.nreg / 8 → lane < 64 →
    c.live.getLsbD (n / 8) = true →
    (c.reload tick area).vget n lane = BitVec.ofNat 32 (field (area (n / 8)) (256 * (n % 8) + 4 * lane) 4) := by
  intro c tick area n lane hn hl hlive
  rw [Ctx.reload_eq]
  refine foldl_get_set (fun c : Ctx => c.vget n lane) _ _ _ (n / 8) _ (List.mem_range.mpr hn) (fun c' => ?_) (fun c' b _ hne => ?_)
  · rw [Ctx.vget_fillBlock _ _ _ _ hl, if_pos rfl, Ctx.blockWords, if_pos hlive]
  · rw [Ctx.vget_fillBlock _ _ _ _ hl, if_neg (Ne.symm hne)]

/-- Settles O49: one statement about each step of the scheduler, and the words that a reload gives a live block. -/
theorem scheduling : Obligations.Scheduling :=
  ⟨waveRetire_spec, teamRelease_spec, groupComplete_spec, groupComplete_held_spec, gangPlacement_spec, placeTeam_spec,
    startTeam_spec, recordBlocking_spec, claimGrant_spec, claimFail_spec, waveSwitchOut_spec, waveSwitchResume_spec, reload_spec⟩
end Sys2Proof.Machine

/-! SUPPORT. The branches of the b class (R26, R32, R337, R338): what follows every issue, the link, and the one form that
b.jmp, b.br, b.brk, b.call and b.ret share. -/

namespace Sys2Proof.Machine

/-! ## What follows every issue -/

/-- The issuing context after what follows every issue. -/
def Ctx.issued (c : Ctx) (is : Iss) : Ctx :=
  Ctx.stepDone { c with
    pk := is.h.pk, skipBkpt := c.skipBkpt.filter (· ≠ is.fid), waits := c.countWaits is.fid, passed := 0 } is.fid

theorem State.ctx?_afterIssue {t : State} {is : Iss} {c : Ctx} (h : t.ctx? is.a = some c) :
    (t.afterIssue is).ctx? is.a = some (c.issued is) := State.ctx?_mapCtx_some _ h

theorem State.ctx?_afterIssue_ne (t : State) (is : Iss) (b : Agent) (h : ctxKey b ≠ ctxKey is.a) :
    (t.afterIssue is).ctx? b = t.ctx? b := State.ctx?_mapCtx_ne _ _ _ _ h

@[simp] theorem State.afterIssue_rest (t : State) (is : Iss) : (t.afterIssue is).rest = t.rest := State.mapCtx_rest _ _ _

@[simp] theorem Ctx.issued_sget (c : Ctx) (is : Iss) (n : Nat) : (c.issued is).sget n = c.sget n :=
  Ctx.sget_congr (by simp [Ctx.issued]) n
@[simp] theorem Ctx.issued_kget (c : Ctx) (is : Iss) (n : Nat) : (c.issued is).kget n = c.kget n :=
  Ctx.kget_congr (by simp [Ctx.issued]) n
@[simp] theorem Ctx.issued_vget (c : Ctx) (is : Iss) (n l : Nat) : (c.issued is).vget n l = c.vget n l :=
  Ctx.vget_congr (by simp [Ctx.issued]) n l
@[simp] theorem Ctx.issued_flag (c : Ctx) (is : Iss) (l : Nat) : (c.issued is).flag l = c.flag l :=
  Ctx.flag_congr (by simp [Ctx.issued]) l
@[simp] theorem Ctx.issued_rec (c : Ctx) (is : Iss) (j : Nat) : (c.issued is).rec? j = c.rec? j :=
  Ctx.rec?_congr (by simp [Ctx.issued]) j
@[simp] theorem Ctx.issued_rest (c : Ctx) (is : Iss) : (c.issued is).rest = c.rest := Ctx.stepDone_rest _ _

/-! ## Conditions -/

theorem Lanes.list_eq_nil (m : Lanes) : m.list = [] ↔ m = 0 := by
  simp only [Lanes.list, onesBelow, List.filter_eq_nil_iff, List.mem_range]
  constructor
  · intro h
    refine BitVec.eq_of_getLsbD_eq (fun i hi => ?_)
    simpa [BitVec.getLsbD] using h i hi
  · rintro rfl i -
    simp

/-- The condition of b.br as R338 states it, on sA as a signed number. -/
theorem condBr_eq (sub : BitVec 2) (v : W64) :
    condBr sub v = if sub.toNat = 0 then decide (v.toInt ≠ 0) else if sub.toNat = 1 then decide (v.toInt = 0)
      else if sub.toNat = 2 then decide (v.toInt < 0) else decide (0 ≤ v.toInt) := by
  have hz : v.toInt = 0 ↔ v = 0 := BitVec.toInt_inj (y := 0)
  unfold condBr
  split
  · next h => simp [h, hz, bne, BEq.beq]
  · next h => simp [h, hz, BEq.beq]
  · next h => simp [h, BitVec.msb_eq_toInt]
  · next h0 h1 h2 =>
    rw [if_neg h0, if_neg h1, if_neg h2, BitVec.msb_eq_toInt, ← decide_not]
    simp only [not_lt]

/-- The condition of b.brk as R338 states it, on the threads of P whose kA bit is set or clear. -/
theorem condBrk_eq (sub : BitVec 2) (p k : Lanes) :
    condBrk sub p k = if sub.toNat = 0 then decide ((p &&& k).list ≠ []) else if sub.toNat = 1 then decide ((p &&& ~~~k).list = [])
      else decide ((p &&& k).list = []) := by
  simp only [ne_eq, Lanes.list_eq_nil]
  unfold condBrk
  split
  · next h => simp [h, bne, BEq.beq]
  · next h => simp [h, BEq.beq]
  · next h0 h1 => simp [if_neg h0, if_neg h1, BEq.beq]

/-! ## The link -/

/-- The link of a branch that has one: its PC + 12. -/
def State.writeLink (s : State) (is : Iss) : Option RegNo → State
  | some d => s.wrS is d (is.pc + 12)
  | none => s

/-- Everything that writing the link does. -/
theorem State.writeLink_spec {s : State} {is : Iss} {c : Ctx} (link : Option RegNo) (h : s.ctx? is.a = some c) :
    ∃ c', (s.writeLink is link).ctx? is.a = some c' ∧ (∀ j, c'.rec? j = c.rec? j) ∧
      (∀ n, c'.sget n = if link.map (·.toNat) = some n ∧ n ≠ 63 then is.pc + 12 else c.sget n) ∧
      SameK c c' [] ∧ SameV c c' ∧ SameF c c' ∧ c'.rest = c.rest ∧ (s.writeLink is link).rest = s.rest ∧
      ∀ b, ctxKey b ≠ ctxKey is.a → (s.writeLink is link).ctx? b = s.ctx? b := by
  cases link with
  | none =>
    exact ⟨c, h, fun _ => rfl, fun _ => (if_neg (by simp)).symm, fun _ _ => rfl, fun _ _ => rfl, fun _ => rfl, rfl, rfl,
      fun _ _ => rfl⟩
  | some d =>
    obtain ⟨⟨g, hc⟩, hrest, hother, -⟩ := State.wrS_spec d (is.pc + 12) h
    refine ⟨_, hc, fun j => Ctx.rec?_congr (by simp) j, fun n => ?_, fun n _ => Ctx.kget_congr (by simp) n,
      fun n l => Ctx.vget_congr (by simp) n l, fun l => Ctx.flag_congr (by simp) l, Ctx.sset_rest _ _ _, hrest, hother⟩
    rw [Ctx.sget_sset]
    refine if_congr ?_ rfl rfl
    simp only [Option.map_some, Option.some.injEq]
    constructor <;> (rintro ⟨rfl, h⟩; exact ⟨rfl, h⟩)

/-! ## The form of a branch -/

/-- What a branch does when a thread passes: nothing but moving on where it is not taken, else the jump and then the link. -/
def State.branch (s : State) (is : Iss) (link : Option RegNo) : Option W64 → Res State
  | none => pure (s.advance is)
  | some x => do
    let s' ← s.branchTo is x
    pure (s'.writeLink is link)

/-- A jump that writes no link. -/
theorem State.branch_unlinked (s : State) (is : Iss) (x : W64) : s.branch is none (some x) = s.branchTo is x :=
  bind_pure (s.branchTo is x)

theorem State.branch_aligned (s : State) (is : Iss) (link : Option RegNo) {x : W64} (h : x.toNat % 4 = 0) :
    s.branch is link (some x) = .ok ((s.mapCtx is.a (fun c => c.setPc is.fid x)).writeLink is link) := by
  have hb : bits x.toNat 0 2 = 0 := h
  simp only [State.branch, State.branchTo, require, hb, decide_true, if_true]
  rfl

theorem State.branch_misaligned (s : State) (is : Iss) (link : Option RegNo) {x : W64} (h : x.toNat % 4 ≠ 0) :
    s.branch is link (some x) = .error (is.fault Code.align (x.toNat % 2 ^ 56) is.fr.mask) := by
  have hb : ¬ bits x.toNat 0 2 = 0 := h
  simp only [State.branch, State.branchTo, require, hb, decide_false]
  rfl

/-- The target that execution computes is the one that R337 states. -/
theorem Iss.target_eq (is : Iss) (p : Prop) [Decidable p] (a : RegNo) (imm : BitVec 32) :
    is.target (decide p) a imm = (if p then is.s a else is.pc) + imm.signExtend 64 := by
  simp only [Iss.target, sx64, decide_eq_true_eq]

/-- A conditional jump takes the branch where its condition holds. -/
theorem State.branch_ite (s : State) (is : Iss) (b : Bool) (x : W64) :
    s.branch is none (if b then some x else none) = if b then s.branchTo is x else pure (s.advance is) := by
  cases b
  · rfl
  · exact State.branch_unlinked s is x

/-- Each branch is the issue of one and the same body at the destination that R338 gives it. -/
theorem exec_branch {i : Instr} {h : Hdr} {len : Nat} {rd : List Use} {link : Option RegNo} (s : State)
    (hf : branchForm i = some (h, len, rd, link)) :
    exec i s = issueRaw .all h len (branchUses rd link) s (fun is s => s.branch is link (branchDest is i)) := by
  unfold branchForm at hf
  split at hf
  · next h sub a imm =>
    cases hf
    show execBJmp h sub a imm s = _
    simp only [execBJmp, branchDest, State.branch_unlinked, Iss.target_eq]; rfl
  · next h sub a imm =>
    cases hf
    show execBBr h sub a imm s = _
    simp only [execBBr, branchDest, ← condBr_eq, State.branch_ite]; rfl
  · next h sub a imm =>
    cases hf
    show execBBrk h sub a imm s = _
    simp only [execBBrk, branchDest, ← condBrk_eq, State.branch_ite]; rfl
  · next h sub d a imm =>
    cases hf
    show execBCall h sub d a imm s = _
    simp only [execBCall, branchDest, Iss.target_eq]; rfl
  · next h a =>
    cases hf
    show execBRet h a s = _
    simp only [execBRet, branchDest, State.branch_unlinked]; rfl
  · cases hf

/-! ## The outcomes of a branch -/

section
variable {i : Instr} {s : State} {is : Iss} {h : Hdr} {len : Nat} {rd : List Use} {link : Option RegNo} {x : W64}

theorem exec_branch_taken (hf : branchForm i = some (h, len, rd, link)) (hr : s.ready .all h len (branchUses rd link) = some is)
    (hd : branchDest is i = some x) (hx : x.toNat % 4 = 0) :
    exec i s = .next (((s.mapCtx is.a (fun c => c.setPc is.fid x)).writeLink is link).afterIssue is) := by
  rw [exec_branch s hf]
  exact issueRaw_ready hr (by rw [hd, State.branch_aligned s is link hx])

theorem exec_branch_notTaken (hf : branchForm i = some (h, len, rd, link))
    (hr : s.ready .all h len (branchUses rd link) = some is) (hd : branchDest is i = none) :
    exec i s = .next (s.retire is) := by
  rw [exec_branch s hf]
  exact issueRaw_ready hr (by rw [hd]; rfl)

theorem exec_branch_noThread (hf : branchForm i = some (h, len, rd, link)) (hv : s.iss? h len = some is)
    (hc : is.check .all (branchUses rd link) = .ok ()) (hp : is.p = 0) : exec i s = .next (s.retire is) := by
  rw [exec_branch s hf]
  exact issueRaw_empty hv hc hp rfl

theorem exec_branch_misaligned (hf : branchForm i = some (h, len, rd, link))
    (hr : s.ready .all h len (branchUses rd link) = some is) (hd : branchDest is i = some x) (hx : x.toNat % 4 ≠ 0) :
    exec i s = .next (s.except is (is.fault Code.align (x.toNat % 2 ^ 56) is.fr.mask)) := by
  rw [exec_branch s hf]
  exact issueRaw_error hr (by rw [hd, State.branch_misaligned s is link hx])

/-- The state after a jump, its link and what follows every issue: the fragment stands at the target, and all else as it did. -/
theorem State.jumped_spec (link : Option RegNo) (x : W64) (hc : s.ctx? is.a = some is.c) (hr : is.c.rec? is.fid = some is.fr) :
    let t := ((s.mapCtx is.a (fun c => c.setPc is.fid x)).writeLink is link).afterIssue is
    ∃ c, t.ctx? is.a = some c ∧ c.rec? is.fid = some { is.fr with pc := x &&& 0x00FFFFFFFFFFFFFF } ∧
      (∀ j, j ≠ is.fid → c.rec? j = is.c.rec? j) ∧ (∀ b, ctxKey b ≠ ctxKey is.a → t.ctx? b = s.ctx? b) ∧
      (∀ n, c.sget n = if link.map (·.toNat) = some n ∧ n ≠ 63 then is.pc + 12 else is.c.sget n) ∧
      SameK is.c c [] ∧ SameV is.c c ∧ SameF is.c c ∧ c.rest = is.c.rest ∧ t.rest = s.rest := by
  intro t
  have hj : (s.mapCtx is.a (fun c => c.setPc is.fid x)).ctx? is.a = some (is.c.setPc is.fid x) := State.ctx?_mapCtx_some _ hc
  obtain ⟨c, hl, hrec, hs, hk, hv, hfl, hrest, hsrest, hother⟩ := State.writeLink_spec link hj
  refine ⟨c.issued is, State.ctx?_afterIssue hl, ?_, fun j hne => ?_, fun b hb => ?_, fun n => ?_, fun n hn => ?_, fun n l => ?_,
    fun l => ?_, ?_, ?_⟩
  · rw [Ctx.issued_rec, hrec, Ctx.rec?_setPc x hr]
  · rw [Ctx.issued_rec, hrec, Ctx.rec?_setPc_ne _ _ _ _ hne]
  · rw [State.ctx?_afterIssue_ne _ _ _ hb, hother b hb, State.ctx?_mapCtx_ne _ _ _ _ hb]
  · rw [Ctx.issued_sget, hs, Ctx.sget_congr (Ctx.setPc_s ..)]
  · rw [Ctx.issued_kget, hk n hn, Ctx.kget_congr (Ctx.setPc_k ..)]
  · rw [Ctx.issued_vget, hv, Ctx.vget_congr (Ctx.setPc_v ..)]
  · rw [Ctx.issued_flag, hfl, Ctx.flag_congr (Ctx.setPc_flags ..)]
  · rw [Ctx.issued_rest, hrest, Ctx.setPc_rest]
  · rw [State.afterIssue_rest, hsrest, State.mapCtx_rest]

end

/-- Settles O5: every branch issues the same body at its destination, and each clause is one of that body's outcomes. -/
theorem branches : Obligations.Branches := by
  refine ⟨⟨fun i s is h len rd link x hf hr hd hx => ?_, fun _ _ _ _ _ _ _ => exec_branch_notTaken,
    fun _ _ _ _ _ _ _ => exec_branch_noThread⟩, fun _ _ _ _ _ _ _ _ => exec_branch_misaligned⟩
  obtain ⟨hview, -, -⟩ := State.ready_view hr
  obtain ⟨-, hc, -, hrec, -⟩ := State.iss?_view hview
  obtain ⟨c, hjump⟩ := State.jumped_spec link x hc hrec
  exact ⟨_, c, exec_branch_taken hf hr hd hx, hjump⟩

end Sys2Proof.Machine

/-! SUPPORT. The change tree's steps (R123, R126, R127, R129, R131 to R133): what a node reads after each change of the table, the
agent's answer to each request, and then the roll-up's and an enrollment's steps. -/

namespace Sys2Proof.Machine

/-! ## Partitions -/

@[simp] theorem State.part_mapPart (s : State) (k : Nat) (f : Part → Part) : (s.mapPart k f).part k = f (s.part k) := by
  simp [State.mapPart, State.part]

/-- Two changes that agree on the partition as it stands change it alike. -/
theorem State.mapPart_congr {s : State} {k : Nat} {f g : Part → Part} (h : f (s.part k) = g (s.part k)) :
    s.mapPart k f = s.mapPart k g := by
  simp [State.mapPart, h]

/-! ## The node table (R123) -/

theorem Part.node?_congr {p q : Part} {i : Nat} (h : q.nodes.find i = p.nodes.find i) : q.node? i = p.node? i := by
  unfold Part.node?
  rw [h]

theorem Part.node?_put (p : Part) (i j : Nat) (n : Node) :
    ({ p with nodes := p.nodes.put i n } : Part).node? j = if j = i then some n else p.node? j := by
  split
  · next h => simp [Part.node?, h]
  · next h => exact Part.node?_congr (AMap.find_put_ne _ _ _ _ h)

/-! ## Raised counts (R123, R126) -/

/-- One node more: what is raised is the count that it had before any of the others was. -/
theorem Part.addCounts_concat {p : Part} {i : Nat} {m : Node} (ids : List Nat) (n : Nat) (hm : p.node? i = some m) :
    let q := p.addCounts ids n
    p.addCounts (ids ++ [i]) n = { q with nodes := q.nodes.put i { m with count := m.count + BitVec.ofNat 48 n } } := by
  simp [Part.addCounts, hm]

/-- Every named node's count is raised once, however often it is named. -/
theorem Part.node?_addCounts {p : Part} {ids : List Nat} (n j : Nat) (h : ∀ i ∈ ids, p.hasNode i = true) :
    (p.addCounts ids n).node? j = (p.node? j).map (fun x =>
      if j ∈ ids then { x with count := x.count + BitVec.ofNat 48 n } else x) := by
  induction ids using List.reverseRecOn with
  | nil => simp [Part.addCounts]
  | append_singleton ids i ih =>
    obtain ⟨m, hm⟩ := Option.isSome_iff_exists.mp (h i (by simp))
    rw [Part.addCounts_concat ids n hm, Part.node?_put, ih (fun k hk => h k (List.mem_append_left _ hk))]
    by_cases hj : j = i
    · simp [hj, hm]
    · simp [hj]

/-! ## A new node (R131) -/

theorem treeStatus_ok (id : Nat) : treeStatus 0 id = id % 2 ^ 16 := by
  simp [treeStatus]

theorem Part.not_badParent {p : Part} {parent : Nat} (h : parent ≠ 65535 ∧ p.hasNode parent = true) :
    ¬ (parent = 65535 || !p.hasNode parent) = true := by
  simp [h.1, h.2]

section
variable {p : Part} {parent id : Nat}

theorem Part.treeNew_badParent (h : parent = 65535 ∨ p.hasNode parent = false ∨ 16 ≤ p.nodeDepth parent) :
    p.treeNew parent id = (treeStatus 3 id, p) := by
  rcases h with h | h | h <;> simp [Part.treeNew, h]

variable (hu : parent ≠ 65535 ∧ p.hasNode parent = true ∧ p.nodeDepth parent < 16)
include hu

theorem Part.treeNew_taken (h : id = 65535 ∨ id ≠ 0 ∧ p.hasNode id = true) : p.treeNew parent id = (treeStatus 1 id, p) := by
  obtain ⟨hne, hhas, hdepth⟩ := hu
  rw [Part.treeNew, if_neg (Part.not_badParent ⟨hne, hhas⟩), if_neg (Nat.not_le.mpr hdepth), if_pos (by simpa using h)]

/-- An id that may be given is looked for: the one that is asked for, or the lowest free one. -/
theorem Part.treeNew_under (h : id ≠ 65535) (hfree : id ≠ 0 → p.hasNode id = false) {got : Option Nat}
    (hgot : (if id ≠ 0 then some id else ((List.range 65534).find? (fun i => !p.hasNode (i + 1))).map (· + 1)) = got) :
    p.treeNew parent id = got.elim (treeStatus 2 id, p) (fun i =>
      (treeStatus 0 i, { p with nodes := p.nodes.put i { count := 0, parent := parent } })) := by
  obtain ⟨hne, hhas, hdepth⟩ := hu
  rw [Part.treeNew, if_neg (Part.not_badParent ⟨hne, hhas⟩), if_neg (Nat.not_le.mpr hdepth), if_neg (by simpa [h] using hfree)]
  dsimp only
  rw [hgot]
  cases got <;> rfl

theorem Part.treeNew_named (h : 1 ≤ id ∧ id < 65535) (hfree : p.hasNode id = false) :
    p.treeNew parent id = (treeStatus 0 id, { p with nodes := p.nodes.put id { count := 0, parent := parent } }) :=
  Part.treeNew_under hu (Nat.ne_of_lt h.2) (fun _ => hfree) (if_pos (Nat.ne_of_gt h.1))

theorem Part.treeNew_lowest {i : Nat} (h : 1 ≤ i ∧ i < 65535) (hfree : p.hasNode i = false)
    (hlow : ∀ j, 1 ≤ j ∧ j < 65535 → j < i → p.hasNode j = true) :
    p.treeNew parent 0 = (treeStatus 0 i, { p with nodes := p.nodes.put i { count := 0, parent := parent } }) := by
  obtain ⟨k, rfl⟩ : ∃ k, i = k + 1 := ⟨i - 1, by omega⟩
  have hfind : (List.range 65534).find? (fun i => !p.hasNode (i + 1)) = some k := by
    rw [List.find?_range_eq_some]
    exact ⟨by simp [hfree], List.mem_range.mpr (by omega), fun j hj => by simp [hlow (j + 1) (by omega) (by omega)]⟩
  exact Part.treeNew_under hu (by decide) (absurd rfl) (by rw [if_neg (not_not.mpr rfl), hfind])

theorem Part.treeNew_full (h : ∀ i, 1 ≤ i ∧ i < 65535 → p.hasNode i = true) : p.treeNew parent 0 = (treeStatus 2 0, p) := by
  have hfind : (List.range 65534).find? (fun i => !p.hasNode (i + 1)) = none := by
    rw [List.find?_range_eq_none]
    exact fun i hi => by simp [h (i + 1) (by omega)]
  exact Part.treeNew_under hu (by decide) (absurd rfl) (by rw [if_neg (not_not.mpr rfl), hfind])

end

/-! ## Another parent (R129, R131) -/

/-- The table once a node has moved: both chains raised by one, and the node under its new parent. -/
def Part.moved (p : Part) (id parent : Nat) (n : Node) : Part :=
  let p' := p.addCounts (p.nodeChain n.parent ++ p.nodeChain parent).eraseDups 1
  { p' with nodes := p'.nodes.put id { (p'.node? id).getD { count := 0, parent := 0 } with parent := parent } }

theorem Part.not_badNode {p : Part} {id : Nat} (h : (1 ≤ id ∧ id < 65535) ∧ p.hasNode id = true) :
    ¬ (id = 0 || id = 65535 || !p.hasNode id) = true := by
  obtain ⟨hid, hhas⟩ := h
  simp [hhas, show id ≠ 0 by omega, show id ≠ 65535 by omega]

section
variable {p : Part} {id parent : Nat}

theorem Part.treePar_badNode (h : id = 0 ∨ id = 65535 ∨ p.hasNode id = false) :
    p.treePar id parent = (treeStatus 5 id, p) :=
  if_pos (by simpa [or_assoc] using h)

section
variable (hn : (1 ≤ id ∧ id < 65535) ∧ p.hasNode id = true)
include hn

theorem Part.treePar_badParent (h : parent = 65535 ∨ p.hasNode parent = false) :
    p.treePar id parent = (treeStatus 3 id, p) := by
  rw [Part.treePar, if_neg (Part.not_badNode hn), if_pos (by simpa using h)]

variable (hp : parent ≠ 65535 ∧ p.hasNode parent = true)
include hp

theorem Part.treePar_cycle (h : id ∈ p.nodeChain parent) : p.treePar id parent = (treeStatus 4 id, p) := by
  rw [Part.treePar, if_neg (Part.not_badNode hn), if_neg (Part.not_badParent hp), if_pos (List.contains_iff_mem.mpr h)]

variable (h : id ∉ p.nodeChain parent)
include h

theorem Part.treePar_tooDeep (hd : 16 < p.nodeDepth parent + 1 + p.height id) :
    p.treePar id parent = (treeStatus 3 id, p) := by
  rw [Part.treePar, if_neg (Part.not_badNode hn), if_neg (Part.not_badParent hp), if_neg (by simpa using h), if_pos hd]

theorem Part.treePar_moved {n : Node} (hnode : p.node? id = some n) (hd : p.nodeDepth parent + 1 + p.height id ≤ 16) :
    p.treePar id parent = (treeStatus 0 id, p.moved id parent n) := by
  rw [Part.treePar, if_neg (Part.not_badNode hn), if_neg (Part.not_badParent hp), if_neg (by simpa using h),
    if_neg (Nat.not_lt.mpr hd), hnode]
  rfl

end

/-- A move changes the node table alone. -/
theorem Part.moved_nodes (p : Part) (id parent : Nat) (n : Node) : { p.moved id parent n with nodes := p.nodes } = p := rfl

variable {n : Node} (h : ∀ j, j ∈ p.nodeChain n.parent ∨ j ∈ p.nodeChain parent → p.hasNode j = true)
include h

theorem Part.node?_addCounts_chains (j : Nat) :
    (p.addCounts (p.nodeChain n.parent ++ p.nodeChain parent).eraseDups 1).node? j = (p.node? j).map (fun m =>
      if j ∈ p.nodeChain n.parent ∨ j ∈ p.nodeChain parent then { m with count := m.count + 1 } else m) := by
  rw [Part.node?_addCounts 1 j (fun i hi => h i (by simpa using hi))]
  simp

theorem Part.node?_moved_raised {j : Nat} (hj : j ∈ p.nodeChain n.parent ∨ j ∈ p.nodeChain parent) (hne : j ≠ id) :
    (p.moved id parent n).node? j = (p.node? j).map (fun m => { m with count := m.count + 1 }) := by
  rw [Part.moved, Part.node?_put, if_neg hne, Part.node?_addCounts_chains h]
  simp only [if_pos hj]

theorem Part.node?_moved_kept {j : Nat} (hj : ¬ (j ∈ p.nodeChain n.parent ∨ j ∈ p.nodeChain parent)) (hne : j ≠ id) :
    (p.moved id parent n).node? j = p.node? j := by
  rw [Part.moved, Part.node?_put, if_neg hne, Part.node?_addCounts_chains h]
  simp only [if_neg hj, Option.map_id']

theorem Part.node?_moved_self (hnode : p.node? id = some n)
    (hid : ¬ (id ∈ p.nodeChain n.parent ∨ id ∈ p.nodeChain parent)) :
    (p.moved id parent n).node? id = some { n with parent := parent } := by
  rw [Part.moved, Part.node?_put, if_pos rfl, Part.node?_addCounts_chains h, hnode]
  simp only [Option.map_some, if_neg hid, Option.getD_some]

end

/-! ## A deletion and a read (R131, R133) -/

section
variable {p : Part} {id : Nat}

theorem Part.treeDel_badNode (h : id = 0 ∨ id = 65535 ∨ p.hasNode id = false) : p.treeDel id = (treeStatus 5 id, p) :=
  if_pos (by simpa [or_assoc] using h)

theorem Part.treeDel_held (hn : (1 ≤ id ∧ id < 65535) ∧ p.hasNode id = true)
    (h : (p.nodes.any (fun e => e.1 ≠ 0 && e.2.parent = id) || p.enrolls.any (fun e => e.names id)) = true) :
    p.treeDel id = (treeStatus 4 id, p) := by
  rw [Part.treeDel, if_neg (Part.not_badNode hn), if_pos h]

theorem Part.treeDel_freed (hn : (1 ≤ id ∧ id < 65535) ∧ p.hasNode id = true)
    (h : (p.nodes.any (fun e => e.1 ≠ 0 && e.2.parent = id) || p.enrolls.any (fun e => e.names id)) = false) :
    p.treeDel id = (treeStatus 0 id, { p with nodes := p.nodes.del id }) := by
  rw [Part.treeDel, if_neg (Part.not_badNode hn), if_neg (Bool.eq_false_iff.mp h)]

theorem Part.treeRead_none (h : id = 65535 ∨ p.node? id = none) : p.treeRead id = 2 ^ 64 - 1 := by
  rcases h with h | h <;> simp [Part.treeRead, h]

theorem Part.treeRead_some {n : Node} (hid : id ≠ 65535) (h : p.node? id = some n) : p.treeRead id = n.word := by
  simp [Part.treeRead, hid, h]

end

/-! ## The agent's step on one request (R126, R129) -/

/-- A request's result and the partition after it. -/
def TreeReq.answer (r : TreeReq) (p : Part) : Nat × Part :=
  if r.op = tNew then p.treeNew r.x r.y
  else if r.op = tPar then p.treePar r.x r.y
  else if r.op = tDel then p.treeDel r.x
  else (p.treeRead r.x, p)

theorem TreeReq.answer_new {r : TreeReq} (p : Part) (h : r.op = tNew) : r.answer p = p.treeNew r.x r.y := by
  simp [TreeReq.answer, h]
theorem TreeReq.answer_par {r : TreeReq} (p : Part) (h : r.op = tPar) : r.answer p = p.treePar r.x r.y := by
  simp [TreeReq.answer, h, tPar, tNew]
theorem TreeReq.answer_del {r : TreeReq} (p : Part) (h : r.op = tDel) : r.answer p = p.treeDel r.x := by
  simp [TreeReq.answer, h, tDel, tPar, tNew]
theorem TreeReq.answer_rd {r : TreeReq} (p : Part) (h : r.op = tRd) : r.answer p = (p.treeRead r.x, p) := by
  simp [TreeReq.answer, h, tRd, tDel, tPar, tNew]

/-- A request that no earlier one of its agent stands before leaves the queue with its answer. -/
theorem exec_changeTreeAgentRequest {s : State} {part v : Nat} {r : TreeReq} {x : Part}
    (hr : (s.part part).treeQ.find? (fun x => x.id = r.id) = some r)
    (hfirst : ∀ x, x ∈ (s.part part).treeQ.takeWhile (fun x => x.id ≠ r.id) → x.agent ≠ r.agent)
    (ha : r.answer (s.part part) = (v, x)) :
    exec (.changeTreeAgentRequest part r.id) s = .next ((s.mapPart part (fun _ =>
      { x with treeQ := (s.part part).treeQ.filter (fun x => x.id ≠ r.id) })).giveResult r.agent r.pend v none) := by
  have hnone : ((s.part part).treeQ.takeWhile (fun x => x.id ≠ r.id)).any (fun x => x.agent = r.agent) = false := by
    rw [List.any_eq_false]
    exact fun x hx => by simpa using hfirst x hx
  change event s (evChangeTreeAgentRequest part r.id s) = _
  rw [TreeReq.answer] at ha
  simp only [evChangeTreeAgentRequest, hr, hnone, ha, event_some, Bool.false_eq_true, if_false]

/-! ## Roll-up (R126, R127) -/

/-- A bump that leaves the queue is applied to its node's chain; then the withdrawals end that it held up. -/
theorem exec_rollUpDeltaApply_bump {s : State} {part slice n k : Nat} {xs : List Roll}
    (hq : (s.part part).rolls.find slice = some (.bump n k :: xs)) (hn : (s.part part).hasNode n = true) :
    exec (.rollUpDeltaApply part slice) s = .next (((s.mapPart part (fun p =>
      { p with rolls := if xs.isEmpty then p.rolls.del slice else p.rolls.put slice xs })).mapPart part (fun p =>
        p.addCounts (p.nodeChain n) k)).withdrawn part) := by
  change event s (evRollUpDeltaApply part slice s) = _
  simp only [evRollUpDeltaApply, hq, event_some]
  congr 2
  refine State.mapPart_congr (if_pos ?_)
  rw [State.part_mapPart]
  exact hn

/-- A marker that leaves the queue passes the agent. -/
theorem exec_rollUpDeltaApply_marker {s : State} {part slice id : Nat} {xs : List Roll}
    (hq : (s.part part).rolls.find slice = some (.marker id :: xs)) :
    exec (.rollUpDeltaApply part slice) s = .next ((s.mapPart part (fun p =>
      { p with rolls := if xs.isEmpty then p.rolls.del slice else p.rolls.put slice xs })).passMarker part id) := by
  change event s (evRollUpDeltaApply part slice s) = _
  simp only [evRollUpDeltaApply, hq, event_some]

section
variable {s : State} {part id : Nat} {x : Settle} (h : (s.part part).settles.find? (fun x => x.id = id) = some x)
include h

theorem State.passMarker_last (hx : x.left ≤ 1) : s.passMarker part id =
    (s.mapPart part (fun p => { p with settles := p.settles.filter (fun y => y.id ≠ id) })).resolve0 x.fut x.status 0 := by
  simp only [State.passMarker, h, if_pos hx]

theorem State.passMarker_more (hx : 1 < x.left) : s.passMarker part id =
    s.mapPart part (fun p => { p with settles := p.settles.map (fun (y : Settle) =>
      if y.id = id then { y with left := y.left - 1 } else y) }) := by
  simp only [State.passMarker, h, if_neg (Nat.not_le.mpr hx)]

end

/-! ## Enrollments (R132) -/

/-- A die applies its earliest change; the last die's application ends a withdrawal, or puts the enrollment in effect. -/
theorem exec_enrollmentApplied {s : State} {part die : Nat} {e : Enroll}
    (h : (s.part part).enrolls.find? (fun e => e.waiting.contains die) = some e) :
    let s1 : State := s.mapPart part (fun p => { p with enrolls := p.enrolls.map (fun x =>
      if x.id = e.id then { x with waiting := e.waiting.filter (· ≠ die) } else x) })
    exec (.enrollmentApplied part die) s = .next (
      if e.waiting.filter (· ≠ die) ≠ [] then s1
      else if e.removing then s1.withdrawn part
      else s1.resolve0 e.fut Status.done 0) := by
  intro s1
  change event s (evEnrollmentApplied part die s) = _
  simp only [evEnrollmentApplied, h, Bool.not_eq_true', List.isEmpty_eq_false_iff]
  split
  · rfl
  · split <;> rfl

/-! ## The statement -/

/-- Settles O41: the agent's step gives a request's answer, each operation's answers are the rules of its table above, and the
roll-up's and an enrollment's steps each have their own rule. -/
theorem treeSteps : Obligations.TreeSteps := by
  refine ⟨fun s part r hr hfirst => ?_, fun _ _ _ _ _ _ => exec_rollUpDeltaApply_bump, fun _ _ n j _ => Part.node?_addCounts n j,
    fun s part slice id xs x hq hx => ?_, fun s part die e he => ?_⟩
  · intro p gives below made under node parent
    have hgives {v : Nat} {x : Part} (ha : r.answer p = (v, x)) : gives x v := exec_changeTreeAgentRequest hr hfirst ha
    have hok {i : Nat} (hi : below i) : treeStatus 0 i = i := by
      rw [treeStatus_ok, Nat.mod_eq_of_lt (hi.2.trans (by decide))]
    refine ⟨fun hop => ?_, fun hop => ?_, fun hop => ?_, fun hop => ?_⟩
    · have hans := TreeReq.answer_new p hop
      refine ⟨fun hu hy hfree => ?_, fun i hu hy hi hfree hlow => ?_, fun hu hy => ?_, fun hu hy hall => ?_, fun hx => ?_⟩
      · exact hgives (by rw [hans, Part.treeNew_named hu hy hfree, hok hy])
      · exact hgives (by rw [hans, hy, Part.treeNew_lowest hu hi hfree hlow, hok hi])
      · exact hgives (hans.trans (Part.treeNew_taken hu hy))
      · exact hgives (by rw [hans, hy, Part.treeNew_full hu hall]; rfl)
      · exact hgives (hans.trans (Part.treeNew_badParent hx))
    · have hans := TreeReq.answer_par p hop
      refine ⟨fun hx => ?_, fun hn hy => ?_, fun hn hp hc => ?_, fun hn hp hc hd => ?_, fun n hn hp hx hc hd => ?_⟩
      · exact hgives (hans.trans (Part.treePar_badNode hx))
      · exact hgives (hans.trans (Part.treePar_badParent hn hy))
      · exact hgives (hans.trans (Part.treePar_cycle hn hp hc))
      · exact hgives (hans.trans (Part.treePar_tooDeep hn hp hc hd))
      · intro raised hall
        refine ⟨p.moved r.x r.y n, hgives ?_, Part.moved_nodes .., fun j => Part.node?_moved_raised hall,
          fun j => Part.node?_moved_kept hall, Part.node?_moved_self hall hx⟩
        rw [hans, Part.treePar_moved hn hp hc hx hd, treeStatus_ok]
    · have hans := TreeReq.answer_del p hop
      intro held
      refine ⟨fun hx => ?_, fun hn hheld => ?_, fun hn hfree => ?_⟩
      · exact hgives (hans.trans (Part.treeDel_badNode hx))
      · exact hgives (hans.trans (Part.treeDel_held hn hheld))
      · exact hgives (by rw [hans, Part.treeDel_freed hn hfree, treeStatus_ok])
    · have hans := TreeReq.answer_rd p hop
      refine ⟨fun hx => ?_, fun n hx hn => ?_⟩
      · exact hgives (by rw [hans, Part.treeRead_none hx])
      · exact hgives (by rw [hans, Part.treeRead_some hx hn]; rfl)
  · intro s1
    have hx1 : (s1.part part).settles.find? (fun x => x.id = id) = some x := by rw [State.part_mapPart]; exact hx
    have he := exec_rollUpDeltaApply_marker hq
    refine ⟨fun hl => ?_, fun hl => ⟨_, he, ?_⟩⟩
    · rw [he, State.passMarker_last hx1 hl]
    · rw [State.passMarker_more hx1 hl]
      simp [s1]
  · intro s1
    have hexec := exec_enrollmentApplied he
    refine ⟨fun hw => ?_, fun hw hrem => ?_, fun hw hrem => ?_⟩
    · rw [hexec, if_pos hw]
    · rw [hexec, if_neg (not_not.mpr hw), if_neg (by simp [hrem])]
    · rw [hexec, if_neg (not_not.mpr hw), if_pos hrem]

end Sys2Proof.Machine

/-! SUPPORT. Scalar instructions (R36, R194, R196, R206 to R213, R234): what an issue leaves whose body changes the issuing context
alone, the one form that the instructions with a scalar result share, mask registers and tile configurations. -/

namespace Sys2Proof.Machine

/-! ## Issues that change the issuing context alone -/

/-- The view of a ready instruction holds the agent's context as it stands. -/
theorem State.ready_ctx {s : State} {pm : Perm} {h : Hdr} {len : Nat} {u : Uses} {is : Iss} (r : s.ready pm h len u = some is) :
    s.ctx? is.a = some is.c := by
  obtain ⟨view, -, -⟩ := State.ready_view r
  obtain ⟨-, hc, -⟩ := State.iss?_view view
  exact hc

section
variable {c d : Ctx} (is : Iss)

theorem Ctx.sameS_moved (h : d.s = c.s) : SameS c (d.moved is) [] := fun n _ => (Ctx.moved_sget d is n).trans (Ctx.sget_congr h n)
theorem Ctx.sameK_moved (h : d.k = c.k) : SameK c (d.moved is) [] := fun n _ => (Ctx.moved_kget d is n).trans (Ctx.kget_congr h n)
theorem Ctx.sameV_moved (h : d.v = c.v) : SameV c (d.moved is) := fun n l => (Ctx.moved_vget d is n l).trans (Ctx.vget_congr h n l)
theorem Ctx.sameF_moved (h : d.flags = c.flags) : SameF c (d.moved is) := fun l => (Ctx.moved_flag d is l).trans (Ctx.flag_congr h l)

end

/-- Two changes of an agent's context in turn are one. -/
theorem State.mapCtx_mapCtx (s : State) (a : Agent) (f g : Ctx → Ctx) :
    (s.mapCtx a f).mapCtx a g = s.mapCtx a (fun c => g (f c)) := by
  cases h : s.ctx? a with
  | none => simp [State.mapCtx, h]
  | some c => rw [State.mapCtx_some _ (State.ctx?_mapCtx_some f h), State.mapCtx_some _ h, State.mapCtx_some _ h, State.setCtx_setCtx]

/-- An issue whose body changes the issuing context alone, but not its fragments, moves on and leaves all else as it is. -/
theorem issue_upd {pm : Perm} {h : Hdr} {len : Nat} {u : Uses} {s : State} {is : Iss} {f : Ctx → Ctx} {body : Iss → State → Res State}
    (r : s.ready pm h len u = some is) (b : body is s = .ok (s.upd is f)) (hf : (f is.c).split = is.c.split) :
    ∃ t, issue pm h len u s body = .next t ∧ MovesOn s t is ((f is.c).moved is) ∧ t.rest = s.rest ∧ t.quads = s.quads :=
  ⟨_, issue_ready r b, movesOn r (State.ctx?_mapCtx_some f (State.ready_ctx r)) hf (fun _ => State.ctx?_mapCtx_ne _ _ _ _),
    (State.retire_rest _ _).trans (State.mapCtx_rest _ _ _), (State.retire_quads _ _).trans (State.mapCtx_quads _ _ _)⟩

/-- An issue whose body writes a scalar register: that register holds the value (s63 discards it), and all else stays, but for the
future that a tag of the register names. -/
theorem issue_wrS {pm : Perm} {h : Hdr} {len : Nat} {u : Uses} {s : State} {is : Iss} {d : RegNo} {v : W64}
    {body : Iss → State → Res State} (r : s.ready pm h len u = some is) (b : body is s = .ok (s.wrS is d v)) :
    ∃ t c, issue pm h len u s body = .next t ∧ MovesOn s t is c ∧
      (∀ n, c.sget n = if n = d.toNat ∧ n ≠ 63 then v else is.c.sget n) ∧
      SameK is.c c [] ∧ SameV is.c c ∧ SameF is.c c ∧ c.rest = is.c.rest ∧ t.rest = s.rest ∧
      (is.c.tags.find d.toNat = none → t.quads = s.quads) := by
  obtain ⟨⟨g, hc⟩, hrest, hother, hquads⟩ := State.wrS_spec d v (State.ready_ctx r)
  refine ⟨_, _, issue_ready r b, movesOn r hc (by simp) hother, fun n => ?_, Ctx.sameK_moved is (by simp),
    Ctx.sameV_moved is (by simp), Ctx.sameF_moved is (by simp), ?_, (State.retire_rest _ _).trans hrest,
    fun hn => (State.retire_quads _ _).trans (hquads hn)⟩
  · rw [Ctx.moved_sget, Ctx.sget_sset]
    exact if_congr (and_congr_right fun hn => by rw [hn]) rfl rfl
  · rw [Ctx.moved_rest, Ctx.sset_rest]; rfl

/-! ## The values of the scalar instructions -/

/-- A field of a number by division. -/
theorem bits_eq (v lo n : Nat) : bits v lo n = v / 2 ^ lo % 2 ^ n := by
  rw [bits, Nat.shiftRight_eq_div_pow]

section
variable (sub : BitVec 2) (imm : BitVec 32) (x y : W64) (n : Nat)

/-- A sum, a difference and a product of words are those of their integers modulo 2^64 (R207). -/
theorem add_eq_ofInt : x + y = BitVec.ofInt 64 (x.toInt + y.toInt) := by
  rw [BitVec.ofInt_add, BitVec.ofInt_toInt, BitVec.ofInt_toInt]
theorem mul_eq_ofInt : x * y = BitVec.ofInt 64 (x.toInt * y.toInt) := by
  rw [BitVec.ofInt_mul, BitVec.ofInt_toInt, BitVec.ofInt_toInt]
theorem sub_eq_ofInt : x - y = BitVec.ofInt 64 (x.toInt - y.toInt) := by
  rw [Int.sub_eq_add_neg, BitVec.ofInt_add, BitVec.ofInt_neg, BitVec.ofInt_toInt, BitVec.ofInt_toInt, BitVec.sub_eq_add_neg]

/-- A left shift multiplies, and a right shift divides, by a power of 2 (R207, R210). -/
theorem shiftLeft_eq_ofNat : x <<< n = BitVec.ofNat 64 (x.toNat * 2 ^ n) := by
  apply BitVec.eq_of_toNat_eq
  rw [BitVec.toNat_shiftLeft, Nat.shiftLeft_eq, BitVec.toNat_ofNat]
theorem shiftLeft_eq_ofInt : x <<< n = BitVec.ofInt 64 (x.toInt * 2 ^ n) := by
  have h2 : BitVec.ofInt 64 ((2 : Int) ^ n) = BitVec.ofNat 64 (2 ^ n) := BitVec.ofInt_natCast 64 (2 ^ n)
  rw [shiftLeft_eq_ofNat, BitVec.ofInt_mul, BitVec.ofInt_toInt, h2, BitVec.ofNat_mul, BitVec.ofNat_toNat, BitVec.setWidth_eq]
theorem ushiftRight_eq_ofNat : x >>> n = BitVec.ofNat 64 (x.toNat / 2 ^ n) := by
  apply BitVec.eq_of_toNat_eq
  rw [BitVec.toNat_ushiftRight, Nat.shiftRight_eq_div_pow, BitVec.toNat_ofNat,
    Nat.mod_eq_of_lt (lt_of_le_of_lt (Nat.div_le_self _ _) x.isLt)]
theorem sshiftRight_eq_ofInt : x.sshiftRight n = BitVec.ofInt 64 (x.toInt / 2 ^ n) := by
  rw [BitVec.sshiftRight_eq, Int.shiftRight_eq_div_pow]; rfl

/-- The amount of a scalar shift is src[5:0] (R207). -/
theorem toNat_extractLsb'_amount : (y.extractLsb' 0 6).toNat = amount y := BitVec.extractLsb'_toNat 0 6 y

/-- s.movi with SUB hi sets the upper half and keeps the low one (R209). -/
theorem append_low_eq : imm ++ x.extractLsb' 0 32 = BitVec.ofNat 64 (imm.toNat * 2 ^ 32 + x.toNat % 2 ^ 32) := by
  apply BitVec.eq_of_toNat_eq
  rw [BitVec.toNat_append, BitVec.extractLsb'_toNat, Nat.shiftRight_zero, BitVec.toNat_ofNat,
    ← Nat.shiftLeft_add_eq_or_of_lt (Nat.mod_lt _ (by decide)), Nat.shiftLeft_eq]
  omega

/-- s.div as R208 states it: where the divisor is not 0, the remainder is what the rounded quotient leaves. -/
theorem divide_eq : divide sub x y = divRule sub x y := by
  have hmod : x.toNat % y.toNat = x.toNat - y.toNat * (x.toNat / y.toNat) := Nat.mod_eq_sub_mul_div
  have htmod : x.toInt.tmod y.toInt = x.toInt - y.toInt * x.toInt.tdiv y.toInt := Int.tmod_def _ _
  unfold divide divRule
  rw [hmod, htmod]
  have hsub := sub.isLt
  interval_cases sub.toNat <;> simp

/-- The conditions of s.cmp on words are those of R207 on numbers. -/
theorem condS_eq (c : BitVec 4) : condS c x y = condRule c x y := by
  have heq : (x == y) = decide (x.toNat = y.toNat) := by
    rw [beq_eq_decide]; exact decide_eq_decide.mpr BitVec.toNat_inj.symm
  unfold condS condRule bne
  split <;> simp [BitVec.slt, BitVec.sle, BitVec.ult, BitVec.ule, *]

/-- The order of s.min and s.max: signed with SUB 0, else unsigned (R207). -/
theorem ite_order {α : Type} (u v : α) :
    (if (if sub = 0 then x.sle y else x.ule y) then u else v) =
      if sub = 0 then (if x.toInt ≤ y.toInt then u else v) else if x.toNat ≤ y.toNat then u else v := by
  by_cases h : sub = 0
  · simp only [if_pos h, BitVec.sle, decide_eq_true_eq]
  · simp only [if_neg h, BitVec.ule, decide_eq_true_eq]

end

theorem scalarOp_congr {f g : Iss → W64} (h : Hdr) (len : Nat) (rd : List Use) (d : RegNo) (s : State) (hfg : ∀ is, f is = g is) :
    scalarOp h len rd d s f = scalarOp h len rd d s g := by rw [funext hfg]

/-- Each scalar instruction with a scalar result is one and the same operation with the value that its rule gives. -/
theorem exec_scalarForm {i : Instr} {h : Hdr} {len : Nat} {rd : List Use} {d : RegNo} (s : State)
    (hf : scalarForm i = some (h, len, rd, d)) : exec i s = scalarOp h len rd d s (fun is => scalarValue is i) := by
  cases i <;> cases hf
  all_goals refine scalarOp_congr _ _ _ _ _ fun is => ?_
  case sMovi sub imm =>
    dsimp only [scalarValue]
    split
    · next h => rw [if_pos h]; rfl
    · next h => rw [if_neg (by omega), if_pos h]; exact (BitVec.ofNat_toNat 64 imm).symm
    · next h0 h1 => rw [if_neg h0, if_neg h1, append_low_eq]
  case sAdd => exact add_eq_ofInt _ _
  case sSub => exact sub_eq_ofInt _ _
  case sMul sub a src =>
    dsimp only [scalarValue]
    split
    · next h => rw [if_pos h]; exact mul_eq_ofInt _ _
    · next h => rw [if_neg (by omega), if_pos h]; rfl
    · next h0 h1 => rw [if_neg h0, if_neg h1]; rfl
  case sDiv => exact divide_eq _ _ _
  case sShl => exact (shiftLeft_eq_ofNat _ _).trans (by rw [toNat_extractLsb'_amount]; rfl)
  case sShr => exact (ushiftRight_eq_ofNat _ _).trans (by rw [toNat_extractLsb'_amount]; rfl)
  case sSra => exact (sshiftRight_eq_ofInt _ _).trans (by rw [toNat_extractLsb'_amount]; rfl)
  case sMin => exact ite_order _ _ _ _ _
  case sMax => exact ite_order _ _ _ _ _
  case sCmp cond a src =>
    dsimp only [scalarValue]
    rw [condS_eq]
    cases condRule cond (is.s a) (is.srcS src) <;> rfl
  case sBfx => simp only [scalarValue, bits_eq, pow_zero, Nat.div_one, Nat.reducePow]
  case sSel => exact ite_not _ _ _
  case sLea a b sh imm =>
    dsimp only [scalarValue]
    rw [BitVec.ofInt_add, BitVec.ofInt_add, BitVec.ofInt_toInt, ← shiftLeft_eq_ofInt]; rfl
  all_goals rfl

/-- Settles O1: every scalar instruction with a scalar result issues the same write of sD, with the value that its rule gives. -/
theorem scalarResult : Obligations.ScalarResult := by
  intro i s is h len rd d hf hr
  rw [exec_scalarForm s hf]
  exact issue_wrS hr rfl

/-! ## Mask registers (R213) -/

/-- Everything that writing a mask register does to the context of an agent that is no stoker. -/
theorem State.wrK_wave {s : State} {is : Iss} (d : RegNo) (v : Lanes) (h : isStoker is.a = false) :
    s.wrK is d v = s.upd is (fun c => c.kset d.toNat v) := by
  rw [State.wrK, h]; rfl

/-- A stoker's mask registers ignore writes (R413). -/
theorem State.wrK_stoker {s : State} {is : Iss} (d : RegNo) (v : Lanes) (h : isStoker is.a = true) : s.wrK is d v = s := by
  rw [State.wrK, h]; rfl

/-- An issue whose body writes a mask register of an agent that is no stoker changes the issuing context alone. -/
theorem issue_wrK {pm : Perm} {h : Hdr} {len : Nat} {u : Uses} {s : State} {is : Iss} {d : RegNo} {v : Lanes}
    {body : Iss → State → Res State} (r : s.ready pm h len u = some is) (hw : isStoker is.a = false)
    (b : body is s = .ok (s.wrK is d v)) :
    ∃ t, issue pm h len u s body = .next t ∧ MovesOn s t is ((is.c.kset d.toNat v).moved is) ∧ t.rest = s.rest ∧ t.quads = s.quads :=
  issue_upd r (b.trans (congrArg Except.ok (State.wrK_wave d v hw))) (Ctx.kset_split _ _ _)

/-- Settles O3: s.wrk changes the mask register of the issuing context alone, or in a stoker nothing, and s.rdk is a scalar result.
(The model has a `maskWrite` of its own.) -/
theorem maskRegisterWrite : Obligations.MaskWrite := by
  refine ⟨fun s is h d a hw hr => ?_, fun s is h d a hk hr => ?_, fun s is h d a hr => ?_⟩
  · obtain ⟨t, hx, hm, hrest, hquads⟩ := issue_wrK (body := fun is s => pure (s.wrK is d (is.s a))) hr hw rfl
    refine ⟨t, _, hx, hm, fun n => ?_, Ctx.sameS_moved is (by simp), Ctx.sameV_moved is (by simp),
      Ctx.sameF_moved is (by simp), (Ctx.moved_rest _ _).trans (Ctx.kset_rest _ _ _), hrest, hquads⟩
    rw [Ctx.moved_kget, Ctx.kget_kset]
    exact if_congr (and_congr_right fun hn => by rw [hn]) rfl rfl
  · exact issue_ready (body := fun is s => pure (s.wrK is d (is.s a))) hr (congrArg Except.ok (State.wrK_stoker d (is.s a) hk))
  · obtain ⟨t, c, hx, hm, hs, hk, -, -, -, hrest, -⟩ := issue_wrS (body := fun is s => pure (s.wrS is d (is.k a))) hr rfl
    exact ⟨t, c, hx, hm, hs, hk, hrest⟩

/-! ## Tile configurations (R212, R234) -/

/-- A tile configuration as it is stored: the low 23 bits of a word, the rest of the 32 zero. -/
theorem low23_eq (x : W64) : x.extractLsb' 0 32 &&& 0x007FFFFF = BitVec.ofNat 32 (x.toNat % 2 ^ 23) := by
  have h23 : (0x007FFFFF : BitVec 32).toNat = 2 ^ 23 - 1 := rfl
  apply BitVec.eq_of_toNat_eq
  rw [BitVec.toNat_and, h23, Nat.and_two_pow_sub_one_eq_mod, BitVec.extractLsb'_toNat, Nat.shiftRight_zero, BitVec.toNat_ofNat]
  omega

/-- A team after a tile configuration is written. -/
def Team.setCfg (m : Team) (n : Nat) (v : W32) : Team := { m with tcfg := AMap.set 0 m.tcfg n v }

/-- What s.movc does once it is issued: with SUB 0 it writes the configuration D, and else it reads the configuration A. -/
def State.movc (s : State) (is : Iss) (sub : BitVec 2) (d a : RegNo) : Res State :=
  let n := (if sub = 0 then d else a).toNat
  match s.teamOf is.c with
  | none => .error (is.fault0 Code.tileShape)
  | some tm =>
    if n < tm.foot.tiles then
      if sub = 0 then pure (s.mapTeam is.c.team (·.setCfg n ((is.s a).extractLsb' 0 32 &&& 0x007FFFFF)))
      else pure (s.wrS is d ((AMap.get 0 tm.tcfg n).zeroExtend 64))
    else .error (is.fault0 Code.tileShape)

theorem exec_sMovc (h : Hdr) (sub : BitVec 2) (d a : RegNo) (s : State) :
    exec (.sMovc h sub d a) s = issue .wave h 8 (if sub = 0 then { rd := [.s a], wr := [] } else { rd := [], wr := [.s d] }) s
      (fun is s => s.movc is sub d a) := rfl

section
variable {s : State} {is : Iss} {sub : BitVec 2} (d a : RegNo) {tm : Team} (ht : s.teams.find is.c.team = some tm)
include ht

theorem State.movc_write (hd : d.toNat < tm.foot.tiles) :
    s.movc is 0 d a = .ok (s.mapTeam is.c.team (·.setCfg d.toNat (BitVec.ofNat 32 ((is.s a).toNat % 2 ^ 23)))) := by
  simp only [State.movc, State.teamOf, ht, if_true, if_pos hd, low23_eq]; rfl

theorem State.movc_read (hs : sub ≠ 0) (ha : a.toNat < tm.foot.tiles) :
    s.movc is sub d a = .ok (s.wrS is d (BitVec.ofNat 64 (AMap.get 0 tm.tcfg a.toNat).toNat)) := by
  simp only [State.movc, State.teamOf, ht, if_neg hs, if_pos ha, BitVec.ofNat_toNat]; rfl

theorem State.movc_tileShape (hn : tm.foot.tiles ≤ (if sub = 0 then d else a).toNat) :
    s.movc is sub d a = .error (is.fault0 Code.tileShape) := by
  simp only [State.movc, State.teamOf, ht, if_neg (Nat.not_lt.mpr hn)]

end

@[simp] theorem State.retire_teams (t : State) (is : Iss) : (t.retire is).teams = t.teams := by
  unfold State.retire State.advance State.afterIssue
  simp

theorem State.find_mapTeam_ne (s : State) (k j : Nat) (f : Team → Team) (h : j ≠ k) :
    (s.mapTeam k f).teams.find j = s.teams.find j := by
  unfold State.mapTeam
  split
  · exact AMap.find_put_ne _ _ _ _ h
  · rfl

/-- Settles O4: s.movc with SUB 0 is a change of the issuing wave's team alone, with another SUB a scalar result, and above the team's
TILES a fault. -/
theorem tileConfiguration : Obligations.TileConfiguration := by
  refine ⟨fun s is h d a tm hr ht hd => ?_, fun s is h sub d a tm hs hr ht ha => ?_, fun s is h d a tm hr ht hd => ?_,
    fun s is h sub d a tm hs hr ht ha => ?_⟩
  · rw [exec_sMovc, if_pos rfl]
    refine ⟨_, _, tm.setCfg _ _, issue_ready hr (State.movc_write d a ht hd),
      movesOn hr ((State.ctx?_mapTeam _ _ _ _).trans (State.ready_ctx hr)) rfl (fun b _ => State.ctx?_mapTeam _ _ _ b), ?_,
      fun n => AMap.get_set _ _ _ _ _, rfl, fun k hk => ?_, ?_⟩
    · rw [State.retire_teams]; exact State.find_mapTeam _ ht
    · rw [State.retire_teams]; exact State.find_mapTeam_ne _ _ _ _ hk
    · rw [State.retire_mem]; exact State.mapTeam_mem _ _ _
  · rw [exec_sMovc, if_neg hs]
    obtain ⟨t, c, hx, hm, hsget, -⟩ := issue_wrS (body := fun is s => s.movc is sub d a) hr (State.movc_read d a ht hs ha)
    exact ⟨t, c, hx, hm, hsget⟩
  · rw [exec_sMovc, if_pos rfl]
    exact issue_error hr (State.movc_tileShape d a ht hd)
  · rw [exec_sMovc, if_neg hs]
    exact issue_error hr (State.movc_tileShape d a ht (by rw [if_neg hs]; exact ha))

end Sys2Proof.Machine

/-! SUPPORT. Per-thread integer instructions (R183, R205, R214 to R219): lists of lanes and masks, what the writes of a vector result
leave, the one form that the instructions with a vector result share, and v.cmp, v.rand and v.clrflag. -/

namespace Sys2Proof.Machine

/-! ## Lanes and masks -/

theorem Lanes.mem_list {m : Lanes} {l : Nat} : l ∈ m.list ↔ l < 64 ∧ m.getLsbD l = true := by
  simp only [Lanes.list, onesBelow, List.mem_filter, List.mem_range]; rfl

theorem Lanes.nodup_list (m : Lanes) : m.list.Nodup := List.nodup_range.filter _

theorem lanesOf_append (ls : List Nat) (i : Nat) : lanesOf (ls ++ [i]) = lanesOf ls ||| (1#64 <<< i) := by
  simp [lanesOf]

/-- The mask of a list of lanes has the bits of its members. -/
theorem getLsbD_lanesOf (ls : List Nat) {l : Nat} (hl : l < 64) : (lanesOf ls).getLsbD l = decide (l ∈ ls) := by
  induction ls using List.reverseRecOn with
  | nil => simp [lanesOf]
  | append_singleton ls i ih =>
    have hbit : (1#64 <<< i).getLsbD l = decide (l = i) := by
      rw [BitVec.getLsbD_shiftLeft, BitVec.getLsbD_one, Bool.eq_iff_iff]
      simp only [Bool.and_eq_true, Bool.not_eq_true', decide_eq_true_eq, decide_eq_false_iff_not]
      omega
    rw [lanesOf_append, BitVec.getLsbD_or, ih, hbit, Bool.eq_iff_iff]
    simp

/-- kD after a compare: the outcome in each passing thread, the other bits zero with SUB 0 and else kept (R216). -/
theorem getLsbD_cmpMask (sub : BitVec 2) (old p : Lanes) (hit : Nat → Bool) {l : Nat} (hl : l < 64) :
    (cmpMask sub old p (lanesOf (p.list.filter hit))).getLsbD l =
      if p.getLsbD l then hit l else if sub = 0 then false else old.getLsbD l := by
  have hhits : (lanesOf (p.list.filter hit)).getLsbD l = (p.getLsbD l && hit l) := by
    rw [getLsbD_lanesOf _ hl]
    simp [List.mem_filter, Lanes.mem_list, hl]
  by_cases hs : sub = 0
  · rw [cmpMask, if_pos hs, if_pos hs, hhits]
    cases p.getLsbD l <;> simp
  · rw [cmpMask, if_neg hs, if_neg hs, BitVec.getLsbD_or, BitVec.getLsbD_and, BitVec.getLsbD_not, hhits]
    cases p.getLsbD l <;> simp [hl]

/-- A fold over distinct keys each of which changes what stands at its own key alone. -/
theorem foldl_get_modify {σ β : Type} (get : σ → Nat → β) (f : σ → Nat → σ) (g : Nat → β → β)
    (h : ∀ s i j, get (f s i) j = if j = i then g j (get s j) else get s j) {ls : List Nat} (hls : ls.Nodup) (s : σ) (j : Nat) :
    get (ls.foldl f s) j = if j ∈ ls then g j (get s j) else get s j := by
  induction ls generalizing s with
  | nil => simp
  | cons i ls ih =>
    obtain ⟨hi, hls⟩ := List.nodup_cons.mp hls
    rw [List.foldl_cons, ih hls, h]
    by_cases hj : j = i
    · subst hj; simp [hi]
    · simp [hj]

/-- A fold over the passing threads does so to each of them. -/
theorem foldl_lanes {σ β : Type} (get : σ → Nat → β) (f : σ → Nat → σ) (g : Nat → β → β)
    (h : ∀ s i j, get (f s i) j = if j = i then g j (get s j) else get s j) (p : Lanes) (s : σ) {l : Nat} (hl : l < 64) :
    get (p.list.foldl f s) l = if p.getLsbD l then g l (get s l) else get s l := by
  rw [foldl_get_modify get f g h (Lanes.nodup_list p)]
  simp [Lanes.mem_list, hl]

/-! ## Writes of vector registers -/

section
variable (c : Ctx) (ws : List (Nat × Nat × W32))

@[simp] theorem Ctx.wrVs_s : (c.wrVs ws).s = c.s := foldl_get_eq Ctx.s _ ws c (fun _ _ _ => rfl)
@[simp] theorem Ctx.wrVs_k : (c.wrVs ws).k = c.k := foldl_get_eq Ctx.k _ ws c (fun _ _ _ => rfl)
@[simp] theorem Ctx.wrVs_flags : (c.wrVs ws).flags = c.flags := foldl_get_eq Ctx.flags _ ws c (fun _ _ _ => rfl)
@[simp] theorem Ctx.wrVs_split : (c.wrVs ws).split = c.split := foldl_get_eq Ctx.split _ ws c (fun _ _ _ => rfl)
@[simp] theorem Ctx.wrVs_rngkey : (c.wrVs ws).rngkey = c.rngkey := foldl_get_eq Ctx.rngkey _ ws c (fun _ _ _ => rfl)
@[simp] theorem Ctx.wrVs_rest : (c.wrVs ws).rest = c.rest := foldl_get_eq Ctx.rest _ ws c (fun _ _ _ => rfl)

end

/-- A register of a lane that no write names keeps its value. -/
theorem Ctx.vget_wrVs_other (c : Ctx) {ws : List (Nat × Nat × W32)} {n l : Nat} (hl : l < 64)
    (h : ∀ e ∈ ws, e.2.1 < 64 ∧ ¬ (e.1 = n ∧ e.2.1 = l)) : (c.wrVs ws).vget n l = c.vget n l :=
  foldl_get_eq (fun c : Ctx => c.vget n l) _ ws c fun c e he => by
    obtain ⟨hlane, hne⟩ := h e he
    rw [Ctx.vget_vset _ _ _ _ _ _ hlane hl, if_neg (fun hx => hne ⟨hx.1.symm, hx.2.symm⟩)]

/-- A register of a lane that one write names, and no other, holds its value. -/
theorem Ctx.vget_wrVs_written (c : Ctx) {ws : List (Nat × Nat × W32)} {e : Nat × Nat × W32} (he : e ∈ ws)
    (hlanes : ∀ x ∈ ws, x.2.1 < 64) (honly : ∀ x ∈ ws, x ≠ e → ¬ (x.1 = e.1 ∧ x.2.1 = e.2.1)) :
    (c.wrVs ws).vget e.1 e.2.1 = e.2.2 :=
  foldl_get_set (fun c : Ctx => c.vget e.1 e.2.1) _ ws c e _ he
    (fun c => by rw [Ctx.vget_vset _ _ _ _ _ _ (hlanes e he) (hlanes e he), if_pos ⟨rfl, rfl⟩])
    fun c x hx hne => by
      rw [Ctx.vget_vset _ _ _ _ _ _ (hlanes x hx) (hlanes e he), if_neg (fun h => honly x hx hne ⟨h.1.symm, h.2.symm⟩)]

/-- Each write of a vector result is in the lane of a value. -/
theorem Iss.lane_mem_of_vWrites {is : Iss} {wide : Bool} {d : RegNo} {vals : List (Nat × Nat)} {e : Nat × Nat × W32}
    (he : e ∈ is.vWrites wide d vals) : ∃ x ∈ vals, e.2.1 = x.1 := by
  simp only [Iss.vWrites, List.mem_flatMap, List.mem_cons] at he
  obtain ⟨x, hx, he⟩ := he
  refine ⟨x, hx, ?_⟩
  rcases he with rfl | he
  · rfl
  · split at he
    · rw [List.mem_singleton.mp he]
    · cases he

/-- Where MD = 0 no register is renamed (R38): a 32-bit result is one write of the destination in each lane. -/
theorem Iss.vWrites_narrow {is : Iss} (hmd : is.h.md = false) (d : RegNo) (vals : List (Nat × Nat)) :
    is.vWrites false d vals = vals.map (fun e => (d.toNat, e.1, BitVec.ofNat 32 e.2)) := by
  simp [Iss.vWrites, Iss.phys, Ctx.phys, hmd, List.map_eq_flatMap]

/-! ## The form of a vector result -/

section
variable {h : Hdr} {len : Nat} {wide : Bool} {rd : List Use} {d : RegNo} {s : State} {is : Iss} (f : Iss → Nat → Nat)
  (r : s.ready .wave h len { rd := rd, wr := [.v d (if wide then 2 else 1)] } = some is)
include r

/-- A per-thread result is the write of the passing threads' values, and moving on. -/
theorem vectorOp_moves :
    ∃ t, vectorOp h len wide rd d s f = .next t ∧
      MovesOn s t is ((is.c.wrVs (is.vWrites wide d (is.p.list.map (fun l => (l, f is l))))).moved is) ∧
      t.rest = s.rest ∧ t.quads = s.quads :=
  issue_upd (f := fun c => c.wrVs (is.vWrites wide d (is.p.list.map (fun l => (l, f is l))))) r rfl (Ctx.wrVs_split _ _)

/-- Everything that a per-thread result does. -/
theorem vectorOp_spec :
    ∃ t c, vectorOp h len wide rd d s f = .next t ∧ MovesOn s t is c ∧
      c.v = (is.c.wrVs (is.vWrites wide d (is.p.list.map (fun l => (l, f is l))))).v ∧
      (∀ n l, l < 64 → is.p.getLsbD l = false → c.vget n l = is.c.vget n l) ∧
      SameS is.c c [] ∧ SameK is.c c [] ∧ SameF is.c c ∧ c.rest = is.c.rest ∧ t.rest = s.rest ∧ t.quads = s.quads := by
  obtain ⟨t, hx, hm, hrest, hquads⟩ := vectorOp_moves f r
  refine ⟨t, _, hx, hm, Ctx.moved_v _ _, fun n l hl hp => ?_, Ctx.sameS_moved is (by simp), Ctx.sameK_moved is (by simp),
    Ctx.sameF_moved is (by simp), (Ctx.moved_rest _ _).trans (Ctx.wrVs_rest _ _), hrest, hquads⟩
  rw [Ctx.moved_vget]
  refine Ctx.vget_wrVs_other _ hl fun e he => ?_
  obtain ⟨x, hx, hlane⟩ := Iss.lane_mem_of_vWrites he
  obtain ⟨i, hi, rfl⟩ := List.mem_map.mp hx
  obtain ⟨hi64, hip⟩ := Lanes.mem_list.mp hi
  refine ⟨hlane ▸ hi64, fun hne => ?_⟩
  have hil : i = l := hlane.symm.trans hne.2
  rw [hil, hp] at hip
  cases hip

end

/-- A 32-bit result with MD = 0 stands in the destination of each passing thread, whose other registers keep their values. -/
theorem vget_narrow_result {is : Iss} (hmd : is.h.md = false) (d : RegNo) (f : Nat → Nat) (n : Nat) {l : Nat} (hl : l < 64)
    (hp : is.p.getLsbD l = true) :
    (is.c.wrVs (is.vWrites false d (is.p.list.map (fun l => (l, f l))))).vget n l =
      if n = d.toNat then BitVec.ofNat 32 (f l) else is.c.vget n l := by
  have hmem : ∀ e ∈ is.p.list.map (fun l => (d.toNat, l, BitVec.ofNat 32 (f l))), e.2.1 < 64 ∧ e = (d.toNat, e.2.1, BitVec.ofNat 32 (f e.2.1)) := by
    intro e he
    obtain ⟨i, hi, rfl⟩ := List.mem_map.mp he
    exact ⟨(Lanes.mem_list.mp hi).1, rfl⟩
  rw [Iss.vWrites_narrow hmd, List.map_map]
  split
  · next hn =>
    subst hn
    exact Ctx.vget_wrVs_written is.c (e := (d.toNat, l, BitVec.ofNat 32 (f l))) (List.mem_map.mpr ⟨l, Lanes.mem_list.mpr ⟨hl, hp⟩, rfl⟩)
      (fun x hx => (hmem x hx).1) fun x hx hne heq => hne ((hmem x hx).2.trans (by rw [heq.2]))
  · next hn =>
    refine Ctx.vget_wrVs_other _ hl fun e he => ⟨(hmem e he).1, fun heq => hn ?_⟩
    rw [← heq.1, (hmem e he).2]

/-! ## The values of the per-thread integer instructions -/

theorem Ty.lo_le_hi (t : Ty) : t.lo ≤ t.hi := by cases t <;> decide

/-- The code of an exact integer: clamped with SAT, else modulo (R215). -/
theorem exactCode_eq (t : TField) (x : Int) : t.ty.intCode t.sat x = exactCode t x := by
  have hle := Ty.lo_le_hi t.ty
  have hclamp : t.ty.clamp x = if x < t.ty.lo then t.ty.lo else if t.ty.hi < x then t.ty.hi else x := by
    unfold Ty.clamp
    split <;> [skip; split] <;> omega
  rw [Ty.intCode, Ty.wrap, hclamp]; rfl

theorem ite_le_eq_lt {α : Type} (x y : Int) (u v : α) : (if x ≤ y then u else v) = if y < x then v else u := by
  rw [← ite_not]
  exact if_congr not_le rfl rfl

theorem add_sum_four (x : Int) (f : Nat → Int) : x + ((List.range 4).map f).sum = x + f 0 + f 1 + f 2 + f 3 := by
  simp only [List.range_succ, List.range_zero, List.map_append, List.map_cons, List.map_nil, List.sum_append, List.sum_cons,
    List.sum_nil]
  ring

theorem vectorOp_congr {f g : Iss → Nat → Nat} (h : Hdr) (len : Nat) (wide : Bool) (rd : List Use) (d : RegNo) (s : State)
    (hfg : ∀ is l, f is l = g is l) : vectorOp h len wide rd d s f = vectorOp h len wide rd d s g := by
  rw [show f = g from funext fun is => funext (hfg is)]

/-- Each per-thread integer instruction with a vector result is one and the same operation with the value that its rule gives. -/
theorem exec_vectorForm {i : Instr} {f : VForm} (s : State) (hf : vectorForm i = some f) :
    exec i s = vectorOp f.h f.len f.wide f.rd f.d s (fun is l => vectorValue is l i) := by
  cases i <;> cases hf
  case vMul h sub t d a src =>
    show execVMul h sub t d a src s = _
    unfold execVMul
    split
    · next hs => exact vectorOp_congr _ _ _ _ _ _ fun is l => (exactCode_eq _ _).trans (if_pos hs).symm
    · next hs => exact vectorOp_congr _ _ _ _ _ _ fun is l => (if_neg hs).symm
  all_goals refine vectorOp_congr _ _ _ _ _ _ fun is l => ?_
  case vAdd => exact exactCode_eq _ _
  case vSub => exact exactCode_eq _ _
  case vMad => exact exactCode_eq _ _
  case vMin => exact ite_le_eq_lt _ _ _ _
  case vMax => exact ite_le_eq_lt _ _ _ _
  case vAbs h t d a => exact (exactCode_eq _ _).trans (congrArg (exactCode t) (Int.natCast_natAbs _))
  case vShl => simp only [vectorValue, shiftAmount, Nat.shiftLeft_eq]
  case vShr => simp only [vectorValue, shiftAmount, Nat.shiftRight_eq_div_pow]
  case vBfx => simp only [vectorValue, bits_eq, pow_zero, Nat.div_one, Nat.reducePow]
  case vDot4 h sub t d a b c => exact (exactCode_eq { t with ty := .b32 } _).trans (congrArg (exactCode _) (add_sum_four _ _))
  case vLid => exact if_congr Iff.rfl rfl (Nat.add_comm _ _)
  all_goals rfl

/-- Settles O10: every per-thread integer instruction with a vector result issues the same write of the passing lanes, with the value
that its rule gives. -/
theorem vectorResult : Obligations.VectorResult := by
  refine ⟨fun i s is f hf hr => ?_, fun i s is f n l hf hw hmd hr hl hp => ?_⟩
  · rw [exec_vectorForm s hf]
    exact vectorOp_spec _ hr
  · obtain ⟨h, len, wide, rd, d⟩ := f
    subst hw
    obtain ⟨t, hx, hm, -⟩ := vectorOp_moves (fun is l => vectorValue is l i) hr
    have hh : is.h.md = false := by
      obtain ⟨view, -⟩ := State.ready_view hr
      obtain ⟨-, -, -, -, -, -, hh, -⟩ := State.iss?_view view
      rw [hh]; exact hmd
    refine ⟨t, _, (exec_vectorForm s hf).trans hx, hm.1, ?_⟩
    rw [Ctx.moved_vget]
    exact vget_narrow_result hh d _ n hl hp

/-! ## v.cmp and v.sel (R216) -/

/-- The conditions of v.cmp as R216 states them. -/
theorem condV_eq (cond : BitVec 4) (x y : Int) :
    condV cond x y = if cond.toNat = 0 then decide (x = y) else if cond.toNat = 1 then decide (x ≠ y) else if cond.toNat = 2 then decide (x < y)
      else if cond.toNat = 3 then decide (x ≤ y) else if cond.toNat = 4 then decide (y < x) else decide (y ≤ x) := by
  unfold condV
  split <;> simp_all [bne, BEq.beq]

/-- kD after a compare with given outcomes. -/
def Iss.compared (is : Iss) (sub : BitVec 2) (d : RegNo) (hit : Nat → Bool) : Lanes :=
  cmpMask sub (is.c.kget d.toNat) is.p (lanesOf (is.p.list.filter hit))

/-- The mask registers after a compare: kD holds the outcomes of the passing threads, its other bits zero with SUB 0 and else kept, and
the other mask registers stand as they did; a write of k0 is discarded (R216, R223). -/
theorem Iss.compared_spec {is : Iss} {c : Ctx} {sub : BitVec 2} {d : RegNo} {hit : Nat → Bool}
    (hc : c.k = (is.c.kset d.toNat (is.compared sub d hit)).k) :
    (∀ n, n ≠ d.toNat ∨ n = 0 → c.kget n = is.c.kget n) ∧
      (d ≠ 0 → ∀ l, l < 64 → (c.kget d.toNat).getLsbD l =
        if is.p.getLsbD l then hit l else if sub = 0 then false else (is.c.kget d.toNat).getLsbD l) := by
  refine ⟨fun n hn => ?_, fun hd l hl => ?_⟩
  · rw [Ctx.kget_congr hc, Ctx.kget_kset, if_neg]
    rintro ⟨rfl, h0⟩
    exact hn.elim (fun h => h rfl) h0
  · have hd0 : d.toNat ≠ 0 := fun h => hd (BitVec.eq_of_toNat_eq h)
    rw [Ctx.kget_congr hc, Ctx.kget_kset, if_pos ⟨rfl, hd0⟩]
    exact getLsbD_cmpMask _ _ _ _ hl

/-- A condition that is required holds where the operation goes on. -/
theorem of_require_bind {α : Type} {b : Bool} {e : Exc} {k : Unit → Res α} {x : α} (h : (require b e >>= k) = .ok x) :
    b = true ∧ k () = .ok x := by
  cases b
  · cases h
  · exact ⟨rfl, h⟩

/-- A stoker does not issue with effect what only waves may (R414). -/
theorem State.ready_isStoker {s : State} {pm : Perm} {h : Hdr} {len : Nat} {u : Uses} {is : Iss} (r : s.ready pm h len u = some is)
    (hpm : pm.stoker = false) : isStoker is.a = false := by
  obtain ⟨-, hc, hp⟩ := State.ready_view r
  unfold Iss.check at hc
  obtain ⟨-, hc⟩ := of_require_bind hc
  obtain ⟨-, hc⟩ := of_require_bind hc
  obtain ⟨-, hc⟩ := of_require_bind hc
  obtain ⟨-, hc⟩ := of_require_bind hc
  rw [if_pos (by simpa using hp)] at hc
  obtain ⟨-, hc⟩ := of_require_bind hc
  obtain ⟨hst, -⟩ := of_require_bind hc
  simpa [hpm] using hst

/-- The outcome of v.cmp in a lane. -/
def Iss.vHit (is : Iss) (t : TField) (a b : RegNo) (cond : BitVec 4) (l : Nat) : Bool :=
  condV cond (t.ty.intOf (is.vw t.ty.is64 a l)) (t.ty.intOf (is.vw t.ty.is64 b l))

/-- v.cmp is a write of a mask register. -/
theorem exec_vCmp (h : Hdr) (sub : BitVec 2) (t : TField) (d a b : RegNo) (cond : BitVec 4) (s : State) :
    exec (.vCmp h sub t d a b cond) s = issue .wave h 8 { rd := [.v a t.ty.regs, .v b t.ty.regs], wr := [.k d] } s
      (fun is s => pure (s.wrK is d (is.compared sub d (is.vHit t a b cond)))) := rfl

/-- Settles O11: v.cmp changes kD of the issuing context alone, and v.sel is a per-thread result. -/
theorem vectorCompare : Obligations.VectorCompare := by
  refine ⟨fun s is h sub t d a b cond hr => ?_, fun s is h t d a b c hr => ?_⟩
  · intro hit
    have hhit : is.vHit t a b cond = hit := funext fun l => condV_eq _ _ _
    rw [exec_vCmp]
    obtain ⟨u, hx, hm, hrest, -⟩ := issue_wrK (body := fun is s => pure (s.wrK is d (is.compared sub d (is.vHit t a b cond))))
      hr (State.ready_isStoker hr rfl) rfl
    rw [hhit] at hm
    obtain ⟨hother, hbits⟩ := Iss.compared_spec (Ctx.moved_k (is.c.kset d.toNat (is.compared sub d hit)) is)
    exact ⟨u, _, hx, hm, hother, hbits, Ctx.sameS_moved is (by simp), Ctx.sameV_moved is (by simp), Ctx.sameF_moved is (by simp),
      (Ctx.moved_rest _ _).trans (Ctx.kset_rest _ _ _), hrest⟩
  · obtain ⟨u, k, hx, hm, hv, -, hs, hk, hf, -, hrest, -⟩ :=
      vectorOp_spec (fun is l => if (is.k c).getLsbD l then is.vw t.ty.is64 a l else is.vw t.ty.is64 b l) hr
    exact ⟨u, k, hx, hm, hv, hs, hk, hf, hrest⟩

/-! ## v.rand, v.lid and v.clrflag (R183, R218, R219) -/

@[simp] theorem Ctx.moved_rngctr (c : Ctx) (is : Iss) : (c.moved is).rngctr = c.rngctr := by simp [Ctx.moved]
@[simp] theorem Ctx.moved_rngkey (c : Ctx) (is : Iss) : (c.moved is).rngkey = c.rngkey := by simp [Ctx.moved]

/-- The context after v.rand: the values in the passing threads, and the counter advanced. -/
def Ctx.randomized (c : Ctx) (is : Iss) (d : RegNo) : Ctx :=
  { c.wrVs (is.vWrites false d (is.p.list.map (fun l => (l, (rand32 is.c.rngkey is.c.rngctr l).toNat)))) with
    rngctr := is.c.rngctr + 1 }

theorem exec_vRand (h : Hdr) (d : RegNo) (s : State) :
    exec (.vRand h d) s = issue .wave h 8 { rd := [], wr := [.v d 1] } s (fun is s => pure (s.upd is (·.randomized is d))) := by
  have hbody : ∀ (is : Iss) (s : State),
      (s.wrV is false d (is.p.list.map (fun l => (l, (rand32 is.c.rngkey is.c.rngctr l).toNat)))).upd is
        (fun c => { c with rngctr := is.c.rngctr + 1 }) = s.upd is (·.randomized is d) := fun is s => State.mapCtx_mapCtx _ _ _ _
  show execVRand h d s = _
  simp only [execVRand, hbody]

/-- Some flags of a lane fall. -/
def Ctx.clearFlags (c : Ctx) (l : Nat) (f : BitVec 5) : Ctx := { c with flags := AMap.set 0 c.flags l (c.flag l &&& ~~~f) }

theorem Ctx.flag_clearFlags (c : Ctx) (i j : Nat) (f : Nat → BitVec 5) :
    (c.clearFlags i (f i)).flag j = if j = i then c.flag j &&& ~~~(f j) else c.flag j := by
  rw [Ctx.clearFlags, Ctx.flag, AMap.get_set]
  split
  · next h => rw [h]
  · rfl

/-- The context after v.clrflag. -/
def Ctx.flagsCleared (c : Ctx) (is : Iss) (src : Src) : Ctx :=
  is.p.list.foldl (fun c l => c.clearFlags l (BitVec.ofNat 5 (is.srcV false l src))) c

theorem exec_vClrflag (h : Hdr) (src : Src) (s : State) :
    exec (.vClrflag h src) s = issue .wave h 8 { rd := srcUseV 1 src, wr := [] } s (fun is s => pure (s.upd is (·.flagsCleared is src))) :=
  rfl

section
variable (c : Ctx) (is : Iss) (src : Src)

theorem Ctx.flag_flagsCleared {l : Nat} (hl : l < 64) :
    (c.flagsCleared is src).flag l =
      if is.p.getLsbD l then c.flag l &&& ~~~(BitVec.ofNat 5 (is.srcV false l src)) else c.flag l :=
  foldl_lanes Ctx.flag _ (fun l x => x &&& ~~~(BitVec.ofNat 5 (is.srcV false l src))) (fun c i j => Ctx.flag_clearFlags c i j _) _ c hl

@[simp] theorem Ctx.flagsCleared_s : (c.flagsCleared is src).s = c.s := foldl_get_eq Ctx.s _ _ c (fun _ _ _ => rfl)
@[simp] theorem Ctx.flagsCleared_k : (c.flagsCleared is src).k = c.k := foldl_get_eq Ctx.k _ _ c (fun _ _ _ => rfl)
@[simp] theorem Ctx.flagsCleared_v : (c.flagsCleared is src).v = c.v := foldl_get_eq Ctx.v _ _ c (fun _ _ _ => rfl)
@[simp] theorem Ctx.flagsCleared_split : (c.flagsCleared is src).split = c.split := foldl_get_eq Ctx.split _ _ c (fun _ _ _ => rfl)
@[simp] theorem Ctx.flagsCleared_rest : (c.flagsCleared is src).rest = c.rest := foldl_get_eq Ctx.rest _ _ c (fun _ _ _ => rfl)

end

/-- Settles O12: v.rand changes the destination and RNGCTR of the issuing context alone, v.lid is a per-thread result, and v.clrflag
changes the flags of the passing threads alone. -/
theorem randomAndFlags : Obligations.RandomAndFlags := by
  refine ⟨fun s is h d hr => ?_, fun s is h d hv hc hp => ?_, fun s is h sub d hr => ?_, fun s is h src hr => ?_⟩
  · rw [exec_vRand]
    obtain ⟨t, hx, hm, hrest, -⟩ := issue_upd (f := (·.randomized is d)) (body := fun is s => pure (s.upd is (·.randomized is d)))
      hr rfl (Ctx.wrVs_split _ _)
    exact ⟨t, _, hx, hm, Ctx.moved_v _ _, Ctx.moved_rngctr _ _, (Ctx.moved_rngkey _ _).trans (Ctx.wrVs_rngkey _ _),
      Ctx.sameS_moved is (Ctx.wrVs_s _ _), Ctx.sameK_moved is (Ctx.wrVs_k _ _), Ctx.sameF_moved is (Ctx.wrVs_flags _ _), hrest⟩
  · rw [exec_vRand]
    exact issueRaw_empty hv hc hp rfl
  · obtain ⟨t, c, hx, hm, hval, -, hs, hk, hf, hcrest, hrest, -⟩ :=
      vectorOp_spec (wide := false) (fun is l => if sub = 0 then l else l + 64 * is.c.widx) hr
    exact ⟨t, c, hx, hm, hval, hs, hk, hf, hcrest, hrest⟩
  · rw [exec_vClrflag]
    obtain ⟨t, hx, hm, hrest, -⟩ := issue_upd (f := (·.flagsCleared is src))
      (body := fun is s => pure (s.upd is (·.flagsCleared is src))) hr rfl (Ctx.flagsCleared_split _ _ _)
    exact ⟨t, _, hx, hm, fun l hl => (Ctx.moved_flag _ _ _).trans (Ctx.flag_flagsCleared _ _ _ hl), Ctx.sameS_moved is (by simp),
      Ctx.sameK_moved is (by simp), Ctx.sameV_moved is (by simp), (Ctx.moved_rest _ _).trans (Ctx.flagsCleared_rest _ _ _), hrest⟩

end Sys2Proof.Machine

/-! SUPPORT. f.cls and f.cmp (R184, R223, R224, R385 to R388): the flags that an operation raises, the user trap of an enabled one, and
how an f-class instruction completes. -/

namespace Sys2Proof.Machine

/-! ## Flags -/

section
variable (c : Ctx) (fl : List (Nat × BitVec 5))

@[simp] theorem Ctx.raiseAll_s : (c.raiseAll fl).s = c.s := foldl_get_eq Ctx.s _ fl c (fun _ _ _ => rfl)
@[simp] theorem Ctx.raiseAll_k : (c.raiseAll fl).k = c.k := foldl_get_eq Ctx.k _ fl c (fun _ _ _ => rfl)
@[simp] theorem Ctx.raiseAll_v : (c.raiseAll fl).v = c.v := foldl_get_eq Ctx.v _ fl c (fun _ _ _ => rfl)
@[simp] theorem Ctx.raiseAll_split : (c.raiseAll fl).split = c.split := foldl_get_eq Ctx.split _ fl c (fun _ _ _ => rfl)
@[simp] theorem Ctx.raiseAll_utact : (c.raiseAll fl).utact = c.utact := foldl_get_eq Ctx.utact _ fl c (fun _ _ _ => rfl)
@[simp] theorem Ctx.raiseAll_utvec : (c.raiseAll fl).utvec = c.utvec := foldl_get_eq Ctx.utvec _ fl c (fun _ _ _ => rfl)

end

/-- The flags that the passing threads raise, each its own. -/
def Iss.laneFlags (is : Iss) (g : Nat → BitVec 5) : List (Nat × BitVec 5) := is.p.list.map (fun l => (l, g l))

theorem Iss.flag_raiseAll (is : Iss) (c : Ctx) (g : Nat → BitVec 5) {l : Nat} (hl : l < 64) :
    (c.raiseAll (is.laneFlags g)).flag l = if is.p.getLsbD l then c.flag l ||| g l else c.flag l := by
  rw [Iss.laneFlags, Ctx.raiseAll, List.foldl_map]
  refine foldl_lanes Ctx.flag _ (fun l x => x ||| g l) (fun c i j => ?_) _ c hl
  rw [Ctx.flag_raiseFlags]
  split
  · next h => rw [h]
  · rfl

/-- The lanes of a user trap are those that raised an enabled flag (R386). -/
theorem Iss.getLsbD_enabled (is : Iss) (g : Nat → BitVec 5) {l : Nat} (hl : l < 64) :
    (enabled is.c.fpen (is.laneFlags g)).1.getLsbD l = true ↔ is.p.getLsbD l = true ∧ g l &&& is.c.fpen ≠ 0 := by
  rw [enabled, getLsbD_lanesOf _ hl]
  simp [Iss.laneFlags, Lanes.mem_list, hl]

/-- There is no trap where no passing thread raises an enabled flag. -/
theorem Iss.enabled_eq_zero (is : Iss) (g : Nat → BitVec 5) :
    (enabled is.c.fpen (is.laneFlags g)).1 = 0 ↔ ∀ l, ¬ (l < 64 ∧ is.p.getLsbD l = true ∧ g l &&& is.c.fpen ≠ 0) := by
  constructor
  · rintro h0 l ⟨hl, hhit⟩
    have hbit := (is.getLsbD_enabled g hl).mpr hhit
    rw [h0] at hbit
    simp at hbit
  · intro hno
    refine BitVec.eq_of_getLsbD_eq fun l hl => ?_
    rw [Bool.eq_false_iff.mpr fun hbit => hno l ⟨hl, (is.getLsbD_enabled g hl).mp hbit⟩]
    simp

/-! ## User traps and stops -/

/-- A context that takes a user trap (R386). -/
def Ctx.trapped (c : Ctx) (fid : Nat) (pc next : W64) (lanes : Lanes) (cause : BitVec 5) (dst : BitVec 8) : Ctx :=
  Ctx.setPc { c with utpc := pc, utnext := next, utlanes := lanes, utcause := cause, utdst := dst, utact := true, utfrag := fid } fid c.utvec

theorem Ctx.trapped_rec {c : Ctx} {fid : Nat} {r : SplitRec} (pc next : W64) (lanes : Lanes) (cause : BitVec 5) (dst : BitVec 8)
    (hr : c.rec? fid = some r) :
    (c.trapped fid pc next lanes cause dst).rec? fid = some { r with pc := c.utvec &&& 0x00FFFFFFFFFFFFFF } := Ctx.rec?_setPc _ hr

theorem State.userTrap_taken {s : State} {a : Agent} {c : Ctx} (fid : Nat) (pc next : W64) (lanes : Lanes) (cause : BitVec 5)
    (dst : BitVec 8) (precise : Bool) (hc : s.ctx? a = some c) (hu : c.utact = false) :
    s.userTrap a fid pc next lanes cause dst precise = s.setCtx a (c.trapped fid pc next lanes cause dst) := by
  simp only [State.userTrap, hc, hu]; rfl

/-- With UTACT already 1 a user trap is the system fault UT_NEST (R388). -/
theorem State.userTrap_nested {s : State} {a : Agent} {c : Ctx} {fid : Nat} {r : SplitRec} (pc next : W64) (lanes : Lanes)
    (cause : BitVec 5) (dst : BitVec 8) (precise : Bool) (hc : s.ctx? a = some c) (hu : c.utact = true) (hr : c.rec? fid = some r) :
    s.userTrap a fid pc next lanes cause dst precise = s.stopWave a
      { code := Code.utNest, prec := precise, addr := 0, mask := r.mask, pc := pc, meld := r.meld, posted := false, silent := false } := by
  simp only [State.userTrap, hc, hu, hr]; rfl

/-- A context that stops with a system fault (R390). -/
def Ctx.stopped (c : Ctx) (status : Bool) (st : Stop) : Ctx :=
  let c := c.giveUp status
  { c with stop := some st, lastCode := st.code, single := false, guard := if st.code = Code.guardTouch && !st.prec then none else c.guard }

theorem State.ctx?_stopWave {s : State} {a : Agent} {c : Ctx} (st : Stop) (hc : s.ctx? a = some c) :
    (s.stopWave a st).ctx? a = some (c.stopped (s.onStatus c) st) := by
  have hw : ({ s with waiters := s.waiters.filter (fun w => w.agent ≠ a) } : State).ctx? a = some c := hc
  simp only [State.stopWave, hw]
  rw [State.ctx?_mapCtx_some _ ((State.ctx?_mapTeam _ _ _ _).trans hw), hc]
  rfl

section
variable (c : Ctx) (status : Bool)

@[simp] theorem Ctx.giveUp_s : (c.giveUp status).s = c.s := by unfold Ctx.giveUp; split <;> rfl
@[simp] theorem Ctx.giveUp_k : (c.giveUp status).k = c.k := by unfold Ctx.giveUp; split <;> rfl
@[simp] theorem Ctx.giveUp_v : (c.giveUp status).v = c.v := by unfold Ctx.giveUp; split <;> rfl
@[simp] theorem Ctx.giveUp_flags : (c.giveUp status).flags = c.flags := by unfold Ctx.giveUp; split <;> rfl
@[simp] theorem Ctx.giveUp_split : (c.giveUp status).split = c.split := by unfold Ctx.giveUp; split <;> rfl

end

/-- A single step ends only where one is under way (R402). -/
theorem Ctx.stepDone_of_not_single {c : Ctx} (i : Nat) (h : c.single = false) : c.stepDone i = c := by
  simp [Ctx.stepDone, h]

/-! ## The completion of an f-class instruction -/

/-- The registers of a context are those of another, and its flags those of the other with some raised. -/
def Ctx.Raised (c : Ctx) (fl : List (Nat × BitVec 5)) (k : Ctx) : Prop :=
  k.s = c.s ∧ k.k = c.k ∧ k.v = c.v ∧ k.flags = (c.raiseAll fl).flags

/-- What a user trap records of an instruction (R386). -/
def Ctx.TrapTaken (k : Ctx) (is : Iss) (lanes : Lanes) (cause : BitVec 5) (dst : BitVec 8) : Prop :=
  k.utact = true ∧ k.utpc = is.pc ∧ k.utnext = is.pc + BitVec.ofNat 64 is.len ∧ k.utlanes = lanes ∧ k.utcause = cause ∧ k.utdst = dst ∧
    k.utfrag = is.fid

section
variable {s : State} {is : Iss} {c : Ctx} (dst : BitVec 8) {fl : List (Nat × BitVec 5)}

/-- The flags, the next PC, and then the user trap where a lane raised an enabled flag. -/
theorem State.finishFloat_eq :
    s.finishFloat is dst fl =
      if (enabled is.c.fpen fl).1 = 0 then (s.upd is (·.raiseAll fl)).advance is
      else ((s.upd is (·.raiseAll fl)).advance is).userTrap is.a is.fid is.pc (is.pc + BitVec.ofNat 64 is.len)
        (enabled is.c.fpen fl).1 (enabled is.c.fpen fl).2 dst false := rfl

@[simp] theorem State.finishFloat_outer (s : State) (is : Iss) (dst : BitVec 8) (fl : List (Nat × BitVec 5)) :
    (s.finishFloat is dst fl).outer = s.outer := by
  have hdone : ((s.upd is (·.raiseAll fl)).advance is).outer = s.outer := by simp [State.upd]
  rw [State.finishFloat_eq]
  split
  · exact hdone
  · rw [State.userTrap_outer, hdone]

/-- The context of an operation that has completed, its flags raised and its PC behind the instruction. -/
def Ctx.finished (c : Ctx) (is : Iss) (fl : List (Nat × BitVec 5)) : Ctx :=
  (c.raiseAll fl).setPc is.fid (is.pc + BitVec.ofNat 64 is.len)

theorem State.ctx?_finished (hc : s.ctx? is.a = some c) :
    ((s.upd is (·.raiseAll fl)).advance is).ctx? is.a = some (c.finished is fl) :=
  State.ctx?_mapCtx_some _ (State.ctx?_mapCtx_some _ hc)

theorem Ctx.finished_rec (hr : c.rec? is.fid = some is.fr) : (c.finished is fl).rec? is.fid = some { is.fr with pc := is.next } :=
  Ctx.rec?_setPc _ ((Ctx.rec?_congr (Ctx.raiseAll_split c fl) _).trans hr)

/-- Where no passing thread has raised an enabled flag, the instruction completes and the wave moves on. -/
theorem State.finishFloat_quiet {pm : Perm} {h : Hdr} {len : Nat} {u : Uses} {f : Ctx → Ctx} (r : s.ready pm h len u = some is)
    (hf : (f is.c).split = is.c.split) (h0 : (enabled is.c.fpen fl).1 = 0) :
    ∃ k, MovesOn s (((s.upd is f).finishFloat is dst fl).afterIssue is) is k ∧ (f is.c).Raised fl k ∧
      (((s.upd is f).finishFloat is dst fl).afterIssue is).rest = s.rest := by
  rw [State.finishFloat_eq, if_pos h0]
  have hother : ∀ b, ctxKey b ≠ ctxKey is.a → ((s.upd is f).upd is (·.raiseAll fl)).ctx? b = s.ctx? b := fun b hb =>
    (State.ctx?_mapCtx_ne _ _ _ _ hb).trans (State.ctx?_mapCtx_ne _ _ _ _ hb)
  have hctx := State.ctx?_mapCtx_some (·.raiseAll fl) (State.ctx?_mapCtx_some f (State.ready_ctx r))
  exact ⟨_, movesOn r hctx ((Ctx.raiseAll_split _ _).trans hf) hother, ⟨by simp, by simp, by simp, by simp⟩,
    (State.retire_rest _ _).trans ((State.mapCtx_rest _ _ _).trans (State.mapCtx_rest _ _ _))⟩

variable (hc : s.ctx? is.a = some c) (hr : c.rec? is.fid = some is.fr) (hl : (enabled is.c.fpen fl).1 ≠ 0)
include hc hr hl

/-- Where a passing thread has raised an enabled flag, the wave takes the user trap once the instruction has completed. -/
theorem State.finishFloat_trap (hu : c.utact = false) :
    ∃ k, ((s.finishFloat is dst fl).afterIssue is).ctx? is.a = some k ∧ c.Raised fl k ∧
      k.TrapTaken is (enabled is.c.fpen fl).1 (enabled is.c.fpen fl).2 dst ∧
      k.rec? is.fid = some { is.fr with pc := c.utvec &&& 0x00FFFFFFFFFFFFFF } := by
  have hdone := State.ctx?_finished (fl := fl) hc
  have hact : (c.finished is fl).utact = false := by rw [Ctx.finished, Ctx.setPc_utact, Ctx.raiseAll_utact, hu]
  rw [State.finishFloat_eq, if_neg hl, State.userTrap_taken _ _ _ _ _ _ _ hdone hact]
  refine ⟨_, State.ctx?_afterIssue (State.ctx?_setCtx_same _ _ _), ?_, ?_, ?_⟩
  · simp [Ctx.Raised, Ctx.issued, Ctx.trapped, Ctx.finished]
  · simp [Ctx.TrapTaken, Ctx.issued, Ctx.trapped]
  · rw [Ctx.issued_rec, Ctx.trapped_rec _ _ _ _ _ (Ctx.finished_rec hr), Ctx.finished, Ctx.setPc_utvec, Ctx.raiseAll_utvec]

/-- With UTACT = 1 it stops with UT_NEST instead, behind the instruction. -/
theorem State.finishFloat_nested (hu : c.utact = true) :
    ∃ k st, ((s.finishFloat is dst fl).afterIssue is).ctx? is.a = some k ∧ c.Raised fl k ∧ k.stop = some st ∧
      st.code = Code.utNest ∧ st.prec = false ∧ st.pc = is.pc ∧ k.rec? is.fid = some { is.fr with pc := is.next } := by
  have hdone := State.ctx?_finished (fl := fl) hc
  have hact : (c.finished is fl).utact = true := by rw [Ctx.finished, Ctx.setPc_utact, Ctx.raiseAll_utact, hu]
  rw [State.finishFloat_eq, if_neg hl, State.userTrap_nested _ _ _ _ _ _ hdone hact (Ctx.finished_rec hr)]
  have hstop (k : Ctx) (status : Bool) (st : Stop) : ((k.stopped status st).issued is).stop = some st := by
    rw [Ctx.issued, Ctx.stepDone_of_not_single _ rfl]; rfl
  refine ⟨_, _, State.ctx?_afterIssue (State.ctx?_stopWave _ hdone), ?_, hstop _ _ _, rfl, rfl, rfl, ?_⟩
  · simp [Ctx.Raised, Ctx.issued, Ctx.stopped, Ctx.finished]
  · rw [Ctx.issued_rec, ← Ctx.finished_rec hr]
    exact Ctx.rec?_congr (Ctx.giveUp_split _ _) _

end

/-! ## f.cmp -/

/-- The outcome of f.cmp in a lane, and the flags that it raises. -/
def Iss.fOutcome (is : Iss) (t : TField) (a b : RegNo) (cond : BitVec 4) (l : Nat) : Bool × BitVec 5 :=
  t.ty.fmt.cmp cond.toNat (is.vw t.ty.is64 a l) (is.vw t.ty.is64 b l)

/-- f.cmp writes a mask register and then completes with the flags of the comparisons. -/
theorem exec_fCmp (h : Hdr) (sub : BitVec 2) (t : TField) (d a b : RegNo) (cond : BitVec 4) (s : State) :
    exec (.fCmp h sub t d a b cond) s = issueRaw .wave h 8 { rd := [.v a t.ty.regs, .v b t.ty.regs], wr := [.k d] } s
      (fun is s => pure ((s.wrK is d (is.compared sub d (fun l => (is.fOutcome t a b cond l).1))).finishFloat is d
        (is.laneFlags (fun l => (is.fOutcome t a b cond l).2)))) := by
  have hhits (is : Iss) : ((is.p.list.map (fun l => (l, is.fOutcome t a b cond l))).filter (fun e => e.2.1)).map (·.1) =
      is.p.list.filter (fun l => (is.fOutcome t a b cond l).1) := by
    rw [List.filter_map, List.map_map]
    exact List.map_id _
  have hflags (is : Iss) : (is.p.list.map (fun l => (l, is.fOutcome t a b cond l))).map (fun e => (e.1, e.2.2)) =
      is.laneFlags (fun l => (is.fOutcome t a b cond l).2) := List.map_map
  show issueRaw .wave h 8 _ s (fun is s => pure ((s.wrK is d (cmpMask sub (is.c.kget d.toNat) is.p
    (lanesOf (((is.p.list.map (fun l => (l, is.fOutcome t a b cond l))).filter (fun e => e.2.1)).map (·.1))))).finishFloat is d
    ((is.p.list.map (fun l => (l, is.fOutcome t a b cond l))).map (fun e => (e.1, e.2.2))))) = _
  simp only [hhits, hflags]
  rfl

/-- The issuing context with the mask that f.cmp writes. -/
def Ctx.fCompared (c : Ctx) (is : Iss) (sub : BitVec 2) (t : TField) (d a b : RegNo) (cond : BitVec 4) : Ctx :=
  c.kset d.toNat (is.compared sub d (fun l => (is.fOutcome t a b cond l).1))

section
variable (c : Ctx) (is : Iss) (sub : BitVec 2) (t : TField) (d a b : RegNo) (cond : BitVec 4)

@[simp] theorem Ctx.fCompared_s : (c.fCompared is sub t d a b cond).s = c.s := Ctx.kset_s _ _ _
@[simp] theorem Ctx.fCompared_v : (c.fCompared is sub t d a b cond).v = c.v := Ctx.kset_v _ _ _
@[simp] theorem Ctx.fCompared_flags : (c.fCompared is sub t d a b cond).flags = c.flags := Ctx.kset_flags _ _ _
@[simp] theorem Ctx.fCompared_split : (c.fCompared is sub t d a b cond).split = c.split := Ctx.kset_split _ _ _
@[simp] theorem Ctx.fCompared_utact : (c.fCompared is sub t d a b cond).utact = c.utact := Ctx.kset_utact _ _ _
@[simp] theorem Ctx.fCompared_utvec : (c.fCompared is sub t d a b cond).utvec = c.utvec := Ctx.kset_utvec _ _ _

end

theorem exec_fCmp_ready {s : State} {is : Iss} {h : Hdr} (sub : BitVec 2) {t : TField} {d a b : RegNo} (cond : BitVec 4)
    (hr : s.ready .wave h 8 { rd := [.v a t.ty.regs, .v b t.ty.regs], wr := [.k d] } = some is) :
    exec (.fCmp h sub t d a b cond) s = .next (((s.upd is (·.fCompared is sub t d a b cond)).finishFloat is d
      (is.laneFlags (fun l => (is.fOutcome t a b cond l).2))).afterIssue is) := by
  rw [exec_fCmp, issueRaw_ready hr rfl, State.wrK_wave _ _ (State.ready_isStoker hr rfl)]; rfl

/-- Settles O14: f.cls is a per-thread result; f.cmp changes kD of the issuing context and completes as every f-class instruction does,
with the flags of its comparisons. -/
theorem floatForms : Obligations.FloatForms := by
  refine ⟨fun s is h t d a hr => ?_, fun s is h sub t d a b cond hr => ?_⟩
  · obtain ⟨u, c, hx, hm, hv, -, hs, hk, hf, hcrest, hrest, -⟩ :=
      vectorOp_spec (wide := false) (fun is l => t.ty.fmt.cls (is.vw t.ty.is64 a l)) hr
    exact ⟨u, c, hx, hm, hv, hs, hk, hf, hcrest, hrest⟩
  · intro r hit wrote
    obtain ⟨view, -, -⟩ := State.ready_view hr
    obtain ⟨-, hctx, -, hrec, -⟩ := State.iss?_view view
    have hx := exec_fCmp_ready sub cond hr
    have hc := State.ctx?_mapCtx_some (·.fCompared is sub t d a b cond) hctx
    have hcrec : (is.c.fCompared is sub t d a b cond).rec? is.fid = some is.fr :=
      (Ctx.rec?_congr (by simp) _).trans hrec
    have hno := is.enabled_eq_zero (fun l => (r l).2)
    have htraps : (∃ l, hit l) → (enabled is.c.fpen (is.laneFlags (fun l => (r l).2))).1 ≠ 0 := fun ⟨l, hl⟩ h0 => hno.mp h0 l hl
    have hmem : (((s.upd is (·.fCompared is sub t d a b cond)).finishFloat is d (is.laneFlags (fun l => (r l).2))).afterIssue is).mem =
        s.mem := State.outer_mem (by simp [State.upd])
    have hwrote : ∀ k, (is.c.fCompared is sub t d a b cond).Raised (is.laneFlags (fun l => (r l).2)) k → wrote k := by
      rintro k ⟨hs, hk, hv, hflags⟩
      obtain ⟨hother, hbits⟩ := Iss.compared_spec hk
      refine ⟨hother, hbits, fun l hl => ?_, fun n _ => Ctx.sget_congr (hs.trans (by simp)) n,
        fun n l => Ctx.vget_congr (hv.trans (by simp)) n l⟩
      rw [Ctx.flag_congr hflags, is.flag_raiseAll _ _ hl, Ctx.flag_congr (Ctx.fCompared_flags ..)]
    refine ⟨fun hnone => ?_, fun hsome hu => ?_, fun hsome hu => ?_⟩
    · obtain ⟨k, hm, hraised, hrest⟩ := State.finishFloat_quiet (f := (·.fCompared is sub t d a b cond)) d hr (by simp) (hno.mpr hnone)
      exact ⟨_, k, hx, hm, hwrote k hraised, hrest⟩
    · obtain ⟨k, hk, hraised, ⟨hact, hpc, hnext, hlanes, -, hdst, -⟩, hkrec⟩ :=
        State.finishFloat_trap d hc hcrec (htraps hsome) (by simpa using hu)
      refine ⟨_, k, hx, hk, hwrote k hraised, hact, hpc, hnext, fun l hl => ?_, hdst, hkrec.trans ?_, hmem⟩
      · rw [hlanes, is.getLsbD_enabled _ hl]
        exact (and_iff_right hl).symm
      · rw [Ctx.fCompared_utvec]
    · obtain ⟨k, st, hk, hraised, hstop, hcode, hprec, hpc, hkrec⟩ :=
        State.finishFloat_nested d hc hcrec (htraps hsome) (by simpa using hu)
      exact ⟨_, k, st, hx, hk, hwrote k hraised, hstop, hcode, hprec, hpc, hkrec, hmem⟩

end Sys2Proof.Machine

/-! SUPPORT. The cross-lane instructions (R97, R226 to R232). An x.shfl of a 64-bit type with its offsets in vB takes them from vB[31:0]
(R228), and the statement lists vB alone among what it reads; the model's issue reads the pair at vB. A wave whose failed load names the
odd register of that pair is ready in the statement's sense, and stops in the model (R97). -/

namespace Sys2Proof.Machine

/-- A load into v5 of thread 0 that has failed. -/
def failedLoad : Pend :=
  { id := 0, ctr := .ldc, pc := 56, writes := [{ reg := .v 5 0, val := none }], reqs := [], acq := none, flags := [], trap := none
    fail := some { code := Code.xlate, lanes := 1, addr := 0, prec := false, meld := false }
    tile := none, rope := none, bcast := none, nf := none, meld := false, fwd := false }

/-- The fragment of a wave of one thread at PC 64. -/
def shflFragment : SplitRec := { st := .ready, bsel := 0, meld := false, rj := 15, pc := 64, mask := 1, age := 0 }

/-- The wave, its failed load outstanding in LDC. -/
def shflWave : Ctx := { Ctx.init with team := 1, split := [(0, shflFragment)], ldc := 1, pend := [failedLoad] }

/-- The module with this wave alone. -/
def shflState : State := { State.reset with mem := [], ctxs := [(0, shflWave)], teams := [], cur := .slot 0 0, frag := 0 }

/-- A header without modifiers. -/
def plainHdr : Hdr := { pk := false, md := false, kn := false, kp := 0 }

/-- x.shfl.idx of i64 from the pair at v0 to the pair at v2, its offsets in v4. -/
def shfl64 : Instr := .xShfl plainHdr 0 { ty := .i64, rnd := .rn, sr := false, sat := false } 2 0 (.reg 4)

/-- Its form in the statement. -/
def shflForm : VForm := { h := plainHdr, len := 8, wide := true, rd := [.x 0 2, .v 4 1], d := 2 }

/-- What it sees at issue. -/
def shflIss : Iss :=
  { a := .slot 0 0, c := shflWave, fid := 0, fr := shflFragment, p := 1, h := plainHdr, len := 8, tick := shflState.tick }

/-- The statement's hypotheses are met: nothing that it says x.shfl reads is the target of the failed load. -/
theorem shfl64_ready : shflState.ready .wave shflForm.h shflForm.len shflForm.uses = some shflIss := by decide +kernel

/-- The model's check reads v5 too, and finds the failed load. -/
theorem shfl64_check : shflIss.check .wave { rd := [.x 0 2, .v 4 2], wr := [.v 2 2] } = .error (.failed 0) := rfl

/-- So the wave stops. -/
theorem exec_shfl64 : exec shfl64 shflState = .next (shflState.except shflIss (.failed 0)) := by
  obtain ⟨hview, -, -⟩ := State.ready_view shfl64_ready
  show execXShfl plainHdr 0 _ 2 0 (.reg 4) shflState = _
  unfold execXShfl issue
  exact issueRaw_check hview shfl64_check

/-- Nothing is outstanding any more. -/
theorem shfl64_pend : ((shflState.except shflIss (.failed 0)).ctx? shflIss.a).map (·.pend) = some [] := by decide +kernel

/-- Refutes O16: where the odd register of the pair at vB is the target of a failed load, x.shfl of i64 stops the wave and enters no
result, though it is ready by the registers that the statement says it reads. -/
theorem not_crossLane : ¬ Obligations.CrossLane := by
  rintro ⟨⟨hvector, -⟩, -⟩
  obtain ⟨t, hx, c, hm, -, hpend, -⟩ := hvector shfl64 shflState shflIss shflForm rfl shfl64_ready (by decide)
  have ht : t = shflState.except shflIss (.failed 0) := Host.Outcome.next.inj (hx.symm.trans exec_shfl64)
  obtain ⟨hctx, -⟩ := hm
  have hnone : c.pend = [] := by simpa [← ht, hctx] using shfl64_pend
  simp [hnone] at hpend

end Sys2Proof.Machine

/-! SUPPORT. User traps and the plain control instructions (R25, R38, R344, R345, R348 to R351, R387): what follows an issue that leaves
the fragment elsewhere or the wave stopped, b.trap and b.tret, and then PAD4, b.nop, b.dbg, b.meld, b.unmeld and b.mtab. -/

namespace Sys2Proof.Machine

/-! ## What follows an issue, continued -/

/-- A check at the head of a body: the rest of the body, or the fault. -/
theorem require_bind {α : Type} (b : Bool) (e : Exc) (k : Unit → Res α) :
    (require b e >>= k) = if b then k () else .error e := by cases b <;> rfl

section
variable {c d : Ctx} (is : Iss)

theorem Ctx.sameS_issued (h : d.s = c.s) : SameS c (d.issued is) [] := fun n _ => (Ctx.issued_sget d is n).trans (Ctx.sget_congr h n)
theorem Ctx.sameK_issued (h : d.k = c.k) : SameK c (d.issued is) [] := fun n _ => (Ctx.issued_kget d is n).trans (Ctx.kget_congr h n)
theorem Ctx.sameV_issued (h : d.v = c.v) : SameV c (d.issued is) := fun n l => (Ctx.issued_vget d is n l).trans (Ctx.vget_congr h n l)
theorem Ctx.sameF_issued (h : d.flags = c.flags) : SameF c (d.issued is) :=
  fun l => (Ctx.issued_flag d is l).trans (Ctx.flag_congr h l)

@[simp] theorem Ctx.issued_split : (c.issued is).split = c.split := Ctx.stepDone_split _ _
@[simp] theorem Ctx.issued_utact : (c.issued is).utact = c.utact := Ctx.stepDone_utact _ _

/-- A wave that its instruction has stopped stays stopped as it is: a single step ends no second time (R402). -/
theorem Ctx.issued_stop {st : Stop} (h : c.stop = some st) : (c.issued is).stop = some st := by
  simp [Ctx.issued, Ctx.stepDone, h]

/-- Moving on is the next PC, and then what follows every issue. -/
theorem Ctx.moved_eq_issued : c.moved is = (c.setPc is.fid (is.pc + BitVec.ofNat 64 is.len)).issued is := rfl

theorem Ctx.moved_stop {st : Stop} (h : c.stop = some st) : (c.moved is).stop = some st := by
  rw [Ctx.moved_eq_issued]
  exact Ctx.issued_stop is ((Ctx.setPc_stop _ _ _).trans h)

@[simp] theorem Ctx.moved_paths : (c.moved is).paths = c.paths := by simp [Ctx.moved]
@[simp] theorem Ctx.moved_mtab : (c.moved is).mtab = c.mtab := by simp [Ctx.moved]

/-- Moving on changes nothing of the fragment's record but its PC, whatever the body has left there. -/
theorem Ctx.moved_rec_written {r : SplitRec} (h : c.rec? is.fid = some r) : (c.moved is).rec? is.fid = some { r with pc := is.next } := by
  rw [Ctx.moved_eq_issued, Ctx.issued_rec]
  exact Ctx.rec?_setPc _ h

end

section
variable (c : Ctx) (status : Bool) (st : Stop)

@[simp] theorem Ctx.stopped_s : (c.stopped status st).s = c.s := Ctx.giveUp_s _ _
@[simp] theorem Ctx.stopped_split : (c.stopped status st).split = c.split := Ctx.giveUp_split _ _
@[simp] theorem Ctx.stopped_stop : (c.stopped status st).stop = some st := rfl

end

/-! ## b.trap (R350, R386, R388) -/

section
variable (c : Ctx) (fid : Nat) (pc next : W64) (lanes : Lanes) (cause : BitVec 5) (dst : BitVec 8)

@[simp] theorem Ctx.trapped_s : (c.trapped fid pc next lanes cause dst).s = c.s := Ctx.setPc_s _ _ _
@[simp] theorem Ctx.trapped_k : (c.trapped fid pc next lanes cause dst).k = c.k := Ctx.setPc_k _ _ _
@[simp] theorem Ctx.trapped_v : (c.trapped fid pc next lanes cause dst).v = c.v := Ctx.setPc_v _ _ _
@[simp] theorem Ctx.trapped_flags : (c.trapped fid pc next lanes cause dst).flags = c.flags := Ctx.setPc_flags _ _ _

end

/-- What the issuing context records of a user trap that it has taken. -/
theorem Ctx.trapTaken_issued (c : Ctx) (is : Iss) (lanes : Lanes) (cause : BitVec 5) (dst : BitVec 8) :
    ((c.trapped is.fid is.pc (is.pc + BitVec.ofNat 64 is.len) lanes cause dst).issued is).TrapTaken is lanes cause dst := by
  simp [Ctx.TrapTaken, Ctx.issued, Ctx.trapped]

theorem exec_bTrap (code : BitVec 8) {h : Hdr} {s : State} {is : Iss} (hr : s.ready .wave h 8 { rd := [], wr := [] } = some is) :
    exec (.bTrap h code) s = .next ((s.userTrap is.a is.fid is.pc (is.pc + 8) is.p 0 code true).afterIssue is) :=
  issueRaw_ready (body := fun is s => pure (s.userTrap is.a is.fid is.pc (is.pc + 8) is.p 0 code true)) hr rfl

/-! ## b.tret (R350, R387) -/

/-- A context that returns from its user trap. -/
def Ctx.trapReturned (c : Ctx) : Ctx := Ctx.setPc { c with utact := false } c.utfrag c.utnext

theorem State.trapReturn_eq (s : State) (a : Agent) : s.trapReturn a = s.mapCtx a Ctx.trapReturned := rfl

section
variable (c : Ctx)

@[simp] theorem Ctx.trapReturned_s : c.trapReturned.s = c.s := Ctx.setPc_s _ _ _
@[simp] theorem Ctx.trapReturned_k : c.trapReturned.k = c.k := Ctx.setPc_k _ _ _
@[simp] theorem Ctx.trapReturned_v : c.trapReturned.v = c.v := Ctx.setPc_v _ _ _
@[simp] theorem Ctx.trapReturned_flags : c.trapReturned.flags = c.flags := Ctx.setPc_flags _ _ _
@[simp] theorem Ctx.trapReturned_utact : c.trapReturned.utact = false := Ctx.setPc_utact _ _ _

theorem Ctx.trapReturned_rec {c : Ctx} {r : SplitRec} (h : c.rec? c.utfrag = some r) :
    c.trapReturned.rec? c.utfrag = some { r with pc := c.utnext &&& 0x00FFFFFFFFFFFFFF } := Ctx.rec?_setPc _ h

end

theorem exec_bTret (h : Hdr) (s : State) :
    exec (.bTret h) s = issueRaw .all h 8 { rd := [], wr := [] } s (fun is s =>
      if is.c.utact then .ok (s.mapCtx is.a Ctx.trapReturned) else .error (is.fault0 Code.iil)) := by
  show execBTret h s = _
  simp only [execBTret, require_bind, State.trapReturn_eq]; rfl

/-- In a handler only the fragment that trapped may issue. -/
theorem Ctx.utfrag_of_canIssue {c : Ctx} {fid : Nat} (hu : c.utact = true) (h : c.canIssue fid = true) : c.utfrag = fid := by
  simp only [Ctx.canIssue, Bool.and_eq_true, hu, Bool.not_true, Bool.false_or, beq_iff_eq] at h
  obtain ⟨⟨⟨-, hfrag⟩, -⟩, -⟩ := h
  exact hfrag

/-- Settles O6: b.trap takes the user trap in the issuing context or stops the wave with UT_NEST, b.tret returns in that context or
faults, and both leave all else as it is. -/
theorem userTraps : Obligations.UserTraps := by
  refine ⟨fun s is h code hr hu => ?_, fun s is h code hr hu => ?_, fun s is h hr hu => ?_, fun s is h hr hu => ?_,
    fun c fid hu hi => (Ctx.utfrag_of_canIssue hu hi).symm⟩
  · obtain ⟨hview, -, -⟩ := State.ready_view hr
    obtain ⟨-, hc, -, hrec, -, -, -, hlen, -⟩ := State.iss?_view hview
    have htaken := Ctx.trapTaken_issued is.c is is.p 0 code
    rw [Ctx.TrapTaken, hlen] at htaken
    obtain ⟨hact, hpc, hnext, hlanes, hcause, hdst, hfrag⟩ := htaken
    rw [exec_bTrap code hr, State.userTrap_taken _ _ _ _ _ _ _ hc hu]
    exact ⟨_, _, rfl, State.ctx?_afterIssue (State.ctx?_setCtx_same _ _ _), hpc, hnext, hlanes, hcause, hdst, hact, hfrag,
      (Ctx.issued_rec _ _ _).trans (Ctx.trapped_rec _ _ _ _ _ hrec), Ctx.sameS_issued is (by simp), Ctx.sameK_issued is (by simp),
      Ctx.sameV_issued is (by simp), Ctx.sameF_issued is (by simp), (State.afterIssue_rest _ _).trans (State.setCtx_rest _ _ _)⟩
  · obtain ⟨hview, -, -⟩ := State.ready_view hr
    obtain ⟨-, hc, -, hrec, -⟩ := State.iss?_view hview
    rw [exec_bTrap code hr, State.userTrap_nested _ _ _ _ _ _ hc hu hrec]
    exact ⟨_, _, _, rfl, State.ctx?_afterIssue (State.ctx?_stopWave _ hc), Ctx.issued_stop is (Ctx.stopped_stop _ _ _), rfl, rfl,
      Ctx.sameS_issued is (by simp), by simp⟩
  · rw [exec_bTret]
    have hc := State.ready_ctx hr
    exact ⟨_, _, issueRaw_ready hr (if_pos hu), State.ctx?_afterIssue (State.ctx?_mapCtx_some _ hc), by simp,
      fun r hf => (Ctx.issued_rec _ _ _).trans (Ctx.trapReturned_rec hf), Ctx.sameS_issued is (by simp), Ctx.sameK_issued is (by simp),
      Ctx.sameV_issued is (by simp), Ctx.sameF_issued is (by simp), (State.afterIssue_rest _ _).trans (State.mapCtx_rest _ _ _)⟩
  · rw [exec_bTret]
    exact issueRaw_error hr (if_neg (by simp [hu]))

/-! ## PAD4 (R25) -/

theorem execPad4_eq (s : State) {c : Ctx} {r : SplitRec} (hc : s.ctx? s.cur = some c) (hr : c.rec? s.frag = some r) :
    exec .pad4 s = .next (s.setCtx s.cur
      { c with split := c.split.put s.frag { r with pc := (r.pc + 4) &&& 0x00FFFFFFFFFFFFFF } }) := by
  show execPad4 s = _
  simp only [execPad4, State.mapCtx_some _ hc, Ctx.setPc, hr]

/-! ## Melded regions (R344, R345) -/

/-- A context whose fragment enters a melded region. -/
def Ctx.melded (c : Ctx) (is : Iss) (a b : RegNo) (base : BitVec 3) : Ctx :=
  { c with paths := meldPaths c.paths is.fr.mask (is.k a) (is.k b)
           split := c.split.put is.fid { is.fr with meld := true, bsel := base } }

/-- A context whose fragment leaves its melded region. -/
def Ctx.unmelded (c : Ctx) (is : Iss) : Ctx := { c with split := c.split.put is.fid { is.fr with meld := false } }

theorem Ctx.melded_rec (c : Ctx) (is : Iss) (a b : RegNo) (base : BitVec 3) :
    (c.melded is a b base).rec? is.fid = some { is.fr with meld := true, bsel := base } := AMap.find_put_same _ _ _

theorem Ctx.unmelded_rec (c : Ctx) (is : Iss) : (c.unmelded is).rec? is.fid = some { is.fr with meld := false } :=
  AMap.find_put_same _ _ _

theorem exec_bMeld (h : Hdr) (a b : RegNo) (base : BitVec 3) (s : State) :
    exec (.bMeld h a b base) s = issue { Perm.wave with noMeld := true } h 12 { rd := [.k a, .k b], wr := [] } s
      (fun is s => pure (s.upd is (·.melded is a b base))) := rfl

/-- What b.unmeld does once it is issued. -/
def State.unmeld (s : State) (is : Iss) : Res State := do
  require is.fr.meld (is.fault0 Code.iil)
  pure (s.upd is (·.unmelded is))

theorem State.unmeld_eq (s : State) (is : Iss) :
    s.unmeld is = if is.fr.meld then .ok (s.upd is (·.unmelded is)) else .error (is.fault0 Code.iil) := require_bind _ _ _

theorem exec_bUnmeld (h : Hdr) (s : State) :
    exec (.bUnmeld h) s = issue .all h 8 { rd := [], wr := [] } s (fun is s => s.unmeld is) := rfl

/-- An issue whose body changes the issuing context alone, the issuing fragment's record with it. -/
theorem issue_updRec {pm : Perm} {h : Hdr} {len : Nat} {u : Uses} {s : State} {is : Iss} {f : Ctx → Ctx} {fr : SplitRec}
    {body : Iss → State → Res State} (r : s.ready pm h len u = some is) (b : body is s = .ok (s.upd is f))
    (hf : (f is.c).rec? is.fid = some fr) :
    ∃ t, issue pm h len u s body = .next t ∧ t.ctx? is.a = some ((f is.c).moved is) ∧
      ((f is.c).moved is).rec? is.fid = some { fr with pc := is.next } ∧ t.rest = s.rest :=
  ⟨_, issue_ready r b, State.ctx?_retire (State.ctx?_mapCtx_some f (State.ready_ctx r)), Ctx.moved_rec_written is hf,
    (State.retire_rest _ _).trans (State.mapCtx_rest _ _ _)⟩

/-! ## b.mtab (R60, R348) -/

/-- Where nothing is under way that a memory instruction waits for, it does not wait (R79, R289). -/
theorem Iss.memReady_quiet {is : Iss} {s : State} (h : is.quiet s) : is.memReady s = .ok () := by
  obtain ⟨hacq, hso⟩ := h
  have hpend : is.c.pend.all (fun p => p.acq.isNone) = true := by simpa using hacq
  have hreqs : s.reqs.any (fun r => r.agent = is.a && r.typ = Arn.typSO) = false := by simpa using hso
  rw [Iss.memReady, hpend, hreqs]; rfl

/-- A context whose rename table is loaded. -/
def Ctx.tableLoaded (c : Ctx) (l : List Byte) : Ctx := { c with mtab := BitVec.ofNat 1024 (ofLe l) }

/-- What b.mtab does once it is issued: it reads the table's bytes, checks them, and loads them. -/
def State.loadTable (s : State) (is : Iss) (va : W64) : Res State := do
  is.memReady s
  let (l, stale, s) ← wholeWave (s.readRecord is va 128 128)
  require (l.all (fun b => b.toNat < is.c.nreg)) (is.fault0 Code.iil)
  pure ((s.upd is (·.tableLoaded l)).markStale is stale)

theorem exec_bMtab (h : Hdr) (sub : BitVec 2) (a : RegNo) (imm : BitVec 32) (s : State) :
    exec (.bMtab h sub a imm) s = issue .wave h 12 { rd := if sub = 0 then [.s a] else [], wr := [] } s
      (fun is s => s.loadTable is ((if sub = 0 then is.s a else is.pc) + imm.signExtend 64)) := rfl

section
variable {s s1 : State} {is : Iss} {va : W64} {l : List Byte} (hq : is.quiet s)
  (hread : s.readRecord is va 128 128 = .ok (l, false, s1))

include hq hread in
theorem State.loadTable_eq :
    s.loadTable is va =
      if l.all (fun b => b.toNat < is.c.nreg) then .ok (s1.upd is (·.tableLoaded l)) else .error (is.fault0 Code.iil) := by
  rw [State.loadTable, Iss.memReady_quiet hq, hread]
  exact require_bind _ _ _

include hread in
/-- A record read leaves every agent's context as it is. -/
theorem State.ctx?_readRecord (b : Agent) : s1.ctx? b = s.ctx? b :=
  State.ctx?_congr (congrArg State.ctxs (State.readRecord_spec hread)) b

end

/-! ## The statement -/

theorem exec_bNop (h : Hdr) (s : State) : exec (.bNop h) s = issue .all h 8 { rd := [], wr := [] } s (fun _ s => pure s) := rfl

/-- The stop of b.dbg (R351, R394). -/
def Iss.breakStop (is : Iss) (code : BitVec 8) : Stop :=
  { code := Code.brk, prec := false, addr := code.toNat, mask := is.fr.mask, pc := is.pc, meld := is.fr.meld, posted := false, silent := false }

theorem exec_bDbg (h : Hdr) (code : BitVec 8) (s : State) :
    exec (.bDbg h code) s = issue .all h 8 { rd := [], wr := [] } s (fun is s => pure (s.stopWave is.a (is.breakStop code))) := rfl

/-- Settles O7: PAD4 changes one PC; b.nop moves on; b.dbg stops the wave and moves on; b.meld, b.unmeld and b.mtab change the issuing
context alone, but for the link that the read of the table may use. -/
theorem plainControl : Obligations.PlainControl := by
  refine ⟨fun s c r hc hr => ?_, fun s is h hr => ?_, fun s is h code hr => ?_, fun s is h code hv hc hp => ?_,
    fun s is h a b base hr => ?_, fun s is h hr hm => ?_, fun s is h hr hm => ?_, fun s s1 is h sub a imm l hr hq hread hl => ?_,
    fun s s1 is h sub a imm l hr hq hread hl => ?_⟩
  · exact ⟨_, _, execPad4_eq s hc hr, State.ctx?_setCtx_same _ _ _, rfl, State.setCtx_rest _ _ _⟩
  · rw [exec_bNop]
    exact issue_ready hr rfl
  · rw [exec_bDbg]
    obtain ⟨hview, -, -⟩ := State.ready_view hr
    obtain ⟨-, hc, -, hrec, -⟩ := State.iss?_view hview
    exact ⟨_, _, is.breakStop code, issue_ready hr rfl, State.ctx?_retire (State.ctx?_stopWave _ hc),
      Ctx.moved_stop is (Ctx.stopped_stop _ _ _), rfl, rfl, rfl, rfl, Ctx.moved_rec (Ctx.stopped_split _ _ _) hrec,
      Ctx.sameS_moved is (Ctx.stopped_s _ _ _)⟩
  · rw [exec_bDbg]
    exact issueRaw_empty hv hc hp rfl
  · rw [exec_bMeld]
    obtain ⟨t, hx, hctx, hrec, hrest⟩ := issue_updRec (body := fun is s => pure (s.upd is (·.melded is a b base))) hr rfl
      (Ctx.melded_rec _ _ _ _ _)
    exact ⟨t, _, hx, hctx, hrec, Ctx.moved_paths is, Ctx.sameS_moved is rfl, Ctx.sameV_moved is rfl, hrest⟩
  · rw [exec_bUnmeld]
    obtain ⟨t, hx, hctx, hrec, hrest⟩ := issue_updRec (f := (·.unmelded is)) (body := fun is s => s.unmeld is) hr
      ((State.unmeld_eq s is).trans (if_pos hm)) (Ctx.unmelded_rec _ _)
    exact ⟨t, _, hx, hctx, hrec, Ctx.moved_paths is, Ctx.sameS_moved is rfl, Ctx.sameV_moved is rfl, hrest⟩
  · rw [exec_bUnmeld]
    exact issue_error hr ((State.unmeld_eq s is).trans (if_neg (by simp [hm])))
  · rw [exec_bMtab]
    have hc := State.ctx?_mapCtx_some (·.tableLoaded l) ((State.ctx?_readRecord hread is.a).trans (State.ready_ctx hr))
    exact ⟨_, _, issue_ready hr ((State.loadTable_eq hq hread).trans (if_pos hl)),
      movesOn hr hc rfl fun b hb => (State.ctx?_mapCtx_ne _ _ _ _ hb).trans (State.ctx?_readRecord hread b),
      Ctx.moved_mtab is, Ctx.sameS_moved is rfl, Ctx.sameK_moved is rfl, Ctx.sameV_moved is rfl, Ctx.sameF_moved is rfl,
      (State.retire_rest _ _).trans (State.mapCtx_rest _ _ _)⟩
  · rw [exec_bMtab]
    have hall : ¬ l.all (fun b => b.toNat < is.c.nreg) = true := by simpa using hl
    exact issue_error hr ((State.loadTable_eq hq hread).trans (if_neg hall))

end Sys2Proof.Machine

/-! SUPPORT. Decoding an encoded instruction (R27 to R35, R40, R41): a word gives back its fields, fields give back the operands that
are packed into them, and the operands name the instruction. -/

namespace Sys2Proof.Laws

/-! ## Fields and words -/

/-- The word of fields with the widths of its parts written out, in which each field is found part by part. -/
theorem Fields.word_eq_cast (f : Fields) : f.word = BitVec.cast (by decide)
    (f.x1 ++ f.x0 ++ f.t ++ f.c ++ f.b ++ f.a ++ f.d ++ BitVec.ofBool f.i ++ f.sub ++ BitVec.ofBool f.kn ++ f.kp ++ f.op
      ++ f.cls ++ BitVec.ofBool f.md ++ BitVec.ofBool f.pk ++ f.len) := rfl

/-- The fields of the word of fields are those fields (R23, R27, R28). -/
theorem Fields.ofWord_word (f : Fields) : Fields.ofWord f.word = f := by
  rw [Fields.word_eq_cast]
  cases f
  simp [-Nat.reduceAdd, -BitVec.cast_eq, -BitVec.getLsbD_eq_getElem, Fields.ofWord, BitVec.extractLsb'_append_eq_ite,
    BitVec.getLsbD_append]
  rfl

/-! ## Operands that a byte or a word holds -/

@[simp] theorem Ty.ofCode_code (t : Ty) : Ty.ofCode t.code = t := by cases t <;> rfl
@[simp] theorem Rnd.ofCode_code (r : Rnd) : Rnd.ofCode r.code = r := by cases r <;> rfl
@[simp] theorem TField.ofByte_byte (t : TField) : TField.ofByte t.byte = t := by
  cases t
  simp -index only [TField.ofByte, TField.byte, BitVec.extractLsb'_append_eq_ite, BitVec.getLsbD_append]
  simp
@[simp] theorem X1F.ofWord_word (x : X1F) : X1F.ofWord x.word = x := by
  cases x
  simp -index only [X1F.ofWord, X1F.word, BitVec.extractLsb'_append_eq_ite, BitVec.getLsbD_append]
  simp
@[simp] theorem CopyX.ofWord_word (x : CopyX) : CopyX.ofWord x.word = x := by
  cases x
  simp -index only [CopyX.ofWord, CopyX.word, BitVec.extractLsb'_append_eq_ite, BitVec.getLsbD_append]
  simp
@[simp] theorem CvstX.ofWords_words (x : CvstX) : CvstX.ofWords x.x0 x.x1 = x := by
  cases x
  simp -index only [CvstX.ofWords, CvstX.x0, CvstX.x1, BitVec.extractLsb'_append_eq_ite, BitVec.getLsbD_append]
  simp
@[simp] theorem RkX.ofWords_words (x : RkX) : RkX.ofWords x.x0 x.x1 = x := by
  cases x
  simp -index only [RkX.ofWords, RkX.x0, RkX.x1, BitVec.extractLsb'_append_eq_ite]
  simp

/-- The src operand is what its I bit and its bytes say (R31). -/
theorem Src.ofBytes_eq (s : Src) : (if s.isImm = true then .imm (s.cByte ++ s.bByte) else .reg s.bByte) = s := by
  cases s with
  | reg r => rfl
  | imm v =>
    have : (v.extractLsb' 8 8 ++ v.extractLsb' 0 8 : BitVec 16) = v.extractLsb' 0 16 :=
      BitVec.extractLsb'_append_extractLsb'_eq_extractLsb' rfl
    simpa [Src.isImm, Src.bByte, Src.cByte] using this

section
open BitVec

/-- An operand in the low bits of a byte, or of X0 or X1, whose other bits are zero. -/
theorem low6of8 (x : BitVec 6) : (0#2 ++ x : BitVec 8).extractLsb' 0 6 = x := extractLsb'_append_eq_right
theorem low4of8 (x : BitVec 4) : (0#4 ++ x : BitVec 8).extractLsb' 0 4 = x := extractLsb'_append_eq_right
theorem low3of8 (x : BitVec 3) : (0#5 ++ x : BitVec 8).extractLsb' 0 3 = x := extractLsb'_append_eq_right
theorem low3of32 (x : BitVec 3) : (0#29 ++ x : BitVec 32).extractLsb' 0 3 = x := extractLsb'_append_eq_right
theorem low4of32 (x : BitVec 4) : (0#28 ++ x : BitVec 32).extractLsb' 0 4 = x := extractLsb'_append_eq_right
theorem low5of32 (x : BitVec 5) : (0#27 ++ x : BitVec 32).extractLsb' 0 5 = x := extractLsb'_append_eq_right
theorem low8of32 (x : BitVec 8) : (0#24 ++ x : BitVec 32).extractLsb' 0 8 = x := extractLsb'_append_eq_right
theorem low16of32 (x : BitVec 16) : (0#16 ++ x : BitVec 32).extractLsb' 0 16 = x := extractLsb'_append_eq_right

theorem bit0of32 (x : Bool) : (0#31 ++ ofBool x : BitVec 32)[0] = x := by cases x <;> decide
/-- VADR alone, and VADR under SX, in SUB (R147). -/
theorem vadr_of_sub (v : Bool) : (0#1 ++ ofBool v : BitVec 2)[0] = v ∧ (0#1 ++ ofBool v : BitVec 2)[1] = false := by
  cases v <;> decide
theorem sx_vadr_of_sub (x v : Bool) : (ofBool x ++ ofBool v : BitVec 2)[0] = v ∧ (ofBool x ++ ofBool v : BitVec 2)[1] = x := by
  cases x <;> cases v <;> decide
/-- A rick and a priority in C (R264). -/
theorem rick_prio_of_c (p r : BitVec 2) :
    (0#4 ++ p ++ r : BitVec 8).extractLsb' 0 2 = r ∧ (0#4 ++ p ++ r : BitVec 8).extractLsb' 2 2 = p := by
  simp -index only [extractLsb'_append_eq_ite]
  simp
/-- The T byte of m.mma and m.mmt, and their X1 (R250). -/
theorem scales_of_t (z s : Bool) (b a : BitVec 3) :
    (ofBool z ++ ofBool s ++ b ++ a : BitVec 8)[7] = z ∧ (ofBool z ++ ofBool s ++ b ++ a : BitVec 8)[6] = s ∧
      (ofBool z ++ ofBool s ++ b ++ a : BitVec 8).extractLsb' 3 3 = b ∧ (ofBool z ++ ofBool s ++ b ++ a : BitVec 8).extractLsb' 0 3 = a := by
  simp -index only [extractLsb'_append_eq_ite, getElem_append]
  simp
theorem zero_of_t (z : Bool) : (ofBool z ++ 0#7 : BitVec 8)[7] = z := by
  simp -index only [getElem_append]
  simp
theorem post_of_x1 (b : Bool) (c : BitVec 3) (p : BitVec 2) :
    (0#26 ++ ofBool b ++ c ++ p : BitVec 32).extractLsb' 0 2 = p ∧ (0#26 ++ ofBool b ++ c ++ p : BitVec 32).extractLsb' 2 3 = c ∧
      (0#26 ++ ofBool b ++ c ++ p : BitVec 32)[5] = b := by
  simp -index only [extractLsb'_append_eq_ite, getElem_append]
  simp
/-- The place and the shape of m.ldacc and m.stacc (R250). -/
theorem place_of_x0 (s : BitVec 3) (c r : BitVec 7) :
    (0#13 ++ s ++ 0#1 ++ c ++ 0#1 ++ r : BitVec 32).extractLsb' 0 7 = r ∧ (0#13 ++ s ++ 0#1 ++ c ++ 0#1 ++ r : BitVec 32).extractLsb' 8 7 = c ∧
      (0#13 ++ s ++ 0#1 ++ c ++ 0#1 ++ r : BitVec 32).extractLsb' 16 3 = s := by
  simp -index only [extractLsb'_append_eq_ite]
  simp
theorem rows_cols_of_x0 (c r : BitVec 8) :
    (0#16 ++ c ++ r : BitVec 32).extractLsb' 0 8 = r ∧ (0#16 ++ c ++ r : BitVec 32).extractLsb' 8 8 = c := by
  simp -index only [extractLsb'_append_eq_ite]
  simp
/-- The attributes of c.anew (R82), and those of y.map (R103). -/
theorem attrs_of_x1 (q : BitVec 9) (z s : Bool) (t : BitVec 2) :
    (0#19 ++ q ++ ofBool z ++ ofBool s ++ t : BitVec 32).extractLsb' 4 9 = q ∧ (0#19 ++ q ++ ofBool z ++ ofBool s ++ t : BitVec 32)[3] = z ∧
      (0#19 ++ q ++ ofBool z ++ ofBool s ++ t : BitVec 32)[2] = s ∧ (0#19 ++ q ++ ofBool z ++ ofBool s ++ t : BitVec 32).extractLsb' 0 2 = t := by
  simp -index only [extractLsb'_append_eq_ite, getElem_append]
  simp
theorem leaf_of_x1 (l w : Bool) (s : BitVec 4) :
    (0#26 ++ ofBool l ++ ofBool w ++ s : BitVec 32).extractLsb' 0 4 = s ∧ (0#26 ++ ofBool l ++ ofBool w ++ s : BitVec 32)[4] = w ∧
      (0#26 ++ ofBool l ++ ofBool w ++ s : BitVec 32)[5] = l := by
  simp -index only [extractLsb'_append_eq_ite, getElem_append]
  simp
end

/-! ## Decoding -/

/-- The fields of a well-formed instruction name it: each instruction's fields lead to its own row of its class, whose operands are those
that the fields hold. Only c.ctenr shares its OP with another form and takes its SUB as an operand. -/
theorem parse_fields {i : Instr} {f : Fields} (w : i.wf = true) (h : i.fields = some f) : parse f = some i := by
  cases i
  case cCtenr h' sub d a b node =>
    cases h
    simp [Instr.wf] at w
    simp [Fields.base, Fields.hdr, parse, parseC, need, w, low16of32]
  all_goals cases h
  all_goals simp [Fields.base, Fields.hdr, Fields.src, Src.ofBytes_eq, parse, parseS, parseB, parseV, parseF, parseX, parseL, parseG,
    parseA, parseM, parseQ, parseE, parseKv, parseC, parseY, need, low6of8, low4of8, low3of8, low3of32, low4of32, low5of32, low8of32,
    low16of32, bit0of32, vadr_of_sub, sx_vadr_of_sub, rick_prio_of_c, scales_of_t, zero_of_t, post_of_x1, place_of_x0, rows_cols_of_x0,
    attrs_of_x1, leaf_of_x1]

/-- Every instruction has the length that its class lists for its operation (R27, R40). -/
theorem encodeFits (i : Instr) : EncodeFits.Statement i := by
  intro f h
  cases i
  all_goals cases h
  all_goals exact EncodeFits.of (by simp [Fields.base, lenCode]) rfl

/-- The word of a well-formed instruction passes the checks of R41 in their order, and its fields name the instruction. -/
theorem decode_word {i : Instr} {f : Fields} (pcLow : Nat) (w : i.wf = true) (h : i.fields = some f)
    (fits : pcLow % 32 + lenBytes f.len ≤ 32) : decode pcLow f.word = .ok i := by
  obtain ⟨hlen, hop⟩ := encodeFits i f h
  obtain ⟨ls, hls, hnb⟩ := Option.bind_eq_some_iff.mp hop
  unfold decode
  simp only [Fields.ofWord_word, beq_eq_false_iff_ne.mpr hlen, Nat.not_lt.mpr fits, hls, hnb, parse_fields w h, w, ne_eq, not_true_eq_false,
    Bool.false_eq_true, if_false, if_true]

/-- What the decoder accepts has passed the last check of R41, or is PAD4. -/
theorem decode_wf {i : Instr} {w : BitVec 128} {pcLow : Nat} (h : decode pcLow w = .ok i) : i.wf = true := by
  unfold decode at h
  dsimp only at h
  split at h
  · split at h
    · cases h; rfl
    · cases h
  · split at h
    · cases h
    · split at h
      · cases h
      · split at h
        · cases h
        · split at h
          · cases h
          · split at h
            · split at h
              · cases h; assumption
              · cases h
            · cases h

theorem decode_encode {i : Instr} {w : BitVec 128} {pcLow : Nat} (hw : i.wf = true) (he : encode i = some w)
    (hfits : pcLow % 32 + i.bytes ≤ 32) : decode pcLow w = .ok i := by
  unfold encode at he
  by_cases hp : i = .pad4
  · subst hp
    rw [if_pos rfl] at he
    cases he
    rfl
  · rw [if_neg hp] at he
    obtain ⟨f, hf, rfl⟩ := Option.map_eq_some_iff.mp he
    refine decode_word pcLow hw hf ?_
    simpa [Instr.bytes, hp, hf] using hfits

/-- Settles O60: the fields of an instruction survive the way through its word, and name the instruction. -/
theorem decodeEncode : Obligations.DecodeEncode := ⟨fun _ _ _ => decode_encode, fun _ _ _ => decode_wf⟩
end Sys2Proof.Laws

/-! SUPPORT. Closed facts: the words that the chapters' encodings give, and what the start leaves (R446, R447). -/

namespace Sys2Proof

/-- A key that no entry of a map has is not found in it. -/
theorem AMap.find_eq_none_of_ne {β : Type} {m : AMap β} {j : Nat} (h : ∀ e ∈ m, e.1 ≠ j) : m.find j = none := by
  induction m with
  | nil => rfl
  | cons e m ih =>
    obtain ⟨k, v⟩ := e
    have hk : j ≠ k := fun x => h (k, v) (by simp) x.symm
    simp only [AMap.find, if_neg hk]
    exact ih fun e he => h e (by simp [he])

end Sys2Proof

namespace Sys2Proof.Machine

/-- Settles O59: each word's fields are found, and name its instruction, by computation. -/
theorem decodeWords : Obligations.DecodeWords := by
  refine ⟨?_, ?_, ?_, ?_, ?_, ?_, ?_, ?_, ?_, ?_, ?_, ?_, ?_, ?_, ?_, ?_, ?_⟩
  all_goals rfl

/-- The root task's registers above s2 are zero (R354). -/
theorem rootCtx_sget {n : Nat} (h : 3 ≤ n) (t p : Nat) (live : BitVec 24) : (rootCtx t p live).sget n = 0 := by
  have hn : AMap.find (rootCtx t p live).s n = none := by
    refine AMap.find_eq_none_of_ne fun e he => ?_
    have := List.mem_of_mem_filter he
    simp only [List.mem_cons, List.not_mem_nil, or_false] at this
    rcases this with rfl | rfl | rfl <;> simp <;> omega
  unfold Ctx.sget AMap.get
  rw [hn]
  split <;> rfl

/-- A fresh wave has record 0 alone (R333). -/
theorem splitInit_find {j : Nat} (hj : j ≠ 0) (pc : W64) (mask : Lanes) : AMap.find (splitInit pc mask) j = none :=
  AMap.find_eq_none_of_ne (by simpa [splitInit] using hj.symm)

/-- The arenas of a partition's root state stand as at reset: arena 1 live and every other free (R76). -/
theorem Part.init_arena (live : BitVec 24) (d id : Nat) : (Part.init live d).arena id = Arena.init id := by
  by_cases h : id = 1
  · subst h; rfl
  · have : (Part.init live d).arenas.find id = none := AMap.find_eq_none_of_ne (by simpa [Part.init] using Ne.symm h)
    simp [Part.arena, this]

/-- Settles O58: the root task's registers, records and translations, the hearth waves' contexts, and the arenas, each read off the
state of reset. -/
theorem resetState : Obligations.ResetState := by
  have hmem : State.reset.mem.wf = true := by decide +kernel
  refine ⟨hmem, rfl, rfl, rfl, ⟨_, _, rfl, rfl, rfl, rfl, rfl, by decide +kernel, by decide +kernel, by decide +kernel, ?_, ?_, ?_, rfl,
    ?_, by decide +kernel⟩, ?_, ?_, by decide +kernel, by decide +kernel⟩
  · exact fun n h => rootCtx_sget h _ _ _
  · exact fun n h => if_neg (by omega)
  · exact fun n l => rfl
  · exact fun j hj => splitInit_find hj _ _
  · decide +kernel
  · exact fun id => Part.init_arena _ _ id

end Sys2Proof.Machine

/-! SUPPORT. Special registers (R197, R211, R414). -/

namespace Sys2Proof.Machine

/-- A special register's value is a matter of the machine without its contexts, and of the agent's own flags and special registers. -/
theorem State.readSr_congr {s t : State} (a : Agent) {c d : Ctx} (e : Nat) (ht : t.rest = s.rest) (hs : d.rest = c.rest)
    (hf : d.flags = c.flags) : t.readSr a d e = s.readSr a c e := by
  have own (s : State) (c : Ctx) : s.readSr a c e = s.rest.readSr a { c.rest with flags := c.flags } e := rfl
  rw [own, ht, hs, hf, ← own]

/-- The writable special registers and their bits. -/
theorem srMask_cases {n : Nat} {m : W64} (h : srMask n = some m) :
    (n = 8 ∧ m = 0x1F) ∨ (n = 9 ∧ m = 7) ∨ (n = 10 ∧ m = 0x00FFFFFFFFFFFFFC) ∨ (n = 11 ∧ m = 0x00FFFFFFFFFFFFFC) ∨
      (n = 12 ∧ m = 0x00FFFFFFFFFFFFFC) ∨ (n = 13 ∧ m = BitVec.allOnes 64) ∨ (n = 14 ∧ m = 0x1F) ∨ (n = 15 ∧ m = 0xFF) ∨
      (n = 17 ∧ m = BitVec.allOnes 64) ∨ (n = 18 ∧ m = BitVec.allOnes 64) ∨ (n = 22 ∧ m = 1) ∨ (n = 23 ∧ m = 1) := by
  unfold srMask at h
  split at h <;> simp_all

/-- The low bits of a word, as a field that is widened again. -/
theorem extract_widen (k : Nat) (v : W64) : (v.extractLsb' 0 k).zeroExtend 64 = v &&& BitVec.ofNat 64 (2 ^ k - 1) := by
  apply BitVec.eq_of_getLsbD_eq
  intro i hi
  rw [BitVec.getLsbD_setWidth, BitVec.getLsbD_extractLsb', BitVec.getLsbD_and, BitVec.getLsbD_ofNat, Nat.testBit_two_pow_sub_one]
  simp [hi, Bool.and_comm]

/-- Bit 0 of a word, as a flag that is widened again. -/
theorem bit0_widen (v : W64) : (BitVec.ofBool (v.getLsbD 0)).zeroExtend 64 = v &&& 1 := by
  have h : BitVec.ofBool (v.getLsbD 0) = v.extractLsb' 0 1 := by
    ext i hi
    simp [show i = 0 by omega]
  rw [h, extract_widen 1 v]; rfl

section
variable (s : State) {a : Agent} (c : Ctx) (v : W64)

/-- A writable special register reads the written bits that it has (R197). -/
theorem State.readSr_writeSr_same {n : Nat} {m : W64} (hk : isStoker a = false) (hm : srMask n = some m) :
    s.readSr a (c.writeSr n v) n = v &&& m := by
  rcases srMask_cases hm with h | h | h | h | h | h | h | h | h | h | h | h <;> obtain ⟨rfl, rfl⟩ := h <;>
    simp only [State.readSr, Ctx.writeSr, hk, Bool.false_and, Bool.false_eq_true, if_false]
  · exact extract_widen 5 v
  · exact extract_widen 3 v
  · rfl
  · rfl
  · rfl
  · exact BitVec.and_allOnes.symm
  · exact extract_widen 5 v
  · exact extract_widen 8 v
  · exact BitVec.and_allOnes.symm
  · exact BitVec.and_allOnes.symm
  · exact bit0_widen v
  · exact bit0_widen v

/-- A write of a special register leaves the others (R197). -/
theorem State.readSr_writeSr_ne {n e : Nat} {m : W64} (hm : srMask n = some m) (h : e ≠ n) :
    s.readSr a (c.writeSr n v) e = s.readSr a c e := by
  unfold State.readSr
  refine if_congr Iff.rfl rfl ?_
  rcases srMask_cases hm with h | h | h | h | h | h | h | h | h | h | h | h <;> obtain ⟨rfl, rfl⟩ := h <;>
    (dsimp only [Ctx.writeSr]; (split <;> try rfl); exact absurd rfl h)

theorem Ctx.writeSr_fields (n : Nat) : (c.writeSr n v).s = c.s ∧ (c.writeSr n v).k = c.k ∧ (c.writeSr n v).v = c.v ∧
    (c.writeSr n v).flags = c.flags ∧ (c.writeSr n v).split = c.split := by
  unfold Ctx.writeSr
  split <;> exact ⟨rfl, rfl, rfl, rfl, rfl⟩

end

theorem exec_sWrsr (h : Hdr) (d a : RegNo) (s : State) : exec (.sWrsr h d a) s = issue .all h 8 { rd := [.s a], wr := [] } s
    (fun is s => pure (if isStoker is.a then s else s.upd is (fun c => c.writeSr d.toNat (is.s a)))) := rfl

theorem exec_sRdsr (h : Hdr) (d a : RegNo) (s : State) : exec (.sRdsr h d a) s = issue .all h 8 { rd := [], wr := [.s d] } s
    (fun is s => pure (s.wrS is d (s.readSr is.a is.c a.toNat))) := rfl

/-- Settles O2: s.wrsr changes one special register of the issuing context, or in a stoker nothing, and s.rdsr is a scalar result. -/
theorem specialRegisters : Obligations.SpecialRegisters := by
  refine ⟨fun s is h d a m hm hk hr => ?_, fun s is h d a hk hr => ?_, fun s is h d a hr => ?_⟩
  · obtain ⟨hs, hK, hv, hf, hsplit⟩ := Ctx.writeSr_fields is.c (is.s a) d.toNat
    rw [exec_sWrsr]
    obtain ⟨t, hx, hmoves, hrest, hquads⟩ := issue_upd (f := fun c => c.writeSr d.toNat (is.s a)) (body := fun is s => pure
      (if isStoker is.a then s else s.upd is (fun c => c.writeSr d.toNat (is.s a)))) hr (by simp only [hk]; rfl) hsplit
    have reads (e : Nat) : t.readSr is.a ((is.c.writeSr d.toNat (is.s a)).moved is) e =
        s.readSr is.a (is.c.writeSr d.toNat (is.s a)) e :=
      State.readSr_congr is.a e hrest (Ctx.moved_rest _ _) (Ctx.moved_flags _ _)
    exact ⟨t, _, hx, hmoves, (reads _).trans (State.readSr_writeSr_same s is.c _ hk hm),
      fun e he => (reads e).trans (State.readSr_writeSr_ne s is.c _ hm he), Ctx.sameS_moved is hs, Ctx.sameK_moved is hK,
      Ctx.sameV_moved is hv, Ctx.sameF_moved is hf, hrest, hquads⟩
  · rw [exec_sWrsr]
    exact issue_ready hr (by simp only [hk]; rfl)
  · rw [exec_sRdsr]
    obtain ⟨t, c, hx, hm, hs, hk, hv, hf, hc, ht, -⟩ := issue_wrS (body := fun is s => pure (s.wrS is d (s.readSr is.a is.c a.toNat))) hr rfl
    exact ⟨t, c, hx, hm, hs, hk, hv, hf, hc, ht⟩

end Sys2Proof.Machine

/-! SUPPORT. Waiting for counters (R203, R349). -/

namespace Sys2Proof.Machine

/-- The context parked by the issuing fragment. -/
def Ctx.parked (c : Ctx) (is : Iss) (t : Nat) (p : Park) : Ctx := { c with park := p, parkedAt := t, frag := is.fid }

theorem State.parkAgent_eq (s : State) (is : Iss) (p : Park) :
    s.parkAgent is p = s.upd is (·.parked is (s.clk (dieOf is.a)) p) := rfl

/-- The counters are at or below the limits of a b.wcnt (R349). -/
def Ctx.atMost (c : Ctx) (ldc stc xc ec : Nat) : Bool := c.ldc ≤ ldc && c.stc ≤ stc && c.xc ≤ xc && c.ec ≤ ec

theorem Ctx.atMost_iff {c : Ctx} {ldc stc xc ec : Nat} :
    c.atMost ldc stc xc ec = true ↔ c.ldc ≤ ldc ∧ c.stc ≤ stc ∧ c.xc ≤ xc ∧ c.ec ≤ ec := by
  simp [Ctx.atMost, and_assoc]

/-- What b.wcnt does once it is issued. -/
def State.waitCounters (s : State) (is : Iss) (ldc stc xc ec : Nat) : Res State :=
  if is.c.atMost ldc stc xc ec then pure s else pure (s.parkAgent is (.wcnt ldc stc xc ec))

theorem exec_bWcnt (h : Hdr) (ldc stc xc ec : BitVec 6) (s : State) :
    exec (.bWcnt h ldc stc xc ec) s = issue .all h 8 { rd := [], wr := [] } s (fun is s =>
      s.waitCounters is ldc.toNat stc.toNat xc.toNat ec.toNat) := rfl

/-- Settles O8: where the counters are low enough the wave moves on, and else the wait is a change of the issuing context alone. -/
theorem waitForCounters : Obligations.WaitForCounters := by
  intro s is h ldc stc xc ec hr done
  have hdone : is.c.atMost ldc.toNat stc.toNat xc.toNat ec.toNat = true ↔ done := Ctx.atMost_iff
  have hgo (hd : done) : exec (.bWcnt h ldc stc xc ec) s = .next (s.retire is) :=
    (exec_bWcnt h ldc stc xc ec s).trans (issue_ready hr (if_pos (hdone.mpr hd)))
  refine ⟨hgo, ?_⟩
  by_cases hd : done
  · exact ⟨_, _, hgo hd, movesOn hr (State.ready_ctx hr) rfl fun _ _ => rfl, fun _ => Ctx.moved_rest _ _, fun h => absurd hd h,
      by simp [Ctx.moved], Ctx.sameS_moved is rfl, Ctx.sameK_moved is rfl, Ctx.sameV_moved is rfl, Ctx.sameF_moved is rfl,
      State.retire_rest _ _, State.retire_quads _ _⟩
  · obtain ⟨t, hx, hm, hrest, hquads⟩ := issue_upd (f := (·.parked is (s.clk (dieOf is.a)) (.wcnt ldc.toNat stc.toNat xc.toNat ec.toNat)))
      (body := fun is s => s.waitCounters is ldc.toNat stc.toNat xc.toNat ec.toNat) hr (if_neg (mt hdone.mp hd)) rfl
    refine ⟨t, _, hx, hm, fun h => absurd h hd, fun _ => ⟨?_, ?_, ?_⟩, by simp [Ctx.moved, Ctx.parked],
      Ctx.sameS_moved is rfl, Ctx.sameK_moved is rfl, Ctx.sameV_moved is rfl, Ctx.sameF_moved is rfl, hrest, hquads⟩
    · simp [Ctx.moved, Ctx.parked]
    · simp [Ctx.moved, Ctx.parked]
    · rw [Ctx.moved_rest]; rfl

end Sys2Proof.Machine

/-! SUPPORT. Splits, joins and exits (R142, R143, R332 to R335, R339 to R342): what the records of a wave read after a table of them is
put back, and what a split leaves in the table. -/

namespace Sys2Proof

/-- A map that keeps the keys changes the value that is found. -/
theorem AMap.find_map_snd {β γ : Type} (m : AMap β) (f : Nat → β → γ) (k : Nat) :
    AMap.find (m.map (fun e => (e.1, f e.1 e.2))) k = (m.find k).map (f k) := by
  induction m with
  | nil => rfl
  | cons e m ih =>
    by_cases h : k = e.1
    · simp [AMap.find, h]
    · simp only [List.map_cons, AMap.find, if_neg h]
      exact ih

/-- What is found in a map and passes a filter is found in the filtered map. -/
theorem AMap.find_filter_of_find {β : Type} {m : AMap β} {p : Nat × β → Bool} {k : Nat} {x : β} (h : m.find k = some x)
    (hp : p (k, x) = true) : AMap.find (m.filter p) k = some x := by
  induction m with
  | nil => cases h
  | cons e m ih =>
    obtain ⟨j, y⟩ := e
    by_cases hk : k = j
    · subst hk
      obtain rfl : y = x := by simpa [AMap.find] using h
      simp [hp, AMap.find]
    · have hm : AMap.find m k = some x := by simpa [AMap.find, if_neg hk] using h
      rw [List.filter_cons]
      split
      · simp only [AMap.find, if_neg hk]; exact ih hm
      · exact ih hm

end Sys2Proof

namespace Sys2Proof.Machine

/-! ## Records and the context -/

/-- A record of the table stands in the context (R332). -/
theorem State.find_recs (s : State) (c : Ctx) {k : Nat} (hk : k < 8) : (s.recs c).find k = c.rec? k := by
  unfold State.recs
  split
  · rfl
  · next t _ =>
    have hmap : c.split.map (fun e => if e.1 < 8 then e else (e.1, SplitRec.ofWord (ofLe (bytesAt t.win (spillOff t c.widx e.1) 16)) e.2.age)) =
        c.split.map (fun e => (e.1, if e.1 < 8 then e.2 else SplitRec.ofWord (ofLe (bytesAt t.win (spillOff t c.widx e.1) 16)) e.2.age)) :=
      List.map_congr_left fun e _ => by split <;> rfl
    rw [hmap, AMap.find_map_snd c.split (fun j r => if j < 8 then r else SplitRec.ofWord (ofLe (bytesAt t.win (spillOff t c.widx j) 16)) r.age)]
    simp only [hk, if_true, Option.map_id']
    rfl

/-- A record as a context keeps it: a spilled one of a wave with a window only as held (R335). -/
def SplitRec.kept (window : Bool) (k : Nat) (r : SplitRec) : SplitRec := if 8 ≤ k && window then { r with st := .hold } else r

/-- The records that a wave keeps of a table that is put back. -/
def keptRecs (window : Bool) (m : AMap SplitRec) : AMap SplitRec :=
  (m.filter (fun e => 8 ≤ e.1 || e.2.st ≠ .free)).map (fun e => (e.1, e.2.kept window e.1))

/-- A record of the table that is not free is kept as it is. -/
theorem find_keptRecs (window : Bool) {m : AMap SplitRec} {k : Nat} {r : SplitRec} (hk : k < 8) (h : m.find k = some r)
    (hr : r.st ≠ .free) : AMap.find (keptRecs window m) k = some r := by
  refine (AMap.find_map_snd (m.filter (fun e => 8 ≤ e.1 || e.2.st ≠ .free)) (fun j r => r.kept window j) k).trans ?_
  rw [AMap.find_filter_of_find h (by simp [hr])]
  simp [SplitRec.kept, hk]

/-- What putting a table of records back does: the agent's context keeps the table and loses nothing but the marks of records that are
gone, and memory stays. -/
theorem State.putRecs_spec {s : State} {a : Agent} {c : Ctx} (m : AMap SplitRec) (h : s.ctx? a = some c) :
    ∃ c', (s.putRecs a m).ctx? a = some c' ∧ c'.split = keptRecs (s.teamOf c).isSome m ∧ c'.s = c.s ∧ c'.k = c.k ∧ c'.v = c.v ∧
      c'.flags = c.flags ∧ (s.putRecs a m).mem = s.mem := by
  have hmark : (m.filter (fun e => 8 ≤ e.1 || e.2.st ≠ .free)).map
      (fun e => if 8 ≤ e.1 && (s.teamOf c).isSome then (e.1, { e.2 with st := .hold }) else e) = keptRecs (s.teamOf c).isSome m :=
    List.map_congr_left fun e _ => by unfold SplitRec.kept; split <;> rfl
  unfold State.putRecs
  simp only [h, hmark]
  split
  · exact ⟨_, State.ctx?_setCtx_same _ _ _, rfl, rfl, rfl, rfl, rfl, rfl⟩
  · exact ⟨_, (State.ctx?_mapTeam _ _ _ _).trans (State.ctx?_setCtx_same _ _ _), rfl, rfl, rfl, rfl, rfl, by simp⟩

/-! ## A split's records (R339) -/

/-- A fragment's HOLD record. -/
def SplitRec.heldAt (fr : SplitRec) (jpc : W64) (age : Nat) : SplitRec :=
  { st := .hold, bsel := 0, meld := false, rj := fr.rj, pc := jpc &&& 0x00FFFFFFFFFFFFFF, mask := fr.mask, age := age }

/-- A READY fragment that is bound to a record. -/
def SplitRec.boundTo (rj : Nat) (mask : Lanes) (pc : W64) (age : Nat) : SplitRec :=
  { st := .ready, bsel := 0, meld := false, rj := rj, pc := pc &&& 0x00FFFFFFFFFFFFFF, mask := mask, age := age }

theorem isFree_put_ne {m : AMap SplitRec} {i k : Nat} (r : SplitRec) (h : i ≠ k) : isFree (m.put k r) i = isFree m i := by
  unfold isFree
  rw [AMap.find_put_ne _ _ _ _ h]

theorem not_isFree_put {m : AMap SplitRec} {k : Nat} {r : SplitRec} (h : r.st ≠ .free) : isFree (m.put k r) k = false := by
  unfold isFree
  rw [AMap.find_put_same]
  cases hs : r.st <;> simp_all [BEq.beq]

theorem freeRec_spec {m : AMap SplitRec} {i : Nat} (h : freeRec m 0 8 = some i) : i < 8 ∧ isFree m i = true := by
  have hi := List.mem_of_mem_head? (show i ∈ ((List.range 8).filter (fun i => 0 ≤ i && isFree m i)).head? from h)
  simpa using hi

/-- With a free record of the table there is a lowest one. -/
theorem freeRec_isSome {m : AMap SplitRec} {i : Nat} (hi : i < 8) (h : isFree m i = true) : ∃ j, freeRec m 0 8 = some j := by
  have hmem : i ∈ (List.range 8).filter (fun i => 0 ≤ i && isFree m i) := by simp [hi, h]
  unfold freeRec
  cases hl : (List.range 8).filter (fun i => 0 ≤ i && isFree m i) with
  | nil => rw [hl] at hmem; cases hmem
  | cons j l => exact ⟨j, rfl⟩

/-- Two different records among two or more free ones. -/
theorem two_free {m : AMap SplitRec} (h : 2 ≤ ((List.range 8).filter (isFree m)).length) (i : Nat) :
    ∃ j, j < 8 ∧ j ≠ i ∧ isFree m j = true := by
  by_contra hn
  push Not at hn
  have hsub : (List.range 8).filter (isFree m) ⊆ [i] := fun j hj => by
    obtain ⟨hj8, hf⟩ := List.mem_filter.mp hj
    exact List.mem_singleton.mpr (Classical.byContradiction fun hne => hn j (List.mem_range.mp hj8) hne hf)
  have := (List.Nodup.subperm (List.nodup_range.filter _) hsub).length_le
  simp at this
  omega

/-- With two free records in the table nothing is spilled: the HOLD record takes the fragment's place, and the two fragments the lowest
free records. -/
theorem splitRecs_eq {m : AMap SplitRec} {fid : Nat} {fr : SplitRec} (age : Nat) (t : Lanes) (tpc npc jpc : W64)
    (hfid : isFree m fid = false) (h : 2 ≤ ((List.range 8).filter (isFree m)).length) :
    ∃ i j, i < 8 ∧ j < 8 ∧ i ≠ j ∧ i ≠ fid ∧ j ≠ fid ∧ isFree m i = true ∧ isFree m j = true ∧
      splitRecs m fid fr age t tpc npc jpc = ((m.put fid (fr.heldAt jpc age)).put i (.boundTo fid t tpc age)).put j
        (.boundTo fid (fr.mask &&& ~~~t) npc age) := by
  have hhold : (SplitRec.heldAt fr jpc age).st ≠ .free := by simp [SplitRec.heldAt]
  have hfree (i : Nat) : isFree (m.put fid (fr.heldAt jpc age)) i = isFree m i := by
    by_cases hi : i = fid
    · rw [hi, hfid, not_isFree_put hhold]
    · exact isFree_put_ne _ hi
  have hroom : makeRoom 2 9 (m.put fid (fr.heldAt jpc age)) fid = (m.put fid (fr.heldAt jpc age), fid) := by
    rw [makeRoom, funext hfree, if_neg (by omega)]
  obtain ⟨i0, hi08, -, hi0⟩ := two_free h 8
  obtain ⟨i, hi⟩ := freeRec_isSome hi08 ((hfree i0).trans hi0)
  obtain ⟨hi8, hif⟩ := freeRec_spec hi
  obtain ⟨j0, hj08, hj0i, hj0⟩ := two_free h i
  obtain ⟨j, hj⟩ := freeRec_isSome (m := (m.put fid (fr.heldAt jpc age)).put i (.boundTo fid t tpc age)) hj08
    (by rw [isFree_put_ne _ hj0i, hfree, hj0])
  obtain ⟨hj8, hjf⟩ := freeRec_spec hj
  have hne : j ≠ i := fun e => by
    rw [e, not_isFree_put (by simp [SplitRec.boundTo])] at hjf
    cases hjf
  rw [isFree_put_ne _ hne, hfree] at hjf
  rw [hfree] at hif
  refine ⟨i, j, hi8, hj8, hne.symm, fun e => ?_, fun e => ?_, hif, hjf, ?_⟩
  · rw [e, hfid] at hif; cases hif
  · rw [e, hfid] at hjf; cases hjf
  · unfold splitRecs
    simp only [← SplitRec.heldAt.eq_1, hroom, hi, ← SplitRec.boundTo.eq_1, hj]

/-! ## The instructions -/

/-- What b.split does once it is issued outside a handler (R339). -/
def State.split (s : State) (is : Iss) (t : Lanes) (tpc jpc : W64) : Res State :=
  if t = 0 then pure (s.advance is)
  else if is.fr.mask &&& ~~~t = 0 then s.branchTo is tpc
  else do
    require (fragCount (s.recs is.c) < 8) (is.fault0 Code.nest)
    require (bits tpc.toNat 0 2 = 0) (is.fault Code.align (tpc.toNat % 2 ^ 56) is.fr.mask)
    require (bits jpc.toNat 0 2 = 0) (is.fault Code.align (jpc.toNat % 2 ^ 56) is.fr.mask)
    pure ((s.mapCtx is.a (fun c => { c with age := c.age + 1 })).putRecs is.a
      (splitRecs (s.recs is.c) is.fid is.fr (is.c.age + 1) t tpc (is.pc + 16) jpc))

theorem exec_bSplit (h : Hdr) (a : RegNo) (x0 x1 : BitVec 32) (s : State) :
    exec (.bSplit h a x0 x1) s = issueRaw { Perm.wave with noMeld := true } h 16 { rd := [.k a], wr := [] } s (fun is s => do
      require (!is.c.utact) (is.fault0 Code.iil)
      s.split is (is.p &&& is.k a) (is.pc + sx64 x0) (is.pc + sx64 x1)) := rfl

theorem exec_bJoin (h : Hdr) (s : State) :
    exec (.bJoin h) s = issueRaw { Perm.wave with noMeld := true } h 8 { rd := [], wr := [] } s (fun is s => do
      require (!brokenSpill (s.recs is.c) is.fr.rj) (s.spillFault is is.fr.rj)
      match (s.recs is.c).find is.fr.rj with
      | none => pure (s.advance is)
      | some hold =>
        if is.fr.rj = 15 || hold.st != .hold || hold.pc != is.pc then pure (s.advance is)
        else
          match resolveJoins 16 ((s.recs is.c).put is.fid { is.fr with st := .parked, pc := (is.pc + 8) &&& 0x00FFFFFFFFFFFFFF })
            is.c.exited with
          | (_, some b) => .error (s.spillFault is b)
          | (m, none) => pure (s.putRecs is.a m)) := rfl

theorem exec_bExit (h : Hdr) (s : State) :
    exec (.bExit h) s = issueRaw .wave h 8 { rd := [], wr := [] } s (fun is s => do
      match is.c.guard with
      | some g => require (is.c.exited ||| is.p ≠ BitVec.allOnes 64) (is.guardFault g)
      | none => pure ()
      match (endThreadsRecs (s.recs is.c) (is.c.exited ||| is.p)).2 with
      | some b => .error (s.spillFault is b)
      | none => pure ((s.advance is).endThreads is.a is.p)) := rfl

section
variable {s : State} {is : Iss} {t : Lanes} {tpc jpc : W64}

theorem State.split_none (ht : t = 0) : s.split is t tpc jpc = .ok (s.advance is) := if_pos ht

theorem State.split_all (ht : t ≠ 0) (hm : is.fr.mask &&& ~~~t = 0) : s.split is t tpc jpc = s.branch is none (some tpc) := by
  rw [State.split, if_neg ht, if_pos hm, State.branch_unlinked]

/-- Where some threads take the branch and some do not, the checks in their order, and the new records. -/
theorem State.split_some (ht : t ≠ 0) (hm : is.fr.mask &&& ~~~t ≠ 0) : s.split is t tpc jpc =
    if fragCount (s.recs is.c) < 8 then
      if tpc.toNat % 4 = 0 then
        if jpc.toNat % 4 = 0 then .ok ((s.mapCtx is.a (fun c => { c with age := c.age + 1 })).putRecs is.a
          (splitRecs (s.recs is.c) is.fid is.fr (is.c.age + 1) t tpc (is.pc + 16) jpc))
        else .error (is.fault Code.align (jpc.toNat % 2 ^ 56) is.fr.mask)
      else .error (is.fault Code.align (tpc.toNat % 2 ^ 56) is.fr.mask)
    else .error (is.fault0 Code.nest) := by
  have hbits (x : W64) : bits x.toNat 0 2 = x.toNat % 4 := rfl
  rw [State.split, if_neg ht, if_neg hm]
  simp only [require_bind, hbits, decide_eq_true_eq]
  rfl

end

/-- A split outside a handler is issued as `State.split`. -/
theorem exec_bSplit_ready {s : State} {is : Iss} {h : Hdr} {a : RegNo} (x0 x1 : BitVec 32)
    (hr : s.ready { Perm.wave with noMeld := true } h 16 { rd := [.k a], wr := [] } = some is) (hu : is.c.utact = false) :
    (∀ s', s.split is (is.p &&& is.k a) (is.pc + x0.signExtend 64) (is.pc + x1.signExtend 64) = .ok s' →
      exec (.bSplit h a x0 x1) s = .next (s'.afterIssue is)) ∧
    ∀ e, s.split is (is.p &&& is.k a) (is.pc + x0.signExtend 64) (is.pc + x1.signExtend 64) = .error e →
      exec (.bSplit h a x0 x1) s = .next (s.except is e) := by
  have hbody : (require (!is.c.utact) (is.fault0 Code.iil) >>= fun _ => s.split is (is.p &&& is.k a) (is.pc + sx64 x0) (is.pc + sx64 x1)) =
      s.split is (is.p &&& is.k a) (is.pc + x0.signExtend 64) (is.pc + x1.signExtend 64) := by
    rw [require_bind, hu]; rfl
  rw [exec_bSplit]
  exact ⟨fun s' hs => issueRaw_ready hr (hbody.trans hs), fun e he => issueRaw_error hr (hbody.trans he)⟩

/-- The records after a split in a table with two free records. -/
theorem State.split_records {s : State} {is : Iss} (t : Lanes) (tpc jpc : W64) (hc : s.ctx? is.a = some is.c)
    (hrec : is.c.rec? is.fid = some is.fr) (hst : is.fr.st = .ready) (hfid : is.fid < 8)
    (h2 : 2 ≤ ((List.range 8).filter (isFree (s.recs is.c))).length) :
    let u := ((s.mapCtx is.a (fun c => { c with age := c.age + 1 })).putRecs is.a
      (splitRecs (s.recs is.c) is.fid is.fr (is.c.age + 1) t tpc (is.pc + 16) jpc)).afterIssue is
    ∃ c i j, u.ctx? is.a = some c ∧ i < 8 ∧ j < 8 ∧ i ≠ j ∧
        isFree (s.recs is.c) i = true ∧ isFree (s.recs is.c) j = true ∧
        c.rec? is.fid = some (is.fr.heldAt jpc (is.c.age + 1)) ∧ c.rec? i = some (.boundTo is.fid t tpc (is.c.age + 1)) ∧
        c.rec? j = some (.boundTo is.fid (is.fr.mask &&& ~~~t) (is.pc + 16) (is.c.age + 1)) ∧
        (∀ k x, k < 8 → k ≠ is.fid → k ≠ i → k ≠ j → (s.recs is.c).find k = some x → x.st ≠ .free → c.rec? k = some x) ∧
        SameS is.c c [] ∧ SameK is.c c [] ∧ SameV is.c c ∧ SameF is.c c ∧ u.mem = s.mem := by
  intro u
  have hnf : isFree (s.recs is.c) is.fid = false := by
    unfold isFree
    rw [State.find_recs s is.c hfid, hrec]
    simp [hst, BEq.beq]
  obtain ⟨i, j, hi, hj, hij, hif, hjf, hifree, hjfree, heq⟩ := splitRecs_eq (is.c.age + 1) t tpc (is.pc + 16) jpc hnf h2
  have hage : (s.mapCtx is.a (fun c => { c with age := c.age + 1 })).ctx? is.a = some { is.c with age := is.c.age + 1 } :=
    State.ctx?_mapCtx_some _ hc
  obtain ⟨c, hput, hsplit, hs, hk, hv, hf, hmem⟩ := State.putRecs_spec
    (splitRecs (s.recs is.c) is.fid is.fr (is.c.age + 1) t tpc (is.pc + 16) jpc) hage
  have hfind {k : Nat} {r : SplitRec} (hk : k < 8) (h : AMap.find (splitRecs (s.recs is.c) is.fid is.fr (is.c.age + 1) t tpc (is.pc + 16) jpc)
      k = some r) (hr : r.st ≠ .free) : (c.issued is).rec? k = some r := by
    rw [Ctx.issued_rec, Ctx.rec?, hsplit]
    exact find_keptRecs _ hk h hr
  rw [heq] at hfind
  refine ⟨c.issued is, i, j, State.ctx?_afterIssue hput, hi, hj, hij, hifree, hjfree, hfind hfid ?_ (by simp [SplitRec.heldAt]),
    hfind hi ?_ (by simp [SplitRec.boundTo]), hfind hj (AMap.find_put_same _ _ _) (by simp [SplitRec.boundTo]), ?_,
    Ctx.sameS_issued is hs, Ctx.sameK_issued is hk, Ctx.sameV_issued is hv, Ctx.sameF_issued is hf,
    (State.mapCtx_mem _ _ _).trans (hmem.trans (State.mapCtx_mem _ _ _))⟩
  · rw [AMap.find_put_ne _ _ _ _ hjf.symm, AMap.find_put_ne _ _ _ _ hif.symm, AMap.find_put_same]
  · rw [AMap.find_put_ne _ _ _ _ hij, AMap.find_put_same]
  · intro k x hk hkf hki hkj hx hst
    refine hfind hk ?_ hst
    rw [AMap.find_put_ne _ _ _ _ hkj, AMap.find_put_ne _ _ _ _ hki, AMap.find_put_ne _ _ _ _ hkf, hx]

theorem Ctx.giveUp_exited (c : Ctx) (status : Bool) : (c.giveUp status).exited = c.exited := by unfold Ctx.giveUp; split <;> rfl

/-- Settles O9: the outcomes of `State.split` in the order of its checks, a join's resolve, and an exit with and without the guard. -/
theorem splitAndJoin : Obligations.SplitAndJoin := by
  refine ⟨⟨fun s is h a x0 x1 hr hu ht hm htp hjp hf => ?_, ?_, fun s is h hold m hr h15 hb hfind hst hpc hres => ?_,
    fun s is h hr hfind => ?_, fun s is h hr hg he => ?_⟩, fun s is h g hr hg he => ?_⟩
  · rw [← State.mapCtx_some (fun c => { c with age := c.age + 1 }) (State.ready_ctx hr)]
    exact (exec_bSplit_ready x0 x1 hr hu).1 _ (by rw [State.split_some ht hm, if_pos hf, if_pos htp, if_pos hjp])
  · intro s is h a x0 x1 hr hu t0 n0 tpc jpc
    obtain ⟨hok, herr⟩ := exec_bSplit_ready x0 x1 hr hu
    obtain ⟨-, hc, -, hrec, hcan, -⟩ := State.iss?_view (State.ready_view hr).1
    refine ⟨fun ht => hok _ (State.split_none ht), fun ht hn htp => ?_, fun ht hn htp => ?_, fun ht hn htp hjp hf => ?_,
      fun ht hn hf htp hjp => ?_, fun ht hn hf htp hjp => ?_, fun ht hn hf htp hjp hfid h2 => ?_⟩
    · obtain ⟨c, hc', hr', ho, -, hs, hk, hv, hfl, hrest, htrest⟩ := State.jumped_spec none tpc hc hrec
      exact ⟨_, c, hok _ ((State.split_all ht hn).trans (State.branch_aligned s is none htp)), hc', hr', ho,
        fun n _ => (hs n).trans (if_neg (by simp)), hk, hv, hfl, hrest, htrest⟩
    · exact herr _ ((State.split_all ht hn).trans (State.branch_misaligned s is none htp))
    · exact herr _ (by rw [State.split_some ht hn, if_neg (by omega)])
    · exact herr _ (by rw [State.split_some ht hn, if_pos hf, if_neg htp])
    · exact herr _ (by rw [State.split_some ht hn, if_pos hf, if_pos htp, if_neg hjp])
    · have hst : is.fr.st = .ready := by
        simp only [Ctx.canIssue, hrec, Bool.and_eq_true] at hcan
        obtain ⟨-, hst⟩ := hcan
        revert hst
        cases is.fr.st <;> simp [BEq.beq]
      obtain ⟨c, i, j, hc', hi, hj, hij, hif, hjf, hfr, hri, hrj, hkeep, hsame⟩ := State.split_records t0 tpc jpc hc hrec hst hfid h2
      have hlen : is.len = 16 := by
        obtain ⟨-, -, -, -, -, -, -, hlen, -⟩ := State.iss?_view (State.ready_view hr).1
        exact hlen
      have hnext : is.next = (is.pc + 16) &&& 0x00FFFFFFFFFFFFFF := by rw [Iss.next, hlen]; rfl
      exact ⟨_, c, i, j, hok _ (by rw [State.split_some ht hn, if_pos hf, if_pos htp, if_pos hjp]), hc', hi, hj, hij, hif, hjf,
        ⟨_, hfr⟩, ⟨_, hri⟩, ⟨_, by rw [hnext]; exact hrj⟩, hkeep, hsame⟩
  · rw [exec_bJoin]
    refine issueRaw_ready hr ?_
    have hat : (is.fr.rj = 15 || hold.st != .hold || hold.pc != is.pc) = false := by simp [h15, hst, hpc]
    simp only [require_bind, hb, hfind, hat, hres]
    rfl
  · rw [exec_bJoin]
    have hb : brokenSpill (s.recs is.c) is.fr.rj = false := by unfold brokenSpill; rw [hfind]
    refine issueRaw_ready hr ?_
    simp only [require_bind, hb, hfind]
    rfl
  · rw [exec_bExit]
    refine issueRaw_ready hr ?_
    simp only [hg, he]
    rfl
  · have hx : exec (.bExit h) s = .next (s.except is (is.guardFault g)) := by
      rw [exec_bExit]
      refine issueRaw_error hr ?_
      simp only [hg, require_bind, he, ne_eq, not_true_eq_false, decide_false, Bool.false_eq_true, if_false]
    exact ⟨_, _, _, hx, State.ctx?_stopWave _ (State.ready_ctx hr), rfl, rfl, rfl, rfl, rfl, Ctx.giveUp_exited _ _, rfl⟩

end Sys2Proof.Machine

/-! SUPPORT. Floating-point results (R183, R184, R190, R191, R220 to R222, R385 to R388): every form of them writes its passing threads'
registers, advances the generator, and completes with its threads' flags. -/

namespace Sys2Proof.Machine

/-! ## One body for every form -/

/-- The context with the results of a floating-point form: each passing thread's writes, and RNGCTR advanced with SR (R183). -/
def Ctx.floated (c : Ctx) (is : Iss) (f : FForm) (writes : Nat → List (Nat × Nat × W32)) : Ctx :=
  let c := c.wrVs (is.p.list.flatMap writes)
  if f.t.sr then { c with rngctr := is.c.rngctr + BitVec.ofNat 64 f.k } else c

/-- The issue of a form whose threads make these writes and raise these flags. -/
def floatIssue (f : FForm) (s : State) (writes : Iss → Nat → List (Nat × Nat × W32)) (flags : Iss → Nat → BitVec 5) :
    Host.Outcome State Fault Refusal :=
  issueRaw .wave f.h f.len f.uses s (fun is s =>
    pure ((s.upd is (·.floated is f (writes is))).finishFloat is f.d (is.laneFlags (flags is))))

/-- The writes of the results and the step of the generator are one change of the issuing context. -/
theorem State.floated_eq (s : State) (is : Iss) (f : FForm) (writes : Nat → List (Nat × Nat × W32)) :
    (s.upd is (fun c => c.wrVs (is.p.list.flatMap writes))).stepRng is f.t f.k = s.upd is (·.floated is f writes) := by
  unfold State.stepRng Ctx.floated
  cases f.t.sr
  · rfl
  · exact State.mapCtx_mapCtx _ _ _ _

/-- The writes of values by lane, lane for lane. -/
theorem Iss.vWrites_flatMap (is : Iss) (wide : Bool) (d : RegNo) (g : Nat → Nat) (l : List Nat) :
    is.vWrites wide d (l.map (fun i => (i, g i))) = l.flatMap (fun i => is.vWrites wide d [(i, g i)]) := by
  simp [Iss.vWrites, List.flatMap_map]

/-- The elements' results of a thread under a function of an element (R220). -/
def elemsBy (is : Iss) (t : TField) (srcs : List RegNo) (g : Round → List Nat → Nat × BitVec 5) (lane : Nat) : List (Nat × BitVec 5) :=
  (List.range (elemCount t)).map (fun j =>
    g (is.round t lane j) (srcs.map (fun r => (elems t.ty (is.vw t.ty.is64 r lane)).getD j 0)))

/-- Writes and flags by lane make the body of a form. -/
theorem State.floatBody (s : State) (is : Iss) (f : FForm) {ws : List (Nat × Nat × W32)} {fl : List (Nat × BitVec 5)}
    {writes : Nat → List (Nat × Nat × W32)} {flags : Nat → BitVec 5} (hw : ws = is.p.list.flatMap writes) (hf : fl = is.laneFlags flags) :
    ((s.upd is (fun c => c.wrVs ws)).stepRng is f.t f.k).finishFloat is f.d fl =
      (s.upd is (·.floated is f writes)).finishFloat is f.d (is.laneFlags flags) := by
  rw [hw, hf, State.floated_eq]

theorem floatOp_eq (h : Hdr) (t : TField) (d : RegNo) (srcs : List RegNo) (s : State) (g : Round → List Nat → Nat × BitVec 5) :
    floatOp h t d srcs s g = floatIssue ⟨h, 8, srcs.map (fun r => .v r t.ty.regs), t.ty.regs, d, t, elemCount t⟩ s
      (fun is l => is.vWrites t.ty.is64 d [(l, joinElems t.ty ((elemsBy is t srcs g l).map (·.1)))])
      (fun is l => orFlags (elemsBy is t srcs g l)) := by
  refine congrArg (issueRaw .wave h 8 { rd := srcs.map (fun r => .v r t.ty.regs), wr := [.v d t.ty.regs] } s)
    (funext fun is => funext fun s => congrArg Except.ok (State.floatBody s is ⟨h, 8, _, _, d, t, elemCount t⟩ ?_ ?_))
  · rw [← Iss.vWrites_flatMap, List.map_map]
    simp only [elemsBy, List.map_map]
    rfl
  · simp only [List.map_map, Iss.laneFlags]
    rfl

theorem exec_floatForm {i : Instr} {f : FForm} (hf : floatForm i = some f) (s : State) :
    exec i s = floatIssue f s (fun is => floatWrites is i f) (fun is => floatFlags is i) := by
  unfold floatForm at hf
  split at hf
  all_goals cases hf
  · next h t d a b => exact floatOp_eq h t d [a, b] s (floatElem (.fAdd h t d a b))
  · next h t d a b => exact floatOp_eq h t d [a, b] s (floatElem (.fSub h t d a b))
  · next h t d a b => exact floatOp_eq h t d [a, b] s (floatElem (.fMul h t d a b))
  · next h sub t d a b => exact floatOp_eq h t d [a, b] s (floatElem (.fMin h sub t d a b))
  · next h sub t d a b => exact floatOp_eq h t d [a, b] s (floatElem (.fMax h sub t d a b))
  · next h t d a b c => exact floatOp_eq h t d [a, b, c] s (floatElem (.fFma h t d a b c))
  · next h t d a sty =>
    refine congrArg (issueRaw .wave h 8 { rd := [.v a sty.regs], wr := [.v d t.ty.regs] } s)
      (funext fun is => funext fun s => congrArg Except.ok (State.floatBody s is ⟨h, 8, _, _, d, t, 1⟩ ?_ ?_))
    · rw [List.map_map]
      exact Iss.vWrites_flatMap is t.ty.is64 d _ _
    · rw [List.map_map]
      refine List.map_congr_left fun l _ => Prod.ext rfl ?_
      simp [floatFlags, floatParts, orFlags]
  · next h t d a sty esc =>
    refine congrArg (issueRaw .wave h 12 { rd := [.v a t.ty.groupK], wr := [.v d t.ty.groupM] } s)
      (funext fun is => funext fun s => congrArg Except.ok (State.floatBody s is ⟨h, 12, _, _, d, t, t.ty.groupK⟩ ?_ ?_))
    · rw [List.flatMap_map]
      refine congrArg (fun g => List.flatMap g is.p.list) (funext fun l => ?_)
      simp [floatWrites, floatParts, List.foldr_map]
    · rw [List.map_map]
      rfl
  · next h t d a sty esc =>
    refine congrArg (issueRaw .wave h 12 { rd := [.v a sty.groupM], wr := [.v d sty.groupK] } s)
      (funext fun is => funext fun s => congrArg Except.ok (State.floatBody s is ⟨h, 12, _, _, d, t, sty.groupK⟩ ?_ ?_))
    · rw [List.flatMap_map]
      refine congrArg (fun g => List.flatMap g is.p.list) (funext fun l => ?_)
      refine List.map_congr_left fun j hj => ?_
      simp [floatParts, List.mem_range.mp hj]
    · rw [List.map_map]
      rfl

/-! ## The outcome -/

section
variable (c : Ctx) (is : Iss) (f : FForm) (writes : Nat → List (Nat × Nat × W32))

theorem Ctx.wrVs_rngctr (l : List (Nat × Nat × W32)) : (c.wrVs l).rngctr = c.rngctr := foldl_get_eq Ctx.rngctr _ l c (fun _ _ _ => rfl)
theorem Ctx.wrVs_utact (l : List (Nat × Nat × W32)) : (c.wrVs l).utact = c.utact := foldl_get_eq Ctx.utact _ l c (fun _ _ _ => rfl)
theorem Ctx.wrVs_utvec (l : List (Nat × Nat × W32)) : (c.wrVs l).utvec = c.utvec := foldl_get_eq Ctx.utvec _ l c (fun _ _ _ => rfl)

@[simp] theorem Ctx.floated_s : (c.floated is f writes).s = c.s := by unfold Ctx.floated; split <;> exact Ctx.wrVs_s _ _
@[simp] theorem Ctx.floated_k : (c.floated is f writes).k = c.k := by unfold Ctx.floated; split <;> exact Ctx.wrVs_k _ _
@[simp] theorem Ctx.floated_v : (c.floated is f writes).v = (c.wrVs (is.p.list.flatMap writes)).v := by
  unfold Ctx.floated; split <;> rfl
@[simp] theorem Ctx.floated_flags : (c.floated is f writes).flags = c.flags := by unfold Ctx.floated; split <;> exact Ctx.wrVs_flags _ _
@[simp] theorem Ctx.floated_split : (c.floated is f writes).split = c.split := by unfold Ctx.floated; split <;> exact Ctx.wrVs_split _ _
@[simp] theorem Ctx.floated_utact : (c.floated is f writes).utact = c.utact := by
  unfold Ctx.floated; split <;> exact Ctx.wrVs_utact _ _
@[simp] theorem Ctx.floated_utvec : (c.floated is f writes).utvec = c.utvec := by
  unfold Ctx.floated; split <;> exact Ctx.wrVs_utvec _ _
theorem Ctx.floated_rngctr : (is.c.floated is f writes).rngctr =
    if f.t.sr then is.c.rngctr + BitVec.ofNat 64 f.k else is.c.rngctr := by
  unfold Ctx.floated; split
  · rfl
  · exact Ctx.wrVs_rngctr _ _

/-- A completed form leaves the generator as its results have (R183). -/
theorem Ctx.finished_rngctr (fl : List (Nat × BitVec 5)) : (c.finished is fl).rngctr = c.rngctr :=
  (Ctx.setPc_rngctr _ _ _).trans (foldl_get_eq Ctx.rngctr _ fl c (fun _ _ _ => rfl))

theorem Ctx.finished_utact (fl : List (Nat × BitVec 5)) : (c.finished is fl).utact = c.utact :=
  (Ctx.setPc_utact _ _ _).trans (Ctx.raiseAll_utact _ _)

/-- It has moved its own fragment alone. -/
theorem Ctx.finished_rec_ne (fl : List (Nat × BitVec 5)) {j : Nat} (hj : j ≠ is.fid) : (c.finished is fl).rec? j = c.rec? j :=
  (Ctx.rec?_setPc_ne _ _ _ _ hj).trans (Ctx.rec?_congr (Ctx.raiseAll_split c fl) j)

end

/-- A context whose registers, flags and generator are those of a completed form holds its results. -/
theorem floatDone_of {is : Iss} {i : Instr} {f : FForm} {c : Ctx}
    (hr : (is.c.floated is f (floatWrites is i f)).Raised (is.laneFlags (floatFlags is i)) c)
    (hrng : c.rngctr = (is.c.floated is f (floatWrites is i f)).rngctr) : FloatDone is i f c := by
  obtain ⟨hs, hk, hv, hflags⟩ := hr
  refine ⟨hv.trans (Ctx.floated_v ..), fun l hl => ?_, hrng.trans (Ctx.floated_rngctr is f _),
    fun n _ => Ctx.sget_congr (hs.trans (Ctx.floated_s ..)) n, fun n _ => Ctx.kget_congr (hk.trans (Ctx.floated_k ..)) n⟩
  rw [Ctx.flag_congr hflags, is.flag_raiseAll _ _ hl, Ctx.flag_congr (Ctx.floated_flags ..)]

/-- The cause of a user trap: the enabled flags that the passing threads raised together (R386). -/
theorem Iss.getLsbD_cause (is : Iss) (g : Nat → BitVec 5) (j : Nat) :
    (enabled is.c.fpen (is.laneFlags g)).2.getLsbD j = true ↔
      ∃ l, (l < 64 ∧ is.p.getLsbD l = true ∧ g l &&& is.c.fpen ≠ 0) ∧ (g l &&& is.c.fpen).getLsbD j = true := by
  have hfold (l : List (Nat × BitVec 5)) (z : BitVec 5) :
      (l.foldl (fun f e => f ||| (e.2 &&& is.c.fpen)) z).getLsbD j = true ↔
        z.getLsbD j = true ∨ ∃ e ∈ l, (e.2 &&& is.c.fpen).getLsbD j = true := by
    induction l generalizing z with
    | nil => simp
    | cons e l ih => rw [List.foldl_cons, ih, BitVec.getLsbD_or, Bool.or_eq_true, or_assoc]; simp
  have hzero : (0 : BitVec 5).getLsbD j = false := by simp
  rw [enabled, hfold, hzero]
  simp only [Bool.false_eq_true, false_or, Iss.laneFlags, List.mem_filter, List.mem_map, bne_iff_ne]
  constructor
  · rintro ⟨_, ⟨⟨l, hl, rfl⟩, hne⟩, hb⟩
    obtain ⟨hl64, hp⟩ := Lanes.mem_list.mp hl
    exact ⟨l, ⟨hl64, hp, hne⟩, hb⟩
  · rintro ⟨l, ⟨hl64, hp, hne⟩, hb⟩
    exact ⟨_, ⟨⟨l, Lanes.mem_list.mpr ⟨hl64, hp⟩, rfl⟩, hne⟩, hb⟩

section
variable {s : State} {is : Iss} {c : Ctx} (dst : BitVec 8) {fl : List (Nat × BitVec 5)} (hc : s.ctx? is.a = some c)
  (hl : (enabled is.c.fpen fl).1 ≠ 0)
include hc hl

/-- The context after the user trap of an enabled flag. -/
theorem State.ctx?_finishFloat_trap (hu : c.utact = false) :
    ((s.finishFloat is dst fl).afterIssue is).ctx? is.a = some (((c.finished is fl).trapped is.fid is.pc
      (is.pc + BitVec.ofNat 64 is.len) (enabled is.c.fpen fl).1 (enabled is.c.fpen fl).2 dst).issued is) := by
  have hdone := State.ctx?_finished (fl := fl) hc
  rw [State.finishFloat_eq, if_neg hl, State.userTrap_taken _ _ _ _ _ _ _ hdone ((Ctx.finished_utact _ _ _).trans hu)]
  exact State.ctx?_afterIssue (State.ctx?_setCtx_same _ _ _)

/-- The trap is the issuing agent's alone. -/
theorem State.ctx?_finishFloat_trap_ne (hu : c.utact = false) {b : Agent} (hb : ctxKey b ≠ ctxKey is.a) :
    ((s.finishFloat is dst fl).afterIssue is).ctx? b = s.ctx? b := by
  have hdone := State.ctx?_finished (fl := fl) hc
  rw [State.finishFloat_eq, if_neg hl, State.userTrap_taken _ _ _ _ _ _ _ hdone ((Ctx.finished_utact _ _ _).trans hu),
    State.ctx?_afterIssue_ne _ _ _ hb, State.ctx?_setCtx_ne _ _ _ _ hb]
  exact (State.ctx?_mapCtx_ne _ _ _ _ hb).trans (State.ctx?_mapCtx_ne _ _ _ _ hb)

/-- The context after UT_NEST. -/
theorem State.ctx?_finishFloat_nested (hr : c.rec? is.fid = some is.fr) (hu : c.utact = true) :
    ∃ status, ((s.finishFloat is dst fl).afterIssue is).ctx? is.a = some (((c.finished is fl).stopped status
      { code := Code.utNest, prec := false, addr := 0, mask := is.fr.mask, pc := is.pc, meld := is.fr.meld, posted := false,
        silent := false }).issued is) := by
  have hdone := State.ctx?_finished (fl := fl) hc
  rw [State.finishFloat_eq, if_neg hl, State.userTrap_nested _ _ _ _ _ _ hdone ((Ctx.finished_utact _ _ _).trans hu) (Ctx.finished_rec hr)]
  exact ⟨_, State.ctx?_afterIssue (State.ctx?_stopWave _ hdone)⟩

end

section
variable (c : Ctx) (is : Iss)
theorem Ctx.issued_rngctr : (c.issued is).rngctr = c.rngctr := by simp [Ctx.issued]
theorem Ctx.stopped_rngctr (status : Bool) (st : Stop) : (c.stopped status st).rngctr = c.rngctr := by
  unfold Ctx.stopped Ctx.giveUp; dsimp only; split <;> rfl
theorem Ctx.trapped_rngctr (fid : Nat) (pc next : W64) (lanes : Lanes) (cause : BitVec 5) (dst : BitVec 8) :
    (c.trapped fid pc next lanes cause dst).rngctr = c.rngctr := Ctx.setPc_rngctr _ _ _
end

/-- Settles O13: a form of floating-point results writes and completes as every f-class instruction does, and its three outcomes are those
of that completion. -/
theorem floatResult : Obligations.FloatResult := by
  intro i s is f hf hr hit
  obtain ⟨-, hctx, -, hrec, -⟩ := State.iss?_view (State.ready_view hr).1
  let fl := is.laneFlags (floatFlags is i)
  let k := is.c.floated is f (floatWrites is i f)
  have hx : exec i s = .next (((s.upd is (·.floated is f (floatWrites is i f))).finishFloat is f.d fl).afterIssue is) := by
    rw [exec_floatForm hf]
    exact issueRaw_ready hr rfl
  have hc : (s.upd is (·.floated is f (floatWrites is i f))).ctx? is.a = some k := State.ctx?_mapCtx_some _ hctx
  have hkrec : k.rec? is.fid = some is.fr := (Ctx.rec?_congr (Ctx.floated_split ..) _).trans hrec
  have hno := is.enabled_eq_zero (floatFlags is i)
  have htraps : (∃ l, hit l) → (enabled is.c.fpen fl).1 ≠ 0 := fun ⟨l, hl⟩ h0 => hno.mp h0 l hl
  have hmem : (((s.upd is (·.floated is f (floatWrites is i f))).finishFloat is f.d fl).afterIssue is).mem = s.mem :=
    State.outer_mem (by simp [State.upd])
  refine ⟨fun hnone => ?_, fun hsome hu => ?_, fun hsome hu => ?_⟩
  · have h0 := hno.mpr hnone
    rw [State.finishFloat_eq, if_pos h0] at hx
    have hdone := State.ctx?_mapCtx_some (·.raiseAll fl) hc
    refine ⟨_, _, hx, movesOn hr hdone ((Ctx.raiseAll_split _ _).trans (Ctx.floated_split ..)) (fun b hb =>
      (State.ctx?_mapCtx_ne _ _ _ _ hb).trans (State.ctx?_mapCtx_ne _ _ _ _ hb)), floatDone_of ⟨?_, ?_, ?_, ?_⟩ ?_,
      (State.retire_rest _ _).trans ((State.mapCtx_rest _ _ _).trans (State.mapCtx_rest _ _ _))⟩
    · simp [k]
    · simp [k]
    · simp [k]
    · simp [k, fl]
    · rw [Ctx.moved_rngctr]
      exact foldl_get_eq Ctx.rngctr _ fl k (fun _ _ _ => rfl)
  · have hl := htraps hsome
    have hact : k.utact = false := (Ctx.floated_utact ..).trans hu
    refine ⟨_, _, hx, State.ctx?_finishFloat_trap f.d hc hl hact, floatDone_of ⟨?_, ?_, ?_, ?_⟩ ?_, ?_⟩
    · simp [Ctx.issued, Ctx.finished, k]
    · simp [Ctx.issued, Ctx.finished, k]
    · simp [Ctx.issued, Ctx.finished, k]
    · simp [Ctx.issued, Ctx.finished, k, fl]
    · rw [Ctx.issued_rngctr, Ctx.trapped_rngctr, Ctx.finished_rngctr]
    · obtain ⟨hact', hpc, hnext, hlanes, hcause, hdst, hfrag⟩ := Ctx.trapTaken_issued (k.finished is fl) is
        (enabled is.c.fpen fl).1 (enabled is.c.fpen fl).2 f.d
      refine ⟨hact', hpc, hnext, fun l hl64 => ?_, fun j _ => ?_, hdst, hfrag, ?_, fun j hj => ?_, fun b hb => ?_, hmem⟩
      · rw [hlanes, is.getLsbD_enabled _ hl64]
        exact (and_iff_right hl64).symm
      · rw [hcause]
        exact is.getLsbD_cause (floatFlags is i) j
      · rw [Ctx.issued_rec, Ctx.trapped_rec _ _ _ _ _ (Ctx.finished_rec hkrec), Ctx.finished, Ctx.setPc_utvec, Ctx.raiseAll_utvec,
          Ctx.floated_utvec]
      · rw [Ctx.issued_rec, Ctx.trapped, Ctx.rec?_setPc_ne _ _ _ _ hj]
        exact (Ctx.finished_rec_ne k is fl hj).trans (Ctx.rec?_congr (Ctx.floated_split ..) j)
      · rw [State.ctx?_finishFloat_trap_ne f.d hc hl hact hb]
        exact State.ctx?_mapCtx_ne _ _ _ _ hb
  · obtain ⟨status, hnest⟩ := State.ctx?_finishFloat_nested f.d hc (htraps hsome) hkrec ((Ctx.floated_utact ..).trans hu)
    refine ⟨_, _, _, hx, hnest, floatDone_of ⟨?_, ?_, ?_, ?_⟩ ?_, Ctx.issued_stop is (Ctx.stopped_stop _ _ _), rfl, rfl, rfl, ?_, hmem⟩
    · simp [Ctx.issued, Ctx.finished, k]
    · simp [Ctx.issued, Ctx.finished, Ctx.stopped, k]
    · simp [Ctx.issued, Ctx.finished, Ctx.stopped, k]
    · simp [Ctx.issued, Ctx.finished, Ctx.stopped, k, fl]
    · rw [Ctx.issued_rngctr, Ctx.stopped_rngctr, Ctx.finished_rngctr]
    · rw [Ctx.issued_rec, ← Ctx.finished_rec (fl := fl) hkrec]
      exact Ctx.rec?_congr (Ctx.giveUp_split _ _) _

end Sys2Proof.Machine

/-! SUPPORT. Outstanding results (R199, R202, R204): what entering one does to the issuing context and to the machine. -/

namespace Sys2Proof.Machine

/-! ## Tags that fall -/

/-- Clearing the tags of the scalar registers that a result will write changes the agent's tags and the futures' sites only (R365). -/
theorem State.clearTags_spec (a : Agent) (l : List RegWrite) :
    ∀ {s : State} {c : Ctx}, s.ctx? a = some c →
    (∃ g, (s.clearTags a l).ctx? a = some { c with tags := g }) ∧ (s.clearTags a l).rest = s.rest ∧
      (∀ b, ctxKey b ≠ ctxKey a → (s.clearTags a l).ctx? b = s.ctx? b) := by
  induction l with
  | nil => exact fun {s c} h => ⟨⟨c.tags, h⟩, rfl, fun _ _ => rfl⟩
  | cons w l ih =>
    intro s c h
    have step : ∃ g, (match w.reg with | .s n => s.clearTag a n | _ => s).ctx? a = some { c with tags := g } ∧
        (match w.reg with | .s n => s.clearTag a n | _ => s).rest = s.rest ∧
        ∀ b, ctxKey b ≠ ctxKey a → (match w.reg with | .s n => s.clearTag a n | _ => s).ctx? b = s.ctx? b := by
      split
      · next n _ =>
        obtain ⟨⟨g, hc⟩, hrest, hother, -⟩ := State.clearTag_spec n h
        exact ⟨g, hc, hrest, hother⟩
      · exact ⟨c.tags, h, rfl, fun _ _ => rfl⟩
    obtain ⟨g, hc, hrest, hother⟩ := step
    obtain ⟨⟨g', hc'⟩, hrest', hother'⟩ := ih hc
    exact ⟨⟨g', hc'⟩, hrest'.trans hrest, fun b hb => (hother' b hb).trans (hother b hb)⟩

/-- A result that writes no scalar register clears no tag. -/
theorem State.clearTags_of_no_scalar (a : Agent) {l : List RegWrite} (h : ∀ w ∈ l, ∀ n, w.reg ≠ .s n) (s : State) :
    s.clearTags a l = s := by
  induction l generalizing s with
  | nil => rfl
  | cons w l ih =>
    have hw : (match w.reg with | .s n => s.clearTag a n | _ => s) = s := by
      split
      · next n hn => exact absurd hn (h w (by simp) n)
      · rfl
    exact (congrArg (fun s => State.clearTags s a l) hw).trans (ih (fun w hm => h w (by simp [hm])) s)

theorem known_no_scalar (l : List (Nat × Nat × W32)) : ∀ w ∈ known l, ∀ n, w.reg ≠ .s n := by
  intro w hw n
  obtain ⟨e, -, rfl⟩ := List.mem_map.mp hw
  exact Reg.noConfusion

/-! ## Entering a result -/

/-- A context with one more outstanding result, which its counter counts (R202). -/
def Ctx.entering (c : Ctx) (p : Pend) : Ctx :=
  let c := c.setCtr p.ctr (c.ctr p.ctr + 1)
  { c with pend := c.pend ++ [p] }

section
variable (c : Ctx) (p : Pend)

@[simp] theorem Ctx.entering_s : (c.entering p).s = c.s := by unfold Ctx.entering Ctx.setCtr; split <;> rfl
@[simp] theorem Ctx.entering_k : (c.entering p).k = c.k := by unfold Ctx.entering Ctx.setCtr; split <;> rfl
@[simp] theorem Ctx.entering_v : (c.entering p).v = c.v := by unfold Ctx.entering Ctx.setCtr; split <;> rfl
@[simp] theorem Ctx.entering_flags : (c.entering p).flags = c.flags := by unfold Ctx.entering Ctx.setCtr; split <;> rfl
@[simp] theorem Ctx.entering_split : (c.entering p).split = c.split := by unfold Ctx.entering Ctx.setCtr; split <;> rfl
@[simp] theorem Ctx.entering_pend : (c.entering p).pend = c.pend ++ [p] := by unfold Ctx.entering Ctx.setCtr; split <;> rfl

theorem Ctx.ctr_entering {k : Ctr} (hk : p.ctr = k) (h : k ≠ .none) : (c.entering p).ctr k = c.ctr k + 1 := by
  subst hk
  unfold Ctx.entering
  generalize p.ctr = k at h ⊢
  cases k <;> first | rfl | exact absurd rfl h

end

/-- Everything that entering a result does. -/
theorem State.addPend_spec {s : State} {a : Agent} {c : Ctx} (p : Pend) (h : s.ctx? a = some c) :
    (∃ g, (s.addPend a p).ctx? a = some (Ctx.entering { c with tags := g } p)) ∧ (s.addPend a p).rest = s.rest ∧
      ∀ b, ctxKey b ≠ ctxKey a → (s.addPend a p).ctx? b = s.ctx? b := by
  obtain ⟨⟨g, hc⟩, hrest, hother⟩ := State.clearTags_spec a p.writes h
  exact ⟨⟨g, State.ctx?_mapCtx_some _ hc⟩, (State.mapCtx_rest _ _ _).trans hrest,
    fun b hb => (State.ctx?_mapCtx_ne _ _ _ _ hb).trans (hother b hb)⟩

/-- A result that writes no scalar register changes the context by that result alone. -/
theorem State.addPend_eq (s : State) (a : Agent) {p : Pend} (hp : ∀ w ∈ p.writes, ∀ n, w.reg ≠ .s n) :
    s.addPend a p = s.mapCtx a (·.entering p) := by
  rw [State.addPend, State.clearTags_of_no_scalar a hp]
  rfl

/-- The result of an instruction, with its writes, its flags and its trap part. -/
def Iss.result (is : Iss) (id : Nat) (k : Ctr) (writes : List RegWrite) (flags : AMap (BitVec 5)) (trap : Option TrapInfo) : Pend :=
  { Pend.blank id k is with writes := writes, flags := flags, trap := trap }

/-- A counter reads the same behind an issue. -/
@[simp] theorem Ctx.ctr_moved (c : Ctx) (is : Iss) (k : Ctr) : (c.moved is).ctr k = c.ctr k := by
  cases k <;> simp [Ctx.ctr, Ctx.moved]

/-- An instruction whose body enters one result under the next number has entered it. -/
theorem State.entered {s t : State} {pm : Perm} {h : Hdr} {len : Nat} {u : Uses} {is : Iss} {k : Ctr} {writes : List RegWrite}
    {flags : AMap (BitVec 5)} {trap : Option TrapInfo} (hr : s.ready pm h len u = some is) (hk : k ≠ .none)
    (ht : ∀ b, t.ctx? b = (s.enter is (is.result s.uid k writes flags trap)).ctx? b) (hmem : t.mem = s.mem) (huid : t.uid = s.uid + 1) :
    Entered s (t.retire is) is k writes flags trap := by
  have hctx : ({ s with uid := s.uid + 1 } : State).ctx? is.a = some is.c := State.ready_ctx hr
  obtain ⟨⟨g, hc⟩, -, hother⟩ := State.addPend_spec (is.result s.uid k writes flags trap) hctx
  have huid' : (t.retire is).uid = t.uid := (congrArg State.uid (State.retire_rest t is) :)
  refine ⟨_, movesOn hr ((ht _).trans hc) (by simp) (fun b hb => (ht b).trans (hother b hb)), ?_, by simp; rfl, Ctx.sameS_moved is (by simp),
    Ctx.sameK_moved is (by simp), Ctx.sameV_moved is (by simp), Ctx.sameF_moved is (by simp), (State.retire_mem t is).trans hmem,
    huid'.trans huid⟩
  rw [Ctx.ctr_moved, Ctx.ctr_entering _ (is.result s.uid k writes flags trap) (k := k) rfl hk]
  cases k <;> rfl

end Sys2Proof.Machine

/-! SUPPORT. The long-latency functions (R204, R225). Their results stand in an entry of their own kind, from which a store may take
them, and the statement names a plain entry. -/

namespace Sys2Proof.Machine

/-- f.rcp of the f32 at v0 to v2. -/
def rcp : Instr := .fRcp plainHdr { ty := .f32, rnd := .rn, sr := false, sat := false } 2 0

theorem rcp_ready : shflState.ready .wave plainHdr 8 { rd := [.v 0 1], wr := [.v 2 1] } = some shflIss := by decide +kernel

/-- Which of an agent's outstanding results a store may take its value from, after a step. -/
def fwdAfter (a : Agent) : Host.Outcome State Fault Refusal → List Bool
  | .next t => ((t.ctx? a).map (fun c => c.pend.map (·.fwd))).getD []
  | _ => []

theorem rcp_fwd : fwdAfter shflIss.a (exec rcp shflState) = [false, true] := by decide +kernel

/-- Refutes O15: f.rcp with FPEN = 0 leaves an entry that a store may take its value from, which the entry of the statement is not. -/
theorem not_longLatency : ¬ Obligations.LongLatency := by
  rintro ⟨hlong, -⟩
  obtain ⟨-, hplain⟩ := hlong rcp shflState shflIss plainHdr _ _ _ rfl rcp_ready (by decide)
  obtain ⟨u, c, hx, ⟨hctx, -⟩, -, hpend, -⟩ := hplain (by decide)
  have hfwd := rcp_fwd
  rw [hx, fwdAfter, hctx] at hfwd
  simp [hpend, Pend.blank, shflIss, shflWave, failedLoad] at hfwd

end Sys2Proof.Machine

/-! SUPPORT. Updates of the amax table at issue (R192, R193): the word that an update carries is the OR of the NAN bits and the largest of
the magnitudes of its elements. -/

namespace Sys2Proof.Machine

/-! ## Words of the table -/

theorem and_low31 (x : W32) : (x &&& 0x7FFFFFFF).toNat = x.toNat % 2 ^ 31 := by
  rw [BitVec.toNat_and]
  exact Nat.and_two_pow_sub_one_eq_mod x.toNat 31

theorem low31_or_sign (n : W32) (h : ∀ i, i < 31 → n.getLsbD i = false) (a : W32) (ha : a.toNat < 2 ^ 31) :
    (n ||| a).toNat % 2 ^ 31 = a.toNat := by
  apply Nat.eq_of_testBit_eq
  intro i
  rw [Nat.testBit_mod_two_pow, BitVec.toNat_or, Nat.testBit_or]
  by_cases hi : i < 31
  · have : n.toNat.testBit i = false := h i hi
    simp [hi, this]
  · simp [hi, Nat.testBit_lt_two_pow (lt_of_lt_of_le ha (Nat.pow_le_pow_right (by decide) (Nat.not_lt.mp hi)))]

theorem amaxJoin_low (x y : W32) : (amaxJoin x y).toNat % 2 ^ 31 = max (x.toNat % 2 ^ 31) (y.toNat % 2 ^ 31) := by
  have hbit : ∀ i, i < 31 → (0x80000000 : W32).getLsbD i = false := by decide
  have hsign : ∀ i, i < 31 → ((x ||| y) &&& 0x80000000).getLsbD i = false := fun i hi => by
    rw [BitVec.getLsbD_and, hbit i hi, Bool.and_false]
  have hx := and_low31 x
  have hy := and_low31 y
  have hlt (n : Nat) : n % 2 ^ 31 < 2 ^ 31 := Nat.mod_lt _ (by decide)
  unfold amaxJoin
  dsimp only
  rw [low31_or_sign _ hsign _ (by split <;> omega)]
  split
  · next h => rw [BitVec.ult, decide_eq_true_eq] at h; omega
  · next h => rw [BitVec.ult, decide_eq_true_eq] at h; omega

theorem amaxJoin_sign (x y : W32) : (amaxJoin x y).getLsbD 31 = (x.getLsbD 31 || y.getLsbD 31) := by
  unfold amaxJoin
  dsimp only
  split <;> simp

/-- The word of a list of magnitudes. -/
def amaxWord (l : List Nat) : W32 := l.foldl (fun acc x => amaxJoin acc (BitVec.ofNat 32 x)) 0

theorem amaxWord_concat (l : List Nat) (x : Nat) : amaxWord (l ++ [x]) = amaxJoin (amaxWord l) (BitVec.ofNat 32 x) := by
  simp [amaxWord]

theorem ofNat_low31 (x : Nat) : (BitVec.ofNat 32 x).toNat % 2 ^ 31 = x % 2 ^ 31 := by
  rw [BitVec.toNat_ofNat]; omega

theorem amaxWord_sign (l : List Nat) : (amaxWord l).getLsbD 31 = true ↔ ∃ x ∈ l, x / 2 ^ 31 % 2 = 1 := by
  induction l using List.reverseRecOn with
  | nil => simp [amaxWord]
  | append_singleton l x ih =>
    have hx : (BitVec.ofNat 32 x).getLsbD 31 = decide (x / 2 ^ 31 % 2 = 1) := by
      rw [BitVec.getLsbD_ofNat]
      simp [Nat.testBit_eq_decide_div_mod_eq]
    rw [amaxWord_concat, amaxJoin_sign, Bool.or_eq_true, ih, hx, decide_eq_true_eq]
    simp only [List.mem_append, List.mem_singleton, or_and_right, exists_or, exists_eq_left]

/-- The magnitude of the word is at least that of each element, and that of one of them or zero. -/
theorem amaxWord_low (l : List Nat) : (∀ x ∈ l, x % 2 ^ 31 ≤ (amaxWord l).toNat % 2 ^ 31) ∧
    ((amaxWord l).toNat % 2 ^ 31 = 0 ∨ ∃ x ∈ l, (amaxWord l).toNat % 2 ^ 31 = x % 2 ^ 31) := by
  induction l using List.reverseRecOn with
  | nil => simp [amaxWord]
  | append_singleton l x ih =>
    obtain ⟨hall, hone⟩ := ih
    rw [amaxWord_concat, amaxJoin_low, ofNat_low31]
    refine ⟨fun y hy => ?_, ?_⟩
    · rcases List.mem_append.mp hy with hy | hy
      · exact le_max_of_le_left (hall y hy)
      · rw [List.mem_singleton.mp hy]; exact le_max_right _ _
    · rcases le_total ((amaxWord l).toNat % 2 ^ 31) (x % 2 ^ 31) with h | h
      · rw [max_eq_right h]; exact Or.inr ⟨x, by simp, rfl⟩
      · rw [max_eq_left h]
        exact hone.imp_right fun ⟨y, hy, he⟩ => ⟨y, List.mem_append_left _ hy, he⟩

/-! ## The instruction -/

@[simp] theorem State.quad_mapQuad (s : State) (q : Nat) (f : Quad → Quad) : (s.mapQuad q f).quad q = f (s.quad q) :=
  AMap.get_set_same _ _ _ _

theorem State.quad_mapQuad_ne (s : State) (q k : Nat) (f : Quad → Quad) (h : k ≠ q) : (s.mapQuad q f).quad k = s.quad k :=
  AMap.get_set_ne _ _ _ _ _ h

theorem State.quad_congr {s t : State} (h : t.quads = s.quads) (q : Nat) : t.quad q = s.quad q := by
  unfold State.quad
  rw [h]

/-- One update more behind those on their way to the table. -/
def Quad.amaxSent (q : Quad) (id : Nat) (a : Agent) (entry : Nat) (w : W32) : Quad := { q with amaxQ := q.amaxQ ++ [(id, a, id, entry, w)] }

theorem exec_fAmax (h : Hdr) (t : TField) (a : RegNo) (src : Src) (s : State) :
    exec (.fAmax h t a src) s = issue .wave h 8 { rd := .v a t.ty.regs :: srcUseS src, wr := [] } s (fun is s => do
      is.room .ec
      pure ((s.enter is (Pend.blank s.uid .ec is)).mapQuad (quadOf is.a)
        (·.amaxSent s.uid is.a (is.amaxEntry src) (amaxWord (amaxCodes is t a))))) := by
  have hword (is : Iss) : is.p.list.foldl (fun acc i => (elems t.ty (is.v a i).toNat).foldl (fun acc x =>
      amaxJoin acc (BitVec.ofNat 32 (amaxOf t.ty x))) acc) (0 : W32) = amaxWord (amaxCodes is t a) := by
    unfold amaxWord amaxCodes
    rw [List.foldl_flatMap]
    simp only [List.foldl_map]
  show execFAmax h t a src s = _
  simp only [execFAmax, hword]
  rfl

/-- Settles O17: the instruction enters one result without writes, and the update's word is that of its elements. -/
theorem amaxUpdate : Obligations.AmaxUpdate := by
  intro s is h t a src hr hroom
  have hbody : (is.room .ec >>= fun _ => pure ((s.enter is (Pend.blank s.uid .ec is)).mapQuad (quadOf is.a)
      (·.amaxSent s.uid is.a (is.amaxEntry src) (amaxWord (amaxCodes is t a)))) : Res State) = .ok _ :=
    (require_bind _ _ _).trans (if_pos (decide_eq_true hroom))
  have hx := (exec_fAmax h t a src s).trans (issue_ready hr hbody)
  have hquads : (s.enter is (Pend.blank s.uid .ec is)).quads = s.quads := by
    rw [State.enter, State.addPend_eq _ _ (by simp [Pend.blank])]
    simp
  have hmem : (s.enter is (Pend.blank s.uid .ec is)).rest = ({ s with uid := s.uid + 1 } : State).rest :=
    (State.addPend_spec _ (show ({ s with uid := s.uid + 1 } : State).ctx? is.a = some is.c from State.ready_ctx hr)).2.1
  refine ⟨_, hx, State.entered (writes := []) (flags := []) (trap := none) hr (by simp) (fun b => rfl)
    (congrArg State.mem hmem :) (congrArg State.uid hmem :), ?_, amaxWord (amaxCodes is t a), ?_, amaxWord_sign _, (amaxWord_low _).1,
    (amaxWord_low _).2⟩
  · rw [State.quad_congr (State.retire_quads _ _), State.quad_mapQuad, ← State.quad_congr hquads]; rfl
  · rw [State.quad_congr (State.retire_quads _ _), State.quad_mapQuad, ← State.quad_congr hquads]; rfl

end Sys2Proof.Machine

/-! SUPPORT. The l-class instructions of threads (R137, R147 to R149, R151): their checks, once for every form, and what each does when
they pass. -/

namespace Sys2Proof.Machine

section
variable {f : LForm} {s : State} {is : Iss}

/-! ## The checks -/

/-- The places with their addresses, as the range check of R137 sees them. -/
def LForm.seen (f : LForm) (s : State) (is : Iss) (l : Nat) : Nat × Nat × Option LsAt := (l, f.addr is l, s.lsOf is.a is.c (f.addr is l))

/-- A seen place whose n bytes do not all lie in a window. -/
def leavesWindow (n : Nat) (e : Nat × Nat × Option LsAt) : Bool :=
  match e.2.2 with | none => true | some p => decide (p.limit < p.off + n)

/-- The range check and then the alignment, of places that have been seen (R137, R148). -/
def Iss.placesSeen (is : Iss) (n align : Nat) (l : List (Nat × Nat)) (ps : List (Nat × Nat × Option LsAt)) : Res (List (Nat × LsAt)) := do
  match ps.filter (leavesWindow n) with
  | e :: _ => .error (is.fault Code.lsRange e.2.1 (lanesOf ((ps.filter (leavesWindow n)).map (·.1))))
  | [] => pure ()
  is.aligned align l
  pure (ps.filterMap (fun e => e.2.2.map (fun p => (e.1, p))))

/-- A lane is what its pair with a value names. -/
theorem map_fst_lanes {β : Type} (g : Nat → β) (ls : List Nat) : (ls.map (fun l => (l, g l))).map (·.1) = ls := by
  rw [List.map_map]; exact List.map_id _

theorem LForm.lsPlaces_eq :
    is.lsPlaces s f.n f.align (is.p.list.map (fun l => (l, is.lsAddr f.vadr f.a f.imm l))) =
      match is.p.list.filter (f.out s is) with
      | j :: l => .error (is.fault Code.lsRange (f.addr is j) (lanesOf (j :: l)))
      | [] => is.aligned f.align (is.p.list.map (fun l => (l, f.addr is l))) >>= fun _ => pure (f.spots s is) := by
  have hseen : (is.p.list.map (fun l => (l, is.lsAddr f.vadr f.a f.imm l))).map (fun e => (e.1, e.2, s.lsOf is.a is.c e.2)) =
      is.p.list.map (f.seen s is) := List.map_map
  have hbad : (is.p.list.map (f.seen s is)).filter (leavesWindow f.n) = (is.p.list.filter (f.out s is)).map (f.seen s is) :=
    List.filter_map
  have hspots : (is.p.list.map (f.seen s is)).filterMap (fun e => e.2.2.map (fun p => (e.1, p))) = f.spots s is := List.filterMap_map
  show is.placesSeen f.n f.align (is.p.list.map (fun l => (l, is.lsAddr f.vadr f.a f.imm l)))
    ((is.p.list.map (fun l => (l, is.lsAddr f.vadr f.a f.imm l))).map (fun e => (e.1, e.2, s.lsOf is.a is.c e.2))) = _
  rw [hseen, Iss.placesSeen, hbad, hspots]
  cases is.p.list.filter (f.out s is) with
  | nil => rfl
  | cons j l =>
    have hlanes : ((j :: l).map (f.seen s is)).map (·.1) = j :: l := map_fst_lanes _ _
    show Except.error (is.fault Code.lsRange (f.addr is j) (lanesOf (((j :: l).map (f.seen s is)).map (·.1)))) = _
    rw [hlanes]

theorem Iss.aligned_lanes (n : Nat) (g : Nat → Nat) (ls : List Nat) :
    is.aligned n (ls.map (fun l => (l, g l))) =
      match ls.filter (fun k => g k % n ≠ 0) with
      | j :: l => .error (is.fault Code.align (g j) (lanesOf (j :: l)))
      | [] => .ok () := by
  have hbad : (ls.map (fun l => (l, g l))).filter (fun e => e.2 % n ≠ 0) = (ls.filter (fun k => g k % n ≠ 0)).map (fun l => (l, g l)) := by
    rw [List.filter_map]
    rfl
  unfold Iss.aligned
  rw [hbad]
  cases ls.filter (fun k => g k % n ≠ 0) with
  | nil => rfl
  | cons j l =>
    show Except.error (is.fault Code.align (g j) (lanesOf (((j :: l).map (fun l => (l, g l))).map (·.1)))) = _
    rw [map_fst_lanes]

/-- A thread outside its window: LS_RANGE (R137). -/
theorem LForm.lsEnter_out {j : Nat} {l : List Nat} (g : Bool) (h : is.p.list.filter (f.out s is) = j :: l) :
    is.lsEnter s f.vadr f.a f.imm f.n f.align g = .error (is.fault Code.lsRange (f.addr is j) (lanesOf (j :: l))) := by
  unfold Iss.lsEnter
  rw [LForm.lsPlaces_eq, h]
  rfl

/-- Every thread in its window, but an address not aligned: ALIGN (R148). -/
theorem LForm.lsEnter_misaligned {j : Nat} {l : List Nat} (g : Bool) (h0 : is.p.list.filter (f.out s is) = [])
    (h : is.p.list.filter (fun k => f.addr is k % f.align ≠ 0) = j :: l) :
    is.lsEnter s f.vadr f.a f.imm f.n f.align g = .error (is.fault Code.align (f.addr is j) (lanesOf (j :: l))) := by
  unfold Iss.lsEnter
  rw [LForm.lsPlaces_eq, h0]
  simp only
  rw [Iss.aligned_lanes, h]
  rfl

theorem Iss.boardReady_offBoard {n : Nat} {ps : List LsAt} (h : is.offBoard s n ps) : is.boardReady s n ps = .ok () := by
  have hany : (s.core (coreOf is.a)).board.any (fun b => ps.any (fun p =>
      p.ref == .team b.team && (List.range n).any (fun i => b.covers (p.off + i)))) = false := by
    rw [List.any_eq_false]
    intro b hb
    rw [Bool.not_eq_true, List.any_eq_false]
    intro p hp
    rw [Bool.not_eq_true, Bool.and_eq_false_iff]
    by_cases href : p.ref = .team b.team
    · refine Or.inr (List.any_eq_false.mpr fun i hi => ?_)
      rw [h b hb p hp href i (List.mem_range.mp hi)]
      simp
    · exact Or.inl (beq_eq_false_iff_ne.mpr href)
  rw [Iss.boardReady, hany]
  rfl

/-- The checks of an access that passes, with the granules that it touches latched where it has data (R142, R149). -/
theorem LForm.lsEnter_passes (h : f.passes s is) (g : Bool) :
    is.lsEnter s f.vadr f.a f.imm f.n f.align g = .ok (f.spots s is, if g then f.touched s is else s) := by
  obtain ⟨hall, hq, hb⟩ := h
  have hout : is.p.list.filter (f.out s is) = [] := List.filter_eq_nil_iff.mpr fun l hl => by simp [(hall l hl).1]
  have hal : is.p.list.filter (fun k => f.addr is k % f.align ≠ 0) = [] := List.filter_eq_nil_iff.mpr fun l hl => by simp [(hall l hl).2]
  unfold Iss.lsEnter
  rw [LForm.lsPlaces_eq, hout]
  simp only
  rw [Iss.aligned_lanes, hal]
  simp only [Iss.memReady_quiet hq]
  show (is.boardReady s f.n ((f.spots s is).map (·.2)) >>= fun _ => _) = _
  rw [Iss.boardReady_offBoard hb]
  rfl

theorem Iss.room_ok {k : Ctr} (h : is.c.ctr k < 63) : is.room k = .ok () := by
  rw [Iss.room, decide_eq_true h]
  rfl

end

/-- An l-class instruction with data latches the guard granules that it touches (R142, R149). -/
def guarded : Instr → Bool
  | .lSwz .. => false
  | _ => true

/-- What each form does past its checks, with the places that they have found. -/
def localRest (i : Instr) (is : Iss) (r : List (Nat × LsAt) × State) : Res State :=
  let s := r.2
  match i with
  | .lLd _ _ sx d _ sz _ => do
    is.room .ldc
    pure (r.1.foldl (fun u e => u.mapPend is.a s.uid (fun p => p.fill e.1 (szBytes sz) sx (u.lsRead e.2.ref e.2.off (szBytes sz))))
      (s.enter is (Pend.awaiting s.uid .ldc is (is.p.list.flatMap (fun l => is.loadRegs d sz l)) [])))
  | .lSt _ _ _ b sz _ => do
    is.room .stc
    pure (r.1.foldl (fun u e => u.lsWrite e.2.ref e.2.off (is.storeBytes b (szBytes sz) e.1)) (s.enter is (Pend.blank s.uid .stc is)))
  | .lFill _ _ _ b c _ => do
    is.room .stc
    pure (r.1.foldl (fun u e => u.lsWrite e.2.ref e.2.off ((List.range c.toNat).flatMap (fun _ => leBytes 4 (is.v b e.1).toNat)))
      (s.enter is (Pend.blank s.uid .stc is)))
  | .lSwz _ _ _ tag _ => do
    is.room .stc
    pure (r.1.foldl (fun u e => u.setTag e.2.ref e.2.off tag.toNat) (s.enter is (Pend.blank s.uid .stc is)))
  | .lAtom _ _ t d _ b opr _ => do
    is.room .ldc
    let o := lsAtomics (t.ty.bits / 8) (fun l old => atomOp opr t.ty old (is.vw t.ty.is64 b l)) r.1 s
    o.1.pendV is .ldc t.ty.is64 d o.2
  | .lCas _ _ t d _ b c _ => do
    is.room .ldc
    let o := lsAtomics (t.ty.bits / 8) (fun l old => if old = is.vw t.ty.is64 b l then is.vw t.ty.is64 c l else old) r.1 s
    o.1.pendV is .ldc t.ty.is64 d o.2
  | _ => pure s

/-- Every form begins with the same checks. -/
theorem exec_localForm {i : Instr} {f : LForm} (hf : localForm i = some f) (s : State) :
    exec i s = issue .wave f.h 12 f.uses s (fun is s => is.lsEnter s f.vadr f.a f.imm f.n f.align (guarded i) >>= localRest i is) := by
  unfold localForm at hf
  split at hf <;> cases hf <;> rfl

section
variable {i : Instr} {f : LForm} {s : State} {is : Iss} (hf : localForm i = some f) (hr : s.ready .wave f.h 12 f.uses = some is)
include hf hr

theorem exec_localForm_passes {t : State} (hp : f.passes s is)
    (h : localRest i is (f.spots s is, if guarded i then f.touched s is else s) = .ok t) : exec i s = .next (t.retire is) := by
  refine (exec_localForm hf s).trans (issue_ready hr ?_)
  rw [LForm.lsEnter_passes hp]
  exact h

theorem exec_localForm_fails {e : Exc} (h : is.lsEnter s f.vadr f.a f.imm f.n f.align (guarded i) = .error e) :
    exec i s = .next (s.except is e) := by
  refine (exec_localForm hf s).trans (issue_error hr ?_)
  rw [h]
  rfl

end

/-- A vector result of known values is entered where its counter has room. -/
theorem State.pendV_eq (s : State) {is : Iss} {k : Ctr} (wide : Bool) (d : RegNo) (vals : List (Nat × Nat)) (h : is.c.ctr k < 63) :
    s.pendV is k wide d vals = .ok (s.enter is { Pend.blank s.uid k is with writes := known (is.vWrites wide d vals) }) := by
  rw [State.pendV, Iss.room_ok h]
  rfl

/-- Settles O18: each form's body past the checks that pass, and the faults of the checks, in their order. -/
theorem localAccess : Obligations.LocalAccess := by
  refine ⟨⟨?_, ?_, ?_, ?_, ?_, ?_⟩, fun i s is f hf hr => ⟨fun j l h => ?_, fun j l h0 h => ?_⟩⟩
  · intro s is h vadr sx d a sz imm f hf hr hp hroom
    cases hf
    refine exec_localForm_passes rfl hr hp ?_
    rw [Iss.loadPend, List.append_nil, localRest, Iss.room_ok (k := .ldc) hroom]
    rfl
  · intro s is h vadr a b sz imm f hf hr hp hroom
    cases hf
    refine exec_localForm_passes rfl hr hp ?_
    rw [localRest, Iss.room_ok (k := .stc) hroom]
    rfl
  · intro s is h vadr a b c imm f hf hr hp hroom
    cases hf
    refine exec_localForm_passes rfl hr hp ?_
    rw [localRest, Iss.room_ok (k := .stc) hroom]
    rfl
  · intro s is h vadr a tag imm f hf hr hp hroom
    cases hf
    refine exec_localForm_passes rfl hr hp ?_
    rw [localRest, Iss.room_ok (k := .stc) hroom]
    rfl
  · intro s is h vadr t d a b opr imm f hf hr hp hroom
    cases hf
    refine exec_localForm_passes rfl hr hp ?_
    rw [localRest, Iss.room_ok (k := .ldc) hroom]
    exact State.pendV_eq _ _ _ _ hroom
  · intro s is h vadr t d a b c imm f hf hr hp hroom
    cases hf
    refine exec_localForm_passes rfl hr hp ?_
    rw [localRest, Iss.room_ok (k := .ldc) hroom]
    exact State.pendV_eq _ _ _ _ hroom
  · exact exec_localForm_fails hf hr (LForm.lsEnter_out _ h)
  · exact exec_localForm_fails hf hr (LForm.lsEnter_misaligned _ h0 h)

end Sys2Proof.Machine

/-! SUPPORT. Local tile moves (R137, R144, R146, R150, R233 to R235): their checks in order, and what each does past them. -/

namespace Sys2Proof.Machine

/-- An outstanding result is a load into a tile (R235). -/
def Pend.loadsTile (n : Nat) (p : Pend) : Bool := match p.tile with | some (t, _) => t == n | none => false

theorem Pend.loadsTile_of_ne {n : Nat} {p : Pend} (h : ¬ p.tile.map (·.1) = some n) : p.loadsTile n = false := by
  unfold Pend.loadsTile
  split
  · next t m ht => rw [ht] at h; exact beq_eq_false_iff_ne.mpr fun e => h (by simp [e])
  · rfl

theorem Iss.tileWait_eq (is : Iss) (s : State) (n : Nat) (tasks : Bool) : is.tileWait s n tasks = (do
    match is.c.pend.find? (fun p => p.loadsTile n && p.fail.isSome) with
    | some p => .error (.failed p.id)
    | none => pure ()
    require (!s.ctxs.any (fun e => e.2.team = is.c.team && e.2.pend.any (Pend.loadsTile n))) .stall
    require (!tasks || !(s.quad (quadOf is.a)).tasks.any (fun t => t.team = is.c.team && t.tiles.contains n)) .stall) := rfl

/-- Nothing that a tile's move waits for is under way (R235). -/
theorem Iss.tileWait_free {is : Iss} {s : State} {n : Nat} (h : is.tileFree s n) (tasks : Bool) : is.tileWait s n tasks = .ok () := by
  obtain ⟨hown, hteam, htasks⟩ := h
  have hfind : is.c.pend.find? (fun p => p.loadsTile n && p.fail.isSome) = none :=
    List.find?_eq_none.mpr fun p hp => by rw [Pend.loadsTile_of_ne (hown p hp)]; simp
  have hany : s.ctxs.any (fun e => e.2.team = is.c.team && e.2.pend.any (Pend.loadsTile n)) = false := by
    rw [List.any_eq_false]
    intro e he
    rw [Bool.not_eq_true, Bool.and_eq_false_iff]
    by_cases ht : e.2.team = is.c.team
    · exact Or.inr (List.any_eq_false.mpr fun p hp => by rw [Pend.loadsTile_of_ne (hteam e he ht p hp)]; simp)
    · exact Or.inl (decide_eq_false ht)
  have htask : (s.quad (quadOf is.a)).tasks.any (fun t => t.team = is.c.team && t.tiles.contains n) = false := by
    rw [List.any_eq_false]
    intro t ht
    rw [Bool.not_eq_true, Bool.and_eq_false_iff]
    by_cases hk : t.team = is.c.team
    · exact Or.inr (by simpa using htasks t ht hk)
    · exact Or.inl (decide_eq_false hk)
  rw [Iss.tileWait_eq, hfind, hany, htask]
  cases tasks <;> rfl

theorem Iss.memReady_bind {α : Type} {is : Iss} {s : State} (h : is.quiet s) (k : Unit → Res α) : (is.memReady s >>= k) = k () := by
  rw [Iss.memReady_quiet h]; rfl

theorem Iss.room_bind {α : Type} {is : Iss} {c : Ctr} (h : is.c.ctr c < 63) (k : Unit → Res α) : (is.room c >>= k) = k () := by
  rw [Iss.room_ok h]; rfl

/-- The places of chunks under their swizzle. -/
def chunkPlaces (cs : List Chunk) : List LsAt := cs.map (fun c => { c.at_ with off := c.phys })

/-- What a local tile move does once its core's scoreboard lets it go on: the tags, what it waits for, and the move. -/
def localTileMove (store : Bool) (is : Iss) (d : RegNo) (s : State) (r : Team × Shape × List Chunk) : Res State := do
  let cs := r.2.2
  match (if store then none else s.badTag r.2.1.swz cs) with
  | some c => .error (is.fault Code.swz (c.addr - c.addr % 512) is.p)
  | none => pure ()
  is.tileWait s d.toNat true
  is.room (if store then .stc else .ldc)
  let s := s.touchChunks is.a is.pc cs
  if store then
    pure (cs.foldl (fun u c =>
        (u.lsWrite c.at_.ref c.phys (bytesAt r.1.tiles (tileAddr d.toNat c.row c.byte) c.n)).setTag c.at_.ref c.phys r.2.1.swz)
      (s.enter is (Pend.blank s.uid .stc is)))
  else
    pure (s.enter is { Pend.blank s.uid .ldc is with
      tile := some (d.toNat, cs.foldl (fun m c => putAll m (256 * c.row + c.byte) (s.readChunk c)) []) })

/-- What it does past its checks of the shape, the range and the alignment. -/
def localTileRest (store : Bool) (is : Iss) (d : RegNo) (s : State) (r : Team × Shape × List Chunk) : Res State := do
  is.memReady s
  is.boardReady s 16 (chunkPlaces r.2.2)
  localTileMove store is d s r

theorem localTileRest_ready {store : Bool} {is : Iss} {d : RegNo} {s : State} {r : Team × Shape × List Chunk} (hq : is.quiet s)
    (hoff : is.offBoard s 16 (chunkPlaces r.2.2)) : localTileRest store is d s r = localTileMove store is d s r := by
  rw [localTileRest, Iss.memReady_quiet hq, Iss.boardReady_offBoard hoff]
  rfl

theorem exec_localTile (store : Bool) (h : Hdr) (d a b : RegNo) (imm : BitVec 32) (s : State) :
    exec (if store then .lStt h d a b imm else .lLdt h d a b imm) s = issue .core h 12 { rd := [.s a, .s b], wr := [] } s
      (fun is s => is.lsTile s d a b imm >>= localTileRest store is d s) := by
  cases store <;> rfl

section
variable {store : Bool} {s : State} {is : Iss} {h : Hdr} {d a b : RegNo} {imm : BitVec 32} {tm : Team} {sh : Shape}
  (hr : s.ready .core h 12 { rd := [.s a, .s b], wr := [] } = some is) (ht : s.teams.find is.c.team = some tm)

include ht in
theorem Iss.tileShape_none {n : Nat} (hsh : tm.shape n = none) : is.tileShape s n = .error (is.fault0 Code.tileShape) := by
  simp only [Iss.tileShape, State.teamOf, ht, hsh]

include ht in
theorem Iss.tileShape_some {n : Nat} (hsh : tm.shape n = some sh) : is.tileShape s n = .ok (tm, sh) := by
  simp only [Iss.tileShape, State.teamOf, ht, hsh]

include ht in
/-- The checks of a valid tile's move: the range and then the alignment (R137, R150). -/
theorem Iss.lsTile_valid (hsh : tm.shape d.toNat = some sh) :
    is.lsTile s d a b imm = match s.chunks is.c.team sh.swz sh.rb (is.lsRows a b imm sh.rows) with
      | .error x => .error (is.fault Code.lsRange x is.p)
      | .ok cs => if ((is.s a).toNat + imm.toNat) % 2 ^ 32 % 16 = 0 ∧ (is.s b).toNat % 16 = 0 then .ok (tm, sh, cs)
        else .error (is.fault Code.align (((is.s a).toNat + imm.toNat) % 2 ^ 32) is.p) := by
  unfold Iss.lsTile
  rw [Iss.tileShape_some ht hsh]
  show (match s.chunks is.c.team sh.swz sh.rb (is.lsRows a b imm sh.rows) with
      | .error x => .error (is.fault Code.lsRange x is.p)
      | .ok cs => require (((is.s a).toNat + imm.toNat) % 2 ^ 32 % 16 = 0 && (is.s b).toNat % 16 = 0)
          (is.fault Code.align (((is.s a).toNat + imm.toNat) % 2 ^ 32) is.p) >>= fun _ => pure (tm, sh, cs) : Res (Team × Shape × List Chunk)) = _
  cases s.chunks is.c.team sh.swz sh.rb (is.lsRows a b imm sh.rows) with
  | error x => rfl
  | ok cs =>
    simp only [require_bind, ← Bool.decide_and, decide_eq_true_eq]
    rfl

include hr in
theorem exec_localTile_fails {e : Exc} (he : is.lsTile s d a b imm = .error e) :
    exec (if store then .lStt h d a b imm else .lLdt h d a b imm) s = .next (s.except is e) := by
  rw [exec_localTile]
  exact issue_error hr (by rw [he]; rfl)

include hr in
theorem exec_localTile_rest {r : Team × Shape × List Chunk} (ho : is.lsTile s d a b imm = .ok r) :
    (∀ e, localTileRest store is d s r = .error e → exec (if store then .lStt h d a b imm else .lLdt h d a b imm) s = .next (s.except is e)) ∧
    ∀ t, localTileRest store is d s r = .ok t → exec (if store then .lStt h d a b imm else .lLdt h d a b imm) s = .next (t.retire is) := by
  rw [exec_localTile]
  exact ⟨fun e he => issue_error hr (by rw [ho]; exact he), fun t he => issue_ready hr (by rw [ho]; exact he)⟩

end

/-- Settles O19: the checks of `Iss.lsTile`, then those that wait and the tags, and the move. -/
theorem localTiles : Obligations.LocalTiles := by
  intro store s is h d a b imm tm sh hr ht i base
  refine ⟨fun hsh => exec_localTile_fails hr ?_, fun hsh => ⟨fun x hx => exec_localTile_fails hr ?_, fun cs hcs => ?_⟩⟩
  · unfold Iss.lsTile
    rw [Iss.tileShape_none ht hsh]
    rfl
  · rw [Iss.lsTile_valid ht hsh, hx]
  · intro s1
    have hchecks := Iss.lsTile_valid (d := d) (a := a) (b := b) (imm := imm) ht hsh
    rw [hcs] at hchecks
    refine ⟨fun hal => exec_localTile_fails hr ?_, fun ha hb hq hoff => ?_⟩
    · rw [hchecks]
      exact if_neg (by omega)
    · have hok : is.lsTile s d a b imm = .ok (tm, sh, cs) := hchecks.trans (if_pos ⟨ha, hb⟩)
      obtain ⟨hfail, hdone⟩ := exec_localTile_rest (store := store) hr hok
      have hmove := localTileRest_ready (store := store) (d := d) (r := (tm, sh, cs)) hq hoff
      refine ⟨fun c hst hbad => hfail _ ?_, fun hfree => ⟨fun hst hbad hroom => hdone _ ?_, fun hst hroom => hdone _ ?_⟩⟩
      · subst hst
        rw [hmove]
        simp only [localTileMove, hbad]
        rfl
      · subst hst
        rw [hmove]
        simp only [localTileMove, hbad, Iss.tileWait_free hfree]
        exact Iss.room_bind (c := .ldc) hroom _
      · subst hst
        rw [hmove]
        simp only [localTileMove, Iss.tileWait_free hfree]
        exact Iss.room_bind (c := .stc) hroom _

end Sys2Proof.Machine

/-! SUPPORT. Caches and requests: what the operations of a core's L1, its combining buffers and its requests leave of the machine, said
once for each (R79, R107 to R110, R114, R278). -/

namespace Sys2Proof.Machine

/-! ## What is outside the caches -/

/-- A core without its L1 and its combining buffers: its attributes, its filters and the rest. -/
def Core.frame (c : Core) : Core := { c with l1 := [], wc := [] }

/-- The machine without its caches and the requests under way, and what every core has beside its caches. -/
def State.shell (s : State) : State × (Nat → Core) :=
  ({ s with cores := [], llc := [], reqs := [], uid := 0 }, fun k => (s.core k).frame)

section
variable {s t : State} (h : t.shell = s.shell)
include h

theorem State.shell_fst : ({ t with cores := [], llc := [], reqs := [], uid := 0 } : State) = { s with cores := [], llc := [], reqs := [], uid := 0 } :=
  congrArg Prod.fst h
theorem State.shell_core (k : Nat) : (t.core k).frame = (s.core k).frame := congrFun (congrArg Prod.snd h) k
theorem State.shell_ctxs : t.ctxs = s.ctxs := (congrArg State.ctxs (State.shell_fst h) :)
theorem State.shell_ctx? (a : Agent) : t.ctx? a = s.ctx? a := State.ctx?_congr (State.shell_ctxs h) a
theorem State.shell_mem : t.mem = s.mem := (congrArg State.mem (State.shell_fst h) :)
theorem State.shell_teams : t.teams = s.teams := (congrArg State.teams (State.shell_fst h) :)
theorem State.shell_quads : t.quads = s.quads := (congrArg State.quads (State.shell_fst h) :)
theorem State.shell_dies : t.dies = s.dies := (congrArg State.dies (State.shell_fst h) :)
theorem State.shell_parts : t.parts = s.parts := (congrArg State.parts (State.shell_fst h) :)
theorem State.shell_dieParts : t.dieParts = s.dieParts := (congrArg State.dieParts (State.shell_fst h) :)
theorem State.shell_ranges : t.ranges = s.ranges := (congrArg State.ranges (State.shell_fst h) :)
theorem State.shell_waiters : t.waiters = s.waiters := (congrArg State.waiters (State.shell_fst h) :)
theorem State.shell_tick : t.tick = s.tick := (congrArg State.tick (State.shell_fst h) :)

theorem State.shell_attr (core aid : Nat) : t.attr core aid = s.attr core aid := by
  have hc : (t.core core).attr = (s.core core).attr := (congrArg Core.attr (State.shell_core h core) :)
  unfold State.attr
  rw [hc]

theorem State.shell_part (p : Nat) : t.part p = s.part p := by
  unfold State.part
  rw [State.shell_parts h]

/-- Where an access leads is a matter of the filters, the attributes and the regions. -/
theorem State.shell_route (core part va : Nat) (write atom : Bool) : t.route core part va write atom = s.route core part va write atom := by
  have hf : (t.core core).filters = (s.core core).filters := (congrArg Core.filters (State.shell_core h core) :)
  unfold State.route
  simp only [hf, State.shell_part h, State.shell_attr h]

end

/-! ## The operations -/

theorem State.core_mapCore (s : State) (k j : Nat) (f : Core → Core) : (s.mapCore k f).core j = if j = k then f (s.core k) else s.core j := by
  exact AMap.get_set _ _ _ _ _

/-- A change of a core's caches alone. -/
theorem State.mapCore_shell {s : State} {k : Nat} {f : Core → Core} (hf : ∀ c, (f c).frame = c.frame) : (s.mapCore k f).shell = s.shell := by
  refine Prod.ext rfl (funext fun j => ?_)
  show ((s.mapCore k f).core j).frame = (s.core j).frame
  rw [State.core_mapCore]
  split
  · next h => rw [hf, h]
  · rfl

@[simp] theorem Core.l1Put_frame (c : Core) (l : L1Line) (stream : Bool) : (c.l1Put l stream).frame = c.frame := rfl
@[simp] theorem Core.l1Map_frame (c : Core) (f : L1Line → L1Line) : (c.l1Map f).frame = c.frame := rfl

theorem foldl_shell {α : Type} (f : State → α → State) (h : ∀ s x, (f s x).shell = s.shell) (l : List α) (s : State) :
    (l.foldl f s).shell = s.shell := foldl_get_eq State.shell f l s fun s x _ => h s x

@[simp] theorem State.send_shell (s : State) (r : Req) (after : List Nat) : (s.send r after).shell = s.shell := rfl
@[simp] theorem State.reqs_shell (s : State) (l : List Req) : ({ s with reqs := l } : State).shell = s.shell := rfl
@[simp] theorem State.noFill_shell (s : State) (core : Nat) (p : Nat → Bool) : (s.noFill core p).shell = s.shell := rfl
@[simp] theorem State.llcPut_shell (s : State) (l : LlcLine) : (s.llcPut l).shell = s.shell := rfl
@[simp] theorem State.llcDel_shell (s : State) (l : LlcLine) : (s.llcDel l).shell = s.shell := rfl
@[simp] theorem State.writeBack_shell (s : State) (core : Nat) (l : L1Line) (after : List Nat) :
    (s.writeBack core l after).shell = s.shell := by
  unfold State.writeBack; dsimp only; split <;> rfl
@[simp] theorem State.sendCopy_shell (s : State) (l : LlcLine) : (s.sendCopy l).shell = s.shell := by
  unfold State.sendCopy; split <;> rfl
@[simp] theorem State.copyOut_shell (s : State) (die part line gen : Nat) : (s.copyOut die part line gen).shell = s.shell := by
  unfold State.copyOut; split <;> simp
@[simp] theorem State.l1Evict_shell (s : State) (core : Nat) (l : L1Line) : (s.l1Evict core l).shell = s.shell := by
  rw [State.l1Evict, State.noFill_shell, State.writeBack_shell]
  exact State.mapCore_shell fun _ => rfl
@[simp] theorem State.l1Clear_shell (s : State) (core line gen : Nat) : (s.l1Clear core line gen).shell = s.shell := by
  unfold State.l1Clear; split
  · split <;> simp
  · rfl
@[simp] theorem State.l1Room_shell (s : State) (core line : Nat) : (s.l1Room core line).shell = s.shell := by
  unfold State.l1Room; split <;> simp
@[simp] theorem State.l1Store_shell (s : State) (core line gen ch : Nat) (mask : BitVec 128) (data : BitVec 1024) (who : Who) :
    (s.l1Store core line gen ch mask data who).shell = s.shell := by
  unfold State.l1Store; split
  · exact State.mapCore_shell fun _ => rfl
  · dsimp only
    rw [State.mapCore_shell, State.l1Room_shell]
    exact fun _ => rfl
@[simp] theorem State.refresh_shell (s : State) (core : Nat) : (s.refresh core).shell = s.shell := by
  unfold State.refresh
  dsimp only
  rw [State.noFill_shell, State.mapCore_shell]
  exact fun _ => rfl
@[simp] theorem State.acquire_shell (s : State) (a : Agent) (sc : Nat) : (s.acquire a sc).shell = s.shell := by
  unfold State.acquire; split <;> simp
@[simp] theorem State.publishLines_shell (s : State) (core : Nat) (p : Nat → Bool) : (s.publishLines core p).shell = s.shell := by
  unfold State.publishLines
  dsimp only
  rw [State.noFill_shell, State.mapCore_shell]
  · exact foldl_shell _ (fun s l => State.writeBack_shell s core l []) _ s
  · exact fun _ => rfl
@[simp] theorem State.drainWc_shell (s : State) (core : Nat) (p : Nat → Bool) : (s.drainWc core p).shell = s.shell := by
  unfold State.drainWc
  dsimp only
  rw [State.mapCore_shell]
  · exact foldl_shell _ (fun s _ => State.send_shell s _ _) _ s
  · exact fun _ => rfl
@[simp] theorem State.release_shell (s : State) (a : Agent) (sc : Nat) : (s.release a sc).1.shell = s.shell := by
  unfold State.release
  dsimp only
  rw [State.drainWc_shell]
  split <;> simp

end Sys2Proof.Machine

/-! SUPPORT. Accesses of a wave to global memory (R79, R80, R98, R101, R108, R122, R153): the checks that let them go, and what their loads
leave of the machine beside caches, requests and the wave's own outstanding results. -/

namespace Sys2Proof.Machine

/-! ## What a load leaves -/

/-- An outstanding result with nothing in it. -/
def idlePend : Pend :=
  { id := 0, ctr := .none, pc := 0, writes := [], reqs := [], acq := none, flags := [], trap := none, fail := none, tile := none,
    rope := none, bcast := none, nf := none, meld := false, fwd := false }

/-- A context without what its outstanding results hold, but for their number, and without the mark of a dropped generation. -/
def Ctx.idle (c : Ctx) : Ctx := { c with pend := List.replicate c.pend.length idlePend, stale := false, heldStale := false }

/-- The machine beside caches and requests, with one agent's outstanding results only counted. -/
def State.bare (s : State) (a : Agent) : State × (Nat → Core) := (s.mapCtx a Ctx.idle).shell

theorem State.mapCtx_shell_congr {s t : State} (h : t.shell = s.shell) (a : Agent) (f : Ctx → Ctx) :
    (t.mapCtx a f).shell = (s.mapCtx a f).shell := by
  unfold State.mapCtx
  rw [State.shell_ctx? h]
  cases s.ctx? a with
  | none => exact h
  | some c =>
    refine Prod.ext ?_ (congrArg Prod.snd h :)
    have hfst := State.shell_fst h
    have hctxs := State.shell_ctxs h
    show ({ t with cores := [], llc := [], reqs := [], uid := 0, ctxs := t.ctxs.put (ctxKey a) (f c) } : State) =
      { s with cores := [], llc := [], reqs := [], uid := 0, ctxs := s.ctxs.put (ctxKey a) (f c) }
    rw [hctxs]
    exact congrArg (fun u : State => { u with ctxs := s.ctxs.put (ctxKey a) (f c) }) hfst

theorem State.bare_of_shell {s t : State} (h : t.shell = s.shell) (a : Agent) : t.bare a = s.bare a :=
  State.mapCtx_shell_congr h a _

theorem State.bare_mapCtx (s : State) (a : Agent) {f : Ctx → Ctx} (hf : ∀ c, (f c).idle = c.idle) : (s.mapCtx a f).bare a = s.bare a := by
  unfold State.bare
  rw [State.mapCtx_mapCtx, funext hf]

theorem State.bare_mapPend (s : State) (a : Agent) (id : Nat) (f : Pend → Pend) : (s.mapPend a id f).bare a = s.bare a :=
  State.bare_mapCtx s a fun c => by simp [Ctx.idle]

theorem State.bare_setStale (s : State) (a : Agent) : (s.setStale a).bare a = s.bare a :=
  State.bare_mapCtx s a fun c => by unfold Ctx.setStale; split <;> rfl

section
variable (s : State) (a : Agent)
theorem State.bare_send (r : Req) (l : List Nat) : (s.send r l).bare a = s.bare a := State.bare_of_shell (State.send_shell s r l) a
theorem State.bare_l1Clear (core line gen : Nat) : (s.l1Clear core line gen).bare a = s.bare a :=
  State.bare_of_shell (State.l1Clear_shell s core line gen) a
theorem State.bare_copyOut (die part line gen : Nat) : (s.copyOut die part line gen).bare a = s.bare a :=
  State.bare_of_shell (State.copyOut_shell s die part line gen) a
theorem State.bare_drainWc (core : Nat) (p : Nat → Bool) : (s.drainWc core p).bare a = s.bare a :=
  State.bare_of_shell (State.drainWc_shell s core p) a
theorem State.bare_l1Put (core : Nat) (l : L1Line) (stream : Bool) : (s.mapCore core (fun c => c.l1Put l stream)).bare a = s.bare a := by
  refine State.bare_of_shell ?_ a
  rw [State.mapCore_shell]
  exact fun _ => rfl
end

theorem foldl_bare {α : Type} (a : Agent) (f : State → α → State) (h : ∀ s x, (f s x).bare a = s.bare a) (l : List α) (s : State) :
    (l.foldl f s).bare a = s.bare a := foldl_get_eq (fun s => State.bare s a) f l s fun s x _ => h s x

/-- One access of a load changes caches, requests and the wave's outstanding results alone. -/
theorem State.bare_loadOne (s : State) (is : Iss) (id lane n ch : Nat) (sx nf fresh : Bool) (rt : Route) :
    (s.loadOne is id lane n ch sx nf fresh rt).bare is.a = s.bare is.a := by
  have hreq (s : State) (r : Req) (after : List Nat) :
      ((s.mapPend is.a id (fun p => { p with reqs := p.reqs ++ [s.uid] })).send r after).bare is.a = s.bare is.a :=
    (State.bare_send _ _ _ _).trans (State.bare_mapPend _ _ _ _)
  have hcopy (b : Bool) (s : State) (die part line gen : Nat) : (if b then s.copyOut die part line gen else s).bare is.a = s.bare is.a := by
    split
    · exact State.bare_copyOut _ _ _ _ _ _
    · rfl
  unfold State.loadOne
  dsimp only
  split
  · split
    · split
      · exact State.bare_mapPend _ _ _ _
      · next l _ _ =>
        by_cases hit : allIn (if fresh = true then l.dirty else l.valid) (rt.va % 128) n = true
        · rw [if_pos hit, State.bare_mapPend]
          split
          · rw [State.bare_setStale, State.bare_l1Put]
          · rw [State.bare_l1Put]
        · rw [if_neg hit]
          split
          · rw [hreq, hcopy]
          · rw [hreq, State.bare_l1Clear]
    · split
      · rw [hreq, hcopy]
      · rw [hreq, State.bare_l1Clear]
  · rw [hreq]
    split
    · exact State.bare_drainWc _ _ _ _
    · rfl

/-- So do the accesses of a load together. -/
theorem State.bare_loads (s : State) (is : Iss) (id n ch : Nat) (sx nf fresh : Bool) (rs : List (Nat × Route)) (bad : List Nat) :
    (s.loads is id n ch sx nf fresh rs bad).bare is.a = s.bare is.a := by
  unfold State.loads
  rw [State.bare_mapPend, foldl_bare _ _ fun s i => State.bare_mapPend s _ _ _, foldl_bare _ _ fun s e => State.bare_loadOne s _ _ _ _ _ _ _ _ _]

/-! ## What the wave keeps -/

section
variable {s t : State} {a : Agent} (h : t.bare a = s.bare a)
include h

theorem State.bare_ctx?_ne (b : Agent) (hb : ctxKey b ≠ ctxKey a) : t.ctx? b = s.ctx? b := by
  have := State.shell_ctx? h b
  rwa [State.ctx?_mapCtx_ne _ _ _ _ hb, State.ctx?_mapCtx_ne _ _ _ _ hb] at this

theorem State.bare_ctx? {c : Ctx} (hc : s.ctx? a = some c) : ∃ c', t.ctx? a = some c' ∧ c'.idle = c.idle := by
  have := State.shell_ctx? h a
  rw [State.ctx?_mapCtx_some _ hc] at this
  cases ht : t.ctx? a with
  | none => simp [State.mapCtx, ht] at this
  | some c' => exact ⟨c', rfl, by rwa [State.ctx?_mapCtx_some _ ht, Option.some.injEq] at this⟩

theorem State.bare_mem : t.mem = s.mem := by
  have := State.shell_mem h
  unfold State.mapCtx at this
  split at this <;> split at this <;> exact this
theorem State.bare_teams : t.teams = s.teams := by
  have := State.shell_teams h
  unfold State.mapCtx at this
  split at this <;> split at this <;> exact this

end

/-- An instruction that, after work on caches and requests, enters one result, and from there only changes caches, requests and outstanding
results, moves on with one result more in its counter and with its registers, memory and teams as they were. -/
theorem issued_of_bare {s s' t : State} {pm : Perm} {h : Hdr} {len : Nat} {u : Uses} {is : Iss} {p : Pend} {k : Ctr}
    (hr : s.ready pm h len u = some is) (hs : s'.shell = s.shell) (hp : p.ctr = k) (hk : k ≠ .none)
    (ht : t.bare is.a = (s'.enter is p).bare is.a) :
    ∃ c, MovesOn s (t.retire is) is c ∧ c.ctr k = is.c.ctr k + 1 ∧ c.pend.length = is.c.pend.length + 1 ∧ SameS is.c c [] ∧ SameK is.c c [] ∧
      SameV is.c c ∧ SameF is.c c ∧ (t.retire is).mem = s.mem ∧ (t.retire is).teams = s.teams := by
  have hctx : ({ s' with uid := s'.uid + 1 } : State).ctx? is.a = some is.c := (State.shell_ctx? hs is.a).trans (State.ready_ctx hr)
  obtain ⟨⟨g, hc⟩, hrest, hother⟩ := State.addPend_spec p hctx
  obtain ⟨c, htc, hidle⟩ := State.bare_ctx? ht hc
  have hmem : (s'.enter is p).mem = s'.mem := (congrArg State.mem hrest :)
  have hteams : (s'.enter is p).teams = s'.teams := (congrArg State.teams hrest :)
  have hsplit : c.split = is.c.split := (congrArg Ctx.split hidle :).trans (by simp [Ctx.idle])
  have hctr : c.ctr k = is.c.ctr k + 1 := by
    have hidl (c : Ctx) : c.idle.ctr k = c.ctr k := by cases k <;> rfl
    have h1 := hidl (Ctx.entering { is.c with tags := g } p)
    rw [← hidle, hidl, Ctx.ctr_entering _ p hp hk] at h1
    exact h1.trans (by cases k <;> rfl)
  have hpend : c.pend.length = is.c.pend.length + 1 := by
    have := congrArg (fun c : Ctx => c.pend.length) hidle
    simpa [Ctx.idle] using this
  refine ⟨_, movesOn hr htc hsplit (fun b hb => (State.bare_ctx?_ne ht b hb).trans ((hother b hb).trans (State.shell_ctx? hs b))), ?_,
    by simpa using hpend, Ctx.sameS_moved is ?_, Ctx.sameK_moved is ?_, Ctx.sameV_moved is ?_, Ctx.sameF_moved is ?_, ?_, ?_⟩
  · exact (Ctx.ctr_moved c is k).trans hctr
  · exact (congrArg Ctx.s hidle :).trans (by simp [Ctx.idle])
  · exact (congrArg Ctx.k hidle :).trans (by simp [Ctx.idle])
  · exact (congrArg Ctx.v hidle :).trans (by simp [Ctx.idle])
  · exact (congrArg Ctx.flags hidle :).trans (by simp [Ctx.idle])
  · exact (State.retire_mem _ _).trans ((State.bare_mem ht).trans (hmem.trans (State.shell_mem hs)))
  · exact (State.retire_teams _ _).trans ((State.bare_teams ht).trans (hteams.trans (State.shell_teams hs)))

/-- So does a load, in LDC. -/
theorem loadIssued_of_bare {s t : State} {pm : Perm} {h : Hdr} {len : Nat} {u : Uses} {is : Iss} {p : Pend}
    (hr : s.ready pm h len u = some is) (hp : p.ctr = .ldc) (ht : t.bare is.a = (s.enter is p).bare is.a) : LoadIssued s (t.retire is) is := by
  obtain ⟨c, hm, hldc, hpend, hs, hk, hv, hf, hmem, hteams⟩ := issued_of_bare hr rfl hp (by decide) ht
  exact ⟨c, hm, hldc, hpend, hs, hk, hv, hf, hmem, hteams⟩

end Sys2Proof.Machine

/-! SUPPORT. The checks that let accesses to global memory go at issue (R80, R98, R101, R122, R153). -/

namespace Sys2Proof.Machine

section
variable {is : Iss} {s : State} {va : Nat} {write atom : Bool}

/-- An access that the checks allow goes where the claims say. -/
theorem State.route_ok (h : is.allows s va write atom) :
    s.route (coreOf is.a) (s.agentPart is.a) va write atom = .ok (is.routeOf s va) := by
  obtain ⟨r, hreg, hattr, hhome⟩ := h
  obtain ⟨⟨i, r'⟩, hfind, rfl⟩ := Option.map_eq_some_iff.mp hreg
  have hn : ¬ ((r'.home (is.canon s va)).host && (is.attrOf s va).typ == Arn.typN) = true := by
    rcases hhome with h | h <;> simp [h]
  unfold State.route Iss.routeOf
  simp only [hreg, Option.getD_some]
  rw [show canonical (s.core (coreOf is.a)).filters va = is.canon s va from rfl, hfind]
  dsimp only
  rw [show s.attr (coreOf is.a) (arenaOf (is.canon s va)) = is.attrOf s va from rfl, hattr]
  exact if_neg hn

/-- One that they do not allow is refused with a code. -/
theorem State.route_refused (h : ¬ is.allows s va write atom) :
    ∃ c, s.route (coreOf is.a) (s.agentPart is.a) va write atom = .error c := by
  cases hr : s.route (coreOf is.a) (s.agentPart is.a) va write atom with
  | error c => exact ⟨c, rfl⟩
  | ok rt =>
    refine absurd ?_ h
    unfold State.route at hr
    dsimp only at hr
    split at hr
    · exact absurd hr nofun
    · next i r hfind =>
      split at hr
      · exact absurd hr nofun
      · next hattr =>
        split at hr
        · exact absurd hr nofun
        · next hn =>
          refine ⟨r, Option.map_eq_some_iff.mpr ⟨_, hfind, rfl⟩, hattr, ?_⟩
          by_cases hh : (r.home (is.canon s va)).host = false
          · exact .inl hh
          · refine .inr fun ht => hn ?_
            have hh' : (r.home (is.canon s va)).host = true := by simpa using hh
            exact Bool.and_eq_true_iff.mpr ⟨hh', beq_iff_eq.mpr ht⟩

end

section
variable {is : Iss} {s : State} {n : Nat} {write atom : Bool} {l : List (Nat × Nat)}

theorem Iss.aligned_ok (h : ∀ e ∈ l, e.2 % n = 0) : is.aligned n l = .ok () := by
  have : l.filter (fun e => e.2 % n ≠ 0) = [] := List.filter_eq_nil_iff.mpr fun e he => by simp [h e he]
  unfold Iss.aligned
  rw [this]

/-- No lane fails where every access is allowed. -/
theorem failing_nil (h : ∀ e ∈ l, is.allows s e.2 write atom) (c : Nat) :
    failing (l.map (fun e => (e.1, e.2, s.route (coreOf is.a) (s.agentPart is.a) e.2 write atom))) c = [] := by
  unfold failing
  rw [List.filterMap_eq_nil_iff]
  intro x hx
  obtain ⟨e, he, rfl⟩ := List.mem_map.mp hx
  simp only [State.route_ok (h e he)]

theorem filterMap_map_some {α β γ : Type} (f : α → β) (g : β → Option γ) (k : α → γ) (l : List α) (h : ∀ x ∈ l, g (f x) = some (k x)) :
    (l.map f).filterMap g = l.map k := by
  induction l with
  | nil => rfl
  | cons x l ih =>
    rw [List.map_cons, List.filterMap_cons_some (h x (by simp)), ih fun y hy => h y (by simp [hy])]
    rfl

/-- The routes of accesses that are aligned and allowed. -/
theorem Iss.routes_ok (h : ∀ e ∈ l, e.2 % n = 0 ∧ is.allows s e.2 write atom) :
    is.routes s n write atom l = .ok (l.map (fun e => (e.1, is.routeOf s e.2))) := by
  have hfail := failing_nil fun e he => (h e he).2
  unfold Iss.routes
  rw [Iss.aligned_ok fun e he => (h e he).1]
  simp only [codeOrder, List.findSome?_cons, List.findSome?_nil, hfail, bind, Except.bind, pure, Except.pure]
  congr 1
  exact filterMap_map_some _ _ _ l fun e he => by simp only [State.route_ok (h e he).2]

/-- The routes of the addresses of a uniform instruction that are allowed. -/
theorem Iss.routesU_ok {vs : List Nat} (h : ∀ va ∈ vs, is.allows s va write atom) :
    is.routesU s write atom vs = .ok (vs.map (is.routeOf s)) := by
  have gen : ∀ (vs : List Nat) (acc : List Route), (∀ va ∈ vs, is.allows s va write atom) →
      vs.foldlM (fun acc va => match s.route (coreOf is.a) (s.agentPart is.a) va write atom with
        | .ok r => Except.ok (acc ++ [r])
        | .error c => Except.error (is.fault c va is.p)) acc = Except.ok (ε := Exc) (acc ++ vs.map (is.routeOf s)) := by
    intro vs
    induction vs with
    | nil => intro acc _; simp [pure, Except.pure]
    | cons va vs ih =>
      intro acc h
      rw [List.foldlM_cons]
      simp only [State.route_ok (h va (by simp)), bind, Except.bind]
      rw [ih _ fun v hv => h v (by simp [hv])]
      simp
  exact gen vs [] h

/-- No load waits for a c.invr whose lines it does not meet. -/
theorem Iss.rangeReady_clear {rs : List (Nat × Route)} (h : is.clear s n (rs.map (·.2))) : is.rangeReady s n rs = .ok () := by
  unfold Iss.rangeReady
  have : s.ranges.any (fun r => r.agent = is.a && r.inval &&
      r.parts.any (fun p => p.1 < p.2 && rs.any (fun e => p.1 / 128 ≤ (e.2.va + n - 1) / 128 && e.2.va / 128 ≤ (p.2 - 1) / 128))) = false := by
    rw [List.any_eq_false]
    intro r hr hany
    simp only [Bool.and_eq_true, decide_eq_true_eq, List.any_eq_true] at hany
    obtain ⟨⟨ha, hinv⟩, p, hp, hlt, e, he, h1, h2⟩ := hany
    have := h r hr ha hinv p hp hlt e.2 (List.mem_map.mpr ⟨e, he, rfl⟩)
    omega
  rw [this]
  rfl

end

end Sys2Proof.Machine

/-! SUPPORT. The g class at issue (R152 to R156). -/

namespace Sys2Proof.Machine

/-! ## Sublists that a property picks -/

section
variable {α β : Type}

/-- A sublist of a list without repetitions, of the members with a property, is its filter. -/
theorem eq_filter_of_sublist {p : α → Bool} {l m : List α} (hn : m.Nodup) (hsub : l.Sublist m) (h : ∀ x, x ∈ l ↔ x ∈ m ∧ p x = true) :
    l = m.filter p := by
  have hall : l.filter p = l := List.filter_eq_self.mpr fun x hx => ((h x).mp hx).2
  have hlen : (m.filter p).length ≤ l.length := by
    refine (List.subperm_of_subset (hn.filter p) fun x hx => ?_).length_le
    exact (h x).mpr (List.mem_filter.mp hx)
  exact List.Sublist.eq_of_length_le (hall ▸ hsub.filter p) hlen

/-- What a choice function keeps of a list, where a property tells what it keeps. -/
theorem filterMap_eq_map_filter {p : α → Bool} {g : α → Option β} {f : α → β} (l : List α) (hsome : ∀ x ∈ l, p x = true → g x = some (f x))
    (hnone : ∀ x ∈ l, p x = false → g x = none) : l.filterMap g = (l.filter p).map f := by
  induction l with
  | nil => rfl
  | cons x l ih =>
    have ih' := ih (fun y hy => hsome y (by simp [hy])) fun y hy => hnone y (by simp [hy])
    cases hp : p x with
    | true => rw [List.filterMap_cons_some (hsome x (by simp) hp), List.filter_cons_of_pos hp, List.map_cons, ih']
    | false => rw [List.filterMap_cons_none (hnone x (by simp) hp), List.filter_cons_of_neg (by simp [hp]), ih']

end

theorem Iss.nodup_addrs (is : Iss) (x1 : X1F) (a : RegNo) (x0 : BitVec 32) : (is.addrs x1 a x0).Nodup := by
  refine List.Nodup.of_map (f := Prod.fst) ?_
  rw [Iss.addrs, map_fst_lanes]
  exact Lanes.nodup_list _

/-- The lanes of a load that never fails, as the claims split them: those whose checks pass. -/
theorem Iss.routes_good {is : Iss} {s : State} {l good : List (Nat × Nat)} (hn : l.Nodup)
    (h : ∀ e, e ∈ good ↔ e ∈ l ∧ is.allows s e.2 false false) (hsub : good.Sublist l) :
    l.filterMap (fun e => match s.route (coreOf is.a) (s.agentPart is.a) e.2 false false with | .ok r => some (e.1, r) | .error _ => none) =
      good.map (fun e => (e.1, is.routeOf s e.2)) := by
  classical
  rw [eq_filter_of_sublist (p := fun e => decide (is.allows s e.2 false false)) hn hsub (by simpa using h)]
  refine filterMap_eq_map_filter l (fun e _ hp => ?_) fun e _ hp => ?_
  · rw [State.route_ok (by simpa using hp)]
  · obtain ⟨c, hc⟩ := State.route_refused (is := is) (s := s) (va := e.2) (write := false) (atom := false) (by simpa using hp)
    rw [hc]

/-- And those whose checks fail. -/
theorem Iss.routes_bad {is : Iss} {s : State} {l bad : List (Nat × Nat)} (hn : l.Nodup)
    (h : ∀ e, e ∈ bad ↔ e ∈ l ∧ ¬ is.allows s e.2 false false) (hsub : bad.Sublist l) :
    l.filterMap (fun e => match s.route (coreOf is.a) (s.agentPart is.a) e.2 false false with | .ok _ => none | .error _ => some e.1) =
      bad.map (·.1) := by
  classical
  rw [eq_filter_of_sublist (p := fun e => decide (¬ is.allows s e.2 false false)) hn hsub (by simpa using h)]
  refine filterMap_eq_map_filter l (fun e _ hp => ?_) fun e _ hp => ?_
  · obtain ⟨c, hc⟩ := State.route_refused (is := is) (s := s) (va := e.2) (write := false) (atom := false) (by simpa using hp)
    rw [hc]
  · rw [State.route_ok (by simpa using hp)]

/-! ## Loads and stores of threads -/

section
variable {is : Iss} {s : State} {d a b c : RegNo} {x0 : BitVec 32} {x1 : X1F}

/-- A load whose checks pass enters its result and makes its accesses. -/
theorem loadBody_ready (fresh acq : Bool) (hst : isStoker is.a = true → x1.vadr = false ∧ x1.sz ≠ 4) (hq : is.quiet s) (hroom : is.c.ldc < 63)
    (hreach : is.reach s (szBytes x1.sz) false false x1 a x0) (hclear : is.clear s (szBytes x1.sz) ((is.routed s x1 a x0).map (·.2))) :
    loadBody d a x0 x1 none fresh acq is s =
      .ok ((s.enter is { is.loadPend s.uid d x1.sz [] with acq := if acq then some (BitVec.ofNat 3 (s.scope is.a x1.sc)) else none }).loads is
        s.uid (szBytes x1.sz) x1.ch.toNat x1.sx false fresh (is.routed s x1 a x0) []) := by
  have hs : (!(isStoker is.a && (x1.vadr || x1.sz = 4))) = true := by
    cases h : isStoker is.a with
    | false => rfl
    | true =>
      obtain ⟨hv, hz⟩ := hst h
      simpa [hv] using hz
  have hroutes : is.routes s (szBytes x1.sz) false false (is.addrs x1 a x0) = .ok (is.routed s x1 a x0) := Iss.routes_ok hreach
  unfold loadBody
  simp only [require_bind, hs, if_true, Iss.memReady_bind hq, Iss.room_bind (c := .ldc) hroom, hroutes]
  show (is.rangeReady s (szBytes x1.sz) (is.routed s x1 a x0) >>= _) = _
  rw [Iss.rangeReady_clear hclear]
  rfl

/-- What a load that never fails does past its checks: the reads where they pass, and the lanes where they do not (R154). -/
def nfSends (is : Iss) (d c : RegNo) (x1 : X1F) (s : State) (rs : List (Nat × Route)) (bad : List Nat) : Res State := do
  is.rangeReady s (szBytes x1.sz) rs
  pure ((s.enter is { is.loadPend s.uid d x1.sz (if c = 0 then [] else [.k c.toNat]) with nf := some (lanesOf bad) }).loads is s.uid
    (szBytes x1.sz) x1.ch.toNat x1.sx true false rs bad)

theorem loadBody_nf (hst : isStoker is.a = false) (hq : is.quiet s) (hroom : is.c.ldc < 63)
    (halign : ∀ e ∈ is.addrs x1 a x0, e.2 % szBytes x1.sz = 0) :
    loadBody d a x0 x1 (some c) false false is s = nfSends is d c x1 s
      ((is.addrs x1 a x0).filterMap (fun e => match s.route (coreOf is.a) (s.agentPart is.a) e.2 false false with
        | .ok r => some (e.1, r) | .error _ => none))
      ((is.addrs x1 a x0).filterMap (fun e => match s.route (coreOf is.a) (s.agentPart is.a) e.2 false false with
        | .ok _ => none | .error _ => some e.1)) := by
  have hs : (!(isStoker is.a && (x1.vadr || x1.sz = 4))) = true := by rw [hst]; rfl
  unfold loadBody
  simp only [require_bind, hs, if_true, Iss.memReady_bind hq, Iss.room_bind (c := .ldc) hroom, Iss.aligned_ok halign, List.filterMap_map]
  rfl

end

end Sys2Proof.Machine

namespace Sys2Proof.Machine

/-- An instruction that no stoker may issue has none before it (R414). -/
theorem State.ready_no_stoker {s : State} {pm : Perm} {h : Hdr} {len : Nat} {u : Uses} {is : Iss} (hr : s.ready pm h len u = some is)
    (hpm : pm.stoker = false) : isStoker is.a = false := by
  obtain ⟨-, hcheck, hp⟩ := State.ready_view hr
  have hp' : (is.p ≠ 0 || pm.onEmpty) = true := by
    rcases hp with h | h
    · exact Bool.or_eq_true_iff.mpr (.inl (decide_eq_true h))
    · exact Bool.or_eq_true_iff.mpr (.inr h)
  by_contra hst
  have hreq : (pm.stoker || !isStoker is.a) = false := by simp [hpm, Bool.eq_true_of_not_eq_false hst]
  unfold Iss.check at hcheck
  simp only [require_bind, hp', hreq, if_true, Bool.false_eq_true, if_false] at hcheck
  repeat' split at hcheck
  all_goals exact absurd hcheck nofun

/-! ## Prefetches -/

/-- What a prefetch does for one thread (R155). -/
def State.prefetchOne (is : Iss) (ch part : Nat) (s : State) (va : Nat) : State :=
  match s.route (coreOf is.a) part va false false with
  | .error _ => s
  | .ok rt =>
    if rt.attr.typ ≠ Arn.typN then s
    else
      let r := Req.blank (is.who is.p) (coreOf is.a) part (rt.va - rt.va % 128) 128 rt.attr.gen rt.ver Arn.typN (.prefetch ch)
      (if ch = chNol1 then s else s.l1Clear (coreOf is.a) (lineNo rt.va) rt.attr.gen).send { r with alloc := ch ≠ chNol1 } []

/-- The requests that write nothing, but for what a departing line changes of them. -/
def unwritten (l : List Req) : List Req := (l.filter (fun r => !r.op.isWrite)).map (fun r => { r with alloc := true, after := [] })

theorem unwritten_append (l m : List Req) : unwritten (l ++ m) = unwritten l ++ unwritten m := by
  unfold unwritten
  rw [List.filter_append, List.map_append]

theorem unwritten_noFill (s : State) (core : Nat) (p : Nat → Bool) : unwritten (s.noFill core p).reqs = unwritten s.reqs := by
  unfold unwritten State.noFill
  induction s.reqs with
  | nil => rfl
  | cons r l ih =>
    rw [List.map_cons, List.filter_cons, List.filter_cons]
    have hop : (if (r.core = core && p (lineNo r.va)) = true then { r with alloc := false } else r).op = r.op := by split <;> rfl
    rw [hop]
    cases r.op.isWrite with
    | true => exact ih
    | false =>
      simp only [Bool.not_false, if_true, List.map_cons, ih]
      congr 1
      split <;> rfl

theorem unwritten_writeBack (s : State) (core : Nat) (l : L1Line) (after : List Nat) : unwritten (s.writeBack core l after).reqs = unwritten s.reqs := by
  unfold State.writeBack
  dsimp only
  split
  · rfl
  · exact (unwritten_append _ _).trans (List.append_nil _)

theorem unwritten_l1Clear (s : State) (core line gen : Nat) : unwritten (s.l1Clear core line gen).reqs = unwritten s.reqs := by
  unfold State.l1Clear
  split
  · split
    · unfold State.l1Evict
      rw [unwritten_noFill, unwritten_writeBack]
      rfl
    · rfl
  · rfl

/-- A line with no clean bytes, or all, stays where it is. -/
theorem State.l1Clear_cores {s : State} {core : Nat} (h : ∀ k ∈ (s.core core).l1, k.mixed = false) (line gen : Nat) :
    (s.l1Clear core line gen).cores = s.cores := by
  unfold State.l1Clear
  split
  · next l hl => rw [if_neg (by simp [h l (List.mem_of_find?_eq_some hl)])]
  · rfl

section
variable (is : Iss) (ch part : Nat) (s : State) (va : Nat)

theorem State.prefetchOne_shell : (s.prefetchOne is ch part va).shell = s.shell := by
  unfold State.prefetchOne
  split
  · rfl
  · split
    · rfl
    · dsimp only
      rw [State.send_shell]
      split
      · rfl
      · exact State.l1Clear_shell _ _ _ _

theorem State.prefetchOne_cores (h : ∀ k ∈ (s.core (coreOf is.a)).l1, k.mixed = false) : (s.prefetchOne is ch part va).cores = s.cores := by
  unfold State.prefetchOne
  split
  · rfl
  · split
    · rfl
    · show (if ch = chNol1 then s else s.l1Clear _ _ _).cores = s.cores
      split
      · rfl
      · exact State.l1Clear_cores h _ _

/-- The requests that a prefetch sends, where the checks are those of a state with the same filters, attributes and regions. -/
theorem State.prefetchOne_reqs {s s0 : State} (h : s.shell = s0.shell) :
    ∃ l, unwritten (s.prefetchOne is ch (s0.agentPart is.a) va).reqs = unwritten s.reqs ++ l ∧
      (∀ r ∈ l, r.op = .prefetch ch ∧ r.pend = none ∧ r.agent = is.a) ∧
      (∀ n, (∃ r ∈ l, r.va = 128 * n) ↔ is.allows s0 va false false ∧ (is.attrOf s0 va).typ = Arn.typN ∧ is.canon s0 va / 128 = n) := by
  unfold State.prefetchOne
  rw [State.shell_route h]
  by_cases hal : is.allows s0 va false false
  · rw [State.route_ok hal]
    dsimp only
    by_cases htyp : (is.routeOf s0 va).attr.typ = Arn.typN
    · rw [if_neg (not_not_intro htyp)]
      refine ⟨_, (unwritten_append _ _).trans (congrArg (· ++ _) ?_), ?_, ?_⟩
      · split
        · rfl
        · exact unwritten_l1Clear _ _ _ _
      · intro r hr
        obtain rfl := List.mem_singleton.mp hr
        exact ⟨rfl, rfl, rfl⟩
      · intro n
        have hva : ∀ va : Nat, va - va % 128 = 128 * n ↔ va / 128 = n := by omega
        constructor
        · rintro ⟨r, hr, hrn⟩
          obtain rfl := List.mem_singleton.mp hr
          exact ⟨hal, htyp, (hva _).mp hrn⟩
        · rintro ⟨-, -, hn⟩
          exact ⟨_, List.mem_singleton.mpr rfl, (hva _).mpr hn⟩
    · rw [if_pos htyp]
      exact ⟨[], (List.append_nil _).symm, fun _ hr => absurd hr List.not_mem_nil, fun n => ⟨fun ⟨_, hr, _⟩ => absurd hr List.not_mem_nil, fun ⟨_, ht, _⟩ => absurd ht htyp⟩⟩
  · obtain ⟨c, hc⟩ := State.route_refused hal
    rw [hc]
    exact ⟨[], (List.append_nil _).symm, fun _ hr => absurd hr List.not_mem_nil, fun n => ⟨fun ⟨_, hr, _⟩ => absurd hr List.not_mem_nil, fun ⟨ha, _⟩ => absurd ha hal⟩⟩

end

/-- The prefetches of an instruction's threads together. -/
theorem State.prefetches_reqs (is : Iss) (ch : Nat) {s0 : State} (l : List (Nat × Nat)) : ∀ {s : State}, s.shell = s0.shell →
    ∃ m, unwritten (l.foldl (fun s e => s.prefetchOne is ch (s0.agentPart is.a) e.2) s).reqs = unwritten s.reqs ++ m ∧
      (∀ r ∈ m, r.op = .prefetch ch ∧ r.pend = none ∧ r.agent = is.a) ∧
      (∀ n, (∃ r ∈ m, r.va = 128 * n) ↔
        ∃ e ∈ l, is.allows s0 e.2 false false ∧ (is.attrOf s0 e.2).typ = Arn.typN ∧ is.canon s0 e.2 / 128 = n) := by
  induction l with
  | nil => exact fun {s} _ => ⟨[], (List.append_nil _).symm, fun _ hr => absurd hr List.not_mem_nil, fun n => by simp⟩
  | cons e l ih =>
    intro s h
    obtain ⟨m, hm, hall, hn⟩ := State.prefetchOne_reqs is ch e.2 h
    obtain ⟨m', hm', hall', hn'⟩ := ih ((State.prefetchOne_shell is ch (s0.agentPart is.a) s e.2).trans h)
    refine ⟨m ++ m', ?_, fun r hr => (List.mem_append.mp hr).elim (hall r) (hall' r), fun n => ?_⟩
    · rw [List.foldl_cons, hm', hm, List.append_assoc]
    · simp only [List.mem_append, or_and_right, exists_or, hn, hn', List.mem_cons, exists_eq_left]

/-! ## Tile moves -/

section
variable {s : State} {is : Iss} {a b : RegNo} {x0 : BitVec 32} {sh : Shape}

theorem Iss.tileRows_ok (ha : (is.addrS a x0).toNat % 16 = 0) (hb : (is.s b).toNat % 16 = 0)
    (hrow : ∀ e ∈ (List.range sh.rows).map (fun r => (r, vaOf (is.addrS a x0 + BitVec.ofNat 64 r * is.s b))),
      arenaOf e.2 = arenaOf (e.2 + sh.rb - 1)) :
    is.tileRows a b x0 sh = .ok ((List.range sh.rows).map (fun r => (r, vaOf (is.addrS a x0 + BitVec.ofNat 64 r * is.s b)))) := by
  have hbits (n : Nat) (h : n % 16 = 0) : (decide (bits n 0 4 = 0)) = true :=
    decide_eq_true (by simpa [bits] using h)
  have hfind : ((List.range sh.rows).map (fun r => (r, vaOf (is.addrS a x0 + BitVec.ofNat 64 r * is.s b)))).find?
      (fun e => arenaOf e.2 ≠ arenaOf (e.2 + sh.rb - 1)) = none := by
    rw [List.find?_eq_none]
    intro e he
    simpa using hrow e he
  unfold Iss.tileRows
  simp only [require_bind, hbits _ ha, hbits _ hb, if_true, hfind]
  rfl

end

end Sys2Proof.Machine

namespace Sys2Proof.Machine

/-- What a tile move in global memory does past its checks (R156). -/
def tileSends (store : Bool) (is : Iss) (d : RegNo) (ch : Nat) (s : State) (tm : Team) (pieces : List (Nat × Nat × Nat × Nat)) (rs : List Route) :
    Res State :=
  if store then do
    is.room .stc
    pure ((pieces.zip rs).foldl (fun u e => u.storeOne is s.uid is.p ch e.2 (bytesAt tm.tiles (tileAddr d.toNat e.1.1 e.1.2.1) e.1.2.2.2))
      (s.enter is (Pend.blank s.uid .stc is)))
  else do
    is.room .ldc
    is.rangeReady s 1 (rs.map (fun r => (0, r)))
    pure ((pieces.zip rs).foldl (fun u e => u.loadOne is s.uid (256 * e.1.1 + e.1.2.1) e.1.2.2.2 ch false false false e.2)
      (s.enter is { Pend.blank s.uid .ldc is with tile := some (d.toNat, []) }))

/-- What it does past the checks of the tile and the rows. -/
def tileAccess (store : Bool) (is : Iss) (d : RegNo) (ch : Nat) (s : State) (tm : Team) (pieces : List (Nat × Nat × Nat × Nat)) : Res State := do
  let rs ← is.routesU s store false (pieces.map (fun e => e.2.2.1))
  is.memReady s
  is.tileWait s d.toNat true
  tileSends store is d ch s tm pieces rs

/-- What it does. -/
def tileMove (store : Bool) (d a b : RegNo) (x0 : BitVec 32) (x1 : X1F) (is : Iss) (s : State) : Res State := do
  let r ← is.tileShape s d.toNat
  let rows ← is.tileRows a b x0 r.2
  tileAccess store is d x1.ch.toNat s r.1 (rowPieces rows r.2.rb)

theorem exec_globalTile (store : Bool) (h : Hdr) (d a b : RegNo) (x0 : BitVec 32) (x1 : X1F) (s : State) :
    exec (if store then .gStt h d a b x0 x1 else .gLdt h d a b x0 x1) s = issue .core h 16 { rd := [.s a, .s b], wr := [] } s
      (tileMove store d a b x0 x1) := by
  cases store <;> rfl

theorem tileAccess_ready {store : Bool} {is : Iss} {d : RegNo} {ch : Nat} {s : State} {tm : Team} {pieces : List (Nat × Nat × Nat × Nat)}
    (hal : ∀ e ∈ pieces, is.allows s e.2.2.1 store false) (hq : is.quiet s) (hfree : is.tileFree s d.toNat) :
    tileAccess store is d ch s tm pieces = tileSends store is d ch s tm pieces (pieces.map (fun e => is.routeOf s e.2.2.1)) := by
  have hroutes : is.routesU s store false (pieces.map (fun e => e.2.2.1)) = .ok (pieces.map (fun e => is.routeOf s e.2.2.1)) := by
    have hva : ∀ va ∈ pieces.map (fun e => e.2.2.1), is.allows s va store false := by
      intro va hva
      obtain ⟨e, he, rfl⟩ := List.mem_map.mp hva
      exact hal e he
    rw [Iss.routesU_ok hva, List.map_map]
    rfl
  unfold tileAccess
  rw [hroutes]
  show (is.memReady s >>= fun _ => _) = _
  rw [Iss.memReady_bind hq, Iss.tileWait_free hfree]
  rfl

theorem State.bare_tileLoads (is : Iss) (id ch : Nat) (l : List ((Nat × Nat × Nat × Nat) × Route)) (s : State) :
    (l.foldl (fun u e => u.loadOne is id (256 * e.1.1 + e.1.2.1) e.1.2.2.2 ch false false false e.2) s).bare is.a = s.bare is.a :=
  foldl_bare _ _ (fun s _ => State.bare_loadOne s _ _ _ _ _ _ _ _ _) l s

/-- The checks of a tile move's tile and rows pass, and what it does is what it does past them. -/
theorem exec_globalTile_ready {store : Bool} {s t : State} {is : Iss} {h : Hdr} {d a b : RegNo} {x0 : BitVec 32} {x1 : X1F} {tm : Team} {sh : Shape}
    (hr : s.ready .core h 16 { rd := [.s a, .s b], wr := [] } = some is) (ht : s.teams.find is.c.team = some tm)
    (hsh : tm.shape d.toNat = some sh) (ha : (is.addrS a x0).toNat % 16 = 0) (hb : (is.s b).toNat % 16 = 0)
    (hrow : ∀ e ∈ (List.range sh.rows).map (fun r => (r, vaOf (is.addrS a x0 + BitVec.ofNat 64 r * is.s b))),
      arenaOf e.2 = arenaOf (e.2 + sh.rb - 1))
    (hx : tileAccess store is d x1.ch.toNat s tm
      (rowPieces ((List.range sh.rows).map (fun r => (r, vaOf (is.addrS a x0 + BitVec.ofNat 64 r * is.s b)))) sh.rb) = .ok t) :
    exec (if store then .gStt h d a b x0 x1 else .gLdt h d a b x0 x1) s = .next (t.retire is) := by
  rw [exec_globalTile]
  refine issue_ready hr ?_
  unfold tileMove
  rw [Iss.tileShape_some ht hsh]
  show (is.tileRows a b x0 sh >>= _) = _
  rw [Iss.tileRows_ok ha hb hrow]
  exact hx

/-- The prefetches of an instruction's threads (R155). -/
def State.prefetches (s : State) (is : Iss) (x1 : X1F) (a : RegNo) (x0 : BitVec 32) : State :=
  (is.addrs x1 a x0).foldl (fun u e => u.prefetchOne is x1.ch.toNat (s.agentPart is.a) e.2) s

theorem exec_gPf (h : Hdr) (a : RegNo) (x0 : BitVec 32) (x1 : X1F) (s : State) :
    exec (.gPf h a x0 x1) s = issue .wave h 16 { rd := [baseUse x1.vadr a], wr := [] } s (fun is s => is.memReady s >>= fun _ =>
      pure (s.prefetches is x1 a x0)) := rfl

section
variable (s : State) (is : Iss) (x1 : X1F) (a : RegNo) (x0 : BitVec 32)

theorem State.prefetches_shell : (s.prefetches is x1 a x0).shell = s.shell :=
  foldl_shell (fun u (e : Nat × Nat) => u.prefetchOne is x1.ch.toNat (s.agentPart is.a) e.2)
    (fun u e => State.prefetchOne_shell is x1.ch.toNat (s.agentPart is.a) u e.2) (is.addrs x1 a x0) s

variable {s is} in
theorem State.prefetches_cores (h : ∀ k ∈ (s.core (coreOf is.a)).l1, k.mixed = false) : (s.prefetches is x1 a x0).cores = s.cores := by
  refine List.foldlRecOn (motive := fun u : State => u.cores = s.cores) _ _ rfl fun u hu e _ => ?_
  rw [State.prefetchOne_cores is _ _ u e.2 (by rw [State.core, hu]; exact h), hu]

end

/-- What g.pf leaves at issue. -/
theorem prefetch_issued {s : State} {is : Iss} {h : Hdr} {a : RegNo} {x0 : BitVec 32} {x1 : X1F}
    (hr : s.ready .wave h 16 { rd := [baseUse x1.vadr a], wr := [] } = some is) (hq : is.quiet s) :
    ∃ t c, exec (.gPf h a x0 x1) s = .next t ∧ MovesOn s t is c ∧ SameS is.c c [] ∧ SameK is.c c [] ∧ SameV is.c c ∧
      SameF is.c c ∧ c.rest = is.c.rest ∧ t.mem = s.mem ∧
      ((∀ k ∈ (s.core (coreOf is.a)).l1, k.mixed = false) → t.cores = s.cores) ∧
      ∃ l, unwritten t.reqs = unwritten s.reqs ++ l ∧ (∀ r ∈ l, r.op = .prefetch x1.ch.toNat ∧ r.pend = none ∧ r.agent = is.a) ∧
        (∀ n, (∃ r ∈ l, r.va = 128 * n) ↔ ∃ e ∈ is.addrs x1 a x0, is.allows s e.2 false false ∧
          (is.attrOf s e.2).typ = Arn.typN ∧ is.canon s e.2 / 128 = n) := by
  have hshell := State.prefetches_shell s is x1 a x0
  have hctx : (s.prefetches is x1 a x0).ctx? is.a = some is.c := (State.shell_ctx? hshell is.a).trans (State.ready_ctx hr)
  obtain ⟨l, hl, hall, hn⟩ := State.prefetches_reqs is x1.ch.toNat (is.addrs x1 a x0) (s := s) rfl
  have hrest := State.retire_rest (s.prefetches is x1 a x0) is
  refine ⟨_, _, (exec_gPf h a x0 x1 s).trans (issue_ready hr (Iss.memReady_bind hq _)), movesOn hr hctx rfl fun b _ => State.shell_ctx? hshell b,
    Ctx.sameS_moved is rfl, Ctx.sameK_moved is rfl, Ctx.sameV_moved is rfl, Ctx.sameF_moved is rfl, Ctx.moved_rest _ _,
    (State.retire_mem _ _).trans (State.shell_mem hshell), fun hmix => ?_, l, ?_, hall, hn⟩
  · exact (congrArg State.cores hrest :).trans (State.prefetches_cores x1 a x0 hmix)
  · exact (congrArg (fun u : State => unwritten u.reqs) hrest :).trans hl

/-- Settles O20: the checks that let the accesses go, and then the accesses, one by one. -/
theorem globalAccess : Obligations.GlobalAccess := by
  refine ⟨fun s is h a b x0 x1 hr hq hroom hreach => ?_, fun s is h d a x0 x1 hr => ⟨fun hst hbad => ?_, fun hst hq hroom hreach hclear => ?_⟩,
    fun s is h d a c x0 x1 good bad hr hq hroom halign hgood hgs hbad hbs hclear => ?_,
    fun s is h a x0 x1 hr hq => ?_, ?_⟩
  · show execGSt h a b x0 x1 s = _
    refine issue_ready hr ?_
    have hroutes : is.routes s (szBytes x1.sz) true false (is.addrs x1 a x0) = .ok (is.routed s x1 a x0) := Iss.routes_ok hreach
    simp only [Iss.memReady_bind hq, Iss.room_bind (c := .stc) hroom, hroutes]
    rfl
  · show execGLd h d a x0 x1 s = _
    refine issue_error hr ?_
    have hs : (!(isStoker is.a && (x1.vadr || x1.sz = 4))) = false := by
      rcases hbad with hb | hb <;> simp [hst, hb]
    unfold loadBody
    simp only [require_bind, hs, Bool.false_eq_true, if_false]
  · intro t
    exact ⟨issue_ready hr (loadBody_ready false false hst hq hroom hreach hclear), loadIssued_of_bare hr rfl (State.bare_loads _ _ _ _ _ _ _ _ _ _)⟩
  · intro p t
    refine ⟨issue_ready hr ?_, loadIssued_of_bare hr rfl (State.bare_loads _ _ _ _ _ _ _ _ _ _)⟩
    have hn := is.nodup_addrs x1 a x0
    rw [loadBody_nf (State.ready_no_stoker hr rfl) hq hroom halign, Iss.routes_good hn hgood hgs, Iss.routes_bad hn hbad hbs, nfSends,
      Iss.rangeReady_clear (by rwa [List.map_map])]
    rfl
  · exact prefetch_issued hr hq
  · intro store s is h d a b x0 x1 tm sh rows hr ht hsh ha hb hrows hrow hq hfree i pieces hal rs
    subst hrows
    have hmove := tileAccess_ready (ch := x1.ch.toNat) (tm := tm) hal hq hfree
    refine ⟨?_, fun hst hroom => ?_⟩
    · intro hst hroom hclear t
      refine ⟨?_, loadIssued_of_bare hr rfl (State.bare_tileLoads _ _ _ _ _)⟩
      refine exec_globalTile_ready hr ht hsh ha hb hrow (hmove.trans ?_)
      subst hst
      refine (Iss.room_bind (c := .ldc) hroom _).trans ?_
      rw [Iss.rangeReady_clear (by rw [List.map_map]; simpa using hclear)]
      rfl
    · refine exec_globalTile_ready hr ht hsh ha hb hrow (hmove.trans ?_)
      subst hst
      exact Iss.room_bind (c := .stc) hroom _

end Sys2Proof.Machine

/-! SUPPORT. Atomics, acquiring loads and releasing stores at issue (R276, R277, R282 to R288). -/

namespace Sys2Proof.Machine

/-! ## What they do to the machine -/

section
variable (s : State) (is : Iss)

@[simp] theorem State.flushLine_shell (core line : Nat) (at' : Attr) : (s.flushLine core line at').shell = s.shell := by
  have hcopy : (if at'.swm = true then s.copyOut (dieOfCore core) (s.corePart core) line at'.gen else s).shell = s.shell := by
    split <;> simp
  unfold State.flushLine
  dsimp only
  split
  · rw [State.l1Evict_shell, hcopy]
  · rw [State.noFill_shell, hcopy]

@[simp] theorem State.l1Update_shell (core line gen : Nat) (mask : BitVec 128) (data : BitVec 1024) :
    (s.l1Update core line gen mask data).shell = s.shell := by
  unfold State.l1Update
  rw [State.noFill_shell, State.mapCore_shell]
  exact fun _ => rfl

theorem State.bare_sendAtom (id : Nat) (ts : Lanes) (lane n : Nat) (rt : Route) (op : ReqOp) (after : List Nat) :
    (s.sendAtom is (some id) ts lane n rt op after).bare is.a = s.bare is.a := by
  unfold State.sendAtom
  dsimp only
  rw [State.bare_send, State.bare_mapPend]
  exact State.bare_of_shell (State.flushLine_shell _ _ _ _) _

theorem State.bare_writeReq (id : Nat) (ts : Lanes) (rt : Route) (mask : BitVec 128) (data : BitVec 1024) (after : List Nat) :
    (s.writeReq is id ts rt mask data after).bare is.a = s.bare is.a := by
  unfold State.writeReq
  dsimp only
  rw [State.bare_send, State.bare_mapPend]

theorem State.bare_storeHome (id : Nat) (ts : Lanes) (rt : Route) (l : List Byte) (deps : List Nat) :
    (s.storeHome is id ts rt l deps).bare is.a = s.bare is.a :=
  (State.bare_of_shell (State.l1Update_shell _ _ _ _ _ _) _).trans (State.bare_writeReq s is id ts rt _ _ deps)

end

/-! ## Atomics -/

/-- The body of an atomic in the form of the claims. -/
def AForm.body (f : AForm) (is : Iss) (s : State) : Res State := atomBody f.k f.regs f.n f.a f.x0 f.x1 f.op is s

theorem exec_atomForm {i : Instr} {f : AForm} (hf : atomForm i = some f) (s : State) :
    exec i s = issue .wave f.h 16 { rd := baseUse f.x1.vadr f.a :: f.rd, wr := f.wr } s f.body := by
  cases i <;> simp only [atomForm, Option.some.injEq, reduceCtorEq] at hf <;> (subst hf; rfl)

theorem atomForm_ctr {i : Instr} {f : AForm} (hf : atomForm i = some f) : f.k ≠ .none := by
  cases i <;> simp only [atomForm, Option.some.injEq, reduceCtorEq] at hf <;> (subst hf; exact Ctr.noConfusion)

/-- The release that an atomic's order asks for, and what it waits for. -/
def AForm.released (f : AForm) (is : Iss) (s : State) : State × List Nat :=
  if ordRel f.x1.ord then s.release is.a (s.scope is.a f.x1.sc) else (s, [])

theorem AForm.released_shell (f : AForm) (is : Iss) (s : State) : (f.released is s).1.shell = s.shell := by
  unfold AForm.released
  split <;> simp

/-- An atomic whose checks pass enters its result after its release and sends its operations. -/
theorem AForm.body_ready {f : AForm} {is : Iss} {s : State} (hq : is.quiet s) (hroom : is.c.ctr f.k < 63)
    (hreach : is.reach s f.n true true f.x1 f.a f.x0) :
    f.body is s = .ok ((is.routed s f.x1 f.a f.x0).foldl (fun v e =>
      v.sendAtom is (some (f.released is s).1.uid) (lanesOf [e.1]) e.1 f.n e.2 (f.op is e.1) (f.released is s).2)
      ((f.released is s).1.enter is { Pend.awaiting (f.released is s).1.uid f.k is (is.p.list.flatMap (f.regs is)) [] with
        acq := if ordAcq f.x1.ord then some (BitVec.ofNat 3 (s.scope is.a f.x1.sc)) else none })) := by
  have hroutes : is.routes s f.n true true (is.addrs f.x1 f.a f.x0) = .ok (is.routed s f.x1 f.a f.x0) := Iss.routes_ok hreach
  unfold AForm.body atomBody
  simp only [Iss.memReady_bind hq, Iss.room_bind hroom, hroutes]
  rfl

/-! ## Releasing stores -/

/-- A release that has performed is not waited for. -/
theorem State.needRelease_bind {α : Type} {s : State} {is : Iss} {sc : Nat} (h : is.released s sc) (k : Unit → Res α) :
    (s.needRelease is sc >>= k) = k () := by
  have hdeps : (s.release is.a sc).1.pendingDeps (s.release is.a sc).2 = false := h
  unfold State.needRelease
  simp only [hdeps]
  rfl

/-- One that has not performed is. -/
theorem State.needRelease_wait {α : Type} {s : State} {is : Iss} {sc : Nat} (h : ¬ is.released s sc) (k : Unit → Res α) :
    (s.needRelease is sc >>= k) = .error (.release sc) := by
  have hdeps : (s.release is.a sc).1.pendingDeps (s.release is.a sc).2 = true := by simpa [Iss.released] using h
  unfold State.needRelease
  simp only [hdeps]
  rfl

/-- A location of a.strel is written at its home (R288). -/
def strelHome (sc : Nat) (e : Nat × Route) : Bool := 1 ≤ sc && e.2.attr.typ = Arn.typN && !e.2.attr.swm

/-- What a.strel does past its checks. -/
def strelSends (is : Iss) (b : RegNo) (x1 : X1F) (s : State) (rs : List (Nat × Route)) : Res State :=
  let n := szBytes x1.sz
  let sc := s.scope is.a x1.sc
  if rs.all (strelHome sc) then
    let r := s.release is.a sc
    pure (rs.foldl (fun v e => v.storeHome is r.1.uid (lanesOf [e.1]) e.2 (is.storeBytes b n e.1) r.2)
      (r.1.enter is (Pend.blank r.1.uid .stc is)))
  else
    s.needRelease is sc >>= fun _ => pure (rs.foldl (fun v e =>
      if strelHome sc e then v.storeHome is s.uid (lanesOf [e.1]) e.2 (is.storeBytes b n e.1) []
      else v.storeOne is s.uid (lanesOf [e.1]) (if sc = 0 then x1.ch.toNat else 0) e.2 (is.storeBytes b n e.1))
      (s.enter is (Pend.blank s.uid .stc is)))

theorem exec_aStrel (h : Hdr) (a b : RegNo) (x0 : BitVec 32) (x1 : X1F) (s : State) :
    exec (.aStrel h a b x0 x1) s = issue .wave h 16 { rd := [baseUse x1.vadr a, .v b (szRegs x1.sz)], wr := [] } s (fun is s =>
      is.memReady s >>= fun _ => is.room .stc >>= fun _ => is.routes s (szBytes x1.sz) true false (is.addrs x1 a x0) >>= strelSends is b x1 s) := rfl

/-- Settles O21: the checks that let the accesses go, and then the operations, one by one. -/
theorem atomicIssue : Obligations.AtomicIssue := by
  refine ⟨?_, ?_, ?_⟩
  · intro i s is f hf hr hq hroom hreach sc r p u
    have hbare : ∀ (l : List (Nat × Route)) (v : State),
        (l.foldl (fun v e => v.sendAtom is (some r.1.uid) (lanesOf [e.1]) e.1 f.n e.2 (f.op is e.1) r.2) v).bare is.a = v.bare is.a :=
      foldl_bare is.a _ fun v e => State.bare_sendAtom v is _ _ _ _ _ _ _
    obtain ⟨c, hm, hctr, hpend, hs, hk, hv, -, hmem, -⟩ := issued_of_bare (p := p) hr (f.released_shell is s) rfl (atomForm_ctr hf) (hbare _ _)
    exact ⟨(exec_atomForm hf s).trans (issue_ready hr (AForm.body_ready hq hroom hreach)), c, hm, hctr, hpend, hs, hk, hv, hmem⟩
  · intro s is h d a x0 x1 hr hst hq hroom hreach hclear sc u
    have hcur : is.a = s.cur := (State.iss?_view (State.ready_view hr).1).1
    refine ⟨?_, loadIssued_of_bare hr rfl (State.bare_loads _ _ _ _ _ _ _ _ _ _)⟩
    show execALdacq h d a x0 x1 s = _
    unfold execALdacq
    rw [← hcur]
    refine issue_ready hr ((loadBody_ready (x1 := { x1 with ch := if sc ≠ 0 then 0 else x1.ch }) _ true hst hq hroom hreach hclear).trans ?_)
    have hch : (if sc ≠ 0 then 0 else x1.ch).toNat = if sc ≠ 0 then 0 else x1.ch.toNat := by split <;> rfl
    dsimp only
    rw [hch]
    rfl
  · intro s is h a b x0 x1 hr hq hroom hreach sc home rs r
    have hroutes : is.routes s (szBytes x1.sz) true false (is.addrs x1 a x0) = .ok rs := Iss.routes_ok hreach
    have hbody : (is.memReady s >>= fun _ => is.room .stc >>= fun _ => is.routes s (szBytes x1.sz) true false (is.addrs x1 a x0) >>=
        strelSends is b x1 s) = strelSends is b x1 s rs := by
      rw [Iss.memReady_bind hq, Iss.room_bind (c := .stc) hroom, hroutes]
      rfl
    refine ⟨?_, fun hall hrel => ?_, fun hall hrel => ?_⟩
    · intro hall u
      have hbare : ∀ (l : List (Nat × Route)) (v : State), (l.foldl (fun v e =>
          v.storeHome is r.1.uid (lanesOf [e.1]) e.2 (is.storeBytes b (szBytes x1.sz) e.1) r.2) v).bare is.a = v.bare is.a :=
        foldl_bare is.a _ fun v e => State.bare_storeHome v is _ _ _ _ _
      obtain ⟨c, hm, hctr, hpend, hs, hk, hv, -, hmem, -⟩ :=
        issued_of_bare (p := Pend.blank r.1.uid .stc is) (k := .stc) hr (State.release_shell s is.a sc) rfl (by decide) (hbare _ _)
      exact ⟨(exec_aStrel h a b x0 x1 s).trans (issue_ready hr (hbody.trans (if_pos hall))), c, hm, hctr, hpend, hs, hk, hv, hmem⟩
    · refine (exec_aStrel h a b x0 x1 s).trans (issue_ready hr (hbody.trans ((if_neg ?_).trans (State.needRelease_bind hrel _))))
      exact Bool.not_eq_true _ ▸ hall
    · refine (exec_aStrel h a b x0 x1 s).trans (issue_error (e := .release sc) hr (hbody.trans ((if_neg ?_).trans (State.needRelease_wait hrel _))))
      exact Bool.not_eq_true _ ▸ hall

end Sys2Proof.Machine

/-! SUPPORT. Fences, tickets and a.watch at issue (R290 to R298). -/

namespace Sys2Proof.Machine

section
variable {s : State} {is : Iss} {a : RegNo} {x0 : BitVec 32} {n : Nat} {write : Bool}

/-- The route of a uniform access to an object whose checks pass. -/
theorem Iss.objectRoute_ok (hq : is.quiet s) (halign : vaOf (is.addrS a x0) % n = 0) (hal : is.allows s (vaOf (is.addrS a x0)) write true) :
    is.objectRoute s a x0 n write = .ok (is.routeOf s (vaOf (is.addrS a x0))) := by
  have hroutes : is.routesU s write true [vaOf (is.addrS a x0)] = .ok [is.routeOf s (vaOf (is.addrS a x0))] :=
    Iss.routesU_ok fun va hva => (List.mem_singleton.mp hva) ▸ hal
  unfold Iss.objectRoute
  rw [Iss.memReady_bind hq]
  simp only [require_bind, halign, hroutes]
  rfl

end

/-! ## Waits -/

theorem State.ctx?_parkAgent {s : State} {is : Iss} {c : Ctx} (p : Park) (h : s.ctx? is.a = some c) :
    (s.parkAgent is p).ctx? is.a = some (c.parked is (s.clk (dieOf is.a)) p) := State.ctx?_mapCtx_some _ h

theorem State.parkAgent_rest (s : State) (is : Iss) (p : Park) : (s.parkAgent is p).rest = s.rest :=
  State.mapCtx_rest s is.a (·.parked is (s.clk (dieOf is.a)) p)

theorem Ctx.moved_park (c : Ctx) (is : Iss) : (c.moved is).park = c.park := (congrArg Ctx.park (Ctx.moved_rest c is) :)
theorem Ctx.issued_park (c : Ctx) (is : Iss) : (c.issued is).park = c.park := (congrArg Ctx.park (Ctx.issued_rest c is) :)

/-- The request of an operation that a wave waits for. -/
def waitReq (s : State) (is : Iss) (rt : Route) (n : Nat) (op : ReqOp) : Req :=
  Req.blank (is.who is.p) (coreOf is.a) (s.agentPart is.a) rt.va n rt.attr.gen rt.ver rt.attr.typ op

/-- An operation that a wave waits for before it moves on leaves the wave at the instruction, and the request under way (R294, R297). -/
theorem sendWait_from {s : State} {is : Iss} {c0 : Ctx} (hc : s.ctx? is.a = some c0) (rt : Route) (n : Nat) (op : ReqOp) (flush : Bool) :
    ∃ c w, ((s.sendWait is rt n op flush).afterIssue is).ctx? is.a = some c ∧ c.park = .waiter w ∧ (∀ j, c.rec? j = c0.rec? j) ∧
      c.ec = c0.ec ∧
      (∃ r ∈ ((s.sendWait is rt n op flush).afterIssue is).reqs, r.id = w ∧ r.agent = is.a ∧ r.va = rt.va ∧ r.n = n ∧ r.op = op) ∧
      SameS c0 c [] ∧ ((s.sendWait is rt n op flush).afterIssue is).mem = s.mem := by
  have hflush : (if flush then s.flushLine (coreOf is.a) (lineNo rt.va) rt.attr else s).shell = s.shell := by
    split
    · exact State.flushLine_shell _ _ _ _
    · rfl
  generalize hv : (if flush then s.flushLine (coreOf is.a) (lineNo rt.va) rt.attr else s) = v at hflush
  have hsend : s.sendWait is rt n op flush = (v.send (waitReq v is rt n op) []).parkAgent is (.waiter v.uid) := by
    rw [← hv]
    rfl
  have hctx : (v.send (waitReq v is rt n op) []).ctx? is.a = some c0 := (State.shell_ctx? hflush is.a).trans hc
  have hpark := hsend ▸ State.ctx?_parkAgent (.waiter v.uid) hctx
  have hrest := (State.afterIssue_rest (s.sendWait is rt n op flush) is).trans (hsend ▸ State.parkAgent_rest _ _ _)
  refine ⟨_, v.uid, State.ctx?_afterIssue hpark, Ctx.issued_park _ _, fun j => Ctx.issued_rec _ _ _, (congrArg Ctx.ec (Ctx.issued_rest _ is) :), ?_,
    Ctx.sameS_issued is rfl, ?_⟩
  · have hreqs : ((s.sendWait is rt n op flush).afterIssue is).reqs = (v.send (waitReq v is rt n op) []).reqs := (congrArg State.reqs hrest :)
    rw [hreqs]
    exact ⟨_, List.mem_append_right _ (List.mem_singleton.mpr rfl), rfl, rfl, rfl, rfl, rfl⟩
  · have hmem : ((s.sendWait is rt n op flush).afterIssue is).mem = v.mem := (congrArg State.mem hrest :)
    exact hmem.trans (State.shell_mem hflush)

theorem sendWait_issued {s : State} {pm : Perm} {h : Hdr} {len : Nat} {u : Uses} {is : Iss} (hr : s.ready pm h len u = some is) (rt : Route)
    (n : Nat) (op : ReqOp) (flush : Bool) :
    ∃ c w, ((s.sendWait is rt n op flush).afterIssue is).ctx? is.a = some c ∧ c.park = .waiter w ∧ c.rec? is.fid = some is.fr ∧
      (∃ r ∈ ((s.sendWait is rt n op flush).afterIssue is).reqs, r.id = w ∧ r.agent = is.a ∧ r.va = rt.va ∧ r.n = n ∧ r.op = op) ∧
      SameS is.c c [] ∧ ((s.sendWait is rt n op flush).afterIssue is).mem = s.mem := by
  obtain ⟨-, -, -, hfr, -, -, -, -, -⟩ := State.iss?_view (State.ready_view hr).1
  obtain ⟨c, w, hc, hpark, hrec, -, hreq, hs, hmem⟩ := sendWait_from (State.ready_ctx hr) rt n op flush
  exact ⟨c, w, hc, hpark, (hrec _).trans hfr, hreq, hs, hmem⟩

/-! ## Fences -/

/-- What a fence does to the machine before it waits: the release, or for an acquire the combining buffers. -/
def fenceRelease (sub : BitVec 2) (k : Nat) (is : Iss) (s : State) : State × List Nat :=
  if sub = 1 then (s.drainWc (coreOf is.a) (fun _ => true), []) else s.release is.a k

theorem fenceRelease_shell (sub : BitVec 2) (k : Nat) (is : Iss) (s : State) : (fenceRelease sub k is s).1.shell = s.shell := by
  unfold fenceRelease
  split <;> simp

/-- What a fence waits for (R289, R290, R303). -/
def fencePark (sub : BitVec 2) (k : Nat) (is : Iss) (r : State × List Nat) : Park :=
  .fence (r.2 ++ if sub = 2 then [] else (r.1.reqs.filter (fun r => r.agent = is.a && r.op.reads && r.pend.isSome)).map (·.id))
    (if sub = 2 then none else some (BitVec.ofNat 3 k))

theorem exec_aFence (h : Hdr) (sub : BitVec 2) (sc : BitVec 3) (s : State) :
    exec (.aFence h sub sc) s = issue .wave h 8 { rd := [], wr := [] } s (fun is s => is.memReady s >>= fun _ =>
      pure ((fenceRelease sub (s.scope is.a sc) is s).1.parkAgent is
        (fencePark sub (s.scope is.a sc) is (fenceRelease sub (s.scope is.a sc) is s)))) := rfl

/-- Settles O22: the checks of the object, and then the release, the wait or the request. -/
theorem orderingIssue : Obligations.OrderingIssue := by
  refine ⟨?_, ?_, ?_, ?_, ?_⟩
  · intro s is h sub sc hr hq k r reads
    have hx : exec (.aFence h sub sc) s = .next ((r.1.parkAgent is (fencePark sub k is r)).retire is) :=
      (exec_aFence h sub sc s).trans (issue_ready hr (Iss.memReady_bind hq _))
    have hshell : r.1.shell = s.shell := fenceRelease_shell sub k is s
    have hctx : r.1.ctx? is.a = some is.c := (State.shell_ctx? hshell is.a).trans (State.ready_ctx hr)
    refine ⟨hx, _, _, _, _, hx, State.ctx?_retire (State.ctx?_parkAgent _ hctx), Ctx.moved_park _ _, ?_, Ctx.sameS_moved is rfl,
      Ctx.sameK_moved is rfl, Ctx.sameV_moved is rfl, ?_⟩
    · split <;> simp_all
    · rw [State.retire_mem]
      have hmem : (r.1.parkAgent is (fencePark sub k is r)).mem = r.1.mem := (congrArg State.mem (State.parkAgent_rest _ _ _) :)
      exact hmem.trans (State.shell_mem hshell)
  · intro s is h d a x0 x1 hr hq hroom va halign hal
    show execATktTake h d a x0 x1 s = _
    unfold execATktTake
    refine issue_ready hr ?_
    rw [Iss.objectRoute_ok hq halign hal]
    exact Iss.room_bind (c := .ldc) hroom _
  · intro s is h a src x0 x1 hr hq va halign hal r
    show execATktServe h a src x0 x1 s = _
    unfold execATktServe
    refine issue_ready hr ?_
    rw [Iss.objectRoute_ok hq halign hal]
    rfl
  · intro s is h a b x0 x1 hr hq va halign hal
    obtain ⟨c, w, hc⟩ := sendWait_issued hr (is.routeOf s va) 16
      (.ticket ((is.s b).toNat % 2 ^ 32) (BitVec.ofNat 3 (s.scope is.a x1.sc))) true
    refine ⟨_, c, w, ?_, hc⟩
    show execATktWait h a b x0 x1 s = _
    unfold execATktWait
    refine issueRaw_ready hr ?_
    rw [Iss.objectRoute_ok hq halign hal]
    rfl
  · intro s is h d a b x0 x1 hr hq va halign hal
    obtain ⟨c, w, hc⟩ := sendWait_issued hr (is.routeOf s va) (szBytes x1.sz)
      (.watch ((is.s b).toNat % 2 ^ (8 * szBytes x1.sz)) (BitVec.ofNat 3 (s.scope is.a x1.sc)) d.toNat) false
    refine ⟨_, c, w, ?_, hc⟩
    show execAWatch h d a b x0 x1 s = _
    unfold execAWatch
    refine issueRaw_ready hr ?_
    dsimp only
    rw [Iss.objectRoute_ok hq halign hal]
    rfl

end Sys2Proof.Machine

/-! SUPPORT. Barrier objects (R157 to R160): the bytes of an object, its fields, and the flip. -/

namespace Sys2Proof.Machine

/-! ## Bytes -/

theorem getByte_putBytes_before (l : List Byte) : ∀ (m : AMap Byte) (a i : Nat), i < a → AMap.get 0 (putBytes m a l) i = AMap.get 0 m i := by
  induction l with
  | nil => exact fun _ _ _ _ => rfl
  | cons b l ih =>
    intro m a i h
    rw [putBytes, ih _ _ _ (by omega), AMap.get_set, if_neg (by omega)]

/-- What was written is read. -/
theorem bytesAt_putBytes (l : List Byte) : ∀ (m : AMap Byte) (a : Nat), bytesAt (putBytes m a l) a l.length = l := by
  induction l with
  | nil => exact fun _ _ => rfl
  | cons b l ih =>
    intro m a
    have htail : bytesAt (putBytes m a (b :: l)) (a + 1) l.length = l := ih (AMap.set 0 m a b) (a + 1)
    have hhead : AMap.get 0 (putBytes m a (b :: l)) a = b := by
      rw [putBytes, getByte_putBytes_before _ _ _ _ (by omega), AMap.get_set, if_pos rfl]
    unfold bytesAt at htail ⊢
    rw [List.length_cons, List.range_succ_eq_map, List.map_cons, Nat.add_zero, hhead, List.map_map]
    refine congrArg (b :: ·) (Eq.trans (List.map_congr_left fun i _ => ?_) htail)
    show AMap.get 0 _ (a + (i + 1)) = AMap.get 0 _ (a + 1 + i)
    rw [show a + (i + 1) = a + 1 + i by omega]

theorem length_leBytes (n : Nat) : ∀ v, (leBytes n v).length = n := by
  induction n with
  | zero => exact fun _ => rfl
  | succ n ih => exact fun v => congrArg (· + 1) (ih _)

theorem ofLe_leBytes (n : Nat) : ∀ v, ofLe (leBytes n v) = v % 256 ^ n := by
  induction n with
  | zero => exact fun v => (Nat.mod_one v).symm
  | succ n ih =>
    intro v
    rw [leBytes, ofLe, ih, Nat.pow_succ', Nat.mod_mul]
    rfl

/-! ## An object -/

section
variable {s : State} {k off : Nat} {tm : Team} (ht : s.teams.find k = some tm)
include ht

theorem State.find_lsPut (l : List Byte) :
    (s.lsPut (.team k) off l).teams.find k = some { tm with win := putBytes tm.win off l } :=
  State.find_mapTeam _ ht

theorem State.object_lsPut (v : Nat) : (s.lsPut (.team k) off (leBytes 16 v)).object k off = v % 2 ^ 128 := by
  have hread : (s.lsPut (.team k) off (leBytes 16 v)).lsRead (.team k) off 16 = leBytes 16 v := by
    unfold State.lsRead
    dsimp only
    rw [State.find_lsPut ht]
    have := bytesAt_putBytes (leBytes 16 v) tm.win off
    rwa [length_leBytes] at this
  rw [State.object, hread, ofLe_leBytes]
  norm_num

end

/-- A wake leaves the objects as they are. -/
theorem State.object_wakeBar (s : State) (k off gen : Nat) (acq : Option (BitVec 3)) (j i : Nat) :
    (s.wakeBar k off gen acq).object j i = s.object j i := rfl

/-! ## The flip -/

/-- The bits of an object after its flip: the next generation, and as many arrivals pending as are expected (R158). -/
def flippedBits (v : Nat) : Nat := setBits (setBits v 0 4 ((objGen v + 1) % 16)) 4 12 (objExp v)

theorem flippedBits_lt {v : Nat} (h : v < 2 ^ 128) : flippedBits v < 2 ^ 128 := by
  simp only [flippedBits, setBits, objGen, objExp, bits_eq]
  omega

theorem objGen_flippedBits (v : Nat) : objGen (flippedBits v) = (objGen v + 1) % 16 := by
  simp only [flippedBits, setBits, objGen, objExp, bits_eq]
  omega

theorem objPend_flippedBits (v : Nat) : objPend (flippedBits v) = objExp v := by
  simp only [flippedBits, setBits, objGen, objExp, objPend, bits_eq]
  omega

/-- The test of a local object with nothing pending flips it. -/
theorem State.flipTest_flips {s : State} {k off v : Nat} (hv : s.object k off = v) (hp : objPend v = 0) (hi : objInb v = 0) (ho : objOutb v = 0)
    (hr : objRemote v = false) :
    s.flipTest k off = (s.lsPut (.team k) off (leBytes 16 (flippedBits v))).wakeBar k off ((objGen v + 1) % 16)
      (some (BitVec.ofNat 3 (objSc v))) := by
  unfold State.flipTest
  simp only [hv, hp, hi, ho, hr, ne_eq, not_true_eq_false, decide_false, Bool.or_self, Bool.false_eq_true, if_false, Bool.not_false, if_true]
  rfl

/-- What a map over the entries finds under a key, where it keeps the keys. -/
theorem AMap.find_map_entry {β : Type} {g : Nat × β → Nat × β} (hg : ∀ e, (g e).1 = e.1) {j : Nat} {y : β} :
    ∀ {m : AMap β}, AMap.find (m.map g) j = some y → ∃ x, AMap.find m j = some x ∧ (g (j, x)).2 = y
  | [], h => absurd h nofun
  | (k, x) :: m, h => by
    rw [List.map_cons, ← Prod.eta (g (k, x)), AMap.find, hg] at h
    rw [AMap.find]
    by_cases hj : j = k
    · rw [if_pos hj, Option.some.injEq] at h
      exact ⟨x, if_pos hj, hj ▸ h⟩
    · rw [if_neg hj] at h ⊢
      exact AMap.find_map_entry hg h

/-- How a flip changes an entry of the contexts (R158). -/
def wakeEntry (s : State) (k off gen : Nat) (acq : Option (BitVec 3)) (e : Nat × Ctx) : Nat × Ctx :=
  match e.2.park with
  | .bar t o tok =>
    if t = k && o = off && tok % 16 ≠ gen then
      (e.1, { e.2 with park := .fence [] (acq.map (fun sc => BitVec.ofNat 3 (s.scope (agentOfKey e.1) sc))) })
    else e
  | _ => e

theorem State.wakeBar_ctxs (s : State) (k off gen : Nat) (acq : Option (BitVec 3)) :
    (s.wakeBar k off gen acq).ctxs = s.ctxs.map (wakeEntry s k off gen acq) := rfl

theorem wakeEntry_key (s : State) (k off gen : Nat) (acq : Option (BitVec 3)) (e : Nat × Ctx) : (wakeEntry s k off gen acq e).1 = e.1 := by
  unfold wakeEntry
  split
  · split <;> rfl
  · rfl

/-- A wave that a flip leaves waiting has the new generation for its token. -/
theorem State.wakeBar_waits {s : State} {k off gen : Nat} {acq : Option (BitVec 3)} {a : Agent} {c : Ctx} {tok : Nat}
    (hc : (s.wakeBar k off gen acq).ctx? a = some c) (hp : c.park = .bar k off tok) : tok % 16 = gen := by
  obtain ⟨x, -, hx⟩ := AMap.find_map_entry (wakeEntry_key s k off gen acq) hc
  unfold wakeEntry at hx
  split at hx
  · next t o tok' hpark =>
    split at hx
    · subst hx
      exact absurd hp Park.noConfusion
    · next hne =>
      dsimp only at hx hpark
      rw [hx, hp] at hpark
      obtain ⟨rfl, rfl, rfl⟩ := Park.bar.inj hpark
      simpa using hne
  · next hno =>
    dsimp only at hx
    exact absurd (hx ▸ hp) (hno k off tok)

/-- Settles O24: the update writes the object's bits, and its test flips them and wakes the waiters. -/
theorem barrierFlip : Obligations.BarrierFlip := by
  intro s k off v tm ht hv hp hi ho hr
  have hobj : (s.lsPut (.team k) off (leBytes 16 v)).object k off = v := (State.object_lsPut ht v).trans (Nat.mod_eq_of_lt hv)
  have hput : s.putObject k off v = _ := State.flipTest_flips hobj hp hi ho hr
  have hnew : (s.putObject k off v).object k off = flippedBits v := by
    rw [hput, State.object_wakeBar, State.object_lsPut (State.find_lsPut ht _),
      Nat.mod_eq_of_lt (flippedBits_lt hv)]
  refine ⟨hnew ▸ objGen_flippedBits v, hnew ▸ objPend_flippedBits v, fun a c o tok hc hpark ho => ?_⟩
  subst ho
  rw [hput] at hc
  exact State.wakeBar_waits hc hpark

end Sys2Proof.Machine

/-! SUPPORT. The barrier instructions on an object that passes its checks (R159, R160, R163). -/

namespace Sys2Proof.Machine

theorem State.checkObj_ok {s : State} {is : Iss} {addr : Nat} {o : Obj} (h : is.objectAt s addr o) :
    s.checkObj is.a is.c.team addr = .ok o := by
  obtain ⟨halign, ⟨p, hp, href, hoff, hlim⟩, hv, hsc, haddr, hbad, hrem⟩ := h
  obtain ⟨key, off, v, sc, addr'⟩ := o
  dsimp only at href hoff hlim hv hsc haddr hbad hrem
  subst haddr
  have hlim' : ¬ p.limit < p.off + 16 := by omega
  have hok : (objBad v || (objRemote v && sc < 3)) = false := by
    rw [hbad, Bool.false_or]
    cases hr : objRemote v with
    | false => rfl
    | true => simpa using hrem hr
  unfold State.checkObj
  rw [if_neg (not_not_intro halign), hp]
  simp only [pure, Except.pure, if_neg hlim', href]
  rw [hoff, ← hv, ← hsc, if_neg (by rw [hok]; decide)]

/-- A barrier instruction whose object passes its checks does what its body does, on a word that counts as an object from now on. -/
theorem barrierOp_ready {s s1 t : State} {is : Iss} {h : Hdr} {rd wr : List Use} {a : RegNo} {imm : BitVec 32} {o : Obj}
    {body : Iss → Obj → State → Res State} (hr : s.ready .core h 12 { rd := .s a :: rd, wr := wr } = some is)
    (hat : BarrierAt s is a imm o s1) (hbody : body is o s1 = .ok t) : barrierOp h rd wr a imm s body = .next (t.retire is) := by
  obtain ⟨hq, hguard, hobj, rfl⟩ := hat
  refine issueRaw_ready (s' := t.advance is) hr ?_
  dsimp only
  rw [Iss.memReady_bind hq, hguard]
  dsimp only
  rw [State.checkObj_ok hobj]
  dsimp only
  rw [hbody]
  rfl

/-- Or stands where its body sends it. -/
theorem barrierOp_error {s s1 : State} {is : Iss} {h : Hdr} {rd wr : List Use} {a : RegNo} {imm : BitVec 32} {o : Obj} {e : Exc}
    {body : Iss → Obj → State → Res State} (hr : s.ready .core h 12 { rd := .s a :: rd, wr := wr } = some is)
    (hat : BarrierAt s is a imm o s1) (hbody : body is o s1 = .error e) : barrierOp h rd wr a imm s body = .next (s.except is e) := by
  obtain ⟨hq, hguard, hobj, rfl⟩ := hat
  refine issueRaw_error hr ?_
  dsimp only
  rw [Iss.memReady_bind hq, hguard]
  dsimp only
  rw [State.checkObj_ok hobj]
  dsimp only
  rw [hbody]
  rfl

theorem Iss.checkFlt_bind {α : Type} {is : Iss} {s : State} {o : Obj} (h : objFlt o.v = false) (k : Unit → Res α) :
    (is.checkFlt s o >>= k) = k () := by
  unfold Iss.checkFlt
  simp only [h]
  rfl

/-- Naming an object changes its team alone. -/
theorem BarrierAt.ctxs {s s1 : State} {is : Iss} {a : RegNo} {imm : BitVec 32} {o : Obj} (h : BarrierAt s is a imm o s1) :
    s1.ctxs = s.ctxs ∧ s1.mem = s.mem := by
  obtain ⟨-, -, -, rfl⟩ := h
  exact ⟨State.mapTeam_ctxs _ _ _, State.mapTeam_mem _ _ _⟩

/-- What an arrival without bytes leaves, written out. -/
theorem arrival_eq (v : Nat) : arrival v =
    (if objPend v = 0 then v else setBits v 4 12 (objPend v - 1), objGen v + if objPend v = 0 then 16 else 0) := by
  unfold arrival
  split <;> rfl

/-- What a.bar.test leaves: the answer, and where it is 1 the wait for an acquire. -/
def barTested (is : Iss) (d : RegNo) (o : Obj) (tok : Nat) (s : State) : State :=
  if objGen o.v ≠ tok then (s.wrS is d 1).parkAgent is (.fence [] (some (BitVec.ofNat 3 o.sc))) else s.wrS is d 0

theorem barTested_spec {s : State} {is : Iss} {c : Ctx} (d : RegNo) (o : Obj) (tok : Nat) (h : s.ctx? is.a = some c) :
    ∃ c', (barTested is d o tok s).ctx? is.a = some c' ∧ c'.split = c.split ∧
      (∀ n, c'.sget n = if n = d.toNat ∧ n ≠ 63 then (if objGen o.v ≠ tok then 1 else 0) else c.sget n) ∧
      c'.k = c.k ∧ c'.v = c.v ∧ c'.flags = c.flags ∧ (barTested is d o tok s).mem = s.mem ∧
      ∀ b, ctxKey b ≠ ctxKey is.a → (barTested is d o tok s).ctx? b = s.ctx? b := by
  have hsget (g : AMap Tag) (x : W64) (n : Nat) : (Ctx.sset { c with tags := g } d.toNat x).sget n = if n = d.toNat ∧ n ≠ 63 then x else c.sget n := by
    rw [Ctx.sget_sset]
    exact if_congr (and_congr_right fun hn => by rw [hn]) rfl rfl
  unfold barTested
  split
  · next hne =>
    obtain ⟨⟨g, hc⟩, hrest, hother, -⟩ := State.wrS_spec d 1 h
    have hmem : ((s.wrS is d 1).parkAgent is (.fence [] (some (BitVec.ofNat 3 o.sc)))).mem = s.mem :=
      (congrArg State.mem ((State.parkAgent_rest _ _ _).trans hrest) :)
    exact ⟨_, State.ctx?_parkAgent _ hc, by simp [Ctx.parked], hsget g 1, by simp [Ctx.parked],
      by simp [Ctx.parked], by simp [Ctx.parked], hmem, fun b hb => (State.ctx?_mapCtx_ne _ _ _ _ hb).trans (hother b hb)⟩
  · next hne =>
    obtain ⟨⟨g, hc⟩, hrest, hother, -⟩ := State.wrS_spec d 0 h
    exact ⟨_, hc, by simp, hsget g 0, by simp, by simp, by simp, (congrArg State.mem hrest :), hother⟩

section
variable {s s1 : State} {is : Iss} {h : Hdr} {d a b : RegNo} {imm : BitVec 32} {o : Obj} (hat : BarrierAt s is a imm o s1)
include hat

theorem exec_aBarInit (hr : s.ready .core h 12 { rd := [.s a, .s b], wr := [] } = some is)
    (hexp : bits (is.s b).toNat 0 12 ≠ 0) (hsc : bits (is.s b).toNat 13 3 ≠ 7) :
    exec (.aBarInit h a b imm) s = .next ((((s1.lsPut (.team o.key) o.off (leBytes 16
      (16 * bits (is.s b).toNat 0 12 + 65536 * bits (is.s b).toNat 0 12 +
        (if (is.s b).toNat.testBit 12 then 2 ^ 96 else 0) + 2 ^ 104 * bits (is.s b).toNat 13 3))).wakeBar o.key o.off 0 none)).retire
      is) := by
  show execABarInit h a b imm s = _
  unfold execABarInit
  refine barrierOp_ready hr hat ?_
  have hok : (decide (bits (is.s b).toNat 0 12 ≠ 0) && decide (bits (is.s b).toNat 13 3 ≠ 7)) = true := by simp [hexp, hsc]
  simp only [require_bind, hok, if_true]
  rfl

theorem exec_aBarArrive {sub : BitVec 2} (hr : s.ready .core h 12 { rd := .s a :: (if sub = 0 then [] else [.s b]), wr := [.s d] } = some is) :
    let v := if sub = 0 then o.v else expect o.v ((is.s b).toNat % 2 ^ 32) (sub == 2)
    (is.released s1 o.sc → exec (.aBarArrive h sub d a b imm) s = .next (((s1.putObject o.key o.off
        (if objPend v = 0 then v else setBits v 4 12 (objPend v - 1))).wrS is d
      (BitVec.ofNat 64 (objGen v + if objPend v = 0 then 16 else 0))).retire is)) ∧
    (¬ is.released s1 o.sc → exec (.aBarArrive h sub d a b imm) s = .next (s.except is (.release o.sc))) := by
  intro v
  show (_ → execABarArrive h sub d a b imm s = _) ∧ (_ → execABarArrive h sub d a b imm s = _)
  unfold execABarArrive
  refine ⟨fun hrel => barrierOp_ready hr hat ?_, fun hrel => barrierOp_error hr hat (State.needRelease_wait hrel _)⟩
  rw [State.needRelease_bind hrel]
  dsimp only
  rw [arrival_eq]
  rfl

theorem exec_aBarWait (hr : s.ready .core h 12 { rd := [.s a, .s b], wr := [] } = some is) (hflt : objFlt o.v = false) :
    exec (.aBarWait h a b imm) s = .next (State.retire (s1.parkAgent is
      (if objGen (s1.object o.key o.off) ≠ (is.s b).toNat % 16 then .fence [] (some (BitVec.ofNat 3 o.sc))
        else .bar o.key o.off ((is.s b).toNat % 16))) is) := by
  show execABarWait h a b imm s = _
  unfold execABarWait
  refine barrierOp_ready hr hat ((Iss.checkFlt_bind hflt _).trans (congrArg Except.ok ?_))
  have htok : bits (is.s b).toNat 0 4 = (is.s b).toNat % 16 := by simp [bits]
  rw [State.barWait, htok, Nat.mod_mod]
  split <;> rfl

theorem exec_aBarSync (hr : s.ready .core h 12 { rd := [.s a], wr := [.s d] } = some is) (hflt : objFlt o.v = false) :
    (is.released s1 o.sc → exec (.aBarSync h d a imm) s = .next (((((s1.putObject o.key o.off (arrival o.v).1).wrS is d
      (BitVec.ofNat 64 (arrival o.v).2)).barWait is o (arrival o.v).2)).retire is)) ∧
    (¬ is.released s1 o.sc → exec (.aBarSync h d a imm) s = .next (s.except is (.release o.sc))) := by
  show (_ → execABarSync h d a imm s = _) ∧ (_ → execABarSync h d a imm s = _)
  unfold execABarSync
  exact ⟨fun hrel => barrierOp_ready hr hat ((Iss.checkFlt_bind hflt _).trans (State.needRelease_bind hrel _)),
    fun hrel => barrierOp_error hr hat ((Iss.checkFlt_bind hflt _).trans (State.needRelease_wait hrel _))⟩

theorem exec_aBarTest (hr : s.ready .core h 12 { rd := [.s a, .s b], wr := [.s d] } = some is) (hflt : objFlt o.v = false) :
    exec (.aBarTest h d a b imm) s = .next ((barTested is d o ((is.s b).toNat % 16) s1).retire is) := by
  show execABarTest h d a b imm s = _
  unfold execABarTest
  refine barrierOp_ready hr hat ((Iss.checkFlt_bind hflt _).trans (congrArg Except.ok ?_))
  have htok : bits (is.s b).toNat 0 4 = (is.s b).toNat % 16 := by simp [bits]
  unfold barTested
  rw [htok]
  by_cases hit : objGen o.v ≠ (is.s b).toNat % 16
  · simp only [if_pos hit]
  · simp only [if_neg hit]

end

/-- Settles O23: the checks of the object, and then the body of each instruction. -/
theorem barrierOperations : Obligations.BarrierOperations := by
  refine ⟨fun s s1 is h a b imm o hr hat hexp hsc => exec_aBarInit hat hr hexp hsc, fun s s1 is h sub d a b imm o hr hat => exec_aBarArrive hat hr,
    fun s s1 is h sub a b imm o hr hat => ?_, fun s s1 is h a b imm o hr hat hflt => exec_aBarWait hat hr hflt,
    fun s s1 is h d a imm o hr hat hflt => exec_aBarSync hat hr hflt, fun s s1 is h d a b imm o hr hat hflt => ?_⟩
  · show execABarExpect h sub a b imm s = _
    unfold execABarExpect
    exact barrierOp_ready hr hat rfl
  · obtain ⟨hctxs, hmem⟩ := BarrierAt.ctxs hat
    have hctx : s1.ctx? is.a = some is.c := (State.ctx?_congr hctxs is.a).trans (State.ready_ctx hr)
    obtain ⟨c, hc, hsplit, hs, hk, hv, hf, hm, hother⟩ := barTested_spec d o ((is.s b).toNat % 16) hctx
    exact ⟨_, _, exec_aBarTest hat hr hflt, movesOn hr hc hsplit fun b hb => (hother b hb).trans (State.ctx?_congr hctxs b),
      fun n => (Ctx.moved_sget _ _ _).trans (hs n), Ctx.sameK_moved is hk, Ctx.sameV_moved is hv, Ctx.sameF_moved is hf,
      (State.retire_mem _ _).trans (hm.trans hmem)⟩

end Sys2Proof.Machine

/-! SUPPORT. Futures (R364 to R367): what taking an entry does, what resolving it at once does, and what a post does. -/

namespace Sys2Proof.Machine

/-! ## Taking an entry -/

/-- A quad without its future table and its SEQ. -/
def Quad.body (x : Quad) : Quad := { x with futs := [], seq := 0 }

/-- The entry that an operation takes. -/
def newFut (s : State) (is : Iss) (d : RegNo) (kind sc op : Nat) : Fut :=
  { team := is.c.team, seq := (s.quad (quadOf is.a)).seq, kind := kind, sc := BitVec.ofNat 3 sc,
    sites := if d.toNat = 63 then [] else [.reg is.a d.toNat], op := op, flags := 0, stale := false, acks := [] }

/-- The tag of its register. -/
def newTag (s : State) (is : Iss) (sc k : Nat) : Tag :=
  { quad := quadOf is.a, slot := k, seq := (s.quad (quadOf is.a)).seq, sc := BitVec.ofNat 3 sc, resolved := false, flags := 0, stale := false }

/-- The context with the pending handle in its register. -/
def Ctx.handed (c : Ctx) (r : Nat) (h : W64) (t : Tag) : Ctx := if r = 63 then c else { c.sset r h with tags := c.tags.put r t }

section
variable (c : Ctx) (r : Nat) (h : W64) (t : Tag)
@[simp] theorem Ctx.handed_k : (c.handed r h t).k = c.k := by unfold Ctx.handed; split <;> simp
@[simp] theorem Ctx.handed_v : (c.handed r h t).v = c.v := by unfold Ctx.handed; split <;> simp
@[simp] theorem Ctx.handed_flags : (c.handed r h t).flags = c.flags := by unfold Ctx.handed; split <;> simp
@[simp] theorem Ctx.handed_split : (c.handed r h t).split = c.split := by unfold Ctx.handed; split <;> simp
theorem Ctx.handed_rest : (c.handed r h t).rest = c.rest := by
  unfold Ctx.handed
  split
  · rfl
  · exact Ctx.sset_rest c r h
theorem Ctx.handed_sget (n : Nat) : (c.handed r h t).sget n = if n = r ∧ n ≠ 63 then h else c.sget n := by
  unfold Ctx.handed
  split
  · next hr => rw [if_neg (by omega)]
  · next hr =>
    refine (Ctx.sget_sset c r n h).trans (if_congr (and_congr_right fun hn => by rw [hn]) rfl rfl)
theorem Ctx.handed_tag (hr : r ≠ 63) : (c.handed r h t).tags.find r = some t := by
  unfold Ctx.handed
  rw [if_neg hr]
  exact AMap.find_put_same _ _ _
end

/-- What taking entry k leaves: the entry, SEQ one on, the pending handle in its register under its tag, and all else as it was. -/
structure FutTaken (s t : State) (is : Iss) (d : RegNo) (kind sc op k : Nat) (c c' : Ctx) : Prop where
  free : (s.quad (quadOf is.a)).futs.find k = none
  bound : k < Config.futures
  entry : (t.quad (quadOf is.a)).futs.find k = some (newFut s is d kind sc op)
  seq : (t.quad (quadOf is.a)).seq = ((s.quad (quadOf is.a)).seq + 1) % 2 ^ 32
  body : ∀ j, (t.quad j).body = (s.quad j).body
  rest : t.rest = s.rest
  ctx : t.ctx? is.a = some c'
  others : ∀ b, ctxKey b ≠ ctxKey is.a → t.ctx? b = s.ctx? b
  handed : ∃ g, c' = Ctx.handed { c with tags := g } d.toNat (pendingHandle (s.quad (quadOf is.a)).seq (quadOf is.a) kind k) (newTag s is sc k)

theorem Quad.freeFut_spec {x : Quad} {k : Nat} (h : x.freeFut = some k) : x.futs.find k = none ∧ k < Config.futures := by
  have hm := List.mem_of_find?_eq_some h
  have hp := List.find?_some h
  exact ⟨by simpa using hp, List.mem_range.mp hm⟩

/-- Removing a site leaves a quad's tasks and the rest of it, and its SEQ. -/
theorem State.dropSite_quad (s : State) (a : Agent) (r : Nat) (t : Tag) (j : Nat) :
    ((s.dropSite a r t).quad j).body = (s.quad j).body ∧ ((s.dropSite a r t).quad j).seq = (s.quad j).seq := by
  unfold State.dropSite
  split
  · exact ⟨rfl, rfl⟩
  · by_cases hj : j = t.quad
    · subst hj
      rw [State.quad_mapQuad]
      split
      · split <;> exact ⟨rfl, rfl⟩
      · exact ⟨rfl, rfl⟩
    · rw [State.quad_mapQuad_ne _ _ _ _ hj]
      exact ⟨rfl, rfl⟩

theorem State.clearTag_quad (s : State) (a : Agent) (r j : Nat) :
    ((s.clearTag a r).quad j).body = (s.quad j).body ∧ ((s.clearTag a r).quad j).seq = (s.quad j).seq := by
  unfold State.clearTag
  split
  · exact ⟨rfl, rfl⟩
  · split
    · exact ⟨rfl, rfl⟩
    · exact State.dropSite_quad _ _ _ _ _

/-- With room in EC and a free entry, an operation takes the entry (R202, R365). -/
theorem State.takeFut_ok {s : State} {is : Iss} {c : Ctx} {k : Nat} (d : RegNo) (kind sc op : Nat) (hc : s.ctx? is.a = some c)
    (hec : is.c.ec < 63) (hk : (s.quad (quadOf is.a)).freeFut = some k) :
    ∃ t c', s.takeFut is d kind sc op = .ok (t, quadOf is.a, k) ∧ FutTaken s t is d kind sc op k c c' := by
  obtain ⟨hfree, hbound⟩ := Quad.freeFut_spec hk
  obtain ⟨⟨g, hg⟩, hrest, hother, -⟩ := State.clearTag_spec d.toNat hc
  have hquad := State.clearTag_quad s is.a d.toNat
  unfold State.takeFut
  rw [Iss.room_bind (c := .ec) hec]
  dsimp only
  rw [hk]
  refine ⟨_, _, rfl, hfree, hbound, ?_, ?_, fun j => ?_, ?_, State.ctx?_mapCtx_some _ hg, fun b hb => ?_, g, rfl⟩
  · rw [State.quad_congr (State.mapCtx_quads _ _ _), State.quad_mapQuad]
    exact AMap.find_put_same _ _ _
  · rw [State.quad_congr (State.mapCtx_quads _ _ _), State.quad_mapQuad]
    exact congrArg (fun n => (n + 1) % 2 ^ 32) (hquad _).2
  · rw [State.quad_congr (State.mapCtx_quads _ _ _)]
    by_cases hj : j = quadOf is.a
    · subst hj
      rw [State.quad_mapQuad]
      exact (hquad _).1
    · rw [State.quad_mapQuad_ne _ _ _ _ hj]
      exact (hquad j).1
  · exact (State.mapCtx_rest _ _ _).trans hrest
  · exact (State.ctx?_mapCtx_ne _ _ _ _ hb).trans (hother b hb)

/-- Without either it waits. -/
theorem State.takeFut_stall {s : State} {is : Iss} (d : RegNo) (kind sc op : Nat) (h : 63 ≤ is.c.ec ∨ (s.quad (quadOf is.a)).freeFut = none) :
    s.takeFut is d kind sc op = .error .stall := by
  unfold State.takeFut Iss.room
  by_cases hec : is.c.ec < 63
  · have hnone := h.resolve_left (by omega)
    rw [show decide (is.c.ctr .ec < 63) = true from decide_eq_true hec]
    dsimp only
    rw [hnone]
    rfl
  · rw [show decide (is.c.ctr .ec < 63) = false from decide_eq_false hec]
    rfl

theorem State.futRoom_iff {s : State} {is : Iss} : s.futRoom is ↔ is.c.ec < 63 ∧ ∃ k, (s.quad (quadOf is.a)).freeFut = some k := by
  unfold State.futRoom
  rw [Option.ne_none_iff_exists']

theorem State.not_futRoom {s : State} {is : Iss} (h : ¬ s.futRoom is) : 63 ≤ is.c.ec ∨ (s.quad (quadOf is.a)).freeFut = none := by
  unfold State.futRoom at h
  by_cases hec : is.c.ec < 63
  · exact .inr (not_not.mp fun hn => h ⟨hec, hn⟩)
  · exact .inl (by omega)

/-! ## The instruction that has taken it -/

section
variable {s t : State} {is : Iss} {d : RegNo} {kind sc op k : Nat} {c c' : Ctx} (h : FutTaken s t is d kind sc op k c c')
include h

theorem FutTaken.mem : t.mem = s.mem := (congrArg State.mem h.rest :)
theorem FutTaken.teams : t.teams = s.teams := (congrArg State.teams h.rest :)
theorem FutTaken.uid : t.uid = s.uid := (congrArg State.uid h.rest :)
theorem FutTaken.tasks (j : Nat) : (t.quad j).tasks = (s.quad j).tasks := (congrArg Quad.tasks (h.body j) :)
theorem FutTaken.k_eq : c'.k = c.k := by obtain ⟨g, rfl⟩ := h.handed; simp
theorem FutTaken.v_eq : c'.v = c.v := by obtain ⟨g, rfl⟩ := h.handed; simp
theorem FutTaken.flags_eq : c'.flags = c.flags := by obtain ⟨g, rfl⟩ := h.handed; simp
theorem FutTaken.split_eq : c'.split = c.split := by obtain ⟨g, rfl⟩ := h.handed; simp
theorem FutTaken.ctx_rest : c'.rest = c.rest := by obtain ⟨g, rfl⟩ := h.handed; exact Ctx.handed_rest _ _ _ _
theorem FutTaken.sget (n : Nat) :
    c'.sget n = if n = d.toNat ∧ n ≠ 63 then pendingHandle (s.quad (quadOf is.a)).seq (quadOf is.a) kind k else c.sget n := by
  obtain ⟨g, rfl⟩ := h.handed
  exact Ctx.handed_sget _ _ _ _ _
theorem FutTaken.tag (hd : d.toNat ≠ 63) : c'.tags.find d.toNat = some (newTag s is sc k) := by
  obtain ⟨g, rfl⟩ := h.handed
  exact Ctx.handed_tag _ _ _ _ hd

end

/-- A context reads its tags behind an issue as before. -/
theorem Ctx.moved_tags (c : Ctx) (is : Iss) : (c.moved is).tags = c.tags := by
  unfold Ctx.moved Ctx.stepDone Ctx.setPc
  dsimp only
  split <;> split <;> rfl

/-- Two contexts have the same registers, flags and fragments, and stand and wait alike. -/
structure Ctx.Alike (c c' : Ctx) : Prop where
  s : c'.s = c.s
  k : c'.k = c.k
  v : c'.v = c.v
  flags : c'.flags = c.flags
  split : c'.split = c.split
  stop : c'.stop = c.stop
  park : c'.park = c.park

theorem Ctx.Alike.refl (c : Ctx) : c.Alike c := ⟨rfl, rfl, rfl, rfl, rfl, rfl, rfl⟩

/-- A state that an instruction's reads have left: the other contexts as they were, and the wave's with its registers and fragments. -/
structure Reached (s s1 : State) (is : Iss) (c : Ctx) : Prop where
  ctx : s1.ctx? is.a = some c
  alike : is.c.Alike c
  others : ∀ b, ctxKey b ≠ ctxKey is.a → s1.ctx? b = s.ctx? b

theorem Reached.refl {s : State} {pm : Perm} {h : Hdr} {len : Nat} {us : Uses} {is : Iss} (hr : s.ready pm h len us = some is) : Reached s s is is.c :=
  ⟨State.ready_ctx hr, Ctx.Alike.refl _, fun _ _ => rfl⟩

theorem Reached.movesOn {s s1 t : State} {pm : Perm} {h : Hdr} {len : Nat} {us : Uses} {is : Iss} {c c' : Ctx} (hr : s.ready pm h len us = some is)
    (h1 : Reached s s1 is c) (hc : t.ctx? is.a = some c') (hs : c'.split = c.split) (ho : ∀ b, ctxKey b ≠ ctxKey is.a → t.ctx? b = s1.ctx? b) :
    MovesOn s1 (t.retire is) is (c'.moved is) := by
  obtain ⟨hctx, hfr, hothers, hall⟩ :=
    Sys2Proof.Machine.movesOn hr hc (hs.trans h1.alike.split) fun b hb => (ho b hb).trans (h1.others b hb)
  exact ⟨hctx, hfr, hothers, fun b hb => (hall b hb).trans (h1.others b hb).symm⟩

/-- An instruction whose body has taken an entry, and then left the quad's table, SEQ and the contexts as they were, has taken it. -/
theorem taken_of_futTaken {s s1 s' u t : State} {pm : Perm} {h : Hdr} {len : Nat} {us : Uses} {is : Iss} {d : RegNo} {kind sc op k : Nat}
    {c c' : Ctx} (hr : s.ready pm h len us = some is) (h1 : Reached s s1 is c) (hs : s'.quads = s1.quads) (hs' : s'.ctxs = s1.ctxs)
    (hf : FutTaken s' u is d kind sc op k c c') (hfuts : (t.quad (quadOf is.a)).futs = (u.quad (quadOf is.a)).futs)
    (hseq : (t.quad (quadOf is.a)).seq = (u.quad (quadOf is.a)).seq) (hctxs : ∀ b, t.ctx? b = u.ctx? b) : Taken s1 (t.retire is) is d kind k := by
  have hq : s'.quad (quadOf is.a) = s1.quad (quadOf is.a) := State.quad_congr hs _
  have hrq : (t.retire is).quad (quadOf is.a) = t.quad (quadOf is.a) := State.quad_congr (State.retire_quads t is) _
  refine ⟨hq ▸ hf.free, hf.bound, newFut s' is d kind sc op, c'.moved is, ?_, ?_, rfl, rfl, ?_,
    h1.movesOn hr ((hctxs _).trans hf.ctx) hf.split_eq fun b hb => ?_, fun hd => ⟨?_, ?_⟩,
    fun n hn => ?_, Ctx.sameK_moved is (hf.k_eq.trans h1.alike.k), Ctx.sameV_moved is (hf.v_eq.trans h1.alike.v),
    Ctx.sameF_moved is (hf.flags_eq.trans h1.alike.flags)⟩
  · rw [hrq, hfuts]
    exact hf.entry
  · rw [← hq]
    rfl
  · rw [hrq, hseq, hf.seq, hq]
  · exact (hctxs b).trans ((hf.others b hb).trans (State.ctx?_congr hs' b))
  · rw [Ctx.moved_sget, hf.sget, if_pos ⟨rfl, hd⟩]
    rfl
  · exact ⟨_, (congrArg (AMap.find · d.toNat) (Ctx.moved_tags c' is)).trans (hf.tag hd), rfl, rfl, rfl, rfl⟩
  · rw [Ctx.moved_sget, hf.sget, if_neg fun h => hn (List.mem_singleton.mpr h.1)]
    exact Ctx.sget_congr h1.alike.s n

/-! ## Posts -/

/-- The task that a post appends, but for its future. -/
def postedTask (s : State) (is : Iss) (op : TaskOp) (prio sc : Nat) (bar : Option Nat) (slots tiles : List Nat) (wait : List (Nat × Nat × Nat))
    (gens : AMap Nat) : Task :=
  { is.task s op prio sc slots tiles with bar := bar, wait := wait, gens := gens }

/-- What a post appends to its quad, and what it does before. -/
theorem State.postTask_ok {s : State} {is : Iss} {c : Ctx} (d : RegNo) (kind : Nat) (op : TaskOp) (prio sc : Nat) (bar : Option Nat)
    (slots tiles : List Nat) (wait : List (Nat × Nat × Nat)) (gens : AMap Nat) (mark : Task → Task) (hc : s.ctx? is.a = some c)
    (hmay : s.mayPost (quadOf is.a) is.c.team = true) (hroom : s.futRoom is) :
    ∃ t u k c', s.postTask is d kind op prio sc bar slots tiles wait gens mark = .ok t ∧
      FutTaken { s with uid := s.uid + 1 } u is d kind sc s.uid k c c' ∧
      t = u.mapQuad (quadOf is.a) (fun x => { x with tasks := x.tasks ++
        [mark { postedTask s is op prio sc bar slots tiles wait gens with fut := some (quadOf is.a, k) }] }) := by
  obtain ⟨hec, k, hk⟩ := State.futRoom_iff.mp hroom
  obtain ⟨u, c', hx, hf⟩ := State.takeFut_ok (s := { s with uid := s.uid + 1 }) d kind sc s.uid hc hec hk
  refine ⟨_, u, k, c', ?_, hf, rfl⟩
  unfold State.postTask
  simp only [require_bind, hmay, if_true]
  show (({ s with uid := s.uid + 1 } : State).takeFut is d kind sc s.uid >>= _) = _
  rw [hx]
  have hclk : u.clk (dieOf is.a) = s.clk (dieOf is.a) := (congrArg (fun x : State => x.clk (dieOf is.a)) hf.rest :)
  simp only [bind, Except.bind, pure, Except.pure, hclk]
  rfl

theorem State.postTask_park {s : State} {is : Iss} (d : RegNo) (kind : Nat) (op : TaskOp) (prio sc : Nat) (bar : Option Nat)
    (slots tiles : List Nat) (wait : List (Nat × Nat × Nat)) (gens : AMap Nat) (mark : Task → Task)
    (hmay : s.mayPost (quadOf is.a) is.c.team = false) :
    s.postTask is d kind op prio sc bar slots tiles wait gens mark = .error (.park .post) := by
  unfold State.postTask
  simp only [require_bind, hmay, Bool.false_eq_true, if_false]

theorem State.postTask_stall {s : State} {is : Iss} (d : RegNo) (kind : Nat) (op : TaskOp) (prio sc : Nat) (bar : Option Nat)
    (slots tiles : List Nat) (wait : List (Nat × Nat × Nat)) (gens : AMap Nat) (mark : Task → Task)
    (hmay : s.mayPost (quadOf is.a) is.c.team = true) (hroom : ¬ s.futRoom is) :
    s.postTask is d kind op prio sc bar slots tiles wait gens mark = .error .stall := by
  unfold State.postTask
  simp only [require_bind, hmay, if_true]
  show (({ s with uid := s.uid + 1 } : State).takeFut is d kind sc s.uid >>= _) = _
  rw [State.takeFut_stall (s := { s with uid := s.uid + 1 }) d kind sc s.uid (State.not_futRoom hroom)]
  rfl

/-- An instruction whose body comes to a post posts its task. -/
theorem posts_of_postTask {s s1 : State} {i : Instr} {pm : Perm} {h : Hdr} {len : Nat} {us : Uses} {is : Iss} {c : Ctx}
    {body : Iss → State → Res State} {d : RegNo} {kind : Nat} {op : TaskOp} {prio sc : Nat} {bar : Option Nat} {slots tiles : List Nat}
    {wait : List (Nat × Nat × Nat)} {gens : AMap Nat} {mark : Task → Task} {t0 : Task} (hx : exec i s = issue pm h len us s body)
    (hr : s.ready pm h len us = some is) (h1 : Reached s s1 is c) (hmem : s1.mem = s.mem)
    (hbody : body is s = s1.postTask is d kind op prio sc bar slots tiles wait gens mark)
    (hmark : ∀ k, mark { postedTask s1 is op prio sc bar slots tiles wait gens with fut := some (quadOf is.a, k) } =
      { t0 with fut := some (quadOf is.a, k) }) : Posts s s1 is i d kind t0 := by
  refine ⟨fun hmay hroom => ?_, fun hmay => ?_, fun hmay hroom => ?_⟩
  · obtain ⟨t, u, k, c', ht, hf, rfl⟩ := State.postTask_ok d kind op prio sc bar slots tiles wait gens mark h1.ctx hmay hroom
    refine ⟨_, k, hx.trans (issue_ready hr (hbody.trans ht)), taken_of_futTaken (s' := { s1 with uid := s1.uid + 1 }) hr h1 rfl rfl hf ?_ ?_ fun b => rfl, ?_, ?_, ?_⟩
    · rw [State.quad_mapQuad]
    · rw [State.quad_mapQuad]
    · rw [State.quad_congr (State.retire_quads _ is), State.quad_mapQuad, hmark, hf.tasks]
      rfl
    · rw [State.retire_mem]
      exact hf.mem.trans hmem
    · rw [State.retire_teams]
      exact hf.teams
  · exact hx.trans (issue_error (e := .park .post) hr (hbody.trans (State.postTask_park _ _ _ _ _ _ _ _ _ _ _ hmay)))
  · exact hx.trans (issue_error (e := .stall) hr (hbody.trans (State.postTask_stall _ _ _ _ _ _ _ _ _ _ _ hmay hroom)))

/-- Settles O25: taking an entry, and the post that takes one. -/
theorem futuresAndTasks : Obligations.FuturesAndTasks := by
  refine ⟨fun s is d kind sc op hc hd => ⟨fun k hec hk => ?_, State.takeFut_stall d kind sc op⟩,
    fun s is d kind prio sc op bar slots tiles wait gens hc hmay hec hfree => ?_,
    fun s is d kind prio sc op bar slots tiles wait gens hmay => State.postTask_park _ _ _ _ _ _ _ _ _ _ _ hmay⟩
  · obtain ⟨t, c', hx, hf⟩ := State.takeFut_ok d kind sc op hc hec hk
    refine ⟨t, newFut s is d kind sc op, c', hx, hf.bound, hf.free, hf.entry, rfl, rfl, rfl, if_neg hd, hf.seq, hf.ctx, ?_, ⟨_, hf.tag hd, rfl, rfl⟩,
      fun n hn => ?_, fun n _ => Ctx.kget_congr hf.k_eq n, fun n l => Ctx.vget_congr hf.v_eq n l, fun l => Ctx.flag_congr hf.flags_eq l, hf.mem, hf.teams⟩
    · rw [hf.sget, if_pos ⟨rfl, hd⟩]
      rfl
    · rw [hf.sget, if_neg fun h => hn (List.mem_singleton.mpr h.1)]
  · obtain ⟨t, u, k, c', ht, hf, rfl⟩ := State.postTask_ok d kind op prio sc bar slots tiles wait gens id hc hmay ⟨hec, hfree⟩
    refine ⟨_, k, ht, hf.mem, hf.teams, { postedTask s is op prio sc bar slots tiles wait gens with fut := some (quadOf is.a, k) }, ?_,
      rfl, rfl, rfl, rfl, rfl, rfl, rfl⟩
    rw [State.quad_mapQuad, hf.tasks]
    rfl

end Sys2Proof.Machine

/-! SUPPORT. Futures that resolve at once (R365, R367). -/

namespace Sys2Proof.Machine

/-! ## What hears of the end of a future -/

theorem AMap.get_map {β : Type} [DecidableEq β] (d : β) (f : β → β) (hd : f d = d) (m : AMap β) (j : Nat) :
    AMap.get d (m.map (fun e => (e.1, f e.2)) : AMap β) j = f (AMap.get d m j) := by
  have hm : AMap.find (m.map (fun e => (e.1, f e.2))) j = (AMap.find m j).map f := AMap.find_map_snd m (fun _ => f) j
  unfold AMap.get
  rw [hm]
  cases AMap.find m j with
  | none => exact hd.symm
  | some x => rfl

/-- A quad whose tasks hear of the end of a future. -/
def Quad.hear (h : Nat × Nat × Nat) (ok : Bool) (x : Quad) : Quad := { x with tasks := x.tasks.map (fun t => t.hear h ok) }

theorem State.quad_hearTasks (s : State) (h : Nat × Nat × Nat) (ok : Bool) (j : Nat) :
    (s.hearTasks h ok).quad j = (s.quad j).hear h ok := AMap.get_map Quad.init (Quad.hear h ok) rfl s.quads j

/-- The machine without contexts, quads and saved teams. -/
def State.unsaved (s : State) : State := { s.rest with saved := [] }

/-! ## The register -/

/-- The context with the resolved handle in its register. -/
def Ctx.settledIn (c : Ctx) (r : Nat) (h : W64) (t : Tag) : Ctx :=
  { Ctx.sset { c with tags := c.tags.put r { t with flags := 0, stale := false } } r h with
    tags := AMap.put (c.tags.put r { t with flags := 0, stale := false }) r { t with flags := 0, stale := false, resolved := true } }

section
variable (c : Ctx) (r : Nat) (h : W64) (t : Tag)
@[simp] theorem Ctx.settledIn_k : (c.settledIn r h t).k = c.k := by simp [Ctx.settledIn]
@[simp] theorem Ctx.settledIn_v : (c.settledIn r h t).v = c.v := by simp [Ctx.settledIn]
@[simp] theorem Ctx.settledIn_flags : (c.settledIn r h t).flags = c.flags := by simp [Ctx.settledIn]
@[simp] theorem Ctx.settledIn_split : (c.settledIn r h t).split = c.split := by simp [Ctx.settledIn]
theorem Ctx.settledIn_sget (n : Nat) : (c.settledIn r h t).sget n = if n = r ∧ n ≠ 63 then h else c.sget n := by
  refine (Ctx.sget_sset _ r n h).trans (if_congr (and_congr_right fun hn => by rw [hn]) rfl rfl)
theorem Ctx.settledIn_tag : (c.settledIn r h t).tags.find r = some { t with flags := 0, stale := false, resolved := true } :=
  AMap.find_put_same _ _ _
end

/-- A pending register of a wave that does not wait for it takes its handle (R366, R367). -/
theorem Ctx.siteWrite_pending {c : Ctx} {r : Nat} {t : Tag} (h : W64) (ht : c.tags.find r = some t) (hres : t.resolved = false)
    (hpark : c.park = .none) : c.siteWrite r h = { c.sset r h with tags := c.tags.put r { t with resolved := true } } := by
  have hp : (c.sset r h).park = .none := (Ctx.sset_park c r h).trans hpark
  unfold Ctx.siteWrite
  rw [ht]
  dsimp only
  rw [if_neg (by rw [hres]; exact Bool.false_ne_true), if_neg (by rw [hp]; exact Park.noConfusion)]

/-- So does one of a wave that does not stand stopped, at the end of its future. -/
theorem Ctx.resolveSite_pending {c : Ctx} {r seq quad slot : Nat} {t : Tag} (h : W64) (ht : c.tags.find r = some t) (hres : t.resolved = false)
    (hseq : t.seq = seq) (hquad : t.quad = quad) (hslot : t.slot = slot) (hstop : c.stop = none) (hpark : c.park = .none) :
    c.resolveSite r seq quad slot h 0 false = c.settledIn r h t := by
  have hm : (t.resolved || decide (t.seq ≠ seq) || decide (t.quad ≠ quad) || decide (t.slot ≠ slot)) = false := by
    simp [hres, hseq, hquad, hslot]
  unfold Ctx.resolveSite
  rw [ht]
  dsimp only
  rw [if_neg (by rw [hm]; exact Bool.false_ne_true), if_neg (by rw [hstop]; exact Bool.false_ne_true)]
  exact Ctx.siteWrite_pending (c := { c with tags := c.tags.put r { t with flags := 0, stale := false } }) h (AMap.find_put_same _ _ _) hres hpark

/-! ## An instruction whose future resolves at once -/

/-- What it leaves. -/
structure FutAtOnce (s t : State) (is : Iss) (d : RegNo) (kind status code : Nat) (c c' : Ctx) : Prop where
  seq : (t.quad (quadOf is.a)).seq = ((s.quad (quadOf is.a)).seq + 1) % 2 ^ 32
  rest : t.unsaved = s.unsaved
  ctx : t.ctx? is.a = some c'
  others : ∀ b, ctxKey b ≠ ctxKey is.a → t.ctx? b = s.ctx? b
  k : c'.k = c.k
  v : c'.v = c.v
  flags : c'.flags = c.flags
  split : c'.split = c.split
  sget : ∀ n, c'.sget n = if n = d.toNat ∧ n ≠ 63 then resolvedHandle (s.quad (quadOf is.a)).seq (quadOf is.a) kind status code else c.sget n
  tag : d.toNat ≠ 63 → ∃ g, c'.tags.find d.toNat = some g ∧ g.resolved = true
  copies : ∀ j, (t.quad j).copies = (s.quad j).copies

/-- The resolution of an entry with one register for its site, or none. -/
theorem State.resolve0_new {s u : State} {is : Iss} {d : RegNo} {kind sc op k : Nat} {c c' : Ctx} (hf : FutTaken s u is d kind sc op k c c')
    (status code : Nat) :
    u.resolve0 (some (quadOf is.a, k)) status code =
      ((((if d.toNat = 63 then u else u.mapCtx is.a (fun c => c.resolveSite d.toNat (s.quad (quadOf is.a)).seq (quadOf is.a) k
        (resolvedHandle (s.quad (quadOf is.a)).seq (quadOf is.a) kind status code) 0 false)).mapQuad (quadOf is.a)
        (fun x => { x with futs := x.futs.del k })).hearTasks (quadOf is.a, k, (s.quad (quadOf is.a)).seq) (status == Status.done)).hearImages
        (quadOf is.a, k, (s.quad (quadOf is.a)).seq) (resolvedHandle (s.quad (quadOf is.a)).seq (quadOf is.a) kind status code) 0 false) := by
  unfold State.resolve0 State.resolve
  simp only [hf.entry]
  unfold newFut
  dsimp only
  split <;> rfl

/-- The context whose future resolves at once. -/
def Ctx.atOnce (c : Ctx) (r : Nat) (h : W64) (t : Tag) : Ctx := if r = 63 then c else c.settledIn r h t

/-- With room, it takes an entry, and the entry resolves. -/
theorem State.instantFut_ok {s : State} {is : Iss} {c : Ctx} (d : RegNo) (kind sc status code : Nat) (hc : s.ctx? is.a = some c)
    (hstop : c.stop = none) (hpark : c.park = .none) (hroom : s.futRoom is) :
    ∃ t c', s.instantFut is d kind sc status code = .ok t ∧ FutAtOnce s t is d kind status code c c' := by
  obtain ⟨hec, k, hk⟩ := State.futRoom_iff.mp hroom
  obtain ⟨u, c1, hx, hf⟩ := State.takeFut_ok d kind sc 0 hc hec hk
  have hok : s.instantFut is d kind sc status code = .ok (u.resolve0 (some (quadOf is.a, k)) status code) := by
    unfold State.instantFut
    rw [hx]
    rfl
  have hstop1 : c1.stop = none := by
    obtain ⟨g, rfl⟩ := hf.handed
    unfold Ctx.handed
    split
    · exact hstop
    · exact (Ctx.sset_stop _ _ _).trans hstop
  have hpark1 : c1.park = .none := (congrArg Ctx.park hf.ctx_rest :).trans hpark
  generalize hh : resolvedHandle (s.quad (quadOf is.a)).seq (quadOf is.a) kind status code = v
  -- the machine after the register's part of the resolution
  have hreg : ∃ w, (if d.toNat = 63 then u else u.mapCtx is.a (fun c => c.resolveSite d.toNat (s.quad (quadOf is.a)).seq (quadOf is.a) k v 0 false))
      = w ∧ w.ctx? is.a = some (c1.atOnce d.toNat v (newTag s is sc k)) ∧ w.rest = u.rest ∧ w.quads = u.quads ∧
      ∀ b, ctxKey b ≠ ctxKey is.a → w.ctx? b = u.ctx? b := by
    unfold Ctx.atOnce
    by_cases hd : d.toNat = 63
    · rw [if_pos hd, if_pos hd]
      exact ⟨u, rfl, hf.ctx, rfl, rfl, fun _ _ => rfl⟩
    · rw [if_neg hd, if_neg hd]
      refine ⟨_, rfl, ?_, State.mapCtx_rest _ _ _, State.mapCtx_quads _ _ _, fun b hb => State.ctx?_mapCtx_ne _ _ _ _ hb⟩
      rw [State.ctx?_mapCtx_some _ hf.ctx]
      exact congrArg some (Ctx.resolveSite_pending v (hf.tag hd) rfl rfl rfl rfl hstop1 hpark1)
  obtain ⟨w, hw, hwc, hwr, hwq, hwo⟩ := hreg
  rw [hok, State.resolve0_new hf, hh, hw]
  refine ⟨_, _, rfl, ?_, ?_, hwc, fun b hb => (hwo b hb).trans (hf.others b hb), ?_, ?_, ?_, ?_, fun n => ?_, fun hd => ?_, fun j => ?_⟩
  · show (((w.mapQuad (quadOf is.a) (fun x => { x with futs := x.futs.del k })).hearTasks _ _).quad (quadOf is.a)).seq = _
    rw [State.quad_hearTasks, State.quad_mapQuad]
    exact (congrArg Quad.seq (State.quad_congr hwq _)).trans hf.seq
  · exact congrArg (fun x : State => { x with saved := [] }) (hwr.trans hf.rest)
  · exact (by unfold Ctx.atOnce; split <;> simp : (c1.atOnce d.toNat v (newTag s is sc k)).k = c1.k).trans hf.k_eq
  · exact (by unfold Ctx.atOnce; split <;> simp : (c1.atOnce d.toNat v (newTag s is sc k)).v = c1.v).trans hf.v_eq
  · exact (by unfold Ctx.atOnce; split <;> simp : (c1.atOnce d.toNat v (newTag s is sc k)).flags = c1.flags).trans hf.flags_eq
  · exact (by unfold Ctx.atOnce; split <;> simp : (c1.atOnce d.toNat v (newTag s is sc k)).split = c1.split).trans hf.split_eq
  · have hs1 := hf.sget n
    unfold Ctx.atOnce
    split
    · next hd => rw [hs1, if_neg (by omega), if_neg (by omega)]
    · rw [Ctx.settledIn_sget]
      split
      · exact hh.symm
      · next hn => rw [hs1, if_neg hn]
  · unfold Ctx.atOnce
    rw [if_neg hd]
    exact ⟨_, Ctx.settledIn_tag _ _ _ _, rfl⟩
  · show (((w.mapQuad (quadOf is.a) (fun x => { x with futs := x.futs.del k })).hearTasks _ _).quad j).copies = _
    rw [State.quad_hearTasks]
    refine Eq.trans ?_ ((congrArg Quad.copies (State.quad_congr hwq j)).trans (congrArg Quad.copies (hf.body j) :))
    by_cases hj : j = quadOf is.a
    · rw [hj]
      exact (congrArg Quad.copies (State.quad_mapQuad w (quadOf is.a) _) :)
    · exact (congrArg Quad.copies (State.quad_mapQuad_ne w (quadOf is.a) j _ hj) :)

theorem State.instantFut_stall {s : State} {is : Iss} (d : RegNo) (kind sc status code : Nat) (hroom : ¬ s.futRoom is) :
    s.instantFut is d kind sc status code = .error .stall := by
  unfold State.instantFut
  rw [State.takeFut_stall d kind sc 0 (State.not_futRoom hroom)]
  rfl

/-- An agent that issues neither stands stopped nor waits. -/
theorem Ctx.canIssue_free {c : Ctx} {fid : Nat} (h : c.canIssue fid = true) : c.stop = none ∧ c.park = .none := by
  unfold Ctx.canIssue at h
  simp only [Bool.and_eq_true] at h
  obtain ⟨⟨⟨⟨⟨⟨⟨hstop, -⟩, -⟩, hpark⟩, -⟩, -⟩, -⟩, -⟩ := h
  exact ⟨by simpa using hstop, by simpa using hpark⟩

theorem State.ready_free {s : State} {pm : Perm} {h : Hdr} {len : Nat} {us : Uses} {is : Iss} (hr : s.ready pm h len us = some is) :
    is.c.stop = none ∧ is.c.park = .none := by
  obtain ⟨-, -, -, -, hcan, -, -, -, -⟩ := State.iss?_view (State.ready_view hr).1
  exact Ctx.canIssue_free hcan

/-- An instruction whose body ends with a future that resolves at once has resolved it. -/
theorem atOnce_of_futAtOnce {s s1 s' t : State} {pm : Perm} {h : Hdr} {len : Nat} {us : Uses} {is : Iss} {d : RegNo} {kind status code : Nat}
    {c c' : Ctx} (hr : s.ready pm h len us = some is) (h1 : Reached s s1 is c) (hs : s'.quads = s1.quads) (hs' : s'.ctxs = s1.ctxs)
    (hf : FutAtOnce s' t is d kind status code c c') : AtOnce s1 (t.retire is) is d kind status code := by
  have hq : s'.quad (quadOf is.a) = s1.quad (quadOf is.a) := State.quad_congr hs _
  have hrq : (t.retire is).quad (quadOf is.a) = t.quad (quadOf is.a) := State.quad_congr (State.retire_quads t is) _
  refine ⟨by rw [hrq, hf.seq, hq], _, h1.movesOn hr hf.ctx hf.split fun b hb => (hf.others b hb).trans (State.ctx?_congr hs' b), fun hd => ⟨?_, ?_⟩,
    fun n hn => ?_, Ctx.sameK_moved is (hf.k.trans h1.alike.k), Ctx.sameV_moved is (hf.v.trans h1.alike.v),
    Ctx.sameF_moved is (hf.flags.trans h1.alike.flags)⟩
  · rw [Ctx.moved_sget, hf.sget, if_pos ⟨rfl, hd⟩, hq]
  · obtain ⟨g, hg, hres⟩ := hf.tag hd
    exact ⟨g, (congrArg (AMap.find · d.toNat) (Ctx.moved_tags c' is)).trans hg, hres⟩
  · rw [Ctx.moved_sget, hf.sget, if_neg fun h => hn (List.mem_singleton.mpr h.1)]
    exact Ctx.sget_congr h1.alike.s n

end Sys2Proof.Machine

/-! SUPPORT. The m class at issue (R251, R253, R254, R257, R258). -/

namespace Sys2Proof.Machine

/-- An instruction whose body comes to a post that marks nothing else posts that task. -/
theorem posts_of_plain {s s1 : State} {i : Instr} {pm : Perm} {h : Hdr} {len : Nat} {us : Uses} {is : Iss} {c : Ctx}
    {body : Iss → State → Res State} {d : RegNo} {kind : Nat} {t0 : Task} (sc : Nat) (hx : exec i s = issue pm h len us s body)
    (hr : s.ready pm h len us = some is) (h1 : Reached s s1 is c) (hmem : s1.mem = s.mem)
    (hbody : body is s = s1.postTask is d kind t0.op t0.prio sc t0.bar t0.slots t0.tiles t0.wait t0.gens)
    (ht0 : postedTask s1 is t0.op t0.prio sc t0.bar t0.slots t0.tiles t0.wait t0.gens = t0) : Posts s s1 is i d kind t0 :=
  posts_of_postTask hx hr h1 hmem hbody fun k => congrArg (fun t : Task => { t with fut := some (quadOf is.a, k) }) ht0

section
variable {s : State} {is : Iss} {tm : Team} (ht : s.teams.find is.c.team = some tm)
include ht

theorem Iss.team_ok : is.team s = .ok tm := by simp only [Iss.team, State.teamOf, ht]

end

/-! ## m.zero -/

theorem exec_mZero (h : Hdr) (d a : RegNo) (s : State) :
    exec (.mZero h d a) s = issue .core h 8 { rd := [], wr := [.s d] } s (fun is s => is.team s >>= fun t =>
      require (a.toNat < t.foot.acc) is.shapeFault >>= fun _ =>
      s.postTask is d Kind.task (.zero a.toNat) 0 1 none [a.toNat] [] [] []) := rfl

theorem mZero_posts {s : State} {is : Iss} {h : Hdr} {d a : RegNo} {tm : Team} (hr : s.ready .core h 8 { rd := [], wr := [.s d] } = some is)
    (ht : s.teams.find is.c.team = some tm) :
    (a.toNat < tm.foot.acc → Posts s s is (.mZero h d a) d Kind.task (is.task s (.zero a.toNat) 0 1 [a.toNat] [])) ∧
    (tm.foot.acc ≤ a.toNat → exec (.mZero h d a) s = .next (s.except is (is.fault0 Code.tileShape))) := by
  have hbody : ∀ k : Team → Res State, (is.team s >>= k) = k tm := fun k => by rw [Iss.team_ok ht]; rfl
  refine ⟨fun ha => posts_of_plain 1 (exec_mZero h d a s) hr (Reached.refl hr) rfl ?_ rfl, fun ha => (exec_mZero h d a s).trans (issue_error hr ?_)⟩
  · rw [hbody, require_bind, if_pos (decide_eq_true ha)]
    rfl
  · rw [hbody, require_bind, if_neg (by simpa using ha)]
    rfl

/-! ## m.mma and m.mmt -/

theorem Iss.barrier_ok {s : State} {is : Iss} {bar : Bool} {addr : Nat} (h : bar = true → ∃ o, is.objectAt s addr o) :
    is.barrier s bar addr = .ok (if bar then some addr else none) := by
  unfold Iss.barrier
  cases bar with
  | false => rfl
  | true =>
    obtain ⟨o, ho⟩ := h rfl
    rw [State.checkObj_ok ho]
    rfl

/-- What m.mma and m.mmt do past the checks of their operands. -/
def MForm.post (f : MForm) (is : Iss) (s : State) (sa sb : Shape) (m n k : Nat) : Res State :=
  is.barrier s f.bar f.x0.toNat >>= fun bo =>
    s.postTask is f.d Kind.task
      (.mm f.mmt (f.sub.getLsbD 0) (f.sub.getLsbD 1) f.zero sa.ty sb.ty f.c.toNat m n k (.tile f.a.toNat) (.tile f.b.toNat)
        (f.scales.map (fun e => (.tile e.1, .tile e.2))))
      f.prio.toNat (s.scope is.a f.sc) bo [f.c.toNat] ([f.a.toNat, f.b.toNat] ++ f.scales.elim [] (fun e => [e.1, e.2])) [] []

/-- Companion tiles have enough scales, where there are any. -/
def MForm.scalesOk (f : MForm) (t : Team) (m n g : Nat) : Bool := f.scales.elim true (fun e => scaleOk t e.1 m g && scaleOk t e.2 n g)

/-- The checks of m.mma's and m.mmt's operands, and what they do past them. -/
def MForm.body (f : MForm) (is : Iss) (s : State) : Res State := do
  let t ← is.team s
  require (f.c.toNat < t.foot.acc) is.shapeFault
  match t.shape f.a.toNat, t.shape f.b.toNat with
  | some sa, some sb =>
    match tileMnk (f.sub.getLsbD 0) (f.sub.getLsbD 1) sa sb, pathOf f.mmt sa.ty sb.ty with
    | some (m, n, k), some (_, _, need, may) =>
      require ((!f.scales.isSome || may) && (!need || f.scales.isSome)) is.shapeFault
      require (f.scalesOk t m n (ceilDiv k 32)) is.shapeFault
      f.post is s sa sb m n k
    | _, _ => .error is.shapeFault
  | _, _ => .error is.shapeFault

theorem exec_matrixForm {i : Instr} {f : MForm} (hf : matrixForm i = some f) (s : State) :
    exec i s = issue .core f.h 16 { rd := [], wr := [.s f.d] } s f.body := by
  cases i <;> simp only [matrixForm, Option.some.injEq, reduceCtorEq] at hf
  case mMma h sub d a b c zero scl bsc asc x0 prio sc bar =>
    subst hf
    cases scl <;> rfl
  case mMmt => 
    subst hf
    rfl

section
variable {f : MForm} {s : State} {is : Iss} {tm : Team} (ht : s.teams.find is.c.team = some tm)
include ht

theorem MForm.body_valid {sa sb : Shape} {m n k : Nat} (hv : f.valid tm sa sb m n k) : f.body is s = f.post is s sa sb m n k := by
  obtain ⟨hc, hsa, hsb, hmnk, x, y, need, may, hpath, hmay, hneed, hsc⟩ := hv
  have hneeds : ((!f.scales.isSome || may) && (!need || f.scales.isSome)) = true := by
    cases hs : f.scales.isSome <;> simp_all
  have hscales : f.scalesOk tm m n (ceilDiv k 32) = true := by
    unfold MForm.scalesOk
    cases hs : f.scales with
    | none => rfl
    | some e =>
      obtain ⟨h1, h2⟩ := hsc e.1 e.2 hs
      simp [h1, h2]
  unfold MForm.body
  rw [Iss.team_ok ht]
  show (require (f.c.toNat < tm.foot.acc) is.shapeFault >>= _) = _
  rw [require_bind, if_pos (decide_eq_true hc), hsa, hsb]
  dsimp only
  rw [hmnk, hpath]
  dsimp only
  rw [require_bind, if_pos hneeds, require_bind, if_pos hscales]

theorem MForm.body_invalid (hv : ¬ ∃ sa sb m n k, f.valid tm sa sb m n k) : f.body is s = .error is.shapeFault := by
  unfold MForm.body
  rw [Iss.team_ok ht]
  show (require (f.c.toNat < tm.foot.acc) is.shapeFault >>= _) = _
  rw [require_bind]
  split
  · next hc =>
    split
    · next sa sb hsa hsb =>
      split
      · next m n k x y need may hmnk hpath =>
        rw [require_bind]
        split
        · next hneeds =>
          rw [require_bind]
          refine if_neg fun hscales => hv ⟨sa, sb, m, n, k, of_decide_eq_true hc, hsa, hsb, hmnk, x, y, need, may, hpath, ?_⟩
          refine ⟨fun hs => by simpa [hs] using hneeds, fun hn => by simp_all, fun u v huv => ?_⟩
          unfold MForm.scalesOk at hscales
          rw [huv] at hscales
          simpa using hscales
        · rfl
      · rfl
    · rfl
  · rfl

theorem matrixForm_posts {i : Instr} (hf : matrixForm i = some f) (hr : s.ready .core f.h 16 { rd := [], wr := [.s f.d] } = some is) :
    (∀ sa sb m n k, f.valid tm sa sb m n k → (f.bar = true → ∃ o, is.objectAt s f.x0.toNat o) →
      Posts s s is i f.d Kind.task (f.task s is sa sb m n k)) ∧
    ((¬ ∃ sa sb m n k, f.valid tm sa sb m n k) → exec i s = .next (s.except is (is.fault0 Code.tileShape))) := by
  refine ⟨fun sa sb m n k hv hbar => posts_of_plain (s.scope is.a f.sc) (exec_matrixForm hf s) hr (Reached.refl hr) rfl ?_ rfl,
    fun hv => (exec_matrixForm hf s).trans (issue_error hr (MForm.body_invalid ht hv))⟩
  rw [MForm.body_valid ht hv, MForm.post, Iss.barrier_ok hbar]
  rfl

end

/-! ## m.ldacc and m.stacc -/

/-- What m.ldacc and m.stacc do past the checks of the slot and the shape: the post of an operand with its tiles (R254). -/
def accPost (store : Bool) (is : Iss) (s : State) (d a : RegNo) (row col : BitVec 7) (sh : Shape) (o : Opnd) (tiles : List Nat) : Res State :=
  s.postTask is d Kind.task (rectOp store a row col sh o) 0 1 none [a.toNat] tiles [] []

/-- The rows of an operand in the local store: their addresses and places. -/
def accRows (is : Iss) (s : State) (b c : RegNo) (sh : Shape) : List (Nat × Option LsAt) :=
  (List.range sh.rows).map (fun r => (((is.s b).toNat % 2 ^ 32 + r * ((is.s c).toNat % 2 ^ 32)) % 2 ^ 32,
    s.lsRow is.c.team sh.swz (((is.s b).toNat % 2 ^ 32 + r * ((is.s c).toNat % 2 ^ 32)) % 2 ^ 32) (4 * sh.cols)))

/-- The operand in the local store, with its checks (R137, R146). -/
def accLocal (store : Bool) (is : Iss) (s : State) (d a b c : RegNo) (row col : BitVec 7) (sh : Shape) : Res State := do
  is.memReady s
  match (accRows is s b c sh).find? (fun e => e.2.isNone) with
  | some e => .error (is.fault Code.lsRange e.1 is.p)
  | none =>
    require ((is.s b).toNat % 2 ^ 32 % 16 = 0 && (is.s c).toNat % 2 ^ 32 % 16 = 0) (is.fault Code.align ((is.s b).toNat % 2 ^ 32) is.p)
    match (if store then none else (accRows is s b c sh).find? (fun e => e.2.any (fun p => !s.rowTag p (4 * sh.cols) sh.swz))) with
    | some e => .error (is.fault Code.swz (e.1 - e.1 % 512) is.p)
    | none => accPost store is s d a row col sh (.ls ((is.s b).toNat % 2 ^ 32) ((is.s c).toNat % 2 ^ 32) sh.swz) []

/-- The checks of the slot and the shape, and what follows. -/
def accBody (store : Bool) (sub : BitVec 2) (d a b c : RegNo) (row col : BitVec 7) (shp : BitVec 3) (is : Iss) (s : State) : Res State := do
  let t ← is.team s
  require (a.toNat < t.foot.acc) is.shapeFault
  match t.shape (if sub = 0 then b.toNat else shp.toNat) with
  | none => .error is.shapeFault
  | some sh =>
    require (sh.ty == .b32 || sh.ty == .n32 || sh.ty == .f32) is.shapeFault
    require (row.toNat + sh.rows ≤ 128 && col.toNat + sh.cols ≤ 128) is.shapeFault
    if sub = 0 then accPost store is s d a row col sh (.tile (if sub = 0 then b.toNat else shp.toNat)) [if sub = 0 then b.toNat else shp.toNat]
    else accLocal store is s d a b c row col sh

theorem exec_accMove (store : Bool) (h : Hdr) (sub : BitVec 2) (d a b c : RegNo) (row col : BitVec 7) (shp : BitVec 3) (s : State) :
    exec (if store then .mStacc h sub d a b c row col shp else .mLdacc h sub d a b c row col shp) s =
      issue .core h 12 { rd := if sub = 0 then [] else [.s b, .s c], wr := [.s d] } s (accBody store sub d a b c row col shp) := by
  cases store <;> rfl

section
variable {store : Bool} {s : State} {is : Iss} {sub : BitVec 2} {d a b c : RegNo} {row col : BitVec 7} {shp : BitVec 3} {tm : Team}
  (ht : s.teams.find is.c.team = some tm)
include ht

theorem accBody_valid {sh : Shape} (hv : rectOk tm a (if sub = 0 then b.toNat else shp.toNat) row col sh) :
    accBody store sub d a b c row col shp is s =
      if sub = 0 then accPost store is s d a row col sh (.tile (if sub = 0 then b.toNat else shp.toNat)) [if sub = 0 then b.toNat else shp.toNat]
      else accLocal store is s d a b c row col sh := by
  obtain ⟨ha, hsh, hty, hrow, hcol⟩ := hv
  have hty' : (sh.ty == .b32 || sh.ty == .n32 || sh.ty == .f32) = true := by simpa [or_assoc] using hty
  have hfit : (decide (row.toNat + sh.rows ≤ 128) && decide (col.toNat + sh.cols ≤ 128)) = true := by simp [hrow, hcol]
  unfold accBody
  rw [Iss.team_ok ht]
  show (require (a.toNat < tm.foot.acc) is.shapeFault >>= _) = _
  rw [require_bind, if_pos (decide_eq_true ha), hsh]
  dsimp only
  rw [require_bind, if_pos hty', require_bind, if_pos hfit]

theorem accBody_invalid (hv : ¬ ∃ sh, rectOk tm a (if sub = 0 then b.toNat else shp.toNat) row col sh) :
    accBody store sub d a b c row col shp is s = .error is.shapeFault := by
  unfold accBody
  rw [Iss.team_ok ht]
  show (require (a.toNat < tm.foot.acc) is.shapeFault >>= _) = _
  rw [require_bind]
  split
  · next ha =>
    split
    · rfl
    · next sh hsh =>
      rw [require_bind]
      split
      · next hty =>
        rw [require_bind]
        refine if_neg fun hfit => hv ⟨sh, of_decide_eq_true ha, hsh, by simpa [or_assoc] using hty, ?_⟩
        simpa using hfit
      · rfl
  · rfl

end

/-- An operand in the local store whose rows lie in windows, with their tags, and whose base and stride are multiples of 16. -/
theorem accLocal_ready {store : Bool} {is : Iss} {s : State} {d a b c : RegNo} {row col : BitVec 7} {sh : Shape} (hq : is.quiet s)
    (hb : (is.s b).toNat % 2 ^ 32 % 16 = 0) (hc : (is.s c).toNat % 2 ^ 32 % 16 = 0)
    (hrows : ∀ r, r < sh.rows → ∃ p, s.lsRow is.c.team sh.swz (((is.s b).toNat % 2 ^ 32 + r * ((is.s c).toNat % 2 ^ 32)) % 2 ^ 32) (4 * sh.cols) =
      some p ∧ (store = false → s.rowTag p (4 * sh.cols) sh.swz = true)) :
    accLocal store is s d a b c row col sh =
      accPost store is s d a row col sh (.ls ((is.s b).toNat % 2 ^ 32) ((is.s c).toNat % 2 ^ 32) sh.swz) [] := by
  have hall : (accRows is s b c sh).find? (fun e => e.2.isNone) = none := by
    rw [List.find?_eq_none]
    intro e he
    obtain ⟨r, hr, rfl⟩ := List.mem_map.mp he
    obtain ⟨p, hp, -⟩ := hrows r (List.mem_range.mp hr)
    dsimp only
    rw [hp]
    exact Bool.false_ne_true
  have htag : (if store then none else (accRows is s b c sh).find? (fun e => e.2.any (fun p => !s.rowTag p (4 * sh.cols) sh.swz))) = none := by
    cases store with
    | true => rfl
    | false =>
      refine List.find?_eq_none.mpr fun e he => ?_
      obtain ⟨r, hr, rfl⟩ := List.mem_map.mp he
      obtain ⟨p, hp, ht⟩ := hrows r (List.mem_range.mp hr)
      dsimp only
      rw [hp]
      simp [ht rfl]
  have hal : (decide ((is.s b).toNat % 2 ^ 32 % 16 = 0) && decide ((is.s c).toNat % 2 ^ 32 % 16 = 0)) = true := by simp only [hb, hc]; rfl
  unfold accLocal
  rw [Iss.memReady_bind hq, hall]
  dsimp only
  rw [require_bind, if_pos hal, htag]

/-! ## m.amax and m.resv -/

/-- The table after m.amax: with SUB 00 the entry reads zero (R193). -/
def State.amaxRead (s : State) (sub : BitVec 2) (q e : Nat) : State :=
  if sub = 0 then s.mapQuad q (fun x => { x with amax := AMap.set 0 x.amax e 0 }) else s

theorem State.amaxRead_ctxs (s : State) (sub : BitVec 2) (q e : Nat) : (s.amaxRead sub q e).ctxs = s.ctxs := by
  unfold State.amaxRead; split <;> rfl
theorem State.amaxRead_rest (s : State) (sub : BitVec 2) (q e : Nat) : (s.amaxRead sub q e).rest = s.rest := by
  unfold State.amaxRead; split <;> rfl
theorem State.amaxRead_amax (s : State) (sub : BitVec 2) (q e j : Nat) : AMap.get 0 ((s.amaxRead sub q e).quad q).amax j =
    if sub = 0 ∧ j = e then 0 else AMap.get 0 (s.quad q).amax j := by
  unfold State.amaxRead
  by_cases hs : sub = 0
  · rw [if_pos hs, State.quad_mapQuad, AMap.get_set]
    exact if_congr (by simp [hs]) rfl rfl
  · rw [if_neg hs, if_neg (fun h => hs h.1)]

theorem State.pendS_ok {s : State} {is : Iss} (d : RegNo) (v : W64) (hec : is.c.ec < 63) :
    s.pendS is .ec d v = .ok (s.enter is (is.result s.uid .ec (knownS d v) [] none)) := by
  unfold State.pendS
  rw [Iss.room_bind (c := .ec) hec]
  rfl

theorem State.clearTag_ctxs_congr {s t : State} (h : t.ctxs = s.ctxs) (a : Agent) (n : Nat) : (t.clearTag a n).ctxs = (s.clearTag a n).ctxs := by
  unfold State.clearTag
  rw [State.ctx?_congr h a]
  split
  · exact h
  · split
    · exact h
    · rw [State.dropSite_ctxs, State.dropSite_ctxs]
      exact congrArg (AMap.put · _ _) h

theorem State.clearTags_ctxs_congr (a : Agent) (l : List RegWrite) : ∀ {s t : State}, t.ctxs = s.ctxs → (t.clearTags a l).ctxs = (s.clearTags a l).ctxs := by
  induction l with
  | nil => exact fun h => h
  | cons w l ih =>
    intro s t h
    refine ih (s := match w.reg with | .s n => s.clearTag a n | _ => s) (t := match w.reg with | .s n => t.clearTag a n | _ => t) ?_
    split
    · exact State.clearTag_ctxs_congr h _ _
    · exact h

theorem State.mapCtx_ctxs_congr {s t : State} (h : t.ctxs = s.ctxs) (a : Agent) (f : Ctx → Ctx) : (t.mapCtx a f).ctxs = (s.mapCtx a f).ctxs := by
  unfold State.mapCtx
  rw [State.ctx?_congr h a]
  cases s.ctx? a with
  | none => exact h
  | some c => exact congrArg (AMap.put · (ctxKey a) (f c)) h

/-- Entering a result in two states with the same contexts gives the same contexts. -/
theorem State.enter_ctxs_congr {s t : State} (h : t.ctxs = s.ctxs) (is : Iss) (p : Pend) : (t.enter is p).ctxs = (s.enter is p).ctxs :=
  State.mapCtx_ctxs_congr (State.clearTags_ctxs_congr is.a p.writes (s := { s with uid := s.uid + 1 }) (t := { t with uid := t.uid + 1 }) h) _ _

/-- Clearing tags leaves a quad's tables but that of the futures, and its SEQ. -/
theorem State.clearTags_body (a : Agent) (l : List RegWrite) (j : Nat) : ∀ s : State, ((s.clearTags a l).quad j).body = (s.quad j).body := by
  induction l with
  | nil => exact fun s => rfl
  | cons w l ih =>
    intro s
    refine (ih (match w.reg with | .s n => s.clearTag a n | _ => s)).trans ?_
    split
    · exact (State.clearTag_quad _ _ _ _).1
    · rfl

theorem State.enter_body (s : State) (is : Iss) (p : Pend) (j : Nat) : ((s.enter is p).quad j).body = (s.quad j).body := by
  refine Eq.trans ?_ (State.clearTags_body is.a p.writes j ({ s with uid := s.uid + 1 } : State))
  exact congrArg Quad.body (State.quad_congr (State.mapCtx_quads _ _ _) j)

theorem State.enter_amax (s : State) (is : Iss) (p : Pend) (j : Nat) : ((s.enter is p).quad j).amax = (s.quad j).amax :=
  (congrArg Quad.amax (State.enter_body s is p j) :)

section
variable {s : State} {is : Iss} {h : Hdr} {sub : BitVec 2} {d a : RegNo} {src : Src}

theorem exec_mAmax (h : Hdr) (sub : BitVec 2) (d : RegNo) (src : Src) (s : State) :
    exec (.mAmax h sub d src) s = issue .core h 8 { rd := srcUseS src, wr := [.s d] } s (fun is s =>
      require (!(s.quad (quadOf is.a)).amaxQ.any (fun u => u.2.1 = is.a)) .stall >>= fun _ =>
        (s.amaxRead sub (quadOf is.a) (is.amaxEntry src)).pendS is .ec d
          ((AMap.get 0 (s.quad (quadOf is.a)).amax (is.amaxEntry src)).zeroExtend 64)) := rfl

/-- A scalar answer that is entered in a state with the same contexts, memory and number. -/
theorem entered_answer {s1 : State} {pm : Perm} {len : Nat} {us : Uses} {v : W64} (hr : s.ready pm h len us = some is)
    (hctxs : s1.ctxs = s.ctxs) (hmem : s1.mem = s.mem) (huid : s1.uid = s.uid) :
    Entered s ((s1.enter is (is.result s1.uid .ec (knownS d v) [] none)).retire is) is .ec (knownS d v) [] none := by
  have hctx : ({ s1 with uid := s1.uid + 1 } : State).ctx? is.a = some is.c := (State.ctx?_congr hctxs is.a).trans (State.ready_ctx hr)
  obtain ⟨-, hrest, -⟩ := State.addPend_spec (is.result s1.uid .ec (knownS d v) [] none) hctx
  have hmem1 : (s1.enter is (is.result s1.uid .ec (knownS d v) [] none)).mem = s1.mem := (congrArg State.mem hrest :)
  have huid1 : (s1.enter is (is.result s1.uid .ec (knownS d v) [] none)).uid = s1.uid + 1 := (congrArg State.uid hrest :)
  refine State.entered hr Ctr.noConfusion (fun b => ?_) (hmem1.trans hmem) (huid1.trans (by rw [huid]))
  rw [huid]
  exact State.ctx?_congr (State.enter_ctxs_congr hctxs is _) b

theorem mAmax_answers (hr : s.ready .core h 8 { rd := srcUseS src, wr := [.s d] } = some is) (hec : is.c.ec < 63)
    (hq : (s.quad (quadOf is.a)).amaxQ.any (fun u => u.2.1 = is.a) = false) :
    ∃ t, exec (.mAmax h sub d src) s = .next t ∧
      Entered s t is .ec (knownS d (BitVec.ofNat 64 (AMap.get 0 (s.quad (quadOf is.a)).amax (is.amaxEntry src)).toNat)) [] none ∧
      ∀ e, AMap.get 0 (t.quad (quadOf is.a)).amax e =
        if sub = 0 ∧ e = is.amaxEntry src then 0 else AMap.get 0 (s.quad (quadOf is.a)).amax e := by
  have hext (x : W32) : x.zeroExtend 64 = BitVec.ofNat 64 x.toNat := BitVec.eq_of_toNat_eq (by simp)
  have hrest := s.amaxRead_rest sub (quadOf is.a) (is.amaxEntry src)
  refine ⟨_, (exec_mAmax h sub d src s).trans (issue_ready hr ((require_bind _ _ _).trans ((if_pos (by rw [hq]; rfl)).trans (State.pendS_ok d _ hec)))),
    ?_, fun e => ?_⟩
  · rw [hext]
    exact entered_answer hr (s.amaxRead_ctxs _ _ _) (congrArg State.mem hrest :) (congrArg State.uid hrest :)
  · rw [State.quad_congr (State.retire_quads _ _)]
    rw [State.enter_amax]
    exact State.amaxRead_amax _ _ _ _ _

theorem mAmax_waits (hr : s.ready .core h 8 { rd := srcUseS src, wr := [.s d] } = some is)
    (hq : (s.quad (quadOf is.a)).amaxQ.any (fun u => u.2.1 = is.a) = true) : exec (.mAmax h sub d src) s = .next s :=
  (exec_mAmax h sub d src s).trans (issue_error (e := .stall) hr ((require_bind _ _ _).trans (if_neg (by rw [hq]; exact Bool.false_ne_true))))

/-- The entries that m.resv reserves for its team (R258). -/
def Iss.reserves (is : Iss) (s : State) (n : Nat) : Nat :=
  min (min n 16) (48 - sumTeams ((s.quadTeams (quadOf is.a)).filter (fun e => e.1 ≠ is.c.team)) (·.resv))

theorem exec_mResv (h : Hdr) (d a : RegNo) (s : State) :
    exec (.mResv h d a) s = issue .core h 8 { rd := [.s a], wr := [.s d] } s (fun is s =>
      (s.mapTeam is.c.team (fun t => { t with resv := is.reserves s (bits (is.s a).toNat 0 5) })).pendS is .ec d
          (BitVec.ofNat 64 (is.reserves s (bits (is.s a).toNat 0 5)))) := rfl

theorem mResv_answers {tm : Team} (hr : s.ready .core h 8 { rd := [.s a], wr := [.s d] } = some is) (hec : is.c.ec < 63)
    (ht : s.teams.find is.c.team = some tm) :
    let g := min (min ((is.s a).toNat % 32) 16) (48 - sumTeams ((s.quadTeams (quadOf is.a)).filter (fun e => e.1 ≠ is.c.team)) (·.resv))
    ∃ t, exec (.mResv h d a) s = .next t ∧ t.teams.find is.c.team = some { tm with resv := g } ∧
      Entered s t is .ec (knownS d (BitVec.ofNat 64 g)) [] none := by
  intro g
  have hbits : bits (is.s a).toNat 0 5 = (is.s a).toNat % 32 := by simp [bits]
  have hx := (exec_mResv h d a s).trans (issue_ready hr (State.pendS_ok d _ hec))
  rw [hbits] at hx
  refine ⟨_, hx, ?_, entered_answer hr (State.mapTeam_ctxs _ _ _) (State.mapTeam_mem _ _ _) (State.mapTeam_uid _ _ _)⟩
  have hctx : ({ s.mapTeam is.c.team (fun t => { t with resv := g }) with uid := (s.mapTeam is.c.team (fun t => { t with resv := g })).uid + 1 } :
      State).ctx? is.a = some is.c := (State.ctx?_congr (State.mapTeam_ctxs _ _ _) is.a).trans (State.ready_ctx hr)
  obtain ⟨-, hrest, -⟩ := State.addPend_spec
    (is.result (s.mapTeam is.c.team (fun t => { t with resv := g })).uid .ec (knownS d (BitVec.ofNat 64 g)) [] none) hctx
  rw [State.retire_teams]
  exact (congrArg (fun u : State => u.teams.find is.c.team) hrest :).trans (State.find_mapTeam _ ht)

end

/-- Settles O26: the checks of each form's operands, and the post; and the two answers. -/
theorem matrixPosts : Obligations.MatrixPosts := by
  refine ⟨fun s is h d a tm hr ht => mZero_posts hr ht, fun i s is f tm hf hr ht => matrixForm_posts ht hf hr, ?_, ?_, ?_, ?_⟩
  · intro store s is h d a b c row col shp tm hr ht i
    refine ⟨fun sh hv => posts_of_plain 1 (exec_accMove store h 0 d a b c row col shp s) hr (Reached.refl hr) rfl (accBody_valid (sub := 0) ht hv) rfl,
      fun hv => (exec_accMove store h 0 d a b c row col shp s).trans (issue_error hr (accBody_invalid (sub := 0) ht hv))⟩
  · intro store s is h sub d a b c row col shp tm sh hsub hr ht hv hq i base str hb hc hrows
    have hx : exec i s = issue .core h 12 { rd := [.s b, .s c], wr := [.s d] } s (accBody store sub d a b c row col shp) := by
      rw [show ([.s b, .s c] : List Use) = if sub = 0 then [] else [.s b, .s c] from (if_neg hsub).symm]
      exact exec_accMove store h sub d a b c row col shp s
    refine posts_of_plain 1 hx hr (Reached.refl hr) rfl ((accBody_valid (sub := sub) ht (by rwa [if_neg hsub])).trans ((if_neg hsub).trans ?_)) rfl
    exact accLocal_ready hq hb hc hrows
  · intro s is h sub d src hr hec
    exact ⟨fun hq => mAmax_answers hr hec hq, fun hq => mAmax_waits hr hq⟩
  · intro s is h d a tm hr hec ht g
    exact mResv_answers hr hec ht

end Sys2Proof.Machine

/-! SUPPORT. m.enq of a record that breaks a rule of R249, beside a task that waits for the entry of its future. -/

namespace Sys2Proof.Machine

open Sys2Proof.Tests

theorem of_quiet {s : State} {is : Iss} (h : quiet s is = true) : is.quiet s := by simpa [quiet] using h
theorem of_futRoom {s : State} {is : Iss} (h : futRoom s is = true) : s.futRoom is := by simpa [futRoom] using h

/-- A task of the quad that awaits the future that the next operation takes: entry 0 under SEQ 0. -/
def awaitsNext : Task := { Task.new 5 (.slot 0 0) 1 (.zero 0) 0 1 0 0 with wait := [(0, 0, Quad.init.seq)] }
/-- The wave of the witnesses, with this task in its quad; the record at offset 0 of its window is all zeros. -/
def enqBeside : State := { w0 with quads := [(0, { Quad.init with tasks := [awaitsNext] })] }

/-- What m.enq sees of it. -/
def enqIss : Option Iss := enqBeside.ready .core h0 8 { rd := [.s 0], wr := [.s 3] }

/-- The record breaks a rule, a future has room, and the step changes the quad's tasks. -/
def enqChangesTasks (is : Iss) : Bool :=
  match enqBeside.record is true 0 0 64 64 with
  | .error _ => false
  | .ok (l, s1) => quiet enqBeside is && s1.checkEnq is tm0 (EnqRec.ofBytes l) == some Code.tileShape && futRoom s1 is &&
    match exec (.mEnq h0 1 3 0) enqBeside with
    | .next t => (t.quad (quadOf is.a)).tasks != (s1.quad (quadOf is.a)).tasks
    | _ => false

theorem enqIss_changesTasks : has enqIss (fun is => enqChangesTasks is && enqBeside.teams.find is.c.team == some tm0) = true := by decide +kernel

/-- Refutes O27: a future that resolves at once is heard by a task that awaits its entry and SEQ, so the quad's tasks do not stay as they
were. -/
theorem not_matrixRecords : ¬ Obligations.MatrixRecords := by
  rintro ⟨-, -, henq⟩
  obtain ⟨is, his, hok⟩ : ∃ is, enqIss = some is ∧ (enqChangesTasks is && enqBeside.teams.find is.c.team == some tm0) = true := by
    have h := enqIss_changesTasks
    cases hi : enqIss with
    | none => rw [hi] at h; exact absurd h Bool.false_ne_true
    | some is => exact ⟨is, rfl, by rw [hi] at h; exact h⟩
  obtain ⟨hch, hteam⟩ := Bool.and_eq_true_iff.mp hok
  unfold enqChangesTasks at hch
  split at hch
  · exact absurd hch Bool.false_ne_true
  · next l s1 hrec =>
    simp only [Bool.and_eq_true] at hch
    obtain ⟨⟨⟨hq, hcode⟩, hroom⟩, htasks⟩ := hch
    obtain ⟨t, hx, -, -, hsame⟩ := (henq enqBeside s1 is h0 1 3 0 tm0 l his (eq_of_beq hteam) (of_quiet hq) hrec).1 Code.tileShape
      (eq_of_beq hcode) (of_futRoom hroom)
    rw [hx] at htasks
    simp [hsame] at htasks

end Sys2Proof.Machine

/-! SUPPORT. Records that an instruction reads (R252, R267, R357), rows of global memory at issue, and the rick instructions (R259 to R275). -/

namespace Sys2Proof.Machine

/-! ## Records -/

/-- A change of the wave's context that keeps its registers, flags and fragments. -/
theorem Reached.mapCtx {s s1 : State} {is : Iss} {c : Ctx} (h : Reached s s1 is c) {f : Ctx → Ctx} (hf : ∀ c : Ctx, Ctx.Alike c (f c)) :
    Reached s (s1.mapCtx is.a f) is (f c) := by
  have ha := h.alike
  have hg := hf c
  exact ⟨State.ctx?_mapCtx_some _ h.ctx, ⟨hg.s.trans ha.s, hg.k.trans ha.k, hg.v.trans ha.v, hg.flags.trans ha.flags, hg.split.trans ha.split,
    hg.stop.trans ha.stop, hg.park.trans ha.park⟩,
    fun b hb => (State.ctx?_mapCtx_ne _ _ _ _ hb).trans (h.others b hb)⟩

theorem Reached.of_ctxs {s s1 s2 : State} {is : Iss} {c : Ctx} (h : Reached s s1 is c) (h2 : s2.ctxs = s1.ctxs) : Reached s s2 is c :=
  ⟨(State.ctx?_congr h2 _).trans h.ctx, h.alike, fun b hb => (State.ctx?_congr h2 b).trans (h.others b hb)⟩

theorem Reached.touch {s s1 : State} {is : Iss} {c : Ctx} (h : Reached s s1 is c) (pc : W64) (p : LsAt) (n : Nat) :
    ∃ c', Reached s (s1.touch is.a pc p n) is c' := by
  unfold State.touch
  split
  · exact ⟨c, h⟩
  · split
    · exact ⟨c, h⟩
    · exact ⟨_, h.mapCtx fun c => by cases c.guard <;> exact ⟨rfl, rfl, rfl, rfl, rfl, rfl, rfl⟩⟩

theorem State.touch_rest (s : State) (a : Agent) (pc : W64) (p : LsAt) (n : Nat) : (s.touch a pc p n).rest = s.rest := by
  unfold State.touch
  split
  · rfl
  · split
    · rfl
    · exact State.mapCtx_rest _ _ _

theorem State.touch_quads (s : State) (a : Agent) (pc : W64) (p : LsAt) (n : Nat) : (s.touch a pc p n).quads = s.quads := by
  unfold State.touch
  split
  · rfl
  · split
    · rfl
    · exact State.mapCtx_quads _ _ _

theorem Reached.markStale {s s1 : State} {is : Iss} {c : Ctx} (h : Reached s s1 is c) (b : Bool) : ∃ c', Reached s (s1.markStale is b) is c' := by
  unfold State.markStale
  split
  · exact ⟨_, h.mapCtx (f := Ctx.setStale) fun c => by unfold Ctx.setStale; split <;> exact ⟨rfl, rfl, rfl, rfl, rfl, rfl, rfl⟩⟩
  · exact ⟨c, h⟩

theorem State.markStale_rest (s : State) (is : Iss) (b : Bool) : (s.markStale is b).rest = s.rest := by
  unfold State.markStale State.setStale
  split
  · exact State.mapCtx_rest _ _ _
  · rfl

theorem State.markStale_quads (s : State) (is : Iss) (b : Bool) : (s.markStale is b).quads = s.quads := by
  unfold State.markStale State.setStale
  split
  · exact State.mapCtx_quads _ _ _
  · rfl

/-- The machine without contexts, quads and ports. -/
def State.inner (s : State) : State := { s.rest with ports := [] }

/-- What reading a record leaves: the wave's registers and fragments, the other contexts, the quads, and all but the ports. -/
theorem State.record_reached {s s1 : State} {pm : Perm} {h : Hdr} {len : Nat} {us : Uses} {is : Iss} {ls : Bool} {a : RegNo} {disp : BitVec 32}
    {n align : Nat} {l : List Byte} (hr : s.ready pm h len us = some is) (hrec : s.record is ls a disp n align = .ok (l, s1)) :
    (∃ c, Reached s s1 is c) ∧ s1.quads = s.quads ∧ s1.inner = s.inner := by
  have h0 : Reached s s is is.c := Reached.refl hr
  unfold State.record at hrec
  simp only [bind, Except.bind] at hrec
  split at hrec
  · cases hrec
  · split at hrec
    · split at hrec
      · cases hrec
      · split at hrec
        · cases hrec
          exact ⟨⟨_, h0⟩, rfl, rfl⟩
        · split at hrec
          · cases hrec
          · cases hrec
            exact ⟨h0.touch _ _ _, State.touch_quads _ _ _ _ _, congrArg (fun u : State => { u with ports := [] }) (State.touch_rest _ _ _ _ _)⟩
    · split at hrec
      · cases hrec
      · next x hread =>
        have hs := State.readRecord_spec hread
        have hctxs : x.2.2.ctxs = s.ctxs := (congrArg State.ctxs hs :)
        have hquads : x.2.2.quads = s.quads := (congrArg State.quads hs :)
        have hinner : x.2.2.inner = s.inner := (congrArg State.inner hs :)
        cases hrec
        refine ⟨(h0.of_ctxs hctxs).markStale _, (State.markStale_quads _ _ _).trans hquads, ?_⟩
        exact (congrArg (fun u : State => { u with ports := [] }) (State.markStale_rest _ _ _)).trans hinner

theorem State.record_mem {s s1 : State} (h : s1.inner = s.inner) : s1.mem = s.mem := (congrArg State.mem h :)
theorem State.record_teams {s s1 : State} (h : s1.inner = s.inner) : s1.teams = s.teams := (congrArg State.teams h :)

/-! ## Rows of global memory -/

theorem Iss.globalRow_ok {is : Iss} {s : State} {va n : Nat} {write : Bool} (h : is.rowOk s va n write) :
    s.globalRow (coreOf is.a) (s.agentPart is.a) va n write = .ok () := by
  have hbad : s.rowBad (coreOf is.a) (s.agentPart is.a) va n write = none := by
    refine List.findSome?_eq_none_iff.mpr fun x hx => ?_
    rw [State.route_ok (h x hx).1]
  have harena : (s.rowParts (coreOf is.a) (s.agentPart is.a) va n).any
      (fun y => s.arenaAt (coreOf is.a) y ≠ s.arenaAt (coreOf is.a) va) = false := by
    rw [List.any_eq_false]
    intro x hx
    simpa using (h x hx).2
  unfold State.globalRow
  rw [hbad]
  dsimp only
  rw [if_neg (by rw [harena]; exact Bool.false_ne_true)]

/-! ## Ricks -/

section
variable {s : State} {is : Iss} {tm : Team} (ht : s.teams.find is.c.team = some tm)
include ht

theorem Iss.rickTeam_bind {α : Type} {k : Nat} {slots : List Nat} (hk : k < tm.foot.ricks) (hs : ∀ x ∈ slots, x < tm.foot.acc) (f : Team → Res α) :
    (is.rickTeam s k slots >>= f) = f tm := by
  have hok : (decide (k < tm.foot.ricks) && slots.all (· < tm.foot.acc)) = true := by simpa [hk] using hs
  unfold Iss.rickTeam
  rw [Iss.team_ok ht]
  simp only [bind, Except.bind, hok, require, if_true, pure, Except.pure]

theorem Iss.rickTeam_fails {α : Type} {k : Nat} {slots : List Nat} (h : tm.foot.ricks ≤ k ∨ ∃ x ∈ slots, tm.foot.acc ≤ x) (f : Team → Res α) :
    (is.rickTeam s k slots >>= f) = .error is.shapeFault := by
  have hok : (decide (k < tm.foot.ricks) && slots.all (· < tm.foot.acc)) = false := by
    rcases h with h | ⟨x, hx, h⟩
    · simp [h]
    · rw [Bool.and_eq_false_iff]
      exact .inr (List.all_eq_false.mpr ⟨x, hx, by simpa using h⟩)
  unfold Iss.rickTeam
  rw [Iss.team_ok ht]
  simp only [bind, Except.bind, hok, require, Bool.false_eq_true, if_false]

end

/-- The posted operation of a rick, as its task. -/
theorem State.postRick_quiet {s : State} {is : Iss} (hq : is.quiet s) (d : RegNo) (t : Team) (k : Nat) (op : TaskOp) (prio sc : Nat)
    (own : List Nat) (gens : AMap Nat) : s.postRick is d t k op prio sc own gens =
      s.postTask is d Kind.rick op prio sc none (is.rickNames s t k own) [] [] gens := by
  unfold State.postRick
  rw [Iss.memReady_bind hq]
  rfl

end Sys2Proof.Machine

/-! SUPPORT. The rick instructions at issue (R259 to R275). -/

namespace Sys2Proof.Machine

section
variable {s : State} {is : Iss} {tm : Team}

theorem Iss.rickRange_ok {addr n : Nat} (h : is.rangeOk s addr n) : is.rickRange s addr n = .ok () := by
  unfold Iss.rickRange
  rw [require_bind, if_pos (decide_eq_true h.1)]
  exact if_pos h.2

/-! ## e.rkinit, e.rkstep and the instructions of a rick and a slot -/

theorem exec_eRkinit (h : Hdr) (sub : BitVec 2) (d a : RegNo) (rick prio : BitVec 2) (fst : BitVec 5) (s : State) :
    exec (.eRkinit h sub d a rick prio fst) s = issue .core h 16 { rd := [.s a], wr := [.s d] } s (fun is s =>
      is.rickTeam s rick.toNat [fst.toNat] >>= fun t => s.record is (sub == 1) a 0 144 16 >>= fun x =>
        x.2.postRick is d t rick.toNat (.rkinit rick.toNat fst.toNat x.1) prio.toNat 1
          ((Rick.ofBytes x.1 fst.toNat 0).slots.filter (· < t.foot.acc)) []) := rfl

theorem eRkinit_posts {s1 : State} {h : Hdr} {sub : BitVec 2} {d a : RegNo} {rick prio : BitVec 2} {fst : BitVec 5} {l : List Byte}
    (hr : s.ready .core h 16 { rd := [.s a], wr := [.s d] } = some is) (ht : s.teams.find is.c.team = some tm)
    (hk : rick.toNat < tm.foot.ricks) (hf : fst.toNat < tm.foot.acc) (hrec : s.record is (sub == 1) a 0 144 16 = .ok (l, s1))
    (hq : is.quiet s1) :
    Posts s s1 is (.eRkinit h sub d a rick prio fst) d Kind.rick (is.task s1 (.rkinit rick.toNat fst.toNat l) prio.toNat 1
      (is.rickNames s1 tm rick.toNat ((Rick.ofBytes l fst.toNat 0).slots.filter (· < tm.foot.acc))) []) := by
  obtain ⟨⟨c, h1⟩, -, hinner⟩ := State.record_reached hr hrec
  refine posts_of_plain 1 (exec_eRkinit h sub d a rick prio fst s) hr h1 (State.record_mem hinner) ?_ rfl
  rw [Iss.rickTeam_bind ht hk (by simpa using hf), hrec]
  exact State.postRick_quiet hq d tm _ _ _ _ _ _

theorem exec_eRkstep (h : Hdr) (sub : BitVec 2) (d b : RegNo) (rick prio : BitVec 2) (imm : BitVec 32) (s : State) :
    exec (.eRkstep h sub d b rick prio imm) s =
      issue .core h 12 { rd := if sub.getLsbD 0 then [.s b] else [], wr := [.s d] } s (fun is s =>
        is.rickTeam s rick.toNat (if sub = 0 then [b.toNat] else []) >>= fun t =>
        (if sub = 1 then is.rickRange s ((is.s b).toNat % 2 ^ 32)
          (match s.settled (quadOf is.a) is.c.team rick.toNat t with | some r => r.rungBytes | none => 16) else pure ()) >>= fun _ =>
        s.postRick is d t rick.toNat (.rkstep rick.toNat sub.toNat b.toNat ((is.s b).toNat % 2 ^ 32)
          (if sub = 2 then imm else (is.s b).extractLsb' 0 32)) prio.toNat 1 (if sub = 0 then [b.toNat] else []) []) := by
  show execERkstep h sub d b rick prio imm s = _
  unfold execERkstep
  congr 1
  funext is s
  by_cases h1 : sub = 1
  · simp only [if_pos h1] <;> rfl
  · simp only [if_neg h1]
    rfl

theorem eRkstep_posts {h : Hdr} {sub : BitVec 2} {d b : RegNo} {rick prio : BitVec 2} {imm : BitVec 32}
    (hr : s.ready .core h 12 { rd := if sub.getLsbD 0 then [.s b] else [], wr := [.s d] } = some is)
    (ht : s.teams.find is.c.team = some tm) (hk : rick.toNat < tm.foot.ricks) (hb : sub = 0 → b.toNat < tm.foot.acc) (hq : is.quiet s)
    (hrange : sub = 1 → is.rangeOk s ((is.s b).toNat % 2 ^ 32)
      ((s.settled (quadOf is.a) is.c.team rick.toNat tm).elim 16 (·.rungBytes))) :
    Posts s s is (.eRkstep h sub d b rick prio imm) d Kind.rick (is.task s (.rkstep rick.toNat sub.toNat b.toNat ((is.s b).toNat % 2 ^ 32)
      (if sub = 2 then imm else (is.s b).extractLsb' 0 32)) prio.toNat 1
      (is.rickNames s tm rick.toNat (if sub = 0 then [b.toNat] else [])) []) := by
  have hslots : ∀ x ∈ (if sub = 0 then [b.toNat] else []), x < tm.foot.acc := by
    intro x hx
    split at hx
    · next h0 => rw [List.mem_singleton.mp hx]; exact hb h0
    · exact absurd hx List.not_mem_nil
  have hcheck : (if sub = 1 then is.rickRange s ((is.s b).toNat % 2 ^ 32)
      (match s.settled (quadOf is.a) is.c.team rick.toNat tm with | some r => r.rungBytes | none => 16) else pure ()) = .ok () := by
    split
    · next h1 =>
      refine Iss.rickRange_ok ?_
      have := hrange h1
      cases hs : s.settled (quadOf is.a) is.c.team rick.toNat tm <;> rw [hs] at this <;> exact this
    · rfl
  refine posts_of_plain 1 (exec_eRkstep h sub d b rick prio imm s) hr (Reached.refl hr) rfl ?_ rfl
  rw [Iss.rickTeam_bind ht hk hslots, hcheck]
  exact State.postRick_quiet hq d tm _ _ _ _ _ _

theorem exec_rickForm {i : Instr} {h : Hdr} {d : RegNo} {rick slot prio : Nat} {op : TaskOp} (hi : rickForm i = some (h, d, rick, slot, op, prio))
    (s : State) : exec i s = issue .core h 12 { rd := [], wr := [.s d] } s (fun is s =>
      is.rickTeam s rick [slot] >>= fun t => s.postRick is d t rick op prio 1 [slot] []) := by
  cases i <;> simp only [rickForm, Option.some.injEq, Prod.mk.injEq, reduceCtorEq] at hi
  all_goals
    obtain ⟨rfl, rfl, rfl, rfl, rfl, rfl⟩ := hi
    rfl

theorem rickForm_posts {i : Instr} {h : Hdr} {d : RegNo} {rick slot prio : Nat} {op : TaskOp} (hi : rickForm i = some (h, d, rick, slot, op, prio))
    (hr : s.ready .core h 12 { rd := [], wr := [.s d] } = some is) (ht : s.teams.find is.c.team = some tm) (hk : rick < tm.foot.ricks) :
    (slot < tm.foot.acc → is.quiet s → Posts s s is i d Kind.rick (is.task s op prio 1 (is.rickNames s tm rick [slot]) [])) ∧
    (tm.foot.acc ≤ slot → exec i s = .next (s.except is (is.fault0 Code.tileShape))) := by
  refine ⟨fun hs hq => posts_of_plain 1 (exec_rickForm hi s) hr (Reached.refl hr) rfl ?_ rfl,
    fun hs => (exec_rickForm hi s).trans (issue_error hr (Iss.rickTeam_fails ht (.inr ⟨slot, List.mem_singleton_self _, hs⟩) _))⟩
  rw [Iss.rickTeam_bind ht hk (by simpa using hs)]
  exact State.postRick_quiet hq d tm _ _ _ _ _ _

/-! ## The checkpoint instructions -/

/-- The address of a checkpoint instruction's image (R271). -/
def Iss.imageAddr (is : Iss) (sub : BitVec 2) (a : RegNo) : Nat := if sub = 1 then (is.s a).toNat % 2 ^ 32 else (is.s a).toNat % 2 ^ 56

/-- The length of the image that a checkpoint instruction checks (R265). -/
def imageLength (rest : Bool) (cur : Option Rick) : Nat := if rest then 160 else cur.elim 160 (·.imageLen)

/-- Where a global image of unknown length first fails a check. -/
def Iss.imageFault (is : Iss) (s : State) (rest : Bool) (sub : BitVec 2) (cur : Option Rick) (addr : Nat) : Option (Nat × Nat) :=
  if sub = 0 ∧ (rest = true ∨ cur = none) then s.imageBad (coreOf is.a) (s.agentPart is.a) addr (!rest) else none

/-- What a checkpoint instruction does past its checks of slots, ranges and overlap. -/
def Iss.checkpoint (is : Iss) (s : State) (rest : Bool) (sub : BitVec 2) (d a : RegNo) (k prio : Nat) (rx : RkX) (t : Team) (cur : Option Rick) :
    Res State :=
  if sub = 0 then
    match (if is.imageAddr sub a % 16 ≠ 0 then Except.error Code.align else
      s.globalRow (coreOf is.a) (s.agentPart is.a) (is.imageAddr sub a) (imageLength rest cur) (!rest)) with
    | .error c => s.instantFut is d Kind.rick (if sub = 2 then 1 else s.scope is.a rx.sc) Status.faulted c
    | .ok _ => s.postRick is d t k (checkOp rest k sub (is.imageAddr sub a) rx (is.imageFault s rest sub cur (is.imageAddr sub a))) prio
        (if sub = 2 then 1 else s.scope is.a rx.sc) (checkOwn rest t sub rx) (s.gensOf (coreOf is.a) (imagePages (is.imageAddr sub a)))
  else s.postRick is d t k (checkOp rest k sub (is.imageAddr sub a) rx (is.imageFault s rest sub cur (is.imageAddr sub a))) prio
    (if sub = 2 then 1 else s.scope is.a rx.sc) (checkOwn rest t sub rx) []

/-- A checkpoint instruction's image slots in registers do not overlap the slots of its rick (R265). -/
def Iss.imageApart (is : Iss) (sub : BitVec 2) (rx : RkX) : Option Rick → Res Unit
  | some r => require (sub ≠ 2 || !r.overlaps rx.isl.toNat rx.icnt.toNat) is.shapeFault
  | none => pure ()

/-- The body of a checkpoint instruction: its checks, and what follows them. -/
def checkBody (rest : Bool) (sub : BitVec 2) (d a : RegNo) (k prio : Nat) (rx : RkX) (is : Iss) (s : State) : Res State :=
  is.rickTeam s k (imageSlots sub rx ++ if rest then [rx.f.toNat] else []) >>= fun t =>
  (if sub = 1 then is.rickRange s (is.imageAddr sub a) (imageLength rest (s.settled (quadOf is.a) is.c.team k t)) else pure ()) >>= fun _ =>
  is.imageApart sub rx (s.settled (quadOf is.a) is.c.team k t) >>= fun _ =>
  is.checkpoint s rest sub d a k prio rx t (s.settled (quadOf is.a) is.c.team k t)

theorem checkpointOp_eq (rest : Bool) (h : Hdr) (sub : BitVec 2) (d a : RegNo) (rick prio : BitVec 2) (rx : RkX) (s : State) :
    checkpointOp rest h sub d a rick prio rx s = issue .core h 16 { rd := if sub = 2 then [] else [.s a], wr := [.s d] } s
      (checkBody rest sub d a rick.toNat prio.toNat rx) := by
  have hknown (cur : Option Rick) : (sub = 0 ∧ (rest = true ∨ cur = none)) ↔ (decide (sub = 0) && !(!rest && cur.isSome)) = true := by
    cases rest <;> cases cur <;> simp
  unfold checkpointOp checkBody Iss.checkpoint Iss.imageFault Iss.imageAddr
  simp only [hknown]
  congr 1
  funext is s
  refine congrArg (is.rickTeam s rick.toNat _ >>= ·) (funext fun t => ?_)
  cases hcur : s.settled (quadOf is.a) is.c.team rick.toNat t
  all_goals
    by_cases h1 : sub = 1
    · simp only [if_pos h1]
      rfl
    · simp only [if_neg h1]
      rfl

theorem exec_checkForm {i : Instr} {rest : Bool} {h : Hdr} {sub : BitVec 2} {d a : RegNo} {k prio : Nat} {rx : RkX}
    (hi : checkForm i = some (rest, h, sub, d, a, k, prio, rx)) (s : State) :
    exec i s = issue .core h 16 { rd := if sub = 2 then [] else [.s a], wr := [.s d] } s (checkBody rest sub d a k prio rx) := by
  cases i <;> simp only [checkForm, Option.some.injEq, Prod.mk.injEq, reduceCtorEq] at hi
  all_goals
    obtain ⟨rfl, rfl, rfl, rfl, rfl, rfl, rfl, rfl⟩ := hi
    exact checkpointOp_eq _ _ _ _ _ _ _ _ _

/-- The operands that a checkpoint instruction checks before its range in global memory: its rick, slots and image (R265). -/
structure Iss.CheckOk (is : Iss) (s : State) (tm : Team) (rest : Bool) (sub : BitVec 2) (a : RegNo) (k : Nat) (rx : RkX) : Prop where
  team : s.teams.find is.c.team = some tm
  rick : k < tm.foot.ricks
  image : ∀ x ∈ imageSlots sub rx, x < tm.foot.acc
  first : rest = true → rx.f.toNat < tm.foot.acc
  range : sub = 1 → is.rangeOk s (is.imageAddr sub a) (imageLength rest (s.settled (quadOf is.a) is.c.team k tm))
  apart : ∀ r, sub = 2 → s.settled (quadOf is.a) is.c.team k tm = some r → r.overlaps rx.isl.toNat rx.icnt.toNat = false

section
variable {rest : Bool} {h : Hdr} {sub : BitVec 2} {d a : RegNo} {k prio : Nat} {rx : RkX}

theorem checkBody_ok (hok : is.CheckOk s tm rest sub a k rx) :
    checkBody rest sub d a k prio rx is s = is.checkpoint s rest sub d a k prio rx tm (s.settled (quadOf is.a) is.c.team k tm) := by
  have hslots : ∀ x ∈ imageSlots sub rx ++ (if rest then [rx.f.toNat] else []), x < tm.foot.acc := by
    intro x hx
    rcases List.mem_append.mp hx with hx | hx
    · exact hok.image x hx
    · split at hx
      · next hrest => rw [List.mem_singleton.mp hx]; exact hok.first hrest
      · exact absurd hx List.not_mem_nil
  have hrange : (if sub = 1 then is.rickRange s (is.imageAddr sub a) (imageLength rest (s.settled (quadOf is.a) is.c.team k tm)) else pure ()) =
      .ok () := by
    split
    · next h1 => exact Iss.rickRange_ok (hok.range h1)
    · rfl
  have hpass : is.imageApart sub rx (s.settled (quadOf is.a) is.c.team k tm) = .ok () := by
    cases hcur : s.settled (quadOf is.a) is.c.team k tm with
    | none => rfl
    | some r =>
      refine if_pos ?_
      by_cases h2 : sub = 2
      · rw [hok.apart r h2 hcur]
        exact Bool.or_true _
      · rw [decide_eq_true h2]
        rfl
  unfold checkBody
  rw [Iss.rickTeam_bind hok.team hok.rick hslots, hrange, hpass]
  rfl

variable {i : Instr} (hi : checkForm i = some (rest, h, sub, d, a, k, prio, rx))
  (hr : s.ready .core h 16 { rd := if sub = 2 then [] else [.s a], wr := [.s d] } = some is) (hok : is.CheckOk s tm rest sub a k rx)
include hi hr hok

theorem checkForm_local (hsub : sub ≠ 0) (hq : is.quiet s) :
    Posts s s is i d Kind.rick (is.task s
      (checkOp rest k sub (is.imageAddr sub a) rx
        (is.imageFault s rest sub (s.settled (quadOf is.a) is.c.team k tm) (is.imageAddr sub a))) prio
      (if sub = 2 then 1 else s.scope is.a rx.sc) (is.rickNames s tm k (checkOwn rest tm sub rx)) []) := by
  refine posts_of_plain (if sub = 2 then 1 else s.scope is.a rx.sc) (exec_checkForm hi s) hr (Reached.refl hr) rfl ?_ rfl
  rw [checkBody_ok hok, Iss.checkpoint, if_neg hsub]
  exact State.postRick_quiet hq d tm _ _ _ _ _ _

theorem checkForm_global (hsub : sub = 0) (hal : is.imageAddr sub a % 16 = 0)
    (hrow : is.rowOk s (is.imageAddr sub a) (imageLength rest (s.settled (quadOf is.a) is.c.team k tm)) (!rest)) (hq : is.quiet s) :
    Posts s s is i d Kind.rick { is.task s
      (checkOp rest k sub (is.imageAddr sub a) rx
        (is.imageFault s rest sub (s.settled (quadOf is.a) is.c.team k tm) (is.imageAddr sub a))) prio
      (if sub = 2 then 1 else s.scope is.a rx.sc) (is.rickNames s tm k (checkOwn rest tm sub rx)) [] with
      gens := s.gensOf (coreOf is.a) (imagePages (is.imageAddr sub a)) } := by
  refine posts_of_plain (if sub = 2 then 1 else s.scope is.a rx.sc) (exec_checkForm hi s) hr (Reached.refl hr) rfl ?_ rfl
  rw [checkBody_ok hok, Iss.checkpoint, if_pos hsub, if_neg (not_not.mpr hal), Iss.globalRow_ok hrow]
  exact State.postRick_quiet hq d tm _ _ _ _ _ _

theorem checkForm_refused {code : Nat} (hsub : sub = 0)
    (hcode : (if is.imageAddr sub a % 16 ≠ 0 then Except.error Code.align else s.globalRow (coreOf is.a) (s.agentPart is.a) (is.imageAddr sub a)
      (imageLength rest (s.settled (quadOf is.a) is.c.team k tm)) (!rest)) = .error code) (hroom : s.futRoom is) :
    ∃ t, exec i s = .next t ∧ AtOnce s t is d Kind.rick Status.faulted code ∧ t.mem = s.mem := by
  obtain ⟨hstop, hpark⟩ := State.ready_free hr
  obtain ⟨t, c', ht, hf⟩ := State.instantFut_ok d Kind.rick (if sub = 2 then 1 else s.scope is.a rx.sc) Status.faulted code
    (State.ready_ctx hr) hstop hpark hroom
  have hmem : t.mem = s.mem := (congrArg State.mem hf.rest :)
  refine ⟨t.retire is, (exec_checkForm hi s).trans (issue_ready hr ?_), atOnce_of_futAtOnce hr (Reached.refl hr) rfl rfl hf, (State.retire_mem t is).trans hmem⟩
  rw [checkBody_ok hok, Iss.checkpoint, if_pos hsub, hcode]
  exact ht

end

/-! ## e.rkstat, and the faults of a rick -/

theorem exec_eRkstat (h : Hdr) (d : RegNo) (rick prio : BitVec 2) (s : State) :
    exec (.eRkstat h d rick prio) s = issue .core h 8 { rd := [], wr := [.s d] } s (fun is s => do
      let t ← is.rickTeam s rick.toNat []
      is.memReady s
      require (s.mayPost (quadOf is.a) is.c.team) (.park .post)
      is.room .ec
      let u := ({ s with uid := s.uid + 1 } : State).enter is { Pend.blank (s.uid + 1) .ec is with writes := [{ reg := .s d.toNat, val := none }] }
      pure (u.mapQuad (quadOf is.a) (fun x => { x with tasks := x.tasks ++ [{ Task.new s.uid is.a is.c.team
        (.rkstat rick.toNat (s.uid + 1) d.toNat) 0 1 (u.clk (dieOf is.a)) is.pc with slots := u.rickSlots (quadOf is.a) is.c.team rick.toNat t }] }))) := rfl

theorem eRkstat_posts {h : Hdr} {d : RegNo} {rick prio : BitVec 2} (hr : s.ready .core h 8 { rd := [], wr := [.s d] } = some is)
    (ht : s.teams.find is.c.team = some tm) (hk : rick.toNat < tm.foot.ricks) (hq : is.quiet s)
    (hmay : s.mayPost (quadOf is.a) is.c.team = true) (hec : is.c.ec < 63) :
    ∃ t c, exec (.eRkstat h d rick prio) s = .next t ∧ MovesOn s t is c ∧ c.ec = is.c.ec + 1 ∧
      c.pend = is.c.pend ++ [{ Pend.blank (s.uid + 1) .ec is with writes := [{ reg := .s d.toNat, val := none }] }] ∧
      (t.quad (quadOf is.a)).tasks = (s.quad (quadOf is.a)).tasks ++
        [is.task s (.rkstat rick.toNat (s.uid + 1) d.toNat) 0 1 (s.rickSlots (quadOf is.a) is.c.team rick.toNat tm) []] ∧
      SameS is.c c [] ∧ SameK is.c c [] ∧ SameV is.c c ∧ t.mem = s.mem := by
  let p : Pend := { Pend.blank (s.uid + 1) .ec is with writes := [{ reg := .s d.toNat, val := none }] }
  have hctx : ({ s with uid := s.uid + 1 + 1 } : State).ctx? is.a = some is.c := State.ready_ctx hr
  obtain ⟨⟨g, hc⟩, hrest, hother⟩ := State.addPend_spec p hctx
  let u := ({ s with uid := s.uid + 1 } : State).enter is p
  have hmem : u.mem = s.mem := (congrArg State.mem hrest :)
  have hteams : u.teams = s.teams := (congrArg State.teams hrest :)
  have hdies : u.dies = s.dies := (congrArg State.dies hrest :)
  have htasks : (u.quad (quadOf is.a)).tasks = (s.quad (quadOf is.a)).tasks :=
    (congrArg Quad.tasks (State.enter_body ({ s with uid := s.uid + 1 } : State) is p (quadOf is.a)) :)
  have hclk : u.clk (dieOf is.a) = s.clk (dieOf is.a) := by simp only [State.clk, State.die, hdies]
  have hslots : u.rickSlots (quadOf is.a) is.c.team rick.toNat tm = s.rickSlots (quadOf is.a) is.c.team rick.toNat tm := by
    simp only [State.rickSlots, State.rebinding, htasks]
  let tk : Task := { Task.new s.uid is.a is.c.team (.rkstat rick.toNat (s.uid + 1) d.toNat) 0 1 (u.clk (dieOf is.a)) is.pc with
    slots := u.rickSlots (quadOf is.a) is.c.team rick.toNat tm }
  refine ⟨(u.mapQuad (quadOf is.a) fun x => { x with tasks := x.tasks ++ [tk] }).retire is, _,
    (exec_eRkstat h d rick prio s).trans (issue_ready hr ?_), movesOn hr hc (by simp) fun b hb => hother b hb, ?_, by simp; rfl, ?_,
    Ctx.sameS_moved is (by simp), Ctx.sameK_moved is (by simp), Ctx.sameV_moved is (by simp), (State.retire_mem _ is).trans hmem⟩
  · rw [Iss.rickTeam_bind ht hk (by simp), Iss.memReady_bind hq, require_bind, if_pos hmay, Iss.room_bind (c := .ec) hec]
    rfl
  · exact (Ctx.ctr_moved _ is .ec).trans (Ctx.ctr_entering _ p rfl Ctr.noConfusion)
  · rw [State.quad_congr (State.retire_quads _ is), State.quad_mapQuad, htasks]
    simp only [tk, hslots, hclk]
    rfl

theorem rickHead_fault {i : Instr} {h : Hdr} {len : Nat} {rd : List Use} {d : RegNo} {rick : Nat} (hi : rickHead i = some (h, len, rd, d, rick))
    (hr : s.ready .core h len { rd := rd, wr := [.s d] } = some is) (ht : s.teams.find is.c.team = some tm) (hk : tm.foot.ricks ≤ rick) :
    exec i s = .next (s.except is (is.fault0 Code.tileShape)) := by
  have hcheck (rest : Bool) (sub : BitVec 2) (d a : RegNo) (prio : Nat) (rx : RkX) :
      checkBody rest sub d a rick prio rx is s = .error is.shapeFault := by
    unfold checkBody
    exact Iss.rickTeam_fails ht (.inl hk) _
  cases i <;> simp only [rickHead, Option.some.injEq, Prod.mk.injEq, reduceCtorEq] at hi
  all_goals obtain ⟨rfl, rfl, rfl, rfl, rfl⟩ := hi
  case eRkinit => exact (exec_eRkinit _ _ _ _ _ _ _ s).trans (issue_error hr (Iss.rickTeam_fails ht (.inl hk) _))
  case eRkstep => exact (exec_eRkstep _ _ _ _ _ _ _ s).trans (issue_error hr (Iss.rickTeam_fails ht (.inl hk) _))
  case eRkread => exact (exec_rickForm rfl s).trans (issue_error hr (Iss.rickTeam_fails ht (.inl hk) _))
  case eRkld => exact (exec_rickForm rfl s).trans (issue_error hr (Iss.rickTeam_fails ht (.inl hk) _))
  case eRkst => exact (exec_rickForm rfl s).trans (issue_error hr (Iss.rickTeam_fails ht (.inl hk) _))
  case eRksave => exact (exec_checkForm rfl s).trans (issue_error hr (hcheck _ _ _ _ _ _))
  case eRkrest => exact (exec_checkForm rfl s).trans (issue_error hr (hcheck _ _ _ _ _ _))
  case eRkstat => exact (exec_eRkstat _ _ _ _ s).trans (issue_error hr (Iss.rickTeam_fails ht (.inl hk) _))

end

/-- Settles O28: each rick instruction checks its rick and slots, reads what it names and posts its operation; a global image that may not be
accessed resolves at once. -/
theorem rickPosts : Obligations.RickPosts := by
  refine ⟨fun s s1 is h sub d a rick prio fst tm l hr ht hk hf hrec hq => eRkinit_posts hr ht hk hf hrec hq,
    fun s is h sub d b rick prio imm tm hr ht hk hb hq => eRkstep_posts hr ht hk hb hq,
    fun i s is h d rick slot prio op tm hi hr ht hk => rickForm_posts hi hr ht hk, ?_,
    fun s is h d rick prio tm hr ht hk hq hmay hec => eRkstat_posts hr ht hk hq hmay hec,
    fun i s is h len rd d rick tm hi hr ht hk => rickHead_fault hi hr ht hk⟩
  intro i rest s is h sub d a k prio rx tm hi hr ht hk himg hfst cur len addr sc bad tk hrange hapart
  have hok : is.CheckOk s tm rest sub a k rx := ⟨ht, hk, himg, hfst, hrange, hapart⟩
  refine ⟨fun hsub hq => checkForm_local hi hr hok hsub hq, fun hsub hal hrow hq => checkForm_global hi hr hok hsub hal hrow hq,
    fun hsub hal hroom => checkForm_refused hi hr hok hsub (if_pos hal) hroom, fun code hsub hal hrow hroom =>
    checkForm_refused hi hr hok hsub ((if_neg (not_not.mpr hal)).trans hrow) hroom⟩

end Sys2Proof.Machine

/-! SUPPORT. The instructions on futures (R366, R367, R381 to R383). -/

namespace Sys2Proof.Machine

/-! ## Answers in EC -/

section
variable {s s1 : State} {pm : Perm} {h : Hdr} {len : Nat} {us : Uses} {is : Iss} {d : RegNo}

/-- The context behind a scalar answer that is entered: its registers, flags and fragments, and the answer outstanding in EC. -/
theorem State.enter_ctx (hc : s.ctx? is.a = some is.c) (p : Pend) :
    ∃ g, (s.enter is p).ctx? is.a = some (Ctx.entering { is.c with tags := g } p) :=
  (State.addPend_spec (s := { s with uid := s.uid + 1 }) p hc).1

theorem State.enter_rest (hc : s.ctx? is.a = some is.c) (p : Pend) : (s.enter is p).rest = ({ s with uid := s.uid + 1 } : State).rest :=
  (State.addPend_spec (s := { s with uid := s.uid + 1 }) p hc).2.1

theorem State.enter_others (hc : s.ctx? is.a = some is.c) (p : Pend) (b : Agent) (hb : ctxKey b ≠ ctxKey is.a) :
    (s.enter is p).ctx? b = s.ctx? b := (State.addPend_spec (s := { s with uid := s.uid + 1 }) p hc).2.2 b hb

end

theorem Ctx.entering_stale (c : Ctx) (p : Pend) : (c.entering p).stale = c.stale := by unfold Ctx.entering Ctx.setCtr; split <;> rfl

/-- An entered result is entered in any state with the same contexts, memory and number. -/
theorem Entered.of_ctxs {s s1 t : State} {is : Iss} {k : Ctr} {writes : List RegWrite} {flags : AMap (BitVec 5)} {trap : Option TrapInfo}
    (h : Entered s t is k writes flags trap) (hctxs : s1.ctxs = s.ctxs) (hmem : s1.mem = s.mem) (huid : s1.uid = s.uid) :
    Entered s1 t is k writes flags trap := by
  obtain ⟨c, ⟨hc, hfr, hrec, hothers⟩, hctr, hpend, hs, hk, hv, hf, htm, htu⟩ := h
  exact ⟨c, ⟨hc, hfr, hrec, fun b hb => (hothers b hb).trans (State.ctx?_congr hctxs b).symm⟩, hctr, huid ▸ hpend, hs, hk, hv, hf,
    htm.trans hmem.symm, by rw [htu, huid]⟩

/-! ## q.fwait -/

section
variable (c : Ctx) (g : Tag)

theorem Ctx.mergeWait_fields : (c.mergeWait g).s = c.s ∧ (c.mergeWait g).split = c.split ∧ (c.mergeWait g).pend = c.pend ∧
    (c.mergeWait g).park = c.park ∧ (c.mergeWait g).ec = c.ec ∧ (c.mergeWait g).stale = (c.stale || g.stale) := by
  unfold Ctx.mergeWait
  refine ⟨foldl_get_eq Ctx.s _ _ c fun _ _ _ => rfl, foldl_get_eq Ctx.split _ _ c fun _ _ _ => rfl, foldl_get_eq Ctx.pend _ _ c fun _ _ _ => rfl,
    foldl_get_eq Ctx.park _ _ c fun _ _ _ => rfl, foldl_get_eq Ctx.ec _ _ c fun _ _ _ => rfl, ?_⟩
  exact congrArg (· || g.stale) (foldl_get_eq Ctx.stale _ _ c fun _ _ _ => rfl)

theorem Ctx.mergeWait_flag {fr : SplitRec} (hfr : c.rec? c.frag = some fr) {l : Nat} (hl : l < 64) :
    (c.mergeWait g).flag l = if fr.mask.getLsbD l then c.flag l ||| g.flags else c.flag l := by
  unfold Ctx.mergeWait
  rw [hfr]
  refine foldl_lanes Ctx.flag _ (fun l x => x ||| g.flags) (fun c i j => ?_) _ c hl
  rw [Ctx.flag_raiseFlags]
  split
  · next h => rw [h]
  · rfl

end

theorem exec_qFwait (h : Hdr) (d a : RegNo) (sc : BitVec 3) (s : State) :
    exec (.qFwait h 0 d a sc) s = issueRaw .core h 8 { rd := [.s a], wr := [.s d] } s (fun is s =>
      match is.c.tags.find a.toNat with
      | some t => s.pendS is .ec d (is.s a) >>= fun s' =>
        pure (((s'.parkAgent is (.fence [] (some t.sc))).mapCtx is.a (fun c => c.mergeWait t)).advance is)
      | none => require (handleStatus (is.s a) ≠ 0) (is.fault Code.handle 0 is.p) >>= fun _ =>
        s.pendS is .ec d (is.s a) >>= fun s' =>
        pure ((s'.parkAgent is (.fence [] (some (BitVec.ofNat 3 (s.scope is.a sc))))).advance is)) := rfl

section
variable {s : State} {h : Hdr} {sub : BitVec 2} {d a : RegNo} {sc : BitVec 3} {is : Iss}

theorem qFwait_untagged (hr : s.ready .core h 8 { rd := [.s a], wr := [.s d] } = some is) (hec : is.c.ec < 63)
    (hg : is.c.tags.find a.toNat = none) (hst : handleStatus (is.s a) ≠ 0) :
    ∃ t c, exec (.qFwait h 0 d a sc) s = .next t ∧ MovesOn s t is c ∧ c.ec = is.c.ec + 1 ∧
      c.park = .fence [] (some (BitVec.ofNat 3 (s.scope is.a sc))) ∧
      c.pend = is.c.pend ++ [{ Pend.blank s.uid .ec is with writes := knownS d (is.s a) }] ∧ SameS is.c c [] ∧ t.mem = s.mem := by
  have hctx := State.ready_ctx hr
  let p := is.result s.uid .ec (knownS d (is.s a)) [] none
  obtain ⟨tags, hc⟩ := State.enter_ctx hctx p
  have hpark := State.ctx?_parkAgent (.fence [] (some (BitVec.ofNat 3 (s.scope is.a sc)))) hc
  have hmem : ((s.enter is p).parkAgent is (.fence [] (some (BitVec.ofNat 3 (s.scope is.a sc))))).mem = s.mem :=
    (congrArg State.mem ((State.parkAgent_rest _ _ _).trans (State.enter_rest hctx p)) :)
  refine ⟨((s.enter is p).parkAgent is (.fence [] (some (BitVec.ofNat 3 (s.scope is.a sc))))).retire is, _, (exec_qFwait h d a sc s).trans (issueRaw_ready hr ?_),
    movesOn hr hpark (Ctx.entering_split _ _) fun b hb => ?_, ?_, Ctx.moved_park _ _, ?_, Ctx.sameS_moved is (Ctx.entering_s _ _), (State.retire_mem _ _).trans hmem⟩
  · rw [hg]
    dsimp only
    rw [require_bind, if_pos (decide_eq_true hst), State.pendS_ok d _ hec]
    rfl
  · exact (State.ctx?_mapCtx_ne _ _ _ _ hb).trans (State.enter_others hctx p b hb)
  · exact (Ctx.ctr_moved _ is .ec).trans (Ctx.ctr_entering _ p rfl Ctr.noConfusion)
  · exact (Ctx.moved_pend _ is).trans (Ctx.entering_pend _ p)

theorem qFwait_tagged {g : Tag} (hr : s.ready .core h 8 { rd := [.s a], wr := [.s d] } = some is) (hec : is.c.ec < 63)
    (hg : is.c.tags.find a.toNat = some g) :
    ∃ t c, exec (.qFwait h 0 d a sc) s = .next t ∧ MovesOn s t is c ∧ c.ec = is.c.ec + 1 ∧ c.park = .fence [] (some g.sc) ∧
      c.pend = is.c.pend ++ [{ Pend.blank s.uid .ec is with writes := knownS d (is.s a) }] ∧
      (∀ l, l < 64 → c.flag l = if is.fr.mask.getLsbD l then is.c.flag l ||| g.flags else is.c.flag l) ∧
      c.stale = (is.c.stale || g.stale) ∧ SameS is.c c [] ∧ t.mem = s.mem := by
  have hctx := State.ready_ctx hr
  obtain ⟨-, -, -, hfr, -, -, -, -, -⟩ := State.iss?_view (State.ready_view hr).1
  let p := is.result s.uid .ec (knownS d (is.s a)) [] none
  obtain ⟨tags, hc⟩ := State.enter_ctx hctx p
  have hpark := State.ctx?_parkAgent (.fence [] (some g.sc)) hc
  generalize hu : (s.enter is p).parkAgent is (.fence [] (some g.sc)) = u at hpark
  generalize hcp : Ctx.parked _ is _ _ = cp at hpark
  have hmem : u.mem = s.mem := hu ▸ (congrArg State.mem ((State.parkAgent_rest _ _ _).trans (State.enter_rest hctx p)) :)
  obtain ⟨hs, hsplit, hpend, hpk, hecm, hstale⟩ := Ctx.mergeWait_fields cp g
  have hcfr : cp.rec? cp.frag = some is.fr := hcp ▸ (Ctx.rec?_congr (Ctx.entering_split _ p) is.fid).trans hfr
  refine ⟨(u.mapCtx is.a (fun c => c.mergeWait g)).retire is, _, (exec_qFwait h d a sc s).trans (issueRaw_ready hr ?_),
    movesOn hr (State.ctx?_mapCtx_some _ hpark) (hsplit.trans (hcp ▸ Ctx.entering_split _ _)) fun b hb => ?_, ?_, ?_, ?_, fun l hl => ?_, ?_,
    Ctx.sameS_moved is (hs.trans (hcp ▸ Ctx.entering_s _ _)), (State.retire_mem _ _).trans ((State.mapCtx_mem _ _ _).trans hmem)⟩
  · rw [hg]
    dsimp only
    rw [State.pendS_ok d _ hec, ← hu]
    rfl
  · rw [State.ctx?_mapCtx_ne _ _ _ _ hb, ← hu]
    exact (State.ctx?_mapCtx_ne _ _ _ _ hb).trans (State.enter_others hctx p b hb)
  · exact (Ctx.ctr_moved _ is .ec).trans (hecm.trans (hcp ▸ Ctx.ctr_entering _ p rfl Ctr.noConfusion))
  · exact (Ctx.moved_park _ _).trans (hpk.trans (hcp ▸ rfl))
  · exact (Ctx.moved_pend _ is).trans (hpend.trans (hcp ▸ Ctx.entering_pend _ p))
  · rw [Ctx.moved_flag, Ctx.mergeWait_flag cp g hcfr hl]
    have hflag : cp.flag l = is.c.flag l := hcp ▸ Ctx.flag_congr (Ctx.entering_flags _ p) l
    rw [hflag]
  · have hst : cp.stale = is.c.stale := hcp ▸ Ctx.entering_stale _ p
    exact (congrArg Ctx.stale (Ctx.moved_rest _ is) :).trans (hstale.trans (by rw [hst]))

theorem qFwait_handle (hr : s.ready .core h 8 { rd := [.s a], wr := [.s d] } = some is) (hg : is.c.tags.find a.toNat = none)
    (hst : handleStatus (is.s a) = 0) : exec (.qFwait h 0 d a sc) s = .next (s.except is (is.fault Code.handle 0 is.p)) := by
  refine (exec_qFwait h d a sc s).trans (issueRaw_error hr ?_)
  rw [hg]
  dsimp only
  rw [require_bind, if_neg (by rw [hst]; exact Bool.false_ne_true)]

theorem qFwait_parks {g : Tag} (hi : s.iss? h 8 = some is) (hp : is.p ≠ 0) (hmeld : is.fr.meld = false) (hmd : h.md = false)
    (hstk : isStoker is.a = false) (hhearth : isHearth is.a = false) (hpend : is.c.pend = []) (hg : is.c.tags.find a.toNat = some g)
    (hres : g.resolved = false) : exec (.qFwait h 0 d a sc) s = .next (s.parkAgent is (.fut a.toNat)) := by
  obtain ⟨-, -, -, -, -, -, hh, -, -⟩ := State.iss?_view hi
  have hcheck : is.check .core { rd := [.s a], wr := [.s d] } = .error (.park (.fut a.toNat)) := by
    have htag : is.tagged (.s a) = some a.toNat := by simp only [Iss.tagged, hg, hres, Bool.false_eq_true, if_false]
    have hfail : is.failedRead (.s a) = none := by simp only [Iss.failedRead, hpend, List.find?_nil, Option.map_none]
    have hpass : decide (is.p ≠ 0) = true := decide_eq_true hp
    unfold Iss.check
    simp only [hh, hmd, hmeld, hstk, hhearth, hpass, htag, hfail, List.findSome?, Perm.core, Perm.wave, Iss.inRange, List.all, List.cons_append,
      List.nil_append, require_bind, Bool.true_or, Bool.or_true, Bool.not_false, Bool.and_true, if_true]
    rfl
  rw [exec_qFwait]
  unfold issueRaw
  rw [hi]
  dsimp only
  rw [hcheck]
  rfl

/-! ## Words in memory -/

theorem Iss.wordRoute_ok {va : W64} {n : Nat} {write : Bool} (hq : is.quiet s) (hal : vaOf va % n = 0) (hok : is.allows s (vaOf va) write true) :
    is.wordRoute s va n write = .ok (is.routeOf s (vaOf va)) := by
  have hroutes : is.routesU s write true [vaOf va] = .ok [is.routeOf s (vaOf va)] := Iss.routesU_ok fun v hv => (List.mem_singleton.mp hv) ▸ hok
  unfold Iss.wordRoute
  rw [Iss.memReady_bind hq]
  simp only [require_bind, hal, hroutes]
  rfl

theorem qFwait_word (hsub : sub ≠ 0) (hr : s.ready .core h 8 { rd := [.s a], wr := [.s d] } = some is) (hq : is.quiet s)
    (hal : vaOf (is.s a) % 8 = 0) (hok : is.allows s (vaOf (is.s a)) false true) (hec : is.c.ec < 63) :
    ∃ t c w, exec (.qFwait h sub d a sc) s = .next t ∧ t.ctx? is.a = some c ∧ c.park = .waiter w ∧ c.ec = is.c.ec + 1 ∧
      c.rec? is.fid = some is.fr ∧ (∃ r ∈ t.reqs, r.id = w ∧ r.agent = is.a ∧ r.va = is.canon s (vaOf (is.s a)) ∧ r.n = 8 ∧
        r.op = .status (BitVec.ofNat 3 (s.scope is.a sc)) d.toNat) ∧ SameS is.c c [] ∧ t.mem = s.mem := by
  obtain ⟨-, -, -, hfr, -, -, -, -, -⟩ := State.iss?_view (State.ready_view hr).1
  have hctx : (s.upd is (fun c => { c with ec := c.ec + 1 })).ctx? is.a = some { is.c with ec := is.c.ec + 1 } :=
    State.ctx?_mapCtx_some _ (State.ready_ctx hr)
  have hscope : (s.upd is (fun c => { c with ec := c.ec + 1 })).scope is.a sc = s.scope is.a sc := by
    have hteams : (s.upd is (fun c => { c with ec := c.ec + 1 })).teams = s.teams := State.mapCtx_teams _ _ _
    simp only [State.scope, hctx, State.ready_ctx hr, Option.bind_some, State.teamOf, hteams]
  obtain ⟨c, w, hc, hpark, hrec, hec', hreq, hs, hmem⟩ := sendWait_from hctx (is.routeOf s (vaOf (is.s a))) 8
    (.status (BitVec.ofNat 3 (s.scope is.a sc)) d.toNat) false
  refine ⟨_, c, w, ?_, hc, hpark, hec', (hrec _).trans hfr, hreq, hs, hmem.trans (State.mapCtx_mem _ _ _)⟩
  show execQFwait h sub d a sc s = _
  unfold execQFwait
  refine issueRaw_ready hr ?_
  rw [if_neg hsub, Iss.wordRoute_ok hq hal hok]
  show (is.room .ec >>= _) = _
  rw [Iss.room_bind (c := .ec) hec, ← hscope]
  rfl

/-! ## q.ftest -/

theorem qFtest_answers (hr : s.ready .core h 8 { rd := [.h a], wr := [.s d] } = some is) (hec : is.c.ec < 63) :
    ∃ t, exec (.qFtest h 0 d a) s = .next t ∧ Entered s t is .ec (knownS d (is.s a)) [] none := by
  refine ⟨_, ?_, entered_answer hr (s1 := s) rfl rfl rfl⟩
  show execQFtest h 0 d a s = _
  unfold execQFtest
  refine issue_ready hr ?_
  rw [if_pos rfl]
  exact State.pendS_ok d _ hec

theorem qFtest_word (hsub : sub ≠ 0) (hr : s.ready .core h 8 { rd := [.h a], wr := [.s d] } = some is) (hec : is.c.ec < 63) (hq : is.quiet s)
    (hal : vaOf (is.s a) % 8 = 0) (hok : is.allows s (vaOf (is.s a)) false true) :
    exec (.qFtest h sub d a) s = .next (State.retire ((s.enter is (Pend.awaiting s.uid .ec is [.s d.toNat] [])).sendRead is
      s.uid 0 8 (is.routeOf s (vaOf (is.s a)))) is) := by
  show execQFtest h sub d a s = _
  unfold execQFtest
  refine issue_ready hr ?_
  rw [if_neg hsub, Iss.wordRoute_ok hq hal hok]
  exact Iss.room_bind (c := .ec) hec _

/-! ## q.fcancel -/

/-- The mark of a cancelled operation's copies and tasks. -/
def Quad.cancelled (op : Nat) (x : Quad) : Quad :=
  { x with copies := x.copies.map (fun c => if c.id = op then { c with cancel := true } else c)
           tasks := x.tasks.map (fun t => if t.id = op then { t with cancel := true } else t) }

theorem State.cancelFut_ctxs (s : State) (f : Fut) : (s.cancelFut f).1.ctxs = s.ctxs := by
  unfold State.cancelFut
  split
  · rfl
  · split
    · unfold State.mapGroup
      split <;> rfl
    · rfl

theorem State.cancelFut_mem (s : State) (f : Fut) : (s.cancelFut f).1.mem = s.mem := by
  unfold State.cancelFut
  split
  · rfl
  · split
    · unfold State.mapGroup
      split <;> rfl
    · rfl

theorem State.cancelFut_uid (s : State) (f : Fut) : (s.cancelFut f).1.uid = s.uid := by
  unfold State.cancelFut
  split
  · rfl
  · split
    · unfold State.mapGroup
      split <;> rfl
    · rfl

theorem State.cancelFut_ports (s : State) (f : Fut) : (s.cancelFut f).1.ports = s.ports := by
  unfold State.cancelFut
  split
  · rfl
  · split
    · unfold State.mapGroup
      split <;> rfl
    · rfl

theorem State.cancelFut_answer (s : State) (f : Fut) : (s.cancelFut f).2 = if f.kind ≤ Kind.launch then 1 else 0 := by
  unfold State.cancelFut
  simp only [Bool.or_eq_true, decide_eq_true_eq]
  unfold Kind.copy Kind.task Kind.rick Kind.spawn Kind.launch
  split
  · exact (if_pos (by omega)).symm
  · split
    · exact (if_pos (by omega)).symm
    · exact (if_neg (by omega)).symm

/-- Copies, tasks and rick operations are marked in every quad. -/
theorem State.cancelFut_quad {f : Fut} (hf : f.kind ≤ Kind.rick) (q : Nat) : (s.cancelFut f).1.quad q = (s.quad q).cancelled f.op := by
  have hk : (f.kind = Kind.copy ∨ f.kind = Kind.task) ∨ f.kind = Kind.rick := by
    unfold Kind.copy Kind.task Kind.rick at *
    omega
  unfold State.cancelFut
  simp only [Bool.or_eq_true, decide_eq_true_eq, hk, if_true]
  exact AMap.get_map Quad.init (Quad.cancelled f.op) rfl s.quads q

theorem State.cancelFut_group {f : Fut} (hf : f.kind = Kind.spawn ∨ f.kind = Kind.launch) {g : Group} (hg : s.groups.find f.op = some g) :
    (s.cancelFut f).1.groups.find f.op = some g.cancel := by
  have hk : (decide (f.kind = Kind.copy) || decide (f.kind = Kind.task) || decide (f.kind = Kind.rick)) = false := by
    rcases hf with hf | hf <;> rw [hf] <;> rfl
  have hk2 : (decide (f.kind = Kind.spawn) || decide (f.kind = Kind.launch)) = true := by simpa using hf
  unfold State.cancelFut
  simp only [hk, hk2, Bool.false_eq_true, if_false, if_true]
  unfold State.mapGroup
  rw [hg]
  exact AMap.find_put_same _ _ _

/-- The pending future that a register names. -/
def Iss.namedFut (is : Iss) (s : State) (r : Nat) : Option Fut :=
  match is.c.tags.find r with
  | some t => if t.resolved then none else ((s.quad t.quad).futs.find t.slot)
  | none => none

theorem exec_qFcancel (h : Hdr) (d a : RegNo) (s : State) :
    exec (.qFcancel h 0 d a) s = issue .core h 8 { rd := [.h a], wr := [.s d] } s (fun is s =>
      ((is.namedFut s a.toNat).elim s (fun f => (s.cancelFut f).1)).pendS is .ec d
        (BitVec.ofNat 64 ((is.namedFut s a.toNat).elim 0 (fun f => (s.cancelFut f).2)))) := by
  show execQFcancel h 0 d a s = _
  unfold execQFcancel
  congr 1
  funext is s
  rw [if_pos rfl]
  show (match is.namedFut s a.toNat with | some f => s.cancelFut f | none => (s, 0)).1.pendS is .ec d
    (BitVec.ofNat 64 (match is.namedFut s a.toNat with | some f => s.cancelFut f | none => (s, 0)).2) = _
  cases is.namedFut s a.toNat <;> rfl

theorem qFcancel_hit {g : Tag} {f : Fut} (hr : s.ready .core h 8 { rd := [.h a], wr := [.s d] } = some is) (hec : is.c.ec < 63)
    (hg : is.c.tags.find a.toNat = some g) (hres : g.resolved = false) (hf : (s.quad g.quad).futs.find g.slot = some f) :
    ∃ t, exec (.qFcancel h 0 d a) s = .next t ∧ Entered s t is .ec (knownS d (if f.kind ≤ Kind.launch then 1 else 0)) [] none ∧
      (f.kind ≤ Kind.rick → (∀ q, ∀ x ∈ (t.quad q).copies, x.id = f.op → x.cancel = true) ∧
        ∀ q, ∀ x ∈ (t.quad q).tasks, x.id = f.op → x.cancel = true) ∧
      (f.kind = Kind.spawn ∨ f.kind = Kind.launch → ∀ g', s.groups.find f.op = some g' → t.groups.find f.op = some g'.cancel) := by
  have hnamed : is.namedFut s a.toNat = some f := by simp only [Iss.namedFut, hg, hres, Bool.false_eq_true, if_false, hf]
  have hans : BitVec.ofNat 64 (s.cancelFut f).2 = if f.kind ≤ Kind.launch then 1 else 0 := by
    rw [State.cancelFut_answer]
    split <;> rfl
  let u := (s.cancelFut f).1
  let p := is.result u.uid .ec (knownS d (if f.kind ≤ Kind.launch then 1 else 0)) [] none
  have hctx : u.ctx? is.a = some is.c := (State.ctx?_congr (State.cancelFut_ctxs s f) _).trans (State.ready_ctx hr)
  have hbody (q : Nat) : (((u.enter is p).retire is).quad q).body = (u.quad q).body := by
    rw [State.quad_congr (State.retire_quads _ _)]
    exact State.enter_body u is p q
  have hgroups : ((u.enter is p).retire is).groups = u.groups :=
    (congrArg State.groups ((State.retire_rest _ is).trans (State.enter_rest hctx p)) :)
  refine ⟨(u.enter is p).retire is, (exec_qFcancel h d a s).trans (issue_ready hr ?_),
    entered_answer hr (State.cancelFut_ctxs s f) (State.cancelFut_mem s f) (State.cancelFut_uid s f), fun hk => ⟨fun q x hx hid => ?_, fun q x hx hid => ?_⟩,
    fun hk g' hg' => ?_⟩
  · rw [hnamed]
    dsimp only [Option.elim]
    rw [hans]
    exact State.pendS_ok d _ hec
  · rw [show (((u.enter is p).retire is).quad q).copies = (u.quad q).copies from (congrArg Quad.copies (hbody q) :), State.cancelFut_quad hk] at hx
    obtain ⟨y, -, rfl⟩ := List.mem_map.mp hx
    split at hid <;> simp_all
  · rw [show (((u.enter is p).retire is).quad q).tasks = (u.quad q).tasks from (congrArg Quad.tasks (hbody q) :), State.cancelFut_quad hk] at hx
    obtain ⟨y, -, rfl⟩ := List.mem_map.mp hx
    split at hid <;> simp_all
  · rw [hgroups]
    exact State.cancelFut_group hk hg'

theorem qFcancel_none (hr : s.ready .core h 8 { rd := [.h a], wr := [.s d] } = some is) (hec : is.c.ec < 63)
    (hg : is.c.tags.find a.toNat = none ∨ ∃ g, is.c.tags.find a.toNat = some g ∧ g.resolved = true) :
    ∃ t, exec (.qFcancel h 0 d a) s = .next t ∧ Entered s t is .ec (knownS d 0) [] none := by
  have hnamed : is.namedFut s a.toNat = none := by
    rcases hg with hg | ⟨g, hg, hres⟩
    · simp only [Iss.namedFut, hg]
    · simp only [Iss.namedFut, hg, hres, if_true]
  refine ⟨_, (exec_qFcancel h d a s).trans (issue_ready hr ?_), entered_answer hr (s1 := s) rfl rfl rfl⟩
  rw [hnamed]
  exact State.pendS_ok d _ hec

/-- The pending future of the agent's partition that a word of memory names (R382). -/
def Iss.wordFut (is : Iss) (s : State) (w : Nat) : Option Fut :=
  match (s.quad (bits w 8 5 * 16 + bits w 24 4)).futs.find (bits w 0 8) with
  | some f => if bits w 28 4 = 0 && f.seq = bits w 32 32 && s.partOf (bits w 8 5) = s.agentPart is.a then some f else none
  | none => none

theorem Iss.wordFut_iff {w : Nat} {f : Fut} : is.wordFut s w = some f ↔
    (s.quad (bits w 8 5 * 16 + bits w 24 4)).futs.find (bits w 0 8) = some f ∧ bits w 28 4 = 0 ∧ f.seq = bits w 32 32 ∧
      s.partOf (bits w 8 5) = s.agentPart is.a := by
  unfold Iss.wordFut
  cases (s.quad (bits w 8 5 * 16 + bits w 24 4)).futs.find (bits w 0 8) with
  | none => simp
  | some g =>
    simp only [Bool.and_eq_true, decide_eq_true_eq, Option.ite_none_right_eq_some, Option.some.injEq]
    constructor
    · rintro ⟨⟨⟨hst, hseq⟩, hpart⟩, rfl⟩
      exact ⟨rfl, hst, hseq, hpart⟩
    · rintro ⟨rfl, hst, hseq, hpart⟩
      exact ⟨⟨⟨hst, hseq⟩, hpart⟩, rfl⟩

/-- A word's q.fcancel answers for the future that the word names in the state that its read leaves. -/
theorem qFcancel_word {s1 : State} {l : List Byte} (hsub : sub ≠ 0) (hr : s.ready .core h 8 { rd := [.h a], wr := [.s d] } = some is)
    (hec : is.c.ec < 63) (hq : is.quiet s) (hal : vaOf (is.s a) % 8 = 0) (hok : is.allows s (vaOf (is.s a)) false true)
    (hread : s.readRecord is (BitVec.ofNat 64 (is.canon s (vaOf (is.s a)))) 8 8 = .ok (l, false, s1)) :
    ∃ t, exec (.qFcancel h sub d a) s = .next t ∧ Entered s t is .ec
      (knownS d (BitVec.ofNat 64 ((is.wordFut s1 (ofLe l)).elim 0 fun f => (s1.cancelFut f).2))) [] none ∧ t.ports = s1.ports := by
  let u := (is.wordFut s1 (ofLe l)).elim s1 fun f => (s1.cancelFut f).1
  have hs := State.readRecord_spec hread
  have hctxs1 : s1.ctxs = s.ctxs := (congrArg State.ctxs hs :)
  have hmem1 : s1.mem = s.mem := (congrArg State.mem hs :)
  have huid1 : s1.uid = s.uid := (congrArg State.uid hs :)
  have hctxs : u.ctxs = s1.ctxs := by
    cases hw : is.wordFut s1 (ofLe l) <;> simp only [u, hw, Option.elim]
    exact State.cancelFut_ctxs _ _
  have hmem : u.mem = s1.mem := by
    cases hw : is.wordFut s1 (ofLe l) <;> simp only [u, hw, Option.elim]
    exact State.cancelFut_mem _ _
  have huid : u.uid = s1.uid := by
    cases hw : is.wordFut s1 (ofLe l) <;> simp only [u, hw, Option.elim]
    exact State.cancelFut_uid _ _
  have hctx : u.ctx? is.a = s.ctx? is.a := State.ctx?_congr (hctxs.trans hctxs1) is.a
  have hports : u.ports = s1.ports := by
    cases hw : is.wordFut s1 (ofLe l) <;> simp only [u, hw, Option.elim]
    exact State.cancelFut_ports _ _
  refine ⟨_, ?_, entered_answer hr (hctxs.trans hctxs1) (hmem.trans hmem1) (huid.trans huid1),
    ((congrArg State.ports ((State.retire_rest _ _).trans (State.enter_rest (hctx.trans (State.ready_ctx hr)) _)) :)).trans hports⟩
  show execQFcancel h sub d a s = _
  unfold execQFcancel
  refine issue_ready hr ?_
  rw [if_neg hsub, Iss.wordRoute_ok hq hal hok]
  show (s.readRecord is (BitVec.ofNat 64 (is.canon s (vaOf (is.s a)))) 8 8 >>= _) = _
  rw [hread]
  refine Eq.trans ?_ (State.pendS_ok d _ hec)
  show State.pendS (match (s1.quad (bits (ofLe l) 8 5 * 16 + bits (ofLe l) 24 4)).futs.find (bits (ofLe l) 0 8) with
      | some f => if bits (ofLe l) 28 4 = 0 && f.seq = bits (ofLe l) 32 32 && s1.partOf (bits (ofLe l) 8 5) = s1.agentPart is.a
          then s1.cancelFut f else (s1, 0)
      | none => (s1, 0)).1 is .ec d (BitVec.ofNat 64 (match (s1.quad (bits (ofLe l) 8 5 * 16 + bits (ofLe l) 24 4)).futs.find (bits (ofLe l) 0 8) with
      | some f => if bits (ofLe l) 28 4 = 0 && f.seq = bits (ofLe l) 32 32 && s1.partOf (bits (ofLe l) 8 5) = s1.agentPart is.a
          then s1.cancelFut f else (s1, 0)
      | none => (s1, 0)).2) = _
  simp only [u, Iss.wordFut]
  cases (s1.quad (bits (ofLe l) 8 5 * 16 + bits (ofLe l) 24 4)).futs.find (bits (ofLe l) 0 8) with
  | none => rfl
  | some f =>
    dsimp only
    split <;> rfl

/-! ## q.fmov -/

/-- The tag of a register that is pending. -/
def Iss.pendingTag (is : Iss) (r : Nat) : Option Tag :=
  match is.c.tags.find r with | some t => if t.resolved then none else some t | none => none

theorem Iss.pendingTag_none {r : Nat} (hg : is.c.tags.find r = none ∨ ∃ g, is.c.tags.find r = some g ∧ g.resolved = true) :
    is.pendingTag r = none := by
  rcases hg with hg | ⟨g, hg, hres⟩
  · simp only [Iss.pendingTag, hg]
  · simp only [Iss.pendingTag, hg, hres, if_true]

theorem Iss.pendingTag_some {r : Nat} {g : Tag} (hg : is.c.tags.find r = some g) (hres : g.resolved = false) : is.pendingTag r = some g := by
  simp only [Iss.pendingTag, hg, hres, Bool.false_eq_true, if_false]

/-- The future with a place as its last site (R383). -/
def Fut.withSite (f : Fut) (x : Site) : Fut := { f with sites := f.sites.filter (fun y => !y.same x) ++ [x] }

/-- The state whose future has the place as its last site. -/
def State.atSite (s : State) (g : Tag) (f : Fut) (x : Site) : State :=
  s.mapQuad g.quad (fun q => { q with futs := q.futs.put g.slot (f.withSite x) })

theorem Iss.addSite_ok {g : Tag} {f : Fut} {x : Site} (hf : (s.quad g.quad).futs.find g.slot = some f) (hroom : f.sites.length < 4) :
    is.addSite s g x = .ok (s.atSite g f x) := by
  unfold Iss.addSite
  rw [hf]
  dsimp only
  rw [require_bind, if_pos (by simp [hroom])]
  rfl

variable {b : RegNo} {imm : BitVec 32}

theorem exec_qFmov (h : Hdr) (d a b : RegNo) (imm : BitVec 32) (s : State) :
    exec (.qFmov h 0 d a b imm) s = issue .core h 12 { rd := [.h a], wr := [.s d] } s (fun is s => is.room .ec >>= fun _ =>
      match is.pendingTag a.toNat with
      | none => s.pendS is .ec d (is.s a)
      | some t => if d = a || d.toNat = 63 then pure s else
        is.addSite (s.clearTag is.a d.toNat) t (.reg is.a d.toNat) >>= fun s =>
          pure (s.mapCtx is.a (fun c => { c.sset d.toNat (is.s a) with tags := c.tags.put d.toNat t }))) := rfl

theorem qFmov_copies (hr : s.ready .core h 12 { rd := [.h a], wr := [.s d] } = some is) (hec : is.c.ec < 63)
    (hg : is.c.tags.find a.toNat = none ∨ ∃ g, is.c.tags.find a.toNat = some g ∧ g.resolved = true) :
    ∃ t, exec (.qFmov h 0 d a b imm) s = .next t ∧ Entered s t is .ec (knownS d (is.s a)) [] none := by
  refine ⟨_, (exec_qFmov h d a b imm s).trans (issue_ready hr ?_), entered_answer hr (s1 := s) rfl rfl rfl⟩
  rw [Iss.room_bind (c := .ec) hec, Iss.pendingTag_none hg]
  exact State.pendS_ok d _ hec

theorem qFmov_moves {g : Tag} {f : Fut} (hr : s.ready .core h 12 { rd := [.h a], wr := [.s d] } = some is)
    (hg : is.c.tags.find a.toNat = some g) (hres : g.resolved = false) (hda : d ≠ a) (hd : d.toNat ≠ 63) (hdt : is.c.tags.find d.toNat = none)
    (hf : (s.quad g.quad).futs.find g.slot = some f) (hroom : f.sites.length < 4) (hec : is.c.ec < 63) :
    ∃ t c u, exec (.qFmov h 0 d a b imm) s = .next t ∧ MovesOn s t is c ∧ c.sget d.toNat = is.s a ∧ SameS is.c c [d.toNat] ∧
      c.tags.find d.toNat = some g ∧ (t.quad g.quad).futs.find g.slot = some u ∧ .reg is.a d.toNat ∈ u.sites ∧ t.mem = s.mem := by
  have hctx := State.ready_ctx hr
  have hclear : s.clearTag is.a d.toNat = s := by
    unfold State.clearTag
    rw [hctx]
    simp only [hdt]
  let v := s.atSite g f (.reg is.a d.toNat)
  let t := v.mapCtx is.a (fun c => { c.sset d.toNat (is.s a) with tags := c.tags.put d.toNat g })
  have hc : t.ctx? is.a = some { is.c.sset d.toNat (is.s a) with tags := is.c.tags.put d.toNat g } := State.ctx?_mapCtx_some _ hctx
  have hset (n : Nat) : ({ is.c.sset d.toNat (is.s a) with tags := is.c.tags.put d.toNat g } : Ctx).sget n =
      if n = d.toNat ∧ n ≠ 63 then is.s a else is.c.sget n := by
    refine (Ctx.sget_sset is.c d.toNat n (is.s a)).trans (if_congr (and_congr_right fun hn => by rw [hn]) rfl rfl)
  refine ⟨t.retire is, _, f.withSite (.reg is.a d.toNat), (exec_qFmov h d a b imm s).trans (issue_ready hr ?_), movesOn hr hc (Ctx.sset_split _ _ _)
    fun b hb => State.ctx?_mapCtx_ne _ _ _ _ hb, ?_, fun n hn => ?_, ?_, ?_, ?_, (State.retire_mem _ _).trans (State.mapCtx_mem _ _ _)⟩
  · rw [Iss.room_bind (c := .ec) hec, Iss.pendingTag_some hg hres]
    dsimp only
    rw [if_neg (by simp [hda, hd]), hclear, Iss.addSite_ok hf hroom]
    rfl
  · rw [Ctx.moved_sget, hset, if_pos ⟨rfl, hd⟩]
  · rw [Ctx.moved_sget, hset, if_neg fun h => hn (List.mem_singleton.mpr h.1)]
  · rw [Ctx.moved_tags]
    exact AMap.find_put_same _ _ _
  · rw [State.quad_congr ((State.retire_quads _ _).trans (State.mapCtx_quads _ _ _))]
    show ((s.mapQuad g.quad _).quad g.quad).futs.find g.slot = _
    rw [State.quad_mapQuad]
    exact AMap.find_put_same _ _ _
  · exact List.mem_append_right _ (List.mem_singleton.mpr rfl)

/-- The write of a word at its home, and in the L1 (R383). -/
def Iss.putWord (is : Iss) (part : Nat) (rt : Route) (v : W64) (s : State) : State :=
  (s.send (Req.blank (is.who is.p) (coreOf is.a) part (rt.va - rt.va % 128) 128 rt.attr.gen rt.ver rt.attr.typ
    (.write (maskOf (rt.va % 128) 8) (placeBytes (rt.va % 128) (leBytes 8 v.toNat)))) []).l1Update (coreOf is.a) (lineNo rt.va) rt.attr.gen
      (maskOf (rt.va % 128) 8) (placeBytes (rt.va % 128) (leBytes 8 v.toNat))

/-- The state in which a word of a software-managed line has left the L1 (R110). -/
def Iss.wordFlush (is : Iss) (rt : Route) (s : State) : State :=
  if rt.attr.swm then s.flushLine (coreOf is.a) (lineNo rt.va) rt.attr else s

theorem Iss.wordFlush_shell (rt : Route) (s : State) : (is.wordFlush rt s).shell = s.shell := by
  unfold Iss.wordFlush
  split
  · exact State.flushLine_shell _ _ _ _
  · rfl

theorem exec_qFmov_word (hsub : sub ≠ 0) (h : Hdr) (d a b : RegNo) (imm : BitVec 32) (s : State) :
    exec (.qFmov h sub d a b imm) s = issue .core h 12 { rd := [.h a, .h b], wr := [] } s (fun is s =>
      is.wordRoute s (is.addrS b imm) 8 true >>= fun rt =>
      (match is.pendingTag a.toNat with
        | none => pure (is.wordFlush rt s)
        | some t => is.addSite (is.wordFlush rt s) t (memSite (s.agentPart is.a) rt.va rt.attr.gen (is.who is.p))) >>= fun s1 =>
      pure (is.putWord (s.agentPart is.a) rt (is.s a) s1)) := by
  show execQFmov h sub d a b imm s = _
  unfold execQFmov
  simp only [if_neg hsub]
  congr 1
  funext is s
  refine congrArg (is.wordRoute s (is.addrS b imm) 8 true >>= ·) (funext fun rt => ?_)
  show (match is.pendingTag a.toNat with | none => _ | some t => _) = _
  cases is.pendingTag a.toNat <;> rfl

section
variable (hsub : sub ≠ 0) (hr : s.ready .core h 12 { rd := [.h a, .h b], wr := [] } = some is) (hq : is.quiet s)
  (hal : vaOf (is.addrS b imm) % 8 = 0) (hok : is.allows s (vaOf (is.addrS b imm)) true true)
include hsub hr hq hal hok

theorem qFmov_word_copies (hg : is.c.tags.find a.toNat = none ∨ ∃ g, is.c.tags.find a.toNat = some g ∧ g.resolved = true) :
    exec (.qFmov h sub d a b imm) s = .next ((is.putWord (s.agentPart is.a) (is.routeOf s (vaOf (is.addrS b imm))) (is.s a)
      (is.wordFlush (is.routeOf s (vaOf (is.addrS b imm))) s)).retire is) := by
  refine (exec_qFmov_word hsub h d a b imm s).trans (issue_ready hr ?_)
  rw [Iss.wordRoute_ok hq hal hok, Iss.pendingTag_none hg]
  rfl

theorem qFmov_word_moves {g : Tag} {f : Fut} (hg : is.c.tags.find a.toNat = some g) (hres : g.resolved = false)
    (hf : (s.quad g.quad).futs.find g.slot = some f) (hroom : f.sites.length < 4) :
    exec (.qFmov h sub d a b imm) s = .next ((is.putWord (s.agentPart is.a) (is.routeOf s (vaOf (is.addrS b imm))) (is.s a)
      ((is.wordFlush (is.routeOf s (vaOf (is.addrS b imm))) s).atSite g f (memSite (s.agentPart is.a) (is.routeOf s (vaOf (is.addrS b imm))).va
        (is.routeOf s (vaOf (is.addrS b imm))).attr.gen (is.who is.p)))).retire is) := by
  have hfl : ((is.wordFlush (is.routeOf s (vaOf (is.addrS b imm))) s).quad g.quad).futs.find g.slot = some f := by
    rw [State.quad_congr (State.shell_quads (Iss.wordFlush_shell _ _))]
    exact hf
  refine (exec_qFmov_word hsub h d a b imm s).trans (issue_ready hr ?_)
  rw [Iss.wordRoute_ok hq hal hok, Iss.pendingTag_some hg hres]
  show (is.addSite _ g _ >>= _) = _
  rw [Iss.addSite_ok hfl hroom]
  rfl

end

end

/-- Settles O29: each instruction on futures acts on the value, the tag and the entry that its register or its word names. -/
theorem futureInstructions : Obligations.FutureInstructions := by
  refine ⟨⟨fun s is h d a sc hr hec => ⟨fun hg hst => qFwait_untagged hr hec hg hst, fun g hg => qFwait_tagged hr hec hg⟩,
    fun s is h d a sc hr hg hst => qFwait_handle hr hg hst,
    fun s is h d a sc g hi hp hmeld hmd hstk hhearth hpend hg hres => qFwait_parks hi hp hmeld hmd hstk hhearth hpend hg hres,
    fun s is h sub d a sc hsub hr hq hal hok hec => qFwait_word hsub hr hq hal hok hec⟩,
    ⟨fun s is h d a hr hec => qFtest_answers hr hec, fun s is h sub d a hsub hr hec hq hal hok => qFtest_word hsub hr hec hq hal hok⟩,
    ⟨fun s is h d a hr hec => ⟨fun g f hg hres hf => ?_, fun hg => qFcancel_none hr hec hg⟩, ?_⟩,
    ⟨fun s is h d a b imm hr => ⟨fun hec hg => qFmov_copies hr hec hg,
      fun g f hg hres hda hd hdt hf hroom hec => qFmov_moves hr hg hres hda hd hdt hf hroom hec⟩, ?_⟩⟩
  · obtain ⟨t, hx, ⟨c, hm, hec', hpend, -, -, -, -, hmem, -⟩, hmark, hgroup⟩ := qFcancel_hit hr hec hg hres hf
    exact ⟨t, c, hx, hm, hec', hpend, hmem, hmark, hgroup⟩
  · intro s s1 is h sub d a l hsub hr hec hq hal hok hread w q hit
    have hs := State.readRecord_spec hread
    have hquads : s1.quads = s.quads := (congrArg State.quads hs :)
    have hparts : s1.dieParts = s.dieParts := (congrArg State.dieParts hs :)
    have hctxs : s1.ctxs = s.ctxs := (congrArg State.ctxs hs :)
    have hmem : s1.mem = s.mem := (congrArg State.mem hs :)
    have huid : s1.uid = s.uid := (congrArg State.uid hs :)
    have hnamed (f : Fut) : is.wordFut s1 (ofLe l) = some f ↔ hit f := by
      rw [Iss.wordFut_iff, State.quad_congr hquads]
      simp only [State.agentPart, State.partOf, hparts]
      exact Iff.rfl
    obtain ⟨t, hx, hent, -⟩ := qFcancel_word (d := d) hsub hr hec hq hal hok hread
    refine ⟨fun f hf => ?_, fun hno => ⟨t, hx, ?_⟩⟩
    · obtain ⟨c, hm, -, hpend, -, -, -, -, htm, -⟩ := hent
      refine ⟨t, c, hx, hm, hpend.trans ?_, htm⟩
      rw [(hnamed f).mpr hf, Option.elim, State.cancelFut_answer]
      split <;> rfl
    · have hnone : is.wordFut s1 (ofLe l) = none := Option.eq_none_iff_forall_ne_some.mpr fun f hf => hno ⟨f, (hnamed f).mp hf⟩
      rw [hnone] at hent
      exact Entered.of_ctxs (s := s) (k := .ec) hent hctxs hmem huid
  · intro s is h sub d a b imm hsub hr hq va hal hok rt off w s1
    have hshell : (is.wordFlush rt s).shell = s.shell := Iss.wordFlush_shell rt s
    have hpart : s.agentPart is.a = (is.wordFlush rt s).agentPart is.a := by
      simp only [State.agentPart, State.partOf, State.shell_dieParts hshell]
    refine ⟨fun hg => (qFmov_word_copies hsub hr hq hal hok hg).trans ?_,
      fun g f hg hres hf hroom => (qFmov_word_moves hsub hr hq hal hok hg hres hf hroom).trans ?_⟩
    · rw [hpart]
      rfl
    · have hpart2 : s.agentPart is.a = ((is.wordFlush rt s).atSite g f (memSite (s.agentPart is.a) rt.va rt.attr.gen (is.who is.p))).agentPart is.a :=
        hpart
      exact congrArg (fun p => Host.Outcome.next ((is.putWord p rt (is.s a)
        ((is.wordFlush rt s).atSite g f (memSite (s.agentPart is.a) rt.va rt.attr.gen (is.who is.p)))).retire is)) hpart2

end Sys2Proof.Machine

/-! SUPPORT. The register pool, q.live, q.yield and q.sleep (R373, R374, R384). -/

namespace Sys2Proof.Machine

section
variable {s : State} {is : Iss} {h : Hdr} {d : RegNo} {src : Src} {tm : Team}

/-! ## q.claim -/

theorem exec_qClaim (h : Hdr) (d : RegNo) (src : Src) (s : State) :
    exec (.qClaim h d src) s = issueRaw .core h 8 { rd := srcUseS src, wr := [.s d] } s (fun is s =>
      require ((is.srcZ src).toNat % 8 = 0 && 8 ≤ (is.srcZ src).toNat && (is.srcZ src).toNat ≤ min 256 ((s.teamOf is.c).elim 0 Team.pool))
        (is.fault Code.claim (is.srcZ src).toNat is.p) >>= fun _ =>
      if (is.srcZ src).toNat ≤ is.c.nreg then s.pendS is .ec d (BitVec.ofNat 64 is.c.nreg) >>= fun s' => pure (s'.advance is)
      else is.room .ec >>= fun _ => pure ((s.mapTeam is.c.team (fun x => { x with claims := x.claims ++ [is.c.widx] })).parkAgent is
        (.claim (is.srcZ src).toNat d.toNat))) := rfl

/-- A claim that the pool can ever meet (R373). -/
structure ClaimOk (is : Iss) (s : State) (src : Src) (tm : Team) : Prop where
  team : s.teams.find is.c.team = some tm
  whole : (is.srcZ src).toNat % 8 = 0
  least : 8 ≤ (is.srcZ src).toNat
  most : (is.srcZ src).toNat ≤ min 256 tm.pool

theorem ClaimOk.check (hok : ClaimOk is s src tm) :
    (decide ((is.srcZ src).toNat % 8 = 0) && decide (8 ≤ (is.srcZ src).toNat) &&
      decide ((is.srcZ src).toNat ≤ min 256 ((s.teamOf is.c).elim 0 Team.pool))) = true := by
  have hteam : s.teamOf is.c = some tm := hok.team
  rw [hteam, Option.elim, decide_eq_true hok.whole, decide_eq_true hok.least, decide_eq_true hok.most]
  rfl

theorem qClaim_held (hr : s.ready .core h 8 { rd := srcUseS src, wr := [.s d] } = some is) (hok : ClaimOk is s src tm)
    (hle : (is.srcZ src).toNat ≤ is.c.nreg) (hec : is.c.ec < 63) :
    ∃ t, exec (.qClaim h d src) s = .next t ∧ Entered s t is .ec (knownS d (BitVec.ofNat 64 is.c.nreg)) [] none := by
  refine ⟨_, (exec_qClaim h d src s).trans (issueRaw_ready hr ?_), entered_answer hr (s1 := s) rfl rfl rfl⟩
  rw [require_bind, if_pos hok.check, if_pos hle, State.pendS_ok d _ hec]
  rfl

theorem qClaim_waits (hr : s.ready .core h 8 { rd := srcUseS src, wr := [.s d] } = some is) (hok : ClaimOk is s src tm)
    (hlt : is.c.nreg < (is.srcZ src).toNat) (hec : is.c.ec < 63) :
    ∃ t c, exec (.qClaim h d src) s = .next t ∧ t.ctx? is.a = some c ∧ c.park = .claim (is.srcZ src).toNat d.toNat ∧
      t.teams.find is.c.team = some { tm with claims := tm.claims ++ [is.c.widx] } ∧ SameS is.c c [] ∧ SameV is.c c ∧
      c.rec? is.fid = some is.fr := by
  obtain ⟨-, -, -, hfr, -, -, -, -, -⟩ := State.iss?_view (State.ready_view hr).1
  let u := s.mapTeam is.c.team (fun x => { x with claims := x.claims ++ [is.c.widx] })
  have hu : u = { s with teams := s.teams.put is.c.team { tm with claims := tm.claims ++ [is.c.widx] } } := by
    simp only [u, State.mapTeam, hok.team]
  have hctx : u.ctx? is.a = some is.c := by
    rw [hu]
    exact (State.ready_ctx hr :)
  have hpark := State.ctx?_parkAgent (.claim (is.srcZ src).toNat d.toNat) hctx
  refine ⟨(u.parkAgent is (.claim (is.srcZ src).toNat d.toNat)).afterIssue is, _, (exec_qClaim h d src s).trans (issueRaw_ready hr ?_),
    State.ctx?_afterIssue hpark, Ctx.issued_park _ _, ?_, Ctx.sameS_issued is rfl, fun n l => Ctx.issued_vget _ _ _ _, (Ctx.issued_rec _ _ _).trans hfr⟩
  · rw [require_bind, if_pos hok.check, if_neg (by omega), Iss.room_bind (c := .ec) hec]
    rfl
  · have hteams : ((u.parkAgent is (.claim (is.srcZ src).toNat d.toNat)).afterIssue is).teams = u.teams :=
      (congrArg State.teams ((State.afterIssue_rest _ is).trans (State.parkAgent_rest _ _ _)) :)
    rw [hteams, hu]
    exact AMap.find_put_same _ _ _

/-! ## q.give and q.live -/

/-- The context that has given its registers from n on. -/
def Ctx.giveRegs (c : Ctx) (n : Nat) : Ctx := { c.dropRegs n with nreg := n }

theorem AMap.find_filter_key {β : Type} (m : AMap β) (f : Nat → Bool) {k : Nat} (hk : f k = true) :
    AMap.find (m.filter (fun e => f e.1)) k = m.find k := by
  induction m with
  | nil => rfl
  | cons e m ih =>
    by_cases he : k = e.1
    · subst he
      simp [hk, AMap.find]
    · rw [List.filter_cons]
      split
      · simp only [AMap.find, if_neg he, ih]
      · simp only [AMap.find, if_neg he, ih]

theorem qGive_gives (hr : s.ready .core h 8 { rd := srcUseS src, wr := [] } = some is) (hwhole : (is.srcZ src).toNat % 8 = 0)
    (hleast : 8 ≤ (is.srcZ src).toNat) (hle : (is.srcZ src).toNat ≤ is.c.nreg)
    (hpend : ∀ p ∈ is.c.pend, ∀ w ∈ p.writes, ∀ n l, w.reg = .v n l → n < (is.srcZ src).toNat) :
    ∃ t c, exec (.qGive h src) s = .next t ∧ MovesOn s t is c ∧ c.nreg = (is.srcZ src).toNat ∧
      (∀ n l, n < c.nreg → l < 64 → c.vget n l = is.c.vget n l) ∧ SameS is.c c [] ∧ SameK is.c c [] ∧ SameF is.c c ∧ t.rest = s.rest := by
  have hcheck : (decide ((is.srcZ src).toNat % 8 = 0) && decide (8 ≤ (is.srcZ src).toNat) && decide ((is.srcZ src).toNat ≤ is.c.nreg)) = true := by
    rw [decide_eq_true hwhole, decide_eq_true hleast, decide_eq_true hle]
    rfl
  have hfree : (is.c.pend.all (fun p => p.fail.isSome || p.writes.all (fun w => match w.reg with
      | .v n _ => decide (n < (is.srcZ src).toNat)
      | _ => true))) = true := by
    refine List.all_eq_true.mpr fun p hp => Bool.or_eq_true_iff.mpr (.inr (List.all_eq_true.mpr fun w hw => ?_))
    split
    · next n l hreg => exact decide_eq_true (hpend p hp w hw n l hreg)
    · rfl
  obtain ⟨t, hx, hm, hrest, -⟩ := issue_upd (f := fun c => c.giveRegs (is.srcZ src).toNat) (body := fun is s =>
    require ((is.srcZ src).toNat % 8 = 0 && 8 ≤ (is.srcZ src).toNat && (is.srcZ src).toNat ≤ is.c.nreg)
      (is.fault Code.claim (is.srcZ src).toNat is.p) >>= fun _ =>
    require (is.c.pend.all (fun p => p.fail.isSome || p.writes.all (fun w => match w.reg with | .v n _ => n < (is.srcZ src).toNat | _ => true)))
      .stall >>= fun _ => pure (s.upd is (fun c => c.giveRegs (is.srcZ src).toNat))) hr
    (by rw [require_bind, if_pos hcheck, require_bind, if_pos hfree]; rfl) rfl
  have hnreg : ((is.c.giveRegs (is.srcZ src).toNat).moved is).nreg = (is.srcZ src).toNat := (congrArg Ctx.nreg (Ctx.moved_rest _ is) :)
  refine ⟨t, _, hx, hm, hnreg, fun n l hn hl => ?_, Ctx.sameS_moved is rfl, Ctx.sameK_moved is rfl, Ctx.sameF_moved is rfl, hrest⟩
  rw [hnreg] at hn
  rw [Ctx.moved_vget]
  have hkey : decide (64 * n + l < 64 * (is.srcZ src).toNat) = true := decide_eq_true (by omega)
  exact congrArg (Option.getD · 0) (AMap.find_filter_key is.c.v (fun k => decide (k < 64 * (is.srcZ src).toNat)) hkey)

/-- The context whose mask of live banks has an immediate's bits below NREG ÷ 8 (R384). -/
def Ctx.setLive (c : Ctx) (n : Nat) (imm : BitVec 32) : Ctx :=
  { c with live := (c.live &&& ~~~(BitVec.ofNat 32 (2 ^ n - 1))) ||| (imm &&& BitVec.ofNat 32 (2 ^ n - 1)) }

theorem Ctx.live_setLive (c : Ctx) (n : Nat) (imm : BitVec 32) {j : Nat} (hj : j < 32) :
    (c.setLive n imm).live.getLsbD j = if j < n then imm.getLsbD j else c.live.getLsbD j := by
  have hm : (BitVec.ofNat 32 (2 ^ n - 1)).getLsbD j = decide (j < n) := by
    rw [BitVec.getLsbD_ofNat, Nat.testBit_two_pow_sub_one]
    simp [hj]
  simp only [Ctx.setLive, BitVec.getLsbD_or, BitVec.getLsbD_and, BitVec.getLsbD_not, hm, hj]
  by_cases hn : j < n <;> simp [hn]

theorem qLive_sets {imm : BitVec 32} (hr : s.ready .core h 12 { rd := [], wr := [] } = some is) :
    ∃ t c, exec (.qLive h imm) s = .next t ∧ MovesOn s t is c ∧
      (∀ j, j < 32 → c.live.getLsbD j = if j < is.c.nreg / 8 then imm.getLsbD j else is.c.live.getLsbD j) ∧
      SameS is.c c [] ∧ SameK is.c c [] ∧ SameV is.c c ∧ SameF is.c c ∧ t.rest = s.rest := by
  obtain ⟨t, hx, hm, hrest, -⟩ := issue_upd (f := fun c => c.setLive (is.c.nreg / 8) imm)
    (body := fun is s => pure (s.upd is (fun c => c.setLive (is.c.nreg / 8) imm))) hr rfl rfl
  have hlive : ((is.c.setLive (is.c.nreg / 8) imm).moved is).live = (is.c.setLive (is.c.nreg / 8) imm).live :=
    (congrArg Ctx.live (Ctx.moved_rest _ is) :)
  refine ⟨t, _, hx, hm, fun j hj => ?_, Ctx.sameS_moved is rfl, Ctx.sameK_moved is rfl, Ctx.sameV_moved is rfl, Ctx.sameF_moved is rfl, hrest⟩
  rw [hlive]
  exact Ctx.live_setLive _ _ _ hj

/-! ## q.yield and q.sleep -/

theorem qYield_yields (hr : s.ready .core h 8 { rd := [], wr := [] } = some is) :
    ∃ t c, exec (.qYield h) s = .next t ∧ MovesOn s t is c ∧ c.turnAge = s.uid ∧ SameS is.c c [] ∧ SameK is.c c [] ∧
      SameV is.c c ∧ SameF is.c c ∧ c.tags = is.c.tags ∧ { c.rest with turnAge := is.c.turnAge } = is.c.rest ∧
      { t.rest with uid := s.uid } = s.rest ∧ t.quads = s.quads := by
  let u : State := { s with uid := s.uid + 1 }
  let f : Ctx → Ctx := fun c => { c with turnAge := s.uid }
  have hctx : u.ctx? is.a = some is.c := State.ready_ctx hr
  have hrest : ((u.upd is f).retire is).rest = u.rest := (State.retire_rest _ _).trans (State.mapCtx_rest _ _ _)
  refine ⟨(u.upd is f).retire is, (f is.c).moved is, ?_, movesOn hr (State.ctx?_mapCtx_some f hctx) rfl fun b hb => State.ctx?_mapCtx_ne _ _ _ _ hb,
    (congrArg Ctx.turnAge (Ctx.moved_rest (f is.c) is) :), Ctx.sameS_moved is rfl, Ctx.sameK_moved is rfl, Ctx.sameV_moved is rfl,
    Ctx.sameF_moved is rfl, Ctx.moved_tags _ _, ?_, ?_, (State.retire_quads _ _).trans (State.mapCtx_quads _ _ _)⟩
  · show execQYield h s = _
    unfold execQYield
    exact issue_ready hr rfl
  · exact congrArg (fun c : Ctx => { c with turnAge := is.c.turnAge }) (Ctx.moved_rest (f is.c) is)
  · exact congrArg (fun t : State => { t with uid := s.uid }) hrest

theorem qSleep_sleeps (hr : s.ready .core h 8 { rd := srcUseS src, wr := [] } = some is) :
    ∃ t c, exec (.qSleep h src) s = .next t ∧ MovesOn s t is c ∧
      c.park = (if (is.srcZ src).toNat % 2 ^ 32 = 0 then is.c.park else .sleep (s.clk (dieOf is.a) + (is.srcZ src).toNat % 2 ^ 32)) ∧
      SameS is.c c [] ∧ SameK is.c c [] ∧ SameV is.c c ∧ SameF is.c c ∧ t.rest = s.rest := by
  have hx (u : State) (hu : (if (is.srcZ src).toNat % 2 ^ 32 = 0 then s else
      s.parkAgent is (.sleep (s.clk (dieOf is.a) + (is.srcZ src).toNat % 2 ^ 32))) = u) : exec (.qSleep h src) s = .next (u.retire is) := by
    subst hu
    show execQSleep h src s = _
    unfold execQSleep
    exact issue_ready hr rfl
  have hctx := State.ready_ctx hr
  by_cases hn : (is.srcZ src).toNat % 2 ^ 32 = 0
  · exact ⟨s.retire is, is.c.moved is, hx s (if_pos hn), movesOn hr hctx rfl fun b hb => rfl, (Ctx.moved_park _ _).trans (if_pos hn).symm,
      Ctx.sameS_moved is rfl, Ctx.sameK_moved is rfl, Ctx.sameV_moved is rfl, Ctx.sameF_moved is rfl, State.retire_rest _ _⟩
  · exact ⟨_, _, hx _ (if_neg hn), movesOn hr (State.ctx?_parkAgent _ hctx) rfl fun b hb => State.ctx?_mapCtx_ne _ _ _ _ hb,
      (Ctx.moved_park _ _).trans (if_neg hn).symm, Ctx.sameS_moved is rfl, Ctx.sameK_moved is rfl, Ctx.sameV_moved is rfl, Ctx.sameF_moved is rfl,
      (State.retire_rest _ _).trans (State.parkAgent_rest _ _ _)⟩

end

/-- Settles O30: each instruction checks its operand and changes its wave, or parks it. -/
theorem registerPool : Obligations.RegisterPool :=
  ⟨fun _ _ _ _ _ _ hr ht hwhole hleast hmost hle hec => qClaim_held hr ⟨ht, hwhole, hleast, hmost⟩ hle hec,
    fun _ _ _ _ _ _ hr ht hwhole hleast hmost hlt hec => qClaim_waits hr ⟨ht, hwhole, hleast, hmost⟩ hlt hec,
    fun _ _ _ _ hr hwhole hleast hle hpend => qGive_gives hr hwhole hleast hle hpend, fun _ _ _ _ hr => qLive_sets hr,
    fun _ _ _ hr => qYield_yields hr, fun _ _ _ _ hr => qSleep_sleeps hr⟩

end Sys2Proof.Machine

/-! SUPPORT. Launches at issue (R355 to R358, R379, R380). -/

namespace Sys2Proof.Machine

/-! ## What a future's claims need of the state before -/

/-- What `Taken` says of a state holds of any state with the same quads and other contexts. -/
theorem Taken.of_before {s s' t : State} {is : Iss} {d : RegNo} {kind k : Nat} (h : Taken s t is d kind k) (hq : s'.quads = s.quads)
    (hc : ∀ b, ctxKey b ≠ ctxKey is.a → s'.ctx? b = s.ctx? b) : Taken s' t is d kind k := by
  obtain ⟨hfree, hbound, f, c, hfind, hseq, hkind, hsites, hseq', ⟨hctx, hrec, hrecs, hothers⟩, hrest⟩ := h
  have hquad : s'.quad (quadOf is.a) = s.quad (quadOf is.a) := State.quad_congr hq _
  exact ⟨hquad ▸ hfree, hbound, f, c, hfind, hquad ▸ hseq, hkind, hsites, hquad ▸ hseq',
    ⟨hctx, hrec, hrecs, fun b hb => (hothers b hb).trans (hc b hb).symm⟩, hrest⟩

theorem AtOnce.of_before {s s' t : State} {is : Iss} {d : RegNo} {kind st code : Nat} (h : AtOnce s t is d kind st code) (hq : s'.quads = s.quads)
    (hc : ∀ b, ctxKey b ≠ ctxKey is.a → s'.ctx? b = s.ctx? b) : AtOnce s' t is d kind st code := by
  obtain ⟨hseq, c, ⟨hctx, hrec, hrecs, hothers⟩, hsget, hrest⟩ := h
  have hquad : s'.quad (quadOf is.a) = s.quad (quadOf is.a) := State.quad_congr hq _
  exact ⟨hquad ▸ hseq, c, ⟨hctx, hrec, hrecs, fun b hb => (hothers b hb).trans (hc b hb).symm⟩, hquad ▸ hsget, hrest⟩

theorem State.futRoom_congr {s s' : State} {is : Iss} (hq : s'.quads = s.quads) : s'.futRoom is ↔ s.futRoom is := by
  unfold State.futRoom
  rw [State.quad_congr hq]

/-! ## The checks of a launch -/

/-- A read of the footprint changes the ports alone. -/
theorem State.readFoot_spec {s s2 : State} {is : Iss} {va : Nat} {fb : List Byte} {st : Bool}
    (h : s.readFoot is va = .ok (.ok (fb, st, s2))) : s2 = { s with ports := s2.ports } := by
  unfold State.readFoot at h
  dsimp only at h
  split at h
  · cases h
  · split at h
    · cases h
    · split at h
      · cases h
      · simp only [bind, Except.bind] at h
        split at h
        · cases h
        · split at h
          · next hv => cases h; exact State.viewPieces_spec hv
          · split at h
            · cases h
            · split at h <;> cases h

/-- The state behind the read of a footprint: without the failed fetches of the wave. -/
def Iss.dropFetches (is : Iss) (s : State) : State :=
  { s with reqs := s.reqs.filter (fun r => !(r.agent = is.a && r.core = coreOf is.a && r.op = ReqOp.fetch && r.failed.isSome)) }

theorem Iss.checkLaunch_dropFetches (is : Iss) (s : State) (spawn : Bool) (l fb : List Byte) :
    (is.dropFetches s).checkLaunch is spawn l fb = s.checkLaunch is spawn l fb := rfl

/-- What a launch does once its checks have come to an outcome. -/
def Iss.launchEnd (is : Iss) (d : RegNo) (kind sc : Nat) (s : State) : Except (Nat × Nat) Group → Res State
  | .error (st, c) => s.instantFut is d kind sc st c
  | .ok g => ({ s with uid := s.uid + 1 } : State).takeFut is d kind sc s.uid >>= fun x =>
      pure { x.1 with groups := x.1.groups.put s.uid { g with fut := some (x.2.1, x.2.2) } }

/-- What a launch does with the record's bytes (R357). -/
def launchRest (spawn : Bool) (d : RegNo) (is : Iss) (l : List Byte) (s : State) : Res State := do
  require (spawn || is.c.priv) (is.fault0 Code.priv)
  require (!spawn || ((s.teamOf is.c).elim 0 (·.depth)) < 8) (is.fault0 Code.nest)
  let fr ← s.readFoot is (field l 0 8 % 2 ^ 56)
  let s := is.dropFetches (match fr with | .ok x => x.2.2 | .error _ => s)
  is.launchEnd d (if spawn then Kind.spawn else Kind.launch) (bits (field l 28 1) 2 3)
    (match fr with | .ok (_, true, _) => s.setStale is.a | _ => s)
    (match fr with
      | .error c => .error (Status.faulted, c)
      | .ok (fb, _, _) => if field l 0 8 % 8 ≠ 0 then .error (Status.faulted, Code.handle) else s.checkLaunch is spawn l fb)

theorem launchOp_eq (spawn : Bool) (h : Hdr) (sub : BitVec 2) (d a : RegNo) (x0 : BitVec 32) (s : State) :
    launchOp spawn h sub d a x0 s = issue .core h 16 { rd := [.s a], wr := [.s d] } s (fun is s =>
      s.record is (sub == 1) a x0 64 64 >>= fun x => launchRest spawn d is x.1 x.2) := by
  unfold launchOp launchRest Iss.launchEnd
  congr 1

/-- A launch's record, its footprint and the outcome of its checks. -/
theorem launchRest_ok {spawn : Bool} {d : RegNo} {s1 s2 : State} {is : Iss} {l fb : List Byte} {st : Bool}
    (hpriv : spawn = false → is.c.priv = true) (hdepth : spawn = true → ((s1.teamOf is.c).elim 0 (·.depth)) < 8)
    (hfoot : s1.readFoot is (field l 0 8 % 2 ^ 56) = .ok (.ok (fb, st, s2))) (hal : field l 0 8 % 8 = 0) :
    launchRest spawn d is l s1 = is.launchEnd d (if spawn then Kind.spawn else Kind.launch) (bits (field l 28 1) 2 3)
      ((is.dropFetches s2).markStale is st) (s2.checkLaunch is spawn l fb) := by
  have h1 : (spawn || is.c.priv) = true := by cases spawn <;> simp_all
  have h2 : (!spawn || decide (((s1.teamOf is.c).elim 0 (·.depth)) < 8)) = true := by cases spawn <;> simp_all
  unfold launchRest
  rw [require_bind, if_pos h1, require_bind, if_pos h2, hfoot]
  show is.launchEnd d _ _ (match Except.ok (ε := Nat) (fb, st, s2) with | .ok (_, true, _) => (is.dropFetches s2).setStale is.a | _ => is.dropFetches s2)
    (if field l 0 8 % 8 ≠ 0 then .error (Status.faulted, Code.handle) else (is.dropFetches s2).checkLaunch is spawn l fb) = _
  rw [if_neg (not_not.mpr hal)]
  cases st <;> rfl

section
variable {spawn : Bool} {s s1 s2 : State} {is : Iss} {h : Hdr} {sub : BitVec 2} {d a : RegNo} {x0 : BitVec 32} {l fb : List Byte} {st : Bool}

theorem exec_launch (spawn : Bool) (h : Hdr) (sub : BitVec 2) (d a : RegNo) (x0 : BitVec 32) (s : State) :
    exec (if spawn then .qSpawn h sub d a x0 else .qLaunch h sub d a x0) s = issue .core h 16 { rd := [.s a], wr := [.s d] } s (fun is s =>
      s.record is (sub == 1) a x0 64 64 >>= fun x => launchRest spawn d is x.1 x.2) := by
  cases spawn
  · exact launchOp_eq false h sub d a x0 s
  · exact launchOp_eq true h sub d a x0 s

variable (hr : s.ready .core h 16 { rd := [.s a], wr := [.s d] } = some is) (hrec : s.record is (sub == 1) a x0 64 64 = .ok (l, s1))
include hr hrec

theorem qLaunch_priv (hpriv : is.c.priv = false) : exec (.qLaunch h sub d a x0) s = .next (s.except is (is.fault0 Code.priv)) := by
  refine (exec_launch false h sub d a x0 s).trans (issue_error hr ?_)
  rw [hrec]
  show launchRest false d is l s1 = _
  unfold launchRest
  rw [require_bind, hpriv]
  rfl

theorem qSpawn_nest (hdepth : 8 ≤ (s1.teamOf is.c).elim 0 (·.depth)) :
    exec (.qSpawn h sub d a x0) s = .next (s.except is (is.fault0 Code.nest)) := by
  refine (exec_launch true h sub d a x0 s).trans (issue_error hr ?_)
  rw [hrec]
  show launchRest true d is l s1 = _
  unfold launchRest
  rw [require_bind, if_pos (Bool.true_or _), require_bind, if_neg (by simpa using hdepth)]

variable (hpriv : spawn = false → is.c.priv = true) (hdepth : spawn = true → ((s1.teamOf is.c).elim 0 (·.depth)) < 8)
  (hfoot : s1.readFoot is (field l 0 8 % 2 ^ 56) = .ok (.ok (fb, st, s2))) (hal : field l 0 8 % 8 = 0)
include hpriv hdepth hfoot hal

theorem exec_launch_checked {t : State}
    (ht : is.launchEnd d (if spawn then Kind.spawn else Kind.launch) (bits (field l 28 1) 2 3) ((is.dropFetches s2).markStale is st)
      (s2.checkLaunch is spawn l fb) = .ok t) :
    exec (if spawn then .qSpawn h sub d a x0 else .qLaunch h sub d a x0) s = .next (t.retire is) := by
  refine (exec_launch spawn h sub d a x0 s).trans (issue_ready hr ?_)
  rw [hrec]
  exact (launchRest_ok hpriv hdepth hfoot hal).trans ht

omit hpriv hdepth hal in
/-- The state that the reads of a launch leave. -/
theorem launch_reached : (∃ c, Reached s ((is.dropFetches s2).markStale is st) is c) ∧
    ((is.dropFetches s2).markStale is st).quads = s2.quads ∧
    (∀ b, ctxKey b ≠ ctxKey is.a → s2.ctx? b = ((is.dropFetches s2).markStale is st).ctx? b) ∧
    ((is.dropFetches s2).markStale is st).rest = (is.dropFetches s2).rest ∧ s2.inner = s.inner ∧ s2.teams = s1.teams := by
  obtain ⟨⟨c, h1⟩, -, hinner⟩ := State.record_reached hr hrec
  have hs2 := State.readFoot_spec hfoot
  have hctxs : (is.dropFetches s2).ctxs = s1.ctxs := (congrArg State.ctxs hs2 :)
  have hinner2 : s2.inner = s1.inner := (congrArg State.inner hs2 :)
  refine ⟨(h1.of_ctxs hctxs).markStale st, State.markStale_quads _ _ _, fun b hb => ?_, State.markStale_rest _ _ _, hinner2.trans hinner,
    (congrArg State.teams hs2 :)⟩
  unfold State.markStale State.setStale
  split
  · exact (State.ctx?_mapCtx_ne (is.dropFetches s2) is.a b Ctx.setStale hb).symm
  · rfl

theorem launch_queues {g : Group} (hroom : s2.futRoom is) (hg : s2.checkLaunch is spawn l fb = .ok g) :
    ∃ t k, exec (if spawn then .qSpawn h sub d a x0 else .qLaunch h sub d a x0) s = .next t ∧
      Taken s2 t is d (if spawn then Kind.spawn else Kind.launch) k ∧
      t.groups = s2.groups.put s2.uid { g with fut := some (quadOf is.a, k) } ∧ t.mem = s.mem ∧ t.teams = s1.teams := by
  obtain ⟨⟨c, h1⟩, hquads, hothers, hrest, hinner, hteams⟩ := launch_reached hr hrec hfoot
  generalize hv : (is.dropFetches s2).markStale is st = v at *
  obtain ⟨hec, k, hk⟩ := State.futRoom_iff.mp ((State.futRoom_congr hquads).mpr hroom)
  have hctx : ({ v with uid := v.uid + 1 } : State).ctx? is.a = some c := h1.ctx
  obtain ⟨u, c', hx, hf⟩ := State.takeFut_ok d (if spawn then Kind.spawn else Kind.launch) (bits (field l 28 1) 2 3) v.uid hctx hec hk
  have huid : v.uid = s2.uid := (congrArg State.uid hrest :)
  have hgroups : u.groups = s2.groups := ((congrArg State.groups hf.rest :) : u.groups = v.groups).trans (congrArg State.groups hrest :)
  have hmem : u.mem = s.mem := hf.mem.trans (((congrArg State.mem hrest :) : v.mem = s2.mem).trans (congrArg State.mem hinner :))
  have hteams' : u.teams = s1.teams := hf.teams.trans (((congrArg State.teams hrest :) : v.teams = s2.teams).trans hteams)
  refine ⟨({ u with groups := u.groups.put v.uid { g with fut := some (quadOf is.a, k) } } : State).retire is, k,
    exec_launch_checked hr hrec hpriv hdepth hfoot hal ?_, ?_, ?_, (State.retire_mem _ _).trans hmem, (State.retire_teams _ _).trans hteams'⟩
  · rw [hg, hv]
    unfold Iss.launchEnd
    dsimp only
    rw [hx]
    rfl
  · exact (taken_of_futTaken (s' := { v with uid := v.uid + 1 })
      (t := { u with groups := u.groups.put v.uid { g with fut := some (quadOf is.a, k) } }) hr h1 rfl rfl hf rfl rfl fun b => rfl).of_before hquads.symm hothers
  · have hret : (({ u with groups := u.groups.put v.uid { g with fut := some (quadOf is.a, k) } } : State).retire is).groups =
        u.groups.put v.uid { g with fut := some (quadOf is.a, k) } := (congrArg State.groups (State.retire_rest _ is) :)
    rw [hret, hgroups, huid]

theorem launch_refused {x code : Nat} (hroom : s2.futRoom is) (hg : s2.checkLaunch is spawn l fb = .error (x, code)) :
    ∃ t, exec (if spawn then .qSpawn h sub d a x0 else .qLaunch h sub d a x0) s = .next t ∧
      AtOnce s2 t is d (if spawn then Kind.spawn else Kind.launch) x code ∧ t.groups = s.groups ∧ t.mem = s.mem ∧ t.teams = s1.teams := by
  obtain ⟨⟨c, h1⟩, hquads, hothers, hrest, hinner, hteams⟩ := launch_reached hr hrec hfoot
  obtain ⟨hstop, hpark⟩ := State.ready_free hr
  generalize hv : (is.dropFetches s2).markStale is st = v at *
  obtain ⟨u, c', hx, hf⟩ := State.instantFut_ok d (if spawn then Kind.spawn else Kind.launch) (bits (field l 28 1) 2 3) x code h1.ctx
    (h1.alike.stop.trans hstop) (h1.alike.park.trans hpark) ((State.futRoom_congr hquads).mpr hroom)
  have hgroups : u.groups = s.groups := ((congrArg State.groups hf.rest :) : u.groups = v.groups).trans
    (((congrArg State.groups hrest :) : v.groups = s2.groups).trans (congrArg State.groups hinner :))
  have hmem : u.mem = s.mem := ((congrArg State.mem hf.rest :) : u.mem = v.mem).trans
    (((congrArg State.mem hrest :) : v.mem = s2.mem).trans (congrArg State.mem hinner :))
  have hteams' : u.teams = s1.teams := ((congrArg State.teams hf.rest :) : u.teams = v.teams).trans
    (((congrArg State.teams hrest :) : v.teams = s2.teams).trans hteams)
  have hret : (u.retire is).groups = u.groups := (congrArg State.groups (State.retire_rest _ is) :)
  refine ⟨u.retire is, exec_launch_checked hr hrec hpriv hdepth hfoot hal ?_, (atOnce_of_futAtOnce hr h1 rfl rfl hf).of_before hquads.symm hothers,
    hret.trans hgroups, (State.retire_mem _ _).trans hmem, (State.retire_teams _ _).trans hteams'⟩
  rw [hg, hv]
  exact hx

end

/-- Settles O31: the record and the footprint are read, the checks of R357 come to an outcome, and the group is queued or the future resolves. -/
theorem launches : Obligations.Launches := by
  refine ⟨fun spawn s s1 s2 is h sub d a x0 l fb st hr hq hrec hpriv hdepth hfoot hal hroom =>
    ⟨fun g hg => launch_queues hr hrec hpriv hdepth hfoot hal hroom hg, fun x code hg => launch_refused hr hrec hpriv hdepth hfoot hal hroom hg⟩,
    fun s s1 is h sub d a x0 l hr hrec hpriv => qLaunch_priv hr hrec hpriv, fun s s1 is h sub d a x0 l hr hrec hdepth => qSpawn_nest hr hrec hdepth⟩

end Sys2Proof.Machine

/-! SUPPORT. Copy instructions at issue (R164 to R166, R168, R170). -/

namespace Sys2Proof.Machine

/-- The scoreboard entries of a command's ranges (R169). -/
def boardEntries (copy base : Nat) (rs : List (Nat × List (Nat × Nat × Nat))) : List Board :=
  rs.zipIdx.flatMap (fun e => e.1.2.map (fun r =>
    { id := base + e.2, copy := copy, team := r.1, lo := r.2.1, hi := r.2.2, swz := e.1.1 }))

theorem boardEntries_ranges (copy base : Nat) (rs : List (Nat × List (Nat × Nat × Nat))) :
    (boardEntries copy base rs).map (fun b => (b.copy, b.swz, b.team, b.lo, b.hi)) = rs.flatMap (fun e => e.2.map (fun r => (copy, e.1, r))) := by
  unfold boardEntries
  simp only [List.map_flatMap, List.map_map]
  refine (List.flatMap_map Prod.fst (fun e : Nat × List (Nat × Nat × Nat) => e.2.map (fun r => (copy, e.1, r))) (l := rs.zipIdx)).symm.trans ?_
  rw [List.zipIdx_map_fst]

/-- What a copy instruction does with its command (R166, R168, R170). -/
def copyPost (is : Iss) (d : RegNo) (sc : Nat) (c : Copy) (rows : List Nat) (s : State) : Res State :=
  require (s.boardRoom (coreOf is.a) (({ s with uid := s.uid + 1 } : State).copyRanges c rows))
    (.park (.board (({ s with uid := s.uid + 1 } : State).copyRanges c rows))) >>= fun _ =>
  match ({ s with uid := s.uid + 1 } : State).checkCopy is.a (coreOf is.a) (s.agentPart is.a) c rows with
  | some code => ({ s with uid := s.uid + 1 } : State).instantFut is d Kind.copy sc Status.faulted code
  | none =>
    if c.left.isEmpty then ({ s with uid := s.uid + 1 } : State).instantFut is d Kind.copy sc Status.done 0
    else ({ s with uid := s.uid + 1 } : State).takeFut is d Kind.copy sc s.uid >>= fun x =>
      pure (({ x.1.mapQuad x.2.1 (fun y => { y with copies := y.copies ++ [{ c with fut := some (x.2.1, x.2.2) }] }) with
        uid := x.1.uid + (({ s with uid := s.uid + 1 } : State).copyRanges c rows).length } : State).mapCore (coreOf is.a)
          (fun y => { y with board := y.board ++ boardEntries s.uid x.1.uid (({ s with uid := s.uid + 1 } : State).copyRanges c rows) }))

section
variable {s : State} {is : Iss} {d : RegNo} {sc code : Nat} {c : Copy} {rows : List Nat}

theorem copyPost_full (hroom : s.boardRoom (coreOf is.a) (({ s with uid := s.uid + 1 } : State).copyRanges c rows) = false) :
    copyPost is d sc c rows s = .error (.park (.board (({ s with uid := s.uid + 1 } : State).copyRanges c rows))) := by
  unfold copyPost
  rw [require_bind]
  exact if_neg fun h => Bool.false_ne_true (hroom.symm.trans h)

theorem copyPost_refused (hroom : s.boardRoom (coreOf is.a) (({ s with uid := s.uid + 1 } : State).copyRanges c rows) = true)
    (hchk : ({ s with uid := s.uid + 1 } : State).checkCopy is.a (coreOf is.a) (s.agentPart is.a) c rows = some code) :
    copyPost is d sc c rows s = ({ s with uid := s.uid + 1 } : State).instantFut is d Kind.copy sc Status.faulted code := by
  unfold copyPost
  rw [require_bind, if_pos hroom, hchk]

theorem copyPost_empty (hroom : s.boardRoom (coreOf is.a) (({ s with uid := s.uid + 1 } : State).copyRanges c rows) = true)
    (hchk : ({ s with uid := s.uid + 1 } : State).checkCopy is.a (coreOf is.a) (s.agentPart is.a) c rows = none) (hleft : c.left = []) :
    copyPost is d sc c rows s = ({ s with uid := s.uid + 1 } : State).instantFut is d Kind.copy sc Status.done 0 := by
  unfold copyPost
  rw [require_bind, if_pos hroom, hchk]
  exact if_pos (by simpa using hleft)

end

theorem exec_copyForm {i : Instr} {h : Hdr} {d : RegNo} {rd : List Use} {x0 : BitVec 32} {x : CopyX} (hi : copyForm i = some (h, d, rd, x0, x))
    (s : State) : exec i s = issue .core h 16 { rd := rd, wr := [.s d] } s (fun is s =>
      is.memReady s >>= fun _ => copyPost is d (s.scope is.a x.sc) { copyCmd s is i x0 x with id := s.uid } (copyRows is i) s) := by
  cases i <;> simp only [copyForm, Option.some.injEq, Prod.mk.injEq, reduceCtorEq] at hi
  all_goals
    obtain ⟨rfl, rfl, rfl, rfl, rfl⟩ := hi
    rfl

section
variable {i : Instr} {s : State} {is : Iss} {h : Hdr} {d : RegNo} {rd : List Use} {x0 : BitVec 32} {x : CopyX}
  (hi : copyForm i = some (h, d, rd, x0, x)) (hr : s.ready .core h 16 { rd := rd, wr := [.s d] } = some is) (hq : is.quiet s)
include hi hr hq

theorem copyForm_body {r : Res State}
    (hpost : copyPost is d (s.scope is.a x.sc) { copyCmd s is i x0 x with id := s.uid } (copyRows is i) s = r) :
    exec i s = match r with | .ok t => .next (t.retire is) | .error e => .next (s.except is e) := by
  cases r with
  | ok t =>
    refine (exec_copyForm hi s).trans (issue_ready hr ?_)
    rw [Iss.memReady_bind hq]
    exact hpost
  | error e =>
    refine (exec_copyForm hi s).trans (issue_error hr ?_)
    rw [Iss.memReady_bind hq]
    exact hpost

theorem copyForm_atOnce {status code : Nat} (hroom : s.futRoom is)
    (hpost : copyPost is d (s.scope is.a x.sc) { copyCmd s is i x0 x with id := s.uid } (copyRows is i) s =
      ({ s with uid := s.uid + 1 } : State).instantFut is d Kind.copy (s.scope is.a x.sc) status code) :
    ∃ t, exec i s = .next t ∧ AtOnce s t is d Kind.copy status code ∧ t.mem = s.mem ∧ t.teams = s.teams ∧
      (t.quad (quadOf is.a)).copies = (s.quad (quadOf is.a)).copies := by
  obtain ⟨hstop, hpark⟩ := State.ready_free hr
  have hctx : ({ s with uid := s.uid + 1 } : State).ctx? is.a = some is.c := State.ready_ctx hr
  obtain ⟨u, c', hu, hf⟩ := State.instantFut_ok d Kind.copy (s.scope is.a x.sc) status code hctx hstop hpark hroom
  have hmem : u.mem = s.mem := (congrArg State.mem hf.rest :)
  have hteams : u.teams = s.teams := (congrArg State.teams hf.rest :)
  refine ⟨u.retire is, copyForm_body hi hr hq (hpost.trans hu), atOnce_of_futAtOnce (s' := { s with uid := s.uid + 1 }) hr (Reached.refl hr) rfl rfl hf,
    (State.retire_mem _ _).trans hmem, (State.retire_teams _ _).trans hteams, ?_⟩
  rw [State.quad_congr (State.retire_quads _ _)]
  exact hf.copies _

theorem copyForm_posts (hroom : s.futRoom is)
    (hboard : s.boardRoom (coreOf is.a) (({ s with uid := s.uid + 1 } : State).copyRanges { copyCmd s is i x0 x with id := s.uid } (copyRows is i)) = true)
    (hchk : ({ s with uid := s.uid + 1 } : State).checkCopy is.a (coreOf is.a) (s.agentPart is.a) { copyCmd s is i x0 x with id := s.uid }
      (copyRows is i) = none) (hleft : (copyCmd s is i x0 x).left ≠ []) :
    ∃ t k, exec i s = .next t ∧ Taken s t is d Kind.copy k ∧ t.mem = s.mem ∧ t.teams = s.teams ∧
      (t.quad (quadOf is.a)).copies =
        (s.quad (quadOf is.a)).copies ++ [{ copyCmd s is i x0 x with id := s.uid, fut := some (quadOf is.a, k) }] ∧
      (t.core (coreOf is.a)).board.map (fun b => (b.copy, b.swz, b.team, b.lo, b.hi)) =
        (s.core (coreOf is.a)).board.map (fun b => (b.copy, b.swz, b.team, b.lo, b.hi)) ++
          (({ s with uid := s.uid + 1 } : State).copyRanges { copyCmd s is i x0 x with id := s.uid } (copyRows is i)).flatMap
            (fun e => e.2.map (fun r => (s.uid, e.1, r))) := by
  generalize hcmd : copyCmd s is i x0 x = cmd at *
  generalize hrs : ({ s with uid := s.uid + 1 } : State).copyRanges { cmd with id := s.uid } (copyRows is i) = rs at *
  obtain ⟨hec, k, hk⟩ := State.futRoom_iff.mp hroom
  have hctx : ({ s with uid := s.uid + 1 } : State).ctx? is.a = some is.c := State.ready_ctx hr
  obtain ⟨u, c', hx, hf⟩ := State.takeFut_ok d Kind.copy (s.scope is.a x.sc) s.uid hctx hec hk
  let v : State := (u.mapQuad (quadOf is.a) (fun y => { y with copies := y.copies ++ [{ cmd with id := s.uid, fut := some (quadOf is.a, k) }] }))
  let t : State := ({ v with uid := u.uid + rs.length } : State).mapCore (coreOf is.a) (fun y => { y with board := y.board ++ boardEntries s.uid u.uid rs })
  have hcore : u.core (coreOf is.a) = s.core (coreOf is.a) := by
    have hcores : u.cores = s.cores := (congrArg State.cores hf.rest :)
    simp only [State.core, hcores]
  have hpost : copyPost is d (s.scope is.a x.sc) { cmd with id := s.uid } (copyRows is i) s = .ok t := by
    unfold copyPost
    rw [hrs, require_bind, if_pos hboard, hchk]
    dsimp only
    rw [if_neg (by simpa using hleft), hx]
    rfl
  have hquad : t.quad (quadOf is.a) =
      { u.quad (quadOf is.a) with copies := (u.quad (quadOf is.a)).copies ++ [{ cmd with id := s.uid, fut := some (quadOf is.a, k) }] } :=
    State.quad_mapQuad u (quadOf is.a) fun y => { y with copies := y.copies ++ [{ cmd with id := s.uid, fut := some (quadOf is.a, k) }] }
  refine ⟨t.retire is, k, copyForm_body (r := .ok t) hi hr hq (hcmd ▸ hpost), taken_of_futTaken (s' := { s with uid := s.uid + 1 }) hr (Reached.refl hr)
    rfl rfl hf (congrArg Quad.futs hquad :) (congrArg Quad.seq hquad :) (fun b => rfl),
    (State.retire_mem _ _).trans hf.mem, (State.retire_teams _ _).trans hf.teams, ?_, ?_⟩
  · rw [State.quad_congr (State.retire_quads _ _), hquad]
    have hbody : (u.quad (quadOf is.a)).copies = (s.quad (quadOf is.a)).copies := (congrArg Quad.copies (hf.body (quadOf is.a)) :)
    dsimp only
    rw [hbody]
  · have hret : (t.retire is).core (coreOf is.a) = t.core (coreOf is.a) := by
      have hcores : (t.retire is).cores = t.cores := (congrArg State.cores (State.retire_rest t is) :)
      simp only [State.core, hcores]
    have hboard' : t.core (coreOf is.a) = { u.core (coreOf is.a) with board := (u.core (coreOf is.a)).board ++ boardEntries s.uid u.uid rs } :=
      (State.core_mapCore _ _ _ _).trans (if_pos rfl)
    rw [hret, hboard', hcore, List.map_append, boardEntries_ranges]

end

/-- Settles O32: the scoreboard, the checks of R166, and then a future that resolves at once or the command in the engine. -/
theorem copyPosts : Obligations.CopyPosts := by
  intro i s is h d rd x0 x hi hr hq cmd s1 chk rs room
  exact ⟨fun hroom => copyForm_body (r := .error (.park (.board rs))) hi hr hq (copyPost_full hroom),
    fun code hroom hchk hfut => copyForm_atOnce hi hr hq hfut (copyPost_refused hroom hchk),
    fun hroom hchk hleft hfut => copyForm_atOnce hi hr hq hfut (copyPost_empty hroom hchk hleft),
    fun hroom hchk hleft hfut => copyForm_posts hi hr hq hfut hroom hchk hleft⟩

end Sys2Proof.Machine

/-! SUPPORT. Stokers at issue (R413 to R420, R433, R434). -/

namespace Sys2Proof.Machine

section
variable {s : State} {is : Iss} {h : Hdr} {d a b : RegNo}

/-! ## Stokers of the machine -/

theorem State.stokerOf_spec {team k : Nat} {x : Stoker} (hk : s.stokerOf team = some (k, x)) : s.stokers.find k = some x := by
  unfold State.stokerOf at hk
  obtain ⟨j, -, hj⟩ := Option.bind_eq_some_iff.mp hk
  obtain ⟨y, hy, hjy⟩ := Option.map_eq_some_iff.mp hj
  cases hjy
  exact hy

theorem State.mapStoker_eq {k : Nat} {x : Stoker} (hx : s.stokers.find k = some x) (f : Stoker → Stoker) :
    s.mapStoker k f = { s with stokers := s.stokers.put k (f x) } := by
  unfold State.mapStoker
  rw [hx]

theorem Iss.stoker_bind {α : Type} {k : Nat} {x : Stoker} (hk : s.stokerOf is.c.team = some (k, x)) (f : Nat × Stoker → Res α) :
    (is.stoker s >>= f) = f (k, x) := by
  unfold Iss.stoker
  rw [hk]
  rfl

theorem Iss.stoker_none {α : Type} (hk : s.stokerOf is.c.team = none) (f : Nat × Stoker → Res α) :
    (is.stoker s >>= f) = .error (is.fault Code.handle 0 is.p) := by
  unfold Iss.stoker
  rw [hk]
  rfl

theorem Stoker.queue_setQueue_same (x : Stoker) (n : Nat) (q : SQueue) : (x.setQueue n q).queue n = q := by
  unfold Stoker.queue Stoker.setQueue
  rw [AMap.find_put_same]
  rfl

theorem Stoker.queue_setQueue_ne (x : Stoker) {n m : Nat} (q : SQueue) (hm : m ≠ n) : (x.setQueue n q).queue m = x.queue m := by
  unfold Stoker.queue Stoker.setQueue
  rw [AMap.find_put_ne _ _ _ _ hm]

/-- A scalar answer that an instruction enters. -/
theorem issue_answers {pm : Perm} {len : Nat} {us : Uses} {u : State} {v : Nat} {body : Iss → State → Res State}
    (hr : s.ready pm h len us = some is) (hec : is.c.ec < 63) (hbody : body is s = u.pendS is .ec d (BitVec.ofNat 64 v)) :
    issue pm h len us s body = .next (u.answers is d v) :=
  issue_ready hr (hbody.trans (State.pendS_ok d _ hec))

/-- A change of one stoker of an instruction that moves on. -/
theorem issue_stoker {pm : Perm} {len : Nat} {us : Uses} {k : Nat} {x : Stoker} {f : Stoker → Stoker} {body : Iss → State → Res State}
    {o : Host.Outcome State Fault Refusal} (ho : o = issue pm h len us s body) (hr : s.ready pm h len us = some is) (hx : s.stokers.find k = some x)
    (hbody : body is s = .ok (s.mapStoker k f)) :
    ∃ t c, o = .next t ∧ MovesOn s t is c ∧ t.stokers.find k = some (f x) ∧ SameS is.c c [] ∧ t.mem = s.mem ∧
      t.teams = s.teams ∧ t.quads = s.quads := by
  have hu := State.mapStoker_eq hx f
  have hctx : (s.mapStoker k f).ctx? is.a = some is.c := by
    rw [hu]
    exact (State.ready_ctx hr :)
  refine ⟨(s.mapStoker k f).retire is, is.c.moved is, ho.trans (issue_ready hr hbody), movesOn hr hctx rfl fun b hb => by rw [hu]; rfl, ?_, Ctx.sameS_moved is rfl, ?_, ?_, ?_⟩
  · have hst : ((s.mapStoker k f).retire is).stokers = (s.mapStoker k f).stokers := (congrArg State.stokers (State.retire_rest _ _) :)
    rw [hst, hu]
    exact AMap.find_put_same _ _ _
  · rw [State.retire_mem, hu]
  · rw [State.retire_teams, hu]
  · rw [State.retire_quads, hu]

/-! ## kv.bind -/

/-- A stoker of a core stands in another slot than the waves of the core, and than any hearth wave. -/
theorem stokerAgent_key_ne {a : Agent} (ha : isStoker a = false) {i : Nat} (hi : i < 4) :
    ctxKey (stokerAgent (4 * coreOf a + i)) ≠ ctxKey a := by
  cases a with
  | slot c n =>
    have hn : n < 20 := by simpa [isStoker] using ha
    simp only [stokerAgent, ctxKey, coreOf]
    omega
  | hearth e =>
    simp only [stokerAgent, ctxKey, coreOf]
    omega

/-- A stoker at a restart (R434). -/
def Stoker.restarted (x : Stoker) : Stoker := { x with running := true, queues := x.queues.map (fun e => (e.1, e.2.restart)) }

/-- What kv.bind does once its entry is a parcel's and its release has performed (R413, R433, R434). -/
def bindRest (d : RegNo) (c : Ctx) (is : Iss) (s : State) : Res State :=
  match s.stokerOf is.c.team with
  | some (k, x) =>
    if s.stokerRuns k x then s.pendS is .ec d (BitVec.ofNat 64 (kvStatus Ks.busy (k % 4)))
    else (((s.keepRecord (stokerAgent k)).mapStoker k Stoker.restarted).setCtx (stokerAgent k) c).pendS is .ec d (BitVec.ofNat 64 (kvStatus Ks.ok (k % 4)))
  | none =>
    match (List.range 4).find? (fun i => (s.stokers.find (4 * coreOf is.a + i)).isNone) with
    | none => s.pendS is .ec d (BitVec.ofNat 64 (kvStatus Ks.noneFree 0))
    | some i => ((({ s with stokers := s.stokers.put (4 * coreOf is.a + i) { team := is.c.team, running := true, queues := [] } } : State).mapTeam is.c.team
        (fun t => { t with stoker := some (4 * coreOf is.a + i) })).setCtx (stokerAgent (4 * coreOf is.a + i)) c).pendS is .ec d
          (BitVec.ofNat 64 (kvStatus Ks.ok i))

/-- The entry of a stoker: a PC has 56 bits (R74, R413). -/
def Iss.entry (is : Iss) (x0 : BitVec 32) : W64 := (is.pc + x0.signExtend 64) &&& 0x00FFFFFFFFFFFFFF

theorem exec_kvBind (h : Hdr) (d a b : RegNo) (x0 : BitVec 32) (s : State) :
    exec (.kvBind h d a b x0) s = issue .core h 16 { rd := [.s a, .s b], wr := [.s d] } s (fun is s =>
      require ((is.entry x0).toNat % 4 = 0) (is.fault Code.align (is.entry x0).toNat is.p) >>= fun _ => s.needRelease is 0 >>= fun _ =>
      bindRest d (stokerCtx is.c.team (is.s b) (is.s a) (is.entry x0)) is s) := rfl

section
variable {x0 : BitVec 32} (hr : s.ready .core h 16 { rd := [.s a, .s b], wr := [.s d] } = some is)
include hr

theorem kvBind_align (hal : (is.entry x0).toNat % 4 ≠ 0) :
    exec (.kvBind h d a b x0) s = .next (s.except is (is.fault Code.align (is.entry x0).toNat is.p)) := by
  refine (exec_kvBind h d a b x0 s).trans (issue_error hr ?_)
  rw [require_bind, if_neg (by simpa using hal)]

variable (hal : (is.entry x0).toNat % 4 = 0) (hrel : is.released s 0) (hec : is.c.ec < 63)
include hal hrel hec

theorem kvBind_answers {u : State} {v : Nat}
    (hrest : bindRest d (stokerCtx is.c.team (is.s b) (is.s a) (is.entry x0)) is s = u.pendS is .ec d (BitVec.ofNat 64 v)) :
    exec (.kvBind h d a b x0) s = .next (u.answers is d v) := by
  refine (exec_kvBind h d a b x0 s).trans (issue_answers hr hec ?_)
  rw [require_bind, if_pos (decide_eq_true hal), State.needRelease_bind hrel]
  exact hrest

theorem kvBind_busy {k : Nat} {x : Stoker} (hk : s.stokerOf is.c.team = some (k, x)) (hrun : s.stokerRuns k x = true) :
    exec (.kvBind h d a b x0) s = .next (s.answers is d (kvStatus Ks.busy (k % 4))) := by
  refine kvBind_answers hr hal hrel hec ?_
  unfold bindRest
  rw [hk]
  exact if_pos hrun

theorem kvBind_restarts {k : Nat} {x : Stoker} (hk : s.stokerOf is.c.team = some (k, x)) (hrun : s.stokerRuns k x = false) :
    exec (.kvBind h d a b x0) s = .next ((((s.keepRecord (stokerAgent k)).mapStoker k Stoker.restarted).setCtx (stokerAgent k)
      (stokerCtx is.c.team (is.s b) (is.s a) (is.entry x0))).answers is d (kvStatus Ks.ok (k % 4))) := by
  refine kvBind_answers hr hal hrel hec ?_
  unfold bindRest
  rw [hk]
  exact if_neg (by rw [hrun]; exact Bool.false_ne_true)

theorem kvBind_noneFree (hk : s.stokerOf is.c.team = none)
    (hfree : (List.range 4).find? (fun i => (s.stokers.find (4 * coreOf is.a + i)).isNone) = none) :
    exec (.kvBind h d a b x0) s = .next (s.answers is d (kvStatus Ks.noneFree 0)) := by
  refine kvBind_answers hr hal hrel hec ?_
  unfold bindRest
  rw [hk, hfree]

theorem kvBind_binds {i : Nat} {tm : Team} (hk : s.stokerOf is.c.team = none) (ht : s.teams.find is.c.team = some tm)
    (hfree : (List.range 4).find? (fun i => (s.stokers.find (4 * coreOf is.a + i)).isNone) = some i) :
    ∃ t, exec (.kvBind h d a b x0) s = .next t ∧
      t.stokers.find (4 * coreOf is.a + i) = some { team := is.c.team, running := true, queues := [] } ∧
      t.teams.find is.c.team = some { tm with stoker := some (4 * coreOf is.a + i) } ∧
      t.ctx? (stokerAgent (4 * coreOf is.a + i)) = some (stokerCtx is.c.team (is.s b) (is.s a) (is.entry x0)) ∧ t.mem = s.mem ∧
      ∃ w, t.ctx? is.a = some w ∧ w.ec = is.c.ec + 1 ∧
        w.pend = is.c.pend ++ [{ Pend.blank s.uid .ec is with writes := knownS d (BitVec.ofNat 64 (kvStatus Ks.ok i)) }] ∧
        w.rec? is.fid = some { is.fr with pc := is.next } ∧ SameS is.c w [] := by
  let k := 4 * coreOf is.a + i
  let c := stokerCtx is.c.team (is.s b) (is.s a) (is.entry x0)
  let m : State := { s with
    stokers := s.stokers.put k { team := is.c.team, running := true, queues := [] }
    teams := s.teams.put is.c.team { tm with stoker := some k } }
  let u := m.setCtx (stokerAgent k) c
  have hm : ({ s with stokers := s.stokers.put k { team := is.c.team, running := true, queues := [] } } : State).mapTeam is.c.team
      (fun t => { t with stoker := some k }) = m := by
    unfold State.mapTeam
    simp only [ht, m]
  have hkey : ctxKey (stokerAgent k) ≠ ctxKey is.a := by
    have hi := List.mem_range.mp (List.mem_of_find?_eq_some hfree)
    exact stokerAgent_key_ne (State.ready_no_stoker hr rfl) hi
  have hctx : u.ctx? is.a = some is.c := (State.ctx?_setCtx_ne m _ _ c hkey.symm).trans (State.ready_ctx hr :)
  obtain ⟨-, -, -, hfr, -, -, -, -, -⟩ := State.iss?_view (State.ready_view hr).1
  let p := is.result u.uid .ec (knownS d (BitVec.ofNat 64 (kvStatus Ks.ok i))) [] none
  obtain ⟨g, hc⟩ := State.enter_ctx hctx p
  have hrest : ((u.enter is p).retire is).rest = ({ u with uid := u.uid + 1 } : State).rest := (State.retire_rest _ _).trans (State.enter_rest hctx p)
  have hst : ((u.enter is p).retire is).stokers = m.stokers := (congrArg State.stokers hrest :)
  have hteams : ((u.enter is p).retire is).teams = m.teams := (congrArg State.teams hrest :)
  refine ⟨(u.enter is p).retire is, kvBind_answers hr hal hrel hec ?_, ?_, ?_, ?_, (congrArg State.mem hrest :), _, State.ctx?_retire hc,
    (Ctx.ctr_moved _ is .ec).trans (Ctx.ctr_entering _ p rfl Ctr.noConfusion), (Ctx.moved_pend _ is).trans (Ctx.entering_pend _ p),
    Ctx.moved_rec (Ctx.entering_split _ _) hfr, Ctx.sameS_moved is (Ctx.entering_s _ _)⟩
  · unfold bindRest
    rw [hk, hfree]
    dsimp only
    rw [hm]
  · rw [hst]
    exact AMap.find_put_same _ _ _
  · rw [hteams]
    exact AMap.find_put_same _ _ _
  · rw [State.ctx?_retire_ne _ _ _ hkey, State.enter_others hctx p _ hkey]
    exact State.ctx?_setCtx_same _ _ _

end

/-! ## kv.bind.sub=unbind and kv.push -/

theorem kvUnbind_answers (hr : s.ready .core h 16 { rd := [], wr := [.s d] } = some is) (hec : is.c.ec < 63) :
    (s.stokerOf is.c.team = none → exec (.kvUnbind h d) s = .next (s.answers is d (kvStatus Ks.empty 0))) ∧
    (∀ k x, s.stokerOf is.c.team = some (k, x) → exec (.kvUnbind h d) s = .next
      (((s.poppers is.c.team none).foldl (fun s e => s.endPop e.1 e.2.1 (BitVec.allOnes 64)) (s.freeStoker is.c.team)).answers is d
        (kvStatus Ks.ok (k % 4)))) := by
  refine ⟨fun hk => ?_, fun k x hk => ?_⟩
  · show execKvUnbind h d s = _
    unfold execKvUnbind
    refine issue_answers hr hec ?_
    dsimp only
    rw [hk]
  · show execKvUnbind h d s = _
    unfold execKvUnbind
    refine issue_answers hr hec ?_
    dsimp only
    rw [hk]

theorem exec_kvPush (h : Hdr) (a b : RegNo) (s : State) :
    exec (.kvPush h a b) s = issue .coreAll h 8 { rd := [.s b], wr := [] } s (fun is s =>
      require (isStoker is.a) (is.fault0 Code.stoker) >>= fun _ => is.stoker s >>= fun y =>
      require ((y.2.queue a.toNat).ents.length < 32) .stall >>= fun _ => s.needRelease is 0 >>= fun _ =>
      pure (s.mapStoker y.1 (fun x => x.setQueue a.toNat { y.2.queue a.toNat with
        ents := (y.2.queue a.toNat).ents ++ [((y.2.queue a.toNat).next.toNat, is.s b, .offered)], next := (y.2.queue a.toNat).next + 1 }))) := rfl

section
variable (hr : s.ready .coreAll h 8 { rd := [.s b], wr := [] } = some is)
include hr

theorem kvPush_wave (hst : isStoker is.a = false) : exec (.kvPush h a b) s = .next (s.except is (is.fault0 Code.stoker)) := by
  refine (exec_kvPush h a b s).trans (issue_error hr ?_)
  rw [require_bind, if_neg (by rw [hst]; exact Bool.false_ne_true)]

variable (hst : isStoker is.a = true) {k : Nat} {x : Stoker} (hk : s.stokerOf is.c.team = some (k, x))
include hst hk

theorem kvPush_full (hfull : 32 ≤ (x.queue a.toNat).ents.length) : exec (.kvPush h a b) s = .next s := by
  refine (exec_kvPush h a b s).trans (issue_error (e := .stall) hr ?_)
  rw [require_bind, if_pos hst, Iss.stoker_bind hk, require_bind, if_neg (by simpa using hfull)]

theorem kvPush_offers (hroom : (x.queue a.toNat).ents.length < 32) (hrel : is.released s 0) :
    ∃ t c y, exec (.kvPush h a b) s = .next t ∧ MovesOn s t is c ∧ t.stokers.find k = some y ∧
      (y.queue a.toNat).ents = (x.queue a.toNat).ents ++ [((x.queue a.toNat).next.toNat, is.s b, .offered)] ∧
      (y.queue a.toNat).next = (x.queue a.toNat).next + 1 ∧ (∀ n, n ≠ a.toNat → y.queue n = x.queue n) ∧
      SameS is.c c [] ∧ t.mem = s.mem ∧ t.teams = s.teams := by
  obtain ⟨t, c, hx, hm, hfind, hs, hmem, hteams, -⟩ := issue_stoker (exec_kvPush h a b s) hr (State.stokerOf_spec hk) (f := fun x' => x'.setQueue a.toNat { x.queue a.toNat with
      ents := (x.queue a.toNat).ents ++ [((x.queue a.toNat).next.toNat, is.s b, .offered)], next := (x.queue a.toNat).next + 1 })
    (by rw [require_bind, if_pos hst, Iss.stoker_bind hk, require_bind, if_pos (decide_eq_true hroom), State.needRelease_bind hrel]; rfl)
  exact ⟨t, c, _, hx, hm, hfind, by rw [Stoker.queue_setQueue_same], by rw [Stoker.queue_setQueue_same], fun n hn => Stoker.queue_setQueue_ne _ _ hn,
    hs, hmem, hteams⟩

end

/-! ## kv.push.sub=end and .sub=stop -/

theorem State.stopWave_stokers (s : State) (a : Agent) (st : Stop) : (s.stopWave a st).stokers = s.stokers := by
  unfold State.stopWave
  dsimp only
  rw [State.mapCtx_stokers]
  split
  · exact State.mapTeam_stokers _ _ _
  · rfl

theorem exec_kvPushEnd (h : Hdr) (a : RegNo) (s : State) :
    exec (.kvPushEnd h a) s = issue .coreAll h 8 { rd := [], wr := [] } s (fun is s =>
      require (isStoker is.a) (is.fault0 Code.stoker) >>= fun _ => is.stoker s >>= fun y => s.needRelease is 0 >>= fun _ =>
      pure ((s.mapStoker y.1 (fun x => x.setQueue a.toNat { x.queue a.toNat with fin := true })).wakeEnd is.c.team a.toNat)) := rfl

section
variable (hr : s.ready .coreAll h 8 { rd := [], wr := [] } = some is) (hst : isStoker is.a = true) {k : Nat} {x : Stoker}
  (hk : s.stokerOf is.c.team = some (k, x))
include hr hst hk

theorem kvPushEnd_wakes (hrel : is.released s 0) :
    exec (.kvPushEnd h a) s = .next (((s.mapStoker k (fun y => y.setQueue a.toNat { y.queue a.toNat with fin := true })).wakeEnd is.c.team
      a.toNat).retire is) := by
  refine (exec_kvPushEnd h a s).trans (issue_ready hr ?_)
  rw [require_bind, if_pos hst, Iss.stoker_bind hk, State.needRelease_bind hrel]
  rfl

theorem kvPushEnd_marks (hrel : is.released s 0) (hpop : s.poppers is.c.team (some a.toNat) = []) :
    ∃ t c y, exec (.kvPushEnd h a) s = .next t ∧ MovesOn s t is c ∧ t.stokers.find k = some y ∧ (y.queue a.toNat).fin = true ∧
      (y.queue a.toNat).ents = (x.queue a.toNat).ents ∧ SameS is.c c [] ∧ t.mem = s.mem ∧ t.teams = s.teams := by
  let f : Stoker → Stoker := fun y => y.setQueue a.toNat { y.queue a.toNat with fin := true }
  have hwake : (s.mapStoker k f).wakeEnd is.c.team a.toNat = s.mapStoker k f := by
    have hpop' : (s.mapStoker k f).poppers is.c.team (some a.toNat) = [] := by
      rw [State.mapStoker_eq (State.stokerOf_spec hk)]
      exact hpop
    unfold State.wakeEnd
    simp only [hpop', List.foldl_nil]
  obtain ⟨t, c, hx, hm, hfind, hs, hmem, hteams, -⟩ := issue_stoker (exec_kvPushEnd h a s) hr (State.stokerOf_spec hk) (f := f) (by
    rw [require_bind, if_pos hst, Iss.stoker_bind hk, State.needRelease_bind hrel]
    exact congrArg Except.ok hwake)
  exact ⟨t, c, _, hx, hm, hfind, by rw [Stoker.queue_setQueue_same], by rw [Stoker.queue_setQueue_same], hs, hmem, hteams⟩

theorem kvPushStop_stops :
    ∃ t c st, exec (.kvPushStop h) s = .next t ∧ t.ctx? is.a = some c ∧ c.stop = some st ∧ st.silent = true ∧ st.posted = true ∧
      SameS is.c c [] ∧ t.mem = s.mem ∧ t.stokers.find k = some { x with running := false } := by
  have hu := State.mapStoker_eq (State.stokerOf_spec hk) (fun x => { x with running := false })
  generalize hv : s.mapStoker k (fun x => { x with running := false }) = v at hu
  let st : Stop := { code := 0, prec := true, addr := 0, mask := is.fr.mask, pc := is.pc, meld := false, posted := true, silent := true }
  have hctx : v.ctx? is.a = some is.c := by
    rw [hu]
    exact (State.ready_ctx hr :)
  have hc := State.ctx?_stopWave st hctx
  refine ⟨(v.stopWave is.a st).retire is, _, st, ?_, State.ctx?_retire hc, Ctx.moved_stop is (Ctx.stopped_stop _ _ _), rfl, rfl,
    Ctx.sameS_moved is (Ctx.stopped_s _ _ _), ?_, ?_⟩
  · show execKvPushStop h s = _
    unfold execKvPushStop
    refine issue_ready hr ?_
    dsimp only
    rw [require_bind, if_pos hst, Iss.stoker_bind hk, ← hv]
    rfl
  · rw [State.retire_mem]
    exact (State.outer_mem (State.stopWave_outer v is.a st)).trans (hu ▸ rfl)
  · have hstk : ((v.stopWave is.a st).retire is).stokers = (v.stopWave is.a st).stokers := (congrArg State.stokers (State.retire_rest _ _) :)
    rw [hstk, State.stopWave_stokers, hu]
    exact AMap.find_put_same _ _ _

end

/-- The last of the waiting pops of a queue whose end is set takes all ones (R420). -/
theorem wakeEnd_last {team n d no k : Nat} {b : Agent} {c : Ctx} {x : Stoker} (hpop : s.poppers team (some n) = [(b, d, no)])
    (hc : s.ctx? b = some c) (hpark : c.park = .pop n d no) (hteam : c.team = team) (hstop : c.stop = none) (hk : s.stokerOf team = some (k, x))
    (hoff : (x.queue n).offered? = none) (hfin : (x.queue n).fin = true) : s.wakeEnd team n = s.endPop b d (BitVec.allOnes 64) := by
  have hserve : s.servePop b = some (s.endPop b d (BitVec.allOnes 64)) := by
    unfold State.servePop
    simp [hc, hpark, hteam, hk, hstop, hpop, hoff, hfin]
  unfold State.wakeEnd
  rw [hpop]
  simp [hserve]

/-! ## kv.pop -/

/-- What kv.pop does with its queue (R417, R420). -/
def popBody (d a : RegNo) (is : Iss) (s : State) : Res State :=
  is.stoker s >>= fun y => is.room .ec >>= fun _ =>
    if !(s.poppers is.c.team (some a.toNat)).isEmpty then pure (({ s with uid := s.uid + 1 } : State).parkAgent is (.pop a.toNat d.toNat s.uid))
    else
      match (y.2.queue a.toNat).offered? with
      | some e => (s.mapStoker y.1 (fun x => x.setQueue a.toNat ((y.2.queue a.toNat).setOwner e.1 (.wave is.a)))).pendS is .ec d e.2.1 >>= fun s =>
          pure (s.advance is)
      | none => if (y.2.queue a.toNat).fin then s.pendS is .ec d (BitVec.allOnes 64) >>= fun s => pure (s.advance is)
          else pure (({ s with uid := s.uid + 1 } : State).parkAgent is (.pop a.toNat d.toNat s.uid))

theorem exec_kvPop (h : Hdr) (d a : RegNo) (s : State) :
    exec (.kvPop h d a) s = issueRaw .core h 8 { rd := [], wr := [.s d] } s (popBody d a) := rfl

section
variable (hr : s.ready .core h 8 { rd := [], wr := [.s d] } = some is) {k : Nat} {x : Stoker} (hk : s.stokerOf is.c.team = some (k, x))
  (hec : is.c.ec < 63)
include hr hk hec

theorem kvPop_takes {e : Nat × W64 × Owner} (hpop : s.poppers is.c.team (some a.toNat) = []) (hoff : (x.queue a.toNat).offered? = some e) :
    exec (.kvPop h d a) s = .next
      ((s.mapStoker k (fun y => y.setQueue a.toNat ((x.queue a.toNat).setOwner e.1 (.wave is.a)))).answers is d e.2.1.toNat) := by
  let u := s.mapStoker k (fun y => y.setQueue a.toNat ((x.queue a.toNat).setOwner e.1 (.wave is.a)))
  have hpend : u.pendS is .ec d e.2.1 = .ok (u.enter is (is.result u.uid .ec (knownS d (BitVec.ofNat 64 e.2.1.toNat)) [] none)) := by
    rw [BitVec.ofNat_toNat, BitVec.setWidth_eq]
    exact State.pendS_ok d _ hec
  refine (exec_kvPop h d a s).trans (issueRaw_ready hr ?_)
  unfold popBody
  rw [Iss.stoker_bind hk, Iss.room_bind (c := .ec) hec, hpop]
  dsimp only [List.isEmpty]
  rw [if_neg (c := (!true) = true) Bool.false_ne_true, hoff]
  dsimp only
  rw [hpend]
  rfl

theorem kvPop_ends (hpop : s.poppers is.c.team (some a.toNat) = []) (hoff : (x.queue a.toNat).offered? = none)
    (hfin : (x.queue a.toNat).fin = true) : exec (.kvPop h d a) s = .next (s.answers is d (2 ^ 64 - 1)) := by
  have hpend := State.pendS_ok (s := s) d (BitVec.allOnes 64) hec
  refine (exec_kvPop h d a s).trans (issueRaw_ready hr ?_)
  unfold popBody
  rw [Iss.stoker_bind hk, Iss.room_bind (c := .ec) hec, hpop]
  dsimp only [List.isEmpty]
  rw [if_neg (c := (!true) = true) Bool.false_ne_true, hoff]
  dsimp only
  rw [if_pos hfin, hpend]
  rfl

theorem kvPop_waits (hwait : s.poppers is.c.team (some a.toNat) ≠ [] ∨ ((x.queue a.toNat).offered? = none ∧ (x.queue a.toNat).fin = false)) :
    ∃ t c, exec (.kvPop h d a) s = .next t ∧ t.ctx? is.a = some c ∧ c.park = .pop a.toNat d.toNat s.uid ∧
      c.rec? is.fid = some is.fr ∧ SameS is.c c [] ∧ t.stokers = s.stokers ∧ t.mem = s.mem := by
  obtain ⟨-, -, -, hfr, -, -, -, -, -⟩ := State.iss?_view (State.ready_view hr).1
  let u : State := { s with uid := s.uid + 1 }
  have hctx : u.ctx? is.a = some is.c := State.ready_ctx hr
  have hbody : popBody d a is s = .ok (u.parkAgent is (.pop a.toNat d.toNat s.uid)) := by
    unfold popBody
    rw [Iss.stoker_bind hk, Iss.room_bind (c := .ec) hec]
    cases hp : s.poppers is.c.team (some a.toNat) with
    | cons e l => rfl
    | nil =>
      obtain ⟨hoff, hfin⟩ := hwait.resolve_left fun hne => hne hp
      dsimp only [List.isEmpty]
      rw [if_neg (c := (!true) = true) Bool.false_ne_true, hoff]
      dsimp only
      rw [if_neg (by rw [hfin]; exact Bool.false_ne_true)]
      rfl
  have hrest : ((u.parkAgent is (.pop a.toNat d.toNat s.uid)).afterIssue is).rest = u.rest :=
    (State.afterIssue_rest _ _).trans (State.parkAgent_rest _ _ _)
  exact ⟨_, _, (exec_kvPop h d a s).trans (issueRaw_ready hr hbody), State.ctx?_afterIssue (State.ctx?_parkAgent _ hctx), Ctx.issued_park _ _,
    (Ctx.issued_rec _ _ _).trans hfr, Ctx.sameS_issued is rfl, (congrArg State.stokers hrest :), (congrArg State.mem hrest :)⟩

end

/-! ## kv.ack and kv.cur -/

theorem exec_kvAck (h : Hdr) (a : RegNo) (s : State) :
    exec (.kvAck h a) s = issue .core h 8 { rd := [], wr := [] } s (fun is s => is.stoker s >>= fun y =>
      match (y.2.queue a.toNat).owned? is.a with
      | none => pure s
      | some e => pure (s.mapStoker y.1 (fun x => x.setQueue a.toNat ((y.2.queue a.toNat).unbind e.1 true)))) := rfl

theorem kvAck_acks (hr : s.ready .core h 8 { rd := [], wr := [] } = some is) {k : Nat} {x : Stoker} (hk : s.stokerOf is.c.team = some (k, x)) :
    ((x.queue a.toNat).owned? is.a = none → exec (.kvAck h a) s = .next (s.retire is)) ∧
    (∀ e, (x.queue a.toNat).owned? is.a = some e →
      ∃ t c y, exec (.kvAck h a) s = .next t ∧ MovesOn s t is c ∧ t.stokers.find k = some y ∧
        (y.queue a.toNat).ents = (x.queue a.toNat).ents.filter (·.1 ≠ e.1) ∧ SameS is.c c [] ∧ t.mem = s.mem) := by
  refine ⟨fun hown => (exec_kvAck h a s).trans (issue_ready hr ?_), fun e hown => ?_⟩
  · rw [Iss.stoker_bind hk, hown]
    rfl
  · obtain ⟨t, c, hx, hm, hfind, hs, hmem, -, -⟩ := issue_stoker (exec_kvAck h a s) hr (State.stokerOf_spec hk)
      (f := fun y => y.setQueue a.toNat ((x.queue a.toNat).unbind e.1 true)) (by rw [Iss.stoker_bind hk]; dsimp only; rw [hown]; rfl)
    exact ⟨t, c, _, hx, hm, hfind, by rw [Stoker.queue_setQueue_same]; rfl, hs, hmem⟩

theorem exec_kvAckFut (h : Hdr) (a b : RegNo) (s : State) :
    exec (.kvAckFut h a b) s = issue .core h 8 { rd := [.h b], wr := [] } s (fun is s => is.stoker s >>= fun y =>
      require ((is.pendingTag b.toNat).isSome || handleStatus (is.s b) ≠ Status.pending) (is.fault Code.handle 0 is.p) >>= fun _ =>
      match (y.2.queue a.toNat).owned? is.a with
      | none => pure s
      | some e =>
        match is.pendingTag b.toNat with
        | none => pure (s.mapStoker y.1 (fun x => x.setQueue a.toNat ((y.2.queue a.toNat).unbind e.1 (handleStatus (is.s b) == Status.done))))
        | some t =>
          match (s.quad t.quad).futs.find t.slot with
          | none => pure (s.mapStoker y.1 (fun x => x.setQueue a.toNat ((y.2.queue a.toNat).unbind e.1 false)))
          | some f => pure ((s.mapQuad t.quad (fun z => { z with
              futs := z.futs.put t.slot ({ f with acks := f.acks ++ [(stokerAgent y.1, a.toNat, e.1)] }) })).mapStoker y.1
                (fun x => x.setQueue a.toNat ((y.2.queue a.toNat).setOwner e.1 (.fut t.quad t.slot))))) := rfl

section
variable (hr : s.ready .core h 8 { rd := [.h b], wr := [] } = some is) {k : Nat} {x : Stoker} (hk : s.stokerOf is.c.team = some (k, x))
include hr hk

theorem kvAckFut_handle (hg : is.c.tags.find b.toNat = none) (hst : handleStatus (is.s b) = Status.pending) :
    exec (.kvAckFut h a b) s = .next (s.except is (is.fault Code.handle 0 is.p)) := by
  refine (exec_kvAckFut h a b s).trans (issue_error hr ?_)
  rw [Iss.stoker_bind hk, Iss.pendingTag_none (.inl hg), require_bind]
  exact if_neg (by simpa using hst)

theorem kvAckFut_resolved {e : Nat × W64 × Owner} (hg : is.c.tags.find b.toNat = none) (hst : handleStatus (is.s b) ≠ Status.pending)
    (hown : (x.queue a.toNat).owned? is.a = some e) :
    exec (.kvAckFut h a b) s = .next ((s.mapStoker k (fun y => y.setQueue a.toNat
      ((y.queue a.toNat).unbind e.1 (handleStatus (is.s b) == Status.done)))).retire is) := by
  refine (exec_kvAckFut h a b s).trans (issue_ready hr ?_)
  rw [Iss.stoker_bind hk, Iss.pendingTag_none (.inl hg), require_bind, if_pos (by simpa using hst)]
  dsimp only
  rw [hown, State.mapStoker_eq (State.stokerOf_spec hk)]
  dsimp only
  rw [State.mapStoker_eq (State.stokerOf_spec hk)]
  rfl

theorem kvAckFut_binds {e : Nat × W64 × Owner} {g : Tag} {f : Fut} (hg : is.c.tags.find b.toNat = some g) (hres : g.resolved = false)
    (hf : (s.quad g.quad).futs.find g.slot = some f) (hown : (x.queue a.toNat).owned? is.a = some e) :
    ∃ t c y u, exec (.kvAckFut h a b) s = .next t ∧ MovesOn s t is c ∧ t.stokers.find k = some y ∧
      y.queue a.toNat = (x.queue a.toNat).setOwner e.1 (.fut g.quad g.slot) ∧ (t.quad g.quad).futs.find g.slot = some u ∧
      u.acks = f.acks ++ [(stokerAgent k, a.toNat, e.1)] ∧ SameS is.c c [] ∧ t.mem = s.mem := by
  let u : Fut := { f with acks := f.acks ++ [(stokerAgent k, a.toNat, e.1)] }
  let v := s.mapQuad g.quad (fun z => { z with futs := z.futs.put g.slot u })
  let m : Stoker → Stoker := fun y => y.setQueue a.toNat ((x.queue a.toNat).setOwner e.1 (.fut g.quad g.slot))
  have hst : v.stokers.find k = some x := State.stokerOf_spec hk
  have hw := State.mapStoker_eq hst m
  have hctx : (v.mapStoker k m).ctx? is.a = some is.c := by
    rw [hw]
    exact (State.ready_ctx hr :)
  have hrest : ((v.mapStoker k m).retire is).stokers = (v.mapStoker k m).stokers := (congrArg State.stokers (State.retire_rest _ _) :)
  refine ⟨(v.mapStoker k m).retire is, is.c.moved is, m x, u, (exec_kvAckFut h a b s).trans (issue_ready hr ?_),
    movesOn hr hctx rfl fun b hb => by rw [hw]; rfl, ?_, Stoker.queue_setQueue_same _ _ _, ?_, rfl, Ctx.sameS_moved is rfl, ?_⟩
  · rw [Iss.stoker_bind hk, Iss.pendingTag_some hg hres, require_bind]
    dsimp only
    rw [if_pos (c := ((some g).isSome || decide (handleStatus (is.s b) ≠ Status.pending)) = true) rfl, hown]
    dsimp only
    rw [hf]
    rfl
  · rw [hrest, hw]
    exact AMap.find_put_same _ _ _
  · have hquads : (v.mapStoker k m).quads = v.quads := by rw [hw]
    rw [State.quad_congr ((State.retire_quads _ _).trans hquads), State.quad_mapQuad]
    exact AMap.find_put_same _ _ _
  · rw [State.retire_mem, hw]
    rfl

end

theorem kvCur_answers (hr : s.ready .coreAll h 8 { rd := [], wr := [.s d] } = some is) :
    (s.stokerOf is.c.team = none → exec (.kvCur h d a) s = .next (s.except is (is.fault Code.handle 0 is.p))) ∧
    (∀ k x, s.stokerOf is.c.team = some (k, x) → is.c.ec < 63 → exec (.kvCur h d a) s = .next (s.answers is d
      (2 ^ 32 * (x.queue a.toNat).next.toNat + (x.queue a.toNat).cursor % 2 ^ 32))) := by
  refine ⟨fun hk => ?_, fun k x hk hec => ?_⟩
  · show execKvCur h d a s = _
    unfold execKvCur
    exact issue_error hr (Iss.stoker_none hk _)
  · show execKvCur h d a s = _
    unfold execKvCur
    exact issue_answers hr hec (Iss.stoker_bind hk _)

end

/-- Settles O34: what each instruction of a stoker and of its waves does with the queue that it names. -/
theorem stokers : Obligations.Stokers := by
  refine ⟨⟨?_, fun s is h d hr hec => kvUnbind_answers hr hec⟩,
    fun s is h a b hr => ⟨fun hst => kvPush_wave hr hst, fun k x hst hk hfull => kvPush_full hr hst hk hfull,
      fun k x hst hk hroom hrel => kvPush_offers hr hst hk hroom hrel⟩,
    fun s is h a k x hr hst hk hrel => ⟨kvPushEnd_wakes hr hst hk hrel, fun hpop => kvPushEnd_marks hr hst hk hrel hpop⟩,
    fun s team n d no k b c x hpop hc hpark hteam hstop hk hoff hfin => wakeEnd_last hpop hc hpark hteam hstop hk hoff hfin,
    fun s is h k x hr hst hk => kvPushStop_stops hr hst hk, ?_, fun s is h a k x hr hk => kvAck_acks hr hk,
    fun s is h a b k x hr hk => ⟨fun hg hst => kvAckFut_handle hr hk hg hst, fun e hg hst hown => kvAckFut_resolved hr hk hg hst hown,
      fun e g f hg hres hf hown => kvAckFut_binds hr hk hg hres hf hown⟩, fun s is h d a hr => kvCur_answers hr⟩
  · intro s is h d a b x0 hr entry core c
    exact ⟨fun hal => kvBind_align hr hal, fun hal hrel hec => ⟨fun k x hk hrun => kvBind_busy hr hal hrel hec hk hrun,
      fun k x hk hrun => kvBind_restarts hr hal hrel hec hk hrun, fun hk hfree => kvBind_noneFree hr hal hrel hec hk hfree,
      fun i tm hk ht hfree => kvBind_binds hr hal hrel hec hk ht hfree⟩⟩
  · intro s is h d a k x hr hk hec q
    exact ⟨fun e hpop hoff => kvPop_takes hr hk hec hpop hoff, fun hpop hoff hfin => kvPop_ends hr hk hec hpop hoff hfin,
      fun hwait => kvPop_waits hr hk hec hwait⟩

end Sys2Proof.Machine

/-! SUPPORT. A kv.find that stands as a write-back of a software-managed line beside a copy of that line on its die. -/

namespace Sys2Proof.Machine

open Sys2Proof.Tests

/-- A kv.find of core 64, on die 1, for the pool of die 0, marked as one that its die's copy takes. -/
def findAsCopy : Req := { rq (.kvfind 7 62) pool 64 with core := 64, copy := true }
/-- The copy of its line on die 1. -/
def copyOfFind : LlcLine :=
  { die := 1, part := 0, line := lineNo pool, gen := 0, home := false, dirty := 0, data := 0, hits := 0, hot := false, poison := false, last := none }
/-- The pool and the one entry of its prefixes, with the request and the copy. -/
def findBeside : State := { kv0 [pre0 1] with reqs := [findAsCopy], llc := [copyOfFind] }

/-- The request acts, past every check that O35 names for a KV step. -/
def findActs : Bool :=
  findBeside.reqs.find? (fun x => x.id = 30) == some findAsCopy && findBeside.mayAct findAsCopy && !findBeside.staleGen 0 pool 0 &&
    !findBeside.draining findAsCopy && !findBeside.absent 30

theorem findActs_eq : findActs = true := by decide +kernel

/-- The prefixes of die 0 after the step. -/
def prefixesAfter : Host.Outcome State Fault Refusal → Option (List Prefix)
  | .next t => some (t.die 0).prefixes
  | _ => none

/-- The KV step as O35 writes it. -/
def findDone : Option State :=
  (findBeside.linkFor findAsCopy (findBeside.unitOf 0 pool)).bind fun s1 =>
    match (s1.kvRun (findBeside.unitOf 0 pool % 32) findAsCopy).run [] with
    | .error _ => none
    | .ok (k, ls) => (s1.kvReach findAsCopy (findBeside.unitOf 0 pool) ls).map
        (fun s2 => (s2.kvDone (findBeside.unitOf 0 pool % 32) findAsCopy k).rangesGo)

theorem findDone_counts : has findDone (fun t => (t.die 0).prefixes == [pre0 2]) = true := by decide +kernel
theorem findBeside_countsNot : prefixesAfter (exec (.homeSliceOperation 30) findBeside) = some [pre0 1] := by decide +kernel

/-- Refutes O35: the home-slice clause does not ask that no copy of the line stands on the die of the request's core; where one does and the
request goes there, the step merges with the copy and drops the request, and the entry is not counted. -/
theorem not_kvInstructions : ¬ Obligations.KvInstructions := by
  rintro ⟨⟨-, -, -, -, -, -, -⟩, hhome, -, -, -⟩
  have hacts := findActs_eq
  simp only [findActs, Bool.and_eq_true, Bool.not_eq_true', beq_iff_eq] at hacts
  obtain ⟨⟨⟨⟨hreq, hact⟩, hgen⟩, hdrain⟩, habs⟩ := hacts
  have hcount := findDone_counts
  unfold findDone at hcount
  cases hl : findBeside.linkFor findAsCopy (findBeside.unitOf 0 pool) with
  | none => rw [hl] at hcount; exact absurd hcount Bool.false_ne_true
  | some s1 =>
    rw [hl] at hcount
    simp only [Option.bind_some] at hcount
    cases hk : (s1.kvRun (findBeside.unitOf 0 pool % 32) findAsCopy).run [] with
    | error e => rw [hk] at hcount; exact absurd hcount Bool.false_ne_true
    | ok x =>
      obtain ⟨k, ls⟩ := x
      rw [hk] at hcount
      cases hr : s1.kvReach findAsCopy (findBeside.unitOf 0 pool) ls with
      | none => simp only [hr] at hcount; exact absurd hcount Bool.false_ne_true
      | some s2 =>
        simp only [hr] at hcount
        have hx := hhome findBeside s1 s2 findAsCopy k ls hreq trivial hact hgen rfl hdrain habs hl hk hr
        have hp : prefixesAfter (exec (.homeSliceOperation 30) findBeside) = some [pre0 2] :=
          (congrArg prefixesAfter hx).trans (congrArg some (eq_of_beq hcount))
        exact absurd (findBeside_countsNot.symm.trans hp) (by decide)

end Sys2Proof.Machine

/-! SUPPORT. Requests that leave for a partition's agents (R82, R130): the queue they join, and what the issuing wave keeps. -/

namespace Sys2Proof.Machine

section
variable {s t : State} (h : t.rest = s.rest)
include h

theorem State.part_of_rest (p : Nat) : t.part p = s.part p := by
  have hp : t.parts = s.parts := (congrArg State.parts h :)
  unfold State.part
  rw [hp]
theorem State.agentPart_of_rest (a : Agent) : t.agentPart a = s.agentPart a := by
  have hp : t.dieParts = s.dieParts := (congrArg State.dieParts h :)
  unfold State.agentPart State.partOf
  rw [hp]
theorem State.liveDies_of_rest (p : Nat) : t.liveDies p = s.liveDies p := by
  unfold State.liveDies
  rw [State.part_of_rest h]
end

theorem State.part_retire (s : State) (is : Iss) (p : Nat) : (s.retire is).part p = s.part p := State.part_of_rest (State.retire_rest s is) p
theorem State.retire_cores (s : State) (is : Iss) : (s.retire is).cores = s.cores := (congrArg State.cores (State.retire_rest s is) :)
theorem State.retire_parts (s : State) (is : Iss) : (s.retire is).parts = s.parts := (congrArg State.parts (State.retire_rest s is) :)

/-- The result that a request will write into sD. -/
def Iss.answerOf (is : Iss) (id : Nat) (d : RegNo) : Pend := Pend.awaiting id .ec is [.s d.toNat] []

/-- An instruction that has entered such a result moves on with it, and keeps its registers and flags. -/
theorem awaits_movesOn {s t : State} {pm : Perm} {h : Hdr} {len : Nat} {us : Uses} {is : Iss} (d : RegNo) (hr : s.ready pm h len us = some is)
    (ht : t.ctxs = (s.enter is (is.answerOf s.uid d)).ctxs) :
    ∃ c, MovesOn s (t.retire is) is c ∧ c.ec = is.c.ec + 1 ∧ c.pend = is.c.pend ++ [is.answerOf s.uid d] ∧
      SameS is.c c [] ∧ SameK is.c c [] ∧ SameV is.c c ∧ SameF is.c c := by
  have hctx : ({ s with uid := s.uid + 1 } : State).ctx? is.a = some is.c := State.ready_ctx hr
  obtain ⟨⟨g, hc⟩, -, hother⟩ := State.addPend_spec (is.answerOf s.uid d) hctx
  refine ⟨_, movesOn hr ((State.ctx?_congr ht _).trans hc) (by simp) (fun b hb => (State.ctx?_congr ht b).trans (hother b hb)), ?_, ?_,
    Ctx.sameS_moved is (by simp), Ctx.sameK_moved is (by simp), Ctx.sameV_moved is (by simp), Ctx.sameF_moved is (by simp)⟩
  · exact (Ctx.ctr_moved _ is .ec).trans (Ctx.ctr_entering _ (is.answerOf s.uid d) (k := .ec) rfl nofun)
  · simp

theorem State.enter_rest_of_uid (s : State) (is : Iss) (p : Pend) {c : Ctx} (hc : s.ctx? is.a = some c) :
    (s.enter is p).rest = ({ s with uid := s.uid + 1 } : State).rest :=
  (State.addPend_spec (s := { s with uid := s.uid + 1 }) p hc).2.1

/-- A request that takes a future: after its issue the future is the instruction's, and the machine's other parts stand as its body left them. -/
theorem request_taken {s u t : State} {pm : Perm} {h : Hdr} {len : Nat} {us : Uses} {is : Iss} {d : RegNo} {kind sc op k n : Nat} {c' : Ctx}
    (hr : s.ready pm h len us = some is) (hf : FutTaken { s with uid := n } u is d kind sc op k is.c c') (hq : t.quads = u.quads)
    (hc : t.ctxs = u.ctxs) : Taken s (t.retire is) is d kind k :=
  taken_of_futTaken (s' := { s with uid := n }) hr (.refl hr) rfl rfl hf (congrArg Quad.futs (State.quad_congr hq _))
    (congrArg Quad.seq (State.quad_congr hq _)) (fun b => State.ctx?_congr hc b)

/-! ## c.anew, c.seal and c.drop -/

/-- The request of a c.anew (R82). -/
def anewReq (is : Iss) (id : Nat) (a : RegNo) (quota : BitVec 9) (zf swm : Bool) (typ : BitVec 2) : MasterReq :=
  { id := id, agent := is.a, op := mAnew, aid := bits (is.s a).toNat 0 12, arg := bits (is.s a).toNat 16 12
    x1 := 16 * quota.toNat + 8 * b2n zf + 4 * b2n swm + typ.toNat, pend := id, fut := none }

/-- A request in the master's queue. -/
def Part.askMaster (p : Part) (m : MasterReq) : Part := { p with masterQ := p.masterQ ++ [m] }

theorem exec_cAnew (h : Hdr) (d a : RegNo) (quota : BitVec 9) (zf swm : Bool) (typ : BitVec 2) (s : State) :
    exec (.cAnew h d a quota zf swm typ) s = issue .wave h 16 { rd := [.s a], wr := [.s d] } s (fun is s => is.room .ec >>= fun _ =>
      pure ((s.enter is (is.answerOf s.uid d)).mapPart ((s.enter is (is.answerOf s.uid d)).agentPart is.a)
        (fun p => p.askMaster (anewReq is s.uid a quota zf swm typ)))) := rfl

theorem cAnew_asks (s : State) (is : Iss) (h : Hdr) (d a : RegNo) (quota : BitVec 9) (zf swm : Bool) (typ : BitVec 2)
    (hr : s.ready .wave h 16 { rd := [.s a], wr := [.s d] } = some is) (hec : is.c.ec < 63) :
    ∃ t c, exec (.cAnew h d a quota zf swm typ) s = .next t ∧ MovesOn s t is c ∧ c.ec = is.c.ec + 1 ∧
      c.pend = is.c.pend ++ [is.answerOf s.uid d] ∧
      t.part (s.agentPart is.a) = (s.part (s.agentPart is.a)).askMaster (anewReq is s.uid a quota zf swm typ) ∧ SameS is.c c [] ∧ SameK is.c c [] ∧
      SameV is.c c ∧ SameF is.c c ∧ t.mem = s.mem ∧ t.cores = s.cores := by
  have hrest := State.enter_rest_of_uid s is (is.answerOf s.uid d) (State.ready_ctx hr)
  generalize hv : s.enter is (is.answerOf s.uid d) = v at hrest
  have hpart (p : Nat) : v.part p = s.part p := State.part_of_rest hrest p
  have hap : v.agentPart is.a = s.agentPart is.a := State.agentPart_of_rest hrest is.a
  obtain ⟨c, hmoves, hcec, hpend, hs, hk, hvv, hf⟩ := awaits_movesOn d hr (t := v.mapPart (v.agentPart is.a)
    (fun p => p.askMaster (anewReq is s.uid a quota zf swm typ))) (congrArg State.ctxs hv.symm :)
  refine ⟨_, c, (exec_cAnew h d a quota zf swm typ s).trans (issue_ready hr (Iss.room_bind (c := .ec) hec _)), ?_⟩
  rw [hv]
  refine ⟨hmoves, hcec, hpend, ?_, hs, hk, hvv, hf, (State.retire_mem _ _).trans (congrArg State.mem hrest :),
    (State.retire_cores _ _).trans (congrArg State.cores hrest :)⟩
  rw [State.part_retire, ← hap, State.part_mapPart, hpart]

/-- Operation codes of c.seal and c.drop, and what makes an arena unfit for a seal (R85). -/
def dropOp (drop : Bool) : Nat := if drop then mDrop else mSeal
def sealBad (drop : Bool) (t : Attr) : Bool := !drop && ((t.state == Arn.live || t.state == Arn.sealed) && (t.typ != Arn.typN || t.swm))

/-- c.seal and c.drop as one instruction. -/
def sealOrDrop (drop : Bool) (h : Hdr) (d a : RegNo) : Instr := if drop then .cDrop h d a else .cSeal h d a

theorem sealBad_iff (drop : Bool) (t : Attr) :
    sealBad drop t = true ↔ drop = false ∧ (t.state = Arn.live ∨ t.state = Arn.sealed) ∧ (t.typ ≠ Arn.typN ∨ t.swm = true) := by
  cases drop <;> simp [sealBad]

/-- The request of a c.seal or c.drop. -/
def arenaReq (is : Iss) (id : Nat) (drop : Bool) (a : RegNo) (f : Nat × Nat) : MasterReq :=
  { id := id, agent := is.a, op := dropOp drop, aid := arenaOf (is.s a).toNat, arg := 0, x1 := 0, pend := 0, fut := some f }

theorem exec_sealOrDrop (drop : Bool) (h : Hdr) (d a : RegNo) (s : State) :
    exec (sealOrDrop drop h d a) s = issue .wave h 8 { rd := [.s a], wr := [.s d] } s (fun is s =>
      require (arenaOf (is.s a).toNat ≠ 0) (is.fault Code.arenaDead (vaOf (is.s a)) is.p) >>= fun _ =>
      require (arenaOf (is.s a).toNat ≠ 1 && !sealBad drop (s.attr (coreOf is.a) (arenaOf (is.s a).toNat)))
        (is.fault Code.prot (vaOf (is.s a)) is.p) >>= fun _ =>
      ({ s with uid := s.uid + 1 } : State).takeFut is d Kind.arena 3 s.uid >>= fun x =>
      pure (x.1.mapPart (x.1.agentPart is.a) (fun p => p.askMaster (arenaReq is s.uid drop a x.2)))) := by
  cases drop <;> rfl

section
variable {s : State} {is : Iss} {h : Hdr} {d a : RegNo} {drop : Bool} (hr : s.ready .wave h 8 { rd := [.s a], wr := [.s d] } = some is)
include hr

theorem sealOrDrop_zero (h0 : arenaOf (is.s a).toNat = 0) :
    exec (sealOrDrop drop h d a) s = .next (s.except is (is.fault Code.arenaDead (vaOf (is.s a)) is.p)) := by
  rw [exec_sealOrDrop]
  exact issue_error hr (by rw [require_bind, if_neg (by simpa using h0)])

theorem sealOrDrop_prot (h1 : arenaOf (is.s a).toNat = 1 ∨
      (arenaOf (is.s a).toNat ≠ 0 ∧ sealBad drop (s.attr (coreOf is.a) (arenaOf (is.s a).toNat)) = true)) :
    exec (sealOrDrop drop h d a) s = .next (s.except is (is.fault Code.prot (vaOf (is.s a)) is.p)) := by
  have h0 : arenaOf (is.s a).toNat ≠ 0 := h1.elim (fun h => by omega) And.left
  have hbad : (decide (arenaOf (is.s a).toNat ≠ 1) && !sealBad drop (s.attr (coreOf is.a) (arenaOf (is.s a).toNat))) = false := by
    rcases h1 with h | ⟨-, h⟩
    · simp [h]
    · simp [h]
  rw [exec_sealOrDrop]
  refine issue_error hr ?_
  rw [require_bind, if_pos (by simpa using h0), require_bind, hbad]
  rfl

theorem sealOrDrop_asks (h1 : 1 < arenaOf (is.s a).toNat) (hok : sealBad drop (s.attr (coreOf is.a) (arenaOf (is.s a).toNat)) = false)
    (hroom : s.futRoom is) :
    ∃ t k, exec (sealOrDrop drop h d a) s = .next t ∧ Taken s t is d Kind.arena k ∧
      t.part (s.agentPart is.a) = (s.part (s.agentPart is.a)).askMaster (arenaReq is s.uid drop a (quadOf is.a, k)) ∧
      t.mem = s.mem ∧ t.cores = s.cores := by
  obtain ⟨hec, k, hk⟩ := State.futRoom_iff.mp hroom
  obtain ⟨u, c', hx, hf⟩ := State.takeFut_ok (s := { s with uid := s.uid + 1 }) d Kind.arena 3 s.uid (State.ready_ctx hr) hec hk
  have hpart (p : Nat) : u.part p = s.part p := State.part_of_rest hf.rest p
  have hap : u.agentPart is.a = s.agentPart is.a := State.agentPart_of_rest hf.rest is.a
  refine ⟨_, k, (exec_sealOrDrop drop h d a s).trans (issue_ready hr
    (s' := u.mapPart (u.agentPart is.a) (fun p => p.askMaster (arenaReq is s.uid drop a (quadOf is.a, k)))) ?_),
    request_taken hr hf rfl rfl, ?_, (State.retire_mem _ _).trans hf.mem, (State.retire_cores _ _).trans (congrArg State.cores hf.rest :)⟩
  · rw [require_bind, if_pos (by simp; omega), require_bind, if_pos (by simp [hok]; omega), hx]
    rfl
  · rw [State.part_retire, ← hap, State.part_mapPart, hpart]

end

/-! ## c.aq -/

/-- What the master form of c.aq answers (R91). -/
def State.arenaCount (s : State) (is : Iss) (aid : Nat) : Nat :=
  ((s.part (s.agentPart is.a)).arena aid).word + 2 ^ 40 * (s.llc.filter (fun l =>
    l.die = dieOf is.a && l.part = s.agentPart is.a && lineArena l.line = aid)).length

theorem exec_cAq (h : Hdr) (sub : BitVec 2) (d a : RegNo) (s : State) :
    exec (.cAq h sub d a) s = issue .wave h 8 { rd := [.s a], wr := [.s d] } s (fun is s =>
      if sub = 0 then pure (s.wrS is d (BitVec.ofNat 64 (s.attr (coreOf is.a) (arenaOf (is.s a).toNat)).word))
      else s.pendS is .ec d (BitVec.ofNat 64 (s.arenaCount is (arenaOf (is.s a).toNat)))) := rfl

/-- Settles O36: the request joins the master's queue with what the issue takes, after the checks in their order. -/
theorem arenaRequests : Obligations.ArenaRequests := by
  refine ⟨fun s is h d a quota zf swm typ hr hec => ?_, fun drop s is h d a hr => ?_, fun s is h sub d a hr => ⟨fun h0 => ?_, fun h0 hec => ?_⟩⟩
  · obtain ⟨t, c, hx, hm, hcec, hpend, hpart, hs, hk, hv, hf, hmem, hcores⟩ := cAnew_asks s is h d a quota zf swm typ hr hec
    refine ⟨t, c, hx, hm, hcec, hpend, ?_, (congrArg Part.arenas hpart :), hs, hk, hv, hf, hmem, hcores⟩
    rw [hpart]
    cases zf <;> cases swm <;> rfl
  · refine ⟨fun h0 => sealOrDrop_zero hr h0, fun h1 => sealOrDrop_prot hr (h1.imp_right fun h => ⟨h.1, (sealBad_iff _ _).mpr h.2⟩),
      fun h1 hok hroom => ?_⟩
    obtain ⟨t, k, hx, ht, hpart, hmem, hcores⟩ := sealOrDrop_asks (drop := drop) hr h1
      (Bool.eq_false_iff.mpr fun hb => hok ((sealBad_iff _ _).mp hb)) hroom
    exact ⟨t, k, hx, ht, (congrArg Part.masterQ hpart :), (congrArg Part.arenas hpart :), hmem, hcores⟩
  · obtain ⟨t, c, hx, hm, hs, hk, hv, hf, -, hrest, -⟩ := issue_wrS (body := fun is s =>
      if sub = 0 then pure (s.wrS is d (BitVec.ofNat 64 (s.attr (coreOf is.a) (arenaOf (is.s a).toNat)).word))
      else s.pendS is .ec d (BitVec.ofNat 64 (s.arenaCount is (arenaOf (is.s a).toNat)))) hr (if_pos h0)
    exact ⟨t, c, (exec_cAq h sub d a s).trans hx, hm, hs, hk, hv, hf, hrest⟩
  · exact (exec_cAq h sub d a s).trans (issue_answers hr hec (if_neg h0))

end Sys2Proof.Machine

/-! SUPPORT. The change tree's instructions (R127, R129 to R132). -/

namespace Sys2Proof.Machine

/-! ## Requests to the agent -/

/-- A request to the agent. -/
def treeReq (is : Iss) (id op : Nat) (a : RegNo) (y : Nat) : TreeReq :=
  { id := id, agent := is.a, op := op, x := (is.s a).toNat % 2 ^ 16, y := y, pend := id }
/-- A request in the agent's queue. -/
def Part.askTree (p : Part) (r : TreeReq) : Part := { p with treeQ := p.treeQ ++ [r] }

theorem low16 (n : Nat) : bits n 0 16 = n % 2 ^ 16 := by rw [bits_eq, Nat.pow_zero, Nat.div_one]

theorem treeOp_eq (h : Hdr) (len op : Nat) (d a : RegNo) (rd : List Use) (s : State) (y : Iss → Nat) :
    treeOp h len op d a rd s y = issue .wave h len { rd := .s a :: rd, wr := [.s d] } s (fun is s => is.room .ec >>= fun _ =>
      pure ((s.enter is (is.answerOf s.uid d)).mapPart ((s.enter is (is.answerOf s.uid d)).agentPart is.a)
        (fun p => p.askTree (treeReq is s.uid op a (y is))))) := by
  unfold treeReq
  simp only [← low16]
  rfl

/-- Every form of a request is one treeOp. -/
theorem exec_treeForm {i : Instr} {h : Hdr} {len op : Nat} {rd : List Use} {d a : RegNo} {y : Iss → Nat}
    (hi : treeForm i = some (h, len, rd, d, a, op, y)) :
    ∃ l, rd = .s a :: l ∧ ∀ s, exec i s = treeOp h len op d a l s y := by
  unfold treeForm at hi
  split at hi <;> simp only [Option.some.injEq, Prod.mk.injEq, reduceCtorEq] at hi
  case h_1 => obtain ⟨rfl, rfl, rfl, rfl, rfl, rfl, rfl⟩ := hi; exact ⟨[], rfl, fun s => rfl⟩
  case h_2 b =>
    obtain ⟨rfl, rfl, rfl, rfl, rfl, rfl, rfl⟩ := hi
    refine ⟨[.s b], rfl, fun s => ?_⟩
    simp only [← low16]
    rfl
  case h_3 => obtain ⟨rfl, rfl, rfl, rfl, rfl, rfl, rfl⟩ := hi; exact ⟨[], rfl, fun s => rfl⟩
  case h_4 => obtain ⟨rfl, rfl, rfl, rfl, rfl, rfl, rfl⟩ := hi; exact ⟨[], rfl, fun s => rfl⟩

theorem treeOp_asks {s : State} {is : Iss} {h : Hdr} {len op : Nat} {d a : RegNo} {l : List Use} (y : Iss → Nat)
    (hr : s.ready .wave h len { rd := .s a :: l, wr := [.s d] } = some is) (hec : is.c.ec < 63) :
    ∃ t c, treeOp h len op d a l s y = .next t ∧ MovesOn s t is c ∧ c.ec = is.c.ec + 1 ∧
      c.pend = is.c.pend ++ [is.answerOf s.uid d] ∧
      t.part (s.agentPart is.a) = (s.part (s.agentPart is.a)).askTree (treeReq is s.uid op a (y is)) ∧ SameS is.c c [] ∧ SameK is.c c [] ∧
      SameV is.c c ∧ SameF is.c c ∧ t.mem = s.mem := by
  have hrest := State.enter_rest_of_uid s is (is.answerOf s.uid d) (State.ready_ctx hr)
  generalize hv : s.enter is (is.answerOf s.uid d) = v at hrest
  have hpart (p : Nat) : v.part p = s.part p := State.part_of_rest hrest p
  have hap : v.agentPart is.a = s.agentPart is.a := State.agentPart_of_rest hrest is.a
  obtain ⟨c, hmoves, hcec, hpend, hs, hk, hvv, hf⟩ := awaits_movesOn d hr (t := v.mapPart (v.agentPart is.a)
    (fun p => p.askTree (treeReq is s.uid op a (y is)))) (congrArg State.ctxs hv.symm :)
  refine ⟨_, c, (treeOp_eq h len op d a l s y).trans (issue_ready hr (Iss.room_bind (c := .ec) hec _)), ?_⟩
  rw [hv]
  refine ⟨hmoves, hcec, hpend, ?_, hs, hk, hvv, hf, (State.retire_mem _ _).trans (congrArg State.mem hrest :)⟩
  rw [State.part_retire, ← hap, State.part_mapPart, hpart]

/-! ## c.settle -/

/-- The slices whose queues a settle's marker enters (R127). -/
def State.settleSlices (s : State) (part : Nat) : List Nat := (s.liveDies part).flatMap (fun e => (List.range 16).map (16 * e + ·))

/-- How it will end (R127). -/
def State.settleStatus (s : State) (is : Iss) (a : RegNo) : Nat :=
  if bits (is.s a).toNat 0 16 ≠ 65535 && (s.part (s.agentPart is.a)).hasNode (bits (is.s a).toNat 0 16) then Status.done else Status.empty

theorem State.settleStatus_eq (s : State) (is : Iss) (a : RegNo) : s.settleStatus is a =
    if (is.s a).toNat % 2 ^ 16 ≠ 65535 ∧ (s.part (s.agentPart is.a)).hasNode ((is.s a).toNat % 2 ^ 16) = true then Status.done else Status.empty := by
  unfold State.settleStatus
  rw [low16]
  exact if_congr (by simp) rfl rfl

/-- The partition with a settle and its markers. -/
def Part.settle (p : Part) (id status : Nat) (slices : List Nat) (f : Nat × Nat) : Part :=
  { p with settles := p.settles ++ [{ id := id, left := slices.length, status := status, fut := some f }]
           rolls := slices.foldl (fun m i => m.put i (((m.find i).getD []) ++ [.marker id])) p.rolls }

theorem exec_cSettle (h : Hdr) (d a : RegNo) (s : State) :
    exec (.cSettle h d a) s = issue .wave h 8 { rd := [.s a], wr := [.s d] } s (fun is s => is.memReady s >>= fun _ =>
      ({ s with uid := s.uid + 1 } : State).takeFut is d Kind.tree 3 s.uid >>= fun x =>
      pure (x.1.mapPart (s.agentPart is.a) (fun p => p.settle s.uid (s.settleStatus is a) (x.1.settleSlices (s.agentPart is.a)) x.2))) := rfl

theorem cSettle_settles {s : State} {is : Iss} {h : Hdr} {d a : RegNo} (hr : s.ready .wave h 8 { rd := [.s a], wr := [.s d] } = some is)
    (hq : is.quiet s) (hroom : s.futRoom is) :
    ∃ t k, exec (.cSettle h d a) s = .next t ∧ Taken s t is d Kind.tree k ∧ t.mem = s.mem ∧ t.part (s.agentPart is.a) =
      (s.part (s.agentPart is.a)).settle s.uid (s.settleStatus is a) (s.settleSlices (s.agentPart is.a)) (quadOf is.a, k) := by
  obtain ⟨hec, k, hk⟩ := State.futRoom_iff.mp hroom
  obtain ⟨u, c', hx, hf⟩ := State.takeFut_ok (s := { s with uid := s.uid + 1 }) d Kind.tree 3 s.uid (State.ready_ctx hr) hec hk
  have hslices : u.settleSlices (s.agentPart is.a) = s.settleSlices (s.agentPart is.a) := by
    unfold State.settleSlices
    rw [State.liveDies_of_rest hf.rest]
    rfl
  have hpart : u.part (s.agentPart is.a) = s.part (s.agentPart is.a) := State.part_of_rest hf.rest _
  refine ⟨_, k, (exec_cSettle h d a s).trans (issue_ready hr (s' := u.mapPart (s.agentPart is.a) (fun p =>
    p.settle s.uid (s.settleStatus is a) (s.settleSlices (s.agentPart is.a)) (quadOf is.a, k))) ?_), request_taken hr hf rfl rfl,
    (State.retire_mem _ _).trans hf.mem, ?_⟩
  · rw [Iss.memReady_bind hq, hx, ← hslices]
    rfl
  · rw [State.part_retire, State.part_mapPart, hpart]

theorem find_markers (id x : Nat) (l : List Nat) (hx : x ∉ l) (m : AMap (List Roll)) :
    (l.foldl (fun m i => m.put i (((m.find i).getD []) ++ [.marker id])) m).find x = m.find x := by
  induction l generalizing m with
  | nil => rfl
  | cons i l ih =>
    rw [List.mem_cons, not_or] at hx
    rw [List.foldl_cons, ih hx.2, AMap.find_put, if_neg hx.1]

/-! ## c.ctenr -/

theorem Iss.enrollRange_ok {is : Iss} {s : State} {a b : RegNo} {base k : Nat} (h : is.enrollOk s a b base k) :
    is.enrollRange s a b = .ok (base, k, is.enrollPieces s a b) := by
  obtain ⟨hva, hn0, hn, hend, rfl, hbase, hbend, hall, rfl⟩ := h
  unfold Iss.enrollRange
  dsimp only
  rw [require_bind, if_pos (by simpa [hva, hn0, hn] using hend), require_bind, if_pos (by simpa using ⟨hbase, hbend⟩), require_bind, if_pos, require_bind, if_pos]
  · rfl
  · simp only [List.all_map, List.all_eq_true, Function.comp_apply, decide_eq_true_eq]
    exact fun p hp => (hall p hp).2
  · simp only [List.all_map, List.all_eq_true, Function.comp_apply, Option.isNone_iff_eq_none]
    exact fun p hp => (hall p hp).1

/-- The nodes that an enrollment names. -/
def enrollNodes (sub : BitVec 2) (node : BitVec 16) (k : Nat) : List Nat :=
  if sub = 1 then (List.range k).map (node.toNat + ·) else [node.toNat]
/-- One of them is no node. -/
def Part.lacksNode (p : Part) (nodes : List Nat) : Bool := nodes.any (fun i => i = 0 || 65535 ≤ i || !p.hasNode i)

/-- The enrollment. -/
def enrollment (s : State) (is : Iss) (a b : RegNo) (sub : BitVec 2) (node : BitVec 16) (base k : Nat) (dies : List Nat) (f : Nat × Nat) : Enroll :=
  { id := s.uid, base := base, blocks := k, parts := is.enrollPieces s a b, node := node.toNat, consec := sub == 1, waiting := dies
    removing := false, fut := some f }

/-- What a c.ctenr of a range that it takes does (R132). -/
def Iss.enroll (is : Iss) (s : State) (sub : BitVec 2) (d a b : RegNo) (node : BitVec 16) (base k : Nat) : Res State :=
  let p := s.part (s.agentPart is.a)
  if p.lacksNode (enrollNodes sub node k) then s.instantFut is d Kind.tree 3 Status.empty 0
  else if p.enrolls.any (fun e => e.meets (is.enrollPieces s a b)) then s.instantFut is d Kind.tree 3 Status.busy 0
  else if 8192 ≤ p.enrolls.length then s.instantFut is d Kind.tree 3 Status.full 0
  else ({ s with uid := s.uid + 1 } : State).takeFut is d Kind.tree 3 s.uid >>= fun x =>
    pure (x.1.mapPart (s.agentPart is.a) (fun p => { p with enrolls := p.enrolls ++
      [enrollment s is a b sub node base k (x.1.liveDies (s.agentPart is.a)) x.2] }))

theorem exec_cCtenr (h : Hdr) (sub : BitVec 2) (d a b : RegNo) (node : BitVec 16) (s : State) :
    exec (.cCtenr h sub d a b node) s = issue .wave h 16 { rd := [.s a, .s b], wr := [.s d] } s (fun is s => is.enrollRange s a b >>= fun x =>
      if (s.part (s.agentPart is.a)).lacksNode (enrollNodes sub node x.2.1) then s.instantFut is d Kind.tree 3 Status.empty 0
      else if (s.part (s.agentPart is.a)).enrolls.any (fun e => e.meets x.2.2) then s.instantFut is d Kind.tree 3 Status.busy 0
      else if 8192 ≤ (s.part (s.agentPart is.a)).enrolls.length then s.instantFut is d Kind.tree 3 Status.full 0
      else ({ s with uid := s.uid + 1 } : State).takeFut is d Kind.tree 3 s.uid >>= fun y =>
        pure (y.1.mapPart (s.agentPart is.a) (fun p => { p with enrolls := p.enrolls ++ [{
          id := s.uid, base := x.1, blocks := x.2.1, parts := x.2.2, node := node.toNat, consec := sub == 1
          waiting := y.1.liveDies (s.agentPart is.a), removing := false, fut := some y.2 }] }))) := rfl

section
variable {s : State} {is : Iss} {h : Hdr} {sub : BitVec 2} {d a b : RegNo} {node : BitVec 16} {base k : Nat}
  (hr : s.ready .wave h 16 { rd := [.s a, .s b], wr := [.s d] } = some is) (hok : is.enrollOk s a b base k) (hroom : s.futRoom is)
include hr hok hroom

omit hroom in
theorem cCtenr_of_enroll {t : State} (ht : is.enroll s sub d a b node base k = .ok t) :
    exec (.cCtenr h sub d a b node) s = .next (t.retire is) := by
  rw [exec_cCtenr]
  refine issue_ready hr ?_
  rw [Iss.enrollRange_ok hok]
  exact ht

omit hok in
/-- A future that ends at once, after nothing else. -/
theorem tree_atOnce (status : Nat) : ∃ t, s.instantFut is d Kind.tree 3 status 0 = .ok t ∧ AtOnce s (t.retire is) is d Kind.tree status 0 ∧
    (t.retire is).parts = s.parts := by
  obtain ⟨t, c', hx, hf⟩ := State.instantFut_ok d Kind.tree 3 status 0 (State.ready_ctx hr) (State.ready_free hr).1 (State.ready_free hr).2 hroom
  exact ⟨t, hx, atOnce_of_futAtOnce hr (.refl hr) rfl rfl hf, (State.retire_parts _ _).trans (congrArg State.parts hf.rest :)⟩

theorem cCtenr_refused (status : Nat) (hx : is.enroll s sub d a b node base k = s.instantFut is d Kind.tree 3 status 0) :
    ∃ t, exec (.cCtenr h sub d a b node) s = .next t ∧ AtOnce s t is d Kind.tree status 0 ∧ t.parts = s.parts := by
  obtain ⟨t, ht, hat, hparts⟩ := tree_atOnce (d := d) hr hroom status
  exact ⟨_, cCtenr_of_enroll hr hok (hx.trans ht), hat, hparts⟩

theorem cCtenr_enrolls (hnode : (s.part (s.agentPart is.a)).lacksNode (enrollNodes sub node k) = false)
    (hmeets : (s.part (s.agentPart is.a)).enrolls.any (fun e => e.meets (is.enrollPieces s a b)) = false)
    (hfull : ¬ 8192 ≤ (s.part (s.agentPart is.a)).enrolls.length) :
    ∃ t f, exec (.cCtenr h sub d a b node) s = .next t ∧ Taken s t is d Kind.tree f ∧ t.mem = s.mem ∧
      (t.part (s.agentPart is.a)).enrolls = (s.part (s.agentPart is.a)).enrolls ++
        [enrollment s is a b sub node base k (s.liveDies (s.agentPart is.a)) (quadOf is.a, f)] := by
  obtain ⟨hec, f, hfree⟩ := State.futRoom_iff.mp hroom
  obtain ⟨u, c', hx, hf⟩ := State.takeFut_ok (s := { s with uid := s.uid + 1 }) d Kind.tree 3 s.uid (State.ready_ctx hr) hec hfree
  have hpart : u.part (s.agentPart is.a) = s.part (s.agentPart is.a) := State.part_of_rest hf.rest _
  have hlive : u.liveDies (s.agentPart is.a) = s.liveDies (s.agentPart is.a) := State.liveDies_of_rest hf.rest _
  refine ⟨_, f, cCtenr_of_enroll hr hok (t := u.mapPart (s.agentPart is.a) (fun p => { p with enrolls := p.enrolls ++
      [enrollment s is a b sub node base k (u.liveDies (s.agentPart is.a)) (quadOf is.a, f)] })) ?_, request_taken hr hf rfl rfl,
    (State.retire_mem _ _).trans hf.mem, ?_⟩
  · unfold Iss.enroll
    dsimp only
    rw [if_neg (by rw [hnode]; exact Bool.false_ne_true), if_neg (by rw [hmeets]; exact Bool.false_ne_true), if_neg hfull, hx]
    rfl
  · rw [State.part_retire, State.part_mapPart, hpart, hlive]

/-- The enrollment in effect that a withdrawal names (R124, R132). -/
def inEffect (base k : Nat) (e : Enroll) : Bool := e.base = base && e.blocks = k && !e.removing && e.waiting.isEmpty

/-- The enrollments with one of them on its way out. -/
def Enroll.leaving (x : Enroll) (id : Nat) (dies : List Nat) (f : Nat × Nat) : Enroll :=
  if x.id = id then { x with removing := true, waiting := dies, fut := some f } else x

omit hr hok hroom in
theorem exec_cCtenrWithdraw (h : Hdr) (d a b : RegNo) (s : State) :
    exec (.cCtenrWithdraw h d a b) s = issue .wave h 16 { rd := [.s a, .s b], wr := [.s d] } s (fun is s => is.enrollRange s a b >>= fun x =>
      match (s.part (s.agentPart is.a)).enrolls.find? (inEffect x.1 x.2.1) with
      | none => s.instantFut is d Kind.tree 3 Status.empty 0
      | some e => s.takeFut is d Kind.tree 3 e.id >>= fun y => pure (y.1.mapPart (s.agentPart is.a) (fun p =>
          { p with enrolls := p.enrolls.map (·.leaving e.id (y.1.liveDies (s.agentPart is.a)) y.2) }))) := rfl

theorem withdraw_none (hnone : (s.part (s.agentPart is.a)).enrolls.find? (inEffect base k) = none) :
    ∃ t, exec (.cCtenrWithdraw h d a b) s = .next t ∧ AtOnce s t is d Kind.tree Status.empty 0 ∧ t.parts = s.parts := by
  obtain ⟨t, ht, hat, hparts⟩ := tree_atOnce (d := d) hr hroom Status.empty
  refine ⟨_, (exec_cCtenrWithdraw h d a b s).trans (issue_ready hr (s' := t) ?_), hat, hparts⟩
  rw [Iss.enrollRange_ok hok]
  show (match (s.part (s.agentPart is.a)).enrolls.find? (inEffect base k) with | none => _ | some e => _) = _
  rw [hnone]
  exact ht

theorem withdraw_some {e : Enroll} (he : (s.part (s.agentPart is.a)).enrolls.find? (inEffect base k) = some e) :
    ∃ t f, exec (.cCtenrWithdraw h d a b) s = .next t ∧ Taken s t is d Kind.tree f ∧ t.mem = s.mem ∧
      (t.part (s.agentPart is.a)).enrolls =
        (s.part (s.agentPart is.a)).enrolls.map (·.leaving e.id (s.liveDies (s.agentPart is.a)) (quadOf is.a, f)) := by
  obtain ⟨hec, f, hfree⟩ := State.futRoom_iff.mp hroom
  obtain ⟨u, c', hx, hf⟩ := State.takeFut_ok d Kind.tree 3 e.id (State.ready_ctx hr) hec hfree
  have hpart : u.part (s.agentPart is.a) = s.part (s.agentPart is.a) := State.part_of_rest hf.rest _
  have hlive : u.liveDies (s.agentPart is.a) = s.liveDies (s.agentPart is.a) := State.liveDies_of_rest hf.rest _
  refine ⟨_, f, (exec_cCtenrWithdraw h d a b s).trans (issue_ready hr (s' := u.mapPart (s.agentPart is.a) (fun p => 
      { p with enrolls := p.enrolls.map (·.leaving e.id (u.liveDies (s.agentPart is.a)) (quadOf is.a, f)) })) ?_), request_taken (n := s.uid) hr hf rfl rfl,
    (State.retire_mem _ _).trans hf.mem, ?_⟩
  · rw [Iss.enrollRange_ok hok]
    show (match (s.part (s.agentPart is.a)).enrolls.find? (inEffect base k) with | none => _ | some e => _) = _
    rw [he]
    dsimp only
    rw [hx]
    rfl
  · rw [State.part_retire, State.part_mapPart, hpart, hlive]

end

/-- Settles O40: each instruction takes its result or its future and changes the queues, the settles or the enrollments of its partition. -/
theorem treeRequests : Obligations.TreeRequests := by
  refine ⟨fun i s is h len rd d a op y hi hr hec => ?_, fun s is h d a hr hq hroom => ?_,
    fun s is h sub d a b node base k hr hok hroom => ⟨fun hn => ?_, fun hn hm => ?_, fun hn hm hf => ?_, fun hn hm hf => ?_⟩,
    fun s is h d a b base k hr hok hroom => ⟨withdraw_none hr hok hroom, fun e he => ?_⟩⟩
  · obtain ⟨l, rfl, hx⟩ := exec_treeForm hi
    obtain ⟨t, c, ht, hm, hcec, hpend, hpart, hs, hk, hv, hf, hmem⟩ := treeOp_asks y hr hec
    exact ⟨t, c, (hx s).trans ht, hm, hcec, hpend, (congrArg Part.treeQ hpart :), (congrArg Part.nodes hpart :), hs, hk, hv, hf, hmem⟩
  · obtain ⟨t, k, hx, ht, hmem, hpart⟩ := cSettle_settles hr hq hroom
    refine ⟨t, k, hx, ht, ?_, fun x hx => ?_, (congrArg Part.nodes hpart :), hmem⟩
    · rw [hpart, ← State.settleStatus_eq]
      rfl
    · rw [hpart]
      exact find_markers _ _ _ hx _
  · exact cCtenr_refused hr hok hroom _ (if_pos hn)
  · exact cCtenr_refused hr hok hroom _ ((if_neg (Bool.eq_false_iff.mp hn)).trans (if_pos hm))
  · exact cCtenr_refused hr hok hroom _ ((if_neg (Bool.eq_false_iff.mp hn)).trans
      ((if_neg (Bool.eq_false_iff.mp hm)).trans (if_pos hf)))
  · obtain ⟨t, f, hx, ht, hmem, he⟩ := cCtenr_enrolls hr hok hroom hn hm hf
    exact ⟨t, f, hx, ht, he, hmem⟩
  · obtain ⟨t, f, hx, ht, hmem, hen⟩ := withdraw_some hr hok hroom he
    exact ⟨t, f, hx, ht, hen, hmem⟩

end Sys2Proof.Machine

/-! SUPPORT. Range operations (R121): what the write-backs of a range leave of the core's L1. -/

namespace Sys2Proof.Machine

theorem State.writeBack_cores (s : State) (core : Nat) (l : L1Line) (after : List Nat) : (s.writeBack core l after).cores = s.cores := by
  unfold State.writeBack
  dsimp only
  split <;> rfl

theorem foldl_cores {α : Type} (f : State → α → State) (hf : ∀ s x, (f s x).cores = s.cores) (l : List α) (s : State) :
    (l.foldl f s).cores = s.cores := by
  induction l generalizing s with
  | nil => rfl
  | cons x l ih => exact (ih _).trans (hf s x)

theorem State.core_congr {s t : State} (h : t.cores = s.cores) (core : Nat) : t.core core = s.core core := by
  unfold State.core
  rw [h]

theorem State.noFill_cores (s : State) (core : Nat) (p : Nat → Bool) : (s.noFill core p).cores = s.cores := rfl

/-- The publish cleans the lines it takes and leaves the others (R110, R312). -/
theorem State.publishLines_l1 (s : State) (core : Nat) (p : Nat → Bool) : ((s.publishLines core p).core core).l1 =
    (s.core core).l1.map (fun l => if p l.line then { l with dirty := 0 } else l) := by
  unfold State.publishLines
  dsimp only
  rw [State.core_congr (State.noFill_cores _ core _), State.core_mapCore, if_pos rfl,
    State.core_congr (foldl_cores _ (fun s l => State.writeBack_cores s core l []) _ s)]
  rfl

/-- A drain of the combining buffers leaves the L1. -/
theorem State.drainWc_l1 (s : State) (core : Nat) (p : Nat → Bool) : ((s.drainWc core p).core core).l1 = (s.core core).l1 := by
  unfold State.drainWc
  dsimp only
  rw [State.core_mapCore, if_pos rfl]
  show (State.core (List.foldl _ s _) core).l1 = _
  refine congrArg Core.l1 (State.core_congr (foldl_cores _ ?_ _ s) core)
  exact fun _ _ => rfl

/-- The lines of a range in the core's L1 are clean. -/
def State.cleanIn (s : State) (core : Nat) (p : Nat × Nat) : Prop := ∀ l ∈ (s.core core).l1, lineIn p.1 p.2 l.line = true → l.dirty = 0

/-- The write-backs of one piece, with the core's attributes as they stand. -/
def State.pieceOut (core : Nat) (s : State) (p : Nat × Nat) : State := s.pieceBack core p.1 p.2 (s.attr core (arenaOf p.1))

theorem State.pieceOut_attr (s : State) (core aid : Nat) (p : Nat × Nat) : (s.pieceOut core p).attr core aid = s.attr core aid := by
  unfold State.pieceOut State.pieceBack
  split
  · exact State.shell_attr (State.drainWc_shell _ _ _) _ _
  · exact State.shell_attr (State.publishLines_shell _ _ _) _ _

/-- A piece of type N stands clean behind its write-backs. -/
theorem State.pieceOut_cleans (s : State) (core : Nat) (p : Nat × Nat) (h : (s.attr core (arenaOf p.1)).typ = Arn.typN) :
    (s.pieceOut core p).cleanIn core p := by
  unfold State.pieceOut State.pieceBack State.cleanIn
  rw [if_neg (not_not.mpr h), State.publishLines_l1]
  intro l hl hin
  obtain ⟨x, -, rfl⟩ := List.mem_map.mp hl
  by_cases hx : lineIn p.1 p.2 x.line = true
  · rw [if_pos hx]
  · rw [if_neg hx] at hin
    exact absurd hin hx

/-- What stands clean stays clean. -/
theorem State.pieceOut_keeps {s : State} {core : Nat} {q : Nat × Nat} (p : Nat × Nat) (h : s.cleanIn core q) : (s.pieceOut core p).cleanIn core q := by
  unfold State.pieceOut State.pieceBack State.cleanIn
  split
  · rw [State.drainWc_l1]
    exact h
  · rw [State.publishLines_l1]
    intro l hl hin
    obtain ⟨x, hx, rfl⟩ := List.mem_map.mp hl
    by_cases hp : lineIn p.1 p.2 x.line = true
    · rw [if_pos hp]
    · rw [if_neg hp] at hin ⊢
      exact h x hx hin

theorem pieces_keep {core : Nat} {q : Nat × Nat} (ps : List (Nat × Nat)) {s : State} (h : s.cleanIn core q) :
    (ps.foldl (State.pieceOut core) s).cleanIn core q := by
  induction ps generalizing s with
  | nil => exact h
  | cons p ps ih => exact ih (State.pieceOut_keeps p h)

theorem pieces_clean {core : Nat} {q : Nat × Nat} (ps : List (Nat × Nat)) (hq : q ∈ ps) {s : State}
    (h : (s.attr core (arenaOf q.1)).typ = Arn.typN) : (ps.foldl (State.pieceOut core) s).cleanIn core q := by
  induction ps generalizing s with
  | nil => exact absurd hq List.not_mem_nil
  | cons p ps ih =>
    rcases List.mem_cons.mp hq with rfl | hq
    · exact pieces_keep ps (State.pieceOut_cleans s core _ h)
    · exact ih hq (by rw [State.pieceOut_attr]; exact h)

/-! ## c.wbr and c.invr -/

/-- The state with a range operation begun, which goes on at once where it waits for nothing. -/
def State.beginRange (s : State) (is : Iss) (inval : Bool) (part id gen : Nat) (ps : List (Nat × Nat)) (f : Nat × Nat) : State :=
  let r : RangeOp := { id := id, agent := is.a, core := coreOf is.a, part := part, parts := ps, gen := gen, inval := inval
                       dropped := false, reqs := ps.flatMap (fun p => s.writesIn (coreOf is.a) part p.1 p.2), fut := some f }
  State.rangeStep { s with ranges := s.ranges ++ [r] } r

/-- c.wbr and c.invr as one instruction. -/
def wbrOrInvr (inval : Bool) (h : Hdr) (d a b : RegNo) : Instr := if inval then .cInvr h d a b else .cWbr h d a b

section
variable (is : Iss) (s : State) (a b : RegNo)
/-- The pieces of its range, and the attributes of the arena at its base (R98). -/
def Iss.rangePieces : List (Nat × Nat) := (canonPieces (s.core (coreOf is.a)).filters (vaOf (is.s a)) (is.s b).toNat).map (fun e => (e.1, e.1 + e.2.1))
def Iss.rangeArena : Nat := arenaOf (canonical (s.core (coreOf is.a)).filters (vaOf (is.s a)))
def Iss.rangeAttr : Attr := s.attr (coreOf is.a) (is.rangeArena s a)
end

/-- What it does to a range that holds a byte (R121). -/
def Iss.rangeBody (is : Iss) (s : State) (inval : Bool) (d a b : RegNo) : Res State :=
  require (checkAttr (is.rangeArena s a) (is.rangeAttr s a) false false).isNone (is.fault Code.arenaDead (vaOf (is.s a)) is.p) >>= fun _ =>
  require (offOf (vaOf (is.s a)) + (is.s b).toNat ≤ 2 ^ 44) (is.fault Code.align (vaOf (is.s a)) is.p) >>= fun _ =>
  ({ s with uid := s.uid + 1 } : State).takeFut is d Kind.range 3 s.uid >>= fun x =>
  pure (((is.rangePieces s a b).foldl (State.pieceOut (coreOf is.a)) x.1).beginRange is inval (s.agentPart is.a) s.uid (is.rangeAttr s a).gen
    (is.rangePieces s a b) x.2)

theorem exec_wbrOrInvr (inval : Bool) (h : Hdr) (d a b : RegNo) (s : State) :
    exec (wbrOrInvr inval h d a b) s = issue .wave h 16 { rd := [.s a, .s b], wr := [.s d] } s (fun is s => is.memReady s >>= fun _ =>
      if (is.s b).toNat = 0 then s.instantFut is d Kind.range 3 Status.done 0 else is.rangeBody s inval d a b) := by
  cases inval <;> rfl

section
variable {inval : Bool} {s : State} {is : Iss} {h : Hdr} {d a b : RegNo}
  (hr : s.ready .wave h 16 { rd := [.s a, .s b], wr := [.s d] } = some is) (hq : is.quiet s)
include hr hq

theorem range_empty (hn : (is.s b).toNat = 0) (hroom : s.futRoom is) :
    ∃ t, exec (wbrOrInvr inval h d a b) s = .next t ∧ AtOnce s t is d Kind.range Status.done 0 ∧ t.mem = s.mem ∧ t.cores = s.cores := by
  obtain ⟨t, c', hx, hf⟩ := State.instantFut_ok d Kind.range 3 Status.done 0 (State.ready_ctx hr) (State.ready_free hr).1 (State.ready_free hr).2 hroom
  refine ⟨t.retire is, (exec_wbrOrInvr inval h d a b s).trans (issue_ready hr ?_), atOnce_of_futAtOnce hr (.refl hr) rfl rfl hf,
    (State.retire_mem _ _).trans (congrArg State.mem hf.rest :), (State.retire_cores _ _).trans (congrArg State.cores hf.rest :)⟩
  rw [Iss.memReady_bind hq, if_pos hn, hx]

theorem range_body (hn : (is.s b).toNat ≠ 0) {r : Res State} (hb : is.rangeBody s inval d a b = r) :
    exec (wbrOrInvr inval h d a b) s = issue .wave h 16 { rd := [.s a, .s b], wr := [.s d] } s (fun _ _ => r) := by
  rw [exec_wbrOrInvr]
  cases r with
  | error e => rw [issue_error hr (by rw [Iss.memReady_bind hq, if_neg hn, hb]), issue_error hr rfl]
  | ok t => rw [issue_ready hr (by rw [Iss.memReady_bind hq, if_neg hn, hb]), issue_ready hr rfl]

theorem range_dead (hn : (is.s b).toNat ≠ 0) (hat : checkAttr (is.rangeArena s a) (is.rangeAttr s a) false false ≠ none) :
    exec (wbrOrInvr inval h d a b) s = .next (s.except is (is.fault Code.arenaDead (vaOf (is.s a)) is.p)) := by
  rw [range_body hr hq hn (r := .error (is.fault Code.arenaDead (vaOf (is.s a)) is.p)), issue_error hr rfl]
  unfold Iss.rangeBody
  rw [require_bind, if_neg (by simpa [Option.isNone_iff_eq_none] using hat)]

theorem range_beyond (hn : (is.s b).toNat ≠ 0) (hat : checkAttr (is.rangeArena s a) (is.rangeAttr s a) false false = none)
    (hend : 2 ^ 44 < offOf (vaOf (is.s a)) + (is.s b).toNat) :
    exec (wbrOrInvr inval h d a b) s = .next (s.except is (is.fault Code.align (vaOf (is.s a)) is.p)) := by
  rw [range_body hr hq hn (r := .error (is.fault Code.align (vaOf (is.s a)) is.p)), issue_error hr rfl]
  unfold Iss.rangeBody
  rw [require_bind, if_pos (by rw [hat]; rfl), require_bind, if_neg (by simpa using hend)]

theorem range_begins (hn : (is.s b).toNat ≠ 0) (hat : checkAttr (is.rangeArena s a) (is.rangeAttr s a) false false = none)
    (hend : offOf (vaOf (is.s a)) + (is.s b).toNat ≤ 2 ^ 44) (hroom : s.futRoom is) :
    ∃ s1 k, ({ s with uid := s.uid + 1 } : State).takeFut is d Kind.range 3 s.uid = .ok (s1, quadOf is.a, k) ∧
      exec (wbrOrInvr inval h d a b) s = .next ((((is.rangePieces s a b).foldl (State.pieceOut (coreOf is.a)) s1).beginRange is inval
        (s.agentPart is.a) s.uid (is.rangeAttr s a).gen (is.rangePieces s a b) (quadOf is.a, k)).retire is) ∧
      ∀ p ∈ is.rangePieces s a b, (s.attr (coreOf is.a) (arenaOf p.1)).typ = Arn.typN →
        ((is.rangePieces s a b).foldl (State.pieceOut (coreOf is.a)) s1).cleanIn (coreOf is.a) p := by
  obtain ⟨hec, k, hk⟩ := State.futRoom_iff.mp hroom
  obtain ⟨u, c', hx, hf⟩ := State.takeFut_ok (s := { s with uid := s.uid + 1 }) d Kind.range 3 s.uid (State.ready_ctx hr) hec hk
  refine ⟨u, k, hx, ?_, fun p hp htyp => pieces_clean _ hp ?_⟩
  · rw [range_body hr hq hn (r := .ok _) ?_, issue_ready hr rfl]
    unfold Iss.rangeBody
    rw [require_bind, if_pos (by rw [hat]; rfl), require_bind, if_pos (by simpa using hend), hx]
    rfl
  · have hcore : u.core (coreOf is.a) = s.core (coreOf is.a) := State.core_congr (congrArg State.cores hf.rest :) _
    unfold State.attr
    rw [hcore]
    exact htyp

end

/-- Settles O39: an empty range resolves at once, the checks of the range come in their order, and the write-backs leave every line of a piece
of type N clean. -/
theorem rangeOperations : Obligations.RangeOperations := fun _ _ _ _ _ _ _ hr hq =>
  ⟨range_empty hr hq, range_dead hr hq, range_beyond hr hq, range_begins hr hq⟩

end Sys2Proof.Machine

/-! SUPPORT. What the end of a future and the wake of a waiter leave of the machine (R298, R367), and the master's table (R77, R82). -/

namespace Sys2Proof.Machine

/-! ## The machine without its agents -/

/-- The machine without its agents, what they wait for and the requests under way. -/
def State.still (s : State) : State :=
  { s with ctxs := [], quads := [], stokers := [], reqs := [], uid := 0, waiters := [], saved := [] }

theorem State.still_of_rest {s t : State} (h : t.rest = s.rest) : t.still = s.still :=
  congrArg (fun x : State => { x with stokers := [], reqs := [], uid := 0, waiters := [], saved := [] }) h

theorem foldl_still {α : Type} (f : State → α → State) (hf : ∀ s x, (f s x).still = s.still) (l : List α) (s : State) :
    (l.foldl f s).still = s.still := by
  induction l generalizing s with
  | nil => rfl
  | cons x l ih => exact (ih _).trans (hf s x)

section
variable (s : State)

@[simp] theorem State.mapCtx_still (a : Agent) (f : Ctx → Ctx) : (s.mapCtx a f).still = s.still := State.still_of_rest (State.mapCtx_rest s a f)
@[simp] theorem State.mapPend_still (a : Agent) (id : Nat) (f : Pend → Pend) : (s.mapPend a id f).still = s.still := State.mapCtx_still s a _
@[simp] theorem State.setStale_still (a : Agent) : (s.setStale a).still = s.still := State.mapCtx_still s a _
@[simp] theorem State.mapStoker_still (k : Nat) (f : Stoker → Stoker) : (s.mapStoker k f).still = s.still := by
  unfold State.mapStoker; split <;> rfl
@[simp] theorem State.clearTag_still (a : Agent) (n : Nat) : (s.clearTag a n).still = s.still := by
  unfold State.clearTag
  split
  · rfl
  · split
    · rfl
    · exact State.still_of_rest (State.dropSite_rest _ _ _ _)

@[simp] theorem State.mapQuad_still (q : Nat) (f : Quad → Quad) : (s.mapQuad q f).still = s.still := rfl
@[simp] theorem State.hearTasks_still (x : Nat × Nat × Nat) (ok : Bool) : (s.hearTasks x ok).still = s.still := rfl
@[simp] theorem State.hearImages_still (x : Nat × Nat × Nat) (h : W64) (flags : BitVec 5) (stale : Bool) :
    (s.hearImages x h flags stale).still = s.still := rfl
@[simp] theorem State.resolve_still (ft : Option (Nat × Nat)) (status code : Nat) (flags : BitVec 5) (stale : Bool) :
    (s.resolve ft status code flags stale).still = s.still := by
  unfold State.resolve
  split
  · rfl
  · split
    · rfl
    · dsimp only
      rw [State.hearImages_still, State.hearTasks_still, State.mapQuad_still, foldl_still _ fun s x => State.mapStoker_still s _ _]
      refine foldl_still _ (fun s x => ?_) _ _
      split
      · exact State.mapCtx_still s _ _
      · rfl
@[simp] theorem State.resolve0_still (ft : Option (Nat × Nat)) (status code : Nat) : (s.resolve0 ft status code).still = s.still :=
  State.resolve_still s ft status code 0 false
@[simp] theorem State.giveResult_still (a : Agent) (id v : Nat) (bno : Option Nat) : (s.giveResult a id v bno).still = s.still :=
  State.mapPend_still s a id _

@[simp] theorem State.wakeWait_still (a : Agent) (op : ReqOp) (len v : Nat) : (s.wakeWait a op len v).still = s.still := by
  unfold State.wakeWait
  dsimp only
  rw [State.mapCtx_still]
  split <;> simp

@[simp] theorem State.wakeStale_still (part aid : Nat) : (s.wakeStale part aid).still = s.still :=
  foldl_still _ (fun s w => by rw [State.setStale_still, State.wakeWait_still]; rfl) _ s

end

section
variable {s t : State} (h : t.still = s.still)
include h
theorem State.still_mem : t.mem = s.mem := (congrArg State.mem h :)
theorem State.still_cores : t.cores = s.cores := (congrArg State.cores h :)
theorem State.still_part (p : Nat) : t.part p = s.part p := by
  have hp : t.parts = s.parts := (congrArg State.parts h :)
  unfold State.part
  rw [hp]
theorem State.still_agentPart (a : Agent) : t.agentPart a = s.agentPart a := by
  have hp : t.dieParts = s.dieParts := (congrArg State.dieParts h :)
  unfold State.agentPart State.partOf
  rw [hp]
end

theorem event_eq {s t : State} {r : Option State} (h : r = some t) : event s r = .next t := by rw [h]; rfl

/-! ## The master's table -/

theorem Part.arena_setArena (p : Part) (i j : Nat) (a : Arena) : (p.setArena i a).arena j = if j = i then a else p.arena j := by
  unfold Part.arena Part.setArena
  dsimp only
  rw [AMap.find_put]
  split <;> rfl

/-- A change of an entry changes that entry, and counts one broadcast (R77). -/
theorem State.commit_part (s : State) (part aid : Nat) (a : Arena) :
    (∀ j, ((s.commit part aid a).part part).arena j = if j = aid then a else (s.part part).arena j) ∧
      ((s.commit part aid a).part part).bno = (s.part part).bno + 1 := by
  unfold State.commit
  dsimp only
  rw [State.part_mapPart]
  exact ⟨fun j => Part.arena_setArena (s.part part) aid j a, rfl⟩

/-- The same table. -/
theorem Part.arena_congr {p q : Part} (h : q.arenas = p.arenas) (j : Nat) : q.arena j = p.arena j := by
  unfold Part.arena
  rw [h]

/-! ## One request -/

/-- The partition without the request. -/
def Part.served (p : Part) (id : Nat) : Part := { p with masterQ := p.masterQ.filter (fun x => x.id ≠ id) }

section
variable {s : State} {part : Nat} {m : MasterReq} (hm : (s.part part).masterQ.find? (fun x => x.id = m.id) = some m)
  (hturn : ∀ x, x ∈ (s.part part).masterQ.takeWhile (fun x => x.id ≠ m.id) → x.agent ≠ m.agent)
include hm hturn

/-- The master handles the request on the partition without it. -/
theorem exec_arenaMasterRequest :
    let s0 := s.mapPart part (fun _ => (s.part part).served m.id)
    exec (.arenaMasterRequest part m.id) s =
      .next (if m.op = mAnew then s0.doAnew part m else if m.op = mSeal then s0.doSeal part m else s0.doDrop part m) := by
  refine event_eq ?_
  have hno : ((s.part part).masterQ.takeWhile (fun x => x.id ≠ m.id)).any (fun x => x.agent = m.agent) = false := by
    simpa [List.any_eq_false] using hturn
  unfold evArenaMasterRequest
  dsimp only
  rw [hm]
  dsimp only
  rw [hno, if_neg Bool.false_ne_true]
  rfl

end

/-- The entry that a c.anew makes, and the partition in which nothing of its arena counts as written (R82, R83). -/
def Part.newArena (p : Part) (m : MasterReq) (id : Nat) : Arena :=
  { p.arena id with state := Arn.live, typ := bits m.x1 0 2, swm := bit m.x1 2, zf := bit m.x1 3, parent := m.arg, quota := bits m.x1 4 9, sealp := false }
def Part.unwritten (p : Part) (id : Nat) : Part :=
  { p with zfLines := p.zfLines.filter (fun l => lineArena l ≠ id), zfPages := p.zfPages.filter (fun g => lineArena (g * 32) ≠ id) }

theorem State.doAnew_eq (s : State) (part : Nat) (m : MasterReq) : s.doAnew part m =
    match (s.part part).pickId m.aid m.arg with
    | .error v => s.giveResult m.agent m.pend v none
    | .ok id => let s1 := (s.mapPart part (·.unwritten id)).commit part id ((s.part part).newArena m id)
      s1.giveResult m.agent m.pend (id * 2 ^ 44) (some (s1.part part).bno) := rfl

section
variable (s : State) (part : Nat) (m : MasterReq)

/-- A c.anew of an id that may be had (R82). -/
theorem State.doAnew_ok {id : Nat} (hid : (s.part part).pickId m.aid m.arg = .ok id) :
    (∀ j, ((s.doAnew part m).part part).arena j = if j = id then (s.part part).newArena m id else (s.part part).arena j) ∧
      ((s.doAnew part m).part part).bno = (s.part part).bno + 1 ∧
      (s.doAnew part m).ctx? m.agent = (s.ctx? m.agent).map (fun c => { c with pend := c.pend.map (fun q => if q.id = m.pend
        then { q with writes := q.writes.map (fun w => { w with val := some (id * 2 ^ 44) }), bcast := some ((s.part part).bno + 1) } else q) }) ∧
      (s.doAnew part m).mem = s.mem := by
  rw [State.doAnew_eq, hid]
  dsimp only
  obtain ⟨harena, hbno⟩ := State.commit_part (s.mapPart part (·.unwritten id)) part id ((s.part part).newArena m id)
  rw [State.part_mapPart] at harena hbno
  refine ⟨fun j => ?_, ?_, ?_, (State.still_mem (State.giveResult_still _ _ _ _ _) :)⟩
  · rw [State.still_part (State.giveResult_still _ _ _ _ _), harena]
    rfl
  · rw [State.still_part (State.giveResult_still _ _ _ _ _), hbno]
    rfl
  · rw [hbno]
    exact State.ctx?_mapCtx_same _ _ _

/-- A c.seal of a LIVE N arena that is not software-managed (R84). -/
theorem State.doSeal_ok (hlive : ((s.part part).arena m.aid).state = Arn.live) (hseal : ((s.part part).arena m.aid).sealp = false)
    (htyp : ((s.part part).arena m.aid).typ = Arn.typN) (hswm : ((s.part part).arena m.aid).swm = false) :
    (∀ j, ((s.doSeal part m).part part).arena j =
      if j = m.aid then { (s.part part).arena m.aid with sealp := true } else (s.part part).arena j) ∧
      (s.doSeal part m).mem = s.mem ∧ (s.doSeal part m).ctxs = s.ctxs := by
  unfold State.doSeal
  dsimp only
  rw [if_neg (by rw [hlive]; decide), if_neg (not_not.mpr hlive), if_neg (by rw [hseal]; exact Bool.false_ne_true),
    if_neg (by simp [htyp, hswm])]
  refine ⟨fun j => ?_, rfl, rfl⟩
  rw [State.part_mapPart]
  exact (State.commit_part s part m.aid _).1 j

/-- The drop of one id (R86). -/
theorem State.dropId_part (futs : List (Nat × Nat)) (aid : Nat) :
    (∀ j, ((s.dropId part futs aid).part part).arena j = if j = aid then { (s.part part).arena aid with
      gen := (((s.part part).arena aid).gen + 1) % 16, state := Arn.draining, sweeps := ((s.part part).arena aid).sweeps + 1, sealp := false }
      else (s.part part).arena j) ∧ (s.dropId part futs aid).mem = s.mem := by
  unfold State.dropId
  dsimp only
  refine ⟨fun j => ?_, ?_⟩
  · rw [State.still_part (State.wakeStale_still _ _ _), State.part_mapPart]
    refine ((State.commit_part _ part aid _).1 j).trans ?_
    rw [State.still_part (foldl_still _ (fun s f => State.resolve0_still s _ _ _) _ _), State.part_mapPart]
    rfl
  · rw [State.still_mem (State.wakeStale_still _ _ _)]
    exact (State.still_mem (foldl_still _ (fun s f => State.resolve0_still s _ _ _) _ _) :)

end

theorem State.doSeal_sealed {s : State} {part : Nat} {m : MasterReq} (h : ((s.part part).arena m.aid).state = Arn.sealed) :
    s.doSeal part m = s.resolve0 m.fut Status.done 0 := if_pos h

/-- The operations on an arena that is not there end EMPTY (R85, R87). -/
theorem State.doSeal_empty {s : State} {part : Nat} {m : MasterReq}
    (h : ((s.part part).arena m.aid).state = Arn.free ∨ ((s.part part).arena m.aid).state = Arn.draining) :
    s.doSeal part m = s.resolve0 m.fut Status.empty 0 := by
  have hs : ((s.part part).arena m.aid).state ≠ Arn.sealed := by rcases h with h | h <;> rw [h] <;> decide
  have hl : ((s.part part).arena m.aid).state ≠ Arn.live := by rcases h with h | h <;> rw [h] <;> decide
  exact (if_neg hs).trans (if_pos hl)

theorem State.doDrop_empty {s : State} {part : Nat} {m : MasterReq}
    (h : ((s.part part).arena m.aid).state = Arn.free ∨ ((s.part part).arena m.aid).state = Arn.draining) :
    s.doDrop part m = s.resolve0 m.fut Status.empty 0 := if_pos (by simpa using h)

section
variable {s : State} {part : Nat} {m : MasterReq}
  (h : ((s.part part).arena m.aid).state = Arn.live ∨ ((s.part part).arena m.aid).state = Arn.sealed)
include h

theorem Part.there : ¬ (decide (((s.part part).arena m.aid).state = Arn.free) || decide (((s.part part).arena m.aid).state = Arn.draining)) = true := by
  rcases h with h | h <;> rw [h] <;> decide

theorem State.doDrop_one (hsub : (s.part part).subtree m.aid = [m.aid]) (hsw : ((s.part part).arena m.aid).sweeps ≠ 15) :
    s.doDrop part m = s.dropId part m.fut.toList m.aid := by
  unfold State.doDrop
  dsimp only
  rw [if_neg (Part.there h), hsub, if_neg (by simpa using hsw)]
  rfl

theorem State.doDrop_busy (hsw : ((s.part part).subtree m.aid).any (fun i => ((s.part part).arena i).sweeps = 15) = true) :
    s.doDrop part m = s.resolve0 m.fut Status.busy 0 := (if_neg (Part.there h)).trans (if_pos hsw)

end

/-- Settles O37: the handling of one request, by its operation and the state of the entry that it names. -/
theorem arenaMaster : Obligations.ArenaMaster := by
  intro s part m hm hturn p s0
  have hx : exec (.arenaMasterRequest part m.id) s =
      .next (if m.op = mAnew then s0.doAnew part m else if m.op = mSeal then s0.doSeal part m else s0.doDrop part m) :=
    exec_arenaMasterRequest hm hturn
  have hp : s0.part part = p := State.part_mapPart s part _
  refine ⟨fun id hop hid => ?_, fun v hop hv => ?_, fun hop hl hsp ht hsw => ?_, fun hop hsealed => ?_, fun hop hst => ?_, fun hop hst hsub hsw => ?_,
    fun hop hst hsw => ?_⟩
  · obtain ⟨harena, hbno, hctx, hmem⟩ := State.doAnew_ok s0 part m (by rw [hp]; exact hid)
    rw [hp] at harena hbno hctx
    refine ⟨s0.doAnew part m, hx.trans (congrArg _ (if_pos hop)), (harena id).trans (if_pos rfl), fun j hj => (harena j).trans (if_neg hj), hbno, hctx, hmem⟩
  · refine hx.trans ?_
    rw [if_pos hop]
    rw [State.doAnew_eq, hp, hv]
  · obtain ⟨harena, hmem, hctxs⟩ := State.doSeal_ok s0 part m (hp ▸ hl) (hp ▸ hsp) (hp ▸ ht) (hp ▸ hsw)
    rw [hp] at harena
    exact ⟨s0.doSeal part m, hx.trans (congrArg _ ((if_neg (by rw [hop]; decide)).trans (if_pos hop))), (harena m.aid).trans (if_pos rfl),
      fun j hj => (harena j).trans (if_neg hj), hmem, hctxs⟩
  · refine hx.trans ?_
    rw [if_neg (by rw [hop]; decide), if_pos hop]
    exact congrArg _ (State.doSeal_sealed (hp ▸ hsealed))
  · refine hx.trans ?_
    rw [if_neg hop]
    split
    · exact congrArg _ (State.doSeal_empty (hp ▸ hst))
    · exact congrArg _ (State.doDrop_empty (hp ▸ hst))
  · obtain ⟨harena, hmem⟩ := State.dropId_part s0 part m.fut.toList m.aid
    rw [hp] at harena
    refine ⟨s0.dropId part m.fut.toList m.aid, hx.trans ?_, (harena m.aid).trans (if_pos rfl), fun j hj => (harena j).trans (if_neg hj), hmem⟩
    rw [if_neg (by rw [hop]; decide), if_neg (by rw [hop]; decide)]
    exact congrArg _ (State.doDrop_one (hp ▸ hst) (hp ▸ hsub) (hp ▸ hsw))
  · refine hx.trans ?_
    rw [if_neg (by rw [hop]; decide), if_neg (by rw [hop]; decide)]
    exact congrArg _ (State.doDrop_busy (hp ▸ hst) (hp ▸ hsw))

end Sys2Proof.Machine

/-! SUPPORT. Lines and bytes (R114, R116): a merge of masked bytes, a masked write of memory, and what a write at the home leaves of the slice's
arrays, of memory and of the partitions. -/

namespace Sys2Proof.Machine

open Sys2Proof.Tests

/-! ## Masks -/

theorem onesBelow_succ (v n : Nat) : onesBelow v (n + 1) = onesBelow v n ++ if v.testBit n then [n] else [] := by
  unfold onesBelow
  rw [List.range_succ, List.filter_append, List.filter_singleton]
  cases v.testBit n <;> rfl

theorem mem_onesBelow {v n i : Nat} : i ∈ onesBelow v n ↔ i < n ∧ v.testBit i = true := by
  unfold onesBelow
  rw [List.mem_filter, List.mem_range]

/-- The bits of a byte mask, eight for each. -/
def byteMask (v n : Nat) : Nat := (onesBelow v n).foldl (fun acc i => acc + 255 * 2 ^ (8 * i)) 0

theorem byteMask_succ (v n : Nat) : byteMask v (n + 1) = 2 ^ (8 * n) * (if v.testBit n then 255 else 0) + byteMask v n := by
  unfold byteMask
  rw [onesBelow_succ, List.foldl_append]
  split
  · exact (congrArg _ (Nat.mul_comm _ _)).trans (Nat.add_comm _ _)
  · simp

theorem byteMask_lt (v n : Nat) : byteMask v n < 2 ^ (8 * n) := by
  induction n with
  | zero => exact Nat.one_pos
  | succ n ih =>
    rw [byteMask_succ, Nat.mul_succ, Nat.pow_add]
    split <;> omega

theorem testBit_byteMask (v n i j : Nat) (hj : j < 8) (hi : i < n) : (byteMask v n).testBit (8 * i + j) = v.testBit i := by
  induction n with
  | zero => omega
  | succ n ih =>
    rw [byteMask_succ, Nat.testBit_two_pow_mul_add _ (byteMask_lt v n)]
    by_cases h : i < n
    · rw [if_pos (by omega), ih h]
    · obtain rfl : i = n := by omega
      rw [if_neg (by omega), Nat.add_sub_cancel_left]
      cases v.testBit i
      · exact Nat.zero_testBit j
      · show Nat.testBit 255 j = true
        interval_cases j <;> rfl

theorem getLsbD_wideMask (m : BitVec 128) {i j : Nat} (hi : i < 128) (hj : j < 8) : (wideMask m).getLsbD (8 * i + j) = m.getLsbD i := by
  show (BitVec.ofNat 1024 (byteMask m.toNat 128)).getLsbD (8 * i + j) = m.getLsbD i
  rw [BitVec.getLsbD_ofNat, testBit_byteMask _ _ _ _ hj hi, decide_eq_true (show 8 * i + j < 1024 by omega), Bool.true_and]
  rfl

/-- A merge takes the masked bytes and keeps the others (R116). -/
theorem lineByte_mergeLine (old new : BitVec 1024) (m : BitVec 128) {i : Nat} (hi : i < 128) :
    lineByte (mergeLine old m new) i = if m.getLsbD i then lineByte new i else lineByte old i := by
  have bit (j : Nat) (hj : j < 8) : (lineByte (mergeLine old m new) i).getLsbD j =
      if m.getLsbD i then (lineByte new i).getLsbD j else (lineByte old i).getLsbD j := by
    have hw := getLsbD_wideMask m hi hj
    unfold lineByte mergeLine
    simp only [BitVec.getLsbD_extractLsb', hj, decide_true, Bool.true_and, BitVec.getLsbD_or, BitVec.getLsbD_and, BitVec.getLsbD_not, hw,
      show 8 * i + j < 1024 by omega]
    cases m.getLsbD i <;> simp
  refine BitVec.eq_of_getLsbD_eq fun j hj => (bit j hj).trans ?_
  split <;> rfl

/-- A masked write changes the bytes of its mask alone. -/
theorem maskWrite_get (m : Memory) (pa x : Nat) (mask : BitVec 128) (data : BitVec 1024) : (maskWrite m pa mask data).get x =
    if pa ≤ x ∧ x - pa < 128 ∧ mask.getLsbD (x - pa) = true then lineByte data (x - pa) else m.get x := by
  have fold (l : List Nat) (m : Memory) : (l.foldl (fun m i => Memory.set m (pa + i) (lineByte data i)) m : Memory).get x =
      if pa ≤ x ∧ x - pa ∈ l then lineByte data (x - pa) else m.get x := by
    induction l generalizing m with
    | nil => simp
    | cons i l ih =>
      rw [List.foldl_cons, ih, Memory.get_set]
      by_cases hx : x = pa + i
      · subst hx
        simp
      · have hi : ¬ (pa ≤ x ∧ x - pa = i) := by omega
        simp only [List.mem_cons, if_neg hx]
        refine if_congr ?_ rfl rfl
        exact and_congr_right fun h => (or_iff_right fun e => hi ⟨h, e⟩).symm
  unfold maskWrite
  rw [fold]
  exact if_congr (by rw [mem_onesBelow]; rfl) rfl rfl

/-! ## What a waiter's wake leaves -/

/-- The slices' arrays, memory and the partitions. -/
def State.store (s : State) : List LlcLine × Memory × AMap Part := (s.llc, s.mem, s.parts)

theorem foldl_store {α : Type} (f : State → α → State) (hf : ∀ s x, (f s x).store = s.store) (l : List α) (s : State) :
    (l.foldl f s).store = s.store := by
  induction l generalizing s with
  | nil => rfl
  | cons x l ih => exact (ih _).trans (hf s x)

section
variable (s : State)

theorem State.mapCtx_store (a : Agent) (f : Ctx → Ctx) : (s.mapCtx a f).store = s.store :=
  (congrArg State.store (State.mapCtx_rest s a f) :)
theorem State.clearTag_store (a : Agent) (n : Nat) : (s.clearTag a n).store = s.store := by
  unfold State.clearTag
  split
  · rfl
  · split
    · rfl
    · exact (congrArg State.store (State.dropSite_rest _ _ _ _) :)
theorem State.writeBack_store (core : Nat) (l : L1Line) (after : List Nat) : (s.writeBack core l after).store = s.store := by
  unfold State.writeBack
  dsimp only
  split <;> rfl
theorem State.l1Evict_store (core : Nat) (l : L1Line) : (s.l1Evict core l).store = s.store := State.writeBack_store _ _ _ _
theorem State.l1Renew_store (core line : Nat) : (s.l1Renew core line).store = s.store := foldl_store _ (fun s l => State.l1Evict_store s core l) _ s
theorem State.wakeWait_store (a : Agent) (op : ReqOp) (len v : Nat) : (s.wakeWait a op len v).store = s.store := by
  unfold State.wakeWait
  dsimp only
  rw [State.mapCtx_store]
  split
  · exact State.clearTag_store _ _ _
  · rfl
theorem State.wakeWaiter_store (w : Waiter) (v : Nat) : (s.wakeWaiter w v).store = s.store :=
  (State.wakeWait_store _ _ _ _ _).trans (State.l1Renew_store _ _ _)
theorem State.failWaiter_store (w : Waiter) (code addr : Nat) : (s.failWaiter w code addr).store = s.store := State.mapCtx_store _ _ _

theorem State.tryWaiter_store (w : Waiter) : ((s.tryWaiter w).getD s).store = s.store := by
  unfold State.tryWaiter
  split
  · split
    · exact State.failWaiter_store _ _ _ _
    · rfl
  · next l _ =>
    split
    · exact State.failWaiter_store _ _ _ _
    · cases w.op.ready l with
      | none => rfl
      | some v => exact State.wakeWaiter_store s w v

theorem State.wakeLine_store (part line : Nat) : (s.wakeLine part line).store = s.store := foldl_store _ State.tryWaiter_store _ s

end

/-- What a line of the home reads is a matter of the arrays, of memory and of the partition's zero-fill lines. -/
theorem State.homeLine_congr {s t : State} {unit part line gen pa : Nat} (hllc : t.llc = s.llc) (hmem : t.mem = s.mem)
    (hhid : (t.part part).hidden line = (s.part part).hidden line) :
    (t.homeLine unit part line gen pa).1 = (s.homeLine unit part line gen pa).1 := by
  unfold State.homeLine State.llcFind State.hbmLine
  rw [hllc, hmem, hhid]
  split <;> rfl

theorem State.bump_hidden (s : State) (p unit va part line : Nat) : ((s.bump p unit va).part part).hidden line = (s.part part).hidden line := by
  unfold State.bump
  split
  · rfl
  · unfold State.part State.mapPart
    dsimp only
    rw [AMap.find_put]
    split
    · next h => subst h; rfl
    · rfl
theorem State.bump_llc (s : State) (p unit va : Nat) : (s.bump p unit va).llc = s.llc := by unfold State.bump; split <;> rfl
theorem State.bump_mem (s : State) (p unit va : Nat) : (s.bump p unit va).mem = s.mem := by unfold State.bump; split <;> rfl

/-- The bump and the waiters of a write leave what the line reads. -/
theorem State.homeLine_bump_wake (s : State) (p k va : Nat) (unit part line gen pa : Nat) :
    (((s.bump p k va).wakeLine part line).homeLine unit part line gen pa).1 = (s.homeLine unit part line gen pa).1 := by
  have h := State.wakeLine_store (s.bump p k va) part line
  have hparts : ((s.bump p k va).wakeLine part line).parts = (s.bump p k va).parts := congrArg (fun x => x.2.2) h
  refine State.homeLine_congr ((congrArg (fun x => x.1) h : _).trans (State.bump_llc _ _ _ _))
    ((congrArg (fun x => x.2.1) h : _).trans (State.bump_mem _ _ _ _)) ?_
  unfold State.part at *
  rw [hparts]
  exact State.bump_hidden s p k va part line

/-! ## A write at the home -/

/-- A line that was put is found. -/
theorem State.llcFind_llcPut (s : State) (l : LlcLine) : (s.llcPut l).llcFind l.die l.part l.line l.gen = some l := by
  unfold State.llcFind State.llcPut
  exact List.find?_cons_of_pos (by simp)

theorem State.llcFind_key {s : State} {unit part line gen : Nat} {l : LlcLine} (h : s.llcFind unit part line gen = some l) :
    l.die = unit ∧ l.part = part ∧ l.line = line ∧ l.gen = gen := by
  have hk := List.find?_some h
  simpa [and_assoc] using hk

/-- A hit leaves the line found, with its data. -/
theorem State.llcHit_find {s : State} {unit part line gen : Nat} {l : LlcLine} (h : s.llcFind unit part line gen = some l) :
    ∃ k, (s.llcHit l).llcFind unit part line gen = some k ∧ k.data = l.data := by
  obtain ⟨rfl, rfl, rfl, rfl⟩ := State.llcFind_key h
  unfold State.llcHit
  split
  · exact ⟨l, State.llcFind_llcPut s l, rfl⟩
  · split
    · exact ⟨_, State.llcFind_llcPut s { l with hits := l.hits + 1 }, rfl⟩
    · exact ⟨_, State.llcFind_llcPut (s.hotRoom l) { l with hits := 0, hot := true }, rfl⟩

/-- A write of all bytes clears the poison of the line in memory (R119). -/
def State.unpoison (s : State) (pa : Nat) (mask : BitVec 128) : State :=
  if (mask == BitVec.allOnes 128) = true then { s with poison := s.poison.filter (· ≠ pa / 128) } else s

theorem State.homeMerge_eq (s : State) (unit part line gen pa : Nat) (mask : BitVec 128) (data : BitVec 1024) :
    s.homeMerge unit part line gen pa mask data = match (s.unpoison pa mask).llcFind unit part line gen with
      | some l => (s.unpoison pa mask).llcPut
        { l with dirty := l.dirty ||| mask, data := mergeLine l.data mask data, poison := l.poison && !(mask == BitVec.allOnes 128) }
      | none => (s.unpoison pa mask).hbmWrite part line pa mask data := rfl

theorem State.unpoison_llcFind (s : State) (pa : Nat) (mask : BitVec 128) (unit part line gen : Nat) :
    (s.unpoison pa mask).llcFind unit part line gen = s.llcFind unit part line gen := by
  unfold State.unpoison; split <;> rfl
theorem State.unpoison_hbmLine (s : State) (pa : Nat) (mask : BitVec 128) (part line : Nat) :
    (s.unpoison pa mask).hbmLine part line pa = s.hbmLine part line pa := by
  unfold State.unpoison; split <;> rfl

theorem State.homeLine_found {s : State} {unit part line gen pa : Nat} {l : LlcLine} (h : s.llcFind unit part line gen = some l) :
    (s.homeLine unit part line gen pa).1 = l.data := by
  unfold State.homeLine; rw [h]
theorem State.homeLine_memory {s : State} {unit part line gen pa : Nat} (h : s.llcFind unit part line gen = none) :
    (s.homeLine unit part line gen pa).1 = s.hbmLine part line pa := by
  unfold State.homeLine; rw [h]

section
variable {s : State} {unit part line gen pa i : Nat} {mask : BitVec 128} {data : BitVec 1024} (hi : i < 128)
include hi

/-- Where the slice holds the line, the write merges into it. -/
theorem homeMerge_held {l : LlcLine} (h : s.llcFind unit part line gen = some l) :
    lineByte ((s.homeMerge unit part line gen pa mask data).homeLine unit part line gen pa).1 i =
      if mask.getLsbD i then lineByte data i else lineByte l.data i := by
  obtain ⟨rfl, rfl, rfl, rfl⟩ := State.llcFind_key h
  rw [State.homeMerge_eq, State.unpoison_llcFind, h]
  dsimp only
  rw [State.homeLine_found (State.llcFind_llcPut _ _)]
  exact lineByte_mergeLine _ _ _ hi

theorem lineByte_read (m : Memory) (pa : Nat) : lineByte (lineOf (m.read pa 128)) i = m.get (pa + i) := by
  rw [lineByte_lineOf _ _ hi]
  unfold Memory.read
  rw [List.getD_eq_getElem _ _ (by simpa using hi), List.getElem_map, List.getElem_range]

/-- A masked write of memory, as the line reads before and after it. -/
theorem hbmWrite_line (s : State) : lineByte ((s.hbmWrite part line pa mask data).hbmLine part line pa) i =
      if mask.getLsbD i then lineByte data i else lineByte (s.hbmLine part line pa) i := by
  by_cases hh : (s.part part).hidden line = true
  · -- an unwritten zero-fill line takes the merge into zeros, and counts as written
    unfold State.hbmWrite State.hbmLine
    rw [if_pos hh, if_pos hh, State.part_mapPart, if_neg (by simp [Part.hidden])]
    show lineByte (lineOf ((maskWrite s.mem pa (BitVec.allOnes 128) (mergeLine 0 mask data)).read pa 128)) i = _
    rw [lineByte_read hi, maskWrite_get, Nat.add_sub_cancel_left, if_pos ⟨Nat.le_add_right _ _, hi, by rw [BitVec.getLsbD_allOnes]; exact decide_eq_true hi⟩]
    exact lineByte_mergeLine _ _ _ hi
  · unfold State.hbmWrite State.hbmLine
    rw [if_neg hh, if_neg hh]
    show lineByte (if (s.part part).hidden line then 0 else lineOf ((maskWrite s.mem pa mask data).read pa 128)) i = _
    rw [if_neg hh, lineByte_read hi, lineByte_read hi, maskWrite_get, Nat.add_sub_cancel_left]
    exact if_congr ⟨fun h => h.2.2, fun h => ⟨by omega, hi, h⟩⟩ rfl rfl

omit hi in
theorem hbmWrite_llc (s : State) : (s.hbmWrite part line pa mask data).llc = s.llc := by
  unfold State.hbmWrite; split <;> rfl

/-- Where the slice does not hold it, the write merges into memory. -/
theorem homeMerge_memory (h : s.llcFind unit part line gen = none) :
    lineByte ((s.homeMerge unit part line gen pa mask data).homeLine unit part line gen pa).1 i =
      if mask.getLsbD i then lineByte data i else lineByte (s.homeLine unit part line gen pa).1 i := by
  have hfind : ((s.unpoison pa mask).hbmWrite part line pa mask data).llcFind unit part line gen = none := by
    unfold State.llcFind
    rw [hbmWrite_llc]
    exact (State.unpoison_llcFind s pa mask unit part line gen).trans h
  rw [State.homeMerge_eq, State.unpoison_llcFind, h]
  dsimp only
  rw [State.homeLine_memory hfind, hbmWrite_line hi, State.unpoison_hbmLine, State.homeLine_memory h]

end

/-- Settles O51: the write merges into the slice's line where it holds it, and else into memory; the bump and the waiters leave both. -/
theorem homeWrites : Obligations.HomeWrites := by
  refine ⟨fun s unit part line gen pa i mask data hi hline => ?_, fun m pa x mask data => maskWrite_get m pa x mask data⟩
  by_cases hmask : mask = 0
  · subst hmask
    unfold State.homeWrite
    simp
  · unfold State.homeWrite
    rw [if_neg hmask, if_pos rfl, State.homeLine_bump_wake]
    rcases hline with hsome | ⟨hnone, hroom⟩
    · obtain ⟨l, hl⟩ := Option.isSome_iff_exists.mp hsome
      have ht : s.homeTouch unit part line gen pa = s.llcHit l := by unfold State.homeTouch; rw [hl]
      obtain ⟨k, hk, hkd⟩ := State.llcHit_find hl
      rw [ht, homeMerge_held hi hk, hkd, State.homeLine_found hl]
    · have hno : (if s.cached part line then s.llcRoom unit part line else none) = none := by
        split
        · next hc => exact hroom.resolve_right (by rw [hc]; exact Bool.noConfusion)
        · rfl
      have ht : s.homeTouch unit part line gen pa = s := by unfold State.homeTouch; rw [hnone]; dsimp only; rw [hno]
      rw [ht, homeMerge_memory hi hnone]

end Sys2Proof.Machine

/-! SUPPORT. The arenas' own steps (R77, R83, R84, R87, R89): broadcasts, drains, seals, the ash sweep and zero-fill. -/

namespace Sys2Proof.Machine

/-- The end of seals changes drains and futures only. -/
theorem State.sealsDone_spec (s : State) (part : Nat) :
    (s.sealsDone part).cores = s.cores ∧ (s.sealsDone part).mem = s.mem ∧ ((s.sealsDone part).part part).arenas = (s.part part).arenas := by
  have h (u : State) (l : List (Nat × Nat)) : (l.foldl (fun s f => s.resolve0 (some f) Status.done 0) u).still = u.still :=
    foldl_still _ (fun s f => State.resolve0_still s _ _ _) _ _
  unfold State.sealsDone
  dsimp only
  refine ⟨(State.still_cores (h _ _) :), (State.still_mem (h _ _) :), ?_⟩
  rw [State.still_part (h _ _), State.part_mapPart]

/-! ## Broadcasts -/

/-- The core takes the attributes of a broadcast. -/
def State.takesAttr (s : State) (core : Nat) (b : Bcast) : State :=
  s.mapCore core (fun c => { c with attr := c.attr.put b.aid b.attr, wc := c.wc.filter (fun x => lineArena x.line ≠ b.aid || x.gen = b.attr.gen) })

/-- With SEALED it and its die keep no copy of the arena's lines (R319). -/
def State.dropsCopies (s : State) (core part : Nat) (b : Bcast) : State :=
  if b.attr.state = Arn.sealed then
    let mine (line : Nat) : Bool := lineArena line == b.aid
    let s := (s.mapCore core (fun c => { c with l1 := c.l1.filter (fun l => !mine l.line) })).noFill core mine
    { s with llc := s.llc.filter (fun k => !(k.die = dieOfCore core && k.part = part && !k.home && mine k.line)) }
  else s

/-- A broadcast that a core has applied. -/
def Part.heard (p : Part) (b : Bcast) (core : Nat) : Part :=
  { p with bcasts := (p.bcasts.map (fun (x : Bcast) =>
      if x.no = b.no then { x with waiting := x.waiting.filter (· ≠ core) } else x)).filter (fun x => !x.waiting.isEmpty) }

section
variable {s : State} {core : Nat} {b : Bcast}

theorem exec_arenaBroadcastApply (h : (s.part (s.corePart core)).bcasts.find? (fun b => b.waiting.contains core) = some b) :
    exec (.arenaBroadcastApply core) s = .next ((((s.takesAttr core b).dropsCopies core (s.corePart core) b).mapPart (s.corePart core)
      (·.heard b core)).sealsDone (s.corePart core)) := by
  refine event_eq ?_
  unfold evArenaBroadcastApply
  dsimp only
  rw [h]
  rfl

/-- What the core has after it. -/
def Core.hears (c : Core) (b : Bcast) : Core :=
  { c with attr := c.attr.put b.aid b.attr, wc := c.wc.filter (fun x => lineArena x.line ≠ b.aid || x.gen = b.attr.gen)
           l1 := if b.attr.state = Arn.sealed then c.l1.filter (fun l => !(lineArena l.line == b.aid)) else c.l1 }

theorem State.hears_core (s : State) (core part : Nat) (b : Bcast) : ((s.takesAttr core b).dropsCopies core part b).core core = (s.core core).hears b := by
  have htakes (u : Core → Core) : ((s.takesAttr core b).mapCore core u).core core = u ((s.takesAttr core b).core core) :=
    (State.core_mapCore _ _ _ _).trans (if_pos rfl)
  have hcore : (s.takesAttr core b).core core = _ := (State.core_mapCore _ _ _ _).trans (if_pos rfl)
  unfold State.dropsCopies Core.hears
  split
  · refine Eq.trans (b := ((s.takesAttr core b).mapCore core (fun c =>
      { c with l1 := c.l1.filter (fun l => !(lineArena l.line == b.aid)) })).core core) rfl ?_
    rw [htakes, hcore]
  · exact hcore

theorem State.dropsCopies_rest (part p : Nat) :
    (s.dropsCopies core part b).mem = s.mem ∧ (s.dropsCopies core part b).part p = s.part p := by
  unfold State.dropsCopies; split <;> exact ⟨rfl, rfl⟩

theorem broadcast_applies (h : (s.part (s.corePart core)).bcasts.find? (fun b => b.waiting.contains core) = some b) :
    ∃ t, exec (.arenaBroadcastApply core) s = .next t ∧ t.core core = (s.core core).hears b ∧ t.mem = s.mem ∧
      (t.part (s.corePart core)).arenas = (s.part (s.corePart core)).arenas := by
  refine ⟨_, exec_arenaBroadcastApply h, ?_⟩
  obtain ⟨hwmem, hwpart⟩ := State.dropsCopies_rest (s := s.takesAttr core b) (core := core) (b := b) (s.corePart core) (s.corePart core)
  have hwcore := State.hears_core s core (s.corePart core) b
  generalize (s.takesAttr core b).dropsCopies core (s.corePart core) b = w at *
  obtain ⟨hcores, hmem, harenas⟩ := State.sealsDone_spec (w.mapPart (s.corePart core) (·.heard b core)) (s.corePart core)
  refine ⟨(State.core_congr hcores core).trans hwcore, hmem.trans hwmem, harenas.trans ?_⟩
  rw [State.part_mapPart]
  exact (congrArg Part.arenas hwpart :)

end

/-! ## Drains -/

/-- A drop's ids, freed one after another. -/
def State.frees (s : State) (part : Nat) (ds : List Drain) : State :=
  ds.foldl (fun s x => s.commit part x.aid { (s.part part).arena x.aid with state := Arn.free }) s

theorem State.frees_spec (ds : List Drain) (s : State) (part : Nat) :
    (s.frees part ds).mem = s.mem ∧ ∀ j, ((s.frees part ds).part part).arena j =
      if ∃ x ∈ ds, x.aid = j then { (s.part part).arena j with state := Arn.free } else (s.part part).arena j := by
  induction ds generalizing s with
  | nil => exact ⟨rfl, fun j => (if_neg (by simp)).symm⟩
  | cons d ds ih =>
    obtain ⟨hmem, harena⟩ := ih (s.commit part d.aid { (s.part part).arena d.aid with state := Arn.free })
    refine ⟨hmem, fun j => (harena j).trans ?_⟩
    rw [(State.commit_part s part d.aid _).1 j]
    by_cases hj : j = d.aid
    · subst hj
      rw [if_pos rfl, if_pos (show ∃ x ∈ d :: ds, x.aid = d.aid from ⟨d, List.mem_cons_self, rfl⟩)]
      split <;> rfl
    · rw [if_neg hj]
      refine if_congr ?_ rfl rfl
      simp only [List.mem_cons, exists_eq_or_imp, or_iff_right (Ne.symm hj)]

section
variable {s : State} {part aid : Nat} {d : Drain} (hd : (s.part part).drains.find? (fun d => d.aid = aid && d.stage = 0) = some d)
include hd

theorem drain_drops (hseal : d.isSeal = false) (hall : ∀ x ∈ (s.part part).dropDrains d, s.watermark part x = true) :
    exec (.drainWatermark part aid) s = .next (d.futs.foldl (fun s f => s.resolve0 (some f) Status.done 0)
      ((s.mapPart part (fun p => { p with drains := p.drains.filter (fun x => !((s.part part).dropDrains d).contains x) })).frees part
        ((s.part part).dropDrains d))) := by
  refine event_eq ?_
  unfold evDrainWatermark
  rw [hd]
  dsimp only
  rw [hseal, if_neg (c := false = true) Bool.false_ne_true, if_neg (by simpa using hall), if_neg Bool.false_ne_true]
  rfl

theorem drain_frees (hseal : d.isSeal = false) (hall : ∀ x ∈ (s.part part).dropDrains d, s.watermark part x = true) :
    ∃ t, exec (.drainWatermark part aid) s = .next t ∧ t.mem = s.mem ∧ ∀ j, (t.part part).arena j =
      if ∃ x ∈ (s.part part).dropDrains d, x.aid = j then { (s.part part).arena j with state := Arn.free } else (s.part part).arena j := by
  refine ⟨_, drain_drops hd hseal hall, ?_⟩
  have hstill (u : State) : (d.futs.foldl (fun s f => s.resolve0 (some f) Status.done 0) u).still = u.still :=
    foldl_still _ (fun s f => State.resolve0_still s _ _ _) _ _
  obtain ⟨hmem, harena⟩ := State.frees_spec ((s.part part).dropDrains d)
    (s.mapPart part (fun p => { p with drains := p.drains.filter (fun x => !((s.part part).dropDrains d).contains x) })) part
  refine ⟨(State.still_mem (hstill _)).trans hmem, fun j => ?_⟩
  rw [State.still_part (hstill _), harena, State.part_mapPart]
  rfl

/-- The cores' lines of an arena, published one core after another. -/
def State.publishAll (s : State) (cs : List Nat) (aid : Nat) : State :=
  cs.foldl (fun s c => s.publishLines c (fun line => lineArena line == aid)) s

omit hd in
theorem State.publishAll_shell (cs : List Nat) (aid : Nat) (s : State) : (s.publishAll cs aid).shell = s.shell :=
  foldl_shell _ (fun s c => State.publishLines_shell s c _) _ s

/-- The core keeps no dirty line of the arena. -/
def State.cleanOf (s : State) (aid c : Nat) : Prop := ∀ l ∈ (s.core c).l1, lineArena l.line = aid → l.dirty = 0

omit hd in
theorem State.publishLines_other (s : State) {core j : Nat} (p : Nat → Bool) (h : j ≠ core) : (s.publishLines core p).core j = s.core j := by
  unfold State.publishLines
  dsimp only
  rw [State.core_congr (State.noFill_cores _ core _), State.core_mapCore, if_neg h,
    State.core_congr (foldl_cores _ (fun s l => State.writeBack_cores s core l []) _ s)]

omit hd in
theorem State.publishLines_cleans (s : State) (core aid : Nat) : (s.publishLines core (fun line => lineArena line == aid)).cleanOf aid core := by
  unfold State.cleanOf
  rw [State.publishLines_l1]
  intro l hl hin
  obtain ⟨x, -, rfl⟩ := List.mem_map.mp hl
  by_cases hx : (lineArena x.line == aid) = true
  · rw [if_pos hx]
  · rw [if_neg hx] at hin
    exact absurd (beq_iff_eq.mpr hin) hx

omit hd in
theorem State.publishAll_keeps {aid c : Nat} (cs : List Nat) {s : State} (h : s.cleanOf aid c) : (s.publishAll cs aid).cleanOf aid c := by
  induction cs generalizing s with
  | nil => exact h
  | cons b cs ih =>
    refine ih ?_
    by_cases hb : c = b
    · exact hb ▸ State.publishLines_cleans s c aid
    · unfold State.cleanOf
      rw [State.publishLines_other s _ hb]
      exact h

omit hd in
theorem State.publishAll_cleans {aid c : Nat} (cs : List Nat) (hc : c ∈ cs) (s : State) : (s.publishAll cs aid).cleanOf aid c := by
  induction cs generalizing s with
  | nil => exact absurd hc List.not_mem_nil
  | cons b cs ih =>
    rcases List.mem_cons.mp hc with rfl | hc
    · exact State.publishAll_keeps cs (State.publishLines_cleans s c aid)
    · exact ih hc _

theorem drain_seals (hw : s.watermark part d = true) (hseal : d.isSeal = true) :
    exec (.drainWatermark part aid) s = .next ((s.publishAll (s.tableCores part) aid).mapPart part (fun p =>
      { p with drains := p.drains.map (fun (x : Drain) => if x = d then { x with stage := 1 } else x) })) := by
  refine event_eq ?_
  unfold evDrainWatermark
  rw [hd]
  dsimp only
  rw [hseal, if_pos (c := true = true) rfl, if_neg (by simpa using hw), if_pos rfl]
  rfl

end

/-! ## The end of a seal, the ash sweep and zero-fill -/

theorem seal_completes {s : State} {part aid : Nat} {d : Drain}
    (hd : (s.part part).drains.find? (fun d => d.aid = aid && d.isSeal && d.stage = 1) = some d) (hc : s.carried part aid d.gen = false) :
    exec (.sealComplete part aid) s = .next ((s.commit part aid { (s.part part).arena aid with state := Arn.sealed, sealp := false }).mapPart part
      (fun p => { p with drains := p.drains.map (fun (x : Drain) => if x = d then { x with stage := 2, bno := p.bno } else x) })) := by
  refine event_eq ?_
  unfold evSealComplete
  rw [hd]
  dsimp only
  rw [hc, if_neg Bool.false_ne_true]

/-- The L1s of cores, swept. -/
def State.sweep (s : State) (p : Part) (cs : List Nat) : State :=
  cs.foldl (fun s c => s.mapCore c (fun y => { y with l1 := y.l1.filter (fun l => p.currentGen l.line l.gen) })) s

theorem ash_sweeps {s : State} {part : Nat} (h : (s.part part).arenas.any (fun e => e.2.sweeps ≠ 0) = true) :
    exec (.ashSweepPass part) s = .next ((({ s.sweep (s.part part) (s.partCores part) with
      llc := (s.sweep (s.part part) (s.partCores part)).llc.filter (fun l => l.part ≠ part || (s.part part).currentGen l.line l.gen) } : State).mapPart part
        (fun p => { p with arenas := p.arenas.map (fun e => (e.1, { e.2 with sweeps := 0 })) }))) := by
  refine event_eq ?_
  unfold evAshSweepPass
  dsimp only
  rw [h]
  rfl

/-- The core's L1 holds current lines alone. -/
def State.sweptOf (s : State) (p : Part) (c : Nat) : Prop := ∀ l ∈ (s.core c).l1, p.currentGen l.line l.gen = true

theorem State.sweep_rest (p : Part) (cs : List Nat) (s : State) : (s.sweep p cs).mem = s.mem ∧ (s.sweep p cs).ctxs = s.ctxs := by
  induction cs generalizing s with
  | nil => exact ⟨rfl, rfl⟩
  | cons c cs ih => exact ih _

theorem State.sweep_keeps {p : Part} {c : Nat} (cs : List Nat) {s : State} (h : s.sweptOf p c) : (s.sweep p cs).sweptOf p c := by
  induction cs generalizing s with
  | nil => exact h
  | cons b cs ih =>
    refine ih ?_
    unfold State.sweptOf
    rw [State.core_mapCore]
    split
    · exact fun l hl => (List.mem_filter.mp hl).2
    · exact h

theorem State.sweep_sweeps {p : Part} {c : Nat} (cs : List Nat) (hc : c ∈ cs) (s : State) : (s.sweep p cs).sweptOf p c := by
  induction cs generalizing s with
  | nil => exact absurd hc List.not_mem_nil
  | cons b cs ih =>
    rcases List.mem_cons.mp hc with rfl | hc
    · refine State.sweep_keeps cs ?_
      unfold State.sweptOf
      rw [State.core_mapCore, if_pos rfl]
      exact fun l hl => (List.mem_filter.mp hl).2
    · exact ih hc _

/-- A line of a page, zeroed where nothing has written it (R83). -/
def zeroLine (p : Part) (e page : Nat) (m : Memory) (i : Nat) : Memory :=
  if p.zfLines.contains (page * 32 + i) then m else maskWrite m (leafPa e (page * 4096 + 128 * i)) (BitVec.allOnes 128) 0
/-- The lines of a page. -/
def zeroPage (p : Part) (e page : Nat) (l : List Nat) (m : Memory) : Memory := l.foldl (zeroLine p e page) m

theorem page_zeroes {s : State} {part page e : Nat} (hzf : ((s.part part).arena (arenaOf (page * 4096))).zf = true)
    (hpage : (s.part part).zfPages.contains page = false) (he : s.walkVa part (page * 4096) = some e) :
    exec (.zeroFillPageDone part page) s = .next (({ s with mem := zeroPage (s.part part) e page (List.range 32) s.mem } : State).mapPart part
      (fun p => { p with zfPages := page :: p.zfPages, zfLines := p.zfLines.filter (fun l => l / 32 ≠ page) })) := by
  refine event_eq ?_
  unfold evZeroFillPageDone
  dsimp only
  rw [hzf, hpage, he]
  rfl

theorem lineByte_zero (i : Nat) : lineByte 0 i = 0 := by
  unfold lineByte
  exact BitVec.eq_of_getLsbD_eq fun j hj => by simp

/-- A zeroed line reads zero, and every other byte as before. -/
theorem zeroMask_get (m : Memory) (pa x : Nat) :
    (maskWrite m pa (BitVec.allOnes 128) 0).get x = if pa ≤ x ∧ x - pa < 128 then 0 else m.get x := by
  rw [maskWrite_get, lineByte_zero]
  refine if_congr ?_ rfl rfl
  rw [BitVec.getLsbD_allOnes, decide_eq_true_eq, and_self]

/-- The bytes of the page's lines. -/
def inLine (e page i x : Nat) : Prop := leafPa e (page * 4096 + 128 * i) ≤ x ∧ x - leafPa e (page * 4096 + 128 * i) < 128

theorem zeroPage_outside {p : Part} {e page x : Nat} (l : List Nat) (h : ∀ i ∈ l, ¬ inLine e page i x) (m : Memory) :
    (zeroPage p e page l m).get x = m.get x := by
  induction l generalizing m with
  | nil => rfl
  | cons i l ih =>
    refine (ih (fun j hj => h j (List.mem_cons_of_mem _ hj)) _).trans ?_
    unfold zeroLine
    by_cases hw : p.zfLines.contains (page * 32 + i) = true
    · rw [if_pos hw]
    · rw [if_neg hw, zeroMask_get]
      exact if_neg (h i List.mem_cons_self)

theorem zeroPage_stays {p : Part} {e page x : Nat} (l : List Nat) {m : Memory} (h : m.get x = 0) : (zeroPage p e page l m).get x = 0 := by
  induction l generalizing m with
  | nil => exact h
  | cons i l ih =>
    refine ih ?_
    unfold zeroLine
    by_cases hw : p.zfLines.contains (page * 32 + i) = true
    · rw [if_pos hw]
      exact h
    · rw [if_neg hw, zeroMask_get, h, ite_self]

theorem zeroPage_zero {p : Part} {e page x i : Nat} (l : List Nat) (hi : i ∈ l) (hx : inLine e page i x)
    (hw : p.zfLines.contains (page * 32 + i) = false) (m : Memory) : (zeroPage p e page l m).get x = 0 := by
  induction l generalizing m with
  | nil => exact absurd hi List.not_mem_nil
  | cons j l ih =>
    rcases List.mem_cons.mp hi with rfl | hi
    · refine zeroPage_stays l ?_
      unfold zeroLine
      rw [hw, if_neg Bool.false_ne_true, zeroMask_get]
      exact if_pos hx
    · exact ih hi _

/-- Settles O38: each step, with what it changes of the core's attributes and L1, of the partition's table, or of memory. -/
theorem arenaSteps : Obligations.ArenaSteps := by
  refine ⟨fun s core b h => ?_, fun s part aid d hd hseal hall => ?_, fun s part aid d hd hw hseal => ?_, fun s part aid d hd hc => ?_,
    fun s part h => ?_, fun s part page e hzf hpage he => ?_⟩
  · obtain ⟨t, hx, hcore, hmem, harenas⟩ := broadcast_applies h
    have hattr (j : Nat) : t.attr core j = if j = b.aid then b.attr else s.attr core j := by
      unfold State.attr
      rw [hcore]
      unfold Core.hears
      dsimp only
      rw [AMap.find_put]
      split <;> rfl
    refine ⟨t, hx, (hattr _).trans (if_pos rfl), fun j hj => (hattr j).trans (if_neg hj), fun hs l hl => ?_, fun hs => ?_, hmem, harenas⟩
    · rw [hcore, Core.hears, if_pos hs] at hl
      simpa using (List.mem_filter.mp hl).2
    · rw [hcore, Core.hears, if_neg hs]
  · obtain ⟨t, hx, hmem, harena⟩ := drain_frees hd hseal hall
    exact ⟨t, hx, fun x hx => (harena x.aid).trans (if_pos ⟨x, hx, rfl⟩), fun j hj => (harena j).trans (if_neg fun ⟨x, hx, he⟩ => hj x hx he), hmem⟩
  · have hshell := State.publishAll_shell (s.tableCores part) aid s
    refine ⟨_, drain_seals hd hw hseal, ?_, (State.shell_mem hshell :), fun c hc => State.publishAll_cleans _ hc s⟩
    rw [State.part_mapPart]
    exact (congrArg Part.arenas (State.shell_part hshell part) :)
  · have harena (j : Nat) := (State.commit_part s part aid { (s.part part).arena aid with state := Arn.sealed, sealp := false }).1 j
    refine ⟨_, seal_completes hd hc, ?_, fun j hj => ?_, rfl, rfl, rfl⟩
    · rw [State.part_mapPart]
      exact (harena aid).trans (if_pos rfl)
    · rw [State.part_mapPart]
      exact (harena j).trans (if_neg hj)
  · obtain ⟨hmem, hctxs⟩ := State.sweep_rest (s.part part) (s.partCores part) s
    refine ⟨_, ash_sweeps h, ?_, fun l hl hp => ?_, fun c hc l hl => ?_, hmem, hctxs⟩
    · rw [State.part_mapPart]
      simp
    · have hl := (List.mem_filter.mp hl).2
      simpa [hp, Part.currentGen] using hl
    · simpa [Part.currentGen] using State.sweep_sweeps (p := s.part part) (s.partCores part) hc s l hl
  · refine ⟨_, page_zeroes hzf hpage he, ?_, fun x hx => ?_, fun i j hi hj hw => ?_, rfl⟩
    · rw [State.part_mapPart]
      rfl
    · refine zeroPage_outside _ (fun i hi h => ?_) _
      have := hx i (x - leafPa e (page * 4096 + 128 * i)) (List.mem_range.mp hi) h.2
      have := h.1
      omega
    · exact zeroPage_zero _ (List.mem_range.mpr hi) ⟨Nat.le_add_right _ _, by omega⟩ hw _

end Sys2Proof.Machine

/-! SUPPORT. Privileged registers (R391, R397, R398, R400). -/

namespace Sys2Proof.Machine

/-! ## A die's ring -/

/-- What a die has beside its hearth store, its ring registers' producer. -/
def Die.unposted (d : Die) : Die := { d with hls := [], fqprod := 0 }

theorem Die.ringPut_unposted (d : Die) (r : FaultRec) : (d.ringPut r).unposted = d.unposted := by
  unfold Die.ringPut
  split <;> rfl

theorem Die.ringPuts_unposted (rs : List FaultRec) (d : Die) : (rs.foldl Die.ringPut d).unposted = d.unposted := by
  induction rs generalizing d with
  | nil => rfl
  | cons r rs ih => exact (ih _).trans (Die.ringPut_unposted d r)

theorem Die.post_unposted {d t : Die} {rs : List FaultRec} (h : d.post rs = some t) : t.unposted = d.unposted := by
  unfold Die.post at h
  split at h
  · obtain rfl := Option.some.inj h
    exact Die.ringPuts_unposted rs d
  · exact absurd h nofun

theorem postEpisodes_unposted (die : Nat) (es : List Episode) (d : Die) : (postEpisodes die es d).2.unposted = d.unposted := by
  induction es generalizing d with
  | nil => rfl
  | cons e es ih =>
    unfold postEpisodes
    split
    · split
      · next d' hd => exact (ih d').trans (Die.post_unposted hd)
      · rfl
    · exact ih d

theorem State.die_mapDie (s : State) (k j : Nat) (f : Die → Die) : (s.mapDie k f).die j = if j = k then f (s.die k) else s.die j := by
  unfold State.mapDie State.die
  dsimp only
  rw [AMap.find_put]
  split <;> rfl

/-- Posting what a die's episodes hold back changes that die's ring and the episodes. -/
theorem State.flushEpisodes_spec (s : State) (die : Nat) :
    ((s.flushEpisodes die).die die).unposted = (s.die die).unposted ∧ (∀ e, e ≠ die → (s.flushEpisodes die).die e = s.die e) ∧
      ({ s.flushEpisodes die with dies := [], episodes := [] } : State) = { s with dies := [], episodes := [] } := by
  unfold State.flushEpisodes
  dsimp only
  refine ⟨?_, fun e he => ?_, rfl⟩
  · rw [State.die_mapDie, if_pos rfl]
    exact postEpisodes_unposted die s.episodes (s.die die)
  · rw [State.die_mapDie, if_neg he]
    rfl

/-- Everything but the dies and the episodes. -/
def State.undied (s : State) : State := { s with dies := [], episodes := [] }

section
variable (s : State) (die : Nat) (v : W64)

theorem State.writeFaultq_bad (h : ¬ (4 ≤ bits v.toNat 32 4 ∧ bits v.toNat 32 4 ≤ 12 ∧ v.toNat % 32 = 0)) : s.writeFaultq die v = s := by
  unfold State.writeFaultq
  refine if_neg fun hc => h ?_
  simpa [bits_eq v.toNat 0 5, and_assoc] using hc

theorem State.writeFaultq_ok (h1 : 4 ≤ bits v.toNat 32 4) (h2 : bits v.toNat 32 4 ≤ 12) (h3 : v.toNat % 32 = 0) :
    (s.writeFaultq die v).undied = s.undied ∧ (∀ e, e ≠ die → (s.writeFaultq die v).die e = s.die e) ∧
      ((s.writeFaultq die v).die die).faultq = BitVec.ofNat 64 (v.toNat % 2 ^ 36) ∧ ((s.writeFaultq die v).die die).fqcons = (s.die die).fqcons := by
  have heq : s.writeFaultq die v = (s.mapDie die (fun d => { d with faultq := BitVec.ofNat 64 (bits v.toNat 0 36) })).flushEpisodes die := by
    unfold State.writeFaultq
    exact if_pos (by simpa [bits_eq v.toNat 0 5, and_assoc] using ⟨h1, h2, h3⟩)
  obtain ⟨hdie, hother, hrest⟩ := State.flushEpisodes_spec (s.mapDie die (fun d => { d with faultq := BitVec.ofNat 64 (bits v.toNat 0 36) })) die
  rw [State.die_mapDie, if_pos rfl] at hdie
  rw [heq]
  refine ⟨hrest, fun e he => (hother e he).trans ((State.die_mapDie _ _ _ _).trans (if_neg he)), ?_, (congrArg Die.fqcons hdie :)⟩
  rw [show bits v.toNat 0 36 = v.toNat % 2 ^ 36 by rw [bits_eq, Nat.pow_zero, Nat.div_one]] at hdie ⊢
  exact (congrArg Die.faultq hdie :)

theorem State.writeFqcons_ok :
    (s.writeFqcons die v).undied = s.undied ∧ (∀ e, e ≠ die → (s.writeFqcons die v).die e = s.die e) ∧
      ((s.writeFqcons die v).die die).fqcons = BitVec.ofNat 32 v.toNat ∧ ((s.writeFqcons die v).die die).faultq = (s.die die).faultq := by
  obtain ⟨hdie, hother, hrest⟩ := State.flushEpisodes_spec (s.mapDie die (fun d => { d with fqcons := v.extractLsb' 0 32 })) die
  rw [State.die_mapDie, if_pos rfl] at hdie
  refine ⟨hrest, fun e he => (hother e he).trans ((State.die_mapDie _ _ _ _).trans (if_neg he)), (congrArg Die.fqcons hdie :).trans ?_,
    (congrArg Die.faultq hdie :)⟩
  exact congrArg (BitVec.ofNat 32) (Nat.shiftRight_zero)

end

/-! ## y.wrpr -/

theorem exec_yRdpr (h : Hdr) (d a : RegNo) (s : State) : exec (.yRdpr h d a) s = issue .priv h 8 { rd := [], wr := [.s d] } s
    (fun is s => pure (s.wrS is d (s.readPr is.a a.toNat))) := rfl

theorem exec_yWrpr (h : Hdr) (d a : RegNo) (s : State) : exec (.yWrpr h d a) s = issue .priv h 8 { rd := [.s a], wr := [] } s
    (fun is s => require (isHearth is.a || !prHearth d.toNat) (is.fault0 Code.priv) >>= fun _ => pure (s.writePr is.a d.toNat (is.s a))) := rfl

theorem State.retire_dies (s : State) (is : Iss) : (s.retire is).dies = s.dies := (congrArg State.dies (State.retire_rest s is) :)

section
variable {s : State} {is : Iss} {h : Hdr} {d a : RegNo} (hr : s.ready .priv h 8 { rd := [.s a], wr := [] } = some is)
include hr

theorem wrpr_priv (hh : isHearth is.a = false) (hd : prHearth d.toNat = true) :
    exec (.yWrpr h d a) s = .next (s.except is (is.fault0 Code.priv)) := by
  rw [exec_yWrpr]
  exact issue_error hr (by rw [require_bind, if_neg (by rw [hh, hd]; exact Bool.false_ne_true)])

theorem wrpr_writes (hok : isHearth is.a = true ∨ prHearth d.toNat = false) {t : State} (ht : s.writePr is.a d.toNat (is.s a) = t) :
    exec (.yWrpr h d a) s = .next (t.retire is) := by
  rw [exec_yWrpr]
  refine issue_ready hr ?_
  rw [require_bind, if_pos (by rcases hok with h | h <;> simp [h]), ht]
  rfl

/-- A write that changes dies and episodes only. -/
theorem wrpr_die (hok : isHearth is.a = true ∨ prHearth d.toNat = false) {t : State} (ht : s.writePr is.a d.toNat (is.s a) = t)
    (hu : t.undied = s.undied) (ho : ∀ e, e ≠ dieOf is.a → t.die e = s.die e) :
    ∃ c, exec (.yWrpr h d a) s = .next (t.retire is) ∧ MovesOn s (t.retire is) is c ∧
      ((t.retire is).mem = s.mem ∧ (t.retire is).teams = s.teams ∧ ∀ e, e ≠ dieOf is.a → (t.retire is).die e = s.die e) ∧
      ∀ e, (t.retire is).die e = t.die e := by
  have hctxs : t.ctxs = s.ctxs := (congrArg State.ctxs hu :)
  have hdie (e : Nat) : (t.retire is).die e = t.die e := by
    unfold State.die
    rw [State.retire_dies]
  exact ⟨_, wrpr_writes hr hok ht, movesOn hr ((State.ctx?_congr hctxs _).trans (State.ready_ctx hr)) rfl (fun b _ => State.ctx?_congr hctxs b),
    ⟨(State.retire_mem _ _).trans (congrArg State.mem hu :), (State.retire_teams _ _).trans (congrArg State.teams hu :),
      fun e he => (hdie e).trans (ho e he)⟩, hdie⟩

/-- A change of the die that leaves the others. -/
theorem wrpr_mapDie (hok : isHearth is.a = true ∨ prHearth d.toNat = false) {f : Die → Die}
    (ht : s.writePr is.a d.toNat (is.s a) = s.mapDie (dieOf is.a) f) :
    ∃ t c, exec (.yWrpr h d a) s = .next t ∧ MovesOn s t is c ∧
      (t.mem = s.mem ∧ t.teams = s.teams ∧ ∀ e, e ≠ dieOf is.a → t.die e = s.die e) ∧ t.die (dieOf is.a) = f (s.die (dieOf is.a)) := by
  obtain ⟨c, hx, hm, hsame, hdie⟩ := wrpr_die hr hok ht rfl (fun e he => (State.die_mapDie _ _ _ _).trans (if_neg he))
  exact ⟨_, c, hx, hm, hsame, (hdie _).trans ((State.die_mapDie _ _ _ _).trans (if_pos rfl))⟩

/-- The set-up registers (R397). -/
theorem wrpr_setup {f : Part → Part} (ht : s.writePr is.a d.toNat (is.s a) = s.mapPart (s.agentPart is.a) f) (hd : prHearth d.toNat = false) :
    ∃ t c, exec (.yWrpr h d a) s = .next t ∧ MovesOn s t is c ∧ t.mem = s.mem ∧ t.dies = s.dies ∧
      t.part (s.agentPart is.a) = f (s.part (s.agentPart is.a)) := by
  refine ⟨_, _, wrpr_writes hr (.inr hd) ht, movesOn hr (State.ready_ctx hr) rfl (fun _ _ => rfl), State.retire_mem _ _, State.retire_dies _ _, ?_⟩
  rw [State.part_retire, State.part_mapPart]

end

/-- The set-up registers' codes. -/
theorem writePr_discards {s : State} {a : Agent} {d : RegNo} (v : W64) (hd : d = 1 ∨ d = 2 ∨ d = 3 ∨ d = 8)
    (h : isHearth a = false ∨ (s.die (dieOf a)).bootrec.getLsbD 0 = true) : s.writePr a d.toNat v = s := by
  have hset : ¬ (isHearth a && !(s.die (dieOf a)).bootrec.getLsbD 0) = true := by
    rcases h with h | h <;> simp [h]
  rcases hd with rfl | rfl | rfl | rfl <;> exact if_neg hset

/-- The breakpoint registers. -/
theorem writePr_bkpt (s : State) (a : Agent) (v : W64) {c : Nat} (h1 : 0x10 ≤ c) (h2 : c ≤ 0x17) : s.writePr a c v =
    s.mapDie (dieOf a) (fun d => { d with bkpt := AMap.set 0 d.bkpt (c - 0x10) (v &&& 0x00FFFFFFFFFFFFFD) }) := by
  interval_cases c <;> rfl

theorem prHearth_iff (d : RegNo) : prHearth d.toNat = true ↔ d = 4 ∨ d = 6 ∨ d = 7 ∨ (0x10 ≤ d.toNat ∧ d.toNat ≤ 0x17) := by
  have h (n : Nat) (hn : n < 256) : d.toNat = n ↔ d = BitVec.ofNat 8 n := by
    rw [← BitVec.toNat_inj, BitVec.toNat_ofNat, Nat.mod_eq_of_lt hn]
  simp only [prHearth, Bool.or_eq_true, Bool.and_eq_true, decide_eq_true_eq, h 4 (by decide), h 6 (by decide), h 7 (by decide), or_assoc]
  rfl

/-! What y.wrpr does for a hearth's wave (R397, R398). -/

section
variable {s : State} {is : Iss} {h : Hdr} {d a : RegNo} (hr : s.ready .priv h 8 { rd := [.s a], wr := [] } = some is) (hh : isHearth is.a = true)
include hr hh

theorem wrpr_bkpt (h1 : 0x10 ≤ d.toNat) (h2 : d.toNat ≤ 0x17) : ∃ t c, exec (.yWrpr h d a) s = .next t ∧ MovesOn s t is c ∧
    (t.mem = s.mem ∧ t.teams = s.teams ∧ ∀ e, e ≠ dieOf is.a → t.die e = s.die e) ∧
    (∀ i, AMap.get 0 (t.die (dieOf is.a)).bkpt i =
      if i = d.toNat - 0x10 then is.s a &&& 0x00FFFFFFFFFFFFFD else AMap.get 0 (s.die (dieOf is.a)).bkpt i) ∧
    { t.die (dieOf is.a) with bkpt := [] } = { s.die (dieOf is.a) with bkpt := [] } := by
  obtain ⟨t, c, hx, hm, hsame, hdie⟩ := wrpr_mapDie hr (.inl hh) (writePr_bkpt s is.a (is.s a) h1 h2)
  exact ⟨t, c, hx, hm, hsame, fun i => by rw [hdie]; exact AMap.get_set _ _ _ _ _, by rw [hdie]⟩

theorem wrpr_faultq (hd : d = 4) (h1 : 4 ≤ bits (is.s a).toNat 32 4) (h2 : bits (is.s a).toNat 32 4 ≤ 12) (h3 : (is.s a).toNat % 32 = 0) :
    ∃ t c, exec (.yWrpr h d a) s = .next t ∧ MovesOn s t is c ∧ (t.mem = s.mem ∧ t.teams = s.teams ∧ ∀ e, e ≠ dieOf is.a → t.die e = s.die e) ∧
      (t.die (dieOf is.a)).faultq = BitVec.ofNat 64 ((is.s a).toNat % 2 ^ 36) ∧ (t.die (dieOf is.a)).fqcons = (s.die (dieOf is.a)).fqcons := by
  subst hd
  obtain ⟨hu, ho, hq, hc⟩ := State.writeFaultq_ok s (dieOf is.a) (is.s a) h1 h2 h3
  obtain ⟨c, hx, hm, hsame, hdie⟩ := wrpr_die (h := h) (d := 4) hr (.inl hh) (t := s.writeFaultq (dieOf is.a) (is.s a)) rfl hu ho
  exact ⟨_, c, hx, hm, hsame, by rw [hdie]; exact hq, by rw [hdie]; exact hc⟩

theorem wrpr_fqcons (hd : d = 6) :
    ∃ t c, exec (.yWrpr h d a) s = .next t ∧ MovesOn s t is c ∧ (t.mem = s.mem ∧ t.teams = s.teams ∧ ∀ e, e ≠ dieOf is.a → t.die e = s.die e) ∧
      (t.die (dieOf is.a)).fqcons = BitVec.ofNat 32 (is.s a).toNat ∧ (t.die (dieOf is.a)).faultq = (s.die (dieOf is.a)).faultq := by
  subst hd
  obtain ⟨hu, ho, hc, hq⟩ := State.writeFqcons_ok s (dieOf is.a) (is.s a)
  obtain ⟨c, hx, hm, hsame, hdie⟩ := wrpr_die (h := h) (d := 6) hr (.inl hh) (t := s.writeFqcons (dieOf is.a) (is.s a)) rfl hu ho
  exact ⟨_, c, hx, hm, hsame, by rw [hdie]; exact hc, by rw [hdie]; exact hq⟩

end

theorem bits_low (v n : Nat) : bits v 0 n = v % 2 ^ n := by rw [bits_eq, Nat.pow_zero, Nat.div_one]

/-- The set-up registers of a hearth that is not ready. -/
theorem wrpr_hearth_setup {s : State} {is : Iss} {h : Hdr} {d a : RegNo} (hr : s.ready .priv h 8 { rd := [.s a], wr := [] } = some is)
    (hh : isHearth is.a = true) (hb : (s.die (dieOf is.a)).bootrec.getLsbD 0 = false) (hd : d = 1 ∨ d = 2 ∨ d = 3 ∨ d = 8) :
    let p := s.part (s.agentPart is.a)
    let w : W64 := BitVec.ofNat 64 ((is.s a).toNat % 2 ^ 53)
    ∃ t c, exec (.yWrpr h d a) s = .next t ∧ MovesOn s t is c ∧ t.mem = s.mem ∧ t.dies = s.dies ∧
      t.part (s.agentPart is.a) = (if d = 1 then { p with arenatab := w } else if d = 2 then { p with regiontab := w }
        else if d = 3 then { p with ptbase := w } else { p with rootpc := is.s a &&& 0x00FFFFFFFFFFFFFC }) := by
  have hset : (isHearth is.a && !(s.die (dieOf is.a)).bootrec.getLsbD 0) = true := by rw [hh, hb]; rfl
  rw [← bits_low]
  rcases hd with rfl | rfl | rfl | rfl
  · exact wrpr_setup hr (f := fun p => { p with arenatab := BitVec.ofNat 64 (bits (is.s a).toNat 0 53) }) (if_pos hset) rfl
  · exact wrpr_setup hr (f := fun p => { p with regiontab := BitVec.ofNat 64 (bits (is.s a).toNat 0 53) }) (if_pos hset) rfl
  · exact wrpr_setup hr (f := fun p => { p with ptbase := BitVec.ofNat 64 (bits (is.s a).toNat 0 53) }) (if_pos hset) rfl
  · exact wrpr_setup hr (f := fun p => { p with rootpc := pcBits (is.s a) }) (if_pos hset) rfl

/-- The hearth's own stores (R391). -/
theorem exec_prFaultqWrite {s : State} {die : Nat} (v : W64) (hdie : die < 24) (hlive : (s.die die).live = true) :
    exec (.prFaultqWrite die v) s = .next (s.writeFaultq die v) := event_eq (if_pos (by simp [hdie, hlive]))
theorem exec_prFqconsWrite {s : State} {die : Nat} (v : W64) (hdie : die < 24) (hlive : (s.die die).live = true) :
    exec (.prFqconsWrite die v) s = .next (s.writeFqcons die v) := event_eq (if_pos (by simp [hdie, hlive]))

/-- Settles O42: one register after another. -/
theorem privilegedRegisters : Obligations.PrivilegedRegisters := by
  refine ⟨fun s is h d a hr => ?_, fun s is h d a hr => ⟨fun hh hd => wrpr_priv hr hh ((prHearth_iff d).mpr hd), fun hd => ?_, fun hd => ?_,
    fun hh => ⟨fun hd => ?_, wrpr_bkpt hr hh, fun hd hbad => ?_, wrpr_faultq hr hh, wrpr_fqcons hr hh⟩, fun hd hno => ?_,
    fun hh hb hd => wrpr_hearth_setup hr hh hb hd⟩,
    fun s die v hdie hlive => ⟨fun h1 h2 h3 => ?_, fun hbad => ?_, ?_⟩⟩
  · obtain ⟨t, c, hx, hm, hs, hk, hv, hf, -, hrest, -⟩ := issue_wrS (body := fun is s => pure (s.wrS is d (s.readPr is.a a.toNat))) hr rfl
    exact ⟨t, c, (exec_yRdpr h d a s).trans hx, hm, hs, hk, hv, hf, hrest⟩
  · rcases hd with rfl | rfl <;> exact wrpr_writes hr (.inr rfl) rfl
  · subst hd
    obtain ⟨t, c, hx, hm, hsame, hdie⟩ := wrpr_mapDie (h := h) (d := 9) hr (.inr rfl) (f := fun d => { d with bootrec := is.s a &&& 0x00FFFFFFFFFFFF07 }) rfl
    exact ⟨t, c, hx, hm, hsame, hdie⟩
  · subst hd
    obtain ⟨t, c, hx, hm, hsame, hdie⟩ := wrpr_mapDie (h := h) (d := 7) hr (.inl hh) (f := fun d => { d with window := BitVec.ofNat 64 (bits (is.s a).toNat 0 16) }) rfl
    rw [bits_low] at hdie
    exact ⟨t, c, hx, hm, hsame, hdie⟩
  · subst hd
    exact wrpr_writes hr (.inl hh) (State.writeFaultq_bad s (dieOf is.a) (is.s a) hbad)
  · refine wrpr_writes hr (.inr ?_) (writePr_discards _ hd hno)
    rcases hd with rfl | rfl | rfl | rfl <;> rfl
  · obtain ⟨hu, -, hq, -⟩ := State.writeFaultq_ok s die v h1 h2 h3
    exact ⟨_, exec_prFaultqWrite v hdie hlive, hq, (congrArg State.mem hu :), (congrArg State.ctxs hu :)⟩
  · rw [exec_prFaultqWrite v hdie hlive, State.writeFaultq_bad s die v hbad]
  · obtain ⟨hu, -, hc, -⟩ := State.writeFqcons_ok s die v
    exact ⟨_, exec_prFqconsWrite v hdie hlive, hc, (congrArg State.mem hu :), (congrArg State.ctxs hu :)⟩

end Sys2Proof.Machine

/-! SUPPORT. One step of the machine (R25, R41, R343, R376, R377, R389, R399): the turn, the agent that moves, and the wave that issues. -/

namespace Sys2Proof.Machine

/-- What a picked move does. -/
def Pick.after : Pick → Host.Outcome State Fault Refusal
  | .run i s => exec i s
  | .done s => .next s

theorem step_eq (s : State) : step s = s.pick.after := by
  unfold step
  cases s.pick <;> rfl

/-- The state of a turn: it is taken off, and the count of steps has advanced. -/
def State.turned (s : State) (l : List Turn) : State := { s with tick := s.tick + 1, turns := l }

theorem step_turn {s : State} {t : Turn} {l : List Turn} (h : s.turns = t :: l) : step s = ((s.turned l).takeTurn t).after := by
  rw [step_eq]
  unfold State.pick
  rw [h]
  rfl

theorem step_default {s : State} (h : s.turns = []) : step s = step { s with turns := [s.defaultTurn] } := by
  rw [step_eq, step_turn (s := { s with turns := [s.defaultTurn] }) rfl]
  have hs : ({ s with turns := [] } : State) = s := by cases s; cases h; rfl
  have ht : State.turned { s with turns := [s.defaultTurn] } [] = { s with tick := s.tick + 1 } := by
    calc State.turned { s with turns := [s.defaultTurn] } [] = { ({ s with turns := [] } : State) with tick := s.tick + 1 } := rfl
      _ = { s with tick := s.tick + 1 } := by rw [hs]
  rw [ht]
  unfold State.pick
  rw [h]

/-! ## An agent's move -/

section
variable {s : State} {a : Agent} {frag : Nat} {c : Ctx} (hreal : realAgent a = true)
  (hc : ({ s with cur := a, frag := frag } : State).ctx? a = some c) (hstop : c.stop = none) (hout : c.out = none)
include hreal hc hstop hout

omit hreal hstop hout in
theorem turnIssue_unbound (hb : ({ s with cur := a, frag := frag } : State).bound a c = false) :
    s.turnIssue a frag = .done { s with cur := a, frag := frag } := by
  unfold State.turnIssue
  dsimp only
  rw [hc]
  dsimp only
  rw [hb, if_pos (by simp)]

theorem turnIssue_bound (hb : ({ s with cur := a, frag := frag } : State).bound a c = true) :
    s.turnIssue a frag = match ({ s with cur := a, frag := frag } : State).parkPoint a c with
      | some s' => .done s'
      | none => if c.park = .none then ({ s with cur := a, frag := frag } : State).tryIssue a c frag
        else .done ((({ s with cur := a, frag := frag } : State).unpark a c).getD { s with cur := a, frag := frag }) := by
  unfold State.turnIssue
  dsimp only
  rw [hc]
  dsimp only
  rw [hb, hreal, hstop, hout]
  exact if_neg (by simp)

theorem turnIssue_parks (hb : ({ s with cur := a, frag := frag } : State).bound a c = true) {t : State}
    (hp : ({ s with cur := a, frag := frag } : State).parkPoint a c = some t) : s.turnIssue a frag = .done t := by
  rw [turnIssue_bound hreal hc hstop hout hb, hp]

theorem turnIssue_unpark (hb : ({ s with cur := a, frag := frag } : State).bound a c = true)
    (hp : ({ s with cur := a, frag := frag } : State).parkPoint a c = none) (hpark : c.park ≠ .none) :
    s.turnIssue a frag = .done ((({ s with cur := a, frag := frag } : State).unpark a c).getD { s with cur := a, frag := frag }) := by
  rw [turnIssue_bound hreal hc hstop hout hb, hp]
  exact if_neg hpark

theorem turnIssue_tries (hb : ({ s with cur := a, frag := frag } : State).bound a c = true)
    (hp : ({ s with cur := a, frag := frag } : State).parkPoint a c = none) (hpark : c.park = .none) :
    s.turnIssue a frag = ({ s with cur := a, frag := frag } : State).tryIssue a c frag := by
  rw [turnIssue_bound hreal hc hstop hout hb, hp]
  exact if_pos hpark

end

/-! ## An agent that may issue -/

theorem Ctx.canIssue_out {c : Ctx} {fid : Nat} (h : c.canIssue fid = true) : c.out = none := by
  unfold Ctx.canIssue at h
  simp only [Bool.and_eq_true] at h
  obtain ⟨⟨⟨⟨⟨⟨⟨-, -⟩, hout⟩, -⟩, -⟩, -⟩, -⟩, -⟩ := h
  simpa using hout

section
variable {u : State} {a : Agent} {frag : Nat} {c : Ctx} {fr : SplitRec} (hu : ({ u with frag := frag } : State) = u)
  (hrec : c.rec? frag = some fr) (hcan : c.canIssue frag = true) (hfrag : u.fragOf a c frag = frag) (htab : u.behindTab a fr = false)
include hu hrec hcan hfrag htab

theorem tryIssue_eq : u.tryIssue a c frag =
    if c.broken then .done ((u.setCtx a { c with broken := false, frag := frag }).stopWave a (brokenStop fr ((u.joined c).2.getD 0)))
    else match u.decodeAt a fr with
      | .error (.fault code x) => .done (u.stopFrag a fr code x)
      | .error (.hold va code) => .done (u.holdFetch { a := a, team := c.team, pc := fr.pc, lanes := fr.mask, meld := fr.meld } va code 0)
      | .ok r =>
        if (u.fetchLink a fr.pc).isNone then .done u else if r = .ok .pad4 then .run .pad4 (u.fetched a frag) else
        match u.meetsAt a c frag fr, r with
        | some i, _ => .run (.breakpointHit a i) u
        | none, .ok i => u.arbitrate a c frag i
        | none, .error e => .done (u.stopFrag a fr (decErrCode e c.priv) 0) := by
  unfold State.tryIssue
  rw [if_pos hcan, hfrag]
  dsimp only
  rw [hu, hrec]
  dsimp only
  rw [hcan, htab]
  exact if_neg (by simp)

variable (hbroken : c.broken = false)
include hbroken

theorem tryIssue_error {e : FetchErr} (he : u.fetch a fr.pc = .error e) : u.tryIssue a c frag = match e with
      | .fault code x => .done (u.stopFrag a fr code x)
      | .hold va code => .done (u.holdFetch { a := a, team := c.team, pc := fr.pc, lanes := fr.mask, meld := fr.meld } va code 0) := by
  rw [tryIssue_eq hu hrec hcan hfrag htab, hbroken, if_neg Bool.false_ne_true]
  have hd : u.decodeAt a fr = .error e := congrArg (Except.map (decodeBytes (vaOf fr.pc % 32))) he
  rw [hd]
  cases e <;> rfl

theorem tryIssue_ok {bytes : List Byte} (he : u.fetch a fr.pc = .ok bytes) : u.tryIssue a c frag =
    if (u.fetchLink a fr.pc).isNone then .done u
    else if decodeBytes (vaOf fr.pc % 32) bytes = .ok .pad4 then .run .pad4 (u.fetched a frag) else
      match u.meetsAt a c frag fr, decodeBytes (vaOf fr.pc % 32) bytes with
      | some i, _ => .run (.breakpointHit a i) u
      | none, .ok i => u.arbitrate a c frag i
      | none, .error e => .done (u.stopFrag a fr (decErrCode e c.priv) 0) := by
  rw [tryIssue_eq hu hrec hcan hfrag htab, hbroken, if_neg Bool.false_ne_true]
  unfold State.decodeAt
  rw [he]
  rfl

end

/-- What an agent has fetched at the PC of its fragment. -/
theorem State.fetched_eq {u l : State} {a : Agent} {frag : Nat} {c : Ctx} {fr : SplitRec} (hc : u.ctx? a = some c) (hrec : c.rec? frag = some fr)
    (hl : u.fetchLink a fr.pc = some l) : u.fetched a frag = l := by
  unfold State.fetched
  rw [hc]
  dsimp only [Option.bind]
  rw [hrec]
  dsimp only
  rw [hl]
  rfl

/-! ## Who issues (R376, R377) -/

theorem foldl_pick_mem {α : Type} (f : α → α → α) (hf : ∀ b y, f b y = b ∨ f b y = y) (l : List α) (x : α) : l.foldl f x ∈ x :: l := by
  induction l generalizing x with
  | nil => exact List.mem_cons_self
  | cons y l ih =>
    rcases hf x y with h | h
    · rw [List.foldl_cons, h]
      rcases List.mem_cons.mp (ih x) with e | e
      · rw [e]; exact List.mem_cons_self
      · exact List.mem_cons_of_mem _ (List.mem_cons_of_mem _ e)
    · rw [List.foldl_cons, h]
      exact List.mem_cons_of_mem _ (ih y)

theorem choose_mem (x : Cand) (l : List Cand) : choose x l ∈ x :: l := by
  unfold choose
  dsimp only
  split
  · exact foldl_pick_mem _ (fun b y => by split; exacts [.inr rfl, .inl rfl]) l x
  · exact foldl_pick_mem _ (fun b y => by split; exacts [.inr rfl, .inl rfl]) l x

/-- The order of candidates: priority, then age, then wave id. -/
theorem Cand.before_iff (x y : Cand) : x.before y = true ↔
    y.prio < x.prio ∨ (x.prio = y.prio ∧ (x.age < y.age ∨ (x.age = y.age ∧ x.widx < y.widx))) := by
  unfold Cand.before
  simp [Bool.or_eq_true, Bool.and_eq_true]

/-- No candidate goes before the top one. -/
theorem top_before (l : List Cand) (x : Cand) : ∀ y ∈ x :: l, y.before (l.foldl (fun b y => if y.before b then y else b) x) = false := by
  have irrefl (z : Cand) : z.before z = false := by
    rw [Bool.eq_false_iff, ne_eq, Cand.before_iff]
    omega
  have trans {z w v : Cand} (h1 : z.before w = false) (h2 : w.before v = false) : z.before v = false := by
    rw [Bool.eq_false_iff, ne_eq, Cand.before_iff] at *
    omega
  induction l generalizing x with
  | nil =>
    intro y hy
    obtain rfl := List.mem_singleton.mp hy
    exact irrefl y
  | cons z l ih =>
    intro y hy
    rw [List.foldl_cons]
    by_cases hz : z.before x = true
    · rw [if_pos hz]
      have hxz : x.before z = false := by
        rw [Cand.before_iff] at hz
        rw [Bool.eq_false_iff, ne_eq, Cand.before_iff]
        omega
      rcases List.mem_cons.mp hy with rfl | hy
      · exact trans hxz (ih z z List.mem_cons_self)
      · exact ih z y hy
    · rw [if_neg hz]
      rcases List.mem_cons.mp hy with rfl | hy
      · exact ih y y List.mem_cons_self
      · rcases List.mem_cons.mp hy with rfl | hy
        · exact trans (Bool.eq_false_iff.mpr hz) (ih x x List.mem_cons_self)
        · exact ih x y (List.mem_cons_of_mem _ hy)

/-- While none of at most 31 candidates beside the top one has been passed over, the top one issues. -/
theorem inTime_fresh {counts : List Nat} (hlen : counts.length ≤ 31) (h : ∀ n ∈ counts, n = 1) : inTime counts = true := by
  unfold inTime
  rw [List.all_eq_true]
  intro j hj
  have hj := List.mem_range.mp hj
  rw [decide_eq_true_eq]
  by_cases h31 : j = 31
  · exact (List.length_filter_le _ _).trans (by omega)
  · have : counts.filter (fun n => decide (32 - j ≤ n)) = [] := by
      rw [List.filter_eq_nil_iff]
      intro n hn
      rw [decide_eq_true_eq, h n hn]
      omega
    rw [this]
    exact Nat.zero_le j

theorem choose_fresh (x : Cand) (l : List Cand) (hlen : l.length ≤ 31) (hz : ∀ y ∈ x :: l, y.passed = 0) :
    ∀ y ∈ x :: l, y.before (choose x l) = false := by
  have htop := foldl_pick_mem (fun b y : Cand => if y.before b then y else b) (fun b y => by split; exacts [.inr rfl, .inl rfl]) l x
  have hin : inTime (((x :: l).filter (fun y => y.a ≠ (l.foldl (fun b y => if y.before b then y else b) x).a)).map (fun y => y.passed + 1)) = true := by
    refine inTime_fresh ?_ fun n hn => ?_
    · rw [List.length_map]
      have hlt := List.length_filter_lt_length_iff_exists (p := fun y : Cand =>
        decide (y.a ≠ (l.foldl (fun b y => if y.before b then y else b) x).a)) (l := x :: l) |>.mpr ⟨_, htop, by simp⟩
      rw [List.length_cons] at hlt
      omega
    · obtain ⟨y, hy, rfl⟩ := List.mem_map.mp hn
      rw [hz y (List.mem_filter.mp hy).1]
  have heq : choose x l = l.foldl (fun b y => if y.before b then y else b) x := by
    unfold choose
    dsimp only
    exact if_pos hin
  rw [heq]
  exact top_before l x

/-- Being passed over changes the other candidates' contexts alone. -/
theorem State.pass1_spec (w : Cand) (l : List Cand) (h : ∀ y ∈ l, y.a ≠ w.a → ctxKey w.a ≠ ctxKey y.a) (s : State) :
    (s.pass1 w l).rest = s.rest ∧ (s.pass1 w l).ctx? w.a = s.ctx? w.a := by
  unfold State.pass1
  induction l generalizing s with
  | nil => exact ⟨rfl, rfl⟩
  | cons y l ih =>
    obtain ⟨hrest, hctx⟩ := ih (fun z hz => h z (List.mem_cons_of_mem _ hz)) (if y.a = w.a then s else s.mapCtx y.a (fun c => { c with passed := c.passed + 1 }))
    rw [List.foldl_cons]
    refine ⟨hrest.trans ?_, hctx.trans ?_⟩
    · split
      · rfl
      · exact State.mapCtx_rest _ _ _
    · split
      · rfl
      · next hne => exact State.ctx?_mapCtx_ne _ _ _ _ (h y List.mem_cons_self hne)

/-- The candidates of the other waves of the core for the slot of an instruction. -/
def State.otherCands (u : State) (a : Agent) (i : Instr) : List Cand :=
  (u.rivals a).filterMap (fun e => match u.nextUp e.1 e.2 with
    | some (f, j) => if slotOf j = slotOf i then some (u.cand e.1 e.2 f j) else none
    | none => none)

theorem State.mem_otherCands {u : State} {a : Agent} {i : Instr} {y : Cand} (h : y ∈ u.otherCands a i) :
    ∃ e ∈ u.rivals a, e.1 = y.a ∧ u.nextUp e.1 e.2 = some (y.frag, y.i) ∧ slotOf y.i = slotOf i := by
  obtain ⟨e, he, hy⟩ := List.mem_filterMap.mp h
  cases hn : u.nextUp e.1 e.2 with
  | none => rw [hn] at hy; exact absurd hy nofun
  | some x =>
    obtain ⟨f, j⟩ := x
    rw [hn] at hy
    dsimp only at hy
    split at hy
    · next hs =>
      obtain rfl := Option.some.inj hy
      exact ⟨e, he, rfl, hn, hs⟩
    · exact absurd hy nofun

/-- Two agents that share a core, or are one, have their own keys. -/
theorem rivals_key {u : State} {a : Agent} {e e' : Agent × Ctx} (he : e ∈ u.rivals a) (he' : e' ∈ u.rivals a) :
    (e.1 ≠ a → ctxKey a ≠ ctxKey e.1) ∧ (e.1 ≠ e'.1 → ctxKey e'.1 ≠ ctxKey e.1) := by
  have hp := (List.mem_filter.mp he).2
  have hp' := (List.mem_filter.mp he').2
  rcases a with ⟨k, n⟩ | d
  · obtain ⟨b, cb⟩ := e
    obtain ⟨b', cb'⟩ := e'
    rcases b with ⟨kb, nb⟩ | db
    · rcases b' with ⟨kb', nb'⟩ | db'
      · simp only [Bool.and_eq_true, decide_eq_true_eq] at hp hp'
        obtain ⟨⟨⟨⟨hk, hne⟩, hn⟩, hnb⟩, -⟩ := hp
        obtain ⟨⟨⟨⟨hk', hne'⟩, -⟩, hnb'⟩, -⟩ := hp'
        subst hk hk'
        refine ⟨fun _ h => hne (ctxKey_slot_inj h).symm, fun hbb h => hbb ?_⟩
        rw [ctxKey_slot_inj h]
      · exact absurd hp' Bool.false_ne_true
    · exact absurd hp Bool.false_ne_true
  · exact absurd hp Bool.false_ne_true

section
variable {u : State} {a : Agent} {c : Ctx} {frag : Nat} {i : Instr}

/-- With no other wave ready for the slot, the agent issues. -/
theorem arbitrate_alone (h : u.otherCands a i = []) : u.arbitrate a c frag i = .run i (u.fetched a frag) := by
  unfold State.otherCands at h
  unfold State.arbitrate
  split
  · rfl
  · next hne => exact absurd h hne

/-- Who issues: the agent, or a wave of its core that is ready for the slot. -/
theorem arbitrate_runs (hcur : ({ u with cur := a, frag := frag } : State) = u) : ∃ b f j, ∃ t : State, ((b = a ∧ f = frag ∧ j = i) ∨
      ∃ e ∈ u.rivals a, e.1 = b ∧ u.nextUp e.1 e.2 = some (f, j) ∧ slotOf j = slotOf i) ∧
    t.rest = State.rest { u with cur := b, frag := f } ∧ t.ctx? b = u.ctx? b ∧ u.arbitrate a c frag i = .run j (t.fetched b f) := by
  have hself : ∃ t : State, t.rest = State.rest { u with cur := a, frag := frag } ∧ t.ctx? a = u.ctx? a ∧
      Pick.run i (u.fetched a frag) = .run i (t.fetched a frag) := ⟨u, by rw [hcur], rfl, rfl⟩
  by_cases hnil : u.otherCands a i = []
  · obtain ⟨t, ht⟩ := hself
    exact ⟨a, frag, i, t, .inl ⟨rfl, rfl, rfl⟩, ht.1, ht.2.1, (arbitrate_alone hnil).trans ht.2.2⟩
  · have harb : u.arbitrate a c frag i =
        if waits i u then .run i (u.fetched a frag)
        else
          let x := u.cand a c frag i
          let w := choose x (u.otherCands a i)
          .run w.i (State.fetched { u.pass1 w (x :: u.otherCands a i) with cur := w.a, frag := w.frag } w.a w.frag) := by
      unfold State.otherCands at hnil ⊢
      unfold State.arbitrate
      split
      · next h => exact absurd h hnil
      · rfl
    by_cases hw : waits i u = true
    · obtain ⟨t, ht⟩ := hself
      exact ⟨a, frag, i, t, .inl ⟨rfl, rfl, rfl⟩, ht.1, ht.2.1, (harb.trans (if_pos hw)).trans ht.2.2⟩
    · have hmem := choose_mem (u.cand a c frag i) (u.otherCands a i)
      generalize hwd : choose (u.cand a c frag i) (u.otherCands a i) = w at *
      have hkeys : ∀ y ∈ u.cand a c frag i :: u.otherCands a i, y.a ≠ w.a → ctxKey w.a ≠ ctxKey y.a := by
        intro y hy hne
        rcases List.mem_cons.mp hy with rfl | hy
        · rcases List.mem_cons.mp hmem with rfl | hmem
          · exact absurd rfl hne
          · obtain ⟨e, he, hea, -⟩ := State.mem_otherCands hmem
            exact hea ▸ ((rivals_key he he).1 (fun h => hne (hea.symm.trans h).symm)).symm
        · obtain ⟨e, he, hea, -⟩ := State.mem_otherCands hy
          rcases List.mem_cons.mp hmem with rfl | hmem
          · exact hea ▸ (rivals_key he he).1 (fun h => hne (hea.symm.trans h))
          · obtain ⟨e', he', hea', -⟩ := State.mem_otherCands hmem
            exact hea ▸ hea' ▸ (rivals_key he he').2 (fun h => hne (hea.symm.trans (h.trans hea')))
      obtain ⟨hrest, hctx⟩ := State.pass1_spec w _ hkeys u
      refine ⟨w.a, w.frag, w.i, { u.pass1 w (u.cand a c frag i :: u.otherCands a i) with cur := w.a, frag := w.frag }, ?_, ?_, hctx,
        (harb.trans (if_neg hw)).trans ?_⟩
      · rcases List.mem_cons.mp hmem with rfl | hmem
        · exact .inl ⟨rfl, rfl, rfl⟩
        · exact .inr (State.mem_otherCands hmem)
      · exact congrArg (fun x : State => { x with cur := w.a, frag := w.frag }) hrest
      · dsimp only
        rw [hwd]

end

/-- Settles O54: the turn's move, the checks of an agent that may issue in their order, and the wave that issues of its core's. -/
theorem stepRuns : Obligations.StepRuns := by
  refine ⟨fun s l => ?_, fun x l hlen hz => ⟨choose_mem x l, choose_fresh x l hlen hz⟩⟩
  refine ⟨step_default, fun e ht he => ?_, fun die n ht => ?_, fun id ht => ?_, fun a frag c ht => ?_, fun a frag c fr ht => ?_⟩
  · rw [step_turn ht]
    show Pick.after (if spontaneous e = true then _ else _) = _
    rw [if_pos he]
    rfl
  · rw [step_turn ht]
    rfl
  · rw [step_turn ht]
    rfl
  · intro u hreal hc hstop hout
    have hx : step s = ((s.turned l).turnIssue a frag).after := step_turn ht
    exact ⟨fun hb => hx.trans (congrArg Pick.after (turnIssue_unbound (s := s.turned l) hc hb)),
      fun hb t hp => hx.trans (congrArg Pick.after (turnIssue_parks (s := s.turned l) hreal hc hstop hout hb hp)),
      fun hb hp hpark => hx.trans (congrArg Pick.after (turnIssue_unpark (s := s.turned l) hreal hc hstop hout hb hp hpark))⟩
  · intro u hreal hc hrec hcan hfrag htab hb hp
    obtain ⟨hstop, hpark⟩ := Ctx.canIssue_free hcan
    have hx : step s = (u.tryIssue a c frag).after := (step_turn ht).trans (congrArg Pick.after
      (turnIssue_tries (s := s.turned l) hreal hc hstop (Ctx.canIssue_out hcan) hb hp hpark))
    have hu : ({ u with frag := frag } : State) = u := rfl
    refine ⟨fun hbr => ?_, fun hbr => ⟨fun code x he => ?_, fun va code he => ?_, fun bytes he hl => ?_, fun bytes l' he hl hd => ?_,
      fun bytes k he hl hd hm => ?_, fun bytes e he hl hd hm => ?_, fun bytes i l' he hl hd hi hm => ⟨fun hno => ?_, ?_⟩⟩⟩
    · rw [hx, tryIssue_eq hu hrec hcan hfrag htab, if_pos hbr]
      rfl
    · rw [hx, tryIssue_error hu hrec hcan hfrag htab hbr he]
      rfl
    · rw [hx, tryIssue_error hu hrec hcan hfrag htab hbr he]
      rfl
    · rw [hx, tryIssue_ok hu hrec hcan hfrag htab hbr he, if_pos (by rw [hl]; rfl)]
      rfl
    · rw [hx, tryIssue_ok hu hrec hcan hfrag htab hbr he, if_neg (by rw [hl]; exact Bool.false_ne_true), if_pos hd, State.fetched_eq hc hrec hl]
      rfl
    · rw [hx, tryIssue_ok hu hrec hcan hfrag htab hbr he, if_neg (by simpa [Option.isSome_iff_ne_none] using hl), if_neg hd, hm]
      rfl
    · rw [hx, tryIssue_ok hu hrec hcan hfrag htab hbr he, if_neg (by simpa [Option.isSome_iff_ne_none] using hl), if_neg (by rw [hd]; nofun), hm, hd]
      rfl
    · rw [hx, tryIssue_ok hu hrec hcan hfrag htab hbr he, if_neg (by rw [hl]; exact Bool.false_ne_true), if_neg (by rw [hd]; exact fun h => hi (Except.ok.inj h)), hm, hd]
      have hnil : u.otherCands a i = [] := by
        refine List.filterMap_eq_nil_iff.mpr fun e he => ?_
        rw [hno e he]
      show (u.arbitrate a c frag i).after = _
      rw [arbitrate_alone hnil, State.fetched_eq hc hrec hl]
      rfl
    · obtain ⟨b, f, j, t, hwho, hrest, hctx, harb⟩ := arbitrate_runs (u := u) (a := a) (c := c) (frag := frag) (i := i) rfl
      refine ⟨b, f, j, t, hwho, hrest, hctx, ?_⟩
      rw [hx, tryIssue_ok hu hrec hcan hfrag htab hbr he, if_neg (by rw [hl]; exact Bool.false_ne_true), if_neg (by rw [hd]; exact fun h => hi (Except.ok.inj h)), hm, hd]
      show (u.arbitrate a c frag i).after = _
      rw [harb]
      rfl

end Sys2Proof.Machine

/-! SUPPORT. Every instruction is an issue: who may issue it, and which registers its checks see (R36 to R39, R397, R414). -/

namespace Sys2Proof.Machine

/-- A use of vector registers; a use of a group whose number a stoker takes from its scalar registers. -/
def Use.isVector : Use → Bool
  | .v .. | .x .. | .g .. => true
  | _ => false
def Use.isGroup : Use → Bool
  | .g .. => true
  | _ => false

/-- Who may issue fits the class and the operation (R39, R397, R414). -/
def permFits (pm : Perm) (cls op : Nat) : Bool :=
  pm.y == (cls == 13) && (cls != 13 || decide (op < 6) || pm.hearthOnly) && (cls == 13 || !pm.hearthOnly) &&
  (cls == 13 || stokerMay cls op || !pm.stoker) && (!hearthLacks cls op || !pm.hearth) && (cls == 4 || !pm.onEmpty)

/-- The registers of what only a hearth may issue, or a stoker may not, are in range wherever it issues. -/
def usesFit (u : Uses) (cls op : Nat) : Bool :=
  (u.rd ++ u.wr).all (fun x => if cls = 13 then decide (op < 6) || !x.isVector else stokerMay cls op || !x.isGroup)

/-- An outcome is the issue of a header and length by those whom a class and operation name. -/
def Issued (o : Host.Outcome State Fault Refusal) (h : Hdr) (len : Nat) (s : State) (cls op : Nat) : Prop :=
  ∃ pm u body, o = issueRaw pm h len u s body ∧ permFits pm cls op = true ∧ usesFit u cls op = true

theorem issued_raw {pm : Perm} {h : Hdr} {len : Nat} {u : Uses} {s : State} {body : Iss → State → Res State} {cls op : Nat}
    (hp : permFits pm cls op = true) (hu : usesFit u cls op = true) : Issued (issueRaw pm h len u s body) h len s cls op :=
  ⟨pm, u, body, rfl, hp, hu⟩
theorem issued_of {pm : Perm} {h : Hdr} {len : Nat} {u : Uses} {s : State} {body : Iss → State → Res State} {cls op : Nat}
    (hp : permFits pm cls op = true) (hu : usesFit u cls op = true) : Issued (issue pm h len u s body) h len s cls op :=
  issued_raw hp hu


/-- Where a stoker may issue, or not only a hearth wave, no check of registers is passed by a waiver. -/
theorem usesFit_may {u : Uses} {cls op : Nat} (hc : cls ≠ 13) (h : stokerMay cls op = true) : usesFit u cls op = true := by
  simp [usesFit, hc, h]
theorem usesFit_low {u : Uses} {op : Nat} (h : op < 6) : usesFit u 13 op = true := by
  simp [usesFit, h]
theorem issued_sMov (h : Hdr) (d : RegNo) (a : RegNo) (s : State) : Issued (execSMov h d a s) h 8 s 0 0 := by
  unfold execSMov scalarOp; exact issued_of rfl (usesFit_may (by decide) rfl)
theorem issued_sMovi (h : Hdr) (sub : BitVec 2) (d : RegNo) (imm : BitVec 32) (s : State) : Issued (execSMovi h sub d imm s) h 12 s 0 1 := by
  unfold execSMovi scalarOp; exact issued_of rfl (usesFit_may (by decide) rfl)
theorem issued_sAdd (h : Hdr) (d : RegNo) (a : RegNo) (src : Src) (s : State) : Issued (execSAdd h d a src s) h 8 s 0 2 := by
  unfold execSAdd scalarBin scalarOp; exact issued_of rfl (usesFit_may (by decide) rfl)
theorem issued_sSub (h : Hdr) (d : RegNo) (a : RegNo) (src : Src) (s : State) : Issued (execSSub h d a src s) h 8 s 0 3 := by
  unfold execSSub scalarBin scalarOp; exact issued_of rfl (usesFit_may (by decide) rfl)
theorem issued_sMul (h : Hdr) (sub : BitVec 2) (d : RegNo) (a : RegNo) (src : Src) (s : State) : Issued (execSMul h sub d a src s) h 8 s 0 4 := by
  unfold execSMul scalarBin scalarOp; exact issued_of rfl (usesFit_may (by decide) rfl)
theorem issued_sDiv (h : Hdr) (sub : BitVec 2) (d : RegNo) (a : RegNo) (src : Src) (s : State) : Issued (execSDiv h sub d a src s) h 8 s 0 5 := by
  unfold execSDiv scalarBin scalarOp; exact issued_of rfl (usesFit_may (by decide) rfl)
theorem issued_sAnd (h : Hdr) (d : RegNo) (a : RegNo) (src : Src) (s : State) : Issued (execSAnd h d a src s) h 8 s 0 6 := by
  unfold execSAnd scalarBin scalarOp; exact issued_of rfl (usesFit_may (by decide) rfl)
theorem issued_sOr (h : Hdr) (d : RegNo) (a : RegNo) (src : Src) (s : State) : Issued (execSOr h d a src s) h 8 s 0 7 := by
  unfold execSOr scalarBin scalarOp; exact issued_of rfl (usesFit_may (by decide) rfl)
theorem issued_sXor (h : Hdr) (d : RegNo) (a : RegNo) (src : Src) (s : State) : Issued (execSXor h d a src s) h 8 s 0 8 := by
  unfold execSXor scalarBin scalarOp; exact issued_of rfl (usesFit_may (by decide) rfl)
theorem issued_sShl (h : Hdr) (d : RegNo) (a : RegNo) (src : Src) (s : State) : Issued (execSShl h d a src s) h 8 s 0 9 := by
  unfold execSShl scalarBin scalarOp; exact issued_of rfl (usesFit_may (by decide) rfl)
theorem issued_sShr (h : Hdr) (d : RegNo) (a : RegNo) (src : Src) (s : State) : Issued (execSShr h d a src s) h 8 s 0 10 := by
  unfold execSShr scalarBin scalarOp; exact issued_of rfl (usesFit_may (by decide) rfl)
theorem issued_sSra (h : Hdr) (d : RegNo) (a : RegNo) (src : Src) (s : State) : Issued (execSSra h d a src s) h 8 s 0 11 := by
  unfold execSSra scalarBin scalarOp; exact issued_of rfl (usesFit_may (by decide) rfl)
theorem issued_sMin (h : Hdr) (sub : BitVec 2) (d : RegNo) (a : RegNo) (src : Src) (s : State) : Issued (execSMin h sub d a src s) h 8 s 0 12 := by
  unfold execSMin scalarBin scalarOp; exact issued_of rfl (usesFit_may (by decide) rfl)
theorem issued_sMax (h : Hdr) (sub : BitVec 2) (d : RegNo) (a : RegNo) (src : Src) (s : State) : Issued (execSMax h sub d a src s) h 8 s 0 13 := by
  unfold execSMax scalarBin scalarOp; exact issued_of rfl (usesFit_may (by decide) rfl)
theorem issued_sCmp (h : Hdr) (cond : BitVec 4) (d : RegNo) (a : RegNo) (src : Src) (s : State) : Issued (execSCmp h cond d a src s) h 8 s 0 14 := by
  unfold execSCmp scalarBin scalarOp; exact issued_of rfl (usesFit_may (by decide) rfl)
theorem issued_sSel (h : Hdr) (d : RegNo) (a : RegNo) (b : RegNo) (c : RegNo) (s : State) : Issued (execSSel h d a b c s) h 8 s 0 15 := by
  unfold execSSel scalarOp; exact issued_of rfl (usesFit_may (by decide) rfl)
theorem issued_sClz (h : Hdr) (sub : BitVec 2) (d : RegNo) (a : RegNo) (s : State) : Issued (execSClz h sub d a s) h 8 s 0 16 := by
  unfold execSClz scalarOp; exact issued_of rfl (usesFit_may (by decide) rfl)
theorem issued_sPopc (h : Hdr) (sub : BitVec 2) (d : RegNo) (a : RegNo) (s : State) : Issued (execSPopc h sub d a s) h 8 s 0 17 := by
  unfold execSPopc scalarOp; exact issued_of rfl (usesFit_may (by decide) rfl)
theorem issued_sBfx (h : Hdr) (sub : BitVec 2) (d : RegNo) (a : RegNo) (src : Src) (s : State) : Issued (execSBfx h sub d a src s) h 8 s 0 18 := by
  unfold execSBfx scalarBin scalarOp; exact issued_of rfl (usesFit_may (by decide) rfl)
theorem issued_sLea (h : Hdr) (d : RegNo) (a : RegNo) (b : RegNo) (sh : BitVec 6) (imm : BitVec 32) (s : State) : Issued (execSLea h d a b sh imm s) h 12 s 0 19 := by
  unfold execSLea scalarOp; exact issued_of rfl (usesFit_may (by decide) rfl)
theorem issued_sRdsr (h : Hdr) (d : RegNo) (a : RegNo) (s : State) : Issued (execSRdsr h d a s) h 8 s 0 20 := by
  unfold execSRdsr; exact issued_of rfl (usesFit_may (by decide) rfl)
theorem issued_sWrsr (h : Hdr) (d : RegNo) (a : RegNo) (s : State) : Issued (execSWrsr h d a s) h 8 s 0 21 := by
  unfold execSWrsr; exact issued_of rfl (usesFit_may (by decide) rfl)
theorem issued_sMovc (h : Hdr) (sub : BitVec 2) (d : RegNo) (a : RegNo) (s : State) : Issued (execSMovc h sub d a s) h 8 s 0 22 := by
  unfold execSMovc; exact issued_of rfl (by split <;> rfl)
theorem issued_sRdk (h : Hdr) (d : RegNo) (a : RegNo) (s : State) : Issued (execSRdk h d a s) h 8 s 0 23 := by
  unfold execSRdk scalarOp; exact issued_of rfl (usesFit_may (by decide) rfl)
theorem issued_sWrk (h : Hdr) (d : RegNo) (a : RegNo) (s : State) : Issued (execSWrk h d a s) h 8 s 0 24 := by
  unfold execSWrk; exact issued_of rfl (usesFit_may (by decide) rfl)
theorem issued_bNop (h : Hdr) (s : State) : Issued (execBNop h s) h 8 s 1 0 := by
  unfold execBNop; exact issued_of rfl (usesFit_may (by decide) rfl)
theorem issued_bJmp (h : Hdr) (sub : BitVec 2) (a : RegNo) (imm : BitVec 32) (s : State) : Issued (execBJmp h sub a imm s) h 12 s 1 1 := by
  unfold execBJmp; exact issued_raw rfl (usesFit_may (by decide) rfl)
theorem issued_bBr (h : Hdr) (sub : BitVec 2) (a : RegNo) (imm : BitVec 32) (s : State) : Issued (execBBr h sub a imm s) h 12 s 1 2 := by
  unfold execBBr; exact issued_raw rfl (usesFit_may (by decide) rfl)
theorem issued_bBrk (h : Hdr) (sub : BitVec 2) (a : RegNo) (imm : BitVec 32) (s : State) : Issued (execBBrk h sub a imm s) h 12 s 1 3 := by
  unfold execBBrk; exact issued_raw rfl (usesFit_may (by decide) rfl)
theorem issued_bCall (h : Hdr) (sub : BitVec 2) (d : RegNo) (a : RegNo) (imm : BitVec 32) (s : State) : Issued (execBCall h sub d a imm s) h 12 s 1 4 := by
  unfold execBCall; exact issued_raw rfl (usesFit_may (by decide) rfl)
theorem issued_bRet (h : Hdr) (a : RegNo) (s : State) : Issued (execBRet h a s) h 8 s 1 5 := by
  unfold execBRet; exact issued_raw rfl (usesFit_may (by decide) rfl)
theorem issued_bSplit (h : Hdr) (a : RegNo) (x0 : BitVec 32) (x1 : BitVec 32) (s : State) : Issued (execBSplit h a x0 x1 s) h 16 s 1 6 := by
  unfold execBSplit; exact issued_raw rfl rfl
theorem issued_bJoin (h : Hdr) (s : State) : Issued (execBJoin h s) h 8 s 1 7 := by
  unfold execBJoin; exact issued_raw rfl rfl
theorem issued_bExit (h : Hdr) (s : State) : Issued (execBExit h s) h 8 s 1 8 := by
  unfold execBExit; exact issued_raw rfl rfl
theorem issued_bMeld (h : Hdr) (a : RegNo) (b : RegNo) (base : BitVec 3) (s : State) : Issued (execBMeld h a b base s) h 12 s 1 9 := by
  unfold execBMeld; exact issued_of rfl rfl
theorem issued_bUnmeld (h : Hdr) (s : State) : Issued (execBUnmeld h s) h 8 s 1 10 := by
  unfold execBUnmeld; exact issued_of rfl (usesFit_may (by decide) rfl)
theorem issued_bMtab (h : Hdr) (sub : BitVec 2) (a : RegNo) (imm : BitVec 32) (s : State) : Issued (execBMtab h sub a imm s) h 12 s 1 11 := by
  unfold execBMtab; exact issued_of rfl (by split <;> rfl)
theorem issued_bWcnt (h : Hdr) (ldc : BitVec 6) (stc : BitVec 6) (xc : BitVec 6) (ec : BitVec 6) (s : State) : Issued (execBWcnt h ldc stc xc ec s) h 8 s 1 12 := by
  unfold execBWcnt; exact issued_of rfl (usesFit_may (by decide) rfl)
theorem issued_bTrap (h : Hdr) (code : BitVec 8) (s : State) : Issued (execBTrap h code s) h 8 s 1 13 := by
  unfold execBTrap; exact issued_raw rfl rfl
theorem issued_bTret (h : Hdr) (s : State) : Issued (execBTret h s) h 8 s 1 14 := by
  unfold execBTret; exact issued_raw rfl (usesFit_may (by decide) rfl)
theorem issued_bDbg (h : Hdr) (code : BitVec 8) (s : State) : Issued (execBDbg h code s) h 8 s 1 15 := by
  unfold execBDbg; exact issued_of rfl (usesFit_may (by decide) rfl)
theorem issued_vMov (h : Hdr) (t : TField) (d : RegNo) (a : RegNo) (s : State) : Issued (execVMov h t d a s) h 8 s 2 0 := by
  unfold execVMov vectorUn vectorOp; exact issued_of rfl rfl
theorem issued_vMovs (h : Hdr) (t : TField) (d : RegNo) (a : RegNo) (s : State) : Issued (execVMovs h t d a s) h 8 s 2 1 := by
  unfold execVMovs vectorOp; exact issued_of rfl rfl
theorem issued_vMovi (h : Hdr) (t : TField) (d : RegNo) (imm : BitVec 32) (s : State) : Issued (execVMovi h t d imm s) h 12 s 2 2 := by
  unfold execVMovi vectorOp; exact issued_of rfl rfl
theorem issued_vAdd (h : Hdr) (t : TField) (d : RegNo) (a : RegNo) (src : Src) (s : State) : Issued (execVAdd h t d a src s) h 8 s 2 3 := by
  unfold execVAdd vectorExact vectorBin vectorOp; exact issued_of rfl (by cases src <;> rfl)
theorem issued_vSub (h : Hdr) (t : TField) (d : RegNo) (a : RegNo) (src : Src) (s : State) : Issued (execVSub h t d a src s) h 8 s 2 4 := by
  unfold execVSub vectorExact vectorBin vectorOp; exact issued_of rfl (by cases src <;> rfl)
theorem issued_vMul (h : Hdr) (sub : BitVec 2) (t : TField) (d : RegNo) (a : RegNo) (src : Src) (s : State) : Issued (execVMul h sub t d a src s) h 8 s 2 5 := by
  unfold execVMul vectorExact vectorBin vectorOp; split <;> exact issued_of rfl (by cases src <;> rfl)
theorem issued_vMad (h : Hdr) (t : TField) (d : RegNo) (a : RegNo) (b : RegNo) (c : RegNo) (s : State) : Issued (execVMad h t d a b c s) h 8 s 2 6 := by
  unfold execVMad vectorOp; exact issued_of rfl rfl
theorem issued_vAnd (h : Hdr) (t : TField) (d : RegNo) (a : RegNo) (src : Src) (s : State) : Issued (execVAnd h t d a src s) h 8 s 2 7 := by
  unfold execVAnd vectorBin vectorOp; exact issued_of rfl (by cases src <;> rfl)
theorem issued_vOr (h : Hdr) (t : TField) (d : RegNo) (a : RegNo) (src : Src) (s : State) : Issued (execVOr h t d a src s) h 8 s 2 8 := by
  unfold execVOr vectorBin vectorOp; exact issued_of rfl (by cases src <;> rfl)
theorem issued_vXor (h : Hdr) (t : TField) (d : RegNo) (a : RegNo) (src : Src) (s : State) : Issued (execVXor h t d a src s) h 8 s 2 9 := by
  unfold execVXor vectorBin vectorOp; exact issued_of rfl (by cases src <;> rfl)
theorem issued_vShl (h : Hdr) (t : TField) (d : RegNo) (a : RegNo) (src : Src) (s : State) : Issued (execVShl h t d a src s) h 8 s 2 10 := by
  unfold execVShl vectorBin vectorOp; exact issued_of rfl (by cases src <;> rfl)
theorem issued_vShr (h : Hdr) (t : TField) (d : RegNo) (a : RegNo) (src : Src) (s : State) : Issued (execVShr h t d a src s) h 8 s 2 11 := by
  unfold execVShr vectorBin vectorOp; exact issued_of rfl (by cases src <;> rfl)
theorem issued_vSra (h : Hdr) (t : TField) (d : RegNo) (a : RegNo) (src : Src) (s : State) : Issued (execVSra h t d a src s) h 8 s 2 12 := by
  unfold execVSra vectorBin vectorOp; exact issued_of rfl (by cases src <;> rfl)
theorem issued_vMin (h : Hdr) (t : TField) (d : RegNo) (a : RegNo) (src : Src) (s : State) : Issued (execVMin h t d a src s) h 8 s 2 13 := by
  unfold execVMin vectorBin vectorOp; exact issued_of rfl (by cases src <;> rfl)
theorem issued_vMax (h : Hdr) (t : TField) (d : RegNo) (a : RegNo) (src : Src) (s : State) : Issued (execVMax h t d a src s) h 8 s 2 14 := by
  unfold execVMax vectorBin vectorOp; exact issued_of rfl (by cases src <;> rfl)
theorem issued_vAbs (h : Hdr) (t : TField) (d : RegNo) (a : RegNo) (s : State) : Issued (execVAbs h t d a s) h 8 s 2 15 := by
  unfold execVAbs vectorUn vectorOp; exact issued_of rfl rfl
theorem issued_vCmp (h : Hdr) (sub : BitVec 2) (t : TField) (d : RegNo) (a : RegNo) (b : RegNo) (cond : BitVec 4) (s : State) : Issued (execVCmp h sub t d a b cond s) h 8 s 2 16 := by
  unfold execVCmp; exact issued_of rfl rfl
theorem issued_vSel (h : Hdr) (t : TField) (d : RegNo) (a : RegNo) (b : RegNo) (c : RegNo) (s : State) : Issued (execVSel h t d a b c s) h 8 s 2 17 := by
  unfold execVSel vectorOp; exact issued_of rfl rfl
theorem issued_vClz (h : Hdr) (t : TField) (d : RegNo) (a : RegNo) (s : State) : Issued (execVClz h t d a s) h 8 s 2 18 := by
  unfold execVClz vectorUn vectorOp; exact issued_of rfl rfl
theorem issued_vPopc (h : Hdr) (t : TField) (d : RegNo) (a : RegNo) (s : State) : Issued (execVPopc h t d a s) h 8 s 2 19 := by
  unfold execVPopc vectorUn vectorOp; exact issued_of rfl rfl
theorem issued_vBfx (h : Hdr) (sub : BitVec 2) (t : TField) (d : RegNo) (a : RegNo) (src : Src) (s : State) : Issued (execVBfx h sub t d a src s) h 8 s 2 20 := by
  unfold execVBfx vectorBin vectorOp; exact issued_of rfl (by cases src <;> rfl)
theorem issued_vDot4 (h : Hdr) (sub : BitVec 2) (t : TField) (d : RegNo) (a : RegNo) (b : RegNo) (c : RegNo) (s : State) : Issued (execVDot4 h sub t d a b c s) h 8 s 2 21 := by
  unfold execVDot4 vectorOp; exact issued_of rfl rfl
theorem issued_vLid (h : Hdr) (sub : BitVec 2) (d : RegNo) (s : State) : Issued (execVLid h sub d s) h 8 s 2 22 := by
  unfold execVLid vectorOp; exact issued_of rfl rfl
theorem issued_vRand (h : Hdr) (d : RegNo) (s : State) : Issued (execVRand h d s) h 8 s 2 23 := by
  unfold execVRand; exact issued_of rfl rfl
theorem issued_vRdflag (h : Hdr) (d : RegNo) (s : State) : Issued (execVRdflag h d s) h 8 s 2 24 := by
  unfold execVRdflag vectorOp; exact issued_of rfl rfl
theorem issued_vClrflag (h : Hdr) (src : Src) (s : State) : Issued (execVClrflag h src s) h 8 s 2 25 := by
  unfold execVClrflag; exact issued_of rfl (by cases src <;> rfl)
theorem issued_fAdd (h : Hdr) (t : TField) (d : RegNo) (a : RegNo) (b : RegNo) (s : State) : Issued (execFAdd h t d a b s) h 8 s 3 0 := by
  unfold execFAdd floatBin floatOp; exact issued_raw rfl rfl
theorem issued_fSub (h : Hdr) (t : TField) (d : RegNo) (a : RegNo) (b : RegNo) (s : State) : Issued (execFSub h t d a b s) h 8 s 3 1 := by
  unfold execFSub floatBin floatOp; exact issued_raw rfl rfl
theorem issued_fMul (h : Hdr) (t : TField) (d : RegNo) (a : RegNo) (b : RegNo) (s : State) : Issued (execFMul h t d a b s) h 8 s 3 2 := by
  unfold execFMul floatBin floatOp; exact issued_raw rfl rfl
theorem issued_fFma (h : Hdr) (t : TField) (d : RegNo) (a : RegNo) (b : RegNo) (c : RegNo) (s : State) : Issued (execFFma h t d a b c s) h 8 s 3 3 := by
  unfold execFFma floatOp; exact issued_raw rfl rfl
theorem issued_fMin (h : Hdr) (sub : BitVec 2) (t : TField) (d : RegNo) (a : RegNo) (b : RegNo) (s : State) : Issued (execFMin h sub t d a b s) h 8 s 3 4 := by
  unfold execFMin floatOp; exact issued_raw rfl rfl
theorem issued_fMax (h : Hdr) (sub : BitVec 2) (t : TField) (d : RegNo) (a : RegNo) (b : RegNo) (s : State) : Issued (execFMax h sub t d a b s) h 8 s 3 5 := by
  unfold execFMax floatOp; exact issued_raw rfl rfl
theorem issued_fCmp (h : Hdr) (sub : BitVec 2) (t : TField) (d : RegNo) (a : RegNo) (b : RegNo) (cond : BitVec 4) (s : State) : Issued (execFCmp h sub t d a b cond s) h 8 s 3 6 := by
  unfold execFCmp; exact issued_raw rfl rfl
theorem issued_fCls (h : Hdr) (t : TField) (d : RegNo) (a : RegNo) (s : State) : Issued (execFCls h t d a s) h 8 s 3 7 := by
  unfold execFCls vectorOp; exact issued_of rfl rfl
theorem issued_fRcp (h : Hdr) (t : TField) (d : RegNo) (a : RegNo) (s : State) : Issued (execFRcp h t d a s) h 8 s 3 8 := by
  unfold execFRcp floatFn floatLong; exact issued_of rfl rfl
theorem issued_fRsq (h : Hdr) (t : TField) (d : RegNo) (a : RegNo) (s : State) : Issued (execFRsq h t d a s) h 8 s 3 9 := by
  unfold execFRsq floatFn floatLong; exact issued_of rfl rfl
theorem issued_fSqrt (h : Hdr) (t : TField) (d : RegNo) (a : RegNo) (s : State) : Issued (execFSqrt h t d a s) h 8 s 3 10 := by
  unfold execFSqrt floatFn floatLong; exact issued_of rfl rfl
theorem issued_fDiv (h : Hdr) (t : TField) (d : RegNo) (a : RegNo) (b : RegNo) (s : State) : Issued (execFDiv h t d a b s) h 8 s 3 11 := by
  unfold execFDiv floatLong; exact issued_of rfl rfl
theorem issued_fExp2 (h : Hdr) (t : TField) (d : RegNo) (a : RegNo) (s : State) : Issued (execFExp2 h t d a s) h 8 s 3 12 := by
  unfold execFExp2 floatFn floatLong; exact issued_of rfl rfl
theorem issued_fLog2 (h : Hdr) (t : TField) (d : RegNo) (a : RegNo) (s : State) : Issued (execFLog2 h t d a s) h 8 s 3 13 := by
  unfold execFLog2 floatFn floatLong; exact issued_of rfl rfl
theorem issued_fSin (h : Hdr) (t : TField) (d : RegNo) (a : RegNo) (s : State) : Issued (execFSin h t d a s) h 8 s 3 14 := by
  unfold execFSin floatFn floatLong; exact issued_of rfl rfl
theorem issued_fCos (h : Hdr) (t : TField) (d : RegNo) (a : RegNo) (s : State) : Issued (execFCos h t d a s) h 8 s 3 15 := by
  unfold execFCos floatFn floatLong; exact issued_of rfl rfl
theorem issued_fCvt (h : Hdr) (t : TField) (d : RegNo) (a : RegNo) (sty : Ty) (s : State) : Issued (execFCvt h t d a sty s) h 8 s 3 16 := by
  unfold execFCvt; exact issued_raw rfl rfl
theorem issued_fPack (h : Hdr) (t : TField) (d : RegNo) (a : RegNo) (sty : Ty) (esc : BitVec 8) (s : State) : Issued (execFPack h t d a sty esc s) h 12 s 3 17 := by
  unfold execFPack; exact issued_raw rfl rfl
theorem issued_fUnpack (h : Hdr) (t : TField) (d : RegNo) (a : RegNo) (sty : Ty) (esc : BitVec 8) (s : State) : Issued (execFUnpack h t d a sty esc s) h 12 s 3 18 := by
  unfold execFUnpack; exact issued_raw rfl rfl
theorem issued_fAmax (h : Hdr) (t : TField) (a : RegNo) (src : Src) (s : State) : Issued (execFAmax h t a src s) h 8 s 3 19 := by
  unfold execFAmax; exact issued_of rfl (by cases src <;> rfl)
theorem issued_xShfl (h : Hdr) (sub : BitVec 2) (t : TField) (d : RegNo) (a : RegNo) (src : Src) (s : State) : Issued (execXShfl h sub t d a src s) h 8 s 4 0 := by
  unfold execXShfl; exact issued_of rfl (by cases src <;> rfl)
theorem issued_xBcast (h : Hdr) (t : TField) (d : RegNo) (a : RegNo) (src : Src) (s : State) : Issued (execXBcast h t d a src s) h 8 s 4 1 := by
  unfold execXBcast; exact issued_of rfl (by cases src <;> rfl)
theorem issued_xVote (h : Hdr) (sub : BitVec 2) (d : RegNo) (a : RegNo) (s : State) : Issued (execXVote h sub d a s) h 8 s 4 2 := by
  unfold execXVote crossMask; exact issued_of rfl rfl
theorem issued_xRed (h : Hdr) (t : TField) (d : RegNo) (a : RegNo) (opr : BitVec 3) (s : State) : Issued (execXRed h t d a opr s) h 8 s 4 3 := by
  unfold execXRed; exact issued_of rfl rfl
theorem issued_xScan (h : Hdr) (sub : BitVec 2) (t : TField) (d : RegNo) (a : RegNo) (opr : BitVec 3) (s : State) : Issued (execXScan h sub t d a opr s) h 8 s 4 4 := by
  unfold execXScan; exact issued_of rfl rfl
theorem issued_xPrmt (h : Hdr) (d : RegNo) (a : RegNo) (b : RegNo) (c : RegNo) (s : State) : Issued (execXPrmt h d a b c s) h 8 s 4 5 := by
  unfold execXPrmt; exact issued_of rfl rfl
theorem issued_xRdlane (h : Hdr) (t : TField) (d : RegNo) (a : RegNo) (src : Src) (s : State) : Issued (execXRdlane h t d a src s) h 8 s 4 6 := by
  unfold execXRdlane; exact issued_of rfl (by cases src <;> rfl)
theorem issued_xWrlane (h : Hdr) (t : TField) (d : RegNo) (a : RegNo) (src : Src) (s : State) : Issued (execXWrlane h t d a src s) h 8 s 4 7 := by
  unfold execXWrlane; exact issued_of rfl (by cases src <;> rfl)
theorem issued_xCnt (h : Hdr) (d : RegNo) (a : RegNo) (s : State) : Issued (execXCnt h d a s) h 8 s 4 8 := by
  unfold execXCnt crossMask; exact issued_of rfl rfl
theorem issued_xFirst (h : Hdr) (d : RegNo) (a : RegNo) (s : State) : Issued (execXFirst h d a s) h 8 s 4 9 := by
  unfold execXFirst crossMask; exact issued_of rfl rfl
theorem issued_lLd (h : Hdr) (vadr : Bool) (sx : Bool) (d : RegNo) (a : RegNo) (sz : BitVec 3) (imm : BitVec 32) (s : State) : Issued (execLLd h vadr sx d a sz imm s) h 12 s 5 0 := by
  unfold execLLd; exact issued_of rfl (by cases vadr <;> rfl)
theorem issued_lSt (h : Hdr) (vadr : Bool) (a : RegNo) (b : RegNo) (sz : BitVec 3) (imm : BitVec 32) (s : State) : Issued (execLSt h vadr a b sz imm s) h 12 s 5 1 := by
  unfold execLSt; exact issued_of rfl (by cases vadr <;> rfl)
theorem issued_lLdt (h : Hdr) (d : RegNo) (a : RegNo) (b : RegNo) (imm : BitVec 32) (s : State) : Issued (execLLdt h d a b imm s) h 12 s 5 2 := by
  unfold execLLdt; exact issued_of rfl rfl
theorem issued_lStt (h : Hdr) (d : RegNo) (a : RegNo) (b : RegNo) (imm : BitVec 32) (s : State) : Issued (execLStt h d a b imm s) h 12 s 5 3 := by
  unfold execLStt; exact issued_of rfl rfl
theorem issued_lAtom (h : Hdr) (vadr : Bool) (t : TField) (d : RegNo) (a : RegNo) (b : RegNo) (opr : BitVec 3) (imm : BitVec 32) (s : State) : Issued (execLAtom h vadr t d a b opr imm s) h 12 s 5 4 := by
  unfold execLAtom lsAtomic; exact issued_of rfl (by cases vadr <;> rfl)
theorem issued_lCas (h : Hdr) (vadr : Bool) (t : TField) (d : RegNo) (a : RegNo) (b : RegNo) (c : RegNo) (imm : BitVec 32) (s : State) : Issued (execLCas h vadr t d a b c imm s) h 12 s 5 5 := by
  unfold execLCas lsAtomic; exact issued_of rfl (by cases vadr <;> rfl)
theorem issued_lFill (h : Hdr) (vadr : Bool) (a : RegNo) (b : RegNo) (c : RegNo) (imm : BitVec 32) (s : State) : Issued (execLFill h vadr a b c imm s) h 12 s 5 6 := by
  unfold execLFill; exact issued_of rfl (by cases vadr <;> rfl)
theorem issued_lSwz (h : Hdr) (vadr : Bool) (a : RegNo) (tag : BitVec 3) (imm : BitVec 32) (s : State) : Issued (execLSwz h vadr a tag imm s) h 12 s 5 7 := by
  unfold execLSwz; exact issued_of rfl (by cases vadr <;> rfl)
theorem issued_gLd (h : Hdr) (d : RegNo) (a : RegNo) (x0 : BitVec 32) (x1 : X1F) (s : State) : Issued (execGLd h d a x0 x1 s) h 16 s 6 0 := by
  unfold execGLd; exact issued_of rfl (usesFit_may (by decide) rfl)
theorem issued_gSt (h : Hdr) (a : RegNo) (b : RegNo) (x0 : BitVec 32) (x1 : X1F) (s : State) : Issued (execGSt h a b x0 x1 s) h 16 s 6 1 := by
  unfold execGSt; exact issued_of rfl (by cases x1.vadr <;> rfl)
theorem issued_gLdt (h : Hdr) (d : RegNo) (a : RegNo) (b : RegNo) (x0 : BitVec 32) (x1 : X1F) (s : State) : Issued (execGLdt h d a b x0 x1 s) h 16 s 6 2 := by
  unfold execGLdt; exact issued_of rfl rfl
theorem issued_gStt (h : Hdr) (d : RegNo) (a : RegNo) (b : RegNo) (x0 : BitVec 32) (x1 : X1F) (s : State) : Issued (execGStt h d a b x0 x1 s) h 16 s 6 3 := by
  unfold execGStt; exact issued_of rfl rfl
theorem issued_gPf (h : Hdr) (a : RegNo) (x0 : BitVec 32) (x1 : X1F) (s : State) : Issued (execGPf h a x0 x1 s) h 16 s 6 4 := by
  unfold execGPf; exact issued_of rfl (by cases x1.vadr <;> rfl)
theorem issued_gLdnf (h : Hdr) (d : RegNo) (a : RegNo) (c : RegNo) (x0 : BitVec 32) (x1 : X1F) (s : State) : Issued (execGLdnf h d a c x0 x1 s) h 16 s 6 5 := by
  unfold execGLdnf; exact issued_of rfl (by cases x1.vadr <;> by_cases hc : c = 0 <;> simp only [hc, if_true, if_false] <;> rfl)
theorem issued_aRmw (h : Hdr) (t : TField) (d : RegNo) (a : RegNo) (b : RegNo) (opr : BitVec 3) (x0 : BitVec 32) (x1 : X1F) (s : State) : Issued (execARmw h t d a b opr x0 x1 s) h 16 s 7 0 := by
  unfold execARmw; exact issued_of rfl (by cases x1.vadr <;> rfl)
theorem issued_aCas (h : Hdr) (d : RegNo) (a : RegNo) (b : RegNo) (c : RegNo) (x0 : BitVec 32) (x1 : X1F) (s : State) : Issued (execACas h d a b c x0 x1 s) h 16 s 7 1 := by
  unfold execACas; exact issued_of rfl (by cases x1.vadr <;> rfl)
theorem issued_aRed (h : Hdr) (t : TField) (a : RegNo) (b : RegNo) (opr : BitVec 3) (x0 : BitVec 32) (x1 : X1F) (s : State) : Issued (execARed h t a b opr x0 x1 s) h 16 s 7 2 := by
  unfold execARed; exact issued_of rfl (by cases x1.vadr <;> rfl)
theorem issued_aLdacq (h : Hdr) (d : RegNo) (a : RegNo) (x0 : BitVec 32) (x1 : X1F) (s : State) : Issued (execALdacq h d a x0 x1 s) h 16 s 7 3 := by
  unfold execALdacq; exact issued_of rfl (usesFit_may (by decide) rfl)
theorem issued_aStrel (h : Hdr) (a : RegNo) (b : RegNo) (x0 : BitVec 32) (x1 : X1F) (s : State) : Issued (execAStrel h a b x0 x1 s) h 16 s 7 4 := by
  unfold execAStrel; exact issued_of rfl (by cases x1.vadr <;> rfl)
theorem issued_aFence (h : Hdr) (sub : BitVec 2) (sc : BitVec 3) (s : State) : Issued (execAFence h sub sc s) h 8 s 7 5 := by
  unfold execAFence; exact issued_of rfl rfl
theorem issued_aBarInit (h : Hdr) (a : RegNo) (b : RegNo) (imm : BitVec 32) (s : State) : Issued (execABarInit h a b imm s) h 12 s 7 6 := by
  unfold execABarInit barrierOp; exact issued_raw rfl rfl
theorem issued_aBarArrive (h : Hdr) (sub : BitVec 2) (d : RegNo) (a : RegNo) (b : RegNo) (imm : BitVec 32) (s : State) : Issued (execABarArrive h sub d a b imm s) h 12 s 7 7 := by
  unfold execABarArrive barrierOp; exact issued_raw rfl (by split <;> rfl)
theorem issued_aBarWait (h : Hdr) (a : RegNo) (b : RegNo) (imm : BitVec 32) (s : State) : Issued (execABarWait h a b imm s) h 12 s 7 8 := by
  unfold execABarWait barrierOp; exact issued_raw rfl rfl
theorem issued_aBarSync (h : Hdr) (d : RegNo) (a : RegNo) (imm : BitVec 32) (s : State) : Issued (execABarSync h d a imm s) h 12 s 7 9 := by
  unfold execABarSync barrierOp; exact issued_raw rfl rfl
theorem issued_aBarExpect (h : Hdr) (sub : BitVec 2) (a : RegNo) (b : RegNo) (imm : BitVec 32) (s : State) : Issued (execABarExpect h sub a b imm s) h 12 s 7 10 := by
  unfold execABarExpect barrierOp; exact issued_raw rfl rfl
theorem issued_aBarTest (h : Hdr) (d : RegNo) (a : RegNo) (b : RegNo) (imm : BitVec 32) (s : State) : Issued (execABarTest h d a b imm s) h 12 s 7 11 := by
  unfold execABarTest barrierOp; exact issued_raw rfl rfl
theorem issued_aTktTake (h : Hdr) (d : RegNo) (a : RegNo) (x0 : BitVec 32) (x1 : X1F) (s : State) : Issued (execATktTake h d a x0 x1 s) h 16 s 7 12 := by
  unfold execATktTake; exact issued_of rfl rfl
theorem issued_aTktWait (h : Hdr) (a : RegNo) (b : RegNo) (x0 : BitVec 32) (x1 : X1F) (s : State) : Issued (execATktWait h a b x0 x1 s) h 16 s 7 13 := by
  unfold execATktWait; exact issued_raw rfl rfl
theorem issued_aTktServe (h : Hdr) (a : RegNo) (src : Src) (x0 : BitVec 32) (x1 : X1F) (s : State) : Issued (execATktServe h a src x0 x1 s) h 16 s 7 14 := by
  unfold execATktServe; exact issued_of rfl (by cases src <;> rfl)
theorem issued_aWatch (h : Hdr) (d : RegNo) (a : RegNo) (b : RegNo) (x0 : BitVec 32) (x1 : X1F) (s : State) : Issued (execAWatch h d a b x0 x1 s) h 16 s 7 15 := by
  unfold execAWatch; exact issued_raw rfl rfl
theorem issued_mMma (h : Hdr) (sub : BitVec 2) (d : RegNo) (a : RegNo) (b : RegNo) (c : RegNo) (zero : Bool) (scl : Bool) (bsc : BitVec 3) (asc : BitVec 3) (x0 : BitVec 32) (prio : BitVec 2) (sc : BitVec 3) (bar : Bool) (s : State) : Issued (execMMma h sub d a b c zero scl bsc asc x0 prio sc bar s) h 16 s 8 0 := by
  unfold execMMma matrixOp; exact issued_of rfl rfl
theorem issued_mMmt (h : Hdr) (sub : BitVec 2) (d : RegNo) (a : RegNo) (b : RegNo) (c : RegNo) (zero : Bool) (x0 : BitVec 32) (prio : BitVec 2) (sc : BitVec 3) (bar : Bool) (s : State) : Issued (execMMmt h sub d a b c zero x0 prio sc bar s) h 16 s 8 1 := by
  unfold execMMmt matrixOp; exact issued_of rfl rfl
theorem issued_mEnq (h : Hdr) (sub : BitVec 2) (d : RegNo) (a : RegNo) (s : State) : Issued (execMEnq h sub d a s) h 8 s 8 2 := by
  unfold execMEnq; exact issued_of rfl rfl
theorem issued_mZero (h : Hdr) (d : RegNo) (a : RegNo) (s : State) : Issued (execMZero h d a s) h 8 s 8 3 := by
  unfold execMZero; exact issued_of rfl rfl
theorem issued_mLdacc (h : Hdr) (sub : BitVec 2) (d : RegNo) (a : RegNo) (b : RegNo) (c : RegNo) (row : BitVec 7) (col : BitVec 7) (shp : BitVec 3) (s : State) : Issued (execMLdacc h sub d a b c row col shp s) h 12 s 8 4 := by
  unfold execMLdacc accMove; exact issued_of rfl (by split <;> rfl)
theorem issued_mStacc (h : Hdr) (sub : BitVec 2) (d : RegNo) (a : RegNo) (b : RegNo) (c : RegNo) (row : BitVec 7) (col : BitVec 7) (shp : BitVec 3) (s : State) : Issued (execMStacc h sub d a b c row col shp s) h 12 s 8 5 := by
  unfold execMStacc accMove; exact issued_of rfl (by split <;> rfl)
theorem issued_mCvst (h : Hdr) (sub : BitVec 2) (t : TField) (d : RegNo) (a : RegNo) (b : RegNo) (c : RegNo) (cv : CvstX) (s : State) : Issued (execMCvst h sub t d a b c cv s) h 16 s 8 6 := by
  unfold execMCvst; exact issued_of rfl rfl
theorem issued_mRstat (h : Hdr) (d : RegNo) (a : RegNo) (rows : BitVec 8) (cols : BitVec 8) (s : State) : Issued (execMRstat h d a rows cols s) h 12 s 8 7 := by
  unfold execMRstat; exact issued_of rfl rfl
theorem issued_mAmax (h : Hdr) (sub : BitVec 2) (d : RegNo) (src : Src) (s : State) : Issued (execMAmax h sub d src s) h 8 s 8 8 := by
  unfold execMAmax; exact issued_of rfl (by cases src <;> rfl)
theorem issued_mResv (h : Hdr) (d : RegNo) (a : RegNo) (s : State) : Issued (execMResv h d a s) h 8 s 8 9 := by
  unfold execMResv; exact issued_of rfl rfl
theorem issued_qSpawn (h : Hdr) (sub : BitVec 2) (d : RegNo) (a : RegNo) (x0 : BitVec 32) (s : State) : Issued (execQSpawn h sub d a x0 s) h 16 s 9 0 := by
  unfold execQSpawn launchOp; exact issued_of rfl rfl
theorem issued_qLaunch (h : Hdr) (sub : BitVec 2) (d : RegNo) (a : RegNo) (x0 : BitVec 32) (s : State) : Issued (execQLaunch h sub d a x0 s) h 16 s 9 1 := by
  unfold execQLaunch launchOp; exact issued_of rfl rfl
theorem issued_qFwait (h : Hdr) (sub : BitVec 2) (d : RegNo) (a : RegNo) (sc : BitVec 3) (s : State) : Issued (execQFwait h sub d a sc s) h 8 s 9 2 := by
  unfold execQFwait; exact issued_raw rfl rfl
theorem issued_qFtest (h : Hdr) (sub : BitVec 2) (d : RegNo) (a : RegNo) (s : State) : Issued (execQFtest h sub d a s) h 8 s 9 3 := by
  unfold execQFtest; exact issued_of rfl rfl
theorem issued_qFcancel (h : Hdr) (sub : BitVec 2) (d : RegNo) (a : RegNo) (s : State) : Issued (execQFcancel h sub d a s) h 8 s 9 4 := by
  unfold execQFcancel; exact issued_of rfl rfl
theorem issued_qFmov (h : Hdr) (sub : BitVec 2) (d : RegNo) (a : RegNo) (b : RegNo) (imm : BitVec 32) (s : State) : Issued (execQFmov h sub d a b imm s) h 12 s 9 5 := by
  unfold execQFmov; exact issued_of rfl (by split <;> rfl)
theorem issued_qClaim (h : Hdr) (d : RegNo) (src : Src) (s : State) : Issued (execQClaim h d src s) h 8 s 9 6 := by
  unfold execQClaim; exact issued_raw rfl (by cases src <;> rfl)
theorem issued_qGive (h : Hdr) (src : Src) (s : State) : Issued (execQGive h src s) h 8 s 9 7 := by
  unfold execQGive; exact issued_of rfl (by cases src <;> rfl)
theorem issued_qLive (h : Hdr) (imm : BitVec 32) (s : State) : Issued (execQLive h imm s) h 12 s 9 8 := by
  unfold execQLive; exact issued_of rfl rfl
theorem issued_qYield (h : Hdr) (s : State) : Issued (execQYield h s) h 8 s 9 9 := by
  unfold execQYield; exact issued_of rfl rfl
theorem issued_qSleep (h : Hdr) (src : Src) (s : State) : Issued (execQSleep h src s) h 8 s 9 10 := by
  unfold execQSleep; exact issued_of rfl (by cases src <;> rfl)
theorem issued_eCopy (h : Hdr) (d : RegNo) (a : RegNo) (b : RegNo) (c : RegNo) (x0 : BitVec 32) (x : CopyX) (s : State) : Issued (execECopy h d a b c x0 x s) h 16 s 10 0 := by
  unfold execECopy; exact issued_of rfl rfl
theorem issued_eCopy2 (h : Hdr) (d : RegNo) (a : RegNo) (b : RegNo) (c : RegNo) (x0 : BitVec 32) (x : CopyX) (s : State) : Issued (execECopy2 h d a b c x0 x s) h 16 s 10 1 := by
  unfold execECopy2; exact issued_of rfl rfl
theorem issued_eGath (h : Hdr) (d : RegNo) (a : RegNo) (b : RegNo) (c : RegNo) (x0 : BitVec 32) (x : CopyX) (s : State) : Issued (execEGath h d a b c x0 x s) h 16 s 10 2 := by
  unfold execEGath; exact issued_of rfl rfl
theorem issued_eScat (h : Hdr) (d : RegNo) (a : RegNo) (b : RegNo) (c : RegNo) (x0 : BitVec 32) (x : CopyX) (s : State) : Issued (execEScat h d a b c x0 x s) h 16 s 10 3 := by
  unfold execEScat; exact issued_of rfl rfl
theorem issued_eFill (h : Hdr) (d : RegNo) (a : RegNo) (b : RegNo) (c : RegNo) (x0 : BitVec 32) (x : CopyX) (s : State) : Issued (execEFill h d a b c x0 x s) h 16 s 10 4 := by
  unfold execEFill; exact issued_of rfl rfl
theorem issued_eBcast (h : Hdr) (d : RegNo) (a : RegNo) (b : RegNo) (c : RegNo) (x0 : BitVec 32) (x : CopyX) (s : State) : Issued (execEBcast h d a b c x0 x s) h 16 s 10 5 := by
  unfold execEBcast; exact issued_of rfl rfl
theorem issued_eRkinit (h : Hdr) (sub : BitVec 2) (d : RegNo) (a : RegNo) (rick : BitVec 2) (prio : BitVec 2) (fst : BitVec 5) (s : State) : Issued (execERkinit h sub d a rick prio fst s) h 16 s 10 6 := by
  unfold execERkinit; exact issued_of rfl rfl
theorem issued_eRkstep (h : Hdr) (sub : BitVec 2) (d : RegNo) (b : RegNo) (rick : BitVec 2) (prio : BitVec 2) (imm : BitVec 32) (s : State) : Issued (execERkstep h sub d b rick prio imm s) h 12 s 10 7 := by
  unfold execERkstep; exact issued_of rfl (by split <;> rfl)
theorem issued_eRkread (h : Hdr) (sub : BitVec 2) (d : RegNo) (a : RegNo) (rick : BitVec 2) (prio : BitVec 2) (mask : BitVec 16) (s : State) : Issued (execERkread h sub d a rick prio mask s) h 12 s 10 8 := by
  unfold execERkread; exact issued_of rfl rfl
theorem issued_eRkld (h : Hdr) (d : RegNo) (a : RegNo) (rick : BitVec 2) (prio : BitVec 2) (rung : BitVec 4) (s : State) : Issued (execERkld h d a rick prio rung s) h 12 s 10 9 := by
  unfold execERkld; exact issued_of rfl rfl
theorem issued_eRkst (h : Hdr) (d : RegNo) (a : RegNo) (rick : BitVec 2) (prio : BitVec 2) (rung : BitVec 4) (s : State) : Issued (execERkst h d a rick prio rung s) h 12 s 10 10 := by
  unfold execERkst; exact issued_of rfl rfl
theorem issued_eRksave (h : Hdr) (sub : BitVec 2) (d : RegNo) (a : RegNo) (rick : BitVec 2) (prio : BitVec 2) (rx : RkX) (s : State) : Issued (execERksave h sub d a rick prio rx s) h 16 s 10 11 := by
  unfold execERksave checkpointOp; exact issued_of rfl (by split <;> rfl)
theorem issued_eRkrest (h : Hdr) (sub : BitVec 2) (d : RegNo) (a : RegNo) (rick : BitVec 2) (prio : BitVec 2) (rx : RkX) (s : State) : Issued (execERkrest h sub d a rick prio rx s) h 16 s 10 12 := by
  unfold execERkrest checkpointOp; exact issued_of rfl (by split <;> rfl)
theorem issued_eRkstat (h : Hdr) (d : RegNo) (rick : BitVec 2) (prio : BitVec 2) (s : State) : Issued (execERkstat h d rick prio s) h 8 s 10 13 := by
  unfold execERkstat; exact issued_of rfl rfl
theorem issued_kvBind (h : Hdr) (d : RegNo) (a : RegNo) (b : RegNo) (x0 : BitVec 32) (s : State) : Issued (execKvBind h d a b x0 s) h 16 s 11 0 := by
  unfold execKvBind; exact issued_of rfl rfl
theorem issued_kvUnbind (h : Hdr) (d : RegNo) (s : State) : Issued (execKvUnbind h d s) h 16 s 11 0 := by
  unfold execKvUnbind; exact issued_of rfl rfl
theorem issued_kvPop (h : Hdr) (d : RegNo) (a : RegNo) (s : State) : Issued (execKvPop h d a s) h 8 s 11 1 := by
  unfold execKvPop; exact issued_raw rfl rfl
theorem issued_kvAck (h : Hdr) (a : RegNo) (s : State) : Issued (execKvAck h a s) h 8 s 11 2 := by
  unfold execKvAck; exact issued_of rfl rfl
theorem issued_kvAckFut (h : Hdr) (a : RegNo) (b : RegNo) (s : State) : Issued (execKvAckFut h a b s) h 8 s 11 2 := by
  unfold execKvAckFut; exact issued_of rfl rfl
theorem issued_kvCur (h : Hdr) (d : RegNo) (a : RegNo) (s : State) : Issued (execKvCur h d a s) h 8 s 11 3 := by
  unfold execKvCur; exact issued_of rfl (usesFit_may (by decide) rfl)
theorem issued_kvApp (h : Hdr) (d : RegNo) (a : RegNo) (b : RegNo) (sc : BitVec 3) (s : State) : Issued (execKvApp h d a b sc s) h 16 s 11 4 := by
  unfold execKvApp; exact issued_of rfl rfl
theorem issued_kvFind (h : Hdr) (d : RegNo) (a : RegNo) (b : RegNo) (s : State) : Issued (execKvFind h d a b s) h 12 s 11 5 := by
  unfold execKvFind kvPrefixOp; exact issued_of rfl (usesFit_may (by decide) rfl)
theorem issued_kvIns (h : Hdr) (d : RegNo) (a : RegNo) (b : RegNo) (c : RegNo) (s : State) : Issued (execKvIns h d a b c s) h 12 s 11 6 := by
  unfold execKvIns kvPrefixOp; exact issued_of rfl rfl
theorem issued_kvRel (h : Hdr) (d : RegNo) (a : RegNo) (b : RegNo) (s : State) : Issued (execKvRel h d a b s) h 8 s 11 7 := by
  unfold execKvRel kvPrefixOp; exact issued_of rfl rfl
theorem issued_kvTrunc (h : Hdr) (d : RegNo) (a : RegNo) (b : RegNo) (sc : BitVec 3) (s : State) : Issued (execKvTrunc h d a b sc s) h 12 s 11 8 := by
  unfold execKvTrunc; exact issued_of rfl rfl
theorem issued_kvRope (h : Hdr) (d : RegNo) (a : RegNo) (b : RegNo) (c : RegNo) (p : BitVec 8) (s : State) : Issued (execKvRope h d a b c p s) h 12 s 11 9 := by
  unfold execKvRope; exact issued_of rfl rfl
theorem issued_kvRpset (h : Hdr) (a : RegNo) (imm : BitVec 32) (s : State) : Issued (execKvRpset h a imm s) h 12 s 11 10 := by
  unfold execKvRpset; exact issued_of rfl rfl
theorem issued_kvPush (h : Hdr) (a : RegNo) (b : RegNo) (s : State) : Issued (execKvPush h a b s) h 8 s 11 11 := by
  unfold execKvPush; exact issued_of rfl (usesFit_may (by decide) rfl)
theorem issued_kvPushEnd (h : Hdr) (a : RegNo) (s : State) : Issued (execKvPushEnd h a s) h 8 s 11 11 := by
  unfold execKvPushEnd; exact issued_of rfl (usesFit_may (by decide) rfl)
theorem issued_kvPushStop (h : Hdr) (s : State) : Issued (execKvPushStop h s) h 8 s 11 11 := by
  unfold execKvPushStop; exact issued_of rfl (usesFit_may (by decide) rfl)
theorem issued_cAnew (h : Hdr) (d : RegNo) (a : RegNo) (quota : BitVec 9) (zf : Bool) (swm : Bool) (typ : BitVec 2) (s : State) : Issued (execCAnew h d a quota zf swm typ s) h 16 s 12 0 := by
  unfold execCAnew; exact issued_of rfl rfl
theorem issued_cSeal (h : Hdr) (d : RegNo) (a : RegNo) (s : State) : Issued (execCSeal h d a s) h 8 s 12 1 := by
  unfold execCSeal masterFut; exact issued_of rfl rfl
theorem issued_cDrop (h : Hdr) (d : RegNo) (a : RegNo) (s : State) : Issued (execCDrop h d a s) h 8 s 12 2 := by
  unfold execCDrop masterFut; exact issued_of rfl rfl
theorem issued_cAq (h : Hdr) (sub : BitVec 2) (d : RegNo) (a : RegNo) (s : State) : Issued (execCAq h sub d a s) h 8 s 12 3 := by
  unfold execCAq; exact issued_of rfl rfl
theorem issued_cWbr (h : Hdr) (d : RegNo) (a : RegNo) (b : RegNo) (s : State) : Issued (execCWbr h d a b s) h 16 s 12 4 := by
  unfold execCWbr rangeOp; exact issued_of rfl rfl
theorem issued_cInvr (h : Hdr) (d : RegNo) (a : RegNo) (b : RegNo) (s : State) : Issued (execCInvr h d a b s) h 16 s 12 5 := by
  unfold execCInvr rangeOp; exact issued_of rfl rfl
theorem issued_cCtnew (h : Hdr) (d : RegNo) (a : RegNo) (id : BitVec 16) (s : State) : Issued (execCCtnew h d a id s) h 12 s 12 6 := by
  unfold execCCtnew treeOp; exact issued_of rfl rfl
theorem issued_cCtenr (h : Hdr) (sub : BitVec 2) (d : RegNo) (a : RegNo) (b : RegNo) (node : BitVec 16) (s : State) : Issued (execCCtenr h sub d a b node s) h 16 s 12 7 := by
  unfold execCCtenr; exact issued_of rfl rfl
theorem issued_cCtenrWithdraw (h : Hdr) (d : RegNo) (a : RegNo) (b : RegNo) (s : State) : Issued (execCCtenrWithdraw h d a b s) h 16 s 12 7 := by
  unfold execCCtenrWithdraw; exact issued_of rfl rfl
theorem issued_cCtpar (h : Hdr) (d : RegNo) (a : RegNo) (b : RegNo) (s : State) : Issued (execCCtpar h d a b s) h 8 s 12 8 := by
  unfold execCCtpar treeOp; exact issued_of rfl rfl
theorem issued_cCtrd (h : Hdr) (d : RegNo) (a : RegNo) (s : State) : Issued (execCCtrd h d a s) h 8 s 12 9 := by
  unfold execCCtrd treeOp; exact issued_of rfl rfl
theorem issued_cSettle (h : Hdr) (d : RegNo) (a : RegNo) (s : State) : Issued (execCSettle h d a s) h 8 s 12 10 := by
  unfold execCSettle; exact issued_of rfl rfl
theorem issued_cCtdel (h : Hdr) (d : RegNo) (a : RegNo) (s : State) : Issued (execCCtdel h d a s) h 8 s 12 11 := by
  unfold execCCtdel treeOp; exact issued_of rfl rfl
theorem issued_yRdpr (h : Hdr) (d : RegNo) (a : RegNo) (s : State) : Issued (execYRdpr h d a s) h 8 s 13 0 := by
  unfold execYRdpr; exact issued_of rfl (usesFit_low (by decide))
theorem issued_yWrpr (h : Hdr) (d : RegNo) (a : RegNo) (s : State) : Issued (execYWrpr h d a s) h 8 s 13 1 := by
  unfold execYWrpr; exact issued_of rfl (usesFit_low (by decide))
theorem issued_yMap (h : Hdr) (d : RegNo) (a : RegNo) (b : RegNo) (size : BitVec 4) (w : Bool) (als : Bool) (s : State) : Issued (execYMap h d a b size w als s) h 16 s 13 2 := by
  unfold execYMap; exact issued_of rfl (usesFit_low (by decide))
theorem issued_yMapFilter (h : Hdr) (d : RegNo) (a : RegNo) (b : RegNo) (x0 : BitVec 32) (idx : BitVec 5) (s : State) : Issued (execYMapFilter h d a b x0 idx s) h 16 s 13 2 := by
  unfold execYMapFilter; exact issued_of rfl (usesFit_low (by decide))
theorem issued_yUnmap (h : Hdr) (d : RegNo) (a : RegNo) (size : BitVec 4) (s : State) : Issued (execYUnmap h d a size s) h 16 s 13 3 := by
  unfold execYUnmap; exact issued_of rfl (usesFit_low (by decide))
theorem issued_yUnmapFilter (h : Hdr) (d : RegNo) (idx : BitVec 5) (s : State) : Issued (execYUnmapFilter h d idx s) h 16 s 13 3 := by
  unfold execYUnmapFilter; exact issued_of rfl (usesFit_low (by decide))
theorem issued_yXinvInval (h : Hdr) (d : RegNo) (a : RegNo) (b : RegNo) (s : State) : Issued (execYXinvInval h d a b s) h 16 s 13 4 := by
  unfold execYXinvInval; exact issued_of rfl (usesFit_low (by decide))
theorem issued_yXinvReplay (h : Hdr) (d : RegNo) (a : RegNo) (b : RegNo) (s : State) : Issued (execYXinvReplay h d a b s) h 16 s 13 4 := by
  unfold execYXinvReplay; exact issued_of rfl (usesFit_low (by decide))
theorem issued_yXinvFail (h : Hdr) (d : RegNo) (a : RegNo) (b : RegNo) (prot : Bool) (s : State) : Issued (execYXinvFail h d a b prot s) h 16 s 13 4 := by
  unfold execYXinvFail; exact issued_of rfl (usesFit_low (by decide))
theorem issued_yRegn (h : Hdr) (d : RegNo) (a : RegNo) (b : RegNo) (s : State) : Issued (execYRegn h d a b s) h 16 s 13 5 := by
  unfold execYRegn; exact issued_of rfl (usesFit_low (by decide))
theorem issued_yWinRead (h : Hdr) (d : RegNo) (imm : BitVec 32) (s : State) : Issued (execYWinRead h d imm s) h 12 s 13 6 := by
  unfold execYWinRead; exact issued_of rfl rfl
theorem issued_yWinWrite (h : Hdr) (b : RegNo) (imm : BitVec 32) (s : State) : Issued (execYWinWrite h b imm s) h 12 s 13 6 := by
  unfold execYWinWrite; exact issued_of rfl rfl
theorem issued_yWinStop (h : Hdr) (s : State) : Issued (execYWinStop h s) h 12 s 13 6 := by
  unfold execYWinStop; exact issued_of rfl rfl
theorem issued_yCtxs (h : Hdr) (sub : BitVec 2) (d : RegNo) (a : RegNo) (imm : BitVec 32) (s : State) : Issued (execYCtxs h sub d a imm s) h 12 s 13 7 := by
  unfold execYCtxs; exact issued_of rfl rfl
theorem issued_yCtxl (h : Hdr) (sub : BitVec 2) (d : RegNo) (a : RegNo) (imm : BitVec 32) (s : State) : Issued (execYCtxl h sub d a imm s) h 12 s 13 8 := by
  unfold execYCtxl; exact issued_of rfl rfl
theorem issued_yEretResume (h : Hdr) (s : State) : Issued (execYEretResume h s) h 8 s 13 9 := by
  unfold execYEretResume; exact issued_of rfl rfl
theorem issued_yEretStep (h : Hdr) (s : State) : Issued (execYEretStep h s) h 8 s 13 9 := by
  unfold execYEretStep; exact issued_of rfl rfl
theorem issued_yEretKillThreads (h : Hdr) (b : RegNo) (s : State) : Issued (execYEretKillThreads h b s) h 8 s 13 9 := by
  unfold execYEretKillThreads; exact issued_of rfl rfl
theorem issued_yEretKillTeam (h : Hdr) (s : State) : Issued (execYEretKillTeam h s) h 8 s 13 9 := by
  unfold execYEretKillTeam; exact issued_of rfl rfl
theorem issued_yIdle (h : Hdr) (d : RegNo) (b : RegNo) (s : State) : Issued (execYIdle h d b s) h 8 s 13 10 := by
  unfold execYIdle; exact issued_raw rfl rfl

/-- An instruction with an encoding is an issue of its header and length, by those whom its class and operation name. -/
theorem issued_exec (i : Instr) (f : Fields) (hf : i.fields = some f) (s : State) :
    Issued (exec i s) f.hdr (lenBytes f.len) s f.cls.toNat f.op.toNat := by
  cases i with
  | pad4 => cases hf
  | sMov h d a => cases hf; exact issued_sMov h d a s
  | sMovi h sub d imm => cases hf; exact issued_sMovi h sub d imm s
  | sAdd h d a src => cases hf; exact issued_sAdd h d a src s
  | sSub h d a src => cases hf; exact issued_sSub h d a src s
  | sMul h sub d a src => cases hf; exact issued_sMul h sub d a src s
  | sDiv h sub d a src => cases hf; exact issued_sDiv h sub d a src s
  | sAnd h d a src => cases hf; exact issued_sAnd h d a src s
  | sOr h d a src => cases hf; exact issued_sOr h d a src s
  | sXor h d a src => cases hf; exact issued_sXor h d a src s
  | sShl h d a src => cases hf; exact issued_sShl h d a src s
  | sShr h d a src => cases hf; exact issued_sShr h d a src s
  | sSra h d a src => cases hf; exact issued_sSra h d a src s
  | sMin h sub d a src => cases hf; exact issued_sMin h sub d a src s
  | sMax h sub d a src => cases hf; exact issued_sMax h sub d a src s
  | sCmp h cond d a src => cases hf; exact issued_sCmp h cond d a src s
  | sSel h d a b c => cases hf; exact issued_sSel h d a b c s
  | sClz h sub d a => cases hf; exact issued_sClz h sub d a s
  | sPopc h sub d a => cases hf; exact issued_sPopc h sub d a s
  | sBfx h sub d a src => cases hf; exact issued_sBfx h sub d a src s
  | sLea h d a b sh imm => cases hf; exact issued_sLea h d a b sh imm s
  | sRdsr h d a => cases hf; exact issued_sRdsr h d a s
  | sWrsr h d a => cases hf; exact issued_sWrsr h d a s
  | sMovc h sub d a => cases hf; exact issued_sMovc h sub d a s
  | sRdk h d a => cases hf; exact issued_sRdk h d a s
  | sWrk h d a => cases hf; exact issued_sWrk h d a s
  | bNop h => cases hf; exact issued_bNop h s
  | bJmp h sub a imm => cases hf; exact issued_bJmp h sub a imm s
  | bBr h sub a imm => cases hf; exact issued_bBr h sub a imm s
  | bBrk h sub a imm => cases hf; exact issued_bBrk h sub a imm s
  | bCall h sub d a imm => cases hf; exact issued_bCall h sub d a imm s
  | bRet h a => cases hf; exact issued_bRet h a s
  | bSplit h a x0 x1 => cases hf; exact issued_bSplit h a x0 x1 s
  | bJoin h => cases hf; exact issued_bJoin h s
  | bExit h => cases hf; exact issued_bExit h s
  | bMeld h a b base => cases hf; exact issued_bMeld h a b base s
  | bUnmeld h => cases hf; exact issued_bUnmeld h s
  | bMtab h sub a imm => cases hf; exact issued_bMtab h sub a imm s
  | bWcnt h ldc stc xc ec => cases hf; exact issued_bWcnt h ldc stc xc ec s
  | bTrap h code => cases hf; exact issued_bTrap h code s
  | bTret h => cases hf; exact issued_bTret h s
  | bDbg h code => cases hf; exact issued_bDbg h code s
  | vMov h t d a => cases hf; exact issued_vMov h t d a s
  | vMovs h t d a => cases hf; exact issued_vMovs h t d a s
  | vMovi h t d imm => cases hf; exact issued_vMovi h t d imm s
  | vAdd h t d a src => cases hf; exact issued_vAdd h t d a src s
  | vSub h t d a src => cases hf; exact issued_vSub h t d a src s
  | vMul h sub t d a src => cases hf; exact issued_vMul h sub t d a src s
  | vMad h t d a b c => cases hf; exact issued_vMad h t d a b c s
  | vAnd h t d a src => cases hf; exact issued_vAnd h t d a src s
  | vOr h t d a src => cases hf; exact issued_vOr h t d a src s
  | vXor h t d a src => cases hf; exact issued_vXor h t d a src s
  | vShl h t d a src => cases hf; exact issued_vShl h t d a src s
  | vShr h t d a src => cases hf; exact issued_vShr h t d a src s
  | vSra h t d a src => cases hf; exact issued_vSra h t d a src s
  | vMin h t d a src => cases hf; exact issued_vMin h t d a src s
  | vMax h t d a src => cases hf; exact issued_vMax h t d a src s
  | vAbs h t d a => cases hf; exact issued_vAbs h t d a s
  | vCmp h sub t d a b cond => cases hf; exact issued_vCmp h sub t d a b cond s
  | vSel h t d a b c => cases hf; exact issued_vSel h t d a b c s
  | vClz h t d a => cases hf; exact issued_vClz h t d a s
  | vPopc h t d a => cases hf; exact issued_vPopc h t d a s
  | vBfx h sub t d a src => cases hf; exact issued_vBfx h sub t d a src s
  | vDot4 h sub t d a b c => cases hf; exact issued_vDot4 h sub t d a b c s
  | vLid h sub d => cases hf; exact issued_vLid h sub d s
  | vRand h d => cases hf; exact issued_vRand h d s
  | vRdflag h d => cases hf; exact issued_vRdflag h d s
  | vClrflag h src => cases hf; exact issued_vClrflag h src s
  | fAdd h t d a b => cases hf; exact issued_fAdd h t d a b s
  | fSub h t d a b => cases hf; exact issued_fSub h t d a b s
  | fMul h t d a b => cases hf; exact issued_fMul h t d a b s
  | fFma h t d a b c => cases hf; exact issued_fFma h t d a b c s
  | fMin h sub t d a b => cases hf; exact issued_fMin h sub t d a b s
  | fMax h sub t d a b => cases hf; exact issued_fMax h sub t d a b s
  | fCmp h sub t d a b cond => cases hf; exact issued_fCmp h sub t d a b cond s
  | fCls h t d a => cases hf; exact issued_fCls h t d a s
  | fRcp h t d a => cases hf; exact issued_fRcp h t d a s
  | fRsq h t d a => cases hf; exact issued_fRsq h t d a s
  | fSqrt h t d a => cases hf; exact issued_fSqrt h t d a s
  | fDiv h t d a b => cases hf; exact issued_fDiv h t d a b s
  | fExp2 h t d a => cases hf; exact issued_fExp2 h t d a s
  | fLog2 h t d a => cases hf; exact issued_fLog2 h t d a s
  | fSin h t d a => cases hf; exact issued_fSin h t d a s
  | fCos h t d a => cases hf; exact issued_fCos h t d a s
  | fCvt h t d a sty => cases hf; exact issued_fCvt h t d a sty s
  | fPack h t d a sty esc => cases hf; exact issued_fPack h t d a sty esc s
  | fUnpack h t d a sty esc => cases hf; exact issued_fUnpack h t d a sty esc s
  | fAmax h t a src => cases hf; exact issued_fAmax h t a src s
  | xShfl h sub t d a src => cases hf; exact issued_xShfl h sub t d a src s
  | xBcast h t d a src => cases hf; exact issued_xBcast h t d a src s
  | xVote h sub d a => cases hf; exact issued_xVote h sub d a s
  | xRed h t d a opr => cases hf; exact issued_xRed h t d a opr s
  | xScan h sub t d a opr => cases hf; exact issued_xScan h sub t d a opr s
  | xPrmt h d a b c => cases hf; exact issued_xPrmt h d a b c s
  | xRdlane h t d a src => cases hf; exact issued_xRdlane h t d a src s
  | xWrlane h t d a src => cases hf; exact issued_xWrlane h t d a src s
  | xCnt h d a => cases hf; exact issued_xCnt h d a s
  | xFirst h d a => cases hf; exact issued_xFirst h d a s
  | lLd h vadr sx d a sz imm => cases hf; exact issued_lLd h vadr sx d a sz imm s
  | lSt h vadr a b sz imm => cases hf; exact issued_lSt h vadr a b sz imm s
  | lLdt h d a b imm => cases hf; exact issued_lLdt h d a b imm s
  | lStt h d a b imm => cases hf; exact issued_lStt h d a b imm s
  | lAtom h vadr t d a b opr imm => cases hf; exact issued_lAtom h vadr t d a b opr imm s
  | lCas h vadr t d a b c imm => cases hf; exact issued_lCas h vadr t d a b c imm s
  | lFill h vadr a b c imm => cases hf; exact issued_lFill h vadr a b c imm s
  | lSwz h vadr a tag imm => cases hf; exact issued_lSwz h vadr a tag imm s
  | gLd h d a x0 x1 => cases hf; exact issued_gLd h d a x0 x1 s
  | gSt h a b x0 x1 => cases hf; exact issued_gSt h a b x0 x1 s
  | gLdt h d a b x0 x1 => cases hf; exact issued_gLdt h d a b x0 x1 s
  | gStt h d a b x0 x1 => cases hf; exact issued_gStt h d a b x0 x1 s
  | gPf h a x0 x1 => cases hf; exact issued_gPf h a x0 x1 s
  | gLdnf h d a c x0 x1 => cases hf; exact issued_gLdnf h d a c x0 x1 s
  | aRmw h t d a b opr x0 x1 => cases hf; exact issued_aRmw h t d a b opr x0 x1 s
  | aCas h d a b c x0 x1 => cases hf; exact issued_aCas h d a b c x0 x1 s
  | aRed h t a b opr x0 x1 => cases hf; exact issued_aRed h t a b opr x0 x1 s
  | aLdacq h d a x0 x1 => cases hf; exact issued_aLdacq h d a x0 x1 s
  | aStrel h a b x0 x1 => cases hf; exact issued_aStrel h a b x0 x1 s
  | aFence h sub sc => cases hf; exact issued_aFence h sub sc s
  | aBarInit h a b imm => cases hf; exact issued_aBarInit h a b imm s
  | aBarArrive h sub d a b imm => cases hf; exact issued_aBarArrive h sub d a b imm s
  | aBarWait h a b imm => cases hf; exact issued_aBarWait h a b imm s
  | aBarSync h d a imm => cases hf; exact issued_aBarSync h d a imm s
  | aBarExpect h sub a b imm => cases hf; exact issued_aBarExpect h sub a b imm s
  | aBarTest h d a b imm => cases hf; exact issued_aBarTest h d a b imm s
  | aTktTake h d a x0 x1 => cases hf; exact issued_aTktTake h d a x0 x1 s
  | aTktWait h a b x0 x1 => cases hf; exact issued_aTktWait h a b x0 x1 s
  | aTktServe h a src x0 x1 => cases hf; exact issued_aTktServe h a src x0 x1 s
  | aWatch h d a b x0 x1 => cases hf; exact issued_aWatch h d a b x0 x1 s
  | mMma h sub d a b c zero scl bsc asc x0 prio sc bar => cases hf; exact issued_mMma h sub d a b c zero scl bsc asc x0 prio sc bar s
  | mMmt h sub d a b c zero x0 prio sc bar => cases hf; exact issued_mMmt h sub d a b c zero x0 prio sc bar s
  | mEnq h sub d a => cases hf; exact issued_mEnq h sub d a s
  | mZero h d a => cases hf; exact issued_mZero h d a s
  | mLdacc h sub d a b c row col shp => cases hf; exact issued_mLdacc h sub d a b c row col shp s
  | mStacc h sub d a b c row col shp => cases hf; exact issued_mStacc h sub d a b c row col shp s
  | mCvst h sub t d a b c cv => cases hf; exact issued_mCvst h sub t d a b c cv s
  | mRstat h d a rows cols => cases hf; exact issued_mRstat h d a rows cols s
  | mAmax h sub d src => cases hf; exact issued_mAmax h sub d src s
  | mResv h d a => cases hf; exact issued_mResv h d a s
  | qSpawn h sub d a x0 => cases hf; exact issued_qSpawn h sub d a x0 s
  | qLaunch h sub d a x0 => cases hf; exact issued_qLaunch h sub d a x0 s
  | qFwait h sub d a sc => cases hf; exact issued_qFwait h sub d a sc s
  | qFtest h sub d a => cases hf; exact issued_qFtest h sub d a s
  | qFcancel h sub d a => cases hf; exact issued_qFcancel h sub d a s
  | qFmov h sub d a b imm => cases hf; exact issued_qFmov h sub d a b imm s
  | qClaim h d src => cases hf; exact issued_qClaim h d src s
  | qGive h src => cases hf; exact issued_qGive h src s
  | qLive h imm => cases hf; exact issued_qLive h imm s
  | qYield h => cases hf; exact issued_qYield h s
  | qSleep h src => cases hf; exact issued_qSleep h src s
  | eCopy h d a b c x0 x => cases hf; exact issued_eCopy h d a b c x0 x s
  | eCopy2 h d a b c x0 x => cases hf; exact issued_eCopy2 h d a b c x0 x s
  | eGath h d a b c x0 x => cases hf; exact issued_eGath h d a b c x0 x s
  | eScat h d a b c x0 x => cases hf; exact issued_eScat h d a b c x0 x s
  | eFill h d a b c x0 x => cases hf; exact issued_eFill h d a b c x0 x s
  | eBcast h d a b c x0 x => cases hf; exact issued_eBcast h d a b c x0 x s
  | eRkinit h sub d a rick prio fst => cases hf; exact issued_eRkinit h sub d a rick prio fst s
  | eRkstep h sub d b rick prio imm => cases hf; exact issued_eRkstep h sub d b rick prio imm s
  | eRkread h sub d a rick prio mask => cases hf; exact issued_eRkread h sub d a rick prio mask s
  | eRkld h d a rick prio rung => cases hf; exact issued_eRkld h d a rick prio rung s
  | eRkst h d a rick prio rung => cases hf; exact issued_eRkst h d a rick prio rung s
  | eRksave h sub d a rick prio rx => cases hf; exact issued_eRksave h sub d a rick prio rx s
  | eRkrest h sub d a rick prio rx => cases hf; exact issued_eRkrest h sub d a rick prio rx s
  | eRkstat h d rick prio => cases hf; exact issued_eRkstat h d rick prio s
  | kvBind h d a b x0 => cases hf; exact issued_kvBind h d a b x0 s
  | kvUnbind h d => cases hf; exact issued_kvUnbind h d s
  | kvPop h d a => cases hf; exact issued_kvPop h d a s
  | kvAck h a => cases hf; exact issued_kvAck h a s
  | kvAckFut h a b => cases hf; exact issued_kvAckFut h a b s
  | kvCur h d a => cases hf; exact issued_kvCur h d a s
  | kvApp h d a b sc => cases hf; exact issued_kvApp h d a b sc s
  | kvFind h d a b => cases hf; exact issued_kvFind h d a b s
  | kvIns h d a b c => cases hf; exact issued_kvIns h d a b c s
  | kvRel h d a b => cases hf; exact issued_kvRel h d a b s
  | kvTrunc h d a b sc => cases hf; exact issued_kvTrunc h d a b sc s
  | kvRope h d a b c p => cases hf; exact issued_kvRope h d a b c p s
  | kvRpset h a imm => cases hf; exact issued_kvRpset h a imm s
  | kvPush h a b => cases hf; exact issued_kvPush h a b s
  | kvPushEnd h a => cases hf; exact issued_kvPushEnd h a s
  | kvPushStop h => cases hf; exact issued_kvPushStop h s
  | cAnew h d a quota zf swm typ => cases hf; exact issued_cAnew h d a quota zf swm typ s
  | cSeal h d a => cases hf; exact issued_cSeal h d a s
  | cDrop h d a => cases hf; exact issued_cDrop h d a s
  | cAq h sub d a => cases hf; exact issued_cAq h sub d a s
  | cWbr h d a b => cases hf; exact issued_cWbr h d a b s
  | cInvr h d a b => cases hf; exact issued_cInvr h d a b s
  | cCtnew h d a id => cases hf; exact issued_cCtnew h d a id s
  | cCtenr h sub d a b node => cases hf; exact issued_cCtenr h sub d a b node s
  | cCtenrWithdraw h d a b => cases hf; exact issued_cCtenrWithdraw h d a b s
  | cCtpar h d a b => cases hf; exact issued_cCtpar h d a b s
  | cCtrd h d a => cases hf; exact issued_cCtrd h d a s
  | cSettle h d a => cases hf; exact issued_cSettle h d a s
  | cCtdel h d a => cases hf; exact issued_cCtdel h d a s
  | yRdpr h d a => cases hf; exact issued_yRdpr h d a s
  | yWrpr h d a => cases hf; exact issued_yWrpr h d a s
  | yMap h d a b size w als => cases hf; exact issued_yMap h d a b size w als s
  | yMapFilter h d a b x0 idx => cases hf; exact issued_yMapFilter h d a b x0 idx s
  | yUnmap h d a size => cases hf; exact issued_yUnmap h d a size s
  | yUnmapFilter h d idx => cases hf; exact issued_yUnmapFilter h d idx s
  | yXinvInval h d a b => cases hf; exact issued_yXinvInval h d a b s
  | yXinvReplay h d a b => cases hf; exact issued_yXinvReplay h d a b s
  | yXinvFail h d a b prot => cases hf; exact issued_yXinvFail h d a b prot s
  | yRegn h d a b => cases hf; exact issued_yRegn h d a b s
  | yWinRead h d imm => cases hf; exact issued_yWinRead h d imm s
  | yWinWrite h b imm => cases hf; exact issued_yWinWrite h b imm s
  | yWinStop h => cases hf; exact issued_yWinStop h s
  | yCtxs h sub d a imm => cases hf; exact issued_yCtxs h sub d a imm s
  | yCtxl h sub d a imm => cases hf; exact issued_yCtxl h sub d a imm s
  | yEretResume h => cases hf; exact issued_yEretResume h s
  | yEretStep h => cases hf; exact issued_yEretStep h s
  | yEretKillThreads h b => cases hf; exact issued_yEretKillThreads h b s
  | yEretKillTeam h => cases hf; exact issued_yEretKillTeam h s
  | yIdle h d b => cases hf; exact issued_yIdle h d b s
  | resultReturn => cases hf
  | faultRecordPost => cases hf
  | breakpointHit => cases hf
  | waveRetire => cases hf
  | teamRelease => cases hf
  | groupComplete => cases hf
  | gangPlacement => cases hf
  | claimGrant => cases hf
  | claimFail => cases hf
  | sleepExpiry => cases hf
  | arenaMasterRequest => cases hf
  | arenaBroadcastApply => cases hf
  | drainWatermark => cases hf
  | sealComplete => cases hf
  | translationWalk => cases hf
  | homeSliceOperation => cases hf
  | l1Fill => cases hf
  | rollUpDeltaApply => cases hf
  | ticketWaiterRetry => cases hf
  | amaxUpdateApply => cases hf
  | barrierHalfComplete => cases hf
  | copyBytesLand => cases hf
  | copyComplete => cases hf
  | scoreboardEntryFree => cases hf
  | tilePassGrant => cases hf
  | tilePassComplete => cases hf
  | tileTaskComplete => cases hf
  | rickOperationComplete => cases hf
  | changeTreeAgentRequest => cases hf
  | enrollmentApplied => cases hf
  | remapFilterApply => cases hf
  | translationCacheInvalidation => cases hf
  | eccCorrected => cases hf
  | bankMarkFailed => cases hf
  | eccUncorrectable => cases hf
  | hostBar2Read => cases hf
  | hostBar2Write => cases hf
  | bar0Write => cases hf
  | restartModule => cases hf
  | restartPartition => cases hf
  | mboxAttestation => cases hf
  | mboxImageChunk => cases hf
  | mboxImageCommit => cases hf
  | mboxFirmwareRequest => cases hf
  | larlanPortTrain => cases hf
  | larlanLaneLoss => cases hf
  | larlanKeyExpiry => cases hf
  | link => cases hf
  | larlanRemoteAccess => cases hf
  | moduleStart => cases hf
  | watchdogExpiry => cases hf
  | bringupOvertemp => cases hf
  | thermalThrottle => cases hf
  | thermalPowerOff => cases hf
  | powerLoss => cases hf
  | l1Eviction => cases hf
  | sliceEviction => cases hf
  | recordBlocking => cases hf
  | waveSwitchOut => cases hf
  | prFaultqWrite => cases hf
  | prFqconsWrite => cases hf
  | idleTimeLimit => cases hf
  | zeroFillPageDone => cases hf
  | ashSweepPass => cases hf
  | waveSwitchResume => cases hf
  | regionDrainSignal => cases hf

/-! ## The checks in their order -/

section
variable {is : Iss} {pm : Perm} {u : Uses}

theorem Iss.check_priv (hy : pm.y = true) (hc : is.c.priv = false) : is.check pm u = .error (is.fault0 Code.priv) := by
  unfold Iss.check; rw [hy, hc]; rfl

theorem Iss.check_md (hy : (!pm.y || is.c.priv) = true) (hm : is.h.md = true) (hr : is.fr.meld = false) :
    is.check pm u = .error (is.fault0 Code.iil) := by
  unfold Iss.check; rw [hy, hm, hr]; rfl

/-- The checks of R41 pass for an instruction outside a melded region whose registers are in range. -/
theorem Iss.check_inner (hy : (!pm.y || is.c.priv) = true) (hm : is.h.md = false) (hr : is.fr.meld = false)
    (hu : (u.rd ++ u.wr).all is.inRange = true) (hp : is.p ≠ 0) {e : Exc}
    (h : (do
      require (!pm.hearthOnly || isHearth is.a) (is.fault0 Code.priv)
      require (pm.stoker || !isStoker is.a) (is.fault0 Code.stoker)
      require (pm.hearth || !isHearth is.a) (is.fault0 Code.iil) : Res Unit) = .error e) : is.check pm u = .error e := by
  unfold Iss.check
  rw [hy, hm, hr, hu]
  have hp' : (is.p ≠ 0 || pm.onEmpty) = true := by rw [decide_eq_true hp, Bool.true_or]
  rw [hp', Bool.not_false, Bool.or_true]
  generalize require (!pm.hearthOnly || isHearth is.a) (is.fault0 Code.priv) = x at h ⊢
  generalize require (pm.stoker || !isStoker is.a) (is.fault0 Code.stoker) = y at h ⊢
  generalize require (pm.hearth || !isHearth is.a) (is.fault0 Code.iil) = z at h ⊢
  cases x with
  | error => exact h
  | ok => cases y with
    | error => exact h
    | ok => cases z with
      | error => exact h
      | ok => cases h

theorem Iss.check_range (hy : (!pm.y || is.c.priv) = true) (hm : is.h.md = false) (hr : is.fr.meld = false)
    (hu : (u.rd ++ u.wr).all is.inRange = false) : is.check pm u = .error (is.fault0 Code.iil) := by
  unfold Iss.check
  rw [hy, hm, hr, hu, Bool.not_false, Bool.or_true]; rfl

/-- With no passing thread only the checks of R41 can fail (R37). -/
theorem Iss.check_empty (hp : is.p = 0) (he : pm.onEmpty = false) :
    is.check pm u = .ok () ∨ ∃ code, (code = Code.priv ∨ code = Code.iil) ∧ is.check pm u = .error (is.fault0 code) := by
  unfold Iss.check
  have hp' : (is.p ≠ 0 || pm.onEmpty) = false := by simp [hp, he]
  rw [hp']
  cases !pm.y || is.c.priv with
  | false => exact .inr ⟨_, .inl rfl, rfl⟩
  | true => cases !is.h.md || is.fr.meld with
    | false => exact .inr ⟨_, .inr rfl, rfl⟩
    | true => cases !pm.noMeld || !is.fr.meld with
      | false => exact .inr ⟨_, .inr rfl, rfl⟩
      | true => cases (u.rd ++ u.wr).all is.inRange with
        | false => exact .inr ⟨_, .inr rfl, rfl⟩
        | true => exact .inl rfl

theorem Iss.inRange_scalar {x : Use} (h : x.isVector = false) : is.inRange x = true := by
  cases x with
  | v | x | g => cases h
  | s | h | k => rfl

theorem Iss.inRange_stoker {x : Use} (hs : isStoker is.a = true) (h : x.isGroup = false) : is.inRange x = true := by
  cases x with
  | g => cases h
  | v | x => simp [Iss.inRange, hs]
  | s | h | k => rfl

theorem usesFit_hearth (h : usesFit u 13 op = true) (ho : 6 ≤ op) : (u.rd ++ u.wr).all is.inRange = true := by
  rw [List.all_eq_true]
  intro x hx
  have := List.all_eq_true.mp h x hx
  rw [if_pos rfl, decide_eq_false (by omega), Bool.false_or] at this
  exact Iss.inRange_scalar (by simpa using this)

theorem usesFit_stoker {cls op : Nat} (h : usesFit u cls op = true) (hc : cls ≠ 13) (ho : stokerMay cls op = false)
    (hs : isStoker is.a = true) : (u.rd ++ u.wr).all is.inRange = true := by
  rw [List.all_eq_true]
  intro x hx
  have := List.all_eq_true.mp h x hx
  rw [if_neg hc, ho, Bool.false_or] at this
  exact Iss.inRange_stoker hs (by simpa using this)

end

theorem permFits_iff {pm : Perm} {cls op : Nat} (h : permFits pm cls op = true) :
    pm.y = (cls == 13) ∧ (cls = 13 → 6 ≤ op → pm.hearthOnly = true) ∧ (cls ≠ 13 → pm.hearthOnly = false) ∧
      (cls ≠ 13 → stokerMay cls op = false → pm.stoker = false) ∧ (hearthLacks cls op = true → pm.hearth = false) ∧
      (cls ≠ 4 → pm.onEmpty = false) := by
  simp only [permFits, Bool.and_eq_true, Bool.or_eq_true, beq_iff_eq, bne_iff_ne, decide_eq_true_eq, Bool.not_eq_true'] at h
  obtain ⟨⟨⟨⟨⟨h1, h2⟩, h3⟩, h4⟩, h5⟩, h6⟩ := h
  refine ⟨h1, fun hc ho => ?_, fun hc => h3.resolve_left hc, fun hc hs => ?_, fun hl => ?_, fun hc => h6.resolve_left hc⟩
  · rcases h2 with (h2 | h2) | h2
    · exact absurd hc h2
    · omega
    · exact h2
  · rcases h4 with (h4 | h4) | h4
    · exact absurd h4 hc
    · rw [hs] at h4; cases h4
    · exact h4
  · rcases h5 with h5 | h5
    · rw [hl] at h5; cases h5
    · exact h5

theorem hearthLacks_ne {cls op : Nat} (h : hearthLacks cls op = true) : cls ≠ 13 := by
  rintro rfl; cases h

/-- Settles O55: every instruction is an issue whose permissions fit its class and operation, and the checks run in their order. -/
theorem issueChecks : Obligations.IssueChecks := by
  unfold Obligations.IssueChecks
  intro i f s is hf hiss
  obtain ⟨pm, u, body, hex, hpm, hu⟩ := issued_exec i f hf s
  obtain ⟨-, -, -, -, -, -, hhdr, -, -⟩ := State.iss?_view hiss
  have hmd : is.h.md = f.md := by rw [hhdr]; rfl
  obtain ⟨hy, hho, hnho, hst, hlk, hem⟩ := permFits_iff hpm
  have fails {e : Exc} (he : is.check pm u = .error e) : exec i s = .next (s.except is e) := by
    rw [hex]; exact issueRaw_check hiss he
  have c13 {n : BitVec 4} (h : n = 13) : n.toNat = 13 := by rw [h]; rfl
  have n13 {n : BitVec 4} (h : n ≠ 13) : n.toNat ≠ 13 := fun hn => h (BitVec.eq_of_toNat_eq hn)
  refine ⟨fun hc hp => fails (Iss.check_priv (by rw [hy, c13 hc]; rfl) hp), fun hc hp hm hr => ?_, fun hc hm hr => ?_,
    fun hp hm hr => ⟨fun hc ho hpr ha => ?_, fun hc hs hmay => ?_, fun ha hs hl => ?_⟩, fun hc hp => ?_⟩
  · exact fails (Iss.check_md (by rw [hp, Bool.or_true]) (hmd.trans hm) hr)
  · exact fails (Iss.check_md (by rw [hy, beq_false_of_ne (n13 hc)]; rfl) (hmd.trans hm) hr)
  · rw [c13 hc] at hu
    refine fails (Iss.check_inner (by rw [hpr, Bool.or_true]) (hmd.trans hm) hr (usesFit_hearth hu ho) hp ?_)
    rw [hho (c13 hc) ho, ha]; rfl
  · refine fails (Iss.check_inner (by rw [hy, beq_false_of_ne (n13 hc)]; rfl) (hmd.trans hm) hr
      (usesFit_stoker hu (n13 hc) hmay hs) hp ?_)
    rw [hnho (n13 hc), hst (n13 hc) hmay, hs]; rfl
  · have hc := hearthLacks_ne hl
    have hy' : (!pm.y || is.c.priv) = true := by rw [hy, beq_false_of_ne hc]; rfl
    cases hr' : (u.rd ++ u.wr).all is.inRange with
    | false => exact fails (Iss.check_range hy' (hmd.trans hm) hr hr')
    | true =>
      refine fails (Iss.check_inner hy' (hmd.trans hm) hr hr' hp ?_)
      rw [hnho hc, hlk hl, ha, hs, Bool.not_false, Bool.or_true, Bool.or_true]; rfl
  · have hne : f.cls.toNat ≠ 4 := fun hn => hc (BitVec.eq_of_toNat_eq hn)
    rcases Iss.check_empty (u := u) hp (hem hne) with hok | ⟨code, hcode, herr⟩
    · rw [hex]; exact .inl (issueRaw_empty hiss hok hp (hem hne))
    · exact .inr ⟨code, hcode, fails herr⟩

end Sys2Proof.Machine

/-! SUPPORT. A q.fcancel on a word whose home is on another module: its read sends a group over a port (R382, R442). -/

namespace Sys2Proof.Machine

open Sys2Proof.Tests

/-- What a port sends leaves the count of its other direction. -/
theorem Port.send_count (x : Port) (p : Nat) (l : List Byte) : (x.send p l).count = x.count := by
  unfold Port.send
  generalize List.range (groupsFor l.length) = is
  induction is generalizing x with
  | nil => rfl
  | cons i is ih => exact ih _

/-- An access that reads over a port: a group is sent, and one is counted that comes back. -/
def State.overPort (s : State) (p : Nat) : State :=
  let x := (s.port p).send p (fixLen groupBytes (Config.linkBytes s.tick))
  { s with ports := s.ports.put p { x with count := x.count + 1 } }

theorem State.overPort_ports (s : State) (p : Nat) : (s.overPort p).ports ≠ s.ports := by
  intro h
  have hp : ((s.overPort p).port p).count = (s.port p).count := congrArg (fun m => ((AMap.find m p).getD Port.init).count) h
  unfold State.overPort State.port at hp
  rw [AMap.find_put_same, Option.getD_some, Port.send_count] at hp
  exact Nat.succ_ne_self _ hp

/-- An access over a link counts at one of the open ports. -/
theorem State.overLink_counts {s : State} {part unit p0 : Nat} {l : List Nat} (hu : 32 ≤ unit) (ho : s.openPorts part = p0 :: l) :
    ∃ p, s.overLink part unit true = some (s.overPort p) := by
  refine ⟨(p0 :: l).getD (Config.linkPort s.tick unit % (l.length + 1)) p0, ?_⟩
  unfold State.overLink
  rw [if_neg (by omega), ho]
  rfl

section
variable {s s1 : State} {core part gen line off m : Nat} {b : List Byte}

/-- A piece that no L1 and no copy of the die has is read at its home, as soon as that is reached. -/
theorem State.viewLine_home {l : List Byte} (hl : (s.core core).l1Find line gen = none) (hc : s.copyOf (dieOfCore core) part line gen = none)
    (hr : s.homeRead part gen (line * 128) 128 = .ok l) (hs : s.reach part (line * 128) true = some s1) :
    ∃ b, s.viewLine core part gen line off m = .ok (b, s1) := by
  unfold State.viewLine
  rw [hl]
  dsimp only [Option.filter]
  rw [hc]
  dsimp only
  rw [hr, hs]
  exact ⟨_, rfl⟩

theorem State.viewPieces_one {rt : Route} {n : Nat} (hst : s.staleGen part rt.va rt.attr.gen = false) (hseg : segs rt.va n = [(line, off, m)])
    (hv : s.viewLine core part rt.attr.gen line off m = .ok (b, s1)) : s.viewPieces core part [(rt, n)] = .ok (b, false, s1) := by
  unfold State.viewPieces State.viewRead
  simp only [List.foldlM_cons, List.foldlM_nil, hst, hseg, hv]
  rfl

/-- A record in one piece is read as its view gives it. -/
theorem State.readRecord_one {is : Iss} {va : W64} {n align : Nat} {rt : Route} {x : List Byte × Bool × State}
    (hal : is.aligned align (is.p.list.map (fun i => (i, vaOf va))) = .ok ()) (hp : is.p ≠ 0) (ha : arenaOf (vaOf va) = arenaOf (vaOf va + n - 1))
    (hpc : linePieces (vaOf va) n = [(vaOf va, n)]) (hrt : is.routesU s false false [vaOf va] = .ok [rt]) (hrd : s.readReady is n rt = .ok ())
    (hv : s.viewPieces (coreOf is.a) (s.agentPart is.a) [(rt, n)] = .ok x) : s.readRecord is va n align = .ok x := by
  unfold State.readRecord
  dsimp only
  rw [hal, if_neg hp, hpc]
  dsimp only [List.map]
  rw [hrt, ← ha, decide_eq_true rfl]
  show ((s.readReady is n rt >>= fun _ => pure ()) >>= fun _ => match s.viewPieces (coreOf is.a) (s.agentPart is.a) [(rt, n)] with
    | .ok x => pure x | .error (_, _) => _) = _
  rw [hrd, hv]
  rfl

end

/-! ## The state -/

/-- Arena 1 has its home on module 1, and port 17 is open. -/
def far : State :=
  { m0 with ports := [(17, { port0 with sent := 0, count := 0 })], dies := [(0, Die.init), (portDie 17, Die.init)]
            dieParts := [(0, 0), (portDie 17, 0)]
            parts := [(0, { Part.init (BitVec.allOnes 24) 0 with regions := [(0, { rootRegion 0 with kind := 1, mfirst := 1, mcount := 1 })] })] }

/-- The address of the word, at the base of arena 1. -/
def farWord : Nat := 0x0000100000000000

/-- What the q.fcancel of the word that s1 names sees at issue: it may read the word, which no L1 and no copy has, from module 1. -/
def farSees (is : Iss) : Bool :=
  quiet far is && is.c.ec < 63 && vaOf (is.s 1) = farWord && is.canon far farWord = farWord && is.p ≠ 0 &&
    allows is far farWord false true && allows is far farWord false false && good (is.aligned 8 (is.p.list.map (fun i => (i, farWord)))) &&
    good (far.readReady is 8 (is.routeOf far farWord)) && (is.routeOf far farWord).va = farWord &&
    !far.staleGen (far.agentPart is.a) farWord (is.routeOf far farWord).attr.gen &&
    ((far.core (coreOf is.a)).l1Find (lineNo farWord) (is.routeOf far farWord).attr.gen).isNone &&
    (far.copyOf (dieOfCore (coreOf is.a)) (far.agentPart is.a) (lineNo farWord) (is.routeOf far farWord).attr.gen).isNone &&
    good (far.homeRead (far.agentPart is.a) (is.routeOf far farWord).attr.gen (lineNo farWord * 128) 128) &&
    !far.rewriting (far.agentPart is.a) (lineNo farWord * 128) && 32 ≤ far.unitOf (far.agentPart is.a) (lineNo farWord * 128) &&
    far.openPorts (far.agentPart is.a) = [17]

theorem far_ready : met far .core 8 [.h 1] [.s 5] farSees = true := by decide +kernel

theorem ok_of_good {ε α : Type} {e : Except ε α} (h : good e = true) : ∃ x, e = .ok x := by
  cases e with
  | ok x => exact ⟨x, rfl⟩
  | error => cases h

theorem quiet_sound {s : State} {is : Iss} (h : quiet s is = true) : is.quiet s := by
  unfold quiet at h
  exact of_decide_eq_true (inst := _) h

/-- The word is read over the port. -/
theorem far_read {is : Iss} (h : farSees is = true) :
    ∃ l s1, far.readRecord is (BitVec.ofNat 64 farWord) 8 8 = .ok (l, false, s1) ∧ s1.ports ≠ far.ports := by
  simp only [farSees, Bool.and_eq_true, decide_eq_true_eq, Bool.not_eq_true', Option.isNone_iff_eq_none] at h
  obtain ⟨⟨⟨⟨⟨⟨⟨⟨⟨⟨⟨⟨⟨⟨⟨⟨-, -⟩, -⟩, -⟩, hp⟩, -⟩, hallow⟩, hal⟩, hready⟩, hva⟩, hstale⟩, hl1⟩, hcopy⟩, hhome⟩, hrw⟩, hunit⟩, hopen⟩ := h
  obtain ⟨b, hb⟩ := ok_of_good hhome
  obtain ⟨_, hal⟩ := ok_of_good hal
  obtain ⟨_, hready⟩ := ok_of_good hready
  have hroute : is.routesU far false false [farWord] = .ok [is.routeOf far farWord] :=
    Iss.routesU_ok fun v hv => (List.mem_singleton.mp hv) ▸ @of_decide_eq_true _ (allowsDec is far farWord false false) hallow
  obtain ⟨p, hlink⟩ := State.overLink_counts hunit hopen
  have hreach : far.reach (far.agentPart is.a) (lineNo farWord * 128) true = some (far.overPort p) :=
    (if_neg (by rw [hrw]; exact Bool.false_ne_true)).trans hlink
  obtain ⟨l, hview⟩ := State.viewLine_home (off := 0) (m := 8) hl1 hcopy hb hreach
  refine ⟨l, far.overPort p, State.readRecord_one hal hp (by decide) (by decide) hroute hready ?_, State.overPort_ports _ _⟩
  exact State.viewPieces_one (by rw [hva]; exact hstale) (by rw [hva]; decide) hview

/-- Refutes O56: a q.fcancel with SUB 01 reads its word as a record, and where that has its home on another module the read sends a group over
an open port. -/
theorem not_memoryFrame : ¬ Obligations.MemoryFrame := by
  unfold Obligations.MemoryFrame
  intro h
  have hmet := far_ready
  unfold met at hmet
  split at hmet
  case h_2 => cases hmet
  case h_1 is hr =>
    obtain ⟨l, s1, hread, hports⟩ := far_read hmet
    simp only [farSees, Bool.and_eq_true, decide_eq_true_eq] at hmet
    obtain ⟨⟨⟨⟨⟨⟨⟨⟨⟨⟨⟨⟨⟨⟨⟨⟨hq, hec⟩, hva⟩, hcanon⟩, -⟩, hallow⟩, -⟩, -⟩, -⟩, -⟩, -⟩, -⟩, -⟩, -⟩, -⟩, -⟩, -⟩ := hmet
    obtain ⟨t, hexec, -, ht⟩ := qFcancel_word (sub := 1) (a := 1) (d := 5) (by decide) hr hec (quiet_sound hq) (by rw [hva]; decide)
      (hva ▸ @of_decide_eq_true _ (allowsDec is far farWord false true) hallow) (by rw [hva, hcanon]; exact hread)
    obtain ⟨-, -, hsame⟩ := h _ _ far t rfl (by decide) hexec
    exact hports (ht.symm.trans hsame)

end Sys2Proof.Machine

/-! SUPPORT. The hearth's window on an agent of its die (R401): what it writes it reads, and the agent that it names is another. -/

namespace Sys2Proof.Machine

/-! ## Bits of a word that is replaced -/

theorem bits_setBits (v lo n x : Nat) : bits (setBits v lo n x) lo n = x % 2 ^ n := by
  have hq : setBits v lo n x = v % 2 ^ lo + (2 ^ n * (v / 2 ^ lo / 2 ^ n) + x % 2 ^ n) * 2 ^ lo := by
    have h1 := Nat.mod_add_div v (2 ^ lo)
    have h2 := Nat.mod_add_div (v / 2 ^ lo) (2 ^ n)
    have h3 : v = v % 2 ^ lo + (v / 2 ^ lo % 2 ^ n) * 2 ^ lo + 2 ^ n * (v / 2 ^ lo / 2 ^ n) * 2 ^ lo := by
      calc v = v % 2 ^ lo + 2 ^ lo * (v / 2 ^ lo % 2 ^ n + 2 ^ n * (v / 2 ^ lo / 2 ^ n)) := by rw [h2]; exact h1.symm
        _ = _ := by ring
    unfold setBits bits
    rw [Nat.shiftRight_eq_div_pow]
    generalize v / 2 ^ lo % 2 ^ n * 2 ^ lo = y at *
    rw [Nat.add_mul]
    omega
  unfold bits
  rw [hq, Nat.shiftRight_eq_div_pow, Nat.add_mul_div_right _ _ (Nat.two_pow_pos lo), Nat.div_eq_of_lt (Nat.mod_lt _ (Nat.two_pow_pos lo)),
    Nat.zero_add, Nat.mul_add_mod, Nat.mod_mod]

theorem bits_mod_pow (v w lo n : Nat) (h : lo + n ≤ w) : bits (v % 2 ^ w) lo n = bits v lo n := by
  unfold bits
  refine Nat.eq_of_testBit_eq fun i => ?_
  simp only [Nat.testBit_mod_two_pow, Nat.testBit_shiftRight]
  by_cases hi : i < n
  · simp [hi, show lo + i < w by omega]
  · simp [hi]

theorem bits_putField {w : Nat} (x : BitVec w) (lo n v : Nat) (h : lo + n ≤ w) : bits (putField x lo n v).toNat lo n = v % 2 ^ n := by
  unfold putField
  rw [BitVec.toNat_ofNat, bits_mod_pow _ _ _ _ h, bits_setBits]

/-! ## What the window writes it reads -/

section
variable {s : State} {a : Agent} {c c' : Ctx} {i : Nat} {v : W64}

theorem winRead_scalar (h : c.winWrite a i v = some c') (hi : i < 0x3F) : s.winRead a c' i = some v.toNat := by
  have hc : c' = c.sset i v := by
    unfold Ctx.winWrite at h
    rw [if_pos (show i < 0x40 by omega), if_pos (show i < 0x40 by omega), ite_self] at h
    exact (Option.some.inj h).symm
  have hr : s.winRead a c' i = some (c'.sget i).toNat := by
    unfold State.winRead
    dsimp only
    rw [if_pos (show i < 0x40 by omega), if_pos (show i < 0x40 by omega), ite_self]
  rw [hr, hc, Ctx.sget_sset, if_pos ⟨rfl, by omega⟩]

/-- Above the scalar registers only a wave has what the window writes, but for a stoker's two words. -/
theorem winWrite_wave (h : c.winWrite a i v = some c') (hi : 0x40 ≤ i) (h1 : i ≠ 0x80) (h2 : i ≠ 0x81) (h3 : i ≠ 0x97) : isStoker a = false := by
  by_contra hs
  unfold Ctx.winWrite at h
  rw [if_pos (by simpa using hs), if_neg (by omega), if_neg (by simp [h1, h2]), if_neg h3] at h
  cases h

theorem winRead_mask (h : c.winWrite a i v = some c') (hi : 0x41 ≤ i ∧ i < 0x50) : s.winRead a c' i = some v.toNat := by
  have hs := winWrite_wave h (by omega) (by omega) (by omega) (by omega)
  have hc : c' = c.kset (i - 0x40) v := by
    unfold Ctx.winWrite at h
    rw [if_neg (by simp [hs]), if_neg (by omega), if_pos (by omega)] at h
    exact (Option.some.inj h).symm
  unfold State.winRead
  rw [if_neg (by simp [hs]), if_neg (by omega), if_pos (by omega), hc, Ctx.kget_kset, if_pos ⟨rfl, by omega⟩]

theorem winRead_paths (h : c.winWrite a i v = some c') (hi : i = 0x92 ∨ i = 0x93) : s.winRead a c' i = some v.toNat := by
  have hs := winWrite_wave h (by omega) (by omega) (by omega) (by omega)
  have hv : v.toNat % 2 ^ 64 = v.toNat := Nat.mod_eq_of_lt v.isLt
  have hc : c' = { c with paths := putField c.paths (64 * (i - 0x92)) 64 v.toNat } := by
    unfold Ctx.winWrite at h
    rcases hi with rfl | rfl <;> simp [hs] at h <;> exact h.symm
  have hr : s.winRead a c' i = some (bits c'.paths.toNat (64 * (i - 0x92)) 64) := by
    unfold State.winRead
    rcases hi with rfl | rfl <;> simp [hs]
  rw [hr, hc]
  dsimp only
  rw [bits_putField _ _ _ _ (by omega), hv]

theorem winRead_rename (h : c.winWrite a i v = some c') (hi : 0xA0 ≤ i ∧ i < 0xB0) : s.winRead a c' i = some v.toNat := by
  have hs := winWrite_wave h (by omega) (by omega) (by omega) (by omega)
  have hv : v.toNat % 2 ^ 64 = v.toNat := Nat.mod_eq_of_lt v.isLt
  have hc : c' = { c with mtab := putField c.mtab (64 * (i - 0xA0)) 64 v.toNat } := by
    unfold Ctx.winWrite at h
    rw [if_neg (by simp [hs]), if_neg (by omega), if_neg (by omega), if_neg (by simp; omega), if_neg (by simp; omega), if_neg (by simp; omega),
      if_neg (by omega), if_neg (by simp; omega), if_neg (by omega), if_neg (by omega), if_pos (by simp; omega)] at h
    exact (Option.some.inj h).symm
  have hr : s.winRead a c' i = some (bits c'.mtab.toNat (64 * (i - 0xA0)) 64) := by
    unfold State.winRead
    dsimp only
    rw [if_neg (by simp [hs]), if_neg (by omega), if_neg (by omega), if_neg (by simp; omega), if_neg (by simp; omega), if_neg (by omega),
      if_neg (by omega), if_neg (by simp; omega), if_neg (by omega), if_neg (by omega), if_neg (by omega), if_neg (by omega), if_pos (by simp; omega)]
  rw [hr, hc]
  dsimp only
  rw [bits_putField _ _ _ _ (by omega), hv]

theorem winRead_vector (h : c.winWrite a i v = some c') (hi : 0x10000 ≤ i) : s.winRead a c' i = some (v.toNat % 2 ^ 32) := by
  have hs := winWrite_wave h (by omega) (by omega) (by omega) (by omega)
  by_cases hn : i < 0x10000 + 64 * c.nreg
  · have hc : c' = c.vset ((i - 0x10000) / 64) (i % 64) (v.extractLsb' 0 32) := by
      unfold Ctx.winWrite at h
      rw [if_neg (by simp [hs]), if_neg (by omega), if_neg (by omega), if_neg (by simp; omega), if_neg (by simp; omega), if_neg (by simp; omega),
        if_neg (by omega), if_neg (by simp; omega), if_neg (by omega), if_neg (by omega), if_neg (by simp; omega), if_neg (by simp; omega),
        if_pos (by simp; omega)] at h
      exact (Option.some.inj h).symm
    have hn' : i < 0x10000 + 64 * c'.nreg := by rw [hc]; exact hn
    have hr : s.winRead a c' i = some (c'.vget ((i - 0x10000) / 64) (i % 64)).toNat := by
      unfold State.winRead
      dsimp only
      rw [if_neg (by simp [hs]), if_neg (by omega), if_neg (by omega), if_neg (by simp; omega), if_neg (by simp; omega), if_neg (by omega),
        if_neg (by omega), if_neg (by simp; omega), if_neg (by omega), if_neg (by omega), if_neg (by omega), if_neg (by omega),
        if_neg (by simp; omega), if_neg (by simp; omega), if_pos (by simp; omega)]
    rw [hr, hc, Ctx.vget_vset _ _ _ _ _ _ (Nat.mod_lt _ (by omega)) (Nat.mod_lt _ (by omega)), if_pos ⟨rfl, rfl⟩]
    simp
  · unfold Ctx.winWrite at h
    rw [if_neg (by simp [hs]), if_neg (by omega), if_neg (by omega), if_neg (by simp; omega), if_neg (by simp; omega), if_neg (by simp; omega),
      if_neg (by omega), if_neg (by simp; omega), if_neg (by omega), if_neg (by omega), if_neg (by simp; omega), if_neg (by simp; omega),
      if_neg (by simp; omega)] at h
    cases h

end

/-! ## The agent that the window names -/

theorem State.ready_hearth {s : State} {pm : Perm} {h : Hdr} {len : Nat} {u : Uses} {is : Iss} (hr : s.ready pm h len u = some is)
    (hpm : pm.hearthOnly = true) : isHearth is.a = true := by
  obtain ⟨-, hcheck, hp⟩ := State.ready_view hr
  have hp' : (is.p ≠ 0 || pm.onEmpty) = true := by
    rcases hp with h | h
    · exact Bool.or_eq_true_iff.mpr (.inl (decide_eq_true h))
    · exact Bool.or_eq_true_iff.mpr (.inr h)
  by_contra hst
  have hreq : (!pm.hearthOnly || isHearth is.a) = false := by simp [hpm, Bool.eq_false_of_not_eq_true hst]
  unfold Iss.check at hcheck
  simp only [require_bind, hp', hreq, if_true, Bool.false_eq_true, if_false] at hcheck
  repeat' split at hcheck
  all_goals exact absurd hcheck nofun

theorem State.target_ctx {s : State} {a g : Agent} {c : Ctx} (h : s.target a = some (g, c)) : s.ctx? g = some c := by
  unfold State.target at h
  dsimp only at h
  split at h
  · cases h
  · obtain ⟨c', hc, hg⟩ := Option.map_eq_some_iff.mp h
    cases hg
    exact (Option.filter_eq_some_iff.mp hc).1

/-- The window of a hearth names a wave or a stoker of its die, never the hearth. -/
theorem State.target_ne {s : State} {a g : Agent} {c : Ctx} (h : s.target a = some (g, c)) (hh : isHearth a = true) (hd : dieOf a < 24) :
    ctxKey a ≠ ctxKey g := by
  unfold State.target at h
  dsimp only at h
  split at h
  · cases h
  · rename_i hw
    obtain ⟨c', -, hg⟩ := Option.map_eq_some_iff.mp h
    cases hg
    cases a with
    | slot => cases hh
    | hearth d =>
      have h4 : bits (s.die (dieOf (.hearth d))).window.toNat 7 4 < 16 := Nat.mod_lt _ (by decide)
      have h2 : bits (s.die (dieOf (.hearth d))).window.toNat 5 2 < 4 := Nat.mod_lt _ (by decide)
      have hn : bits (s.die (dieOf (.hearth d))).window.toNat 0 5 < 24 := by
        simp only [ne_eq, decide_not, Bool.or_eq_true, Bool.not_eq_true', decide_eq_false_iff_not, decide_eq_true_eq, not_or] at hw
        omega
      show 36864 + d ≠ 24 * (_ + _ + _) + _
      omega

section
variable {s : State} {is : Iss} {h : Hdr} {d b : RegNo} {imm : BitVec 32} {g : Agent} {c c' : Ctx}

theorem Iss.stopped_ok (ht : s.target is.a = some (g, c)) (hs : c.settled = true) : is.stopped s = .ok (g, c) := by
  unfold Iss.stopped
  rw [ht]
  exact if_pos hs

theorem Iss.stopped_runs (ht : s.target is.a = some (g, c)) (hs : c.settled = false) : is.stopped s = .error (is.fault Code.handle 0 is.p) := by
  unfold Iss.stopped
  rw [ht]
  exact if_neg (by rw [hs]; exact Bool.false_ne_true)

theorem exec_yWinRead (h : Hdr) (d : RegNo) (imm : BitVec 32) (s : State) : exec (.yWinRead h d imm) s =
    issue .hearthOnly' h 12 { rd := [], wr := [.s d] } s (fun is s => is.stopped s >>= fun x =>
      match s.winRead x.1 x.2 imm.toNat with
      | none => .error (is.fault Code.handle 0 is.p)
      | some v => s.pendS is .ec d (BitVec.ofNat 64 v)) := rfl
theorem exec_yWinWrite (h : Hdr) (b : RegNo) (imm : BitVec 32) (s : State) : exec (.yWinWrite h b imm) s =
    issue .hearthOnly' h 12 { rd := [.s b], wr := [] } s (fun is s => is.stopped s >>= fun x =>
      match x.2.winWrite x.1 imm.toNat (is.s b) with
      | none => .error (is.fault Code.handle 0 is.p)
      | some c' => pure (if imm.toNat < 0x40 then (s.setCtx x.1 c').clearTag x.1 imm.toNat else s.setCtx x.1 c')) := rfl
theorem exec_yWinStop (h : Hdr) (s : State) : exec (.yWinStop h) s =
    issue .hearthOnly' h 12 { rd := [], wr := [] } s (fun is s =>
      match s.target is.a with
      | none => .error (is.fault Code.handle 0 is.p)
      | some (t, c) => pure (if c.stop.isSome then s else s.breakStop t c 0x120 false)) := rfl

theorem yWinRead_runs (hr : s.ready .hearthOnly' h 12 { rd := [], wr := [.s d] } = some is) (ht : s.target is.a = some (g, c))
    (hs : c.settled = false) : exec (.yWinRead h d imm) s = .next (s.except is (is.fault Code.handle 0 is.p)) :=
  (exec_yWinRead h d imm s).trans (issue_error hr (by rw [Iss.stopped_runs ht hs]; rfl))

theorem yWinRead_outside (hr : s.ready .hearthOnly' h 12 { rd := [], wr := [.s d] } = some is) (ht : s.target is.a = some (g, c))
    (hs : c.settled = true) (hn : s.winRead g c imm.toNat = none) :
    exec (.yWinRead h d imm) s = .next (s.except is (is.fault Code.handle 0 is.p)) :=
  (exec_yWinRead h d imm s).trans (issue_error hr (by
    rw [Iss.stopped_ok ht hs]
    show (match s.winRead g c imm.toNat with | none => _ | some v => _) = _
    rw [hn]))

theorem yWinRead_answers (hr : s.ready .hearthOnly' h 12 { rd := [], wr := [.s d] } = some is) (ht : s.target is.a = some (g, c))
    (hec : is.c.ec < 63) (hs : c.settled = true) {v : Nat} (hv : s.winRead g c imm.toNat = some v) :
    exec (.yWinRead h d imm) s = .next (s.answers is d v) :=
  (exec_yWinRead h d imm s).trans (issue_ready hr (by
    rw [Iss.stopped_ok ht hs]
    show (match s.winRead g c imm.toNat with | none => _ | some v => _) = _
    rw [hv]
    exact State.pendS_ok d _ hec))

/-- Deleting the tag of a register leaves a table without one as it is. -/
theorem AMap.del_of_find_none {β : Type} {m : AMap β} {k : Nat} (h : m.find k = none) : m.del k = m := by
  induction m with
  | nil => rfl
  | cons e m ih =>
    obtain ⟨i, v⟩ := e
    simp only [AMap.find] at h
    split at h
    · cases h
    · rename_i hk
      simp only [AMap.del]
      rw [if_neg hk, ih h]

/-- The tag of a register, cleared, is off the agent's table. -/
theorem State.clearTag_tags {n : Nat} (hc : s.ctx? g = some c) : (s.clearTag g n).ctx? g = some { c with tags := c.tags.del n } := by
  unfold State.clearTag
  simp only [hc]
  cases ht : c.tags.find n with
  | none => rw [AMap.del_of_find_none ht]; exact hc
  | some t => dsimp only; rw [State.ctx?_congr (State.dropSite_ctxs _ _ _ _)]; exact State.ctx?_setCtx_same _ _ _

theorem yWinWrite_writes (hr : s.ready .hearthOnly' h 12 { rd := [.s b], wr := [] } = some is) (hd : dieOf is.a < 24)
    (ht : s.target is.a = some (g, c)) (hs : c.settled = true) (hw : c.winWrite g imm.toNat (is.s b) = some c') :
    ∃ t w, exec (.yWinWrite h b imm) s = .next t ∧ t.ctx? is.a = some w ∧ w.rec? is.fid = some { is.fr with pc := is.next } ∧
      SameS is.c w [] ∧ t.ctx? g = some { c' with tags := if imm.toNat < 0x40 then c'.tags.del imm.toNat else c'.tags } ∧
      (∀ x, ctxKey x ≠ ctxKey is.a → ctxKey x ≠ ctxKey g → t.ctx? x = s.ctx? x) ∧ t.mem = s.mem ∧ t.teams = s.teams := by
  have hne := State.target_ne ht (State.ready_hearth hr rfl) hd
  let u := if imm.toNat < 0x40 then (s.setCtx g c').clearTag g imm.toNat else s.setCtx g c'
  have hug : u.ctx? g = some { c' with tags := if imm.toNat < 0x40 then c'.tags.del imm.toNat else c'.tags } := by
    by_cases hi : imm.toNat < 0x40
    · simp only [u, if_pos hi]
      exact State.clearTag_tags (State.ctx?_setCtx_same _ _ _)
    · simp only [u, if_neg hi]
      exact State.ctx?_setCtx_same _ _ _
  have hux (x : Agent) (hx : ctxKey x ≠ ctxKey g) : u.ctx? x = s.ctx? x := by
    by_cases hi : imm.toNat < 0x40
    · simp only [u, if_pos hi]
      exact ((State.clearTag_spec imm.toNat (State.ctx?_setCtx_same s g c')).2.2.1 x hx).trans (State.ctx?_setCtx_ne _ _ _ _ hx)
    · simp only [u, if_neg hi]
      exact State.ctx?_setCtx_ne _ _ _ _ hx
  have hur : u.rest = s.rest := by
    by_cases hi : imm.toNat < 0x40
    · simp only [u, if_pos hi]
      exact (State.clearTag_spec imm.toNat (State.ctx?_setCtx_same s g c')).2.1
    · simp only [u, if_neg hi]
      rfl
  have hua := (hux is.a hne).trans (State.ready_ctx hr)
  obtain ⟨-, -, -, hrec, -⟩ := State.iss?_view (State.ready_view hr).1
  refine ⟨u.retire is, is.c.moved is, (exec_yWinWrite h b imm s).trans (issue_ready hr ?_), State.ctx?_retire hua, Ctx.moved_rec rfl hrec,
    Ctx.sameS_moved is rfl, (State.ctx?_retire_ne _ _ _ (Ne.symm hne)).trans hug, fun x hx hxg => (State.ctx?_retire_ne _ _ _ hx).trans (hux x hxg), ?_, ?_⟩
  · rw [Iss.stopped_ok ht hs]
    show (match c.winWrite g imm.toNat (is.s b) with | none => _ | some c' => _) = _
    rw [hw]
    rfl
  · rw [State.retire_mem]
    exact (congrArg State.mem hur :)
  · rw [State.retire_teams]
    exact (congrArg State.teams hur :)

theorem yWinStop_stopped (hr : s.ready .hearthOnly' h 12 { rd := [], wr := [] } = some is) (ht : s.target is.a = some (g, c))
    (hst : c.stop.isSome = true) : exec (.yWinStop h) s = .next (s.retire is) :=
  (exec_yWinStop h s).trans (issue_ready hr (by rw [ht]; dsimp only; rw [hst]; rfl))

/-- The stop that y.win.sub=stop gives. -/
def Ctx.windowStop (c : Ctx) : Stop :=
  let fr := ((c.rec? c.frag).filter SplitRec.isFrag).getD (((c.split.find? (fun e => e.2.isFrag)).map (·.2)).getD SplitRec.free)
  { code := Code.brk, prec := false, addr := 0x120, mask := fr.mask, pc := fr.pc, meld := fr.meld, posted := false, silent := false }

theorem yWinStop_stops (hr : s.ready .hearthOnly' h 12 { rd := [], wr := [] } = some is) (hd : dieOf is.a < 24)
    (ht : s.target is.a = some (g, c)) (hst : c.stop = none) :
    ∃ t k st, exec (.yWinStop h) s = .next t ∧ t.ctx? g = some k ∧ k.stop = some st ∧ st.code = Code.brk ∧
      st.addr = 0x120 ∧ st.prec = false ∧ k.split = c.split ∧ SameS c k [] ∧ SameK c k [] ∧ SameV c k ∧ t.mem = s.mem := by
  have hne := State.target_ne ht (State.ready_hearth hr rfl) hd
  have hc := State.target_ctx ht
  refine ⟨(s.stopWave g c.windowStop).retire is, c.stopped (s.onStatus c) c.windowStop, c.windowStop,
    (exec_yWinStop h s).trans (issue_ready hr (by rw [ht]; dsimp only; rw [hst]; rfl)),
    (State.ctx?_retire_ne _ _ _ (Ne.symm hne)).trans (State.ctx?_stopWave _ hc), rfl, rfl, rfl, rfl, Ctx.stopped_split _ _ _,
    fun n _ => Ctx.sget_congr (Ctx.stopped_s _ _ _) n, fun n _ => ?_, fun n l => ?_, ?_⟩
  · unfold Ctx.kget
    rw [show (c.stopped (s.onStatus c) c.windowStop).k = c.k from Ctx.giveUp_k _ _]
  · unfold Ctx.vget
    rw [show (c.stopped (s.onStatus c) c.windowStop).v = c.v from Ctx.giveUp_v _ _]
  · rw [State.retire_mem]
    exact State.outer_mem (State.stopWave_outer s g _)

end

/-- Settles O45: what the window writes it reads, and each y.win acts on the agent that pr.WINDOW names, which is never the hearth. -/
theorem hearthWindow : Obligations.HearthWindow := by
  refine ⟨fun s a c c' i v hw hi => ?_, fun s a c c' i v hw hi => winRead_vector hw hi,
    fun s is h d imm g c hr ht hec => ⟨fun hs => yWinRead_runs hr ht hs, fun hs hn => yWinRead_outside hr ht hs hn,
      fun v hs hv => yWinRead_answers hr ht hec hs hv⟩,
    fun s is h b imm g c c' hr hd ht hs hw => yWinWrite_writes hr hd ht hs hw,
    fun s is h g c hr hd ht => ⟨fun hst => yWinStop_stopped hr ht hst, fun hst => yWinStop_stops hr hd ht hst⟩⟩
  rcases hi with hi | hi | hi | hi | hi
  · exact winRead_scalar hw hi
  · exact winRead_mask hw hi
  · exact winRead_paths hw (.inl hi)
  · exact winRead_paths hw (.inr hi)
  · exact winRead_rename hw hi

end Sys2Proof.Machine

/-! SUPPORT. The hearth's returns, kills and waits (R341, R402, R405, R415). -/

namespace Sys2Proof.Machine

/-! ## An agent that goes on -/

theorem Ctx.mergeWait_run (c : Ctx) (t : Tag) : (c.mergeWait t).stop = c.stop ∧ (c.mergeWait t).single = c.single := by
  have hfold (l : List Nat) (c : Ctx) : (l.foldl (fun c i => c.raiseFlags i t.flags) c).stop = c.stop ∧
      (l.foldl (fun c i => c.raiseFlags i t.flags) c).single = c.single := by
    induction l generalizing c with
    | nil => exact ⟨rfl, rfl⟩
    | cons i l ih => exact ih _
  exact hfold _ c

theorem Ctx.siteWrite_run (c : Ctx) (r : Nat) (h : W64) : (c.siteWrite r h).stop = c.stop ∧ (c.siteWrite r h).single = c.single := by
  have hset : (c.sset r h).stop = c.stop ∧ (c.sset r h).single = c.single := by
    unfold Ctx.sset
    split <;> exact ⟨rfl, rfl⟩
  unfold Ctx.siteWrite
  split
  · exact ⟨rfl, rfl⟩
  · split
    · exact ⟨rfl, rfl⟩
    · dsimp only
      split
      · exact ⟨(Ctx.mergeWait_run _ _).1.trans hset.1, (Ctx.mergeWait_run _ _).2.trans hset.2⟩
      · exact hset

/-- Held handles that are written change neither the stop nor the single step. -/
theorem Ctx.writeHeld_run (c : Ctx) : c.writeHeld.stop = c.stop ∧ c.writeHeld.single = c.single := by
  have hfold (l : List (Nat × W64)) (c : Ctx) : (l.foldl (fun c e => c.siteWrite e.1 e.2) c).stop = c.stop ∧
      (l.foldl (fun c e => c.siteWrite e.1 e.2) c).single = c.single := by
    induction l generalizing c with
    | nil => exact ⟨rfl, rfl⟩
    | cons e l ih => exact ⟨(ih _).1.trans (Ctx.siteWrite_run c e.1 e.2).1, (ih _).2.trans (Ctx.siteWrite_run c e.1 e.2).2⟩
  exact hfold c.held _

/-- Records that are put back change the agent's table and its marks alone. -/
theorem State.putRecs_ctx {s : State} {a : Agent} {c : Ctx} (m : AMap SplitRec) (h : s.ctx? a = some c) :
    (∃ r k w, (s.putRecs a m).ctx? a = some { c with split := r, skipBkpt := k, waits := w }) ∧
      ∀ b, ctxKey b ≠ ctxKey a → (s.putRecs a m).ctx? b = s.ctx? b := by
  unfold State.putRecs
  simp only [h]
  split
  · exact ⟨⟨_, _, _, State.ctx?_setCtx_same _ _ _⟩, fun b hb => State.ctx?_setCtx_ne _ _ _ _ hb⟩
  · exact ⟨⟨_, _, _, (State.ctx?_mapTeam _ _ _ _).trans (State.ctx?_setCtx_same _ _ _)⟩,
      fun b hb => (State.ctx?_mapTeam _ _ _ _).trans (State.ctx?_setCtx_ne _ _ _ _ hb)⟩

theorem State.keepRecord_undied (s : State) (a : Agent) : (s.keepRecord a).undied = s.undied := by
  unfold State.keepRecord
  split
  · rfl
  · split
    · rfl
    · split
      · rfl
      · unfold State.noteRecord
        exact (State.flushEpisodes_spec _ _).2.2

theorem State.keepRecord_ctx (s : State) (a b : Agent) : (s.keepRecord a).ctx? b = s.ctx? b :=
  State.ctx?_congr (congrArg State.ctxs (s.keepRecord_undied a) :) b

/-! ## y.eret -/

section
variable {s : State} {is : Iss} {h : Hdr} {g : Agent} {c : Ctx}

/-- The return by its kind. -/
def eretOf (step : Bool) (h : Hdr) : Instr := if step then .yEretStep h else .yEretResume h

theorem exec_eret (step : Bool) (h : Hdr) (s : State) : exec (eretOf step h) s =
    issue .hearthOnly' h 8 { rd := [], wr := [] } s (fun is s => is.stopped s >>= fun x => pure (s.resume x.1 x.2 step)) := by
  cases step <;> rfl

theorem exec_yEretKillThreads (h : Hdr) (b : RegNo) (s : State) : exec (.yEretKillThreads h b) s =
    issue .hearthOnly' h 8 { rd := [.s b], wr := [] } s (fun is s => is.stopped s >>= fun x =>
      pure (if isStoker x.1 then s.haltStoker x.1 else s.killThreads x.1 x.2 (is.s b) x.2.lastCode)) := rfl

/-- What a kill of a team leaves. -/
def State.killTeam (s : State) (g : Agent) (c : Ctx) : State :=
  let s1 := (if isStoker g then s.haltStoker g else s).mapTeam c.team (fun x => { x with dead := some c.lastCode })
  (s1.waveCtxs c.team).foldl (fun s e => s.killThreads (agentOfKey e.1) e.2 (BitVec.allOnes 64) c.lastCode) s1

theorem exec_yEretKillTeam (h : Hdr) (s : State) : exec (.yEretKillTeam h) s =
    issue .hearthOnly' h 8 { rd := [], wr := [] } s (fun is s => is.stopped s >>= fun x => pure (s.killTeam x.1 x.2)) := rfl

/-- The agent with its held handles written, and without its stop. -/
def Ctx.resumed (c : Ctx) (step : Bool) : Ctx := Ctx.writeHeld { c with stop := none, single := step }
/-- The READY fragments of a table. -/
def readyFrags (m : AMap SplitRec) : List Nat := (m.filter (fun e => e.1 < 8 && e.2.st == .ready)).map (·.1)

section
variable {step : Bool} (hr : s.ready .hearthOnly' h 8 { rd := [], wr := [] } = some is) (ht : s.target is.a = some (g, c))
include hr ht

theorem eret_runs (hs : c.settled = false) : exec (eretOf step h) s = .next (s.except is (is.fault Code.handle 0 is.p)) :=
  (exec_eret step h s).trans (issue_error hr (by rw [Iss.stopped_runs ht hs]; rfl))

theorem eret_resumes (hs : c.settled = true) : exec (eretOf step h) s = .next ((s.resume g c step).retire is) :=
  (exec_eret step h s).trans (issue_ready hr (by rw [Iss.stopped_ok ht hs]; rfl))

theorem yEretKillTeam_kills (hs : c.settled = true) : exec (.yEretKillTeam h) s = .next ((s.killTeam g c).retire is) :=
  (exec_yEretKillTeam h s).trans (issue_ready hr (by rw [Iss.stopped_ok ht hs]; rfl))

end

theorem yEretKillThreads_kills {b : RegNo} (hr : s.ready .hearthOnly' h 8 { rd := [.s b], wr := [] } = some is) (ht : s.target is.a = some (g, c))
    (hs : c.settled = true) : exec (.yEretKillThreads h b) s =
      .next (State.retire (if isStoker g then s.haltStoker g else s.killThreads g c (is.s b) c.lastCode) is) :=
  (exec_yEretKillThreads h b s).trans (issue_ready hr (by rw [Iss.stopped_ok ht hs]; rfl))

/-- The agent as a resume leaves it, with the address of the HANDLE of broken records and the fragments that first issue free of breakpoints. -/
def State.resumeOf (s : State) (g : Agent) (c' : Ctx) (j : AMap SplitRec × Option Nat) : State :=
  let frags := if j.2.isNone then readyFrags j.1 else readyFrags c'.split
  let s := (s.keepRecord g).setCtx g { c' with broken := j.2.isSome, skipBkpt := frags }
  let s := if j.2.isNone then s.putRecs g j.1 else s
  if j.2.isNone || !frags.isEmpty then s else s.stopWave g (brokenStop SplitRec.free (j.2.getD 0))

theorem State.resume_eq (s : State) (g : Agent) (c : Ctx) (step : Bool) :
    s.resume g c step = if !s.bound g c then s else s.resumeOf g (c.resumed step) (s.joined (c.resumed step)) := rfl

/-- An agent that no return starts again stays as it is. -/
theorem State.resume_ended {step : Bool} (hb : s.bound g c = false) : s.resume g c step = s := by
  rw [State.resume_eq, hb]
  rfl

variable {step : Bool}

/-- The resume of records that keep R333: the joins that an edit has left are resolved. -/
theorem State.resume_joined (hb : s.bound g c = true) (hj : (s.joined (c.resumed step)).2 = none) :
    s.resume g c step = ((s.keepRecord g).setCtx g { c.resumed step with
      broken := false, skipBkpt := readyFrags (s.joined (c.resumed step)).1 }).putRecs g (s.joined (c.resumed step)).1 := by
  rw [State.resume_eq, hb, show s.joined (c.resumed step) = ((s.joined (c.resumed step)).1, none) from Prod.ext rfl hj]
  rfl

/-- The resume of broken records marks them. -/
theorem State.resume_broken {x : Nat} (hb : s.bound g c = true) (hj : (s.joined (c.resumed step)).2 = some x) :
    s.resume g c step =
      if (readyFrags (c.resumed step).split).isEmpty then
        ((s.keepRecord g).setCtx g { c.resumed step with broken := true, skipBkpt := readyFrags (c.resumed step).split }).stopWave g
          (brokenStop SplitRec.free x)
      else (s.keepRecord g).setCtx g { c.resumed step with broken := true, skipBkpt := readyFrags (c.resumed step).split } := by
  rw [State.resume_eq, hb, show s.joined (c.resumed step) = ((s.joined (c.resumed step)).1, some x) from Prod.ext rfl hj]
  show (if (false || !(readyFrags (c.resumed step).split).isEmpty) = true then _ else _) = _
  cases (readyFrags (c.resumed step).split).isEmpty <;> rfl

variable (hr : s.ready .hearthOnly' h 8 { rd := [], wr := [] } = some is) (hd : dieOf is.a < 24) (ht : s.target is.a = some (g, c))
include hr hd ht

theorem eret_joins (hs : c.settled = true) (hb : s.bound g c = true) (hj : (s.joined (c.resumed step)).2 = none) :
    ∃ t w k, exec (eretOf step h) s = .next t ∧
      t = State.retire (((s.keepRecord g).setCtx g { c.resumed step with
        broken := false, skipBkpt := readyFrags (s.joined (c.resumed step)).1 }).putRecs g (s.joined (c.resumed step)).1) is ∧
      t.ctx? g = some k ∧ k.stop = none ∧ k.single = step ∧ k.broken = false ∧ t.ctx? is.a = some w ∧
      w.rec? is.fid = some { is.fr with pc := is.next } ∧ SameS is.c w [] ∧ t.mem = s.mem := by
  have hne := State.target_ne ht (State.ready_hearth hr rfl) hd
  obtain ⟨-, -, -, hrec, -⟩ := State.iss?_view (State.ready_view hr).1
  have hset : ((s.keepRecord g).setCtx g { c.resumed step with
    broken := false, skipBkpt := readyFrags (s.joined (c.resumed step)).1 }).ctx? g = _ := State.ctx?_setCtx_same _ _ _
  obtain ⟨⟨r, k, w, hg⟩, hother⟩ := State.putRecs_ctx (s.joined (c.resumed step)).1 hset
  obtain ⟨-, -, -, -, -, -, -, hmem⟩ := State.putRecs_spec (s.joined (c.resumed step)).1 hset
  have ha := ((hother is.a hne).trans (State.ctx?_setCtx_ne _ _ _ _ hne)).trans ((s.keepRecord_ctx g is.a).trans (State.ready_ctx hr))
  have hx := eret_resumes (step := step) hr ht hs
  rw [State.resume_joined hb hj] at hx
  have hrun := Ctx.writeHeld_run { c with stop := none, single := step }
  refine ⟨_, _, _, hx, rfl, (State.ctx?_retire_ne _ _ _ (Ne.symm hne)).trans hg, hrun.1, hrun.2, rfl, State.ctx?_retire ha, Ctx.moved_rec rfl hrec,
    Ctx.sameS_moved is rfl, ?_⟩
  rw [State.retire_mem, hmem]
  exact (congrArg State.mem (s.keepRecord_undied g) :)

theorem eret_marks (hs : c.settled = true) (hb : s.bound g c = true) {x : Nat} (hj : (s.joined (c.resumed step)).2 = some x)
    (hf : readyFrags (c.resumed step).split ≠ []) :
    ∃ t, exec (eretOf step h) s = .next t ∧
      t.ctx? g = some { c.resumed step with broken := true, skipBkpt := readyFrags (c.resumed step).split } ∧ t.mem = s.mem ∧ t.teams = s.teams := by
  have hne := State.target_ne ht (State.ready_hearth hr rfl) hd
  have hx := eret_resumes (step := step) hr ht hs
  rw [State.resume_broken hb hj, if_neg (fun he => hf (List.isEmpty_iff.mp he))] at hx
  refine ⟨_, hx, (State.ctx?_retire_ne _ _ _ (Ne.symm hne)).trans (State.ctx?_setCtx_same _ _ _), ?_, ?_⟩
  · rw [State.retire_mem]
    exact (congrArg State.mem (s.keepRecord_undied g) :)
  · rw [State.retire_teams]
    exact (congrArg State.teams (s.keepRecord_undied g) :)

theorem eret_stops (hs : c.settled = true) (hb : s.bound g c = true) {x : Nat} (hj : (s.joined (c.resumed step)).2 = some x)
    (hf : readyFrags (c.resumed step).split = []) :
    ∃ t k st, exec (eretOf step h) s = .next t ∧ t.ctx? g = some k ∧ k.stop = some st ∧ st.code = Code.handle ∧ st.addr = x ∧
      k.split = (c.resumed step).split := by
  have hne := State.target_ne ht (State.ready_hearth hr rfl) hd
  have hx := eret_resumes (step := step) hr ht hs
  rw [State.resume_broken hb hj, if_pos (List.isEmpty_iff.mpr hf)] at hx
  exact ⟨_, _, _, hx, (State.ctx?_retire_ne _ _ _ (Ne.symm hne)).trans (State.ctx?_stopWave _ (State.ctx?_setCtx_same _ _ _)), rfl, rfl, rfl,
    Ctx.stopped_split _ _ _⟩

end

/-! ## y.idle -/

section
variable {s : State}

theorem exec_yIdle (h : Hdr) (d b : RegNo) (s : State) : exec (.yIdle h d b) s =
    issueRaw .hearthOnly' h 8 { rd := [.s b], wr := [.s d] } s (fun is s => is.room .ec >>= fun _ =>
      pure (s.parkAgent is (.idle (s.clk (dieOf is.a)) ((is.s b).toNat % 2 ^ 32) d.toNat))) := rfl

theorem yIdle_parks {is : Iss} {h : Hdr} {d b : RegNo} (hr : s.ready .hearthOnly' h 8 { rd := [.s b], wr := [.s d] } = some is)
    (hec : is.c.ec < 63) :
    ∃ t c, exec (.yIdle h d b) s = .next t ∧ t.ctx? is.a = some c ∧
      c.park = .idle (s.clk (dieOf is.a)) ((is.s b).toNat % 2 ^ 32) d.toNat ∧ c.rec? is.fid = some is.fr ∧ SameS is.c c [] ∧ t.rest = s.rest := by
  obtain ⟨-, -, -, hrec, -⟩ := State.iss?_view (State.ready_view hr).1
  refine ⟨_, _, (exec_yIdle h d b s).trans (issueRaw_ready hr (by rw [Iss.room_bind (c := .ec) hec]; rfl)),
    State.ctx?_afterIssue (State.ctx?_parkAgent _ (State.ready_ctx hr)), Ctx.issued_park _ _, (Ctx.issued_rec _ _ _).trans hrec,
    Ctx.sameS_issued is rfl, (State.afterIssue_rest _ _).trans (State.parkAgent_rest _ _ _)⟩

/-- The context of a hearth that goes on from y.idle with a reason. -/
def Ctx.woken (c : Ctx) (d r : Nat) : Ctx :=
  let c := c.sset d (BitVec.ofNat 64 r)
  let pc := ((c.rec? c.frag).map (·.pc)).getD 0
  Ctx.stepDone { c.setPc c.frag (pc + 8) with park := .none } c.frag

theorem Ctx.woken_s (c : Ctx) (d r : Nat) : (c.woken d r).s = (c.sset d (BitVec.ofNat 64 r)).s := by
  unfold Ctx.woken
  dsimp only
  rw [Ctx.stepDone_s]
  exact Ctx.setPc_s _ _ _

/-- The time limit is bit 2 of the reasons. -/
theorem idleReasons_limit {die start limit : Nat} (hl : limit ≠ 0) (ht : start + limit ≤ s.clk die) :
    (BitVec.ofNat 64 (s.idleReasons die start limit)).getLsbD 2 = true ∧ s.idleReasons die start limit ≠ 0 := by
  have hb : (limit ≠ 0 && decide (start + limit ≤ (s.die die).clk)) = true := by
    rw [decide_eq_true hl, decide_eq_true (show start + limit ≤ (s.die die).clk from ht), Bool.and_self]
  unfold State.idleReasons
  dsimp only
  rw [hb]
  cases decide ((s.die die).prod ≠ (s.die die).fqcons.toNat) <;> cases (s.die die).mboxRing <;> decide

theorem idleTimeLimit_wakes {die start limit d : Nat} {c : Ctx} (hc : s.ctx? (.hearth die) = some c) (hp : c.park = .idle start limit d)
    (hst : c.stop = none) (htag : c.tags.find d = none) (hdie : die < 24) (hl : limit ≠ 0) (ht : start + limit ≤ s.clk die) (hd : d < 63) :
    ∃ t k, exec (.idleTimeLimit die) s = .next t ∧ t.ctx? (.hearth die) = some k ∧ k.park = .none ∧
      (k.sget d).getLsbD 2 = true ∧ SameS c k [d] ∧ (t.die die).mboxRing = false ∧ t.mem = s.mem := by
  have hdieOf : dieOf (.hearth die) = die := by
    show (if 1536 + die < 1536 then _ else (1536 + die - 1536) % 64) = die
    rw [if_neg (by omega)]
    omega
  obtain ⟨hbit, hne⟩ := idleReasons_limit (s := s) hl ht
  let u := s.mapDie die (fun x => { x with mboxRing := false })
  have hu : u.ctx? (.hearth die) = some c := hc
  have hclear : u.clearTag (.hearth die) d = u := (State.clearTag_spec d hu).2.2.2 htag
  let t := u.mapCtx (.hearth die) (·.woken d (s.idleReasons die start limit))
  have hwake : s.idleWake (.hearth die) = some t := by
    unfold State.idleWake
    rw [hc]
    dsimp only
    rw [hp]
    dsimp only
    rw [hdieOf, hst, if_neg (by simpa using hne)]
    show some ((u.clearTag (.hearth die) d).mapCtx (.hearth die) _) = _
    rw [hclear]
    rfl
  refine ⟨t, c.woken d (s.idleReasons die start limit), event_eq ?_, State.ctx?_mapCtx_some _ hu, Ctx.stepDone_park _ _, ?_, fun n hn => ?_, ?_, ?_⟩
  · unfold evIdleTimeLimit
    dsimp only
    rw [hc, Option.map_some, hp]
    dsimp only
    rw [decide_eq_true hl, decide_eq_true ht]
    exact hwake
  · rw [Ctx.sget_congr (Ctx.woken_s _ _ _), Ctx.sget_sset, if_pos ⟨rfl, by omega⟩]
    exact hbit
  · rw [Ctx.sget_congr (Ctx.woken_s _ _ _), Ctx.sget_sset, if_neg (fun h => hn (by simp [h.1]))]
  · have hdies : t.die die = u.die die := (congrArg (fun s : State => s.die die) (State.mapCtx_rest u _ _) :)
    rw [hdies, State.die_mapDie, if_pos rfl]
  · exact (congrArg State.mem (State.mapCtx_rest u _ _) :)

end

/-- Settles O46: each return, kill and wait of a hearth by what its window names, and the end of a wait at its time limit. -/
theorem hearthReturns : Obligations.HearthReturns := by
  refine ⟨fun step s is h g c hr hd ht => ⟨fun hs => eret_runs (step := step) hr ht hs, fun hs hb => ?_, fun hs hb hj => eret_joins hr hd ht hs hb hj,
      fun x hs hb hj hf => eret_marks hr hd ht hs hb hj hf, fun x hs hb hj hf => eret_stops hr hd ht hs hb hj hf⟩,
    fun s is h b g c hr ht hs => yEretKillThreads_kills hr ht hs, fun s is h g c hr ht hs => yEretKillTeam_kills hr ht hs,
    fun s is h d b hr hec => yIdle_parks hr hec,
    fun s die start limit d c hc hp hst htag hdie hl ht hd => idleTimeLimit_wakes hc hp hst htag hdie hl ht hd⟩
  have hx := eret_resumes (step := step) hr ht hs
  rw [State.resume_ended hb] at hx
  exact hx

end Sys2Proof.Machine

/-! SUPPORT. Saving a team and putting it back (R378, R403, R404). -/

namespace Sys2Proof.Machine

/-! ## A core whose stores go home -/

theorem State.sendCopy_cores (s : State) (l : LlcLine) : (s.sendCopy l).cores = s.cores := by
  unfold State.sendCopy
  split <;> rfl

/-- A copy of a line that its die is not the home of leaves its slice without a write to memory. -/
theorem State.llcEvict_copy {s : State} {l : LlcLine} (hl : l.home = false) : (s.llcEvict l).cores = s.cores ∧ (s.llcEvict l).mem = s.mem := by
  unfold State.llcEvict
  split
  · exact ⟨rfl, rfl⟩
  · rw [if_neg (by rw [hl]; exact Bool.false_ne_true)]
    exact ⟨State.sendCopy_cores _ l, State.outer_mem (State.sendCopy_outer _ l)⟩

theorem llcEvict_copies (ls : List LlcLine) (hls : ∀ l ∈ ls, l.home = false) (s : State) :
    (ls.foldl (fun s l => s.llcEvict l) s).cores = s.cores ∧ (ls.foldl (fun s l => s.llcEvict l) s).mem = s.mem := by
  induction ls generalizing s with
  | nil => exact ⟨rfl, rfl⟩
  | cons l ls ih =>
    obtain ⟨hc, hm⟩ := ih (fun x hx => hls x (List.mem_cons_of_mem _ hx)) (s.llcEvict l)
    obtain ⟨hc', hm'⟩ := State.llcEvict_copy (s := s) (hls l List.mem_cons_self)
    exact ⟨hc.trans hc', hm.trans hm'⟩

/-- A core holds nothing that is not home. -/
def Core.flushed (c : Core) : Prop := c.wc = [] ∧ ∀ x ∈ c.l1, x.dirty = 0

theorem State.publishLines_core_ne (s : State) (core k : Nat) (p : Nat → Bool) (h : k ≠ core) : (s.publishLines core p).core k = s.core k := by
  unfold State.publishLines
  dsimp only
  rw [State.core_congr (State.noFill_cores _ core _), State.core_mapCore, if_neg h,
    State.core_congr (foldl_cores _ (fun s l => State.writeBack_cores s core l []) _ s)]
theorem State.drainWc_core (s : State) (core k : Nat) (p : Nat → Bool) :
    (s.drainWc core p).core k = if k = core then { s.core core with wc := (s.core core).wc.filter (fun b => !p b.line) } else s.core k := by
  unfold State.drainWc
  dsimp only
  rw [State.core_mapCore, State.core_congr (foldl_cores _ ?_ _ s), State.core_congr (foldl_cores _ ?_ _ s)]
  all_goals exact fun _ _ => rfl

/-- The flush of a core leaves it flushed, and every other core and memory as they were. -/
theorem State.flushCore_spec (s : State) (core : Nat) :
    ((s.flushCore core).1.core core).flushed ∧ (∀ k, k ≠ core → (s.flushCore core).1.core k = s.core k) ∧ (s.flushCore core).1.mem = s.mem := by
  let u := (s.publishLines core (fun _ => true)).drainWc core (fun _ => true)
  have hhome (l : LlcLine) (hl : l ∈ u.llc.filter (fun l => l.die = dieOfCore core && !l.home && l.dirty ≠ 0)) : l.home = false := by
    have hl2 := (List.mem_filter.mp hl).2
    simp only [Bool.and_eq_true, Bool.not_eq_true'] at hl2
    exact hl2.1.2
  obtain ⟨hcores, hmem⟩ := llcEvict_copies _ hhome u
  have hcore (k : Nat) : (s.flushCore core).1.core k = u.core k := State.core_congr hcores k
  refine ⟨?_, fun k hk => ?_, hmem.trans (State.outer_mem ?_)⟩
  · rw [hcore, State.drainWc_core, if_pos rfl]
    refine ⟨by simp, fun x hx => ?_⟩
    dsimp only at hx
    rw [State.publishLines_l1] at hx
    obtain ⟨y, -, rfl⟩ := List.mem_map.mp hx
    rfl
  · rw [hcore, State.drainWc_core, if_neg hk, State.publishLines_core_ne _ _ _ _ hk]
  · exact (State.drainWc_outer _ _ _).trans (State.publishLines_outer _ _ _)

/-- The flush of a list of cores, with the writes that it leaves on their way. -/
def State.flushCores (s : State) (l : List Nat) (ws : List Nat) : State × List Nat :=
  l.foldl (fun (x : State × List Nat) k => let y := x.1.flushCore k; (y.1, x.2 ++ y.2)) (s, ws)

theorem State.flushCores_spec (l : List Nat) (s : State) (ws : List Nat) :
    (∀ k ∈ l, ((s.flushCores l ws).1.core k).flushed) ∧ (∀ k, k ∉ l → (s.flushCores l ws).1.core k = s.core k) ∧ (s.flushCores l ws).1.mem = s.mem := by
  induction l generalizing s ws with
  | nil => exact ⟨fun k hk => absurd hk List.not_mem_nil, fun _ _ => rfl, rfl⟩
  | cons k l ih =>
    obtain ⟨hfl, hother, hmem⟩ := s.flushCore_spec k
    obtain ⟨hl, hout, hm⟩ := ih (s.flushCore k).1 (ws ++ (s.flushCore k).2)
    refine ⟨fun j hj => ?_, fun j hj => ?_, hm.trans hmem⟩
    · by_cases hjl : j ∈ l
      · exact hl j hjl
      · obtain rfl : j = k := (List.mem_cons.mp hj).resolve_right hjl
        exact (hout j hjl).symm ▸ hfl
    · obtain ⟨hjk, hjl⟩ := not_or.mp (fun h => hj (List.mem_cons.mpr h))
      exact (hout j hjl).trans (hother j hjk)

/-! ## A save and a restore go on -/

section
variable {s : State} {v : SaveOp}

theorem State.goOn_save (hv : s.saves.find? (fun x => x.id = v.id) = some v) (hr : v.restore = none) : s.goOn v.id = s.goSave v := by
  unfold State.goOn
  rw [hv, Option.bind_some, hr]
theorem State.goOn_restore {core : Nat} {stopped : Bool} (hv : s.saves.find? (fun x => x.id = v.id) = some v) (hr : v.restore = some (core, stopped)) :
    s.goOn v.id = s.goRestore v core stopped := by
  unfold State.goOn
  rw [hv, Option.bind_some, hr]

/-- The agents of a save. -/
def SaveOp.agents (v : SaveOp) (s : State) : List Agent := v.keys.flatMap s.teamAgents
/-- Nothing of a save's teams is in the middle of a step. -/
def SaveOp.still (v : SaveOp) (s : State) : Prop :=
  (v.agents s).any (fun a => (s.ctx? a).any (fun c => c.stop.isNone)) = false ∧ (v.agents s).any (fun a => (s.ctx? a).any (fun c => c.out.isSome)) = false ∧
    s.quiet v.keys = true

theorem State.goSave_runs (h : (v.agents s).any (fun a => (s.ctx? a).any (fun c => c.stop.isNone)) = true) :
    s.goSave v = some (((v.agents s).foldl (fun s a => s.stopForSave (dieOf v.agent) a) s).setDeps v.id none) := if_pos h

/-- A save whose teams are still: first their stores go home, then the image is written. -/
theorem State.goSave_still (h : v.still s) : s.goSave v =
    if v.deps.isNone then some ((s.flushCores (((v.agents s).map coreOf).eraseDups) []).1.setDeps v.id
      (some (s.flushCores (((v.agents s).map coreOf).eraseDups) []).2))
    else if s.pendingDeps (v.deps.getD []) then none
    else
      match s.teams.find (v.keys.headD 0) with
      | none => some (({ s with saves := s.saves.filter (fun x => x.id ≠ v.id) } : State).resolve0 v.fut Status.done 0)
      | some t =>
        match s.own (dieOf v.agent) v.part v.id (s.writeRange (coreOf v.agent) (fun _ => v.gen) v.va
          (imageHeader v.members t (256 + imageTail) ++ imageBody v.id)) with
        | .wait s' => s'
        | .fail code s' => some (((v.agents s).foldl (fun s a => s.unmark false a)
            ({ s' with saves := s'.saves.filter (fun x => x.id ≠ v.id) } : State)).resolve0 v.fut Status.faulted code)
        | .got s' => some (((({ s' with saves := s'.saves.filter (fun x => x.id ≠ v.id) } : State).takeOff v.id v.keys).resolve0 v.fut
            Status.done 0).mapsGo) := by
  obtain ⟨hrun, hout, hquiet⟩ := h
  have hfind : (v.agents s).find? (fun a => (s.ctx? a).any (fun c => c.out.isSome)) = none := by
    rw [List.find?_eq_none]
    intro a ha
    rw [List.any_eq_false] at hout
    exact hout a ha
  unfold State.goSave
  refine (if_neg (by rw [← SaveOp.agents, hrun]; exact Bool.false_ne_true)).trans ?_
  rw [← SaveOp.agents, hfind]
  dsimp only
  rw [hquiet]
  rfl

theorem goOn_still (hv : s.saves.find? (fun x => x.id = v.id) = some v) (hr : v.restore = none) (h : v.still s) (hd : v.deps = none) :
    ∃ (t : State) (l : List Nat), s.goOn v.id = some (t.setDeps v.id (some l)) ∧ t.mem = s.mem ∧
      (∀ a ∈ v.agents s, (t.core (coreOf a)).wc = [] ∧ ∀ x ∈ (t.core (coreOf a)).l1, x.dirty = 0) := by
  obtain ⟨hfl, -, hmem⟩ := State.flushCores_spec (((v.agents s).map coreOf).eraseDups) s []
  refine ⟨_, _, (State.goOn_save hv hr).trans ((State.goSave_still h).trans (if_pos (by rw [hd]; rfl))), hmem, fun a ha => hfl _ ?_⟩
  rw [List.mem_eraseDups]
  exact List.mem_map_of_mem ha

theorem goOn_waits (hv : s.saves.find? (fun x => x.id = v.id) = some v) (hr : v.restore = none) (h : v.still s) {l : List Nat} (hd : v.deps = some l)
    (hp : s.pendingDeps l = true) : s.goOn v.id = none := by
  rw [State.goOn_save hv hr, State.goSave_still h, hd]
  exact if_pos hp

theorem goOn_written (hv : s.saves.find? (fun x => x.id = v.id) = some v) (hr : v.restore = none) (h : v.still s) {l : List Nat} (hd : v.deps = some l)
    (hp : s.pendingDeps l = false) {t : Team} {s' : State} (ht : s.teams.find (v.keys.headD 0) = some t) (hu : s.unawaited (dieOf v.agent) v.id)
    (hw : s.writeRange (coreOf v.agent) (fun _ => v.gen) v.va (imageHeader v.members t (256 + imageTail) ++ imageBody v.id) = .ok s') :
    s.goOn v.id = some (((({ s' with saves := s'.saves.filter (fun x => x.id ≠ v.id) } : State).takeOff v.id v.keys).resolve0 v.fut
      Status.done 0).mapsGo) := by
  rw [State.goOn_save hv hr, State.goSave_still h, hd]
  refine (if_neg (by simp)).trans ((if_neg (by rw [Option.getD_some, hp]; exact Bool.false_ne_true)).trans ?_)
  rw [ht]
  dsimp only
  rw [hw, State.own_ok _ _ hu]

/-- The end of a restore. -/
def SaveOp.ends (v : SaveOp) (s : State) (status code : Nat) : Option State :=
  some (({ s with saves := s.saves.filter (fun x => x.id ≠ v.id) } : State).resolve0 v.fut status code)

/-- The image to put back: a second copy of one that has been restored (R404). -/
def Saved.revived (x : Saved) (s : State) : State × Saved := match x.snap with | some n => s.revive x n | none => (s, x)

theorem State.goRestore_read {core : Nat} {stopped : Bool} {l : List Byte} {s' : State} (hu : s.unawaited (dieOf v.agent) v.id)
    (hl : s.readRange (coreOf v.agent) (fun _ => v.gen) v.va (256 + imageTail) = .ok (l, false, s')) :
    s.goRestore v core stopped =
      match headerOk l, s'.saved.find? (fun x => imageBody x.id = l.drop 256) with
      | true, some x =>
        match (x.revived s').1.restorePlace core (Foot.ofBytes ((l.drop 0x20).take 64)) with
        | none => v.ends s' Status.full 0
        | some cores =>
          if (x.revived s').1.restoreRoom (x.revived s').2 ((x.revived s').2.teams.zip cores) then
            v.ends ((x.revived s').1.restore (x.revived s').2 ((x.revived s').2.teams.zip cores) stopped) Status.done 0
          else v.ends s' Status.full 0
      | _, _ => v.ends s' Status.faulted Code.handle := by
  unfold State.goRestore
  dsimp only
  rw [hl, State.own_ok _ _ hu]
  dsimp only
  rw [if_neg Bool.false_ne_true]
  rfl

end

/-! ## y.ctxs and y.ctxl -/

section
variable {s : State} {is : Iss} {h : Hdr} {sub : BitVec 2} {d a : RegNo} {imm : BitVec 32} {va : Nat} {write : Bool}

theorem Iss.imageRoute_ok (hal : is.allows s va write false) : is.imageRoute s va write = .ok (some (is.routeOf s va)) := by
  unfold Iss.imageRoute
  rw [State.route_ok hal]
theorem Iss.imageRoute_dead (hr : s.route (coreOf is.a) (s.agentPart is.a) va write false = .error Code.arenaDead) :
    is.imageRoute s va write = .ok none := by
  unfold Iss.imageRoute
  rw [hr]
  exact if_pos rfl
theorem Iss.imageRoute_refused {code : Nat} (hr : s.route (coreOf is.a) (s.agentPart is.a) va write false = .error code) (hc : code ≠ Code.arenaDead) :
    is.imageRoute s va write = .error (is.fault code va is.p) := by
  unfold Iss.imageRoute
  rw [hr]
  exact if_neg hc

/-- A save or a restore that begins. -/
def Iss.saveOp (is : Iss) (s : State) (keys : List Nat) (members va : Nat) (restore : Option (Nat × Bool)) (k : Nat) : SaveOp :=
  { id := s.uid, agent := is.a, part := s.agentPart is.a, keys := keys, members := members, gen := (is.attrOf s va).gen, va := va,
    restore := restore, deps := none, fut := some (quadOf is.a, k) }

theorem State.beginSave_ok (hr : s.ctx? is.a = some is.c) (keys : List Nat) (members : Nat) (restore : Option (Nat × Bool)) (hroom : s.futRoom is) :
    ∃ s1 k, ({ s with uid := s.uid + 1 } : State).takeFut is d Kind.priv 3 s.uid = .ok (s1, quadOf is.a, k) ∧
      s.beginSave is d keys members (is.attrOf s va).gen va restore = .ok { s1 with saves := s1.saves ++ [is.saveOp s keys members va restore k] } := by
  obtain ⟨hec, k, hk⟩ := State.futRoom_iff.mp hroom
  obtain ⟨s1, c', hx, hf⟩ := State.takeFut_ok (s := { s with uid := s.uid + 1 }) d Kind.priv 3 s.uid hr hec hk
  have hpart : s1.agentPart is.a = s.agentPart is.a := (congrArg (fun x : State => x.agentPart is.a) hf.rest :)
  refine ⟨s1, k, hx, ?_⟩
  unfold State.beginSave
  show (({ s with uid := s.uid + 1 } : State).takeFut is d Kind.priv 3 s.uid >>= _) = _
  rw [hx]
  unfold Iss.saveOp
  rw [← hpart]
  rfl

/-- The teams of a save. -/
def Team.saveKeys (tm : Team) (s : State) (sub : BitVec 2) (key : Nat) : List Nat :=
  if sub = 0 then [key] else tm.gang.filter (fun k => (s.teams.find k).isSome)

/-- y.ctxs of a team behind the checks of its image's address. -/
def Iss.ctxsOf (is : Iss) (s : State) (d : RegNo) (va : Nat) (keys : List Nat) (tm : Team) : Option Route → Res State
  | none => s.instantFut is d Kind.priv 3 Status.faulted Code.arenaDead
  | some rt =>
    if tm.group = 0 || keys.any s.inSave then s.instantFut is d Kind.priv 3 Status.busy 0
    else s.beginSave is d keys keys.length rt.attr.gen va none >>= fun s =>
      pure ((keys.flatMap s.teamAgents).foldl (fun s x => s.stopForSave (dieOf is.a) x) s)
/-- The body of y.ctxs. -/
def Iss.ctxsBody (sub : BitVec 2) (d a : RegNo) (imm : BitVec 32) (is : Iss) (s : State) : Res State :=
  is.memReady s >>= fun _ =>
    match (s.target is.a).bind (fun x => (s.teams.find x.2.team).map (fun t => (x.2.team, t))) with
    | none => .error (is.fault Code.handle 0 is.p)
    | some x => is.imageRoute s (vaOf (is.addrS a imm)) true >>= is.ctxsOf s d (vaOf (is.addrS a imm)) (x.2.saveKeys s sub x.1) x.2

/-- The core that the window names, for a restore. -/
def Iss.restoreCore (is : Iss) (s : State) (sub : BitVec 2) : Nat × Bool :=
  (64 * dieOf is.a + 4 * bits (s.die (dieOf is.a)).window.toNat 7 4 + bits (s.die (dieOf is.a)).window.toNat 5 2, sub == 1)
/-- y.ctxl behind the checks of its image's address. -/
def Iss.ctxlOf (is : Iss) (s : State) (sub : BitVec 2) (d : RegNo) (va : Nat) : Option Route → Res State
  | none => s.instantFut is d Kind.priv 3 Status.faulted Code.arenaDead
  | some rt =>
    if bits (s.die (dieOf is.a)).window.toNat 11 5 ≠ dieOf is.a then s.instantFut is d Kind.priv 3 Status.full 0
    else s.beginSave is d [] 0 rt.attr.gen va (some (is.restoreCore s sub))
/-- The body of y.ctxl. -/
def Iss.ctxlBody (sub : BitVec 2) (d a : RegNo) (imm : BitVec 32) (is : Iss) (s : State) : Res State :=
  is.memReady s >>= fun _ => is.imageRoute s (vaOf (is.addrS a imm)) false >>= is.ctxlOf s sub d (vaOf (is.addrS a imm))

theorem exec_yCtxs (h : Hdr) (sub : BitVec 2) (d a : RegNo) (imm : BitVec 32) (s : State) : exec (.yCtxs h sub d a imm) s =
    issue .hearthOnly' h 12 { rd := [.s a], wr := [.s d] } s (Iss.ctxsBody sub d a imm) := by
  show execYCtxs h sub d a imm s = _
  unfold execYCtxs
  refine congrArg _ (funext fun is => funext fun s => ?_)
  unfold Iss.ctxsBody
  refine bind_congr fun _ => ?_
  dsimp only
  split
  · next hn => rw [hn]
  · next key t hs =>
    rw [hs]
    refine bind_congr fun rt => ?_
    cases rt <;> rfl
theorem exec_yCtxl (h : Hdr) (sub : BitVec 2) (d a : RegNo) (imm : BitVec 32) (s : State) : exec (.yCtxl h sub d a imm) s =
    issue .hearthOnly' h 12 { rd := [.s a], wr := [.s d] } s (Iss.ctxlBody sub d a imm) := by
  show execYCtxl h sub d a imm s = _
  unfold execYCtxl
  refine congrArg _ (funext fun is => funext fun s => ?_)
  unfold Iss.ctxlBody
  refine bind_congr fun _ => bind_congr fun rt => ?_
  cases rt <;> rfl

theorem Iss.ctxsBody_eq {g : Agent} {c : Ctx} {tm : Team} (hq : is.quiet s) (ht : s.target is.a = some (g, c)) (htm : s.teams.find c.team = some tm) :
    Iss.ctxsBody sub d a imm is s =
      (is.imageRoute s (vaOf (is.addrS a imm)) true >>= is.ctxsOf s d (vaOf (is.addrS a imm)) (tm.saveKeys s sub c.team) tm) := by
  unfold Iss.ctxsBody
  rw [Iss.memReady_bind hq, ht, Option.bind_some, htm]
  rfl
theorem Iss.ctxlBody_eq (hq : is.quiet s) :
    Iss.ctxlBody sub d a imm is s = (is.imageRoute s (vaOf (is.addrS a imm)) false >>= is.ctxlOf s sub d (vaOf (is.addrS a imm))) :=
  Iss.memReady_bind hq _

/-- An instruction whose body is a future that resolves at once. -/
theorem issue_atOnce {pm : Perm} {len : Nat} {us : Uses} {i : Instr} {body : Iss → State → Res State} {kind sc status code : Nat}
    (hx : exec i s = issue pm h len us s body) (hr : s.ready pm h len us = some is) (hroom : s.futRoom is)
    (hb : body is s = s.instantFut is d kind sc status code) :
    ∃ t, exec i s = .next t ∧ AtOnce s t is d kind status code ∧ t.mem = s.mem ∧ t.teams = s.teams := by
  obtain ⟨t, c', ht, hf⟩ := State.instantFut_ok d kind sc status code (State.ready_ctx hr) (State.ready_free hr).1 (State.ready_free hr).2 hroom
  exact ⟨t.retire is, hx.trans (issue_ready hr (hb.trans ht)), atOnce_of_futAtOnce hr (.refl hr) rfl rfl hf,
    (State.retire_mem _ _).trans (congrArg State.mem hf.rest :), (State.retire_teams _ _).trans (congrArg State.teams hf.rest :)⟩

variable (hr : s.ready .hearthOnly' h 12 { rd := [.s a], wr := [.s d] } = some is) (hq : is.quiet s)
include hr hq

theorem yCtxs_begins {g : Agent} {c : Ctx} {tm : Team} (ht : s.target is.a = some (g, c)) (htm : s.teams.find c.team = some tm)
    (hal : is.allows s (vaOf (is.addrS a imm)) true false) (hg : tm.group ≠ 0) (hk : (tm.saveKeys s sub c.team).any s.inSave = false)
    (hroom : s.futRoom is) :
    ∃ s1 k, ({ s with uid := s.uid + 1 } : State).takeFut is d Kind.priv 3 s.uid = .ok (s1, quadOf is.a, k) ∧
      let s2 : State := { s1 with saves := s1.saves ++ [is.saveOp s (tm.saveKeys s sub c.team) (tm.saveKeys s sub c.team).length (vaOf (is.addrS a imm)) none k] }
      exec (.yCtxs h sub d a imm) s =
        .next ((((tm.saveKeys s sub c.team).flatMap s2.teamAgents).foldl (fun s x => s.stopForSave (dieOf is.a) x) s2).retire is) := by
  obtain ⟨s1, k, hx, hb⟩ := State.beginSave_ok (d := d) (va := vaOf (is.addrS a imm)) (State.ready_ctx hr) (tm.saveKeys s sub c.team)
    (tm.saveKeys s sub c.team).length none hroom
  refine ⟨s1, k, hx, (exec_yCtxs h sub d a imm s).trans (issue_ready hr ?_)⟩
  rw [Iss.ctxsBody_eq hq ht htm, Iss.imageRoute_ok hal]
  show Iss.ctxsOf _ _ _ _ _ _ (some _) = _
  unfold Iss.ctxsOf
  dsimp only
  rw [hk, decide_eq_false hg]
  show (s.beginSave is d (tm.saveKeys s sub c.team) (tm.saveKeys s sub c.team).length (is.attrOf s (vaOf (is.addrS a imm))).gen
    (vaOf (is.addrS a imm)) none >>= _) = _
  rw [hb]
  rfl

theorem yCtxl_begins (hal : is.allows s (vaOf (is.addrS a imm)) false false) (hw : bits (s.die (dieOf is.a)).window.toNat 11 5 = dieOf is.a)
    (hroom : s.futRoom is) :
    ∃ s1 k, ({ s with uid := s.uid + 1 } : State).takeFut is d Kind.priv 3 s.uid = .ok (s1, quadOf is.a, k) ∧
      exec (.yCtxl h sub d a imm) s = .next (State.retire
        { s1 with saves := s1.saves ++ [is.saveOp s [] 0 (vaOf (is.addrS a imm)) (some (is.restoreCore s sub)) k] } is) := by
  obtain ⟨s1, k, hx, hb⟩ := State.beginSave_ok (d := d) (va := vaOf (is.addrS a imm)) (State.ready_ctx hr) [] 0 (some (is.restoreCore s sub)) hroom
  refine ⟨s1, k, hx, (exec_yCtxl h sub d a imm s).trans (issue_ready hr ?_)⟩
  rw [Iss.ctxlBody_eq hq, Iss.imageRoute_ok hal]
  exact (if_neg (not_not.mpr hw)).trans hb

end

/-- Settles O47: y.ctxs and y.ctxl by what their image's address and the window allow, and a save and a restore by what they still wait for. -/
theorem savedTeams : Obligations.SavedTeams := by
  refine ⟨fun s is h sub d a imm g c tm hr hq ht htm => ?_, fun s is h sub d a imm hr hq => ?_, fun s v hv hre => ?_,
    fun s s' v core stopped l hv hre hu hl => ?_⟩
  · intro va keys r op
    have hx := exec_yCtxs h sub d a imm s
    have hb := Iss.ctxsBody_eq (sub := sub) (d := d) (a := a) (imm := imm) hq ht htm
    refine ⟨fun code hr1 hc => hx.trans (issue_error hr ?_), fun hr1 hroom => issue_atOnce (sc := 3) hx hr hroom ?_, fun hal hbusy hroom =>
      issue_atOnce (sc := 3) hx hr hroom ?_, fun hal hg hk hroom => yCtxs_begins hr hq ht htm hal hg hk hroom⟩
    · rw [hb, Iss.imageRoute_refused hr1 hc]
      rfl
    · rw [hb, Iss.imageRoute_dead hr1]
      rfl
    · rw [hb, Iss.imageRoute_ok hal]
      exact if_pos (by rw [Bool.or_eq_true, decide_eq_true_eq]; exact hbusy)
  · intro va w r op
    have hx := exec_yCtxl h sub d a imm s
    have hb := Iss.ctxlBody_eq (sub := sub) (d := d) (a := a) (imm := imm) hq
    refine ⟨fun code hr1 hc => hx.trans (issue_error hr ?_), fun hr1 hroom => issue_atOnce (sc := 3) hx hr hroom ?_, fun hal hw hroom =>
      issue_atOnce (sc := 3) hx hr hroom ?_, fun hal hw hroom => yCtxl_begins hr hq hal hw hroom⟩
    · rw [hb, Iss.imageRoute_refused hr1 hc]
      rfl
    · rw [hb, Iss.imageRoute_dead hr1]
      rfl
    · rw [hb, Iss.imageRoute_ok hal]
      exact if_pos hw
  · exact ⟨fun hrun => (State.goOn_save hv hre).trans (State.goSave_runs hrun), fun hstill hd => goOn_still hv hre hstill hd,
      fun l hstill hd hp => goOn_waits hv hre hstill hd hp, fun t s' l hstill hd hp ht hu hw => goOn_written hv hre hstill hd hp ht hu hw⟩
  · intro over' place x
    have hgo := (State.goOn_restore hv hre).trans (State.goRestore_read (core := core) (stopped := stopped) hu hl)
    refine ⟨fun hno => hgo.trans ?_, fun y hok hy => ?_⟩
    · rcases hno with hno | hno
      · rw [hno]
        rfl
      · rw [show s'.saved.find? (fun x => imageBody x.id = l.drop 256) = none from hno]
        cases headerOk l <;> rfl
    · rw [hok, show s'.saved.find? (fun x => imageBody x.id = l.drop 256) = some y from hy] at hgo
      dsimp only at hgo
      refine ⟨fun hp => hgo.trans ?_, fun cores hp hroom => hgo.trans ?_, fun cores hp hroom => hgo.trans ?_⟩
      · rw [show (y.revived s').1.restorePlace core (Foot.ofBytes ((l.drop 0x20).take 64)) = none from hp]
        rfl
      · rw [show (y.revived s').1.restorePlace core (Foot.ofBytes ((l.drop 0x20).take 64)) = some cores from hp]
        exact if_neg (fun h => Bool.false_ne_true ((show false = (y.revived s').1.restoreRoom (y.revived s').2 ((y.revived s').2.teams.zip cores)
          from hroom.symm).trans h))
      · rw [show (y.revived s').1.restorePlace core (Foot.ofBytes ((l.drop 0x20).take 64)) = some cores from hp]
        exact if_pos hroom

end Sys2Proof.Machine

/-! SUPPORT. The remap filter and the regions (R98, R102 to R105). -/

namespace Sys2Proof.Machine

/-! ## Futures that end at once, and changes that a partition takes with one -/

/-- An instruction that takes a future and then changes its partition. -/
theorem takes_mapPart {s u : State} {pm : Perm} {h : Hdr} {len : Nat} {us : Uses} {is : Iss} {d : RegNo} {kind sc op k n : Nat} {c' : Ctx}
    (hr : s.ready pm h len us = some is) (hf : FutTaken { s with uid := n } u is d kind sc op k is.c c') (p : Nat) (f : Part → Part) :
    Taken s ((u.mapPart p f).retire is) is d kind k ∧ ((u.mapPart p f).retire is).cores = s.cores ∧
      ((u.mapPart p f).retire is).mem = s.mem ∧ ((u.mapPart p f).retire is).part p = f (s.part p) := by
  refine ⟨request_taken hr hf rfl rfl, (State.retire_cores _ _).trans (congrArg State.cores hf.rest :), (State.retire_mem _ _).trans hf.mem, ?_⟩
  rw [State.part_retire, State.part_mapPart, State.part_of_rest hf.rest]
  rfl

/-- One whose future ends at once leaves the partitions. -/
theorem priv_atOnce {s : State} {pm : Perm} {h : Hdr} {len : Nat} {us : Uses} {is : Iss} {i : Instr} {d : RegNo} {body : Iss → State → Res State}
    {kind sc status code : Nat} (hx : exec i s = issue pm h len us s body) (hr : s.ready pm h len us = some is) (hroom : s.futRoom is)
    (hb : body is s = s.instantFut is d kind sc status code) :
    ∃ t, exec i s = .next t ∧ AtOnce s t is d kind status code ∧ t.parts = s.parts := by
  obtain ⟨t, c', ht, hf⟩ := State.instantFut_ok d kind sc status code (State.ready_ctx hr) (State.ready_free hr).1 (State.ready_free hr).2 hroom
  exact ⟨t.retire is, hx.trans (issue_ready hr (hb.trans ht)), atOnce_of_futAtOnce hr (.refl hr) rfl rfl hf,
    (State.retire_parts _ _).trans (congrArg State.parts hf.rest :)⟩

/-! ## Changes of the filter -/

/-- The request of a filter change. -/
def filterReq (s : State) (is : Iss) (idx : Nat) (e : Option Filter) (f : Nat × Nat) : FilterReq :=
  { id := s.uid, idx := idx, entry := e, waiting := s.tableCores (s.agentPart is.a), fut := some f }

theorem State.tableCores_of_rest {s t : State} (h : t.rest = s.rest) (p : Nat) : t.tableCores p = s.tableCores p := by
  unfold State.tableCores
  rw [State.liveDies_of_rest h]

theorem State.sendFilter_eq (s : State) (is : Iss) (d : RegNo) (idx : Nat) (e : Option Filter) : s.sendFilter is d idx e =
    (({ s with uid := s.uid + 1 } : State).takeFut is d Kind.priv 3 s.uid >>= fun x =>
      pure (x.1.mapPart (s.agentPart is.a) (fun p => { p with filterQ := p.filterQ ++
        [{ id := s.uid, idx := idx, entry := e, waiting := x.1.tableCores (s.agentPart is.a), fut := some x.2 }] }))) := rfl

section
variable {s : State} {is : Iss} {h : Hdr} {d a b : RegNo} {us : Uses} {i : Instr} {body : Iss → State → Res State}

theorem sendFilter_takes {idx : Nat} {e : Option Filter} (hx : exec i s = issue .priv h 16 us s body)
    (hr : s.ready .priv h 16 us = some is) (hroom : s.futRoom is) (hb : body is s = s.sendFilter is d idx e) :
    ∃ t k, exec i s = .next t ∧ Taken s t is d Kind.priv k ∧ t.cores = s.cores ∧ t.mem = s.mem ∧
      (t.part (s.agentPart is.a)).filterQ = (s.part (s.agentPart is.a)).filterQ ++ [filterReq s is idx e (quadOf is.a, k)] := by
  obtain ⟨hec, k, hk⟩ := State.futRoom_iff.mp hroom
  obtain ⟨u, c', hu, hf⟩ := State.takeFut_ok (s := { s with uid := s.uid + 1 }) d Kind.priv 3 s.uid (State.ready_ctx hr) hec hk
  have htc : u.tableCores (s.agentPart is.a) = s.tableCores (s.agentPart is.a) := State.tableCores_of_rest hf.rest _
  obtain ⟨ht, hcores, hmem, hpart⟩ := takes_mapPart hr hf (s.agentPart is.a)
    (fun p => { p with filterQ := p.filterQ ++ [filterReq s is idx e (quadOf is.a, k)] })
  refine ⟨_, k, hx.trans (issue_ready hr ?_), ht, hcores, hmem, (congrArg Part.filterQ hpart :)⟩
  rw [hb, State.sendFilter_eq, hu]
  simp only [bind, Except.bind, htc]
  rfl

/-- The entry that y.map makes, and what it would overlap. -/
def Iss.filter (is : Iss) (a b : RegNo) (x0 : BitVec 32) : Filter :=
  { al := vaOf (is.s a) / 4096, canon := vaOf (is.s b) / 4096, len := x0.toNat }
def State.overlaps (s : State) (core idx : Nat) (f : Filter) : Bool :=
  ((s.filtersAhead core).filter (fun e => e.1 ≠ idx)).any (fun e => f.al < e.2.al + e.2.len && e.2.al < f.al + f.len)

theorem exec_yMapFilter (h : Hdr) (d a b : RegNo) (x0 : BitVec 32) (idx : BitVec 5) (s : State) :
    exec (.yMapFilter h d a b x0 idx) s = issue .priv h 16 { rd := [.s a, .s b], wr := [.s d] } s (fun is s =>
      require (vaOf (is.s a) % 4096 = 0 && vaOf (is.s b) % 4096 = 0) (is.fault Code.align (vaOf (is.s a)) is.p) >>= fun _ =>
      require (x0 ≠ 0) (is.fault0 Code.iil) >>= fun _ =>
      if s.overlaps (coreOf is.a) idx.toNat (is.filter a b x0) then s.instantFut is d Kind.priv 3 Status.busy 0
      else s.sendFilter is d idx.toNat (some (is.filter a b x0))) := rfl

theorem exec_yUnmapFilter (h : Hdr) (d : RegNo) (idx : BitVec 5) (s : State) :
    exec (.yUnmapFilter h d idx) s = issue .priv h 16 { rd := [], wr := [.s d] } s (fun is s =>
      if ((s.filtersAhead (coreOf is.a)).find idx.toNat).isNone then s.instantFut is d Kind.priv 3 Status.empty 0
      else s.sendFilter is d idx.toNat none) := rfl

end

/-! ## A core applies a change -/

/-- What applying a change leaves of the filter. -/
def FilterReq.applied (r : FilterReq) (m : AMap Filter) : AMap Filter :=
  match r.entry with | some f => m.put r.idx f | none => m.del r.idx

theorem FilterReq.find_applied (r : FilterReq) (m : AMap Filter) (j : Nat) :
    (r.applied m).find j = if j = r.idx then r.entry else m.find j := by
  unfold FilterReq.applied
  cases he : r.entry with
  | some f => exact AMap.find_put _ _ _ _
  | none =>
    by_cases hj : j = r.idx
    · subst hj
      exact (AMap.find_del_same _ _).trans (if_pos rfl).symm
    · exact (AMap.find_del_ne _ _ _ hj).trans (if_neg hj).symm

/-- What the core's buffers and the work under way keep a removal waiting for. -/
def State.filterWc (s : State) (core : Nat) (r : FilterReq) : Bool :=
  match r.entry, (s.core core).filters.find r.idx with
  | none, some f => (s.core core).wc.any (fun b => f.inCanon b.line)
  | _, _ => false
def State.filterBusy (s : State) (core : Nat) (r : FilterReq) : Bool :=
  match r.entry, (s.core core).filters.find r.idx with
  | none, some f => s.usesAlias core f
      || (decide (r.waiting = [core]) && s.reqs.any (fun x => x.part = s.corePart core && f.canon ≤ x.va / 4096 && x.va / 4096 < f.canon + f.len))
  | _, _ => false

/-- The machine once the core has applied it. -/
def State.applyFilter (s : State) (core : Nat) (r : FilterReq) : State := s.mapCore core (fun c => { c with filters := r.applied c.filters })

theorem evRemapFilterApply_eq (core : Nat) (s : State) : evRemapFilterApply core s =
    match (s.part (s.corePart core)).filterQ.find? (fun r => r.waiting.contains core) with
    | none => none
    | some r =>
      if s.filterWc core r then some (s.drainWc core (fun line => ((s.core core).filters.find r.idx).any (·.inCanon line)))
      else if s.filterBusy core r then none
      else if r.waiting = [core] then
        some (((s.applyFilter core r).mapPart (s.corePart core) (fun p => { p with filterQ := p.filterQ.filter (fun x => x.id ≠ r.id) })).resolve0
          r.fut Status.done 0)
      else
        some ((s.applyFilter core r).mapPart (s.corePart core) (fun p => { p with filterQ := p.filterQ.map (fun (x : FilterReq) =>
          if x.id = r.id then { x with waiting := x.waiting.filter (· ≠ core) } else x) })) := rfl

section
variable {s : State} {core : Nat} {r : FilterReq} (hq : (s.part (s.corePart core)).filterQ.find? (fun r => r.waiting.contains core) = some r)
include hq

theorem remapFilterApply_applies (hwc : s.filterWc core r = false) (hbusy : s.filterBusy core r = false) :
    ∃ t, exec (.remapFilterApply core) s = .next t ∧ t.cores = (s.applyFilter core r).cores ∧ t.mem = s.mem := by
  have hev := evRemapFilterApply_eq core s
  rw [hq] at hev
  dsimp only at hev
  rw [hwc, hbusy, if_neg Bool.false_ne_true, if_neg Bool.false_ne_true] at hev
  by_cases hl : r.waiting = [core]
  · have hst := State.resolve0_still ((s.applyFilter core r).mapPart (s.corePart core)
      (fun p => { p with filterQ := p.filterQ.filter (fun x => x.id ≠ r.id) })) r.fut Status.done 0
    exact ⟨_, event_eq (hev.trans (if_pos hl)), (congrArg State.cores hst :), (congrArg State.mem hst :)⟩
  · exact ⟨_, event_eq (hev.trans (if_neg hl)), rfl, rfl⟩

theorem remapFilterApply_drains {f : Filter} (he : r.entry = none) (hf : (s.core core).filters.find r.idx = some f)
    (hwc : (s.core core).wc.any (fun b => f.inCanon b.line) = true) :
    exec (.remapFilterApply core) s = .next (s.drainWc core f.inCanon) := by
  refine event_eq ?_
  have hw : s.filterWc core r = true := by unfold State.filterWc; rw [he, hf]; exact hwc
  rw [evRemapFilterApply_eq, hq]
  dsimp only
  rw [if_pos hw, hf]
  rfl
end

theorem State.filterFree {s : State} {core : Nat} {r : FilterReq}
    (h : r.entry.isSome = true ∨ ∀ f, (s.core core).filters.find r.idx = some f → s.usesAlias core f = false ∧
      (∀ b ∈ (s.core core).wc, f.inCanon b.line = false) ∧ (r.waiting = [core] → ∀ x ∈ s.reqs, x.part = s.corePart core →
        ¬ (f.canon ≤ x.va / 4096 ∧ x.va / 4096 < f.canon + f.len))) :
    s.filterWc core r = false ∧ s.filterBusy core r = false := by
  unfold State.filterWc State.filterBusy
  cases he : r.entry with
  | some g => exact ⟨rfl, rfl⟩
  | none =>
    cases hf : (s.core core).filters.find r.idx with
    | none => exact ⟨rfl, rfl⟩
    | some f =>
      obtain ⟨halias, hwc, hreqs⟩ := (h.resolve_left (by simp [he])) f hf
      refine ⟨List.any_eq_false.mpr fun b hb => by simpa using hwc b hb, ?_⟩
      dsimp only
      rw [halias, Bool.false_or, Bool.and_eq_false_iff]
      by_cases hl : r.waiting = [core]
      · refine .inr (List.any_eq_false.mpr fun x hx => ?_)
        have := hreqs hl x hx
        simp only [Bool.and_eq_true, decide_eq_true_eq]
        exact fun h => this h.1.1 ⟨h.1.2, h.2⟩
      · exact .inl (decide_eq_false hl)

/-! ## Region entries -/

/-- An entry that is not there. -/
def Part.oldRegion (p : Part) (idx : Nat) : Region :=
  (p.regions.find idx).getD { base := 0, len := 0, gran := 0, kind := 3, ver := 0, dies := 0, mfirst := 0, mcount := 0 }

/-- The entry that a record writes, and what makes it unfit (R100, R104). -/
def Part.newRegion (p : Part) (idx : Nat) (l : List Byte) : Region × Bool := regionOf (ofLe l) (((p.oldRegion idx).ver + 1) % 256)
def Part.regionBad (p : Part) (idx : Nat) (l : List Byte) : Bool :=
  4096 ≤ idx || !(p.newRegion idx l).2 || !p.regionOk idx (p.newRegion idx l).1 || p.rewrites.any (fun x => x.idx = idx)

/-- The partition with the new entry and the rewrite that waits for the old home. -/
def Part.rewrite (p old : Part) (idx : Nat) (l : List Byte) (f : Nat × Nat) : Part :=
  { p with regions := p.regions.put idx (old.newRegion idx l).1
           rewrites := p.rewrites ++ [{ idx := idx, old := old.oldRegion idx, fut := some f }] }

/-- What y.regn does once its record is read (R102, R104). -/
def Iss.regn (is : Iss) (p : Part) (s : State) (idx : Nat) (d : RegNo) (part : Nat) (l : List Byte) : Res State :=
  if p.regionBad idx l then s.instantFut is d Kind.priv 3 Status.busy 0
  else s.takeFut is d Kind.priv 3 idx >>= fun y => pure (y.1.mapPart part (fun q => q.rewrite p idx l y.2))

theorem exec_yRegn (h : Hdr) (d a b : RegNo) (s : State) :
    exec (.yRegn h d a b) s = issue .priv h 16 { rd := [.s a, .s b], wr := [.s d] } s (fun is s => is.memReady s >>= fun _ =>
      s.readRecord is (is.s b) 32 1 >>= fun x =>
      is.regn (s.part (s.agentPart is.a)) (x.2.2.markStale is x.2.1) (is.s a).toNat d (s.agentPart is.a) x.1) := rfl

section
variable {s s1 : State} {is : Iss} {h : Hdr} {d a b : RegNo} {l : List Byte}
  (hr : s.ready .priv h 16 { rd := [.s a, .s b], wr := [.s d] } = some is) (hq : is.quiet s)
  (hrec : s.readRecord is (is.s b) 32 1 = .ok (l, false, s1)) (hroom : s.futRoom is)
include hr hq hrec hroom

omit hroom in
theorem yRegn_of_regn {t : State} (ht : is.regn (s.part (s.agentPart is.a)) s1 (is.s a).toNat d (s.agentPart is.a) l = .ok t) :
    exec (.yRegn h d a b) s = .next (t.retire is) := by
  refine (exec_yRegn h d a b s).trans (issue_ready hr ?_)
  rw [Iss.memReady_bind hq, hrec]
  exact ht

theorem yRegn_busy (hbad : (s.part (s.agentPart is.a)).regionBad (is.s a).toNat l = true) :
    ∃ t, exec (.yRegn h d a b) s = .next t ∧ AtOnce s t is d Kind.priv Status.busy 0 ∧ t.parts = s.parts := by
  have hs1 : s1 = { s with ports := s1.ports } := State.readRecord_spec hrec
  have hc : s1.ctx? is.a = some is.c := by rw [hs1]; exact State.ready_ctx hr
  have hroom1 : s1.futRoom is := by rw [hs1]; exact hroom
  obtain ⟨t, c', ht, hf⟩ := State.instantFut_ok d Kind.priv 3 Status.busy 0 hc (State.ready_free hr).1 (State.ready_free hr).2 hroom1
  refine ⟨t.retire is, yRegn_of_regn hr hq hrec ((if_pos hbad).trans ht), atOnce_of_futAtOnce hr (.refl hr)
    (congrArg State.quads hs1 :) (congrArg State.ctxs hs1 :) hf, (State.retire_parts _ _).trans ((congrArg State.parts hf.rest :).trans
      (congrArg State.parts hs1 :))⟩

theorem yRegn_takes (hbad : (s.part (s.agentPart is.a)).regionBad (is.s a).toNat l = false) :
    ∃ t k, exec (.yRegn h d a b) s = .next t ∧ Taken s t is d Kind.priv k ∧ t.mem = s.mem ∧
      t.part (s.agentPart is.a) = (s.part (s.agentPart is.a)).rewrite (s.part (s.agentPart is.a)) (is.s a).toNat l (quadOf is.a, k) := by
  have hs1 : s1 = { s with ports := s1.ports } := State.readRecord_spec hrec
  obtain ⟨hec, k, hk⟩ := State.futRoom_iff.mp hroom
  have hc : s1.ctx? is.a = some is.c := by rw [hs1]; exact State.ready_ctx hr
  have hk1 : (s1.quad (quadOf is.a)).freeFut = some k := by rw [hs1]; exact hk
  obtain ⟨u, c', hu, hf⟩ := State.takeFut_ok d Kind.priv 3 (is.s a).toNat hc hec hk1
  have hpart : u.part (s.agentPart is.a) = s.part (s.agentPart is.a) := by
    rw [State.part_of_rest hf.rest, hs1]
    rfl
  have hbody : is.regn (s.part (s.agentPart is.a)) s1 (is.s a).toNat d (s.agentPart is.a) l =
      .ok (u.mapPart (s.agentPart is.a) (fun q => q.rewrite (s.part (s.agentPart is.a)) (is.s a).toNat l (quadOf is.a, k))) := by
    refine (if_neg (Bool.eq_false_iff.mp hbad)).trans ?_
    rw [hu]
    rfl
  refine ⟨_, k, yRegn_of_regn hr hq hrec hbody,
    taken_of_futTaken hr (.refl hr) (congrArg State.quads hs1 :) (congrArg State.ctxs hs1 :) hf rfl rfl fun _ => rfl,
    (State.retire_mem _ _).trans (hf.mem.trans (congrArg State.mem hs1 :)), ?_⟩
  rw [State.part_retire, State.part_mapPart, hpart]
end

theorem Part.regionBad_iff (p : Part) (idx : Nat) (l : List Byte) : p.regionBad idx l = true ↔
    4096 ≤ idx ∨ (p.newRegion idx l).2 = false ∨ p.regionOk idx (p.newRegion idx l).1 = false ∨ p.rewrites.any (fun x => x.idx = idx) = true := by
  unfold Part.regionBad
  simp only [Bool.or_eq_true, Bool.not_eq_true', decide_eq_true_eq, or_assoc]

/-- REGION_DRAIN_SIGNAL once nothing of the old version is under way and every line can go (R102). -/
theorem regionDrainSignal_ends {s : State} {part idx : Nat} {w : Rewrite} (hw : (s.part part).rewrites.find? (fun x => x.idx = idx) = some w)
    (hreqs : s.reqs.any (fun r => r.part = part && w.old.holds r.va && r.ver = w.old.ver && r.back.isNone && r.op ≠ .fetch) = false)
    (hgo : (s.llc.filter (w.line part)).all s.llcCanGo = true) :
    exec (.regionDrainSignal part idx) s = .next ((((s.llc.filter (w.line part)).foldl State.llcEvict s).mapPart part (fun p =>
      { p with rewrites := p.rewrites.filter (fun x => x.idx ≠ idx) })).resolve0 w.fut Status.done 0) := by
  refine event_eq ?_
  unfold evRegionDrainSignal
  rw [hw]
  dsimp only
  rw [if_neg (Bool.eq_false_iff.mp hreqs), if_neg (by rw [hgo]; exact Bool.false_ne_true)]

/-- Settles O44: a change takes its future and joins its queue or its table, a core's application changes its entry alone, and a drained rewrite
ends. -/
theorem filtersAndRegions : Obligations.FiltersAndRegions := by
  refine ⟨fun s is h d a b x0 idx hr ha hb => ⟨fun h0 => ?_, fun h0 hov hroom => ?_, fun h0 hov hroom => ?_⟩,
    fun s is h d idx hr hroom => ⟨fun hn => ?_, fun hn => ?_⟩, fun s core r hq hfree => ?_,
    fun s core r f hq he hf hwc => remapFilterApply_drains hq he hf hwc, fun s s1 is h d a b l hr hq hrec hroom => ⟨fun hbad => ?_, fun hbad => ?_⟩,
    fun s part idx w hw hreqs hgo => regionDrainSignal_ends hw hreqs hgo⟩
  · refine (exec_yMapFilter h d a b x0 idx s).trans (issue_error hr ?_)
    rw [require_bind, if_pos (by simp [ha, hb]), require_bind, if_neg (by simp [h0])]
  · refine priv_atOnce (sc := 3) (exec_yMapFilter h d a b x0 idx s) hr hroom ?_
    rw [require_bind, if_pos (by simp [ha, hb]), require_bind, if_pos (decide_eq_true h0)]
    exact if_pos hov
  · refine sendFilter_takes (exec_yMapFilter h d a b x0 idx s) hr hroom ?_
    rw [require_bind, if_pos (by simp [ha, hb]), require_bind, if_pos (decide_eq_true h0)]
    exact if_neg (Bool.eq_false_iff.mp hov)
  · exact priv_atOnce (exec_yUnmapFilter h d idx s) hr hroom (if_pos (by rw [hn]; rfl))
  · exact sendFilter_takes (exec_yUnmapFilter h d idx s) hr hroom (if_neg (by simpa using hn))
  · obtain ⟨hwc, hbusy⟩ := State.filterFree hfree
    obtain ⟨t, hx, hcores, hmem⟩ := remapFilterApply_applies hq hwc hbusy
    have hfind (j : Nat) : (t.core core).filters.find j = if j = r.idx then r.entry else (s.core core).filters.find j := by
      rw [State.core_congr hcores, ← FilterReq.find_applied]
      unfold State.applyFilter
      rw [State.core_mapCore, if_pos rfl]
    exact ⟨t, hx, (hfind _).trans (if_pos rfl), fun j hj => (hfind j).trans (if_neg hj), hmem⟩
  · exact yRegn_busy hr hq hrec hroom ((Part.regionBad_iff _ _ _).mpr hbad)
  · obtain ⟨t, k, hx, ht, hmem, hpart⟩ := yRegn_takes hr hq hrec hroom
      (Bool.eq_false_iff.mpr fun h => hbad ((Part.regionBad_iff _ _ _).mp h))
    refine ⟨t, k, hx, ht, hmem, ?_, fun j hj => ?_, (congrArg Part.rewrites hpart :)⟩
    · rw [hpart]
      exact AMap.find_put_same _ _ _
    · rw [hpart]
      exact AMap.find_put_ne _ _ _ _ hj

end Sys2Proof.Machine

/-! SUPPORT. Page tables and translation's invalidation (R96, R97, R103 to R105). -/

namespace Sys2Proof.Machine

/-! ## Futures, after a change that keeps the quads' entries -/

/-- What `Taken` says holds before a change that keeps the quad's entries and numbers, and the contexts. -/
theorem Taken.of_quad {s v t : State} {is : Iss} {d : RegNo} {kind k : Nat} (h : Taken v t is d kind k)
    (hf : (v.quad (quadOf is.a)).futs = (s.quad (quadOf is.a)).futs) (hs : (v.quad (quadOf is.a)).seq = (s.quad (quadOf is.a)).seq)
    (hc : v.ctxs = s.ctxs) : Taken s t is d kind k := by
  obtain ⟨hfree, hbound, f, c, hfind, hseq, hkind, hsites, hseq', ⟨hctx, hrec, hrecs, hothers⟩, hrest⟩ := h
  exact ⟨hf ▸ hfree, hbound, f, c, hfind, hs ▸ hseq, hkind, hsites, hs ▸ hseq',
    ⟨hctx, hrec, hrecs, fun b hb => (hothers b hb).trans (State.ctx?_congr hc b)⟩, hrest⟩

theorem AtOnce.of_quad {s v t : State} {is : Iss} {d : RegNo} {kind st code : Nat} (h : AtOnce v t is d kind st code)
    (hs : (v.quad (quadOf is.a)).seq = (s.quad (quadOf is.a)).seq) (hc : v.ctxs = s.ctxs) : AtOnce s t is d kind st code := by
  obtain ⟨hseq, c, ⟨hctx, hrec, hrecs, hothers⟩, hsget, hrest⟩ := h
  exact ⟨hs ▸ hseq, c, ⟨hctx, hrec, hrecs, fun b hb => (hothers b hb).trans (State.ctx?_congr hc b)⟩, hs ▸ hsget, hrest⟩

/-- What sites that are registers do leaves all but the contexts. -/
theorem foldl_regs_rest {l : List Site} {g : State → Site → State} (hl : ∀ x ∈ l, ∃ a r, x = .reg a r)
    (hg : ∀ a r u, ∃ m, g u (.reg a r) = State.mapCtx u a m) (u : State) : (l.foldl g u).rest = u.rest := by
  induction l generalizing u with
  | nil => rfl
  | cons x l ih =>
    obtain ⟨a, r, rfl⟩ := hl x (by simp)
    obtain ⟨m, hm⟩ := hg a r u
    rw [List.foldl_cons, ih (fun y hy => hl y (by simp [hy])), hm, State.mapCtx_rest]

/-- The end of an entry whose sites are registers sends no request. -/
theorem State.resolve_regs {s : State} {q k : Nat} {f : Fut} (hf : (s.quad q).futs.find k = some f)
    (hsites : ∀ x ∈ f.sites, ∃ a r, x = .reg a r) (hacks : f.acks = []) (status code : Nat) (flags : BitVec 5) (stale : Bool) :
    (s.resolve (some (q, k)) status code flags stale).unsaved = s.unsaved := by
  unfold State.resolve
  dsimp only
  rw [hf]
  dsimp only
  rw [hacks]
  generalize hu : List.foldl _ s f.sites = u
  have hrest : u.rest = s.rest := by
    rw [← hu]
    exact foldl_regs_rest hsites (fun a r u => ⟨fun c => c.resolveSite r f.seq q k (resolvedHandle f.seq q f.kind status code) flags stale, rfl⟩) s
  exact congrArg (fun x : State => { x with saved := [] }) hrest

/-- With room a future that ends at once is taken and ends, and no request leaves. -/
theorem State.instantFut_total {s : State} {is : Iss} (d : RegNo) (kind sc status code : Nat) (hroom : s.futRoom is) :
    ∃ t, s.instantFut is d kind sc status code = .ok t ∧ t.unsaved = s.unsaved := by
  obtain ⟨hec, k, hk⟩ := State.futRoom_iff.mp hroom
  have htake : ∃ u, s.takeFut is d kind sc 0 = .ok (u, quadOf is.a, k) ∧ u.rest = s.rest ∧
      (u.quad (quadOf is.a)).futs.find k = some (newFut s is d kind sc 0) := by
    unfold State.takeFut
    rw [Iss.room_bind (c := .ec) hec]
    dsimp only
    rw [hk]
    refine ⟨_, rfl, (State.mapCtx_rest _ _ _).trans ?_, ?_⟩
    · unfold State.clearTag
      split
      · rfl
      · split
        · rfl
        · exact State.dropSite_rest _ _ _ _
    · rw [State.quad_congr (State.mapCtx_quads _ _ _), State.quad_mapQuad]
      exact AMap.find_put_same _ _ _
  obtain ⟨u, hu, hrest, hfind⟩ := htake
  refine ⟨u.resolve0 (some (quadOf is.a, k)) status code, ?_, ?_⟩
  · unfold State.instantFut
    rw [hu]
    rfl
  · refine (State.resolve_regs hfind (fun x hx => ?_) rfl _ _ _ _).trans (congrArg (fun x : State => { x with saved := [] }) hrest)
    unfold newFut at hx
    dsimp only at hx
    split at hx
    · cases hx
    · exact ⟨_, _, List.mem_singleton.mp hx⟩

/-! ## The end of episodes -/

/-- A quad's copies and tasks that some episodes let go. -/
def Quad.letGo (x : Quad) (es : List Episode) (part : Nat) (code : Option Nat) : Quad :=
  { x with copies := x.copies.map (fun c => c.letGo es part code), tasks := x.tasks.map (fun t => t.letGo es part code) }

/-- A request that they let go. -/
def Req.letGo (r : Req) (es : List Episode) : Req := if heldBy es r.part r.held then { r with held := none } else r

theorem Req.letGo_held (r : Req) (es : List Episode) : heldBy es (r.letGo es).part (r.letGo es).held = false := by
  unfold Req.letGo
  split
  · rfl
  · next h => exact Bool.eq_false_iff.mpr h

theorem State.endEpisodes_eq (s : State) (es : List Episode) : s.endEpisodes es none =
    { s with episodes := s.episodes.filter (fun e => !es.contains e), reqs := s.reqs.map (·.letGo es)
             quads := s.quads.map (fun e => (e.1, e.2.letGo es (s.partOf (e.1 / 16)) none))
             saved := s.saved.map (fun v => { v with
               copies := v.copies.map (fun e => (e.1, e.2.letGo es (s.partOf (e.1 / 16)) none))
               tasks := v.tasks.map (fun e => (e.1, e.2.letGo es (s.partOf (e.1 / 16)) none)) }) } := rfl

section
variable (s : State) (es : List Episode)

theorem State.quad_endEpisodes (q : Nat) : (s.endEpisodes es none).quad q = (s.quad q).letGo es (s.partOf (q / 16)) none := by
  rw [State.endEpisodes_eq]
  unfold State.quad AMap.get
  rw [AMap.find_map_snd s.quads (fun k x => x.letGo es (s.partOf (k / 16)) none)]
  cases s.quads.find q <;> rfl

theorem State.endEpisodes_futRoom {is : Iss} (h : s.futRoom is) : (s.endEpisodes es none).futRoom is := by
  unfold State.futRoom
  rw [State.quad_endEpisodes]
  exact h

theorem State.endEpisodes_reached {pm : Perm} {h : Hdr} {len : Nat} {us : Uses} {is : Iss} (hr : s.ready pm h len us = some is) :
    (s.endEpisodes es none).ctx? is.a = some is.c := State.ready_ctx hr
end

/-- An instruction that ends episodes, and whose future ends at once. -/
theorem endEpisodes_atOnce {s v : State} {pm : Perm} {h : Hdr} {len : Nat} {us : Uses} {is : Iss} {i : Instr} {d : RegNo} {es : List Episode}
    {body : Iss → State → Res State} {kind sc status code : Nat} (hx : exec i s = issue pm h len us s body) (hr : s.ready pm h len us = some is)
    (hroom : s.futRoom is) (hq : v.quads = s.quads) (hc : v.ctxs = s.ctxs)
    (hb : body is s = (v.endEpisodes es none).instantFut is d kind sc status code) :
    ∃ t, exec i s = .next t ∧ AtOnce s t is d kind status code ∧ t.mem = v.mem ∧
      t.episodes = v.episodes.filter (fun e => !es.contains e) ∧ t.reqs = v.reqs.map (·.letGo es) := by
  have hctx : (v.endEpisodes es none).ctx? is.a = some is.c := (State.ctx?_congr hc is.a).trans (State.ready_ctx hr)
  have hroom' : (v.endEpisodes es none).futRoom is := v.endEpisodes_futRoom es ((State.futRoom_congr hq).mpr hroom)
  obtain ⟨t, c', ht, hf⟩ := State.instantFut_ok d kind sc status code hctx (State.ready_free hr).1 (State.ready_free hr).2 hroom'
  have hat := atOnce_of_futAtOnce hr (s1 := v.endEpisodes es none)
    ⟨hctx, Ctx.Alike.refl _, fun b _ => State.ctx?_congr hc b⟩ rfl rfl hf
  refine ⟨t.retire is, hx.trans (issue_ready hr (hb.trans ht)), hat.of_quad ?_ hc, (State.retire_mem _ _).trans (congrArg State.mem hf.rest :), ?_, ?_⟩
  · rw [State.quad_endEpisodes, State.quad_congr hq]
    rfl
  · exact (congrArg State.episodes (State.retire_rest t is) :).trans (congrArg State.episodes hf.rest :)
  · exact (congrArg State.reqs (State.retire_rest t is) :).trans (congrArg State.reqs hf.rest :)

/-! ## y.map -/

/-- log2 of the bytes that an address of a SIZE is a multiple of. -/
def pageShift (sz : Nat) : Nat := if sz = 15 then 12 else pageBits sz
/-- Where the walk of an address of the partition ends. -/
def State.reachOf (s : State) (part va : Nat) : Reach := Machine.reach (s.part part) s.mem va levels 0 (s.part part).ptbase.toNat none
/-- The table of a page is not there. -/
def State.mapMissing (s : State) (part va sz : Nat) : Bool :=
  sz ≠ 15 && (s.reachOf part va).level < levelOf sz && !ownValid (s.part part) s.mem (s.reachOf part va).level (s.reachOf part va).base va
/-- An entry of the run is valid, or the frame is not one that the page may stand on. -/
def State.mapBusy (s : State) (part va pa sz : Nat) : Bool :=
  (validRun (s.part part) s.mem (s.reachOf part va).level (s.reachOf part va).base va (if sz = 15 then 1 else replicas sz)).any id ||
    !(if sz = 15 then (s.part part).frameOk pa else s.frameHome part va (2 ^ pageShift sz) pa)
/-- Memory with an entry written at some addresses. -/
def Memory.writeRun (m : Memory) (l : List Nat) (e : Nat) : Memory := l.foldl (fun m x => m.write x (leBytes 8 e)) m
theorem State.mapMissing_iff (s : State) (part va sz : Nat) : s.mapMissing part va sz = true ↔ sz ≠ 15 ∧
    (s.reachOf part va).level < levelOf sz ∧ ownValid (s.part part) s.mem (s.reachOf part va).level (s.reachOf part va).base va = false := by
  simp [State.mapMissing, and_assoc]

theorem State.mapBusy_iff (s : State) (part va pa sz : Nat) : s.mapBusy part va pa sz = true ↔
    (validRun (s.part part) s.mem (s.reachOf part va).level (s.reachOf part va).base va (if sz = 15 then 1 else replicas sz)).any id = true ∨
      ¬ (if sz = 15 then (s.part part).frameOk pa = true else s.frameHome part va (2 ^ pageShift sz) pa = true) := by
  unfold State.mapBusy
  rw [Bool.or_eq_true, Bool.not_eq_true', ← Bool.not_eq_true]
  refine or_congr Iff.rfl (not_congr ?_)
  split <;> exact Iff.rfl

/-- The entries written. -/
def State.mapWrite (s : State) (part va sz e : Nat) : State :=
  { s with mem := s.mem.writeRun (entryRun (s.reachOf part va).level (s.reachOf part va).base va (if sz = 15 then 1 else replicas sz)) e }
/-- log2 of what an entry of the SIZE spans at a level. -/
def mapSpan (level sz : Nat) : Nat := if sz = 15 then spanBits level else pageShift sz
/-- The episodes that it ends. -/
def State.mapEpisodes (s : State) (part va sz : Nat) : List Episode :=
  s.covered part (va - va % 2 ^ mapSpan (s.reachOf part va).level sz)
    (va - va % 2 ^ mapSpan (s.reachOf part va).level sz + 2 ^ mapSpan (s.reachOf part va).level sz)

/-- What y.map does after its checks of SIZE and addresses (R103 to R105). -/
def Iss.mapPage (is : Iss) (s : State) (d : RegNo) (part va pa sz e : Nat) : Res State :=
  if s.mapMissing part va sz then s.instantFut is d Kind.priv 3 Status.empty 0
  else require (sizeAt (s.reachOf part va).level sz) (is.fault0 Code.iil) >>= fun _ =>
    if s.mapBusy part va pa sz then s.instantFut is d Kind.priv 3 Status.busy 0
    else ((s.mapWrite part va sz e).endEpisodes (s.mapEpisodes part va sz) none).mapFut is d part (s.heldReqs (s.mapEpisodes part va sz))

/-- The entry that it writes. -/
def mapEntry (sz pa : Nat) (w als : Bool) : Nat := 2 ^ 60 * sz + pa / 4096 * 4096 + 4 * b2n als + 2 * b2n w + 1

theorem mapEntry_eq (sz pa : Nat) (w als : Bool) :
    mapEntry sz pa w als = 2 ^ 60 * sz + pa / 4096 * 4096 + (if als then 4 else 0) + (if w then 2 else 0) + 1 := by
  unfold mapEntry
  cases w <;> cases als <;> simp only [b2n] <;> rfl

theorem exec_yMap (h : Hdr) (d a b : RegNo) (size : BitVec 4) (w als : Bool) (s : State) :
    exec (.yMap h d a b size w als) s = issue .priv h 16 { rd := [.s a, .s b], wr := [.s d] } s (fun is s =>
      require (size.toNat < 7 || size.toNat = 15) (is.fault0 Code.iil) >>= fun _ =>
      require (vaOf (is.s a) % 2 ^ pageShift size.toNat = 0 && (is.s b).toNat % 2 ^ 53 % 2 ^ pageShift size.toNat = 0)
        (is.fault Code.align (vaOf (is.s a)) is.p) >>= fun _ =>
      is.mapPage s d (s.agentPart is.a) (vaOf (is.s a)) ((is.s b).toNat % 2 ^ 53) size.toNat
        (mapEntry size.toNat ((is.s b).toNat % 2 ^ 53) w als)) := rfl

theorem State.mapFut_eq (s : State) (is : Iss) (d : RegNo) (part : Nat) (l : List Nat) : s.mapFut is d part l =
    if l.isEmpty then s.instantFut is d Kind.priv 3 Status.done 0
    else ({ s with uid := s.uid + 1 } : State).takeFut is d Kind.priv 3 s.uid >>= fun x =>
      pure (x.1.mapPart part (fun p => { p with maps := p.maps ++ [{ id := s.uid, reqs := l, fut := some x.2 }] })) := rfl

section
variable {s : State} {is : Iss} {h : Hdr} {d a b : RegNo} {size : BitVec 4} {w als : Bool}
  (hr : s.ready .priv h 16 { rd := [.s a, .s b], wr := [.s d] } = some is)
include hr

theorem yMap_size (h7 : 7 ≤ size.toNat) (h15 : size.toNat ≠ 15) :
    exec (.yMap h d a b size w als) s = .next (s.except is (is.fault0 Code.iil)) := by
  refine (exec_yMap h d a b size w als s).trans (issue_error hr ?_)
  rw [require_bind, if_neg (by simpa [h15] using h7)]

variable (hs : size.toNat < 7 ∨ size.toNat = 15)
include hs

theorem yMap_align (hal : ¬ (vaOf (is.s a) % 2 ^ pageShift size.toNat = 0 ∧ (is.s b).toNat % 2 ^ 53 % 2 ^ pageShift size.toNat = 0)) :
    exec (.yMap h d a b size w als) s = .next (s.except is (is.fault Code.align (vaOf (is.s a)) is.p)) := by
  refine (exec_yMap h d a b size w als s).trans (issue_error hr ?_)
  rw [require_bind, if_pos (by simpa using hs), require_bind, if_neg (by simpa using hal)]

omit hr in
theorem yMap_body (hva : vaOf (is.s a) % 2 ^ pageShift size.toNat = 0) (hpa : (is.s b).toNat % 2 ^ 53 % 2 ^ pageShift size.toNat = 0) :
    ∃ body, exec (.yMap h d a b size w als) s = issue .priv h 16 { rd := [.s a, .s b], wr := [.s d] } s body ∧
      body is s = is.mapPage s d (s.agentPart is.a) (vaOf (is.s a)) ((is.s b).toNat % 2 ^ 53) size.toNat
        (mapEntry size.toNat ((is.s b).toNat % 2 ^ 53) w als) := by
  refine ⟨_, exec_yMap h d a b size w als s, ?_⟩
  have hal : (decide (vaOf (is.s a) % 2 ^ pageShift size.toNat = 0) &&
      decide ((is.s b).toNat % 2 ^ 53 % 2 ^ pageShift size.toNat = 0)) = true := by rw [hva, hpa]; rfl
  rw [require_bind, if_pos (by simpa using hs), require_bind, if_pos hal]
end

section
variable {s : State} {is : Iss} {h : Hdr} {d : RegNo} {us : Uses} {i : Instr} {body : Iss → State → Res State} {part va pa sz e : Nat}
  (hx : exec i s = issue .priv h 16 us s body) (hr : s.ready .priv h 16 us = some is) (hbody : body is s = is.mapPage s d part va pa sz e)
include hx hr hbody

theorem mapPage_empty (hm : s.mapMissing part va sz = true) (hroom : s.futRoom is) :
    ∃ t, exec i s = .next t ∧ AtOnce s t is d Kind.priv Status.empty 0 ∧ t.mem = s.mem := by
  obtain ⟨t, hx, hat, hmem, -⟩ := issue_atOnce hx hr hroom (hbody.trans (if_pos hm))
  exact ⟨t, hx, hat, hmem⟩

variable (hm : s.mapMissing part va sz = false)
include hm

theorem mapPage_level (hl : sizeAt (s.reachOf part va).level sz = false) : exec i s = .next (s.except is (is.fault0 Code.iil)) := by
  refine hx.trans (issue_error hr (hbody.trans ((if_neg (Bool.eq_false_iff.mp hm)).trans ?_)))
  rw [require_bind, hl]
  rfl

variable (hl : sizeAt (s.reachOf part va).level sz = true)
include hl

omit hx hr in
theorem mapPage_present : body is s =
    if s.mapBusy part va pa sz then s.instantFut is d Kind.priv 3 Status.busy 0
    else ((s.mapWrite part va sz e).endEpisodes (s.mapEpisodes part va sz) none).mapFut is d part (s.heldReqs (s.mapEpisodes part va sz)) := by
  refine hbody.trans ((if_neg (Bool.eq_false_iff.mp hm)).trans ?_)
  rw [require_bind, if_pos hl]

theorem mapPage_busy (hb : s.mapBusy part va pa sz = true) (hroom : s.futRoom is) :
    ∃ t, exec i s = .next t ∧ AtOnce s t is d Kind.priv Status.busy 0 ∧ t.mem = s.mem := by
  obtain ⟨t, hx, hat, hmem, -⟩ := issue_atOnce hx hr hroom ((mapPage_present hbody hm hl).trans (if_pos hb))
  exact ⟨t, hx, hat, hmem⟩

variable (hb : s.mapBusy part va pa sz = false) (hroom : s.futRoom is)
include hb hroom

theorem mapPage_done (hes : s.heldReqs (s.mapEpisodes part va sz) = []) :
    ∃ t, exec i s = .next t ∧ AtOnce s t is d Kind.priv Status.done 0 ∧ t.mem = (s.mapWrite part va sz e).mem ∧
      t.episodes = s.episodes.filter (fun x => !(s.mapEpisodes part va sz).contains x) := by
  obtain ⟨t, hx, hat, hmem, hep, -⟩ := endEpisodes_atOnce (v := s.mapWrite part va sz e) (es := s.mapEpisodes part va sz) (d := d)
    (kind := Kind.priv) (sc := 3) (status := Status.done) (code := 0) hx hr hroom rfl rfl (by
      rw [mapPage_present hbody hm hl, hb, if_neg Bool.false_ne_true, State.mapFut_eq, hes]
      rfl)
  exact ⟨t, hx, hat, hmem, hep⟩

/-- The partition with a map that waits for the requests that it has let go. -/
def Part.addMap (p : Part) (id : Nat) (l : List Nat) (f : Nat × Nat) : Part := { p with maps := p.maps ++ [{ id := id, reqs := l, fut := some f }] }

theorem mapPage_takes (hes : s.heldReqs (s.mapEpisodes part va sz) ≠ []) :
    ∃ t k, exec i s = .next t ∧ t.mem = (s.mapWrite part va sz e).mem ∧
      t.episodes = s.episodes.filter (fun x => !(s.mapEpisodes part va sz).contains x) ∧
      Taken s t is d Kind.priv k ∧ t.part part = (s.part part).addMap s.uid (s.heldReqs (s.mapEpisodes part va sz)) (quadOf is.a, k) := by
  generalize hv : (s.mapWrite part va sz e).endEpisodes (s.mapEpisodes part va sz) none = v
  have hctx : v.ctx? is.a = some is.c := by rw [← hv]; exact State.ready_ctx hr
  have hroom' : v.futRoom is := by rw [← hv]; exact State.endEpisodes_futRoom _ _ hroom
  have huid : v.uid = s.uid := by rw [← hv]; rfl
  obtain ⟨hec, k, hk⟩ := State.futRoom_iff.mp hroom'
  obtain ⟨u, c', hu, hf⟩ := State.takeFut_ok (s := { v with uid := v.uid + 1 }) d Kind.priv 3 v.uid hctx hec hk
  have htaken := taken_of_futTaken (s1 := v) (s' := { v with uid := v.uid + 1 })
    (t := u.mapPart part (fun p => p.addMap v.uid (s.heldReqs (s.mapEpisodes part va sz)) (quadOf is.a, k)))
    hr ⟨hctx, Ctx.Alike.refl _, fun b _ => by rw [← hv]; rfl⟩ rfl rfl hf rfl rfl fun _ => rfl
  have hpart : u.part part = s.part part := (State.part_of_rest hf.rest _).trans (by rw [← hv]; rfl)
  refine ⟨_, k, hx.trans (issue_ready hr ?_), ?_, ?_, htaken.of_quad ?_ ?_ ?_, ?_⟩
  · rw [mapPage_present hbody hm hl, hb, if_neg Bool.false_ne_true, hv, State.mapFut_eq, if_neg (by simpa using hes), hu]
    rfl
  · rw [State.retire_mem]
    exact hf.mem.trans (by rw [← hv]; rfl)
  · refine (congrArg State.episodes (State.retire_rest _ _) :).trans ((congrArg State.episodes hf.rest :).trans ?_)
    rw [← hv]
    rfl
  · rw [← hv, State.quad_endEpisodes]
    rfl
  · rw [← hv, State.quad_endEpisodes]
    rfl
  · rw [← hv]
    rfl
  · rw [State.part_retire, State.part_mapPart, hpart, huid]
end

/-! ## y.unmap and y.xinv -/

/-- A change on its way to the translation caches. -/
def Part.addInval (p : Part) (id lo len : Nat) (f : Nat × Nat) : Part :=
  { p with invalQ := p.invalQ ++ [{ id := id, lo := lo, len := len, fut := some f }] }

theorem State.sendInval_eq (s : State) (is : Iss) (d : RegNo) (lo len : Nat) : s.sendInval is d lo len =
    (({ s with uid := s.uid + 1 } : State).takeFut is d Kind.priv 3 s.uid >>= fun x =>
      pure (x.1.mapPart (x.1.agentPart is.a) (fun p => p.addInval s.uid lo len x.2))) := rfl

/-- An instruction that writes memory and then sends a change. -/
theorem sendInval_takes {s : State} {is : Iss} {h : Hdr} {d : RegNo} {us : Uses} {i : Instr} {body : Iss → State → Res State} {m : Memory}
    {lo len : Nat} (hx : exec i s = issue .priv h 16 us s body) (hr : s.ready .priv h 16 us = some is) (hroom : s.futRoom is)
    (hb : body is s = ({ s with mem := m } : State).sendInval is d lo len) :
    ∃ t k, exec i s = .next t ∧ Taken s t is d Kind.priv k ∧ t.mem = m ∧
      (t.part (s.agentPart is.a)).invalQ = (s.part (s.agentPart is.a)).invalQ ++
        [{ id := s.uid, lo := lo, len := len, fut := some (quadOf is.a, k) }] := by
  obtain ⟨hec, k, hk⟩ := State.futRoom_iff.mp hroom
  obtain ⟨u, c', hu, hf⟩ := State.takeFut_ok (s := { s with mem := m, uid := s.uid + 1 }) d Kind.priv 3 s.uid (State.ready_ctx hr) hec hk
  have hap : u.agentPart is.a = s.agentPart is.a := State.agentPart_of_rest hf.rest _
  have hpart : u.part (s.agentPart is.a) = s.part (s.agentPart is.a) := State.part_of_rest hf.rest _
  have htaken := taken_of_futTaken (s1 := s) (s' := { s with mem := m, uid := s.uid + 1 })
    (t := u.mapPart (s.agentPart is.a) (fun p => p.addInval s.uid lo len (quadOf is.a, k))) hr (.refl hr) rfl rfl hf rfl rfl fun _ => rfl
  refine ⟨_, k, hx.trans (issue_ready hr ?_), htaken, (State.retire_mem _ _).trans hf.mem, ?_⟩
  · rw [hb, State.sendInval_eq]
    show (({ s with mem := m, uid := s.uid + 1 } : State).takeFut is d Kind.priv 3 s.uid >>= _) = _
    rw [hu, ← hap]
    rfl
  · rw [State.part_retire, State.part_mapPart, hpart]
    rfl

/-- The entries of a SIZE that map nothing. -/
def State.unmapNone (s : State) (part va sz : Nat) : Bool :=
  (s.reachOf part va).level ≤ levelOf sz && (!ownValid (s.part part) s.mem (s.reachOf part va).level (s.reachOf part va).base va ||
    ((s.reachOf part va).level = levelOf sz && entrySize (ownEntry s.mem (s.reachOf part va).level (s.reachOf part va).base va) ≠ sz))

theorem State.unmapNone_iff (s : State) (part va sz : Nat) : s.unmapNone part va sz = true ↔ (s.reachOf part va).level ≤ levelOf sz ∧
    (ownValid (s.part part) s.mem (s.reachOf part va).level (s.reachOf part va).base va = false ∨ ((s.reachOf part va).level = levelOf sz ∧
      entrySize (ownEntry s.mem (s.reachOf part va).level (s.reachOf part va).base va) ≠ sz)) := by
  simp [State.unmapNone]

/-- What y.unmap does after its checks of SIZE and address (R103 to R105). -/
def Iss.unmapPage (is : Iss) (s : State) (d : RegNo) (part va sz : Nat) : Res State :=
  if sz = 15 then
    match (s.reachOf part va).last with
    | none => s.instantFut is d Kind.priv 3 Status.empty 0
    | some x => ({ s with mem := s.mem.write x (leBytes 8 0) } : State).sendInval is d (va - va % 2 ^ spanBits ((s.reachOf part va).level - 1))
        (2 ^ spanBits ((s.reachOf part va).level - 1))
  else if s.unmapNone part va sz then s.instantFut is d Kind.priv 3 Status.empty 0
  else require (sizeAt (s.reachOf part va).level sz) (is.fault0 Code.iil) >>= fun _ =>
    ({ s with mem := s.mem.writeRun (entryRun (s.reachOf part va).level (s.reachOf part va).base va (replicas sz)) 0 } : State).sendInval is d va
      (2 ^ pageShift sz)

theorem exec_yUnmap (h : Hdr) (d a : RegNo) (size : BitVec 4) (s : State) :
    exec (.yUnmap h d a size) s = issue .priv h 16 { rd := [.s a], wr := [.s d] } s (fun is s =>
      require (size.toNat < 7 || size.toNat = 15) (is.fault0 Code.iil) >>= fun _ =>
      require (vaOf (is.s a) % 2 ^ pageShift size.toNat = 0) (is.fault Code.align (vaOf (is.s a)) is.p) >>= fun _ =>
      is.unmapPage s d (s.agentPart is.a) (vaOf (is.s a)) size.toNat) := rfl

section
variable {s : State} {is : Iss} {h : Hdr} {d a : RegNo} {size : BitVec 4} (hr : s.ready .priv h 16 { rd := [.s a], wr := [.s d] } = some is)
include hr

theorem yUnmap_size (h7 : 7 ≤ size.toNat) (h15 : size.toNat ≠ 15) :
    exec (.yUnmap h d a size) s = .next (s.except is (is.fault0 Code.iil)) := by
  refine (exec_yUnmap h d a size s).trans (issue_error hr ?_)
  rw [require_bind, if_neg (by simpa [h15] using h7)]

variable (hs : size.toNat < 7 ∨ size.toNat = 15)
include hs

theorem yUnmap_align (hal : vaOf (is.s a) % 2 ^ pageShift size.toNat ≠ 0) :
    exec (.yUnmap h d a size) s = .next (s.except is (is.fault Code.align (vaOf (is.s a)) is.p)) := by
  refine (exec_yUnmap h d a size s).trans (issue_error hr ?_)
  rw [require_bind, if_pos (by simpa using hs), require_bind, if_neg (by simpa using hal)]

omit hr in
theorem yUnmap_body (hva : vaOf (is.s a) % 2 ^ pageShift size.toNat = 0) :
    ∃ body, exec (.yUnmap h d a size) s = issue .priv h 16 { rd := [.s a], wr := [.s d] } s body ∧
      body is s = is.unmapPage s d (s.agentPart is.a) (vaOf (is.s a)) size.toNat := by
  refine ⟨_, exec_yUnmap h d a size s, ?_⟩
  rw [require_bind, if_pos (by simpa using hs), require_bind, if_pos (decide_eq_true hva)]
end

section
variable {s : State} {is : Iss} {h : Hdr} {d : RegNo} {us : Uses} {i : Instr} {body : Iss → State → Res State} {part va sz : Nat}
  (hx : exec i s = issue .priv h 16 us s body) (hr : s.ready .priv h 16 us = some is) (hbody : body is s = is.unmapPage s d part va sz)
include hx hr hbody

theorem unmapPage_empty (hn : (sz = 15 ∧ (s.reachOf part va).last = none) ∨ (sz ≠ 15 ∧ s.unmapNone part va sz = true)) (hroom : s.futRoom is) :
    ∃ t, exec i s = .next t ∧ AtOnce s t is d Kind.priv Status.empty 0 ∧ t.mem = s.mem := by
  have hb : body is s = s.instantFut is d Kind.priv 3 Status.empty 0 := by
    rw [hbody]
    unfold Iss.unmapPage
    rcases hn with ⟨rfl, hlast⟩ | ⟨hsz, hnone⟩
    · rw [if_pos rfl, hlast]
    · rw [if_neg hsz, if_pos hnone]
  obtain ⟨t, hx, hat, hmem, -⟩ := issue_atOnce hx hr hroom hb
  exact ⟨t, hx, hat, hmem⟩

omit hx hr in
theorem unmapPage_pointer {x : Nat} (hsz : sz = 15) (hlast : (s.reachOf part va).last = some x) :
    body is s = ({ s with mem := s.mem.write x (leBytes 8 0) } : State).sendInval is d (va - va % 2 ^ spanBits ((s.reachOf part va).level - 1))
      (2 ^ spanBits ((s.reachOf part va).level - 1)) := by
  rw [hbody]
  unfold Iss.unmapPage
  rw [if_pos hsz, hlast]

theorem unmapPage_level (hsz : sz ≠ 15) (hn : s.unmapNone part va sz = false) (hl : sizeAt (s.reachOf part va).level sz = false) :
    exec i s = .next (s.except is (is.fault0 Code.iil)) := by
  refine hx.trans (issue_error hr (hbody.trans ?_))
  unfold Iss.unmapPage
  rw [if_neg hsz, hn, if_neg Bool.false_ne_true, require_bind, hl]
  rfl

omit hx hr in
theorem unmapPage_leaf (hsz : sz ≠ 15) (hn : s.unmapNone part va sz = false) (hl : sizeAt (s.reachOf part va).level sz = true) :
    body is s = ({ s with mem := s.mem.writeRun (entryRun (s.reachOf part va).level (s.reachOf part va).base va (replicas sz)) 0 } :
      State).sendInval is d va (2 ^ pageShift sz) := by
  rw [hbody]
  unfold Iss.unmapPage
  rw [if_neg hsz, hn, if_neg Bool.false_ne_true, require_bind, if_pos hl]
end

/-- The code of a failure (R103). -/
def xinvCode (prot : Bool) : Nat := if prot then Code.prot else Code.xlate
/-- The episodes of y.xinv's span. -/
def State.xinvSpan (s : State) (is : Iss) (a b : RegNo) : List Episode :=
  s.covered (s.agentPart is.a) (vaOf (is.s a)) (vaOf (is.s a) + (is.s b).toNat)

theorem exec_yXinvInval (h : Hdr) (d a b : RegNo) (s : State) : exec (.yXinvInval h d a b) s =
    issue .priv h 16 { rd := [.s a, .s b], wr := [.s d] } s (fun is s => s.sendInval is d (vaOf (is.s a)) (is.s b).toNat) := rfl
theorem exec_yXinvReplay (h : Hdr) (d a b : RegNo) (s : State) : exec (.yXinvReplay h d a b) s =
    issue .priv h 16 { rd := [.s a, .s b], wr := [.s d] } s (fun is s =>
      (s.endEpisodes (s.xinvSpan is a b) none).instantFut is d Kind.priv 3 Status.done 0) := rfl
theorem exec_yXinvFail (h : Hdr) (d a b : RegNo) (prot : Bool) (s : State) : exec (.yXinvFail h d a b prot) s =
    issue .priv h 16 { rd := [.s a, .s b], wr := [.s d] } s (fun is s =>
      (s.endEpisodes (s.xinvSpan is a b) (some (xinvCode prot))).instantFut is d Kind.priv 3 Status.done 0) := rfl

/-! ## The invalidation -/

/-- A cached translation that a change meets. -/
def InvalReq.hits (r : InvalReq) (part : Nat) (t : TlbEnt) : Bool :=
  t.part == part && decide (t.va < r.lo + r.len) && decide (r.lo < t.va + 2 ^ pageBits t.size)
/-- An address that was translated under one of some entries, or lies in the change's span. -/
def InvalReq.under (r : InvalReq) (dropped : List TlbEnt) (va : Nat) : Bool :=
  (decide (r.lo ≤ va) && decide (va < r.lo + r.len)) || dropped.any (fun t => decide (t.va ≤ va) && decide (va < t.va + 2 ^ pageBits t.size))
/-- The machine without the translations that it meets. -/
def State.dropTlb (s : State) (part : Nat) (r : InvalReq) : State :=
  { s with dies := s.dies.map (fun e => (e.1, { e.2 with tlb := e.2.tlb.filter (fun t => !r.hits part t) })) }

theorem evTranslationCacheInvalidation_eq (part id : Nat) (s : State) : evTranslationCacheInvalidation part id s =
    match (s.part part).invalQ.find? (fun r => r.id = id) with
    | none => none
    | some r =>
      if s.reqs.any (fun x => x.part = part && x.back.isSome && r.under (s.dies.flatMap (fun e => e.2.tlb.filter (r.hits part))) x.va) then none
      else some (((s.dropTlb part r).mapPart part (fun p => { p with invalQ := p.invalQ.filter (fun x => x.id ≠ id) })).resolve0 r.fut Status.done 0) :=
  rfl

theorem translationCacheInvalidation_drops {s : State} {part : Nat} {r : InvalReq} (hq : (s.part part).invalQ.find? (fun x => x.id = r.id) = some r)
    (hreqs : s.reqs.any (fun x => x.part = part && x.back.isSome && r.under (s.dies.flatMap (fun e => e.2.tlb.filter (r.hits part))) x.va) = false) :
    ∃ t, exec (.translationCacheInvalidation part r.id) s = .next t ∧ t.mem = s.mem ∧ ∀ e ∈ t.dies, ∀ x ∈ e.2.tlb, r.hits part x = false := by
  have hev := evTranslationCacheInvalidation_eq part r.id s
  rw [hq] at hev
  have hx : exec (.translationCacheInvalidation part r.id) s = _ := event_eq (s := s) (hev.trans (if_neg (Bool.eq_false_iff.mp hreqs)))
  have hst := State.resolve0_still ((s.dropTlb part r).mapPart part (fun p => { p with invalQ := p.invalQ.filter (fun x => x.id ≠ r.id) }))
    r.fut Status.done 0
  generalize State.resolve0 _ r.fut Status.done 0 = t at hst hx
  have hdies : t.dies = (s.dropTlb part r).dies := (congrArg State.dies hst :)
  refine ⟨t, hx, (congrArg State.mem hst :), fun e he x hx => ?_⟩
  rw [hdies] at he
  obtain ⟨e', -, rfl⟩ := List.mem_map.mp he
  simpa using (List.mem_filter.mp hx).2

theorem InvalReq.under_false {r : InvalReq} {dropped : List TlbEnt} {va : Nat} (h : ¬ (r.lo ≤ va ∧ va < r.lo + r.len))
    (hd : ∀ t ∈ dropped, ¬ (t.va ≤ va ∧ va < t.va + 2 ^ pageBits t.size)) : r.under dropped va = false := by
  unfold InvalReq.under
  rw [Bool.or_eq_false_iff]
  exact ⟨by simpa using h, List.any_eq_false.mpr fun t ht => by simpa using hd t ht⟩

theorem InvalReq.hits_iff (r : InvalReq) (part : Nat) (t : TlbEnt) :
    r.hits part t = true ↔ t.part = part ∧ t.va < r.lo + r.len ∧ r.lo < t.va + 2 ^ pageBits t.size := by
  simp [InvalReq.hits, and_assoc]

/-- Settles O43: each form comes to its branch after the checks, and takes its future, resolves it, or faults there. -/
theorem pageTables : Obligations.PageTables := by
  refine ⟨fun s is h d a b size w als hr => ?_, fun s is h d a size hr => ?_, fun s is h d a b hr hroom => ⟨?_, ?_⟩,
    fun s is h d a b prot hr => ?_, fun s part r hq => ?_⟩
  · refine ⟨fun h7 h15 => yMap_size hr h7 h15, fun hs hal => yMap_align hr hs hal, fun hs hva hpa => ?_⟩
    obtain ⟨body, hx, hb⟩ := yMap_body (h := h) (d := d) (w := w) (als := als) hs hva hpa
    refine ⟨fun hm hroom => mapPage_empty hx hr hb ((State.mapMissing_iff _ _ _ _).mpr hm) hroom, fun hm hl => ?_, fun hm hl hbusy hroom => ?_,
      fun hm hl ht hh hroom => ⟨fun hes => ?_, fun hes => ?_⟩⟩
    all_goals have hm' := Bool.eq_false_iff.mpr fun h => hm ((State.mapMissing_iff _ _ _ _).mp h)
    · exact mapPage_level hx hr hb hm' hl
    · exact mapPage_busy hx hr hb hm' hl ((State.mapBusy_iff _ _ _ _ _).mpr hbusy) hroom
    · have hbusy := Bool.eq_false_iff.mpr fun h => ((State.mapBusy_iff _ _ _ _ _).mp h).elim (Bool.eq_false_iff.mp ht) (fun hn => hn hh)
      obtain ⟨t, hx, hat, hmem, hep⟩ := mapPage_done hx hr hb hm' hl hbusy hroom hes
      exact ⟨t, ⟨hx, hmem.trans (by rw [mapEntry_eq]; rfl), hep⟩, hat⟩
    · have hbusy := Bool.eq_false_iff.mpr fun h => ((State.mapBusy_iff _ _ _ _ _).mp h).elim (Bool.eq_false_iff.mp ht) (fun hn => hn hh)
      obtain ⟨t, k, hx, hmem, hep, htaken, hpart⟩ := mapPage_takes hx hr hb hm' hl hbusy hroom hes
      exact ⟨t, k, ⟨hx, hmem.trans (by rw [mapEntry_eq]; rfl), hep⟩, htaken, (congrArg Part.maps hpart :)⟩
  · refine ⟨fun h7 h15 => yUnmap_size hr h7 h15, fun hs hal => yUnmap_align hr hs hal, fun hn hva hroom => ?_, fun x hsz hva hlast hroom => ?_,
      fun hsz hva hn hl => ?_, fun hsz hva hn hl hroom => ?_⟩
    · obtain ⟨body, hx, hb⟩ := yUnmap_body (h := h) (d := d) (hn.elim (fun h => .inr h.1) (fun h => .inl h.1)) hva
      exact unmapPage_empty hx hr hb (hn.imp_right fun h => ⟨by omega, (State.unmapNone_iff _ _ _ _).mpr h.2⟩) hroom
    · obtain ⟨body, hx, hb⟩ := yUnmap_body (h := h) (d := d) (.inr hsz) hva
      exact sendInval_takes hx hr hroom (unmapPage_pointer hb hsz hlast)
    · obtain ⟨body, hx, hb⟩ := yUnmap_body (h := h) (d := d) (.inl hsz) hva
      exact unmapPage_level hx hr hb (by omega) (Bool.eq_false_iff.mpr fun h => hn ((State.unmapNone_iff _ _ _ _).mp h)) hl
    · obtain ⟨body, hx, hb⟩ := yUnmap_body (h := h) (d := d) (.inl hsz) hva
      exact sendInval_takes hx hr hroom
        (unmapPage_leaf hb (by omega) (Bool.eq_false_iff.mpr fun h => hn ((State.unmapNone_iff _ _ _ _).mp h)) hl)
  · exact sendInval_takes (exec_yXinvInval h d a b s) hr hroom rfl
  · obtain ⟨t, hx, hat, hmem, hep, hreqs⟩ := endEpisodes_atOnce (v := s) (exec_yXinvReplay h d a b s) hr hroom rfl rfl rfl
    refine ⟨t, hx, hat, hmem, hep, fun r hmem => ?_⟩
    rw [hreqs] at hmem
    obtain ⟨r', -, rfl⟩ := List.mem_map.mp hmem
    exact Req.letGo_held _ _
  · intro s1 hroom
    obtain ⟨s2, hok, hun⟩ := State.instantFut_total d Kind.priv 3 Status.done 0 hroom
    exact ⟨s2, hok, (congrArg State.episodes hun :), (congrArg State.reqs hun :), (exec_yXinvFail h d a b prot s).trans (issue_ready hr hok)⟩
  · intro hit hreqs
    have hfree : s.reqs.any (fun x => x.part = part && x.back.isSome &&
        r.under (s.dies.flatMap (fun e => e.2.tlb.filter (r.hits part))) x.va) = false := by
      refine List.any_eq_false.mpr fun x hx hb => ?_
      simp only [Bool.and_eq_true, decide_eq_true_eq] at hb
      obtain ⟨⟨hpart, hback⟩, hunder⟩ := hb
      obtain ⟨hlo, hdrop⟩ := hreqs x hx hpart hback
      refine Bool.eq_false_iff.mp (InvalReq.under_false hlo fun t ht => ?_) hunder
      obtain ⟨e, he, hte⟩ := List.mem_flatMap.mp ht
      obtain ⟨htlb, hhit⟩ := List.mem_filter.mp hte
      exact hdrop e he t htlb ((InvalReq.hits_iff _ _ _).mp hhit)
    obtain ⟨t, hx, hmem, hdies⟩ := translationCacheInvalidation_drops hq hfree
    exact ⟨t, hx, hmem, fun e he x hx hh => Bool.eq_false_iff.mp (hdies e he x hx) ((InvalReq.hits_iff _ _ _).mpr hh)⟩

end Sys2Proof.Machine

/-! SUPPORT. Results that return, records of stops, breakpoints and sleeps (R184, R199, R202, R204, R384, R389 to R399). -/

namespace Sys2Proof.Machine

/-! ## The context of an agent whose result returns -/

/-- A context without its registers and flags. -/
def Ctx.body (c : Ctx) : Ctx := { c with s := [], k := [], v := [], flags := [] }

theorem Ctx.regSet_body (c : Ctx) (r : Reg) (v : Nat) : (c.regSet r v).body = c.body := by
  cases r with
  | s n => simp only [Ctx.regSet, Ctx.sset]; split <;> rfl
  | k n => simp only [Ctx.regSet, Ctx.kset]; split <;> rfl
  | v n l => rfl

/-- The writes of a result, and its flags (R184, R199). -/
def Ctx.written (c : Ctx) (ws : List RegWrite) : Ctx := ws.foldl (fun c w => c.regSet w.reg (w.val.getD 0)) c

theorem Ctx.written_body (c : Ctx) (ws : List RegWrite) : (c.written ws).body = c.body :=
  foldl_get_eq Ctx.body _ ws c fun c _ _ => Ctx.regSet_body c _ _
theorem Ctx.raiseAll_body (c : Ctx) (fl : List (Nat × BitVec 5)) : (c.raiseAll fl).body = c.body :=
  foldl_get_eq Ctx.body _ fl c fun _ _ _ => rfl

theorem Ctx.written_sget {c : Ctx} {ws : List RegWrite} {n : Nat} (h : ∀ w ∈ ws, w.reg ≠ .s n) : (c.written ws).sget n = c.sget n := by
  refine foldl_get_eq (fun c => c.sget n) _ ws c fun c w hw => ?_
  cases hr : w.reg with
  | s m => exact (Ctx.sget_sset _ _ _ _).trans (if_neg fun hm => h w hw (by rw [hr, hm.1]))
  | k m => exact Ctx.sget_congr (by unfold Ctx.regSet Ctx.kset; dsimp only; split <;> rfl) n
  | v m l => rfl

theorem Ctx.written_kget {c : Ctx} {ws : List RegWrite} {n : Nat} (h : ∀ w ∈ ws, w.reg ≠ .k n) : (c.written ws).kget n = c.kget n := by
  refine foldl_get_eq (fun c => c.kget n) _ ws c fun c w hw => ?_
  cases hr : w.reg with
  | s m => exact Ctx.kget_congr (by unfold Ctx.regSet Ctx.sset; dsimp only; split <;> rfl) n
  | k m => exact (Ctx.kget_kset _ _ _ _).trans (if_neg fun hm => h w hw (by rw [hr, hm.1]))
  | v m l => rfl

theorem Ctx.written_vget {c : Ctx} {ws : List RegWrite} {n l : Nat} (h : ∀ w ∈ ws, ∀ m j, w.reg = .v m j → 64 * m + j ≠ 64 * n + l) :
    (c.written ws).vget n l = c.vget n l := by
  refine foldl_get_eq (fun c => c.vget n l) _ ws c fun c w hw => ?_
  cases hr : w.reg with
  | s m => exact Ctx.vget_congr (by unfold Ctx.regSet Ctx.sset; dsimp only; split <;> rfl) n l
  | k m => exact Ctx.vget_congr (by unfold Ctx.regSet Ctx.kset; dsimp only; split <;> rfl) n l
  | v m j => exact (AMap.get_set _ _ _ _ _).trans (if_neg fun hm => h w hw m j hr hm.symm)

theorem Ctx.written_flags (c : Ctx) (ws : List RegWrite) : (c.written ws).flags = c.flags := by
  refine foldl_get_eq Ctx.flags _ ws c fun c w _ => ?_
  cases w.reg with
  | s m => unfold Ctx.regSet Ctx.sset; dsimp only; split <;> rfl
  | k m => unfold Ctx.regSet Ctx.kset; dsimp only; split <;> rfl
  | v m l => rfl

/-- The context that a result has returned to. -/
def Ctx.returned (c : Ctx) (p : Pend) : Ctx :=
  let c1 := (c.written p.writes).raiseAll p.flags
  let c2 : Ctx := { c1 with rope := p.rope.getD c1.rope }
  { c2.setCtr p.ctr (c2.ctr p.ctr - 1) with pend := c2.pend.filter (fun q => q.id ≠ p.id) }

/-- What of it the registers do not hold. -/
def Ctx.closed (c : Ctx) (p : Pend) : Ctx :=
  { { c with rope := p.rope.getD c.rope }.setCtr p.ctr (c.ctr p.ctr - 1) with pend := c.pend.filter (fun q => q.id ≠ p.id) }

section
variable (c : Ctx) (p : Pend)

theorem Ctx.setCtr_ctr (k : Ctr) (n : Nat) (h : k = .none → n = 0) : (c.setCtr k n).ctr k = n := by
  cases k with
  | none => exact (h rfl).symm
  | ldc | stc | xc | ec => rfl

theorem Ctx.returned_body : (c.returned p).body = (c.closed p).body := by
  have hb : ((c.written p.writes).raiseAll p.flags).body = c.body := (Ctx.raiseAll_body _ _).trans (Ctx.written_body _ _)
  unfold Ctx.returned
  generalize (c.written p.writes).raiseAll p.flags = c1 at hb
  have hset (x y : Ctx) (h : x.body = y.body) : (x.closed p).body = (y.closed p).body := by
    have h0 : (x.closed p).body = (x.body.closed p).body := by unfold Ctx.closed; cases p.ctr <;> rfl
    have h1 : (y.closed p).body = (y.body.closed p).body := by unfold Ctx.closed; cases p.ctr <;> rfl
    rw [h0, h1, h]
  exact (by unfold Ctx.closed; cases p.ctr <;> rfl : _ = (c1.closed p).body).trans (hset _ _ hb)

theorem Ctx.setCtr_regs (k : Ctr) (n : Nat) : (c.setCtr k n).s = c.s ∧ (c.setCtr k n).k = c.k ∧ (c.setCtr k n).v = c.v ∧
    (c.setCtr k n).flags = c.flags := by cases k <;> exact ⟨rfl, rfl, rfl, rfl⟩

theorem Ctx.returned_regs : (c.returned p).s = (c.written p.writes).s ∧ (c.returned p).k = (c.written p.writes).k ∧
    (c.returned p).v = (c.written p.writes).v ∧ (c.returned p).flags = ((c.written p.writes).raiseAll p.flags).flags := by
  obtain ⟨hs, hk, hv, hf⟩ := Ctx.setCtr_regs { (c.written p.writes).raiseAll p.flags with
    rope := p.rope.getD ((c.written p.writes).raiseAll p.flags).rope } p.ctr (((c.written p.writes).raiseAll p.flags).ctr p.ctr - 1)
  exact ⟨hs.trans (Ctx.raiseAll_s _ _), hk.trans (Ctx.raiseAll_k _ _), hv.trans (Ctx.raiseAll_v _ _), hf⟩

theorem Ctx.closed_ctr : (c.closed p).ctr p.ctr = c.ctr p.ctr - 1 := by
  refine (?_ : _ = ({ c with rope := p.rope.getD c.rope }.setCtr p.ctr (c.ctr p.ctr - 1)).ctr p.ctr).trans
    (Ctx.setCtr_ctr _ _ _ fun h => by rw [h]; rfl)
  unfold Ctx.closed
  cases p.ctr <;> rfl

theorem Ctx.closed_split : (c.closed p).split = c.split := by unfold Ctx.closed; cases p.ctr <;> rfl
theorem Ctx.closed_utact : (c.closed p).utact = c.utact := by unfold Ctx.closed; cases p.ctr <;> rfl
theorem Ctx.closed_utvec : (c.closed p).utvec = c.utvec := by unfold Ctx.closed; cases p.ctr <;> rfl
theorem Ctx.closed_rope : (c.closed p).rope = p.rope.getD c.rope := by unfold Ctx.closed; cases p.ctr <;> rfl

theorem Ctx.returned_ctr : (c.returned p).ctr p.ctr = c.ctr p.ctr - 1 := by
  have h (x y : Ctx) (hb : x.body = y.body) (k : Ctr) : x.ctr k = y.ctr k := by
    have h0 : x.ctr k = x.body.ctr k := by cases k <;> rfl
    have h1 : y.ctr k = y.body.ctr k := by cases k <;> rfl
    rw [h0, h1, hb]
  rw [h _ _ (Ctx.returned_body c p), Ctx.closed_ctr]

theorem Ctx.returned_pend : (c.returned p).pend = c.pend.filter (fun q => q.id ≠ p.id) := (congrArg Ctx.pend (Ctx.returned_body c p) :)
theorem Ctx.returned_split : (c.returned p).split = c.split := (congrArg Ctx.split (Ctx.returned_body c p) :).trans (Ctx.closed_split c p)
theorem Ctx.returned_utact : (c.returned p).utact = c.utact := (congrArg Ctx.utact (Ctx.returned_body c p) :).trans (Ctx.closed_utact c p)
theorem Ctx.returned_utvec : (c.returned p).utvec = c.utvec := (congrArg Ctx.utvec (Ctx.returned_body c p) :).trans (Ctx.closed_utvec c p)
theorem Ctx.returned_rope : (c.returned p).rope = p.rope.getD c.rope :=
  (congrArg Ctx.rope (Ctx.returned_body c p) :).trans (Ctx.closed_rope c p)
end

/-! ## The return -/

/-- The machine once the result has returned, before a trap of its flags. -/
def State.giveBack (s : State) (a : Agent) (c : Ctx) (p : Pend) : State := (s.setCtx a (c.returned p)).putTile c.team p

section
variable {s : State} {a : Agent} {id : Nat} {c : Ctx} {p : Pend} (hc : s.ctx? a = some c) (hp : c.pend.find? (fun p => p.id = id) = some p)
include hc hp

omit hc in
theorem Pend.id_of_find : p.id = id := by simpa using List.find?_some hp

theorem resultReturn_gives (hg : c.gone = false) (hmay : s.mayReturn a p = true) :
    exec (.resultReturn a id) s = .next ((match p.acq with | some sc => (s.giveBack a c p).acquire a sc.toNat | none => s.giveBack a c p).trapOf
      a c.fpen p) := by
  refine event_eq (s := s) ?_
  unfold evResultReturn
  simp only [hc, hp, hg, hmay, Bool.not_true, Bool.false_eq_true, if_false]
  rw [← Pend.id_of_find hp]
  rfl

omit hc hp in
theorem State.trapOf_none {u : State} {fpen : BitVec 5} (h : p.trap = none ∨ (enabled fpen p.flags).1 = 0) : u.trapOf a fpen p = u := by
  unfold State.trapOf
  cases ht : p.trap with
  | none => rfl
  | some ti => exact if_pos (h.resolve_left (by simp [ht]))

omit hc hp in
theorem State.trapOf_some {u : State} {fpen : BitVec 5} {ti : TrapInfo} (ht : p.trap = some ti) (h : (enabled fpen p.flags).1 ≠ 0) :
    u.trapOf a fpen p = u.userTrap a ti.frag p.pc (p.pc + BitVec.ofNat 64 ti.len) (enabled fpen p.flags).1 (enabled fpen p.flags).2
      (BitVec.ofNat 8 ti.d) false := by
  unfold State.trapOf
  rw [ht]
  exact if_neg h
end

section
variable {s : State} {a : Agent} {c : Ctx} {p : Pend}

theorem State.putTile_none (u : State) (team : Nat) (h : p.tile = none) : u.putTile team p = u := by
  unfold State.putTile
  rw [h]

/-- A team's tiles with what a load has brought (R235). -/
def Team.fill (t : Team) (n : Nat) (m : AMap Byte) : Team :=
  { t with tiles := m.foldl (fun (w : AMap Byte) (e : Nat × Byte) => AMap.set 0 w (32768 * n + e.1) e.2) t.tiles }

theorem State.putTile_teams {u : State} {team n : Nat} {m : AMap Byte} {tm : Team} (h : p.tile = some (n, m)) (ht : u.teams.find team = some tm) :
    (u.putTile team p).teams.find team = some (tm.fill n m) := by
  unfold State.putTile
  rw [h]
  exact State.find_mapTeam _ ht

theorem State.putTile_ctx (u : State) (team : Nat) (b : Agent) : (u.putTile team p).ctx? b = u.ctx? b := by
  unfold State.putTile
  split
  · exact State.ctx?_mapTeam _ _ _ _
  · rfl

theorem State.putTile_mem (u : State) (team : Nat) : (u.putTile team p).mem = u.mem := by
  unfold State.putTile
  split
  · exact State.mapTeam_mem _ _ _
  · rfl

theorem State.giveBack_ctx : (s.giveBack a c p).ctx? a = some (c.returned p) := (State.putTile_ctx _ _ _).trans (State.ctx?_setCtx_same _ _ _)
theorem State.giveBack_ne {b : Agent} (hb : ctxKey b ≠ ctxKey a) : (s.giveBack a c p).ctx? b = s.ctx? b :=
  (State.putTile_ctx _ _ _).trans (State.ctx?_setCtx_ne _ _ _ _ hb)
theorem State.giveBack_mem : (s.giveBack a c p).mem = s.mem := State.putTile_mem _ _
end

theorem Ctx.trapped_eq {c : Ctx} {fid : Nat} {r : SplitRec} (pc next : W64) (lanes : Lanes) (cause : BitVec 5) (dst : BitVec 8)
    (hr : c.rec? fid = some r) : c.trapped fid pc next lanes cause dst =
      { c with utpc := pc, utnext := next, utlanes := lanes, utcause := cause, utdst := dst, utact := true, utfrag := fid
               split := c.split.put fid { r with pc := c.utvec &&& 0x00FFFFFFFFFFFFFF } } := by
  have hr' : c.split.find fid = some r := hr
  unfold Ctx.trapped Ctx.setPc Ctx.rec?
  dsimp only
  rw [hr']

section
variable {s : State} {a : Agent} {id : Nat} {c : Ctx} {p : Pend} (hc : s.ctx? a = some c) (hp : c.pend.find? (fun p => p.id = id) = some p)
  (hg : c.gone = false) (hmay : s.mayReturn a p = true) (hacq : p.acq = none)
include hc hp hg hmay hacq

theorem resultReturn_plain (ht : p.trap = none ∨ (enabled c.fpen p.flags).1 = 0) :
    exec (.resultReturn a id) s = .next (s.giveBack a c p) := by
  rw [resultReturn_gives hc hp hg hmay, hacq]
  exact congrArg _ (State.trapOf_none ht)

theorem resultReturn_traps {ti : TrapInfo} {fr : SplitRec} (ht : p.trap = some ti) (hl : (enabled c.fpen p.flags).1 ≠ 0) (hu : c.utact = false)
    (hr : c.rec? ti.frag = some fr) : ∃ t k, exec (.resultReturn a id) s = .next t ∧ t.ctx? a = some k ∧ k.utact = true ∧ k.utpc = p.pc ∧
      k.utnext = p.pc + BitVec.ofNat 64 ti.len ∧ k.utlanes = (enabled c.fpen p.flags).1 ∧ k.utcause = (enabled c.fpen p.flags).2 ∧
      k.utdst = BitVec.ofNat 8 ti.d ∧ k.utfrag = ti.frag ∧ k.rec? ti.frag = some { fr with pc := c.utvec &&& 0x00FFFFFFFFFFFFFF } ∧
      k.ctr p.ctr = c.ctr p.ctr - 1 ∧ t.mem = s.mem := by
  have hrec : (c.returned p).rec? ti.frag = some fr := (Ctx.rec?_congr (Ctx.returned_split c p) _).trans hr
  have hact : (c.returned p).utact = false := (Ctx.returned_utact c p).trans hu
  have htrap := (State.trapOf_some ht hl).trans (State.userTrap_taken ti.frag p.pc (p.pc + BitVec.ofNat 64 ti.len) (enabled c.fpen p.flags).1
    (enabled c.fpen p.flags).2 (BitVec.ofNat 8 ti.d) false (State.giveBack_ctx (s := s) (a := a) (c := c)) hact)
  have hx := resultReturn_gives hc hp hg hmay
  rw [hacq] at hx
  refine ⟨_, _, hx.trans (congrArg _ htrap), State.ctx?_setCtx_same _ _ _, ?_⟩
  have hgot := Ctx.trapped_rec p.pc (p.pc + BitVec.ofNat 64 ti.len) (enabled c.fpen p.flags).1 (enabled c.fpen p.flags).2 (BitVec.ofNat 8 ti.d) hrec
  have hctr := Ctx.returned_ctr c p
  rw [Ctx.trapped_eq _ _ _ _ _ hrec] at hgot ⊢
  refine ⟨rfl, rfl, rfl, rfl, rfl, rfl, rfl, hgot.trans (by rw [Ctx.returned_utvec]), Eq.trans ?_ hctr, State.giveBack_mem⟩
  cases p.ctr <;> rfl

theorem resultReturn_nests {ti : TrapInfo} (ht : p.trap = some ti) (hl : (enabled c.fpen p.flags).1 ≠ 0) (hu : c.utact = true) :
    ∃ t k st, exec (.resultReturn a id) s = .next t ∧ t.ctx? a = some k ∧ k.stop = some st ∧ st.code = Code.utNest ∧
      st.prec = false ∧ st.pc = p.pc := by
  have hact : (c.returned p).utact = true := (Ctx.returned_utact c p).trans hu
  have htrap : ∃ st : Stop, (s.giveBack a c p).trapOf a c.fpen p = (s.giveBack a c p).stopWave a st ∧ st.code = Code.utNest ∧
      st.prec = false ∧ st.pc = p.pc := by
    rw [State.trapOf_some ht hl]
    unfold State.userTrap
    rw [State.giveBack_ctx]
    exact ⟨_, if_pos hact, rfl, rfl, rfl⟩
  obtain ⟨st, htrap, hst⟩ := htrap
  have hx := resultReturn_gives hc hp hg hmay
  rw [hacq] at hx
  exact ⟨_, _, st, hx.trans (congrArg _ htrap), State.ctx?_stopWave st State.giveBack_ctx, rfl, hst⟩

end

/-- A load of a wave that has retired (R16, R235). -/
theorem resultReturn_gone {s : State} {a : Agent} {id : Nat} {c : Ctx} {p : Pend} (hc : s.ctx? a = some c)
    (hp : c.pend.find? (fun p => p.id = id) = some p) (hg : c.gone = true) (hreqs : p.reqs = []) :
    exec (.resultReturn a id) s = .next (if (c.pend.filter (fun q => q.id ≠ id)).isEmpty
      then { (if p.fail.isSome then s else s.putTile c.team p) with ctxs := (if p.fail.isSome then s else s.putTile c.team p).ctxs.del (ctxKey a) }
      else (if p.fail.isSome then s else s.putTile c.team p).setCtx a { c with pend := c.pend.filter (fun q => q.id ≠ id) }) := by
  refine event_eq (s := s) ?_
  unfold evResultReturn
  simp only [hc, hp, hg, if_true]
  unfold State.returnGone
  rw [hreqs, Pend.id_of_find hp]
  rfl

/-! ## Records of stops -/

theorem Die.ringPut_spec {d : Die} {n : Nat} (hn : d.ringN = some n) (r : FaultRec) :
    (d.ringPut r).ringN = some n ∧ (d.ringPut r).prod = (d.prod + 1) % 2 ^ 32 ∧
      bits (d.ringPut r).fqprod.toNat 32 32 = bits d.fqprod.toNat 32 32 ∧ { d.ringPut r with hls := d.hls, fqprod := d.fqprod } = d := by
  have hput : d.ringPut r = { d with hls := putBytes d.hls (bits d.faultq.toNat 0 32 + 32 * (d.prod % n)) r
                                     fqprod := BitVec.ofNat 64 (setBits d.fqprod.toNat 0 32 (d.prod + 1)) } := by
    unfold Die.ringPut
    rw [hn]
  have hlt := d.fqprod.isLt
  have hset : setBits d.fqprod.toNat 0 32 (d.prod + 1) = d.fqprod.toNat - d.fqprod.toNat % 2 ^ 32 + (d.prod + 1) % 2 ^ 32 := by
    unfold setBits
    rw [bits_low, Nat.pow_zero, Nat.mul_one, Nat.mul_one]
  rw [hput]
  refine ⟨hn, ?_, ?_, rfl⟩
  · show bits (BitVec.ofNat 64 (setBits d.fqprod.toNat 0 32 (d.prod + 1))).toNat 0 32 = _
    rw [BitVec.toNat_ofNat, bits_mod_pow _ _ _ _ (by decide), hset, bits_low]
    omega
  · show bits (BitVec.ofNat 64 (setBits d.fqprod.toNat 0 32 (d.prod + 1))).toNat 32 32 = _
    rw [BitVec.toNat_ofNat, bits_mod_pow _ _ _ _ (by decide), hset, bits_eq, bits_eq]
    omega

theorem Die.foldl_ringPut {d : Die} {n : Nat} (hn : d.ringN = some n) (rs : List FaultRec) :
    (rs.foldl Die.ringPut d).prod = (d.prod + rs.length) % 2 ^ 32 ∧
      bits (rs.foldl Die.ringPut d).fqprod.toNat 32 32 = bits d.fqprod.toNat 32 32 ∧
      { rs.foldl Die.ringPut d with hls := d.hls, fqprod := d.fqprod } = d := by
  induction rs generalizing d with
  | nil =>
    refine ⟨?_, rfl, rfl⟩
    show bits _ 0 32 = _
    rw [bits_low]
    exact (Nat.mod_mod _ _).symm
  | cons r rs ih =>
    obtain ⟨hn', hprod, hhigh, hrest⟩ := Die.ringPut_spec hn r
    obtain ⟨ihprod, ihhigh, ihrest⟩ := ih hn'
    refine ⟨?_, ihhigh.trans hhigh, ?_⟩
    · rw [List.foldl_cons, ihprod, hprod, List.length_cons]
      omega
    · exact (congrArg (fun x : Die => { x with hls := d.hls, fqprod := d.fqprod }) ihrest :).trans hrest

theorem State.stopEntries_eq (s : State) (a : Agent) (c : Ctx) (st : Stop) : s.stopEntries a c st =
    RecF.bytes (s.recordOf a st.pc st.addr st.mask 0 false st.prec st.meld st.code) ::
      (if st.meld then [leBytes 16 c.paths.toNat ++ List.replicate 16 0] else []) := rfl

/-! ## Breakpoints and sleeps -/

/-- The stop of a fragment at a breakpoint (R399). -/
def breakStopAt (i : Nat) (fr : SplitRec) : Stop :=
  { code := Code.brk, prec := false, addr := 0x100 + i, mask := fr.mask, pc := fr.pc, meld := fr.meld, posted := false, silent := false }

theorem breakpointHit_stops {s : State} {a : Agent} {i : Nat} {c : Ctx} {fr : SplitRec} {pc : W64} (hc : s.ctx? a = some c)
    (hb : s.bkptAddr (dieOf a) i = some pc) (hi : i < 8) (hskip : s.frag ∉ c.skipBkpt) (hr : c.rec? s.frag = some fr)
    (hcan : c.canIssue s.frag = true) (hpc : fr.pc = pc) :
    exec (.breakpointHit a i) s = .next ((s.mapCtx a (fun c => { c with frag := s.frag })).stopWave a (breakStopAt i fr)) := by
  refine event_eq (s := s) ?_
  unfold evBreakpointHit
  simp only [hc, hb, hr]
  refine if_neg ?_
  simp [hcan, hpc, hskip, hi]

/-- Settles O48: each step comes to its branch, and what it leaves is read off the context or the die that it writes. -/
theorem resultsAndStops : Obligations.ResultsAndStops := by
  refine ⟨fun s a id c p hc hp hg hmay ht htile hacq hrope => ?_, fun s a id c p hc hp hg hmay hacq => ⟨fun ti fr ht hu hr => ?_, fun ti ht hu => ?_,
    fun n m tm ht htile htm => ?_, fun r ht hrope => ?_⟩, fun s a id c p sc hc hp hg hmay ht htile hrope hacq => ?_,
    fun s a id n c p m tm hc hp hg hreqs htile htm => ?_, fun s a c st hc hst hw => ?_, fun s a c st hc hst hpo hsi hse hw => ⟨fun d hd => ?_, fun hd => ?_⟩,
    fun d d' rs n hn hd => ?_, fun s a i c fr pc hc hb hi hskip hr hcan hpc => ?_, fun s a c time hc hpark htime => ?_⟩
  · obtain ⟨hs, hk, hv, hf⟩ := Ctx.returned_regs c p
    refine ⟨_, _, resultReturn_plain hc hp hg hmay hacq ht, State.giveBack_ctx, Ctx.returned_ctr c p, ?_,
      fun n hn => (Ctx.sget_congr hs n).trans (Ctx.written_sget hn), fun n hn => (Ctx.kget_congr hk n).trans (Ctx.written_kget hn),
      fun n l hn => (Ctx.vget_congr hv n l).trans (Ctx.written_vget hn), fun n v hn hw => ?_, fun hfl l => ?_, Ctx.returned_split c p,
      State.giveBack_mem, ?_, fun b hb => State.giveBack_ne hb⟩
    · rw [Ctx.returned_pend, Pend.id_of_find hp]
    · rw [Ctx.sget_congr hs, hw]
      exact (Ctx.sget_sset _ _ _ _).trans (if_pos ⟨rfl, hn⟩)
    · rw [hfl] at hf
      exact Ctx.flag_congr (hf.trans (Ctx.written_flags _ _)) l
    · unfold State.giveBack
      rw [State.putTile_none _ _ htile]
      rfl
  · obtain ⟨ht, hl⟩ := ht
    exact resultReturn_traps hc hp hg hmay hacq ht hl hu hr
  · obtain ⟨ht, hl⟩ := ht
    exact resultReturn_nests hc hp hg hmay hacq ht hl hu
  · exact ⟨_, resultReturn_plain hc hp hg hmay hacq (.inl ht), State.putTile_teams htile htm, State.giveBack_mem⟩
  · exact ⟨_, _, resultReturn_plain hc hp hg hmay hacq (.inl ht), State.giveBack_ctx, (Ctx.returned_rope c p).trans (by rw [hrope]; rfl),
      State.giveBack_mem⟩
  · intro c1
    have hret : c.returned p = { c1.setCtr p.ctr (c1.ctr p.ctr - 1) with pend := c1.pend.filter (fun q => q.id ≠ id) } := by
      rw [← Pend.id_of_find hp]
      unfold Ctx.returned
      rw [hrope]
      rfl
    rw [resultReturn_gives hc hp hg hmay, hacq]
    dsimp only
    rw [State.trapOf_none (.inl ht), State.giveBack, State.putTile_none _ _ htile, hret]
  · refine ⟨_, resultReturn_gone hc hp hg hreqs, ?_, fun hf => ?_, fun hf => ?_, fun hps => ?_, fun hps => ?_⟩
    · split
      all_goals
        show (if p.fail.isSome then s else s.putTile c.team p).mem = s.mem
        split
        · rfl
        · exact State.putTile_mem _ _
    · rw [hf]
      have hput := State.putTile_teams (u := s) htile htm
      split
      all_goals exact hput
    · rw [if_pos hf]
      split <;> rfl
    · rw [hps]
      exact AMap.find_del_same _ _
    · rw [if_neg (by simpa using hps)]
      exact State.ctx?_setCtx_same _ _ _
  · refine congrArg Host.Outcome.next ?_
    show (evFaultRecordPost a s).getD s = s
    unfold evFaultRecordPost
    simp only [hc, hst, hw, Bool.or_true, if_true]
    rfl
  · refine event_eq (s := s) ?_
    unfold evFaultRecordPost
    simp only [hc, hst, hw, hpo, hsi, hse, Bool.or_false, Bool.not_true, Bool.false_eq_true, if_false, State.stopEntries_eq]
    exact congrArg (Option.map _) hd
  · refine congrArg Host.Outcome.next ?_
    show (evFaultRecordPost a s).getD s = s
    unfold evFaultRecordPost
    simp only [hc, hst, hw, hpo, hsi, hse, Bool.or_false, Bool.not_true, Bool.false_eq_true, if_false, State.stopEntries_eq]
    exact congrArg (fun x => (Option.map _ x).getD s) hd
  · have hd' : d' = rs.foldl Die.ringPut d := by
      unfold Die.post at hd
      split at hd
      · exact (Option.some.inj hd).symm
      · cases hd
    rw [hd']
    exact Die.foldl_ringPut hn rs
  · have hc' := State.ctx?_mapCtx_some (fun c => { c with frag := s.frag }) hc
    refine ⟨_, _, breakStopAt i fr, breakpointHit_stops hc hb hi hskip hr hcan hpc, State.ctx?_stopWave _ hc', rfl, rfl, rfl, rfl, hpc, ?_, ?_, ?_, ?_, ?_⟩
    · exact Ctx.giveUp_split _ _
    · exact fun n _ => Ctx.sget_congr (Ctx.giveUp_s _ _) n
    · exact fun n _ => Ctx.kget_congr (Ctx.giveUp_k _ _) n
    · exact fun n l => Ctx.vget_congr (Ctx.giveUp_v _ _) n l
    · exact State.outer_mem ((State.stopWave_outer _ _ _).trans (State.mapCtx_outer _ _ _))
  · refine ⟨_, _, event_eq (s := s) ?_, State.ctx?_mapCtx_some (fun c => ({ c with park := .none } : Ctx).stepDone c.frag) hc,
      Ctx.stepDone_park _ _, Ctx.stepDone_split _ _, fun n _ => Ctx.sget_congr (Ctx.stepDone_s _ _) n, State.mapCtx_rest _ _ _⟩
    unfold evSleepExpiry
    simp only [hc, hpark]
    exact if_pos htime

end Sys2Proof.Machine

/-! SUPPORT. The steps of engine work (R167 to R169, R193, R237, R243, R244, R246, R247, R261, R262). -/

namespace Sys2Proof.Machine

/-! ## Copies -/

/-- A part of a row lands: what its copy has left, and what it carries. -/
def Copy.landed (c : Copy) (left : List (Nat × Nat × Nat)) (stale : Bool) (carry : List (Nat × Nat × Byte)) : Copy :=
  { c with left := left, stale := c.stale || stale, carry := carry, again := false }

section
variable {s s1 s2 : State} {q : Nat} {c : Copy} {copy row col n : Nat} {left : List (Nat × Nat × Nat)} {l : List Byte} {stale : Bool}
  {carry : List (Nat × Nat × Byte)} (hc : s.findCopy copy = some (q, c))
include hc

theorem copyBytesLand_lands (hcan : c.cancel = false) (hfail : c.fail = none) (hheld : c.held = none) (hn : 0 < n) (hn' : n ≤ 256)
    (hok : s.landOk c row col n = true) (hleft : takeLeft c.left row col (col + n) = some left)
    (hidx : (s.touchIndex c row).indexBad c row col n = none) (hsrc : (s.touchIndex c row).copyWords c row col n = .ok (l, stale, carry, s1))
    (hdst : s1.copyDst c row col l = .ok s2) :
    exec (.copyBytesLand copy row col n) s = .next (s2.mapCopy q copy (·.landed left stale carry)).mapsGo := by
  refine event_eq (s := s) ?_
  unfold evCopyBytesLand
  have hgo : (c.cancel || c.fail.isSome || c.held.isSome || decide (n = 0) || decide (256 < n) || !s.landOk c row col n) = false := by
    rw [hcan, hfail, hheld, hok]
    simpa using ⟨by omega, hn'⟩
  rw [hc]
  dsimp only
  rw [hgo, if_neg Bool.false_ne_true, hleft]
  dsimp only
  rw [hidx, hsrc]
  dsimp only
  rw [hdst]
  rfl

omit hc in
/-- The status that ends a command (R168). -/
def Copy.ends (c : Copy) : Option (Nat × Nat) :=
  match c.fail with
  | some code => some (Status.faulted, code)
  | none => if c.cancel then some (Status.cancelled, 0) else if c.left.isEmpty then some (Status.done, 0) else none

omit hc in
theorem evCopyComplete_eq (copy : Nat) (s : State) : evCopyComplete copy s =
    match s.findCopy copy with
    | none => none
    | some (q, c) => c.ends.map (fun x => ((s.mapQuad q (fun y => { y with copies := y.copies.filter (fun k => k.id ≠ copy) })).resolve c.fut
        x.1 x.2 0 c.stale).mapsGo) := rfl

theorem copyComplete_ends {st code : Nat} (h : c.ends = some (st, code)) :
    exec (.copyComplete copy) s = .next ((s.mapQuad q (fun y => { y with copies := y.copies.filter (fun k => k.id ≠ copy) })).resolve c.fut st
      code 0 c.stale).mapsGo := by
  refine event_eq (s := s) ?_
  rw [evCopyComplete_eq, hc]
  dsimp only
  rw [h]
  rfl
end

/-! ## A copy between two places of the local store -/

theorem swizzle_zero (off : Nat) : swizzle 0 off = off := by
  unfold swizzle
  dsimp only
  rw [Nat.mul_zero, Nat.zero_mod, Nat.zero_mul, Nat.xor_zero]
  exact Nat.sub_add_cancel (Nat.mod_le _ _)

/-- Bytes of a row that no swizzle moves. -/
def State.rowBytes (s : State) (p : LsAt) (n : Nat) : List Byte := (List.range n).flatMap (fun i => s.lsRead p.ref (p.off + i) 1)

theorem State.lsReadSwz_zero (s : State) (p : LsAt) (n : Nat) : s.lsReadSwz p 0 n = s.rowBytes p n := by
  unfold State.lsReadSwz State.rowBytes
  simp only [swizzle_zero]

theorem State.lsRead_length (s : State) (r : LsRef) (off n : Nat) : (s.lsRead r off n).length = n := by
  unfold State.lsRead
  split
  · split <;> simp [bytesAt]
  · simp [bytesAt]

theorem State.rowBytes_length (s : State) (p : LsAt) (n : Nat) : (s.rowBytes p n).length = n := by
  unfold State.rowBytes
  simp [List.length_flatMap, State.lsRead_length]

/-- A plain copy between two places of the local store. -/
structure Copy.Local (c : Copy) : Prop where
  kind : c.kind = ckCopy
  idx : c.idx = none
  sls : c.sls = true
  dls : c.dls = true
  swz : c.swz = 0
  bar : c.bar = none
  aligned : c.src % 4 = c.dst % 4
  carry : c.carry = []

section
variable {s : State} {c : Copy} {col n : Nat} {p r : LsAt} (h : c.Local)
include h

theorem Copy.Local.srcRow : s.srcRow c 0 = some c.src := by
  unfold State.srcRow
  rw [h.kind, Nat.zero_mul, Nat.add_zero]
  rfl
theorem Copy.Local.dstRow : s.dstRow c 0 = some c.dst := by
  unfold State.dstRow
  rw [h.kind, Nat.zero_mul, Nat.add_zero]
  rfl
theorem Copy.Local.touchIndex : s.touchIndex c 0 = s := by
  unfold State.touchIndex
  rw [h.idx]
  rfl
theorem Copy.Local.indexBad : s.indexBad c 0 col n = none := by
  unfold State.indexBad
  rw [h.kind]
  rfl

theorem Copy.Local.copySrc (hp : s.lsRow c.team 0 ((c.src + col) % 2 ^ 32) n = some p) :
    s.copySrc c 0 col n = .ok (s.rowBytes p n, false, s.touch c.agent c.pc p n) := by
  have hz : c.srcSwz = 0 := by unfold Copy.srcSwz; rw [h.dls]; rfl
  unfold State.copySrc
  rw [h.srcRow, h.kind, h.sls, hz]
  dsimp only
  rw [if_neg (by decide), if_pos rfl, hp]
  dsimp only
  rw [State.lsReadSwz_zero]
  rfl

/-- A part whose ends are word-aligned, or the row's, carries nothing. -/
theorem Copy.Local.edges (hok : s.landOk c 0 col n = true) :
    min col ((c.src + col) % 4) = 0 ∧ min (c.rowbytes - col - n) ((4 - (c.src + col + n) % 4) % 4) = 0 := by
  have hal := h.aligned
  unfold State.landOk at hok
  rw [h.dstRow] at hok
  have hg : c.grain = 4 := by unfold Copy.grain; rw [h.dls]; rfl
  simp only [hg, Bool.and_eq_true, Bool.or_eq_true, decide_eq_true_eq] at hok
  omega

theorem Copy.Local.copyWords (hok : s.landOk c 0 col n = true) (hp : s.lsRow c.team 0 ((c.src + col) % 2 ^ 32) n = some p) :
    s.copyWords c 0 col n = .ok (s.rowBytes p n, false, [], s.touch c.agent c.pc p n) := by
  obtain ⟨hh, ht⟩ := h.edges hok
  have hat : (if c.kind = ckFill then some col else (s.srcRow c 0).map (· + col)) = some (c.src + col) := by
    rw [h.srcRow, h.kind]
    rfl
  have hlen := s.rowBytes_length p n
  unfold State.copyWords
  simp only [hat, Option.getD_some, hh, ht, Nat.sub_zero, Nat.zero_add, Nat.add_zero, h.copySrc hp, h.carry, Except.map, List.find?_nil,
    Option.map_none, Option.getD_none, List.filter_nil, List.nil_append, List.drop_zero]
  generalize s.rowBytes p n = l at hlen
  have hmap : ((l.zipIdx.map (fun e => ((0, col + e.2, e.1) : Nat × Nat × Byte))).take n).map (fun x => x.2.2) = l := by
    rw [List.take_of_length_le (by simp [hlen]), List.map_map]
    exact List.zipIdx_map_fst 0 l
  have hout : (l.zipIdx.map (fun e => ((0, col + e.2, e.1) : Nat × Nat × Byte))).filter (fun y => (decide (y.2.1 < col) || decide (col + n ≤ y.2.1)) &&
      c.left.any (fun p => decide (p.1 = 0) && decide (p.2.1 ≤ y.2.1) && decide (y.2.1 < p.2.2))) = [] := by
    refine List.filter_eq_nil_iff.mpr fun y hy => ?_
    obtain ⟨e, he, rfl⟩ := List.mem_map.mp hy
    have hlt := List.snd_lt_of_mem_zipIdx he
    rw [show (decide (col + e.2 < col) || decide (col + n ≤ col + e.2)) = false by simp; omega]
    exact Bool.false_ne_true
  refine congrArg Except.ok (Prod.ext hmap (Prod.ext rfl (Prod.ext ?_ rfl)))
  exact Eq.trans (List.filter_congr fun y _ => by simp only) hout

theorem Copy.Local.copyDst {l : List Byte} (hl : l.length = n) (hr : s.lsRow c.team 0 ((c.dst + col) % 2 ^ 32) n = some r) :
    s.copyDst c 0 col l = .ok ((s.touch c.agent c.pc r n).lsWriteSwz r 0 l) := by
  unfold State.copyDst
  rw [h.dstRow]
  dsimp only
  rw [h.dls, if_pos rfl, h.swz, hl, hr]
  dsimp only
  unfold Copy.barAt
  rw [h.bar]
  rfl
end

/-! ## The scoreboard and the amax table -/

/-- Bytes of a range's copy are left. -/
def State.boardBusy (s : State) (b : Board) : Bool := match s.findCopy b.copy with | some (_, c) => !c.left.isEmpty | none => false

theorem scoreboardEntryFree_frees {s : State} {core id : Nat} {b : Board} (hb : (s.core core).board.find? (fun b => b.id = id) = some b)
    (hbusy : s.boardBusy b = false) :
    exec (.scoreboardEntryFree core id) s = .next (s.mapCore core (fun c => { c with board := c.board.filter (fun x => x.id ≠ id) })) := by
  refine event_eq (s := s) ?_
  have hev : evScoreboardEntryFree core id s = match (s.core core).board.find? (fun b => b.id = id) with
      | none => none
      | some b => if s.boardBusy b then none else some (s.mapCore core (fun c => { c with board := c.board.filter (fun x => x.id ≠ id) })) := rfl
  rw [hev, hb]
  exact if_neg (Bool.eq_false_iff.mp hbusy)

/-- An update of the amax table joined to its entry (R193). -/
def Quad.join (x : Quad) (id e : Nat) (w : W32) : Quad :=
  { x with amax := AMap.set 0 x.amax e (amaxJoin (AMap.get 0 x.amax e) w), amaxQ := x.amaxQ.filter (fun u => u.1 ≠ id) }

theorem amaxUpdateApply_joins {s : State} {q id p e : Nat} {a : Agent} {w : W32} (hu : (s.quad q).amaxQ.find? (fun u => u.1 = id) = some (id, a, p, e, w))
    (hord : (s.quad q).amaxQ.any (fun u => u.2.1 = a && u.1 < id) = false) :
    exec (.amaxUpdateApply q id) s = .next (s.mapQuad q (·.join id e w)) := by
  refine event_eq (s := s) ?_
  unfold evAmaxUpdateApply
  rw [hu]
  exact if_neg (Bool.eq_false_iff.mp hord)

/-! ## Maps that end -/

theorem State.mapsGo_none {s : State} (h : ∀ e ∈ s.parts, e.2.maps = []) : s.mapsGo = s := by
  unfold State.mapsGo
  refine foldl_get_eq id _ s.parts s fun s e he => ?_
  rw [h e he]
  rfl

/-! ## Tile passes -/

section
variable {s s' : State} {q id : Nat} {k t t' : Task}

theorem tilePassGrant_eq (hk : s.task? q id = some k) (hrick : k.isRick = false) (heng : (s.quad q).engine = none)
    (hnext : s.nextTask q (s.eligible q) = some t) (hid : t.id = id) : evTilePassGrant q id s =
    match s.runPass q t with
    | .error (c, va) => s.taskTrouble q t c va
    | .ok _ => some ((s.mapTask q id (fun t => { t with granted := true, again := false })).mapQuad q (fun x => { x with engine := some id })).mapsGo := by
  unfold evTilePassGrant
  rw [hk]
  simp only [Option.map_some, Option.getD_some, hrick, Bool.false_eq_true, if_false, heng, Option.isSome_none, hnext, hid, ne_eq,
    not_true_eq_false] <;> rfl

/-- The grant of the engine to a task, and of the rick unit. -/
def State.grantPass (s : State) (q id : Nat) : State :=
  (s.mapTask q id (fun t => { t with granted := true, again := false })).mapQuad q (fun x => { x with engine := some id })
def State.grantRick (s : State) (q id : Nat) : State :=
  (s.mapTask q id (fun t => { t with granted := true })).mapQuad q (fun x => { x with rickUnit := some id })

theorem State.quad_mapTask (s : State) (q id : Nat) (f : Task → Task) :
    (s.mapTask q id f).quad q = { s.quad q with tasks := (s.quad q).tasks.map (fun t => if t.id = id then f t else t) } :=
  State.quad_mapQuad _ _ _

theorem tilePassGrant_grants (hk : s.task? q id = some k) (hrick : k.isRick = false) (heng : (s.quad q).engine = none)
    (hnext : s.nextTask q (s.eligible q) = some t) (hid : t.id = id) (hrun : s.runPass q t = .ok (s', t')) :
    exec (.tilePassGrant q id) s = .next (s.grantPass q id).mapsGo :=
  event_eq (s := s) ((tilePassGrant_eq hk hrick heng hnext hid).trans (by rw [hrun]; rfl))

/-- A task that is eligible has its operands on hand, or an access whose failure does not wait (R243, R247). -/
theorem State.eligible_trouble {code va : Nat} (he : s.eligible q t = true) (hrun : s.runPass q t = .error (code, va)) :
    (s.taskTrouble q t code va).isSome = true := by
  unfold State.eligible at he
  simp only [Bool.and_eq_true] at he
  obtain ⟨-, hwait⟩ := he
  unfold State.passWaits at hwait
  rw [hrun] at hwait
  simpa using hwait

theorem State.eligible_isRick (he : s.eligible q t = true) : t.isRick = false := by
  unfold State.eligible at he
  simp only [Bool.and_eq_true, Bool.not_eq_true'] at he
  obtain ⟨⟨⟨⟨⟨⟨⟨hrick, -⟩, -⟩, -⟩, -⟩, -⟩, -⟩, -⟩ := he
  exact hrick

theorem tilePassGrant_trouble {code va : Nat} (he : s.eligible q t = true) (hnext : s.nextTask q (s.eligible q) = some t)
    (ht : s.task? q t.id = some t) (heng : (s.quad q).engine = none) (hrun : s.runPass q t = .error (code, va)) :
    ∃ u, s.taskTrouble q t code va = some u ∧ exec (.tilePassGrant q t.id) s = .next u := by
  obtain ⟨u, hu⟩ := Option.isSome_iff_exists.mp (State.eligible_trouble he hrun)
  refine ⟨u, hu, event_eq (s := s) ((tilePassGrant_eq ht (State.eligible_isRick he) heng hnext rfl).trans ?_)⟩
  rw [hrun]
  exact hu

theorem tilePassGrant_rick (hk : s.task? q id = some k) (hrick : k.isRick = true) (hunit : (s.quad q).rickUnit = none)
    (hnext : (s.nextTask q (s.rickEligible q)).map (·.id) = some id) : exec (.tilePassGrant q id) s = .next (s.grantRick q id) := by
  refine event_eq (s := s) ?_
  unfold evTilePassGrant evRickGrant
  rw [hk]
  simp only [Option.map_some, Option.getD_some, hrick, if_true, hunit, Option.isSome_none, hnext, ne_eq, not_true_eq_false, decide_false,
    Bool.or_self, Bool.false_eq_true, if_false]
  rfl

theorem tilePassComplete_ends (ht : s.task? q id = some t) (hg : t.granted = true) (hrick : t.isRick = false)
    (hrun : (s.mapQuad q (fun x => { x with engine := none })).runPass q t = .ok (s', t')) :
    exec (.tilePassComplete q id) s = .next (s'.mapTask q id (fun t =>
      { t with k := t'.k, done := t'.done, flags := t'.flags, stale := t'.stale, granted := false })) := by
  refine event_eq (s := s) ?_
  unfold evTilePassComplete
  rw [ht]
  simp only [hg, hrick, hrun, Bool.not_true, Bool.or_self, Bool.false_eq_true, if_false]

theorem tileTaskComplete_ends {st code : Nat} (ht : s.task? q id = some t) (hrick : t.isRick = false) (hends : t.ends = some (st, code)) :
    exec (.tileTaskComplete q id) s = .next (s.endTask q t st code) := by
  refine event_eq (s := s) ?_
  unfold evTileTaskComplete
  rw [ht]
  simp only [hrick, hends, Bool.false_eq_true, if_false, Option.map_some]

/-! ## Rick operations -/

/-- What the end of a rick operation but e.rkstat does (R262). -/
def State.rickEnds (s : State) (q id : Nat) (t : Task) : Option State :=
  if t.granted then
    match t.fail with
    | some c => some (s.endRick q t (RickOut.none Status.faulted c s))
    | none =>
      match (s.runRick t).err with
      | none => some ((s.runRick t).s.endRick q t (s.runRick t))
      | some (c, va) =>
        (s.engineFault t.agent (s.partOf (q / 16)) va c t.pc).map (fun x =>
          if x.2 then (x.1.mapTask q id (fun y => { y with held := some va, again := false, stale := y.stale || (s.runRick t).stale })).mapsGo
          else x.1.endRick q t (s.runRick t))
  else if t.cancel then some (s.endRick q t (RickOut.none Status.cancelled 0 s)) else none

theorem rickOperationComplete_eq (ht : s.task? q id = some t) (hrick : t.isRick = true) (hheld : t.held = none)
    (hop : ∀ k i f, t.op ≠ .rkstat k i f) : evRickOperationComplete q id s = s.rickEnds q id t := by
  unfold evRickOperationComplete
  rw [ht]
  simp only [hrick, hheld, Option.isSome_none, Bool.not_true, Bool.or_self, Bool.false_eq_true, if_false]
  rfl

theorem rickOperationComplete_stat {j pend f : Nat} {tm : Team} (ht : s.task? q id = some t) (hheld : t.held = none)
    (hop : t.op = .rkstat j pend f) (hfree : s.taskFree q t = true) (htm : s.teams.find t.team = some tm) :
    exec (.rickOperationComplete q id) s = .next ((s.mapQuad q (fun x => { x with tasks := x.tasks.filter (fun y => y.id ≠ id) })).mapPend
      t.agent pend (fun p => { p with writes := p.writes.map (fun w => { w with val := some (tm.rickStat j) }) })) := by
  refine event_eq (s := s) ?_
  have hrick : t.isRick = true := by unfold Task.isRick; rw [hop]
  unfold evRickOperationComplete
  rw [ht]
  simp only [hrick, hheld, Option.isSome_none, Bool.not_true, Bool.or_self, Bool.false_eq_true, if_false, hop, hfree, htm, if_true]
end

/-- Settles O33: each step comes to its branch. -/
theorem engineSteps : Obligations.EngineSteps := by
  refine ⟨fun s s1 s2 q c copy row col n left l stale carry hc hcan hfail hheld hn hn' hok hleft hidx hsrc hdst =>
      copyBytesLand_lands hc hcan hfail hheld hn hn' hok hleft hidx hsrc hdst,
    fun s q c copy col n left p r hc hcan hfail hheld hkind hidx hsls hdls hswz hbar hal hcarry hn hn' hok hleft hp hr => ?_,
    fun s h => State.mapsGo_none h, fun s q c copy hc => ⟨fun hf hcan hl => ?_, fun hf hcan => ?_, fun code hf => ?_⟩, fun s core id b hb hleft => ?_,
    fun s s' q id k t hk hrick heng hnext hid hrun => ?_, fun s q t he code va hrun => State.eligible_trouble he hrun,
    fun s q t code va he hnext ht heng hrun => tilePassGrant_trouble he hnext ht heng hrun, fun s q id k hk hrick hunit hnext => ?_,
    fun s s' q id t t' ht hg hrick hrun => tilePassComplete_ends ht hg hrick hrun,
    fun s q id t ht hrick hg => ⟨fun c hf => ?_, fun hf hcan => ?_, fun hf hcan hd => ?_⟩,
    fun s q id t ht hrick hheld hop => ⟨fun hg hf he => ?_, fun c hg hf => ?_, fun hg hcan => ?_⟩,
    fun s q id k pend f t tm ht hheld hop hfree htm => rickOperationComplete_stat ht hheld hop hfree htm, fun s q id p e a w hu hord => ?_⟩
  · have h : c.Local := ⟨hkind, hidx, hsls, hdls, hswz, hbar, hal, hcarry⟩
    have hti : s.touchIndex c 0 = s := h.touchIndex
    have hsrc : (s.touchIndex c 0).copyWords c 0 col n = .ok (s.rowBytes p n, false, [], s.touch c.agent c.pc p n) :=
      (congrArg (fun u => u.copyWords c 0 col n) hti).trans (h.copyWords hok hp)
    refine (copyBytesLand_lands hc hcan hfail hheld hn hn' hok hleft h.indexBad hsrc
      (h.copyDst (State.rowBytes_length _ _ _) hr)).trans ?_
    refine congrArg (fun f => Host.Outcome.next (State.mapCopy _ q copy f).mapsGo) (funext fun c => ?_)
    unfold Copy.landed
    rw [Bool.or_false]
  · exact copyComplete_ends hc (by unfold Copy.ends; rw [hf, hcan, hl]; rfl)
  · exact copyComplete_ends hc (by unfold Copy.ends; rw [hf, hcan]; rfl)
  · exact copyComplete_ends hc (by unfold Copy.ends; rw [hf])
  · have hbusy : s.boardBusy b = false := by
      unfold State.boardBusy
      cases hc : s.findCopy b.copy with
      | none => rfl
      | some e =>
        dsimp only
        rw [hleft e.1 e.2 hc]
        rfl
    exact ⟨_, scoreboardEntryFree_frees hb hbusy, rfl, rfl, rfl,
      congrArg Core.board ((State.core_mapCore _ _ _ _).trans (if_pos rfl)), fun k hk => (State.core_mapCore _ _ _ _).trans (if_neg hk)⟩
  · obtain ⟨t', hrun⟩ := hrun
    refine ⟨s.grantPass q id, tilePassGrant_grants hk hrick heng hnext hid hrun, ?_, ?_, rfl, rfl, rfl⟩
    · unfold State.grantPass
      rw [State.quad_mapQuad]
    · unfold State.grantPass
      rw [State.quad_mapQuad, State.quad_mapTask]
  · refine ⟨s.grantRick q id, tilePassGrant_rick hk hrick hunit hnext, ?_, ?_, rfl, rfl⟩
    · unfold State.grantRick
      rw [State.quad_mapQuad]
    · unfold State.grantRick
      rw [State.quad_mapQuad, State.quad_mapTask]
  · exact tileTaskComplete_ends ht hrick (by unfold Task.ends; rw [hg, hf]; rfl)
  · exact tileTaskComplete_ends ht hrick (by unfold Task.ends; rw [hg, hf, hcan]; rfl)
  · exact tileTaskComplete_ends ht hrick (by unfold Task.ends; rw [hg, hf, hcan, hd]; rfl)
  · refine event_eq (s := s) ((rickOperationComplete_eq ht hrick hheld hop).trans ?_)
    unfold State.rickEnds
    rw [hg, hf, he]
    rfl
  · refine event_eq (s := s) ((rickOperationComplete_eq ht hrick hheld hop).trans ?_)
    unfold State.rickEnds
    rw [hg, hf]
    rfl
  · refine event_eq (s := s) ((rickOperationComplete_eq ht hrick hheld hop).trans ?_)
    unfold State.rickEnds
    rw [hg, hcan]
    rfl
  · refine ⟨_, amaxUpdateApply_joins hu hord, fun x => ?_, ?_, rfl, rfl, rfl⟩
    · rw [State.quad_mapQuad]
      exact (AMap.get_set _ _ _ _ _)
    · rw [State.quad_mapQuad]
      rfl

end Sys2Proof.Machine

/-! SUPPORT. A bank of a unit that its array does not have (R117, R118, R395). -/

namespace Sys2Proof.Machine

/-- Bank 0 of array 0 in unit 16: array 0 has 16 slices, numbered from 0. -/
def siteBeyond : EccSite := { array := 0, unit := 16, bank := 0, offset := 0 }

theorem siteBeyond_eq : (((State.reset.die 0).live && (State.reset.die 0).marks.isEmpty && siteBeyond.array.toNat ≤ 4 && siteBeyond.bank.toNat < 18) &&
    (evBankMarkFailed 0 siteBeyond State.reset).isNone) = true := by decide +kernel

/-- Refutes O50: the bank-marking clause does not ask that the site's unit is one that its array has, and of another the step does nothing. -/
theorem not_memorySteps : ¬ Obligations.MemorySteps := by
  rintro ⟨-, -, -, -, -, -, -, -, -, -, -, -, -, hmark, -⟩
  have hsite := siteBeyond_eq
  simp only [Bool.and_eq_true, decide_eq_true_eq, List.isEmpty_iff, Option.isNone_iff_eq_none] at hsite
  obtain ⟨⟨⟨⟨hlive, hmarks⟩, harray⟩, hbank⟩, hnone⟩ := hsite
  obtain ⟨t, hx, hnew, -⟩ := hmark State.reset 0 siteBeyond (by decide) hlive harray hbank (by rw [hmarks]; exact List.not_mem_nil)
  have hsame : State.reset = t := by
    have hev : exec (.bankMarkFailed 0 siteBeyond) State.reset = .next ((evBankMarkFailed 0 siteBeyond State.reset).getD State.reset) := rfl
    rw [hx, hnone] at hev
    exact (Host.Outcome.next.inj hev).symm
  rw [← hsame] at hnew
  exact absurd (congrArg List.length hnew) (by simp)

end Sys2Proof.Machine

/-! SUPPORT. The host, the mailboxes and the Larlan ports (R317, R405, R438 to R444, R449, R450). -/

namespace Sys2Proof.Machine

/-! ## Words of four bytes that are replaced -/

/-- A field that is replaced changes its own bits alone. -/
theorem testBit_setBits (v lo n x i : Nat) :
    (setBits v lo n x).testBit i = if lo ≤ i ∧ i < lo + n then x.testBit (i - lo) else v.testBit i := by
  have hb : bits v lo n * 2 ^ lo ≤ v := by
    rw [bits_eq]
    exact (Nat.mul_le_mul_right _ (Nat.mod_le _ _)).trans (Nat.div_mul_le_self _ _)
  have hq : setBits v lo n x = 2 ^ lo * (2 ^ n * (v / 2 ^ lo / 2 ^ n) + x % 2 ^ n) + v % 2 ^ lo := by
    have h1 := Nat.div_add_mod v (2 ^ lo)
    have h2 := Nat.div_add_mod (v / 2 ^ lo) (2 ^ n)
    have h3 : v = 2 ^ lo * (2 ^ n * (v / 2 ^ lo / 2 ^ n)) + (v / 2 ^ lo % 2 ^ n) * 2 ^ lo + v % 2 ^ lo := by
      calc v = 2 ^ lo * (2 ^ n * (v / 2 ^ lo / 2 ^ n) + v / 2 ^ lo % 2 ^ n) + v % 2 ^ lo := by rw [h2]; exact h1.symm
        _ = _ := by ring
    unfold setBits
    rw [bits_eq, Nat.mul_add, Nat.mul_comm (2 ^ lo) (x % 2 ^ n)]
    omega
  rw [hq, Nat.testBit_two_pow_mul_add _ (Nat.mod_lt _ (Nat.two_pow_pos lo)), Nat.testBit_two_pow_mul_add _ (Nat.mod_lt _ (Nat.two_pow_pos n)),
    Nat.testBit_mod_two_pow, Nat.testBit_mod_two_pow, Nat.testBit_div_two_pow, Nat.testBit_div_two_pow]
  by_cases h1 : i < lo
  · simp [h1, show ¬ lo ≤ i by omega]
  · by_cases h2 : i < lo + n
    · simp [h1, h2, show lo ≤ i by omega, show i - lo < n by omega]
    · simp [h1, h2, show ¬ i - lo < n by omega, show i - lo - n + n + lo = i by omega]

/-- The two halves of a word of eight bytes, put one after the other, are the word. -/
theorem halves_put (old : Nat) (w : W64) :
    BitVec.ofNat 64 (setBits (BitVec.ofNat 64 (setBits old 32 32 (w.extractLsb' 32 32).toNat)).toNat 0 32 (w.extractLsb' 0 32).toNat) = w := by
  refine BitVec.eq_of_getLsbD_eq fun i hi => ?_
  simp only [BitVec.getLsbD_ofNat, testBit_setBits, BitVec.toNat_ofNat, Nat.testBit_mod_two_pow, BitVec.testBit_toNat, BitVec.getLsbD_extractLsb']
  by_cases h : i < 32
  · simp [h, hi]
  · simp [h, hi, show 32 ≤ i by omega, show i - 32 < 32 by omega, show 32 + (i - 32) = i by omega]

/-! ## BAR2 -/

section
variable {s : State}

/-- What an access from outside reads is at the home, and reaching it changes the ports alone. -/
theorem outsideReach_spec {q : Nat} (l : List (Nat × Nat × Nat)) : ∀ {s t : State},
    l.foldlM (fun (s : State) x => s.reach q (x.1 * 128) true) s = some t → t = { s with ports := t.ports } := by
  induction l with
  | nil => intro s t h; cases h; rfl
  | cons x l ih =>
    intro s t h
    rw [List.foldlM_cons] at h
    obtain ⟨u, hu, ht⟩ := Option.bind_eq_some_iff.mp h
    have hu := State.reach_spec hu
    have ht := ih ht
    rw [ht, hu]

theorem State.outsideRead_done {q va n : Nat} {l : List Byte} {t : State} (hok : (s.part q).hostArena va = true) (hpl : (s.part q).placed va n = true)
    (hr : s.homeRead q (s.genOf q va) va n = .ok l)
    (hs : (segs va n).foldlM (fun (s : State) x => s.reach q (x.1 * 128) true) s = some t) : s.outsideRead q va n = .done (l, t) := by
  unfold State.outsideRead
  rw [if_pos (by rw [hok, hpl]; rfl), hr, hs]

theorem State.outsideRead_wait {q va n : Nat} {l : List Byte} (hok : (s.part q).hostArena va = true) (hpl : (s.part q).placed va n = true)
    (hr : s.homeRead q (s.genOf q va) va n = .ok l)
    (hs : (segs va n).foldlM (fun (s : State) x => s.reach q (x.1 * 128) true) s = none) : s.outsideRead q va n = .wait := by
  unfold State.outsideRead
  rw [if_pos (by rw [hok, hpl]; rfl), hr, hs]

theorem State.outsideRead_spec {q va n : Nat} {l : List Byte} {t : State} (h : s.outsideRead q va n = .done (l, t)) :
    t = { s with ports := t.ports } := by
  unfold State.outsideRead at h
  split at h
  · split at h
    · cases h
    · next _ _ _ _ _ hs =>
      cases h
      exact outsideReach_spec _ hs
    · cases h
  · cases h

theorem hostBar2Read_spec {off n : Nat} (hn : n ≠ 0) (hoff : off + n ≤ 2 ^ 36) :
    (∀ l s', s.hostRead off n = .done (l, s') → exec (.hostBar2Read off n) s =
      .next { s' with host := { s'.host with reads := (off, l) :: s'.host.reads } }) ∧
    (s.hostRead off n = .wait → exec (.hostBar2Read off n) s = .next s) ∧
    (s.hostRead off n = .refused → ∃ t, exec (.hostBar2Read off n) s = .next t ∧
      t.host.reads = (off, List.replicate n 0xFF) :: s.host.reads ∧ t.mem = s.mem ∧ t.ctxs = s.ctxs) := by
  have hev : evHostBar2Read off n s = match s.hostRead off n with
    | .done (l, s) => some { s with host := { s.host with reads := (off, l) :: s.host.reads } }
    | .wait => none
    | .refused => some (State.hostRefused { s with host := { s.host with reads := (off, List.replicate n 0xFF) :: s.host.reads } } off) :=
    if_neg (by simp [hn]; omega)
  refine ⟨fun l s' h => event_eq (hev.trans (by rw [h])), fun h => ?_, fun h => ?_⟩
  · exact (congrArg (event s) (hev.trans (by rw [h])) :)
  · rw [h] at hev
    exact ⟨_, event_eq hev, rfl, rfl, rfl⟩

theorem hostRead_spec (off n : Nat) :
    (∀ p va l, s.bar2Target off n = some (p, va) → (s.part p).hostArena va = true → (s.part p).placed va n = true →
      s.homeRead p (s.genOf p va) va n = .ok l →
      (∀ s', (segs va n).foldlM (fun (s : State) x => s.reach p (x.1 * 128) true) s = some s' → s.hostRead off n = .done (l, s')) ∧
      ((segs va n).foldlM (fun (s : State) x => s.reach p (x.1 * 128) true) s = none → s.hostRead off n = .wait)) ∧
    (s.bar2Target off n = none → s.hostRead off n = .refused) ∧
    (s.host.kindle = true ∨ s.parts = [] → s.bar2Target off n = none) := by
  refine ⟨fun p va l ht hok hpl hr => ?_, fun ht => ?_, fun h => if_neg ?_⟩
  · have hread : s.hostRead off n = s.outsideRead p va n := by unfold State.hostRead; rw [ht]
    exact ⟨fun s' hs => hread.trans (State.outsideRead_done hok hpl hr hs), fun hs => hread.trans (State.outsideRead_wait hok hpl hr hs)⟩
  · unfold State.hostRead
    rw [ht]
  · rcases h with h | h
    · simp [h]
    · simp [h, AMap.find]

theorem hostBar2Write_spec {off : Nat} {l : List Byte} (hn : l ≠ []) (hoff : off + l.length ≤ 2 ^ 36) :
    (∀ s' p va, s.bar2Target off l.length = some (p, va) → s.outsideWrite p va l = .done s' →
      exec (.hostBar2Write off l) s = .next s') ∧
    (∀ p va, s.bar2Target off l.length = some (p, va) → s.outsideWrite p va l = .wait → exec (.hostBar2Write off l) s = .next s) ∧
    (∀ p va, s.bar2Target off l.length = some (p, va) → s.outsideWrite p va l = .refused →
      exec (.hostBar2Write off l) s = .next (s.hostRefused off)) ∧
    (s.bar2Target off l.length = none → exec (.hostBar2Write off l) s = .next (s.hostRefused off)) := by
  have hev : evHostBar2Write off l s = match s.hostWrite off l with
    | .done s => some s
    | .wait => none
    | .refused => some (s.hostRefused off) := if_neg (by simp [hn]; omega)
  have hw {p va : Nat} (ht : s.bar2Target off l.length = some (p, va)) : s.hostWrite off l = s.outsideWrite p va l := by
    unfold State.hostWrite; rw [ht]
  refine ⟨fun s' p va ht h => event_eq ?_, fun p va ht h => ?_, fun p va ht h => event_eq ?_, fun ht => event_eq ?_⟩
  · rw [hev, hw ht, h]
  · exact (congrArg (event s) (hev.trans (by rw [hw ht, h])) :)
  · rw [hev, hw ht, h]
  · rw [hev, show s.hostWrite off l = .refused by unfold State.hostWrite; rw [ht]]

theorem outsideWrite_spec {p va : Nat} {l : List Byte} (hok : (s.part p).hostArena va = true) (hpl : (s.part p).placed va l.length = true) :
    (((s.part p).arena (arenaOf va)).state = Arn.sealed → s.outsideWrite p va l = .done s) ∧
    (∀ s', ((s.part p).arena (arenaOf va)).state ≠ Arn.sealed → s.homePut p (s.genOf p va) va l = .ok s' →
      s.outsideWrite p va l = .done s') ∧
    (∀ x, ((s.part p).arena (arenaOf va)).state ≠ Arn.sealed → s.homePut p (s.genOf p va) va l = .error (Code.link, x) →
      s.outsideWrite p va l = .wait) := by
  unfold State.outsideWrite
  rw [if_neg (by simp [hok, hpl])]
  refine ⟨fun h => if_pos (by simp [h]), fun s' h hp => ?_, fun x h hp => ?_⟩
  · rw [if_neg (by simpa using h), hp]
  · rw [if_neg (by simpa using h), hp]
    exact if_pos rfl

/-! ## BAR0 -/

/-- A word of a die's mailbox in BAR0. -/
theorem bar0Word_mbox {d o : Nat} (hd : d < 24) (ho : o < 0x2000) (v : W32) :
    s.bar0Word (0x100000 + 0x2000 * d + o) v = s.mapDie d (fun x => x.mboxWrite o v) := by
  unfold State.bar0Word
  rw [if_neg (by omega), if_pos (by simp; omega), show (0x100000 + 0x2000 * d + o - 0x100000) / 0x2000 = d by omega,
    show (0x100000 + 0x2000 * d + o) % 0x2000 = o by omega]

/-- What a write of a word leaves in a mailbox. -/
theorem bar0Write_four {d o : Nat} (hd : d < 24) (ho : o < 0x2000) (h4 : o % 4 = 0) (v : W32) :
    exec (.bar0Write (0x100000 + 0x2000 * d + o) (.four v)) s = .next (s.mapDie d (fun x => x.mboxWrite o v)) :=
  event_eq ((if_pos (by omega)).trans (congrArg some (bar0Word_mbox hd ho v)))

theorem bar0Write_eight {d o o' : Nat} (hd : d < 24) (ho : o' < 0x2000) (h4 : o + 4 = o') (h8 : o % 8 = 0) (w : W64) :
    exec (.bar0Write (0x100000 + 0x2000 * d + o) (.eight w)) s =
      .next ((s.mapDie d (fun x => x.mboxWrite o' (w.extractLsb' 32 32))).mapDie d (fun x => x.mboxWrite o (w.extractLsb' 0 32))) := by
  refine event_eq ((if_pos (by omega)).trans (congrArg some ?_))
  rw [show 0x100000 + 0x2000 * d + o + 4 = 0x100000 + 0x2000 * d + o' by omega, bar0Word_mbox hd ho, bar0Word_mbox hd (by omega)]

theorem die_mapDie_same (d : Nat) (f : Die → Die) : (s.mapDie d f).die d = f (s.die d) := by rw [State.die_mapDie, if_pos rfl]

theorem bar0Restart_spec (v : HostWord) :
    (v.low.getLsbD 9 = true → exec (.bar0Write 8 v) s = .next s.restartAll) ∧
    (v.low.getLsbD 9 = false → s.host.on = true → exec (.bar0Write 8 v) s = .next ((s.beginRestart (v.low.toNat % 256)).getD s)) := by
  have hev : evBar0Write 8 v s = some (s.bar0Word 8 v.low) := by
    cases v with
    | four v => rfl
    | eight w => rfl
  have hw (v : W32) : s.bar0Word 8 v = if v.getLsbD 9 then s.restartAll else if s.host.on then (s.beginRestart (bits v.toNat 0 8)).getD s else s := rfl
  refine ⟨fun h => event_eq (hev.trans ?_), fun h hon => event_eq (hev.trans ?_)⟩
  · rw [hw, if_pos h]
  · rw [hw, if_neg (by rw [h]; exact Bool.false_ne_true), if_pos hon, bits_low]
    rfl

/-- What a write of CMD carries beside it: a write of eight bytes brings the tag. -/
theorem bar0Cmd_exec {d : Nat} (hd : d < 24) (v : HostWord) : ∃ u : State, exec (.bar0Write (0x100000 + 0x2000 * d) v) s =
    .next (u.mapDie d (fun x => x.mboxWrite 0 v.low)) ∧ u.mem = s.mem ∧ u.ctxs = s.ctxs ∧
    u.die d = { s.die d with mbox := { (s.die d).mbox with
      tag := match v with | .eight w => BitVec.ofNat 32 (w.toNat / 2 ^ 32) | .four _ => (s.die d).mbox.tag } } := by
  cases v with
  | four v => exact ⟨s, bar0Write_four (o := 0) hd (by omega) rfl v, rfl, rfl, rfl⟩
  | eight w =>
    refine ⟨_, bar0Write_eight (o := 0) hd (by omega) rfl rfl w, rfl, rfl, ?_⟩
    rw [die_mapDie_same, show (w.extractLsb' 32 32 : W32) = BitVec.ofNat 32 (w.toNat / 2 ^ 32) by
      apply BitVec.eq_of_toNat_eq; simp [Nat.shiftRight_eq_div_pow]]
    rfl

theorem bar0Cmd_spec {d : Nat} (hd : d < 24) (v : HostWord) :
    let tag : W32 := match v with | .eight w => BitVec.ofNat 32 (w.toNat / 2 ^ 32) | .four _ => (s.die d).mbox.tag
    ((s.die d).mbox.status ≠ 1 →
      ∃ t, exec (.bar0Write (0x100000 + 0x2000 * d) v) s = .next t ∧ (t.die d).mbox.status = 1 ∧
        (t.die d).mbox.cmd = v.low.toNat ∧ (t.die d).mbox.tag = tag ∧
        (t.die d).mboxRing = true ∧ t.mem = s.mem ∧ t.ctxs = s.ctxs) ∧
    ((s.die d).mbox.status = 1 →
      ∃ t, exec (.bar0Write (0x100000 + 0x2000 * d) v) s = .next t ∧ (t.die d).mboxRing = (s.die d).mboxRing ∧
        (t.die d).mbox = { (s.die d).mbox with tag := tag } ∧ t.mem = s.mem ∧ t.ctxs = s.ctxs) := by
  intro tag
  obtain ⟨u, hex, hmem, hctx, hu⟩ := bar0Cmd_exec (s := s) hd v
  have hdie : (u.mapDie d (fun x => x.mboxWrite 0 v.low)).die d = (u.die d).mboxWrite 0 v.low := die_mapDie_same d _
  refine ⟨fun h => ?_, fun h => ?_⟩
  · have hd1 : (u.die d).mboxWrite 0 v.low = { u.die d with mbox := { (u.die d).mbox with cmd := v.low.toNat, status := 1 }, mboxRing := true } :=
      if_neg (by rw [hu]; exact h)
    rw [hd1, hu] at hdie
    exact ⟨_, hex, (congrArg (fun x => x.mbox.status) hdie :), (congrArg (fun x => x.mbox.cmd) hdie :),
      (congrArg (fun x => x.mbox.tag) hdie :), (congrArg Die.mboxRing hdie :), hmem, hctx⟩
  · have hd1 : (u.die d).mboxWrite 0 v.low = u.die d := if_pos (by rw [hu]; exact h)
    rw [hd1, hu] at hdie
    exact ⟨_, hex, (congrArg Die.mboxRing hdie :), (congrArg Die.mbox hdie :), hmem, hctx⟩

/-- What a write to a mailbox leaves there, and nowhere else. -/
def MboxSet (s : State) (d o : Nat) (x : HostWord) (m : Mbox) : Prop :=
  ∃ t, exec (.bar0Write (0x100000 + 0x2000 * d + o) x) s = .next t ∧ (t.die d).mbox = m ∧
    (t.die d).mboxRing = (s.die d).mboxRing ∧ t.mem = s.mem ∧ t.ctxs = s.ctxs

/-- A write of four bytes past the command. -/
theorem mboxSet_four {d o : Nat} (hd : d < 24) (ho : o < 0x2000) (h4 : o % 4 = 0) {v : W32} {m : Mbox}
    (hm : (s.die d).mboxWrite o v = { s.die d with mbox := m }) : MboxSet s d o (.four v) m := by
  have hdie : (s.mapDie d (fun x => x.mboxWrite o v)).die d = { s.die d with mbox := m } := (die_mapDie_same d _).trans hm
  exact ⟨_, bar0Write_four hd ho h4 v, (congrArg Die.mbox hdie :), (congrArg Die.mboxRing hdie :), rfl, rfl⟩

/-- A die with another argument in its mailbox. -/
def Die.withArg (x : Die) (a : W64) : Die := { x with mbox := { x.mbox with arg := a } }

/-- A half of the argument. -/
theorem mboxWrite_arg (x : Die) (a : W64) {o k : Nat} (ho : o = 8 ∧ k = 0 ∨ o = 12 ∧ k = 32) (v : W32) :
    (x.withArg a).mboxWrite o v = x.withArg (BitVec.ofNat 64 (setBits a.toNat k 32 v.toNat)) := by
  unfold Die.mboxWrite Die.withArg
  dsimp only
  rw [if_neg (by omega), if_neg (by omega), if_pos (by simp; omega), show 8 * (o - 8) = k by omega]

/-- Its two halves are the argument. -/
theorem mboxWrite_args (x : Die) (w : W64) :
    (x.mboxWrite 12 (w.extractLsb' 32 32)).mboxWrite 8 (w.extractLsb' 0 32) = x.withArg w := by
  rw [show x = x.withArg x.mbox.arg from rfl, mboxWrite_arg _ _ (.inr ⟨rfl, rfl⟩), mboxWrite_arg _ _ (.inl ⟨rfl, rfl⟩), halves_put]
  rfl

theorem mboxWrite_data (x : Die) {o : Nat} (ho : 0x40 ≤ o) (v : W32) :
    x.mboxWrite o v = { x with mbox := { x.mbox with data := putBytes x.mbox.data (o - 0x40) (leBytes 4 v.toNat) } } := by
  unfold Die.mboxWrite
  rw [if_neg (by omega), if_neg (by omega), if_neg (by simp; omega), if_neg (by omega), if_neg (by omega)]

theorem mboxSet_arg {d : Nat} (hd : d < 24) (w : W64) : MboxSet s d 8 (.eight w) { (s.die d).mbox with arg := w } := by
  obtain ⟨t, hex, hmem, hctx, hdie⟩ : ∃ t : State, exec (.bar0Write (0x100000 + 0x2000 * d + 8) (.eight w)) s = .next t ∧ t.mem = s.mem ∧
      t.ctxs = s.ctxs ∧ t.die d = ((s.die d).mboxWrite 12 (w.extractLsb' 32 32)).mboxWrite 8 (w.extractLsb' 0 32) :=
    ⟨_, bar0Write_eight hd (by omega) rfl rfl w, rfl, rfl, by rw [die_mapDie_same, die_mapDie_same]⟩
  rw [mboxWrite_args] at hdie
  exact ⟨t, hex, (congrArg Die.mbox hdie :), (congrArg Die.mboxRing hdie :), hmem, hctx⟩

theorem mboxFields_spec {d : Nat} (hd : d < 24) (v : W32) (w : W64) :
    MboxSet s d 4 (.four v) { (s.die d).mbox with tag := v } ∧ MboxSet s d 8 (.eight w) { (s.die d).mbox with arg := w } ∧
    MboxSet s d 0x10 (.four v) { (s.die d).mbox with len := v.toNat } ∧
    MboxSet s d 0x14 (.four v) (s.die d).mbox ∧ MboxSet s d 0x18 (.four v) (s.die d).mbox ∧
    (∀ o, 0x40 ≤ o → o < 0x2000 → o % 4 = 0 →
      MboxSet s d o (.four v) { (s.die d).mbox with data := putBytes (s.die d).mbox.data (o - 0x40) (leBytes 4 v.toNat) }) :=
  ⟨mboxSet_four hd (by omega) rfl rfl, mboxSet_arg hd w, mboxSet_four hd (by omega) rfl rfl, mboxSet_four hd (by omega) rfl rfl,
    mboxSet_four hd (by omega) rfl rfl, fun _ h1 h2 h4 => mboxSet_four hd h2 h4 (mboxWrite_data _ h1 v)⟩

/-- A half of an aperture's descriptor. -/
theorem bar0Word_aper {i o : Nat} (hi : i < 16) (ho : o = 0 ∨ o = 4) (v : W32) :
    s.bar0Word (0x200000 + 16 * i + o) v = { s with host := { s.host with
      aper := AMap.set 0 s.host.aper i (aperture (BitVec.ofNat 64 (setBits (AMap.get (0 : W64) s.host.aper i).toNat (8 * o) 32 v.toNat))) } } := by
  unfold State.bar0Word
  rw [if_neg (by omega), if_neg (by simp; omega), if_pos (by simp; omega), show (0x200000 + 16 * i + o - 0x200000) / 16 = i by omega,
    show (0x200000 + 16 * i + o) % 8 = o by omega]

theorem aperture_halves (old w : W64) :
    aperture (BitVec.ofNat 64 (setBits (aperture (BitVec.ofNat 64 (setBits old.toNat (8 * 4) 32 (w.extractLsb' 32 32).toNat))).toNat (8 * 0) 32
      (w.extractLsb' 0 32).toNat)) = w &&& 0x00FFFFFFFF000001 := by
  unfold aperture
  refine BitVec.eq_of_getLsbD_eq fun i hi => ?_
  simp only [BitVec.getLsbD_and, BitVec.getLsbD_ofNat, testBit_setBits, BitVec.testBit_toNat, BitVec.getLsbD_extractLsb']
  by_cases h : i < 32
  · simp [h, hi]
  · simp [h, hi, show 32 ≤ i by omega, show i - 32 < 32 by omega, show 32 + (i - 32) = i by omega]

theorem bar0Aperture_spec {i : Nat} (hi : i < 16) (v : W64) : ∃ t, exec (.bar0Write (0x200000 + 16 * i) (.eight v)) s = .next t ∧
    (∀ j, AMap.get 0 t.host.aper j = if j = i then v &&& 0x00FFFFFFFF000001 else AMap.get 0 s.host.aper j) ∧
    t.mem = s.mem ∧ t.ctxs = s.ctxs := by
  have hw := bar0Word_aper (s := s) hi (.inr rfl) (v.extractLsb' 32 32)
  refine ⟨_, event_eq ((if_pos (by omega)).trans (congrArg some (bar0Word_aper (o := 0) hi (.inl rfl) _))), fun j => ?_, ?_, ?_⟩
  · rw [hw]
    dsimp only
    rw [AMap.get_set_same, aperture_halves, AMap.get_set]
    split
    · rfl
    · next h => rw [AMap.get_set_ne _ _ _ _ _ h]
  · rw [hw]
  · rw [hw]

/-! ## Mailbox requests -/

/-- A die whose mailbox is answered. -/
def Die.replied (x : Die) (reply : Option (List Byte)) (status : Nat) : Die :=
  let m := match reply with
    | some l => { x.mbox with data := putBytes x.mbox.data 0 l, rlen := l.length }
    | none => x.mbox
  { x with mbox := { m with status := status } }

theorem mboxReply_die (d : Nat) (l : Option (List Byte)) (k : Nat) : (s.mboxReply d l k).die d = (s.die d).replied l k :=
  die_mapDie_same (s := s) d (fun x => x.replied l k)

theorem mboxReply_status (d : Nat) (l : Option (List Byte)) (k : Nat) : ((s.mboxReply d l k).die d).mbox.status = k := by
  rw [mboxReply_die]
  rfl

theorem mboxReply_rlen (d : Nat) (l : List Byte) (k : Nat) : ((s.mboxReply d (some l) k).die d).mbox.rlen = l.length := by
  rw [mboxReply_die]
  rfl

theorem mboxRom_spec (hb : s.mboxBusy 0 = true) :
    let m := (s.die 0).mbox
    let img := s.host.assembled m.arg.toNat
    (m.cmd = 0x41 → exec .mboxAttestation s = .next (s.mboxReply 0 (some (s.report (bytesAt m.data 0 64))) 2)) ∧
    (m.cmd = 0x51 → m.len ≤ 8128 → m.arg.toNat + m.len ≤ imageMax → exec .mboxImageChunk s = .next (State.mboxReply { s with
      host := { s.host with chunk := putAll s.host.chunk m.arg.toNat (bytesAt m.data 0 m.len) } } 0 none 2)) ∧
    (m.cmd = 0x51 → (8128 < m.len ∨ imageMax < m.arg.toNat + m.len) → exec .mboxImageChunk s = .next (s.mboxReply 0 none 3)) ∧
    (m.cmd = 0x52 → imageMax < m.arg.toNat ∨ Config.verifies img = false → exec .mboxImageCommit s = .next (s.mboxReply 0 none 3)) ∧
    (m.cmd = 0x52 → m.arg.toNat ≤ imageMax → Config.verifies img = true → s.host.kindle = false →
      ∃ t, exec .mboxImageCommit s = .next t ∧ t.host.image = img ∧ t.host.chunk = s.host.chunk ∧
        (t.die 0).mbox.status = 2 ∧ t.mem = s.mem ∧ t.ctxs = s.ctxs) ∧
    (m.cmd = 0x52 → m.arg.toNat ≤ imageMax → Config.verifies img = true → s.host.kindle = true →
      ∃ t, exec .mboxImageCommit s = .next t ∧ t.host.image = img ∧ t.host.fails = 0 ∧ t.host.on = false) := by
  intro m img
  have hhas {k : Nat} (hk : m.cmd = k) : s.mboxHas k = true := by
    unfold State.mboxHas
    rw [hb]
    exact decide_eq_true hk
  have hask {k : Nat} (hk : m.cmd = k) : ¬ (!s.mboxHas k) = true := by rw [hhas hk]; exact Bool.false_ne_true
  have hgo (hi : m.arg.toNat ≤ imageMax) (hv : Config.verifies img = true) : ¬ (decide (imageMax < m.arg.toNat) || !Config.verifies img) = true := by
    rw [hv, decide_eq_false (by omega)]
    exact Bool.false_ne_true
  refine ⟨fun hk => event_eq (if_pos (hhas hk)), fun hk hl ha => event_eq ?_, fun hk hl => event_eq ?_, fun hk hi => event_eq ?_,
    fun hk hi hv hn => ?_, fun hk hi hv hn => ?_⟩
  · exact (if_neg (hask hk)).trans (if_neg (by simpa using ⟨hl, ha⟩))
  · exact (if_neg (hask hk)).trans (if_pos (by simpa using hl))
  · exact (if_neg (hask hk)).trans (if_pos (by simpa using hi))
  · refine ⟨_, event_eq ((if_neg (hask hk)).trans ((if_neg (hgo hi hv)).trans (if_neg ?_))), rfl, rfl, mboxReply_status 0 none 2, rfl, rfl⟩
    exact fun h => Bool.false_ne_true (hn.symm.trans h)
  · exact ⟨_, event_eq ((if_neg (hask hk)).trans ((if_neg (hgo hi hv)).trans (if_pos hn))), rfl, rfl, rfl⟩

theorem mboxFirmware_spec {die : Nat} {reply : List Byte} {refuse : Bool} (hb : s.mboxBusy die = true)
    (hcode : ¬ (die = 0 ∧ ((s.die die).mbox.cmd = 0x41 ∨ (s.die die).mbox.cmd = 0x51 ∨ (s.die die).mbox.cmd = 0x52))) :
    (s.host.kindle = true ∨ refuse = true → exec (.mboxFirmwareRequest die reply refuse) s = .next (s.mboxReply die none 3)) ∧
    (s.host.kindle = false → refuse = false → die ≠ 0 →
      exec (.mboxFirmwareRequest die reply refuse) s = .next (s.mboxReply die (some (reply.take 8128)) 2)) ∧
    (s.host.kindle = false → refuse = false → ∃ t, exec (.mboxFirmwareRequest die reply refuse) s = .next t ∧
      (t.die die).mbox.status = 2 ∧ (t.die die).mbox.rlen = min reply.length 8128 ∧ t.host.msix = die :: s.host.msix ∧
      t.mem = s.mem ∧ t.ctxs = s.ctxs) := by
  have hgo : ¬ (!s.mboxBusy die || romCode die (s.die die).mbox.cmd) = true := by
    unfold romCode
    rw [hb]
    simpa [or_assoc] using hcode
  have hserve (hn : s.host.kindle = false) (hr : refuse = false) : ¬ (s.host.kindle || refuse) = true := by
    rw [hn, hr]; exact Bool.false_ne_true
  refine ⟨fun h => event_eq ((if_neg hgo).trans (if_pos (by simpa using h))), fun hn hr hd => event_eq ?_, fun hn hr => ?_⟩
  · refine (if_neg hgo).trans ((if_neg (hserve hn hr)).trans ?_)
    rw [if_neg hd]
  · obtain ⟨u, hu, hmsix, hmem, hctx⟩ : ∃ u : State, evMboxFirmwareRequest die reply refuse s = some (u.mboxReply die (some (reply.take 8128)) 2) ∧
        u.host.msix = s.host.msix ∧ u.mem = s.mem ∧ u.ctxs = s.ctxs := by
      refine ⟨_, (if_neg hgo).trans (if_neg (hserve hn hr)), ?_⟩
      split
      · split <;> exact ⟨rfl, rfl, rfl⟩
      · exact ⟨rfl, rfl, rfl⟩
    refine ⟨_, event_eq hu, mboxReply_status _ _ _, ?_, congrArg (die :: ·) hmsix, hmem, hctx⟩
    rw [mboxReply_rlen, List.length_take, Nat.min_comm]

end

end Sys2Proof.Machine

/-! SUPPORT. The Larlan ports, and what reaches the module from outside (R317, R438 to R444). -/

namespace Sys2Proof.Machine

/-! ## Groups that a port sends -/

/-- Groups sent one after the other. -/
theorem Port.foldl_sendGroup (p : Nat) (gs : List (List Byte)) : ∀ x : Port, gs.foldl (fun (x : Port) g => x.sendGroup p g) x =
    { x with replies := x.replies ++ (gs.zipIdx x.sent).map (fun e => Config.gcm x.sendKey (nonce p true e.2) e.1),
             sent := x.sent + gs.length, plain := x.plain ++ gs } := by
  induction gs with
  | nil => intro x; simp
  | cons g gs ih =>
    intro x
    rw [List.foldl_cons, ih]
    simp [Port.sendGroup, List.zipIdx_cons, Nat.add_assoc, Nat.add_comm 1]

/-- The groups of some bytes. -/
def portGroups (l : List Byte) : List (List Byte) :=
  (List.range (max 1 (ceilDiv l.length 1024))).map (fun i => fixLen 1024 ((l.drop (1024 * i)).take 1024))

theorem Port.send_eq (x : Port) (p : Nat) (l : List Byte) : Port.send x p l =
    { x with replies := x.replies ++ ((portGroups l).zipIdx x.sent).map (fun e => Config.gcm x.sendKey (nonce p true e.2) e.1),
             sent := x.sent + (portGroups l).length, plain := x.plain ++ portGroups l } := by
  rw [← Port.foldl_sendGroup, portGroups, List.foldl_map]
  rfl

theorem Port.send_spec (x : Port) (p : Nat) (l : List Byte) :
    (Port.send x p l).sent = x.sent + max 1 (ceilDiv l.length 1024) ∧ (Port.send x p l).count = x.count ∧
    (Port.send x p l).plain = x.plain ++
      (List.range (max 1 (ceilDiv l.length 1024))).map (fun i => fixLen 1024 ((l.drop (1024 * i)).take 1024)) ∧
    (Port.send x p l).replies = x.replies ++ (List.range (max 1 (ceilDiv l.length 1024))).map (fun i =>
      Config.gcm x.sendKey (nonce p true (x.sent + i)) (fixLen 1024 ((l.drop (1024 * i)).take 1024))) := by
  rw [Port.send_eq]
  refine ⟨by simp [portGroups], rfl, rfl, congrArg (x.replies ++ ·) (List.ext_getElem (by simp [portGroups]) fun i h1 h2 => ?_)⟩
  simp [portGroups]

section
variable {s : State} {p : Nat}

/-! ## Training -/

/-- A port that has trained anew: fresh keys, counts at 0, and the groups that it held sent again. -/
def Port.renewed (x : Port) (p : Nat) : Port :=
  let keys : List Byte := fixLen 64 (Config.sha3 (leBytes 32 (Config.linkSecret p x.epoch)))
  { trained := true, epoch := x.epoch + 1, sendKey := keys.take 32, recvKey := keys.drop 32, count := 0,
    sent := x.again.length, plain := x.again, again := [],
    replies := x.replies ++ x.again.zipIdx.map (fun e => Config.gcm (keys.take 32) (nonce p true e.2) e.1) }

theorem Port.agree_eq (x : Port) (p : Nat) : x.agree p = x.renewed p := by
  unfold Port.agree
  rw [Port.foldl_sendGroup]
  simp only [Nat.zero_add, List.nil_append]
  rfl

theorem State.port_put (p : Nat) (x : Port) : State.port { s with ports := s.ports.put p x } p = x := by
  unfold State.port
  rw [AMap.find_put_same, Option.getD_some]

theorem portTrain_spec (hl : s.portLive p = true) (h : (s.port p).trained = false) :
    exec (.larlanPortTrain p) s = .next { s with ports := s.ports.put p ((s.port p).renewed p) } := by
  refine event_eq ((if_pos (by rw [hl, h]; rfl)).trans ?_)
  rw [Port.agree_eq]

theorem keyExpiry_spec (hl : s.portLive p = true) (h : (s.port p).trained = true) (hc : (s.port p).count < 2 ^ 48) (hs : (s.port p).sent < 2 ^ 48) :
    exec (.larlanKeyExpiry p) s = .next { s with ports := s.ports.put p ((s.port p).renewed p) } := by
  refine event_eq ((if_pos ?_).trans ?_)
  · rw [hl, h]
    exact decide_eq_true (Nat.max_lt.mpr ⟨hc, hs⟩)
  · rw [Port.agree_eq]

theorem laneLoss_spec (hl : s.portLive p = true) (h : (s.port p).trained = true) :
    ∃ k, k ≤ (s.port p).plain.length ∧ exec (.larlanLaneLoss p) s =
      .next (State.postError { s with ports := s.ports.put p { s.port p with trained := false, again := (s.port p).plain.drop k } } (portDie p)
        (errorRec (portDie p) (eccAddr 9 p 31 0) true Code.link)) :=
  ⟨_, Nat.le_of_lt_succ (Nat.mod_lt (Config.linkAcked s.tick p) (Nat.succ_pos _)), event_eq (if_pos (by rw [hl, h]; rfl))⟩

/-! ## A LINK failure, and accesses from another module -/

theorem link_spec {q : Nat} (hl : s.portLive p = true) (hq : s.dieParts.find (portDie p) = some q) (h : (s.port p).trained = true)
    (hr : (s.part q).ready = true) :
    ∃ t, exec (.link p) s = .next t ∧ (t.part q).ready = false ∧ (t.part q).down = true ∧
      (∀ r ∈ t.reqs, r.part ≠ q) ∧ (∀ j, j ≠ q → t.part j = s.part j) ∧ t.host = s.host := by
  obtain ⟨t, ht, hparts, hreqs, hhost⟩ : ∃ t : State, evLink p s = some t ∧ t.parts = s.parts.put q (Part.stopped (s.part q).live) ∧
      t.reqs = s.reqs.filter (fun r => r.part ≠ q) ∧ t.host = s.host := by
    unfold evLink
    dsimp only
    rw [hq]
    exact ⟨_, if_pos (by rw [hl, h, hr]; rfl), rfl, rfl, rfl⟩
  have hpart (j : Nat) : t.part j = if j = q then Part.stopped (s.part q).live else s.part j := by
    unfold State.part
    rw [hparts, AMap.find_put]
    split <;> rfl
  refine ⟨t, event_eq ht, ?_, ?_, fun r hmem => ?_, fun j hj => (hpart j).trans (if_neg hj), hhost⟩
  · rw [hpart, if_pos rfl]; rfl
  · rw [hpart, if_pos rfl]; rfl
  · rw [hreqs] at hmem
    simpa using (List.mem_filter.mp hmem).2

/-- A state whose port has counted the groups that came to it. -/
def State.counted (s : State) (p n : Nat) : State := { s with ports := s.ports.put p { s.port p with count := (s.port p).count + n } }

/-- What a port answers. -/
def State.portAnswers (s : State) (p : Nat) (l : List Byte) : State := { s with ports := s.ports.put p ((s.port p).send p l) }

theorem remoteAccess_eq {q : Nat} (acc : RemoteAccess) (hl : s.portLive p = true) (hq : s.dieParts.find (portDie p) = some q)
    (h : (s.port p).trained = true) (hr : (s.part q).ready = true) (hc : (s.port p).count + (accessGroups acc).1 < 2 ^ 48)
    (hs : (s.port p).sent + (accessGroups acc).2 < 2 ^ 48) :
    evLarlanRemoteAccess p acc s = match acc with
      | .load va n =>
        (match (s.counted p (accessGroups acc).1).outsideRead q (va % 2 ^ 56) n with
        | .done (l, t) => some (t.portAnswers p l)
        | .wait => none
        | .refused => some ((s.counted p (accessGroups acc).1).portAnswers p (List.replicate n 0xFF)))
      | .store va bytes =>
        (match (s.counted p (accessGroups acc).1).outsideWrite q (va % 2 ^ 56) bytes with
        | .done t => some t
        | .wait => none
        | .refused => some (s.counted p (accessGroups acc).1)) := by
  unfold evLarlanRemoteAccess
  dsimp only
  rw [hq]
  exact if_neg (by rw [hl, h, hr, decide_eq_true hc, decide_eq_true hs]; exact Bool.false_ne_true)

theorem remoteLoad_spec {q : Nat} (va n : Nat) (hl : s.portLive p = true) (hq : s.dieParts.find (portDie p) = some q)
    (h : (s.port p).trained = true) (hr : (s.part q).ready = true) (hc : (s.port p).count + 1 < 2 ^ 48)
    (hs : (s.port p).sent + groupsFor n < 2 ^ 48) :
    (∀ l s2, (s.counted p 1).outsideRead q (va % 2 ^ 56) n = .done (l, s2) →
      ∃ t, exec (.larlanRemoteAccess p (.load va n)) s = .next t ∧ t.port p = (s2.port p).send p l ∧ t.mem = s.mem ∧ t.ctxs = s.ctxs) ∧
    ((s.counted p 1).outsideRead q (va % 2 ^ 56) n = .wait → exec (.larlanRemoteAccess p (.load va n)) s = .next s) ∧
    ((s.counted p 1).outsideRead q (va % 2 ^ 56) n = .refused →
      ∃ t, exec (.larlanRemoteAccess p (.load va n)) s = .next t ∧
        t.port p = Port.send { s.port p with count := (s.port p).count + 1 } p (List.replicate n 0xFF) ∧ t.mem = s.mem ∧ t.ctxs = s.ctxs) := by
  have hev := remoteAccess_eq (.load va n) hl hq h hr hc hs
  dsimp only [accessGroups] at hev
  refine ⟨fun l s2 ho => ?_, fun ho => ?_, fun ho => ?_⟩
  · rw [ho] at hev
    have hs2 := State.outsideRead_spec ho
    exact ⟨_, event_eq hev, State.port_put _ _, (congrArg State.mem hs2 :), (congrArg State.ctxs hs2 :)⟩
  · rw [ho] at hev
    exact (congrArg (event s) hev :)
  · rw [ho] at hev
    refine ⟨_, event_eq hev, (State.port_put _ _).trans ?_, rfl, rfl⟩
    rw [State.counted, State.port_put]

theorem remoteStore_spec {q : Nat} (va : Nat) (l : List Byte) (hl : s.portLive p = true) (hq : s.dieParts.find (portDie p) = some q)
    (h : (s.port p).trained = true) (hr : (s.part q).ready = true) (hc : (s.port p).count + groupsFor l.length < 2 ^ 48)
    (hs : (s.port p).sent < 2 ^ 48) :
    (∀ s2, (s.counted p (groupsFor l.length)).outsideWrite q (va % 2 ^ 56) l = .done s2 → exec (.larlanRemoteAccess p (.store va l)) s = .next s2) ∧
    ((s.counted p (groupsFor l.length)).outsideWrite q (va % 2 ^ 56) l = .wait → exec (.larlanRemoteAccess p (.store va l)) s = .next s) ∧
    ((s.counted p (groupsFor l.length)).outsideWrite q (va % 2 ^ 56) l = .refused →
      exec (.larlanRemoteAccess p (.store va l)) s = .next (s.counted p (groupsFor l.length))) := by
  have hev := remoteAccess_eq (.store va l) hl hq h hr hc hs
  dsimp only [accessGroups] at hev
  refine ⟨fun s2 ho => event_eq (hev.trans (by rw [ho])), fun ho => ?_, fun ho => event_eq (hev.trans (by rw [ho]))⟩
  exact (congrArg (event s) (hev.trans (by rw [ho])) :)

/-! ## Accesses of the device -/

theorem length_fixLen (n : Nat) (l : List Byte) : (fixLen n l).length = n := by
  unfold fixLen
  rw [List.length_append, List.length_take, List.length_replicate]
  omega

theorem overLink_spec (q unit : Nat) (reads : Bool) :
    (unit < 32 → s.overLink q unit reads = some s) ∧
    (32 ≤ unit → s.openPorts q = [] → s.overLink q unit reads = none) ∧
    (32 ≤ unit → s.openPorts q ≠ [] → ∃ p ∈ s.openPorts q, ∃ l : List Byte, l.length = 1024 ∧
      s.overLink q unit reads =
        some { s with ports := s.ports.put p { Port.send (s.port p) p l with count := (s.port p).count + b2n reads } }) := by
  refine ⟨fun h => if_pos h, fun h ho => ?_, fun h ho => ?_⟩
  · unfold State.overLink
    rw [if_neg (by omega), ho]
  · obtain ⟨p0, l, hp⟩ := List.exists_cons_of_ne_nil ho
    have hlt : Config.linkPort s.tick unit % (l.length + 1) < (p0 :: l).length := Nat.mod_lt _ (Nat.succ_pos _)
    refine ⟨(p0 :: l).getD (Config.linkPort s.tick unit % (l.length + 1)) p0, ?_, fixLen 1024 (Config.linkBytes s.tick), length_fixLen _ _, ?_⟩
    · rw [hp, List.getD_eq_getElem _ _ hlt]
      exact List.getElem_mem hlt
    · unfold State.overLink
      rw [if_neg (by omega), hp]
      dsimp only
      rw [Port.send_count]
      rfl

end

/-- Settles O52: each rule of the host side and of the ports is a case of its event's one equation. -/
theorem outsideSteps : Obligations.OutsideSteps := by
  unfold Obligations.OutsideSteps
  refine ⟨fun s off n hn hoff => hostBar2Read_spec hn hoff, fun s off n => hostRead_spec off n, fun s off l hl hoff => hostBar2Write_spec hl hoff,
    fun s p va l hok hpl => outsideWrite_spec hok hpl,
    fun s v => ⟨(bar0Restart_spec v).1, (bar0Restart_spec v).2, fun d hd => (bar0Cmd_spec hd v).1, fun d hd => (bar0Cmd_spec hd v).2⟩,
    fun s v w d hd => mboxFields_spec hd v w, fun s v i hi => bar0Aperture_spec hi v, fun s hb => mboxRom_spec hb,
    fun s die reply refuse hb hcode => mboxFirmware_spec hb hcode, fun s p hl => ?_, fun s q va n l hok hpl hr s' hs => State.outsideRead_done hok hpl hr hs,
    Port.send_spec, fun s q unit reads => overLink_spec q unit reads, fun s image config n => rfl⟩
  refine ⟨fun h => ⟨_, portTrain_spec hl h, State.port_put _ _, rfl, rfl, rfl⟩, fun h => laneLoss_spec hl h,
    fun h hc hs => ⟨_, keyExpiry_spec hl h hc hs, State.port_put _ _, rfl, rfl, rfl⟩, fun q hq h hr => ?_⟩
  exact ⟨link_spec hl hq h hr, fun va n hc hs => remoteLoad_spec va n hl hq h hr hc hs, fun va l hc hs => remoteStore_spec va l hl hq h hr hc hs⟩

end Sys2Proof.Machine

/-! SUPPORT. Starts, restarts, heat and power (R446 to R449, R451). -/

namespace Sys2Proof.Machine

/-! ## Fields of a boot record -/

theorem bits_setBits_ne (v lo n x : Nat) {lo' n' : Nat} (h : lo' + n' ≤ lo ∨ lo + n ≤ lo') : bits (setBits v lo n x) lo' n' = bits v lo' n' := by
  unfold bits
  refine Nat.eq_of_testBit_eq fun i => ?_
  simp only [Nat.testBit_mod_two_pow, Nat.testBit_shiftRight, testBit_setBits]
  by_cases hi : i < n'
  · rw [if_neg (by omega)]
  · simp [hi]

theorem bits_bootRecord (live : BitVec 24) {die reason fails stage : Nat} (kindle : Bool) (hd : die < 256) (hr : reason < 256) (hf : fails < 16)
    (hs : stage < 16) : bits (bootRecord live die reason fails stage kindle).toNat 16 8 = reason ∧
    bits (bootRecord live die reason fails stage kindle).toNat 24 8 = die ∧ bits (bootRecord live die reason fails stage kindle).toNat 8 4 = stage := by
  have hk : b2n kindle < 2 := by cases kindle <;> decide
  unfold bootRecord
  rw [BitVec.toNat_ofNat, bits_mod_pow _ _ _ _ (by omega), bits_mod_pow _ _ _ _ (by omega), bits_mod_pow _ _ _ _ (by omega), bits_eq, bits_eq, bits_eq]
  omega

/-! ## Dies of a module that has just begun -/

theorem AMap.find_keyed {β : Type} (f : Nat → β) (l : List Nat) (d : Nat) :
    AMap.find (l.map (fun d => (d, f d))) d = if d ∈ l then some (f d) else none := by
  induction l with
  | nil => rfl
  | cons k l ih =>
    rw [List.map_cons, AMap.find]
    by_cases h : d = k
    · rw [if_pos h, if_pos (h ▸ List.mem_cons_self), h]
    · rw [if_neg h, ih]
      exact if_congr (by simp [h]) rfl rfl

/-- The dies of a list that names each of the 24. -/
theorem State.die_keyed {s : State} {f : Nat → Die} (h : s.dies = (List.range 24).map (fun d => (d, f d))) {d : Nat} (hd : d < 24) :
    s.die d = f d := by
  unfold State.die
  rw [h, AMap.find_keyed, if_pos (List.mem_range.mpr hd), Option.getD_some]

section
variable {s : State}

/-- A start that has failed leaves nothing running, and the record says why. -/
def Ended (t : State) (fails reason die stage : Nat) : Prop :=
  t.host.fails = fails ∧ t.host.on = true ∧ t.ctxs = [] ∧ (∀ d, t.hearthRuns d = false) ∧
    bits (t.die 0).bootrec.toNat 16 8 = reason ∧ bits (t.die 0).bootrec.toNat 24 8 = die ∧ bits (t.die 0).bootrec.toNat 8 4 = stage

theorem failStart_ended (live : BitVec 24) {die reason stage : Nat} (hd : die < 256) (hr : reason < 256) (hs : stage < 16) :
    Ended (s.failStart live die reason stage) (min 3 (s.host.fails + 1)) reason die stage :=
  by
  have hdie : (s.failStart live die reason stage).die 0 = { Die.init with bootrec := bootRecord live die reason (min 3 (s.host.fails + 1)) stage false } :=
    State.die_keyed (f := fun _ => { Die.init with bootrec := bootRecord live die reason (min 3 (s.host.fails + 1)) stage false }) rfl (by omega)
  refine ⟨rfl, rfl, rfl, fun _ => rfl, ?_⟩
  rw [hdie]
  exact bits_bootRecord live false hd hr (by omega) hs

/-! ## Causes -/

theorem stepFinds_bounds {a : BitVec 24} {t : StartTests} {ds : List Nat} {k : Nat} {c : Nat × Nat} (h : stepFinds a t ds k = some c) :
    c.1 < 256 ∧ c.2 ∈ ds := by
  have first {r : Nat} {m : BitVec 24} (hr : r < 256) (hf : (ds.find? (fun d => !m.getLsbD d)).map (fun d => (r, d)) = some c) :
      c.1 < 256 ∧ c.2 ∈ ds := by
    obtain ⟨d, hd, rfl⟩ := Option.map_eq_some_iff.mp hf
    exact ⟨hr, List.mem_of_find?_eq_some hd⟩
  unfold stepFinds at h
  split at h
  · exact first (by omega) h
  · exact first (by omega) h
  · exact first (by omega) h
  · exact first (by omega) h
  · cases h

theorem startCause_bounds {a : BitVec 24} {t : StartTests} {lo stage : Nat} {c : Nat × Nat} (h : startCause a t allDies lo stage = some c) :
    c.1 < 256 ∧ c.2 < 24 := by
  obtain ⟨k, -, hk⟩ := List.exists_of_findSome?_eq_some h
  obtain ⟨hr, hd⟩ := stepFinds_bounds hk
  exact ⟨hr, List.mem_range.mp hd⟩

theorem startCause_getD (a : BitVec 24) (t : StartTests) (lo stage : Nat) :
    ((startCause a t allDies lo stage).getD (0, 0)).1 < 256 ∧ ((startCause a t allDies lo stage).getD (0, 0)).2 < 256 := by
  cases h : startCause a t allDies lo stage with
  | none => exact ⟨by decide, by decide⟩
  | some c => exact ⟨(startCause_bounds h).1, (startCause_bounds h).2.trans (by omega)⟩

/-- The lowest die whose hearth does not accept the image is the first cause (R446). -/
theorem startCause_image {a : BitVec 24} (t : StartTests) {d : Nat} (hd : d < 24) (h : a.getLsbD d = false) (hlow : ∀ e, e < d → a.getLsbD e = true) :
    startCause a t allDies 1 4 = some (1, d) := by
  have hfind : (List.range 24).find? (fun d => !a.getLsbD d) = some d :=
    List.find?_range_eq_some.mpr ⟨by simp [h], List.mem_range.mpr hd, fun e he => by simp [hlow e he]⟩
  have hstep : stepFinds a t allDies 1 = some (1, d) := congrArg (Option.map fun d => (1, d)) hfind
  show ([1, 2, 3, 4].findSome? (stepFinds a t allDies)) = _
  rw [List.findSome?_cons, hstep]

/-! ## What a module start does -/

/-- The module once its dies have been found, with no partition yet. -/
def State.booted (s : State) (x : StartTests) : State :=
  let cause := (startCause (s.accepts x) x allDies 1 4).getD (0, 0)
  let boot := bootRecord (liveAt x 4) cause.2 cause.1 0 6 false
  let t := s.halted boot
  { t with
    host := { t.host with on := true, up := true, fails := 0, runs := s.host.image, current := s.host.config }
    dies := (List.range 24).map (fun d => (d, { Die.init with bootrec := boot, live := (liveAt x 4).getLsbD d, sram := x.sram.getLsbD d }))
    dieParts := (List.range 24).filterMap (fun d => ((s.host.config.zipIdx.find? (fun e => e.1.getLsbD d))).map (fun e => (d, e.2))) }

theorem evModuleStart_run (x : StartTests) (hon : s.host.on = false) (hf : s.host.fails ≠ 3) :
    evModuleStart x s =
      if !s.reaches x 1 then some (s.failStart (liveAt x 0) ((startCause (s.accepts x) x allDies 1 4).getD (0, 0)).2
        ((startCause (s.accepts x) x allDies 1 4).getD (0, 0)).1 0)
      else if !s.reaches x 5 then some (s.failStart (liveAt x 4) ((startCause (s.accepts x) x allDies 1 4).getD (0, 0)).2
        ((startCause (s.accepts x) x allDies 1 4).getD (0, 0)).1 4)
      else some (((s.host.config.map (fun m => m &&& liveAt x 4)).zipIdx.foldl (fun (s : State) (e : BitVec 24 × Nat) => s.install e.2 e.1)
        (s.booted x)).syncBoot) :=
  (if_neg (by rw [hon]; exact Bool.false_ne_true)).trans (if_neg hf)

theorem accepts_of_reaches {x : StartTests} (h : s.reaches x 5 = true) : s.reaches x 1 = true := by
  unfold State.reaches at h ⊢
  simp only [Bool.and_eq_true] at h ⊢
  exact ⟨h.1, rfl⟩

theorem moduleStart_image {x : StartTests} {d : Nat} (hon : s.host.on = false) (hf : s.host.fails ≠ 3) (hd : d < 24)
    (h : (s.accepts x).getLsbD d = false) (hlow : ∀ e, e < d → (s.accepts x).getLsbD e = true) :
    ∃ t, exec (.moduleStart x) s = .next t ∧ Ended t (min 3 (s.host.fails + 1)) 1 d 0 := by
  have hr : (!s.reaches x 1) = true := by
    have hne : s.accepts x ≠ BitVec.allOnes 24 := fun he => by
      rw [he, BitVec.getLsbD_allOnes, decide_eq_true hd] at h
      cases h
    unfold State.reaches
    rw [beq_eq_false_iff_ne.mpr hne]
    rfl
  refine ⟨_, event_eq ((evModuleStart_run x hon hf).trans (if_pos hr)), ?_⟩
  rw [startCause_image x hd h hlow]
  exact failStart_ended _ (by show d < 256; omega) (by show (1 : Nat) < 256; omega) (by omega)

theorem moduleStart_dropped {x : StartTests} (hon : s.host.on = false) (hf : s.host.fails ≠ 3) (ha : s.accepts x = BitVec.allOnes 24)
    (h : s.reaches x 5 = false) : ∃ t reason die, exec (.moduleStart x) s = .next t ∧ Ended t (min 3 (s.host.fails + 1)) reason die 4 := by
  have hr : ¬ (!s.reaches x 1) = true := by
    unfold State.reaches
    rw [ha]
    exact Bool.false_ne_true
  obtain ⟨h1, h2⟩ := startCause_getD (s.accepts x) x 1 4
  exact ⟨_, _, _, event_eq ((evModuleStart_run x hon hf).trans ((if_neg hr).trans (if_pos (by rw [h]; rfl)))), failStart_ended _ h2 h1 (by omega)⟩

/-! ## Partitions that are put in place -/

/-- Partitions put in place one after the other. -/
def State.installs (s : State) (l : List (BitVec 24 × Nat)) : State := l.foldl (fun (s : State) e => s.install e.2 e.1) s

/-- What an install sets; the tables that it writes to memory stay folded here. -/
theorem install_sets (s : State) (p : Nat) (live : BitVec 24) : ∃ mem, s.install p live = { s with
    uid := s.uid + 1, mem := mem, parts := s.parts.put p (Part.init live ((onesBelow live.toNat 24).headD 0))
    teams := s.teams.put s.uid (rootTeam (64 * (onesBelow live.toNat 24).headD 0))
    ctxs := (onesBelow live.toNat 24).foldl (fun (m : AMap Ctx) (d : Nat) => m.put (ctxKey (.hearth d)) hearthCtx)
      (s.ctxs.put (ctxKey (.slot (64 * (onesBelow live.toNat 24).headD 0) 0)) (rootCtx s.uid p live)) } :=
  ⟨_, rfl⟩

theorem install_dies (s : State) (p : Nat) (live : BitVec 24) : (s.install p live).dies = s.dies := by
  obtain ⟨mem, h⟩ := install_sets s p live
  rw [h]

theorem install_host (s : State) (p : Nat) (live : BitVec 24) : (s.install p live).host = s.host := by
  obtain ⟨mem, h⟩ := install_sets s p live
  rw [h]

/-- What no install changes, several do not. -/
theorem installs_get {β : Type} (get : State → β) (h : ∀ s p live, get (State.install s p live) = get s) (l : List (BitVec 24 × Nat)) :
    get (s.installs l) = get s :=
  foldl_get_eq get _ l s (fun s e _ => h s e.2 e.1)

theorem install_parts (s : State) (p j : Nat) (live : BitVec 24) :
    (s.install p live).parts.find j = if j = p then some (Part.init live ((onesBelow live.toNat 24).headD 0)) else s.parts.find j :=
  AMap.find_put _ _ _ _

theorem installs_parts {l : List (BitVec 24)} {i : Nat} {m : BitVec 24} (h : l[i]? = some m) :
    (s.installs l.zipIdx).parts.find i = some (Part.init m ((onesBelow m.toNat 24).headD 0)) := by
  refine foldl_get_set (fun t : State => t.parts.find i) _ l.zipIdx s (m, i) _ (List.mem_zipIdx_iff_getElem?.mpr h)
    (fun t => (install_parts t i i m).trans (if_pos rfl)) (fun t e he hne => (install_parts t e.2 i e.1).trans (if_neg fun hi => hne ?_))
  rw [List.mem_zipIdx_iff_getElem?, ← hi, h] at he
  exact Prod.ext (Option.some.inj he).symm hi.symm

/-! ## READY and DOWN in the boot records -/

/-- A die with READY and DOWN in its boot record. -/
def Die.flagged (d : Die) (ready down : Bool) : Die :=
  { d with bootrec := BitVec.ofNat 64 (setBits (setBits d.bootrec.toNat 0 1 (b2n ready)) 2 1 (b2n down)) }

/-- The flags that a die's boot record takes (R444, R446, R449). -/
def State.synced (s : State) (k : Nat) (d : Die) : Die :=
  if k = 0 then d.flagged (s.parts.all (fun p => p.2.ready)) (s.parts.any (fun p => p.2.down))
  else (s.dieParts.find k).elim d (fun p => d.flagged (s.part p).ready (s.part p).down)

theorem syncBoot_find (s : State) (k : Nat) : s.syncBoot.dies.find k = (s.dies.find k).map (s.synced k) := by
  have hdies : s.syncBoot.dies = s.dies.map (fun e => (e.1, s.synced e.1 e.2)) := by
    refine List.map_congr_left fun e _ => ?_
    unfold State.synced
    split
    · rfl
    · split
      · next hp => rw [hp]; rfl
      · next hp => rw [hp]; rfl
  rw [hdies, AMap.find_map_snd]

theorem syncBoot_rest (s : State) : (∀ a, s.syncBoot.ctx? a = s.ctx? a) ∧ s.syncBoot.teams = s.teams ∧ s.syncBoot.parts = s.parts :=
  ⟨fun _ => rfl, rfl, rfl⟩

theorem synced_rest (s : State) (k : Nat) (d : Die) : (s.synced k d).live = d.live ∧ (s.synced k d).sram = d.sram := by
  unfold State.synced
  split
  · exact ⟨rfl, rfl⟩
  · cases s.dieParts.find k <;> exact ⟨rfl, rfl⟩

theorem flagged_ready (d : Die) (down : Bool) : (d.flagged true down).bootrec.getLsbD 0 = true := by
  unfold Die.flagged
  rw [BitVec.getLsbD_ofNat, testBit_setBits, if_neg (by omega), testBit_setBits, if_pos (by omega)]
  rfl

/-- The dies of a module that has come up. -/
theorem booted_die (x : StartTests) (l : List (BitVec 24 × Nat)) {d : Nat} (hd : d < 24) : ∃ e : Die,
    ((s.booted x).installs l).syncBoot.die d = ((s.booted x).installs l).synced d e ∧ e.live = (liveAt x 4).getLsbD d ∧ e.sram = x.sram.getLsbD d := by
  refine ⟨{ Die.init with
    bootrec := bootRecord (liveAt x 4) ((startCause (s.accepts x) x allDies 1 4).getD (0, 0)).2
      ((startCause (s.accepts x) x allDies 1 4).getD (0, 0)).1 0 6 false
    live := (liveAt x 4).getLsbD d
    sram := x.sram.getLsbD d }, ?_, rfl, rfl⟩
  have hdies : ((s.booted x).installs l).dies = (s.booted x).dies := installs_get State.dies install_dies l
  have hkeyed : (s.booted x).dies = (List.range 24).map (fun d => (d, { Die.init with
    bootrec := bootRecord (liveAt x 4) ((startCause (s.accepts x) x allDies 1 4).getD (0, 0)).2
      ((startCause (s.accepts x) x allDies 1 4).getD (0, 0)).1 0 6 false
    live := (liveAt x 4).getLsbD d
    sram := x.sram.getLsbD d })) := rfl
  unfold State.die
  rw [syncBoot_find, hdies, hkeyed, AMap.find_keyed, if_pos (List.mem_range.mpr hd), Option.map_some, Option.getD_some]

/-- Steps 2 and 3 together. -/
theorem liveAt_four (x : StartTests) : liveAt x 4 = x.edges &&& x.hbm := by
  unfold liveAt
  rw [if_pos (by omega), if_pos (by omega)]

/-- A start that reaches step 6. -/
theorem moduleStart_up {x : StartTests} (hon : s.host.on = false) (hf : s.host.fails ≠ 3) (h : s.reaches x 5 = true) :
    exec (.moduleStart x) s = .next ((s.booted x).installs (s.host.config.map (fun m => m &&& liveAt x 4)).zipIdx).syncBoot :=
  event_eq ((evModuleStart_run x hon hf).trans ((if_neg (by rw [accepts_of_reaches h]; exact Bool.false_ne_true)).trans
    (if_neg (by rw [h]; exact Bool.false_ne_true))))

theorem moduleStart_parts {x : StartTests} (hon : s.host.on = false) (hf : s.host.fails ≠ 3) (h : s.reaches x 5 = true) :
    ∃ t, exec (.moduleStart x) s = .next t ∧ t.host.fails = 0 ∧ t.host.on = true ∧
      t.host.kindle = false ∧ t.host.up = true ∧ t.host.runs = s.host.image ∧ t.host.current = s.host.config ∧
      (∀ d, d < 24 → (t.die d).live = (x.edges &&& x.hbm).getLsbD d ∧ (t.die d).sram = x.sram.getLsbD d) ∧
      ∀ i m, s.host.config[i]? = some m → let live := m &&& (x.edges &&& x.hbm)
        t.parts.find i = some (Part.init live ((onesBelow live.toNat 24).headD 0)) := by
  generalize hl : (s.host.config.map (fun m => m &&& liveAt x 4)) = l
  have hhost : ((s.booted x).installs l.zipIdx).host = (s.booted x).host := installs_get State.host install_host _
  have hex := moduleStart_up hon hf h
  rw [hl] at hex
  refine ⟨_, hex, (congrArg HostSide.fails hhost :), (congrArg HostSide.on hhost :), (congrArg HostSide.kindle hhost :), (congrArg HostSide.up hhost :),
    (congrArg HostSide.runs hhost :), (congrArg HostSide.current hhost :), fun d hd => ?_, fun i m hm => ?_⟩
  · obtain ⟨e, he, hlive, hsram⟩ := booted_die (s := s) x l.zipIdx hd
    obtain ⟨h1, h2⟩ := synced_rest ((s.booted x).installs l.zipIdx) d e
    rw [he, h1, h2, hlive, hsram, liveAt_four]
    exact ⟨rfl, rfl⟩
  · refine (congrArg (fun q : AMap Part => q.find i) ?_).trans (installs_parts (m := m &&& (x.edges &&& x.hbm)) (l := l) (s := s.booted x) ?_)
    · rfl
    · rw [← hl, List.getElem?_map, hm, liveAt_four, Option.map_some]

/-! ## The whole module as one partition -/

/-- What a put of one value under many keys finds. -/
theorem AMap.find_foldl_put {β : Type} (key : Nat → Nat) (x : β) (l : List Nat) (j : Nat) : ∀ m : AMap β,
    AMap.find (l.foldl (fun m d => m.put (key d) x) m) j = if j ∈ l.map key then some x else m.find j := by
  induction l with
  | nil => intro m; rfl
  | cons d l ih =>
    intro m
    rw [List.foldl_cons, ih, AMap.find_put]
    by_cases h : j ∈ l.map key
    · rw [if_pos h, if_pos (by simp only [List.map_cons, List.mem_cons, h, or_true])]
    · rw [if_neg h]
      exact if_congr (by simp only [List.map_cons, List.mem_cons, h, or_false]) rfl rfl

/-- The dies of a partition of the whole module. -/
theorem dies_allOnes : onesBelow (BitVec.allOnes 24).toNat 24 = List.range 24 := by decide

theorem install_ctxs (s : State) : (s.install 0 (BitVec.allOnes 24)).ctxs =
    (List.range 24).foldl (fun (m : AMap Ctx) (d : Nat) => m.put (ctxKey (.hearth d)) hearthCtx)
      (s.ctxs.put (ctxKey (.slot 0 0)) (rootCtx s.uid 0 (BitVec.allOnes 24))) := by
  obtain ⟨mem, h⟩ := install_sets s 0 (BitVec.allOnes 24)
  rw [h, dies_allOnes]
  dsimp only
  rw [show 64 * (List.range 24).headD 0 = 0 from rfl]

theorem install_root (s : State) : (s.install 0 (BitVec.allOnes 24)).ctx? (.slot 0 0) = some (rootCtx s.uid 0 (BitVec.allOnes 24)) := by
  unfold State.ctx?
  rw [install_ctxs, AMap.find_foldl_put (fun d => ctxKey (.hearth d)), if_neg (by decide), AMap.find_put_same]

theorem install_hearth (s : State) {d : Nat} (hd : d < 24) : (s.install 0 (BitVec.allOnes 24)).ctx? (.hearth d) = some hearthCtx := by
  unfold State.ctx?
  rw [install_ctxs, AMap.find_foldl_put (fun d => ctxKey (.hearth d)), if_pos (List.mem_map_of_mem (f := fun d => ctxKey (.hearth d)) (List.mem_range.mpr hd))]

theorem install_teams (s : State) : (s.install 0 (BitVec.allOnes 24)).teams.find s.uid = some (rootTeam 0) := by
  obtain ⟨mem, h⟩ := install_sets s 0 (BitVec.allOnes 24)
  rw [h, dies_allOnes]
  exact AMap.find_put_same _ _ _

theorem moduleStart_whole {x : StartTests} (hon : s.host.on = false) (hf : s.host.fails ≠ 3) (ha : s.accepts x = BitVec.allOnes 24)
    (he : x.edges = BitVec.allOnes 24) (hh : x.hbm = BitVec.allOnes 24) (hc : s.host.config = [BitVec.allOnes 24]) :
    ∃ t, exec (.moduleStart x) s = .next t ∧ t.host.fails = 0 ∧ t.host.on = true ∧
      t.host.kindle = false ∧ t.parts = [(0, Part.init (BitVec.allOnes 24) 0)] ∧
      (∃ k c, t.ctx? (.slot 0 0) = some c ∧ c = rootCtx k 0 (BitVec.allOnes 24) ∧ t.teams.find k = some (rootTeam 0)) ∧
      (∀ d, d < 24 → t.ctx? (.hearth d) = some hearthCtx) ∧ (t.die 0).bootrec.getLsbD 0 = true := by
  have hlive : ∀ k, liveAt x k = BitVec.allOnes 24 := by
    intro k
    unfold liveAt
    rw [he, hh, ite_self, ite_self]
    decide
  have hr : s.reaches x 5 = true := by
    unfold State.reaches
    rw [ha, hc, hlive]
    decide
  have hex := moduleStart_up hon hf hr
  have hone : s.host.config.map (fun m => m &&& liveAt x 4) = [BitVec.allOnes 24] := by rw [hc, hlive]; decide
  rw [hone, show (s.booted x).installs [BitVec.allOnes 24].zipIdx = (s.booted x).install 0 (BitVec.allOnes 24) from rfl] at hex
  have hparts : ((s.booted x).install 0 (BitVec.allOnes 24)).parts = [(0, Part.init (BitVec.allOnes 24) 0)] := by
    obtain ⟨mem, h⟩ := install_sets (s.booted x) 0 (BitVec.allOnes 24)
    rw [h, dies_allOnes]
    rfl
  have hhost := install_host (s.booted x) 0 (BitVec.allOnes 24)
  obtain ⟨hctx, hteams, hsync⟩ := syncBoot_rest ((s.booted x).install 0 (BitVec.allOnes 24))
  refine ⟨_, hex, (congrArg HostSide.fails hhost :), (congrArg HostSide.on hhost :), (congrArg HostSide.kindle hhost :), hsync.trans hparts,
    ⟨_, _, (hctx _).trans (install_root _), rfl, ?_⟩, fun d hd => (hctx _).trans (install_hearth _ hd), ?_⟩
  · rw [hteams]
    exact install_teams _
  obtain ⟨e, hdie, -, -⟩ := booted_die (s := s) x [(BitVec.allOnes 24, 0)] (d := 0) (by omega)
  have hready : ((s.booted x).installs [(BitVec.allOnes 24, 0)]).parts.all (fun p => p.2.ready) = true := by
    rw [show ((s.booted x).installs [(BitVec.allOnes 24, 0)]).parts = [(0, Part.init (BitVec.allOnes 24) 0)] from hparts]
    rfl
  refine (congrArg (fun y : Die => y.bootrec.getLsbD 0) hdie).trans ?_
  unfold State.synced
  rw [if_pos rfl, hready]
  exact flagged_ready _ _

/-! ## Kindling -/

theorem moduleStart_kindle (x : StartTests) (hon : s.host.on = false) (hf : s.host.fails = 3) :
    ∃ t, exec (.moduleStart x) s = .next t ∧ t.host.kindle = true ∧ t.host.on = true ∧ t.host.fails = 3 ∧
      t.ctxs = [] ∧ t.parts = [] ∧ (∀ d, t.hearthRuns d = (d == 0)) ∧ (t.die 0).bootrec.getLsbD 1 = true ∧
      ∀ d, d < 24 → (t.die d).live = (d == 0) := by
  let boot : W64 := BitVec.ofNat 64 (bits (s.die 0).bootrec.toNat 16 16 % 256 * 2 ^ 16 + bits (s.die 0).bootrec.toNat 16 16 / 256 * 2 ^ 24 + 3 * 2 ^ 12 + 2)
  have hboot : boot.getLsbD 1 = true := by
    rw [BitVec.getLsbD_ofNat, decide_eq_true (by omega), Bool.true_and, Nat.testBit_eq_decide_div_mod_eq]
    exact decide_eq_true (by omega)
  refine ⟨_, event_eq ((if_neg (by rw [hon]; exact Bool.false_ne_true)).trans (if_pos hf)), rfl, rfl, hf, rfl, rfl, fun d => rfl, ?_, fun d hd => ?_⟩
  · refine (congrArg (fun y : Die => y.bootrec.getLsbD 1) (State.die_keyed (f := fun d => { Die.init with bootrec := boot, live := d == 0 }) ?_ (by omega))).trans hboot
    rfl
  · refine (congrArg Die.live (State.die_keyed (f := fun d => { Die.init with bootrec := boot, live := d == 0 }) ?_ hd)).trans rfl
    rfl

/-! ## Starts that end before READY -/

theorem endStart_eq {x : StartTests} {stage : Nat} (hon : s.host.on = false) (hf : s.host.fails ≠ 3) (hs : stage < 6)
    (hr : s.reaches x stage = true) {reason die : Nat} (hd : die < 24) :
    s.endStart x stage reason die = some (
      let c := match startCause (s.accepts x) x allDies 1 stage with
        | some c => c
        | none => (match stepFinds (s.accepts x) x (List.range die) (stage + 1) with | some c => c | none => (reason, die))
      s.failStart (liveAt x stage) c.2 c.1 stage) :=
  if_neg (by simp only [hon, decide_eq_false hf, hr, decide_eq_false (show ¬ 6 ≤ stage by omega), decide_eq_false (show ¬ 24 ≤ die by omega),
    Bool.not_true, Bool.or_false]; exact Bool.false_ne_true)

/-- A start that ends: the reason and the die of an earlier step before its own (R446). -/
theorem endStart_ended {x : StartTests} {stage : Nat} (hon : s.host.on = false) (hf : s.host.fails ≠ 3) (hs : stage < 6)
    (hr : s.reaches x stage = true) {reason die : Nat} (hre : reason < 256) (hd : die < 24) :
    (startCause (s.accepts x) x allDies 1 stage = none → stepFinds (s.accepts x) x (List.range die) (stage + 1) = none →
      ∃ t, s.endStart x stage reason die = some t ∧ Ended t (min 3 (s.host.fails + 1)) reason die stage) ∧
    (∀ c, startCause (s.accepts x) x allDies 1 stage = none → stepFinds (s.accepts x) x (List.range die) (stage + 1) = some c →
      ∃ t, s.endStart x stage reason die = some t ∧ Ended t (min 3 (s.host.fails + 1)) c.1 c.2 stage) ∧
    (∀ c, startCause (s.accepts x) x allDies 1 stage = some c →
      ∃ t, s.endStart x stage reason die = some t ∧ Ended t (min 3 (s.host.fails + 1)) c.1 c.2 stage) := by
  have heq := endStart_eq hon hf hs hr (reason := reason) hd
  refine ⟨fun h1 h2 => ?_, fun c h1 h2 => ?_, fun c h1 => ?_⟩
  · rw [h1, h2] at heq
    exact ⟨_, heq, failStart_ended _ (by show die < 256; omega) hre (by omega)⟩
  · rw [h1, h2] at heq
    obtain ⟨hb, hm⟩ := stepFinds_bounds h2
    exact ⟨_, heq, failStart_ended _ ((List.mem_range.mp hm).trans (by omega)) hb (by omega)⟩
  · rw [h1] at heq
    obtain ⟨hb, hm⟩ := startCause_bounds h1
    exact ⟨_, heq, failStart_ended _ (hm.trans (by omega)) hb (by omega)⟩

theorem reached_spec (x : StartTests) (n : Nat) : s.reached x n ≤ n ∧ s.reaches x (s.reached x n) = true := by
  induction n with
  | zero => exact ⟨Nat.le_refl 0, rfl⟩
  | succ n ih =>
    unfold State.reached
    split
    · next h => exact ⟨Nat.le_refl _, h⟩
    · exact ⟨ih.1.trans (Nat.le_succ n), ih.2⟩

theorem found_spec : s.foundStage < 6 ∧ s.reaches s.found s.foundStage = true := by
  obtain ⟨hle, hr⟩ := reached_spec (s := s) s.found (min 5 (Config.startStage s.tick))
  exact ⟨Nat.lt_succ_of_le (hle.trans (Nat.min_le_left 5 _)), hr⟩

theorem endStart_found (hon : s.host.on = false) (hf : s.host.fails ≠ 3) (reason : Nat) {die : Nat} (hd : die < 24) :
    ∃ t, s.endStart s.found s.foundStage reason die = some t ∧ t.host.fails = min 3 (s.host.fails + 1) ∧ t.host.on = true ∧ t.ctxs = [] :=
  ⟨_, endStart_eq hon hf found_spec.1 found_spec.2 hd, rfl, rfl, rfl⟩

/-! ## Restarts -/

theorem outside_get (m : Memory) {a : Nat} (ha : a < 2 ^ 42) : (outside m).get a = 0 := by
  have hn : AMap.find (outside m) a = none := AMap.find_eq_none_of_ne fun e he h => by
    have := of_decide_eq_true (List.mem_filter.mp he).2
    omega
  show (AMap.find (outside m) a).getD 0 = 0
  rw [hn]
  rfl

theorem restartModule_spec (warm : Bool) : ∃ t, exec (.restartModule warm) s = .next t ∧ t.ctxs = [] ∧ t.parts = [] ∧ t.reqs = [] ∧
    t.host.on = false ∧ t.host.fails = s.host.fails ∧ t.host.image = s.host.image ∧
    bits (t.die 0).bootrec.toNat 16 16 = bits (s.die 0).bootrec.toNat 16 16 ∧
    bits (t.die 0).bootrec.toNat 12 4 = s.host.fails % 16 ∧ ∀ x, x < 2 ^ 42 → t.mem.get x = 0 := by
  have hdie : (s.restartAll.die 0).bootrec.toNat =
      setBits (setBits (setBits (s.die 0).bootrec.toNat 0 3 0) 8 4 0) 12 4 s.host.fails % 2 ^ 64 :=
    (congrArg (fun d : Die => d.bootrec.toNat) (State.die_keyed (f := fun _ => { Die.init with
      bootrec := BitVec.ofNat 64 (setBits (setBits (setBits (s.die 0).bootrec.toNat 0 3 0) 8 4 0) 12 4 s.host.fails) }) rfl (by omega))).trans
      (BitVec.toNat_ofNat _ _)
  refine ⟨s.restartAll, event_eq rfl, rfl, rfl, rfl, rfl, rfl, rfl, ?_, ?_, fun a ha => outside_get s.mem ha⟩
  · rw [hdie, bits_mod_pow _ _ _ _ (by omega), bits_setBits_ne _ _ _ _ (.inr (by omega)), bits_setBits_ne _ _ _ _ (.inr (by omega)),
      bits_setBits_ne _ _ _ _ (.inr (by omega))]
  · rw [hdie, bits_mod_pow _ _ _ _ (by omega), bits_setBits]
    rfl

/-- What a restart of a partition begins with. -/
theorem beginRestart_spec {p : Nat} {x : Part} (h : s.parts.find p = some x) : ∃ u, s.beginRestart p = some u ∧
    u.parts = s.parts.put p { Part.stopped x.live with down := x.down } ∧ u.dieParts = s.dieParts ∧
    u.reqs = s.reqs.filter (fun r => r.part ≠ p) ∧ u.host = s.host ∧
    u.ports = s.ports.map (fun e => (e.1, if (s.configured p).contains (portDie e.1) then { Port.init with epoch := e.2.epoch } else e.2)) := by
  unfold State.beginRestart
  rw [h]
  exact ⟨_, rfl, rfl, rfl, rfl, rfl, rfl⟩

/-- A partition's dies once its restart has found which of them are live. -/
def State.retested (u : State) (ds : List Nat) (live : BitVec 24) (ok : Bool) (x : StartTests) : State :=
  let boot := restartRecord (u.die 0).bootrec.toNat ds live (startCause 0 x ds 2 4) (if ok then 6 else 4)
  { u with dies := u.dies.map (fun (e : Nat × Die) =>
    let d := if ds.contains e.1 then { e.2 with live := live.getLsbD e.1, sram := x.sram.getLsbD e.1 } else e.2
    (e.1, if e.1 = 0 then { d with bootrec := boot } else d)) }

/-- Where a restart of a partition ends: its dies that pass are live, and it is at its root state, or it is not READY (R449). -/
theorem restartPart_eq {p : Nat} {u : State} (x : StartTests) (h : s.beginRestart p = some u) (hc : u.configured p = s.configured p) :
    let ds := s.configured p
    let live := dieMask (ds.filter (x.edges &&& x.hbm).getLsbD)
    let ok : Bool := live ≠ 0 && (!ds.contains 0 || live.getLsbD 0)
    s.restartPart p x = some (if ok then (u.retested ds live ok x).install p live
      else (u.retested ds live ok x).mapPart p (fun x => { x with live := live })).syncBoot := by
  unfold State.restartPart
  rw [h, Option.map_some]
  dsimp only
  rw [hc, liveAt_four]
  rfl

/-- A partition that is put in place, or whose entry of the table changes, is that partition, and every other one stays. -/
structure Replaced (v t : State) (p : Nat) (y : Part) : Prop where
  parts : t.parts = v.parts.put p y
  reqs : t.reqs = v.reqs
  ports : t.ports = v.ports
  host : t.host = v.host

theorem replaced_part {v t : State} {p : Nat} {y : Part} (h : Replaced v t p y) (j : Nat) : t.part j = if j = p then y else v.part j := by
  unfold State.part
  rw [h.parts, AMap.find_put]
  split <;> rfl

theorem install_replaced (v : State) (p : Nat) (live : BitVec 24) :
    Replaced v (v.install p live) p (Part.init live ((onesBelow live.toNat 24).headD 0)) := by
  obtain ⟨mem, h⟩ := install_sets v p live
  rw [h]
  exact ⟨rfl, rfl, rfl, rfl⟩

theorem mapPart_replaced (v : State) (p : Nat) (f : Part → Part) : Replaced v (v.mapPart p f) p (f (v.part p)) := ⟨rfl, rfl, rfl, rfl⟩

theorem replaced_sync {v t : State} {p : Nat} {y : Part} (h : Replaced v t p y) : Replaced v t.syncBoot p y := ⟨h.parts, h.reqs, h.ports, h.host⟩

theorem restartPartition_spec {p : Nat} {x : Part} (tests : StartTests) (hon : s.host.on = true) (hp : s.parts.find p = some x) :
    let ds := s.configured p
    let live := dieMask (ds.filter (tests.edges &&& tests.hbm).getLsbD)
    let ok : Prop := live ≠ 0 ∧ (0 ∈ ds → live.getLsbD 0 = true)
    ∃ t, exec (.restartPartition { part := p, tests := tests }) s = .next t ∧ (ok → t.part p = Part.init live ((onesBelow live.toNat 24).headD 0)) ∧
      (¬ ok → (t.part p).ready = false ∧ (t.part p).down = x.down ∧ (t.part p).live = live) ∧
      (∀ j, j ≠ p → t.part j = s.part j) ∧ (∀ r ∈ t.reqs, r.part ≠ p) ∧ (∀ q, portDie q ∈ ds → (t.port q).trained = false) ∧
      t.host = s.host := by
  intro ds live ok
  obtain ⟨u, hu, hparts, hdp, hreqs, hhost, hports⟩ := beginRestart_spec hp
  have hend := restartPart_eq tests hu (by unfold State.configured; rw [hdp])
  dsimp only at hend
  generalize hb : (decide (live ≠ 0) && (!ds.contains 0 || live.getLsbD 0)) = b at hend
  have hok : b = true ↔ ok := by
    rw [← hb]
    simp only [Bool.and_eq_true, decide_eq_true_iff, Bool.or_eq_true, Bool.not_eq_true', List.contains_eq_mem, decide_eq_false_iff_not, ok]
    exact and_congr_right fun _ => (imp_iff_not_or (a := 0 ∈ ds)).symm
  generalize hv : u.retested ds live b tests = v at hend
  have hvu : { v with dies := [] } = ({ u with dies := [] } : State) := by rw [← hv]; rfl
  have hvpart (j : Nat) : v.part j = if j = p then { Part.stopped x.live with down := x.down } else s.part j := by
    unfold State.part
    rw [show v.parts = u.parts from (congrArg State.parts hvu :), hparts, AMap.find_put]
    split <;> rfl
  obtain ⟨t, y, hex, hrep, hy, hn⟩ : ∃ t y, s.restartPart p tests = some t ∧ Replaced v t p y ∧
      (b = true → y = Part.init live ((onesBelow live.toNat 24).headD 0)) ∧ (b = false → y = { v.part p with live := live }) := by
    cases b with
    | true => exact ⟨_, _, hend, replaced_sync (install_replaced v p live), fun _ => rfl, Bool.noConfusion⟩
    | false => exact ⟨_, _, hend, replaced_sync (mapPart_replaced v p (fun x => { x with live := live })), Bool.noConfusion, fun _ => rfl⟩
  have hpart := replaced_part hrep
  refine ⟨t, event_eq ((if_pos hon).trans hex), fun h => ?_, fun h => ?_, fun j hj => ?_, fun r hr => ?_, fun q hq => ?_, ?_⟩
  · rw [hpart, if_pos rfl, hy (hok.mpr h)]
  · rw [hpart, if_pos rfl, hn (by simpa using fun hb => h (hok.mp hb)), hvpart, if_pos rfl]
    exact ⟨rfl, rfl, rfl⟩
  · rw [hpart, if_neg hj, hvpart, if_neg hj]
  · rw [hrep.reqs, show v.reqs = u.reqs from (congrArg State.reqs hvu :), hreqs] at hr
    simpa using (List.mem_filter.mp hr).2
  · unfold State.port
    rw [hrep.ports, show v.ports = u.ports from (congrArg State.ports hvu :), hports,
      AMap.find_map_snd s.ports (fun k e => if (s.configured p).contains (portDie k) then { Port.init with epoch := e.epoch } else e)]
    cases s.ports.find q with
    | none => rfl
    | some y => exact (congrArg Port.trained (if_pos (List.contains_iff_mem.mpr hq)) :)
  · exact hrep.host.trans ((congrArg State.host hvu :).trans hhost)

/-! ## Heat and power -/

theorem thermal_spec {die : Nat} (hd : die < 24) :
    ((s.die die).throttle < 15 → ∃ t, exec (.thermalThrottle die) s = .next t ∧
      t.die die = { s.die die with throttle := (s.die die).throttle + 1 } ∧ (∀ d, d ≠ die → t.die d = s.die d) ∧
      t.mem = s.mem ∧ t.ctxs = s.ctxs) ∧
    (∃ t, exec (.thermalPowerOff die) s = .next t ∧ t.ctxs = [] ∧ t.parts = [] ∧ t.host.on = false ∧
      t.host.fails = s.host.fails ∧ t.host.image = s.host.image) := by
  refine ⟨fun h => ⟨_, event_eq (if_pos ?_), die_mapDie_same die _, fun d hne => ?_, rfl, rfl⟩, _, event_eq (if_pos hd), rfl, rfl, rfl, rfl, rfl⟩
  · rw [decide_eq_true hd, decide_eq_true h]; rfl
  · rw [State.die_mapDie, if_neg hne]

end

/-- Settles O53: a start is one of four cases, and what each of them builds is read off the equation of its event. -/
theorem starts : Obligations.Starts := by
  unfold Obligations.Starts
  refine ⟨fun s x hon => ⟨moduleStart_kindle x hon, fun d hf hd h hlow => ?_, fun hf ha h => ?_, fun hf h => moduleStart_parts hon hf h,
      fun hf ha he hh hc => moduleStart_whole hon hf ha he hh hc⟩,
    fun s x stage hon hf hs hr => ?_, fun s hon hf => ⟨found_spec.1, found_spec.2, ?_, fun die hd => ?_⟩, fun s warm => restartModule_spec warm,
    fun s p x tests hon hp => restartPartition_spec tests hon hp, fun s die hd => thermal_spec hd,
    fun s => ⟨_, event_eq rfl, rfl, rfl, rfl, rfl, rfl, rfl, rfl⟩⟩
  · obtain ⟨t, hex, hfails, ht, hctx, hruns, hreason, hdie, hstage⟩ := moduleStart_image hon hf hd h hlow
    exact ⟨t, hex, hfails, ht, hctx, hruns, hreason, hdie, hstage⟩
  · obtain ⟨t, reason, die, hex, hfails, ht, hctx, hruns, -, -, hstage⟩ := moduleStart_dropped hon hf ha h
    exact ⟨t, hex, hfails, ht, hctx, hruns, hstage⟩
  · intro first ends reason die hre hd
    have out {r d : Nat} (h : ∃ t, s.endStart x stage reason die = some t ∧ Ended t (min 3 (s.host.fails + 1)) r d stage) :
        ends (s.endStart x stage reason die) r d := by
      obtain ⟨t, ht, hfails, hton, hctx, -, hreason, hdie, hstage⟩ := h
      exact ⟨t, ht, hfails, hton, hctx, hreason, hdie, hstage⟩
    obtain ⟨h1, h2, h3⟩ := endStart_ended hon hf hs hr hre hd
    exact ⟨fun a b => out (h1 a b), fun c a b => out (h2 c a b), fun c a => out (h3 c a)⟩
  · obtain ⟨t, ht, hrest⟩ := endStart_found hon hf 5 (die := 0) (by omega)
    exact ⟨t, event_eq ht, ht, hrest⟩
  · obtain ⟨t, ht, hrest⟩ := endStart_found hon hf 4 hd
    exact ⟨t, event_eq ht, ht, hrest⟩

end Sys2Proof.Machine

/-! SUPPORT. The canonical form of memory: how it passes through what an operation comes to, and through the operations that leave memory. -/

namespace Sys2Proof.Machine

/-! ## What an operation comes to -/

/-- What an option gives, where it gives something, has a property. -/
def Gives {α : Type} (P : α → Prop) (r : Option α) : Prop := ∀ x, r = some x → P x
/-- What a computation that may fault yields, where it does not, has a property. -/
def Yields {ε α : Type} (P : α → Prop) (r : Except ε α) : Prop := ∀ x, r = .ok x → P x
/-- What an access from outside performs, where it does, has a property. -/
def Performs {α : Type} (P : α → Prop) (r : Outer α) : Prop := ∀ x, r = .done x → P x
/-- The state that a step goes on with, where it goes on, has a property. -/
def Leads (P : State → Prop) (o : Host.Outcome State Fault Refusal) : Prop := ∀ t, o = .next t → P t

/-- What the move that is picked goes on from has a property. -/
def Picks (P : State → Prop) : Pick → Prop
  | .run _ s => P s
  | .done s => P s
/-- What an access that the device makes by itself comes to: what it got has a property, and every state that it leaves is canonical. -/
structure Owns {α : Type} (P : α → Prop) (r : Own α) : Prop where
  got : ∀ x, r = .got x → P x
  fail : ∀ c s, r = .fail c s → s.memOk
  wait : ∀ o, r = .wait o → Gives State.memOk o

section
variable {ε α β : Type} {P : α → Prop} {Q : β → Prop}

theorem gives_none : Gives P none := nofun
theorem gives_some {x : α} (h : P x) : Gives P (some x) := by
  intro y hy
  cases hy
  exact h
theorem gives_bind {r : Option β} {f : β → Option α} (h : Gives Q r) (hf : ∀ x, Q x → Gives P (f x)) : Gives P (r.bind f) := by
  intro y hy
  obtain ⟨x, hx, hxy⟩ := Option.bind_eq_some_iff.mp hy
  exact hf x (h x hx) y hxy
theorem gives_bind_any {r : Option β} {f : β → Option α} (hf : ∀ x, Gives P (f x)) : Gives P (r.bind f) :=
  gives_bind (Q := fun _ => True) (fun _ _ => trivial) fun x _ => hf x
theorem gives_map {r : Option β} {f : β → α} (h : Gives Q r) (hf : ∀ x, Q x → P (f x)) : Gives P (r.map f) := by
  intro y hy
  obtain ⟨x, hx, rfl⟩ := Option.map_eq_some_iff.mp hy
  exact hf x (h x hx)
theorem gives_map_any {r : Option β} {f : β → α} (hf : ∀ x, P (f x)) : Gives P (r.map f) :=
  gives_map (Q := fun _ => True) (fun _ _ => trivial) fun x _ => hf x
theorem gives_findSome {f : β → Option α} (hf : ∀ x, Gives P (f x)) {l : List β} : Gives P (l.findSome? f) := by
  intro y hy
  obtain ⟨x, -, hx⟩ := List.exists_of_findSome?_eq_some hy
  exact hf x y hx
theorem gives_foldlM {f : α → β → Option α} {a : α} {l : List β} (hf : ∀ a x, P a → Gives P (f a x)) (h : P a) : Gives P (l.foldlM f a) := by
  induction l generalizing a with
  | nil => exact gives_some h
  | cons x l ih =>
    rw [List.foldlM_cons]
    exact gives_bind (hf a x h) fun b hb => ih hb
theorem gives_ite {c : Prop} [Decidable c] {x y : Option α} (hx : Gives P x) (hy : Gives P y) : Gives P (if c then x else y) := by
  split
  · exact hx
  · exact hy
theorem getD_keeps {r : Option α} {a : α} (h : Gives P r) (ha : P a) : P (r.getD a) := by
  cases r with
  | none => exact ha
  | some x => exact h x rfl

theorem yields_ok {x : α} (h : P x) : Yields (ε := ε) P (.ok x) := by
  intro y hy
  cases hy
  exact h
theorem yields_error {e : ε} : Yields P (.error e) := nofun
theorem yields_bind {r : Except ε β} {f : β → Except ε α} (h : Yields Q r) (hf : ∀ x, Q x → Yields P (f x)) : Yields P (r >>= f) := by
  cases r with
  | error e => exact yields_error
  | ok x => exact hf x (h x rfl)
theorem yields_any {r : Except ε β} {f : β → Except ε α} (hf : ∀ x, Yields P (f x)) : Yields P (r >>= f) :=
  yields_bind (Q := fun _ => True) (fun _ _ => trivial) fun x _ => hf x
theorem yields_map {r : Except ε β} {f : β → α} (h : Yields Q r) (hf : ∀ x, Q x → P (f x)) : Yields P (r.map f) := by
  cases r with
  | error e => exact yields_error
  | ok x => exact yields_ok (hf x (h x rfl))
theorem yields_map_any {r : Except ε β} {f : β → α} (hf : ∀ x, P (f x)) : Yields P (r.map f) :=
  yields_map (Q := fun _ => True) (fun _ _ => trivial) fun x _ => hf x
theorem yields_foldlM {f : α → β → Except ε α} {a : α} {l : List β} (hf : ∀ a x, P a → Yields P (f a x)) (h : P a) :
    Yields P (l.foldlM f a) := fun y hy => foldlM_keeps P f (fun a x b ha hb => hf a x ha b hb) l a y h hy

theorem yields_ite {c : Prop} [Decidable c] {x y : Except ε α} (hx : Yields P x) (hy : Yields P y) : Yields P (if c then x else y) := by
  split
  · exact hx
  · exact hy
theorem yields_wholeWave {r : Res α} (h : Yields P r) : Yields P (wholeWave r) := by
  unfold wholeWave
  split
  · exact yields_error
  · exact h

theorem performs_done {x : α} (h : P x) : Performs P (.done x) := by
  intro y hy
  cases hy
  exact h
theorem performs_refused : Performs P .refused := nofun
theorem performs_wait : Performs P .wait := nofun

theorem picks_run {P : State → Prop} {i : Instr} {s : State} (h : P s) : Picks P (.run i s) := h
theorem picks_done {P : State → Prop} {s : State} (h : P s) : Picks P (.done s) := h

theorem foldl_keeps (P : α → Prop) {f : α → β → α} {a : α} {l : List β} (hf : ∀ a x, P a → P (f a x)) (h : P a) : P (l.foldl f a) := by
  induction l generalizing a with
  | nil => exact h
  | cons x l ih => exact ih (hf a x h)

end

section
variable {s : State}

/-- An instruction keeps the canonical form where its body does, and an event where its next state does. -/
theorem issueRaw_leads {pm : Perm} {h : Hdr} {len : Nat} {u : Uses} {body : Iss → State → Res State} (w : s.memOk)
    (b : ∀ is, Yields State.memOk (body is s)) : Leads State.memOk (issueRaw pm h len u s body) := fun _ r => issueRaw_memOk b w r
theorem issue_leads {pm : Perm} {h : Hdr} {len : Nat} {u : Uses} {body : Iss → State → Res State} (w : s.memOk)
    (b : ∀ is, Yields State.memOk (body is s)) : Leads State.memOk (issue pm h len u s body) := fun _ r => issue_memOk b w r
theorem event_leads {r : Option State} (w : s.memOk) (b : Gives State.memOk r) : Leads State.memOk (event s r) := fun _ h => event_memOk b w h
theorem next_leads (w : s.memOk) : Leads State.memOk (.next s) := by
  intro t h
  cases h
  exact w
theorem fault_leads {f : Fault} : Leads State.memOk (.fault f) := nofun
theorem refused_leads {r : Refusal} : Leads State.memOk (.refused r) := nofun

end

theorem State.memOk_of_mem {s t : State} (h : t.mem = s.mem) (ok : s.memOk) : t.memOk := by
  unfold State.memOk
  rw [h]
  exact ok

/-! ## An access that the device makes by itself -/

theorem State.mapCtx_memOk {s : State} {a f} (ok : s.memOk) : (s.mapCtx a f).memOk := State.memOk_of_outer (by simp) ok
theorem State.mapDie_memOk {s : State} {d f} (ok : s.memOk) : (s.mapDie d f).memOk := State.memOk_of_outer (by simp) ok
theorem State.flushEpisodes_memOk {s : State} {die} (ok : s.memOk) : (s.flushEpisodes die).memOk := State.mapDie_memOk ok
theorem State.noteRecord_memOk {s : State} {die r} (ok : s.memOk) : (s.noteRecord die r).memOk := State.flushEpisodes_memOk ok
theorem State.keepRecord_memOk {s : State} {a} (ok : s.memOk) : (s.keepRecord a).memOk := by
  unfold State.keepRecord
  split
  · exact ok
  · split
    · exact ok
    · split
      · exact ok
      · exact State.noteRecord_memOk ok
theorem State.leaveRecord_memOk {s : State} {a} (ok : s.memOk) : (s.leaveRecord a).memOk := State.mapCtx_memOk (State.keepRecord_memOk ok)
theorem State.stopFirst_memOk {s : State} {a} (ok : s.memOk) : (s.stopFirst a).memOk := by
  unfold State.stopFirst
  split
  · exact State.leaveRecord_memOk ok
  · exact ok
theorem State.addEpisode_memOk {s : State} {die part page n code r} (ok : s.memOk) : (s.addEpisode die part page n code r).memOk :=
  State.flushEpisodes_memOk (State.stopFirst_memOk ok)
theorem State.noteSynonym_memOk {s : State} {die part va r} (ok : s.memOk) : (s.noteSynonym die part va r).memOk := State.addEpisode_memOk ok

theorem State.own_owns {s : State} (ok : s.memOk) {α : Type} {P : α → Prop} {die part tag : Nat} {r : Except (Nat × Nat) α} (h : Yields P r) :
    Owns P (s.own die part tag r) := by
  unfold State.own
  split
  · split
    · exact ⟨nofun, fun c t ht => by cases ht; exact ok, nofun⟩
    · exact ⟨nofun, nofun, fun o ho => by cases ho; exact gives_none⟩
  · split
    · exact ⟨fun x hx => by cases hx; exact h _ rfl, nofun, nofun⟩
    · split
      · exact ⟨nofun, nofun, fun o ho => by cases ho; exact gives_some ok⟩
      · split
        · exact ⟨nofun, nofun, fun o ho => by cases ho; exact gives_none⟩
        · refine ⟨nofun, fun c t ht => ?_, nofun⟩
          cases ht
          split
          · exact State.noteSynonym_memOk ok
          · exact ok

end Sys2Proof.Machine

/-! SUPPORT. The canonical form of memory through the shared operations. -/

namespace Sys2Proof.Machine

section
variable {s : State}

/-! ## The parts of the state -/

theorem State.setCtx_memOk {a c} (ok : s.memOk) : (s.setCtx a c).memOk := State.memOk_of_outer (by simp) ok
theorem State.mapCore_memOk {c f} (ok : s.memOk) : (s.mapCore c f).memOk := State.memOk_of_outer (by simp) ok
theorem State.mapQuad_memOk {q f} (ok : s.memOk) : (s.mapQuad q f).memOk := State.memOk_of_outer (by simp) ok
theorem State.mapPart_memOk {p f} (ok : s.memOk) : (s.mapPart p f).memOk := State.memOk_of_outer (by simp) ok
theorem State.mapTeam_memOk {t f} (ok : s.memOk) : (s.mapTeam t f).memOk := State.memOk_of_outer (by simp) ok
theorem State.mapGroup_memOk {g f} (ok : s.memOk) : (s.mapGroup g f).memOk := State.memOk_of_outer (by simp) ok
theorem State.fresh_memOk (ok : s.memOk) : s.fresh.2.memOk :=
  ok

/-! ## Checks, registers and outstanding results -/

theorem State.advance_memOk {is} (ok : s.memOk) : (s.advance is).memOk := State.memOk_of_outer (by simp) ok
theorem State.afterIssue_memOk {is} (ok : s.memOk) : (s.afterIssue is).memOk := State.memOk_of_outer (by simp) ok
theorem State.stopWave_memOk {a st} (ok : s.memOk) : (s.stopWave a st).memOk := State.memOk_of_outer (by simp) ok
theorem State.parkAgent_memOk {is p} (ok : s.memOk) : (s.parkAgent is p).memOk := State.memOk_of_outer (by simp) ok
theorem State.stopFailed_memOk {a id} (ok : s.memOk) : (s.stopFailed a id).memOk := State.memOk_of_outer (by simp) ok
theorem State.dropSite_memOk {a r t} (ok : s.memOk) : (s.dropSite a r t).memOk := State.memOk_of_outer (by simp) ok
theorem State.clearTag_memOk {a r} (ok : s.memOk) : (s.clearTag a r).memOk := State.memOk_of_outer (by simp) ok
theorem State.wrS_memOk {is d v} (ok : s.memOk) : (s.wrS is d v).memOk := State.memOk_of_outer (by simp) ok
theorem State.wrK_memOk {is d v} (ok : s.memOk) : (s.wrK is d v).memOk := State.memOk_of_outer (by simp) ok
theorem State.wrV_memOk {is wide d vals} (ok : s.memOk) : (s.wrV is wide d vals).memOk := State.memOk_of_outer (by simp) ok
theorem State.clearTags_memOk {a l} (ok : s.memOk) : (s.clearTags a l).memOk := State.memOk_of_outer (by simp) ok
theorem State.addPend_memOk {a p} (ok : s.memOk) : (s.addPend a p).memOk := State.memOk_of_outer (by simp) ok
theorem State.pendS_memOk {is k d v} (ok : s.memOk) : Yields State.memOk (s.pendS is k d v) :=
  yields_any fun _ => yields_ok (State.addPend_memOk ok)
theorem State.pendV_memOk {is k wide d vals} (ok : s.memOk) : Yields State.memOk (s.pendV is k wide d vals) :=
  yields_any fun _ => yields_ok (State.addPend_memOk ok)
theorem State.userTrap_memOk {a fid pc next lanes cause dst precise} (ok : s.memOk) : (s.userTrap a fid pc next lanes cause dst precise).memOk :=
  State.memOk_of_outer (by simp) ok
theorem State.trapReturn_memOk {a} (ok : s.memOk) : (s.trapReturn a).memOk := State.memOk_of_outer (by simp) ok

/-! ## Addresses, translation and fault records -/

theorem State.tlbFill_memOk {unit part va e} (ok : s.memOk) : (s.tlbFill unit part va e).memOk :=
  State.mapDie_memOk ok
theorem State.postError_memOk {die r} (ok : s.memOk) : (s.postError die r).memOk :=
  State.mapDie_memOk ok
theorem State.beginEpisode_memOk {die part va code r} (ok : s.memOk) : (s.beginEpisode die part va code r).memOk := by
  unfold State.beginEpisode
  split
  · exact ok
  · exact State.addEpisode_memOk ok

/-! ## The caches -/

theorem State.send_memOk {r after} (ok : s.memOk) : (s.send r after).memOk := State.memOk_of_outer (by simp) ok
theorem State.llcPut_memOk {l} (ok : s.memOk) : (s.llcPut l).memOk := State.memOk_of_outer (by simp) ok
theorem State.llcDel_memOk {l} (ok : s.memOk) : (s.llcDel l).memOk := State.memOk_of_outer (by simp) ok
theorem State.hotRoom_memOk {l} (ok : s.memOk) : (s.hotRoom l).memOk := State.memOk_of_outer (by simp) ok
theorem State.llcHit_memOk {l} (ok : s.memOk) : (s.llcHit l).memOk := State.memOk_of_outer (by simp) ok
theorem State.sendCopy_memOk {l} (ok : s.memOk) : (s.sendCopy l).memOk := State.memOk_of_outer (by simp) ok
theorem State.copyOut_memOk {die part line gen} (ok : s.memOk) : (s.copyOut die part line gen).memOk := State.memOk_of_outer (by simp) ok
theorem State.homePoison_memOk {unit part line gen pa} (ok : s.memOk) : (s.homePoison unit part line gen pa).memOk := by
  unfold State.homePoison
  split
  · exact State.llcPut_memOk ok
  · exact ok
theorem State.writeBack_memOk {core l after} (ok : s.memOk) : (s.writeBack core l after).memOk := State.memOk_of_outer (by simp) ok
theorem State.copyMerge_memOk {r k} (ok : s.memOk) : (s.copyMerge r k).memOk := State.memOk_of_outer (by simp) ok
theorem State.noFill_memOk {core p} (ok : s.memOk) : (s.noFill core p).memOk := State.memOk_of_outer (by simp) ok
theorem State.l1Evict_memOk {core l} (ok : s.memOk) : (s.l1Evict core l).memOk := State.memOk_of_outer (by simp) ok
theorem State.l1Clear_memOk {core line gen} (ok : s.memOk) : (s.l1Clear core line gen).memOk := State.memOk_of_outer (by simp) ok
theorem State.l1Room_memOk {core line} (ok : s.memOk) : (s.l1Room core line).memOk := State.memOk_of_outer (by simp) ok
theorem State.l1Store_memOk {core line gen ch mask data who} (ok : s.memOk) : (s.l1Store core line gen ch mask data who).memOk :=
  State.memOk_of_outer (by simp) ok
theorem State.l1FillLine_memOk {core line gen ch data} (ok : s.memOk) : (s.l1FillLine core line gen ch data).memOk :=
  State.memOk_of_outer (by simp) ok
theorem State.refresh_memOk {core} (ok : s.memOk) : (s.refresh core).memOk := State.memOk_of_outer (by simp) ok
theorem State.acquire_memOk {a sc} (ok : s.memOk) : (s.acquire a sc).memOk := State.memOk_of_outer (by simp) ok
theorem State.publishLines_memOk {core p} (ok : s.memOk) : (s.publishLines core p).memOk := State.memOk_of_outer (by simp) ok
theorem State.drainWc_memOk {core p} (ok : s.memOk) : (s.drainWc core p).memOk := State.memOk_of_outer (by simp) ok
theorem State.release_memOk {a sc} (ok : s.memOk) : (s.release a sc).1.memOk := by
  unfold State.release
  refine State.drainWc_memOk ?_
  split
  · exact State.publishLines_memOk ok
  · exact ok

/-! ## Issue -/

theorem State.holdFetch_memOk {w va code kind} (ok : s.memOk) : (s.holdFetch w va code kind).memOk := State.memOk_of_outer (by simp) ok
theorem State.except_memOk {is a} (ok : s.memOk) : (s.except is a).memOk := State.memOk_of_outer (by simp) ok
theorem scalarOp_memOk {h len rd d f} (ok : s.memOk) : Leads State.memOk (scalarOp h len rd d s f) :=
  issue_leads ok fun _ => yields_ok (State.wrS_memOk ok)
theorem scalarBin_memOk {h d a src f} (ok : s.memOk) : Leads State.memOk (scalarBin h d a src s f) :=
  scalarOp_memOk ok
theorem State.upd_memOk {is f} (ok : s.memOk) : (s.upd is f).memOk :=
  State.mapCtx_memOk ok
theorem execSWrsr_memOk {h d a} (ok : s.memOk) : Leads State.memOk (execSWrsr h d a s) := by
  unfold execSWrsr
  refine issue_leads ok fun _ => yields_ok ?_
  split
  · exact ok
  · exact State.upd_memOk ok
theorem execSMovc_memOk {h sub d a} (ok : s.memOk) : Leads State.memOk (execSMovc h sub d a s) := by
  unfold execSMovc
  refine issue_leads ok fun _ => ?_
  split
  · exact yields_error
  · split
    · split
      · exact yields_ok (State.mapTeam_memOk ok)
      · exact yields_error
    · split
      · exact yields_ok (State.wrS_memOk ok)
      · exact yields_error

/-! ## Fragments, splits and joins -/

theorem State.putRecs_memOk {a m} (ok : s.memOk) : (s.putRecs a m).memOk := by
  unfold State.putRecs
  dsimp only
  split
  · exact ok
  · split
    · exact State.setCtx_memOk ok
    · exact State.mapTeam_memOk (State.setCtx_memOk ok)
theorem State.mapStoker_memOk {k f} (ok : s.memOk) : (s.mapStoker k f).memOk := State.memOk_of_outer (by simp) ok
theorem State.reofferAll_memOk {a team} (ok : s.memOk) : (s.reofferAll a team).memOk := by
  unfold State.reofferAll
  split
  · exact State.mapStoker_memOk ok
  · exact ok
theorem State.endThreads_memOk {a ts} (ok : s.memOk) : (s.endThreads a ts).memOk := by
  unfold State.endThreads
  split
  · exact ok
  · dsimp only
    split
    · exact State.reofferAll_memOk (State.putRecs_memOk (State.setCtx_memOk ok))
    · exact State.putRecs_memOk (State.setCtx_memOk ok)

/-! ## The b class -/

theorem State.branchTo_memOk {is target} (ok : s.memOk) : Yields State.memOk (s.branchTo is target) :=
  yields_any fun _ => yields_ok (State.mapCtx_memOk ok)
theorem execBBr_memOk {h sub a imm} (ok : s.memOk) : Leads State.memOk (execBBr h sub a imm s) := by
  unfold execBBr
  refine issueRaw_leads ok fun _ => ?_
  split
  · exact State.branchTo_memOk ok
  · exact yields_ok (State.advance_memOk ok)
theorem execBBrk_memOk {h sub a imm} (ok : s.memOk) : Leads State.memOk (execBBrk h sub a imm s) := by
  unfold execBBrk
  refine issueRaw_leads ok fun _ => ?_
  split
  · exact State.branchTo_memOk ok
  · exact yields_ok (State.advance_memOk ok)
theorem execBSplit_memOk {h a x0 x1} (ok : s.memOk) : Leads State.memOk (execBSplit h a x0 x1 s) := by
  unfold execBSplit
  refine issueRaw_leads ok fun _ => yields_any fun _ => ?_
  dsimp only
  split
  · exact yields_ok (State.advance_memOk ok)
  · split
    · exact State.branchTo_memOk ok
    · exact yields_any fun _ => yields_any fun _ => yields_any fun _ => yields_ok (State.putRecs_memOk (State.mapCtx_memOk ok))
theorem execBJoin_memOk {h} (ok : s.memOk) : Leads State.memOk (execBJoin h s) := by
  unfold execBJoin
  refine issueRaw_leads ok fun _ => yields_any fun _ => ?_
  split
  · exact yields_ok (State.advance_memOk ok)
  · split
    · exact yields_ok (State.advance_memOk ok)
    · dsimp only
      split
      · exact yields_error
      · exact yields_ok (State.putRecs_memOk ok)
theorem execBExit_memOk {h} (ok : s.memOk) : Leads State.memOk (execBExit h s) := by
  unfold execBExit
  refine issueRaw_leads ok fun _ => ?_
  dsimp only
  split
  · refine yields_any fun _ => ?_
    split
    · exact yields_error
    · exact yields_ok (State.endThreads_memOk (State.advance_memOk ok))
  · split
    · exact yields_error
    · exact yields_ok (State.endThreads_memOk (State.advance_memOk ok))
theorem execBWcnt_memOk {h ldc stc xc ec} (ok : s.memOk) : Leads State.memOk (execBWcnt h ldc stc xc ec s) := by
  unfold execBWcnt
  refine issue_leads ok fun _ => ?_
  dsimp only
  split
  · exact yields_ok ok
  · exact yields_ok (State.parkAgent_memOk ok)

end

end Sys2Proof.Machine

/-! SUPPORT. The canonical form of memory through the numbers of threads, the home slice and the local store. -/

namespace Sys2Proof.Machine

section
variable {s : State}

/-! ## The v, f and x classes -/

theorem vectorOp_memOk {h len wide rd d f} (ok : s.memOk) : Leads State.memOk (vectorOp h len wide rd d s f) :=
  issue_leads ok fun _ => yields_ok (State.wrV_memOk ok)
theorem vectorBin_memOk {h t d a src f} (ok : s.memOk) : Leads State.memOk (vectorBin h t d a src s f) :=
  vectorOp_memOk ok
theorem vectorUn_memOk {h t d a f} (ok : s.memOk) : Leads State.memOk (vectorUn h t d a s f) :=
  vectorOp_memOk ok
theorem vectorExact_memOk {h t d a src f} (ok : s.memOk) : Leads State.memOk (vectorExact h t d a src s f) :=
  vectorBin_memOk ok
theorem execVMul_memOk {h sub t d a src} (ok : s.memOk) : Leads State.memOk (execVMul h sub t d a src s) := by
  unfold execVMul
  split
  · exact vectorExact_memOk ok
  · exact vectorBin_memOk ok
theorem State.finishFloat_memOk {is dst fl} (ok : s.memOk) : (s.finishFloat is dst fl).memOk := State.memOk_of_outer (by simp) ok
theorem State.stepRng_memOk {is t k} (ok : s.memOk) : (s.stepRng is t k).memOk := by
  unfold State.stepRng
  split
  · exact State.upd_memOk ok
  · exact ok
theorem floatOp_memOk {h t d srcs f} (ok : s.memOk) : Leads State.memOk (floatOp h t d srcs s f) := by
  unfold floatOp
  exact issueRaw_leads ok fun _ => yields_ok (State.finishFloat_memOk (State.stepRng_memOk (State.wrV_memOk ok)))
theorem execFCmp_memOk {h sub t d a b cond} (ok : s.memOk) : Leads State.memOk (execFCmp h sub t d a b cond s) := by
  unfold execFCmp
  exact issueRaw_leads ok fun _ => yields_ok (State.finishFloat_memOk (State.wrK_memOk ok))
theorem execFPack_memOk {h t d a sty esc} (ok : s.memOk) : Leads State.memOk (execFPack h t d a sty esc s) := by
  unfold execFPack
  exact issueRaw_leads ok fun _ => yields_ok (State.finishFloat_memOk (State.stepRng_memOk (State.upd_memOk ok)))
theorem execFUnpack_memOk {h t d a sty esc} (ok : s.memOk) : Leads State.memOk (execFUnpack h t d a sty esc s) := by
  unfold execFUnpack
  exact issueRaw_leads ok fun _ => yields_ok (State.finishFloat_memOk (State.stepRng_memOk (State.upd_memOk ok)))
theorem floatBin_memOk {h t d a b f} (ok : s.memOk) : Leads State.memOk (floatBin h t d a b s f) :=
  floatOp_memOk ok
theorem floatLong_memOk {h t d srcs f} (ok : s.memOk) : Leads State.memOk (floatLong h t d srcs s f) := by
  unfold floatLong
  refine issue_leads ok fun _ => yields_any fun _ => yields_ok (State.addPend_memOk ?_)
  split
  · exact State.upd_memOk ok
  · exact ok
theorem floatFn_memOk {h t d a fn} (ok : s.memOk) : Leads State.memOk (floatFn h t d a s fn) :=
  floatLong_memOk ok
theorem crossMask_memOk {h d a f} (ok : s.memOk) : Leads State.memOk (crossMask h d a s f) :=
  issue_leads ok fun _ => State.pendS_memOk ok

/-! ## Futures and requests -/

theorem State.takeFut_memOk {is d kind sc op} (ok : s.memOk) : Yields (fun x => x.1.memOk) (s.takeFut is d kind sc op) := by
  unfold State.takeFut
  refine yields_any fun _ => ?_
  dsimp only
  split
  · exact yields_error
  · exact yields_ok (State.mapCtx_memOk (State.mapQuad_memOk (State.clearTag_memOk ok)))
theorem State.sendSite_memOk {quad part x w h} (ok : s.memOk) : (s.sendSite quad part x w h).memOk := State.memOk_of_outer (by simp) ok
theorem State.hearTasks_memOk {h ok'} (ok : s.memOk) : (s.hearTasks h ok').memOk := State.memOk_of_outer (by simp) ok
theorem State.hearImages_memOk {x h flags stale} (ok : s.memOk) : (s.hearImages x h flags stale).memOk := State.memOk_of_outer (by simp) ok
theorem State.resolve_memOk {ft status code flags stale} (ok : s.memOk) : (s.resolve ft status code flags stale).memOk :=
  State.memOk_of_outer (by simp) ok
theorem State.resolve0_memOk {ft status code} (ok : s.memOk) : (s.resolve0 ft status code).memOk := State.memOk_of_outer (by simp) ok
theorem State.instantFut_memOk {is d kind sc status code} (ok : s.memOk) : Yields State.memOk (s.instantFut is d kind sc status code) :=
  yields_bind (State.takeFut_memOk ok) fun _ w => yields_ok (State.resolve0_memOk w)
theorem State.mapPend_memOk {a id f} (ok : s.memOk) : (s.mapPend a id f).memOk := State.memOk_of_outer (by simp) ok
theorem State.dropReq_memOk {r} (ok : s.memOk) : (s.dropReq r).memOk := State.memOk_of_outer (by simp) ok
theorem State.complete_memOk {r l} (ok : s.memOk) : (s.complete r l).memOk := State.memOk_of_outer (by simp) ok
theorem State.stopFor_memOk {a pc f} (ok : s.memOk) : (s.stopFor a pc f).memOk := State.memOk_of_outer (by simp) ok
theorem State.failReq_memOk {r code addr} (ok : s.memOk) : (s.failReq r code addr).memOk := State.memOk_of_outer (by simp) ok
theorem State.setStale_memOk {a} (ok : s.memOk) : (s.setStale a).memOk := State.memOk_of_outer (by simp) ok

/-! ## The home slice -/

theorem State.bump_memOk {part unit va} (ok : s.memOk) : (s.bump part unit va).memOk := State.memOk_of_outer (by simp) ok
theorem State.mapStep_memOk {part r} (ok : s.memOk) : (State.mapStep part s r).memOk := by
  unfold State.mapStep
  split
  · exact ok
  · exact State.resolve0_memOk (State.mapPart_memOk ok)
theorem State.mapsGo_memOk (ok : s.memOk) : s.mapsGo.memOk :=
  foldl_keeps State.memOk (fun _ _ w => foldl_keeps State.memOk (fun _ _ w1 => State.mapStep_memOk w1) w) ok
theorem State.l1Renew_memOk {core line} (ok : s.memOk) : (s.l1Renew core line).memOk := State.memOk_of_outer (by simp) ok
theorem State.wakeWait_memOk {a op len v} (ok : s.memOk) : (s.wakeWait a op len v).memOk := State.memOk_of_outer (by simp) ok
theorem State.wakeWaiter_memOk {w v} (ok : s.memOk) : (s.wakeWaiter w v).memOk := State.memOk_of_outer (by simp) ok
theorem State.failWaiter_memOk {w code addr} (ok : s.memOk) : (s.failWaiter w code addr).memOk := State.memOk_of_outer (by simp) ok
theorem State.tryWaiter_memOk {w} (ok : s.memOk) : Gives State.memOk (s.tryWaiter w) := by
  unfold State.tryWaiter
  split
  · split
    · exact gives_some (State.failWaiter_memOk ok)
    · exact gives_none
  · split
    · exact gives_some (State.failWaiter_memOk ok)
    · exact gives_map_any fun _ => State.wakeWaiter_memOk ok
theorem State.wakeLine_memOk {part line} (ok : s.memOk) : (s.wakeLine part line).memOk := State.memOk_of_outer (by simp) ok
theorem State.ownHold_memOk {die part tag e} (ok : s.memOk) : (s.ownHold die part tag e).memOk :=
  ok
theorem State.viewLine_memOk {core part gen line off m} (ok : s.memOk) : Yields (fun x => x.2.memOk) (s.viewLine core part gen line off m) := by
  unfold State.viewLine
  dsimp only
  split
  · split
    · exact yields_error
    · exact yields_ok ok
  · split
    · split
      · exact yields_error
      · exact yields_ok ok
    · split
      · exact yields_error
      · exact yields_error
      · next h => exact yields_ok (State.reach_memOk h ok)
theorem State.viewRead_memOk {core part gen va n} (ok : s.memOk) : Yields (fun x => x.2.2.memOk) (s.viewRead core part gen va n) := by
  unfold State.viewRead
  split
  · exact yields_ok ok
  · exact yields_map (yields_foldlM (fun _ _ w => yields_map (State.viewLine_memOk w) fun _ w1 => w1) ok) fun _ w => w
theorem State.viewPieces_memOk {core part l} (ok : s.memOk) : Yields (fun x => x.2.2.memOk) (s.viewPieces core part l) :=
  yields_foldlM (fun _ _ w => yields_map (State.viewRead_memOk w) fun _ w1 => w1) ok
theorem State.readRecord_memOk {is va n align} (ok : s.memOk) : Yields (fun x => x.2.2.memOk) (s.readRecord is va n align) := by
  unfold State.readRecord
  refine yields_any fun _ => ?_
  split
  · exact yields_ok ok
  · refine yields_any fun _ => yields_any fun _ => yields_any fun _ => ?_
    split
    · next h => exact yields_ok (State.viewPieces_memOk ok _ h)
    · split
      · exact yields_error
      · split <;> exact yields_error
theorem State.markStale_memOk {is b} (ok : s.memOk) : (s.markStale is b).memOk := State.memOk_of_outer (by simp) ok

/-! ## The g class -/

theorem State.loadOne_memOk {is id lane n ch sx nf fresh rt} (ok : s.memOk) : (s.loadOne is id lane n ch sx nf fresh rt).memOk := by
  unfold State.loadOne
  dsimp only
  split
  · split
    · split
      · exact State.mapPend_memOk ok
      · split
        · split
          · refine State.mapPend_memOk ?_
            split
            · exact State.setStale_memOk (State.mapCore_memOk ok)
            · exact State.mapCore_memOk ok
          · split
            · refine State.send_memOk (State.mapPend_memOk ?_)
              split
              · exact State.copyOut_memOk ok
              · exact ok
            · exact State.send_memOk (State.mapPend_memOk (State.l1Clear_memOk ok))
        · split
          · refine State.mapPend_memOk ?_
            split
            · exact State.setStale_memOk (State.mapCore_memOk ok)
            · exact State.mapCore_memOk ok
          · split
            · refine State.send_memOk (State.mapPend_memOk ?_)
              split
              · exact State.copyOut_memOk ok
              · exact ok
            · exact State.send_memOk (State.mapPend_memOk (State.l1Clear_memOk ok))
    · split
      · refine State.send_memOk (State.mapPend_memOk ?_)
        split
        · exact State.copyOut_memOk ok
        · exact ok
      · exact State.send_memOk (State.mapPend_memOk (State.l1Clear_memOk ok))
  · refine State.send_memOk (State.mapPend_memOk ?_)
    split
    · exact State.drainWc_memOk ok
    · exact ok
theorem State.loads_memOk {is id n ch sx nf fresh rs bad} (ok : s.memOk) : (s.loads is id n ch sx nf fresh rs bad).memOk := by
  unfold State.loads
  exact State.mapPend_memOk
    (foldl_keeps State.memOk (fun _ _ w => State.mapPend_memOk w) (foldl_keeps State.memOk (fun _ _ w => State.loadOne_memOk w) ok))
theorem loadBody_memOk {d a x0 x1 nf fresh acq is} (ok : s.memOk) : Yields State.memOk (loadBody d a x0 x1 nf fresh acq is s) := by
  unfold loadBody
  refine yields_any fun _ => yields_any fun _ => yields_any fun _ => ?_
  dsimp only
  split <;> exact yields_any fun _ => yields_any fun _ => yields_any fun _ => yields_ok (State.loads_memOk (State.addPend_memOk ok))
theorem State.wcStore_memOk {w line gen mask data} (ok : s.memOk) : (s.wcStore w line gen mask data).memOk := by
  unfold State.wcStore
  dsimp only
  split
  · split
    · exact State.drainWc_memOk (State.mapCore_memOk ok)
    · exact State.mapCore_memOk ok
  · refine State.mapCore_memOk ?_
    split
    · split
      · exact ok
      · exact State.drainWc_memOk ok
    · exact ok
theorem State.writeReq_memOk {is id ts rt mask data after} (ok : s.memOk) : (s.writeReq is id ts rt mask data after).memOk :=
  State.send_memOk (State.mapPend_memOk ok)
theorem State.missStore_memOk {is id ts rt mask data} (ok : s.memOk) : (s.missStore is id ts rt mask data).memOk := by
  unfold State.missStore
  dsimp only
  split
  · exact ok
  · refine State.noFill_memOk (State.writeReq_memOk ?_)
    split
    · exact State.copyOut_memOk ok
    · exact ok
theorem State.storeOne_memOk {is id ts ch rt l} (ok : s.memOk) : (s.storeOne is id ts ch rt l).memOk := by
  unfold State.storeOne
  dsimp only
  split
  · exact ok
  · split
    · split
      · exact State.missStore_memOk ok
      · exact State.l1Store_memOk ok
    · split
      · exact State.wcStore_memOk ok
      · exact State.writeReq_memOk ok
theorem execGSt_memOk {h a b x0 x1} (ok : s.memOk) : Leads State.memOk (execGSt h a b x0 x1 s) := by
  unfold execGSt
  exact issue_leads ok fun _ => yields_any fun _ => yields_any fun _ => yields_any fun _ => yields_ok
    (foldl_keeps State.memOk (fun _ _ w => State.storeOne_memOk w) (State.addPend_memOk ok))
theorem execGPf_memOk {h a x0 x1} (ok : s.memOk) : Leads State.memOk (execGPf h a x0 x1 s) := by
  unfold execGPf
  refine issue_leads ok fun _ => yields_any fun _ => yields_ok (foldl_keeps State.memOk (fun _ _ w => ?_) ok)
  split
  · exact w
  · split
    · exact w
    · refine State.send_memOk ?_
      split
      · exact w
      · exact State.l1Clear_memOk w
theorem execGLdt_memOk {h d a b x0 x1} (ok : s.memOk) : Leads State.memOk (execGLdt h d a b x0 x1 s) := by
  unfold execGLdt
  exact issue_leads ok fun _ => yields_any fun _ => yields_any fun _ => yields_any fun _ => yields_any fun _ => yields_any fun _ => yields_any
    fun _ => yields_any fun _ => yields_ok (foldl_keeps State.memOk (fun _ _ w => State.loadOne_memOk w) (State.addPend_memOk ok))
theorem execGStt_memOk {h d a b x0 x1} (ok : s.memOk) : Leads State.memOk (execGStt h d a b x0 x1 s) := by
  unfold execGStt
  exact issue_leads ok fun _ => yields_any fun _ => yields_any fun _ => yields_any fun _ => yields_any fun _ => yields_any fun _ => yields_any
    fun _ => yields_ok (foldl_keeps State.memOk (fun _ _ w => State.storeOne_memOk w) (State.addPend_memOk ok))
theorem execBMtab_memOk {h sub a imm} (ok : s.memOk) : Leads State.memOk (execBMtab h sub a imm s) := by
  unfold execBMtab
  refine issue_leads ok fun _ => yields_any fun _ => ?_
  exact yields_bind (yields_wholeWave (State.readRecord_memOk ok)) fun _ w => yields_any fun _ =>
    yields_ok (State.markStale_memOk (State.upd_memOk w))

/-! ## The local store -/

theorem State.lsPut_memOk {r off l} (ok : s.memOk) : (s.lsPut r off l).memOk := by
  unfold State.lsPut
  split
  · exact State.mapTeam_memOk ok
  · exact State.mapDie_memOk ok
theorem State.wakeBar_memOk {k off gen acq} (ok : s.memOk) : (s.wakeBar k off gen acq).memOk :=
  ok
theorem State.flipTest_memOk {k off} (ok : s.memOk) : (s.flipTest k off).memOk := by
  unfold State.flipTest
  dsimp only
  split
  · exact ok
  · split
    · exact State.wakeBar_memOk (State.lsPut_memOk ok)
    · split
      · exact ok
      · split
        · refine State.wakeBar_memOk (State.lsPut_memOk (State.mapTeam_memOk ?_))
          split
          · split
            · exact ok
            · exact State.mapTeam_memOk (State.mapTeam_memOk ok)
          · exact ok
        · split
          · split
            · exact ok
            · exact State.mapTeam_memOk (State.mapTeam_memOk ok)
          · exact ok
theorem State.putObject_memOk {k off v} (ok : s.memOk) : (s.putObject k off v).memOk :=
  State.flipTest_memOk (State.lsPut_memOk ok)
theorem State.lsWrite_memOk {r off l} (ok : s.memOk) : (s.lsWrite r off l).memOk := by
  unfold State.lsWrite
  dsimp only
  split
  · exact State.lsPut_memOk ok
  · split
    · exact State.lsPut_memOk ok
    · exact foldl_keeps State.memOk (fun _ _ w => State.flipTest_memOk w) (State.lsPut_memOk ok)
theorem State.countBytes_memOk {k off n out} (ok : s.memOk) : (s.countBytes k off n out).memOk :=
  State.putObject_memOk ok
theorem State.touch_memOk {a pc p n} (ok : s.memOk) : (s.touch a pc p n).memOk := by
  unfold State.touch
  split
  · exact ok
  · split
    · exact ok
    · exact State.mapCtx_memOk ok
theorem State.setTag_memOk {r off z} (ok : s.memOk) : (s.setTag r off z).memOk := by
  unfold State.setTag
  split
  · exact State.mapTeam_memOk ok
  · exact ok
theorem State.setTags_memOk {r off n z} (ok : s.memOk) : (s.setTags r off n z).memOk :=
  foldl_keeps State.memOk (fun _ _ w => State.setTag_memOk w) ok
theorem Iss.lsEnter_memOk {is : Iss} {vadr a imm n align guarded} (ok : s.memOk) :
    Yields (fun x => x.2.memOk) (is.lsEnter s vadr a imm n align guarded) := by
  unfold Iss.lsEnter
  refine yields_any fun _ => yields_any fun _ => yields_any fun _ => yields_ok ?_
  dsimp only
  split
  · exact foldl_keeps State.memOk (fun _ _ w => State.touch_memOk w) ok
  · exact ok
theorem execLLd_memOk {h vadr sx d a sz imm} (ok : s.memOk) : Leads State.memOk (execLLd h vadr sx d a sz imm s) := by
  unfold execLLd
  exact issue_leads ok fun _ => yields_bind (Iss.lsEnter_memOk ok) fun _ w => yields_any fun _ => yields_ok
    (foldl_keeps State.memOk (fun _ _ w1 => State.mapPend_memOk w1) (State.addPend_memOk w))
theorem execLSt_memOk {h vadr a b sz imm} (ok : s.memOk) : Leads State.memOk (execLSt h vadr a b sz imm s) := by
  unfold execLSt
  exact issue_leads ok fun _ => yields_bind (Iss.lsEnter_memOk ok) fun _ w => yields_any fun _ => yields_ok
    (foldl_keeps State.memOk (fun _ _ w1 => State.lsWrite_memOk w1) (State.addPend_memOk w))
theorem lsAtomics_memOk {n f} : ∀ {l : List (Nat × LsAt)} {s : State}, s.memOk → (lsAtomics n f l s).1.memOk
  | [], _, ok => ok
  | _ :: l, _, ok => lsAtomics_memOk (l := l) (State.lsWrite_memOk ok)
theorem lsAtomic_memOk {h vadr t d a rd imm f} (ok : s.memOk) : Leads State.memOk (lsAtomic h vadr t d a rd imm s f) := by
  unfold lsAtomic
  exact issue_leads ok fun _ => yields_bind (Iss.lsEnter_memOk ok) fun _ w => yields_any fun _ => State.pendV_memOk (lsAtomics_memOk w)
theorem execLFill_memOk {h vadr a b c imm} (ok : s.memOk) : Leads State.memOk (execLFill h vadr a b c imm s) := by
  unfold execLFill
  exact issue_leads ok fun _ => yields_bind (Iss.lsEnter_memOk ok) fun _ w => yields_any fun _ => yields_ok
    (foldl_keeps State.memOk (fun _ _ w1 => State.lsWrite_memOk w1) (State.addPend_memOk w))
theorem execLSwz_memOk {h vadr a tag imm} (ok : s.memOk) : Leads State.memOk (execLSwz h vadr a tag imm s) := by
  unfold execLSwz
  exact issue_leads ok fun _ => yields_bind (Iss.lsEnter_memOk ok) fun _ w => yields_any fun _ => yields_ok
    (foldl_keeps State.memOk (fun _ _ w1 => State.setTag_memOk w1) (State.addPend_memOk w))
theorem State.touchChunks_memOk {a pc cs} (ok : s.memOk) : (s.touchChunks a pc cs).memOk :=
  foldl_keeps State.memOk (fun _ _ w => State.touch_memOk w) ok
theorem execLLdt_memOk {h d a b imm} (ok : s.memOk) : Leads State.memOk (execLLdt h d a b imm s) := by
  unfold execLLdt
  refine issue_leads ok fun _ => yields_any fun _ => yields_any fun _ => yields_any fun _ => ?_
  dsimp only
  split
  · exact yields_any fun _ => yields_any fun _ => yields_any fun _ => yields_ok (State.addPend_memOk (State.touchChunks_memOk ok))
  · exact yields_any fun _ => yields_any fun _ => yields_ok (State.addPend_memOk (State.touchChunks_memOk ok))
theorem execLStt_memOk {h d a b imm} (ok : s.memOk) : Leads State.memOk (execLStt h d a b imm s) := by
  unfold execLStt
  exact issue_leads ok fun _ => yields_any fun _ => yields_any fun _ => yields_any fun _ => yields_any fun _ => yields_any fun _ => yields_ok
    (foldl_keeps State.memOk (fun _ _ w => State.setTag_memOk (State.lsWrite_memOk w)) (State.addPend_memOk (State.touchChunks_memOk ok)))

/-! ## Barriers and fences -/

theorem barrierOp_memOk {h : Hdr} {rd wr : List Use} {a : RegNo} {imm : BitVec 32} {s : State} {body : Iss → Obj → State → Res State}
    (ok : s.memOk) (keeps : ∀ (is : Iss) (o : Obj) (t : State), t.memOk → Yields State.memOk (body is o t)) :
    Leads State.memOk (barrierOp h rd wr a imm s body) := by
  unfold barrierOp
  refine issueRaw_leads ok fun _ => yields_any fun _ => ?_
  split
  · refine yields_ok (State.except_memOk ?_)
    split
    · split
      · split
        · exact State.lsPut_memOk ok
        · exact ok
      · exact ok
    · exact ok
  · split
    · exact yields_error
    · exact yields_bind (keeps _ _ _ (State.mapTeam_memOk ok)) fun _ w => yields_ok (State.advance_memOk w)
theorem execABarInit_memOk {h a b imm} (ok : s.memOk) : Leads State.memOk (execABarInit h a b imm s) :=
  barrierOp_memOk ok fun _ _ _ w => yields_any fun _ => yields_ok (State.wakeBar_memOk (State.lsPut_memOk w))
theorem execABarArrive_memOk {h sub d a b imm} (ok : s.memOk) : Leads State.memOk (execABarArrive h sub d a b imm s) :=
  barrierOp_memOk ok fun _ _ _ w => yields_any fun _ => yields_ok (State.wrS_memOk (State.putObject_memOk w))
theorem State.barWait_memOk {is o tok} (ok : s.memOk) : (s.barWait is o tok).memOk := by
  unfold State.barWait
  split <;> exact State.parkAgent_memOk ok
theorem execABarSync_memOk {h d a imm} (ok : s.memOk) : Leads State.memOk (execABarSync h d a imm s) := by
  unfold execABarSync
  exact barrierOp_memOk ok fun _ _ _ w => yields_any fun _ => yields_any fun _ => yields_ok
    (State.barWait_memOk (State.wrS_memOk (State.putObject_memOk w)))
theorem execABarTest_memOk {h d a b imm} (ok : s.memOk) : Leads State.memOk (execABarTest h d a b imm s) := by
  unfold execABarTest
  refine barrierOp_memOk ok fun _ _ _ w => yields_any fun _ => yields_ok ?_
  split
  · exact State.parkAgent_memOk (State.wrS_memOk w)
  · exact State.wrS_memOk w
theorem execAFence_memOk {h sub sc} (ok : s.memOk) : Leads State.memOk (execAFence h sub sc s) := by
  refine issue_leads ok fun _ => yields_any fun _ => ?_
  dsimp only
  split
  · exact yields_ok (State.parkAgent_memOk (State.drainWc_memOk ok))
  · exact yields_ok (State.parkAgent_memOk (State.release_memOk ok))

/-! ## The rest of the a class -/

theorem State.flushLine_memOk {core line at'} (ok : s.memOk) : (s.flushLine core line at').memOk := by
  unfold State.flushLine
  dsimp only
  split
  · refine State.l1Evict_memOk ?_
    split
    · exact State.copyOut_memOk ok
    · exact ok
  · refine State.noFill_memOk ?_
    split
    · exact State.copyOut_memOk ok
    · exact ok
theorem State.sendAtom_memOk {is id ts lane n rt op after} (ok : s.memOk) : (s.sendAtom is id ts lane n rt op after).memOk := by
  unfold State.sendAtom
  refine State.send_memOk ?_
  split
  · exact State.mapPend_memOk (State.flushLine_memOk ok)
  · exact State.flushLine_memOk ok
theorem atomBody_memOk {k regs n a x0 x1 op is} (ok : s.memOk) : Yields State.memOk (atomBody k regs n a x0 x1 op is s) := by
  refine yields_any fun _ => yields_any fun _ => yields_any fun _ => ?_
  dsimp only
  split
  · exact yields_ok (foldl_keeps State.memOk (fun _ _ w => State.sendAtom_memOk w) (State.addPend_memOk (State.release_memOk ok)))
  · exact yields_ok (foldl_keeps State.memOk (fun _ _ w => State.sendAtom_memOk w) (State.addPend_memOk ok))
theorem State.l1Update_memOk {core line gen mask data} (ok : s.memOk) : (s.l1Update core line gen mask data).memOk :=
  State.noFill_memOk (State.mapCore_memOk ok)
theorem State.storeHome_memOk {is id ts rt l deps} (ok : s.memOk) : (s.storeHome is id ts rt l deps).memOk :=
  State.l1Update_memOk (State.writeReq_memOk ok)
theorem execAStrel_memOk {h a b x0 x1} (ok : s.memOk) : Leads State.memOk (execAStrel h a b x0 x1 s) := by
  unfold execAStrel
  refine issue_leads ok fun _ => yields_any fun _ => yields_any fun _ => yields_any fun _ => ?_
  dsimp only
  split
  · refine yields_ok ?_
    exact foldl_keeps State.memOk (fun _ _ w => State.storeHome_memOk w) (State.addPend_memOk (State.release_memOk ok))
  · refine yields_any fun _ => yields_ok (foldl_keeps State.memOk (fun _ _ w => ?_) (State.addPend_memOk ok))
    split
    · exact State.storeHome_memOk w
    · exact State.storeOne_memOk w
theorem execATktTake_memOk {h d a x0 x1} (ok : s.memOk) : Leads State.memOk (execATktTake h d a x0 x1 s) := by
  unfold execATktTake
  exact issue_leads ok fun _ => yields_any fun _ => yields_any fun _ => yields_ok (State.sendAtom_memOk (State.addPend_memOk ok))
theorem State.sendWait_memOk {is rt n op flush} (ok : s.memOk) : (s.sendWait is rt n op flush).memOk := by
  unfold State.sendWait
  refine State.parkAgent_memOk (State.send_memOk ?_)
  split
  · exact State.flushLine_memOk ok
  · exact ok
theorem execATktServe_memOk {h a src x0 x1} (ok : s.memOk) : Leads State.memOk (execATktServe h a src x0 x1 s) := by
  unfold execATktServe
  refine issue_leads ok fun _ => yields_any fun _ => yields_ok (State.sendAtom_memOk (State.drainWc_memOk ?_))
  split
  · exact State.publishLines_memOk ok
  · exact ok

end

end Sys2Proof.Machine

/-! SUPPORT. The canonical form of memory through scheduling, copies and tile tasks. -/

namespace Sys2Proof.Machine

section
variable {s : State}

/-! ## Launches, futures and the register pool -/

theorem State.readFoot_memOk {is va} (ok : s.memOk) : Yields (fun x => Yields (fun x => x.2.2.memOk) x) (s.readFoot is va) := by
  unfold State.readFoot
  dsimp only
  split
  · exact yields_ok yields_error
  · split
    · exact yields_ok yields_error
    · split
      · exact yields_ok yields_error
      · refine yields_any fun _ => ?_
        split
        · next h => exact yields_ok (yields_ok (State.viewPieces_memOk ok _ h))
        · split
          · exact yields_error
          · split
            · exact yields_ok yields_error
            · exact yields_error
theorem State.record_memOk {is ls a disp n align} (ok : s.memOk) : Yields (fun x => x.2.memOk) (s.record is ls a disp n align) := by
  unfold State.record
  refine yields_any fun _ => ?_
  split
  · refine yields_any fun _ => ?_
    split
    · exact yields_ok ok
    · exact yields_any fun _ => yields_ok (State.touch_memOk ok)
  · exact yields_bind (State.readRecord_memOk ok) fun _ w => yields_ok (State.markStale_memOk w)
theorem launchOp_memOk {spawn h sub d a x0} (ok : s.memOk) : Leads State.memOk (launchOp spawn h sub d a x0 s) := by
  refine issue_leads ok fun _ => yields_bind (State.record_memOk ok) fun x w => yields_any fun _ => yields_any fun _ => ?_
  refine yields_bind (State.readFoot_memOk w) fun fr wf => ?_
  extract_lets s1 s2 kind sc r s3
  have w1 : s1.memOk := by
    cases fr with
    | error c => exact w
    | ok y => exact wf _ rfl
  have w3 : s3.memOk := by
    unfold s3
    split
    · exact State.setStale_memOk w1
    · exact w1
  clear_value s3 r
  split
  · exact State.instantFut_memOk w3
  · exact yields_bind (State.takeFut_memOk w3) fun _ w4 => yields_ok w4
theorem State.sendRead_memOk {is id lane n rt} (ok : s.memOk) : (s.sendRead is id lane n rt).memOk :=
  State.send_memOk (State.mapPend_memOk ok)
theorem execQFwait_memOk {h sub d a sc} (ok : s.memOk) : Leads State.memOk (execQFwait h sub d a sc s) := by
  unfold execQFwait
  refine issueRaw_leads ok fun _ => ?_
  split
  · dsimp only
    split
    · exact yields_bind (State.pendS_memOk ok) fun _ w => yields_ok (State.advance_memOk (State.mapCtx_memOk (State.parkAgent_memOk w)))
    · exact yields_any fun _ => yields_bind (State.pendS_memOk ok) fun _ w => yields_ok (State.advance_memOk (State.parkAgent_memOk w))
  · exact yields_any fun _ => yields_any fun _ => yields_ok (State.sendWait_memOk (State.upd_memOk ok))
theorem execQFtest_memOk {h sub d a} (ok : s.memOk) : Leads State.memOk (execQFtest h sub d a s) := by
  unfold execQFtest
  refine issue_leads ok fun _ => ?_
  split
  · exact State.pendS_memOk ok
  · exact yields_any fun _ => yields_any fun _ => yields_ok (State.sendRead_memOk (State.addPend_memOk ok))
theorem State.cancelFut_memOk {f} (ok : s.memOk) : (s.cancelFut f).1.memOk := by
  unfold State.cancelFut
  dsimp only
  split
  · exact ok
  · split
    · exact State.mapGroup_memOk ok
    · exact ok
theorem execQFcancel_memOk {h sub d a} (ok : s.memOk) : Leads State.memOk (execQFcancel h sub d a s) := by
  unfold execQFcancel
  refine issue_leads ok fun _ => ?_
  split
  · refine State.pendS_memOk ?_
    split
    · exact State.cancelFut_memOk ok
    · exact ok
  · refine yields_any fun _ => yields_bind (State.readRecord_memOk ok) fun _ w => State.pendS_memOk (State.markStale_memOk ?_)
    split
    · split
      · exact State.cancelFut_memOk w
      · exact w
    · exact w
theorem Iss.addSite_memOk {is : Iss} {t x} (ok : s.memOk) : Yields State.memOk (is.addSite s t x) := by
  unfold Iss.addSite
  split
  · exact yields_ok ok
  · exact yields_any fun _ => yields_ok (State.mapQuad_memOk ok)
theorem execQFmov_memOk {h sub d a b imm} (ok : s.memOk) : Leads State.memOk (execQFmov h sub d a b imm s) := by
  unfold execQFmov
  refine issue_leads ok fun _ => ?_
  dsimp only
  split
  · refine yields_any fun _ => ?_
    split
    · exact State.pendS_memOk ok
    · split
      · exact yields_ok ok
      · exact yields_bind (Iss.addSite_memOk (State.clearTag_memOk ok)) fun _ w => yields_ok (State.mapCtx_memOk w)
  · refine yields_any fun _ => ?_
    split
    · refine yields_bind (yields_ok ?_) fun _ w => yields_ok (State.l1Update_memOk (State.send_memOk w))
      split
      · exact State.flushLine_memOk ok
      · exact ok
    · refine yields_bind (Iss.addSite_memOk ?_) fun _ w => yields_ok (State.l1Update_memOk (State.send_memOk w))
      split
      · exact State.flushLine_memOk ok
      · exact ok
theorem execQClaim_memOk {h d src} (ok : s.memOk) : Leads State.memOk (execQClaim h d src s) := by
  unfold execQClaim
  refine issueRaw_leads ok fun _ => yields_any fun _ => ?_
  split
  · exact yields_bind (State.pendS_memOk ok) fun _ w => yields_ok (State.advance_memOk w)
  · exact yields_any fun _ => yields_ok (State.parkAgent_memOk (State.mapTeam_memOk ok))
theorem execQSleep_memOk {h src} (ok : s.memOk) : Leads State.memOk (execQSleep h src s) := by
  unfold execQSleep
  refine issue_leads ok fun _ => yields_ok ?_
  split
  · exact ok
  · exact State.parkAgent_memOk ok

/-! ## What the scheduler does -/

theorem State.ownRead_memOk {core va n} (ok : s.memOk) : Yields (fun x => Yields (fun x => x.2.memOk) x) (s.ownRead core va n) := by
  unfold State.ownRead
  split
  · exact yields_ok (yields_ok ok)
  · exact yields_map_any fun _ => yields_map (fun _ h => State.readRange_memOk h ok) fun _ w => w
theorem State.windowReads_memOk {core g} (ok : s.memOk) : Yields (Yields fun x => x.2.memOk) (s.windowReads core g) := by
  unfold State.windowReads
  refine yields_bind (Q := Yields fun x => x.2.memOk) ?_ fun r1 w1 => yields_bind (Q := Yields fun x => x.2.memOk) ?_ fun r2 w2 =>
    yields_bind (Q := Yields fun x => x.2.memOk) ?_ fun r3 w3 => yields_ok (yields_map w3 fun _ w => w)
  · exact yields_map (State.ownRead_memOk ok) fun _ w => yields_map w fun _ w => w
  · beta_reduce
    split
    · exact yields_ok yields_error
    · exact yields_map (State.ownRead_memOk (w1 _ rfl)) fun _ w => yields_map w fun _ w => w
  · beta_reduce
    split
    · exact yields_ok yields_error
    · exact yields_map (State.ownRead_memOk (w2 _ rfl)) fun _ w => yields_map w fun _ w => w
theorem State.placeTeam_memOk {gkey g key tid core gang slots} (ok : s.memOk) : (s.placeTeam gkey g key tid core gang slots).memOk :=
  ok
theorem State.startTeam_memOk {key t g img guard tags} (ok : s.memOk) : (s.startTeam key t g img guard tags).memOk :=
  foldl_keeps State.memOk (fun _ _ w => State.setCtx_memOk w) (State.mapTeam_memOk ok)
theorem State.killUnprepared_memOk {key code} (ok : s.memOk) : (s.killUnprepared key code).memOk :=
  State.mapTeam_memOk ok
theorem State.prepare_memOk {key t g} (ok : s.memOk) : Gives State.memOk (s.prepare key t g) := by
  unfold State.prepare
  split
  · exact gives_some (State.killUnprepared_memOk ok)
  · next hreads =>
      have owned {die part tag : Nat} := State.own_owns (die := die) (part := part) (tag := tag) ok (State.windowReads_memOk ok _ hreads)
      split
      · next h => exact gives_some (State.startTeam_memOk (owned.got _ h))
      · next h => exact gives_some (State.killUnprepared_memOk (owned.fail _ _ h))
      · next h => exact owned.wait _ h
theorem State.placeGang_memOk {gkey g cores slots} (ok : s.memOk) : (s.placeGang gkey g cores slots).memOk :=
  State.mapGroup_memOk (foldl_keeps State.memOk (fun _ _ w => State.placeTeam_memOk w) ok)
theorem evGangPlacement_memOk {die group cores} (ok : s.memOk) : Gives State.memOk (evGangPlacement die group cores s) := by
  unfold evGangPlacement
  split
  · exact gives_none
  · split
    · split
      · exact State.prepare_memOk ok
      · exact gives_none
    · split
      · exact gives_some (State.placeGang_memOk ok)
      · exact gives_none
theorem evRecordBlocking_memOk {die group} (ok : s.memOk) : Gives State.memOk (evRecordBlocking die group s) := by
  unfold evRecordBlocking
  split
  · exact gives_none
  · split
    · exact gives_some (State.mapGroup_memOk ok)
    · exact gives_none
theorem State.freeStoker_memOk {key} (ok : s.memOk) : (s.freeStoker key).memOk := by
  unfold State.freeStoker
  split
  · exact ok
  · exact State.mapTeam_memOk (State.keepRecord_memOk ok)
theorem State.dropWave_memOk {a c} (ok : s.memOk) : (s.dropWave a c).memOk := by
  unfold State.dropWave
  dsimp only
  split
  · exact ok
  · exact State.setCtx_memOk ok
theorem evWaveRetire_memOk {a} (ok : s.memOk) : Gives State.memOk (evWaveRetire a s) := by
  unfold evWaveRetire
  split
  · exact gives_none
  · split
    · exact gives_none
    · split
      · exact gives_none
      · refine gives_some ?_
        split
        · exact State.freeStoker_memOk (State.mapTeam_memOk (State.dropWave_memOk (State.keepRecord_memOk ok)))
        · exact State.mapTeam_memOk (State.dropWave_memOk (State.keepRecord_memOk ok))
theorem State.dropLoads_memOk {key} (ok : s.memOk) : (s.dropLoads key).memOk :=
  ok
theorem evTeamRelease_memOk {key} (ok : s.memOk) : Gives State.memOk (evTeamRelease key s) := by
  unfold evTeamRelease
  split
  · exact gives_none
  · split
    · exact gives_some (State.mapGroup_memOk (State.dropLoads_memOk ok))
    · exact gives_none
theorem State.publishPart_memOk {part} (ok : s.memOk) : (s.publishPart part).memOk :=
  foldl_keeps State.memOk (fun _ _ w => State.drainWc_memOk (State.publishLines_memOk w)) ok
theorem State.drainPart_memOk {part} (ok : s.memOk) : (s.drainPart part).memOk :=
  foldl_keeps State.memOk (fun _ _ w => State.drainWc_memOk w) ok
theorem State.signal_memOk {g} (ok : s.memOk) : Yields (fun x => Yields State.memOk x) (s.signal g) := by
  unfold State.signal
  split
  · exact yields_ok (yields_ok ok)
  · exact yields_map_any fun _ _ h => State.engineWrite_memOk h ok
theorem State.endGroup_memOk {group g fail} (ok : s.memOk) : (s.endGroup group g fail).memOk :=
  State.resolve0_memOk ok
theorem evGroupComplete_memOk {group} (ok : s.memOk) : Gives State.memOk (evGroupComplete group s) := by
  unfold evGroupComplete
  split
  · exact gives_none
  · split
    · exact gives_none
    · split
      · split
        · dsimp only
          split
          · exact gives_none
          · exact gives_some (State.drainPart_memOk ok)
        · split
          · exact gives_some (State.endGroup_memOk ok)
          · next hsig =>
              split
              · next h => exact gives_some (State.endGroup_memOk ((State.own_owns ok (State.signal_memOk ok _ hsig)).got _ h))
              · next h => exact gives_some (State.endGroup_memOk ((State.own_owns ok (State.signal_memOk ok _ hsig)).fail _ _ h))
              · next h => exact (State.own_owns ok (State.signal_memOk ok _ hsig)).wait _ h
      · split
        · dsimp only
          split
          · exact gives_none
          · exact gives_some (State.publishPart_memOk ok)
        · split
          · exact gives_some (State.endGroup_memOk ok)
          · next hsig =>
              split
              · next h => exact gives_some (State.endGroup_memOk ((State.own_owns ok (State.signal_memOk ok _ hsig)).got _ h))
              · next h => exact gives_some (State.endGroup_memOk ((State.own_owns ok (State.signal_memOk ok _ hsig)).fail _ _ h))
              · next h => exact (State.own_owns ok (State.signal_memOk ok _ hsig)).wait _ h
theorem State.endClaim_memOk {a d v f} (ok : s.memOk) : (s.endClaim a d v f).memOk :=
  State.mapCtx_memOk (State.clearTag_memOk ok)
theorem evClaimGrant_memOk {key} (ok : s.memOk) : Gives State.memOk (evClaimGrant key s) := by
  unfold evClaimGrant
  split
  · exact gives_none
  · split
    · exact gives_none
    · split
      · exact gives_none
      · split
        · split
          · exact gives_some (State.endClaim_memOk (State.mapTeam_memOk ok))
          · exact gives_none
        · exact gives_none
theorem evClaimFail_memOk {key} (ok : s.memOk) : Gives State.memOk (evClaimFail key s) := by
  unfold evClaimFail
  dsimp only
  split
  · exact gives_none
  · exact gives_map_any fun _ => State.endClaim_memOk (State.mapTeam_memOk ok)
theorem evSleepExpiry_memOk {a} (ok : s.memOk) : Gives State.memOk (evSleepExpiry a s) := by
  unfold evSleepExpiry
  split
  · exact gives_none
  · split
    · split
      · exact gives_some (State.mapCtx_memOk ok)
      · exact gives_none
    · exact gives_none
theorem State.saveBlocks_memOk {core gen area c} (ok : s.memOk) : Yields State.memOk (s.saveBlocks core gen area c) :=
  yields_foldlM (fun _ _ w _ h => State.writeRange_memOk h w) ok
theorem State.loadBlocks_memOk {core gen area c} (ok : s.memOk) : Yields (fun x => x.2.2.memOk) (s.loadBlocks core gen area c) :=
  yields_foldlM (fun _ _ w => yields_map (fun _ h => State.readRange_memOk h w) fun _ w1 => w1) ok
theorem evWaveSwitchOut_memOk {a group spares} (ok : s.memOk) : Gives State.memOk (evWaveSwitchOut a group spares s) := by
  unfold evWaveSwitchOut
  refine gives_bind_any fun _ => gives_bind_any fun _ => gives_bind_any fun _ => gives_bind_any fun _ => ?_
  dsimp only
  split
  · refine gives_bind_any fun _ => ?_
    split
    · next h => exact (State.own_owns ok (State.saveBlocks_memOk ok)).wait _ h
    · next h => exact gives_some ((State.own_owns ok (State.saveBlocks_memOk ok)).fail _ _ h)
    · next h =>
        have saved := (State.own_owns ok (State.saveBlocks_memOk ok)).got _ h
        exact gives_some (State.placeGang_memOk (State.mapCtx_memOk saved))
  · exact gives_none
theorem State.killSwitched_memOk {a team code} (ok : s.memOk) : (s.killSwitched a team code).memOk :=
  State.mapTeam_memOk (State.endThreads_memOk (State.mapCtx_memOk ok))
theorem evWaveSwitchResume_memOk {a} (ok : s.memOk) : Gives State.memOk (evWaveSwitchResume a s) := by
  unfold evWaveSwitchResume
  refine gives_bind_any fun _ => gives_bind_any fun _ => gives_bind_any fun _ => gives_bind_any fun _ => ?_
  dsimp only
  split
  · split
    · next h => exact (State.own_owns ok (State.loadBlocks_memOk ok)).wait _ h
    · next h => exact gives_some (State.killSwitched_memOk ((State.own_owns ok (State.loadBlocks_memOk ok)).fail _ _ h))
    · split
      · next h =>
          split
          · exact gives_some (State.killSwitched_memOk ((State.own_owns ok (State.loadBlocks_memOk ok)).got _ h))
          · exact gives_some (State.mapCtx_memOk ((State.own_owns ok (State.loadBlocks_memOk ok)).got _ h))
      · next h =>
          split
          · exact gives_some (State.killSwitched_memOk ((State.own_owns ok (State.loadBlocks_memOk ok)).got _ h))
          · exact gives_some (State.mapCtx_memOk ((State.own_owns ok (State.loadBlocks_memOk ok)).got _ h))
  · exact gives_none

/-! ## The copy engine -/

theorem State.engineFault_memOk {a part va code pc} (ok : s.memOk) : Gives (fun x => x.1.memOk) (s.engineFault a part va code pc) := by
  unfold State.engineFault
  dsimp only
  split
  · split
    · exact gives_some (State.beginEpisode_memOk ok)
    · exact gives_none
  · split
    · exact gives_none
    · split
      · exact gives_some (State.noteSynonym_memOk ok)
      · exact gives_some ok
theorem State.lsWriteSwz_memOk {p z l} (ok : s.memOk) : (s.lsWriteSwz p z l).memOk := by
  unfold State.lsWriteSwz
  refine State.setTags_memOk ?_
  split
  · exact State.lsWrite_memOk ok
  · exact foldl_keeps State.memOk (fun _ _ w => State.lsWrite_memOk w) ok
theorem State.touchRow_memOk {a pc p z n} (ok : s.memOk) : (s.touchRow a pc p z n).memOk := by
  unfold State.touchRow
  split
  · exact State.touch_memOk ok
  · exact foldl_keeps State.memOk (fun _ _ w => State.touch_memOk w) ok
theorem State.touchIndex_memOk {c i} (ok : s.memOk) : (s.touchIndex c i).memOk := by
  unfold State.touchIndex
  split
  · exact State.touch_memOk ok
  · exact ok
theorem State.postCopy_memOk {is d x0 x c0 rows} (ok : s.memOk) : Yields State.memOk (s.postCopy is d x0 x c0 rows) := by
  refine yields_any fun _ => yields_any fun _ => ?_
  dsimp only
  split
  · exact State.instantFut_memOk ok
  · exact yields_ite (State.instantFut_memOk ok) (yields_bind (State.takeFut_memOk ok) fun _ w => yields_ok (State.mapCore_memOk w))
theorem State.mapCopy_memOk {q id f} (ok : s.memOk) : (s.mapCopy q id f).memOk :=
  State.mapQuad_memOk ok
theorem State.copySrc_memOk {c row col n} (ok : s.memOk) : Yields (fun x => x.2.2.memOk) (s.copySrc c row col n) := by
  unfold State.copySrc
  split
  · exact yields_ok ok
  · split
    · exact yields_error
    · split
      · split
        · exact yields_error
        · split
          · exact yields_error
          · exact yields_ok (State.touchRow_memOk ok)
      · split
        · exact yields_error
        · exact fun _ h => State.readRange_memOk h ok
theorem State.copyWords_memOk {c row col n} (ok : s.memOk) : Yields (fun x => x.2.2.2.memOk) (s.copyWords c row col n) :=
  yields_map (State.copySrc_memOk ok) fun _ w => w
theorem State.copyDst_memOk {c row col l} (ok : s.memOk) : Yields State.memOk (s.copyDst c row col l) := by
  unfold State.copyDst
  split
  · exact yields_error
  · dsimp only
    split
    · split
      · exact yields_error
      · refine yields_ok ?_
        split
        · split
          · exact State.countBytes_memOk (State.lsWriteSwz_memOk (State.touchRow_memOk ok))
          · exact State.lsWriteSwz_memOk (State.touchRow_memOk ok)
        · exact State.lsWriteSwz_memOk (State.touchRow_memOk ok)
    · split
      · exact yields_error
      · split
        · exact yields_error
        · next h =>
            refine yields_ok ?_
            split
            · split
              · split
                · exact State.countBytes_memOk (State.writeRange_memOk h ok)
                · exact State.writeRange_memOk h ok
              · exact State.writeRange_memOk h ok
            · exact State.writeRange_memOk h ok
theorem evCopyBytesLand_memOk {copy row col n} (ok : s.memOk) : Gives State.memOk (evCopyBytesLand copy row col n s) := by
  unfold evCopyBytesLand
  split
  · exact gives_none
  · split
    · exact gives_none
    · split
      · exact gives_none
      · dsimp only
        split
        · exact gives_some (State.mapsGo_memOk (State.mapCopy_memOk (State.touchIndex_memOk ok)))
        · split
          · exact gives_map (State.engineFault_memOk (State.touchIndex_memOk ok)) fun _ w => State.mapsGo_memOk (State.mapCopy_memOk w)
          · next hread =>
              have read := State.copyWords_memOk (State.touchIndex_memOk ok) _ hread
              split
              · exact gives_map (State.engineFault_memOk read) fun _ w => State.mapsGo_memOk (State.mapCopy_memOk w)
              · next h => exact gives_some (State.mapsGo_memOk (State.mapCopy_memOk (State.copyDst_memOk read _ h)))
theorem evCopyComplete_memOk {copy} (ok : s.memOk) : Gives State.memOk (evCopyComplete copy s) := by
  unfold evCopyComplete
  split
  · exact gives_none
  · exact gives_map_any fun _ => State.mapsGo_memOk (State.resolve_memOk (State.mapQuad_memOk ok))
theorem evScoreboardEntryFree_memOk {core id} (ok : s.memOk) : Gives State.memOk (evScoreboardEntryFree core id s) := by
  unfold evScoreboardEntryFree
  split
  · exact gives_none
  · dsimp only
    split
    · split
      · exact gives_none
      · exact gives_some (State.mapCore_memOk ok)
    · split
      · exact gives_none
      · exact gives_some (State.mapCore_memOk ok)

/-! ## Tile tasks -/

theorem State.fetchRow_memOk {t o row lo n} (ok : s.memOk) : Yields (fun x => x.2.2.memOk) (s.fetchRow t o row lo n) := by
  unfold State.fetchRow
  split
  · split <;> exact yields_ok ok
  · dsimp only
    split
    · exact yields_error
    · exact yields_ok (State.touchRow_memOk ok)
  · exact fun _ h => State.readRange_memOk h ok
theorem State.fetchRows_memOk {t o rows lo n} (ok : s.memOk) : Yields (fun x => x.2.2.memOk) (s.fetchRows t o rows lo n) := by
  unfold State.fetchRows
  refine yields_foldlM (fun _ _ w => ?_) ok
  split
  · exact yields_error
  · next h => exact yields_ok (State.fetchRow_memOk w _ h)
theorem State.fetchOp_memOk {t o ty tr cnt k0 kn} (ok : s.memOk) : Yields (fun x => x.2.2.memOk) (s.fetchOp t o ty tr cnt k0 kn) := by
  unfold State.fetchOp
  dsimp only
  split <;> exact yields_map (State.fetchRows_memOk ok) fun _ w => w
theorem State.mmPass_memOk {t mmt ta tb zero tya tyb acc m n k a b scales} (ok : s.memOk) : Yields (fun x => x.1.memOk)
    (s.mmPass t mmt ta tb zero tya tyb acc m n k a b scales) := by
  unfold State.mmPass
  refine yields_bind (State.fetchOp_memOk ok) fun _ w => yields_bind (State.fetchOp_memOk w) fun _ w1 => ?_
  dsimp only
  split
  · refine yields_bind (Q := fun x : List (List Byte) × Bool × State => x.2.2.memOk) (yields_ok w1) fun _ w2 =>
      yields_bind (Q := fun x : List (List Byte) × Bool × State => x.2.2.memOk) (yields_ok w2) fun _ w3 => ?_
    split
    · exact yields_ok w3
    · exact yields_ok (State.mapTeam_memOk w3)
  · refine yields_bind (State.fetchRows_memOk w1) fun _ w2 => yields_bind (State.fetchRows_memOk w2) fun _ w3 => ?_
    split
    · exact yields_ok w3
    · exact yields_ok (State.mapTeam_memOk w3)
theorem State.rstatPass_memOk {t a rows cols pend lanes} (ok : s.memOk) : (s.rstatPass t a rows cols pend lanes).memOk := by
  unfold State.rstatPass
  split
  · exact ok
  · exact State.mapPend_memOk ok
theorem State.storeRow_memOk {t z addr l} (ok : s.memOk) : Yields State.memOk (s.storeRow t z addr l) := by
  unfold State.storeRow
  split
  · exact yields_error
  · exact yields_ok (State.lsWriteSwz_memOk (State.touchRow_memOk ok))
theorem State.storeRows_memOk {t ls z rows} (ok : s.memOk) : Yields State.memOk (s.storeRows t ls z rows) := by
  unfold State.storeRows
  split
  · exact yields_foldlM (fun _ _ w => State.storeRow_memOk w) ok
  · exact fun _ h => State.homePutRows_memOk h ok
theorem State.cvstPass_memOk {t q a dls tr ft dst stride cv key ctr} (ok : s.memOk) : Yields (fun x => x.1.memOk)
    (s.cvstPass t q a dls tr ft dst stride cv key ctr) := by
  unfold State.cvstPass
  split
  · exact yields_ok ok
  · refine yields_map (State.storeRows_memOk ok) fun _ w => ?_
    dsimp only
    split
    · exact State.mapQuad_memOk w
    · exact w
theorem State.ldaccPass_memOk {t a row col rows cols src} (ok : s.memOk) : Yields (fun x => x.1.memOk) (s.ldaccPass t a row col rows cols src) :=
  yields_bind (State.fetchRows_memOk ok) fun _ w => yields_ok (State.mapTeam_memOk w)
theorem State.staccPass_memOk {t a row col rows cols dst} (ok : s.memOk) : Yields (fun x => x.1.memOk) (s.staccPass t a row col rows cols dst) := by
  unfold State.staccPass
  split
  · exact yields_ok ok
  · refine yields_map ?_ fun _ w => w
    split
    · exact yields_ok (foldl_keeps State.memOk (fun _ _ w => State.mapTeam_memOk w) ok)
    · exact State.storeRows_memOk ok
    · exact State.storeRows_memOk ok
theorem State.runPass_memOk {q t} (ok : s.memOk) : Yields (fun x => x.1.memOk) (s.runPass q t) := by
  unfold State.runPass
  split
  · exact State.mmPass_memOk ok
  · exact yields_ok (State.mapTeam_memOk ok)
  · exact State.ldaccPass_memOk ok
  · exact State.staccPass_memOk ok
  · exact State.cvstPass_memOk ok
  · exact yields_ok (State.rstatPass_memOk ok)
  · exact yields_ok ok
theorem State.postTask_memOk {is d kind op prio sc bar slots tiles wait gens mark} (ok : s.memOk) : Yields State.memOk
    (s.postTask is d kind op prio sc bar slots tiles wait gens mark) :=
  yields_any fun _ => yields_bind (State.takeFut_memOk ok) fun _ w => yields_ok (State.mapQuad_memOk w)
theorem State.mapTask_memOk {q id f} (ok : s.memOk) : (s.mapTask q id f).memOk :=
  State.mapQuad_memOk ok
theorem State.taskTrouble_memOk {q t code va} (ok : s.memOk) : Gives State.memOk (s.taskTrouble q t code va) :=
  gives_map (State.engineFault_memOk ok) fun _ w => State.mapsGo_memOk (State.mapTask_memOk w)
theorem evRickGrant_memOk {q id} (ok : s.memOk) : Gives State.memOk (evRickGrant q id s) := by
  unfold evRickGrant
  split
  · exact gives_none
  · exact gives_some (State.mapQuad_memOk (State.mapTask_memOk ok))
theorem evTilePassGrant_memOk {q id} (ok : s.memOk) : Gives State.memOk (evTilePassGrant q id s) := by
  unfold evTilePassGrant
  split
  · exact evRickGrant_memOk ok
  · split
    · exact gives_none
    · split
      · exact gives_none
      · split
        · exact gives_none
        · split
          · exact State.taskTrouble_memOk ok
          · exact gives_some (State.mapsGo_memOk (State.mapQuad_memOk (State.mapTask_memOk ok)))
theorem evTilePassComplete_memOk {q id} (ok : s.memOk) : Gives State.memOk (evTilePassComplete q id s) := by
  unfold evTilePassComplete
  split
  · exact gives_none
  · split
    · exact gives_none
    · dsimp only
      split
      · exact gives_some (getD_keeps (State.taskTrouble_memOk (State.mapQuad_memOk ok)) (State.mapTask_memOk (State.mapQuad_memOk ok)))
      · next h => exact gives_some (State.mapTask_memOk (State.runPass_memOk (State.mapQuad_memOk ok) _ h))
theorem State.taskArrive_memOk {t} (ok : s.memOk) : (s.taskArrive t).memOk := by
  unfold State.taskArrive
  split
  · exact ok
  · split
    · exact ok
    · exact State.putObject_memOk ok
theorem State.endTask_memOk {q t st code} (ok : s.memOk) : (s.endTask q t st code).memOk :=
  State.mapsGo_memOk (State.resolve_memOk (State.taskArrive_memOk (State.mapQuad_memOk ok)))
theorem evTileTaskComplete_memOk {q id} (ok : s.memOk) : Gives State.memOk (evTileTaskComplete q id s) := by
  unfold evTileTaskComplete
  split
  · exact gives_none
  · split
    · exact gives_none
    · exact gives_map_any fun _ => State.endTask_memOk ok
theorem evAmaxUpdateApply_memOk {q id} (ok : s.memOk) : Gives State.memOk (evAmaxUpdateApply q id s) := by
  unfold evAmaxUpdateApply
  split
  · exact gives_none
  · split
    · exact gives_none
    · exact gives_some (State.mapQuad_memOk ok)

/-! ## The m class -/

theorem matrixOp_memOk {mmt h sub d a b c zero scl bsc asc x0 prio sc bar} (ok : s.memOk) : Leads State.memOk
    (matrixOp mmt h sub d a b c zero scl bsc asc x0 prio sc bar s) := by
  unfold matrixOp
  refine issue_leads ok fun _ => yields_any fun _ => yields_any fun _ => ?_
  split
  · split
    · exact yields_any fun _ => yields_any fun _ => yields_any fun _ => State.postTask_memOk ok
    · exact yields_error
  · exact yields_error
theorem execMEnq_memOk {h sub d a} (ok : s.memOk) : Leads State.memOk (execMEnq h sub d a s) := by
  unfold execMEnq
  refine issue_leads ok fun _ => yields_any fun _ => yields_any fun _ => yields_bind (State.record_memOk ok) fun _ w => ?_
  dsimp only
  split
  · exact State.instantFut_memOk w
  · exact State.postTask_memOk w
theorem accMove_memOk {store h sub d a b c row col shp} (ok : s.memOk) : Leads State.memOk (accMove store h sub d a b c row col shp s) := by
  unfold accMove
  refine issue_leads ok fun _ => yields_any fun _ => yields_any fun _ => ?_
  split
  · exact yields_error
  · refine yields_any fun _ => yields_any fun _ => ?_
    dsimp only
    split
    · exact State.postTask_memOk ok
    · refine yields_any fun _ => ?_
      split
      · exact yields_error
      · refine yields_any fun _ => ?_
        split
        · exact yields_error
        · exact State.postTask_memOk ok
theorem execMCvst_memOk {h sub t d a b c cv} (ok : s.memOk) : Leads State.memOk (execMCvst h sub t d a b c cv s) := by
  unfold execMCvst
  refine issue_leads ok fun _ => yields_any fun _ => yields_any fun _ => yields_any fun _ => yields_any fun _ => ?_
  dsimp only
  split
  · split
    · refine yields_any fun _ => yields_bind (State.postTask_memOk ok) fun _ w => yields_ok ?_
      split
      · exact State.upd_memOk w
      · exact w
    · refine yields_bind (State.postTask_memOk ok) fun _ w => yields_ok ?_
      split
      · exact State.upd_memOk w
      · exact w
  · split
    · refine yields_any fun _ => yields_bind (State.postTask_memOk ok) fun _ w => yields_ok ?_
      split
      · exact State.upd_memOk w
      · exact w
    · refine yields_bind (State.postTask_memOk ok) fun _ w => yields_ok ?_
      split
      · exact State.upd_memOk w
      · exact w
theorem execMRstat_memOk {h d a rows cols} (ok : s.memOk) : Leads State.memOk (execMRstat h d a rows cols s) := by
  unfold execMRstat
  exact issue_leads ok fun _ => yields_any fun _ => yields_any fun _ => yields_any fun _ => yields_any fun _ => yields_ok
    (State.mapQuad_memOk (State.addPend_memOk ok))
theorem execMAmax_memOk {h sub d src} (ok : s.memOk) : Leads State.memOk (execMAmax h sub d src s) := by
  unfold execMAmax
  refine issue_leads ok fun _ => yields_any fun _ => State.pendS_memOk ?_
  split
  · exact State.mapQuad_memOk ok
  · exact ok

end

end Sys2Proof.Machine

/-! SUPPORT. The canonical form of memory through the rick, attention, arenas and the change tree. -/

namespace Sys2Proof.Machine

section
variable {s : State}

/-! ## The rick -/

theorem State.setRick_memOk {key k r slots} (ok : s.memOk) : (s.setRick key k r slots).memOk :=
  State.mapTeam_memOk ok
theorem State.rickX_memOk {t tm r sub slot addr val} (ok : s.memOk) : Yields (fun x => x.2.memOk) (s.rickX t tm r sub slot addr val) := by
  unfold State.rickX
  split
  · exact yields_ok ok
  · split
    · exact yields_error
    · exact yields_ok (State.touch_memOk ok)
  · exact yields_ok ok
theorem State.runStep_memOk {t tm k r sub slot addr val} (ok : s.memOk) : (s.runStep t tm k r sub slot addr val).s.memOk := by
  unfold State.runStep
  split
  · exact ok
  · next h =>
      split
      · exact State.rickX_memOk ok _ h
      · exact State.setRick_memOk (State.rickX_memOk ok _ h)
theorem State.runRead_memOk {t tm k r a add mask} (ok : s.memOk) : (s.runRead t tm k r a add mask).s.memOk :=
  State.setRick_memOk ok
theorem State.runSave_memOk {t tm r sub addr isl icnt bad} (ok : s.memOk) : (s.runSave t tm r sub addr isl icnt bad).s.memOk := by
  unfold State.runSave
  dsimp only
  split
  · split
    · exact ok
    · split
      · next h => exact State.writeRange_memOk h ok
      · exact ok
  · split
    · exact ok
    · exact State.lsWrite_memOk (State.touch_memOk ok)
  · split
    · exact ok
    · split
      · exact ok
      · exact State.mapTeam_memOk ok
theorem State.readImage_memOk {t sub addr isl b n} (ok : s.memOk) : Yields (fun x => x.2.2.memOk) (s.readImage t sub addr isl b n) := by
  unfold State.readImage
  split
  · exact yields_ok ok
  · split
    · exact fun _ h => State.readRange_memOk h ok
    · split
      · exact yields_error
      · exact yields_ok (State.touch_memOk ok)
    · split <;> exact yields_ok ok
theorem State.runRest_memOk {s0 : State} {t tm k sub addr isl icnt f bad} (ok : s0.memOk) : (s0.runRest t tm k sub addr isl icnt f bad).s.memOk := by
  unfold State.runRest
  split
  · split <;> exact ok
  · next himage =>
      dsimp only
      split
      · exact State.readImage_memOk ok _ himage
      · split
        · exact State.readImage_memOk ok _ himage
        · split
          · exact State.readImage_memOk ok _ himage
          · split <;> exact State.readImage_memOk ok _ himage
          · next h => exact State.setRick_memOk (State.readImage_memOk (State.readImage_memOk ok _ himage) _ h)
theorem State.runRick_memOk {t} (ok : s.memOk) : (s.runRick t).s.memOk := by
  unfold State.runRick
  split
  · exact ok
  · dsimp only
    split
    · split
      · exact ok
      · split
        · exact ok
        · exact State.setRick_memOk ok
    · split
      · exact ok
      · exact State.runStep_memOk ok
    · split
      · exact ok
      · exact State.runRead_memOk ok
    · split
      · exact ok
      · split <;> exact State.setRick_memOk ok
    · split
      · exact ok
      · split
        · exact State.setRick_memOk ok
        · exact ok
    · split
      · exact ok
      · exact State.runSave_memOk ok
    · exact State.runRest_memOk ok
    · exact ok
theorem State.endRick_memOk {q t o} (ok : s.memOk) : (s.endRick q t o).memOk :=
  State.mapsGo_memOk (State.resolve_memOk (State.mapQuad_memOk ok))
theorem evRickOperationComplete_memOk {q id} (ok : s.memOk) : Gives State.memOk (evRickOperationComplete q id s) := by
  unfold evRickOperationComplete
  split
  · exact gives_none
  · split
    · exact gives_none
    · split
      · split
        · split
          · exact gives_none
          · exact gives_some (State.mapPend_memOk (State.mapQuad_memOk ok))
        · exact gives_none
      · split
        · split
          · exact gives_some (State.endRick_memOk ok)
          · dsimp only
            split
            · exact gives_some (State.endRick_memOk (State.runRick_memOk ok))
            · refine gives_map (State.engineFault_memOk ok) fun _ w => ?_
              split
              · exact State.mapsGo_memOk (State.mapTask_memOk w)
              · exact State.endRick_memOk w
        · split
          · exact gives_some (State.endRick_memOk ok)
          · exact gives_none
theorem State.postRick_memOk {is d t k op prio sc own gens} (ok : s.memOk) : Yields State.memOk (s.postRick is d t k op prio sc own gens) :=
  yields_any fun _ => State.postTask_memOk ok
theorem execERkinit_memOk {h sub d a rick prio fst} (ok : s.memOk) : Leads State.memOk (execERkinit h sub d a rick prio fst s) := by
  unfold execERkinit
  exact issue_leads ok fun _ => yields_any fun _ => yields_bind (State.record_memOk ok) fun _ w => State.postRick_memOk w
theorem execERkstep_memOk {h sub d b rick prio imm} (ok : s.memOk) : Leads State.memOk (execERkstep h sub d b rick prio imm s) := by
  unfold execERkstep
  refine issue_leads ok fun _ => yields_any fun _ => ?_
  dsimp only
  split
  · exact yields_any fun _ => State.postRick_memOk ok
  · exact State.postRick_memOk ok
theorem checkpointOp_memOk {rest h sub d a rick prio rx} (ok : s.memOk) : Leads State.memOk (checkpointOp rest h sub d a rick prio rx s) := by
  unfold checkpointOp
  refine issue_leads ok fun _ => yields_any fun _ => ?_
  dsimp only
  split
  · refine yields_any fun _ => ?_
    split
    · refine yields_any fun _ => ?_
      dsimp only
      split
      · split
        · exact State.instantFut_memOk ok
        · exact State.postRick_memOk ok
      · exact State.postRick_memOk ok
    · dsimp only
      split
      · split
        · exact State.instantFut_memOk ok
        · exact State.postRick_memOk ok
      · exact State.postRick_memOk ok
  · split
    · refine yields_any fun _ => ?_
      dsimp only
      split
      · split
        · exact State.instantFut_memOk ok
        · exact State.postRick_memOk ok
      · exact State.postRick_memOk ok
    · dsimp only
      split
      · split
        · exact State.instantFut_memOk ok
        · exact State.postRick_memOk ok
      · exact State.postRick_memOk ok
theorem execERkstat_memOk {h d rick prio} (ok : s.memOk) : Leads State.memOk (execERkstat h d rick prio s) := by
  unfold execERkstat
  exact issue_leads ok fun _ => yields_any fun _ => yields_any fun _ => yields_any fun _ => yields_any fun _ => yields_ok
    (State.mapQuad_memOk (State.addPend_memOk ok))

/-! ## The kv class -/

theorem State.kvCommit_memOk {part o} (ok : s.memOk) : (s.kvCommit part o).memOk := by
  unfold State.kvCommit
  refine foldl_keeps State.memOk (fun _ _ w => ?_) ok
  dsimp only
  split
  · exact w
  · exact State.homeWrite_memOk _ _ _ _ _ _ _ _ _ w
theorem State.kvDone_memOk {die r k} (ok : s.memOk) : (s.kvDone die r k).memOk := by
  unfold State.kvDone
  refine State.resolve_memOk (State.complete_memOk ?_)
  split
  · refine State.mapPend_memOk ?_
    split
    · split
      · refine State.mapCtx_memOk ?_
        split
        · exact State.mapDie_memOk (State.kvCommit_memOk ok)
        · exact State.kvCommit_memOk ok
      · split
        · exact State.mapDie_memOk (State.kvCommit_memOk ok)
        · exact State.kvCommit_memOk ok
    · split
      · exact State.mapDie_memOk (State.kvCommit_memOk ok)
      · exact State.kvCommit_memOk ok
  · split
    · split
      · refine State.mapCtx_memOk ?_
        split
        · exact State.mapDie_memOk (State.kvCommit_memOk ok)
        · exact State.kvCommit_memOk ok
      · split
        · exact State.mapDie_memOk (State.kvCommit_memOk ok)
        · exact State.kvCommit_memOk ok
    · split
      · exact State.mapDie_memOk (State.kvCommit_memOk ok)
      · exact State.kvCommit_memOk ok
theorem State.holdReq_memOk {r va} (ok : s.memOk) : (s.holdReq r va).memOk :=
  ok
theorem State.kvReach_memOk {r unit lines} (ok : s.memOk) : Gives State.memOk (s.kvReach r unit lines) := by
  unfold State.kvReach
  refine gives_foldlM (fun _ _ w => ?_) ok
  dsimp only
  split
  · exact gives_none
  · split
    · exact gives_some w
    · exact fun _ h => State.overLink_memOk h w
theorem State.kvHome_memOk {unit r} (ok : s.memOk) : Gives State.memOk (s.kvHome unit r) := by
  unfold State.kvHome
  split
  · exact gives_map (State.kvReach_memOk ok) fun _ w => State.kvDone_memOk w
  · exact gives_some (State.resolve0_memOk (State.dropReq_memOk ok))
  · refine gives_some (State.failReq_memOk ?_)
    split
    · exact State.noteSynonym_memOk ok
    · exact ok
  · exact gives_some (State.beginEpisode_memOk (State.holdReq_memOk ok))
theorem State.sendKv_memOk {is pend rt op after} (ok : s.memOk) : (s.sendKv is pend rt op after).memOk := by
  unfold State.sendKv
  refine State.send_memOk ?_
  split
  · exact State.mapPend_memOk ok
  · exact ok
theorem kvFutOp_memOk {is d a sc op} (ok : s.memOk) : Yields State.memOk (kvFutOp is s d a sc op) := by
  unfold kvFutOp
  refine yields_any fun _ => ?_
  dsimp only
  split
  · exact State.instantFut_memOk ok
  · exact yields_bind (State.takeFut_memOk ok) fun _ w => yields_ok (State.sendKv_memOk w)
theorem kvPrefixOp_memOk {pm h len d a b rd acq rel op} (ok : s.memOk) :
    Leads State.memOk (kvPrefixOp pm h len d a b rd acq rel s op) := by
  refine issue_leads ok fun is => yields_any fun _ => yields_any fun _ => yields_any fun _ => ?_
  split
  · exact yields_ok ok
  · dsimp only
    split
    · exact yields_ok (State.sendKv_memOk (State.addPend_memOk (State.release_memOk ok)))
    · exact yields_ok (State.sendKv_memOk (State.addPend_memOk ok))
theorem execKvBind_memOk {h d a b x0} (ok : s.memOk) : Leads State.memOk (execKvBind h d a b x0 s) := by
  unfold execKvBind
  refine issue_leads ok fun _ => yields_any fun _ => yields_any fun _ => ?_
  dsimp only
  split
  · split
    · exact State.pendS_memOk ok
    · exact State.pendS_memOk (State.setCtx_memOk (State.mapStoker_memOk (State.keepRecord_memOk ok)))
  · split
    · exact State.pendS_memOk ok
    · exact State.pendS_memOk (State.setCtx_memOk (State.mapTeam_memOk ok))
theorem State.endPop_memOk {a d v} (ok : s.memOk) : (s.endPop a d v).memOk :=
  State.mapCtx_memOk (State.clearTag_memOk ok)
theorem execKvUnbind_memOk {h d} (ok : s.memOk) : Leads State.memOk (execKvUnbind h d s) := by
  unfold execKvUnbind
  refine issue_leads ok fun _ => ?_
  dsimp only
  split
  · exact State.pendS_memOk ok
  · exact State.pendS_memOk (foldl_keeps State.memOk (fun _ _ w => State.endPop_memOk w) (State.freeStoker_memOk ok))
theorem execKvPop_memOk {h d a} (ok : s.memOk) : Leads State.memOk (execKvPop h d a s) := by
  unfold execKvPop
  refine issueRaw_leads ok fun _ => yields_any fun _ => yields_any fun _ => ?_
  dsimp only
  split
  · exact yields_ok (State.parkAgent_memOk ok)
  · split
    · exact yields_bind (State.pendS_memOk (State.mapStoker_memOk ok)) fun _ w => yields_ok (State.advance_memOk w)
    · split
      · exact yields_bind (State.pendS_memOk ok) fun _ w => yields_ok (State.advance_memOk w)
      · exact yields_ok (State.parkAgent_memOk ok)
theorem State.servePop_memOk {a} (ok : s.memOk) : Gives State.memOk (s.servePop a) := by
  unfold State.servePop
  split
  · exact gives_none
  · split
    · split
      · exact gives_none
      · dsimp only
        split
        · exact gives_some (State.endPop_memOk (State.mapStoker_memOk ok))
        · split
          · exact gives_some (State.endPop_memOk ok)
          · exact gives_none
    · exact gives_none
theorem State.wakeEnd_memOk {team n} (ok : s.memOk) : (s.wakeEnd team n).memOk :=
  foldl_keeps State.memOk (fun _ _ w => getD_keeps (gives_findSome fun _ => State.servePop_memOk w) w) ok
theorem execKvAck_memOk {h a} (ok : s.memOk) : Leads State.memOk (execKvAck h a s) := by
  unfold execKvAck
  refine issue_leads ok fun _ => yields_any fun _ => ?_
  dsimp only
  split
  · exact yields_ok ok
  · exact yields_ok (State.mapStoker_memOk ok)
theorem execKvAckFut_memOk {h a b} (ok : s.memOk) : Leads State.memOk (execKvAckFut h a b s) := by
  unfold execKvAckFut
  refine issue_leads ok fun _ => yields_any fun _ => yields_any fun _ => ?_
  dsimp only
  split
  · exact yields_ok ok
  · split
    · exact yields_ok (State.mapStoker_memOk ok)
    · split
      · exact yields_ok (State.mapStoker_memOk ok)
      · exact yields_ok (State.mapStoker_memOk (State.mapQuad_memOk ok))
theorem execKvPush_memOk {h a b} (ok : s.memOk) : Leads State.memOk (execKvPush h a b s) := by
  unfold execKvPush
  exact issue_leads ok fun _ => yields_any fun _ => yields_any fun _ => yields_any fun _ => yields_any fun _ => yields_ok (State.mapStoker_memOk ok)
theorem execKvPushEnd_memOk {h a} (ok : s.memOk) : Leads State.memOk (execKvPushEnd h a s) := by
  unfold execKvPushEnd
  exact issue_leads ok fun _ => yields_any fun _ => yields_any fun _ => yields_any fun _ => yields_ok (State.wakeEnd_memOk (State.mapStoker_memOk ok))
theorem execKvPushStop_memOk {h} (ok : s.memOk) : Leads State.memOk (execKvPushStop h s) := by
  unfold execKvPushStop
  exact issue_leads ok fun _ => yields_any fun _ => yields_any fun _ => yields_ok (State.stopWave_memOk (State.mapStoker_memOk ok))
theorem execKvRpset_memOk {h a imm} (ok : s.memOk) : Leads State.memOk (execKvRpset h a imm s) := by
  unfold execKvRpset
  exact issue_leads ok fun _ => yields_any fun _ => yields_bind (State.readRecord_memOk ok) fun _ w => yields_ok
    (State.mapCtx_memOk (State.markStale_memOk w))

/-! ## Arenas -/

theorem State.copyBack_memOk {k} (ok : s.memOk) : (s.copyBack k).memOk :=
  State.sendCopy_memOk ok
theorem State.pieceBack_memOk {core lo hi at'} (ok : s.memOk) : (s.pieceBack core lo hi at').memOk := by
  unfold State.pieceBack
  split
  · exact State.drainWc_memOk ok
  · exact State.publishLines_memOk ok
theorem State.rangeCopiesBack_memOk {core part lo hi} (ok : s.memOk) : (s.rangeCopiesBack core part lo hi).memOk :=
  foldl_keeps State.memOk (fun _ _ w => State.copyBack_memOk w) ok
theorem State.rangeInvalidate_memOk {core part lo hi} (ok : s.memOk) : (s.rangeInvalidate core part lo hi).memOk :=
  State.rangeCopiesBack_memOk (State.noFill_memOk (State.mapCore_memOk ok))
theorem State.rangeStep_memOk {r} (ok : s.memOk) : (s.rangeStep r).memOk := by
  unfold State.rangeStep
  split
  · exact ok
  · dsimp only
    split
    · split
      · split
        · exact State.resolve0_memOk (foldl_keeps State.memOk (fun _ _ w => State.rangeInvalidate_memOk w) ok)
        · exact foldl_keeps State.memOk (fun _ _ w => State.rangeInvalidate_memOk w) ok
      · split
        · exact State.resolve0_memOk (foldl_keeps State.memOk (fun _ _ w => State.rangeCopiesBack_memOk w) ok)
        · exact foldl_keeps State.memOk (fun _ _ w => State.rangeCopiesBack_memOk w) ok
    · exact State.resolve0_memOk ok
theorem State.rangesGo_memOk (ok : s.memOk) : s.rangesGo.memOk :=
  State.mapsGo_memOk (foldl_keeps State.memOk (fun _ _ w => State.rangeStep_memOk w) ok)
theorem rangeOp_memOk {inval h d a b} (ok : s.memOk) : Leads State.memOk (rangeOp inval h d a b s) := by
  unfold rangeOp
  refine issue_leads ok fun _ => yields_any fun _ => ?_
  dsimp only
  split
  · exact State.instantFut_memOk ok
  · exact yields_any fun _ => yields_any fun _ => yields_bind (State.takeFut_memOk ok) fun _ w => yields_ok
      (State.rangeStep_memOk (foldl_keeps State.memOk (fun _ _ w1 => State.pieceBack_memOk w1) w))
theorem masterFut_memOk {op h d a bad} (ok : s.memOk) : Leads State.memOk (masterFut op h d a s bad) := by
  unfold masterFut
  exact issue_leads ok fun _ => yields_any fun _ => yields_any fun _ => yields_bind (State.takeFut_memOk ok) fun _ w => yields_ok
    (State.mapPart_memOk w)
theorem execCAq_memOk {h sub d a} (ok : s.memOk) : Leads State.memOk (execCAq h sub d a s) := by
  unfold execCAq
  refine issue_leads ok fun _ => ?_
  dsimp only
  split
  · exact yields_ok (State.wrS_memOk ok)
  · exact State.pendS_memOk ok
theorem State.commit_memOk {part aid a} (ok : s.memOk) : (s.commit part aid a).memOk :=
  State.mapPart_memOk ok
theorem State.giveResult_memOk {a id v bno} (ok : s.memOk) : (s.giveResult a id v bno).memOk :=
  State.mapPend_memOk ok
theorem State.doAnew_memOk {part m} (ok : s.memOk) : (s.doAnew part m).memOk := by
  unfold State.doAnew
  dsimp only
  split
  · exact State.giveResult_memOk ok
  · exact State.giveResult_memOk (State.commit_memOk (State.mapPart_memOk ok))
theorem State.doSeal_memOk {part m} (ok : s.memOk) : (s.doSeal part m).memOk := by
  unfold State.doSeal
  dsimp only
  split
  · exact State.resolve0_memOk ok
  · split
    · exact State.resolve0_memOk ok
    · split
      · exact State.mapPart_memOk ok
      · split
        · exact State.resolve0_memOk ok
        · exact State.mapPart_memOk (State.commit_memOk ok)
theorem State.wakeStale_memOk {part aid} (ok : s.memOk) : (s.wakeStale part aid).memOk :=
  foldl_keeps State.memOk (fun _ _ w => State.setStale_memOk (State.wakeWait_memOk w)) ok
theorem State.dropId_memOk {part futs aid} (ok : s.memOk) : (s.dropId part futs aid).memOk := by
  unfold State.dropId
  exact State.wakeStale_memOk
    (State.mapPart_memOk (State.commit_memOk (foldl_keeps State.memOk (fun _ _ w => State.resolve0_memOk w) (State.mapPart_memOk ok))))
theorem State.doDrop_memOk {part m} (ok : s.memOk) : (s.doDrop part m).memOk := by
  unfold State.doDrop
  dsimp only
  split
  · exact State.resolve0_memOk ok
  · split
    · exact State.resolve0_memOk ok
    · exact foldl_keeps State.memOk (fun _ _ w => State.dropId_memOk w) ok
theorem evArenaMasterRequest_memOk {part id} (ok : s.memOk) : Gives State.memOk (evArenaMasterRequest part id s) := by
  unfold evArenaMasterRequest
  dsimp only
  split
  · exact gives_none
  · split
    · exact gives_none
    · refine gives_some ?_
      split
      · exact State.doAnew_memOk (State.mapPart_memOk ok)
      · split
        · exact State.doSeal_memOk (State.mapPart_memOk ok)
        · exact State.doDrop_memOk (State.mapPart_memOk ok)
theorem State.sealsDone_memOk {part} (ok : s.memOk) : (s.sealsDone part).memOk :=
  foldl_keeps State.memOk (fun _ _ w => State.resolve0_memOk w) (State.mapPart_memOk ok)
theorem evArenaBroadcastApply_memOk {core} (ok : s.memOk) : Gives State.memOk (evArenaBroadcastApply core s) := by
  unfold evArenaBroadcastApply
  dsimp only
  split
  · exact gives_none
  · refine gives_some (State.sealsDone_memOk (State.mapPart_memOk ?_))
    split
    · exact ok
    · exact State.mapCore_memOk ok
theorem evDrainWatermark_memOk {part aid} (ok : s.memOk) : Gives State.memOk (evDrainWatermark part aid s) := by
  unfold evDrainWatermark
  split
  · exact gives_none
  · dsimp only
    split
    · split
      · exact gives_none
      · exact gives_some (State.mapPart_memOk (foldl_keeps State.memOk (fun _ _ w => State.publishLines_memOk w) ok))
    · split
      · exact gives_none
      · exact gives_some (foldl_keeps State.memOk (fun _ _ w => State.resolve0_memOk w)
          (foldl_keeps State.memOk (fun _ _ w => State.commit_memOk w) (State.mapPart_memOk ok)))
theorem evSealComplete_memOk {part aid} (ok : s.memOk) : Gives State.memOk (evSealComplete part aid s) := by
  unfold evSealComplete
  split
  · exact gives_none
  · split
    · exact gives_none
    · exact gives_some (State.mapPart_memOk (State.commit_memOk ok))
theorem evAshSweepPass_memOk {part} (ok : s.memOk) : Gives State.memOk (evAshSweepPass part s) := by
  unfold evAshSweepPass
  dsimp only
  split
  · exact gives_none
  · exact gives_some (State.mapPart_memOk (foldl_keeps State.memOk (fun _ _ w => State.mapCore_memOk w) ok))
theorem evZeroFillPageDone_memOk {part page} (ok : s.memOk) : Gives State.memOk (evZeroFillPageDone part page s) := by
  unfold evZeroFillPageDone
  dsimp only
  split
  · exact gives_none
  · split
    · exact gives_none
    · refine gives_some (State.mapPart_memOk ?_)
      refine foldl_keeps (fun m : Memory => m.wf = true) (fun _ _ w => ?_) ok
      split
      · exact w
      · exact maskWrite_wf _ _ _ _ w

/-! ## The change tree -/

theorem evChangeTreeAgentRequest_memOk {part id} (ok : s.memOk) : Gives State.memOk (evChangeTreeAgentRequest part id s) := by
  unfold evChangeTreeAgentRequest
  dsimp only
  split
  · exact gives_none
  · split
    · exact gives_none
    · exact gives_some (State.giveResult_memOk (State.mapPart_memOk ok))
theorem treeOp_memOk {h len op d a rd y} (ok : s.memOk) : Leads State.memOk (treeOp h len op d a rd s y) :=
  issue_leads ok fun _ => yields_any fun _ => yields_ok (State.mapPart_memOk (State.addPend_memOk ok))
theorem execCSettle_memOk {h d a} (ok : s.memOk) : Leads State.memOk (execCSettle h d a s) := by
  unfold execCSettle
  exact issue_leads ok fun _ => yields_any fun _ => yields_bind (State.takeFut_memOk ok) fun _ w => yields_ok (State.mapPart_memOk w)
theorem State.withdrawn_memOk {part} (ok : s.memOk) : (s.withdrawn part).memOk :=
  foldl_keeps State.memOk (fun _ _ w => State.resolve0_memOk w) (State.mapPart_memOk ok)
theorem State.passMarker_memOk {part id} (ok : s.memOk) : (s.passMarker part id).memOk := by
  unfold State.passMarker
  split
  · exact ok
  · split
    · exact State.resolve0_memOk (State.mapPart_memOk ok)
    · exact State.mapPart_memOk ok
theorem evRollUpDeltaApply_memOk {part slice} (ok : s.memOk) : Gives State.memOk (evRollUpDeltaApply part slice s) := by
  unfold evRollUpDeltaApply
  split
  · exact gives_none
  · exact gives_none
  · dsimp only
    split
    · exact gives_some (State.passMarker_memOk (State.mapPart_memOk ok))
    · exact gives_some (State.withdrawn_memOk (State.mapPart_memOk (State.mapPart_memOk ok)))
theorem execCCtenr_memOk {h sub d a b node} (ok : s.memOk) : Leads State.memOk (execCCtenr h sub d a b node s) := by
  unfold execCCtenr
  refine issue_leads ok fun _ => yields_any fun _ => ?_
  dsimp only
  split
  · split
    · exact State.instantFut_memOk ok
    · split
      · exact State.instantFut_memOk ok
      · split
        · exact State.instantFut_memOk ok
        · exact yields_bind (State.takeFut_memOk ok) fun _ w => yields_ok (State.mapPart_memOk w)
  · split
    · exact State.instantFut_memOk ok
    · split
      · exact State.instantFut_memOk ok
      · split
        · exact State.instantFut_memOk ok
        · exact yields_bind (State.takeFut_memOk ok) fun _ w => yields_ok (State.mapPart_memOk w)
theorem execCCtenrWithdraw_memOk {h d a b} (ok : s.memOk) : Leads State.memOk (execCCtenrWithdraw h d a b s) := by
  unfold execCCtenrWithdraw
  refine issue_leads ok fun _ => yields_any fun _ => ?_
  dsimp only
  split
  · exact State.instantFut_memOk ok
  · exact yields_bind (State.takeFut_memOk ok) fun _ w => yields_ok (State.mapPart_memOk w)
theorem evEnrollmentApplied_memOk {part die} (ok : s.memOk) : Gives State.memOk (evEnrollmentApplied part die s) := by
  unfold evEnrollmentApplied
  split
  · exact gives_none
  · dsimp only
    split
    · exact gives_some (State.mapPart_memOk ok)
    · split
      · exact gives_some (State.withdrawn_memOk (State.mapPart_memOk ok))
      · exact gives_some (State.resolve0_memOk (State.mapPart_memOk ok))

end

end Sys2Proof.Machine

/-! SUPPORT. The canonical form of memory through the hearth. -/

namespace Sys2Proof.Machine

section
variable {s : State}

/-! ## Privileged registers, page tables, filters and regions -/

theorem State.writeFaultq_memOk {die v} (ok : s.memOk) : (s.writeFaultq die v).memOk := by
  unfold State.writeFaultq
  dsimp only
  split
  · exact State.flushEpisodes_memOk (State.mapDie_memOk ok)
  · exact ok
theorem State.writeFqcons_memOk {die v} (ok : s.memOk) : (s.writeFqcons die v).memOk :=
  State.flushEpisodes_memOk (State.mapDie_memOk ok)
theorem State.writePr_memOk {a code v} (ok : s.memOk) : (s.writePr a code v).memOk := by
  unfold State.writePr
  dsimp only
  split
  · split
    · exact State.mapPart_memOk ok
    · exact ok
  · split
    · exact State.mapPart_memOk ok
    · exact ok
  · split
    · exact State.mapPart_memOk ok
    · exact ok
  · exact State.writeFaultq_memOk ok
  · exact State.writeFqcons_memOk ok
  · exact State.mapDie_memOk ok
  · split
    · exact State.mapPart_memOk ok
    · exact ok
  · exact State.mapDie_memOk ok
  · split
    · exact State.mapDie_memOk ok
    · exact ok
theorem evPrFaultqWrite_memOk {die v} (ok : s.memOk) : Gives State.memOk (evPrFaultqWrite die v s) := by
  unfold evPrFaultqWrite
  split
  · exact gives_some (State.writeFaultq_memOk ok)
  · exact gives_none
theorem evPrFqconsWrite_memOk {die v} (ok : s.memOk) : Gives State.memOk (evPrFqconsWrite die v s) := by
  unfold evPrFqconsWrite
  split
  · exact gives_some (State.writeFqcons_memOk ok)
  · exact gives_none
theorem State.endEpisodes_memOk {es code} (ok : s.memOk) : (s.endEpisodes es code).memOk := by
  unfold State.endEpisodes
  dsimp only
  split
  · exact ok
  · exact foldl_keeps State.memOk (fun _ _ w => State.failReq_memOk w) ok
theorem State.mapFut_memOk {is d part let_} (ok : s.memOk) : Yields State.memOk (s.mapFut is d part let_) := by
  unfold State.mapFut
  split
  · exact State.instantFut_memOk ok
  · exact yields_bind (State.takeFut_memOk ok) fun _ w => yields_ok (State.mapPart_memOk w)
theorem execYMap_memOk {h d a b size w als} (ok : s.memOk) : Leads State.memOk (execYMap h d a b size w als s) := by
  refine issue_leads ok fun _ => yields_any fun _ => yields_any fun _ => ?_
  refine yields_ite (State.instantFut_memOk ok) (yields_any fun _ => yields_ite (State.instantFut_memOk ok) ?_)
  refine State.mapFut_memOk (State.endEpisodes_memOk ?_)
  exact foldl_keeps (fun m : Memory => m.wf = true) (fun _ _ w1 => Memory.wf_write _ _ _ w1) ok
theorem State.sendInval_memOk {is d lo len} (ok : s.memOk) : Yields State.memOk (s.sendInval is d lo len) :=
  yields_bind (State.takeFut_memOk ok) fun _ w => yields_ok (State.mapPart_memOk w)
theorem execYUnmap_memOk {h d a size} (ok : s.memOk) : Leads State.memOk (execYUnmap h d a size s) := by
  refine issue_leads ok fun _ => yields_any fun _ => yields_any fun _ => ?_
  dsimp only
  split
  · split
    · exact State.instantFut_memOk ok
    · exact State.sendInval_memOk (Memory.wf_write _ _ _ ok)
  · split
    · exact State.instantFut_memOk ok
    · refine yields_any fun _ => State.sendInval_memOk ?_
      exact foldl_keeps (fun m : Memory => m.wf = true) (fun _ _ w1 => Memory.wf_write _ _ _ w1) ok
theorem evTranslationCacheInvalidation_memOk {part id} (ok : s.memOk) : Gives State.memOk (evTranslationCacheInvalidation part id s) := by
  unfold evTranslationCacheInvalidation
  split
  · exact gives_none
  · dsimp only
    split
    · exact gives_none
    · exact gives_some (State.resolve0_memOk (State.mapPart_memOk ok))
theorem State.sendFilter_memOk {is d idx entry} (ok : s.memOk) : Yields State.memOk (s.sendFilter is d idx entry) :=
  yields_bind (State.takeFut_memOk ok) fun _ w => yields_ok (State.mapPart_memOk w)
theorem execYMapFilter_memOk {h d a b x0 idx} (ok : s.memOk) : Leads State.memOk (execYMapFilter h d a b x0 idx s) := by
  unfold execYMapFilter
  refine issue_leads ok fun _ => yields_any fun _ => yields_any fun _ => ?_
  dsimp only
  split
  · exact State.instantFut_memOk ok
  · exact State.sendFilter_memOk ok
theorem execYUnmapFilter_memOk {h d idx} (ok : s.memOk) : Leads State.memOk (execYUnmapFilter h d idx s) := by
  unfold execYUnmapFilter
  refine issue_leads ok fun _ => ?_
  split
  · exact State.instantFut_memOk ok
  · exact State.sendFilter_memOk ok
theorem evRemapFilterApply_memOk {core} (ok : s.memOk) : Gives State.memOk (evRemapFilterApply core s) := by
  unfold evRemapFilterApply
  dsimp only
  split
  · exact gives_none
  · split
    · split
      · exact gives_some (State.drainWc_memOk ok)
      · split
        · exact gives_none
        · split
          · exact gives_some (State.resolve0_memOk (State.mapPart_memOk (State.mapCore_memOk ok)))
          · exact gives_some (State.mapPart_memOk (State.mapCore_memOk ok))
    · split
      · exact gives_some (State.drainWc_memOk ok)
      · split
        · exact gives_some (State.resolve0_memOk (State.mapPart_memOk (State.mapCore_memOk ok)))
        · exact gives_some (State.mapPart_memOk (State.mapCore_memOk ok))
theorem execYRegn_memOk {h d a b} (ok : s.memOk) : Leads State.memOk (execYRegn h d a b s) := by
  unfold execYRegn
  refine issue_leads ok fun _ => yields_any fun _ => yields_bind (State.readRecord_memOk ok) fun _ w => ?_
  dsimp only
  split
  · exact State.instantFut_memOk (State.markStale_memOk w)
  · exact yields_bind (State.takeFut_memOk (State.markStale_memOk w)) fun _ w1 => yields_ok (State.mapPart_memOk w1)
theorem evRegionDrainSignal_memOk {part idx} (ok : s.memOk) : Gives State.memOk (evRegionDrainSignal part idx s) := by
  unfold evRegionDrainSignal
  split
  · exact gives_none
  · split
    · exact gives_none
    · dsimp only
      split
      · exact gives_none
      · exact gives_some (State.resolve0_memOk (State.mapPart_memOk (foldl_keeps State.memOk (fun _ _ w1 => State.llcEvict_memOk _ _ w1) ok)))

/-! ## The hearth's hands on agents -/

theorem execYWinRead_memOk {h d imm} (ok : s.memOk) : Leads State.memOk (execYWinRead h d imm s) := by
  unfold execYWinRead
  refine issue_leads ok fun _ => yields_any fun _ => ?_
  dsimp only
  split
  · exact yields_error
  · exact State.pendS_memOk ok
theorem execYWinWrite_memOk {h b imm} (ok : s.memOk) : Leads State.memOk (execYWinWrite h b imm s) := by
  unfold execYWinWrite
  refine issue_leads ok fun _ => yields_any fun _ => ?_
  dsimp only
  split
  · exact yields_error
  · refine yields_ok ?_
    split
    · exact State.clearTag_memOk (State.setCtx_memOk ok)
    · exact State.setCtx_memOk ok
theorem State.breakStop_memOk {t c addr silent} (ok : s.memOk) : (s.breakStop t c addr silent).memOk :=
  State.stopWave_memOk ok
theorem execYWinStop_memOk {h} (ok : s.memOk) : Leads State.memOk (execYWinStop h s) := by
  unfold execYWinStop
  refine issue_leads ok fun _ => ?_
  split
  · exact yields_error
  · refine yields_ok ?_
    split
    · exact ok
    · exact State.breakStop_memOk ok
theorem State.resume_memOk {t c single} (ok : s.memOk) : (s.resume t c single).memOk := by
  unfold State.resume
  split
  · exact ok
  · dsimp only
    split
    · split
      · exact State.putRecs_memOk (State.setCtx_memOk (State.keepRecord_memOk ok))
      · exact State.stopWave_memOk (State.putRecs_memOk (State.setCtx_memOk (State.keepRecord_memOk ok)))
    · split
      · exact State.setCtx_memOk (State.keepRecord_memOk ok)
      · exact State.stopWave_memOk (State.setCtx_memOk (State.keepRecord_memOk ok))
theorem State.killThreads_memOk {t c ls code} (ok : s.memOk) : (s.killThreads t c ls code).memOk :=
  State.mapTeam_memOk (State.endThreads_memOk ok)
theorem State.haltStoker_memOk {t} (ok : s.memOk) : (s.haltStoker t).memOk :=
  State.mapStoker_memOk ok
theorem execYEretKillThreads_memOk {h b} (ok : s.memOk) : Leads State.memOk (execYEretKillThreads h b s) := by
  unfold execYEretKillThreads
  refine issue_leads ok fun _ => yields_any fun _ => yields_ok ?_
  split
  · exact State.haltStoker_memOk ok
  · exact State.killThreads_memOk ok
theorem execYEretKillTeam_memOk {h} (ok : s.memOk) : Leads State.memOk (execYEretKillTeam h s) := by
  unfold execYEretKillTeam
  refine issue_leads ok fun _ => yields_any fun _ => ?_
  refine yields_ok (foldl_keeps State.memOk (fun _ _ w => State.killThreads_memOk w) (State.mapTeam_memOk ?_))
  split
  · exact State.haltStoker_memOk ok
  · exact ok
theorem State.idleWake_memOk {a} (ok : s.memOk) : Gives State.memOk (s.idleWake a) := by
  unfold State.idleWake
  split
  · exact gives_none
  · split
    · dsimp only
      split
      · exact gives_none
      · exact gives_some (State.mapCtx_memOk (State.clearTag_memOk (State.mapDie_memOk ok)))
    · exact gives_none
theorem evIdleTimeLimit_memOk {die} (ok : s.memOk) : Gives State.memOk (evIdleTimeLimit die s) := by
  unfold evIdleTimeLimit
  dsimp only
  split
  · split
    · exact State.idleWake_memOk ok
    · exact gives_none
  · exact gives_none

/-! ## Saving and restoring teams -/

theorem State.rename_memOk {m} (ok : s.memOk) : (s.rename m).memOk :=
  ok
theorem State.renFuts_memOk {m} (ok : s.memOk) : (s.renFuts m).memOk := by
  unfold State.renFuts
  exact foldl_keeps State.memOk (fun _ _ w => State.mapQuad_memOk w) (foldl_keeps State.memOk (fun _ _ w => State.mapQuad_memOk w) ok)
theorem State.stopForSave_memOk {die a} (ok : s.memOk) : (s.stopForSave die a).memOk := by
  unfold State.stopForSave
  split
  · exact ok
  · exact State.setCtx_memOk (State.mapTeam_memOk ok)
theorem State.takeOff_memOk {id keys} (ok : s.memOk) : (s.takeOff id keys).memOk := by
  unfold State.takeOff
  exact foldl_keeps State.memOk (fun _ _ w => State.mapTeam_memOk (State.rename_memOk w))
    (State.renFuts_memOk (foldl_keeps State.memOk (fun _ _ w => State.leaveRecord_memOk w) ok))
theorem State.beginSave_memOk {is d keys members gen va restore} (ok : s.memOk) : Yields State.memOk (s.beginSave is d keys members gen va restore) :=
  yields_bind (State.takeFut_memOk ok) fun _ w => yields_ok w
theorem execYCtxs_memOk {h sub d a imm} (ok : s.memOk) : Leads State.memOk (execYCtxs h sub d a imm s) := by
  unfold execYCtxs
  refine issue_leads ok fun _ => yields_any fun _ => ?_
  dsimp only
  split
  · exact yields_error
  · refine yields_any fun _ => ?_
    split
    · exact State.instantFut_memOk ok
    · split
      · split
        · exact State.instantFut_memOk ok
        · exact yields_bind (State.beginSave_memOk ok) fun _ w => yields_ok (foldl_keeps State.memOk (fun _ _ w1 => State.stopForSave_memOk w1) w)
      · split
        · exact State.instantFut_memOk ok
        · exact yields_bind (State.beginSave_memOk ok) fun _ w => yields_ok (foldl_keeps State.memOk (fun _ _ w1 => State.stopForSave_memOk w1) w)
theorem State.unmark_memOk {stopped a} (ok : s.memOk) : (s.unmark stopped a).memOk := by
  unfold State.unmark
  split
  · exact ok
  · split
    · dsimp only
      split
      · exact State.breakStop_memOk (State.setCtx_memOk ok)
      · exact State.setCtx_memOk ok
    · exact ok
theorem State.bringBack_memOk {a part} (ok : s.memOk) : Gives State.memOk (s.bringBack a part) := by
  unfold State.bringBack
  refine gives_bind_any fun _ => gives_bind_any fun _ => gives_bind_any fun _ => ?_
  dsimp only
  split
  · next h => exact (State.own_owns ok (State.loadBlocks_memOk ok)).wait _ h
  · next h => exact gives_some (State.killSwitched_memOk ((State.own_owns ok (State.loadBlocks_memOk ok)).fail _ _ h))
  · split
    · next h =>
        split
        · exact gives_some (State.killSwitched_memOk ((State.own_owns ok (State.loadBlocks_memOk ok)).got _ h))
        · exact gives_some (State.mapCtx_memOk ((State.own_owns ok (State.loadBlocks_memOk ok)).got _ h))
    · next h =>
        split
        · exact gives_some (State.killSwitched_memOk ((State.own_owns ok (State.loadBlocks_memOk ok)).got _ h))
        · exact gives_some (State.mapCtx_memOk ((State.own_owns ok (State.loadBlocks_memOk ok)).got _ h))
theorem State.flushCore_memOk {core} (ok : s.memOk) : (s.flushCore core).1.memOk := by
  unfold State.flushCore
  exact foldl_keeps State.memOk (fun _ _ w => State.llcEvict_memOk _ _ w) (State.drainWc_memOk (State.publishLines_memOk ok))
theorem State.freshCore_memOk {core} (ok : s.memOk) : (s.freshCore core).memOk := by
  unfold State.freshCore
  exact foldl_keeps State.memOk (fun _ _ w => State.llcEvict_memOk _ _ w) (State.noFill_memOk (State.mapCore_memOk ok))
theorem State.setDeps_memOk {id l} (ok : s.memOk) : (s.setDeps id l).memOk :=
  ok
theorem State.goSave_memOk {v} (ok : s.memOk) : Gives State.memOk (s.goSave v) := by
  unfold State.goSave
  dsimp only
  split
  · exact gives_some (State.setDeps_memOk (foldl_keeps State.memOk (fun _ _ w => State.stopForSave_memOk w) ok))
  · split
    · exact State.bringBack_memOk ok
    · split
      · exact gives_none
      · split
        · exact gives_some (State.setDeps_memOk (foldl_keeps (fun x : State × List Nat => x.1.memOk) (fun _ _ w => State.flushCore_memOk w) ok))
        · split
          · exact gives_none
          · split
            · exact gives_some (State.resolve0_memOk ok)
            · split
              · next h => exact (State.own_owns ok fun _ h => State.writeRange_memOk h ok).wait _ h
              · next h =>
                  have failed := (State.own_owns ok fun _ h => State.writeRange_memOk h ok).fail _ _ h
                  exact gives_some (State.resolve0_memOk (foldl_keeps State.memOk (fun _ _ w => State.unmark_memOk w) failed))
              · next h =>
                  have written := (State.own_owns ok fun _ h => State.writeRange_memOk h ok).got _ h
                  exact gives_some (State.mapsGo_memOk (State.resolve0_memOk (State.takeOff_memOk written)))
theorem State.putBack_memOk {v key core stopped} (ok : s.memOk) : (s.putBack v key core stopped).memOk := by
  unfold State.putBack
  split
  · exact ok
  · refine foldl_keeps State.memOk (fun _ _ w => State.unmark_memOk w) (State.mapCore_memOk ?_)
    refine State.memOk_of_mem (s := State.renFuts _ _) rfl ?_
    refine State.renFuts_memOk (State.mapQuad_memOk (State.mapTeam_memOk (State.rename_memOk ?_)))
    exact State.freshCore_memOk (core := core) ok
theorem State.restore_memOk {v places stopped} (ok : s.memOk) : (s.restore v places stopped).memOk :=
  foldl_keeps State.memOk (fun _ _ w => State.putBack_memOk w) ok
theorem State.revive_memOk {v n} (ok : s.memOk) : (s.revive v n).1.memOk := by
  unfold State.revive
  refine foldl_keeps State.memOk (fun _ _ w => ?_)
    (foldl_keeps State.memOk (fun _ _ w => w)
      (foldl_keeps State.memOk (fun _ _ w => State.setCtx_memOk w) (foldl_keeps State.memOk (fun _ _ w => w) ok)))
  refine foldl_keeps State.memOk (fun _ _ w1 => ?_) w
  dsimp only
  split
  · exact w1
  · exact State.mapQuad_memOk w1
theorem State.readRange_yields {core gen va n} (ok : s.memOk) : Yields (fun x => x.2.2.memOk) (s.readRange core gen va n) :=
  fun _ h => State.readRange_memOk h ok
theorem State.goRestore_memOk {v core stopped} (ok : s.memOk) : Gives State.memOk (s.goRestore v core stopped) := by
  unfold State.goRestore
  dsimp only
  split
  · next h => exact (State.own_owns ok (State.readRange_yields ok)).wait _ h
  · next h =>
      have failed := (State.own_owns ok (State.readRange_yields ok)).fail _ _ h
      exact gives_some (State.resolve0_memOk failed)
  · next h =>
      have loaded := (State.own_owns ok (State.readRange_yields ok)).got _ h
      split
      · exact gives_some (State.resolve0_memOk loaded)
      · split
        · split
          · exact gives_some (State.resolve0_memOk loaded)
          · split
            · split
              · exact gives_some (State.resolve0_memOk (State.restore_memOk (State.revive_memOk loaded)))
              · exact gives_some (State.resolve0_memOk loaded)
            · split
              · exact gives_some (State.resolve0_memOk (State.restore_memOk loaded))
              · exact gives_some (State.resolve0_memOk loaded)
        · exact gives_some (State.resolve0_memOk loaded)
theorem execYCtxl_memOk {h sub d a imm} (ok : s.memOk) : Leads State.memOk (execYCtxl h sub d a imm s) := by
  unfold execYCtxl
  refine issue_leads ok fun _ => yields_any fun _ => yields_any fun _ => ?_
  split
  · exact State.instantFut_memOk ok
  · split
    · exact State.instantFut_memOk ok
    · exact State.beginSave_memOk ok
theorem State.goOn_memOk {id} (ok : s.memOk) : Gives State.memOk (s.goOn id) := by
  unfold State.goOn
  refine gives_bind_any fun _ => ?_
  split
  · exact State.goSave_memOk ok
  · exact State.goRestore_memOk ok

end

end Sys2Proof.Machine

/-! SUPPORT. The canonical form of memory through the memory system, the host and the step. -/

namespace Sys2Proof.Machine

section
variable {s : State}

/-! ## Results and fault records -/

theorem State.trapOf_memOk {a fpen p} (ok : s.memOk) : (s.trapOf a fpen p).memOk := by
  unfold State.trapOf
  split
  · exact ok
  · dsimp only
    split
    · exact ok
    · exact State.userTrap_memOk ok
theorem State.putTile_memOk {team p} (ok : s.memOk) : (s.putTile team p).memOk := by
  unfold State.putTile
  split
  · exact State.mapTeam_memOk ok
  · exact ok
theorem State.returnGone_memOk {a c p} (ok : s.memOk) : Gives State.memOk (s.returnGone a c p) := by
  unfold State.returnGone
  split
  · exact gives_none
  · refine gives_some ?_
    split
    · split
      · exact ok
      · exact State.putTile_memOk ok
    · refine State.setCtx_memOk ?_
      split
      · exact ok
      · exact State.putTile_memOk ok
theorem evResultReturn_memOk {a id} (ok : s.memOk) : Gives State.memOk (evResultReturn a id s) := by
  unfold evResultReturn
  split
  · exact gives_none
  · split
    · exact gives_none
    · split
      · exact State.returnGone_memOk ok
      · split
        · exact gives_none
        · refine gives_some (State.trapOf_memOk ?_)
          split
          · exact State.acquire_memOk (State.putTile_memOk (State.setCtx_memOk ok))
          · exact State.putTile_memOk (State.setCtx_memOk ok)
theorem evFaultRecordPost_memOk {a} (ok : s.memOk) : Gives State.memOk (evFaultRecordPost a s) := by
  unfold evFaultRecordPost
  split
  · exact gives_none
  · split
    · exact gives_none
    · split
      · exact gives_none
      · exact gives_map_any fun _ => State.setCtx_memOk (State.mapDie_memOk ok)
theorem evBreakpointHit_memOk {a i} (ok : s.memOk) : Gives State.memOk (evBreakpointHit a i s) := by
  unfold evBreakpointHit
  split
  · split
    · exact gives_none
    · split
      · exact gives_none
      · exact gives_some (State.stopWave_memOk (State.mapCtx_memOk ok))
  · exact gives_none

/-! ## Walks and home slices -/

theorem State.trouble_memOk {die r code} (ok : s.memOk) : Gives State.memOk (s.trouble die r code) := by
  unfold State.trouble
  split
  · exact gives_some (State.dropReq_memOk ok)
  · split
    · exact gives_some (State.failReq_memOk ok)
    · split
      · exact gives_none
      · exact gives_some (State.beginEpisode_memOk (State.holdReq_memOk ok))
theorem State.fetchWalk_memOk {r} (ok : s.memOk) : Gives State.memOk (s.fetchWalk r) := by
  unfold State.fetchWalk
  split
  · exact gives_some (State.dropReq_memOk ok)
  · exact State.trouble_memOk ok
theorem evTranslationWalk_memOk {req} (ok : s.memOk) : Gives State.memOk (evTranslationWalk req s) := by
  unfold evTranslationWalk
  split
  · exact gives_none
  · split
    · exact gives_none
    · split
      · exact gives_map (State.fetchWalk_memOk ok) fun _ w => State.mapsGo_memOk w
      · dsimp only
        split
        · exact gives_none
        · split
          · exact gives_none
          · split
            · exact gives_map (State.trouble_memOk ok) fun _ w => State.mapsGo_memOk w
            · exact gives_some (State.mapsGo_memOk (State.tlbFill_memOk ok))
            · exact gives_map (State.trouble_memOk ok) fun _ w => State.mapsGo_memOk w
theorem State.staleOp_memOk {r} (ok : s.memOk) : (s.staleOp r).memOk := by
  unfold State.staleOp
  split
  · exact State.complete_memOk (State.setStale_memOk ok)
  · exact State.complete_memOk (State.setStale_memOk ok)
  · exact State.complete_memOk ok
  · exact State.complete_memOk ok
  · exact State.dropReq_memOk (State.setStale_memOk ok)
  · exact State.complete_memOk (State.setStale_memOk ok)
  · split
    · exact State.setStale_memOk (State.wakeWait_memOk (State.dropReq_memOk ok))
    · exact State.dropReq_memOk ok
  · split
    · exact State.setStale_memOk (State.wakeWait_memOk (State.dropReq_memOk ok))
    · exact State.dropReq_memOk ok
  · split
    · exact State.setStale_memOk (State.wakeWait_memOk (State.dropReq_memOk ok))
    · exact State.dropReq_memOk ok
  · exact State.failReq_memOk ok
  · exact State.failReq_memOk ok
  · exact State.failReq_memOk ok
  · exact State.failReq_memOk ok
  · exact State.failReq_memOk ok
  · exact State.dropReq_memOk ok
theorem State.putAt_memOk {r unit linePa l} (ok : s.memOk) : (s.putAt r unit linePa l).memOk :=
  State.homeWrite_memOk _ _ _ _ _ _ _ _ _ ok
theorem State.waitOp_memOk {r l} (ok : s.memOk) : (s.waitOp r l).memOk := by
  unfold State.waitOp
  dsimp only
  split
  · exact State.wakeWait_memOk (State.l1Renew_memOk (State.dropReq_memOk ok))
  · exact State.dropReq_memOk ok
theorem State.slotOp_memOk {r unit linePa d} (ok : s.memOk) : (s.slotOp r unit linePa d).memOk := by
  unfold State.slotOp
  dsimp only
  split
  · split
    · exact State.complete_memOk (State.putAt_memOk ok)
    · exact State.dropReq_memOk (State.putAt_memOk ok)
  · refine State.complete_memOk ?_
    split
    · exact State.putAt_memOk ok
    · exact ok
  · split
    · exact State.failReq_memOk ok
    · exact State.complete_memOk (State.putAt_memOk ok)
  · split
    · exact State.failReq_memOk ok
    · split
      · exact State.dropReq_memOk ok
      · exact State.dropReq_memOk (State.putAt_memOk ok)
  · split
    · exact State.dropReq_memOk ok
    · split
      · exact State.failReq_memOk ok
      · exact State.waitOp_memOk ok
  · split
    · exact State.waitOp_memOk ok
    · exact State.dropReq_memOk ok
  · split
    · exact State.waitOp_memOk ok
    · exact State.dropReq_memOk ok
  · exact State.dropReq_memOk ok
theorem State.lineBack_memOk {r known d psn ecc} (ok : s.memOk) : (s.lineBack r known d psn ecc).memOk := by
  unfold State.lineBack
  split
  · exact State.failReq_memOk ok
  · split
    · exact ok
    · split
      · exact State.dropReq_memOk ok
      · exact State.complete_memOk ok
theorem State.missLine_memOk {r die pa shared} (ok : s.memOk) : (s.missLine r die pa shared).2.2.memOk := by
  unfold State.missLine
  split
  · exact ok
  · exact State.missRead_memOk _ _ _ _ _ _ _ ok
theorem State.homeOp_memOk {r unit pa} (ok : s.memOk) : (s.homeOp r unit pa).memOk := by
  have renewed {core line} : (if (s.answered r).isSome then s else s.l1Renew core line).memOk := by
    split
    · exact ok
    · exact State.l1Renew_memOk ok
  unfold State.homeOp
  dsimp only
  split
  · exact foldl_keeps State.memOk (fun _ _ w => State.lineBack_memOk w) (State.missLine_memOk renewed)
  · refine State.lineBack_memOk ?_
    split
    · exact State.missRead_memOk s (dieOfCore r.core) r.part (lineNo r.va) r.gen (pa - r.va % 128) false ok
    · exact State.missLine_memOk ok
  · refine State.lineBack_memOk ?_
    split
    · exact State.homeTouch_memOk _ _ _ _ _ _ (State.l1Renew_memOk ok)
    · exact ok
  · refine State.dropReq_memOk ?_
    split
    · exact State.homePoison_memOk (State.homeWrite_memOk _ _ _ _ _ _ _ _ _ ok)
    · exact State.homeWrite_memOk _ _ _ _ _ _ _ _ _ ok
  · split
    · exact State.failReq_memOk (State.homeTouch_memOk _ _ _ _ _ _ ok)
    · exact State.slotOp_memOk (State.homeTouch_memOk _ _ _ _ _ _ ok)
theorem State.linkFor_memOk {r unit} (ok : s.memOk) : Gives State.memOk (s.linkFor r unit) := by
  unfold State.linkFor
  split
  · exact gives_some ok
  · exact fun _ h => State.overLink_memOk h ok
theorem evHomeSliceOperation_memOk {req} (ok : s.memOk) : Gives State.memOk (evHomeSliceOperation req s) := by
  unfold evHomeSliceOperation
  split
  · exact gives_none
  · split
    · exact gives_none
    · split
      · exact gives_some (State.rangesGo_memOk (State.staleOp_memOk ok))
      · split
        · exact gives_some (State.rangesGo_memOk (State.dropReq_memOk (State.copyMerge_memOk ok)))
        · split
          · exact gives_none
          · dsimp only
            split
            · refine gives_bind (State.linkFor_memOk ok) fun _ w => gives_bind (State.kvHome_memOk w) fun _ w1 => ?_
              split
              · exact gives_some (State.rangesGo_memOk w1)
              · exact gives_none
            · refine gives_bind (State.linkFor_memOk ok) fun _ w => gives_bind (State.kvHome_memOk w) fun _ w1 => ?_
              split
              · exact gives_some (State.rangesGo_memOk w1)
              · exact gives_none
            · refine gives_bind (State.linkFor_memOk ok) fun _ w => gives_bind (State.kvHome_memOk w) fun _ w1 => ?_
              split
              · exact gives_some (State.rangesGo_memOk w1)
              · exact gives_none
            · refine gives_bind (State.linkFor_memOk ok) fun _ w => gives_bind (State.kvHome_memOk w) fun _ w1 => ?_
              split
              · exact gives_some (State.rangesGo_memOk w1)
              · exact gives_none
            · refine gives_bind (State.linkFor_memOk ok) fun _ w => gives_bind (State.kvHome_memOk w) fun _ w1 => ?_
              split
              · exact gives_some (State.rangesGo_memOk w1)
              · exact gives_none
            · split
              · exact gives_map (State.trouble_memOk ok) fun _ w => State.rangesGo_memOk w
              · split
                · exact gives_none
                · exact gives_map (State.trouble_memOk ok) fun _ w => State.rangesGo_memOk w
                · exact gives_map (State.linkFor_memOk ok) fun _ w => State.rangesGo_memOk (State.homeOp_memOk w)
theorem execHomeSliceOperation_memOk {req} (ok : s.memOk) : Leads State.memOk (execHomeSliceOperation req s) := by
  unfold execHomeSliceOperation
  split
  · exact fault_leads
  · exact event_leads ok (evHomeSliceOperation_memOk ok)
theorem evTicketWaiterRetry_memOk {a} (ok : s.memOk) : Gives State.memOk (evTicketWaiterRetry a s) := by
  unfold evTicketWaiterRetry
  split
  · exact gives_none
  · exact gives_bind (fun _ h => State.reach_memOk h ok) fun _ w1 => State.tryWaiter_memOk w1

/-! ## Fills, evictions, fetches and errors -/

theorem evL1Fill_memOk {req} (ok : s.memOk) : Gives State.memOk (evL1Fill req s) := by
  unfold evL1Fill
  split
  · exact gives_none
  · split
    · exact gives_none
    · dsimp only
      split
      · refine gives_some (State.complete_memOk ?_)
        split
        · exact State.l1FillLine_memOk ok
        · exact ok
      · refine gives_some (State.dropReq_memOk ?_)
        split
        · exact State.l1FillLine_memOk ok
        · exact ok
theorem evL1Eviction_memOk {core line} (ok : s.memOk) : Gives State.memOk (evL1Eviction core line s) :=
  gives_map_any fun _ => State.l1Evict_memOk ok
theorem evSliceEviction_memOk {die line} (ok : s.memOk) : Gives State.memOk (evSliceEviction die line s) := by
  unfold evSliceEviction
  split
  · exact gives_none
  · dsimp only
    split
    · exact gives_none
    · exact gives_some (State.llcEvict_memOk _ _ ok)
theorem evBarrierHalfComplete_memOk {team off} (ok : s.memOk) : Gives State.memOk (evBarrierHalfComplete team off s) := by
  unfold evBarrierHalfComplete
  split
  · exact gives_none
  · exact gives_some (State.flipTest_memOk (State.mapTeam_memOk ok))
theorem State.fetchLink_memOk {a pc} (ok : s.memOk) : Gives State.memOk (s.fetchLink a pc) := by
  unfold State.fetchLink
  split
  · split
    · exact gives_some ok
    · exact fun _ h => State.reach_memOk h ok
  · exact gives_some ok
theorem State.logCorrected_memOk {die x} (ok : s.memOk) : (s.logCorrected die x).memOk :=
  State.postError_memOk (State.mapDie_memOk ok)
theorem evEccCorrected_memOk {die site} (ok : s.memOk) : Gives State.memOk (evEccCorrected die site s) := by
  unfold evEccCorrected
  dsimp only
  split
  · exact gives_some (State.logCorrected_memOk ok)
  · exact gives_none
theorem evBankMarkFailed_memOk {die site} (ok : s.memOk) : Gives State.memOk (evBankMarkFailed die site s) := by
  unfold evBankMarkFailed
  dsimp only
  split
  · exact gives_none
  · exact gives_some (State.mapDie_memOk ok)
theorem evEccUncorrectable_memOk {die site target} (ok : s.memOk) : Gives State.memOk (evEccUncorrectable die site target s) := by
  unfold evEccUncorrectable
  split
  · exact gives_none
  · split
    · split
      · exact gives_none
      · exact gives_some (State.logCorrected_memOk (State.mapCore_memOk ok))
    · split
      · exact gives_none
      · exact gives_some (State.mapCore_memOk ok)
    · split
      · exact gives_none
      · exact gives_some (State.logCorrected_memOk (State.llcDel_memOk ok))
    · split
      · exact gives_none
      · exact gives_some ok
    · split
      · exact gives_none
      · exact gives_some ok
    · split
      · exact gives_none
      · exact gives_some (State.mapPend_memOk ok)
    · split
      · exact gives_none
      · split
        · exact gives_none
        · split
          · exact gives_some (State.stopWave_memOk (State.setCtx_memOk ok))
          · exact gives_none
    · split
      · exact gives_none
      · refine gives_some (State.mapTask_memOk ?_)
        split
        · exact State.mapPend_memOk ok
        · exact ok
    · split
      · exact gives_none
      · exact gives_some (State.mapCopy_memOk ok)

/-! ## Partitions, starts, heat and power -/

theorem State.discardPart_memOk {p} (ok : s.memOk) : (s.discardPart p).memOk := Memory.wf_filter _ _ ok
theorem State.syncBoot_memOk (ok : s.memOk) : s.syncBoot.memOk :=
  ok
theorem State.install_memOk {p live} (ok : s.memOk) : (s.install p live).memOk :=
  foldl_keeps (fun m : Memory => m.wf = true) (fun _ _ w => Memory.wf_set _ _ _ w) ok
theorem State.halted_memOk {boot} (ok : s.memOk) : (s.halted boot).memOk := Memory.wf_filter _ _ ok
theorem State.failStart_memOk {live die reason stage} (ok : s.memOk) : (s.failStart live die reason stage).memOk :=
  Memory.wf_filter s.mem _ ok
theorem State.restartAll_memOk (ok : s.memOk) : s.restartAll.memOk :=
  State.halted_memOk ok
theorem evModuleStart_memOk {t} (ok : s.memOk) : Gives State.memOk (evModuleStart t s) := by
  unfold evModuleStart
  split
  · exact gives_none
  · split
    · exact gives_some (Memory.wf_filter s.mem _ ok)
    · dsimp only
      split
      · exact gives_some (State.failStart_memOk ok)
      · split
        · exact gives_some (State.failStart_memOk ok)
        · exact gives_some (State.syncBoot_memOk (foldl_keeps State.memOk (fun _ _ w => State.install_memOk w) (Memory.wf_filter s.mem _ ok)))
theorem State.endStart_memOk {t stage reason die} (ok : s.memOk) : Gives State.memOk (s.endStart t stage reason die) := by
  unfold State.endStart
  split
  · exact gives_none
  · exact gives_some (State.failStart_memOk ok)
theorem evWatchdogExpiry_memOk (ok : s.memOk) : Gives State.memOk (evWatchdogExpiry s) :=
  State.endStart_memOk ok
theorem evBringupOvertemp_memOk {die} (ok : s.memOk) : Gives State.memOk (evBringupOvertemp die s) :=
  State.endStart_memOk ok
theorem evRestartModule_memOk {warm} (ok : s.memOk) : Gives State.memOk (evRestartModule warm s) :=
  gives_some (State.restartAll_memOk ok)
theorem State.beginRestart_memOk {p} (ok : s.memOk) : Gives State.memOk (s.beginRestart p) := by
  unfold State.beginRestart
  split
  · exact gives_none
  · exact gives_some (State.syncBoot_memOk (State.discardPart_memOk ok))
theorem State.restartPart_memOk {p t} (ok : s.memOk) : Gives State.memOk (s.restartPart p t) := by
  unfold State.restartPart
  refine gives_map (State.beginRestart_memOk ok) fun _ w => State.syncBoot_memOk ?_
  split
  · exact State.install_memOk w
  · exact State.mapPart_memOk w
theorem evRestartPartition_memOk {x} (ok : s.memOk) : Gives State.memOk (evRestartPartition x s) := by
  unfold evRestartPartition
  split
  · exact State.restartPart_memOk ok
  · exact gives_none
theorem evThermalThrottle_memOk {die} (ok : s.memOk) : Gives State.memOk (evThermalThrottle die s) := by
  unfold evThermalThrottle
  split
  · exact gives_some (State.mapDie_memOk ok)
  · exact gives_none
theorem State.powerDown_memOk (ok : s.memOk) : s.powerDown.memOk :=
  Memory.wf_filter s.mem _ ok
theorem evThermalPowerOff_memOk {die} (ok : s.memOk) : Gives State.memOk (evThermalPowerOff die s) := by
  unfold evThermalPowerOff
  split
  · exact gives_some (State.powerDown_memOk ok)
  · exact gives_none
theorem evPowerLoss_memOk (ok : s.memOk) : Gives State.memOk (evPowerLoss s) :=
  gives_some (State.powerDown_memOk ok)

/-! ## The host link and the ports -/

theorem State.hostRefused_memOk {off} (ok : s.memOk) : (s.hostRefused off).memOk :=
  State.postError_memOk ok
theorem State.outsideRead_memOk {p va n} (ok : s.memOk) : Performs (fun x => x.2.memOk) (s.outsideRead p va n) := by
  unfold State.outsideRead
  split
  · split
    · exact performs_refused
    · next h => exact performs_done (gives_foldlM (fun _ _ w _ h => State.reach_memOk h w) ok _ h)
    · exact performs_wait
  · exact performs_refused
theorem State.hostRead_memOk {off n} (ok : s.memOk) : Performs (fun x => x.2.memOk) (s.hostRead off n) := by
  unfold State.hostRead
  split
  · exact State.outsideRead_memOk ok
  · exact performs_refused
theorem evHostBar2Read_memOk {off n} (ok : s.memOk) : Gives State.memOk (evHostBar2Read off n s) := by
  unfold evHostBar2Read
  split
  · exact gives_none
  · split
    · next h => exact gives_some (State.hostRead_memOk ok _ h)
    · exact gives_none
    · exact gives_some (State.hostRefused_memOk ok)
theorem State.outsideWrite_memOk {p va l} (ok : s.memOk) : Performs State.memOk (s.outsideWrite p va l) := by
  unfold State.outsideWrite
  split
  · exact performs_refused
  · split
    · exact performs_done ok
    · split
      · next h => exact performs_done (State.homePut_memOk h ok)
      · split
        · exact performs_wait
        · exact performs_refused
theorem State.hostWrite_memOk {off l} (ok : s.memOk) : Performs State.memOk (s.hostWrite off l) := by
  unfold State.hostWrite
  split
  · exact State.outsideWrite_memOk ok
  · exact performs_refused
theorem evHostBar2Write_memOk {off bytes} (ok : s.memOk) : Gives State.memOk (evHostBar2Write off bytes s) := by
  unfold evHostBar2Write
  split
  · exact gives_none
  · split
    · next h => exact gives_some (State.hostWrite_memOk ok _ h)
    · exact gives_none
    · exact gives_some (State.hostRefused_memOk ok)
theorem State.bar0Word_memOk {off v} (ok : s.memOk) : (s.bar0Word off v).memOk := by
  unfold State.bar0Word
  split
  · split
    · exact State.restartAll_memOk ok
    · split
      · exact getD_keeps (State.beginRestart_memOk ok) ok
      · exact ok
  · split
    · exact State.mapDie_memOk ok
    · split <;> exact ok
theorem evBar0Write_memOk {off v} (ok : s.memOk) : Gives State.memOk (evBar0Write off v s) := by
  unfold evBar0Write
  split
  · split
    · exact gives_some (State.bar0Word_memOk ok)
    · exact gives_none
  · split
    · exact gives_some (State.bar0Word_memOk (State.bar0Word_memOk ok))
    · exact gives_none
theorem State.mboxReply_memOk {die reply status} (ok : s.memOk) : (s.mboxReply die reply status).memOk := ok
theorem evMboxAttestation_memOk (ok : s.memOk) : Gives State.memOk (evMboxAttestation s) := by
  unfold evMboxAttestation
  split
  · exact gives_some (State.mboxReply_memOk ok)
  · exact gives_none
theorem evMboxImageChunk_memOk (ok : s.memOk) : Gives State.memOk (evMboxImageChunk s) := by
  unfold evMboxImageChunk
  dsimp only
  split
  · exact gives_none
  · split <;> exact gives_some (State.mboxReply_memOk ok)
theorem evMboxImageCommit_memOk (ok : s.memOk) : Gives State.memOk (evMboxImageCommit s) := by
  unfold evMboxImageCommit
  dsimp only
  split
  · exact gives_none
  · split
    · exact gives_some (State.mboxReply_memOk ok)
    · split
      · exact gives_some (State.restartAll_memOk ok)
      · exact gives_some (State.mboxReply_memOk ok)
theorem evMboxFirmwareRequest_memOk {die reply refuse} (ok : s.memOk) : Gives State.memOk (evMboxFirmwareRequest die reply refuse s) := by
  unfold evMboxFirmwareRequest
  dsimp only
  split
  · exact gives_none
  · split
    · exact gives_some (State.mboxReply_memOk ok)
    · refine gives_some (State.mboxReply_memOk ?_)
      split
      · split <;> exact ok
      · exact ok
theorem evLarlanPortTrain_memOk {p} (ok : s.memOk) : Gives State.memOk (evLarlanPortTrain p s) := by
  unfold evLarlanPortTrain
  split
  · exact gives_some ok
  · exact gives_none
theorem evLarlanLaneLoss_memOk {p} (ok : s.memOk) : Gives State.memOk (evLarlanLaneLoss p s) := by
  unfold evLarlanLaneLoss
  split
  · exact gives_some (State.postError_memOk ok)
  · exact gives_none
theorem evLarlanKeyExpiry_memOk {p} (ok : s.memOk) : Gives State.memOk (evLarlanKeyExpiry p s) := by
  unfold evLarlanKeyExpiry
  split
  · exact gives_some ok
  · exact gives_none
theorem evLink_memOk {p} (ok : s.memOk) : Gives State.memOk (evLink p s) := by
  unfold evLink
  dsimp only
  split
  · exact gives_none
  · split
    · exact gives_some (State.syncBoot_memOk (State.discardPart_memOk (State.postError_memOk ok)))
    · exact gives_none
theorem evLarlanRemoteAccess_memOk {p acc} (ok : s.memOk) : Gives State.memOk (evLarlanRemoteAccess p acc s) := by
  unfold evLarlanRemoteAccess
  extract_lets x
  split
  split
  · exact gives_none
  · refine gives_ite gives_none ?_
    extract_lets t
    have kept : t.memOk := ok
    split
    · split
      · next h =>
          have w := State.outsideRead_memOk kept _ h
          exact gives_some w
      · exact gives_none
      · exact gives_some ok
    · split
      · next h =>
          have w := State.outsideWrite_memOk kept _ h
          exact gives_some w
      · exact gives_none
      · exact gives_some ok

/-! ## Every instruction and event -/

theorem exec_memOk {i} (ok : s.memOk) : Leads State.memOk (exec i s) := by
  unfold exec
  cases i with
  | pad4 => exact next_leads (State.mapCtx_memOk ok)
  | sMov => exact scalarOp_memOk ok
  | sMovi => exact scalarOp_memOk ok
  | sAdd => exact scalarBin_memOk ok
  | sSub => exact scalarBin_memOk ok
  | sMul => exact scalarBin_memOk ok
  | sDiv => exact scalarBin_memOk ok
  | sAnd => exact scalarBin_memOk ok
  | sOr => exact scalarBin_memOk ok
  | sXor => exact scalarBin_memOk ok
  | sShl => exact scalarBin_memOk ok
  | sShr => exact scalarBin_memOk ok
  | sSra => exact scalarBin_memOk ok
  | sMin => exact scalarBin_memOk ok
  | sMax => exact scalarBin_memOk ok
  | sCmp => exact scalarBin_memOk ok
  | sSel => exact scalarOp_memOk ok
  | sClz => exact scalarOp_memOk ok
  | sPopc => exact scalarOp_memOk ok
  | sBfx => exact scalarBin_memOk ok
  | sLea => exact scalarOp_memOk ok
  | sRdsr => exact issue_leads ok fun _ => yields_ok (State.wrS_memOk ok)
  | sWrsr => exact execSWrsr_memOk ok
  | sMovc => exact execSMovc_memOk ok
  | sRdk => exact scalarOp_memOk ok
  | sWrk => exact issue_leads ok fun _ => yields_ok (State.wrK_memOk ok)
  | bNop => exact issue_leads ok fun _ => yields_ok ok
  | bJmp => exact issueRaw_leads ok fun _ => State.branchTo_memOk ok
  | bBr => exact execBBr_memOk ok
  | bBrk => exact execBBrk_memOk ok
  | bCall => exact issueRaw_leads ok fun _ => yields_bind (State.branchTo_memOk ok) fun _ w => yields_ok (State.wrS_memOk w)
  | bRet => exact issueRaw_leads ok fun _ => State.branchTo_memOk ok
  | bSplit => exact execBSplit_memOk ok
  | bJoin => exact execBJoin_memOk ok
  | bExit => exact execBExit_memOk ok
  | bMeld => exact issue_leads ok fun _ => yields_ok (State.upd_memOk ok)
  | bUnmeld => exact issue_leads ok fun _ => yields_any fun _ => yields_ok (State.upd_memOk ok)
  | bMtab => exact execBMtab_memOk ok
  | bWcnt => exact execBWcnt_memOk ok
  | bTrap => exact issueRaw_leads ok fun _ => yields_ok (State.userTrap_memOk ok)
  | bTret => exact issueRaw_leads ok fun _ => yields_any fun _ => yields_ok (State.trapReturn_memOk ok)
  | bDbg => exact issue_leads ok fun _ => yields_ok (State.stopWave_memOk ok)
  | vMov => exact vectorUn_memOk ok
  | vMovs => exact vectorOp_memOk ok
  | vMovi => exact vectorOp_memOk ok
  | vAdd => exact vectorExact_memOk ok
  | vSub => exact vectorExact_memOk ok
  | vMul => exact execVMul_memOk ok
  | vMad => exact vectorOp_memOk ok
  | vAnd => exact vectorBin_memOk ok
  | vOr => exact vectorBin_memOk ok
  | vXor => exact vectorBin_memOk ok
  | vShl => exact vectorBin_memOk ok
  | vShr => exact vectorBin_memOk ok
  | vSra => exact vectorBin_memOk ok
  | vMin => exact vectorBin_memOk ok
  | vMax => exact vectorBin_memOk ok
  | vAbs => exact vectorUn_memOk ok
  | vCmp => exact issue_leads ok fun _ => yields_ok (State.wrK_memOk ok)
  | vSel => exact vectorOp_memOk ok
  | vClz => exact vectorUn_memOk ok
  | vPopc => exact vectorUn_memOk ok
  | vBfx => exact vectorBin_memOk ok
  | vDot4 => exact vectorOp_memOk ok
  | vLid => exact vectorOp_memOk ok
  | vRand => exact issue_leads ok fun _ => yields_ok (State.upd_memOk (State.wrV_memOk ok))
  | vRdflag => exact vectorOp_memOk ok
  | vClrflag => exact issue_leads ok fun _ => yields_ok (State.upd_memOk ok)
  | fAdd => exact floatBin_memOk ok
  | fSub => exact floatBin_memOk ok
  | fMul => exact floatBin_memOk ok
  | fFma => exact floatOp_memOk ok
  | fMin => exact floatOp_memOk ok
  | fMax => exact floatOp_memOk ok
  | fCmp => exact execFCmp_memOk ok
  | fCls => exact vectorOp_memOk ok
  | fRcp => exact floatFn_memOk ok
  | fRsq => exact floatFn_memOk ok
  | fSqrt => exact floatFn_memOk ok
  | fDiv => exact floatLong_memOk ok
  | fExp2 => exact floatFn_memOk ok
  | fLog2 => exact floatFn_memOk ok
  | fSin => exact floatFn_memOk ok
  | fCos => exact floatFn_memOk ok
  | fCvt => exact issueRaw_leads ok fun _ => yields_ok (State.finishFloat_memOk (State.stepRng_memOk (State.wrV_memOk ok)))
  | fPack => exact execFPack_memOk ok
  | fUnpack => exact execFUnpack_memOk ok
  | fAmax => exact issue_leads ok fun _ => yields_any fun _ => yields_ok (State.mapQuad_memOk (State.addPend_memOk ok))
  | xShfl => exact issue_leads ok fun _ => State.pendV_memOk ok
  | xBcast => exact issue_leads ok fun _ => State.pendV_memOk ok
  | xVote => exact crossMask_memOk ok
  | xRed => exact issue_leads ok fun _ => yields_any fun _ => yields_ok (State.addPend_memOk ok)
  | xScan => exact issue_leads ok fun _ => yields_any fun _ => yields_ok (State.addPend_memOk ok)
  | xPrmt => exact issue_leads ok fun _ => State.pendV_memOk ok
  | xRdlane => exact issue_leads ok fun _ => State.pendS_memOk ok
  | xWrlane => exact issue_leads ok fun _ => State.pendV_memOk ok
  | xCnt => exact crossMask_memOk ok
  | xFirst => exact crossMask_memOk ok
  | lLd => exact execLLd_memOk ok
  | lSt => exact execLSt_memOk ok
  | lLdt => exact execLLdt_memOk ok
  | lStt => exact execLStt_memOk ok
  | lAtom => exact lsAtomic_memOk ok
  | lCas => exact lsAtomic_memOk ok
  | lFill => exact execLFill_memOk ok
  | lSwz => exact execLSwz_memOk ok
  | gLd => exact issue_leads ok fun _ => loadBody_memOk ok
  | gSt => exact execGSt_memOk ok
  | gLdt => exact execGLdt_memOk ok
  | gStt => exact execGStt_memOk ok
  | gPf => exact execGPf_memOk ok
  | gLdnf => exact issue_leads ok fun _ => loadBody_memOk ok
  | aRmw => exact issue_leads ok fun _ => atomBody_memOk ok
  | aCas => exact issue_leads ok fun _ => atomBody_memOk ok
  | aRed => exact issue_leads ok fun _ => atomBody_memOk ok
  | aLdacq => exact issue_leads ok fun _ => loadBody_memOk ok
  | aStrel => exact execAStrel_memOk ok
  | aFence => exact execAFence_memOk ok
  | aBarInit => exact execABarInit_memOk ok
  | aBarArrive => exact execABarArrive_memOk ok
  | aBarWait => exact barrierOp_memOk ok fun _ _ _ w => yields_any fun _ => yields_ok (State.barWait_memOk w)
  | aBarSync => exact execABarSync_memOk ok
  | aBarExpect => exact barrierOp_memOk ok fun _ _ _ w => yields_ok (State.putObject_memOk w)
  | aBarTest => exact execABarTest_memOk ok
  | aTktTake => exact execATktTake_memOk ok
  | aTktWait => exact issueRaw_leads ok fun _ => yields_any fun _ => yields_ok (State.sendWait_memOk ok)
  | aTktServe => exact execATktServe_memOk ok
  | aWatch => exact issueRaw_leads ok fun _ => yields_any fun _ => yields_ok (State.sendWait_memOk ok)
  | mMma => exact matrixOp_memOk ok
  | mMmt => exact matrixOp_memOk ok
  | mEnq => exact execMEnq_memOk ok
  | mZero => exact issue_leads ok fun _ => yields_any fun _ => yields_any fun _ => State.postTask_memOk ok
  | mLdacc => exact accMove_memOk ok
  | mStacc => exact accMove_memOk ok
  | mCvst => exact execMCvst_memOk ok
  | mRstat => exact execMRstat_memOk ok
  | mAmax => exact execMAmax_memOk ok
  | mResv => exact issue_leads ok fun _ => State.pendS_memOk (State.mapTeam_memOk ok)
  | qSpawn => exact launchOp_memOk ok
  | qLaunch => exact launchOp_memOk ok
  | qFwait => exact execQFwait_memOk ok
  | qFtest => exact execQFtest_memOk ok
  | qFcancel => exact execQFcancel_memOk ok
  | qFmov => exact execQFmov_memOk ok
  | qClaim => exact execQClaim_memOk ok
  | qGive => exact issue_leads ok fun _ => yields_any fun _ => yields_any fun _ => yields_ok (State.upd_memOk ok)
  | qLive => exact issue_leads ok fun _ => yields_ok (State.upd_memOk ok)
  | qYield => exact issue_leads ok fun _ => yields_ok (State.upd_memOk ok)
  | qSleep => exact execQSleep_memOk ok
  | eCopy => exact issue_leads ok fun _ => State.postCopy_memOk ok
  | eCopy2 => exact issue_leads ok fun _ => State.postCopy_memOk ok
  | eGath => exact issue_leads ok fun _ => State.postCopy_memOk ok
  | eScat => exact issue_leads ok fun _ => State.postCopy_memOk ok
  | eFill => exact issue_leads ok fun _ => State.postCopy_memOk ok
  | eBcast => exact issue_leads ok fun _ => State.postCopy_memOk ok
  | eRkinit => exact execERkinit_memOk ok
  | eRkstep => exact execERkstep_memOk ok
  | eRkread => exact issue_leads ok fun _ => yields_any fun _ => State.postRick_memOk ok
  | eRkld => exact issue_leads ok fun _ => yields_any fun _ => State.postRick_memOk ok
  | eRkst => exact issue_leads ok fun _ => yields_any fun _ => State.postRick_memOk ok
  | eRksave => exact checkpointOp_memOk ok
  | eRkrest => exact checkpointOp_memOk ok
  | eRkstat => exact execERkstat_memOk ok
  | kvBind => exact execKvBind_memOk ok
  | kvUnbind => exact execKvUnbind_memOk ok
  | kvPop => exact execKvPop_memOk ok
  | kvAck => exact execKvAck_memOk ok
  | kvAckFut => exact execKvAckFut_memOk ok
  | kvCur => exact issue_leads ok fun _ => yields_any fun _ => State.pendS_memOk ok
  | kvApp => exact issue_leads ok fun _ => yields_any fun _ => yields_any fun _ => kvFutOp_memOk ok
  | kvFind => exact kvPrefixOp_memOk ok
  | kvIns => exact kvPrefixOp_memOk ok
  | kvRel => exact kvPrefixOp_memOk ok
  | kvTrunc => exact issue_leads ok fun _ => kvFutOp_memOk ok
  | kvRope => exact issue_leads ok fun _ => yields_any fun _ => yields_ok (State.addPend_memOk ok)
  | kvRpset => exact execKvRpset_memOk ok
  | kvPush => exact execKvPush_memOk ok
  | kvPushEnd => exact execKvPushEnd_memOk ok
  | kvPushStop => exact execKvPushStop_memOk ok
  | cAnew => exact issue_leads ok fun _ => yields_any fun _ => yields_ok (State.mapPart_memOk (State.addPend_memOk ok))
  | cSeal => exact masterFut_memOk ok
  | cDrop => exact masterFut_memOk ok
  | cAq => exact execCAq_memOk ok
  | cWbr => exact rangeOp_memOk ok
  | cInvr => exact rangeOp_memOk ok
  | cCtnew => exact treeOp_memOk ok
  | cCtenr => exact execCCtenr_memOk ok
  | cCtenrWithdraw => exact execCCtenrWithdraw_memOk ok
  | cCtpar => exact treeOp_memOk ok
  | cCtrd => exact treeOp_memOk ok
  | cSettle => exact execCSettle_memOk ok
  | cCtdel => exact treeOp_memOk ok
  | yRdpr => exact issue_leads ok fun _ => yields_ok (State.wrS_memOk ok)
  | yWrpr => exact issue_leads ok fun _ => yields_any fun _ => yields_ok (State.writePr_memOk ok)
  | yMap => exact execYMap_memOk ok
  | yMapFilter => exact execYMapFilter_memOk ok
  | yUnmap => exact execYUnmap_memOk ok
  | yUnmapFilter => exact execYUnmapFilter_memOk ok
  | yXinvInval => exact issue_leads ok fun _ => State.sendInval_memOk ok
  | yXinvReplay => exact issue_leads ok fun _ => State.instantFut_memOk (State.endEpisodes_memOk ok)
  | yXinvFail => exact issue_leads ok fun _ => State.instantFut_memOk (State.endEpisodes_memOk ok)
  | yRegn => exact execYRegn_memOk ok
  | yWinRead => exact execYWinRead_memOk ok
  | yWinWrite => exact execYWinWrite_memOk ok
  | yWinStop => exact execYWinStop_memOk ok
  | yCtxs => exact execYCtxs_memOk ok
  | yCtxl => exact execYCtxl_memOk ok
  | yEretResume => exact issue_leads ok fun _ => yields_any fun _ => yields_ok (State.resume_memOk ok)
  | yEretStep => exact issue_leads ok fun _ => yields_any fun _ => yields_ok (State.resume_memOk ok)
  | yEretKillThreads => exact execYEretKillThreads_memOk ok
  | yEretKillTeam => exact execYEretKillTeam_memOk ok
  | yIdle => exact issueRaw_leads ok fun _ => yields_any fun _ => yields_ok (State.parkAgent_memOk ok)
  | resultReturn => exact event_leads ok (evResultReturn_memOk ok)
  | faultRecordPost => exact event_leads ok (evFaultRecordPost_memOk ok)
  | breakpointHit => exact event_leads ok (evBreakpointHit_memOk ok)
  | waveRetire => exact event_leads ok (evWaveRetire_memOk ok)
  | teamRelease => exact event_leads ok (evTeamRelease_memOk ok)
  | groupComplete => exact event_leads ok (evGroupComplete_memOk ok)
  | gangPlacement => exact event_leads ok (evGangPlacement_memOk ok)
  | claimGrant => exact event_leads ok (evClaimGrant_memOk ok)
  | claimFail => exact event_leads ok (evClaimFail_memOk ok)
  | sleepExpiry => exact event_leads ok (evSleepExpiry_memOk ok)
  | arenaMasterRequest => exact event_leads ok (evArenaMasterRequest_memOk ok)
  | arenaBroadcastApply => exact event_leads ok (evArenaBroadcastApply_memOk ok)
  | drainWatermark => exact event_leads ok (evDrainWatermark_memOk ok)
  | sealComplete => exact event_leads ok (evSealComplete_memOk ok)
  | translationWalk => exact event_leads ok (evTranslationWalk_memOk ok)
  | homeSliceOperation => exact execHomeSliceOperation_memOk ok
  | l1Fill => exact event_leads ok (evL1Fill_memOk ok)
  | rollUpDeltaApply => exact event_leads ok (evRollUpDeltaApply_memOk ok)
  | ticketWaiterRetry => exact event_leads ok (evTicketWaiterRetry_memOk ok)
  | amaxUpdateApply => exact event_leads ok (evAmaxUpdateApply_memOk ok)
  | barrierHalfComplete => exact event_leads ok (evBarrierHalfComplete_memOk ok)
  | copyBytesLand => exact event_leads ok (evCopyBytesLand_memOk ok)
  | copyComplete => exact event_leads ok (evCopyComplete_memOk ok)
  | scoreboardEntryFree => exact event_leads ok (evScoreboardEntryFree_memOk ok)
  | tilePassGrant => exact event_leads ok (evTilePassGrant_memOk ok)
  | tilePassComplete => exact event_leads ok (evTilePassComplete_memOk ok)
  | tileTaskComplete => exact event_leads ok (evTileTaskComplete_memOk ok)
  | rickOperationComplete => exact event_leads ok (evRickOperationComplete_memOk ok)
  | changeTreeAgentRequest => exact event_leads ok (evChangeTreeAgentRequest_memOk ok)
  | enrollmentApplied => exact event_leads ok (evEnrollmentApplied_memOk ok)
  | remapFilterApply => exact event_leads ok (evRemapFilterApply_memOk ok)
  | translationCacheInvalidation => exact event_leads ok (evTranslationCacheInvalidation_memOk ok)
  | eccCorrected => exact event_leads ok (evEccCorrected_memOk ok)
  | bankMarkFailed => exact event_leads ok (evBankMarkFailed_memOk ok)
  | eccUncorrectable => exact event_leads ok (evEccUncorrectable_memOk ok)
  | hostBar2Read => exact event_leads ok (evHostBar2Read_memOk ok)
  | hostBar2Write => exact event_leads ok (evHostBar2Write_memOk ok)
  | bar0Write => exact event_leads ok (evBar0Write_memOk ok)
  | restartModule => exact event_leads ok (evRestartModule_memOk ok)
  | restartPartition => exact event_leads ok (evRestartPartition_memOk ok)
  | mboxAttestation => exact event_leads ok (evMboxAttestation_memOk ok)
  | mboxImageChunk => exact event_leads ok (evMboxImageChunk_memOk ok)
  | mboxImageCommit => exact event_leads ok (evMboxImageCommit_memOk ok)
  | mboxFirmwareRequest => exact event_leads ok (evMboxFirmwareRequest_memOk ok)
  | larlanPortTrain => exact event_leads ok (evLarlanPortTrain_memOk ok)
  | larlanLaneLoss => exact event_leads ok (evLarlanLaneLoss_memOk ok)
  | larlanKeyExpiry => exact event_leads ok (evLarlanKeyExpiry_memOk ok)
  | link => exact event_leads ok (evLink_memOk ok)
  | larlanRemoteAccess => exact event_leads ok (evLarlanRemoteAccess_memOk ok)
  | moduleStart => exact event_leads ok (evModuleStart_memOk ok)
  | watchdogExpiry => exact event_leads ok (evWatchdogExpiry_memOk ok)
  | bringupOvertemp => exact event_leads ok (evBringupOvertemp_memOk ok)
  | thermalThrottle => exact event_leads ok (evThermalThrottle_memOk ok)
  | thermalPowerOff => exact event_leads ok (evThermalPowerOff_memOk ok)
  | powerLoss => exact event_leads ok (evPowerLoss_memOk ok)
  | l1Eviction => exact event_leads ok (evL1Eviction_memOk ok)
  | sliceEviction => exact event_leads ok (evSliceEviction_memOk ok)
  | recordBlocking => exact event_leads ok (evRecordBlocking_memOk ok)
  | waveSwitchOut => exact event_leads ok (evWaveSwitchOut_memOk ok)
  | prFaultqWrite => exact event_leads ok (evPrFaultqWrite_memOk ok)
  | prFqconsWrite => exact event_leads ok (evPrFqconsWrite_memOk ok)
  | idleTimeLimit => exact event_leads ok (evIdleTimeLimit_memOk ok)
  | zeroFillPageDone => exact event_leads ok (evZeroFillPageDone_memOk ok)
  | ashSweepPass => exact event_leads ok (evAshSweepPass_memOk ok)
  | waveSwitchResume => exact event_leads ok (evWaveSwitchResume_memOk ok)
  | regionDrainSignal => exact event_leads ok (evRegionDrainSignal_memOk ok)

/-! ## What moves next -/

theorem State.stopFrag_memOk {a fr code addr} (ok : s.memOk) : (s.stopFrag a fr code addr).memOk :=
  State.stopWave_memOk ok
theorem State.parkPoint_memOk {a c} (ok : s.memOk) : Gives State.memOk (s.parkPoint a c) := by
  unfold State.parkPoint
  split
  · exact gives_none
  · split
    · exact gives_some (State.stopFailed_memOk ok)
    · split
      · exact gives_none
      · exact gives_some (State.stopFor_memOk (State.setCtx_memOk ok))
theorem State.fetched_memOk {a frag} (ok : s.memOk) : (s.fetched a frag).memOk := by
  unfold State.fetched
  split
  · exact getD_keeps (State.fetchLink_memOk ok) ok
  · exact ok
theorem State.pass1_memOk {w l} (ok : s.memOk) : (s.pass1 w l).memOk := by
  unfold State.pass1
  refine foldl_keeps State.memOk (fun _ _ w1 => ?_) ok
  split
  · exact w1
  · exact State.mapCtx_memOk w1
theorem State.arbitrate_memOk {a c frag i} (ok : s.memOk) : Picks State.memOk (s.arbitrate a c frag i) := by
  unfold State.arbitrate
  split
  · exact picks_run (State.fetched_memOk ok)
  · split
    · exact picks_run (State.fetched_memOk ok)
    · exact picks_run (State.fetched_memOk (State.pass1_memOk ok))
theorem State.tryIssue_memOk {a c frag0} (ok : s.memOk) : Picks State.memOk (s.tryIssue a c frag0) := by
  unfold State.tryIssue
  dsimp only
  split
  · exact picks_done ok
  · split
    · split
      · exact picks_done ok
      · split
        · exact picks_done (State.stopWave_memOk (State.setCtx_memOk ok))
        · split
          · exact picks_done (State.stopFrag_memOk ok)
          · exact picks_done (State.holdFetch_memOk ok)
          · split
            · exact picks_done ok
            · split
              · exact picks_run (State.fetched_memOk ok)
              · split
                · exact picks_run ok
                · exact State.arbitrate_memOk ok
                · exact picks_done (State.stopFrag_memOk ok)
    · split
      · exact picks_done ok
      · split
        · exact picks_done (State.stopWave_memOk (State.setCtx_memOk ok))
        · split
          · exact picks_done (State.stopFrag_memOk ok)
          · exact picks_done (State.holdFetch_memOk ok)
          · split
            · exact picks_done ok
            · split
              · exact picks_run (State.fetched_memOk ok)
              · split
                · exact picks_run ok
                · exact State.arbitrate_memOk ok
                · exact picks_done (State.stopFrag_memOk ok)
theorem State.unpark_memOk {a c} (ok : s.memOk) : Gives State.memOk (s.unpark a c) := by
  unfold State.unpark
  dsimp only
  split
  · split
    · exact gives_some (State.mapCtx_memOk ok)
    · exact gives_none
  · split
    · exact gives_none
    · refine gives_some (State.mapCtx_memOk ?_)
      split
      · exact State.acquire_memOk ok
      · exact ok
  · split
    · exact gives_none
    · refine gives_some (State.mapCtx_memOk ?_)
      split
      · exact State.acquire_memOk ok
      · exact ok
  · split
    · exact gives_some (State.mapCtx_memOk ok)
    · exact gives_none
  · split
    · exact gives_some (State.mapCtx_memOk ok)
    · exact gives_none
  · exact State.servePop_memOk ok
  · exact State.idleWake_memOk ok
  · exact gives_none
theorem State.turnIssue_memOk {a frag} (ok : s.memOk) : Picks State.memOk (s.turnIssue a frag) := by
  unfold State.turnIssue
  dsimp only
  split
  · exact picks_done ok
  · split
    · exact picks_done ok
    · split
      · next h => exact picks_done (State.parkPoint_memOk (s := { s with cur := a, frag := frag }) ok _ h)
      · split
        · exact State.tryIssue_memOk ok
        · exact picks_done (getD_keeps (State.unpark_memOk ok) ok)
theorem State.pass_memOk {die n} (ok : s.memOk) : (s.pass die n).memOk :=
  ok
theorem State.takeTurn_memOk {a} (ok : s.memOk) : Picks State.memOk (s.takeTurn a) := by
  unfold State.takeTurn
  split
  · exact State.turnIssue_memOk ok
  · split
    · exact picks_run ok
    · exact picks_done ok
  · exact picks_done (getD_keeps (State.goOn_memOk ok) ok)
  · exact picks_done (State.pass_memOk ok)
theorem State.pick_memOk (ok : s.memOk) : Picks State.memOk s.pick := by
  unfold State.pick
  split <;> exact State.takeTurn_memOk ok
theorem step_memOk (ok : s.memOk) : Leads State.memOk (step s) := by
  have picked : Picks State.memOk s.pick := State.pick_memOk ok
  unfold step
  generalize s.pick = k at picked ⊢
  cases k with
  | run i t => exact exec_memOk picked
  | done t => exact next_leads picked

end

/-- Settles O57: every instruction, event and turn writes memory only by the operations that keep its canonical form. -/
theorem memoryInvariant : Obligations.MemoryInvariant := by
  unfold Obligations.MemoryInvariant
  exact fun s t h ok => step_memOk ok t h

end Sys2Proof.Machine
